-- ==== Sys2Proof/Word.lean ====
section
/-! DEFINITION. The word types of the CK96: registers are 32 bits wide (R4), a timebase count and a 64-bit
quantity are 64 bits, a vector register is 512 bits (Table 6-1). -/
namespace Sys2Proof

/-- One byte of a frame or of device memory. -/
abbrev Byte := BitVec 8
/-- One 32-bit register or memory word (R4). -/
abbrev Word := BitVec 32
/-- A 64-bit quantity (R4). -/
abbrev Quad := BitVec 64
/-- A vector register or a token's payload (Table 6-1, Table 6-3). -/
abbrev Vec := BitVec 512

end Sys2Proof
end

