-- ==== Sys2Proof/Syntax.lean ====
section
/-! DEFINITION. The commands of the block: one constructor for each row of spec/opcode_table.json, with the
operands that say which port, frame, slot, unit or value the happening concerns. -/
namespace Sys2Proof

/-- A frame arriving on an Ethernet port: its bytes from the destination MAC through the FCS as received (R57, R236),
how many of them have been handed to the bucker, whether the frame has ended, the byte range each RS(544,514) codeword
carries (R37), and the sixteenths of a raw count, 0 to 63, past the last tick boundary at which its first bit crossed the cuff plane (R293). -/
structure FrameIn where
  eport : Nat
  sub : Nat
  bytes : List Byte
  handed : Nat
  ended : Bool
  cws : List (Nat × Nat)
  deriving DecidableEq, Repr

/-- A link frame as it arrives, from its link header through its FCS (R264), with the sixteenths of a ns of its arrival (R293) and
whether every verdict of the frame is good (R267). -/
structure LinkFrame where
  sub : Nat
  bytes : List Byte
  good : Bool
  deriving DecidableEq, Repr

/-- A frame received on a neighbour-side Ethernet port. -/
structure LinkIn extends LinkFrame where
  eport : Nat
  deriving DecidableEq, Repr

/-- A read of BAR0: the byte offset, and the bytes asked for (R4). -/
structure BarRead where
  off : Nat
  size : Nat
  deriving DecidableEq, Repr

/-- The end of a batch pass of a handle: whether a streamed part of it met an uncorrectable word (Table 14-7). -/
structure PassEnd where
  handle : Nat
  ue : Bool
  deriving DecidableEq, Repr

/-- The token of an evaluation or transfer that ends, by its number: whether its parity is right as it enters its queue, and that of the
second result token where there is one (R138). -/
structure TokenEnd where
  id : Nat
  parityOk : Bool
  second : Bool := true
  deriving DecidableEq, Repr

/-- The end of a context's restore: whether its checkpoint could be read (R206). -/
structure RestoreEnd where
  ctx : Nat
  readable : Bool
  deriving DecidableEq, Repr

/-- A unit by the fields of a repair map entry (Table 15-1): LEVEL, DIE, CMPT, STAND, UNIT. -/
structure UnitId where
  level : Nat
  die : Nat
  cmpt : Nat
  stand : Nat
  unit : Nat
  deriving DecidableEq, Repr

/-- Where the background scrub finds what it finds (R330, Table 14-7), with what its address operand is there: an aperture
offset within the die (Table 14-5); on the hub die a conversation number, a message slot, 2^32 × conversation + SEQ of a cached
reply, an operation of the boom, or the number of a word of any other table. -/
inductive SramArea where
  | localSram | sharedSram | treeStore | laneBuffer | instr
  | convTable | msgTable | replayCache | boomBuffer | hub
  deriving DecidableEq, Repr

/-- What an ECC check of one word finds (R331, R333): nothing, an error of one bit that is corrected, or an uncorrectable
error; `met`: a corrected error that a read of the data plane or of an aperture meets, not a scrub's. -/
inductive EccErr where
  | none | corrected (bit : Nat) | uncorrectable | met (bit : Nat)
  deriving DecidableEq, Repr

/-- The concurrent checks of Table 15-3 as a check event reports them: a residue or register parity mismatch of a context slot,
token parity, an uncorrectable error in a core's memories, a hard fault of R332, a shadow mismatch, a duplicated datapath or
digest pair that differs, a partial late over a bridge, a second overrun. -/
inductive CheckKind where
  | residue (slot : Nat) | parity (slot : Nat) | token | uncorrectable | hardEcc | shadow | duplicate | bridge | overrun
  deriving DecidableEq, Repr

/-- A reply record of the Kwain link (Table 15-7). -/
structure TwinRec where
  port : Nat
  ownBad : Bool
  released : Bool
  occ : Nat
  fcs : Nat
  tdig : Nat
  deriving DecidableEq, Repr

/-- What a pairing exchange carries (R369): the partner's identity, its configuration digest and its role. -/
structure TwinHello where
  identity : Nat
  digest : Nat
  role : Bool
  clean : Bool
  deriving DecidableEq, Repr

/-- A rail at a sampling boundary (R394, R405): at or above VWARN, below it, or below VRESET; of a rail with no VRESET, lost. -/
inductive Rail where
  | good | warn | reset
  deriving DecidableEq, Repr

/-- One DMA descriptor as the channel read it from host memory (R380), the host data of a host-to-device transfer,
and whether the PCIe transfer completed unsuccessfully. -/
structure HostDesc where
  src : Nat
  dst : Nat
  len : Nat
  dir : Nat
  irq : Bool
  last : Bool
  next : Nat
  data : List Byte
  pcieErr : Bool
  deriving DecidableEq, Repr

/-- A firmware slot of the boot flash as the mask ROM judges it (R375). -/
structure FwSlot where
  rootOk : Bool
  sigOk : Bool
  svn : Nat
  digest : List Byte
  deriving DecidableEq, Repr

/-- A signed record of the boot flash (R376): TYPE, record number, body, and whether its signature verifies. -/
structure FlashRec where
  type : Nat
  num : Nat
  body : List Byte
  sigOk : Bool
  deriving DecidableEq, Repr

/-- What a cold start meets (R373 to R378): the five die identifiers, the two firmware slots, the flash counters, the signed records that the
firmware reads (of a number that it wrote itself, in place of what it wrote), the units that fail self-test, the tract dies whose bridge
fails its lane check (R12), those whose DRAM port fails (R17), the (die, lane) of DRAM lanes that fail in training (R335), and whether a hub-die
unit outside Table 15-2 fails. -/
structure ColdEnv where
  puf : List Nat
  slotA : FwSlot
  slotB : FwSlot
  counter0 : Nat
  counter1 : Nat
  records : List FlashRec
  failing : List UnitId
  bridges : List Nat := []
  ports : List Nat := []
  lanes : List (Nat × Nat) := []
  hubBad : Bool
  portMax : Nat
  phase : Nat
  temps : List Nat
  deriving DecidableEq, Repr

/-- A JTAG access (R400): boundary scan, or a unit's test port with or without the owner key's authorisation. -/
inductive JtagReq where
  | boundaryScan
  | unitPort (unit : UnitId) (authorised : Bool)
  deriving DecidableEq, Repr

/-- A board controller request over the SMBus target (R388): a register write, a commit, a mailbox command or a
register read. -/
inductive SmbusReq where
  | writeReg (off : Nat) (val : Word)
  | readReg (off : Nat)
  deriving DecidableEq, Repr

/-- The commands, in the order of the table. -/
inductive Instr where
  /-- REGISTER_WRITE (R6). A write to a register field that has no row of its own takes effect according to the field's access type. -/
  | registerWrite (off size : Nat) (val : BitVec 64)
  /-- REG64_LO_READ (R4). A full read of a _LO register returns its value and latches the matching _HI value. -/
  | reg64LoRead (a : BarRead)
  /-- REG64_LO_WRITE (R4). A write to the _LO half of a 64-bit RW quantity is held and not yet applied. -/
  | reg64LoWrite (off : Nat) (val : Word)
  /-- REG64_HI_WRITE (R4). A write to the _HI half applies the whole 64-bit value, made with the held or current _LO half. -/
  | reg64HiWrite (off : Nat) (val : Word)
  /-- SEQ_INFO_READ (R212). A read of SEQ_INFO[0] returns P and latches SEQ_INFO[1] to [3] for the selected entry. -/
  | seqInfoRead (die : Nat)
  /-- CONV_INFO_READ (R258). A read of CONV_INFO[0] returns B and latches CONV_INFO[1] and [2] for the selected conversation. -/
  | convInfoRead
  /-- MAPENT_READ (R372). A read of RPR_MAPENT_LO returns the selected repair map entry and latches RPR_MAPENT_HI. -/
  | mapentRead
  /-- TIME_NOW_READ (R309). A read of TIME_NOW_SEC_LO latches the seconds, ns and fraction of the same raw count. -/
  | timeNowRead
  /-- COMMIT_GO (R386). A write of GCTL_COMMIT.GO starts validation of the shadow set, or is ignored while a commit is busy. -/
  | commitGo
  /-- COMMIT_VALIDATED (R386). Validation of the shadow set completes, and the commit either waits for its boundary or is rejected. -/
  | commitValidated
  /-- COMMIT_APPLY (R386). A validated commit applies atomically at the first tick boundary after validation. -/
  | commitApply
  /-- MODE_GAP_END (R311). The gap of an ordered copy after a mode change ends, and the copy may admit in the new mode. -/
  | modeGapEnd (handle copy : Nat)
  /-- FRAME_RECEIVE (R63). An arriving frame is classified by its selection key and a handler is chosen, or the frame is discarded. -/
  | frameReceive (f : FrameIn)
  /-- HEAD_START (R58). A head starts on a free head context once its handler has been chosen. -/
  | headStart (frame : Nat)
  /-- HEAD_RESUME (R66). A head parked on a window byte resumes in the cycle the byte is handed over. -/
  | headResume (frame handed : Nat) (ended : Bool)
  /-- PRS_NOP (R68). The parser instruction NOP does nothing. -/
  | prsNop (head : Nat)
  /-- PRS_LD (R68). The parser instruction LD loads 1, 2 or 4 window bytes into a head register. -/
  | prsLd (head : Nat)
  /-- PRS_LI (R68). The parser instruction LI loads an immediate into a head register. -/
  | prsLi (head : Nat)
  /-- PRS_ADD (R68). The parser instruction ADD adds a register or immediate modulo 2^32. -/
  | prsAdd (head : Nat)
  /-- PRS_SUB (R68). The parser instruction SUB subtracts a register or immediate modulo 2^32. -/
  | prsSub (head : Nat)
  /-- PRS_AND (R68). The parser instruction AND takes the bitwise AND. -/
  | prsAnd (head : Nat)
  /-- PRS_OR (R68). The parser instruction OR takes the bitwise OR. -/
  | prsOr (head : Nat)
  /-- PRS_SHR (R68). The parser instruction SHR shifts right with zero fill. -/
  | prsShr (head : Nat)
  /-- PRS_SHL (R68). The parser instruction SHL shifts left. -/
  | prsShl (head : Nat)
  /-- PRS_BFX (R68). The parser instruction BFX extracts a bit field. -/
  | prsBfx (head : Nat)
  /-- PRS_J (R68). The parser instruction J jumps forward by its displacement. -/
  | prsJ (head : Nat)
  /-- PRS_JC (R69). The parser instruction JC jumps forward when an unsigned comparison holds. -/
  | prsJc (head : Nat)
  /-- KEYN (R70). KEYN converts n packed window fields into sample slot keys. -/
  | keyn (head : Nat)
  /-- KEYR (R70). KEYR converts the low bytes of a register into one sample slot key. -/
  | keyr (head : Nat)
  /-- META (R68). META writes register bytes into the message metadata. -/
  | metaWrite (head : Nat)
  /-- SETF (R73). SETF sets a descriptor field from a register. -/
  | setf (head : Nat)
  /-- CHDR (R74). CHDR checks the Chete request header and sets the descriptor fields from it, or fails the head MALFORMED. -/
  | chdr (head : Nat)
  /-- DISPATCH (R75). DISPATCH makes the admission checks in order and dispatches the message or answers it. -/
  | dispatch (head : Nat)
  /-- FAIL (R67). FAIL ends the head with an answer carrying its status code. -/
  | fail (head : Nat)
  /-- DROP (R67). DROP discards the frame with no answer. -/
  | drop (head : Nat)
  /-- MESSAGE_RERUN (R36). A message whose speculatively consumed codeword decodes as corrected is run again from the corrected bytes. -/
  | messageRerun (frame : Nat)
  /-- FEC_SYNDROME_RESULT (R37). A codeword's syndrome result reaches the gate as the FEC verdict. -/
  | fecSyndromeResult (quad : Nat) (on : List (Nat × Nat)) (zero : Bool)
  /-- FEC_CORRECTION_RESULT (R37). A codeword's correction result reaches the gate and decides the cause. -/
  | fecCorrectionResult (quad : Nat) (on : List (Nat × Nat × List (Nat × Byte))) (ok : Bool)
  /-- FCS_VERDICT (R37). A frame's FCS verdict reaches the gate. -/
  | fcsVerdict (frame : Nat)
  /-- SPEC_SUPPRESS (R35). Speculative release on a quad is suppressed from the next tick boundary after the threshold or an uncorrectable codeword. -/
  | specSuppress (quad : Nat)
  /-- SPEC_WINDOW_END (R35). A 1 ms window ends, and suppression lifts when nothing happened in it. -/
  | specWindowEnd (quad : Nat)
  /-- REPLY_BUILD (R49). The reply builder fills the template, places the result block and collects the unit-check verdicts. -/
  | replyBuild (reply : Nat)
  /-- REPLY_TRANSMIT_START (R39). A reply's first byte enters transmission once the egress port is free and not paused. -/
  | replyTransmitStart (reply : Nat)
  /-- HELD_UNIT_DUE (R40). At the held unit's due instant the gate sends it, or inserts one 8-byte extension unit. -/
  | heldUnitDue (reply : Nat)
  /-- EXTENSION_EXHAUSTED (R42). A reply reaches 2,048 bytes of extension with a verdict pending, is stomped and kept for reissue. -/
  | extensionExhausted (reply : Nat)
  /-- REISSUE (R42). A kept reply is reissued with PAD clear at the second tick boundary after its last verdict. -/
  | reissue (reply : Nat)
  /-- NOTICE_SEND (R43). A notice frame for a bad verdict enters transmission within 2 ticks. -/
  | noticeSend (reply : Nat)
  /-- FRAME_TRUNCATED (R45). A request frame ends in an error character, loss of signal or buffer exhaustion and becomes a TRUNC verdict. -/
  | frameTruncated (frame : Nat)
  /-- EGRESS_LINK_LOST (R46). An egress link is lost during a reply, which is cut and reissued on another member or not sent. -/
  | egressLinkLost (eport : Nat)
  /-- EGRESS_TIMEOUT (R256). A reply that waited CONV_TMR1.EGRESS ms is removed from its queue and its slot freed. -/
  | egressTimeout (reply : Nat)
  /-- GAP_TIMER_EXPIRE (R253). An incomplete message's gap timer expires and the message fails INCOMPLETE. -/
  | gapTimerExpire (slot : Nat)
  /-- SEQ_WAIT_TIMEOUT (R253). A sequence token that waited longer than GAP is answered INCOMPLETE with DETAIL WAIT. -/
  | seqWaitTimeout (slot : Nat)
  /-- ADMIT_QUEUE_TIMEOUT (R158). A message waiting GAP µs for a handle with no admitting copy is answered BUSY. -/
  | admitQueueTimeout (slot : Nat)
  /-- EFFECTS_APPLY (R245). A message's pending effects apply at the first tick boundary after its last verdict arrives good. -/
  | effectsApply (slot : Nat)
  /-- REPLAY_SEND (R250). A cached reply is sent again with REPLAYED for a duplicate. -/
  | replaySend (reply : Nat)
  /-- CONV_IDLE_CLOSE (R247). An OPEN entry's quiet period reaches IDLE and the entry becomes CLOSED. -/
  | convIdleClose (conv : Nat)
  /-- CONV_LINGER_CLOSE (R247). A CLOSING entry's quiet period reaches LINGER and the entry becomes CLOSED. -/
  | convLingerClose (conv : Nat)
  /-- SAMPLE_ADMIT (R89). A sample is broadcast to the copy that can accept it soonest, or waits in the admission queue. -/
  | sampleAdmit (slot : Nat)
  /-- COMBINE_COMPLETE (R99). The cross-die combine adds the last partial and the base score. -/
  | combineComplete (slot : Nat)
  /-- PARTIAL_LATE (R99). A partial not arrived by its tick is a unit-check fault of the die that owed it. -/
  | partialLate (slot die : Nat)
  /-- SHADOW_ROTATE (R101). Every 65,536 cyc a shadow lane moves to its next partner and loads its image. -/
  | shadowRotate (die engine spare : Nat)
  /-- BATCH_WAIT_EXPIRE (R112). The open batch closes when BATCH_WAIT ticks pass since its first sample. -/
  | batchWaitExpire (handle : Nat)
  /-- BATCH_PASS_START (R112). A pass starts for the oldest closed batch once P cyc have passed since the previous pass. -/
  | batchPassStart (handle : Nat)
  /-- BATCH_PASS_COMPLETE (R113). A batch's partials are complete and its replies take the combine path. -/
  | batchPassComplete (p : PassEnd)
  /-- LOAD (R120). The LOAD command checks a forest image and places it as the staged version. -/
  | load (i : Nat)
  /-- LOAD_COMPLETE (R132). A LOAD or PLOAD writes its completion record and posts its completion event. -/
  | loadComplete (i : Nat)
  /-- ACTIVATE (R128). The ACTIVATE command arms the staged version for the next successful commit. -/
  | activate (i : Nat)
  /-- DISCARD (R130). The DISCARD command frees the staged version at once. -/
  | discard (i : Nat)
  /-- UNLOAD (R130). The UNLOAD command takes the handle out of service at the next commit. -/
  | unload (i : Nat)
  /-- QUERY (R120). The QUERY command reports the serving version. -/
  | query (i : Nat)
  /-- PLOAD (R164). The PLOAD command checks and places a staged program or sequence version. -/
  | pload (i : Nat)
  /-- DRAIN (R158). The DRAIN command stops admission to every copy of the handle at the next tick boundary. -/
  | drain (i : Nat)
  /-- DRAIN_DONE (R158). Every copy of a drained handle is empty, and the completion is posted. -/
  | drainDone (handle : Nat)
  /-- RESUME (R158). The RESUME command reopens admission at the next tick boundary. -/
  | resume (i : Nat)
  /-- VERSION_RELEASE (R129). The last item of a former version ends, its resources are freed and MODEL_RELEASED is posted. -/
  | versionRelease (handle version : Nat)
  /-- COPY_REPLACE (R133). A withdrawn copy or batch part is re-placed from its image after a repair, or stays withdrawn. -/
  | copyReplace (handle version copy : Nat)
  /-- ARRAY_ADMIT (R147). A copy admits a message at a tick boundary, assigns its base tag and sends its entry streams. -/
  | arrayAdmit (slot : Nat)
  /-- TOKEN_ARRIVE (R138). A token enters an input queue and its parity is checked. -/
  | tokenArrive (flight : Nat) (parityOk : Bool)
  /-- MOV (R178). The core instruction MOV copies source A. -/
  | opMov (core slot idx tag : Nat)
  /-- LI (R178). The core instruction LI loads an immediate from X. -/
  | opLi (core slot idx tag : Nat)
  /-- SEL (R174). The core instruction SEL chooses A or B by the effective predicate. -/
  | opSel (core slot idx tag : Nat)
  /-- ADD (R180). The core instruction ADD adds A and B. -/
  | opAdd (core slot idx tag : Nat)
  /-- SUB (R180). The core instruction SUB subtracts B from A. -/
  | opSub (core slot idx tag : Nat)
  /-- MUL (R180). The core instruction MUL multiplies A and B. -/
  | opMul (core slot idx tag : Nat)
  /-- MIN (R182). The core instruction MIN returns the lesser operand. -/
  | opMin (core slot idx tag : Nat)
  /-- MAX (R182). The core instruction MAX returns the greater operand. -/
  | opMax (core slot idx tag : Nat)
  /-- AND (R178). The core instruction AND takes the bitwise AND. -/
  | opAnd (core slot idx tag : Nat)
  /-- OR (R178). The core instruction OR takes the bitwise OR. -/
  | opOr (core slot idx tag : Nat)
  /-- XOR (R178). The core instruction XOR takes the bitwise XOR. -/
  | opXor (core slot idx tag : Nat)
  /-- SHL (R180). The core instruction SHL shifts left. -/
  | opShl (core slot idx tag : Nat)
  /-- SHR (R180). The core instruction SHR shifts right with zero or sign fill. -/
  | opShr (core slot idx tag : Nat)
  /-- CMP (R182). The core instruction CMP writes a predicate register from a comparison. -/
  | opCmp (core slot idx tag : Nat)
  /-- FMA (R178). The core instruction FMA computes a fused multiply-add into an s register. -/
  | opFma (core slot idx tag : Nat)
  /-- CVT (R180). The core instruction CVT converts a scalar between formats. -/
  | opCvt (core slot idx tag : Nat)
  /-- KEY (R187). The core instruction KEY converts a scalar to a 16-bit key. -/
  | opKey (core slot idx tag : Nat)
  /-- SFN (R186). The core instruction SFN computes a special function. -/
  | opSfn (core slot idx tag : Nat)
  /-- LUT (R178). The core instruction LUT reads an entry of a 256-entry table in local SRAM. -/
  | opLut (core slot idx tag : Nat)
  /-- TAG (R178). The core instruction TAG writes the firing's offset in its tag block. -/
  | opTag (core slot idx tag : Nat)
  /-- LD (R188). The core instruction LD reads 4 bytes of stand memory, with the response on qm. -/
  | opLd (core slot idx tag : Nat)
  /-- ST (R188). The core instruction ST writes 4 bytes of stand memory. -/
  | opSt (core slot idx tag : Nat)
  /-- DMA (R189). The core instruction DMA starts a stand DMA to or from DRAM. -/
  | opDma (core slot idx tag : Nat)
  /-- FEVAL (R190). The core instruction FEVAL sends a sample to a forest model. -/
  | opFeval (core slot idx tag : Nat)
  /-- BSWAP (R178). The core instruction BSWAP reverses the four bytes of A. -/
  | opBswap (core slot idx tag : Nat)
  /-- VMOV (R178). The core instruction VMOV copies a vector. -/
  | opVmov (core slot idx tag : Nat)
  /-- VSEL (R174). The core instruction VSEL chooses a vector by the effective predicate. -/
  | opVsel (core slot idx tag : Nat)
  /-- VADD (R180). The core instruction VADD adds elementwise. -/
  | opVadd (core slot idx tag : Nat)
  /-- VSUB (R180). The core instruction VSUB subtracts elementwise. -/
  | opVsub (core slot idx tag : Nat)
  /-- VMUL (R181). The core instruction VMUL multiplies elementwise. -/
  | opVmul (core slot idx tag : Nat)
  /-- VMIN (R182). The core instruction VMIN takes the elementwise lesser. -/
  | opVmin (core slot idx tag : Nat)
  /-- VMAX (R182). The core instruction VMAX takes the elementwise greater. -/
  | opVmax (core slot idx tag : Nat)
  /-- VAND (R178). The core instruction VAND takes the vector AND. -/
  | opVand (core slot idx tag : Nat)
  /-- VOR (R178). The core instruction VOR takes the vector OR. -/
  | opVor (core slot idx tag : Nat)
  /-- VXOR (R178). The core instruction VXOR takes the vector XOR. -/
  | opVxor (core slot idx tag : Nat)
  /-- VDOT (R183). The core instruction VDOT forms grouped dot products into 16 accumulators. -/
  | opVdot (core slot idx tag : Nat)
  /-- VRED (R184). The core instruction VRED reduces 16 elements pairwise to a scalar. -/
  | opVred (core slot idx tag : Nat)
  /-- VCMP (R182). The core instruction VCMP compares elementwise. -/
  | opVcmp (core slot idx tag : Nat)
  /-- VCVT (R180). The core instruction VCVT converts a part of a vector between formats. -/
  | opVcvt (core slot idx tag : Nat)
  /-- VKEY (R187). The core instruction VKEY converts vector elements to keys. -/
  | opVkey (core slot idx tag : Nat)
  /-- VSFN (R186). The core instruction VSFN computes a special function elementwise. -/
  | opVsfn (core slot idx tag : Nat)
  /-- VINS (R178). The core instruction VINS replaces one element with a scalar. -/
  | opVins (core slot idx tag : Nat)
  /-- VEXT (R178). The core instruction VEXT extracts one element as a scalar. -/
  | opVext (core slot idx tag : Nat)
  /-- VBCAST (R178). The core instruction VBCAST broadcasts a scalar to every element. -/
  | opVbcast (core slot idx tag : Nat)
  /-- VLD (R188). The core instruction VLD reads 64 bytes of stand memory, with the response on qm. -/
  | opVld (core slot idx tag : Nat)
  /-- VST (R188). The core instruction VST writes 64 bytes of stand memory. -/
  | opVst (core slot idx tag : Nat)
  /-- FIRES_CHECK (R148). At a + END_c each core compares its firings for the message with FIRES_c. -/
  | firesCheck (core slot run : Nat)
  /-- RESULT_COUNT_CHECK (R148). At a + D the copy compares the result tokens at the bridge endpoint with N_RES. -/
  | resultCountCheck (run : Nat)
  /-- FEVAL_RESULT (R107). A FEVAL result token reaches the issuing core's qf. -/
  | fevalResult (e : TokenEnd)
  /-- DMA_COMPLETE (R189). A stand DMA's completion token enters qm. -/
  | dmaComplete (e : TokenEnd) (ue : Bool)
  /-- APERTURE_WRITE (R341). A management write through an SRAM aperture is applied, dropped or refused with BUSY_CONTEXT. -/
  | apertureWrite (off : Nat) (val : Word)
  /-- COPY_DRAIN (R159). A single copy is drained and its core's state moved to the coppice. -/
  | copyDrain (core : Nat)
  /-- MIGRATION_DONE (R159). The moved core is mapped to the logical coordinates and the copy reopens. -/
  | migrationDone (core : Nat)
  /-- SEQ_TOKEN_ADMIT (R201). A ready sequence token is admitted to its copy, credits first. -/
  | seqTokenAdmit (slot : Nat)
  /-- SEQ_STEP_BOUNDARY (R199). At a token's STEP boundary the position counter P advances by one. -/
  | seqStepBoundary (ctx : Nat)
  /-- CREDIT_EARN (R201). A context earns one credit every 1 ÷ GRATE s, up to 2. -/
  | creditEarn (ctx : Nat)
  /-- CHECKPOINT_CAPTURE (R203). At a multiple of CKPT_INTERVAL the context's state is copied into a free staging buffer. -/
  | checkpointCapture (ctx : Nat)
  /-- CHECKPOINT_WRITE_DONE (R203). A checkpoint write completes, and C becomes the rollback point once earlier verdicts are good. -/
  | checkpointWriteDone (ctx : Nat)
  /-- ROLLBACK (R205). A context stops admission, answers its tokens and restores state from its rollback point. -/
  | rollback (ctx : Nat)
  /-- RESTORE_DONE (R205). The restore completes and the context admits the token at position C. -/
  | restoreDone (r : RestoreEnd)
  /-- GSTART (R207). The GSTART command opens and starts a generation context. -/
  | gstart (i : Nat)
  /-- GSTOP (R207). The GSTOP command ends a generation context at the next step boundary. -/
  | gstop (i : Nat)
  /-- SCLOSE (R210). The SCLOSE command closes any context. -/
  | sclose (i : Nat)
  /-- GEN_STEP (R207). A generation step is admitted at the first tick boundary at or after its scheduled time. -/
  | genStep (ctx : Nat)
  /-- GEN_FRAME_EMIT (R208). A generation step emits its frame through the verdict gate. -/
  | genFrameEmit (ctx : Nat)
  /-- BOOM_DATA (R226). A contributor DATA frame is accepted into its epoch and acknowledged. -/
  | boomData (slot : Nat)
  /-- ABANDON (R230). A contributor's ABANDON frame makes the member send ABORT ABANDONED. -/
  | abandon (slot : Nat)
  /-- BOOM_QUERY (R227). A QUERY frame is answered with PENDING, the outcome or the result segments. -/
  | boomQuery (slot : Nat)
  /-- PART (R229). A peer PART frame carries partial sums that are added once each. -/
  | part (slot : Nat)
  /-- GATH (R220). A peer GATH frame carries segments for distribution or gathering. -/
  | gath (slot : Nat)
  /-- BOOM_ACK (R231). A host-path ACK frame acknowledges a frame of the same PSEQ. -/
  | boomAck (slot : Nat)
  /-- HAVE (R230). A HAVE frame reaches the coordinator, which decides OK once all members hold their results. -/
  | haveMsg (slot : Nat)
  /-- DECIDE (R230). A DECIDE frame gives the epoch's outcome and releases results to contributors. -/
  | decide (slot : Nat)
  /-- ABORT (R230). An ABORT frame reaches the coordinator, which decides FAILED or joins its ranks to MISSING. -/
  | abort (slot : Nat)
  /-- BOOM_BUSY_FRAME (R225). A peer's BUSY control block refuses a frame that must be resent later. -/
  | boomBusyFrame (slot : Nat)
  /-- BOOM_BUSY_RETRY (R225). After max(retry-after, RTO × 2^k) the refused frame is resent. -/
  | boomBusyRetry (id : Nat)
  /-- MEMBER_TIMER_EXPIRE (R232). A member's epoch timer expires and it sends ABORT TIMEOUT. -/
  | memberTimerExpire (op : Nat)
  /-- COORD_TIMER_EXPIRE (R232). The coordinator's timer expires and it decides FAILED TIMEOUT. -/
  | coordTimerExpire (op : Nat)
  /-- HOSTPATH_RESEND (R231). An unacknowledged host-path frame is resent after RTO, and the member is lost after RETRY resends. -/
  | hostpathResend (member pseq : Nat)
  /-- RETENTION_EXPIRE (R227). Results held since the decision are released after RETAIN µs. -/
  | retentionExpire (op : Nat)
  /-- LINK_UP (R276). An Ethernet port's link comes up, sends LLDP and, host-side, enters service. -/
  | linkUp (eport : Nat)
  /-- LINK_DOWN (R275). A port's link goes down, truncating frames in reception and handing held frames to other members. -/
  | linkDown (eport : Nat)
  /-- LINK_DATA_FRAME (R267). A received link-layer DATA frame is accepted, NAKed or discarded by its LSEQ. -/
  | linkDataFrame (f : LinkIn)
  /-- VOID_FRAME (R267). A received VOID frame is accepted in sequence and frees its credit units. -/
  | voidFrame (f : LinkIn)
  /-- NAK_FRAME (R268). A received NAK makes the sender retransmit every held frame from its ACK. -/
  | nakFrame (f : LinkIn)
  /-- LINK_CTRL_FRAME (R268). A received CTRL frame carries ACK and CRED. -/
  | linkCtrlFrame (f : LinkIn)
  /-- LINK_RESUME_FRAME (R271). A received RESUME frame starts or restarts the member's link layer. -/
  | linkResumeFrame (eport : Nat) (f : LinkFrame)
  /-- CTRL_KEEPALIVE (R268). A receiver with nothing else to send sends a CTRL frame at least every 1 µs. -/
  | ctrlKeepalive (eport : Nat)
  /-- LINK_REPLAY_TIMEOUT (R268). REPLAY_TO passes without ACK progress and the sender retransmits, or retrains after REPLAY_MAX. -/
  | linkReplayTimeout (eport : Nat)
  /-- NAK_REPEAT_TIMEOUT (R267). REPLAY_TO passes with E unchanged and the receiver may send another NAK. -/
  | nakRepeatTimeout (eport : Nat)
  /-- LLDP_SEND (R276). Each Ethernet port sends an LLDP frame every INTERVAL ms. -/
  | lldpSend (eport : Nat)
  /-- LLDP_RECEIVE (R278). A peer's LLDP frame arrives and a changed TLV set is checked against the plan. -/
  | lldpReceive (eport : Nat) (bytes : List Byte)
  /-- PEER_EXPIRE (R276). The peer's TTL passes without a new LLDP frame and its information expires. -/
  | peerExpire (eport : Nat)
  /-- NOPEER_TIMEOUT (R278). No IDENTITY TLV arrives within 3 × INTERVAL of link up and the port is quarantined NOPEER. -/
  | nopeerTimeout (eport : Nat)
  /-- PFC_FRAME_RECEIVE (R261). A received PFC frame stops new frames on the paused priorities, or is discarded on a neighbour port. -/
  | pfcFrameReceive (eport : Nat) (bytes : List Byte)
  /-- ADOPT (R283). PORT_CMD ADOPT rewrites the plan entry for a quarantined port at the next tick boundary. -/
  | adopt (eport : Nat)
  /-- TIME_INC_WRITE (R287). A write to TIME_INC_NS applies the increment pair at the next tick boundary, or is refused. -/
  | timeIncWrite (val : Word)
  /-- TIME_STEP (R291). TIME_STEP_CTL GO moves device time by the step magnitude at the next tick boundary, or is refused. -/
  | timeStep (val : Word)
  /-- TPO_ARM (R301). A write of TIME_TPO CTL with EN arms a pulse output. -/
  | tpoArm (i : Nat) (val : Word)
  /-- TPO_EDGE (R301). Device time reaches a pulse edge time and the leading edge fires. -/
  | tpoEdge (i : Nat)
  /-- TPO_TRAIL (R301). The trailing edge follows WIDTH raw counts after the leading edge. -/
  | tpoTrail (i : Nat)
  /-- CAPTURE_EDGE (R303). An input edge on a capture channel is timestamped or lost with OVF. -/
  | captureEdge (c : Nat) (rising : Bool) (sub : Nat)
  /-- CAPTURE_READ (R303). A read of TIME_CAP SEC_LO removes the oldest capture and latches its other words. -/
  | captureRead (c : Nat)
  /-- PTP_EVENT_RECEIVE (R296). A PTP message is received, recorded and answered per ROLE and MECH. -/
  | ptpEventReceive (eport sub : Nat) (bytes : List Byte)
  /-- PTP_SYNC_SEND (R296). A master port sends Sync at its configured interval. -/
  | ptpSyncSend (eport : Nat)
  /-- PTP_REQ_SEND (R296). A port sends Delay_Req or Pdelay_Req at its request interval. -/
  | ptpReqSend (eport : Nat)
  /-- PTP_MISS (R298). A request's answer has not come when the next request falls due, and a MISS is recorded. -/
  | ptpMiss (eport : Nat)
  /-- FELL (R304). The FELL command schedules a felling entry at device time T. -/
  | fell (i : Nat)
  /-- FCANCEL (R304). The FCANCEL command frees a pending felling entry. -/
  | fcancel (i : Nat)
  /-- FELL_READY (R306). From device time T − 1 µs the entry's new state is held ready. -/
  | fellReady (n : Nat)
  /-- FELL_APPLY (R306). At the first tick boundary at which device time reaches T the entry applies. -/
  | fellApply (n : Nat)
  /-- DIGEST_COMPLETE (R320). A digest pair completes a reply's digest and the reply may enter transmission. -/
  | digestComplete (reply : Nat)
  /-- FIXED_RELEASE (R322). The raw counter reaches r_in + 4 × FLAT and a held fixed-latency reply is released, or sent LATE. -/
  | fixedRelease (reply : Nat)
  /-- SCRUB_READ (R332). The background scrub reads and corrects an SRAM word in an idle cycle. -/
  | scrubRead (die : Nat) (area : SramArea) (addr : Nat) (err : EccErr)
  /-- SCRUB_LATE (R332). A macro that does not complete a scrub pass within 1 s sets SCRUB_LATE. -/
  | scrubLate (die : Nat)
  /-- LANE_FAILING (R335). A DRAM lane becomes failing and a steering sweep starts, or LANE_EXHAUSTED is posted. -/
  | laneFailing (die lane : Nat)
  /-- SWEEP_DONE (R335). A steering sweep completes and posts LANE_STEERED. -/
  | sweepDone (die : Nat)
  /-- PATROL_SCRUB (R336). The patrol scrub reads and corrects a DRAM word within its period. -/
  | patrolScrub (die addr : Nat) (err : EccErr)
  /-- BRIDGE_LANE_CHECK (R12). The bridge lane check runs, steering a failing lane or retiring the die. -/
  | bridgeLaneCheck (die : Nat) (toDie : Bool) (bad : Option Nat)
  /-- BRIDGE_UE (R12). An uncorrectable bridge error fails the items of the transfer, and a second within 1 s retires the die. -/
  | bridgeUe (die : Nat) (slots : List Nat)
  /-- CHECK_EVENT (R350). A concurrent check fires on a unit, which is replaced or marked SUSPECT. -/
  | checkEvent (unit : UnitId) (check : CheckKind) (slots : List Nat) (readable : Bool)
  /-- REPLACE_DONE (R352). The spare is mapped to the unit's coordinates and admission reopens. -/
  | replaceDone (unit : UnitId)
  /-- SUSPECT_EXPIRE (R351). A SUSPECT mark clears when SUSPECT_WIN passes with no further event. -/
  | suspectExpire (unit : UnitId)
  /-- CRUISE_SLOT (R356). A cruise slot starts, moving lanes, stands or digest pairs aside for testing. -/
  | cruiseSlot
  /-- CRUISE_TEST_DONE (R356). A freed unit's test completes, and it becomes a spare or is retired. -/
  | cruiseTestDone (unit : UnitId) (pass : Bool)
  /-- RETIRE (R360). RPR_CMD RETIRE retires a named unit. -/
  | retire (val : Word)
  /-- UNRETIRE (R348). RPR_CMD UNRETIRE marks a map entry PENDING_UNRETIRE. -/
  | unretire (val : Word)
  /-- TEST (R358). RPR_CMD TEST requests an out-of-turn test of a unit. -/
  | test (val : Word)
  /-- MEMBER_LOST (R363). RPR_CMD MEMBER_LOST makes the boom treat a slice member as lost. -/
  | memberLost (val : Word)
  /-- MEMBER_BACK (R363). RPR_CMD MEMBER_BACK returns a member for epochs opening after the next boundary. -/
  | memberBack (val : Word)
  /-- HEARTBEAT (R362). A heartbeat frame is sent every PERIOD µs. -/
  | heartbeat
  /-- LEAVE_SERVICE (R361). The device leaves service, sends a LEAVING heartbeat and fails every admitted item. -/
  | leaveService
  /-- TWIN_RECORD (R365). A Kwain reply record arrives and is matched, deciding the twin verdict. -/
  | twinRecord (r : TwinRec)
  /-- TWIN_MATCH_TIMEOUT (R365). No matching record arrives within MATCH µs and the twin verdict is bad. -/
  | twinMatchTimeout (reply : Nat)
  /-- KWAIN_SILENCE (R368). The Kwain link is silent for LOSS µs, and the package goes SOLO or FENCED. -/
  | kwainSilence
  /-- ALIVE_IN_FALL (R368). The partner's alive signal deasserts and the survivor goes SOLO. -/
  | aliveInFall
  /-- TWIN_PAIRING (R369). The partner's configuration digest arrives, and the pair becomes PAIRED or SOLO and FENCED. -/
  | twinPairing (p : TwinHello)
  /-- TWIN_LINK_TIMEOUT (R370). No pairing decision is reached within 100 ms of the EN commit. -/
  | twinLinkTimeout
  /-- MBOX_SUBMIT (R381). A write to GCTL_MBOX_HI queues a mailbox command, or sets OVF when the queue is full. -/
  | mboxSubmit (hi : Word)
  /-- SEND (R382). The SEND command transmits a frame from device memory. -/
  | send (i : Nat)
  /-- IDENTIFY (R383). The IDENTIFY command writes the identity record. -/
  | identify (i : Nat)
  /-- ENROLL (R377). The ENROLL command enrols an owner key. -/
  | enroll (i : Nat)
  /-- EVQ_READ (R385). A read of a queue's ENTRY word 4 removes the oldest entry and latches words 5 to 7. -/
  | evqRead (q : Nat)
  /-- DMA_GO (R380). GCTL_DMA GO starts a descriptor chain. -/
  | dmaGo (n : Nat)
  /-- DMA_ABORT (R380). GCTL_DMA ABORT stops a chain with ABORTED. -/
  | dmaAbort (n : Nat)
  /-- DMA_DESC_DONE (R380). A DMA descriptor completes, or its error stops the chain. -/
  | dmaDescDone (n : Nat) (d : HostDesc)
  /-- JRNL_EXPORT (R389). A write of JRNL_EXP_HI advances the lowest unexported journal entry. -/
  | jrnlExport (hi : Word)
  /-- COLD_START (R378). RST_N release runs the cold-start sequence through self-test to READY. -/
  | coldStart (env : ColdEnv)
  /-- BOARD_RESET (R391). RST_N assertion resets the device as a board reset. -/
  | boardReset
  /-- SOFT_RESET (R391). GCTL_RESET.SOFT holds admission, fails items and resets the data plane. -/
  | softReset
  /-- QUAD_RESET (R391). GCTL_RESET.QUADS retrains the named quads. -/
  | quadReset (mask : Nat)
  /-- FLR (R379). A Function Level Reset aborts every DMA channel and clears the MSI-X table. -/
  | flr
  /-- PERST (R400). PERST_N resets the PCIe endpoint and its link only. -/
  | perst
  /-- AON_LOSS (R403). VDD_AON below its VRESET loses the always-on domain, as at power-on. -/
  | aonLoss
  /-- PWR_REQ_RUN (R392). PWR_CTL.REQ RUN wakes the device from Idle or Doze. -/
  | pwrReqRun
  /-- PWR_REQ_IDLE (R392). PWR_CTL.REQ IDLE holds admission and gates the tract clocks. -/
  | pwrReqIdle
  /-- PWR_REQ_DOZE (R392). PWR_CTL.REQ DOZE drains, saves state to POOL and power-gates the tract dies. -/
  | pwrReqDoze
  /-- DOZE_SAVE_DONE (R392). The Doze save completes and the tract dies are power-gated. -/
  | dozeSaveDone
  /-- WAKE_DONE (R392). Wake completes with state restored and every drained handle resumed. -/
  | wakeDone
  /-- SUPPLY_SAMPLE (R394). The supply monitor compares each core rail with VWARN and VRESET at a tick boundary. -/
  | supplySample (rails : List Rail)
  /-- SUPPLY_OK (R394). After every rail has stayed above VWARN for 10 µs the hold is released. -/
  | supplyOk
  /-- TJ_SAMPLE (R395). Tj is read every 1 µs and compared with the thermal thresholds. -/
  | tjSample (temps : List Nat)
  /-- POWER_ON (R404). VDD_AON becomes good: the always-on domain starts, the raw counter and time generation start from zero, and every output is held in its fixed state. -/
  | powerOn
  /-- PFC_PAUSE_END (R32). The pause time of a received PFC frame runs out, and replies waiting on that priority may enter transmission. -/
  | pfcPauseEnd (eport prio : Nat)
  /-- MAP_FLASH_WRITE_DONE (R346). The firmware's write of the new signed repair map copy to board flash completes, within 1 s of a map change, and FLASH_MATCH becomes 1. -/
  | mapFlashWriteDone
  /-- TEST_PORT_ACCESS (R400). A JTAG access reaches boundary scan or a unit's test port, and at a stage above 0x1 is refused unless the owner key authorised it. -/
  | testPortAccess (req : JtagReq)
  /-- SMBUS_REQUEST (R388). A board controller request arrives over the SMBus target and makes a management change journaled with origin IN_BAND. -/
  | smbusRequest (req : SmbusReq)
  deriving DecidableEq, Repr

end Sys2Proof
end

