-- ==== Sys2Proof/Config.lean ====
section
/-! DEFINITION. What the spec leaves open: values of the implementation and free values. None has a body, so nothing
can be proved about the value it takes. -/
namespace Sys2Proof.Config

/-- The n-th free value the machine draws (log 2): a number the spec does not give. -/
opaque freeNat : Nat → Nat

/-- The n-th free bit the machine draws (log 2). -/
opaque freeBit : Nat → Bool

/-- Whether an ECDSA P-384 signature verifies over a message under a key (R376, R116, R161): the spec names the
algorithm and does not give it (log 9). -/
opaque ecdsaVerify : (key msg sig : List Byte) → Bool

/-- The result of a special function of the core (function number, FP32 operand bits), where R186 gives an error bound
and no bits (log 10). -/
opaque sfnBits : (fn operand : Nat) → Nat

/-- The 97-byte public device key derived from the hub die's identifier (R373, R383; log 11). -/
opaque deviceKey : Nat → List Byte

/-- Header values of frames the device originates that the spec does not give, by place (log 19). -/
opaque frameConst : Nat → Nat

/-- How a WIDE128 element carries a special value (R216 gives none): a code for each set of NaN, +Inf, −Inf and range
marks (log 20). -/
opaque wideCode : Nat → Nat

/-- The payload that the routes of a store carry, of its opcode and operands (R173 gives a store no result; log 15). -/
opaque storeRoute : (opc a b : Nat) → Nat

/-- The bytes of a result block for a tag that no result token had (log 141), of the program's digest, the item's own input bytes, the
payloads that have come by tag offset, and the tag offset. -/
opaque missingResult : (digest input : List Byte) → (payloads : List (Nat × Vec)) → (tag : Nat) → Nat

/-- The digest of committed configuration that a pairing exchange carries (R369 names what it covers and no algorithm; log 25):
of the registers that differ from reset, as (offset, value), and the digests of models and programs. -/
opaque twinConfig : List (Nat × Word) → List Byte → Nat

end Sys2Proof.Config
end

