-- ==== Sys2Proof/Machine/Tbl.lean ====
section
/-! DEFINITION. Sparse tables: a list of (key, value) pairs in strictly rising key order, one pair a key.
Every replicated structure of the device (registers, frames, slots, entries, memory) is kept in this one form,
so that equal contents are equal data. -/
namespace Sys2Proof.Machine

/-- A sparse table keyed by natural numbers. -/
abbrev Tbl (α : Type) := List (Nat × α)

/-- The entry under a key, if one is listed. -/
def Tbl.find {α : Type} : Tbl α → Nat → Option α
  | [], _ => none
  | (k, v) :: t, n => if k = n then some v else Tbl.find t n

/-- The entry under a key, or a default. -/
def Tbl.getD {α : Type} (t : Tbl α) (n : Nat) (d : α) : α := (Tbl.find t n).getD d

/-- Write the entry under a key, keeping the order. -/
def Tbl.put {α : Type} : Tbl α → Nat → α → Tbl α
  | [], n, x => [(n, x)]
  | (k, v) :: t, n, x =>
    if n < k then (n, x) :: (k, v) :: t
    else if n = k then (n, x) :: t
    else (k, v) :: Tbl.put t n x

/-- Remove the entry under a key. -/
def Tbl.del {α : Type} : Tbl α → Nat → Tbl α
  | [], _ => []
  | (k, v) :: t, n => if k = n then t else (k, v) :: Tbl.del t n

/-- Change the entry under a key where there is one. -/
def Tbl.modify {α : Type} (t : Tbl α) (n : Nat) (f : α → α) : Tbl α :=
  match Tbl.find t n with
  | some v => Tbl.put t n (f v)
  | none => t

/-- Keep the entries that a test accepts. -/
def Tbl.keep {α : Type} (t : Tbl α) (p : Nat → α → Bool) : Tbl α := t.filter (fun e => p e.1 e.2)

/-- Change every entry. -/
def Tbl.mapVals {α β : Type} (t : Tbl α) (f : Nat → α → β) : Tbl β := t.map (fun e => (e.1, f e.1 e.2))

/-- The least key at or above `n` that is free, searched for `fuel` keys. -/
def Tbl.freeFrom {α : Type} (t : Tbl α) : Nat → Nat → Option Nat
  | 0, _ => none
  | fuel + 1, n => if (Tbl.find t n).isNone then some n else Tbl.freeFrom t fuel (n + 1)

/-- Strictly rising keys, none below `n`. -/
def Tbl.risingFrom {α : Type} : Nat → Tbl α → Bool
  | _, [] => true
  | n, (k, _) :: t => decide (n ≤ k) && Tbl.risingFrom (k + 1) t

/-- The canonical form of a table: strictly rising keys. -/
def Tbl.ok {α : Type} (t : Tbl α) : Bool := Tbl.risingFrom 0 t

/-- Replace the n-th element of a list, where there is one. -/
def setNth {α : Type} : List α → Nat → α → List α
  | [], _, _ => []
  | _ :: t, 0, x => x :: t
  | h :: t, n + 1, x => h :: setNth t n x

/-- Remove the n-th element of a list, where there is one. -/
def dropNth {α : Type} : List α → Nat → List α
  | [], _ => []
  | _ :: t, 0 => t
  | h :: t, n + 1 => h :: dropNth t n

/-- The numbers 0 to n − 1 for which a test holds. -/
def pick (n : Nat) (p : Nat → Bool) : List Nat := (List.range n).filter p

/-- The first element of a list with the least value of a measure (R32, R89 and the other "lower number on a tie" rules). -/
def leastBy {α : Type} (f : α → Nat) : List α → Option α
  | [] => none
  | a :: t =>
    match leastBy f t with
    | none => some a
    | some b => if f b < f a then some b else some a

/-- The sum of a measure over a list. -/
def sumBy {α : Type} (f : α → Nat) : List α → Nat
  | [] => 0
  | a :: t => f a + sumBy f t

/-- Division rounded up. -/
def ceilDiv (a b : Nat) : Nat := (a + b - 1) / b

/-- The power of two at or above n (n ≥ 1), found within `fuel` doublings. -/
def pow2From : Nat → Nat → Nat → Nat
  | 0, p, _ => p
  | fuel + 1, p, n => if p < n then pow2From fuel (2 * p) n else p

/-- The least power of two at or above n, and 1 for 0. -/
def pow2Above (n : Nat) : Nat := pow2From 64 1 n

end Sys2Proof.Machine
end

