-- ==== Sys2Proof/Machine/Bytes.lean ====
section
/-! DEFINITION. Bit fields, byte orders and the one canonical byte memory. Wire fields are big-endian and memory
structures little-endian (R7). -/
namespace Sys2Proof.Machine

/-- Bits hi:lo of a number (R3's notation). -/
def bitsOf (w hi lo : Nat) : Nat := (w >>> lo) % 2 ^ (hi + 1 - lo)

/-- Bits hi:lo of a 32-bit word. -/
def fld (w : Word) (hi lo : Nat) : Nat := bitsOf w.toNat hi lo

/-- One bit of a 32-bit word. -/
def bitAt (w : Word) (n : Nat) : Bool := w.toNat.testBit n

/-- A word with bits hi:lo replaced. -/
def setFld (w : Word) (hi lo : Nat) (v : Nat) : Word :=
  BitVec.ofNat 32 (w.toNat - (bitsOf w.toNat hi lo) * 2 ^ lo + (v % 2 ^ (hi + 1 - lo)) * 2 ^ lo)

/-- 0 or 1. -/
def b2n (b : Bool) : Nat := if b then 1 else 0

/-- The n-th byte of a list, zero beyond its end. -/
def byteAt (l : List Byte) (n : Nat) : Nat := (l.getD n 0).toNat

/-- `len` bytes from `off`, zeros beyond the end. -/
def slice (l : List Byte) (off len : Nat) : List Byte :=
  let s := (l.drop off).take len
  s ++ List.replicate (len - s.length) 0

/-- The value of a big-endian byte string (R7, wire order). -/
def beVal (l : List Byte) : Nat := l.foldl (fun a b => a * 256 + b.toNat) 0

/-- The value of a little-endian byte string (R7, memory order). -/
def leVal (l : List Byte) : Nat := l.foldr (fun b a => a * 256 + b.toNat) 0

/-- A number as n bytes, least significant first. -/
def leBytes : Nat → Nat → List Byte
  | 0, _ => []
  | n + 1, v => BitVec.ofNat 8 v :: leBytes n (v / 256)

/-- A number as n bytes, most significant first. -/
def beBytes (n v : Nat) : List Byte := (leBytes n v).reverse

/-- The big-endian field of n bytes at an offset. -/
def beAt (l : List Byte) (off n : Nat) : Nat := beVal (slice l off n)

/-- The little-endian field of n bytes at an offset. -/
def leAt (l : List Byte) (off n : Nat) : Nat := leVal (slice l off n)

/-- Write bytes over a byte string at an offset; bytes past its end are lost. -/
def overwrite (l : List Byte) (off : Nat) (new : List Byte) : List Byte :=
  if l.length ≤ off then l
  else
    let fit := new.take (l.length - off)
    l.take off ++ fit ++ l.drop (off + fit.length)

/-- Grow with zeros to at least n bytes. -/
def padTo (l : List Byte) (n : Nat) : List Byte := l ++ List.replicate (n - l.length) 0

/-- Two's complement reading of an n-bit number. -/
def signed (n v : Nat) : Int := if 2 ^ (n - 1) ≤ v % 2 ^ n then (v % 2 ^ n : Nat) - (2 ^ n : Nat) else (v % 2 ^ n : Nat)

/-- The low n bits of an integer, two's complement. -/
def unsigned (n : Nat) (v : Int) : Nat := (v % (2 ^ n : Nat)).toNat

/-- A counter that saturates at 0xFFFF_FFFF. -/
def satInc (w : Word) : Word := if w = 0xFFFFFFFF then w else w + 1

/-- Byte memory: (address, byte) pairs, rising, no pair equal to the unlisted byte zero. -/
abbrev Mem := List (Nat × Byte)

/-- What an unlisted address reads as: the cold start writes DRAM to zero (R378); R162 zeroes SRAM at load. -/
def Mem.unlisted : Byte := 0

/-- Read one byte. -/
def Mem.read (m : Mem) (a : Nat) : Byte := Tbl.getD m a Mem.unlisted

/-- Write one byte, keeping the canonical form. -/
def Mem.write (m : Mem) (a : Nat) (b : Byte) : Mem :=
  if b = Mem.unlisted then Tbl.del m a else Tbl.put m a b

/-- Read n bytes from an address upward. -/
def Mem.readN (m : Mem) : Nat → Nat → List Byte
  | _, 0 => []
  | a, n + 1 => m.read a :: Mem.readN m (a + 1) n

/-- Write bytes from an address upward. -/
def Mem.writeN (m : Mem) (a : Nat) : List Byte → Mem
  | [] => m
  | b :: t => Mem.writeN (m.write a b) (a + 1) t

/-- Forget every byte of an address range. -/
def Mem.clear (m : Mem) (a n : Nat) : Mem := Tbl.keep m (fun k _ => !(a ≤ k && k < a + n))

/-- The canonical form: addresses rising and no listed byte equal to the unlisted one. -/
def Mem.wf (m : Mem) : Bool := Tbl.ok m && m.all (fun e => e.2 != Mem.unlisted)

end Sys2Proof.Machine
end

