-- ==== Sys2Proof/Machine/RegMap.lean ====
section
/-! DEFINITION. The BAR0 register map: every register of the spec's register tables with its offset, replication,
fields, access types (Table 0-2) and Reset column. A Reset column that reads "HW" is entered as 0 here: the
state holds the value that self-test or identity hardware loads (log 3). -/
namespace Sys2Proof.Machine

/-- The access types of Table 0-2. -/
inductive Acc where
  | ro | rw | w1c | wo | rws | rwl
  deriving DecidableEq, Repr

/-- One field of a register: bits hi:lo, its access type and its Reset column. -/
structure FieldDef where
  hi : Nat
  lo : Nat
  acc : Acc
  reset : Nat
  deriving DecidableEq, Repr

/-- One register, or one array of registers: base offset in BAR0, (count, stride) of each index, fields. -/
structure RegDef where
  base : Nat
  dims : List (Nat × Nat)
  fields : List FieldDef
  deriving DecidableEq, Repr

/-- A displacement from the base that an instance of the array has. -/
def dimsFit : List (Nat × Nat) → Nat → Bool
  | [], x => x == 0
  | (n, st) :: t, x => decide (x / st < n) && dimsFit t (x % st)

/-- An offset that names this register. -/
def RegDef.at (d : RegDef) (off : Nat) : Bool := decide (d.base ≤ off) && dimsFit d.dims (off - d.base)

/-- The mask of the bits with one access type. -/
def RegDef.mask (d : RegDef) (a : Acc) : Nat :=
  sumBy (fun f => if f.acc = a then 2 ^ (f.hi + 1) - 2 ^ f.lo else 0) d.fields

/-- The Reset column as a whole word. -/
def RegDef.resetWord (d : RegDef) : Nat := sumBy (fun f => f.reset * 2 ^ f.lo) d.fields

/-- GCTL registers, part 0. -/
def regsGctl0 : List RegDef := [
  -- GCTL_ID (16 R397): PART, REV
  ⟨0x0, [], [⟨31, 16, .ro, 0xC096⟩, ⟨15, 8, .ro, 0⟩]⟩,
  -- GCTL_STAT (16 R397): READY, IN_SERVICE, STAGE
  ⟨0x4, [], [⟨31, 31, .ro, 0⟩, ⟨30, 30, .ro, 0⟩, ⟨26, 24, .ro, 0⟩]⟩,
  -- GCTL_COMMIT (16 R386): GO
  ⟨0x8, [], [⟨31, 31, .wo, 0⟩]⟩,
  -- GCTL_COMMITSTAT (16 R386): BUSY, REASON, OFFSET
  ⟨0xC, [], [⟨31, 31, .ro, 0⟩, ⟨30, 26, .ro, 0⟩, ⟨25, 0, .ro, 0⟩]⟩,
  -- GCTL_SECURE (16 R377): SIGREQ, OWNER_SET, SVN
  ⟨0x10, [], [⟨31, 31, .rwl, 0⟩, ⟨30, 30, .ro, 0⟩, ⟨7, 0, .ro, 0⟩]⟩,
  -- GCTL_RESET (16 R391): SOFT, QUADS
  ⟨0x14, [], [⟨31, 31, .wo, 0⟩, ⟨11, 0, .wo, 0⟩]⟩,
  -- GCTL_BAR2WIN (16 R379): BASE
  ⟨0x18, [], [⟨9, 0, .rw, 0⟩]⟩,
  -- GCTL_MSGBUF (16 R387): PART_LOG2, NPART
  ⟨0x1C, [], [⟨28, 24, .rws, 0xE⟩, ⟨15, 0, .rws, 0x1000⟩]⟩,
  -- GCTL_MODE (13 R328): EXACT, IN_FORCE, SWITCHING
  ⟨0x20, [], [⟨31, 31, .rws, 0⟩, ⟨30, 30, .ro, 0⟩, ⟨29, 29, .ro, 0⟩]⟩,
  -- GCTL_TICK_LO (01 R26): TICK
  ⟨0x40, [], [⟨31, 0, .ro, 0⟩]⟩,
  -- GCTL_TICK_HI (01 R26): TICK
  ⟨0x44, [], [⟨31, 0, .ro, 0⟩]⟩,
  -- GCTL_TICKPHASE (01 R27): PHASE
  ⟨0x48, [], [⟨1, 0, .ro, 0⟩]⟩,
  -- GCTL_DIECAP (01 R28): DIE_STATE, CMPT_MASK, SPARE_STANDS, FREE_COPPICE
  ⟨0x100, [(4, 0x4)], [⟨31, 30, .ro, 0⟩, ⟨23, 16, .ro, 0⟩, ⟨15, 12, .ro, 0⟩, ⟨6, 0, .ro, 0⟩]⟩,
  -- GCTL_PKGCAP (01 R29): LANES, CORES
  ⟨0x110, [], [⟨30, 16, .ro, 0⟩, ⟨12, 0, .ro, 0⟩]⟩,
  -- GCTL_HCLASS (13 R328): CLASS
  ⟨0x200, [(64, 0x4)], [⟨31, 0, .ro, 0⟩]⟩,
  -- GCTL_MEMCTL (14 R344): PERIOD
  ⟨0x400, [], [⟨7, 0, .rws, 0x18⟩]⟩,
  -- GCTL_STRIPE_LO (14 R344): MODE
  ⟨0x404, [], [⟨31, 0, .rwl, 0⟩]⟩,
  -- GCTL_STRIPE_HI (14 R344): MODE
  ⟨0x408, [], [⟨15, 0, .rwl, 0⟩]⟩,
  -- GCTL_APWIN (14 R344): BASE
  ⟨0x40C, [], [⟨11, 0, .rw, 0⟩]⟩,
  -- GCTL_CNT_HUBCE (14 R344): COUNT
  ⟨0x410, [], [⟨31, 0, .rw, 0⟩]⟩,
  -- GCTL_CNT_HUBUE (14 R344): COUNT
  ⟨0x414, [], [⟨31, 0, .rw, 0⟩]⟩,
  -- GCTL_GRANT.w0 (14 R344): VALID, WR, HANDLE
  ⟨0x800, [(64, 0x10)], [⟨31, 31, .rws, 0⟩, ⟨30, 30, .rws, 0⟩, ⟨9, 0, .rws, 0⟩]⟩,
  -- GCTL_GRANT.w1 (14 R344): BASE
  ⟨0x804, [(64, 0x10)], [⟨31, 0, .rws, 0⟩]⟩,
  -- GCTL_GRANT.w2 (14 R344): LEN
  ⟨0x808, [(64, 0x10)], [⟨31, 0, .rws, 0⟩]⟩]

/-- GCTL registers, part 1. -/
def regsGctl1 : List RegDef := [
  -- GCTL_GRANT.w3 (14 R344): 
  ⟨0x80C, [(64, 0x10)], []⟩,
  -- GCTL_MBOX_LO (16 R397): ADDR
  ⟨0xC00, [], [⟨31, 6, .wo, 0⟩]⟩,
  -- GCTL_MBOX_HI (16 R397): ADDR
  ⟨0xC04, [], [⟨31, 0, .wo, 0⟩]⟩,
  -- GCTL_MBOX_STAT (16 R397): OVF, VEC, FREE
  ⟨0xC08, [], [⟨31, 31, .w1c, 0⟩, ⟨26, 16, .rw, 0⟩, ⟨6, 0, .ro, 0x40⟩]⟩,
  -- GCTL_EVQ.w0 (16 R397): EN, VEC
  ⟨0xD00, [(16, 0x20)], [⟨31, 31, .rw, 0⟩, ⟨10, 0, .rw, 0⟩]⟩,
  -- GCTL_EVQ.w1 (16 R397): OVF, DEPTH
  ⟨0xD04, [(16, 0x20)], [⟨31, 31, .w1c, 0⟩, ⟨10, 0, .ro, 0⟩]⟩,
  -- GCTL_EVQ.w2 (16 R397): 
  ⟨0xD08, [(16, 0x20)], []⟩,
  -- GCTL_EVQ.w3 (16 R397): 
  ⟨0xD0C, [(16, 0x20)], []⟩,
  -- GCTL_EVQ.w4 (16 R397): ENTRY
  ⟨0xD10, [(16, 0x20)], [⟨31, 0, .ro, 0⟩]⟩,
  -- GCTL_EVQ.w5 (16 R397): ENTRY
  ⟨0xD14, [(16, 0x20)], [⟨31, 0, .ro, 0⟩]⟩,
  -- GCTL_EVQ.w6 (16 R397): ENTRY
  ⟨0xD18, [(16, 0x20)], [⟨31, 0, .ro, 0⟩]⟩,
  -- GCTL_EVQ.w7 (16 R397): ENTRY
  ⟨0xD1C, [(16, 0x20)], [⟨31, 0, .ro, 0⟩]⟩,
  -- GCTL_EVCNT (16 R397): COUNT
  ⟨0x1000, [(256, 0x4)], [⟨31, 0, .rw, 0⟩]⟩,
  -- GCTL_DMA.w0 (16 R397): DESC_LO
  ⟨0x2000, [(4, 0x40)], [⟨31, 0, .rw, 0⟩]⟩,
  -- GCTL_DMA.w1 (16 R397): DESC_HI
  ⟨0x2004, [(4, 0x40)], [⟨31, 0, .rw, 0⟩]⟩,
  -- GCTL_DMA.w2 (16 R397): GO, ABORT, VEC
  ⟨0x2008, [(4, 0x40)], [⟨31, 31, .wo, 0⟩, ⟨30, 30, .wo, 0⟩, ⟨10, 0, .rw, 0⟩]⟩,
  -- GCTL_DMA.w3 (16 R397): BUSY, ERR, DONE
  ⟨0x200C, [(4, 0x40)], [⟨31, 31, .ro, 0⟩, ⟨23, 16, .ro, 0⟩, ⟨15, 0, .ro, 0⟩]⟩]

/-- All GCTL registers. -/
def regsGctl : List RegDef := regsGctl0 ++ regsGctl1

/-- TIME registers, part 0. -/
def regsTime0 : List RegDef := [
  -- TIME_CTL (12 R309): SLEW_ONLY
  ⟨0x100000, [], [⟨0, 0, .rw, 0⟩]⟩,
  -- TIME_QUAL (12 R309): QUAL
  ⟨0x100004, [], [⟨1, 0, .rw, 0⟩]⟩,
  -- TIME_GEN (12 R309): GEN
  ⟨0x100008, [], [⟨15, 0, .ro, 0⟩]⟩,
  -- TIME_RAW_LO (12 R309): RAW
  ⟨0x100010, [], [⟨31, 0, .ro, 0⟩]⟩,
  -- TIME_RAW_HI (12 R309): RAW
  ⟨0x100014, [], [⟨31, 0, .ro, 0⟩]⟩,
  -- TIME_NOW_SEC_LO (12 R309): SEC
  ⟨0x100020, [], [⟨31, 0, .ro, 0⟩]⟩,
  -- TIME_NOW_SEC_HI (12 R309): SEC
  ⟨0x100024, [], [⟨31, 0, .ro, 0⟩]⟩,
  -- TIME_NOW_NS (12 R309): NS
  ⟨0x100028, [], [⟨29, 0, .ro, 0⟩]⟩,
  -- TIME_NOW_FRAC (12 R309): GEN, FRAC
  ⟨0x10002C, [], [⟨31, 16, .ro, 0⟩, ⟨15, 0, .ro, 0⟩]⟩,
  -- TIME_INC_FRAC (12 R309): FRAC
  ⟨0x100030, [], [⟨31, 0, .rw, 0⟩]⟩,
  -- TIME_INC_NS (12 R309): INT
  ⟨0x100034, [], [⟨0, 0, .rw, 1⟩]⟩,
  -- TIME_STEP_SEC_LO (12 R309): SEC
  ⟨0x100040, [], [⟨31, 0, .rw, 0⟩]⟩,
  -- TIME_STEP_SEC_HI (12 R309): SEC
  ⟨0x100044, [], [⟨31, 0, .rw, 0⟩]⟩,
  -- TIME_STEP_NS (12 R309): NS
  ⟨0x100048, [], [⟨29, 0, .rw, 0⟩]⟩,
  -- TIME_STEP_CTL (12 R309): GO, BACK
  ⟨0x10004C, [], [⟨31, 31, .wo, 0⟩, ⟨0, 0, .wo, 0⟩]⟩,
  -- TIME_THRESH (12 R309): OFFSET, PATH
  ⟨0x100050, [], [⟨31, 16, .rw, 0xC8⟩, ⟨15, 0, .rw, 0x32⟩]⟩,
  -- TIME_CNT_REFUSE (12 R309): COUNT
  ⟨0x100054, [], [⟨31, 0, .rw, 0⟩]⟩,
  -- TIME_CNT_MISS (12 R309): COUNT
  ⟨0x100058, [], [⟨31, 0, .rw, 0⟩]⟩,
  -- TIME_CNT_RINGDROP (12 R309): COUNT
  ⟨0x10005C, [], [⟨31, 0, .rw, 0⟩]⟩,
  -- TIME_CNT_SUSPECT (12 R309): COUNT
  ⟨0x100060, [], [⟨31, 0, .rw, 0⟩]⟩,
  -- TIME_RING_LO (12 R309): ADDR
  ⟨0x100070, [], [⟨31, 0, .rws, 0⟩]⟩,
  -- TIME_RING_HI (12 R309): ADDR
  ⟨0x100074, [], [⟨31, 0, .rws, 0⟩]⟩,
  -- TIME_RING_SIZE (12 R309): SIZE
  ⟨0x100078, [], [⟨4, 0, .rws, 0⟩]⟩,
  -- TIME_RING_WR (12 R309): INDEX
  ⟨0x10007C, [], [⟨15, 0, .ro, 0⟩]⟩]

/-- TIME registers, part 1. -/
def regsTime1 : List RegDef := [
  -- TIME_RING_RD (12 R309): INDEX
  ⟨0x100080, [], [⟨15, 0, .rw, 0⟩]⟩,
  -- TIME_TPO.w0 (12 R309): EN, PERIODIC, POL, PER16, START16
  ⟨0x100100, [(8, 0x20)], [⟨31, 31, .rw, 0⟩, ⟨30, 30, .rw, 0⟩, ⟨29, 29, .rw, 0⟩, ⟨7, 4, .rw, 0⟩, ⟨3, 0, .rw, 0⟩]⟩,
  -- TIME_TPO.w1 (12 R309): START_SEC_LO
  ⟨0x100104, [(8, 0x20)], [⟨31, 0, .rw, 0⟩]⟩,
  -- TIME_TPO.w2 (12 R309): START_SEC_HI
  ⟨0x100108, [(8, 0x20)], [⟨31, 0, .rw, 0⟩]⟩,
  -- TIME_TPO.w3 (12 R309): START_NS
  ⟨0x10010C, [(8, 0x20)], [⟨29, 0, .rw, 0⟩]⟩,
  -- TIME_TPO.w4 (12 R309): PERIOD
  ⟨0x100110, [(8, 0x20)], [⟨31, 0, .rw, 0⟩]⟩,
  -- TIME_TPO.w5 (12 R309): WIDTH
  ⟨0x100114, [(8, 0x20)], [⟨31, 0, .rw, 0⟩]⟩,
  -- TIME_TPO.w6 (12 R309): LATE, ARMED, SKIPPED
  ⟨0x100118, [(8, 0x20)], [⟨31, 31, .w1c, 0⟩, ⟨30, 30, .ro, 0⟩, ⟨15, 0, .rw, 0⟩]⟩,
  -- TIME_CAP.w0 (12 R309): EN, FALL, DIV
  ⟨0x100200, [(6, 0x20)], [⟨31, 31, .rw, 0⟩, ⟨30, 30, .rw, 0⟩, ⟨23, 0, .rw, 1⟩]⟩,
  -- TIME_CAP.w1 (12 R309): SEC_LO
  ⟨0x100204, [(6, 0x20)], [⟨31, 0, .ro, 0⟩]⟩,
  -- TIME_CAP.w2 (12 R309): SEC_HI
  ⟨0x100208, [(6, 0x20)], [⟨31, 0, .ro, 0⟩]⟩,
  -- TIME_CAP.w3 (12 R309): NS
  ⟨0x10020C, [(6, 0x20)], [⟨29, 0, .ro, 0⟩]⟩,
  -- TIME_CAP.w4 (12 R309): GEN, FRAC
  ⟨0x100210, [(6, 0x20)], [⟨31, 16, .ro, 0⟩, ⟨15, 0, .ro, 0⟩]⟩,
  -- TIME_CAP.w5 (12 R309): OVF, DEPTH
  ⟨0x100214, [(6, 0x20)], [⟨31, 31, .w1c, 0⟩, ⟨4, 0, .ro, 0⟩]⟩,
  -- TIME_PTP.w0 (12 R309): EN, ROLE, MECH, ONESTEP, CARR, LOGSYNC, LOGREQ, PCP, DOMAIN
  ⟨0x100400, [(48, 0x20)], [⟨31, 31, .rw, 0⟩, ⟨30, 29, .rw, 0⟩, ⟨28, 28, .rw, 0⟩, ⟨27, 27, .rw, 0⟩, ⟨26, 25, .rw, 0⟩, ⟨24, 22, .rw, 0⟩, ⟨21, 19, .rw, 0⟩, ⟨18, 16, .rw, 0⟩, ⟨15, 8, .rw, 0⟩]⟩,
  -- TIME_PTP.w1 (12 R309): EGRESS, INGRESS
  ⟨0x100404, [(48, 0x20)], [⟨31, 16, .rw, 0⟩, ⟨15, 0, .rw, 0⟩]⟩,
  -- TIME_PTP.w2 (12 R309): FLAGS
  ⟨0x100408, [(48, 0x20)], [⟨15, 0, .rw, 0⟩]⟩,
  -- TIME_PTP.w3 (12 R309): MASTER_ID_LO
  ⟨0x10040C, [(48, 0x20)], [⟨31, 0, .rw, 0⟩]⟩,
  -- TIME_PTP.w4 (12 R309): MASTER_ID_HI
  ⟨0x100410, [(48, 0x20)], [⟨31, 0, .rw, 0⟩]⟩,
  -- TIME_PTP.w5 (12 R309): MASTER_PORT, MISSRUN, REQ_IN_USE
  ⟨0x100414, [(48, 0x20)], [⟨31, 16, .rw, 0⟩, ⟨15, 8, .ro, 0⟩, ⟨2, 0, .ro, 0⟩]⟩,
  -- TIME_FELL.w0 (12 R309): VALID, KIND, HANDLE, VERSION
  ⟨0x101000, [(32, 0x10)], [⟨31, 31, .ro, 0⟩, ⟨30, 28, .ro, 0⟩, ⟨25, 16, .ro, 0⟩, ⟨15, 0, .ro, 0⟩]⟩,
  -- TIME_FELL.w1 (12 R309): T_SEC_LO
  ⟨0x101004, [(32, 0x10)], [⟨31, 0, .ro, 0⟩]⟩,
  -- TIME_FELL.w2 (12 R309): GEN, T_SEC_HI
  ⟨0x101008, [(32, 0x10)], [⟨31, 16, .ro, 0⟩, ⟨15, 0, .ro, 0⟩]⟩,
  -- TIME_FELL.w3 (12 R309): T_NS
  ⟨0x10100C, [(32, 0x10)], [⟨29, 0, .ro, 0⟩]⟩]

/-- All TIME registers. -/
def regsTime : List RegDef := regsTime0 ++ regsTime1

/-- PORT registers, part 0. -/
def regsPort0 : List RegDef := [
  -- PORT_QCFG (11 R285): EN, SIDE, MODE
  ⟨0x200000, [(12, 0x1000)], [⟨31, 31, .rws, 0⟩, ⟨30, 30, .rws, 0⟩, ⟨29, 28, .rws, 0⟩]⟩,
  -- PORT_EPCFG (11 R285): LPORT, PFC_EN
  ⟨0x200010, [(12, 0x1000), (4, 0x4)], [⟨21, 16, .rws, 0⟩, ⟨7, 0, .rws, 0⟩]⟩,
  -- PORT_MAC_LO (11 R285): MAC_LO
  ⟨0x200020, [(12, 0x1000), (4, 0x8)], [⟨31, 0, .rws, 0⟩]⟩,
  -- PORT_MAC_HI (11 R285): MAC_HI
  ⟨0x200024, [(12, 0x1000), (4, 0x8)], [⟨15, 0, .rws, 0⟩]⟩,
  -- PORT_EPSTAT (11 R285): STATE, REASON, SLICE_DIFFER, PLAN_DIFFER, VER, SKEW
  ⟨0x200040, [(12, 0x1000), (4, 0x4)], [⟨31, 29, .ro, 0⟩, ⟨28, 25, .ro, 0⟩, ⟨24, 24, .ro, 0⟩, ⟨23, 23, .ro, 0⟩, ⟨15, 8, .ro, 0⟩, ⟨7, 0, .ro, 0⟩]⟩,
  -- PORT_PEER.w0 (11 R285): ID_LO
  ⟨0x200080, [(12, 0x1000), (4, 0x10)], [⟨31, 0, .ro, 0⟩]⟩,
  -- PORT_PEER.w1 (11 R285): ID_HI
  ⟨0x200084, [(12, 0x1000), (4, 0x10)], [⟨31, 0, .ro, 0⟩]⟩,
  -- PORT_PEER.w2 (11 R285): LABEL, COORD, EXT
  ⟨0x200088, [(12, 0x1000), (4, 0x10)], [⟨31, 28, .ro, 0⟩, ⟨27, 16, .ro, 0⟩, ⟨15, 4, .ro, 0⟩]⟩,
  -- PORT_PEER.w3 (11 R285): VMIN, VMAX, BUFU
  ⟨0x20008C, [(12, 0x1000), (4, 0x10)], [⟨31, 24, .ro, 0⟩, ⟨23, 16, .ro, 0⟩, ⟨15, 0, .ro, 0⟩]⟩,
  -- PORT_CNT_FECCOR (11 R285): COUNT
  ⟨0x200100, [(12, 0x1000)], [⟨31, 0, .rw, 0⟩]⟩,
  -- PORT_CNT_FECUNC (11 R285): COUNT
  ⟨0x200104, [(12, 0x1000)], [⟨31, 0, .rw, 0⟩]⟩,
  -- PORT_CNT_REPLAY (11 R285): COUNT
  ⟨0x200108, [(12, 0x1000)], [⟨31, 0, .rw, 0⟩]⟩,
  -- PORT_CNT_DISCARD (11 R285): COUNT
  ⟨0x20010C, [(12, 0x1000)], [⟨31, 0, .rw, 0⟩]⟩,
  -- PORT_LLDPCTL (11 R285): INTERVAL
  ⟨0x20C000, [], [⟨9, 0, .rws, 0xA⟩]⟩,
  -- PORT_VERSION (11 R285): MIN, MAX
  ⟨0x20C004, [], [⟨15, 8, .ro, 1⟩, ⟨7, 0, .ro, 0⟩]⟩,
  -- PORT_TORUS (11 R285): EXT
  ⟨0x20C008, [], [⟨11, 0, .rws, 0⟩]⟩,
  -- PORT_LINKTMR (11 R285): REPLAY_MAX, REPLAY_TO
  ⟨0x20C00C, [], [⟨15, 8, .rws, 8⟩, ⟨7, 0, .rws, 4⟩]⟩,
  -- PORT_ID_LO (11 R285): ID
  ⟨0x20C010, [], [⟨31, 0, .ro, 0⟩]⟩,
  -- PORT_ID_HI (11 R285): ID
  ⟨0x20C014, [], [⟨31, 0, .ro, 0⟩]⟩,
  -- PORT_PLANDIG_LO (11 R285): PLANDIG
  ⟨0x20C018, [], [⟨31, 0, .rws, 0⟩]⟩,
  -- PORT_PLANDIG_HI (11 R285): PLANDIG
  ⟨0x20C01C, [], [⟨31, 0, .rws, 0⟩]⟩,
  -- PORT_AXISSTAT (11 R285): STATE
  ⟨0x20C020, [], [⟨11, 0, .ro, 0⟩]⟩,
  -- PORT_CMD (11 R285): ADOPT, EPORT
  ⟨0x20C028, [], [⟨31, 31, .wo, 0⟩, ⟨5, 0, .wo, 0⟩]⟩,
  -- PORT_CMDSTAT (11 R285): BUSY, STATUS
  ⟨0x20C02C, [], [⟨31, 31, .ro, 0⟩, ⟨7, 0, .ro, 0⟩]⟩]

/-- PORT registers, part 1. -/
def regsPort1 : List RegDef := [
  -- PORT_PLAN.w0 (11 R285): VALID, LPORT
  ⟨0x20C040, [(6, 0x10)], [⟨31, 31, .rws, 0⟩, ⟨5, 0, .rws, 0⟩]⟩,
  -- PORT_PLAN.w1 (11 R285): ID_LO
  ⟨0x20C044, [(6, 0x10)], [⟨31, 0, .rws, 0⟩]⟩,
  -- PORT_PLAN.w2 (11 R285): ID_HI
  ⟨0x20C048, [(6, 0x10)], [⟨31, 0, .rws, 0⟩]⟩,
  -- PORT_PLAN.w3 (11 R285): 
  ⟨0x20C04C, [(6, 0x10)], []⟩]

/-- All PORT registers. -/
def regsPort : List RegDef := regsPort0 ++ regsPort1

/-- PRS registers. -/
def regsPrs : List RegDef := [
  -- PRS_CTL (03 R79): EN
  ⟨0x300000, [], [⟨31, 31, .rws, 0⟩]⟩,
  -- PRS_STAT (03 R79): CTX_PEAK, CTX_BUSY
  ⟨0x300004, [], [⟨25, 16, .rw, 0⟩, ⟨9, 0, .ro, 0⟩]⟩,
  -- PRS_CNT_HEADS (03 R79): COUNT
  ⟨0x300020, [], [⟨31, 0, .rw, 0⟩]⟩,
  -- PRS_CNT_NOMATCH (03 R79): COUNT
  ⟨0x300024, [], [⟨31, 0, .rw, 0⟩]⟩,
  -- PRS_CNT_DROP (03 R79): COUNT
  ⟨0x300028, [], [⟨31, 0, .rw, 0⟩]⟩,
  -- PRS_CNT_FAIL (03 R79): COUNT
  ⟨0x30002C, [], [⟨31, 0, .rw, 0⟩]⟩,
  -- PRS_CNT_BUSY (03 R79): COUNT
  ⟨0x300030, [], [⟨31, 0, .rw, 0⟩]⟩,
  -- PRS_CNT_PROG (03 R79): COUNT
  ⟨0x300034, [], [⟨31, 0, .rw, 0⟩]⟩,
  -- PRS_CNT_SHORT (03 R79): COUNT
  ⟨0x300038, [], [⟨31, 0, .rw, 0⟩]⟩,
  -- PRS_SEL.w0 (03 R79): KEY_LO
  ⟨0x301000, [(64, 0x20)], [⟨31, 0, .rws, 0⟩]⟩,
  -- PRS_SEL.w1 (03 R79): KEY_HI
  ⟨0x301004, [(64, 0x20)], [⟨31, 0, .rws, 0⟩]⟩,
  -- PRS_SEL.w2 (03 R79): MASK_LO
  ⟨0x301008, [(64, 0x20)], [⟨31, 0, .rws, 0⟩]⟩,
  -- PRS_SEL.w3 (03 R79): MASK_HI
  ⟨0x30100C, [(64, 0x20)], [⟨31, 0, .rws, 0⟩]⟩,
  -- PRS_SEL.w4 (03 R79): VALID, HANDLER
  ⟨0x301010, [(64, 0x20)], [⟨31, 31, .rws, 0⟩, ⟨5, 0, .rws, 0⟩]⟩,
  -- PRS_SEL.w5 (03 R79): 
  ⟨0x301014, [(64, 0x20)], []⟩,
  -- PRS_SEL.w6 (03 R79): 
  ⟨0x301018, [(64, 0x20)], []⟩,
  -- PRS_SEL.w7 (03 R79): 
  ⟨0x30101C, [(64, 0x20)], []⟩,
  -- PRS_HDL.w0 (03 R79): VALID, ENTRY, LEN
  ⟨0x302000, [(64, 0x10)], [⟨31, 31, .rws, 0⟩, ⟨27, 16, .rws, 0⟩, ⟨6, 0, .rws, 0⟩]⟩,
  -- PRS_HDL.w1 (03 R79): MAX_LEN
  ⟨0x302004, [(64, 0x10)], [⟨18, 0, .rws, 0⟩]⟩,
  -- PRS_HDL.w2 (03 R79): T88_VALID, T88, T6_VALID, T6, T4_VALID, T4
  ⟨0x302008, [(64, 0x10)], [⟨31, 31, .rws, 0⟩, ⟨30, 24, .rws, 0⟩, ⟨23, 23, .rws, 0⟩, ⟨22, 16, .rws, 0⟩, ⟨15, 15, .rws, 0⟩, ⟨14, 8, .rws, 0⟩]⟩,
  -- PRS_HDL.w3 (03 R79): 
  ⟨0x30200C, [(64, 0x10)], []⟩,
  -- PRS_IMEM (03 R79): INSTR
  ⟨0x310000, [(4096, 0x4)], [⟨31, 0, .rws, 0⟩]⟩]

/-- CONV registers. -/
def regsConv : List RegDef := [
  -- CONV_CTL (10 R258): UDP_PORT
  ⟨0x400000, [], [⟨15, 0, .rws, 0x4368⟩]⟩,
  -- CONV_TMR0 (10 R258): LINGER, IDLE
  ⟨0x400004, [], [⟨31, 16, .rws, 0x64⟩, ⟨15, 0, .rws, 0x3E8⟩]⟩,
  -- CONV_TMR1 (10 R258): EGRESS, GAP
  ⟨0x400008, [], [⟨31, 16, .rws, 0xA⟩, ⟨15, 0, .rws, 0xC8⟩]⟩,
  -- CONV_RA0 (10 R258): CTX, SLOT
  ⟨0x40000C, [], [⟨31, 16, .rws, 0x64⟩, ⟨15, 0, .rws, 0x14⟩]⟩,
  -- CONV_RA1 (10 R258): DUP, CACHE
  ⟨0x400010, [], [⟨31, 16, .rws, 0xA⟩, ⟨15, 0, .rws, 0x32⟩]⟩,
  -- CONV_STAT_OPEN (10 R258): OPEN
  ⟨0x400020, [], [⟨17, 0, .ro, 0⟩]⟩,
  -- CONV_STAT_CACHE (10 R258): USED
  ⟨0x400024, [], [⟨18, 0, .ro, 0⟩]⟩,
  -- CONV_STAT_SLOTS (10 R258): USED
  ⟨0x400028, [], [⟨16, 0, .ro, 0⟩]⟩,
  -- CONV_CNT_OPEN (10 R258): COUNT
  ⟨0x400040, [], [⟨31, 0, .rw, 0⟩]⟩,
  -- CONV_CNT_CLOSE (10 R258): COUNT
  ⟨0x400044, [], [⟨31, 0, .rw, 0⟩]⟩,
  -- CONV_CNT_REPLAY (10 R258): COUNT
  ⟨0x400048, [], [⟨31, 0, .rw, 0⟩]⟩,
  -- CONV_CNT_STALE (10 R258): COUNT
  ⟨0x40004C, [], [⟨31, 0, .rw, 0⟩]⟩,
  -- CONV_CNT_OOW (10 R258): COUNT
  ⟨0x400050, [], [⟨31, 0, .rw, 0⟩]⟩,
  -- CONV_CNT_BUSY (10 R258): COUNT
  ⟨0x400054, [], [⟨31, 0, .rw, 0⟩]⟩,
  -- CONV_CNT_GAP (10 R258): COUNT
  ⟨0x400058, [], [⟨31, 0, .rw, 0⟩]⟩,
  -- CONV_CNT_OWNER (10 R258): COUNT
  ⟨0x40005C, [], [⟨31, 0, .rw, 0⟩]⟩,
  -- CONV_CNT_FRAME (10 R258): COUNT
  ⟨0x400060, [], [⟨31, 0, .rw, 0⟩]⟩,
  -- CONV_CNT_EGRESS (10 R258): COUNT
  ⟨0x400064, [], [⟨31, 0, .rw, 0⟩]⟩,
  -- CONV_SEL (10 R258): CONV
  ⟨0x400080, [], [⟨16, 0, .rw, 0⟩]⟩,
  -- CONV_INFO0 (10 R258): BASE
  ⟨0x400084, [], [⟨31, 0, .ro, 0⟩]⟩,
  -- CONV_INFO1 (10 R258): STATE, INC, CTX_VALID, CTX
  ⟨0x400088, [], [⟨31, 30, .ro, 0⟩, ⟨29, 16, .ro, 0⟩, ⟨15, 15, .ro, 0⟩, ⟨13, 0, .ro, 0⟩]⟩,
  -- CONV_INFO2 (10 R258): FINAL, DONE
  ⟨0x40008C, [], [⟨16, 9, .ro, 0⟩, ⟨8, 0, .ro, 0⟩]⟩]

/-- BOOM registers. -/
def regsBoom : List RegDef := [
  -- BOOM_CTL (09 R234): EN, RETAIN
  ⟨0x500000, [], [⟨31, 31, .rws, 0⟩, ⟨15, 0, .rws, 0x2710⟩]⟩,
  -- BOOM_TMR (09 R234): GRACE, RETRY, RTO
  ⟨0x500004, [], [⟨23, 16, .rws, 0xA⟩, ⟨15, 8, .rws, 8⟩, ⟨7, 0, .rws, 0x14⟩]⟩,
  -- BOOM_STAT (09 R234): BUF_USED, OPEN
  ⟨0x500008, [], [⟨26, 16, .ro, 0⟩, ⟨13, 0, .ro, 0⟩]⟩,
  -- BOOM_SLICE (09 R234): WRAP, EXT, ORG
  ⟨0x500010, [], [⟨26, 24, .rws, 0⟩, ⟨23, 12, .rws, 0⟩, ⟨11, 0, .rws, 0⟩]⟩,
  -- BOOM_SELF (09 R234): SELF
  ⟨0x500014, [], [⟨11, 0, .rws, 0⟩]⟩,
  -- BOOM_HOST (09 R234): IPV6, PCP, PORT
  ⟨0x500018, [], [⟨31, 31, .rws, 0⟩, ⟨14, 12, .rws, 0⟩, ⟨5, 0, .rws, 0⟩]⟩,
  -- BOOM_GWMAC_LO (09 R234): MAC_LO
  ⟨0x50001C, [], [⟨31, 0, .rws, 0⟩]⟩,
  -- BOOM_GWMAC_HI (09 R234): MAC_HI
  ⟨0x500020, [], [⟨15, 0, .rws, 0⟩]⟩,
  -- BOOM_NET (09 R234): NET
  ⟨0x500030, [(4, 0x4)], [⟨31, 0, .rws, 0⟩]⟩,
  -- BOOM_CNT_DONE (09 R234): COUNT
  ⟨0x500040, [], [⟨31, 0, .rw, 0⟩]⟩,
  -- BOOM_CNT_FAIL (09 R234): COUNT
  ⟨0x500044, [], [⟨31, 0, .rw, 0⟩]⟩,
  -- BOOM_CNT_DUP (09 R234): COUNT
  ⟨0x500048, [], [⟨31, 0, .rw, 0⟩]⟩,
  -- BOOM_CNT_STALE (09 R234): COUNT
  ⟨0x50004C, [], [⟨31, 0, .rw, 0⟩]⟩,
  -- BOOM_CNT_REFUSE (09 R234): COUNT
  ⟨0x500050, [], [⟨31, 0, .rw, 0⟩]⟩,
  -- BOOM_CNT_RESEND (09 R234): COUNT
  ⟨0x500054, [], [⟨31, 0, .rw, 0⟩]⟩,
  -- BOOM_OP.w0 (09 R234): VALID, KIND, IFMT, RWIDE, LM1, SCALE
  ⟨0x580000, [(8192, 0x10)], [⟨31, 31, .rws, 0⟩, ⟨30, 28, .rws, 0⟩, ⟨27, 24, .rws, 0⟩, ⟨23, 23, .rws, 0⟩, ⟨21, 16, .rws, 0⟩, ⟨15, 8, .rws, 0⟩]⟩,
  -- BOOM_OP.w1 (09 R234): ELEMS
  ⟨0x580004, [(8192, 0x10)], [⟨22, 0, .rws, 0⟩]⟩,
  -- BOOM_OP.w2 (09 R234): ROOT
  ⟨0x580008, [(8192, 0x10)], [⟨17, 0, .rws, 0⟩]⟩,
  -- BOOM_OP.w3 (09 R234): TIMEOUT
  ⟨0x58000C, [(8192, 0x10)], [⟨19, 0, .rws, 0⟩]⟩]

/-- RPLY registers, part 0. -/
def regsRply0 : List RegDef := [
  -- RPLY_SPECCTL (02 R54): SPEC_MAX, QUAD_EN
  ⟨0x600000, [], [⟨31, 16, .rws, 0x40⟩, ⟨11, 0, .rws, 0xFFF⟩]⟩,
  -- RPLY_SPECSTAT (02 R54): SUPPRESSED, ACTIVE
  ⟨0x600004, [], [⟨27, 16, .ro, 0⟩, ⟨11, 0, .ro, 0⟩]⟩,
  -- RPLY_CNT_STOMP_BAD (02 R55): COUNT
  ⟨0x600020, [], [⟨31, 0, .rw, 0⟩]⟩,
  -- RPLY_CNT_STOMP_EXH (02 R55): COUNT
  ⟨0x600024, [], [⟨31, 0, .rw, 0⟩]⟩,
  -- RPLY_CNT_REISSUE (02 R55): COUNT
  ⟨0x600028, [], [⟨31, 0, .rw, 0⟩]⟩,
  -- RPLY_CNT_RERUN (02 R55): COUNT
  ⟨0x60002C, [], [⟨31, 0, .rw, 0⟩]⟩,
  -- RPLY_CNT_TRUNC (02 R55): COUNT
  ⟨0x600030, [], [⟨31, 0, .rw, 0⟩]⟩,
  -- RPLY_CNT_SKIDOVR (02 R55): COUNT
  ⟨0x600034, [], [⟨31, 0, .rw, 0⟩]⟩,
  -- RPLY_CNT_LOST (02 R55): COUNT
  ⟨0x600038, [], [⟨31, 0, .rw, 0⟩]⟩,
  -- RPLY_EXTMAX (02 R55): EXTMAX
  ⟨0x60003C, [], [⟨11, 0, .rw, 0⟩]⟩,
  -- RPLY_DIGSTAT (13 R329): PAIRS, BACKLOG_PEAK
  ⟨0x600040, [], [⟨21, 16, .ro, 0⟩, ⟨6, 0, .rw, 0⟩]⟩,
  -- RPLY_CNT_DIGEST (13 R329): COUNT
  ⟨0x600044, [], [⟨31, 0, .rw, 0⟩]⟩,
  -- RPLY_CNT_DIGUNAV (13 R329): COUNT
  ⟨0x600048, [], [⟨31, 0, .rw, 0⟩]⟩,
  -- RPLY_CNT_FLLATE (13 R329): COUNT
  ⟨0x60004C, [], [⟨31, 0, .rw, 0⟩]⟩,
  -- RPLY_CNT_EXUNAV (13 R329): COUNT
  ⟨0x600050, [], [⟨31, 0, .rw, 0⟩]⟩,
  -- RPLY_DEST.w0 (02 R56): VALID, CARRIAGE, VLAN_EN, VID, PCP, PORT
  ⟨0x601040, [(63, 0x40)], [⟨31, 31, .rws, 0⟩, ⟨30, 29, .rws, 0⟩, ⟨28, 28, .rws, 0⟩, ⟨27, 16, .rws, 0⟩, ⟨15, 13, .rws, 0⟩, ⟨5, 0, .rws, 0⟩]⟩,
  -- RPLY_DEST.w1 (02 R56): MAC_LO
  ⟨0x601044, [(63, 0x40)], [⟨31, 0, .rws, 0⟩]⟩,
  -- RPLY_DEST.w2 (02 R56): UDP_DPORT, MAC_HI
  ⟨0x601048, [(63, 0x40)], [⟨31, 16, .rws, 0x4368⟩, ⟨15, 0, .rws, 0⟩]⟩,
  -- RPLY_DEST.w3 (02 R56): UDP_SPORT, HOP, TCLASS
  ⟨0x60104C, [(63, 0x40)], [⟨31, 16, .rws, 0x4368⟩, ⟨15, 8, .rws, 0x40⟩, ⟨7, 0, .rws, 0⟩]⟩,
  -- RPLY_DEST.dst (02 R56): DST_IP
  ⟨0x601050, [(63, 0x40), (4, 0x4)], [⟨31, 0, .rws, 0⟩]⟩,
  -- RPLY_DEST.src (02 R56): SRC_IP
  ⟨0x601060, [(63, 0x40), (4, 0x4)], [⟨31, 0, .rws, 0⟩]⟩,
  -- RPLY_DEST.rsv (02 R56): 
  ⟨0x601070, [(63, 0x40), (4, 0x4)], []⟩,
  -- RPLY_TMPL.hdr (02 R50): VALID, CARRIAGE, IMAGE_LEN
  ⟨0x610000, [(128, 0x200)], [⟨31, 31, .rws, 0⟩, ⟨30, 29, .rws, 0⟩, ⟨8, 0, .rws, 0⟩]⟩,
  -- RPLY_TMPL.fill (02 R50): OFFSET, LEN, SOURCE, ARG
  ⟨0x610004, [(128, 0x200), (31, 0x4)], [⟨31, 24, .rws, 0⟩, ⟨23, 16, .rws, 0⟩, ⟨15, 8, .rws, 0⟩, ⟨7, 0, .rws, 0⟩]⟩]

/-- RPLY registers, part 1. -/
def regsRply1 : List RegDef := [
  -- RPLY_TMPL.image (02 R50): IMAGE
  ⟨0x610080, [(128, 0x200), (64, 0x4)], [⟨31, 0, .rws, 0⟩]⟩,
  -- RPLY_TMPL.rsv (02 R50): 
  ⟨0x610180, [(128, 0x200), (32, 0x4)], []⟩]

/-- All RPLY registers. -/
def regsRply : List RegDef := regsRply0 ++ regsRply1

/-- JRNL registers. -/
def regsJrnl : List RegDef := [
  -- JRNL_RING_LO (16 R397): ADDR
  ⟨0x700000, [], [⟨31, 0, .rwl, 0⟩]⟩,
  -- JRNL_RING_HI (16 R397): ADDR
  ⟨0x700004, [], [⟨31, 0, .rwl, 0⟩]⟩,
  -- JRNL_HEAD_LO (16 R397): SEQ
  ⟨0x700008, [], [⟨31, 0, .ro, 0⟩]⟩,
  -- JRNL_HEAD_HI (16 R397): SEQ
  ⟨0x70000C, [], [⟨31, 0, .ro, 0⟩]⟩,
  -- JRNL_EXP_LO (16 R397): SEQ
  ⟨0x700010, [], [⟨31, 0, .rw, 0⟩]⟩,
  -- JRNL_EXP_HI (16 R397): SEQ
  ⟨0x700014, [], [⟨31, 0, .rw, 0⟩]⟩,
  -- JRNL_STAT (16 R397): FULL, LOW, ONDIE, FREE
  ⟨0x700018, [], [⟨31, 31, .ro, 0⟩, ⟨30, 30, .ro, 0⟩, ⟨28, 16, .ro, 0⟩, ⟨15, 0, .ro, 0⟩]⟩,
  -- JRNL_CHAIN (16 R397): CHAIN
  ⟨0x700020, [(4, 0x4)], [⟨31, 0, .ro, 0⟩]⟩]

/-- RPR registers. -/
def regsRpr : List RegDef := [
  -- RPR_CTL (15 R372): SUSPECT_WIN
  ⟨0x800000, [], [⟨7, 0, .rws, 0xA⟩]⟩,
  -- RPR_CRUISE (15 R372): EN, SLOTNUM, SLOT
  ⟨0x800004, [], [⟨31, 31, .rws, 1⟩, ⟨24, 16, .ro, 0⟩, ⟨11, 0, .rws, 0x7D0⟩]⟩,
  -- RPR_STAT (15 R372): BOOT_FAIL, PASSES, UNTESTED
  ⟨0x800008, [], [⟨31, 31, .ro, 0⟩, ⟨27, 16, .ro, 0⟩, ⟨15, 0, .ro, 0⟩]⟩,
  -- RPR_HB (15 R372): EN, TEMPLATE, DEST, PERIOD
  ⟨0x80000C, [], [⟨31, 31, .rws, 0⟩, ⟨30, 24, .rws, 0⟩, ⟨21, 16, .rws, 0⟩, ⟨9, 0, .rws, 0x64⟩]⟩,
  -- RPR_CMD (15 R372): OP, LEVEL, DIE, CMPT, STAND, UNIT
  ⟨0x800010, [], [⟨31, 28, .wo, 0⟩, ⟨27, 24, .wo, 0⟩, ⟨23, 22, .wo, 0⟩, ⟨21, 19, .wo, 0⟩, ⟨18, 15, .wo, 0⟩, ⟨11, 0, .wo, 0⟩]⟩,
  -- RPR_CMDSTAT (15 R372): BUSY, STATUS
  ⟨0x800014, [], [⟨31, 31, .ro, 0⟩, ⟨7, 0, .ro, 0⟩]⟩,
  -- RPR_MAPSTAT (15 R372): FLASH_VALID, FLASH_MATCH, ENTRIES
  ⟨0x800018, [], [⟨31, 31, .ro, 0⟩, ⟨30, 30, .ro, 0⟩, ⟨12, 0, .ro, 0⟩]⟩,
  -- RPR_MAPSEL (15 R372): INDEX
  ⟨0x80001C, [], [⟨11, 0, .rw, 0⟩]⟩,
  -- RPR_MAPENT_LO (15 R372): ENTRY
  ⟨0x800020, [], [⟨31, 0, .ro, 0⟩]⟩,
  -- RPR_MAPENT_HI (15 R372): ENTRY
  ⟨0x800024, [], [⟨31, 0, .ro, 0⟩]⟩,
  -- RPR_CNT_REPAIR (15 R372): COUNT
  ⟨0x800040, [], [⟨31, 0, .rw, 0⟩]⟩,
  -- RPR_CNT_TRANSIENT (15 R372): COUNT
  ⟨0x800044, [], [⟨31, 0, .rw, 0⟩]⟩,
  -- RPR_CNT_RETIRE (15 R372): COUNT
  ⟨0x800048, [], [⟨31, 0, .rw, 0⟩]⟩,
  -- RPR_CNT_CRUISEFAIL (15 R372): COUNT
  ⟨0x80004C, [], [⟨31, 0, .rw, 0⟩]⟩,
  -- RPR_CNT_ITEMRETRY (15 R372): COUNT
  ⟨0x800050, [], [⟨31, 0, .rw, 0⟩]⟩,
  -- RPR_CNT_ITEMFINAL (15 R372): COUNT
  ⟨0x800054, [], [⟨31, 0, .rw, 0⟩]⟩,
  -- RPR_UNSHADOW (15 R372): SETS
  ⟨0x800080, [(4, 0x4)], [⟨8, 0, .ro, 0⟩]⟩]

/-- PWR registers. -/
def regsPwr : List RegDef := [
  -- PWR_CTL (16 R397): REQ, AUTOWAKE
  ⟨0x900000, [], [⟨31, 30, .rw, 0⟩, ⟨29, 29, .rw, 0⟩]⟩,
  -- PWR_STAT (16 R397): STATE, SUPPLY_WARN, THERM, HOLD, REFUSED
  ⟨0x900004, [], [⟨31, 30, .ro, 0⟩, ⟨29, 29, .ro, 0⟩, ⟨28, 27, .ro, 0⟩, ⟨26, 26, .ro, 0⟩, ⟨25, 22, .ro, 0⟩]⟩,
  -- PWR_TEMP (16 R397): PEAK, TJ
  ⟨0x900010, [(5, 0x4)], [⟨26, 16, .rw, 0⟩, ⟨10, 0, .ro, 0⟩]⟩,
  -- PWR_CNT_WARN (16 R397): COUNT
  ⟨0x900030, [], [⟨31, 0, .rw, 0⟩]⟩,
  -- PWR_CNT_THROTTLE (16 R397): COUNT
  ⟨0x900034, [], [⟨31, 0, .rw, 0⟩]⟩,
  -- PWR_CNT_HOLD (16 R397): COUNT
  ⟨0x900038, [], [⟨31, 0, .rw, 0⟩]⟩]

/-- TWIN registers. -/
def regsTwin : List RegDef := [
  -- TWIN_CTL (15 R372): EN, ROLE
  ⟨0xA00000, [], [⟨31, 31, .rwl, 0⟩, ⟨30, 30, .rwl, 0⟩]⟩,
  -- TWIN_STAT (15 R372): STATE, REASON, ALIVE_IN
  ⟨0xA00004, [], [⟨31, 29, .ro, 0⟩, ⟨28, 26, .ro, 0⟩, ⟨0, 0, .ro, 0⟩]⟩,
  -- TWIN_TMR (15 R372): MATCH, LOSS
  ⟨0xA00008, [], [⟨15, 8, .rws, 2⟩, ⟨7, 0, .rws, 0x14⟩]⟩,
  -- TWIN_SEND_LO (15 R372): SEND
  ⟨0xA00010, [], [⟨31, 0, .rws, 0⟩]⟩,
  -- TWIN_SEND_HI (15 R372): SEND
  ⟨0xA00014, [], [⟨15, 0, .rws, 0⟩]⟩,
  -- TWIN_PEER_LO (15 R372): ID
  ⟨0xA00018, [], [⟨31, 0, .ro, 0⟩]⟩,
  -- TWIN_PEER_HI (15 R372): ID
  ⟨0xA0001C, [], [⟨31, 0, .ro, 0⟩]⟩,
  -- TWIN_CNT_MISMATCH (15 R372): COUNT
  ⟨0xA00020, [], [⟨31, 0, .rw, 0⟩]⟩,
  -- TWIN_CNT_UNMATCHED (15 R372): COUNT
  ⟨0xA00024, [], [⟨31, 0, .rw, 0⟩]⟩,
  -- TWIN_CNT_OWNBAD (15 R372): COUNT
  ⟨0xA00028, [], [⟨31, 0, .rw, 0⟩]⟩,
  -- TWIN_CNT_UNCHECKED (15 R372): COUNT
  ⟨0xA0002C, [], [⟨31, 0, .rw, 0⟩]⟩]

/-- DIE registers, part 0. -/
def regsDie0 : List RegDef := [
  -- FRST_CNT_SHADOW (05 R134): COUNT
  ⟨0x1000000, [(4, 0x800000)], [⟨31, 0, .rw, 0⟩]⟩,
  -- FRST_CNT_LATE (05 R134): COUNT
  ⟨0x1000004, [(4, 0x800000)], [⟨31, 0, .rw, 0⟩]⟩,
  -- FRST_CNT_PASS (05 R134): COUNT
  ⟨0x1000008, [(4, 0x800000)], [⟨31, 0, .rw, 0⟩]⟩,
  -- FRST_STRM_LO (05 R134): STRM
  ⟨0x1000010, [(4, 0x800000)], [⟨31, 0, .ro, 0⟩]⟩,
  -- FRST_STRM_HI (05 R134): STRM
  ⟨0x1000014, [(4, 0x800000)], [⟨31, 0, .ro, 0⟩]⟩,
  -- FRST_ENGUSE (05 R134): STATE, STAT, BATCH, FREE
  ⟨0x1000100, [(4, 0x800000), (16, 0x4)], [⟨31, 30, .ro, 0⟩, ⟨26, 18, .ro, 0⟩, ⟨17, 9, .ro, 0⟩, ⟨8, 0, .ro, 0⟩]⟩,
  -- FRST_ENGRSV (05 R134): INSVC, RSV
  ⟨0x1000140, [(4, 0x800000), (16, 0x4)], [⟨24, 16, .ro, 0⟩, ⟨5, 0, .ro, 0⟩]⟩,
  -- FRST_TSSTAT (05 R134): USED, RESV
  ⟨0x1000180, [(4, 0x800000), (8, 0x4)], [⟨28, 16, .ro, 0⟩, ⟨12, 0, .ro, 0⟩]⟩,
  -- ARR_CNT_ADMIT (06 R168): COUNT
  ⟨0x1001000, [(4, 0x800000)], [⟨31, 0, .rw, 0⟩]⟩,
  -- ARR_CNT_OVERRUN (06 R168): COUNT
  ⟨0x1001004, [(4, 0x800000)], [⟨31, 0, .rw, 0⟩]⟩,
  -- ARR_CNT_BUSYCTX (06 R168): COUNT
  ⟨0x1001008, [(4, 0x800000)], [⟨31, 0, .rw, 0⟩]⟩,
  -- ARR_CNT_PARITY (06 R168): COUNT
  ⟨0x100100C, [(4, 0x800000)], [⟨31, 0, .rw, 0⟩]⟩,
  -- ARR_OVRFLAG (06 R168): FLAG
  ⟨0x1001100, [(4, 0x800000), (32, 0x4)], [⟨31, 0, .w1c, 0⟩]⟩,
  -- ARR_STAND (06 R168): STATE, LSTAND, CORE_MAP
  ⟨0x1001200, [(4, 0x800000), (72, 0x4)], [⟨31, 30, .ro, 0⟩, ⟨27, 25, .ro, 0⟩, ⟨16, 0, .ro, 0⟩]⟩,
  -- ARR_SMUSE (06 R168): CORES, SM_USED
  ⟨0x1001400, [(4, 0x800000), (72, 0x4)], [⟨20, 16, .ro, 0⟩, ⟨9, 0, .ro, 0⟩]⟩,
  -- ARR_CTXUSE_LO (06 R168): USE
  ⟨0x1001600, [(4, 0x800000), (72, 0x8)], [⟨31, 0, .ro, 0⟩]⟩,
  -- ARR_CTXUSE_HI (06 R168): USE
  ⟨0x1001604, [(4, 0x800000), (72, 0x8)], [⟨31, 0, .ro, 0⟩]⟩,
  -- SEQ_CNT_TOKENS (08 R212): COUNT
  ⟨0x1002000, [(4, 0x800000)], [⟨31, 0, .rw, 0⟩]⟩,
  -- SEQ_CNT_ROLLBACK (08 R212): COUNT
  ⟨0x1002004, [(4, 0x800000)], [⟨31, 0, .rw, 0⟩]⟩,
  -- SEQ_CNT_CKPT (08 R212): COUNT
  ⟨0x1002008, [(4, 0x800000)], [⟨31, 0, .rw, 0⟩]⟩,
  -- SEQ_CNT_LATE (08 R212): COUNT
  ⟨0x100200C, [(4, 0x800000)], [⟨31, 0, .rw, 0⟩]⟩,
  -- SEQ_CNT_FINAL (08 R212): COUNT
  ⟨0x1002010, [(4, 0x800000)], [⟨31, 0, .rw, 0⟩]⟩,
  -- SEQ_CTXUSE (08 R212): OPEN, RSV
  ⟨0x1002020, [(4, 0x800000)], [⟨28, 16, .ro, 0⟩, ⟨12, 0, .ro, 0⟩]⟩,
  -- SEQ_SEL (08 R212): ENTRY
  ⟨0x1002030, [(4, 0x800000)], [⟨11, 0, .rw, 0⟩]⟩]

/-- DIE registers, part 1. -/
def regsDie1 : List RegDef := [
  -- SEQ_INFO0 (08 R212): POSITION
  ⟨0x1002034, [(4, 0x800000)], [⟨31, 0, .ro, 0⟩]⟩,
  -- SEQ_INFO1 (08 R212): RBPOINT
  ⟨0x1002038, [(4, 0x800000)], [⟨31, 0, .ro, 0⟩]⟩,
  -- SEQ_INFO2 (08 R212): STATE, HANDLE, VERSION
  ⟨0x100203C, [(4, 0x800000)], [⟨31, 30, .ro, 0⟩, ⟨25, 16, .ro, 0⟩, ⟨15, 0, .ro, 0⟩]⟩,
  -- SEQ_INFO3 (08 R212): CONV_VALID, COPY, CONV
  ⟨0x1002040, [(4, 0x800000)], [⟨31, 31, .ro, 0⟩, ⟨26, 17, .ro, 0⟩, ⟨16, 0, .ro, 0⟩]⟩,
  -- MEM_DCTL (14 R344): STEER_THR
  ⟨0x1003000, [(4, 0x800000)], [⟨7, 0, .rw, 0x10⟩]⟩,
  -- MEM_SSTAT (14 R344): SWEEP, SCRUB_LATE, SPARES, POINTER
  ⟨0x1003004, [(4, 0x800000)], [⟨31, 31, .ro, 0⟩, ⟨30, 30, .w1c, 0⟩, ⟨11, 8, .ro, 0⟩, ⟨7, 0, .ro, 0⟩]⟩,
  -- MEM_POOL (14 R344): FREE
  ⟨0x1003008, [(4, 0x800000)], [⟨31, 0, .ro, 0⟩]⟩,
  -- MEM_CNT_DCE (14 R344): COUNT
  ⟨0x1003010, [(4, 0x800000)], [⟨31, 0, .rw, 0⟩]⟩,
  -- MEM_CNT_DUE (14 R344): COUNT
  ⟨0x1003014, [(4, 0x800000)], [⟨31, 0, .rw, 0⟩]⟩,
  -- MEM_CNT_SCE (14 R344): COUNT
  ⟨0x1003018, [(4, 0x800000)], [⟨31, 0, .rw, 0⟩]⟩,
  -- MEM_CNT_SUE (14 R344): COUNT
  ⟨0x100301C, [(4, 0x800000)], [⟨31, 0, .rw, 0⟩]⟩,
  -- MEM_CNT_APDROP (14 R344): COUNT
  ⟨0x1003020, [(4, 0x800000)], [⟨31, 0, .rw, 0⟩]⟩,
  -- MEM_UELOG_LO (14 R344): ADDR
  ⟨0x1003028, [(4, 0x800000)], [⟨31, 0, .ro, 0⟩]⟩,
  -- MEM_UELOG_HI (14 R344): ADDR
  ⟨0x100302C, [(4, 0x800000)], [⟨31, 0, .ro, 0⟩]⟩,
  -- MEM_STEER (14 R344): VALID, FROM, TO
  ⟨0x1003040, [(4, 0x800000), (11, 0x4)], [⟨31, 31, .ro, 0⟩, ⟨14, 8, .ro, 0⟩, ⟨6, 0, .ro, 0⟩]⟩]

/-- All DIE registers. -/
def regsDie : List RegDef := regsDie0 ++ regsDie1

/-- The registers of the block that an offset lies in (Table 0-3). -/
def regsOf (off : Nat) : List RegDef :=
  match off / 0x100000 with
  | 0 => regsGctl
  | 1 => regsTime
  | 2 => regsPort
  | 3 => regsPrs
  | 4 => regsConv
  | 5 => regsBoom
  | 6 => regsRply
  | 7 => regsJrnl
  | 8 => regsRpr
  | 9 => regsPwr
  | 10 => regsTwin
  | _ => if 0x1000000 ≤ off ∧ off < 0x3000000 then regsDie else []

/-- The register an offset names. -/
def regDef (off : Nat) : Option RegDef := (regsOf off).find? (fun d => d.at off)

/-- The Reset column of a register, zero for an offset with no register (log 8). -/
def regReset (off : Nat) : Word :=
  match regDef off with
  | some d => BitVec.ofNat 32 d.resetWord
  | none => 0

/-- The bits of a register with one access type. -/
def regMask (off : Nat) (a : Acc) : Word :=
  match regDef off with
  | some d => BitVec.ofNat 32 (d.mask a)
  | none => 0

/-! Offsets by register name. -/
namespace Reg

def GCTL_ID : Nat := 0x0
def GCTL_STAT : Nat := 0x4
def GCTL_COMMIT : Nat := 0x8
def GCTL_COMMITSTAT : Nat := 0xC
def GCTL_SECURE : Nat := 0x10
def GCTL_RESET : Nat := 0x14
def GCTL_BAR2WIN : Nat := 0x18
def GCTL_MSGBUF : Nat := 0x1C
def GCTL_MODE : Nat := 0x20
def GCTL_TICK_LO : Nat := 0x40
def GCTL_TICK_HI : Nat := 0x44
def GCTL_TICKPHASE : Nat := 0x48
def GCTL_DIECAP (i : Nat) : Nat := 0x100 + i * 0x4
def GCTL_PKGCAP : Nat := 0x110
def GCTL_HCLASS (i : Nat) : Nat := 0x200 + i * 0x4
def GCTL_MEMCTL : Nat := 0x400
def GCTL_STRIPE_LO : Nat := 0x404
def GCTL_STRIPE_HI : Nat := 0x408
def GCTL_APWIN : Nat := 0x40C
def GCTL_CNT_HUBCE : Nat := 0x410
def GCTL_CNT_HUBUE : Nat := 0x414
def GCTL_GRANT_w0 (i : Nat) : Nat := 0x800 + i * 0x10
def GCTL_GRANT_w1 (i : Nat) : Nat := 0x804 + i * 0x10
def GCTL_GRANT_w2 (i : Nat) : Nat := 0x808 + i * 0x10
def GCTL_GRANT_w3 (i : Nat) : Nat := 0x80C + i * 0x10
def GCTL_MBOX_LO : Nat := 0xC00
def GCTL_MBOX_HI : Nat := 0xC04
def GCTL_MBOX_STAT : Nat := 0xC08
def GCTL_EVQ_w0 (i : Nat) : Nat := 0xD00 + i * 0x20
def GCTL_EVQ_w1 (i : Nat) : Nat := 0xD04 + i * 0x20
def GCTL_EVQ_w2 (i : Nat) : Nat := 0xD08 + i * 0x20
def GCTL_EVQ_w3 (i : Nat) : Nat := 0xD0C + i * 0x20
def GCTL_EVQ_w4 (i : Nat) : Nat := 0xD10 + i * 0x20
def GCTL_EVQ_w5 (i : Nat) : Nat := 0xD14 + i * 0x20
def GCTL_EVQ_w6 (i : Nat) : Nat := 0xD18 + i * 0x20
def GCTL_EVQ_w7 (i : Nat) : Nat := 0xD1C + i * 0x20
def GCTL_EVCNT (i : Nat) : Nat := 0x1000 + i * 0x4
def GCTL_DMA_w0 (i : Nat) : Nat := 0x2000 + i * 0x40
def GCTL_DMA_w1 (i : Nat) : Nat := 0x2004 + i * 0x40
def GCTL_DMA_w2 (i : Nat) : Nat := 0x2008 + i * 0x40
def GCTL_DMA_w3 (i : Nat) : Nat := 0x200C + i * 0x40
def TIME_CTL : Nat := 0x100000
def TIME_QUAL : Nat := 0x100004
def TIME_GEN : Nat := 0x100008
def TIME_RAW_LO : Nat := 0x100010
def TIME_RAW_HI : Nat := 0x100014
def TIME_NOW_SEC_LO : Nat := 0x100020
def TIME_NOW_SEC_HI : Nat := 0x100024
def TIME_NOW_NS : Nat := 0x100028
def TIME_NOW_FRAC : Nat := 0x10002C
def TIME_INC_FRAC : Nat := 0x100030
def TIME_INC_NS : Nat := 0x100034
def TIME_STEP_SEC_LO : Nat := 0x100040
def TIME_STEP_SEC_HI : Nat := 0x100044
def TIME_STEP_NS : Nat := 0x100048
def TIME_STEP_CTL : Nat := 0x10004C
def TIME_THRESH : Nat := 0x100050
def TIME_CNT_REFUSE : Nat := 0x100054
def TIME_CNT_MISS : Nat := 0x100058
def TIME_CNT_RINGDROP : Nat := 0x10005C
def TIME_CNT_SUSPECT : Nat := 0x100060
def TIME_RING_LO : Nat := 0x100070
def TIME_RING_HI : Nat := 0x100074
def TIME_RING_SIZE : Nat := 0x100078
def TIME_RING_WR : Nat := 0x10007C
def TIME_RING_RD : Nat := 0x100080
def TIME_TPO_w0 (i : Nat) : Nat := 0x100100 + i * 0x20
def TIME_TPO_w1 (i : Nat) : Nat := 0x100104 + i * 0x20
def TIME_TPO_w2 (i : Nat) : Nat := 0x100108 + i * 0x20
def TIME_TPO_w3 (i : Nat) : Nat := 0x10010C + i * 0x20
def TIME_TPO_w4 (i : Nat) : Nat := 0x100110 + i * 0x20
def TIME_TPO_w5 (i : Nat) : Nat := 0x100114 + i * 0x20
def TIME_TPO_w6 (i : Nat) : Nat := 0x100118 + i * 0x20
def TIME_CAP_w0 (i : Nat) : Nat := 0x100200 + i * 0x20
def TIME_CAP_w1 (i : Nat) : Nat := 0x100204 + i * 0x20
def TIME_CAP_w2 (i : Nat) : Nat := 0x100208 + i * 0x20
def TIME_CAP_w3 (i : Nat) : Nat := 0x10020C + i * 0x20
def TIME_CAP_w4 (i : Nat) : Nat := 0x100210 + i * 0x20
def TIME_CAP_w5 (i : Nat) : Nat := 0x100214 + i * 0x20
def TIME_PTP_w0 (i : Nat) : Nat := 0x100400 + i * 0x20
def TIME_PTP_w1 (i : Nat) : Nat := 0x100404 + i * 0x20
def TIME_PTP_w2 (i : Nat) : Nat := 0x100408 + i * 0x20
def TIME_PTP_w3 (i : Nat) : Nat := 0x10040C + i * 0x20
def TIME_PTP_w4 (i : Nat) : Nat := 0x100410 + i * 0x20
def TIME_PTP_w5 (i : Nat) : Nat := 0x100414 + i * 0x20
def TIME_FELL_w0 (i : Nat) : Nat := 0x101000 + i * 0x10
def TIME_FELL_w1 (i : Nat) : Nat := 0x101004 + i * 0x10
def TIME_FELL_w2 (i : Nat) : Nat := 0x101008 + i * 0x10
def TIME_FELL_w3 (i : Nat) : Nat := 0x10100C + i * 0x10
def PORT_QCFG (i : Nat) : Nat := 0x200000 + i * 0x1000
def PORT_EPCFG (i j : Nat) : Nat := 0x200010 + i * 0x1000 + j * 0x4
def PORT_MAC_LO (i j : Nat) : Nat := 0x200020 + i * 0x1000 + j * 0x8
def PORT_MAC_HI (i j : Nat) : Nat := 0x200024 + i * 0x1000 + j * 0x8
def PORT_EPSTAT (i j : Nat) : Nat := 0x200040 + i * 0x1000 + j * 0x4
def PORT_PEER_w0 (i j : Nat) : Nat := 0x200080 + i * 0x1000 + j * 0x10
def PORT_PEER_w1 (i j : Nat) : Nat := 0x200084 + i * 0x1000 + j * 0x10
def PORT_PEER_w2 (i j : Nat) : Nat := 0x200088 + i * 0x1000 + j * 0x10
def PORT_PEER_w3 (i j : Nat) : Nat := 0x20008C + i * 0x1000 + j * 0x10
def PORT_CNT_FECCOR (i : Nat) : Nat := 0x200100 + i * 0x1000
def PORT_CNT_FECUNC (i : Nat) : Nat := 0x200104 + i * 0x1000
def PORT_CNT_REPLAY (i : Nat) : Nat := 0x200108 + i * 0x1000
def PORT_CNT_DISCARD (i : Nat) : Nat := 0x20010C + i * 0x1000
def PORT_LLDPCTL : Nat := 0x20C000
def PORT_VERSION : Nat := 0x20C004
def PORT_TORUS : Nat := 0x20C008
def PORT_LINKTMR : Nat := 0x20C00C
def PORT_ID_LO : Nat := 0x20C010
def PORT_ID_HI : Nat := 0x20C014
def PORT_PLANDIG_LO : Nat := 0x20C018
def PORT_PLANDIG_HI : Nat := 0x20C01C
def PORT_AXISSTAT : Nat := 0x20C020
def PORT_CMD : Nat := 0x20C028
def PORT_CMDSTAT : Nat := 0x20C02C
def PORT_PLAN_w0 (i : Nat) : Nat := 0x20C040 + i * 0x10
def PORT_PLAN_w1 (i : Nat) : Nat := 0x20C044 + i * 0x10
def PORT_PLAN_w2 (i : Nat) : Nat := 0x20C048 + i * 0x10
def PORT_PLAN_w3 (i : Nat) : Nat := 0x20C04C + i * 0x10
def PRS_CTL : Nat := 0x300000
def PRS_STAT : Nat := 0x300004
def PRS_CNT_HEADS : Nat := 0x300020
def PRS_CNT_NOMATCH : Nat := 0x300024
def PRS_CNT_DROP : Nat := 0x300028
def PRS_CNT_FAIL : Nat := 0x30002C
def PRS_CNT_BUSY : Nat := 0x300030
def PRS_CNT_PROG : Nat := 0x300034
def PRS_CNT_SHORT : Nat := 0x300038
def PRS_SEL_w0 (i : Nat) : Nat := 0x301000 + i * 0x20
def PRS_SEL_w1 (i : Nat) : Nat := 0x301004 + i * 0x20
def PRS_SEL_w2 (i : Nat) : Nat := 0x301008 + i * 0x20
def PRS_SEL_w3 (i : Nat) : Nat := 0x30100C + i * 0x20
def PRS_SEL_w4 (i : Nat) : Nat := 0x301010 + i * 0x20
def PRS_SEL_w5 (i : Nat) : Nat := 0x301014 + i * 0x20
def PRS_SEL_w6 (i : Nat) : Nat := 0x301018 + i * 0x20
def PRS_SEL_w7 (i : Nat) : Nat := 0x30101C + i * 0x20
def PRS_HDL_w0 (i : Nat) : Nat := 0x302000 + i * 0x10
def PRS_HDL_w1 (i : Nat) : Nat := 0x302004 + i * 0x10
def PRS_HDL_w2 (i : Nat) : Nat := 0x302008 + i * 0x10
def PRS_HDL_w3 (i : Nat) : Nat := 0x30200C + i * 0x10
def PRS_IMEM (i : Nat) : Nat := 0x310000 + i * 0x4
def CONV_CTL : Nat := 0x400000
def CONV_TMR0 : Nat := 0x400004
def CONV_TMR1 : Nat := 0x400008
def CONV_RA0 : Nat := 0x40000C
def CONV_RA1 : Nat := 0x400010
def CONV_STAT_OPEN : Nat := 0x400020
def CONV_STAT_CACHE : Nat := 0x400024
def CONV_STAT_SLOTS : Nat := 0x400028
def CONV_CNT_OPEN : Nat := 0x400040
def CONV_CNT_CLOSE : Nat := 0x400044
def CONV_CNT_REPLAY : Nat := 0x400048
def CONV_CNT_STALE : Nat := 0x40004C
def CONV_CNT_OOW : Nat := 0x400050
def CONV_CNT_BUSY : Nat := 0x400054
def CONV_CNT_GAP : Nat := 0x400058
def CONV_CNT_OWNER : Nat := 0x40005C
def CONV_CNT_FRAME : Nat := 0x400060
def CONV_CNT_EGRESS : Nat := 0x400064
def CONV_SEL : Nat := 0x400080
def CONV_INFO0 : Nat := 0x400084
def CONV_INFO1 : Nat := 0x400088
def CONV_INFO2 : Nat := 0x40008C
def BOOM_CTL : Nat := 0x500000
def BOOM_TMR : Nat := 0x500004
def BOOM_STAT : Nat := 0x500008
def BOOM_SLICE : Nat := 0x500010
def BOOM_SELF : Nat := 0x500014
def BOOM_HOST : Nat := 0x500018
def BOOM_GWMAC_LO : Nat := 0x50001C
def BOOM_GWMAC_HI : Nat := 0x500020
def BOOM_NET (i : Nat) : Nat := 0x500030 + i * 0x4
def BOOM_CNT_DONE : Nat := 0x500040
def BOOM_CNT_FAIL : Nat := 0x500044
def BOOM_CNT_DUP : Nat := 0x500048
def BOOM_CNT_STALE : Nat := 0x50004C
def BOOM_CNT_REFUSE : Nat := 0x500050
def BOOM_CNT_RESEND : Nat := 0x500054
def BOOM_OP_w0 (i : Nat) : Nat := 0x580000 + i * 0x10
def BOOM_OP_w1 (i : Nat) : Nat := 0x580004 + i * 0x10
def BOOM_OP_w2 (i : Nat) : Nat := 0x580008 + i * 0x10
def BOOM_OP_w3 (i : Nat) : Nat := 0x58000C + i * 0x10
def RPLY_SPECCTL : Nat := 0x600000
def RPLY_SPECSTAT : Nat := 0x600004
def RPLY_CNT_STOMP_BAD : Nat := 0x600020
def RPLY_CNT_STOMP_EXH : Nat := 0x600024
def RPLY_CNT_REISSUE : Nat := 0x600028
def RPLY_CNT_RERUN : Nat := 0x60002C
def RPLY_CNT_TRUNC : Nat := 0x600030
def RPLY_CNT_SKIDOVR : Nat := 0x600034
def RPLY_CNT_LOST : Nat := 0x600038
def RPLY_EXTMAX : Nat := 0x60003C
def RPLY_DIGSTAT : Nat := 0x600040
def RPLY_CNT_DIGEST : Nat := 0x600044
def RPLY_CNT_DIGUNAV : Nat := 0x600048
def RPLY_CNT_FLLATE : Nat := 0x60004C
def RPLY_CNT_EXUNAV : Nat := 0x600050
def RPLY_DEST_w0 (i : Nat) : Nat := 0x601040 + i * 0x40
def RPLY_DEST_w1 (i : Nat) : Nat := 0x601044 + i * 0x40
def RPLY_DEST_w2 (i : Nat) : Nat := 0x601048 + i * 0x40
def RPLY_DEST_w3 (i : Nat) : Nat := 0x60104C + i * 0x40
def RPLY_DEST_dst (i j : Nat) : Nat := 0x601050 + i * 0x40 + j * 0x4
def RPLY_DEST_src (i j : Nat) : Nat := 0x601060 + i * 0x40 + j * 0x4
def RPLY_DEST_rsv (i j : Nat) : Nat := 0x601070 + i * 0x40 + j * 0x4
def RPLY_TMPL_hdr (i : Nat) : Nat := 0x610000 + i * 0x200
def RPLY_TMPL_fill (i j : Nat) : Nat := 0x610004 + i * 0x200 + j * 0x4
def RPLY_TMPL_image (i j : Nat) : Nat := 0x610080 + i * 0x200 + j * 0x4
def RPLY_TMPL_rsv (i j : Nat) : Nat := 0x610180 + i * 0x200 + j * 0x4
def JRNL_RING_LO : Nat := 0x700000
def JRNL_RING_HI : Nat := 0x700004
def JRNL_HEAD_LO : Nat := 0x700008
def JRNL_HEAD_HI : Nat := 0x70000C
def JRNL_EXP_LO : Nat := 0x700010
def JRNL_EXP_HI : Nat := 0x700014
def JRNL_STAT : Nat := 0x700018
def JRNL_CHAIN (i : Nat) : Nat := 0x700020 + i * 0x4
def RPR_CTL : Nat := 0x800000
def RPR_CRUISE : Nat := 0x800004
def RPR_STAT : Nat := 0x800008
def RPR_HB : Nat := 0x80000C
def RPR_CMD : Nat := 0x800010
def RPR_CMDSTAT : Nat := 0x800014
def RPR_MAPSTAT : Nat := 0x800018
def RPR_MAPSEL : Nat := 0x80001C
def RPR_MAPENT_LO : Nat := 0x800020
def RPR_MAPENT_HI : Nat := 0x800024
def RPR_CNT_REPAIR : Nat := 0x800040
def RPR_CNT_TRANSIENT : Nat := 0x800044
def RPR_CNT_RETIRE : Nat := 0x800048
def RPR_CNT_CRUISEFAIL : Nat := 0x80004C
def RPR_CNT_ITEMRETRY : Nat := 0x800050
def RPR_CNT_ITEMFINAL : Nat := 0x800054
def RPR_UNSHADOW (i : Nat) : Nat := 0x800080 + i * 0x4
def PWR_CTL : Nat := 0x900000
def PWR_STAT : Nat := 0x900004
def PWR_TEMP (i : Nat) : Nat := 0x900010 + i * 0x4
def PWR_CNT_WARN : Nat := 0x900030
def PWR_CNT_THROTTLE : Nat := 0x900034
def PWR_CNT_HOLD : Nat := 0x900038
def TWIN_CTL : Nat := 0xA00000
def TWIN_STAT : Nat := 0xA00004
def TWIN_TMR : Nat := 0xA00008
def TWIN_SEND_LO : Nat := 0xA00010
def TWIN_SEND_HI : Nat := 0xA00014
def TWIN_PEER_LO : Nat := 0xA00018
def TWIN_PEER_HI : Nat := 0xA0001C
def TWIN_CNT_MISMATCH : Nat := 0xA00020
def TWIN_CNT_UNMATCHED : Nat := 0xA00024
def TWIN_CNT_OWNBAD : Nat := 0xA00028
def TWIN_CNT_UNCHECKED : Nat := 0xA0002C
def FRST_CNT_SHADOW (i : Nat) : Nat := 0x1000000 + i * 0x800000
def FRST_CNT_LATE (i : Nat) : Nat := 0x1000004 + i * 0x800000
def FRST_CNT_PASS (i : Nat) : Nat := 0x1000008 + i * 0x800000
def FRST_STRM_LO (i : Nat) : Nat := 0x1000010 + i * 0x800000
def FRST_STRM_HI (i : Nat) : Nat := 0x1000014 + i * 0x800000
def FRST_ENGUSE (i j : Nat) : Nat := 0x1000100 + i * 0x800000 + j * 0x4
def FRST_ENGRSV (i j : Nat) : Nat := 0x1000140 + i * 0x800000 + j * 0x4
def FRST_TSSTAT (i j : Nat) : Nat := 0x1000180 + i * 0x800000 + j * 0x4
def ARR_CNT_ADMIT (i : Nat) : Nat := 0x1001000 + i * 0x800000
def ARR_CNT_OVERRUN (i : Nat) : Nat := 0x1001004 + i * 0x800000
def ARR_CNT_BUSYCTX (i : Nat) : Nat := 0x1001008 + i * 0x800000
def ARR_CNT_PARITY (i : Nat) : Nat := 0x100100C + i * 0x800000
def ARR_OVRFLAG (i j : Nat) : Nat := 0x1001100 + i * 0x800000 + j * 0x4
def ARR_STAND (i j : Nat) : Nat := 0x1001200 + i * 0x800000 + j * 0x4
def ARR_SMUSE (i j : Nat) : Nat := 0x1001400 + i * 0x800000 + j * 0x4
def ARR_CTXUSE_LO (i j : Nat) : Nat := 0x1001600 + i * 0x800000 + j * 0x8
def ARR_CTXUSE_HI (i j : Nat) : Nat := 0x1001604 + i * 0x800000 + j * 0x8
def SEQ_CNT_TOKENS (i : Nat) : Nat := 0x1002000 + i * 0x800000
def SEQ_CNT_ROLLBACK (i : Nat) : Nat := 0x1002004 + i * 0x800000
def SEQ_CNT_CKPT (i : Nat) : Nat := 0x1002008 + i * 0x800000
def SEQ_CNT_LATE (i : Nat) : Nat := 0x100200C + i * 0x800000
def SEQ_CNT_FINAL (i : Nat) : Nat := 0x1002010 + i * 0x800000
def SEQ_CTXUSE (i : Nat) : Nat := 0x1002020 + i * 0x800000
def SEQ_SEL (i : Nat) : Nat := 0x1002030 + i * 0x800000
def SEQ_INFO0 (i : Nat) : Nat := 0x1002034 + i * 0x800000
def SEQ_INFO1 (i : Nat) : Nat := 0x1002038 + i * 0x800000
def SEQ_INFO2 (i : Nat) : Nat := 0x100203C + i * 0x800000
def SEQ_INFO3 (i : Nat) : Nat := 0x1002040 + i * 0x800000
def MEM_DCTL (i : Nat) : Nat := 0x1003000 + i * 0x800000
def MEM_SSTAT (i : Nat) : Nat := 0x1003004 + i * 0x800000
def MEM_POOL (i : Nat) : Nat := 0x1003008 + i * 0x800000
def MEM_CNT_DCE (i : Nat) : Nat := 0x1003010 + i * 0x800000
def MEM_CNT_DUE (i : Nat) : Nat := 0x1003014 + i * 0x800000
def MEM_CNT_SCE (i : Nat) : Nat := 0x1003018 + i * 0x800000
def MEM_CNT_SUE (i : Nat) : Nat := 0x100301C + i * 0x800000
def MEM_CNT_APDROP (i : Nat) : Nat := 0x1003020 + i * 0x800000
def MEM_UELOG_LO (i : Nat) : Nat := 0x1003028 + i * 0x800000
def MEM_UELOG_HI (i : Nat) : Nat := 0x100302C + i * 0x800000
def MEM_STEER (i j : Nat) : Nat := 0x1003040 + i * 0x800000 + j * 0x4

end Reg

end Sys2Proof.Machine
end

