-- ==== Sys2Proof/Machine/State.lean ====
section
/-! DEFINITION. The state of the block: plain data, every piece of state the spec names (INVENTORY, State), the queue
of waiting commands, the reasons a step can stop, and the state right after reset. -/
namespace Sys2Proof.Machine

/-! ## Time -/

/-- A timestamp (R289): seconds, ns, the 16-bit fraction field and the time generation. -/
structure Stamp where
  sec : Nat := 0
  ns : Nat := 0
  frac : Nat := 0
  gen : Nat := 0
  deriving DecidableEq, Repr

/-- A pulse output (R301, R302): armed with the captured START, PERIOD, WIDTH, PERIODIC and POL; the next edge number k;
the output level; the raw count of the trailing edge while the pulse lasts. -/
structure Tpo where
  armed : Bool := false
  sec : Nat := 0
  ns : Nat := 0
  sixteenth : Nat := 0
  period : Nat := 0
  width : Nat := 0
  periodic : Bool := false
  pol : Bool := false
  k : Nat := 0
  active : Bool := false
  trailAt : Nat := 0
  deriving DecidableEq, Repr

/-- A capture channel (R303): captures held, oldest first; edges counted toward DIV; the last accepted edge. -/
structure Cap where
  held : List Stamp := []
  count : Nat := 0
  last : Option Nat := none
  deriving DecidableEq, Repr

/-- The time exchanges of an Ethernet port (R296 to R299): the next sequenceId of Sync, Delay_Req and Pdelay_Req; the request
awaiting its answer as (messageType, sequenceId, egress time); a two-step Pdelay_Resp awaiting its follow-up as (t2, t4,
correction); a two-step Sync awaiting its Follow_Up as (sequenceId, t2, correction); the last complete Sync as (t1, t2,
correction); consecutive misses; the raw times at which the next Sync and the next request fall due; the last link delay; MPD
and OFFSET of the last record of each kind that R299 compares. -/
structure PtpPort where
  syncId : Nat := 0
  delayId : Nat := 0
  pdelayId : Nat := 0
  req : Option (Nat × Nat × Stamp) := none
  resp : Option (Stamp × Stamp × Int) := none
  sync : Option (Nat × Stamp × Int) := none
  pair : Option (Stamp × Stamp × Int) := none
  missRun : Nat := 0
  syncDue : Nat := 0
  reqDue : Nat := 0
  link : Option Int := none
  lastE : Option (Int × Int) := none
  lastP : Option (Int × Int) := none
  lastS : Option (Int × Int) := none
  deriving DecidableEq, Repr

/-- A felling entry (R304 to R307), with the set frozen for KIND COMMIT. -/
structure Fell where
  kind : Nat
  handle : Nat
  version : Nat
  arg : Nat
  sec : Nat
  ns : Nat
  gen : Nat
  ready : Bool := false
  set : Tbl Word := []
  deriving DecidableEq, Repr

/-- An applied felling (R305 to R307): its kind, handle and time, and what was in force before it, for items that take
the old state. -/
structure Felled where
  kind : Nat
  handle : Nat
  sec : Nat
  ns : Nat
  gen : Nat
  oldCfg : Tbl Word
  oldExact : Bool
  oldVer : Option Nat
  newVer : Option Nat := none
  deriving DecidableEq, Repr

/-- A change of the mode (R310): the tick boundary at which it took effect, of a felling its time and generation, and the mode before
it. Generation steps take the mode of their scheduled tick or time. -/
structure ModeStep where
  tick : Nat
  fell : Option (Nat × Nat × Nat)
  old : Bool
  deriving DecidableEq, Repr

/-- The timebase (R286 to R292); the changes of the mode, newest first, while a context generates (R310); its pending writes as (increment, origin) and (backward, seconds, ns, origin) (R287, R291,
R308); and the units that work from it. -/
structure TimeSt where
  raw : Nat := 0
  tick : Nat := 0
  running : Bool := false
  phase : Nat := 0
  baseRaw : Nat := 0
  baseSec : Nat := 0
  baseNs : Nat := 0
  baseFrac : Nat := 0
  inc : Nat := 0x100000000
  gen : Nat := 0
  incFrac : Nat := 0
  pendInc : Option (Nat × Nat) := none
  pendStep : Option (Bool × Nat × Nat × Nat) := none
  tpo : Tbl Tpo := []
  cap : Tbl Cap := []
  ptp : Tbl PtpPort := []
  fell : Tbl Fell := []
  felled : List Felled := []
  modes : List ModeStep := []
  ringWr : Nat := 0
  deriving DecidableEq, Repr

/-! ## Registers -/

/-- The register storage (R4, R6): values of RW and W1C fields, the shadow values of RWS and RWL fields, the committed
values, the set a commit in progress has frozen, latched and held halves, and whether a commit has succeeded. A register
not listed holds its Reset column. -/
structure RegSt where
  rw : Tbl Word := []
  shadow : Tbl Word := []
  cfg : Tbl Word := []
  frozen : Option (Tbl Word) := none
  latch : Tbl Word := []
  loHeld : Tbl Word := []
  firstCommit : Bool := false
  deriving DecidableEq, Repr

/-! ## Frames and heads -/

/-- An RS(544,514) codeword of a frame: the frame bytes it carries, its syndrome result and its correction result (R37). -/
structure Cw where
  first : Nat
  last : Nat
  zero : Option Bool := none
  fixed : Option Bool := none
  deriving DecidableEq, Repr

/-- A received frame: reception state, ingress stamp, the decision on speculative release (R35), verdicts (R37), the
handler chosen (R63), the message slot it belongs to, whether a re-run is due (R36), the raw time at which a gap timer that started
with its last byte expires (R253), whether a message or an answer stands on it, and the causes of its bad verdicts counted so far
(R43). -/
structure Frame where
  eport : Nat
  lport : Nat
  bytes : List Byte
  handed : Nat
  ended : Bool
  trunc : Bool := false
  stamp : Stamp
  raw : Nat
  sub : Nat
  spec : Bool
  cws : List Cw
  fcs : Option Bool := none
  udp : Option Bool := none
  handler : Nat
  started : Bool := false
  slot : Option Nat := none
  rerun : Bool := false
  gapAt : Option Nat := none
  bound : Bool := false
  causes : List Nat := []
  deriving DecidableEq, Repr

/-- The message descriptor (Table 3-4) with the incarnation of R73 and the header fields that the window step and the
release use (R237): CLOSE, ACKV, ACKD, FLAT. -/
structure Desc where
  op : Option Nat := none
  model : Option Nat := none
  modelVer : Option Nat := none
  conv : Option Nat := none
  seq : Option Nat := none
  msg : Option Nat := none
  frame : Option Nat := none
  rflags : Option Nat := none
  replyTo : Option Nat := none
  doff : Option Nat := none
  dlen : Option Nat := none
  mlen : Option Nat := none
  inc : Nat := 0
  close : Bool := false
  ackv : Bool := false
  ackd : Nat := 0
  flat : Nat := 0
  deriving DecidableEq, Repr

/-- A head context in use (R57, R64, R66, R72, R73, R78): its frame, its handler in the configuration in force at its
start, pc in instruction memory, h1 to h15, sample slots, metadata, descriptor, the byte it is parked on, the version that served
each handle at its start (R128), and whether its DISPATCH has issued and waits for bytes that check 6 reads (R61, R318). -/
structure Head where
  frame : Nat
  cfg : Tbl Word
  exact : Bool
  handler : Nat
  pc : Nat
  h : Tbl Nat
  sample : Tbl Nat := []
  nan : Bool := false
  metadata : List Byte := List.replicate 16 0
  desc : Desc := {}
  hdrEnd : Nat := 0
  park : Option Nat := none
  vers : Tbl Nat := []
  waits : Bool := false
  deriving DecidableEq, Repr

/-! ## Messages, conversations and replies -/

/-- An owner key (R242): CARRIAGE, PEER, PEER_AUX. -/
structure Owner where
  carriage : Nat
  peer : Nat
  aux : Nat
  deriving DecidableEq, Repr

/-- What a request leaves to its answers: where and when frame 0 came in, its window, its length, its descriptor and
metadata, and the handler and configuration that parsed it. -/
structure Origin where
  eport : Nat
  lport : Nat
  win : List Byte
  flen : Nat
  stamp : Stamp
  raw : Nat
  sub : Nat
  desc : Desc
  metadata : List Byte
  handler : Nat
  cfg : Tbl Word
  exact : Bool
  hdrEnd : Nat
  deriving DecidableEq, Repr

/-- The window step a message has made (R243 to R245): the slide, whether it opened the entry, the raw time. -/
structure WinStep where
  slide : Option Nat
  opened : Bool
  atTime : Nat
  deriving DecidableEq, Repr

/-- Where a message stands. -/
inductive MsgStage where
  /-- dispatched, not yet with its engine -/
  | arrived
  /-- waits in an admission queue (R89, R155) -/
  | queued
  /-- a sequence token that waits for its turn or its verdicts (R199, R201) -/
  | waiting
  /-- admitted to its engine -/
  | running
  /-- its reply or answer is decided -/
  | replied
  /-- handed to the boom -/
  | boom
  /-- its first run is discarded; the re-run has yet to dispatch (R36) -/
  | rerun
  deriving DecidableEq, Repr

/-- An evaluation of a sample by a forest copy or batch part (R89 to R100, R112): the stationary copy, whether the batch
part has its partial done, the dies whose partial was late, the admission tick. -/
structure ForestRun where
  copy : Option Nat := none
  part : Bool := false
  partDone : Bool := false
  lateDies : List Nat := []
  atTick : Nat := 0
  deriving DecidableEq, Repr

/-- A digest assignment (R320, R321). -/
inductive Dig where
  | no
  | pair (n blocks : Nat)
  | unavailable
  deriving DecidableEq, Repr

/-- A message's run blocks on a digest pair (R320): those that can be computed now, and those that wait for its result. -/
structure PairJob where
  msg : Nat
  ready : Nat
  later : Nat
  deriving DecidableEq, Repr

/-- A digest pair (R320): its jobs in order of assignment, and the raw count up to which their computing has been reckoned. -/
structure PairQ where
  jobs : List PairJob := []
  workAt : Nat := 0
  deriving DecidableEq, Repr

/-- A message slot (R76, R245, R251): descriptor and origin, owner key, frames joined with the payload each brought, the
raw time at which the gap timer expires, sample, target handle and version, mode, engine, window step, replay units
reserved, digest pair, message buffer partition (R387), reply, whether the reply has passed the gate, whether the effects
have applied, the raw time from which a queued or waiting message waits and its limit, whether a supply hold began with it in flight
(R394), and the tick boundary at which a sequence token was found ready (R201). -/
structure Msg where
  org : Origin
  owner : Owner
  frames : List Nat
  parts : List (Nat × Nat × Nat)
  gapAt : Option Nat := none
  stage : MsgStage := .arrived
  boom : Bool := false
  target : Nat := 0
  version : Nat := 0
  kind : Nat := 0
  exact : Bool := false
  sample : Tbl Nat := []
  nan : Bool := false
  queuedAt : Nat := 0
  forest : Option ForestRun := none
  ctx : Option Nat := none
  step : Option WinStep := none
  units : Nat := 0
  dig : Dig := .no
  buffer : Bool := false
  unitBad : Bool := false
  reply : Option Nat := none
  gone : Bool := false
  applied : Bool := false
  waitTo : Nat := 0
  warn : Bool := false
  readyAt : Option Nat := none
  deriving DecidableEq, Repr

/-- A conversation entry (Table 10-5), with the prior contents that an undone opening restores (R243) and the instants
from which the quiet period runs (R247) with the IDLE and LINGER in force when it started (R257). -/
structure Conv where
  state : Nat := 0
  inc : Nat := 0
  owner : Owner := ⟨0, 0, 0⟩
  base : Nat := 0
  done : List Nat := []
  final : Nat := 0
  ctx : Option Nat := none
  last : Nat := 0
  endAt : Nat := 0
  closingAt : Nat := 0
  prior : Option (Nat × Nat × Owner × Nat × Nat × Nat) := none
  idleMs : Nat := 0
  lingerMs : Nat := 0
  deriving DecidableEq, Repr

/-- Where a reply goes (R53, R56): its VLAN tag as (TPID, TCI), and the priority it waits on. -/
structure Dest where
  carriage : Nat
  lport : Nat
  mac : Nat
  ip : Nat
  sip : Nat
  dport : Nat
  sport : Nat
  tag : Option (Nat × Nat)
  hop : Option Nat
  tclass : Nat
  prio : Nat := 0
  deriving DecidableEq, Repr

/-- A cached reply (R249, R250): its content, its destination, its fill records, and where its reply header lies. An
empty entry has no destination; one lost to an uncorrectable error (Table 14-7) is marked. -/
structure Cached where
  content : List Byte
  dest : Option Dest
  fills : List (Nat × Nat × Nat × Nat)
  hdrAt : Nat
  lost : Bool := false
  deriving DecidableEq, Repr

/-- Where a reply stands at the gate (R39 to R43, R46). -/
inductive RStage where
  /-- decided; the reply builder stage is due -/
  | build
  /-- content assembled, not in transmission -/
  | ready
  /-- in transmission with PAD set, its last eight bytes held -/
  | held
  /-- sent whole; still the last frame of its port -/
  | sent
  /-- stomped at the extension limit or cut with its link, kept for reissue -/
  | kept (lost : Bool)
  /-- failed with a cause of Table 2-4; its notice is due -/
  | bad (cause : Nat)
  deriving DecidableEq, Repr

/-- A reply, answer or replayed copy on its way (R39 to R53, R322, R365). `kind`: 0 result, 1 answer, 2 notice, 3 replayed
copy, 4 rollback answer, 5 generation frame. `fixed` is the release target in sixteenths of a raw count (R322); `stomped`: its
frame has been stomped; `twinHeld`: passed and kept by the holder of a twin pair (R364); `digHead`: PROG_DIG and WTS_DIG
(R319); `genCtx`: the context of a generation frame; `counted`: counted as passed (R329); `fcs0`: the FCS field of the request's frame 0, where that frame is no longer held; `due`: it could enter transmission but for its port, since `order` was given (R32); `doneAt`: the raw count at which its content, digest included, was complete (R323); `trec`: the Kwain record sent and the raw time it was sent. -/
structure Reply where
  org : Origin
  slot : Option Nat
  frames : List Nat
  kind : Nat
  status : Nat
  detail : Nat := 0
  info : Nat := 0
  res : List Byte := []
  version : Nat := 0
  position : Nat := 0
  nan : Bool := false
  sat : Bool := false
  mixed : Bool := false
  late : Bool := false
  warn : Bool := false
  unchecked : Bool := false
  dig : Dig := .no
  digest : Option (List Byte) := none
  base : Nat := 0
  dest : Option Dest := none
  eport : Nat := 0
  stage : RStage := .build
  content : List Byte := []
  fills : List (Nat × Nat × Nat × Nat) := []
  pad : Bool := false
  ext : Nat := 0
  fixed : Option Nat := none
  released : Bool := false
  order : Nat := 0
  egressAt : Nat := 0
  unitBad : Bool := false
  twin : Option Bool := some true
  tdig : Nat := 0
  reissued : Bool := false
  hdrAt : Nat := 0
  tmpl : Option Nat := none
  final : Bool := false
  stomped : Bool := false
  twinHeld : Bool := false
  digHead : List Byte := []
  counted : Bool := false
  due : Bool := false
  trec : Option (TwinRec × Nat) := none
  fcs0 : Option Nat := none
  doneAt : Nat := 0
  genCtx : Option Nat := none
  deriving DecidableEq, Repr

/-! ## Ports -/

/-- What a peer's TLVs report (Table 11-5). -/
structure Peer where
  mac : Nat := 0
  identity : Option Nat := none
  side : Bool := false
  reason : Nat := 0
  bufu : Nat := 0
  label : Nat := 0
  coord : Nat := 0
  ext : Nat := 0
  vmin : Nat := 0
  vmax : Nat := 0
  slice : Option Nat := none
  plan : Option Nat := none
  deriving DecidableEq, Repr

/-- A frame in the replay buffer of a neighbour member (R266): its number, its bundle number, its bytes, its credit
units, and whether the gate stomped it. -/
structure LinkHeld where
  lseq : Nat
  bseq : Option Nat
  bytes : List Byte
  units : Nat
  isVoid : Bool := false
  deriving DecidableEq, Repr

/-- What waits for an egress port in the third class of R32: a frame on a priority (none: no PFC binds it), a PTP request
whose answer is built as it starts, with its ingress stamp (R296), or what a member's link layer sends. -/
inductive Wait where
  | frame (prio : Option Nat) (bytes : List Byte)
  | answer (t : Stamp) (m : List Byte)
  /-- a control frame of the link layer, built as it starts (R265) -/
  | ctl (ty units : Nat)
  /-- the retransmission of the held frame with this LSEQ (R268) -/
  | resend (lseq : Nat)
  deriving DecidableEq, Repr

/-- An Ethernet port (R259 to R285): bring-up state, discovery, PFC, the reply in transmission, the raw count at which the frame in
transmission ends with its gap, the PFC frames and the third-class frames that wait (R32), and for a neighbour-side port its link layer
(R266 to R271): the link header of the DATA frame whose last bytes the gate holds, the last RESUME sent and the round trip of its
exchange, in sixteenths of a ns (R274). -/
structure EPort where
  state : Nat := 0
  reason : Nat := 0
  sliceDiffer : Bool := false
  planDiffer : Bool := false
  ver : Nat := 0
  delay : Option Nat := none
  peer : Option Peer := none
  upAt : Nat := 0
  downAt : Nat := 0
  lldpAt : Nat := 0
  ttl : Nat := 0
  wasPeer : Option Nat := none
  paused : List Nat := []
  asserted : List Nat := []
  tx : Option Nat := none
  busyTo : Nat := 0
  ctl : List (List Nat × Bool) := []
  wait : List Wait := []
  openHdr : List Byte := []
  run : Bool := false
  keep : Bool := false
  lseq : Nat := 0
  held : List LinkHeld := []
  expect : Nat := 0
  nak : Option Nat := none
  nakAt : Nat := 0
  charged : Nat := 0
  freed : Nat := 0
  peerCred : Nat := 0
  handed : Bool := false
  early : Option (Nat × Nat × Nat × Nat) := none
  resumeAt : Option Nat := none
  retries : Nat := 0
  progressAt : Nat := 0
  sentAt : Nat := 0
  deriving DecidableEq, Repr

/-- An accepted frame that waits in a bundle's reorder buffer (R273): its member, its bytes, none for a VOID frame, and the instant of its
arrival as raw count and sixteenths (R293). -/
structure Parked where
  eport : Nat
  bytes : List Byte
  raw : Nat
  sub : Nat
  deriving DecidableEq, Repr

/-- A bundled port (R272, R273): next BSEQ to send, next expected, frames held for reorder, frames that wait to be sent, frames of a lost member that wait to be sent again (R275). -/
structure LPort where
  bseq : Nat := 0
  next : Nat := 0
  reorder : Tbl Parked := []
  wait : List (List Byte) := []
  again : List LinkHeld := []
  deriving DecidableEq, Repr

/-- Speculative release of a quad (R35): codewords with a non-zero syndrome in the window, an uncorrectable one seen, suppressed. -/
structure Quad where
  nonzero : Nat := 0
  uncorr : Bool := false
  supp : Bool := false
  deriving DecidableEq, Repr

/-! ## Management -/

/-- An event entry (R385). -/
structure EvEntry where
  cause : Nat
  argx : Nat
  gen : Nat
  sec : Nat
  ns : Nat
  arg : Nat
  deriving DecidableEq, Repr

/-- The change journal (R388 to R390): next SEQ, CHAIN, entries held on the die by SEQ, lowest SEQ not in the ring, the SEQ below
which every entry has been in a ring once (a board reset empties the ring and keeps the entries of the die), LOW and FULL, the
overflow store. -/
structure Journal where
  next : Nat := 0
  chain : List Byte := List.replicate 16 0
  ondie : Tbl (List Byte) := []
  toRing : Nat := 0
  once : Nat := 0
  low : Bool := false
  full : Bool := false
  spill : List (List Byte) := []
  deriving DecidableEq, Repr

/-- A mailbox command in the queue (R381): descriptor address, the 64 descriptor bytes, ORIGIN of R388; of a FELL of KIND COMMIT that
has been taken and whose validation waits, the set it took (R305, R396). -/
structure MboxCmd where
  addr : Nat
  desc : List Byte
  origin : Nat
  taken : Option (Tbl Word) := none
  deriving DecidableEq, Repr

/-- A LOAD or PLOAD that runs (R131, R132): its code, handle, version, record address, origin, the status and completion
record it will report, and whether it counts as a LOAD that runs on the handle. -/
structure Running where
  cmd : Nat
  handle : Nat
  version : Nat
  record : Nat
  origin : Nat
  status : Nat
  body : List Byte
  holds : Bool
  deriving DecidableEq, Repr

/-- A management command that waits for the next tick boundary (R22, R23): an increment write, a step and an ADOPT, whose values wait
beside it, or one that was issued after a command that waits: an arming of a pulse output, a write of a capture channel's control word, an RPR_CMD
with its operation and origin, a power request, a soft reset, a quad reset. -/
inductive MgmtAct where
  | inc
  | step
  | adopt
  | tpo (i : Nat) (val : Word)
  | cap (off : Nat) (val : Word)
  | rpr (op : Nat) (val : Word) (origin : Nat)
  | power (r origin : Nat)
  | soft (origin : Nat)
  | quads (mask : Nat)
  deriving DecidableEq, Repr

/-- A commit in progress (R386): BUSY, validated, due at the boundary that has come, the last reason and offset, the origin. -/
structure CommitSt where
  busy : Bool := false
  valid : Bool := false
  due : Bool := false
  reason : Nat := 0
  offset : Nat := 0
  origin : Nat := 1
  deriving DecidableEq, Repr

/-- A DMA channel (R380): BUSY, ERR, DONE, the next descriptor's host address. -/
structure DmaCh where
  busy : Bool := false
  err : Nat := 0
  done : Nat := 0
  next : Nat := 0
  deriving DecidableEq, Repr

/-- Management state (R373 to R390), with an ADOPT that waits for its boundary as (Ethernet port, origin) (R283), the management commands
that wait for the boundary in the order in which they were issued (R22), and the cold start under way (R378). -/
structure Mgmt where
  stage : Nat := 0
  ready : Bool := false
  inService : Bool := false
  leaveDue : Bool := false
  dieIds : List Nat := [0, 0, 0, 0, 0]
  identity : Nat := 0
  rev : Nat := 0
  svn : Nat := 0
  counter0 : Nat := 0
  counter1 : Nat := 0
  owner : Option (List Byte) := none
  ownerRec : Nat := 0
  modelKeys : Tbl (List Byte) := []
  fwDigest : List Byte := []
  portMax : Nat := 1
  evq : Tbl (List EvEntry) := []
  jr : Journal := {}
  commit : CommitSt := {}
  mbox : List MboxCmd := []
  running : Tbl Running := []
  dma : Tbl DmaCh := []
  msix : Tbl Word := []
  adopt : Option (Nat × Nat) := none
  acts : List MgmtAct := []
  booting : Option ColdEnv := none
  deriving DecidableEq, Repr

/-- Power, supply, temperature and pins (R391 to R408): the power state and the transition under way (0 to Run, 1 to Idle, 2 to
Doze) with the origin of its request, the last refusal; the holds of a supply dip, of a soft reset with the raw time at which its reset falls due, and of a power
transition; the thermal state (1 throttle, 2 hold, 3 shut down), the last temperatures; a rail below VWARN at the last sample, a fall below
VWARN whose hold begins at the next boundary, and the raw time since which all have been above it; a board reset that is due after a VRESET
crossing or a thermal shutdown; the always-on domain powered, the device held in reset, RST_N and THERM_N. -/
structure Power where
  state : Nat := 0
  target : Option Nat := none
  origin : Nat := 3
  refused : Nat := 0
  holdSupply : Bool := false
  holdReset : Bool := false
  resetAt : Nat := 0
  holdTrans : Bool := false
  therm : Nat := 0
  temps : List Nat := [0, 0, 0, 0, 0]
  low : Bool := false
  warnDue : Bool := false
  goodSince : Option Nat := none
  vreset : Bool := false
  aon : Bool := true
  inReset : Bool := true
  rstN : Bool := false
  thermN : Bool := true
  deriving DecidableEq, Repr

/-! ## Models (R118 to R130, R158 to R165) -/

/-- A stationary copy of a forest (R89, R122): the lanes that hold it as (die, engine, lane, lane image), whether a repair
has withdrawn it (R133), the failed lanes that wait for a spare (R104), and the samples taken in its last tick. -/
structure FCopy where
  lanes : List (Nat × Nat × Nat × Nat)
  out : Bool := false
  stopped : Nat := 0
  tickAt : Nat := 0
  taken : Nat := 0
  deriving DecidableEq, Repr

/-- A batch part (R111 to R113): its lanes as (die, engine, lane), its blocks as dealt (class, block, die, compartment,
lane images), the open batch with the tick of its first sample, closed batches, passes running with the raw time of their
start, whether a batch may open, the start of the last pass, whether it is withdrawn. -/
structure BatchPart where
  lanes : List (Nat × Nat × Nat)
  deal : List (Nat × Nat × Nat × Nat × Nat)
  batch : List Nat := []
  firstTick : Nat := 0
  canOpen : Bool := true
  closed : List (List Nat) := []
  running : List (List Nat × Nat) := []
  last : Option Nat := none
  out : Bool := false
  deriving DecidableEq, Repr

/-- A copy of an array program (R165): its die, the physical stand of each logical stand, the 4 KB pages of each
stand's shared SRAM that hold its stand memory, withdrawn (R167), closed since its image failed the check of a restore (R354), held closed with lost
state (R355), the tick of its last admission, the messages admitted, and the last mode it admitted under (R311). -/
structure ACopy where
  die : Nat
  stands : List Nat
  pages : List (List Nat)
  out : Bool := false
  shut : Bool := false
  lostHold : Bool := false
  lastTick : Option Nat := none
  admitted : Nat := 0
  exact : Bool := false
  deriving DecidableEq, Repr

/-- A loaded version: kind (0 forest, 1 array program, 2 sequence model), number, the image it was placed from and its
address, its digest, the load descriptor, the forest placement (copies, batch part, tree-store units by die × 8 +
compartment as (images, buffers and rings), stream-region bytes by die, the compartments that were in service as it was placed, by
die × 8 + compartment), and the array placement (context slot, copies). `number` is its VERSION, to which a multiple of 65,536 is added while
the handle still holds or names another version of that VERSION. -/
structure Version where
  kind : Nat
  number : Nat
  image : List Byte
  imageAt : Nat
  digest : List Byte
  desc : List Byte
  fcopies : Tbl FCopy := []
  part : Option BatchPart := none
  resTrees : Nat := 0
  stores : Tbl (Nat × Nat) := []
  stream : Tbl Nat := []
  cmpts : List Nat := []
  slot : Nat := 0
  acopies : Tbl ACopy := []
  deriving DecidableEq, Repr

/-- A model handle (R118): serving, staged and draining versions, the version that an armed ACTIVATE names, an armed UNLOAD, a drain in effect with the
record addresses of the DRAIN commands that wait for it, a load that runs, and the admission queue on the hub die, oldest first. -/
structure Handle where
  serving : Option Version := none
  staged : Option Version := none
  old : List Version := []
  armActivate : Option Nat := none
  armUnload : Bool := false
  drained : Bool := false
  drainWait : List Nat := []
  loading : Bool := false
  queue : List Nat := []
  deriving DecidableEq, Repr

/-! ## The dataflow array (R135 to R157) -/

/-- A token (Table 6-3). Parity is judged as the token arrives. -/
structure Tok where
  payload : Vec
  tag : Nat
  ctx : Nat
  tgt : Nat
  side : Bool
  nan : Bool := false
  sat : Bool := false
  bad : Bool := false
  top : Nat := 0
  deriving DecidableEq, Repr

/-- One message frame of a slot (R142): s0 to s15 and p1 to p15. -/
structure RegFrame where
  s : Tbl Word := []
  p : Tbl Bool := []
  deriving DecidableEq, Repr

/-- A context slot of a core (R135): the handle and version it holds, instruction memory, v0 to v7, 64 message frames, and
whether it is no longer clean (R354). -/
structure CoreSlot where
  handle : Option Nat := none
  version : Nat := 0
  imem : Tbl (BitVec 64) := []
  v : Tbl Vec := []
  frames : Tbl RegFrame := []
  dirty : Bool := false
  deriving DecidableEq, Repr

/-- A token on its way (R137) to a queue of a physical core, or to the result stream of a run (queue 0x1F). -/
structure Flight where
  core : Nat
  queue : Nat
  run : Nat
  tok : Tok
  entry : Bool := false
  deriving DecidableEq, Repr

/-- Where a second route takes a response (R171, R173): a core's queue, or the result stream of the core's copy as queue 0x1F. -/
structure Sink where
  core : Nat
  queue : Nat
  tgt : Nat
  side : Bool
  deriving DecidableEq, Repr

/-- The firing that a core made last, which a residue or parity check is about (R192, R193): its slot, run, tag and opcode, whether it
read or wrote a context register, the tokens it sent, the FEVALs and DMAs it started. -/
structure Fired where
  slot : Nat
  run : Nat
  tag : Nat
  opc : Nat
  context : Bool
  sent : List Flight
  fevals : List Nat
  dmas : List Nat
  deriving DecidableEq, Repr

/-- A physical core: its four slots, its queues by operand code 0x18 to 0x1E (Table 7-2), and its last firing. -/
structure Core where
  slots : Tbl CoreSlot := []
  queues : Tbl (List Tok) := []
  last : Option Fired := none
  deriving DecidableEq, Repr

/-- A stand DMA in progress (R189): issuing core and run, the completion token's route and side band, direction, device address, the
ranges of the die's SRAM as (address, length), whether they are the core's local SRAM, length. -/
structure StandDma where
  core : Nat
  slot : Nat
  run : Nat
  tag : Nat
  tgt : Nat
  side : Bool
  nan : Bool
  sat : Bool
  bad : Bool
  toDram : Bool
  dev : Nat
  sram : List (Nat × Nat)
  own : Bool
  len : Nat
  also : List Sink := []
  deriving DecidableEq, Repr

/-- A FEVAL outstanding (R105 to R108): issuing core, route, the run it is made for, the target handle, version and copy, the
tick it issued, its declared latency, the result tokens' payloads and side band. -/
structure Feval where
  core : Nat
  slot : Nat
  tag : Nat
  tgt : Nat
  side : Bool
  run : Nat
  handle : Nat
  version : Nat
  atTick : Nat
  latency : Nat
  payloads : List Vec
  top : Nat
  nan : Bool
  sat : Bool
  bad : Bool
  copy : Option Nat := none
  also : List Sink := []
  deriving DecidableEq, Repr

/-- A message or generation step in an array copy (R147 to R152): its message slot or generation context, handle, version,
copy, admission count k, base tag, admission tick, mode, firings by logical core, ORDERED firings made, cores checked,
result tokens by tag offset and their number, the flags collected, and an overrun; its timestamp (R307), its input bytes, the versions
that its FEVALs took by record (R319), and whether a supply hold began with it in flight (R394). -/
structure ArrayRun where
  slot : Option Nat
  ctx : Option Nat
  pos : Nat
  handle : Nat
  version : Nat
  copy : Nat
  k : Nat
  tag : Nat
  atTick : Nat
  exact : Bool
  fires : Tbl Nat := []
  ordered : List (Nat × Nat × Nat) := []
  checked : List Nat := []
  stepped : Bool := false
  results : Tbl Vec := []
  nres : Nat := 0
  nan : Bool := false
  sat : Bool := false
  bad : Bool := false
  overrun : Bool := false
  stamp : Stamp := {}
  input : List Byte := []
  fevalVers : Tbl Nat := []
  warn : Bool := false
  deriving DecidableEq, Repr

/-! ## Sequence contexts (R195 to R212) -/

/-- A generation step's frame to come (R208): its position, result block and flags, LATE, and SUPPLY_WARN (R394). -/
structure GenOut where
  pos : Nat
  res : List Byte
  nan : Bool
  sat : Bool
  late : Bool
  warn : Bool
  deriving DecidableEq, Repr

/-- Generation (R207 to R209): seed, interval in 1/256 tick, step count, template, destination, the start S in 1/256 tick
(none before a START_TIME has come), its START_TIME, the block that the next step takes, an end asked for, the position
below which steps are re-run without emission, LATE until the schedule is met, frames not yet emitted, the record addresses
of GSTOPs that wait for the end. -/
structure GenSt where
  seed : Nat
  interval : Nat
  count : Nat
  template : Nat
  dest : Nat
  start : Option Nat
  startSec : Nat
  startNs : Nat
  block : List Byte
  stopping : Bool := false
  silentTo : Option Nat := none
  lateNow : Bool := false
  emits : List GenOut := []
  stopRecs : List Nat := []
  deriving DecidableEq, Repr

/-- A sequence context entry (R198 to R209): state (1 open, 2 generating, 3 rolling back), handle, version, copy, CSLOT,
conversation, P, rollback point, checkpoint slots as (position, state of each logical stand), the captures staged, oldest first, the
positions of those written that are not yet a rollback point, whether a capture is due, credits, the raw count from which they are earned
and how many have been (R201), last admission, positions whose verdicts are not yet good, the rollback in progress. -/
structure Ctx where
  state : Nat
  handle : Nat
  version : Nat
  copy : Nat
  cslot : Nat
  conv : Option Nat
  p : Nat := 0
  rb : Nat := 0
  slots : Tbl (Nat × List (List Byte)) := []
  staged : List (Nat × List (List Byte)) := []
  written : List Nat := []
  capDue : Bool := false
  credits : Nat := 2
  earnFrom : Nat := 0
  earned : Nat := 0
  lastTick : Option Nat := none
  openPos : List Nat := []
  closing : Bool := false
  rolling : Bool := false
  cause : Nat := 0
  failed : Nat := 0
  rehomed : Bool := false
  gen : Option GenSt := none
  deriving DecidableEq, Repr

/-! ## The boom (R213 to R234) -/

/-- A reduction epoch's outcome (Table 9-6): RESULT or FAILED, CAUSE, FLAGS' SAT and NAN and DEGRADED, the ranks missing that are known,
how many more are missing (a block lists 64 at the most). -/
structure BoomOut where
  ok : Bool
  cause : Nat := 0
  degraded : Bool := false
  sat : Bool := false
  nan : Bool := false
  missing : List Nat := []
  more : Nat := 0
  deriving DecidableEq, Repr

/-- One segment at a member: local contributions folded, the value so far, the reduce stage it is at, arrivals that wait as
(axis, from the + side, elements) in arrival order, unreduced contributions by rank, and its result. -/
structure BoomSeg where
  count : Nat := 0
  acc : List Nat := []
  stage : Nat := 0
  arr : List (Nat × Bool × List Nat) := []
  raws : Tbl (List Nat) := []
  final : Option (List Nat) := none
  deriving DecidableEq, Repr

/-- A frame sent to a neighbour in an open epoch, kept so that a refusal can be met by sending it again (R225): KIND, PHASE,
first segment, segments, payload. -/
structure BoomSent where
  kind : Nat
  phase : Nat
  seg : Nat
  nseg : Nat
  body : List Byte
  deriving DecidableEq, Repr

/-- An epoch (R223 to R233): its number; whether it is decided; the descriptor words, slice, own coordinates, torus extents
and mode it opened with; its timers' raw times; received bits as (feed, segment); segments; the origin and the FCS field of each
local rank's latest accepted frame; the ranks and first cause of the ABORTs received as coordinator, HAVEs received; whether its own HAVE
has gone; the decision held, and the DECIDE whose ACK is awaited; the members lost to it; flags met; frames sent; results
retained and until when. -/
structure BoomEpoch where
  epoch : Nat
  decided : Bool := false
  words : List Nat
  slice : Nat
  self : Nat
  torus : Nat
  exact : Bool
  memberAt : Nat
  coordAt : Nat
  memberDone : Bool := false
  bits : List (Nat × Nat) := []
  segs : Tbl BoomSeg := []
  origins : Tbl (Origin × Nat) := []
  cause : Option Nat := none
  missing : List Nat := []
  haves : List Nat := []
  haveSent : Bool := false
  outcome : Option BoomOut := none
  waitAck : Option (Nat × Nat) := none
  lost : List Nat := []
  degraded : Bool := false
  sat : Bool := false
  nan : Bool := false
  sent : List BoomSent := []
  held : Bool := true
  retainTo : Nat := 0
  deriving DecidableEq, Repr

/-- An operation's record: its current epoch, and the number and outcome of the epoch before it. -/
structure BoomOp where
  cur : BoomEpoch
  prev : Option (Nat × BoomOut) := none
  deriving DecidableEq, Repr

/-- A host-path frame not yet acknowledged (R231): its operation and epoch, the DEGRADED hop it takes, the request it carries
from its header on, whether it has been sent, resends, the raw time of the last send, refusals, and the raw time until which
it waits after BUSY. -/
structure BoomHost where
  op : Nat
  epoch : Nat
  hop : Option Nat
  bytes : List Byte
  out : Bool
  sends : Nat := 0
  sentAt : Nat := 0
  refused : Nat := 0
  busyTo : Option Nat := none
  deriving DecidableEq, Repr

/-- A refused frame (R225): on the host path by (member, PSEQ), or on a neighbour port by what was sent; refusals; the raw
time until which it waits. -/
structure BoomRefused where
  op : Nat
  epoch : Nat
  host : Option (Nat × Nat)
  lport : Nat
  sent : Option BoomSent
  count : Nat
  busyTo : Option Nat
  deriving DecidableEq, Repr

/-- The boom: operation records, members declared lost, host-path frames by member and PSEQ, the next PSEQ by member, PSEQs
received by member, refused frames. `back`: members that MEMBER_BACK has named since the last tick boundary (R363). -/
structure Boom where
  ops : Tbl BoomOp := []
  lost : List Nat := []
  back : List Nat := []
  host : Tbl (Tbl BoomHost) := []
  next : Tbl Nat := []
  seen : Tbl (List Nat) := []
  refused : Tbl BoomRefused := []
  deriving DecidableEq, Repr

/-! ## Device memory -/

/-- A tract die's DRAM port and data SRAM (R330 to R344): DRAM bytes by local address, words with an uncorrectable error,
whether the port is lost (R17), local and shared SRAM bytes by aperture offset (Table 14-5), lanes steered (R335), the
sweep running, lanes that wait for one, failing lanes that found no spare, the instants of each lane's corrected errors, the address
of the last uncorrectable error, and the words whose last scrub read showed a corrected error, with the bit (R332). Die number 4 is
the hub die. -/
structure DieSt where
  dram : Mem := []
  ue : List Nat := []
  lost : Bool := false
  sram : Mem := []
  sramUe : List Nat := []
  steer : List (Nat × Nat) := []
  sweep : Option (Nat × Nat) := none
  queued : List Nat := []
  exhausted : List Nat := []
  laneErrs : Tbl (List Nat) := []
  uelog : Nat := 0
  hard : Tbl Nat := []
  deriving DecidableEq, Repr

/-! ## Units and repair (R12 to R18, R345 to R362) -/

/-- A repair map entry (Table 15-1): the unit, CAUSE, INHERITED and PENDING_UNRETIRE. -/
structure MapEnt where
  unit : UnitId
  cause : Nat
  inherited : Bool := false
  unretire : Bool := false
  deriving DecidableEq, Repr

/-- A move of a unit's work to a spare (R104, R159, R352): the unit, the spare's number (a core of the stand, a stand of
the compartment, a lane of the engine), whether the unit is to be tested afterwards, whether it is a copy drain, and what of the unit the
test port cannot read: cores by number, and 17 for a stand's shared SRAM (R354). -/
structure Move where
  unit : UnitId
  spare : Nat
  test : Bool
  drain : Bool
  lost : List Nat := []
  deriving DecidableEq, Repr

/-- The units of the device: the repair map and its copy in board flash, which no reset touches, with the record last written or read (R346);
which physical stand, core and lane serves each
logical one, listed where it differs from the identity (compartments by die × 8 + compartment, stands by die × 72 + stand,
engines by die × 16 + engine, an engine's list going on with its 16 spare lanes); SUSPECT marks and TICK_OVERRUN marks with
their raw times; moves under way; units under test, each with 0 for a test of cruise, 1 after a check event (R350), 2 after a
shadow mismatch (R102); tests to be made out of turn (R358); cruise slots started, the raw time of the last, passes, units
skipped in this and the last complete pass; shadow partners by (engine × 16 + spare); shadowing stopped until the next turn
(R103); digest pairs out of service; heartbeats sent and the raw time of the last; steered bridge lanes by die × 2 + direction
as (lane, spare) and the raw time of the last bridge error by die; an RPR_CMD that waits with its origin, and the status of the last (R371,
R372). -/
structure Units where
  map : List MapEnt := []
  flashValid : Bool := false
  flash : Option FlashRec := none
  bootFail : Bool := false
  standMap : Tbl (List Nat) := []
  coreMap : Tbl (List Nat) := []
  laneMap : Tbl (List Nat) := []
  suspects : List (UnitId × Nat) := []
  overruns : List (UnitId × Nat) := []
  moves : List Move := []
  tests : List (UnitId × Nat) := []
  asked : List UnitId := []
  slot : Nat := 0
  slotAt : Nat := 0
  passes : Nat := 0
  skipped : Nat := 0
  untested : Nat := 0
  partner : Tbl Nat := []
  shadowOff : List Nat := []
  pairsOut : List Nat := []
  beats : Nat := 0
  beatAt : Option Nat := none
  steered : Tbl (List (Nat × Nat)) := []
  bridgeUe : Tbl Nat := []
  cmdWait : Option (Word × Nat) := none
  cmdStatus : Nat := 0
  deriving DecidableEq, Repr

/-! ## Twin -/

/-- What a reply record stands for beside the reply (R366): its message's conversation, its context and position, and the operation and
epoch of a reduction frame. -/
structure TwinMark where
  conv : Option Nat := none
  ctx : Option (Nat × Nat) := none
  epoch : Option (Nat × Nat) := none
  deriving DecidableEq, Repr

/-- Twin operation (R364 to R370): TWIN_STAT, the alive input, the partner's identity, partner records unmatched, the
records of messages whose effects have applied with what they stand for (R366), those sent
with OWN_BAD with the raw time, the raw times of the last Kwain frame and of the EN commit. -/
structure Twin where
  state : Nat := 0
  reason : Nat := 0
  aliveIn : Bool := false
  peerId : Nat := 0
  theirs : List TwinRec := []
  applied : List (TwinRec × TwinMark) := []
  bad : List (TwinRec × TwinMark) := []
  lastFrame : Nat := 0
  since : Nat := 0
  deriving DecidableEq, Repr

/-! ## What leaves the device -/

/-- What leaves the device, oldest first (log 4). -/
inductive Out where
  /-- a register read completes -/
  | read (off : Nat) (val : Word)
  /-- a read of BAR0 completes with Completer Abort (Table 14-7) -/
  | abort (off : Nat)
  /-- a frame on an Ethernet port: its bytes up to the FCS, and whether the FCS is the correct CRC or its complement -/
  | frame (eport : Nat) (bytes : List Byte) (good : Bool)
  /-- a PFC frame on a host port that pauses or releases priorities (R48) -/
  | pfc (eport : Nat) (prios : List Nat) (pause : Bool)
  /-- an MSI-X vector -/
  | vector (n : Nat)
  /-- the level of a pulse output -/
  | pulse (i : Nat) (level : Bool)
  /-- a record on the Kwain link -/
  | kwain (port flags occ fcs tdig : Nat)
  /-- a pairing exchange on the Kwain link (R369): identity, configuration digest, role -/
  | hello (identity digest : Nat) (role : Bool)
  /-- bytes written to host memory by DMA -/
  | host (addr : Nat) (bytes : List Byte)
  /-- the outcome of a JTAG access: reached, or refused -/
  | jtag (reached : Bool)
  deriving DecidableEq, Repr

/-! ## The state -/

/-- The state of the block; `starts`: the raw count of the last tick in which heads started, and how many did (R59). -/
structure State where
  pending : List Instr := []
  freeCtr : Nat := 0
  out : List Out := []
  time : TimeSt := {}
  regs : RegSt := {}
  frames : Tbl Frame := []
  heads : Tbl Head := []
  starts : Nat × Nat := (0, 0)
  msgs : Tbl Msg := []
  convs : Tbl Conv := []
  cache : Tbl (Tbl Cached) := []
  replies : Tbl Reply := []
  pairs : Tbl PairQ := []
  handles : Tbl Handle := []
  cores : Tbl Core := []
  flights : Tbl Flight := []
  dmas : Tbl StandDma := []
  fevals : Tbl Feval := []
  runs : Tbl ArrayRun := []
  ctxs : Tbl Ctx := []
  boom : Boom := {}
  eports : Tbl EPort := []
  lports : Tbl LPort := []
  quads : Tbl Quad := []
  dies : Tbl DieSt := []
  units : Units := {}
  twin : Twin := {}
  mgmt : Mgmt := {}
  power : Power := {}
  deriving DecidableEq, Repr

/-- The reasons a step faults. No command of this block stops the machine: the spec answers each with an effect, a code,
a counter or by ignoring it, so the type is empty. -/
inductive Fault where
  deriving DecidableEq, Repr

/-- The reasons a step refuses. -/
inductive Refusal where
  /-- A command of the table that has no meaning yet; raised by an arm of Dispatch.lean. Safe: the machine stops. -/
  | notModelled (mnemonic : String)
  deriving DecidableEq, Repr

/-- The state right after power-on with RST_N asserted (R378, R400): every field at its reset value. -/
def State.reset : State := {}

end Sys2Proof.Machine
end

