-- ==== Sys2Proof/Machine/DevMem.lean ====
section
/-! DEFINITION. Registers, free values, and the device memory space of R337 and R338. -/
namespace Sys2Proof.Machine

/-! ## Registers -/

/-- The committed value of a configuration register in a committed set. -/
def cfgOf (t : Tbl Word) (off : Nat) : Word := Tbl.getD t off (regReset off)

/-- The committed value of a configuration register (R6). -/
def State.cfgW (s : State) (off : Nat) : Word := cfgOf s.regs.cfg off

/-- A field of a committed register. -/
def State.cfg (s : State) (off hi lo : Nat) : Nat := fld (s.cfgW off) hi lo

/-- The current value of the RW and W1C bits of a register. -/
def State.rwW (s : State) (off : Nat) : Word := Tbl.getD s.regs.rw off (regReset off)

/-- A field of an RW register. -/
def State.rw (s : State) (off hi lo : Nat) : Nat := fld (s.rwW off) hi lo

/-- Set a whole RW register. -/
def State.setRw (s : State) (off : Nat) (w : Word) : State := { s with regs.rw := Tbl.put s.regs.rw off w }

/-- Count one event in a saturating counter register. -/
def State.count (s : State) (off : Nat) : State := s.setRw off (satInc (s.rwW off))

/-- Count n events. -/
def State.countN (s : State) (off : Nat) : Nat → State
  | 0 => s
  | n + 1 => State.countN (s.count off) off n

/-- Raise a field of an RW register that holds the largest value seen since cleared. -/
def State.peak (s : State) (off hi lo v : Nat) : State :=
  if s.rw off hi lo < v then s.setRw off (setFld (s.rwW off) hi lo v) else s

/-- Append an observation. -/
def State.emit (s : State) (o : Out) : State := { s with out := s.out ++ [o] }

/-- Draw a free value (log 2): a number below `n` the spec does not give. -/
def State.drawNat (s : State) (n : Nat) : Nat × State :=
  (Config.freeNat s.freeCtr % (n + 1), { s with freeCtr := s.freeCtr + 1 })

/-! ## Device memory -/

/-- Where a DRAM address is held (R338). -/
structure DLoc where
  die : Nat
  die2 : Option Nat
  loc : Nat
  deriving DecidableEq, Repr

/-- The mode of stripe t in a committed set (Table 14-10). -/
def stripeModeOf (t : Tbl Word) (i : Nat) : Nat :=
  if i < 16 then bitsOf (cfgOf t Reg.GCTL_STRIPE_LO).toNat (2 * i + 1) (2 * i)
  else bitsOf (cfgOf t Reg.GCTL_STRIPE_HI).toNat (2 * (i - 16) + 1) (2 * (i - 16))

/-- The mode of stripe t. -/
def State.stripeMode (s : State) (i : Nat) : Nat := stripeModeOf s.regs.cfg i

/-- The end of the DRAM space (Table 14-3). -/
def dramEnd : Nat := 0x1800000000

/-- R338's location of a DRAM address by stripe mode: none where unmapped. -/
def dramLocate (mode a : Nat) : Option DLoc :=
  let t := a / 2 ^ 32
  let o := a % 2 ^ 32
  let base := t * 2 ^ 30
  if mode = 0 then some ⟨(o / 4096) % 4, none, base + (o / 16384) * 4096 + o % 4096⟩
  else if mode = 1 then some ⟨o / 2 ^ 30, none, base + o % 2 ^ 30⟩
  else if mode = 2 then
    if o < 0x80000000 then some ⟨(o / 4096) % 2, some ((o / 4096) % 2 + 2), base + (o / 8192) * 4096 + o % 4096⟩ else none
  else none

/-- Where a device address lies in DRAM. -/
def State.locate (s : State) (a : Nat) : Option DLoc :=
  if a < dramEnd then dramLocate (s.stripeMode (a / 2 ^ 32)) a else none

/-- Tract die d's memory. -/
def State.die (s : State) (d : Nat) : DieSt := Tbl.getD s.dies d {}

/-- Change tract die d's memory. -/
def State.setDie (s : State) (d : Nat) (x : DieSt) : State := { s with dies := Tbl.put s.dies d x }

/-- A DRAM byte of one die, or none where its word is uncorrectable or the port is lost (R17, R342). -/
def DieSt.dramByte (x : DieSt) (a : Nat) : Option Byte :=
  if x.lost || x.ue.contains (a / 4) then none else some (x.dram.read a)

/-- What reading one byte of the device memory space answers: the byte, an unmapped address, or an uncorrectable error. -/
inductive MemRead where
  | byte (b : Byte)
  | unmapped
  | ue
  deriving DecidableEq, Repr

/-- The SRAM aperture of a tract die (Table 14-3): die and offset. -/
def apertureOf (a : Nat) : Option (Nat × Nat) :=
  if 0x4000000000 ≤ a ∧ a < 0x4400000000 then some ((a - 0x4000000000) / 2 ^ 32, a % 2 ^ 32) else none

/-- The hub aperture (Table 14-6): an offset of 96 MB. -/
def hubAperture (a : Nat) : Option Nat :=
  if 0x4800000000 ≤ a ∧ a < 0x4800000000 + 0x6000000 then some (a - 0x4800000000) else none

/-- Read one DRAM byte of the device memory space: a mirrored byte is served by the second die when the first has it
uncorrectable or lost (R338). -/
def State.dramRead (s : State) (a : Nat) : MemRead :=
  match s.locate a with
  | none => .unmapped
  | some l =>
    match (s.die l.die).dramByte l.loc, l.die2 with
    | some b, _ => .byte b
    | none, some d2 =>
      match (s.die d2).dramByte l.loc with
      | some b => .byte b
      | none => .ue
    | none, none => .ue

/-- Write one DRAM byte of one die. A write to a lost port has no effect. -/
def DieSt.putByte (x : DieSt) (a : Nat) (b : Byte) : DieSt :=
  if x.lost then x else { x with dram := x.dram.write a b }

/-- Write one byte of DRAM: a mirrored byte goes to both dies (R338); an unmapped write is dropped (R337). -/
def State.dramWrite (s : State) (a : Nat) (b : Byte) : State :=
  match s.locate a with
  | none => s
  | some l =>
    let s1 := s.setDie l.die ((s.die l.die).putByte l.loc b)
    match l.die2 with
    | none => s1
    | some d2 => s1.setDie d2 ((s1.die d2).putByte l.loc b)

/-- Clear the uncorrectable mark of one die's word (R342: a full-word write replaces it). -/
def DieSt.heal (x : DieSt) (a : Nat) : DieSt := { x with ue := x.ue.filter (· != a / 4) }

/-- A full-word write replaces an uncorrectable word (R342). -/
def State.healWord (s : State) (a : Nat) : State :=
  match s.locate a with
  | none => s
  | some l =>
    let s1 := s.setDie l.die ((s.die l.die).heal l.loc)
    match l.die2 with
    | none => s1
    | some d2 => s1.setDie d2 ((s1.die d2).heal l.loc)

/-- Write bytes from a device address upward; a word written whole loses its uncorrectable mark. -/
def State.devWrite (s : State) (a : Nat) : List Byte → State
  | [] => s
  | b :: t =>
    let s1 := if a % 4 = 0 ∧ 3 ≤ t.length then s.healWord a else s
    State.devWrite (s1.dramWrite a b) (a + 1) t

/-- Read n DRAM bytes from a device address upward, zero where unmapped or uncorrectable. -/
def State.devRead (s : State) (a : Nat) : Nat → List Byte
  | 0 => []
  | n + 1 => (match s.dramRead a with | .byte b => b | _ => 0) :: State.devRead s (a + 1) n

/-- Whether any of n bytes is unmapped. -/
def State.anyUnmapped (s : State) (a : Nat) : Nat → Bool
  | 0 => false
  | n + 1 => (s.dramRead a == .unmapped) || State.anyUnmapped s (a + 1) n

/-- Write an operation's completion record, and the status it ends with: a record of which a byte is unmapped fails the operation
(R337; log 173). -/
def State.recordWrite (s : State) (a : Nat) (b : List Byte) (status : Nat) : Nat × State :=
  (if status = 0 ∧ s.anyUnmapped a b.length = true then 0x0B else status, s.devWrite a b)

/-- Whether any of n bytes has an uncorrectable error. -/
def State.anyUe (s : State) (a : Nat) : Nat → Bool
  | 0 => false
  | n + 1 => (s.dramRead a == .ue) || State.anyUe s (a + 1) n

/-- Rewrite a mirrored word of the first die from the second, when only the first has it uncorrectable (R338). -/
def State.mirrorWord (s : State) (a : Nat) : State :=
  match s.locate a with
  | none => s
  | some l =>
    match l.die2 with
    | none => s
    | some d2 =>
      let x := s.die l.die
      let y := s.die d2
      let w := l.loc / 4 * 4
      if !x.lost && x.ue.contains (l.loc / 4) && !y.lost && !y.ue.contains (l.loc / 4) then
        s.setDie l.die { x.heal w with dram := x.dram.writeN w (y.dram.readN w 4) }
      else s

/-- What a read of n bytes does to mirrored words (R338). -/
def State.mirrorHeal (s : State) (a n : Nat) : State :=
  if (List.range 4).all (fun d => (s.die d).ue.isEmpty) then s
  else (List.range (n / 4 + 1)).foldl (fun s i => s.mirrorWord (a + 4 * i)) s

end Sys2Proof.Machine
end

