-- ==== Sys2Proof/Machine/Hash.lean ====
section
/-! DEFINITION. The named functions of the spec that are given by their standards: the CRC-32 of an Ethernet FCS (R37,
R41), the CRC-64 of the twin digest (R365), SHA-256 (R116, R319, R388), SHA-384 (R373) and the Internet checksum (R49, R51). -/
namespace Sys2Proof.Machine

/-- One byte of the reflected CRC-32, polynomial 0xEDB88320: n bits left. -/
def crc32Bits : Nat → Nat → Nat
  | 0, c => c
  | n + 1, c => crc32Bits n (if c % 2 = 1 then (c / 2) ^^^ 0xEDB88320 else c / 2)

/-- The CRC-32 of a byte string (IEEE 802.3). -/
def crc32 (l : List Byte) : Nat :=
  (l.foldl (fun c b => crc32Bits 8 (c ^^^ b.toNat)) 0xFFFFFFFF) ^^^ 0xFFFFFFFF

/-- The four FCS bytes of a frame, as they follow it on the wire. -/
def fcsOf (l : List Byte) : List Byte := leBytes 4 (crc32 l)

/-- A frame whose last four bytes are the FCS of the bytes before them (R37). -/
def fcsGood (l : List Byte) : Bool := l.drop (l.length - 4) == fcsOf (l.take (l.length - 4)) && decide (4 < l.length)

/-- One byte of the CRC-64 of R365, not reflected: n bits left. -/
def crc64Bits : Nat → Nat → Nat
  | 0, c => c
  | n + 1, c =>
    crc64Bits n (if 2 ^ 63 ≤ c then ((c * 2) % 2 ^ 64) ^^^ 0x42F0E1EBA9EA3693 else c * 2)

/-- The CRC-64 with polynomial 0x42F0_E1EB_A9EA_3693, initial value zero, no reflection (R365). -/
def crc64 (l : List Byte) : Nat := l.foldl (fun c b => crc64Bits 8 (c ^^^ (b.toNat * 2 ^ 56))) 0

/-- The Internet checksum of a byte string: the complement of the ones' complement sum of its 16-bit words. -/
def sum16 : List Byte → Nat
  | [] => 0
  | [a] => a.toNat * 256
  | a :: b :: t => a.toNat * 256 + b.toNat + sum16 t

/-- Fold a sum into 16 bits with end-around carry. -/
def fold16 (n : Nat) : Nat :=
  let a := n % 65536 + n / 65536
  let b := a % 65536 + a / 65536
  b % 65536 + b / 65536

/-- The checksum field of a byte string. -/
def checksum (l : List Byte) : Nat := 65535 - fold16 (sum16 l)

/-! ## SHA-256 and SHA-384 -/

/-- What the two hashes differ in: bytes of a word, the round constants, the first hash value, the rotations of the schedule with
their shifts, and those of a round. -/
structure ShaKind where
  word : Nat
  consts : List Nat
  first : List Nat
  sched0 : List Nat × Nat
  sched1 : List Nat × Nat
  sum0 : List Nat
  sum1 : List Nat

/-- Word i of a number that is a row of words of w bits, the first word highest, n words in all. -/
def rowWord (w x n i : Nat) : Nat := x >>> (w * (n - 1 - i)) % 2 ^ w

/-- Rows of eight words: the first 64 bits of the fractions of the cube roots of the first 80 primes. -/
def shaRows : List Nat :=
  [0x428a2f98d728ae227137449123ef65cdb5c0fbcfec4d3b2fe9b5dba58189dbbc3956c25bf348b53859f111f1b605d019923f82a4af194f9bab1c5ed5da6d8118,
   0xd807aa98a303024212835b0145706fbe243185be4ee4b28c550c7dc3d5ffb4e272be5d74f27b896f80deb1fe3b1696b19bdc06a725c71235c19bf174cf692694,
   0xe49b69c19ef14ad2efbe4786384f25e30fc19dc68b8cd5b5240ca1cc77ac9c652de92c6f592b02754a7484aa6ea6e4835cb0a9dcbd41fbd476f988da831153b5,
   0x983e5152ee66dfaba831c66d2db43210b00327c898fb213fbf597fc7beef0ee4c6e00bf33da88fc2d5a79147930aa72506ca6351e003826f142929670a0e6e70,
   0x27b70a8546d22ffc2e1b21385c26c9264d2c6dfc5ac42aed53380d139d95b3df650a73548baf63de766a0abb3c77b2a881c2c92e47edaee692722c851482353b,
   0xa2bfe8a14cf10364a81a664bbc423001c24b8b70d0f89791c76c51a30654be30d192e819d6ef5218d69906245565a910f40e35855771202a106aa07032bbd1b8,
   0x19a4c116b8d2d0c81e376c085141ab532748774cdf8eeb9934b0bcb5e19b48a8391c0cb3c5c95a634ed8aa4ae3418acb5b9cca4f7763e373682e6ff3d6b2b8a3,
   0x748f82ee5defb2fc78a5636f43172f6084c87814a1f0ab728cc702081a6439ec90befffa23631e28a4506cebde82bde9bef9a3f7b2c67915c67178f2e372532b,
   0xca273eceea26619cd186b8c721c0c207eada7dd6cde0eb1ef57d4f7fee6ed17806f067aa72176fba0a637dc5a2c898a6113f9804bef90dae1b710b35131c471b,
   0x28db77f523047d8432caab7b40c724933c9ebe0a15c9bebc431d67c49c100d4c4cc5d4becb3e42b6597f299cfc657e2a5fcb6fab3ad6faec6c44198c4a475817]

/-- The round constants of 64 bits, in order. -/
def shaConsts : List Nat := shaRows.flatMap (fun x => (List.range 8).map (rowWord 64 x 8))

/-- SHA-256: 32-bit words, 64 rounds; the constants are the upper halves of the longer ones. -/
def sha256Kind : ShaKind :=
  { word := 4, consts := (shaConsts.take 64).map (· / 2 ^ 32), sched0 := ([7, 18], 3), sched1 := ([17, 19], 10)
    first := (List.range 8).map (rowWord 32 0x6a09e667bb67ae853c6ef372a54ff53a510e527f9b05688c1f83d9ab5be0cd19 8)
    sum0 := [2, 13, 22], sum1 := [6, 11, 25] }

/-- SHA-384: 64-bit words, 80 rounds. -/
def sha384Kind : ShaKind :=
  { word := 8, consts := shaConsts, sched0 := ([1, 8], 7), sched1 := ([19, 61], 6)
    first := (List.range 8).map (rowWord 64
      0xcbbb9d5dc1059ed8629a292a367cd5079159015a3070dd17152fecd8f70e593967332667ffc00b318eb44a8768581511db0c2e0d64f98fa747b5481dbefa4fa4 8)
    sum0 := [28, 34, 39], sum1 := [14, 18, 41] }

/-- Two to the bits of a word. -/
def ShaKind.size (h : ShaKind) : Nat := 2 ^ (8 * h.word)

/-- The xor of a word rotated right by each of some counts. -/
def ShaKind.turns (h : ShaKind) (x : Nat) (l : List Nat) : Nat :=
  l.foldl (fun y n => y ^^^ ((x * h.size + x) >>> n % h.size)) 0

/-- A word of the schedule as it enters a later one: rotations and a shift. -/
def ShaKind.mix (h : ShaKind) (r : List Nat × Nat) (x : Nat) : Nat := h.turns x r.1 ^^^ (x >>> r.2)

/-- The schedule word that follows the words of w, the newest first. -/
def ShaKind.next (h : ShaKind) (w : List Nat) : Nat :=
  (w.getD 15 0 + h.mix h.sched0 (w.getD 14 0) + w.getD 6 0 + h.mix h.sched1 (w.getD 1 0)) % h.size

/-- One round on the eight working words, first to last: the words move up by one place, and the fifth and the first take sums. -/
def ShaKind.round (h : ShaKind) (v : List Nat) (kw : Nat × Nat) : List Nat :=
  let x := fun i => v.getD i 0
  let choose := (x 4 &&& x 5) + ((h.size - 1 - x 4) &&& x 6)
  let most := (x 0 &&& (x 1 ||| x 2)) ||| (x 1 &&& x 2)
  let t := x 7 + h.turns (x 4) h.sum1 + choose + kw.1 + kw.2
  let u := t + h.turns (x 0) h.sum0 + most
  [u % h.size, x 0, x 1, x 2, (x 3 + t) % h.size, x 4, x 5, x 6]

/-- One block of 16 words added to a hash value of eight words. -/
def ShaKind.block (h : ShaKind) (v : List Nat) (blk : List Byte) : List Nat :=
  let first := (List.range 16).map (fun i => beAt blk (h.word * i) h.word)
  let w := ((h.consts.length - 16).repeat (fun w => h.next w :: w) first.reverse).reverse
  List.zipWith (fun a b => (a + b) % h.size) v ((List.zip h.consts w).foldl h.round v)

/-- The padding: a one bit, zeros, and the length in bits as two words. -/
def ShaKind.pad (h : ShaKind) (l : List Byte) : List Byte :=
  let n := 16 * h.word
  l ++ 0x80 :: List.replicate ((2 * n - 1 - 2 * h.word - l.length % n) % n) 0 ++ beBytes (2 * h.word) (8 * l.length)

/-- The eight words of the hash of a byte string, as bytes. -/
def ShaKind.hash (h : ShaKind) (l : List Byte) : List Byte :=
  let p := h.pad l
  let n := 16 * h.word
  ((List.range (p.length / n)).foldl (fun v i => h.block v (slice p (n * i) n)) h.first).flatMap (beBytes h.word)

/-- The SHA-256 digest, 32 bytes (R116, R319, R388). -/
def sha256 (l : List Byte) : List Byte := sha256Kind.hash l

/-- The SHA-384 digest, 48 bytes (R373). -/
def sha384 (l : List Byte) : List Byte := (sha384Kind.hash l).take 48

end Sys2Proof.Machine
end

