-- ==== Sys2Proof/Machine/Ops.lean ====
section
/-! DEFINITION. Operations every family shares: device time and stamps, events, the journal, port configuration,
admission holds. -/
namespace Sys2Proof.Machine

/-! ## Device time -/

/-- Device time wraps after 2^64 seconds (R288, R289). -/
def timeMod : Nat := 2 ^ 64 * (1000000000 * 2 ^ 32)

/-- Raw counts from a to r, modulo 2^64 (R288). -/
def rawSince (r a : Nat) : Nat := (r + (2 ^ 64 - a % 2 ^ 64)) % 2 ^ 64

/-- Device time at raw count r and `sub` sixteenths of a count after it, in units of 2^−32 ns (R288): the ns since the base pair are a
64-bit number. -/
def TimeSt.total (t : TimeSt) (r sub : Nat) : Nat :=
  let x := t.baseNs * 2 ^ 32 + t.baseFrac + rawSince r t.baseRaw * t.inc + sub * t.inc / 16
  ((t.baseSec * 1000000000 + x / 2 ^ 32 % 2 ^ 64) * 2 ^ 32 + x % 2 ^ 32) % timeMod

/-- Seconds of a device time in units of 2^−32 ns. -/
def secOf (x : Nat) : Nat := x / (1000000000 * 2 ^ 32)
/-- ns of a device time in units of 2^−32 ns. -/
def nsOf (x : Nat) : Nat := x / 2 ^ 32 % 1000000000
/-- The 32-bit fraction of a device time in units of 2^−32 ns. -/
def fracOf (x : Nat) : Nat := x % 2 ^ 32

/-- A device time in units of 2^−32 ns. -/
def timeOf (sec ns : Nat) : Nat := (sec * 1000000000 + ns) * 2 ^ 32

/-- Device time now (R288), in units of 2^−32 ns. -/
def State.now (s : State) : Nat := s.time.total s.time.raw 0

/-- A timestamp (R289) of an instant, with a correction in sixteenths of a ns (R294). -/
def State.stampAt (s : State) (r sub : Nat) (adj : Int) : Stamp :=
  let x := ((s.time.total r sub : Int) + adj * 2 ^ 28).toNat % timeMod
  ⟨secOf x, nsOf x, fracOf x / 2 ^ 28 * 4096 + s.rw Reg.TIME_QUAL 1 0, s.time.gen⟩

/-- A timestamp of the current instant. -/
def State.stamp (s : State) : Stamp := s.stampAt s.time.raw 0 0

/-- Microseconds of raw time (R242's LAST). -/
def State.rawUs (s : State) : Nat := s.time.raw / 1000

/-! ## Events (R24, R384, R385) -/

/-- Pack event items from bit 0 upward, each in its width (R385). -/
def packItems : List (Nat × Nat) → Nat → Nat
  | [], _ => 0
  | (v, w) :: t, pos => (v % 2 ^ w) * 2 ^ pos + packItems t (pos + w)

/-- Send an MSI-X vector. -/
def State.vector (s : State) (n : Nat) : State := s.emit (.vector n)

/-- Entries held in event queue q. -/
def State.evq (s : State) (q : Nat) : List EvEntry := Tbl.getD s.mgmt.evq q []

/-- Whether event queue q sends its vector. -/
def State.evqEn (s : State) (q : Nat) : Bool := s.rw (Reg.GCTL_EVQ_w0 q) 31 31 == 1

/-- Post event `idx` of queue q with its items; `vec` is the vector of an event that has its own (log 12). -/
def State.postV (s : State) (q idx : Nat) (items : List (Nat × Nat)) (vec : Option Nat) : State :=
  let c := q * 16 + idx
  let s1 := s.count (Reg.GCTL_EVCNT c)
  let p := packItems items 0
  let x := s.now
  let e : EvEntry := ⟨c, p / 2 ^ 32 % 256, s.time.gen, secOf x % 2 ^ 32, nsOf x, p % 2 ^ 32⟩
  let held := s1.evq q
  if 1024 ≤ held.length then s1.setRw (Reg.GCTL_EVQ_w1 q) (setFld (s1.rwW (Reg.GCTL_EVQ_w1 q)) 31 31 1)
  else
    let s2 := { s1 with mgmt.evq := Tbl.put s1.mgmt.evq q (held ++ [e]) }
    if held.isEmpty && s2.evqEn q then s2.vector (vec.getD (s2.rw (Reg.GCTL_EVQ_w0 q) 10 0)) else s2

/-- Post event `idx` of queue q. -/
def State.post (s : State) (q idx : Nat) (items : List (Nat × Nat)) : State := s.postV q idx items none

/-- MBOX_DONE: command code and completion STATUS (R385), with the vector of GCTL_MBOX_STAT. -/
def State.mboxDone (s : State) (cmd status : Nat) : State :=
  s.postV 0 12 [(cmd, 8), (status, 8)] (some (s.rw Reg.GCTL_MBOX_STAT 26 16))

/-- MODEL_DONE: handle, completion STATUS and command code (R385). -/
def State.modelDone (s : State) (handle status cmd : Nat) : State :=
  s.post 0 2 [(handle, 16), (status, 8), (cmd, 8)]

/-- GATE: the cause of Table 2-4 and the request's ingress logical port (R385). -/
def State.gateEvent (s : State) (cause lport : Nat) : State := s.post 6 1 [(cause, 8), (lport, 8)]

/-! ## Uncorrectable words (R342) -/

/-- The device address of an uncorrectable error, kept for MEM_UELOG. -/
def State.logUe (s : State) (d a : Nat) : State := s.setDie d { s.die d with uelog := a }

/-- The device address at which stripe modes show a die's local address. -/
def State.dramAddr (s : State) (d a : Nat) : Nat :=
  let t := a / 2 ^ 30
  let o := a % 2 ^ 30
  let mode := s.stripeMode t
  t * 2 ^ 32 + (if mode = 0 then (o / 4096) * 16384 + d * 4096 + o % 4096
    else if mode = 2 then (o / 4096) * 8192 + d % 2 * 4096 + o % 4096
    else d * 2 ^ 30 + o)

/-- An uncorrectable DRAM word (R342): counted, posted, logged; it stays so until it is rewritten. -/
def State.dramUe (s : State) (d a : Nat) : State :=
  let s1 := (s.count (Reg.MEM_CNT_DUE d)).post (11 + d) 5 []
  let y := s1.die d
  s1.setDie d { y with ue := if y.ue.contains (a / 4) then y.ue else y.ue ++ [a / 4], uelog := s.dramAddr d (a / 4 * 4) }

/-- Mark a word of a tract die's SRAM as uncorrectable, by its aperture offset. -/
def State.markSram (s : State) (d o : Nat) : State :=
  let y := s.die d
  s.setDie d { y with sramUe := if y.sramUe.contains (o / 4) then y.sramUe else y.sramUe ++ [o / 4] }

/-- Report an uncorrectable word of a tract die's SRAM: counted, posted, logged. -/
def State.sramUe (s : State) (d o : Nat) : State :=
  ((s.count (Reg.MEM_CNT_SUE d)).post (11 + d) 5 []).logUe d (0x4000000000 + d * 2 ^ 32 + o)

/-- A word among ranges of (address, length), by its number. -/
def spanWord : List (Nat × Nat) → Nat → Option Nat
  | [], _ => none
  | (a, n) :: t, i => if 4 * i < n then some (a + 4 * i) else spanWord t (i - ceilDiv n 4)

/-- An access to ranges of a tract die's SRAM meets an uncorrectable word (R342): which one the access does not say (log 174). -/
def State.spanUe (s : State) (d : Nat) (l : List (Nat × Nat)) : State :=
  let r := s.drawNat (sumBy (fun x => ceilDiv x.2 4) l - 1)
  match spanWord l r.1 with
  | some o => (r.2.sramUe d o).markSram d o
  | none => r.2

/-- An access to n bytes of DRAM meets an uncorrectable word, on every die that holds it (R338, R342): which one the access does not say
(log 174). -/
def State.rangeUe (s : State) (a n : Nat) : State :=
  let r := s.drawNat (ceilDiv n 4 - 1)
  match r.2.locate (a + 4 * r.1) with
  | some l =>
    let s1 := r.2.dramUe l.die l.loc
    match l.die2 with | some d2 => s1.dramUe d2 l.loc | none => s1
  | none => r.2

/-- An access to the device's own POOL allocation on a die meets an uncorrectable word (R339, R342): which one the spec does not say
(log 174). -/
def State.poolUe (s : State) (d : Nat) : State :=
  let ts := (List.range 24).filter (fun t => s.stripeMode t == 3)
  let r := s.drawNat (ts.length * 2 ^ 28 - 1)
  match ts[r.1 / 2 ^ 28]? with
  | some t => r.2.dramUe d (t * 2 ^ 30 + r.1 % 2 ^ 28 * 4)
  | none => r.2

/-- A word that is written whole is uncorrectable no more, by its aperture offset. -/
def State.healSram (s : State) (d o n : Nat) : State :=
  let y := s.die d
  if y.sramUe.isEmpty then s
  else s.setDie d { y with sramUe := y.sramUe.filter (fun w => !(decide (o ≤ w * 4) && decide (w * 4 + 4 ≤ o + n))) }

/-- Ranges that are written whole, as (address, length). -/
def State.healSpans (s : State) (d : Nat) (l : List (Nat × Nat)) : State := l.foldl (fun s x => s.healSram d x.1 x.2) s

/-! ## The change journal (R388 to R390) -/

/-- The ring base, zero while no ring exists (R389). -/
def State.ringBase (s : State) : Nat := (s.cfgW Reg.JRNL_RING_HI).toNat * 2 ^ 32 + (s.cfgW Reg.JRNL_RING_LO).toNat

/-- JRNL_EXP. -/
def State.jrnlExp (s : State) : Nat := (s.rwW Reg.JRNL_EXP_HI).toNat * 2 ^ 32 + (s.rwW Reg.JRNL_EXP_LO).toNat

/-- Ring entries. -/
def ringEntries : Nat := 2 ^ 20

/-- Free ring entries (R389). -/
def State.ringFree (s : State) : Nat := ringEntries - (s.mgmt.jr.next - s.jrnlExp)

/-- Entries on the die and not in the ring. -/
def State.ondie (s : State) : Nat := s.mgmt.jr.next - s.mgmt.jr.toRing - s.mgmt.jr.spill.length

/-- An on-die store that is full gives up its oldest entry when that has been in a ring before (R389). -/
def State.makeRoom (s : State) : State :=
  if 4096 ≤ s.ondie ∧ s.mgmt.jr.toRing < s.mgmt.jr.once then { s with mgmt.jr.toRing := s.mgmt.jr.toRing + 1 } else s

/-- Write entries to the ring while there is room, at most `fuel` of them (R389). -/
def State.drainJrnl (s : State) : Nat → State
  | 0 => s
  | fuel + 1 =>
    let n := s.mgmt.jr.toRing
    if s.ringBase = 0 ∨ s.mgmt.jr.next ≤ n ∨ s.jrnlExp + ringEntries ≤ n then s
    else
      match Tbl.find s.mgmt.jr.ondie n with
      | none => s
      | some e =>
        let s1 := s.devWrite (s.ringBase + n % ringEntries * 64) e
        State.drainJrnl { s1 with mgmt.jr.toRing := n + 1, mgmt.jr.once := max s1.mgmt.jr.once (n + 1) } fuel

/-- Move entries of the overflow store into the on-die store while it has room, at most `fuel` of them (R390). -/
def State.refillJrnl (s : State) : Nat → State
  | 0 => s
  | fuel + 1 =>
    match s.mgmt.jr.spill with
    | [] => s
    | e :: t =>
      if s.ondie < 4096 then
        let n := s.mgmt.jr.next - s.mgmt.jr.spill.length
        State.refillJrnl { s with mgmt.jr.ondie := Tbl.put s.mgmt.jr.ondie n e, mgmt.jr.spill := t } fuel
      else s

/-- Post JRNL_LOW and JRNL_FULL as their conditions begin, and keep the 4,096 most recent entries (R389, R390). -/
def State.jrnlLevels (s : State) : State :=
  let low := decide (s.ringBase ≠ 0 ∧ s.ringFree < 4096)
  let full := decide ((s.ringBase = 0 ∨ s.jrnlExp + ringEntries ≤ s.mgmt.jr.toRing) ∧ 4096 ≤ s.ondie ∧
    s.mgmt.jr.once ≤ s.mgmt.jr.toRing)
  let keepFrom := min s.mgmt.jr.toRing (s.mgmt.jr.next - 4096)
  let s1 := if low && !s.mgmt.jr.low then s.post 7 0 [] else s
  let s2 := if full && !s.mgmt.jr.full then s1.post 7 1 [] else s1
  { s2 with mgmt.jr.low := low, mgmt.jr.full := full,
            mgmt.jr.ondie := Tbl.keep s2.mgmt.jr.ondie (fun k _ => decide (keepFrom ≤ k)) }

/-- Let the journal's stores settle: ring first, then the on-die store from the overflow store. -/
def State.settleJrnl (s : State) : State :=
  let s1 := s.drainJrnl 5000
  let s2 := s1.refillJrnl 64
  (s2.drainJrnl 64).jrnlLevels

/-- Bytes 0 to 31 of a journal entry (Table 16-5). -/
def State.jrnlHead (s : State) (kind sub target origin : Nat) : List Byte :=
  let x := s.now
  leBytes 8 s.mgmt.jr.next ++ leBytes 8 (secOf x) ++ leBytes 4 (nsOf x) ++ leBytes 2 (fracOf x / 65536) ++
  leBytes 2 s.time.gen ++ leBytes 1 origin ++ leBytes 1 kind ++ leBytes 2 sub ++ leBytes 4 target

/-- Write a journal entry; `value` none takes the default VALUE of Table 16-14. An entry is never discarded (R24): one that finds
every store full waits behind the overflow store, and the device leaves service under R361 (R390). -/
def State.journal (s : State) (kind sub target : Nat) (value : Option (List Byte)) (origin : Nat) : State :=
  let h := s.jrnlHead kind sub target origin
  let v := (padTo (value.getD (sha256 h)) 16).take 16
  let ch := (sha256 (s.mgmt.jr.chain ++ h ++ v)).take 16
  let e := h ++ v ++ ch
  let n := s.mgmt.jr.next
  let s := s.makeRoom
  let s1 := { s with mgmt.jr.next := n + 1, mgmt.jr.chain := ch }
  if s.ondie < 4096 ∧ s.mgmt.jr.spill = [] then
    ({ s1 with mgmt.jr.ondie := Tbl.put s1.mgmt.jr.ondie n e }).settleJrnl
  else
    let full := decide (64 ≤ s.mgmt.jr.spill.length)
    ({ s1 with mgmt.jr.spill := s1.mgmt.jr.spill ++ [e], mgmt.leaveDue := s1.mgmt.leaveDue || full }).settleJrnl

/-! ## Ports (R259, R262) -/

/-- A quad is enabled. -/
def quadOn (c : Tbl Word) (q : Nat) : Bool := fld (cfgOf c (Reg.PORT_QCFG q)) 31 31 == 1
/-- A quad is assigned to neighbour-side use. -/
def quadNbr (c : Tbl Word) (q : Nat) : Bool := fld (cfgOf c (Reg.PORT_QCFG q)) 30 30 == 1
/-- A quad's MODE (Table 11-1). -/
def quadMode (c : Tbl Word) (q : Nat) : Nat := fld (cfgOf c (Reg.PORT_QCFG q)) 29 28

/-- Lanes of Ethernet port 4q + k by its quad's MODE, 0 where the mode creates no such port (Table 11-1). -/
def modeLanes (c : Tbl Word) (e : Nat) : Nat :=
  let m := quadMode c (e / 4)
  if m = 0 then (if e % 4 = 0 then 4 else 0)
  else if m = 1 then (if e % 4 = 0 ∨ e % 4 = 2 then 2 else 0)
  else if m = 2 then 1 else 0

/-- A quad's MODE creates Ethernet port 4q + k. -/
def modeMakes (c : Tbl Word) (e : Nat) : Bool := modeLanes c e != 0

/-- Lanes of Ethernet port 4q + k in a committed set, 0 where it is not in use. -/
def epLanes (c : Tbl Word) (e : Nat) : Nat := if e < 48 ∧ quadOn c (e / 4) then modeLanes c e else 0

/-- An Ethernet port's logical port (R262). -/
def epLport (c : Tbl Word) (e : Nat) : Nat := fld (cfgOf c (Reg.PORT_EPCFG (e / 4) (e % 4))) 21 16
/-- An Ethernet port's PFC priorities. -/
def epPfc (c : Tbl Word) (e : Nat) : Nat := fld (cfgOf c (Reg.PORT_EPCFG (e / 4) (e % 4))) 7 0
/-- An Ethernet port's MAC, 48 bits. -/
def epMac (c : Tbl Word) (e : Nat) : Nat :=
  fld (cfgOf c (Reg.PORT_MAC_HI (e / 4) (e % 4))) 15 0 * 2 ^ 32 + (cfgOf c (Reg.PORT_MAC_LO (e / 4) (e % 4))).toNat
/-- A neighbour-side Ethernet port of the configuration. -/
def epNbr (c : Tbl Word) (e : Nat) : Bool := decide (0 < epLanes c e) && quadNbr c (e / 4)
/-- The Ethernet ports of a logical port, ascending (R262). -/
def lpMembers (c : Tbl Word) (l : Nat) : List Nat := pick 48 (fun e => decide (0 < epLanes c e) && epLport c e == l)
/-- A logical port's MAC: its lowest-numbered member's (R262). -/
def lpMac (c : Tbl Word) (l : Nat) : Nat := match lpMembers c l with | [] => 0 | e :: _ => epMac c e

/-- An Ethernet port's state. -/
def State.ep (s : State) (e : Nat) : EPort := Tbl.getD s.eports e {}
/-- Change an Ethernet port's state. -/
def State.setEp (s : State) (e : Nat) (p : EPort) : State := { s with eports := Tbl.put s.eports e p }
/-- A logical port's state. -/
def State.lp (s : State) (l : Nat) : LPort := Tbl.getD s.lports l {}
/-- Change a logical port's state. -/
def State.setLp (s : State) (l : Nat) (p : LPort) : State := { s with lports := Tbl.put s.lports l p }
/-- A quad's state. -/
def State.quad (s : State) (q : Nat) : Quad := Tbl.getD s.quads q {}
/-- Change a quad's state. -/
def State.setQuad (s : State) (q : Nat) (x : Quad) : State := { s with quads := Tbl.put s.quads q x }
/-- An Ethernet port has link up: discovering, in service or in quarantine (Table 11-11). -/
def State.linkUp (s : State) (e : Nat) : Bool := decide (2 ≤ (s.ep e).state)
/-- An Ethernet port is in service. -/
def State.epServes (s : State) (e : Nat) : Bool := (s.ep e).state == 3

/-! ## Admission (R22, R392 to R395, R368, R370) -/

/-- The twin state lets the device admit and serve: not FENCED and not LINKING (R368, R370). -/
def State.twinServes (s : State) : Bool := !(s.twin.state == 4 || s.twin.state == 1)

/-- Admission is held: by a supply or thermal hold, a reset or power transition, a power state other than Run, or
out of service (R361, R392, R394, R395). -/
def State.holding (s : State) : Bool :=
  s.power.holdSupply || s.power.holdReset || s.power.holdTrans || decide (2 ≤ s.power.therm) || s.power.state != 0

/-- A Doze entry or a wake is in progress (R396). -/
def State.moving (s : State) : Bool := s.power.target == some 0 || s.power.target == some 2

/-- A commit or a felling is due at this boundary and has not taken effect yet: admission comes after it (R22). -/
def State.changeDue (s : State) : Bool :=
  s.mgmt.commit.due || (!s.mgmt.jr.full && s.time.fell.any (fun f => decide (timeOf f.2.sec f.2.ns ≤ s.now)))

/-- The tick boundary admits: nothing holds admission, the throttle's even ticks pass (R395), the twin state admits, and what
takes effect before admission at this boundary has done so (R22). -/
def State.admits (s : State) : Bool :=
  !s.holding && s.twinServes && s.mgmt.inService && (s.power.therm != 1 || s.time.tick % 2 == 0) && !s.changeDue

/-- The mode in force for newly started items (R310): GCTL_MODE.EXACT as committed. -/
def State.exact (s : State) : Bool := s.cfg Reg.GCTL_MODE 31 31 == 1

/-- The versions that serve now, by handle. -/
def State.servingMap (s : State) : Tbl Nat :=
  s.handles.filterMap (fun e => e.2.serving.map (fun v => (e.1, v.number)))

end Sys2Proof.Machine
end

