-- ==== Sys2Proof/Machine/Operands.lean ====
section
/-! DEFINITION. Reading a frame: Ethernet, VLAN, IP and UDP fields, the selection key of Table 3-1, payloads (R236), owner
keys (R242), the Chete request header of Table 10-1 and the descriptor it fills (R238). -/
namespace Sys2Proof.Machine

/-- The parsed head of a frame. -/
structure Eth where
  dst : Nat
  src : Nat
  tags : List Nat
  etype : Nat
  /-- first byte after the EtherType -/
  l3 : Nat
  /-- 0 not IP, 1 IPv4, 2 IPv6 -/
  ip : Nat
  frag : Bool
  proto : Nat
  /-- first byte of the transport header -/
  l4 : Nat
  deriving DecidableEq, Repr

/-- The TPIDs of a VLAN tag: IEEE 802.1Q (log 13). -/
def isTpid (v : Nat) : Bool := v == 0x8100 || v == 0x88A8

/-- At most n VLAN tags from an offset: their TCIs, and the offset of the EtherType that follows. -/
def readTags (b : List Byte) : Nat → Nat → List Nat × Nat
  | 0, off => ([], off)
  | n + 1, off =>
    if isTpid (beAt b off 2) then
      let r := readTags b n (off + 4)
      (beAt b (off + 2) 2 :: r.1, r.2)
    else ([], off)

/-- Parse the head of a frame. -/
def parseEth (b : List Byte) : Eth :=
  let tg := readTags b 2 12
  let et := beAt b tg.2 2
  let l3 := tg.2 + 2
  let ip := if et = 0x0800 then 1 else if et = 0x86DD then 2 else 0
  let proto := if ip = 1 then byteAt b (l3 + 9) else if ip = 2 then byteAt b (l3 + 6) else 0
  let frag := if ip = 1 then beAt b (l3 + 6) 2 % 0x4000 != 0 else ip == 2 && proto == 44
  let l4 := if ip = 1 then l3 + byteAt b l3 % 16 * 4 else if ip = 2 then l3 + 40 else 0
  ⟨beAt b 0 6, beAt b 6 6, tg.1, et, l3, ip, frag, proto, l4⟩

/-- A UDP frame (R64). -/
def Eth.udp (e : Eth) : Bool := e.ip != 0 && !e.frag && e.proto == 17

/-- The PCP of the outer tag, 0 when untagged. -/
def Eth.pcp (e : Eth) : Nat := match e.tags with | [] => 0 | t :: _ => t / 8192

/-- The VLAN identifier of the outer tag, 0 when untagged. -/
def Eth.vid (e : Eth) : Nat := match e.tags with | [] => 0 | t :: _ => t % 4096

/-- The outer VLAN tag as (TPID, TCI). -/
def outerTag (b : List Byte) : Option (Nat × Nat) :=
  if isTpid (beAt b 12 2) then some (beAt b 12 2, beAt b 14 2) else none

/-- The selection key (Table 3-1). -/
def selKey (b : List Byte) (lport : Nat) : Nat :=
  let e := parseEth b
  lport * 2 ^ 58 + b2n (!e.tags.isEmpty) * 2 ^ 57 + e.pcp * 2 ^ 54 + b2n e.frag * 2 ^ 53 + e.ip * 2 ^ 51 +
  e.etype * 2 ^ 32 + e.proto * 2 ^ 24 + (if e.udp then beAt b (e.l4 + 2) 2 else 0)

/-- h14 at the start of a head (R64). -/
def h14Of (b : List Byte) : Nat := if (parseEth b).ip = 0 then 0 else (parseEth b).l3

/-- h15 at the start of a head (R64). -/
def h15Of (b : List Byte) : Nat :=
  let e := parseEth b
  if e.udp then e.l4 + 8 else if e.etype = 0x88B5 then e.l3 else 0

/-- The request's own carriage (R52). -/
def ownCarriage (b : List Byte) : Nat :=
  let e := parseEth b
  if e.udp then e.ip - 1 else 2

/-- The payload bytes of a frame (R236): frame 0, or a later frame. -/
def payloadOf (b : List Byte) (flen : Nat) (first : Bool) : Nat :=
  let e := parseEth b
  let udpLen := beAt b (e.l4 + 4) 2
  if e.udp then (if first then udpLen - 8 else udpLen - 40)
  else if e.etype = 0x88B5 then (if first then flen - 4 - e.l3 else flen - 4 - e.l3 - 32)
  else flen - 4 - e.l3

/-- A message's owner key (R242). -/
def ownerOf (b : List Byte) : Owner :=
  let e := parseEth b
  if e.udp then
    ⟨e.ip - 1, if e.ip = 1 then beAt b (e.l3 + 12) 4 else beAt b (e.l3 + 8) 16, beAt b e.l4 2⟩
  else ⟨2, e.src, e.vid⟩

/-- A UDP checksum field that is non-zero. -/
def udpHasSum (b : List Byte) : Bool := (parseEth b).udp && beAt b ((parseEth b).l4 + 6) 2 != 0

/-- The pseudo-header of a UDP checksum. -/
def pseudo (b : List Byte) (e : Eth) (len : Nat) : List Byte :=
  if e.ip = 1 then slice b (e.l3 + 12) 8 ++ [0, 17] ++ beBytes 2 len
  else slice b (e.l3 + 8) 32 ++ beBytes 4 len ++ [0, 0, 0, 17]

/-- The UDP checksum of a frame verifies (R37). -/
def udpSumGood (b : List Byte) : Bool :=
  let e := parseEth b
  let len := beAt b (e.l4 + 4) 2
  fold16 (sum16 (pseudo b e len ++ slice b e.l4 len)) == 65535

/-! ## The request header (Table 10-1) -/

/-- The header's reserved bits are zero, MAGIC and VERSION are right (R74, R238). -/
def cheteOk (h : List Byte) : Bool :=
  beAt h 0 2 == 0x434B && byteAt h 2 == 1 && beAt h 4 2 < 1024 && byteAt h 20 < 128 && beAt h 22 2 < 1024 &&
  beAt h 24 2 < 2048

/-- The descriptor CHDR leaves (R74, R238): fields 0x00 to 0x08, INC, DOFF, DLEN and MLEN, whatever was set before. A sum
above 1,023 does not wrap into DOFF's 10 bits (log 116). -/
def cheteDesc (h : List Byte) (start : Nat) : Desc :=
  let c := beAt h 8 4
  let fl := byteAt h 20
  let cv := 2 ^ 31 ≤ c
  { op := some (byteAt h 3)
    model := some (beAt h 4 2)
    modelVer := if fl.testBit 4 then some (beAt h 6 2) else none
    conv := if cv then some (c % 2 ^ 17) else none
    seq := some (beAt h 12 4)
    msg := some (beAt h 16 2)
    frame := some (beAt h 18 2)
    rflags := some (fl % 16)
    replyTo := some (byteAt h 21)
    doff := some (start + beAt h 22 2)
    dlen := some (beAt h 24 2)
    mlen := some (beAt h 26 3)
    inc := if cv then c / 2 ^ 17 % 2 ^ 14 else 0
    close := fl.testBit 5
    ackv := fl.testBit 6
    ackd := byteAt h 29
    flat := beAt h 30 2 }

/-- SETF: descriptor field FIELD takes the low bits of a value (Table 3-4). -/
def Desc.setField (d : Desc) (f v : Nat) : Desc :=
  if f = 0 then { d with op := some (v % 2 ^ 8) }
  else if f = 1 then { d with model := some (v % 2 ^ 10) }
  else if f = 2 then { d with modelVer := some (v % 2 ^ 16) }
  else if f = 3 then { d with conv := some (v % 2 ^ 17) }
  else if f = 4 then { d with seq := some (v % 2 ^ 32) }
  else if f = 5 then { d with msg := some (v % 2 ^ 16) }
  else if f = 6 then { d with frame := some (v % 2 ^ 16) }
  else if f = 7 then { d with rflags := some (v % 2 ^ 4) }
  else if f = 8 then { d with replyTo := some (v % 2 ^ 8) }
  else if f = 9 then { d with doff := some (v % 2 ^ 10) }
  else if f = 10 then { d with dlen := some (v % 2 ^ 11) }
  else if f = 11 then { d with mlen := some (v % 2 ^ 24) }
  else d

/-- A frame of a message after its first (R75, R77). -/
def Desc.later (d : Desc) : Bool := d.frame.getD 0 != 0
/-- WANT_DIGEST. -/
def Desc.wantDigest (d : Desc) : Bool := (d.rflags.getD 0).testBit 0
/-- NEED_EXACT. -/
def Desc.needExact (d : Desc) : Bool := (d.rflags.getD 0).testBit 1
/-- FIXED_LATENCY. -/
def Desc.fixedLatency (d : Desc) : Bool := (d.rflags.getD 0).testBit 2
/-- HOLD_STATE. -/
def Desc.holdState (d : Desc) : Bool := (d.rflags.getD 0).testBit 3
/-- The sequence number, 0 when unset. -/
def Desc.sq (d : Desc) : Nat := d.seq.getD 0
/-- The reply-to selector, SENDER when unset. -/
def Desc.sel (d : Desc) : Nat := d.replyTo.getD 0
/-- CONV as the reply header carries it (R239). -/
def Desc.convWord (d : Desc) : Nat :=
  match d.conv with | none => 0 | some c => 2 ^ 31 + d.inc * 2 ^ 17 + c

end Sys2Proof.Machine
end

