-- ==== Sys2Proof/Machine/Flags.lean ====
section
/-! DEFINITION. The reply flags byte (Table 10-3) and the reply header (Table 10-2). -/
namespace Sys2Proof.Machine

/-- Status codes (Table 10-4). -/
def stOk : Nat := 0x00
/-- BUSY -/
def stBusy : Nat := 0x10
/-- TOO_LARGE -/
def stTooLarge : Nat := 0x20
/-- MALFORMED -/
def stMalformed : Nat := 0x21
/-- UNKNOWN_MODEL -/
def stUnknownModel : Nat := 0x22
/-- STALE_VERSION -/
def stStaleVersion : Nat := 0x23
/-- OUT_OF_WINDOW -/
def stOutOfWindow : Nat := 0x24
/-- INCOMPLETE -/
def stIncomplete : Nat := 0x30
/-- STALE_MESSAGE -/
def stStaleMessage : Nat := 0x31
/-- FAULT_RETRY -/
def stFaultRetry : Nat := 0x40
/-- FAULT_FINAL -/
def stFaultFinal : Nat := 0x41
/-- EXACT_UNAVAILABLE -/
def stExactUnavailable : Nat := 0x50
/-- DIGEST_UNAVAILABLE -/
def stDigestUnavailable : Nat := 0x51
/-- CONTEXT_ROLLED_BACK -/
def stRolledBack : Nat := 0x60

/-- The reply flags byte (Table 10-3) with a choice of PAD. -/
def replyFlags (replayed nan sat warn late unchecked mixed pad : Bool) : Nat :=
  b2n replayed + 2 * b2n nan + 4 * b2n sat + 8 * b2n warn + 16 * b2n late + 32 * b2n unchecked + 64 * b2n mixed +
  128 * b2n pad

/-- The fields of a reply header (Table 10-2) beside MAGIC and VERSION. -/
structure Hdr where
  op : Nat
  status : Nat
  flags : Nat
  detail : Nat
  dig : Bool
  rfl : Nat
  model : Nat
  version : Nat
  conv : Nat
  seq : Nat
  msg : Nat
  resLen : Nat
  info : Nat
  stamp : Stamp
  base : Nat
  deriving DecidableEq, Repr

/-- PLEN (Table 10-2). -/
def Hdr.plen (h : Hdr) : Nat := 48 + h.resLen + (if h.dig then 16 else 0)

/-- The 48 bytes of a reply header. -/
def Hdr.bytes (h : Hdr) : List Byte :=
  beBytes 2 0x434B ++ beBytes 1 1 ++ beBytes 1 h.op ++ beBytes 1 h.status ++ beBytes 1 h.flags ++ beBytes 1 h.detail ++
  beBytes 1 (h.rfl % 16 + (if h.dig then 128 else 0)) ++ beBytes 2 (h.model % 1024) ++ beBytes 2 h.version ++
  beBytes 4 h.conv ++ beBytes 4 h.seq ++ beBytes 2 h.msg ++ beBytes 2 h.resLen ++ beBytes 4 h.info ++
  beBytes 2 h.plen ++ beBytes 2 h.stamp.gen ++ beBytes 6 h.stamp.sec ++ beBytes 4 h.stamp.ns ++
  beBytes 2 h.stamp.frac ++ beBytes 4 h.base

end Sys2Proof.Machine
end

