-- ==== Sys2Proof/Machine/Reply.lean ====
section
/-! DEFINITION. The reply builder (R49 to R56): destinations, templates, fill records, checksums; answers, and the
verdicts that bind a reply (R37). -/
namespace Sys2Proof.Machine

/-! ## Destinations (R52, R53, R56) -/

/-- What a reply-to selector gives. -/
inductive DestRes where
  | silent
  | ok (d : Dest)
  | bad
  deriving DecidableEq, Repr

/-- A destination on a logical port with no address: EtherType 0x88B5, untagged, priority 0. -/
def noDest (lport : Nat) : Dest :=
  { carriage := 2, lport := lport, mac := 0, ip := 0, sip := 0, dport := 0, sport := 0, tag := none, hop := none, tclass := 0 }

/-- The destination SENDER (R53): the outer VLAN tag is echoed whole; an untagged request gets an untagged reply on priority 0. -/
def senderDest (win : List Byte) (lport : Nat) : Dest :=
  let e := parseEth win
  let v4 := e.ip = 1
  let d : Dest := { noDest lport with mac := e.src, tag := outerTag win, prio := e.pcp }
  if e.udp then
    { d with
      carriage := e.ip - 1
      ip := if v4 then beAt win (e.l3 + 12) 4 else beAt win (e.l3 + 8) 16
      sip := if v4 then beAt win (e.l3 + 16) 4 else beAt win (e.l3 + 24) 16
      dport := beAt win e.l4 2, sport := beAt win (e.l4 + 2) 2 }
  else d

/-- The 128-bit address in four registers, most significant word first (Table 14). -/
def ipWords (c : Tbl Word) (r : Nat → Nat) : Nat :=
  (cfgOf c (r 0)).toNat * 2 ^ 96 + (cfgOf c (r 1)).toNat * 2 ^ 64 + (cfgOf c (r 2)).toNat * 2 ^ 32 + (cfgOf c (r 3)).toNat

/-- Entry n of RPLY_DEST, n 1 to 63, where it is valid (R56). -/
def entryDest (c : Tbl Word) (n : Nat) : Option Dest :=
  let i := n - 1
  let w0 := cfgOf c (Reg.RPLY_DEST_w0 i)
  let w2 := cfgOf c (Reg.RPLY_DEST_w2 i)
  let w3 := cfgOf c (Reg.RPLY_DEST_w3 i)
  let car := fld w0 30 29
  let ip := fun (r : Nat → Nat → Nat) => if car = 0 then (cfgOf c (r i 0)).toNat else ipWords c (r i)
  if bitAt w0 31 then
    some ⟨car, fld w0 5 0, fld w2 15 0 * 2 ^ 32 + (cfgOf c (Reg.RPLY_DEST_w1 i)).toNat, ip Reg.RPLY_DEST_dst,
      ip Reg.RPLY_DEST_src, fld w2 31 16, fld w3 31 16,
      if bitAt w0 28 then some (0x8100, fld w0 15 13 * 8192 + fld w0 27 16) else none, some (fld w3 15 8), fld w3 7 0, fld w0 15 13⟩
  else none

/-- The destination a selector names (Table 2-9). -/
def resolveDest (c : Tbl Word) (win : List Byte) (lport sel : Nat) : DestRes :=
  if sel = 0 then .ok (senderDest win lport)
  else if sel = 0xFF then .silent
  else if sel < 0x40 then match entryDest c sel with | some d => .ok d | none => .bad
  else .bad

/-! ## Templates (R50, R51) -/

/-- The template a handler names for a carriage, where it is valid (Table 3-10). -/
def handlerTmpl (c : Tbl Word) (h car : Nat) : Option Nat :=
  let w := cfgOf c (Reg.PRS_HDL_w2 h)
  let pick := if car = 0 then (bitAt w 15, fld w 14 8) else if car = 1 then (bitAt w 23, fld w 22 16)
    else (bitAt w 31, fld w 30 24)
  if pick.1 && bitAt (cfgOf c (Reg.RPLY_TMPL_hdr pick.2)) 31 then some pick.2 else none

/-- IMAGE_LEN of a template. -/
def tmplLen (c : Tbl Word) (t : Nat) : Nat := fld (cfgOf c (Reg.RPLY_TMPL_hdr t)) 8 0

/-- The image of a template, IMAGE_LEN bytes. -/
def tmplImage (c : Tbl Word) (t : Nat) : List Byte :=
  slice ((List.range 64).flatMap (fun i => leBytes 4 (cfgOf c (Reg.RPLY_TMPL_image t i)).toNat)) 0 (tmplLen c t)

/-- The fill records up to the first with SOURCE 0x00: OFFSET, LEN, SOURCE, ARG. -/
def tmplFills (c : Tbl Word) (t : Nat) : List (Nat × Nat × Nat × Nat) :=
  ((List.range 31).map (fun i =>
    let w := cfgOf c (Reg.RPLY_TMPL_fill t i)
    (fld w 31 24, fld w 23 16, fld w 15 8, fld w 7 0))).takeWhile (fun r => r.2.2.1 != 0)

/-- What a frame built from a template takes beside the header: the request window, metadata and destination. -/
structure FillIn where
  win : List Byte
  metadata : List Byte
  dest : Dest
  srcMac : Nat
  hdr : Hdr
  total : Nat
  deriving DecidableEq, Repr

/-- The bytes a fill record writes, other than CSUM (Table 2-8). -/
def fillBytes (f : FillIn) (len src arg : Nat) : List Byte :=
  let ipw := if f.dest.carriage = 0 then 4 else 16
  if src = 1 then slice f.win (arg * 4) len
  else if src = 2 then beBytes 6 f.dest.mac
  else if src = 3 then beBytes 6 f.srcMac
  else if src = 4 then beBytes ipw f.dest.ip
  else if src = 5 then beBytes ipw f.dest.sip
  else if src = 6 then beBytes 2 f.dest.dport
  else if src = 7 then beBytes 2 f.dest.sport
  else if src = 8 then
    beBytes 2 (if arg = 0 then f.total - 14 else if arg = 1 then f.total - 54
      else if arg = 2 then f.total - (if f.dest.carriage = 0 then 34 else 54) else f.hdr.plen)
  else if src = 10 then beBytes 1 f.hdr.status
  else if src = 11 then beBytes 1 f.hdr.flags
  else if src = 12 then
    (if arg = 0 then beBytes 6 f.hdr.stamp.sec else if arg = 1 then beBytes 4 f.hdr.stamp.ns
     else beBytes 2 f.hdr.stamp.frac)
  else if src = 13 then slice f.metadata arg len
  else []

/-- Apply the fill records in order, CSUM apart. -/
def applyFills (f : FillIn) : List (Nat × Nat × Nat × Nat) → List Byte → List Byte
  | [], img => img
  | (off, len, src, arg) :: t, img => applyFills f t (overwrite img off (fillBytes f len src arg))

/-- HOP and TCLASS of an entry, written before the fill records (R56). -/
def writeHop (d : Dest) (img : List Byte) : List Byte :=
  match d.hop with
  | none => img
  | some h =>
    if d.carriage = 0 then overwrite (overwrite img 15 (beBytes 1 d.tclass)) 22 (beBytes 1 h)
    else if d.carriage = 1 then
      overwrite (overwrite img 14 (beBytes 2 (beAt img 14 2 / 4096 * 4096 + d.tclass * 16 + beAt img 14 2 % 16)))
        21 (beBytes 1 h)
    else img

/-- The IPv4 header checksum of a content whose checksum field is taken as zero. -/
def ip4Sum (content : List Byte) : Nat := checksum (overwrite (slice content 14 20) 10 [0, 0])

/-- The UDP checksum of a content by carriage, its field taken as zero; a computed zero is sent as ones. -/
def udpSum (car : Nat) (content : List Byte) : Nat :=
  let l4 := if car = 0 then 34 else 54
  let u := overwrite (content.drop l4) 6 [0, 0]
  let ps := if car = 0 then slice content 26 8 ++ [0, 17] ++ beBytes 2 u.length
    else slice content 22 32 ++ beBytes 4 u.length ++ [0, 0, 0, 17]
  let c := checksum (ps ++ u)
  if c = 0 then 65535 else c

/-- Apply the CSUM records, the IPv4 header's first (R51: computed last, over the final content). -/
def applySums (car : Nat) (fills : List (Nat × Nat × Nat × Nat)) (content : List Byte) : List Byte :=
  let sums := fills.filter (fun r => r.2.2.1 == 9)
  let a := (sums.filter (fun r => r.2.2.2 == 0)).foldl
    (fun c r => overwrite c r.1 (beBytes 2 (ip4Sum (overwrite c r.1 [0, 0])))) content
  (sums.filter (fun r => r.2.2.2 == 1)).foldl
    (fun c r => overwrite c r.1 (beBytes 2 (udpSum car (overwrite c r.1 [0, 0])))) a

/-- The content of a frame built from template t (R49): image filled, reply header over its last 48 bytes (R239),
result block, digest, checksums. -/
def buildContent (c : Tbl Word) (t : Nat) (f : FillIn) (res dig : List Byte) : List Byte :=
  let img := applyFills f (tmplFills c t) (writeHop f.dest (tmplImage c t))
  let n := tmplLen c t
  let body := overwrite img (n - 48) f.hdr.bytes ++ res ++ dig
  overwrite (applySums f.dest.carriage (tmplFills c t) body) (n - 48) f.hdr.bytes

/-- The bytes a frame has on the wire up to its FCS: the content with the VLAN tag after the source address (R49). -/
def wireBytes (d : Dest) (content : List Byte) : List Byte :=
  match d.tag with
  | none => content
  | some (p, v) => content.take 12 ++ beBytes 2 p ++ beBytes 2 v ++ content.drop 12

/-! ## Verdicts (R37) -/

/-- A verdict at the gate. -/
inductive Verdict where
  | pending
  | good
  | bad (cause : Nat)
  deriving DecidableEq, Repr

/-- Combine two verdicts: bad before pending before good. -/
def Verdict.and : Verdict → Verdict → Verdict
  | .bad c, _ => .bad c
  | _, .bad c => .bad c
  | .pending, _ => .pending
  | _, .pending => .pending
  | .good, .good => .good

/-- The FEC verdict of one codeword of a frame (Table 2-3, Table 2-4): a codeword consumed speculatively is bad from its
non-zero syndrome on; its correction result decides the cause, which is 0 until then. -/
def Cw.verdict (spec : Bool) (c : Cw) : Verdict :=
  match c.zero, c.fixed with
  | none, _ => .pending
  | some true, _ => .good
  | some false, some false => .bad 1
  | some false, some true => if spec then .bad 2 else .good
  | some false, none => if spec then .bad 0 else .pending

/-- A codeword's decoding is over: a zero syndrome, or its correction result. -/
def Cw.resolved (c : Cw) : Bool := c.zero == some true || c.fixed.isSome

/-- The bytes of a frame, from its first, that the bucker may read (R33): those handed over, and without speculative release none
of a codeword that has not been decoded and corrected. -/
def Frame.avail (f : Frame) : Nat :=
  if f.spec then f.handed else f.cws.foldl (fun n c => if c.resolved then n else min n c.first) f.handed

/-- A frame has been handed over whole. -/
def Frame.whole (f : Frame) : Bool := f.ended && f.avail == f.bytes.length

/-- The bucker has consumed a codeword speculatively (R36). -/
def Frame.consumed (f : Frame) (c : Cw) : Bool := f.spec && f.started && decide (c.first < f.handed)

/-- Some verdict of a frame has yet to arrive. -/
def Frame.undecided (f : Frame) : Bool := f.cws.any (fun c => !c.resolved) || (!f.trunc && (f.fcs.isNone || f.udp.isNone))

/-- The decided causes of a frame's bad verdicts (Table 2-4), one for each codeword and each other verdict. -/
def Frame.badCauses (f : Frame) : List Nat :=
  f.cws.flatMap (fun c => if c.fixed = some false then [1] else if c.fixed = some true ∧ f.consumed c ∧ c.zero = some false then [2] else []) ++
  (if f.fcs == some false then [3] else []) ++ (if f.udp == some false then [4] else []) ++ (if f.trunc then [5] else [])

/-- The verdict of a frame: truncation, FEC, FCS and UDP checksum. -/
def Frame.verdict (f : Frame) : Verdict :=
  let v0 : Verdict := if f.trunc then .bad 5 else .good
  let v1 := f.cws.foldl (fun v c => v.and (c.verdict (f.consumed c))) v0
  let v2 := v1.and (match f.fcs with | none => .pending | some true => .good | some false => .bad 3)
  v2.and (match f.udp with | none => .pending | some true => .good | some false => .bad 4)

/-- The verdict over every frame of a list; a frame no longer held had been decided good. -/
def State.framesVerdict (s : State) : List Nat → Verdict
  | [] => .good
  | n :: t =>
    match Tbl.find s.frames n with
    | some f => f.verdict.and (s.framesVerdict t)
    | none => s.framesVerdict t

/-- Every verdict that binds a reply (Table 2-3): its frames, its units, its twin. -/
def State.replyVerdict (s : State) (r : Reply) : Verdict :=
  let v := s.framesVerdict r.frames
  let v := v.and (if r.unitBad then .bad 6 else .good)
  v.and (match r.twin with | none => .pending | some true => .good | some false => .bad 7)

/-- Headers received trusted (R43): every codeword from the frame's first byte through the last byte of the request header
has no uncorrectable error, and a zero syndrome where it was consumed speculatively; one whose result is not in has shown
neither (log 109). -/
def Frame.trusted (f : Frame) (hdrEnd : Nat) : Bool :=
  f.cws.all (fun c =>
    decide (hdrEnd ≤ c.first) ||
    match c.zero, c.fixed with
    | some true, _ => true
    | _, some true => !f.consumed c
    | _, _ => false)

/-! ## Answers and replies -/

/-- The next free key of a growing table. -/
def freshKey {α : Type} (t : Tbl α) : Nat :=
  match t.getLast? with | none => 0 | some (k, _) => k + 1

/-- The least key a table does not use. -/
def leastFree {α : Type} (t : Tbl α) : Nat := (Tbl.freeFrom t (t.length + 1) 0).getD t.length

/-- The conversation's window base when a reply is built, 0 without one (Table 10-2). -/
def State.baseOf (s : State) (d : Desc) : Nat :=
  match d.conv with
  | none => 0
  | some c => (Tbl.getD s.convs c {}).base

/-- The destination of an answer (R52): the selector's, or SENDER when the selector fails. -/
def answerDest (org : Origin) : DestRes :=
  match resolveDest org.cfg org.win org.lport org.desc.sel with
  | .bad => .ok (senderDest org.win org.lport)
  | r => r

/-- The egress Ethernet port of a logical port: for a request's own port the port itself when it has link up, else the
lowest member with link up, else the lowest member (R53). -/
def State.egressOf (s : State) (lport own : Nat) : Nat :=
  let ms := lpMembers s.regs.cfg lport
  if ms.contains own && s.linkUp own then own
  else match ms.filter s.linkUp with
    | e :: _ => e
    | [] => ms.headD 0

/-- Put a reply among those on their way, under a fresh number. -/
def State.addReply (s : State) (r : Reply) : State :=
  { s with replies := Tbl.put s.replies (freshKey s.replies) r }

/-- A reply for an origin, decided now and not yet built. One to an item in flight under a supply hold sets SUPPLY_WARN, which its
maker gives it (R394). -/
def State.newReply (s : State) (org : Origin) (slot : Option Nat) (frames : List Nat) (kind status detail info : Nat)
    (dest : Dest) : Reply :=
  { org := org, slot := slot, frames := frames, kind := kind, status := status, detail := detail, info := info,
    dest := some dest, eport := s.egressOf dest.lport org.eport, base := s.baseOf org.desc,
    order := freshKey s.replies, egressAt := s.time.raw + s.cfg Reg.CONV_TMR1 31 16 * 1000000,
    unchecked := s.twin.state == 3 }

/-- Whether a destination's carriage has a template of the origin's handler. -/
def hasTmpl (org : Origin) (d : Dest) : Bool := (handlerTmpl org.cfg org.handler d.carriage).isSome

/-- Decide an answer with a status and no result block (R67, R75), with SUPPLY_WARN where it ends an item in flight (R394). With no template for its destination's carriage no
frame is sent and the head is counted in PRS_CNT_FAIL, unless it is `counted` there already; for REPLY_TO NONE no frame is
sent. -/
def State.answerW (s : State) (warn : Bool) (org : Origin) (frames : List Nat) (status detail info : Nat) (counted : Bool) :
    State :=
  let s := if status = stExactUnavailable then s.count Reg.RPLY_CNT_EXUNAV else s
  match answerDest org with
  | .ok d =>
    if hasTmpl org d then s.addReply { s.newReply org none frames 1 status detail info d with warn := warn }
    else if counted then s else s.count Reg.PRS_CNT_FAIL
  | _ => s

/-- Decide an answer to a request that is no item in flight. -/
def State.answer (s : State) (org : Origin) (frames : List Nat) (status detail info : Nat) (counted : Bool) : State :=
  s.answerW false org frames status detail info counted

/-- The retry-after of a BUSY cause (Table 10-8) that a register gives. -/
def State.busyInfo (s : State) (detail : Nat) : Nat :=
  if detail = 1 then s.cfg Reg.CONV_RA0 15 0
  else if detail = 4 then s.cfg Reg.CONV_RA0 31 16
  else if detail = 5 then s.cfg Reg.CONV_RA1 15 0
  else if detail = 6 then s.cfg Reg.CONV_RA1 31 16
  else 2 * s.cfg Reg.BOOM_TMR 7 0

/-- Answer BUSY with a cause and its retry-after (R254). -/
def State.answerBusyW (s : State) (warn : Bool) (org : Origin) (frames : List Nat) (detail info : Nat) : State :=
  (s.count Reg.CONV_CNT_BUSY).answerW warn org frames stBusy detail info false

/-- Answer BUSY to a request that is no item in flight. -/
def State.answerBusy (s : State) (org : Origin) (frames : List Nat) (detail info : Nat) : State :=
  s.answerBusyW false org frames detail info

end Sys2Proof.Machine
end

