-- ==== Sys2Proof/Machine/LinkTx.lean ====
section
/-! DEFINITION. Sending on a port: host frames go out as they are; neighbour frames take the link header of Table 11-3 and
are held for replay (R264 to R266, R270, R272). -/
namespace Sys2Proof.Machine

/-! ## The wire -/

/-- The port's last reply that has gone whole is no longer its frame in transmission; it is forgotten once its slot is free. -/
def State.freeTx (s : State) (e : Nat) : State :=
  match (s.ep e).tx with
  | none => s
  | some k =>
    match Tbl.find s.replies k with
    | some r =>
      if r.stage = RStage.sent then
        let s1 := s.setEp e { s.ep e with tx := none }
        if r.slot.isNone then { s1 with replies := Tbl.del s1.replies k } else s1
      else s
    | none => s.setEp e { s.ep e with tx := none }

/-- The port transmits for n more bytes of 25 GB/s a lane, preamble and gap among them (log 110). -/
def State.occupy (s : State) (e n : Nat) : State :=
  let p := s.ep e
  s.setEp e { p with busyTo := max p.busyTo s.time.raw + ceilDiv n (25 * max 1 (epLanes s.regs.cfg e)) }

/-- A frame leaves on a port: its bytes up to the FCS, with a correct or complemented FCS; `left` of its bytes, with FCS, preamble
and gap, are still to be transmitted. -/
def State.putFrame (s : State) (e : Nat) (bytes : List Byte) (good : Bool) (left : Nat) : State :=
  ((s.freeTx e).occupy e left).emit (.frame e bytes good)

/-- The bytes that a whole frame of n bytes up to its FCS takes on the wire. -/
def wireLen (n : Nat) : Nat := n + 24

/-- The bytes still to be transmitted when a held unit starts: the pad word, the FCS and the gap. -/
def tailLen : Nat := 20

/-! ## The link header -/

/-- A link header. -/
def linkHdr (p : EPort) (ty : Nat) (lseq : Nat) (bseq : Option Nat) : List Byte :=
  beBytes 1 ty ++ beBytes 1 (b2n bseq.isSome) ++ beBytes 2 (lseq % 65536) ++ beBytes 2 (p.expect % 65536) ++
  beBytes 4 (p.freed % 2 ^ 32) ++ beBytes 2 (bseq.getD 0 % 65536)

/-- A control frame of the link layer up to its FCS (R265). -/
def linkCtl (p : EPort) (ty lseq units : Nat) (bseq : Option Nat) : List Byte :=
  padTo (linkHdr p ty lseq bseq ++ beBytes 2 0x88B6 ++ beBytes 2 (units % 65536)) 60

/-- The credit units of a frame of n bytes up to its FCS, counted from the link header (R270). -/
def creditUnits (n : Nat) : Nat := ceilDiv (n + 4) 64

/-- The credit limit BUFU that a member advertises (R270): its share of the logical port's ingress buffer. -/
def bufUnits (c : Tbl Word) (e : Nat) : Nat :=
  let lanes := sumBy (epLanes c) (lpMembers c (epLport c e))
  let share := (8192 + skidSize lanes) * epLanes c e / max 1 lanes
  (share - 18432) / 64
where
  /-- The skid S of a port of w lanes (Table 2-6). -/
  skidSize (w : Nat) : Nat :=
    1024 * (if w = 1 then 48 else if w = 2 then 77 else if w = 4 then 136 else if w = 8 then 253 else
      ceilDiv (w * 30000 + 18432) 1024)

/-- Bytes of a member's replay buffer in use: each held frame with its link header and FCS. -/
def EPort.replayUsed (p : EPort) : Nat := sumBy (fun h => h.bytes.length + 16) p.held

/-- A retransmission of a member has yet to go on: it comes before any new frame (R268). -/
def EPort.resending (p : EPort) : Bool :=
  p.wait.any (fun w => match w with | .resend q => p.held.any (fun h => h.lseq == q) | _ => false)

/-- A member may start a new DATA frame of n bytes: RESUME received, no retransmission due, replay space and credits (R266, R268, R270,
R271). -/
def EPort.mayStart (p : EPort) (n : Nat) : Bool :=
  p.run && !p.resending && decide (p.replayUsed + n + 4 ≤ 65536) &&
  decide ((p.charged + creditUnits n + 2 ^ 32 - p.peerCred % 2 ^ 32) % 2 ^ 32 ≤ (match p.peer with | some x => x.bufu | none => 0))

/-- Free credit units of a member. -/
def EPort.freeUnits (p : EPort) : Nat :=
  (match p.peer with | some x => x.bufu | none => 0) - (p.charged + 2 ^ 32 - p.peerCred % 2 ^ 32) % 2 ^ 32

/-- A DATA frame starts on a member, with a BSEQ already given or the bundle's next (R266, R270, R272): it is numbered, held and charged
from its first byte. Its link header is the first component. -/
def State.linkOpen (s : State) (e : Nat) (rest : List Byte) (good : Bool) (bseq : Option Nat) : List Byte × State :=
  let p := s.ep e
  let l := epLport s.regs.cfg e
  let bundle := decide (1 < (lpMembers s.regs.cfg l).length)
  let b := if bundle then some (bseq.getD (s.lp l).bseq) else none
  let s1 := if bundle && bseq.isNone then s.setLp l { s.lp l with bseq := ((s.lp l).bseq + 1) % 65536 } else s
  let hdr := linkHdr p 2 p.lseq b
  let u := creditUnits (hdr ++ rest).length
  (hdr, s1.setEp e { p with lseq := (p.lseq + 1) % 65536, charged := (p.charged + u) % 2 ^ 32, sentAt := s.time.raw,
                            progressAt := if p.held = [] then s.time.raw else p.progressAt,
                            held := p.held ++ [⟨p.lseq, b, rest, u, !good⟩] })

/-- Start a DATA frame on a member and send it whole. -/
def State.linkStart (s : State) (e : Nat) (rest : List Byte) (good : Bool) (bseq : Option Nat) (left : Nat) : State :=
  let r := s.linkOpen e rest good bseq
  r.2.putFrame e (r.1 ++ rest) good left

/-- The last bytes of a DATA frame that the gate has held go out (R40, R41, R266): the replay buffer's entry takes the bytes sent, void
where the frame was stomped, and the charge is theirs. -/
def State.linkClose (s : State) (e : Nat) (rest : List Byte) (good : Bool) : State :=
  let p := s.ep e
  let bytes := p.openHdr ++ rest
  let q := beAt p.openHdr 2 2
  let u := creditUnits bytes.length
  let u0 := match p.held.find? (fun h => h.lseq == q) with | some h => h.units | none => u
  (s.setEp e { p with openHdr := [], charged := (p.charged + 2 ^ 32 + u - u0) % 2 ^ 32,
                      held := p.held.map (fun h => if h.lseq = q then { h with bytes := rest, units := u, isVoid := !good } else h)
             }).putFrame e bytes good tailLen

/-- The DATA frame in transmission is cut with its member's link (R46): what the replay buffer keeps of it is void, for the reply is
built again. -/
def State.linkCut (s : State) (e : Nat) : State :=
  let p := s.ep e
  if p.openHdr = [] then s
  else s.setEp e { p with openHdr := [], held := p.held.map (fun h => if h.lseq = beAt p.openHdr 2 2 then { h with isVoid := true } else h) }

/-- A port can start a frame of n bytes now. -/
def State.canStart (s : State) (e n : Nat) : Bool :=
  s.epServes e && (!epNbr s.regs.cfg e || (s.ep e).mayStart n)

/-- Send a frame with individual destination on a port: its bytes up to the FCS, with a correct or complemented FCS, `left` of its
bytes still to be transmitted. -/
def State.sendFrame (s : State) (e : Nat) (bytes : List Byte) (good : Bool) (left : Nat) : State :=
  if epNbr s.regs.cfg e then s.linkStart e (bytes.drop 12) good none left else s.putFrame e bytes good left

/-- A reply whose last bytes the gate holds starts on a port: on a neighbour port its link header goes out now. -/
def State.openFrame (s : State) (e : Nat) (bytes : List Byte) : State :=
  if epNbr s.regs.cfg e then
    let r := s.linkOpen e (bytes.drop 12) true none
    r.2.setEp e { r.2.ep e with openHdr := r.1 }
  else s

/-- A held reply's frame ends on a port: its bytes up to the FCS, with a correct or complemented FCS. -/
def State.endFrame (s : State) (e : Nat) (bytes : List Byte) (good : Bool) : State :=
  if epNbr s.regs.cfg e then s.linkClose e (bytes.drop 12) good else s.putFrame e bytes good tailLen

/-- The member that a new frame of a logical port goes on (R272): of the in-service members, those of a neighbour port once they
carry frames, the one with the most free credit units, the lowest port number on a tie. -/
def State.memberFor (s : State) (l : Nat) : Option Nat :=
  let ms := (lpMembers s.regs.cfg l).filter (fun e => s.epServes e && (!epNbr s.regs.cfg e || (s.ep e).run))
  if ms.any (epNbr s.regs.cfg) then leastBy (fun x => 2 ^ 40 - (s.ep x).freeUnits) ms else ms.head?

/-- Send a VOID frame for a held frame on a member, under a new LSEQ (R266, R275). -/
def State.linkVoid (s : State) (e : Nat) (h : LinkHeld) : State :=
  let p := s.ep e
  (s.setEp e { p with lseq := (p.lseq + 1) % 65536, charged := (p.charged + h.units) % 2 ^ 32, sentAt := s.time.raw,
                      progressAt := if p.held = [] then s.time.raw else p.progressAt,
                      held := p.held ++ [{ h with lseq := p.lseq }] }).putFrame e (linkCtl p 8 p.lseq h.units h.bseq) true (wireLen 60)

end Sys2Proof.Machine
end

