-- ==== Sys2Proof/Machine/Egress.lean ====
section
/-! DEFINITION. The egress port's choice (R32): what could enter transmission but for its port, and the order in which it does. -/
namespace Sys2Proof.Machine

/-! ## Replies that could start -/

/-- The reply's port is a host port that this package does not transmit while PAIRED (R364): it is the holder. -/
def State.holdsPort (s : State) (l : Nat) : Bool :=
  s.twin.state == 2 && !(lpMembers s.regs.cfg l).any (epNbr s.regs.cfg) &&
  !(if l < 32 then (s.cfgW Reg.TWIN_SEND_LO).toNat.testBit l else (s.cfgW Reg.TWIN_SEND_HI).toNat.testBit (l - 32))

/-- The device keeps off the host ports: LINKING or FENCED (R368, R370). -/
def State.twinSilent (s : State) : Bool := !s.twinServes

/-- A reply carries a digest: a result whose message was assigned a pair (R321). -/
def Reply.hasDig (r : Reply) : Bool := r.kind == 0 && (match r.dig with | .pair _ _ => true | _ => false)

/-- Payload bytes received of a message, up to MLEN (R236, R251). -/
def Msg.received (m : Msg) : Nat := min (sumBy (fun p => p.2.2) m.parts) (m.org.desc.mlen.getD 0)

/-- A message is complete (R251, R252): its payloads sum to MLEN, and with more than one frame each has been handed over. -/
def State.complete (s : State) (m : Msg) : Bool :=
  decide (m.org.desc.mlen.getD 0 ≤ m.received) &&
  (decide (m.frames.length ≤ 1) || m.frames.all (fun n => match Tbl.find s.frames n with
    | some f => f.whole
    | none => true))

/-- The egress Ethernet port of a reply now (R53, R272). -/
def State.txPort (s : State) (r : Reply) : Nat :=
  match r.dest with
  | some d => if (lpMembers s.regs.cfg d.lport).any (epNbr s.regs.cfg) then (s.memberFor d.lport).getD (s.egressOf d.lport r.org.eport)
    else s.egressOf d.lport r.org.eport
  | none => r.eport

/-- The priority a reply waits on (R53, R56). -/
def Reply.prio (r : Reply) : Nat := match r.dest with | some d => d.prio | none => 0

/-- The window bytes that REQ records copy have been handed over (R51). -/
def State.reqHanded (s : State) (r : Reply) : Bool :=
  match r.frames with
  | [] => true
  | n :: _ =>
    match Tbl.find s.frames n with
    | none => true
    | some f => r.kind == 3 || r.fills.all (fun x => x.2.2.1 != 1 || decide (min (x.2.2.2 * 4 + x.2.1) f.bytes.length ≤ f.avail))

/-- A reply could enter transmission but for its port: built, no bad verdict, its digest there (R320), its message complete
(R252), REQ bytes handed over, released (R322). -/
def State.replyReady (s : State) (r : Reply) : Bool :=
  r.stage == .ready && r.dest.isSome && (match s.replyVerdict r with | .bad _ => false | _ => true) &&
  (!r.hasDig || r.digest.isSome) && (r.fixed.isNone || r.released) &&
  (match r.slot.bind (Tbl.find s.msgs) with | some m => r.kind != 0 || s.complete m | none => true) && s.reqHanded r

/-- The members that a kept reply may be sent again on (R42, R46): in service, and not the one it was cut on. -/
def State.reissuePorts (s : State) (r : Reply) (d : Dest) (lost : Bool) : List Nat :=
  (lpMembers s.regs.cfg d.lport).filter (fun e => s.epServes e && !(lost && e == r.eport))

/-- The port of a reissue: the reply's own while it may carry it, else another member. -/
def State.reissuePort (s : State) (r : Reply) (d : Dest) (lost : Bool) : Option Nat :=
  let ms := s.reissuePorts r d lost
  if ms.contains r.eport then some r.eport else ms.head?

/-- The Ethernet port that a reply, notice or reissue of this package could start on now but for the port itself (the second class
of R32). -/
def State.wantsPort (s : State) (r : Reply) : Option Nat :=
  match r.dest with
  | none => none
  | some d =>
    if s.holdsPort d.lport && r.kind != 6 then none
    else
      match r.stage with
      | .ready => if s.replyReady r then some (s.txPort r) else none
      | .bad (_ + 1) => some (s.txPort r)
      | .kept lost => if !r.reissued && s.replyVerdict r == .good then s.reissuePort r d lost else none
      | _ => none

/-- Replies, notices and reissues that have become ready since the last look take the next place in the order of R32; one that no
longer is loses its own. -/
def State.markReady (s : State) : State :=
  s.replies.foldl (fun (s : State) x =>
    let w := (s.wantsPort x.2).isSome
    if w = x.2.due then s
    else
      let o := if w then s.replies.foldl (fun m y => max m (y.2.order + 1)) 0 else x.2.order
      { s with replies := Tbl.put s.replies x.1 { x.2 with due := w, order := o } }) s

/-! ## The port -/

/-- An Ethernet port can start a frame within this tick: none is in transmission, and none is held by the gate. -/
def State.wireFree (s : State) (e : Nat) : Bool :=
  decide ((s.ep e).busyTo < s.time.raw + 4) &&
  match (s.ep e).tx with
  | none => true
  | some k => match Tbl.find s.replies k with | some r => r.stage != .held | none => true

/-- A port can start a frame other than a MAC control frame: it is free, and no MAC control frame waits (R32). -/
def State.portFree (s : State) (e : Nat) : Bool := s.wireFree e && (s.ep e).ctl.isEmpty

/-- The bytes up to the FCS that a reply takes at most: with a verdict pending the extension and the pad word are counted
(log 111). -/
def State.startLen (s : State) (r : Reply) : Nat :=
  r.content.length + 4 + (if s.replyVerdict r == .pending then 2052 else 0)

/-- Raw counts that n bytes take on an Ethernet port (log 110). -/
def State.wireTime (s : State) (e n : Nat) : Nat := ceilDiv n (25 * max 1 (epLanes s.regs.cfg e))

/-- Raw counts that a reply's content takes on port e. -/
def State.replyTime (s : State) (e : Nat) (r : Reply) : Nat :=
  s.wireTime e (wireLen (match r.dest with | some d => (wireBytes d r.content).length | none => r.content.length))

/-- A release instant of port e that is still to come (R323): that of a fixed-latency reply which has not been released. -/
def State.pendingAt (s : State) (e : Nat) (r : Reply) : Option Nat :=
  match r.fixed with
  | some t => if !r.released && decide (16 * s.time.raw ≤ t) && (r.stage == .build || r.stage == .ready) && s.txPort r == e then some t
    else none
  | none => none

/-- A frame that takes `d` raw counts on port e from now would still be in transmission at a pending release instant (R323). -/
def State.blocksRelease (s : State) (e d : Nat) : Bool :=
  s.replies.any (fun x => match s.pendingAt e x.2 with | some t => decide (t < 16 * (s.time.raw + d)) | none => false)

/-- Another fixed-latency reply has the port at reply n's target t (R324): one with an earlier target whose frame would overlap, or with the
same and stamped first, then from the lower logical port; or one that was released on time and is still being sent then. -/
def State.rival (s : State) (n e t : Nat) (r : Reply) : Bool :=
  let key := fun (x : Reply) => timeOf x.org.stamp.sec x.org.stamp.ns + x.org.stamp.frac / 4096 * 2 ^ 28
  let first := fun (x : Reply) (u : Nat) => decide (u < t) ||
    (u == t && (decide (key x < key r) || (key x == key r && decide (x.org.lport < r.org.lport))))
  s.replies.any (fun x => x.1 != n &&
    (match s.pendingAt e x.2 with
     | some u => first x.2 u && s.replyReady { x.2 with released := true } && decide (t < u + 16 * s.replyTime e x.2)
     | none => false)) ||
  (match (s.ep e).tx.bind (Tbl.find s.replies) with
   | some x => (match x.fixed with
     | some u => !x.late && decide (u ≤ t ∧ t < u + 16 * s.replyTime e x)
     | none => false)
   | none => false)

/-- A port carries replies now: link and link layer, pause, and a twin that keeps off the host ports (R368). -/
def State.carries (s : State) (e : Nat) (r : Reply) : Bool :=
  s.canStart e (s.startLen r) && !(s.ep e).paused.contains r.prio &&
  (epNbr s.regs.cfg e || !s.twinSilent || (r.kind == 6 && s.twin.state == 1))

/-- The egress takes a frame of this reply on port e now (R32): the port carries it and is free, it ends before any pending release
instant (R323), and nothing of the second class that became ready earlier waits for the same port and priority. -/
def State.egressOpen (s : State) (n e : Nat) (r : Reply) : Bool :=
  s.carries e r && s.portFree e && !s.blocksRelease e (s.replyTime e r) &&
  !(s.replies.any (fun x => x.1 != n && x.2.prio == r.prio && decide (x.2.order < r.order) && s.wantsPort x.2 == some e))

/-- Something of the second class of R32 waits for port e and could start as soon as it is free. -/
def State.class2Waits (s : State) (e : Nat) : Bool := s.replies.any (fun x => s.wantsPort x.2 == some e && s.carries e x.2)

/-- A frame of the third class of n bytes on a priority, or on none, may start on port e now. -/
def State.free3 (s : State) (e : Nat) (prio : Option Nat) (n : Nat) : Bool :=
  s.linkUp e && s.portFree e && !s.class2Waits e && !s.blocksRelease e (s.wireTime e (wireLen n)) && !(prio.any (s.ep e).paused.contains)

/-- A PFC frame that waits goes out at a frame boundary, before all other frames (R32). -/
def State.flushPfc (s : State) (e : Nat) : State :=
  match (s.ep e).ctl with
  | [] => s
  | (ps, pause) :: t =>
    if s.wireFree e then
      let s1 := s.freeTx e
      ((s1.setEp e { s1.ep e with ctl := t }).occupy e (wireLen 60)).emit (.pfc e ps pause)
    else s

/-! ## Frames of the third class on neighbour ports -/

/-- Send a frame the device originates (class 3 of R32) on a neighbour-side logical port; without room, or behind others, it waits.
With no link up it is lost. -/
def State.portSend (s : State) (l : Nat) (bytes : List Byte) : State :=
  let p := s.lp l
  let wait := s.setLp l { p with wait := p.wait ++ [bytes] }
  match s.memberFor l with
  | some e => if p.wait = [] ∧ p.again = [] ∧ s.free3 e none bytes.length ∧ s.canStart e bytes.length then s.sendFrame e bytes true (wireLen bytes.length)
    else wait
  | none => if (lpMembers s.regs.cfg l).any (fun e => epNbr s.regs.cfg e && s.linkUp e) then wait else s

/-- Start frames that wait on a logical port, those of a lost member first (R275), at most `fuel`, while there is room. -/
def State.drainWait (s : State) (l : Nat) : Nat → State
  | 0 => s
  | fuel + 1 =>
    match (s.lp l).again, (s.lp l).wait, s.memberFor l with
    | h :: t, _, some e =>
      if s.portFree e ∧ !s.blocksRelease e (s.wireTime e (wireLen (h.bytes.length + 12))) ∧ s.canStart e (h.bytes.length + 12) then
        let s1 := s.setLp l { s.lp l with again := t }
        State.drainWait (if h.isVoid then s1.linkVoid e h else s1.linkStart e h.bytes true h.bseq (wireLen (h.bytes.length + 12))) l fuel
      else s
    | [], b :: t, some e =>
      if s.free3 e none b.length ∧ s.canStart e b.length then
        State.drainWait ((s.setLp l { s.lp l with wait := t }).sendFrame e b true (wireLen b.length)) l fuel
      else s
    | _, _, _ => s

end Sys2Proof.Machine
end

