-- ==== Sys2Proof/Machine/Keys.lean ====
section
/-! DEFINITION. Key conversion (R70, R71): fields to 16-bit order-preserving keys. -/
namespace Sys2Proof.Machine

/-- The width of a key format in bytes (Table 3-3). -/
def keyWidth (fmt : Nat) : Nat :=
  if fmt = 1 ∨ fmt = 2 then 1 else if fmt = 5 ∨ fmt = 6 ∨ fmt = 9 ∨ fmt = 12 then 4 else 2

/-- The FP32 bits of an FP16 value that is not NaN, widened exactly. -/
def fp16To32 (v : Nat) : Nat :=
  let sg := v / 2 ^ 15 % 2 * 2 ^ 31
  let e := v / 2 ^ 10 % 32
  let m := v % 2 ^ 10
  if e = 31 then sg + 0x7F800000 + m * 2 ^ 13
  else if e ≠ 0 then sg + (e + 112) * 2 ^ 23 + m * 2 ^ 13
  else if m = 0 then sg
  else
    let k := Nat.log2 m
    sg + (k + 103) * 2 ^ 23 + (m * 2 ^ (23 - k) - 2 ^ 23)

/-- Round FP32 bits that are not NaN to BF16, to nearest even; past the range becomes infinity. -/
def fp32ToBf16 (v : Nat) : Nat := (v + 0x7FFF + v / 2 ^ 16 % 2) / 2 ^ 16 % 2 ^ 16

/-- A NaN of FP32 bits. -/
def isNan32 (v : Nat) : Bool := v / 2 ^ 23 % 256 == 255 && v % 2 ^ 23 != 0
/-- A NaN of FP16 bits. -/
def isNan16 (v : Nat) : Bool := v / 2 ^ 10 % 32 == 31 && v % 2 ^ 10 != 0
/-- A NaN of BF16 bits. -/
def isNanBf (v : Nat) : Bool := v / 2 ^ 7 % 256 == 255 && v % 2 ^ 7 != 0

/-- The key of BF16 bits that are not NaN: minus zero becomes plus zero, negatives are complemented, positives get the top
bit (R71). -/
def keyOfBf16 (b : Nat) : Nat :=
  let b := if b = 0x8000 then 0 else b
  if 0x8000 ≤ b then 0xFFFF - b else b + 0x8000

/-- The key of a field value in a format, and whether it was a NaN (Table 3-3, R71). -/
def keyOf (fmt v : Nat) : Nat × Bool :=
  if fmt = 0 ∨ fmt = 3 ∨ fmt = 13 then (v % 65536, false)
  else if fmt = 1 then (v % 256, false)
  else if fmt = 2 then ((v % 256) ^^^ 0x80, false)
  else if fmt = 4 ∨ fmt = 14 then ((v % 65536) ^^^ 0x8000, false)
  else if fmt = 5 then (min (v % 2 ^ 32) 0xFFFF, false)
  else if fmt = 6 then (unsigned 16 (max (-32768) (min 32767 (signed 32 v))) ^^^ 0x8000, false)
  else if fmt = 7 ∨ fmt = 10 then if isNan16 v then (0xFFFF, true) else (keyOfBf16 (fp32ToBf16 (fp16To32 v)), false)
  else if fmt = 8 ∨ fmt = 11 then if isNanBf v then (0xFFFF, true) else (keyOfBf16 v, false)
  else if fmt = 9 ∨ fmt = 12 then if isNan32 v then (0xFFFF, true) else (keyOfBf16 (fp32ToBf16 v), false)
  else (0, false)

end Sys2Proof.Machine
end

