-- ==== Sys2Proof/Machine/Parser.lean ====
section
/-! DEFINITION. The bucker: frames before selection, handler selection, heads and parser instructions (03, R57 to R80). -/
namespace Sys2Proof.Machine

/-! ## The configuration and mode an item takes (R305 to R307, R310) -/

/-- R307: an item stamped `st` takes the new state of a felling at (sec, ns) bound to generation g. -/
def takesNew (st : Stamp) (sec ns g : Nat) : Bool :=
  let dg := (st.gen + 65536 - g % 65536) % 65536
  (decide (1 ≤ dg ∧ dg ≤ 32767)) || (dg == 0 && decide (sec * 1000000000 + ns ≤ st.sec * 1000000000 + st.ns))

/-- The configuration set of an item stamped `st`: the committed set, the set before an applied COMMIT felling it is too
old for, or the ready set of a pending one it is new for. -/
def State.cfgFor (s : State) (st : Stamp) : Tbl Word :=
  let a := s.time.felled.foldl
    (fun c f => if f.kind = 3 ∧ takesNew st f.sec f.ns f.gen = false then f.oldCfg else c) s.regs.cfg
  s.time.fell.foldl (fun c f => if f.2.kind = 3 ∧ f.2.ready ∧ takesNew st f.2.sec f.2.ns f.2.gen then f.2.set else c) a

/-- The mode of a message whose frame 0 is stamped `st`, started now (R310, R307). -/
def State.exactFor (s : State) (st : Stamp) : Bool :=
  let a := s.time.felled.foldl
    (fun c f => if (f.kind = 2 ∨ f.kind = 3) ∧ takesNew st f.sec f.ns f.gen = false then f.oldExact else c) s.exact
  s.time.fell.foldl
    (fun c f => if f.2.ready ∧ takesNew st f.2.sec f.2.ns f.2.gen then
      (if f.2.kind = 2 then f.2.arg == 1 else if f.2.kind = 3 then bitAt (cfgOf f.2.set Reg.GCTL_MODE) 31 else c) else c) a

/-! ## The ingress buffer (R47, R48) -/

/-- The skid S of a port of w lanes (Table 2-6). -/
def skidOf (w : Nat) : Nat :=
  1024 * (if w = 1 then 48 else if w = 2 then 77 else if w = 4 then 136 else if w = 8 then 253 else
    ceilDiv (w * 30000 + 18432) 1024)

/-- Bytes that wait in an Ethernet port's ingress buffer for their heads. -/
def State.bufUsed (s : State) (e : Nat) : Nat :=
  sumBy (fun f => if f.2.eport = e ∧ f.2.started = false then f.2.bytes.length else 0) s.frames

/-- Free space of an Ethernet port's ingress buffer: 8 KB of working region and the skid, less what waits. -/
def State.bufFree (s : State) (e : Nat) : Nat := 8192 + skidOf (epLanes s.regs.cfg e) - s.bufUsed e

/-- The priorities with PFC of which a host port holds a frame. -/
def State.heldPrios (s : State) (e : Nat) : List Nat :=
  pick 8 (fun p => (epPfc s.regs.cfg e).testBit p &&
    s.frames.any (fun f => f.2.eport == e && !f.2.started && (parseEth f.2.bytes).pcp == p))

/-- A PFC frame goes out: at once on a free port, else at the end of the frame in transmission (R32). -/
def State.putPfc (s : State) (e : Nat) (ps : List Nat) (pause : Bool) : State :=
  (s.setEp e { s.ep e with ctl := (s.ep e).ctl ++ [(ps, pause)] }).flushPfc e

/-- Assert PFC for every priority held, and for the priority `now` of a frame that has just come, once free space is at S or below
(R48). -/
def State.pfcAssert (s : State) (e now : Nat) : State :=
  let p := s.ep e
  let ps := pick 8 (fun x => ((s.heldPrios e).contains x || x == now && (epPfc s.regs.cfg e).testBit x) && !p.asserted.contains x)
  if s.bufFree e ≤ skidOf (epLanes s.regs.cfg e) ∧ ps ≠ [] then
    (s.setEp e { p with asserted := p.asserted ++ ps }).putPfc e ps true
  else s

/-- Release the paused priorities once free space is at S + 18,432 B or above (R48, taken literally; log 14). -/
def State.pfcRelease (s : State) (e : Nat) : State :=
  let p := s.ep e
  if p.asserted ≠ [] ∧ skidOf (epLanes s.regs.cfg e) + 18432 ≤ s.bufFree e then
    (s.setEp e { p with asserted := [] }).putPfc e p.asserted false
  else s

/-! ## Reception and selection (R62, R63) -/

/-- The first valid entry of PRS_SEL that the key matches, from n upward, `fuel` entries: its handler. -/
def selectFrom (c : Tbl Word) (key : Nat) : Nat → Nat → Option Nat
  | 0, _ => none
  | fuel + 1, n =>
    let w4 := cfgOf c (Reg.PRS_SEL_w4 n)
    let k := (cfgOf c (Reg.PRS_SEL_w1 n)).toNat * 2 ^ 32 + (cfgOf c (Reg.PRS_SEL_w0 n)).toNat
    let m := (cfgOf c (Reg.PRS_SEL_w3 n)).toNat * 2 ^ 32 + (cfgOf c (Reg.PRS_SEL_w2 n)).toNat
    if bitAt w4 31 ∧ key &&& m = k &&& m then some (fld w4 5 0) else selectFrom c key fuel (n + 1)

/-- R63: the handler of a frame, none where selection is off or nothing matches. -/
def selectHandler (c : Tbl Word) (key : Nat) : Option Nat :=
  if fld (cfgOf c Reg.PRS_CTL) 31 31 = 1 then selectFrom c key 64 0 else none

/-- Frames the device takes before selection (R62): MAC control, LLDP, PTP on Ethernet or UDP. -/
def takenBefore (b : List Byte) : Bool :=
  let e := parseEth b
  e.etype == 0x8808 || e.etype == 0x88CC || e.etype == 0x88F7 ||
  (e.udp && (beAt b (e.l4 + 2) 2 == 319 || beAt b (e.l4 + 2) 2 == 320))

/-- The decision on speculative release for a frame that starts now on Ethernet port e (R34, R35). -/
def State.specNow (s : State) (e : Nat) : Bool :=
  (s.cfg Reg.RPLY_SPECCTL 11 0).testBit (e / 4) && !quadNbr s.regs.cfg (e / 4) && !(s.quad (e / 4)).supp

/-- TIME_PTP[p].ADJ INGRESS, in sixteenths of a ns (R294). -/
def State.ingressAdj (s : State) (e : Nat) : Int := signed 16 (s.rw (Reg.TIME_PTP_w1 e) 15 0)

/-- The ingress timestamp of a frame that arrives now, or came at an earlier raw count (R293, R294). -/
def State.ingressStamp (s : State) (e sub : Nat) (raw : Nat := s.time.raw) : Stamp := s.stampAt raw sub (s.ingressAdj e)

/-- The bytes that the selection key of a frame is built from. -/
def selNeed (b : List Byte) : Nat :=
  let e := parseEth b
  min b.length (if e.udp then e.l4 + 4 else if e.ip = 1 then e.l3 + 10 else if e.ip = 2 then e.l3 + 7 else e.l3)

/-- The bytes of a frame's selection key are with the bucker. -/
def Frame.keyed (f : Frame) : Bool := decide (selNeed f.bytes ≤ f.avail)

/-- The gap timer of a message: it runs from the last byte of its frames, and not while one of them is being handed over (R253). -/
def State.regap (s : State) (k : Nat) : State :=
  { s with msgs := Tbl.modify s.msgs k (fun m =>
      let fs := m.frames.filterMap (Tbl.find s.frames)
      { m with gapAt := if fs.all Frame.whole then fs.foldl (fun t f => max t f.gapAt) none else none }) }

/-- A frame of n bytes with its FCS leaves the ingress buffer of a neighbour-side port: its units are freed (R270). -/
def State.creditBack (s : State) (e n : Nat) : State :=
  if epNbr s.regs.cfg e then s.setEp e { s.ep e with freed := ((s.ep e).freed + ceilDiv n 64) % 2 ^ 32 } else s

/-- A frame that no valid entry matches is discarded and counted (R63). -/
def State.noMatch (s : State) (n : Nat) (f : Frame) : State :=
  (({ s with frames := Tbl.del s.frames n }.count Reg.PRS_CNT_NOMATCH).creditBack f.eport f.bytes.length).pfcRelease f.eport

/-- A frame as its reception goes on: the instant at which it is whole starts its part of the gap timer (R253), and heads that are
parked on a byte it now has resume (R66). One whose selection key comes with these bytes is selected now, and discarded where no entry
matches (R63). -/
def State.setFrame (s : State) (n : Nat) (f : Frame) : State :=
  let f1 := if f.whole ∧ f.gapAt = none then { f with gapAt := some (s.time.raw + s.cfg Reg.CONV_TMR1 15 0 * 1000) } else f
  let s1 := { s with
    frames := Tbl.put s.frames n f1
    heads := Tbl.mapVals s.heads (fun _ hd =>
      if hd.frame = n ∧ (decide (hd.park.getD 0 < f1.avail) || f1.whole) then { hd with park := none } else hd) }
  if !f.started ∧ f1.keyed ∧ !(Tbl.find s.frames n).all Frame.keyed ∧
      selectHandler (s.cfgFor f.stamp) (selKey f.bytes f.lport) = none then s1.noMatch n f1
  else match f1.slot with | some k => s1.regap k | none => s1

/-- Classify an arriving frame and hold it (R63). A frame longer than 9,216 bytes is truncated there (R260). One whose key no entry
matches is discarded, once the bytes of its key are with the bucker (R33); a head that starts later is selected again (R78). -/
def State.classify (s : State) (e : Nat) (bytes : List Byte) (handed : Nat) (ended : Bool) (cws : List Cw)
    (sub : Nat) (spec : Bool) (fcs udp : Option Bool) (trunc : Bool) (raw : Nat := s.time.raw) : State :=
  let lp := epLport s.regs.cfg e
  let st := s.ingressStamp e sub raw
  let c := s.cfgFor st
  let long := decide (9216 < bytes.length)
  let f : Frame := { eport := e, lport := lp, bytes := bytes.take 9216, handed := min handed (min 9216 bytes.length),
                     ended := ended || trunc || long, trunc := trunc || long, stamp := st, raw := raw,
                     sub := sub, spec := spec, cws := cws, fcs := fcs, udp := udp, handler := 0 }
  let h := selectHandler c (selKey f.bytes lp)
  if h = none ∧ (fld (cfgOf c Reg.PRS_CTL) 31 31 = 0 ∨ f.keyed = true) then s.count Reg.PRS_CNT_NOMATCH
  else (if f.trunc then s.count Reg.RPLY_CNT_TRUNC else s).setFrame (freshKey s.frames) { f with handler := h.getD 0 }

/-- The UDP verdict a new frame starts with: good where nothing is to be checked (R37, R235). -/
def udpStart (b : List Byte) : Option Bool := if udpHasSum b then none else some true

/-- With AUTOWAKE set, the first arrival in Idle wakes the device (R392). -/
def State.autowake (s : State) : State :=
  if s.power.state = 1 ∧ s.power.target = none ∧ s.rw Reg.PWR_CTL 29 29 = 1 then
    { s with power.target := some 0, power.holdTrans := true }
  else s

/-- A frame that arrives on a host-side port (R48, R62, R63, R280, R368). -/
def State.receiveHost (s : State) (f : FrameIn) : State :=
  let e := f.eport
  let p := (parseEth f.bytes).pcp
  let dis := Reg.PORT_CNT_DISCARD (e / 4)
  if (parseEth f.bytes).etype = 0x8808 then
    if beAt f.bytes ((parseEth f.bytes).l3) 2 = 0x0101 then s else s.count dis
  else if takenBefore f.bytes then s
  else if (s.ep e).state = 4 then s.count dis
  else if !s.twinServes then s.count dis
  else
    let s := s.autowake
    let room := s.bufFree e
    let cws : List Cw := f.cws.map (fun c => { first := c.1, last := c.2 })
    if room < f.bytes.length then
      let s := s.count Reg.RPLY_CNT_SKIDOVR
      if (epPfc s.regs.cfg e).testBit p then
        (s.classify e (f.bytes.take room) f.handed true (cws.filter (fun c => decide (c.first < room))) f.sub (s.specNow e)
          none (udpStart f.bytes) true).pfcAssert e p
      else s
    else
      (s.classify e f.bytes f.handed f.ended cws f.sub (s.specNow e) none (udpStart f.bytes) false).pfcAssert e p

/-- FRAME_RECEIVE (R63): a frame arrives on an Ethernet port with link up. On a neighbour-side port a frame with a link
header of no listed TYPE is discarded and counted (Table 11-3), MAC control frames are too (R261), and in quarantine all others
that R280 does not let in; the link layer's own frames, LLDP and PTP are other commands. -/
def State.frameReceive (s : State) (f : FrameIn) : State :=
  let e := f.eport
  if epLanes s.regs.cfg e = 0 ∨ !s.linkUp e then s
  else if quadNbr s.regs.cfg (e / 4) then
    let ty := byteAt f.bytes 0
    if (parseEth f.bytes).etype = 0x8808 ∨ (ty % 2 = 0 ∧ !([2, 4, 6, 8, 10].contains ty)) ∨
        ((s.ep e).state = 4 ∧ takenBefore f.bytes = false) then
      s.count (Reg.PORT_CNT_DISCARD (e / 4))
    else s
  else s.receiveHost f

/-- FRAME_RECEIVE (R63). -/
def execFrameReceive (f : FrameIn) (s : State) : Host.Outcome State Fault Refusal := .next (s.frameReceive f)

/-! ## Heads (R58, R64, R66) -/

/-- The order in which frames' heads start (R59): the ns in which the first byte came to the cuff plane, then the logical port. -/
def Frame.place (f : Frame) : Nat := (f.raw + f.sub / 16) * 64 + f.lport

/-- Heads that have started in this tick. -/
def State.startsNow (s : State) : Nat := if s.starts.1 = s.time.raw then s.starts.2 else 0

/-- A head for frame n may start now (R58, R59): a context is free, fewer than 12 have started in this tick, its key is with the
bucker, and no frame that came earlier is ready to start. -/
def State.mayStart (s : State) (n : Nat) (f : Frame) : Bool :=
  decide (s.heads.length < 768 ∧ s.startsNow < 12) && f.keyed &&
  !(s.frames.any (fun x => x.1 != n && !x.2.started && x.2.keyed && decide (x.2.place < f.place)))

/-- A head starts on a free context for a frame (R58, R64, R78), on the handler that the selection in force now chooses; a frame
that no entry matches any longer is discarded. -/
def State.runHead (s : State) (n : Nat) (f : Frame) : State :=
  let c := s.cfgFor f.stamp
  match selectHandler c (selKey f.bytes f.lport) with
  | none => s.noMatch n f
  | some h =>
    let hd : Head :=
      { frame := n, cfg := c, exact := s.exactFor f.stamp, handler := h, pc := fld (cfgOf c (Reg.PRS_HDL_w0 h)) 27 16,
        h := [(13, f.lport), (14, h14Of f.bytes), (15, h15Of f.bytes)], hdrEnd := 0, vers := s.servingMap }
    let s1 := { s with heads := Tbl.put s.heads (leastFree s.heads) hd, starts := (s.time.raw, s.startsNow + 1),
                       frames := Tbl.put s.frames n { f with started := true, handler := h } }
    let s2 := (s1.count Reg.PRS_CNT_HEADS).peak Reg.PRS_STAT 25 16 s1.heads.length
    (s2.creditBack f.eport f.bytes.length).pfcRelease f.eport

/-- HEAD_START (R58, R59): the head of a held frame starts, once it is that frame's turn. -/
def State.headStart (s : State) (n : Nat) : State :=
  match Tbl.find s.frames n with
  | none => s
  | some f => if !f.started && s.mayStart n f then s.runHead n f else s

/-- HEAD_START (R58). -/
def execHeadStart (frame : Nat) (s : State) : Host.Outcome State Fault Refusal := .next (s.headStart frame)

/-- HEAD_RESUME (R66): more bytes of a frame are handed to the bucker, and heads parked on them resume. -/
def State.headResume (s : State) (n handed : Nat) (ended : Bool) : State :=
  match Tbl.find s.frames n with
  | none => s
  | some f =>
    (s.setFrame n { f with handed := max f.handed (min handed f.bytes.length), ended := f.ended || ended }).markReady

/-- h register n (R64): h0 reads as zero. -/
def Head.reg (hd : Head) (n : Nat) : Nat := if n = 0 then 0 else Tbl.getD hd.h n 0

/-- Write h register n: writes to h0 are ignored. -/
def Head.setReg (hd : Head) (n v : Nat) : Head :=
  if n = 0 then hd else { hd with h := Tbl.put hd.h n (v % 2 ^ 32) }

/-- Go on with the next instruction. -/
def Head.adv (hd : Head) : Head := { hd with pc := hd.pc + 1 }

/-- The origin a head leaves to its answers. -/
def Head.origin (hd : Head) (f : Frame) : Origin :=
  { eport := f.eport, lport := f.lport, win := f.bytes.take 1024, flen := f.bytes.length, stamp := f.stamp,
    raw := f.raw, sub := f.sub, desc := hd.desc, metadata := hd.metadata, handler := hd.handler, cfg := hd.cfg,
    exact := hd.exact, hdrEnd := if hd.hdrEnd = 0 then hd.desc.doff.getD 0 else hd.hdrEnd }

/-- What reading window bytes meets (R66). -/
inductive WinRead where
  | ok (v : List Byte)
  | park (n : Nat)
  /-- an offset of 1,024 or higher -/
  | far
  /-- beyond the end of the frame -/
  | short
  deriving DecidableEq, Repr

/-- Read n window bytes. A read that crosses offset 1,024 fails so at once, whatever else it meets (log 114). -/
def readWin (f : Frame) (off n : Nat) : WinRead :=
  if 1024 < off + n then .far
  else if off + n ≤ f.avail then .ok (slice f.bytes off n)
  else if f.whole then .short
  else .park (off + n - 1)

/-- End a head. -/
def State.endHead (s : State) (n : Nat) : State := { s with heads := Tbl.del s.heads n }

/-- What a parser instruction does with its head. -/
inductive PrsRes where
  | go (hd : Head)
  | fail (status cnt : Nat)
  | park (byte : Nat)
  deriving DecidableEq, Repr

/-- The instruction a head is at. -/
def Head.instr (hd : Head) : Nat := (cfgOf hd.cfg (Reg.PRS_IMEM hd.pc)).toNat

/-- The instruction's OPC (R68). -/
def opcOf (i : Nat) : Nat := bitsOf i 31 26
/-- The instruction's D (R68). -/
def dOf (i : Nat) : Nat := bitsOf i 25 22
/-- The instruction's A (R68). -/
def aOf (i : Nat) : Nat := bitsOf i 21 18

/-- A read that fails or parks, as an instruction's outcome (R66). -/
def WinRead.bind (r : WinRead) (k : List Byte → PrsRes) : PrsRes :=
  match r with
  | .ok v => k v
  | .park b => .park b
  | .far => .fail stMalformed Reg.PRS_CNT_PROG
  | .short => .fail stMalformed Reg.PRS_CNT_SHORT

/-- The width a W field names: 1, 2 or 4 bytes. -/
def widthOf (w : Nat) : Nat := if w = 0 then 1 else if w = 1 then 2 else 4

/-- The second operand of ADD to OR (Table 3-2). -/
def Head.src2 (hd : Head) (i : Nat) : Nat := if bitsOf i 17 17 = 1 then bitsOf i 15 0 else hd.reg (bitsOf i 15 12)

/-- NOP. -/
def prsNop (hd : Head) (_ : Frame) (_ : Nat) : PrsRes := .go hd.adv
/-- LD: W bytes at hB + OFF, big-endian, zero-extended. The sum does not wrap at 2^32 (log 118). -/
def prsLd (hd : Head) (f : Frame) (i : Nat) : PrsRes :=
  (readWin f (hd.reg (bitsOf i 15 12) + bitsOf i 11 0) (widthOf (bitsOf i 17 16))).bind
    (fun v => .go (hd.setReg (dOf i) (beVal v)).adv)
/-- LI. -/
def prsLi (hd : Head) (_ : Frame) (i : Nat) : PrsRes := .go (hd.setReg (dOf i) (bitsOf i 17 0)).adv
/-- ADD, modulo 2^32. -/
def prsAdd (hd : Head) (_ : Frame) (i : Nat) : PrsRes := .go (hd.setReg (dOf i) (hd.reg (aOf i) + hd.src2 i)).adv
/-- SUB, modulo 2^32. -/
def prsSub (hd : Head) (_ : Frame) (i : Nat) : PrsRes :=
  .go (hd.setReg (dOf i) (hd.reg (aOf i) + 2 ^ 32 - hd.src2 i)).adv
/-- AND. -/
def prsAnd (hd : Head) (_ : Frame) (i : Nat) : PrsRes := .go (hd.setReg (dOf i) (hd.reg (aOf i) &&& hd.src2 i)).adv
/-- OR. -/
def prsOr (hd : Head) (_ : Frame) (i : Nat) : PrsRes := .go (hd.setReg (dOf i) (hd.reg (aOf i) ||| hd.src2 i)).adv
/-- SHR, zero fill. -/
def prsShr (hd : Head) (_ : Frame) (i : Nat) : PrsRes := .go (hd.setReg (dOf i) (hd.reg (aOf i) / 2 ^ bitsOf i 4 0)).adv
/-- SHL. -/
def prsShl (hd : Head) (_ : Frame) (i : Nat) : PrsRes := .go (hd.setReg (dOf i) (hd.reg (aOf i) * 2 ^ bitsOf i 4 0)).adv
/-- BFX: bits POS + LEN − 1 : POS. -/
def prsBfx (hd : Head) (_ : Frame) (i : Nat) : PrsRes :=
  .go (hd.setReg (dOf i) (hd.reg (aOf i) / 2 ^ bitsOf i 9 5 % 2 ^ (bitsOf i 4 0 + 1))).adv
/-- J. -/
def prsJ (hd : Head) (_ : Frame) (i : Nat) : PrsRes := .go { hd with pc := hd.pc + bitsOf i 5 0 }
/-- A COND of JC over unsigned values (R69). -/
def prsCond (c a b : Nat) : Bool :=
  if c = 0 then a == b else if c = 1 then a != b else if c = 2 then decide (a < b) else decide (b ≤ a)
/-- JC. -/
def prsJc (hd : Head) (_ : Frame) (i : Nat) : PrsRes :=
  let b := if bitsOf i 17 17 = 1 then bitsOf i 14 6 else hd.reg (bitsOf i 14 11)
  if prsCond (bitsOf i 16 15) (hd.reg (aOf i)) b then .go { hd with pc := hd.pc + bitsOf i 5 0 } else .go hd.adv

/-- The bytes of one field as its format reads them (R70): big-endian, or least significant byte first. -/
def keyVal (fmt : Nat) (b : List Byte) : Nat := if 10 ≤ fmt then leVal b else beVal b

/-- Write the keys of packed fields into slots from `slot` upward; true when a key met a NaN. -/
def putKeys (fmt : Nat) (b : List Byte) : Nat → Nat → Tbl Nat → Bool → Tbl Nat × Bool
  | 0, _, t, nan => (t, nan)
  | n + 1, slot, t, nan =>
    let w := keyWidth fmt
    let k := keyOf fmt (keyVal fmt (b.take w))
    putKeys fmt (b.drop w) n (slot + 1) (Tbl.put t slot k.1) (nan || k.2)

/-- Write n keys from packed field bytes; a slot of 1,024 or higher fails the head (R69). A later frame's key writes are
discarded when it joins (R77). -/
def Head.keys (hd : Head) (fmt n slot : Nat) (b : List Byte) : Option Head :=
  if 1024 < slot + n then none
  else
    let r := putKeys fmt b n slot hd.sample hd.nan
    some { hd with sample := r.1, nan := r.2 }

/-- KEYN (R70): n packed fields into slots hA upward, then hA advances by n. The window is read before the slots are checked
(log 115). -/
def prsKeyn (hd : Head) (f : Frame) (i : Nat) : PrsRes :=
  let n := dOf i + 1
  let fmt := bitsOf i 17 14
  (readWin f (hd.reg (bitsOf i 13 10) + bitsOf i 9 0) (n * keyWidth fmt)).bind (fun b =>
    match hd.keys fmt n (hd.reg (aOf i)) b with
    | some h => .go (h.setReg (aOf i) (hd.reg (aOf i) + n)).adv
    | none => .fail stMalformed Reg.PRS_CNT_PROG)

/-- KEYR (R70): the low bytes of hB into slot hA, then hA advances by 1. -/
def prsKeyr (hd : Head) (_ : Frame) (i : Nat) : PrsRes :=
  let fmt := bitsOf i 17 14
  let w := keyWidth fmt
  let v := hd.reg (bitsOf i 13 10) % 2 ^ (8 * w)
  match hd.keys fmt 1 (hd.reg (aOf i)) (if 10 ≤ fmt then leBytes w v else beBytes w v) with
  | some h => .go (h.setReg (aOf i) (hd.reg (aOf i) + 1)).adv
  | none => .fail stMalformed Reg.PRS_CNT_PROG

/-- META: the low W bytes of hA, most significant first, to metadata bytes OFF onward. -/
def prsMeta (hd : Head) (_ : Frame) (i : Nat) : PrsRes :=
  let w := widthOf (bitsOf i 17 16)
  .go { hd.adv with metadata := overwrite hd.metadata (bitsOf i 3 0) (beBytes w (hd.reg (aOf i))) }

/-- SETF: a descriptor field takes the low bits of hA. -/
def prsSetf (hd : Head) (_ : Frame) (i : Nat) : PrsRes :=
  .go { hd.adv with desc := hd.desc.setField (bitsOf i 4 0) (hd.reg (aOf i)) }

/-- CHDR (R74): reads and checks the request header and fills the descriptor, h12 and h11. -/
def prsChdr (hd : Head) (f : Frame) (i : Nat) : PrsRes :=
  let off := hd.reg (bitsOf i 15 12) + bitsOf i 11 0
  (readWin f off 32).bind (fun h =>
    if cheteOk h then
      let d := cheteDesc h off
      .go { ((hd.setReg 12 (d.doff.getD 0)).setReg 11 (d.dlen.getD 0)).adv with desc := d, hdrEnd := off + 32 }
    else .fail stMalformed Reg.PRS_CNT_FAIL)

/-- FAIL (R67): the head ends with the status it names. -/
def prsFail (_ : Head) (_ : Frame) (i : Nat) : PrsRes := .fail (bitsOf i 7 0) Reg.PRS_CNT_FAIL

end Sys2Proof.Machine
end

