-- ==== Sys2Proof/Machine/Num.lean ====
section
/-! DEFINITION. Number formats of Table 7-7 and their arithmetic (R94, R175 to R186): a floating-point value is taken
apart into sign, integer significand and exponent, computed with exactly, and rounded once. -/
namespace Sys2Proof.Machine

/-- A floating-point value: NaN, an infinity, or ± m × 2^e. -/
inductive Fl where
  | nan
  | inf (neg : Bool)
  | fin (neg : Bool) (m : Nat) (e : Int)
  deriving DecidableEq, Repr

/-- A format code is floating point (Table 7-7). -/
def isFp (f : Nat) : Bool := decide (4 ≤ f ∧ f ≤ 8)

/-- The width of a format's element (Table 7-7). -/
def fmtWidth (f : Nat) : Nat :=
  if f = 0 then 4 else if f = 1 ∨ f = 4 ∨ f = 5 then 8 else if f = 2 ∨ f = 6 ∨ f = 7 then 16 else 32

/-- Exponent width and fraction width of a floating-point format. -/
def fpShape (f : Nat) : Nat × Nat :=
  if f = 4 then (4, 3) else if f = 5 then (5, 2) else if f = 6 then (5, 10) else if f = 7 then (8, 7) else (8, 23)

/-- The canonical NaN (Table 7-7). -/
def canonNan (f : Nat) : Nat :=
  if f = 4 then 0x7F else if f = 5 then 0x7E else if f = 6 then 0x7E00 else if f = 7 then 0x7FC0 else 0x7FC00000

/-- Bits to value. E4M3 has no infinities and one NaN encoding a sign. -/
def flOf (f v : Nat) : Fl :=
  let (eb, mb) := fpShape f
  let neg := decide (v / 2 ^ (eb + mb) % 2 = 1)
  let ex := v / 2 ^ mb % 2 ^ eb
  let m := v % 2 ^ mb
  let bias : Int := 2 ^ (eb - 1) - 1
  if f = 4 ∧ ex = 15 ∧ m = 7 then .nan
  else if f ≠ 4 ∧ ex = 2 ^ eb - 1 then (if m = 0 then .inf neg else .nan)
  else if ex = 0 then .fin neg m (1 - bias - mb)
  else .fin neg (m + 2 ^ mb) (ex - bias - mb)

/-- m × 2^(e − t) as an integer, rounded to nearest even or toward zero. -/
def roundAt (m : Nat) (e t : Int) (rz : Bool) : Nat :=
  if t ≤ e then m * 2 ^ (e - t).toNat
  else
    let k := (t - e).toNat
    let q := m / 2 ^ k
    let r := m % 2 ^ k
    if rz then q else if 2 * r > 2 ^ k ∨ (2 * r = 2 ^ k ∧ q % 2 = 1) then q + 1 else q

/-- The largest finite magnitude of a format, as bits without sign. -/
def maxFinite (f : Nat) : Nat :=
  if f = 4 then 0x7E else if f = 5 then 0x7B else if f = 6 then 0x7BFF else if f = 7 then 0x7F7F else 0x7F7FFFFF

/-- Value to bits (R176, R177), with the SAT choice of Table 7-8 for FP8; true when SAT is set. Rounding acts as though the
exponent range were unbounded above; what then lies beyond the largest finite value overflows. -/
def flBits (f : Nat) (x : Fl) (rz sat : Bool) : Nat × Bool :=
  let (eb, mb) := fpShape f
  let sgn := fun (n : Bool) => b2n n * 2 ^ (eb + mb)
  let spill := fun (n : Bool) =>
    if f = 4 ∨ f = 5 then
      if sat then (sgn n + maxFinite f, true) else if f = 4 then (0x7F, false) else (sgn n + 0x7C, false)
    else (sgn n + (2 ^ eb - 1) * 2 ^ mb, false)
  match x with
  | .nan => (canonNan f, false)
  | .inf n => spill n
  | .fin n m e =>
    let bias : Int := 2 ^ (eb - 1) - 1
    if m = 0 then (sgn n, false)
    else
      let top : Int := Nat.log2 m + e
      let t := max (top - mb) (1 - bias - mb)
      let q := roundAt m e t rz
      -- q holds the significand at exponent t: a carry past the top moves the exponent by one
      let ex := (t + mb + bias).toNat
      let mag := if q < 2 ^ mb then q else (ex - 1) * 2 ^ mb + q
      if maxFinite f < mag then spill n else (sgn n + mag, false)

/-- Exact sum of finite values at one exponent: signed significand and exponent. -/
def alignSum : List (Int × Int) → Int × Int
  | [] => (0, 0)
  | (m, e) :: t =>
    let (m2, e2) := alignSum t
    if m2 = 0 then (m, e) else if m = 0 then (m2, e2)
    else if e ≤ e2 then (m + m2 * 2 ^ (e2 - e).toNat, e) else (m * 2 ^ (e - e2).toNat + m2, e2)

/-- The signed significand of a value. -/
def Fl.sig : Fl → Int × Int
  | .fin n m e => (if n then -(m : Int) else m, e)
  | _ => (0, 0)

/-- A value is minus zero. -/
def Fl.isNegZero : Fl → Bool
  | .fin n m _ => n && m == 0
  | _ => false

/-- The exact sum of values: NaN for a NaN or opposite infinities; an exact zero is minus zero only when every term is. -/
def flSum (l : List Fl) : Fl :=
  if l.any (· == .nan) then .nan
  else
    match l.any (· == .inf false), l.any (· == .inf true) with
    | true, true => .nan
    | true, false => .inf false
    | false, true => .inf true
    | false, false =>
      let (m, e) := alignSum (l.map Fl.sig)
      if m = 0 then .fin (!l.isEmpty && l.all Fl.isNegZero) 0 0 else .fin (decide (m < 0)) m.natAbs e

/-- The exact product of values. -/
def flMul (a b : Fl) : Fl :=
  match a, b with
  | .nan, _ => .nan
  | _, .nan => .nan
  | .inf n, .inf k => .inf (n != k)
  | .inf n, .fin k m _ => if m = 0 then .nan else .inf (n != k)
  | .fin n m _, .inf k => if m = 0 then .nan else .inf (n != k)
  | .fin n m e, .fin k l g => .fin (n != k) (m * l) (e + g)

/-- The negation of a value. -/
def flNeg : Fl → Fl
  | .nan => .nan
  | .inf n => .inf (!n)
  | .fin n m e => .fin (!n) m e

/-- a < b for values that are not NaN, zeros equal. -/
def flLt (a b : Fl) : Bool :=
  match a, b with
  | .nan, _ => false
  | _, .nan => false
  | .inf n, .inf k => n && !k
  | .inf n, .fin _ _ _ => n
  | .fin _ _ _, .inf k => !k
  | .fin _ _ _, .fin _ _ _ => decide ((alignSum [a.sig, (flNeg b).sig]).1 < 0)

/-- FP32 addition, round to nearest even (R94, R176). -/
def fadd32 (a b : Nat) : Nat := (flBits 8 (flSum [flOf 8 a, flOf 8 b]) false false).1

/-! ## Scalars and elements of any format -/

/-- An integer format's element as an integer. -/
def intOf (f v : Nat) : Int := if f = 9 then (v % 2 ^ 32 : Nat) else signed (fmtWidth f) v

/-- The range of an integer format. -/
def intRange (f : Nat) : Int × Int :=
  if f = 9 then (0, 2 ^ 32 - 1) else (-(2 ^ (fmtWidth f - 1)), 2 ^ (fmtWidth f - 1) - 1)

/-- Saturate to an integer format: bits, and whether it saturated. -/
def intSat (f : Nat) (x : Int) : Nat × Bool :=
  let (lo, hi) := intRange f
  let y := max lo (min hi x)
  (unsigned (fmtWidth f) y, y != x)

/-- A COND of CMP and VCMP (R182). -/
def condOf (c f a b : Nat) : Bool :=
  if isFp f then
    let x := flOf f a
    let y := flOf f b
    let un := x == .nan || y == .nan
    let eq := !un && !flLt x y && !flLt y x
    if c = 0 then eq else if c = 1 then !eq else if c = 2 then flLt x y else !un && !flLt x y
  else
    let x := intOf f a
    let y := intOf f b
    if c = 0 then x == y else if c = 1 then x != y else if c = 2 then decide (x < y) else decide (y ≤ x)

/-- a is the lesser: minus zero below plus zero (R182). -/
def fpBelow (f a b : Nat) : Bool :=
  let x := flOf f a
  let y := flOf f b
  flLt x y || (!flLt y x && x.isNegZero && !y.isNegZero)

/-- MIN and MAX (R182). -/
def minMax (mx : Bool) (f a b : Nat) : Nat :=
  let w := 2 ^ fmtWidth f
  let a := a % w
  let b := b % w
  if isFp f then
    if flOf f a = .nan ∧ flOf f b = .nan then canonNan f
    else if flOf f a = .nan then b
    else if flOf f b = .nan then a
    else if mx then (if fpBelow f a b then b else a) else (if fpBelow f b a then b else a)
  else if mx then (if intOf f a < intOf f b then b else a) else (if intOf f b < intOf f a then b else a)

/-- An arithmetic operation: 0 add, 1 subtract, 2 multiply. -/
def flArith (op : Nat) (a b : Fl) : Fl :=
  if op = 0 then flSum [a, b] else if op = 1 then flSum [a, flNeg b] else flMul a b

/-- An integer operation. -/
def intArith (op : Nat) (a b : Int) : Int := if op = 0 then a + b else if op = 1 then a - b else a * b

/-- Elementwise arithmetic (R180, R181): floating point rounds once; integers saturate with SAT, or wrap under R185. -/
def elemArith (op f : Nat) (wrap : Bool) (a b : Nat) : Nat × Bool :=
  if isFp f then ((flBits f (flArith op (flOf f a) (flOf f b)) false false).1, false)
  else
    let x := intArith op (intOf f a) (intOf f b)
    if wrap then (unsigned (fmtWidth f) x, false) else intSat f x

/-- Scalar arithmetic: integers wrap modulo 2^32 (R180). -/
def scalArith (op f a b : Nat) : Nat :=
  if f = 8 then (flBits 8 (flArith op (flOf 8 a) (flOf 8 b)) false false).1
  else unsigned 32 (intArith op (intOf f a) (intOf f b))

/-- The value rounded to an integer toward zero or to nearest even. -/
def flToInt (n : Bool) (m : Nat) (e : Int) (rz : Bool) : Int :=
  let q := roundAt m e 0 rz
  if n then -(q : Int) else q

/-- CVT of one element from format `src` to format `dst` (R180): bits, and SAT. -/
def cvt (src dst : Nat) (satM rz : Bool) (v : Nat) : Nat × Bool :=
  if isFp src then
    if isFp dst then flBits dst (flOf src v) rz satM
    else
      match flOf src v with
      | .nan => (0, true)
      | .inf n => (unsigned (fmtWidth dst) (if n then (intRange dst).1 else (intRange dst).2), true)
      | .fin n m e => intSat dst (flToInt n m e rz)
  else
    let x := intOf src v
    if isFp dst then flBits dst (.fin (decide (x < 0)) x.natAbs 0) rz satM else intSat dst x

/-! ## Vectors -/

/-- Element i of width w of a vector. -/
def elem (v : Vec) (w i : Nat) : Nat := v.toNat / 2 ^ (w * i) % 2 ^ w

/-- A vector from its elements of width w, element 0 lowest. -/
def packElems (w : Nat) : List Nat → Nat
  | [] => 0
  | x :: t => x % 2 ^ w + 2 ^ w * packElems w t

/-- A vector from a number. -/
def vecOf (n : Nat) : Vec := BitVec.ofNat 512 n

/-- An elementwise operation over two vectors; SAT when any element saturated. -/
def vmap2 (f : Nat) (g : Nat → Nat → Nat × Bool) (a b : Vec) : Vec × Bool :=
  let w := fmtWidth f
  let r := (List.range (512 / w)).map (fun i => g (elem a w i) (elem b w i))
  (vecOf (packElems w (r.map (·.1))), r.any (·.2))

/-- VDOT's G and whether its lanes are FP32 (Table 7-10). -/
def dotG (f : Nat) : Nat := if f = 0 then 8 else if f = 1 ∨ f = 4 ∨ f = 5 then 4 else if f = 8 then 1 else 2

/-- One lane of VDOT (R183): the exact sum brought to the lane format once. -/
def dotLane (f : Nat) (wrap : Bool) (acc : Nat) (a b : List Nat) : Nat × Bool :=
  if isFp f then
    ((flBits 8 (flSum (flOf 8 acc :: (a.zip b).map (fun p => flMul (flOf f p.1) (flOf f p.2)))) false false).1, false)
  else
    let x := (a.zip b).foldl (fun s p => s + intOf f p.1 * intOf f p.2) (signed 32 acc)
    if wrap then (unsigned 32 x, false) else intSat 3 x

/-- VDOT (R183) over accumulators `acc`. -/
def vdot (f : Nat) (wrap : Bool) (acc a b : Vec) : Vec × Bool :=
  let g := dotG f
  let w := fmtWidth f
  let r := (List.range 16).map (fun i =>
    let ix := (List.range g).map (fun j => g * i + j)
    dotLane f wrap (elem acc 32 i) (ix.map (elem a w)) (ix.map (elem b w)))
  (vecOf (packElems 32 (r.map (·.1))), r.any (·.2))

/-- Combine neighbours. -/
def pairUp {α : Type} (g : α → α → α) : List α → List α
  | a :: b :: t => g a b :: pairUp g t
  | l => l

/-- One VRED combination (R184). -/
def redOp (md f : Nat) (a b : Nat × Bool) : Nat × Bool :=
  let s := a.2 || b.2
  if md = 0 then
    let r := elemArith 0 f false a.1 b.1
    (r.1, s || r.2)
  else (minMax (md == 1) f a.1 b.1, s)

/-- VRED: balanced pairwise over 16 elements (R184). -/
def vred (md f : Nat) (a : Vec) : Nat × Bool :=
  let l0 := (List.range 16).map (fun i => (elem a 32 i, false))
  let r := pairUp (redOp md f) (pairUp (redOp md f) (pairUp (redOp md f) (pairUp (redOp md f) l0)))
  r.headD (0, false)

/-! ## Special functions (R186) -/

/-- The FP32 bits next above or below in magnitude. -/
def nearBits (bits : Nat) (opts : List Nat) (free : Nat) : Nat := opts.getD (free % opts.length) bits

/-- The lower of the two FP32 magnitudes around num ÷ den × 2^sh, and whether it is exact. -/
def quotLow (num den : Nat) (sh : Int) : Nat × Bool :=
  -- 80 more bits than the quotient needs keep the comparison exact: the remainder decides
  let k := 80 + Nat.log2 den
  let q := num * 2 ^ k / den
  let exact := num * 2 ^ k % den == 0
  let r := flBits 8 (.fin false q (sh - k)) true false
  let low := flOf 8 r.1
  (r.1, exact && (alignSum [low.sig, (flNeg (.fin false q (sh - k))).sig]).1 == 0)

/-- The magnitudes within one ulp of a value whose lower neighbour is `low`. -/
def ulpOpts (low : Nat) (exact : Bool) : List Nat :=
  if 0x7F800000 ≤ low then [0x7F800000] else if exact then [low - 1, low, low + 1] else [low, low + 1]

/-- The integer square root by bisection over `fuel` bits. -/
def isqrt : Nat → Nat → Nat → Nat
  | 0, _, r => r
  | fuel + 1, n, r => isqrt fuel n (if (r + 2 ^ fuel) * (r + 2 ^ fuel) ≤ n then r + 2 ^ fuel else r)

/-- The scale of the fixed-point values below. -/
def fixOne : Nat := 2 ^ 256

/-- e^x for x = m × 2^e ≥ 0 (128 at the most) in units of 2^−256, to a relative error far below 2^−200: the Taylor series of x ÷ 2^10,
squared ten times. -/
def expFix (m : Nat) (e : Int) : Nat :=
  let x := if 7 ≤ (Nat.log2 m : Int) + e then 128 * fixOne else m * 2 ^ (256 + e).toNat
  let r := x / 1024
  let t := (List.range 40).foldl (fun t i => fixOne + r * t / (fixOne * (40 - i))) fixOne
  (List.range 10).foldl (fun t _ => t * t / fixOne) t

/-- The magnitudes within two ulps of a value whose lower neighbour is `low`: finite ones, or `low`. -/
def twoUlp (low : Nat) (exact : Bool) : List Nat :=
  let l := (if exact then [low - 2] else []) ++ [low - 1, low, low + 1, low + 2]
  l.filter (fun b => decide (b < 0x7F800000))

/-- The magnitudes that Table 7-11 allows EXP (2), TANH (3) and SIG (4) of ± m × 2^e, m not 0. -/
def sfnOpts (code : Nat) (n : Bool) (m : Nat) (e : Int) : List Nat :=
  let x := expFix m e
  let q : Nat × Nat × Int :=
    if code = 2 then (if n then (fixOne, x, 0) else (x, 1, -256))
    else if code = 3 then (x * x - fixOne * fixOne, x * x + fixOne * fixOne, 0)
    else if n then (fixOne, fixOne + x, 0) else (x, fixOne + x, 0)
  let low := (quotLow q.1 q.2.1 q.2.2).1
  -- results of SIG below 2^−126 are within 2^−149
  if code = 4 ∧ low < 0x00800000 then ulpOpts low false else twoUlp low false

/-- A special function of an FP32 operand: the special inputs of Table 7-11, x itself for a small TANH operand, and the error bounds;
what the table leaves open is a free value that depends on the function and the operand alone. -/
def sfn32 (code v : Nat) : Nat :=
  let x := flOf 8 v
  let free := Config.sfnBits code v
  let sg := fun (n : Bool) => b2n n * 2 ^ 31
  match x with
  | .nan => canonNan 8
  | .inf n =>
    if code = 0 then sg n
    else if code = 1 then (if n then canonNan 8 else 0)
    else if code = 2 then (if n then 0 else 0x7F800000)
    else if code = 3 then sg n + 0x3F800000
    else (if n then 0 else 0x3F800000)
  | .fin n m e =>
    if code = 0 then
      if m = 0 then sg n + 0x7F800000
      else
        let q := quotLow 1 m (-e)
        sg n + nearBits q.1 (ulpOpts q.1 q.2) free
    else if code = 1 then
      if m = 0 then sg n + 0x7F800000
      else if n then canonNan 8
      else
        -- 1 ÷ √(m × 2^e) = √(2^240 ÷ m) × 2^(−120 − e/2), with e made even
        let m2 := if e % 2 = 0 then m else 2 * m
        let e2 := if e % 2 = 0 then e else e - 1
        let t := 2 ^ 240 / m2
        let r := isqrt 121 t 0
        let low := (flBits 8 (.fin false r (-120 - e2 / 2)) true false).1
        nearBits low (ulpOpts low (m2 * r * r == 2 ^ 240)) free
    else if code = 2 then
      if m = 0 then nearBits 0x3F800000 (twoUlp 0x3F800000 true) free
      else if !n && decide (8872284 * 2 ^ 200 ≤ 100000 * roundAt m e (-200) true) then 0x7F800000
      else nearBits 0 (sfnOpts 2 n m e) free
    else if code = 3 then
      if (m : Int) = 0 ∨ (Nat.log2 m : Int) + e < -12 then v % 2 ^ 32 else sg n + nearBits 0 (sfnOpts 3 n m e) free
    else if m = 0 then nearBits 0x3F000000 (twoUlp 0x3F000000 true) free
    else nearBits 0 (sfnOpts 4 n m e) free

/-- VSFN on one element: FP16 and BF16 widen, compute in FP32 and round once. -/
def sfnElem (code f v : Nat) : Nat :=
  if f = 8 then sfn32 code v
  else (flBits f (flOf 8 (sfn32 code (flBits 8 (flOf f v) false false).1)) false false).1

end Sys2Proof.Machine
end

