-- ==== Sys2Proof/Machine/Place.lean ====
section
/-! DEFINITION. Units in service, physical and logical numbers (R14, R28, R29, R136, R346), and what each loaded version
uses of them (R122 to R127, R154, R165). -/
namespace Sys2Proof.Machine

/-! ## Units -/

/-- A unit is in the repair map. -/
def State.inMap (s : State) (u : UnitId) : Bool := s.units.map.any (fun e => e.unit == u)

/-- A tract die is in service. -/
def State.dieOk (s : State) (d : Nat) : Bool := !s.inMap ⟨5, d, 0, 0, 0⟩
/-- A compartment is in service. -/
def State.cmptOk (s : State) (d c : Nat) : Bool := s.dieOk d && !s.inMap ⟨4, d, c, 0, 0⟩
/-- A physical stand is not retired. -/
def State.standOk (s : State) (d c st : Nat) : Bool := s.cmptOk d c && !s.inMap ⟨3, d, c, st, 0⟩
/-- A physical core is not retired. -/
def State.coreOk (s : State) (d c st k : Nat) : Bool := s.standOk d c st && !s.inMap ⟨1, d, c, st, k⟩
/-- A physical lane of engine e of a die is not retired. -/
def State.laneOk (s : State) (d e l : Nat) : Bool := s.cmptOk d (e / 2) && !s.inMap ⟨2, d, e / 2, 0, e % 2 * 272 + l⟩

/-- The physical stands that serve logical stands 0 to 7 of a compartment. -/
def State.standsOf (s : State) (d c : Nat) : List Nat := Tbl.getD s.units.standMap (d * 8 + c) (List.range 8)
/-- The physical cores that serve logical cores 0 to 15 of a physical stand. -/
def State.coresOf (s : State) (ps : Nat) : List Nat := Tbl.getD s.units.coreMap ps (List.range 16)
/-- The physical lanes that serve logical lanes 0 to 255 of an engine, then its spare lanes 0 to 15. -/
def State.lanesOf (s : State) (d e : Nat) : List Nat := Tbl.getD s.units.laneMap (d * 16 + e) (List.range 272)

/-- The physical stand, as die × 72 + 9 × compartment + stand, of a logical stand die × 64 + 8 × compartment + l. -/
def State.physStand (s : State) (ls : Nat) : Nat :=
  let d := ls / 64
  let c := ls / 8 % 8
  d * 72 + c * 9 + (s.standsOf d c).getD (ls % 8) 0

/-- The physical core of logical core `pos` of a logical stand, as die × 1,224 + 17 × stand + core. -/
def State.physCore (s : State) (ls pos : Nat) : Nat :=
  let ps := s.physStand ls
  ps * 17 + (s.coresOf ps).getD pos 0

/-- The number of the physical core that a unit of level 1 is. -/
def corePhys (u : UnitId) : Nat := u.die * 1224 + (u.cmpt * 9 + u.stand) * 17 + u.unit
/-- The unit that a physical core is. -/
def coreUnit (p : Nat) : UnitId := ⟨1, p / 1224, p / 17 % 72 / 9, p / 17 % 72 % 9, p % 17⟩

/-- The spare stand of a compartment: the physical stand that serves no logical one and is not retired or under test. -/
def State.spareStand (s : State) (d c : Nat) : Option Nat :=
  (pick 9 (fun p => !(s.standsOf d c).contains p && s.standOk d c p &&
    !(s.units.tests.any (fun t => t.1 == ⟨3, d, c, p, 0⟩)) &&
    !(s.units.moves.any (fun m => m.unit.level == 3 && m.unit.die == d && m.unit.cmpt == c)))).head?

/-- The coppice of a physical stand, while free. -/
def State.coppice (s : State) (d c st : Nat) : Option Nat :=
  (pick 17 (fun k => !(s.coresOf (d * 72 + c * 9 + st)).contains k && s.coreOk d c st k &&
    !(s.units.tests.any (fun t => t.1 == ⟨1, d, c, st, k⟩)) &&
    !(s.units.moves.any (fun m => m.unit.level == 1 && m.unit.die == d && m.unit.cmpt == c && m.unit.stand == st)))).head?

/-- The map entry of physical lane l of engine e. -/
def laneUnit (d e l : Nat) : UnitId := ⟨2, d, e / 2, 0, e % 2 * 272 + l⟩

/-- Spare lane sp of an engine while it is free: not retired, not under test, not taken by a move. -/
def State.spareAt (s : State) (d e sp : Nat) : Option Nat :=
  match (s.lanesOf d e)[256 + sp]? with
  | none => none
  | some l =>
    if s.laneOk d e l && !(s.units.tests.any (fun t => t.1 == laneUnit d e l)) &&
      !(s.units.moves.any (fun m => m.unit.level == 2 && m.unit.die == d && m.unit.cmpt == e / 2 && m.unit.unit / 272 == e % 2
        && m.spare == l)) then some l else none

/-- The free spare lanes of an engine. -/
def State.spareLanes (s : State) (d e : Nat) : List Nat := (List.range 16).filterMap (s.spareAt d e)

/-- Logical lanes of an engine in service. -/
def State.lanesIn (s : State) (d e : Nat) : List Nat :=
  if s.cmptOk d (e / 2) then pick 256 (fun l => match (s.lanesOf d e)[l]? with | some p => s.laneOk d e p | none => false)
  else []

/-- The die's state (GCTL_DIECAP.DIE_STATE, R28): 0 in service, 1 retired with its port, 2 retired and its port lost. -/
def State.dieState (s : State) (d : Nat) : Nat := if s.dieOk d then 0 else if (s.die d).lost then 2 else 1

/-- Compartments of a die in service. -/
def State.cmptsIn (s : State) (d : Nat) : List Nat := pick 8 (s.cmptOk d)

/-- Cores in service on the package (R29). -/
def State.coresIn (s : State) : Nat :=
  sumBy (fun d => sumBy (fun c => sumBy (fun p => ((s.coresOf (d * 72 + c * 9 + p)).filter (s.coreOk d c p)).length)
    ((s.standsOf d c).filter (s.standOk d c))) (s.cmptsIn d)) (List.range 4)

/-- Lanes in service on the package (R29). -/
def State.lanesInAll (s : State) : Nat :=
  sumBy (fun d => sumBy (fun e => (s.lanesIn d e).length) (List.range 16)) (List.range 4)

/-- Unpaired digest engines paired with each other, the lowest with the next (log 134); an odd one idles. -/
def pairLeft : List Nat → List (Nat × Nat × Nat)
  | a :: b :: t => (a / 2, a, b) :: pairLeft t
  | _ => []

/-- The digest pairs as (number, engines): engines 2j and 2j + 1 make pair j; engines left unpaired are paired with each other, under the
number of the lower (R320). -/
def State.digestPairs (s : State) : List (Nat × Nat × Nat) :=
  let ok := fun (n : Nat) => !s.inMap ⟨6, 0xF, 0, 0, n⟩
  ((List.range 32).filter (fun j => ok (2 * j) && ok (2 * j + 1))).map (fun j => (j, 2 * j, 2 * j + 1)) ++
  pairLeft ((List.range 64).filter (fun n => ok n && !ok (n / 2 * 2 + (1 - n % 2))))

/-- The pair that a digest engine is of. -/
def State.digestPair (s : State) (n : Nat) : Option (Nat × Nat × Nat) := s.digestPairs.find? (fun p => p.2.1 == n || p.2.2 == n)

/-- Digest pairs in service and not out for a test, by number (R320, R356). -/
def State.pairsIn (s : State) : List Nat :=
  pick 32 (fun j => s.digestPairs.any (fun p => p.1 == j) && !s.units.pairsOut.contains j)

/-! ## Lane buffers and tree stores (R84, R342, Table 14-5) -/

/-- The aperture offset of the lane buffer of physical lane l of engine e within its die. -/
def laneBase (e l : Nat) : Nat := e / 2 * 0x10000000 + 0xD000000 + e % 2 * 0x100000 + l * 0x800
/-- The aperture offset of a compartment's tree store within its die. -/
def storeBase (c : Nat) : Nat := c * 0x10000000 + 0xC000000

/-- A byte range of a die's SRAM has an uncorrectable word. -/
def DieSt.sramBad (x : DieSt) (a n : Nat) : Bool := x.sramUe.any (fun w => decide (a < w * 4 + 4 ∧ w * 4 < a + n))

/-- A byte range of a die's SRAM is rewritten: its uncorrectable words are good again. -/
def State.rewrite (s : State) (d a n : Nat) : State :=
  if (s.die d).sramBad a n then
    s.setDie d { s.die d with sramUe := (s.die d).sramUe.filter (fun w => !decide (a < w * 4 + 4 ∧ w * 4 < a + n)) }
  else s

/-- Before its next use a lane is rewritten from the tree store, and a tree store's images from DRAM (Table 14-7). -/
def State.rewriteLane (s : State) (d e l : Nat) : State := s.rewrite d (laneBase e ((s.lanesOf d e).getD l 0)) 0x800
/-- Before its next use a tree store's image is rewritten from its DRAM image (Table 14-7). -/
def State.rewriteStore (s : State) (d c : Nat) : State := s.rewrite d (storeBase c) 0x800000

/-! ## Handles and versions -/

/-- A handle's state. -/
def State.handle (s : State) (h : Nat) : Handle := Tbl.getD s.handles h {}
/-- Change a handle's state. -/
def State.setHandle (s : State) (h : Nat) (x : Handle) : State := { s with handles := Tbl.put s.handles h x }

/-- Every version a handle holds: serving, staged, draining. -/
def Handle.versions (h : Handle) : List Version := h.serving.toList ++ h.staged.toList ++ h.old

/-- The kind of model a handle holds, none when free. -/
def Handle.kind (h : Handle) : Option Nat := (h.versions.head?).map (·.kind)

/-- Every version loaded, with its handle (R126). -/
def State.allVersions (s : State) : List (Nat × Version) :=
  s.handles.flatMap (fun e => e.2.versions.map (fun v => (e.1, v)))

/-- The VERSION of a version. -/
def Version.num (v : Version) : Nat := v.number % 65536

/-- A version of a handle by number, among those it holds. -/
def Handle.ver (h : Handle) (n : Nat) : Option Version := h.versions.find? (fun v => v.number == n)

/-- Change the versions of a handle that have a number. -/
def Handle.modVer (h : Handle) (n : Nat) (f : Version → Version) : Handle :=
  let g := fun v => if v.number = n then f v else v
  { h with serving := h.serving.map g, staged := h.staged.map g, old := h.old.map g }

/-- A handle still holds a version of this number, or an ACTIVATE or a felling entry names one (R129, R131). -/
def State.numberUsed (s : State) (h n : Nat) : Bool :=
  let x := s.handle h
  x.versions.any (fun v => v.number == n) || x.armActivate == some n ||
  s.time.fell.any (fun f => f.2.kind == 1 && f.2.handle == h && f.2.version == n)

/-- The number of a new version: its VERSION, set apart from an earlier one that still drains or is still named. -/
def State.newNumber (s : State) (h n : Nat) : Nat :=
  n + 65536 * ((List.range ((s.handle h).versions.length + s.time.fell.length + 2)).find? (fun k =>
    !s.numberUsed h (n + 65536 * k))).getD 0

/-- Change a version of a handle. -/
def State.modVer (s : State) (h n : Nat) (f : Version → Version) : State := s.setHandle h ((s.handle h).modVer n f)

/-- A little-endian field of a version's image. -/
def Version.le (v : Version) (off n : Nat) : Nat := leAt v.image off n

/-! ## Forest images (Tables 5-2 and 5-3) -/

/-- The sizes a forest image declares. -/
structure ForestHdr where
  depth : Nat
  fmt : Nat
  nclass : Nat
  frac : Nat
  width : Nat
  flags : Nat
  ntrees : Nat
  cmap : Nat
  node : Nat
  leaf : Nat
  base : Nat
  fmap : Nat
  digest : Nat
  sig : Nat
  len : Nat
  deriving DecidableEq, Repr

/-- Read the header of a forest image. -/
def forestHdr (b : List Byte) : ForestHdr :=
  { depth := leAt b 12 1, fmt := leAt b 13 1, nclass := leAt b 14 1, frac := leAt b 15 1, width := leAt b 16 2,
    flags := leAt b 18 2, ntrees := leAt b 20 4, len := leAt b 24 8, fmap := leAt b 32 8, cmap := leAt b 40 8,
    node := leAt b 48 8, leaf := leAt b 56 8, base := leAt b 64 8, digest := leAt b 72 8, sig := leAt b 80 8 }

/-- Lanes of one tree: g = 2^(d−8) above depth 8, else 1 (R89). -/
def ForestHdr.g (f : ForestHdr) : Nat := if f.depth ≤ 8 then 1 else 2 ^ (f.depth - 8)

/-- The header of a version's image. -/
def Version.forest (v : Version) : ForestHdr := forestHdr v.image

/-- The fields of a load descriptor (Table 5-5): MODE, FLAGS, DIE_MASK, COPIES, BATCH_LOG2, LANES, BATCH_WAIT. -/
def Version.mode (v : Version) : Nat := leAt v.desc 1 1
/-- TOLERANT. -/
def Version.tolerant (v : Version) : Bool := (leAt v.desc 2 1).testBit 0
/-- B of a batch part. -/
def Version.batchSize (v : Version) : Nat := 2 ^ leAt v.desc 10 1
/-- BATCH_WAIT in ticks. -/
def Version.batchWait (v : Version) : Nat := leAt v.desc 16 4

/-- The trees of class c in class order (R93). -/
def classTrees (b : List Byte) (f : ForestHdr) (c : Nat) : List Nat :=
  (List.range f.ntrees).filter (fun j => byteAt b (f.cmap + j) == c)

/-! ## What is in use (R126) -/

/-- Lanes a version uses, as (die, engine, lane). -/
def Version.lanesUsed (v : Version) : List (Nat × Nat × Nat) :=
  v.fcopies.flatMap (fun c => if c.2.out then [] else c.2.lanes.map (fun l => (l.1, l.2.1, l.2.2.1))) ++
  (match v.part with | some p => if p.out then [] else p.lanes | none => [])

/-- The reserve lanes of a die (R125): 224 to 255 of each engine (log 36). -/
def reserved (l : Nat) : Bool := decide (224 ≤ l)

/-- Lanes of engine e of a die that tolerant stationary copies hold, ascending, in the reserve or out of it. -/
def State.tolLanes (s : State) (d e : Nat) (res : Bool) : List Nat :=
  (s.allVersions.flatMap (fun hv => if hv.2.tolerant then
      hv.2.fcopies.flatMap (fun c => if c.2.out then [] else
        (c.2.lanes.filter (fun l => l.1 == d && l.2.1 == e && reserved l.2.2.1 == res)).map (fun l => l.2.2.1))
    else [])).mergeSort (fun a b => decide (a ≤ b))

/-- The other compartments that keep the images of compartment x, in turn (R125). -/
def othersOf (cs : List Nat) (x : Nat) : List Nat := cs.filter (fun c => decide (x < c)) ++ cs.filter (fun c => decide (c < x))

/-- Images in the reserve of a compartment (R125): those of the groups of 32 lanes of other compartments' engines that it keeps, and those
of its own reserve lanes in use. -/
def State.tolIn (s : State) (d c : Nat) : Nat :=
  let cs := s.cmptsIn d
  sumBy (fun e =>
    if e / 2 = c then (s.tolLanes d e true).length
    else (pick (s.tolLanes d e false).length (fun i => (othersOf cs (e / 2))[i / 32]? == some c)).length) (List.range 16)

/-- A die holds a tolerant stationary copy of some version (R125). -/
def State.hasTolerant (s : State) (d : Nat) : Bool :=
  s.allVersions.any (fun hv => hv.2.tolerant && hv.2.fcopies.any (fun c => !c.2.out && c.2.lanes.any (fun l => l.1 == d)))

/-- Tree-store units in use in a compartment (Table 5-13): USED, images and tolerant copies; RESV, the rest of the tolerant
reserve with batch buffers and staging rings. -/
def State.storeUse (s : State) (d c : Nat) : Nat × Nat :=
  let t := s.allVersions.foldl (fun (a : Nat × Nat) hv =>
    let u := Tbl.getD hv.2.stores (d * 8 + c) (0, 0)
    (a.1 + u.1, a.2 + u.2)) (0, 0)
  let n := s.tolIn d c
  (t.1 + n, (if s.hasTolerant d then 512 - n else 0) + t.2)

/-- MODEL_DEGRADED with the handle and the copies still in service (R106, R133, R167). -/
def State.degraded (s : State) (h : Nat) (v : Version) : State :=
  s.post 0 5 [(h, 16), ((v.fcopies.filter (fun c => !c.2.out)).length + (v.acopies.filter (fun c => !c.2.out)).length, 16)]

/-! ## Program images (Tables 6-7 to 6-9) -/

/-- A core record (Table 6-9). -/
structure CoreRec where
  lstand : Nat
  pos : Nat
  start : Nat
  stop : Nat
  fires : Nat
  nins : Nat
  insIndex : Nat
  localBytes : Nat
  bal : List Nat
  initIndex : Nat
  state : Bool
  deriving DecidableEq, Repr

/-- The sizes a program image declares. -/
structure ProgHdr where
  format : Nat
  ncores : Nat
  nstands : Nat
  ii : Nat
  depth : Nat
  tpm : Nat
  flags : Nat
  nData : Nat
  nKey : Nat
  nRes : Nat
  nFeval : Nat
  resLen : Nat
  desc : Nat × Nat
  data : Nat × Nat
  key : Nat × Nat
  standMem : Nat
  len : Nat
  core : Nat
  feval : Nat
  instr : Nat
  init : Nat
  digest : Nat
  sig : Nat
  stateBytes : Nat
  stateOff : Nat
  ctxPer : Nat
  step : Nat
  grate : Nat
  ckptLog2 : Nat
  stageLog2 : Nat
  deriving DecidableEq, Repr

/-- Read the header of a program image. -/
def progHdr (b : List Byte) : ProgHdr :=
  { format := leAt b 4 2, ncores := leAt b 12 2, nstands := leAt b 14 1, ii := leAt b 15 1, depth := leAt b 16 2,
    tpm := 2 ^ leAt b 18 1, flags := leAt b 19 1, nData := leAt b 20 1, nKey := leAt b 21 1, nRes := leAt b 22 1,
    nFeval := leAt b 23 1, resLen := leAt b 24 2, desc := (leAt b 28 2, leAt b 30 1), data := (leAt b 32 2, leAt b 34 1),
    key := (leAt b 36 2, leAt b 38 1), standMem := leAt b 40 4, len := leAt b 48 8, core := leAt b 56 8,
    feval := leAt b 64 8, instr := leAt b 72 8, init := leAt b 80 8, digest := leAt b 88 8, sig := leAt b 96 8,
    stateBytes := leAt b 104 4, stateOff := leAt b 108 4, ctxPer := leAt b 112 2, step := leAt b 114 2,
    grate := leAt b 116 4, ckptLog2 := leAt b 120 1, stageLog2 := leAt b 121 1 }

/-- S of Table 6-4. -/
def ProgHdr.stages (p : ProgHdr) : Nat := p.depth / p.ii
/-- CKPT_INTERVAL. -/
def ProgHdr.ckpt (p : ProgHdr) : Nat := if p.ckptLog2 = 0 then 4096 else 2 ^ p.ckptLog2

/-- Core record i of a program image. -/
def coreRec (b : List Byte) (p : ProgHdr) (i : Nat) : CoreRec :=
  let o := p.core + 32 * i
  { lstand := leAt b o 2, pos := leAt b (o + 2) 1, start := leAt b (o + 4) 2, stop := leAt b (o + 6) 2,
    fires := leAt b (o + 8) 2, nins := leAt b (o + 10) 2, insIndex := leAt b (o + 12) 4, localBytes := leAt b (o + 16) 4,
    bal := (List.range 5).map (fun k => leAt b (o + 20 + k) 1), initIndex := leAt b (o + 28) 4,
    state := (leAt b (o + 3) 1).testBit 0 }

/-- Queue extensions of a core in bytes of local SRAM (R150, R162). -/
def CoreRec.ext (r : CoreRec) : Nat := 512 * r.bal.foldl (· + ·) 0

/-- Instruction word i of a core record. -/
def insWord (b : List Byte) (p : ProgHdr) (r : CoreRec) (i : Nat) : Nat := leAt b (p.instr + 8 * (r.insIndex + i)) 8

/-- FEVAL record i: target handle, FEVALs per message, declared latency. -/
def fevalRec (b : List Byte) (p : ProgHdr) (i : Nat) : Nat × Nat × Nat :=
  let o := p.feval + 16 * i
  (leAt b o 2, leAt b (o + 2) 2, leAt b (o + 4) 2)

/-- Every instruction word of a program image. -/
def progWords (b : List Byte) : List Nat :=
  let p := progHdr b
  (List.range p.ncores).flatMap (fun i => let r := coreRec b p i; (List.range r.nins).map (insWord b p r))

/-- The program class of an image (R314): 0 ORDER_FREE, 1 ORDER_LOCAL, 2 ORDER_SHARED, 3 EXACT_BUILT. -/
def progClass (b : List Byte) : Nat :=
  if (progHdr b).flags.testBit 1 then 3
  else
    let ord := (progWords b).filter (fun w => w.testBit 35)
    if ord.any (fun w => decide (0x10 ≤ bitsOf w 52 48 ∧ bitsOf w 52 48 < 0x18)) then 2
    else if ord.isEmpty then 0 else 1

/-- The class of a version: forests read ORDER_FREE. -/
def Version.cls (v : Version) : Nat := if v.kind = 0 then 0 else progClass v.image

/-- The largest result block of a version's replies (R249): a forest's block, or the declared RES_LEN. -/
def Version.resMax (v : Version) : Nat :=
  if v.kind = 0 then 4 + v.forest.nclass * (if v.forest.fmt = 0 then 4 else 8) else (progHdr v.image).resLen

/-- The header of a version's program image. -/
def Version.prog (v : Version) : ProgHdr := progHdr v.image
/-- Core record i of a version. -/
def Version.crec (v : Version) (i : Nat) : CoreRec := coreRec v.image v.prog i

/-- The logical stand, as die × 64 + 8 × compartment + l, of logical stand n of a copy. -/
def ACopy.stand (c : ACopy) (n : Nat) : Nat := c.stands.getD n 0

/-- The physical core of logical core i of a copy. -/
def State.copyCore (s : State) (v : Version) (c : ACopy) (i : Nat) : Nat :=
  s.physCore (c.stand (v.crec i).lstand) (v.crec i).pos

/-- The logical core of a copy that a physical core is. -/
def State.copyIndex (s : State) (v : Version) (c : ACopy) (p : Nat) : Option Nat :=
  (pick v.prog.ncores (fun i => s.copyCore v c i == p)).head?

/-- The physical cores a copy uses. -/
def State.copyCores (s : State) (v : Version) (c : ACopy) : List Nat :=
  (List.range v.prog.ncores).map (s.copyCore v c)

/-- The copy and logical core that physical core p is for a version. -/
def State.homeOf (s : State) (v : Version) (p : Nat) : Option (Nat × ACopy × Nat) :=
  v.acopies.findSome? (fun e => if e.2.out then none else (s.copyIndex v e.2 p).map (fun i => (e.1, e.2, i)))

/-- A core's state. -/
def State.core (s : State) (p : Nat) : Core := Tbl.getD s.cores p {}
/-- Change a core's state. -/
def State.setCore (s : State) (p : Nat) (c : Core) : State := { s with cores := Tbl.put s.cores p c }
/-- A slot of a core. -/
def Core.slot (c : Core) (k : Nat) : CoreSlot := Tbl.getD c.slots k {}
/-- A queue of a core. -/
def Core.queue (c : Core) (q : Nat) : List Tok := Tbl.getD c.queues q []
/-- Change a slot. -/
def Core.setSlot (c : Core) (k : Nat) (x : CoreSlot) : Core := { c with slots := Tbl.put c.slots k x }
/-- Change a queue. -/
def Core.setQueue (c : Core) (q : Nat) (x : List Tok) : Core :=
  { c with queues := if x = [] then Tbl.del c.queues q else Tbl.put c.queues q x }

/-- The aperture offset of a physical stand's shared SRAM within its die (Table 14-5). -/
def standBase (ps : Nat) : Nat := ps % 72 / 9 * 0x10000000 + ps % 72 % 9 * 0x1000000
/-- The aperture offset of a physical core's local SRAM within its die (Table 14-5). -/
def coreBase (p : Nat) : Nat := standBase (p / 17) + 0x800000 + p % 17 * 0x20000

/-- Where n bytes from offset a of an allocation lie: its 4 KB pages taken in order, from the base of the stand's shared SRAM. -/
def pageSpans (base : Nat) : List Nat → Nat → Nat → List (Nat × Nat)
  | [], _, _ => []
  | p :: t, a, n =>
    if n = 0 then []
    else if 4096 ≤ a then pageSpans base t (a - 4096) n
    else (base + p * 4096 + a, min n (4096 - a)) :: pageSpans base t 0 (n - min n (4096 - a))

/-- Where n bytes from offset a of the stand memory of logical stand i of a copy lie in the die's SRAM. -/
def State.standSpans (s : State) (cp : ACopy) (i a n : Nat) : List (Nat × Nat) :=
  pageSpans (standBase (s.physStand (cp.stand i))) (cp.pages.getD i []) a n

/-- Read ranges, one after another. -/
def Mem.readSpans (m : Mem) (l : List (Nat × Nat)) : List Byte := l.flatMap (fun r => m.readN r.1 r.2)

/-- Write bytes into ranges, one after another. -/
def Mem.writeSpans (m : Mem) : List (Nat × Nat) → List Byte → Mem
  | [], _ => m
  | r :: t, b => Mem.writeSpans (m.writeN r.1 (b.take r.2)) t (b.drop r.2)

/-- Forget every byte of some ranges. -/
def Mem.clearSpans (m : Mem) (l : List (Nat × Nat)) : Mem := l.foldl (fun m r => m.clear r.1 r.2) m

/-- The version that physical core p holds in a slot, its copy and logical core. -/
def State.slotHome (s : State) (p k : Nat) : Option (Nat × Version × Nat × ACopy × Nat) :=
  let sl := (s.core p).slot k
  match sl.handle with
  | none => none
  | some h =>
    match (s.handle h).ver sl.version with
    | none => none
    | some v => (s.homeOf v p).map (fun x => (h, v, x.1, x.2.1, x.2.2))

/-- POOL bytes of a die (R339): the POOL stripes' gigabytes of that die. -/
def State.poolBytes (s : State) (d : Nat) : Nat :=
  if (s.die d).lost then 0 else (pick 24 (fun t => s.stripeMode t == 3)).length * 2 ^ 30

/-- 64 KB units rounded up, in bytes. -/
def to64k (n : Nat) : Nat := ceilDiv n 65536 * 65536

/-- Checkpoint bytes a version reserves on a die (R339). -/
def Version.ckptBytes (v : Version) (d : Nat) : Nat :=
  if v.kind = 2 then
    let p := v.prog
    (v.acopies.filter (fun c => c.2.die == d && !c.2.out)).length * to64k (2 * p.stateBytes * p.nstands * p.ctxPer)
  else 0

/-- The message buffer's share of a die's POOL under a committed set (R387): NPART × 2^PART_LOG2 bytes spread over the
tract dies in service. -/
def State.msgBufShare (s : State) (c : Tbl Word) (d : Nat) : Nat :=
  let w := cfgOf c Reg.GCTL_MSGBUF
  if s.dieOk d then ceilDiv (fld w 15 0 * 2 ^ fld w 28 24) (max 1 (pick 4 s.dieOk).length) else 0

/-- POOL bytes that loaded versions use on a die. -/
def State.poolLoaded (s : State) (d : Nat) : Nat :=
  sumBy (fun hv => to64k (Tbl.getD hv.2.stream d 0) + hv.2.ckptBytes d) s.allVersions

/-- POOL bytes in use on a die: loaded versions and the message buffer. -/
def State.poolUsed (s : State) (d : Nat) : Nat := s.poolLoaded d + s.msgBufShare s.regs.cfg d

/-- Free POOL bytes of a die (MEM_POOL). -/
def State.poolFree (s : State) (d : Nat) : Nat := s.poolBytes d - s.poolUsed d

/-! ## Contexts -/

/-- A context rolls back (R204): the cause of the first trigger, the lowest position that failed (R211). -/
def State.ctxFail (s : State) (k cause pos : Nat) : State :=
  match Tbl.find s.ctxs k with
  | none => s
  | some x =>
    let x1 := if x.rolling then { x with failed := min x.failed pos } else { x with rolling := true, cause := cause, failed := pos }
    -- a checkpoint write under way is abandoned (R211)
    { s with ctxs := Tbl.put s.ctxs k { x1 with staged := [] } }

end Sys2Proof.Machine
end

