-- ==== Sys2Proof/Machine/CoreIsa.lean ====
section
/-! DEFINITION. The core instruction set (07): the instruction word, the firing rule of R139 to R145, operands, routes,
predication, and the meaning of each opcode; and the version that serves an item (R128). A core is named by die × 1,224 +
17 × physical stand + physical core. -/
namespace Sys2Proof.Machine

/-! ## The version that serves an item (R128, R129) -/

/-- The version of a handle that serves an item stamped `st`, where `base` serves apart from fellings: an applied ACTIVATE felling that
`base` takes in and the item is too old for gives the version before it; one that came after `base` was read, and a pending one that is
ready, give theirs to an item they are new for. -/
def State.verFor (s : State) (h : Nat) (st : Stamp) (base : Option Nat) : Option Nat :=
  let mine := s.time.felled.filter (fun f => f.kind == 1 && f.handle == h)
  let a := mine.foldl (fun v f => if v = f.newVer ∧ takesNew st f.sec f.ns f.gen = false then f.oldVer else v) base
  let b := mine.foldr (fun f v => if v = f.oldVer ∧ takesNew st f.sec f.ns f.gen then f.newVer else v) a
  s.time.fell.foldl
    (fun v f => if f.2.kind = 1 ∧ f.2.handle = h ∧ f.2.ready ∧ takesNew st f.2.sec f.2.ns f.2.gen then some f.2.version
      else v) b

/-! ## The instruction word (R169 to R172) -/

/-- An instruction word's fields (Table 7-1). -/
structure Ins where
  opc : Nat
  psel : Nat
  psense : Bool
  dst : Nat
  sa : Nat
  sb : Nat
  tagop : Nat
  ord : Bool
  fmt : Nat
  md : Nat
  dir : Nat
  tgt : Nat
  side : Bool
  x : Nat
  deriving DecidableEq, Repr

/-- Take a word apart. -/
def insOf (w : Nat) : Ins :=
  { opc := bitsOf w 63 58, psel := bitsOf w 57 54, psense := w.testBit 53, dst := bitsOf w 52 48, sa := bitsOf w 47 43,
    sb := bitsOf w 42 38, tagop := bitsOf w 37 36, ord := w.testBit 35, fmt := bitsOf w 34 31, md := bitsOf w 30 29,
    dir := bitsOf w 28 25, tgt := bitsOf w 24 17, side := w.testBit 16, x := bitsOf w 15 0 }

/-- An opcode of Table 7-9. -/
def opcListed (o : Nat) : Bool := decide ((1 ≤ o ∧ o ≤ 0x19) ∨ (0x20 ≤ o ∧ o ≤ 0x34))
/-- Scalar class (R170). -/
def Ins.scalar (i : Ins) : Bool := decide (i.opc < 0x20)
/-- The opcode has a source B register or queue. -/
def Ins.usesB (i : Ins) : Bool :=
  !([0x01, 0x02, 0x10, 0x11, 0x12, 0x13, 0x14, 0x15, 0x18, 0x19, 0x20, 0x2B, 0x2D, 0x2E, 0x2F, 0x31, 0x32, 0x33].contains i.opc)
/-- X is a parameter of the opcode (R172, case 1). -/
def Ins.xParam (i : Ins) : Bool := [0x02, 0x13, 0x15, 0x16, 0x2D, 0x2E, 0x30, 0x31, 0x33, 0x34].contains i.opc
/-- X is the immediate (case 2). -/
def Ins.xImm (i : Ins) : Bool := !i.xParam && i.usesB && i.scalar && i.sb == 0x1F
/-- X is the SET tag value (case 3). -/
def Ins.xSet (i : Ins) : Bool := !i.xParam && !i.xImm && i.tagop == 2
/-- X is the CORE address (case 4). -/
def Ins.xCore (i : Ins) : Bool := !i.xParam && !i.xImm && !i.xSet && i.dir == 6
/-- X holds ROUTE1 (case 5). -/
def Ins.xRoute (i : Ins) : Bool := !i.xParam && !i.xImm && !i.xSet && !i.xCore
/-- The routes that send a result token: direction, target, side. ROUTE0 of LD, VLD, DMA and FEVAL names the consumer of
the response instead. -/
def Ins.routes (i : Ins) : List (Nat × Nat × Bool) :=
  (if i.dir = 0 ∨ [0x15, 0x17, 0x18, 0x33].contains i.opc then [] else [(i.dir, i.tgt, i.side)]) ++
  (if i.xRoute ∧ bitsOf i.x 12 9 ≠ 0 then [(bitsOf i.x 12 9, bitsOf i.x 8 1, i.x.testBit 0)] else [])

/-- The queue code of a source, if it names one. -/
def queueOf (code : Nat) : Option Nat := if 0x18 ≤ code ∧ code ≤ 0x1E then some code else none

/-- The queues the instruction takes tokens from, with their side. -/
def Ins.sources (i : Ins) : List (Nat × Bool) :=
  (match queueOf i.sa with | some q => [(q, false)] | none => []) ++
  (if i.usesB then match queueOf i.sb with | some q => [(q, true)] | none => [] else [])

/-! ## Runs, queues and readiness (R139 to R141, R179) -/

/-- Offset of a tag in a block of base b (tags are 16 bits). -/
def tagOff (b t : Nat) : Nat := (t + 65536 - b % 65536) % 65536

/-- The run of a version's copy that owns a tag: not failed, its block holds the tag. -/
def State.runOf (s : State) (h n c tpm t : Nat) : Option (Nat × ArrayRun) :=
  s.runs.find? (fun e => e.2.handle == h && e.2.version == n && e.2.copy == c && !e.2.overrun &&
    decide (tagOff e.2.tag t < tpm))

/-- Where a slot's instructions run: handle, version, copy and logical core. -/
structure Home where
  h : Nat
  v : Version
  c : Nat
  cp : ACopy
  i : Nat
  deriving DecidableEq, Repr

/-- The home of a slot of a physical core. -/
def State.home (s : State) (p k : Nat) : Option Home :=
  (s.slotHome p k).map (fun x => ⟨x.1, x.2.1, x.2.2.1, x.2.2.2.1, x.2.2.2.2⟩)

/-- The entries of a queue of a core (Table 6-2, R150): the hardware queue and the extensions that the versions in the core's slots declare
for it, added up (DESIGN CHOICE, log 180). -/
def State.queueCap (s : State) (p q : Nat) : Nat :=
  let ext := if q ≤ 0x1C then
    sumBy (fun k => match s.home p k with | some hm => (hm.v.crec hm.i).bal.getD (q - 0x18) 0 * 8 | none => 0) [0, 1, 2, 3]
    else 0
  (if q = 0x1C then 16 else 8) + ext

/-- Entries that the second routes of responses to come take in a queue. -/
def sinkUse (l : List Sink) (p q : Nat) : Nat := (l.filter (fun k => k.core == p && k.queue == q)).length

/-- Entries a queue has taken: tokens held, routed tokens on their way, responses reserved (R139, R179). An entry token takes one as it
arrives (R150). -/
def State.queueUsed (s : State) (p q : Nat) : Nat :=
  ((s.core p).queue q).length + (s.flights.filter (fun f => f.2.core == p && f.2.queue == q && !f.2.entry)).length +
  (if q = 0x1D then sumBy (fun f => if f.2.core = p then f.2.payloads.length else 0) s.fevals else 0) +
  (if q = 0x1E then (s.dmas.filter (fun d => d.2.core == p)).length else 0) +
  sumBy (fun f => f.2.payloads.length * sinkUse f.2.also p q) s.fevals + sumBy (fun d => sinkUse d.2.also p q) s.dmas

/-- A queue has n free entries. -/
def State.queueFree (s : State) (p q n : Nat) : Bool := decide (s.queueUsed p q + n ≤ s.queueCap p q)

/-- The queue that DIR SELF names for an opcode (Table 7-3). -/
def selfQueue (opc : Nat) : Nat := if opc = 0x15 ∨ opc = 0x17 ∨ opc = 0x33 then 0x1E else if opc = 0x18 then 0x1D else 0x1C

/-- Where a direction of an opcode leads from a core (Table 7-3): the physical core and its queue, none for the result stream. -/
def State.routeTo (s : State) (hm : Home) (p opc dir x : Nat) : Option (Nat × Nat) :=
  let r := hm.v.crec hm.i
  let at' := fun (pos q : Nat) => some (s.physCore (hm.cp.stand r.lstand) pos, q)
  if dir = 1 then at' (r.pos - 4) 0x1A
  else if dir = 2 then at' (r.pos + 1) 0x1B
  else if dir = 3 then at' (r.pos + 4) 0x18
  else if dir = 4 then at' (r.pos - 1) 0x19
  else if dir = 5 then some (p, selfQueue opc)
  else if dir = 6 then some (s.physCore (hm.cp.stand (bitsOf x 9 4)) (bitsOf x 3 0), 0x1C)
  else none

/-- A token that fills a source. -/
def tokFor (k idx tag : Nat) (side : Bool) (t : Tok) : Bool :=
  t.ctx == k && t.tgt == idx && t.tag == tag && t.side == side

/-- The tokens that fill the sources, where every source has one. -/
def State.matchToks (s : State) (p k idx tag : Nat) : List (Nat × Bool) → Option (List Tok)
  | [] => some []
  | (q, sd) :: t =>
    match ((s.core p).queue q).find? (tokFor k idx tag sd) with
    | none => none
    | some a => (s.matchToks p k idx tag t).map (a :: ·)

/-- Result tokens of a FEVAL to a version: two with INT48 scores and K above 8 (R108, R179). -/
def fevalToks (v : Option Version) : Nat :=
  match v with | some v => if v.forest.fmt = 1 ∧ 8 < v.forest.nclass then 2 else 1 | none => 1

/-- The version that a FEVAL record of a run's program is evaluated with (R107, R128). -/
def State.fevalVer (s : State) (v : Version) (run : ArrayRun) (n : Nat) : Option Version :=
  let h := (fevalRec v.image v.prog n).1
  (s.verFor h run.stamp ((s.handle h).serving.map (·.number))).bind (s.handle h).ver

/-! A program's firings for one message are the same whatever its data (R174): which core fires which instruction with which tag
follows from the entry tokens and the routes. A planned token is (logical core, queue, target, side, tag offset). -/

/-- The planned tokens with which a message starts (R151). -/
def planEntry (v : Version) : List (Nat × Nat × Nat × Bool × Nat) :=
  let p := v.prog
  (if p.desc.1 = 0xFFFF then [] else [(p.desc.1, 0x1C, p.desc.2, false, 0)]) ++
  (List.range p.nData).map (fun j => (p.data.1, 0x1C, p.data.2, false, j)) ++
  (List.range p.nKey).map (fun j => (p.key.1, 0x1C, p.key.2, false, j))

/-- The instruction at index `idx` of logical core c of a version. -/
def planIns (v : Version) (c idx : Nat) : Ins := insOf (insWord v.image v.prog (v.crec c) idx)

/-- The logical core of a copy at a logical stand and position. -/
def planAt (v : Version) (ls pos : Nat) : Nat :=
  ((List.range v.prog.ncores).find? (fun j => (v.crec j).lstand == ls && (v.crec j).pos == pos)).getD v.prog.ncores

/-- Where a direction of an opcode leads from logical core c: a logical core and its queue. -/
def planTo (v : Version) (c opc dir x : Nat) : Option (Nat × Nat) :=
  let r := v.crec c
  if dir = 1 then some (planAt v r.lstand (r.pos - 4), 0x1A)
  else if dir = 2 then some (planAt v r.lstand (r.pos + 1), 0x1B)
  else if dir = 3 then some (planAt v r.lstand (r.pos + 4), 0x18)
  else if dir = 4 then some (planAt v r.lstand (r.pos - 1), 0x19)
  else if dir = 5 then some (c, selfQueue opc)
  else if dir = 6 then some (planAt v (bitsOf x 9 4) (bitsOf x 3 0), 0x1C)
  else none

/-- The planned tokens that a firing of instruction i of core c with tag offset `off` sends (R145, R171, R173, R179); a DMA completion is
none, since no firing of a message consumes it (R153). -/
def planSent (v : Version) (two : Nat → Nat) (c : Nat) (i : Ins) (off : Nat) : List (Nat × Nat × Nat × Bool × Nat) :=
  let o := if i.tagop = 0 then off else if i.tagop = 1 then (off + 1) % v.prog.tpm else i.x % 1024 % v.prog.tpm
  let n := if i.opc = 0x17 then 0 else if i.opc = 0x18 then two (i.fmt % 8) else 1
  i.routes.flatMap (fun r => match planTo v c i.opc r.1 i.x with
    | some d => List.replicate n (d.1, d.2, r.2.1, r.2.2, o)
    | none => []) ++
  (if i.opc = 0x15 ∨ i.opc = 0x33 then [(c, 0x1E, i.tgt, i.side, o)]
   else if i.opc = 0x18 then List.replicate n (c, 0x1D, i.tgt, i.side, o)
   else [])

/-- The firings (core, instruction, tag offset) that follow from some planned tokens, at most `fuel`. -/
def planFirings (v : Version) (two : Nat → Nat) : Nat → List (Nat × Nat × Nat × Bool × Nat) → List (Nat × Nat × Nat)
  | 0, _ => []
  | fuel + 1, toks =>
    let need := fun (t : Nat × Nat × Nat × Bool × Nat) =>
      (planIns v t.1 t.2.2.1).sources.map (fun q => (t.1, q.1, t.2.2.1, q.2, t.2.2.2.2))
    match toks.find? (fun t => !(need t).isEmpty && (need t).all toks.contains) with
    | none => []
    | some t =>
      let left := (need t).foldl List.erase toks
      (t.1, t.2.2.1, t.2.2.2.2) :: planFirings v two fuel (left ++ planSent v two t.1 (planIns v t.1 t.2.2.1) t.2.2.2.2)

/-- The tag offsets with which instruction idx of logical core c fires for one message, once for each firing. -/
def Version.planned (v : Version) (two : Nat → Nat) (c idx : Nat) : List Nat :=
  ((planFirings v two (sumBy (fun j => (v.crec j).fires) (List.range v.prog.ncores)) (planEntry v)).filter
    (fun f => f.1 == c && f.2.1 == idx)).map (·.2.2)

/-- The tag offsets with which a run has fired ORDERED instruction idx of logical core c. -/
def ArrayRun.firedOf (r : ArrayRun) (c idx : Nat) : List Nat :=
  (r.ordered.filter (fun o => o.1 == c && o.2.1 == idx)).map (fun o => tagOff r.tag o.2.2)

/-- Earlier work that an ORDERED instruction waits for in Exact mode (R141): a firing that an earlier message of the slot still owes
until its check on the core (R148), or one that its own message owes with a lower tag. -/
def State.orderedWait (s : State) (hm : Home) (idx tag : Nat) (run : ArrayRun) : Bool :=
  let owed := fun (r : ArrayRun) =>
    (r.firedOf hm.i idx).foldl List.erase (hm.v.planned (fun n => fevalToks (s.fevalVer hm.v r n)) hm.i idx)
  s.runs.any (fun e => e.2.handle == hm.h && e.2.version == hm.v.number && e.2.copy == hm.c && decide (e.2.k < run.k) &&
    !e.2.overrun && !e.2.checked.contains hm.i && !(owed e.2).isEmpty) ||
  (owed run).any (fun o => decide (o < tagOff run.tag tag))

/-- The queue entries that a firing needs (R139, R179): one for each routed token and each response. -/
def State.entriesNeeded (s : State) (p : Nat) (i : Ins) (hm : Home) (run : ArrayRun) : List (Nat × Nat) :=
  let n := if i.opc = 0x18 then fevalToks (s.fevalVer hm.v run (i.fmt % 8)) else 1
  (i.routes.filterMap (fun r => s.routeTo hm p i.opc r.1 i.x)).flatMap (List.replicate n) ++
  (if i.opc = 0x15 ∨ i.opc = 0x17 ∨ i.opc = 0x33 then [(p, 0x1E)]
   else if i.opc = 0x18 then List.replicate n (p, 0x1D)
   else [])

/-- Whether instruction idx of slot k is ready with a tag (R139, R141, R179), apart from the issue order. -/
def State.isReady (s : State) (p k idx tag : Nat) (hm : Home) (run : ArrayRun) : Bool :=
  let i := insOf (Tbl.getD ((s.core p).slot k).imem idx 0).toNat
  let need := s.entriesNeeded p i hm run
  opcListed i.opc && !i.sources.isEmpty && (s.matchToks p k idx tag i.sources).isSome &&
  need.all (fun e => s.queueFree e.1 e.2 (need.count e)) &&
  (i.opc != 0x17 || decide ((s.dmas.filter (fun d => d.2.core == p)).length < 16)) &&
  !(i.ord && run.exact && s.orderedWait hm idx tag run)

/-- The instructions ready in a core: admission tick and count of the message, then the index (R140). -/
def State.readyOrder (s : State) (p : Nat) : List (Nat × Nat × Nat × Nat × Nat) :=
  (s.core p).queues.flatMap (fun q => q.2.filterMap (fun t =>
    match s.home p t.ctx with
    | none => none
    | some hm =>
      match s.runOf hm.h hm.v.number hm.c hm.v.prog.tpm t.tag with
      | none => none
      | some (_, run) =>
        if s.isReady p t.ctx t.tgt t.tag hm run then some (run.atTick, run.k, t.tgt, t.ctx, t.tag) else none))

/-- The instruction a core issues next: the earliest admitted message's, then the lowest index (R140). -/
def issueKey (a : Nat × Nat × Nat × Nat × Nat) : Nat := (a.1 * 2 ^ 40 + a.2.1) * 256 + a.2.2.1

/-- The core issues this instruction now: nothing ready comes before it. -/
def State.issuesNow (s : State) (p : Nat) (run : ArrayRun) (idx : Nat) : Bool :=
  (s.readyOrder p).all (fun a => decide (issueKey (run.atTick, run.k, idx, 0, 0) ≤ issueKey a))

/-! ## Operands and results (R142, R143, R170, R173, R174) -/

/-- Everything a firing reads: the word, its home, its run, the tag offset, the tokens consumed, the registers; and an ECC check that
fires in it (R143). -/
structure Fire where
  i : Ins
  hm : Home
  runId : Nat
  run : ArrayRun
  p : Nat
  k : Nat
  idx : Nat
  tag : Nat
  toks : List Tok
  fr : RegFrame
  v : Tbl Vec
  bad : Bool := false
  deriving DecidableEq, Repr

/-- The register frame of a tag: (t ÷ TPM) mod 64 (R142). -/
def frameNo (tpm t : Nat) : Nat := t / tpm % 64

/-- A predicate register: p0 reads as true (R142). -/
def RegFrame.pred (f : RegFrame) (n : Nat) : Bool := if n = 0 then true else Tbl.getD f.p n false

/-- The effective predicate (R174). -/
def Fire.eff (f : Fire) : Bool := f.fr.pred f.i.psel != f.i.psense

/-- The token that filled a side. -/
def Fire.tok (f : Fire) (side : Bool) : Option Tok := f.toks.find? (fun t => t.side == side)

/-- The immediate, widened by FMT (R170). -/
def immOf (fmt x : Nat) : Nat := if fmt = 3 then unsigned 32 (signed 16 x) else if fmt = 8 then x * 65536 else x

/-- A source as a vector. -/
def Fire.src (f : Fire) (code : Nat) (side : Bool) : Vec :=
  if code < 0x10 then vecOf (Tbl.getD f.fr.s code 0).toNat
  else if code < 0x18 then Tbl.getD f.v (code - 0x10) 0
  else if code < 0x1F then (match f.tok side with | some t => t.payload | none => 0)
  else vecOf (immOf f.i.fmt f.i.x)

/-- Source A as a vector. -/
def Fire.va (f : Fire) : Vec := f.src f.i.sa false
/-- Source B as a vector. -/
def Fire.vb (f : Fire) : Vec := f.src f.i.sb true
/-- Source A as a scalar: bits 31:0. -/
def Fire.a (f : Fire) : Nat := f.va.toNat % 2 ^ 32
/-- Source B as a scalar. -/
def Fire.b (f : Fire) : Nat := f.vb.toNat % 2 ^ 32

/-- The value DST holds before the firing: zero for NONE, 0 or 1 for a predicate. -/
def Fire.prior (f : Fire) : Vec :=
  if f.i.opc = 0x0E then (if f.i.dst < 0x10 then vecOf (b2n (f.fr.pred f.i.dst)) else 0)
  else if f.i.dst < 0x10 then vecOf (Tbl.getD f.fr.s f.i.dst 0).toNat
  else if f.i.dst < 0x18 then Tbl.getD f.v (f.i.dst - 0x10) 0
  else 0

/-- DST is a context register: integer vector results wrap (R185). -/
def Fire.wraps (f : Fire) : Bool := decide (0x10 ≤ f.i.dst ∧ f.i.dst < 0x18)

/-- What a firing computes: the result, NAN and SAT set of its own. -/
structure Res where
  val : Vec
  nan : Bool := false
  sat : Bool := false
  deriving DecidableEq, Repr

/-- A result without flags. -/
def res (n : Nat) : Res := { val := vecOf n }

/-- The tag of routed tokens (R145). -/
def Fire.outTag (f : Fire) : Nat :=
  let tpm := f.hm.v.prog.tpm
  let b := f.run.tag
  (if f.i.tagop = 0 then f.tag
   else if f.i.tagop = 1 then b + (tagOff b f.tag + 1) % tpm
   else b + f.i.x % 1024 % tpm) % 65536

/-- Write the destination; NONE writes no register (Table 7-2). -/
def writeDst (sl : CoreSlot) (i : Ins) (fn : Nat) (v : Vec) : CoreSlot :=
  let fr := Tbl.getD sl.frames fn {}
  if i.opc = 0x0E then
    (if i.dst = 0 ∨ 0x10 ≤ i.dst then sl
     else { sl with frames := Tbl.put sl.frames fn { fr with p := Tbl.put fr.p i.dst (v.toNat % 2 == 1) } })
  else if i.dst < 0x10 then
    { sl with frames := Tbl.put sl.frames fn { fr with s := Tbl.put fr.s i.dst (BitVec.ofNat 32 v.toNat) } }
  else if i.dst < 0x18 then { sl with v := Tbl.put sl.v (i.dst - 0x10) v, dirty := true }
  else sl

/-- Remove one matching token from a queue. -/
def takeTok (p : Tok → Bool) : List Tok → List Tok
  | [] => []
  | a :: t => if p a then t else a :: takeTok p t

/-- Consume the matched tokens. -/
def State.consume (s : State) (p k idx tag : Nat) : List (Nat × Bool) → State
  | [] => s
  | (q, sd) :: t =>
    let c := s.core p
    State.consume (s.setCore p (c.setQueue q (takeTok (tokFor k idx tag sd) (c.queue q)))) p k idx tag t

/-- Put a token on its way. -/
def State.sendTok (s : State) (core queue run : Nat) (t : Tok) : State :=
  { s with flights := Tbl.put s.flights (freshKey s.flights) { core := core, queue := queue, run := run, tok := t } }

/-- Change a run. -/
def State.setRun (s : State) (n : Nat) (r : ArrayRun) : State := { s with runs := Tbl.put s.runs n r }

/-- The side band a firing's tokens carry (R143). -/
def Fire.tokOut (f : Fire) (v : Vec) (nan sat : Bool) (tgt : Nat) (side : Bool) : Tok :=
  { payload := v, tag := f.outTag, ctx := f.k, tgt := tgt, side := side, nan := nan || f.toks.any (·.nan),
    sat := sat || f.toks.any (·.sat), bad := f.bad || f.toks.any (·.bad) }

/-- Send the routed outputs, ROUTE0 before ROUTE1 (R171, R173). A RESULT token goes to the run's result stream. -/
def State.sendRoutes (s : State) (f : Fire) (v : Vec) (nan sat : Bool) : List (Nat × Nat × Bool) → State
  | [] => s
  | (dir, tgt, side) :: t =>
    let tk := f.tokOut v nan sat tgt side
    let s1 := match s.routeTo f.hm f.p f.i.opc dir f.i.x with
      | some (c, q) => s.sendTok c q f.runId tk
      | none => s.sendTok f.p 0x1F f.runId tk
    State.sendRoutes s1 f v nan sat t

/-- Where the second route of an opcode with a response takes it (R173). -/
def State.sinks (s : State) (f : Fire) : List Sink :=
  f.i.routes.map (fun r => match s.routeTo f.hm f.p f.i.opc r.1 f.i.x with
    | some (c, q) => ⟨c, q, r.2.1, r.2.2⟩
    | none => ⟨f.p, 0x1F, r.2.1, r.2.2⟩)

/-- Send a response on its second route: the same payload, tag and side band (R173). -/
def State.sendSinks (s : State) (run : Nat) (t : Tok) (l : List Sink) : State :=
  l.foldl (fun s k => s.sendTok k.core k.queue run { t with tgt := k.tgt, side := k.side }) s

/-- What is common to every firing: the tokens are consumed, the firing counts in FIRES. -/
def State.fired (s : State) (f : Fire) : State :=
  let s1 := s.consume f.p f.k f.idx f.tag f.i.sources
  s1.setRun f.runId { f.run with
    fires := Tbl.put f.run.fires f.hm.i (Tbl.getD f.run.fires f.hm.i 0 + 1)
    ordered := if f.i.ord then (f.hm.i, f.idx, f.tag) :: f.run.ordered else f.run.ordered }

/-- Find what a command names: an instruction of opcode `opc` that the core issues now. -/
def State.fireOf (s : State) (p k idx tag opc : Nat) : Option Fire :=
  match s.home p k with
  | none => none
  | some hm =>
    match s.runOf hm.h hm.v.number hm.c hm.v.prog.tpm tag with
    | none => none
    | some (n, run) =>
      let sl := (s.core p).slot k
      let i := insOf (Tbl.getD sl.imem idx 0).toNat
      if i.opc = opc ∧ s.isReady p k idx tag hm run ∧ s.issuesNow p run idx then
        some ⟨i, hm, n, run, p, k, idx, tag, (s.matchToks p k idx tag i.sources).getD [],
          Tbl.getD sl.frames (frameNo hm.v.prog.tpm tag) {}, sl.v, false⟩
      else none

/-- A firing reads or writes a context register (R193). -/
def Ins.usesContext (i : Ins) : Bool :=
  let v := fun (c : Nat) => decide (0x10 ≤ c ∧ c < 0x18)
  v i.sa || (i.usesB && v i.sb) || v i.dst

/-- The entries of a table that an earlier one had not. -/
def newIn {α : Type} (a b : Tbl α) : Tbl α := b.filter (fun x => !(a.map (·.1)).contains x.1)

/-- The core keeps what its last firing was: what is on its way in `t` and was not before, in `s`. -/
def State.noteFiring (s t : State) (f : Fire) : State :=
  t.setCore f.p { t.core f.p with
    last := some { slot := f.k, run := f.runId, tag := f.tag, opc := f.i.opc, context := f.i.usesContext
                   sent := (newIn s.flights t.flights).map (·.2), fevals := (newIn s.fevals t.fevals).map (·.1)
                   dmas := (newIn s.dmas t.dmas).map (·.1) } }

/-- A firing of an instruction that the core issues now (R139, R140): what is common to all, then what its opcode does. -/
def State.issue (s : State) (p k idx tag opc : Nat) (body : State → Fire → State) : State :=
  match s.fireOf p k idx tag opc with
  | none => s
  | some f => s.noteFiring (body (s.fired f) f) f

/-- A result is written to DST and routed (R173). -/
def State.writeResult (s : State) (f : Fire) (r : Res) : State :=
  let c := s.core f.p
  (s.setCore f.p (c.setSlot f.k (writeDst (c.slot f.k) f.i (frameNo f.hm.v.prog.tpm f.tag) r.val))).sendRoutes f r.val r.nan r.sat f.i.routes

/-- A register-writing firing (R173, R174): with a false effective predicate no register is written and the routed value is
what DST held. -/
def State.fireReg (s : State) (p k idx tag opc : Nat) (g : Fire → Res) (select : Bool) : State :=
  s.issue p k idx tag opc (fun s f =>
    if f.eff || select then s.writeResult f (g f) else s.sendRoutes f f.prior false false f.i.routes)

/-! ## Scalar results -/

/-- MOV. -/
def resMov (f : Fire) : Res := res f.a
/-- LI. -/
def resLi (f : Fire) : Res :=
  let x := f.i.x
  res (if f.i.md = 0 then x else if f.i.md = 1 then unsigned 32 (signed 16 x) else if f.i.md = 2 then x * 65536
    else x * 65536 + f.prior.toNat % 65536)
/-- SEL and VSEL choose by the effective predicate. -/
def resSel (f : Fire) : Res := res (if f.eff then f.a else f.b)
/-- ADD, SUB, MUL. -/
def resArith (op : Nat) (f : Fire) : Res := res (scalArith op f.i.fmt f.a f.b)
/-- MIN and MAX. -/
def resMinMax (mx : Bool) (f : Fire) : Res := res (minMax mx f.i.fmt f.a f.b)
/-- AND. -/
def resAnd (f : Fire) : Res := res (f.a &&& f.b)
/-- OR. -/
def resOr (f : Fire) : Res := res (f.a ||| f.b)
/-- XOR. -/
def resXor (f : Fire) : Res := res (f.a ^^^ f.b)
/-- SHL. -/
def resShl (f : Fire) : Res := res (f.a * 2 ^ (f.b % 32) % 2 ^ 32)
/-- SHR, with zero or sign fill. -/
def resShr (f : Fire) : Res :=
  res (if f.i.md = 1 then unsigned 32 (signed 32 f.a / (2 ^ (f.b % 32) : Nat)) else f.a / 2 ^ (f.b % 32))
/-- CMP. -/
def resCmp (f : Fire) : Res := res (b2n (condOf f.i.md f.i.fmt f.a f.b))
/-- FMA: A × B + d with one rounding. -/
def resFma (f : Fire) : Res :=
  res (flBits 8 (flSum [flMul (flOf 8 f.a) (flOf 8 f.b), flOf 8 (f.prior.toNat % 2 ^ 32)]) false false).1
/-- CVT. -/
def resCvt (f : Fire) : Res :=
  let r := cvt f.i.fmt f.i.sb (f.i.md.testBit 0) (f.i.md.testBit 1) (f.a % 2 ^ fmtWidth f.i.fmt)
  { val := vecOf r.1, sat := r.2 }
/-- KEY (R187). -/
def resKey (f : Fire) : Res :=
  let r := keyOf f.i.fmt (f.a % 2 ^ (8 * keyWidth f.i.fmt))
  { val := vecOf r.1, nan := r.2 }
/-- SFN. -/
def resSfn (f : Fire) : Res := res (sfn32 f.i.sb f.a)
/-- TAG. -/
def resTag (f : Fire) : Res := res (tagOff f.run.tag f.tag)
/-- BSWAP. -/
def resBswap (f : Fire) : Res := res (beVal (leBytes 4 f.a))

/-! ## Vector results -/

/-- VMOV. -/
def resVmov (f : Fire) : Res := { val := f.va }
/-- VSEL. -/
def resVsel (f : Fire) : Res := { val := if f.eff then f.va else f.vb }
/-- VADD, VSUB, VMUL. -/
def resVarith (op : Nat) (f : Fire) : Res :=
  let r := vmap2 f.i.fmt (elemArith op f.i.fmt f.wraps) f.va f.vb
  { val := r.1, sat := r.2 }
/-- VMIN and VMAX. -/
def resVminMax (mx : Bool) (f : Fire) : Res :=
  { val := (vmap2 f.i.fmt (fun a b => (minMax mx f.i.fmt a b, false)) f.va f.vb).1 }
/-- VAND. -/
def resVand (f : Fire) : Res := { val := f.va &&& f.vb }
/-- VOR. -/
def resVor (f : Fire) : Res := { val := f.va ||| f.vb }
/-- VXOR. -/
def resVxor (f : Fire) : Res := { val := f.va ^^^ f.vb }
/-- VDOT: accumulators from d, zero when d is NONE. -/
def resVdot (f : Fire) : Res :=
  let r := vdot f.i.fmt f.wraps f.prior f.va f.vb
  { val := r.1, sat := r.2 }
/-- VRED. -/
def resVred (f : Fire) : Res :=
  let r := vred f.i.md f.i.fmt f.va
  { val := vecOf r.1, sat := r.2 }
/-- VCMP: all ones where COND holds. -/
def resVcmp (f : Fire) : Res :=
  { val := (vmap2 f.i.fmt (fun a b => (if condOf f.i.md f.i.fmt a b then 2 ^ fmtWidth f.i.fmt - 1 else 0, false)) f.va f.vb).1 }
/-- VCVT (R180): N elements of the wider format, from element PART × N. -/
def resVcvt (f : Fire) : Res :=
  let src := f.i.fmt
  let dst := f.i.sb
  let n := 512 / max (fmtWidth src) (fmtWidth dst)
  let r := (List.range n).map (fun j => cvt src dst (f.i.md.testBit 0) (f.i.md.testBit 1)
    (elem f.va (fmtWidth src) (f.i.x % 8 * n + j)))
  { val := vecOf (packElems (fmtWidth dst) (r.map (·.1))), sat := r.any (·.2) }
/-- VKEY (R187). -/
def resVkey (f : Fire) : Res :=
  let w := keyWidth f.i.fmt
  let n := if w = 4 then 16 else 32
  let r := (List.range n).map (fun j => keyOf f.i.fmt (elem f.va (8 * w) ((if w = 1 then f.i.x % 2 * 32 else 0) + j)))
  { val := vecOf (packElems 16 (r.map (·.1))), nan := r.any (·.2) }
/-- VSFN. -/
def resVsfn (f : Fire) : Res :=
  { val := (vmap2 f.i.fmt (fun a _ => (sfnElem f.i.sb f.i.fmt a, false)) f.va 0).1 }
/-- VINS: element X takes the low bits of scalar B. -/
def resVins (f : Fire) : Res :=
  let w := fmtWidth f.i.fmt
  let o := w * f.i.x
  res (f.va.toNat - elem f.va w f.i.x * 2 ^ o + f.b % 2 ^ w * 2 ^ o)
/-- VEXT: element X, sign-extended. -/
def resVext (f : Fire) : Res :=
  res (unsigned 32 (signed (fmtWidth f.i.fmt) (elem f.va (fmtWidth f.i.fmt) f.i.x)))
/-- VBCAST. -/
def resVbcast (f : Fire) : Res :=
  let w := fmtWidth f.i.fmt
  res (packElems w (List.replicate (512 / w) (f.a % 2 ^ w)))

/-! ## Stand memory (R188 to R190) -/

/-- Where n bytes at a core's address lie in its die's SRAM, none when any is out of range (Table 7-12); the state region
of a sequence model is out of range to a core whose STATE bit is clear (R196). -/
def State.standAddr (s : State) (hm : Home) (p a n : Nat) : Option (List (Nat × Nat)) :=
  let r := hm.v.crec hm.i
  let pr := hm.v.prog
  let ctxEnd := pr.stateOff + pr.ctxPer * pr.stateBytes
  if a + n ≤ 65536 - r.ext then some [(coreBase p + a, n)]
  else if 0x100000 ≤ a ∧ a + n ≤ 0x100000 + pr.standMem then
    if hm.v.kind = 2 ∧ !r.state ∧ pr.stateOff < a - 0x100000 + n ∧ a - 0x100000 < ctxEnd then none
    else some (s.standSpans hm.cp r.lstand (a - 0x100000) n)
  else none

/-- The message of a run has a bad unit-check verdict (R37). -/
def State.runBad (s : State) (n : Nat) : State :=
  match Tbl.find s.runs n with
  | none => s
  | some r => s.setRun n { r with bad := true }

/-- An access out of range: the message's verdict is bad and MEM_RANGE is posted with the core and the address. -/
def State.memRange (s : State) (f : Fire) (a : Nat) : State :=
  (s.runBad f.runId).post (11 + f.p / 1224) 3 [(f.p % 1224, 16), (a, 32)]

/-- An address lies in the state region of a sequence model (R196). -/
def inState (hm : Home) (a n : Nat) : Bool :=
  hm.v.kind == 2 && decide (0x100000 + hm.v.prog.stateOff < a + n ∧
    a < 0x100000 + hm.v.prog.stateOff + hm.v.prog.ctxPer * hm.v.prog.stateBytes)

/-- A read of n bytes at an address: what it returns, and the firing with what the ECC check found. An uncorrectable word sets BAD
on the firing's tokens and makes the message's verdict bad, and in a state region the context has lost state (R143, Table 14-7, R204). -/
def State.standRead (s : State) (f : Fire) (a n : Nat) : State × List Byte × Fire :=
  match s.standAddr f.hm f.p a n with
  | none => (s.memRange f a, List.replicate n 0, f)
  | some o =>
    let d := s.die (f.p / 1224)
    let ue := o.any (fun r => d.sramBad r.1 r.2)
    let s1 := if ue then s.runBad f.runId else s
    let s2 := match f.run.ctx with
      | some k => if ue && inState f.hm a n then s1.ctxFail k 2 f.run.pos else s1
      | none => s1
    (s2, d.sram.readSpans o, { f with bad := f.bad || ue })

/-- Write ranges of a die's SRAM: a word written whole is good again (R342). -/
def DieSt.writeSpans (x : DieSt) (o : List (Nat × Nat)) (b : List Byte) : DieSt :=
  { x with sram := x.sram.writeSpans o b
           sramUe := x.sramUe.filter (fun w => !(o.any (fun r => decide (r.1 ≤ w * 4 ∧ w * 4 + 4 ≤ r.1 + r.2)))) }

/-- A write of bytes at an address. -/
def State.standWrite (s : State) (f : Fire) (a : Nat) (b : List Byte) : State :=
  match s.standAddr f.hm f.p a b.length with
  | none => s.memRange f a
  | some o =>
    let c := s.core f.p
    -- a write to local SRAM leaves the slot no longer clean (R354)
    let s := if a < 65536 then s.setCore f.p (c.setSlot f.k { c.slot f.k with dirty := true }) else s
    s.setDie (f.p / 1224) ((s.die (f.p / 1224)).writeSpans o b)

/-- LD and VLD (R188, R174): the response enters qm. -/
def State.fireLoad (s : State) (p k idx tag opc n : Nat) : State :=
  s.issue p k idx tag opc (fun s f =>
    let a := (f.a + f.i.x) % 2 ^ 32 / n * n
    let r := if f.eff then s.standRead f a n else (s, [], f)
    r.1.sendTok p 0x1E f.runId (r.2.2.tokOut (vecOf (leVal r.2.1)) false false f.i.tgt f.i.side))

/-- ST and VST (R188): what a route of a store carries with a true predicate is a value of the operands that the spec does not give
(log 15), and zero with a false one (Table 7-4). -/
def State.fireStore (s : State) (p k idx tag opc n : Nat) : State :=
  s.issue p k idx tag opc (fun s f =>
    let a := (f.a + f.i.x) % 2 ^ 32 / n * n
    (if f.eff then s.standWrite f a (leBytes n f.vb.toNat) else s).sendRoutes f
      (if f.eff then vecOf (Config.storeRoute opc f.a f.vb.toNat) else 0) false false f.i.routes)

/-- LUT (R178): entry i of the table at local SRAM byte X × 64; NAN and SAT are none of its own. -/
def State.fireLut (s : State) (p k idx tag : Nat) : State :=
  s.issue p k idx tag 0x13 (fun s f =>
    let w := fmtWidth f.i.fmt / 8
    let i := if f.i.md = 1 then (max 0 (min 255 (signed 32 f.a))).toNat else f.a % 256
    let r := f.hm.v.crec f.hm.i
    if f.eff then
      let far := decide (65536 - r.ext < f.i.x * 64 + 256 * w)
      let rd := if far then (s.memRange f (f.i.x * 64), List.replicate w 0, f) else s.standRead f (f.i.x * 64 + i * w) w
      let v := leVal rd.2.1
      rd.1.writeResult rd.2.2 (res (if f.i.fmt = 1 ∨ f.i.fmt = 2 then unsigned 32 (signed (8 * w) v) else v))
    else s.sendRoutes f f.prior false false f.i.routes)

/-- Ranges, as (base, end), cover the bytes from a up to e between them: each takes on from where one that reached farthest ended. -/
def covers (gs : List (Nat × Nat)) : Nat → Nat → Nat → Bool
  | 0, a, e => decide (e ≤ a)
  | fuel + 1, a, e =>
    decide (e ≤ a) ||
      (let far := ((gs.filter (fun g => decide (g.1 ≤ a))).map (·.2)).foldl max a
       decide (a < far) && covers gs fuel far e)

/-- The grants of a handle (R340) cover a device range between them: w0 to w2 of GCTL_GRANT give VALID, WR, HANDLE, BASE and LEN in
units of 64 KB. -/
def State.granted (s : State) (h a len : Nat) (wr : Bool) : Bool :=
  covers ((List.range 64).filterMap (fun n =>
    let w0 := s.cfgW (Reg.GCTL_GRANT_w0 n)
    let base := (s.cfgW (Reg.GCTL_GRANT_w1 n)).toNat * 65536
    if bitAt w0 31 && (!wr || bitAt w0 30) && fld w0 9 0 == h then
      some (base, base + (s.cfgW (Reg.GCTL_GRANT_w2 n)).toNat * 65536)
    else none)) 64 a (a + len)

/-- DMA (R189): a transfer starts; its completion token enters qm, and takes its second route, when it is done. A false predicate makes no
transfer; a length of 0 makes an empty one that completes like any other (DESIGN CHOICE, log 175). -/
def State.fireDma (s : State) (p k idx tag : Nat) : State :=
  s.issue p k idx tag 0x17 (fun s f =>
    let dev := f.a * 64
    let len := f.b / 65536 * 64
    let sa := f.b % 65536 * 64
    let wr := f.i.md.testBit 0
    -- the completion token has the firing's own tag
    let tok := fun (n : Nat) => { f.tokOut (vecOf n) false false f.i.tgt f.i.side with tag := f.tag }
    let now := fun (s : State) (n : Nat) => (s.sendTok p 0x1E f.runId (tok n)).sendSinks f.runId (tok n) (s.sinks f)
    let t := tok 0
    if f.eff then
      match s.standAddr f.hm p sa len with
      | some o =>
        if s.granted f.hm.h dev len wr ∧ dev + len ≤ dramEnd then
          let x : StandDma := { core := p, slot := k, run := f.runId, tag := t.tag, tgt := t.tgt, side := t.side, nan := t.nan, sat := t.sat
                                bad := t.bad, toDram := wr, dev := dev, sram := o, own := decide (sa < 65536), len := len
                                also := s.sinks f }
          { s with dmas := Tbl.put s.dmas (freshKey s.dmas) x }
        else now (s.memRange f (dev / 64)) (len / 64)
      | none => now (s.memRange f sa) (len / 64)
    else now s 0)

/-! ## The opcodes -/

/-- MOV (R178). -/
def execOpMov (core slot idx tag : Nat) (s : State) : Host.Outcome State Fault Refusal :=
  .next (s.fireReg core slot idx tag 0x01 resMov false)
/-- LI (R178). -/
def execOpLi (core slot idx tag : Nat) (s : State) : Host.Outcome State Fault Refusal :=
  .next (s.fireReg core slot idx tag 0x02 resLi false)
/-- SEL (R174). -/
def execOpSel (core slot idx tag : Nat) (s : State) : Host.Outcome State Fault Refusal :=
  .next (s.fireReg core slot idx tag 0x03 resSel true)
/-- ADD (R180, R181). -/
def execOpAdd (core slot idx tag : Nat) (s : State) : Host.Outcome State Fault Refusal :=
  .next (s.fireReg core slot idx tag 0x04 (resArith 0) false)
/-- SUB (R180, R181). -/
def execOpSub (core slot idx tag : Nat) (s : State) : Host.Outcome State Fault Refusal :=
  .next (s.fireReg core slot idx tag 0x05 (resArith 1) false)
/-- MUL (R180, R181). -/
def execOpMul (core slot idx tag : Nat) (s : State) : Host.Outcome State Fault Refusal :=
  .next (s.fireReg core slot idx tag 0x06 (resArith 2) false)
/-- MIN (R182). -/
def execOpMin (core slot idx tag : Nat) (s : State) : Host.Outcome State Fault Refusal :=
  .next (s.fireReg core slot idx tag 0x07 (resMinMax false) false)
/-- MAX (R182). -/
def execOpMax (core slot idx tag : Nat) (s : State) : Host.Outcome State Fault Refusal :=
  .next (s.fireReg core slot idx tag 0x08 (resMinMax true) false)
/-- AND (R178). -/
def execOpAnd (core slot idx tag : Nat) (s : State) : Host.Outcome State Fault Refusal :=
  .next (s.fireReg core slot idx tag 0x09 resAnd false)
/-- OR (R178). -/
def execOpOr (core slot idx tag : Nat) (s : State) : Host.Outcome State Fault Refusal :=
  .next (s.fireReg core slot idx tag 0x0A resOr false)
/-- XOR (R178). -/
def execOpXor (core slot idx tag : Nat) (s : State) : Host.Outcome State Fault Refusal :=
  .next (s.fireReg core slot idx tag 0x0B resXor false)
/-- SHL (R180). -/
def execOpShl (core slot idx tag : Nat) (s : State) : Host.Outcome State Fault Refusal :=
  .next (s.fireReg core slot idx tag 0x0C resShl false)
/-- SHR (R180). -/
def execOpShr (core slot idx tag : Nat) (s : State) : Host.Outcome State Fault Refusal :=
  .next (s.fireReg core slot idx tag 0x0D resShr false)
/-- CMP (R182). -/
def execOpCmp (core slot idx tag : Nat) (s : State) : Host.Outcome State Fault Refusal :=
  .next (s.fireReg core slot idx tag 0x0E resCmp false)
/-- FMA (R178). -/
def execOpFma (core slot idx tag : Nat) (s : State) : Host.Outcome State Fault Refusal :=
  .next (s.fireReg core slot idx tag 0x0F resFma false)
/-- CVT (R180). -/
def execOpCvt (core slot idx tag : Nat) (s : State) : Host.Outcome State Fault Refusal :=
  .next (s.fireReg core slot idx tag 0x10 resCvt false)
/-- KEY (R187). -/
def execOpKey (core slot idx tag : Nat) (s : State) : Host.Outcome State Fault Refusal :=
  .next (s.fireReg core slot idx tag 0x11 resKey false)
/-- SFN (R186). -/
def execOpSfn (core slot idx tag : Nat) (s : State) : Host.Outcome State Fault Refusal :=
  .next (s.fireReg core slot idx tag 0x12 resSfn false)
/-- TAG (R178). -/
def execOpTag (core slot idx tag : Nat) (s : State) : Host.Outcome State Fault Refusal :=
  .next (s.fireReg core slot idx tag 0x14 resTag false)
/-- BSWAP (R178). -/
def execOpBswap (core slot idx tag : Nat) (s : State) : Host.Outcome State Fault Refusal :=
  .next (s.fireReg core slot idx tag 0x19 resBswap false)
/-- VMOV (R178). -/
def execOpVmov (core slot idx tag : Nat) (s : State) : Host.Outcome State Fault Refusal :=
  .next (s.fireReg core slot idx tag 0x20 resVmov false)
/-- VSEL (R174). -/
def execOpVsel (core slot idx tag : Nat) (s : State) : Host.Outcome State Fault Refusal :=
  .next (s.fireReg core slot idx tag 0x21 resVsel true)
/-- VADD (R180, R181, R185). -/
def execOpVadd (core slot idx tag : Nat) (s : State) : Host.Outcome State Fault Refusal :=
  .next (s.fireReg core slot idx tag 0x22 (resVarith 0) false)
/-- VSUB (R180, R181, R185). -/
def execOpVsub (core slot idx tag : Nat) (s : State) : Host.Outcome State Fault Refusal :=
  .next (s.fireReg core slot idx tag 0x23 (resVarith 1) false)
/-- VMUL (R180, R181, R185). -/
def execOpVmul (core slot idx tag : Nat) (s : State) : Host.Outcome State Fault Refusal :=
  .next (s.fireReg core slot idx tag 0x24 (resVarith 2) false)
/-- VMIN (R182). -/
def execOpVmin (core slot idx tag : Nat) (s : State) : Host.Outcome State Fault Refusal :=
  .next (s.fireReg core slot idx tag 0x25 (resVminMax false) false)
/-- VMAX (R182). -/
def execOpVmax (core slot idx tag : Nat) (s : State) : Host.Outcome State Fault Refusal :=
  .next (s.fireReg core slot idx tag 0x26 (resVminMax true) false)
/-- VAND (R178). -/
def execOpVand (core slot idx tag : Nat) (s : State) : Host.Outcome State Fault Refusal :=
  .next (s.fireReg core slot idx tag 0x27 resVand false)
/-- VOR (R178). -/
def execOpVor (core slot idx tag : Nat) (s : State) : Host.Outcome State Fault Refusal :=
  .next (s.fireReg core slot idx tag 0x28 resVor false)
/-- VXOR (R178). -/
def execOpVxor (core slot idx tag : Nat) (s : State) : Host.Outcome State Fault Refusal :=
  .next (s.fireReg core slot idx tag 0x29 resVxor false)
/-- VDOT (R183). -/
def execOpVdot (core slot idx tag : Nat) (s : State) : Host.Outcome State Fault Refusal :=
  .next (s.fireReg core slot idx tag 0x2A resVdot false)
/-- VRED (R184). -/
def execOpVred (core slot idx tag : Nat) (s : State) : Host.Outcome State Fault Refusal :=
  .next (s.fireReg core slot idx tag 0x2B resVred false)
/-- VCMP (R182). -/
def execOpVcmp (core slot idx tag : Nat) (s : State) : Host.Outcome State Fault Refusal :=
  .next (s.fireReg core slot idx tag 0x2C resVcmp false)
/-- VCVT (R180). -/
def execOpVcvt (core slot idx tag : Nat) (s : State) : Host.Outcome State Fault Refusal :=
  .next (s.fireReg core slot idx tag 0x2D resVcvt false)
/-- VKEY (R187). -/
def execOpVkey (core slot idx tag : Nat) (s : State) : Host.Outcome State Fault Refusal :=
  .next (s.fireReg core slot idx tag 0x2E resVkey false)
/-- VSFN (R186). -/
def execOpVsfn (core slot idx tag : Nat) (s : State) : Host.Outcome State Fault Refusal :=
  .next (s.fireReg core slot idx tag 0x2F resVsfn false)
/-- VINS (R178). -/
def execOpVins (core slot idx tag : Nat) (s : State) : Host.Outcome State Fault Refusal :=
  .next (s.fireReg core slot idx tag 0x30 resVins false)
/-- VEXT (R178). -/
def execOpVext (core slot idx tag : Nat) (s : State) : Host.Outcome State Fault Refusal :=
  .next (s.fireReg core slot idx tag 0x31 resVext false)
/-- VBCAST (R178). -/
def execOpVbcast (core slot idx tag : Nat) (s : State) : Host.Outcome State Fault Refusal :=
  .next (s.fireReg core slot idx tag 0x32 resVbcast false)
/-- LUT (R178, R188). -/
def execOpLut (core slot idx tag : Nat) (s : State) : Host.Outcome State Fault Refusal :=
  .next (s.fireLut core slot idx tag)
/-- LD (R188). -/
def execOpLd (core slot idx tag : Nat) (s : State) : Host.Outcome State Fault Refusal :=
  .next (s.fireLoad core slot idx tag 0x15 4)
/-- ST (R188). -/
def execOpSt (core slot idx tag : Nat) (s : State) : Host.Outcome State Fault Refusal :=
  .next (s.fireStore core slot idx tag 0x16 4)
/-- DMA (R189). -/
def execOpDma (core slot idx tag : Nat) (s : State) : Host.Outcome State Fault Refusal :=
  .next (s.fireDma core slot idx tag)
/-- VLD (R188). -/
def execOpVld (core slot idx tag : Nat) (s : State) : Host.Outcome State Fault Refusal :=
  .next (s.fireLoad core slot idx tag 0x33 64)
/-- VST (R188). -/
def execOpVst (core slot idx tag : Nat) (s : State) : Host.Outcome State Fault Refusal :=
  .next (s.fireStore core slot idx tag 0x34 64)

end Sys2Proof.Machine
end

