-- ==== Sys2Proof/Machine/Forest.lean ====
section
/-! DEFINITION. Forest evaluation (R81 to R97) and FEVAL (R105 to R108). -/
namespace Sys2Proof.Machine

/-! ## Traversal (R81 to R87) -/

/-- The child index after d − k more levels from node i of tree j: the leaf a sample reaches (R85). -/
def walk (b : List Byte) (base : Nat) (key : Nat → Nat) : Nat → Nat → Nat
  | 0, i => i
  | n + 1, i =>
    let w := leAt b (base + 4 * i) 4
    let right := w % 16 == 0 && decide (bitsOf w 19 4 ≤ key (bitsOf w 31 20))
    walk b base key n (2 * i + 1 + b2n right)

/-- The leaf index that a sample reaches in tree j. -/
def leafOf (b : List Byte) (f : ForestHdr) (key : Nat → Nat) (j : Nat) : Nat :=
  walk b (f.node + j * (2 ^ f.depth - 1) * 4) key f.depth 0 - (2 ^ f.depth - 1)

/-- The leaf word that a sample reaches in tree j. -/
def leafWord (b : List Byte) (f : ForestHdr) (key : Nat → Nat) (j : Nat) : Nat :=
  leAt b (f.leaf + (j * 2 ^ f.depth + leafOf b f key j) * 4) 4

/-- The full tree's node that node t of the subtree of lane i of a group is (R90): its level k and position p are those of t. -/
def laneNode (f : ForestHdr) (i t : Nat) : Nat :=
  let k := Nat.log2 (t + 1)
  2 ^ (f.depth - 8 + k) - 1 + i * 2 ^ k + (t + 1 - 2 ^ k)

/-- Word w of lane image `img` of a forest (Table 4-4, R90): node words, the crown word, leaf words. -/
def imageWord (b : List Byte) (f : ForestHdr) (img w : Nat) : Nat :=
  let j := img / f.g
  let i := img % f.g
  let node := fun n => leAt b (f.node + (j * (2 ^ f.depth - 1) + n) * 4) 4
  let leaf := fun m => leAt b (f.leaf + (j * 2 ^ f.depth + m) * 4) 4
  if w < 255 then (if 8 < f.depth then node (laneNode f i w) else if w < 2 ^ f.depth - 1 then node w else 0)
  else if w = 255 then (if i + 1 < f.g then node i else 0)
  else if 8 < f.depth then leaf (i * 256 + (w - 256))
  else if w - 256 < 2 ^ f.depth then leaf (w - 256) else 0

/-- The version and the lane image that a stationary copy keeps in logical lane l of engine e of a die (R84, R122). -/
def State.laneHeld (s : State) (d e l : Nat) : Option (Version × Nat) :=
  s.allVersions.findSome? (fun hv => hv.2.fcopies.findSome? (fun c =>
    if c.2.out then none
    else (c.2.lanes.find? (fun x => x.1 == d && x.2.1 == e && x.2.2.1 == l)).map (fun x => (hv.2, x.2.2.2))))

/-- Slot n of a sample: slots of W or more are never read, an unwritten slot reads zero (R72, R86). -/
def sampleKey (t : Tbl Nat) (n : Nat) : Nat := Tbl.getD t n 0

/-! ## Summation (R93 to R95) -/

/-- Balanced pairwise sums until one value is left, at most `fuel` levels. -/
def pairSum {α : Type} (g : α → α → α) : Nat → List α → List α
  | 0, l => l
  | fuel + 1, l => pairSum g fuel (pairUp g l)

/-- Pad to a power of two. -/
def padPow2 {α : Type} (z : α) (l : List α) : List α := l ++ List.replicate (pow2Above l.length - l.length) z

/-- The FP32 score of a class (R93, R94). -/
def scoreF (leaves : List Nat) (base : Nat) : Nat :=
  fadd32 ((pairSum fadd32 24 (padPow2 0 leaves)).headD 0) base

/-- A 48-bit saturating addition (R95), with the flag. -/
def addSat48 (a b : Int × Bool) : Int × Bool :=
  let x := a.1 + b.1
  let y := max (-(2 ^ 47)) (min (2 ^ 47 - 1) x)
  (y, a.2 || b.2 || y != x)

/-- The INT48 score of a class. -/
def scoreI (leaves : List Nat) (base : Nat) : Int × Bool :=
  addSat48 ((pairSum addSat48 24 (padPow2 (0, false) (leaves.map (fun v => (signed 32 v, false))))).headD (0, false))
    (signed 32 base, false)

/-- The result of a forest: FP32 or INT48 scores, the class with the largest, and SAT. -/
structure Scores where
  fp : Bool
  bits : List Nat
  top : Nat
  sat : Bool
  deriving DecidableEq, Repr

/-- A FP32 score is larger than another: a NaN ranks above every number, zeros are equal (R97). -/
def scoreAbove (fp : Bool) (a b : Nat) : Bool :=
  if fp then
    let x := flOf 8 a
    let y := flOf 8 b
    if y == .nan then false else x == .nan || flLt y x
  else decide (signed 64 b < signed 64 a)

/-- The lowest class with the largest score. -/
def topOf (fp : Bool) (l : List Nat) : Nat :=
  ((List.range l.length).foldl (fun m c => if scoreAbove fp (l.getD c 0) (l.getD m 0) then c else m) 0)

/-- Evaluate a forest on a sample (R93). -/
def evalForest (b : List Byte) (f : ForestHdr) (key : Nat → Nat) : Scores :=
  let lv := fun c => (classTrees b f c).map (leafWord b f key)
  let bs := fun c => leAt b (f.base + 4 * c) 4
  if f.fmt = 0 then
    let l := (List.range f.nclass).map (fun c => scoreF (lv c) (bs c))
    ⟨true, l, topOf true l, false⟩
  else
    let r := (List.range f.nclass).map (fun c => scoreI (lv c) (bs c))
    let l := r.map (fun x => unsigned 64 x.1)
    ⟨false, l, topOf false l, r.any (·.2)⟩

/-- The forest result block (Table 4-5). -/
def Scores.block (r : Scores) : List Byte :=
  [if r.fp then 1 else 2, BitVec.ofNat 8 r.bits.length, BitVec.ofNat 8 r.top, 0] ++
  r.bits.flatMap (fun x => beBytes (if r.fp then 4 else 8) x)

/-- The payloads of a FEVAL result (R108). -/
def Scores.tokens (r : Scores) : List Vec :=
  if r.fp then [vecOf (packElems 32 r.bits)]
  else if r.bits.length ≤ 8 then [vecOf (packElems 64 r.bits)]
  else [vecOf (packElems 64 (r.bits.take 8)), vecOf (packElems 64 (r.bits.drop 8))]

/-! ## FEVAL (R105 to R108) -/

/-- A forest version has a stationary copy in service: RESIDENT with a copy (R105; a SPLIT model counts as having none). -/
def Version.stationary (v : Version) : Bool :=
  v.kind == 0 && v.mode == 0 && v.fcopies.any (fun c => !c.2.out)

/-- The copy that FEVAL goes to from a die: its own, else the lowest-numbered (R105), among those that no repair has withdrawn. -/
def Version.fevalHome (v : Version) (d : Nat) : Option (Nat × FCopy) :=
  let live := v.fcopies.filter (fun c => !c.2.out)
  match live.find? (fun c => c.2.lanes.all (fun l => l.1 == d)) with
  | some c => some c
  | none => live.head?

/-- The copy that serves a FEVAL from a die now: of the copies that no failed lane has stopped (R104, R105). -/
def Version.fevalCopy (v : Version) (d : Nat) : Option (Nat × FCopy) :=
  Version.fevalHome { v with fcopies := v.fcopies.filter (fun c => c.2.stopped == 0) } d

/-- The lanes of a copy of a version, or of its batch part, are rewritten where they are uncorrectable before a sample uses them
(Table 14-7). -/
def State.rewriteLanes (s : State) (v : Version) (copy : Option Nat) : State :=
  if s.dies.all (fun d => d.2.sramUe.isEmpty) then s
  else
    let ls : List (Nat × Nat × Nat) := match copy.bind (Tbl.find v.fcopies) with
      | some c => c.lanes.map (fun l => (l.1, l.2.1, l.2.2.1))
      | none => match v.part with | some p => p.lanes | none => []
    ls.foldl (fun s l => s.rewriteLane l.1 l.2.1 l.2.2) s

/-- The sample of a FEVAL (R190): inline, slots 0 to 31; or slots 0 to W − 1 from local SRAM. -/
def State.fevalSample (s : State) (f : Fire) (w : Nat) : State × Tbl Nat × Fire :=
  if f.i.md.testBit 0 then
    let r := s.standRead f (f.a % 65536) (2 * w)
    (r.1, (List.range w).map (fun n => (n, leAt r.2.1 (2 * n) 2)), r.2.2)
  else (s, (List.range 32).map (fun n => (n, elem f.va 16 n)), f)

/-- FEVAL (R105, R106, R174, R190): a sample is sent; its result waits for its tick, and the run keeps the version that it took. With no stationary copy to serve it the result
is zero with BAD set, and MODEL_DEGRADED is posted (log 129). -/
def State.fireFeval (s : State) (p k idx tag : Nat) : State :=
  s.issue p k idx tag 0x18 (fun s1 f =>
    let rc := fevalRec f.hm.v.image f.hm.v.prog (f.i.fmt % 8)
    let nan := match f.tok false with | some t => t.nan | none => false
    let bad := f.toks.any (·.bad)
    let ver := s1.fevalVer f.hm.v f.run (f.i.fmt % 8)
    let put := fun (s : State) (pl : List Vec) (top : Nat) (nan sat bad : Bool) (n : Nat) (copy : Option Nat) =>
      { s with fevals := Tbl.put s.fevals (freshKey s.fevals)
                ⟨p, k, f.outTag, f.i.tgt, f.i.side, f.runId, rc.1, n, s1.time.tick, rc.2.2, pl, top, nan, sat, bad, copy, s1.sinks f⟩ }
    let zeros : List Vec := List.replicate (fevalToks ver) 0
    let s2 :=
      if !f.eff then put s1 zeros 0 (f.toks.any (·.nan)) (f.toks.any (·.sat)) bad 0 none
      else
        match ver with
        | none => put s1 zeros 0 nan (f.toks.any (·.sat)) true 0 none
        | some v =>
          match v.fevalCopy (p / 1224), v.stationary with
          | some (cn, _), true =>
            let sm := (s1.rewriteLanes v (some cn)).fevalSample f v.forest.width
            let r := evalForest v.image v.forest (sampleKey sm.2.1)
            let s3 := put sm.1 r.tokens r.top nan (r.sat || f.toks.any (·.sat)) (bad || sm.2.2.bad) v.number (some cn)
            -- the sample takes its cyc of the copy ahead of the bucker's samples in the tick
            s3.modVer rc.1 v.number (fun v => { v with
              fcopies := Tbl.modify v.fcopies cn (fun c =>
                if c.tickAt = s1.time.tick then { c with taken := c.taken + 1 } else { c with tickAt := s1.time.tick, taken := 1 }) })
          | _, _ => (put s1 zeros 0 nan (f.toks.any (·.sat)) true v.number none).degraded rc.1 v
    match Tbl.find s2.runs f.runId, ver with
    | some r, some v => s2.setRun f.runId { r with fevalVers := Tbl.put r.fevalVers (f.i.fmt % 8) v.number }
    | _, _ => s2)

/-- FEVAL (R190). -/
def execOpFeval (core slot idx tag : Nat) (s : State) : Host.Outcome State Fault Refusal :=
  .next (s.fireFeval core slot idx tag)

end Sys2Proof.Machine
end

