-- ==== Sys2Proof/Machine/Msg.lean ====
section
/-! DEFINITION. Message slots, conversation entries and the replay cache (R38, R76, R242 to R249), and the end of a
message. -/
namespace Sys2Proof.Machine

/-! ## Slots -/

/-- Change a message. -/
def State.setMsg (s : State) (n : Nat) (m : Msg) : State := { s with msgs := Tbl.put s.msgs n m }
/-- Change a reply. -/
def State.setReply (s : State) (n : Nat) (r : Reply) : State := { s with replies := Tbl.put s.replies n r }
/-- A conversation entry. -/
def State.conv (s : State) (c : Nat) : Conv := Tbl.getD s.convs c {}
/-- Change a conversation entry. -/
def State.setConv (s : State) (c : Nat) (x : Conv) : State := { s with convs := Tbl.put s.convs c x }

/-- Distance of a sequence number above a base, modulo 2^32. -/
def seqDist (a b : Nat) : Nat := (a + 2 ^ 32 - b % 2 ^ 32) % 2 ^ 32

/-- Messages of conversation c, in its entry's incarnation, that are in progress and have stepped the entry. -/
def State.convMsgs (s : State) (c : Nat) : Tbl Msg :=
  s.msgs.filter (fun m => m.2.org.desc.conv == some c && m.2.step.isSome && m.2.org.desc.inc == (s.conv c).inc)

/-- Sequence number q of conversation c is in progress. -/
def State.inProgress (s : State) (c q : Nat) : Bool := (s.convMsgs c).any (fun m => m.2.org.desc.sq == q)

/-- Units of a content (R249). -/
def cacheUnits (n : Nat) : Nat := ceilDiv n 64

/-- Replay-cache units in use: stored replies and reservations. -/
def State.cacheUsed (s : State) : Nat :=
  sumBy (fun c => sumBy (fun e => cacheUnits e.2.content.length) c.2) s.cache + sumBy (fun m => m.2.units) s.msgs

/-- The cached replies of a conversation. -/
def State.cacheOf (s : State) (c : Nat) : Tbl Cached := Tbl.getD s.cache c []
/-- Change the cached replies of a conversation. -/
def State.setCache (s : State) (c : Nat) (x : Tbl Cached) : State :=
  { s with cache := if x = [] then Tbl.del s.cache c else Tbl.put s.cache c x }

/-- Move the base of an entry forward: DONE bits and cached replies below it go (R245, R246). -/
def State.moveBase (s : State) (c b : Nat) : State :=
  let x := s.conv c
  let keep := fun q => decide (seqDist q b < 256)
  (s.setConv c { x with base := b, done := x.done.filter keep }).setCache c (Tbl.keep (s.cacheOf c) (fun q _ => keep q))

/-- The quiet period's lengths as a timer that starts now takes them (R257). -/
def State.quietNow (s : State) (x : Conv) : Conv :=
  { x with endAt := s.time.raw, idleMs := s.cfg Reg.CONV_TMR0 15 0, lingerMs := s.cfg Reg.CONV_TMR0 31 16 }

/-! ## The end of a message (R38) -/

/-- A digest pair at raw count t: it computes one ready block in 8 ns, in order of assignment (R320). -/
def PairQ.upTo (q : PairQ) (t : Nat) : PairQ :=
  let n := (t - q.workAt) / 8
  let r := q.jobs.foldl (fun (a : Nat × List PairJob) j => (a.1 - j.ready, a.2 ++ [{ j with ready := j.ready - a.1 }])) (n, [])
  { jobs := r.2, workAt := if r.2.all (fun j => j.ready == 0) then t else q.workAt + 8 * n }

/-- Run blocks queued on a pair. -/
def PairQ.blocks (q : PairQ) : Nat := sumBy (fun j => j.ready + j.later) q.jobs

/-- A digest pair as it stands now. -/
def State.pairNow (s : State) (j : Nat) : PairQ := (Tbl.getD s.pairs j {}).upTo s.time.raw

/-- Change the jobs of every pair that has one of message n, as the pair stands now. -/
def State.pairJobs (s : State) (n : Nat) (f : PairJob → List PairJob) : State :=
  { s with pairs := Tbl.mapVals s.pairs (fun _ q =>
      if q.jobs.any (fun j => j.msg == n) then
        let x := q.upTo s.time.raw
        { x with jobs := x.jobs.flatMap (fun j => if j.msg = n then f j else [j]) }
      else q) }

/-- A message's run blocks leave its pair's queue (R320). -/
def State.pairDrop (s : State) (n : Nat) : State := s.pairJobs n (fun _ => [])

/-- A message's result has reached the reply builder: its other run blocks can be computed (R320). -/
def State.pairReady (s : State) (n : Nat) : State := s.pairJobs n (fun j => [{ j with ready := j.ready + j.later, later := 0 }])

/-- Take a message out of its engine: queue places, batch places, and its run's tie to it. Work under way goes on without
it. -/
def State.unhook (s : State) (n : Nat) : State :=
  { s with
    handles := Tbl.mapVals s.handles (fun _ h =>
      let cut := fun (v : Version) => match v.part with
        | none => v
        | some p => { v with part := some { p with
            batch := p.batch.filter (· != n)
            closed := p.closed.map (fun (l : List Nat) => l.filter (· != n))
            running := p.running.map (fun (r : List Nat × Nat) => (r.1.filter (· != n), r.2)) } }
      { h with queue := h.queue.filter (· != n), serving := h.serving.map cut, staged := h.staged.map cut,
               old := h.old.map cut })
    runs := Tbl.mapVals s.runs (fun _ r => if r.slot = some n then { r with slot := none } else r) }

/-- A message ends: its slot, cache reservation, digest blocks, partition, queue places and silent reply are returned, and
its conversation's quiet period starts when no other is in progress (R247). -/
def State.endMsg (s : State) (n : Nat) : State :=
  match Tbl.find s.msgs n with
  | none => s
  | some m =>
    let s1 := (s.pairDrop n).unhook n
    let s2 := { s1 with
      msgs := Tbl.del s1.msgs n
      frames := Tbl.mapVals s1.frames (fun _ f => if f.slot = some n then { f with slot := none } else f)
      replies := Tbl.mapVals (Tbl.keep s1.replies (fun _ r => !(r.slot == some n && (r.dest.isNone ||
        (r.reissued && (match r.stage with | .kept _ => true | _ => false))))))
        (fun _ r => if r.slot = some n then { r with slot := none } else r) }
    match m.org.desc.conv, m.step with
    | some c, some _ => if (s2.conv c).inc = m.org.desc.inc then s2.setConv c (s2.quietNow (s2.conv c)) else s2
    | _, _ => s2

/-- Undo an opening once no message that stepped the entry is left and none had an effect (R243); a sequence context that
the undone conversation had opened goes with it. -/
def State.undoOpening (s : State) (c : Nat) : State :=
  let x := s.conv c
  match x.prior with
  | some (st, inc, ow, base, fin, last) =>
    if s.convMsgs c = [] then
      let s1 := s.setConv c { x with
        state := st, inc := inc, owner := ow, base := base, final := fin, last := last, done := [], ctx := none, prior := none }
      match x.ctx with
      | some k => { s1 with ctxs := Tbl.del s1.ctxs k }
      | none => s1
    else s
  | none => s

/-- The first run's message of a frame that is run again (R36). -/
def State.rerunMsg (s : State) (fr : Nat) : Option (Nat × Msg) :=
  s.msgs.find? (fun m => m.2.stage == .rerun && m.2.frames.head? == some fr)

/-- The position a token of a sequence context was admitted at, if it has a run. -/
def State.runOfSlot (s : State) (n : Nat) : Option (Nat × ArrayRun) := s.runs.find? (fun r => r.2.slot == some n)

/-- A message fails with a gate cause (R38, R43): it leaves no effect; a token that had been admitted makes its context
roll back (R204), unless only a request verdict failed (R201). -/
def State.failMsg (s : State) (n cause : Nat) : State :=
  match Tbl.find s.msgs n with
  | none => s
  | some m =>
    let s0 := match m.ctx, s.runOfSlot n with
      | some k, some (_, r) =>
        if cause = 6 then s.ctxFail k 1 r.pos else if cause = 7 then s.ctxFail k 3 r.pos
        else if r.stepped then s.ctxFail k 4 r.pos else s
      | some k, none => if (cause = 6 ∨ cause = 7) ∧ (m.stage = MsgStage.running ∨ m.stage = MsgStage.replied) then s.ctxFail k (if cause = 6 then 1 else 3) m.org.desc.sq else s
      | none, _ => s
    let s1 := s0.endMsg n
    match m.org.desc.conv, m.step with
    | some c, some _ => s1.undoOpening c
    | _, _ => s1

/-! ## Answers to slots -/

/-- The origin's INFO for STALE_MESSAGE: the conversation's base, 0 without one. -/
def State.staleInfo (s : State) (d : Desc) : Nat := s.baseOf d

/-- Answer a message that holds a slot, and end it without effect. -/
def State.answerMsg (s : State) (n status detail info : Nat) : State :=
  match Tbl.find s.msgs n with
  | none => s
  | some m =>
    let s1 := if status = stStaleMessage then s.count Reg.CONV_CNT_STALE else if status = stOutOfWindow then s.count Reg.CONV_CNT_OOW else s
    (s1.answerW m.warn m.org m.frames status detail info false).failMsg n 0

/-- Answer BUSY to a message that holds a slot (R254). -/
def State.busyMsg (s : State) (n detail info : Nat) : State :=
  match Tbl.find s.msgs n with
  | none => s
  | some m => (s.answerBusyW m.warn m.org m.frames detail info).failMsg n 0

/-! ## Closing (R200, R247) -/

/-- A context ends: its entry and checkpoints are free, its conversation is unbound, waiting tokens are answered
STALE_MESSAGE (R200). -/
def State.freeCtx (s : State) (k : Nat) : State :=
  match Tbl.find s.ctxs k with
  | none => s
  | some x =>
    let s1 := { s with ctxs := Tbl.del s.ctxs k }
    let s2 := match x.conv with | some c => s1.setConv c { s1.conv c with ctx := none } | none => s1
    let waiting := s2.msgs.filter (fun m => m.2.ctx == some k && (s2.runOfSlot m.1).isNone &&
      (m.2.stage == .waiting || m.2.stage == .queued))
    waiting.foldl (fun s m => s.answerMsg m.1 stStaleMessage 0 (s.staleInfo m.2.org.desc)) s2

/-- An item of a context is in flight: a run, or a token admitted that has not completed (R211). -/
def State.ctxBusy (s : State) (k : Nat) : Bool :=
  s.runs.any (fun r => r.2.ctx == some k) ||
  s.msgs.any (fun m => m.2.ctx == some k && (m.2.stage == .running || m.2.stage == .replied) && !m.2.applied)

/-- A context closes: at once when none of its tokens is in flight, else once the last of them has completed; one that generates once its
frames are out and its GSTOPs have their records. -/
def State.closeCtx (s : State) (k : Nat) : State :=
  match Tbl.find s.ctxs k with
  | none => s
  | some x =>
    if s.ctxBusy k ∨ x.gen.isSome then { s with ctxs := Tbl.put s.ctxs k { x with closing := true } }
    else s.freeCtx k

/-- An entry becomes CLOSED (R247): cached replies go, the bound context closes, INC and B are kept. -/
def State.convClose (s : State) (c : Nat) : State :=
  let x := s.conv c
  let s1 := (s.setConv c { x with state := 3, done := [], prior := none }).setCache c []
  let s2 := s1.count Reg.CONV_CNT_CLOSE
  match x.ctx with
  | some k => s2.closeCtx k
  | none => s2

/-- The start of an entry's quiet period (R247), as a raw count. -/
def Conv.quietFrom (x : Conv) : Nat := max x.endAt (if x.state = 2 then x.closingAt else 0)

/-- A conversation's IDLE or LINGER time has run out (R247) in an earlier tick: a message that passes check 7 in the tick of the expiry
counts, and the entry stays as it was (R257; log 171). -/
def State.quietOver (s : State) (c ms : Nat) : Bool :=
  s.convMsgs c == [] && decide ((s.conv c).quietFrom + ms * 1000000 + 4 ≤ s.time.raw)

/-- An OPEN entry whose quiet period has reached IDLE becomes CLOSED (R247). -/
def State.idleClose (s : State) (c : Nat) : State :=
  if (s.conv c).state = 1 ∧ s.quietOver c (s.conv c).idleMs = true then s.convClose c else s

/-- A CLOSING entry whose quiet period has reached LINGER becomes CLOSED (R247). -/
def State.lingerClose (s : State) (c : Nat) : State :=
  if (s.conv c).state = 2 ∧ s.quietOver c (s.conv c).lingerMs = true then s.convClose c else s

/-- Close a CLOSING entry whose base has moved past its final sequence number. -/
def State.closeIfPast (s : State) (c : Nat) : State :=
  let x := s.conv c
  if x.state = 2 ∧ 2 ^ 31 ≤ seqDist x.final x.base then s.convClose c else s

end Sys2Proof.Machine
end

