-- ==== Sys2Proof/Machine/Kwain.lean ====
section
/-! DEFINITION. The Kwain link's reply records (R364 to R368): the twin digest, sending and matching records, and which of a
pair's packages transmits. -/
namespace Sys2Proof.Machine

/-- A change of TWIN_STAT.STATE (R369): journaled with its reason and the partner's identity, and TWIN_STATE posted. -/
def State.twinTo (s : State) (st reason origin : Nat) : State :=
  if s.twin.state = st then s
  else
    let s1 := { s with twin.state := st, twin.reason := reason }
    (s1.journal 9 (st + 16 * reason) (s.twin.peerId % 2 ^ 32) none origin).post 10 2 []

/-- The twin digest (R365) of a content whose reply header lies at `hdrAt`. -/
def twinDigest (content : List Byte) (hdrAt : Nat) : Nat :=
  let h := slice content hdrAt 48
  let a := overwrite h 5 [BitVec.ofNat 8 (byteAt h 5 &&& 0x47)]
  let b := if byteAt h 4 = stBusy then overwrite a 24 [0, 0, 0, 0] else a
  crc64 (slice b 3 27 ++ slice b 44 4 ++ content.drop (hdrAt + 48))

/-- The FCS field of the first of some frames, as received (Table 15-7). -/
def State.fcsOf (s : State) (frames : List Nat) : Nat :=
  match frames with
  | [] => 0
  | n :: _ =>
    match Tbl.find s.frames n with
    | some f => beAt f.bytes (f.bytes.length - 4) 4
    | none => 0

/-- Replies that the twin verdict binds: those to a request frame, and reduction results (R233), notices apart. -/
def Reply.twinBound (r : Reply) : Bool := decide (r.kind ≤ 1 ∨ r.kind = 3 ∨ r.kind = 4) && (!r.frames.isEmpty || r.fcs0.isSome) && r.dest.isSome

/-- Send a record on the Kwain link. -/
def State.kwain (s : State) (r : TwinRec) : State :=
  s.emit (.kwain r.port (b2n r.ownBad + 2 * b2n r.released) r.occ r.fcs r.tdig)

/-- Two records name the same reply: port, FCS and occurrence. -/
def sameRec (a b : TwinRec) : Bool := a.port == b.port && a.fcs == b.fcs && a.occ == b.occ

/-- Decide a reply's twin verdict from the package's own record and the partner's (R365); digests that differ are counted,
and a bad verdict posts TWIN_MISMATCH. -/
def State.twinJudge (s : State) (n : Nat) (r : Reply) (own their : TwinRec) : State :=
  let differ := own.tdig != their.tdig
  let bad := differ || own.ownBad || their.ownBad
  let s1 := s.setReply n { r with twin := some (!bad) }
  let s2 := if differ then s1.count Reg.TWIN_CNT_MISMATCH else s1
  if bad then s2.post 10 0 [] else s2

/-- At the end of the reply builder stage: send the record and match it to one that has come (R365). -/
def State.twinSend (s : State) (n : Nat) : State :=
  match Tbl.find s.replies n with
  | none => s
  | some r =>
    if s.twin.state = 2 ∧ r.twinBound then
      let f := r.fcs0.getD (s.fcsOf r.frames)
      let occ := (s.replies.filter (fun e => e.2.twin.isNone &&
        (match e.2.trec with | some (t, _) => t.port == r.org.lport && t.fcs == f | none => false))).length
      let rec' : TwinRec := { port := r.org.lport, ownBad := false, released := false, occ := occ % 65536, fcs := f,
                              tdig := twinDigest r.content r.hdrAt }
      let r1 := { r with twin := none, trec := some (rec', s.time.raw) }
      let s1 := (s.setReply n r1).kwain rec'
      match s1.twin.theirs.find? (sameRec rec') with
      | some t => State.twinJudge { s1 with twin.theirs := s1.twin.theirs.filter (fun x => !sameRec x rec') } n r1 rec' t
      | none => s1
    else s

/-- Send a reply's record again with OWN_BAD (R366) or RELEASED (R367). -/
def State.twinAgain (s : State) (r : Reply) (bad rel : Bool) : State :=
  match r.trec with
  | some (t, _) => if s.twin.state = 2 then s.kwain { t with ownBad := bad, released := rel } else s
  | none => s

/-- The operation number of a frame's reduction block (Table 9-5). -/
def boomOp (org : Origin) : Nat := beAt org.win (org.desc.doff.getD 0 + 2) 2 % 8192

/-- What the record of a reply to a message stands for (R366). -/
def twinMark (org : Origin) (m : Option Msg) : TwinMark :=
  { conv := org.desc.conv, ctx := (m.bind (·.ctx)).map (fun k => (k, org.desc.sq))
    epoch := if (m.map (·.boom)).getD false then some (boomOp org, beAt org.win (org.desc.doff.getD 0 + 4) 2) else none }

end Sys2Proof.Machine
end

