-- ==== Sys2Proof/Machine/ParserRun.lean ====
section
/-! DEFINITION. Running the parser instructions: one command runs one instruction of a head (03, R66 to R74). -/
namespace Sys2Proof.Machine

/-- A head of a re-run has ended in another way than its first run: the first run's message fails without effect (R36). -/
def State.endRerun (s : State) (fr : Nat) : State :=
  match s.rerunMsg fr with | some (k, _) => s.failMsg k 2 | none => s

/-- A frame on which a message or an answer stands from now on (R43). -/
def State.bindFrame (s : State) (fr : Nat) : State :=
  { s with frames := Tbl.modify s.frames fr (fun f => { f with bound := true }) }

/-- A head that ends with an answer: FAIL, a failed CHDR, or a failed read (R66, R67, R74). Its INFO and DETAIL are zero, also where
FAIL names a status for which Table 10-4 gives the device's own checks an INFO (log 117). -/
def State.failHead (s : State) (n : Nat) (hd : Head) (f : Frame) (status cnt : Nat) : State :=
  ((((s.endHead n).endRerun hd.frame).bindFrame hd.frame).count cnt).answer (hd.origin f) [hd.frame] status 0 0
    (cnt == Reg.PRS_CNT_FAIL)

/-- Run one instruction of a head whose OPC the command names; a head that is elsewhere, parked or gone is left alone. -/
def State.prs (s : State) (n opc : Nat) (f : Head → Frame → Nat → PrsRes) : State :=
  match Tbl.find s.heads n with
  | none => s
  | some hd =>
    match Tbl.find s.frames hd.frame with
    | none => s
    | some fr =>
      if opcOf hd.instr ≠ opc ∨ hd.park.isSome then s
      else
        match f hd fr hd.instr with
        | .go hd' => { s with heads := Tbl.put s.heads n hd' }
        | .park b => { s with heads := Tbl.put s.heads n { hd with park := some b } }
        | .fail st c => s.failHead n hd fr st c

/-- DROP (R67): the frame is discarded with no answer. -/
def State.dropHead (s : State) (n : Nat) : State :=
  match Tbl.find s.heads n with
  | none => s
  | some hd =>
    if opcOf hd.instr ≠ 0x32 ∨ hd.park.isSome then s
    else
      let s1 := ((s.endHead n).endRerun hd.frame).count Reg.PRS_CNT_DROP
      { s1 with frames := Tbl.del s1.frames hd.frame }

/-- PRS_NOP (R68). -/
def execPrsNop (head : Nat) (s : State) : Host.Outcome State Fault Refusal := .next (s.prs head 0x00 prsNop)
/-- PRS_LD (R66, R68). -/
def execPrsLd (head : Nat) (s : State) : Host.Outcome State Fault Refusal := .next (s.prs head 0x01 prsLd)
/-- PRS_LI (R68). -/
def execPrsLi (head : Nat) (s : State) : Host.Outcome State Fault Refusal := .next (s.prs head 0x02 prsLi)
/-- PRS_ADD (R68). -/
def execPrsAdd (head : Nat) (s : State) : Host.Outcome State Fault Refusal := .next (s.prs head 0x03 prsAdd)
/-- PRS_SUB (R68). -/
def execPrsSub (head : Nat) (s : State) : Host.Outcome State Fault Refusal := .next (s.prs head 0x04 prsSub)
/-- PRS_AND (R68). -/
def execPrsAnd (head : Nat) (s : State) : Host.Outcome State Fault Refusal := .next (s.prs head 0x05 prsAnd)
/-- PRS_OR (R68). -/
def execPrsOr (head : Nat) (s : State) : Host.Outcome State Fault Refusal := .next (s.prs head 0x06 prsOr)
/-- PRS_SHR (R68). -/
def execPrsShr (head : Nat) (s : State) : Host.Outcome State Fault Refusal := .next (s.prs head 0x07 prsShr)
/-- PRS_SHL (R68). -/
def execPrsShl (head : Nat) (s : State) : Host.Outcome State Fault Refusal := .next (s.prs head 0x08 prsShl)
/-- PRS_BFX (R68). -/
def execPrsBfx (head : Nat) (s : State) : Host.Outcome State Fault Refusal := .next (s.prs head 0x09 prsBfx)
/-- PRS_J (R68). -/
def execPrsJ (head : Nat) (s : State) : Host.Outcome State Fault Refusal := .next (s.prs head 0x10 prsJ)
/-- PRS_JC (R68, R69). -/
def execPrsJc (head : Nat) (s : State) : Host.Outcome State Fault Refusal := .next (s.prs head 0x11 prsJc)
/-- KEYN (R70). -/
def execKeyn (head : Nat) (s : State) : Host.Outcome State Fault Refusal := .next (s.prs head 0x18 prsKeyn)
/-- KEYR (R70). -/
def execKeyr (head : Nat) (s : State) : Host.Outcome State Fault Refusal := .next (s.prs head 0x19 prsKeyr)
/-- META (R68). -/
def execMetaWrite (head : Nat) (s : State) : Host.Outcome State Fault Refusal := .next (s.prs head 0x1A prsMeta)
/-- SETF (R73). -/
def execSetf (head : Nat) (s : State) : Host.Outcome State Fault Refusal := .next (s.prs head 0x20 prsSetf)
/-- CHDR (R74). -/
def execChdr (head : Nat) (s : State) : Host.Outcome State Fault Refusal := .next (s.prs head 0x21 prsChdr)
/-- FAIL (R67). -/
def execFail (head : Nat) (s : State) : Host.Outcome State Fault Refusal := .next (s.prs head 0x31 prsFail)
/-- DROP (R67). -/
def execDrop (head : Nat) (s : State) : Host.Outcome State Fault Refusal := .next (s.dropHead head)

end Sys2Proof.Machine
end

