-- ==== Sys2Proof/Machine/Gate.lean ====
section
/-! DEFINITION. The reply builder's content and the verdict gate (R36 to R46, R49, R250, R319 to R323). -/
namespace Sys2Proof.Machine

/-! ## Content (R49, R250) -/

/-- The header of a reply as it stands (R239, R240); a generation frame has CONV, SEQ, MSG and BASE zero. -/
def Reply.hdr (r : Reply) : Hdr :=
  let gen := r.kind == 5
  let d := if gen then { r.org.desc with conv := none, seq := none, msg := none } else r.org.desc
  { op := d.op.getD 0, status := r.status
    flags := replyFlags (r.kind == 3) r.nan r.sat r.warn r.late r.unchecked r.mixed r.pad
    detail := r.detail, dig := r.hasDig, rfl := d.rflags.getD 0, model := d.model.getD 0, version := r.version
    conv := d.convWord, seq := d.sq, msg := d.msg.getD 0, resLen := r.res.length, info := r.info, stamp := r.org.stamp
    base := if gen then 0 else r.base }

/-- Frame 0's window as it stands: corrected bytes replace those first received. -/
def State.winOf (s : State) (r : Reply) : List Byte :=
  if r.kind = 5 then [] else
  match r.frames with
  | [] => r.org.win
  | n :: _ => match Tbl.find s.frames n with | some f => f.bytes.take 1024 | none => r.org.win

/-- The template of a reply: its own, or the handler's for the destination's carriage. -/
def Reply.template (r : Reply) (d : Dest) : Option Nat :=
  match r.tmpl with | some t => some t | none => handlerTmpl r.org.cfg r.org.handler d.carriage

/-- The width a fill record writes. -/
def fillWidth (car len src arg : Nat) : Nat :=
  if src = 2 ∨ src = 3 then 6 else if src = 4 ∨ src = 5 then (if car = 0 then 4 else 16)
  else if src = 6 ∨ src = 7 ∨ src = 8 ∨ src = 9 then 2 else if src = 10 ∨ src = 11 then 1
  else if src = 12 then (if arg = 0 then 6 else if arg = 1 then 4 else 2) else len

/-- Offsets at which a FLAGS record's byte is still what the content holds. -/
def flagSpots (car : Nat) : List (Nat × Nat × Nat × Nat) → List Nat
  | [] => []
  | (off, _, src, _) :: t =>
    if src = 11 ∧ !(t.any (fun r => decide (r.1 ≤ off ∧ off < r.1 + fillWidth car r.2.1 r.2.2.1 r.2.2.2))) then
      off :: flagSpots car t
    else flagSpots car t

/-- A stored content with REPLAYED set, PAD as given, and its checksums computed again (R250). -/
def patchReplay (content : List Byte) (fills : List (Nat × Nat × Nat × Nat)) (hdrAt car : Nat) (pad : Bool) : List Byte :=
  let fl := (byteAt content (hdrAt + 5) % 128 / 2 * 2 + 1) + (if pad then 128 else 0)
  let put := fun (c : List Byte) (o : Nat) => overwrite c o [BitVec.ofNat 8 fl]
  let c1 := ((flagSpots car fills).filter (· < hdrAt)).foldl put content
  let c2 := put c1 (hdrAt + 5)
  overwrite (applySums car fills c2) hdrAt (slice c2 hdrAt 48)

/-- The content of a reply, and where its header lies. -/
def State.render (s : State) (r : Reply) : List Byte × Nat × List (Nat × Nat × Nat × Nat) :=
  match r.dest with
  | none => ([], 0, [])
  | some d =>
    if r.kind = 3 then (patchReplay r.content r.fills r.hdrAt d.carriage r.pad, r.hdrAt, r.fills)
    else
      match r.template d with
      | none => ([], 0, [])
      | some t =>
        let c := r.org.cfg
        let dig := if r.hasDig then padTo (r.digest.getD []) 16 else []
        let f : FillIn := { win := s.winOf r, metadata := r.org.metadata, dest := d, srcMac := lpMac s.regs.cfg d.lport,
                            hdr := r.hdr, total := tmplLen c t + r.res.length + dig.length }
        (buildContent c t f r.res dig, tmplLen c t - 48, tmplFills c t)

/-- Render a reply and keep its content. -/
def State.rendered (s : State) (r : Reply) : Reply :=
  let c := s.render r
  { r with content := c.1, hdrAt := c.2.1, fills := c.2.2 }

/-- The next place in the order in which replies become ready (R32). -/
def State.nextOrder (s : State) : Nat := s.replies.foldl (fun m e => max m (e.2.order + 1)) 0

/-! ## Rollback points (R203) -/

/-- Captured states whose write has completed become the rollback point, the latest of those below which no verdict is missing. -/
def State.promote (s : State) (k : Nat) : State :=
  match Tbl.find s.ctxs k with
  | none => s
  | some x =>
    match (x.written.filter (fun c => x.openPos.all (fun p => decide (c ≤ p)))).getLast? with
    | some c =>
      ({ s with ctxs := Tbl.put s.ctxs k { x with rb := c, written := x.written.filter (fun w => decide (c < w)) } }).count
        (Reg.SEQ_CNT_CKPT (k / 4096))
    | none => s

/-- A position of a context has every verdict good. -/
def State.posGood (s : State) (k pos : Nat) : State :=
  match Tbl.find s.ctxs k with
  | none => s
  | some x => ({ s with ctxs := Tbl.put s.ctxs k { x with openPos := x.openPos.filter (· != pos) } }).promote k

/-! ## Messages and bad verdicts (R36, R38, R43) -/

/-- Frames that nothing needs any longer are forgotten; one whose verdicts have not all come stays for them (R43). -/
def State.gc (s : State) : State :=
  { s with frames := Tbl.keep s.frames (fun n f => !f.started || f.rerun || (f.bound && f.undecided) || s.heads.any (fun h => h.2.frame == n) ||
      s.msgs.any (fun m => m.2.frames.contains n) || s.replies.any (fun r => r.2.frames.contains n)) }

/-- The causes of a reply's bad verdicts beside those of its frames (Table 2-4). -/
def Reply.badCauses (r : Reply) : List Nat := (if r.unitBad then [6] else []) ++ (if r.twin == some false then [7] else [])

/-- Count and post the causes of a frame's bad verdicts that have come since the last time (R43), also after its message has failed: one
for each verdict. -/
def State.postFrame (s : State) (n : Nat) (f : Frame) : State :=
  let new := f.causes.foldl List.erase f.badCauses
  if f.bound = false ∨ new = [] then s
  else new.foldl (fun s c => (if c = 2 then s.count Reg.RPLY_CNT_RERUN else s).gateEvent c f.lport) { s with frames := Tbl.put s.frames n { f with causes := f.causes ++ new } }

/-- Count and post every new cause of the frames held. -/
def State.postCauses (s : State) : State := s.frames.foldl (fun s x => s.postFrame x.1 x.2) s

/-- The sender's gate has decided a reply, and its record goes again with RELEASED (R367). -/
def State.twinFreed (s : State) (r : Reply) : State :=
  if (match r.dest with | some d => s.holdsPort d.lport | none => true) then s else s.twinAgain r false true

/-- Free an egress port's transmitter of a reply. -/
def State.clearTx (s : State) (n : Nat) : State :=
  { s with eports := Tbl.mapVals s.eports (fun _ p => if p.tx = some n then { p with tx := none } else p) }

/-- Stomp a reply in transmission (R41): the frame ends after the 8-byte unit of its content in transmission, never shorter than 64
bytes, or, once the content has gone, after the extension and the pad word, with the complemented FCS. How far transmission has come
before any extension is a free value (log 16). -/
def State.stompFrame (s : State) (n : Nat) (r : Reply) : State :=
  match r.dest with
  | none => s
  | some d =>
    let w := wireBytes d r.content
    let units := ceilDiv w.length 8
    let (k, s1) := if r.ext = 0 then s.drawNat (units + 1) else (units, s)
    let body := if k < units then w.take (max 60 (8 * (k + 1))) else w ++ List.replicate (r.ext + 4) 0
    let s2 := if s1.holdsPort d.lport then s1 else s1.endFrame r.eport body false
    ((s2.setReply n { r with stomped := true }).peak Reg.RPLY_EXTMAX 11 0 r.ext).clearTx n

/-- A message's reply is void: one in transmission is stomped. -/
def State.voidReply (s : State) (m : Msg) : State :=
  match m.reply.bind (fun n => (Tbl.find s.replies n).map (fun r => (n, r))) with
  | none => s
  | some (n, r) =>
    let s1 := if r.stage = .held then s.stompFrame n r else s.clearTx n
    { s1 with replies := Tbl.del s1.replies n }

/-- The status of a cause's notice (Table 2-4, Table 15-5). -/
def noticeStatus (c : Nat) (final : Bool) : Option Nat :=
  if c = 1 ∨ c = 3 ∨ c = 4 ∨ c = 5 then some stMalformed
  else if c = 6 ∨ c = 7 then some (if final then stFaultFinal else stFaultRetry)
  else none

/-- The headers of a reply's request were received trusted (R43). -/
def State.headTrusted (s : State) (r : Reply) : Bool :=
  match r.frames with
  | [] => true
  | n :: _ => match Tbl.find s.frames n with | some f => f.trusted r.org.hdrEnd | none => true

/-- A bad verdict decides a reply (R38, R43): its own causes are counted and posted, its message fails, and its notice waits to
be sent where one is due. -/
def State.decideBad (s : State) (n : Nat) (r : Reply) (c : Nat) : State :=
  let s1 := if r.stomped then s.count Reg.RPLY_CNT_STOMP_BAD else s
  let s2 := r.badCauses.foldl (fun s c => s.gateEvent c r.org.lport) s1
  let s3 := match r.trec with
    | some (t, _) =>
      if c ≤ 5 ∧ s2.twin.state = 2 then
        let m := r.slot.bind (Tbl.find s2.msgs)
        let s3 := s2.twinAgain r true false
        { s3 with twin.bad := s3.twin.bad ++ [(t, twinMark r.org m)] }
      else s2
    | none => s2
  let s4 := if c = 6 ∨ c = 7 then s3.count (if r.final then Reg.RPR_CNT_ITEMFINAL else Reg.RPR_CNT_ITEMRETRY) else s3
  let s4 := s4.twinFreed r
  let s5 := match r.slot with | some m => s4.failMsg m c | none => s4
  let up := match r.dest with | some d => (lpMembers s.regs.cfg d.lport).any s.linkUp | none => false
  match noticeStatus c r.final with
  | some st =>
    if s.headTrusted r && up && (match r.dest with | some d => r.tmpl.isSome || hasTmpl r.org d | none => false) then
      s5.setReply n { r with kind := 2, stage := .bad c, status := st, detail := c, info := 0, res := [], slot := none,
                             nan := false, sat := false, mixed := false, late := false, pad := false, dig := .no,
                             digest := none, fixed := none, twin := some true, trec := none, due := false }
    else ({ s5 with replies := Tbl.del s5.replies n }).gc
  | none => ({ s5 with replies := Tbl.del s5.replies n }).gc

/-- Frame n is to be run again (R36): the replies and the engine work that stand on it are discarded. Of a
message whose later frame it is, only that frame is taken away, and its gap timer is that of the frames left. -/
def State.rerunFrame (s : State) (n : Nat) : State :=
  match Tbl.find s.frames n with
  | none => s
  | some f =>
    let s1 := s
    let s2 := { s1 with
      frames := Tbl.put s1.frames n { f with rerun := true, bound := true, slot := if s1.msgs.any (fun m => m.2.frames.head? == some n) then f.slot else none }
      heads := Tbl.keep s1.heads (fun _ h => h.frame != n) }
    let mine := (s2.msgs.filter (fun m => m.2.frames.head? == some n)).map (·.1)
    let joined := (s2.msgs.filter (fun m => m.2.frames.contains n && m.2.frames.head? != some n)).map (·.1)
    let s3 := mine.foldl (fun s k =>
      let s1 := match Tbl.find s.msgs k, s.runOfSlot k with
        | some m, some (_, r) => (match m.ctx with | some c => if r.stepped then s.ctxFail c 4 r.pos else s | none => s)
        | _, _ => s
      let s2 := s1.unhook k
      { s2 with msgs := Tbl.modify s2.msgs k (fun m => { m with stage := .rerun, reply := none, forest := none }) }) s2
    joined.foldl State.regap { s3 with
      msgs := Tbl.mapVals s3.msgs (fun _ m =>
        if m.frames.head? = some n then m
        else { m with frames := m.frames.filter (· != n), parts := m.parts.filter (fun p => p.1 != n) })
      replies := Tbl.mapVals (Tbl.keep s3.replies (fun _ r => r.frames.head? != some n || r.stage == .sent)) (fun _ r =>
        if r.frames.contains n ∧ r.frames.head? ≠ some n then
          { r with frames := r.frames.filter (· != n), stage := if r.stage = .bad 0 then .ready else r.stage, stomped := false,
                   pad := false, ext := 0 }
        else r) }

/-- Run again every frame whose speculatively consumed codeword decoded as corrected. -/
def State.rerunAll (s : State) : State :=
  (s.frames.filter (fun f => f.2.verdict == .bad 2 && !f.2.rerun && f.2.started)).foldl (fun s f => s.rerunFrame f.1) s

/-- Act on the verdicts of one reply: a bad one stomps a frame in transmission at once, and its cause, when decided, fails
the reply. -/
def State.settleReply (s : State) (n : Nat) : State :=
  match Tbl.find s.replies n with
  | none => s
  | some r =>
    match r.stage with
    | .sent => s
    | .bad (_ + 1) => s
    | st =>
      match s.replyVerdict r with
      | .bad c =>
        let s1 := if st = .held then s.stompFrame n r else s
        let r1 := { r with stomped := r.stomped || st == .held }
        if c = 0 ∨ c = 2 then (if st = .held then s1.setReply n { r1 with stage := .bad 0 } else s1)
        else s1.decideBad n r1 c
      | _ => s

/-- An answer for a message that fails with no reply decided (R43): it takes the place of the reply, so that the cause is
counted and its notice sent. -/
def State.failReply (s : State) (m : Msg) (n : Nat) (final : Bool) : Reply :=
  let d := match answerDest m.org with | .ok d => some d | _ => none
  { s.newReply m.org (some n) m.frames 1 0 0 0 (noDest m.org.lport) with
    dest := d, version := m.version, unitBad := m.unitBad, final := final, warn := m.warn }

/-- Act on the verdicts of a message that has no reply yet. -/
def State.settleMsg (s : State) (n : Nat) : State :=
  match Tbl.find s.msgs n with
  | none => s
  | some m =>
    if m.reply.isSome then s
    else
      match (s.framesVerdict m.frames).and (if m.unitBad then .bad 6 else .good) with
      | .bad c => if c = 0 ∨ c = 2 then s else s.decideBad (freshKey s.replies) (s.failReply m n false) c
      | _ => s

/-- Act on every verdict that has arrived (R37, R38, R41, R43), and see what has become ready for the egress (R32). -/
def State.settle (s : State) : State :=
  let s1 := s.rerunAll.postCauses
  let s2 := (s1.replies.map (·.1)).foldl State.settleReply s1
  ((s2.msgs.map (·.1)).foldl State.settleMsg s2).markReady

/-- A unit-check verdict of a message is bad (R37, R359); `final` answers FAULT_FINAL. -/
def State.unitFail (s : State) (n : Nat) (final : Bool) : State :=
  match Tbl.find s.msgs n with
  | none => s
  | some m =>
    let s1 := s.setMsg n { m with unitBad := true }
    match m.reply with
    | some k => State.settleReply { s1 with replies := Tbl.modify s1.replies k (fun r => { r with unitBad := true, final := final }) } k
    | none => s1.decideBad (freshKey s1.replies) (s1.failReply { m with unitBad := true } n final) 6

/-! ## Results -/

/-- Decide a message's result reply (R49) to a destination: status, result block, flags, version, POSITION, and PROG_DIG with WTS_DIG.
Without a destination it is never sent (R52). FIXED_LATENCY of a boom frame is ignored (Table 13-5). -/
def State.decideTo (s : State) (n : Nat) (d : Option Dest) (res : List Byte) (nan sat mixed : Bool) (pos : Nat) (digHead : List Byte) :
    State :=
  match Tbl.find s.msgs n with
  | none => s
  | some m =>
    let k := freshKey s.replies
    let fixed := m.org.desc.fixedLatency && !m.boom && d.isSome
    let st := if m.dig = .unavailable then stDigestUnavailable else stOk
    let r : Reply := { s.newReply m.org (some n) m.frames 0 st 0 0 (noDest m.org.lport) with
      dest := d, res := res, nan := nan || m.nan, sat := sat, mixed := mixed, version := m.version, position := pos
      dig := m.dig, digHead := digHead, unitBad := m.unitBad, warn := m.warn
      fixed := if fixed then some (16 * m.org.raw + m.org.sub + 64 * m.org.desc.flat) else none }
    let r1 := match d with | some d => { r with eport := s.egressOf d.lport m.org.eport } | none => r
    ((s.setReply k r1).setMsg n { m with reply := some k, stage := .replied }).settle

/-- Decide a message's result reply to where its descriptor asks. -/
def State.decideResult (s : State) (n : Nat) (res : List Byte) (nan sat mixed : Bool) (pos : Nat) (digHead : List Byte) : State :=
  match Tbl.find s.msgs n with
  | none => s
  | some m =>
    s.decideTo n (match resolveDest m.org.cfg m.org.win m.org.lport m.org.desc.sel with | .ok d => some d | _ => none)
      res nan sat mixed pos digHead

/-- REPLY_BUILD (R49, R37, R365): the content is assembled; the unit-check verdicts are in; the twin record goes out. -/
def State.replyBuild (s : State) (n : Nat) : State :=
  match Tbl.find s.replies n with
  | none => s
  | some r =>
    if r.stage = .build then
      let r1 := s.rendered { r with base := s.baseOf r.org.desc, stage := .ready, order := s.nextOrder,
                                    egressAt := s.time.raw + s.cfg Reg.CONV_TMR1 31 16 * 1000000
                                    doneAt := s.time.raw }
      let s1 := (match r.slot with | some k => if r1.hasDig && r1.digest.isNone then s.pairReady k else s | none => s).setReply n r1
      (if r1.hasDig then s1 else s1.twinSend n).settle
    else s

/-- REPLY_BUILD (R49). -/
def execReplyBuild (reply : Nat) (s : State) : Host.Outcome State Fault Refusal := .next (s.replyBuild reply)

/-! ## Digests (R319, R320) -/

/-- The item block (Table 13-6). -/
def digItem (r : Reply) (kind : Nat) : List Byte :=
  beBytes 2 (r.org.desc.model.getD 0) ++ beBytes 2 r.version ++ beBytes 1 (b2n r.org.exact) ++ beBytes 1 (kind + 1) ++
  beBytes 2 (r.org.desc.dlen.getD 0) ++ beBytes 2 r.res.length ++ beBytes 1 (2 * b2n r.nan + 4 * b2n r.sat) ++ [0] ++
  beBytes 4 (if kind = 2 then r.position else 0)

/-- The digest of a reply (R319). -/
def digestOf (r : Reply) (kind : Nat) : List Byte :=
  (sha256 (padTo r.digHead 64 ++ digItem r kind ++ slice r.org.win (r.org.desc.doff.getD 0) (r.org.desc.dlen.getD 0) ++
    r.res)).take 16

/-- DIGEST_COMPLETE (R320): the reply takes its digest, and its pair's run blocks are done. -/
def State.digestComplete (s : State) (n : Nat) : State :=
  match Tbl.find s.replies n with
  | none => s
  | some r =>
    if r.hasDig ∧ r.digest.isNone then
      let m := r.slot.bind (Tbl.find s.msgs)
      let kind := match m with | some m => m.kind | none => 0
      let s1 := match r.slot with | some k => s.pairDrop k | none => s
      let r1 := { r with digest := some (digestOf r kind), order := s.nextOrder, doneAt := s.time.raw }
      if r.stage = .ready then ((s1.setReply n (s1.rendered r1)).twinSend n).settle else s1.setReply n r1
    else s

/-- DIGEST_COMPLETE (R320). -/
def execDigestComplete (reply : Nat) (s : State) : Host.Outcome State Fault Refusal := .next (s.digestComplete reply)

/-! ## Transmission (R32, R39, R41, R322, R323) -/

/-- A reply's last byte has passed the gate with every verdict good (R38): it is counted; its slot is free once its effects
have applied. -/
def State.passed (s : State) (n : Nat) (r : Reply) (stage : RStage) : State :=
  let s1 := s.setReply n { r with stage := stage, counted := true }
  let s2 := if r.hasDig && !r.counted then s1.count Reg.RPLY_CNT_DIGEST else s1
  let s3 := if r.kind = 0 ∧ r.status = stDigestUnavailable ∧ !r.counted then s2.count Reg.RPLY_CNT_DIGUNAV else s2
  let s4 := s3.twinFreed r
  match r.slot with
  | none => s4.gc
  | some k =>
    match Tbl.find s4.msgs k with
    | none => s4.gc
    | some m =>
      if m.applied ∨ (m.step.isNone ∧ m.ctx.isNone) then (s4.endMsg k).gc
      else s4.setMsg k { m with gone := true }

/-- Take an egress port for a reply. -/
def State.takeTx (s : State) (e n : Nat) : State :=
  let s1 := s.freeTx e
  s1.setEp e { s1.ep e with tx := some n }

/-- A reply's content as it is sent takes the place of what the replay cache has stored of it (R250). -/
def State.recache (s : State) (old new : Reply) : State :=
  match new.org.desc.conv with
  | some c =>
    (match Tbl.find (s.cacheOf c) new.org.desc.sq with
    | some e => if new.kind = 0 ∧ new.slot.isSome ∧ e.content = old.content ∧ (s.conv c).inc = new.org.desc.inc
      then s.setCache c (Tbl.put (s.cacheOf c) new.org.desc.sq { e with content := new.content }) else s
    | none => s)
  | none => s

/-- A reply's first byte enters transmission (R39): PAD is set exactly when a verdict is pending. A reply with PAD clear goes
out whole; one with PAD set is held before its last eight bytes. -/
def State.startTx (s : State) (n : Nat) (r : Reply) (reissue : Bool) : State :=
  match r.dest with
  | none => s
  | some d =>
    let e := s.txPort r
    let unchecked := s.twin.state == 3
    let pend := s.replyVerdict r == .pending
    let r1 := s.rendered { r with pad := pend && !reissue, unchecked := unchecked, eport := e, ext := 0, stomped := false }
    let s1 := if unchecked then s.count Reg.TWIN_CNT_UNCHECKED else s
    let s2 := if r.fixed.isSome ∧ r.late ∧ !reissue then s1.count Reg.RPLY_CNT_FLLATE else s1
    let s3 := (s2.takeTx e n).recache r r1
    let w := wireBytes d r1.content
    if r1.pad then (s3.openFrame e w).setReply n { r1 with stage := .held }
    else (s3.sendFrame e w true (wireLen w.length)).passed n r1 RStage.sent

/-- Forget a reply that has passed the gate and is not to be sent, once its message's effects have applied. -/
def State.dropPassed (s : State) (n : Nat) : State :=
  match Tbl.find s.replies n with
  | none => s
  | some r => if r.slot.isNone then ({ s with replies := Tbl.del s.replies n }).gc else s

/-- The port of a reply's destination is one whose frames this package holds (R364). -/
def State.heldHere (s : State) (r : Reply) : Bool := r.kind != 6 && (match r.dest with | some d => s.holdsPort d.lport | none => false)

/-- Start a reply's transmission where everything lets it (R32, R39). The holder of a twin pair passes the reply through its
gate once every verdict is good, and keeps it (R364); what has no partner record, or has been RELEASED, it lets go. -/
def State.transmit (s : State) (n : Nat) (p : Reply → Bool) : State :=
  match Tbl.find s.replies n with
  | none => s
  | some r =>
    if !(s.replyReady r && p r) then s
    else if s.heldHere r then
      (if s.replyVerdict r ≠ .good then s
       else if r.twinBound && !r.reissued then s.passed n { r with twinHeld := true } (.kept false)
       else State.dropPassed (s.passed n r .sent) n)
    else if s.egressOpen n (s.txPort r) r then s.startTx n r false
    else s

/-- REPLY_TRANSMIT_START (R39). -/
def execReplyTransmitStart (reply : Nat) (s : State) : Host.Outcome State Fault Refusal :=
  .next (s.transmit reply (fun r => r.kind != 3))

/-- REPLAY_SEND (R250): a cached reply enters transmission again. -/
def execReplaySend (reply : Nat) (s : State) : Host.Outcome State Fault Refusal :=
  .next (s.transmit reply (fun r => r.kind == 3))

/-- FIXED_RELEASE (R322 to R324): at its target a reply that has been complete for 4 ns, with a free, unpaused port that no other target
has, enters transmission on time; otherwise it misses, and is sent LATE as soon as R32 allows. Before the target nothing happens. The
holder of a twin pair passes it through its gate as any other. -/
def State.fixedRelease (s : State) (n : Nat) : State :=
  match Tbl.find s.replies n with
  | none => s
  | some r =>
    match r.fixed with
    | none => s
    | some t =>
      if r.released ∨ r.stage ≠ .ready ∨ 16 * (s.time.raw + 4) < t then s
      else
        let r1 := { r with released := true, order := s.nextOrder }
        let e := s.txPort r1
        if s.heldHere r1 then ((s.setReply n r1).markReady).transmit n (fun _ => true)
        else if 16 * s.time.raw ≤ t ∧ 16 * (r1.doneAt + 4) ≤ t ∧ s.replyReady r1 ∧ s.carries e r1 ∧ s.portFree e ∧ !s.rival n e t r1 then
          s.startTx n r1 false
        else (s.setReply n { r1 with late := true }).markReady

/-- FIXED_RELEASE (R322). -/
def execFixedRelease (reply : Nat) (s : State) : Host.Outcome State Fault Refusal := .next (s.fixedRelease reply)

/-- HELD_UNIT_DUE (R40): the held unit is sent with a correct FCS when every verdict is good; while one is pending 8 bytes of
extension go ahead of it, up to 2,048. -/
def State.heldUnitDue (s : State) (n : Nat) : State :=
  match Tbl.find s.replies n with
  | none => s
  | some r =>
    if r.stage ≠ .held then s
    else
      match s.replyVerdict r, r.dest with
      | .pending, _ => if r.ext < 2048 then s.setReply n { r with ext := r.ext + 8 } else s
      | .good, some d =>
        ((s.endFrame r.eport (wireBytes d r.content ++ List.replicate (r.ext + 4) 0) true).peak Reg.RPLY_EXTMAX 11 0
          r.ext).passed n r .sent
      | _, _ => s.settleReply n

/-- HELD_UNIT_DUE (R40). -/
def execHeldUnitDue (reply : Nat) (s : State) : Host.Outcome State Fault Refusal := .next (s.heldUnitDue reply)

/-- EXTENSION_EXHAUSTED (R42): at 2,048 bytes of extension with a verdict pending the reply is stomped and kept. -/
def State.exhausted (s : State) (n : Nat) : State :=
  match Tbl.find s.replies n with
  | none => s
  | some r =>
    if r.stage = .held ∧ r.ext = 2048 ∧ s.replyVerdict r = .pending then
      let s1 := ((s.stompFrame n r).count Reg.RPLY_CNT_STOMP_EXH).gateEvent 8 r.org.lport
      (s1.setReply n { r with stage := .kept false, due := false }).markReady
    else s

/-- EXTENSION_EXHAUSTED (R42). -/
def execExtensionExhausted (reply : Nat) (s : State) : Host.Outcome State Fault Refusal := .next (s.exhausted reply)

/-- The egress has failed a message's reply, or a generation step's frame: a sequence token for which P has advanced takes its context back
(R204, log 122). -/
def State.egressFail (s : State) (r : Reply) : State :=
  let d := r.org.desc
  match r.genCtx, d.conv with
  | some k, _ =>
    (match Tbl.find s.ctxs k with
    | some y => if y.gen.isSome ∧ some y.handle = d.model ∧ y.rb ≤ r.position ∧ r.position < y.p then s.ctxFail k 4 r.position else s
    | none => s)
  | none, some c =>
    let x := s.conv c
    (match x.ctx.bind (fun k => (Tbl.find s.ctxs k).map (fun y => (k, y))) with
    | some (k, y) => if r.kind = 0 ∧ x.inc = d.inc ∧ y.rb ≤ d.sq ∧ d.sq < y.p then s.ctxFail k 4 d.sq else s
    | none => s)
  | none, none => s

/-- A reply is not sent, or not again (R46, R256): its effects stand, and its slot is free once they have applied. The partner's copy is
released with the good verdicts (R367). -/
def State.unsent (s : State) (n : Nat) (r : Reply) : State :=
  let s := if s.replyVerdict r = .good then s.twinFreed r else s
  match r.slot with
  | none => ({ s with replies := Tbl.del s.replies n }).gc
  | some k =>
    match Tbl.find s.msgs k with
    | none => ({ s with replies := Tbl.del s.replies n }).gc
    | some m =>
      if s.replyVerdict r = .good ∧ (m.applied ∨ (m.step.isNone ∧ m.ctx.isNone)) then
        let s1 := s.endMsg k
        ({ s1 with replies := Tbl.del s1.replies n }).gc
      else (s.setReply n { r with stage := .kept false, reissued := true }).setMsg k { m with gone := true }

/-- REISSUE (R42, R46, R324): a kept reply whose verdicts are all good goes out with PAD clear, on its own port if that has
link up and the reply was not cut there, else on another member; with no such port it is lost. -/
def State.reissue (s : State) (n : Nat) : State :=
  match Tbl.find s.replies n with
  | none => s
  | some r =>
    match r.stage, r.dest with
    | .kept lost, some d =>
      if r.reissued ∨ s.replyVerdict r ≠ .good ∨ s.holdsPort d.lport then s
      else
        match s.reissuePort r d lost with
        | none =>
          -- the cause of a reply that was cut has been counted with the cut
          let s1 := if lost then s else (s.count Reg.RPLY_CNT_LOST).gateEvent 9 r.org.lport
          (s1.egressFail r).unsent n r
        | some e =>
          if s.egressOpen n e r then
            let r1 := s.rendered { r with pad := false, ext := 0, late := r.late || r.fixed.isSome, reissued := true,
                                          unchecked := s.twin.state == 3, eport := e, stomped := false }
            let s1 := ((s.takeTx e n).recache r r1).count Reg.RPLY_CNT_REISSUE
            let s2 := if s.twin.state = 3 then s1.count Reg.TWIN_CNT_UNCHECKED else s1
            let w := wireBytes d r1.content
            let s3 := s2.sendFrame e w true (wireLen w.length)
            if r.twinHeld ∨ lost ∧ r.slot.isNone then (s3.setReply n { r1 with stage := .sent, twinHeld := false }).gc
            else s3.passed n r1 .sent
          else s
    | _, _ => s

/-- REISSUE (R42). -/
def execReissue (reply : Nat) (s : State) : Host.Outcome State Fault Refusal := .next (s.reissue reply)

/-- NOTICE_SEND (R43): a notice enters transmission; BASE is the window base as it is built. Request bytes that have not been handed over
yet are copied as the frame holds them, without a wait (DESIGN CHOICE, log 176). -/
def State.noticeSend (s : State) (n : Nat) : State :=
  match Tbl.find s.replies n with
  | none => s
  | some r =>
    match r.stage, r.dest with
    | .bad (_ + 1), some d =>
      let e := s.txPort r
      if s.holdsPort d.lport then ({ s with replies := Tbl.del s.replies n }).gc
      else if s.egressOpen n e { r with content := List.replicate 256 0 } then
        let un := s.twin.state == 3
        let r1 := s.rendered { r with base := s.baseOf r.org.desc, eport := e, unchecked := un, stage := .sent }
        let s1 := if un then s.count Reg.TWIN_CNT_UNCHECKED else s
        let w := wireBytes d r1.content
        (((s1.takeTx e n).sendFrame e w true (wireLen w.length)).setReply n r1).gc
      else s
    | _, _ => s

/-- NOTICE_SEND (R43). -/
def execNoticeSend (reply : Nat) (s : State) : Host.Outcome State Fault Refusal := .next (s.noticeSend reply)

/-- A reply is cut with its egress link (R46): kept for another member of the port that has link up, else not sent again.
After P has advanced, a sequence token's context rolls back when nothing carries its reply (R204). -/
def State.cutReply (s : State) (n e : Nat) (r : Reply) : State :=
  let s0 := if r.stage = .held then (s.linkCut e).peak Reg.RPLY_EXTMAX 11 0 r.ext else s
  let s1 := ((s0.count Reg.RPLY_CNT_LOST).gateEvent 9 r.org.lport).clearTx n
  let others := match r.dest with
    | some d => (lpMembers s.regs.cfg d.lport).any (fun x => x != e && s.linkUp x)
    | none => false
  if r.kind = 2 then ({ s1 with replies := Tbl.del s1.replies n }).gc
  else if others && !r.reissued then (s1.setReply n { r with stage := .kept true, eport := e, due := false }).markReady
  else (s1.egressFail r).unsent n r

/-- EGRESS_LINK_LOST (R46): the link is lost during a reply's transmission; one that has gone whole is not cut. -/
def State.egressLost (s : State) (e : Nat) : State :=
  match (s.ep e).tx with
  | none => s
  | some n =>
    match Tbl.find s.replies n with
    | some r => if r.stage = .held ∨ r.stage = .sent ∧ s.time.raw < (s.ep e).busyTo then s.cutReply n e r else s
    | none => s

/-- EGRESS_LINK_LOST (R46). -/
def execEgressLinkLost (eport : Nat) (s : State) : Host.Outcome State Fault Refusal := .next (s.egressLost eport)

/-- EGRESS_TIMEOUT (R256): a reply that has waited its limit without entering transmission leaves its queue. -/
def State.egressTimeout (s : State) (n : Nat) : State :=
  match Tbl.find s.replies n with
  | none => s
  | some r =>
    if r.stage = .ready ∧ r.dest.isSome ∧ r.egressAt ≤ s.time.raw then ((s.count Reg.CONV_CNT_EGRESS).egressFail r).unsent n r else s

/-- EGRESS_TIMEOUT (R256). -/
def execEgressTimeout (reply : Nat) (s : State) : Host.Outcome State Fault Refusal := .next (s.egressTimeout reply)

/-! ## Verdicts arrive (R35, R37, R45) -/

/-- Codeword cw of frame n, where both are held. -/
def State.cwOf (s : State) (n cw : Nat) : Option (Frame × Cw) :=
  match Tbl.find s.frames n with
  | none => none
  | some f => (f.cws[cw]?).map (fun c => (f, c))

/-- FEC_SYNDROME_RESULT (R37): the syndrome result of one codeword of a quad, for every frame of which it carries bytes; `on` lists
them as (frame, its codeword), and is empty for an idle codeword or one of a neighbour-side quad. A non-zero one counts once in the
quad's window (R35). -/
def State.fecSyndrome (s : State) (q : Nat) (on : List (Nat × Nat)) (zero : Bool) : State :=
  let known := on.filterMap (fun x => s.cwOf x.1 x.2)
  if known ≠ [] ∧ known.all (fun x => x.2.zero.isSome) then s
  else
    let s1 := on.foldl (fun (s : State) x =>
      match s.cwOf x.1 x.2 with
      | some (f, c) => if c.zero.isSome then s else s.setFrame x.1 { f with cws := setNth f.cws x.2 { c with zero := some zero } }
      | none => s) s
    (if zero then s1 else s1.setQuad q { s1.quad q with nonzero := (s1.quad q).nonzero + 1 }).settle

/-- Write corrected bytes. -/
def patchBytes (b : List Byte) : List (Nat × Byte) → List Byte
  | [] => b
  | (i, x) :: t => patchBytes (setNth b i x) t

/-- A codeword of a frame has been decoded: corrected, with the bytes that replace those received, or uncorrectable. One corrected
before the bucker has consumed it counts as clean. -/
def State.decoded (s : State) (n cw : Nat) (fix : List (Nat × Byte)) (ok : Bool) : State :=
  match s.cwOf n cw with
  | none => s
  | some (f, c) =>
    if c.zero ≠ some false ∨ c.fixed.isSome then s
    else
      let cws := setNth f.cws cw { c with zero := some (ok && !f.consumed c), fixed := some ok }
      s.setFrame n { f with cws := cws, bytes := if ok then patchBytes f.bytes fix else f.bytes }

/-- FEC_CORRECTION_RESULT (R37): one codeword of a quad with a non-zero syndrome decodes as corrected, or is uncorrectable, for every
frame of which it carries bytes; it counts once on the quad (R35, R285). -/
def State.fecCorrection (s : State) (q : Nat) (on : List (Nat × Nat × List (Nat × Byte))) (ok : Bool) : State :=
  let known := on.filterMap (fun x => s.cwOf x.1 x.2.1)
  if known ≠ [] ∧ known.all (fun x => x.2.zero != some false || x.2.fixed.isSome) then s
  else
    let s1 := on.foldl (fun (s : State) x => s.decoded x.1 x.2.1 x.2.2 ok) s
    if ok then (s1.count (Reg.PORT_CNT_FECCOR q)).settle
    else State.settle ((s1.count (Reg.PORT_CNT_FECUNC q)).setQuad q { s1.quad q with uncorr := true })

/-- FCS_VERDICT (R37): over the corrected bytes of a frame that has ended, once each of its codewords has been decoded; the UDP
checksum's verdict comes with it. -/
def State.fcsVerdict (s : State) (n : Nat) : State :=
  match Tbl.find s.frames n with
  | none => s
  | some f =>
    if f.ended ∧ f.fcs.isNone ∧ !f.trunc ∧ f.cws.all Cw.resolved then
      let f1 := { f with fcs := some (fcsGood f.bytes), udp := some (!udpHasSum f.bytes || udpSumGood f.bytes) }
      State.settle { s with frames := Tbl.put s.frames n f1 }
    else s

/-- FCS_VERDICT (R37). -/
def execFcsVerdict (frame : Nat) (s : State) : Host.Outcome State Fault Refusal := .next (s.fcsVerdict frame)

/-- Truncate a frame in reception (R45): it ends with the bytes handed over, and its verdict is bad at once. -/
def State.truncate (s : State) (n : Nat) : State :=
  match Tbl.find s.frames n with
  | none => s
  | some f =>
    if f.ended then s
    else
      let k := f.avail
      let f1 := { f with trunc := true, ended := true, bytes := f.bytes.take k, handed := min k f.bytes.length
                         cws := f.cws.filter (fun c => decide (c.first < k)) }
      ((s.setFrame n f1).count Reg.RPLY_CNT_TRUNC).settle

/-- FRAME_TRUNCATED (R45). -/
def execFrameTruncated (frame : Nat) (s : State) : Host.Outcome State Fault Refusal := .next (s.truncate frame)

/-- MESSAGE_RERUN (R36): the bucker runs a frame again from the corrected bytes, on a free head context. -/
def State.messageRerun (s : State) (n : Nat) : State :=
  match Tbl.find s.frames n with
  | none => s
  | some f =>
    let f1 := { f with rerun := false, spec := false, started := false }
    if f.rerun && s.mayStart n f1 then
      let s1 := s.runHead n f1
      if (Tbl.find s1.frames n).isNone then s1.endRerun n else s1
    else s

/-- MESSAGE_RERUN (R36). -/
def execMessageRerun (frame : Nat) (s : State) : Host.Outcome State Fault Refusal := .next (s.messageRerun frame)

/-- Whether a quad's window has met an event of R35. -/
def State.specEvent (s : State) (q : Nat) : Bool :=
  let lanes := sumBy (fun k => if s.linkUp (4 * q + k) then epLanes s.regs.cfg (4 * q + k) else 0) [0, 1, 2, 3]
  (s.quad q).uncorr || decide (s.cfg Reg.RPLY_SPECCTL 31 16 * 78125 * lanes < (s.quad q).nonzero * 131072)

/-- SPEC_SUPPRESS (R35): suppression starts after an event of the window. -/
def State.specSuppress (s : State) (q : Nat) : State :=
  if s.specEvent q ∧ (s.quad q).supp = false then
    (s.setQuad q { s.quad q with supp := true }).post 6 0 [(q, 8), (1, 8)]
  else s

/-- SPEC_SUPPRESS (R35). -/
def execSpecSuppress (quad : Nat) (s : State) : Host.Outcome State Fault Refusal := .next (s.specSuppress quad)

/-- SPEC_WINDOW_END (R35): at a tick count that is a multiple of 250,000 the window ends. Suppression lifts when neither event
happened in it, and starts when one did and SPEC_SUPPRESS has not come for it. -/
def State.specWindowEnd (s : State) (q : Nat) : State :=
  if s.time.tick % 250000 ≠ 0 then s
  else
    let ev := s.specEvent q
    let s1 := s.setQuad q { nonzero := 0, uncorr := false, supp := ev }
    if (s.quad q).supp = ev then s1 else s1.post 6 0 [(q, 8), (b2n ev, 8)]

/-- SPEC_WINDOW_END (R35). -/
def execSpecWindowEnd (quad : Nat) (s : State) : Host.Outcome State Fault Refusal := .next (s.specWindowEnd quad)

end Sys2Proof.Machine
end

