-- ==== Sys2Proof/Machine/Conv.lean ====
section
/-! DEFINITION. Effects of a message and the timers of conversations (R245 to R253). -/
namespace Sys2Proof.Machine

/-- The slide of Table 10-6, when B has not passed it. -/
def State.effSlide (s : State) (c : Nat) (slide : Option Nat) : State :=
  match slide with
  | some b => if seqDist b (s.conv c).base < 2 ^ 31 then s.moveBase c b else s
  | none => s

/-- The DONE bit of sequence number q and its cached reply, unless q lies below B (R245, R249). -/
def State.effDone (s : State) (c q : Nat) (r : Reply) : State :=
  let x := s.conv c
  if seqDist q x.base < 256 then
    let e : Cached := match r.dest with
      | some d => { content := r.content, dest := some d, fills := r.fills, hdrAt := r.hdrAt }
      | none => { content := [], dest := none, fills := [], hdrAt := 0 }
    (s.setConv c { x with done := if x.done.contains q then x.done else x.done ++ [q] }).setCache c
      (Tbl.put (s.cacheOf c) q e)
  else s

/-- Where an acknowledgement of A stops: at the lowest sequence number at or above B that is in progress (R246). -/
def State.ackStop (s : State) (c a : Nat) : Nat :=
  let b := (s.conv c).base
  let ds := (s.convMsgs c).map (fun m => seqDist m.2.org.desc.sq b)
  (b + ds.foldl min (seqDist a b)) % 2 ^ 32

/-- The acknowledgement of R246. -/
def State.effAck (s : State) (c : Nat) (d : Desc) : State :=
  let a := (d.sq + 2 ^ 32 - d.ackd) % 2 ^ 32
  let n := seqDist a (s.conv c).base
  if d.ackv ∧ 0 < n ∧ n ≤ 256 then s.moveBase c (s.ackStop c a) else s

/-- CLOSE (R247): its sequence number becomes the final one, also of an entry that is CLOSING already. -/
def State.effClose (s : State) (c : Nat) (d : Desc) : State :=
  let x := s.conv c
  if d.close ∧ (x.state = 1 ∨ x.state = 2) then
    s.setConv c { x with state := 2, final := d.sq, closingAt := if x.state = 1 then s.time.raw else x.closingAt }
  else s

/-- LAST (R247): µs of raw time, modulo 2^32, when later than the LAST held. -/
def State.effLast (s : State) (c t : Nat) : State :=
  let x := s.conv c
  if seqDist t x.last < 2 ^ 31 then s.setConv c { x with last := t } else s

/-- The effects of a message on its conversation, in the order of R245; an entry that is CLOSED, or open again under another
incarnation, takes none (R247, R257). -/
def State.convEffects (s : State) (c : Nat) (d : Desc) (st : WinStep) (r : Reply) : State :=
  if (s.conv c).inc = d.inc ∧ ((s.conv c).state = 1 ∨ (s.conv c).state = 2) then
    let s1 := ((s.effSlide c st.slide).effDone c d.sq r).effAck c d
    let s2 := (s1.effClose c d).effLast c (st.atTime / 1000 % 2 ^ 32)
    let s3 := s2.setConv c { s2.conv c with prior := none }
    s3.closeIfPast c
  else s

/-- The effects of a token on its context: its position's verdicts are good, and a token with HOLD_STATE clear closes the
context (R200, R203). -/
def State.ctxEffects (s : State) (m : Msg) : State :=
  match m.ctx with
  | none => s
  | some k =>
    let s1 := s.posGood k m.org.desc.sq
    if m.org.desc.holdState then s1 else s1.closeCtx k

/-- EFFECTS_APPLY (R38, R245): once every frame of a message is there and every verdict with its result reply is good, its effects
apply in one step.
A message whose reply has passed, or has none to send, then frees its slot. -/
def State.effectsApply (s : State) (n : Nat) : State :=
  match Tbl.find s.msgs n with
  | none => s
  | some m =>
    match m.reply.bind (Tbl.find s.replies) with
    | none => s
    | some r =>
      if m.applied ∨ r.kind ≠ 0 ∨ r.stage = .build ∨ !s.complete m ∨ s.replyVerdict r ≠ .good ∨ (r.hasDig && r.digest.isNone) then s
      else
        let s1 := match m.org.desc.conv, m.step with
          | some c, some st => s.convEffects c m.org.desc st r
          | _, _ => s
        let s2 := State.ctxEffects { s1 with msgs := Tbl.modify s1.msgs n (fun x => { x with applied := true, units := 0 }) } m
        let s3 := match r.trec with
          | some (t, _) => 
            { s2 with twin.applied := s2.twin.applied.filter (fun (x : TwinRec × TwinMark) => !sameRec x.1 t) ++ [(t, twinMark m.org (some m))] }
          | none => s2
        -- the gate decides a reply that has left without being sent (R367)
        let s4 := if m.gone ∧ r.stage ≠ .sent then s3.twinFreed r else s3
        if m.gone ∨ r.dest = none then (s4.endMsg n).gc else s4

/-- EFFECTS_APPLY (R245). -/
def execEffectsApply (slot : Nat) (s : State) : Host.Outcome State Fault Refusal := .next (s.effectsApply slot)

/-- CONV_IDLE_CLOSE (R247). -/
def execConvIdleClose (conv : Nat) (s : State) : Host.Outcome State Fault Refusal := .next (s.idleClose conv)

/-- CONV_LINGER_CLOSE (R247). -/
def execConvLingerClose (conv : Nat) (s : State) : Host.Outcome State Fault Refusal := .next (s.lingerClose conv)

/-- A frame's head has yet to end. -/
def State.undispatched (s : State) (n : Nat) (f : Frame) : Bool := !f.started || f.rerun || s.heads.any (fun h => h.2.frame == n)

/-- GAP_TIMER_EXPIRE (R253): the timer of an incomplete message expires; the message fails and is answered INCOMPLETE. A frame that
came by the boundary counts, so what has come and not yet dispatched is waited for (log 113). -/
def State.gapExpire (s : State) (n : Nat) : State :=
  match Tbl.find s.msgs n with
  | none => s
  | some m =>
    match m.gapAt with
    | none => s
    | some t =>
      if s.time.raw ≤ t ∨ s.complete m ∨ s.frames.any (fun x => decide (x.2.raw ≤ t + 4) && s.undispatched x.1 x.2) then s
      else
        let s1 := match m.reply with | some k => { s with replies := Tbl.del s.replies k } | none => s
        let s2 := (s1.count Reg.CONV_CNT_GAP).answerW m.warn m.org m.frames stIncomplete 1 m.received false
        (s2.failMsg n 0).settle

/-- GAP_TIMER_EXPIRE (R253). -/
def execGapTimerExpire (slot : Nat) (s : State) : Host.Outcome State Fault Refusal := .next (s.gapExpire slot)

/-- SEQ_WAIT_TIMEOUT (R253): a sequence token has waited longer than GAP under R199; it is answered INCOMPLETE with P. -/
def State.seqWaitTimeout (s : State) (n : Nat) : State :=
  match Tbl.find s.msgs n with
  | none => s
  | some m =>
    match m.ctx.bind (Tbl.find s.ctxs) with
    | none => s
    | some x =>
      if m.stage = .waiting ∧ x.p ≠ m.org.desc.sq ∧ m.waitTo < s.time.raw then
        ((s.count Reg.CONV_CNT_GAP).answerMsg n stIncomplete 2 x.p).settle
      else s

/-- SEQ_WAIT_TIMEOUT (R253). -/
def execSeqWaitTimeout (slot : Nat) (s : State) : Host.Outcome State Fault Refusal := .next (s.seqWaitTimeout slot)

end Sys2Proof.Machine
end

