-- ==== Sys2Proof/Machine/Admit.lean ====
section
/-! DEFINITION. DISPATCH (R75 to R77): the admission checks, the window step (R244), the joining of later frames (R251),
digest assignment (R320), message slots, and the opening of sequence contexts (R198). -/
namespace Sys2Proof.Machine

/-! ## The checks on the descriptor alone -/

/-- The descriptor with MLEN's default filled in (R73): a UDP length below 8 gives 0 (log 119). -/
def fillMlen (d : Desc) (b : List Byte) : Desc :=
  let e := parseEth b
  match d.mlen with
  | some _ => d
  | none => if e.udp then { d with mlen := some (beAt b (e.l4 + 4) 2 - 8) } else d

/-- Check 1 of R75. -/
def check1 (d : Desc) (boom : Bool) : Bool :=
  match d.doff, d.dlen, d.mlen with
  | some o, some l, some _ => decide (1 ≤ l ∧ l ≤ 1024 ∧ o + l ≤ 1024) && (boom || d.model.isSome)
  | _, _, _ => false

/-- Check 2 of R75: a valid selector and, unless it is NONE, a template for the destination's carriage. -/
def check2 (org : Origin) : Bool :=
  match resolveDest org.cfg org.win org.lport org.desc.sel with
  | .silent => true
  | .bad => false
  | .ok d => hasTmpl org d

/-- MAX_LEN of the handler, in bytes. -/
def maxLen (org : Origin) : Nat := fld (cfgOf org.cfg (Reg.PRS_HDL_w1 org.handler)) 18 0 * 64

/-! ## Check 6 (Table 13-5) -/

/-- The frame's operation adds floating-point values. -/
def boomFloat (org : Origin) : Bool :=
  let w := cfgOf org.cfg (Reg.BOOM_OP_w0 (boomOp org))
  decide (fld w 30 28 ≤ 1) && fld w 27 24 != 3

/-- A frame of a reduction answered BUSY or EXACT_UNAVAILABLE (BOOM_CNT_REFUSE of Table 9-17). -/
def State.boomRefuse (s : State) (boom : Bool) : State := if boom then s.count Reg.BOOM_CNT_REFUSE else s

/-- A frame of a reduction answered STALE_MESSAGE or OUT_OF_WINDOW (BOOM_CNT_STALE of Table 9-17). -/
def State.boomPast (s : State) (boom : Bool) : State := if boom then s.count Reg.BOOM_CNT_STALE else s

/-- Check 6: the status it answers, if it fails. -/
def State.check6 (s : State) (org : Origin) (boom : Bool) (cls : Nat) : Option Nat :=
  let d := org.desc
  let order := if boom then boomFloat org else cls == 1 || cls == 2
  let twin := s.cfg Reg.TWIN_CTL 31 31 == 1
  if !boom && d.fixedLatency && d.flat == 0 then some stMalformed
  else if !boom && d.fixedLatency && !org.exact then some stExactUnavailable
  else if d.needExact && !org.exact && order then some stExactUnavailable
  else if !boom && cls == 3 && !org.exact then some stExactUnavailable
  else if twin && !org.exact && order then some stExactUnavailable
  else none

/-- The digest pair for a message (R320, R321): the pair in service with the fewest run blocks queued, unless they would
exceed 64. -/
def State.pickPair (s : State) (d : Desc) (res : Nat) : Dig :=
  if d.wantDigest then
    let n := (88 + d.dlen.getD 0 + res) / 64
    match leastBy (fun j => (s.pairNow j).blocks) s.pairsIn with
    | some j => if (s.pairNow j).blocks + n ≤ 64 then .pair j n else .unavailable
    | none => .unavailable
  else .no

/-- A message is assigned to its pair at check 6, where its run blocks count (R320, R329), also where a later check answers it. -/
def State.pairPeak (s : State) (d : Dig) : State :=
  match d with
  | .pair j n => s.peak Reg.RPLY_DIGSTAT 6 0 ((s.pairNow j).blocks + n)
  | _ => s

/-- Queue the run blocks of message k: those that hold no result byte can be computed at once (R320). -/
def State.addBlocks (s : State) (k : Nat) (dlen : Nat) (d : Dig) : State :=
  match d with
  | .pair j n =>
    let q := s.pairNow j
    let pre := min n ((16 + dlen) / 64)
    { s with pairs := Tbl.put s.pairs j { q with jobs := q.jobs.filter (fun x => x.msg != k) ++ [⟨k, pre, n - pre⟩] } }
  | _ => s

/-! ## Check 7: the window step (Table 10-6) -/

/-- What the window step decides. -/
inductive WinRes where
  | proceed (slide : Option Nat) (opens : Bool)
  | replay
  | busy
  | owner
  /-- another owner opened the FREE entry in this tick, from a higher logical port (R257) -/
  | takeover
  | stale (info : Nat)
  | oow (info : Nat)
  deriving DecidableEq, Repr

/-- Entry c was FREE before this tick, and all that has stepped it since came in this tick (R257). -/
def State.openedNow (s : State) (c : Nat) : Bool :=
  (match (s.conv c).prior with | some (st, _) => st == 0 | none => false) && s.convMsgs c != [] &&
  (s.convMsgs c).all (fun m => match m.2.step with | some w => w.atTime == s.time.raw | none => false)

/-- Every message in progress on entry c came in on a higher logical port. -/
def State.fromAbove (s : State) (c lport : Nat) : Bool := (s.convMsgs c).all (fun m => decide (lport < m.2.org.lport))

/-- The window step of frame 0 of a message with owner key ow, incarnation inc and sequence number q (R244): the first row
that matches decides, but of two openings of a FREE entry by different owners in one tick the lower logical port has it (R257). -/
def State.winStep (s : State) (c inc q lport : Nat) (ow : Owner) : WinRes :=
  let x := s.conv c
  let b := x.base
  let dl := seqDist q b
  if x.state = 1 ∧ x.owner ≠ ow ∧ q ≤ 255 ∧ s.openedNow c then (if s.fromAbove c lport then .takeover else .owner)
  else if x.state = 0 ∨ (x.state = 3 ∧ x.inc ≠ inc) then
    (if q ≤ 255 then .proceed none true else .stale (if x.state = 0 then 0 else b))
  else if x.state = 3 then .stale b
  else if x.inc ≠ inc then .stale b
  else if x.owner ≠ ow then .owner
  else if x.state = 2 ∧ seqDist x.final b < dl ∧ dl < 2 ^ 31 then .stale b
  else if dl ≤ 255 then
    (if s.inProgress c q then .busy else if x.done.contains q then .replay else .proceed none false)
  else if x.state = 1 ∧ dl ≤ 511 then
    (if (s.convMsgs c).any (fun m => let e := seqDist m.2.org.desc.sq b; decide (e < dl - 255 ∨ 2 ^ 31 ≤ e)) then .oow b
     else .proceed (some ((q + 2 ^ 32 - 255) % 2 ^ 32)) false)
  else if x.state = 1 ∧ dl < 2 ^ 31 then .oow b
  else .stale b

/-- Open an entry for a message (R243). -/
def State.openConv (s : State) (c inc : Nat) (ow : Owner) : State :=
  let x := s.conv c
  let y : Conv := { x with
    state := 1, inc := inc, owner := ow, base := 0, done := [], final := 0, ctx := none
    last := s.time.raw / 1000 % 2 ^ 32, prior := some (x.state, x.inc, x.owner, x.base, x.final, x.last) }
  (s.setConv c y).count Reg.CONV_CNT_OPEN

/-- Replay-cache units a message reserves (R249). -/
def reserveUnits (org : Origin) (resMax : Nat) : Nat :=
  let len := match resolveDest org.cfg org.win org.lport org.desc.sel with
    | .ok d => (match handlerTmpl org.cfg org.handler d.carriage with | some t => tmplLen org.cfg t | none => 0)
    | _ => (match handlerTmpl org.cfg org.handler (ownCarriage org.win) with | some t => tmplLen org.cfg t | none => 0)
  cacheUnits (len + resMax + (if org.desc.wantDigest then 16 else 0))

/-- Answer a duplicate from the replay cache (R250). -/
def State.replay (s : State) (org : Origin) (fr : Nat) : State :=
  let c := org.desc.conv.getD 0
  if org.desc.sel = 0xFF then s.count Reg.CONV_CNT_REPLAY
  else
    match Tbl.find (s.cacheOf c) org.desc.sq with
    | some ⟨_, _, _, _, true⟩ =>
      -- Table 14-7: the reply is lost, the DONE bit stays
      (s.count Reg.RPR_CNT_ITEMFINAL).answer org [fr] stFaultFinal 0 0 false
    | some ⟨content, some d, fills, hdrAt, false⟩ =>
      let r0 := s.newReply org none [fr] 3 0 0 0 d
      let r := { r0 with content := content, fills := fills, hdrAt := hdrAt, stage := .ready, order := s.nextOrder }
      let k := freshKey s.replies
      ((s.count Reg.CONV_CNT_REPLAY).setReply k (s.rendered r)).twinSend k
    | _ => (s.count Reg.CONV_CNT_STALE).answer org [fr] stStaleMessage 0 (s.conv c).base false

/-! ## Sequence contexts (R196 to R202) -/

/-- II of a version in ticks, as declared. -/
def Version.ii (v : Version) : Nat := max 1 v.prog.ii

/-- Tokens/s that a context reserves (R202). -/
def ctxRate (v : Version) (x : Ctx) : Nat :=
  match x.gen with
  | some g => max v.prog.grate (64000000000 / max 1 g.interval)
  | none => v.prog.grate

/-- Contexts of a copy of a version of a handle. -/
def State.copyCtxs (s : State) (h n c : Nat) : Tbl Ctx :=
  s.ctxs.filter (fun x => x.2.handle == h && x.2.version == n && x.2.copy == c)

/-- The free rate of a copy (R202). -/
def State.freeRate (s : State) (h : Nat) (v : Version) (c : Nat) : Nat :=
  250000000 / v.ii - sumBy (fun x => ctxRate v x.2) (s.copyCtxs h v.number c)

/-- The copy with a free entry and rate for a new context: the most free rate, the lower number on a tie (R198). -/
def State.pickCopy (s : State) (h : Nat) (v : Version) (rate : Nat) : Option (Nat × ACopy) :=
  leastBy (fun c => 2 ^ 40 - s.freeRate h v c.1)
    (v.acopies.filter (fun c => !c.2.out && decide ((s.copyCtxs h v.number c.1).length < v.prog.ctxPer) &&
      decide (rate ≤ s.freeRate h v c.1)))

/-- Where a context's state region lies in each logical stand of its copy: the ranges of the die's SRAM (R196). -/
def State.ctxRegions (s : State) (v : Version) (cp : ACopy) (cslot : Nat) : List (List (Nat × Nat)) :=
  (List.range v.prog.nstands).map (fun i => s.standSpans cp i (v.prog.stateOff + cslot * v.prog.stateBytes) v.prog.stateBytes)

/-- Write the state of a context, one byte string a logical stand; a missing one is zeros. Its words are uncorrectable no more (R342). -/
def State.putCtxState (s : State) (v : Version) (cp : ACopy) (cslot : Nat) (data : List (List Byte)) : State :=
  let regions := s.ctxRegions v cp cslot
  (List.range regions.length).foldl (fun s i =>
    let r := regions.getD i []
    let x := s.die cp.die
    (s.setDie cp.die { x with sram := (x.sram.clearSpans r).writeSpans r (slice (data.getD i []) 0 v.prog.stateBytes) }).healSpans cp.die r) s

/-- Open a context on a copy (R198, R203): P is 0 and its state zeros. Its number is the least free of the die. -/
def State.openCtx (s : State) (h : Nat) (v : Version) (c : Nat) (cp : ACopy) (conv : Option Nat) (gen : Option GenSt) :
    Nat × State :=
  let used := (s.copyCtxs h v.number c).map (·.2.cslot)
  let cs := ((List.range (used.length + 1)).filter (fun i => !used.contains i)).headD 0
  let k := (Tbl.freeFrom s.ctxs 4097 (cp.die * 4096)).getD (cp.die * 4096)
  let x : Ctx := { state := if gen.isSome then 2 else 1, handle := h, version := v.number, copy := c, cslot := cs, conv := conv,
                   gen := gen, earnFrom := s.time.raw }
  (k, State.putCtxState { s with ctxs := Tbl.put s.ctxs k x } v cp cs [])

/-- The rollback block of a context (Table 8-3). -/
def rollbackBlock (k : Nat) (x : Ctx) : List Byte :=
  beBytes 4 x.rb ++ beBytes 2 k ++ beBytes 1 x.cause ++ [0] ++ beBytes 4 x.failed ++ beBytes 4 0

/-- Answer a token CONTEXT_ROLLED_BACK with the rollback block (R205), and end it without effect: a result of its own is void. -/
def State.answerRolled (s : State) (n k : Nat) (x : Ctx) : State :=
  match Tbl.find s.msgs n with
  | none => s
  | some m =>
    let s := s.voidReply m
    let s1 := match answerDest m.org with
      | .ok d =>
        if hasTmpl m.org d then
          s.addReply { s.newReply m.org none m.frames 4 stRolledBack 0 x.rb d with
            res := rollbackBlock k x, version := m.version, warn := m.warn }
        else s.count Reg.PRS_CNT_FAIL
      | _ => s
    s1.failMsg n 0

/-- A token in its slot meets its context (R198 to R205): it waits for its turn, opens a context, or is answered. -/
def State.seqDispatch (s : State) (n : Nat) (m : Msg) (v : Version) : State :=
  let d := m.org.desc
  let wait := fun (s : State) (k ver : Nat) =>
    s.setMsg n { m with ctx := some k, stage := .waiting, version := ver, queuedAt := s.time.raw,
                        waitTo := s.time.raw + s.cfg Reg.CONV_TMR1 15 0 * 1000 }
  match d.conv with
  | none => s.answerMsg n stMalformed 0 0
  | some c =>
    match (s.conv c).ctx with
    | some k =>
      (match Tbl.find s.ctxs k with
      | none => s.answerMsg n stMalformed 0 0
      | some x =>
        if x.state = 3 ∧ d.sq ≠ x.rb then (wait s k x.version).answerRolled n k x
        else if x.p = 0xFFFFFFFF then s.answerMsg n stTooLarge 0 (maxLen m.org)
        else if d.sq < x.p then s.answerMsg n stStaleMessage 0 (s.staleInfo d)
        else wait s k x.version)
    | none =>
      if d.sq ≠ 0 then s.answerMsg n stMalformed 0 0
      else
        match s.pickCopy m.target v v.prog.grate with
        | none => s.busyMsg n 4 (s.busyInfo 4)
        | some (cn, cp) =>
          let (k, s1) := s.openCtx m.target v cn cp (some c) none
          wait (s1.setConv c { s1.conv c with ctx := some k }) k v.number

/-! ## Later frames (R77, R251) -/

/-- The slot of a later frame's message: by conversation and SEQ, or by owner key and MSG. -/
def State.slotOf (s : State) (d : Desc) (ow : Owner) : Option (Nat × Msg) :=
  match d.conv with
  | some c => s.msgs.find? (fun m => m.2.org.desc.conv == some c && m.2.org.desc.sq == d.sq)
  | none => s.msgs.find? (fun m => m.2.org.desc.conv.isNone && m.2.owner == ow && m.2.org.desc.msg.getD 0 == d.msg.getD 0)

/-- A later frame agrees with frame 0 in the fields that R251 names. -/
def sameMsg (a b : Desc) : Bool :=
  a.op.getD 0 == b.op.getD 0 && a.model == b.model && a.modelVer == b.modelVer && a.rflags.getD 0 == b.rflags.getD 0 &&
  a.close == b.close && a.ackv == b.ackv && a.sel == b.sel && a.doff == b.doff && a.dlen == b.dlen && a.mlen == b.mlen

/-- A later frame joins its message's slot, or is refused or discarded (R251). -/
def State.joinFrame (s : State) (org : Origin) (fr : Nat) (f : Frame) : State :=
  let d := org.desc
  match s.slotOf d (ownerOf f.bytes) with
  | none => (s.count Reg.CONV_CNT_STALE).answer org [fr] stStaleMessage 0 (s.staleInfo d) false
  | some (n, m) =>
    if !sameMsg d m.org.desc then (s.count Reg.CONV_CNT_FRAME).answer org [fr] stMalformed 0 0 false
    else if m.parts.any (fun p => p.2.1 == d.frame.getD 0) ∨ m.org.desc.mlen.getD 0 ≤ m.received then
      s.count Reg.CONV_CNT_FRAME
    else
      let m1 := { m with frames := m.frames ++ [fr], parts := m.parts ++ [(fr, d.frame.getD 0, payloadOf f.bytes f.bytes.length false)] }
      let s1 := State.regap { s with msgs := Tbl.put s.msgs n m1, frames := Tbl.modify s.frames fr (fun f => { f with slot := some n }) } n
      match m.reply with
      | some k => { s1 with replies := Tbl.modify s1.replies k (fun r => { r with frames := m1.frames }) }
      | none => s1

/-! ## DISPATCH -/

/-- A message that was to open its conversation is refused: the opening is undone (R243). -/
def State.unopen (s : State) (org : Origin) (step : Option (Option Nat × Bool)) : State :=
  match org.desc.conv, step with
  | some c, some (_, true) => s.undoOpening c
  | _, _ => s

/-- Check 8 and what follows it: a slot and, above 1,024 bytes, a partition (R76, R387); then the message goes to its engine. -/
def State.takeSlot (s : State) (org : Origin) (fr : Nat) (f : Frame) (hd : Head) (boom : Bool) (v : Option Version)
    (dig : Dig) (step : Option (Option Nat × Bool)) (units : Nat) : State :=
  let buffer := decide (1024 < org.desc.mlen.getD 0)
  let full := decide (65536 ≤ s.msgs.length) ||
    (buffer && decide (s.cfg Reg.GCTL_MSGBUF 15 0 ≤ (s.msgs.filter (fun m => m.2.buffer)).length))
  if full then (((s.unopen org step).count Reg.PRS_CNT_BUSY).boomRefuse boom).answerBusy org [fr] 1 (s.busyInfo 1)
  else
    let ow := ownerOf f.bytes
    let n := leastFree s.msgs
    let m : Msg :=
      { org := org, owner := ow, frames := [fr], parts := [(fr, 0, payloadOf f.bytes f.bytes.length true)],
        stage := if boom then .boom else .arrived, boom := boom, target := org.desc.model.getD 0,
        version := match v with | some v => v.number | none => 0
        kind := match v with | some v => v.kind | none => 0
        exact := org.exact, sample := hd.sample, nan := hd.nan, queuedAt := s.time.raw,
        step := step.map (fun x => ⟨x.1, x.2, s.time.raw⟩), units := units, dig := dig, buffer := buffer }
    let s1 := State.regap { s with msgs := Tbl.put s.msgs n m, frames := Tbl.modify s.frames fr (fun f => { f with slot := some n }) } n
    let s2 := s1.addBlocks n (org.desc.dlen.getD 0) dig
    match v with
    | some v => if v.kind = 2 ∧ boom = false then s2.seqDispatch n m v else s2
    | none => s2

/-- What follows the window step of a message with a conversation (R244, R249): it opens the entry, reserves its part of the replay
cache and goes on to check 8, or is answered. -/
def State.afterStep (s : State) (org : Origin) (fr : Nat) (f : Frame) (hd : Head) (boom : Bool) (v : Option Version) (dig : Dig)
    (resMax c : Nat) (w : WinRes) : State :=
  match w with
  | .replay => s.replay org fr
  | .busy => (s.boomRefuse boom).answerBusy org [fr] 6 (s.busyInfo 6)
  | .owner | .takeover => (s.count Reg.CONV_CNT_OWNER).answer org [fr] stMalformed 0 0 false
  | .stale i => ((s.count Reg.CONV_CNT_STALE).boomPast boom).answer org [fr] stStaleMessage 0 i false
  | .oow i => ((s.count Reg.CONV_CNT_OOW).boomPast boom).answer org [fr] stOutOfWindow 0 i false
  | .proceed slide opens =>
    let u := reserveUnits org resMax
    let s1 := if opens then s.openConv c org.desc.inc (ownerOf f.bytes) else s
    if 262144 < s.cacheUsed + u then ((s1.unopen org (some (slide, opens))).boomRefuse boom).answerBusy org [fr] 5 (s.busyInfo 5)
    else s1.takeSlot org fr f hd boom v dig (some (slide, opens)) u

/-- The messages of another owner that opened entry c in this tick give it up: each is answered MALFORMED and counted (R257). -/
def State.giveUp (s : State) (c : Nat) : State :=
  (s.convMsgs c).foldl (fun (s : State) m => (s.count Reg.CONV_CNT_OWNER).answerMsg m.1 stMalformed 0 0) s

/-- Checks 6 to 8 of frame 0 (R75). -/
def State.admitFirst (s : State) (org : Origin) (fr : Nat) (f : Frame) (hd : Head) (boom : Bool) (v : Option Version) : State :=
  let cls := match v with | some v => v.cls | none => 0
  let resMax := match v with | some v => v.resMax | none => 0
  match s.check6 org boom cls with
  | some st => (s.boomRefuse boom).answer org [fr] st 0 0 false
  | none =>
    let dig := if boom then .no else s.pickPair org.desc resMax
    let s := s.pairPeak dig
    match org.desc.conv with
    | none => s.takeSlot org fr f hd boom v dig none 0
    | some c =>
      let step := fun (s : State) => s.winStep c org.desc.inc org.desc.sq org.lport (ownerOf f.bytes)
      -- a quiet period that ran out in an earlier tick has closed the entry (R247)
      let s := (s.idleClose c).lingerClose c
      let s1 := if step s = .takeover then s.giveUp c else s
      s1.afterStep org fr f hd boom v dig resMax c (step s1)

/-- Fields 0x00 to 0x0B of two descriptors are the same (R36). -/
def sameFields (a b : Desc) : Bool :=
  a.op == b.op && a.model == b.model && a.modelVer == b.modelVer && a.conv == b.conv && a.seq == b.seq && a.msg == b.msg &&
  a.frame == b.frame && a.rflags == b.rflags && a.replyTo == b.replyTo && a.doff == b.doff && a.dlen == b.dlen && a.mlen == b.mlen

/-- A re-run message with the same descriptor keeps its slot, frames, step and reservation, and goes to its engine again; its run blocks
are queued once more on the pair it has (R36, R320). -/
def State.rerunKeep (s : State) (org : Origin) (hd : Head) (n : Nat) (m : Msg) : State :=
  let m1 := { m with org := org, sample := hd.sample, nan := hd.nan, stage := if m.boom then .boom else .arrived,
                     reply := none, forest := none, unitBad := false }
  let s1 := (s.setMsg n m1).addBlocks n (org.desc.dlen.getD 0) m.dig
  if m.kind = 2 ∧ m.boom = false then
    match (s.handle m.target).ver m.version with
    | some v => s1.seqDispatch n { m1 with ctx := none } v
    | none => s1
  else s1

/-- The version that serves a message: in force at the start of its head, or by felling time (R118, R128). -/
def State.servesHead (s : State) (hd : Head) (f : Frame) (h : Nat) : Option Version :=
  (s.verFor h f.stamp (Tbl.find hd.vers h)).bind (s.handle h).ver

/-- Checks 3 to 8 of a message's first frame. -/
def State.dispatchFirst (s : State) (org : Origin) (fr : Nat) (f : Frame) (hd : Head) (boom : Bool) : State :=
  if boom then
    if fld (cfgOf org.cfg Reg.BOOM_CTL) 31 31 = 0 then
      (s.count Reg.BOOM_CNT_REFUSE).answer org [fr] stMalformed 0 0 false
    else s.admitFirst org fr f hd true none
  else
    match s.servesHead hd f (org.desc.model.getD 0) with
    | none => s.answer org [fr] stUnknownModel 0 0 false
    | some v =>
      if org.desc.modelVer.isSome ∧ org.desc.modelVer ≠ some v.num then
        s.answer org [fr] stStaleVersion 0 v.num false
      else s.admitFirst org fr f hd false (some v)

/-- The bytes of a frame of n through the last of its decision fields (R61); where they lie beyond a shorter frame's end, the frame's end
(DESIGN CHOICE, log 177). -/
def Desc.lastNeeded (d : Desc) (n : Nat) : Nat := min (d.doff.getD 0 + d.dlen.getD 0) n

/-- A message leaves the bucker for its engine once its decision fields have been handed over (R61): it takes along frame 0's window
as it stands. -/
def State.leaving (s : State) (n : Nat) : Option (State × Msg) :=
  match Tbl.find s.msgs n with
  | none => none
  | some m =>
    match m.frames.head?.bind (Tbl.find s.frames) with
    | none => some (s, m)
    | some f =>
      if f.avail < m.org.desc.lastNeeded f.bytes.length then none
      else
        let m1 := { m with org := { m.org with win := f.bytes.take 1024 } }
        some (s.setMsg n m1, m1)

/-- DISPATCH (R75): the head ends; its frame's message is admitted, joined, replayed or answered. What it
admits leaves the bucker once its decision fields have been handed over (R61), which its engine's admission asks. The first frame of a
reduction message that passes checks 1 to 3 goes on to check 6, which reads its block, once the block is there (log 123). -/
def State.dispatch (s : State) (n : Nat) : State :=
  match Tbl.find s.heads n with
  | none => s
  | some hd =>
    match Tbl.find s.frames hd.frame with
    | none => s
    | some f =>
      let i := hd.instr
      let d := fillMlen hd.desc f.bytes
      let boom := bitsOf i 17 15 == 1
      let org := { (hd.origin f) with desc := d }
      let toCheck6 := s.mgmt.inService && check1 d boom && check2 org && decide (d.mlen.getD 0 ≤ maxLen org) && !d.later &&
        fld (cfgOf org.cfg Reg.BOOM_CTL) 31 31 == 1
      if opcOf i ≠ 0x30 ∨ hd.park.isSome then s
      else if boom = true ∧ toCheck6 = true ∧ f.avail < d.lastNeeded f.bytes.length then
        { s with heads := Tbl.put s.heads n { hd with waits := true } }
      else
        let fr := hd.frame
        let s0 := (s.endHead n).bindFrame fr
        let old := s0.rerunMsg fr
        let keep := match old with | some (_, m) => sameFields d m.org.desc | none => false
        let s1 := match old with
          | some (k, _) => if keep then s0 else s0.failMsg k 2
          | none => s0
        let s2 :=
          if !s.mgmt.inService then (s1.count Reg.RPR_CNT_ITEMRETRY).answer org [fr] stFaultRetry 0 0 false
          else if keep then (match old with | some (k, m) => s1.rerunKeep org hd k m | none => s1)
          else if !check1 d boom then s1.answer org [fr] stMalformed 0 0 false
          else if !check2 org then s1.answer org [fr] stMalformed 0 0 false
          else if maxLen org < d.mlen.getD 0 then s1.answer org [fr] stTooLarge 0 (maxLen org) false
          else if d.later then s1.joinFrame org fr f
          else s1.dispatchFirst org fr f hd boom
        s2.settle.gc

/-- The heads whose DISPATCH waits for bytes go on with those that have come (R61). -/
def State.lateDispatch (s : State) : State :=
  (s.heads.filter (fun h => h.2.waits)).foldl (fun s h => s.dispatch h.1) s

/-- HEAD_RESUME (R66). -/
def execHeadResume (frame handed : Nat) (ended : Bool) (s : State) : Host.Outcome State Fault Refusal :=
  .next (s.headResume frame handed ended).lateDispatch

/-- FEC_SYNDROME_RESULT (R37). -/
def execFecSyndromeResult (quad : Nat) (on : List (Nat × Nat)) (zero : Bool) (s : State) : Host.Outcome State Fault Refusal :=
  .next (s.fecSyndrome quad on zero).lateDispatch

/-- FEC_CORRECTION_RESULT (R37). -/
def execFecCorrectionResult (quad : Nat) (on : List (Nat × Nat × List (Nat × Byte))) (ok : Bool) (s : State) :
    Host.Outcome State Fault Refusal := .next (s.fecCorrection quad on ok).lateDispatch

/-- DISPATCH (R75). -/
def execDispatch (head : Nat) (s : State) : Host.Outcome State Fault Refusal := .next (s.dispatch head)

end Sys2Proof.Machine
end

