-- ==== Sys2Proof/Machine/ForestRun.lean ====
section
/-! DEFINITION. Forest evaluation of messages: admission to copies and batch parts, the combine, shadow lanes (R89 to R104,
R111 to R114). -/
namespace Sys2Proof.Machine

/-! ## Rates -/

/-- A model is wide (R91). -/
def Version.wide (v : Version) : Bool := decide (1024 < v.forest.width)

/-- Samples one copy accepts in a tick (R88, R91). -/
def Version.perTick (v : Version) : Nat := if v.wide then 2 else 8

/-- Copies that admit: in service and with no lane waiting for a spare (R104). -/
def Version.admitting (v : Version) : Tbl FCopy := v.fcopies.filter (fun c => !c.2.out && c.2.stopped == 0)

/-- Samples a copy has taken in the current tick. -/
def FCopy.takenIn (c : FCopy) (tick : Nat) : Nat := if c.tickAt = tick then c.taken else 0

/-- The copy that can accept a sample soonest, the lower number on a tie, when one can in this tick (R89). -/
def State.soonest (s : State) (v : Version) : Option Nat :=
  (leastBy (fun c => c.2.takenIn s.time.tick)
    (v.admitting.filter (fun c => decide (c.2.takenIn s.time.tick < v.perTick)))).map (·.1)

/-- Jobs dealt to die d of a batch part: lane images (R111). -/
def BatchPart.jobs (p : BatchPart) (d : Nat) : Nat := sumBy (fun x => if x.2.2.1 = d then x.2.2.2.2 else 0) p.deal
/-- Lanes of a batch part on die d. -/
def BatchPart.lanesOn (p : BatchPart) (d : Nat) : Nat := (p.lanes.filter (fun l => l.1 == d)).length
/-- A version's batch part is a streamed group. -/
def Version.streamed (v : Version) : Bool := v.mode != 0
/-- q of R111. -/
def Version.q (v : Version) : Nat := if v.wide then 4 else 1

/-- The batch period P of R111 in cyc, rounded up; the port of a die whose steering sweep runs gives 127 parts of 128 (R334). -/
def State.period (s : State) (v : Version) (p : BatchPart) : Nat :=
  (List.range 4).foldl (fun m d =>
    let l := p.lanesOn d
    if l = 0 then m
    else max m (max (ceilDiv (p.jobs d * v.batchSize * v.q) l)
      (if !v.streamed then 0
       else if (s.die d).sweep.isSome then ceilDiv (p.jobs d * 2048 * 10 * 128) (512 * 127)
       else ceilDiv (p.jobs d * 2048 * 10) 512))) 0

/-- Raw counts from the last pass until the next may start. -/
def State.nextPass (s : State) (v : Version) (p : BatchPart) : Nat :=
  match p.last with
  | none => 0
  | some t => (2 * t + s.period v p + 1) / 2 - s.time.raw

/-! ## Admission (R89, R112) -/

/-- The retry-after of QUEUE (Table 10-8). -/
def State.queueInfo (s : State) (h : Nat) (v : Version) : Nat :=
  let n := if s.holding then 0 else v.admitting.length
  if n = 0 then s.cfg Reg.CONV_RA0 15 0
  else max 1 (ceilDiv (s.handle h).queue.length (n * (if v.wide then 500 else 2000)))

/-- Close the open batch (R112). -/
def BatchPart.close (p : BatchPart) : BatchPart :=
  let c := p.closed ++ [p.batch]
  { p with batch := [], closed := c, canOpen := decide (c.length < 2) }

/-- A sample joins the open batch (R112). -/
def BatchPart.join (p : BatchPart) (n tick size : Nat) : BatchPart :=
  let p1 := { p with batch := p.batch ++ [n], firstTick := if p.batch = [] then tick else p.firstTick }
  if size ≤ p1.batch.length then p1.close else p1

/-- A version has a copy or a batch part in service (R133). -/
def Version.serves (v : Version) : Bool :=
  v.fcopies.any (fun c => !c.2.out) || (match v.part with | some p => !p.out | none => false)

/-- A version needs a stationary copy for each sample: it was loaded with COPIES. -/
def Version.useCopies (v : Version) : Bool := decide (0 < leAt v.desc 8 2)

/-- Put a sample in the model's admission queue, or answer BUSY when it is full (R89). -/
def State.enqueue (s : State) (n : Nat) (m : Msg) (v : Version) : State :=
  let h := s.handle m.target
  if h.queue.contains n then s
  else if 1024 ≤ h.queue.length then s.busyMsg n 2 (s.queueInfo m.target v)
  else (s.setHandle m.target { h with queue := h.queue ++ [n] }).setMsg n
    { m with stage := .queued, queuedAt := s.time.raw, waitTo := s.time.raw + s.cfg Reg.CONV_TMR1 15 0 * 1000 }

/-- Admit a sample to a copy and the batch part, whichever its version has. -/
def State.admitSample (s : State) (n : Nat) (m : Msg) (v : Version) (copy : Option Nat) : State :=
  let t := s.time.tick
  let s := match copy with | some _ => s.rewriteLanes v copy | none => s
  let s1 := s.setHandle m.target { s.handle m.target with queue := (s.handle m.target).queue.filter (· != n) }
  let s2 := s1.modVer m.target v.number (fun v => { v with
    fcopies := match copy with
      | some c => Tbl.modify v.fcopies c (fun x => { x with taken := x.takenIn t + 1, tickAt := t })
      | none => v.fcopies
    part := v.part.map (fun p => p.join n t v.batchSize) })
  s2.setMsg n { m with stage := .running, forest := some { copy := copy, part := v.part.isSome, atTick := t } }

/-- SAMPLE_ADMIT (R89, R112): in arrival order, a sample goes to the copy that can accept it soonest; one that finds no room
in its tick waits in the admission queue; one that needs a batch and finds none open is answered BUSY. -/
def State.sampleAdmit (s : State) (n : Nat) : State :=
  match s.leaving n with
  | none => s
  | some (s, m) =>
    match (s.handle m.target).ver m.version with
    | none => s
    | some v =>
      if m.boom ∨ m.kind ≠ 0 ∨ !(m.stage = .arrived ∨ m.stage = .queued) then s
      else if !v.serves then ((s.count Reg.RPR_CNT_ITEMRETRY).answerMsg n stFaultRetry 0 0).settle
      else
        let first := match (s.handle m.target).queue with | [] => true | a :: _ => a == n
        match v.part with
        | some p =>
          if p.out ∨ !s.admits ∨ !first then (s.enqueue n m v).settle
          else if !p.canOpen then (s.busyMsg n 3 (max 1 (ceilDiv (s.nextPass v p) 1000))).settle
          else if v.useCopies then
            match s.soonest v with
            | some c => s.admitSample n m v (some c)
            | none => (s.enqueue n m v).settle
          else s.admitSample n m v none
        | none =>
          match s.soonest v with
          | some c => if s.admits && first then s.admitSample n m v (some c) else (s.enqueue n m v).settle
          | none => (s.enqueue n m v).settle

/-- SAMPLE_ADMIT (R89). -/
def execSampleAdmit (slot : Nat) (s : State) : Host.Outcome State Fault Refusal := .next (s.sampleAdmit slot)

/-! ## The combine (R93 to R99) -/

/-- COMBINE_COMPLETE (R99): with every partial in, and for a batched sample its batch's, the result of R93 to R97 decides the
reply; a SPLIT model's carries MIXED_LATENCY. -/
def State.combineComplete (s : State) (n : Nat) : State :=
  match Tbl.find s.msgs n with
  | none => s
  | some m =>
    match m.forest, (s.handle m.target).ver m.version with
    | some r, some v =>
      if m.stage ≠ .running ∨ (r.part && !r.partDone) then s
      else
        let x := evalForest v.image v.forest (sampleKey m.sample)
        s.decideResult n x.block false x.sat (v.mode == 1) 0 (List.replicate 32 0 ++ v.digest)
    | _, _ => s

/-- COMBINE_COMPLETE (R99). -/
def execCombineComplete (slot : Nat) (s : State) : Host.Outcome State Fault Refusal := .next (s.combineComplete slot)

/-! ## Shadow lanes (R101, R103) -/

/-- The key of a spare lane of an engine among the shadow partners. -/
def shadowKey (d e sp : Nat) : Nat := (d * 16 + e) * 16 + sp

/-- A spare lane is free to shadow: not in service in place of a failed lane, and not out for a test or a move. -/
def State.shadowFree (s : State) (d e sp : Nat) : Bool := (s.spareAt d e sp).isSome

/-- A logical lane is in service and holds no batch part. -/
def State.shadowable (s : State) (d e l : Nat) : Bool :=
  (s.lanesIn d e).contains l &&
  !s.allVersions.any (fun hv => match hv.2.part with | some p => !p.out && p.lanes.contains (d, e, l) | none => false)

/-- SHADOW_ROTATE (R101): spare lane s moves to the next of its 16 lanes, in ascending order, passing over lanes in cycled
evaluation, and loads its image. -/
def State.shadowRotate (s : State) (d e sp : Nat) : State :=
  if 4 ≤ d ∨ 16 ≤ e ∨ 16 ≤ sp ∨ !s.shadowFree d e sp then s
  else
    let k := shadowKey d e sp
    let cur := match Tbl.find s.units.partner k with | some x => x % 16 | none => 15
    let order := (List.range 16).map (fun i => (cur + 1 + i) % 16)
    match order.find? (fun i => s.shadowable d e (16 * sp + i)) with
    | none => s
    | some i =>
      -- the image is loaded from the tree store
      let s1 := (s.rewriteStore d (e / 2)).rewriteLane d e (256 + sp)
      { s1 with units.partner := Tbl.put s1.units.partner k (16 * sp + i)
                units.shadowOff := s1.units.shadowOff.filter (· != k) }

/-- SHADOW_ROTATE (R101). -/
def execShadowRotate (die engine spare : Nat) (s : State) : Host.Outcome State Fault Refusal :=
  .next (s.shadowRotate die engine spare)

/-! ## Batches (R112, R113) -/

/-- Do something to the first version of a handle whose batch part meets a condition: serving first, then those that drain. -/
def State.onPart (s : State) (h : Nat) (p : Version → BatchPart → Bool) (f : Version → BatchPart → BatchPart) : State :=
  let x := s.handle h
  match (x.serving.toList ++ x.old).find? (fun v => match v.part with | some b => p v b | none => false) with
  | none => s
  | some v => s.modVer h v.number (fun v => { v with part := v.part.map (f v) })

/-- BATCH_WAIT_EXPIRE (R112): the open batch closes once BATCH_WAIT ticks have passed since its first sample. -/
def execBatchWaitExpire (handle : Nat) (s : State) : Host.Outcome State Fault Refusal :=
  .next (s.onPart handle (fun v p => p.batch != [] && decide (p.firstTick + v.batchWait ≤ s.time.tick)) (fun _ p => p.close))

/-- The lanes and tree stores of the batch part that starts a pass are rewritten where they are uncorrectable (Table 14-7). -/
def State.rewriteParts (s : State) (h : Nat) (p : Version → BatchPart → Bool) : State :=
  let x := s.handle h
  match (x.serving.toList ++ x.old).find? (fun v => match v.part with | some b => p v b | none => false) with
  | none => s
  | some v =>
    let s1 := s.rewriteLanes v none
    if v.streamed then s1
    else match v.part with
      | some b => b.deal.foldl (fun s x => s.rewriteStore x.2.2.1 x.2.2.2.1) s1
      | none => s1

/-- Start the oldest closed batch's pass. -/
def BatchPart.startPass (p : BatchPart) (raw : Nat) : BatchPart :=
  match p.closed with
  | [] => p
  | b :: t => { p with closed := t, running := p.running ++ [(b, raw)], last := some raw, canOpen := true }

/-- BATCH_PASS_START (R112): the oldest closed batch starts its pass once P cyc have passed since the previous pass; with a
place in the queue free again a batch may open. -/
def execBatchPassStart (handle : Nat) (s : State) : Host.Outcome State Fault Refusal :=
  let may := fun (v : Version) (p : BatchPart) => p.closed != [] && !p.out && s.nextPass v p == 0
  .next (State.onPart (s.rewriteParts handle may) handle may (fun _ p => p.startPass s.time.raw))

/-- Count a finished pass on each die of the part, and the bytes its streamed trees took from the die's port. -/
def State.passDone (s : State) (v : Version) (p : BatchPart) (d : Nat) : State :=
  if p.lanesOn d = 0 then s
  else
    let s1 := s.count (Reg.FRST_CNT_PASS d)
    if v.streamed then
      let n := (s1.rwW (Reg.FRST_STRM_HI d)).toNat * 2 ^ 32 + (s1.rwW (Reg.FRST_STRM_LO d)).toNat + p.jobs d * 2048
      (s1.setRw (Reg.FRST_STRM_LO d) (BitVec.ofNat 32 n)).setRw (Reg.FRST_STRM_HI d) (BitVec.ofNat 32 (n / 2 ^ 32))
    else s1

/-- BATCH_PASS_COMPLETE (R113): the partials of the oldest batch in a pass are complete; its samples go on to the combine. `ue`: a
streamed pass met an uncorrectable DRAM word, which makes the verdict of every sample of the batch bad (Table 14-7). -/
def State.batchDone (s : State) (h : Nat) (ue : Bool) : State :=
  let x := s.handle h
  match (x.serving.toList ++ x.old).find? (fun v => match v.part with | some b => b.running != [] | none => false) with
  | none => s
  | some v =>
    match v.part with
    | none => s
    | some p =>
      match p.running with
      | [] => s
      | (b, _) :: t =>
        let s1 := s.modVer h v.number (fun v => { v with part := some { p with running := t } })
        let s2 := (List.range 4).foldl (fun s d => s.passDone v p d) s1
        let s3 : State := { s2 with msgs := Tbl.mapVals s2.msgs (fun n m =>
            if b.contains n then { m with forest := m.forest.map (fun r => { r with partDone := true }) } else m) }
        if ue && v.streamed then
          -- the word lies in the POOL of a die that streams for this part (R342)
          let ds := (List.range 4).filter (fun d => 0 < p.jobs d)
          let r := s3.drawNat (ds.length - 1)
          (b.foldl (fun s n => s.unitFail n false) (r.2.poolUe (ds.getD r.1 0))).settle
        else s3

/-- BATCH_PASS_COMPLETE (R113). -/
def execBatchPassComplete (p : PassEnd) (s : State) : Host.Outcome State Fault Refusal := .next (s.batchDone p.handle p.ue)

end Sys2Proof.Machine
end

