-- ==== Sys2Proof/Machine/ImageF.lean ====
section
/-! DEFINITION. Forest images and their placement: the checks of LOAD (R115 to R117) and the placement of R121 to R127. -/
namespace Sys2Proof.Machine

/-! ## Checking images (R115, R117) -/

/-- The least offset whose test says that something is wrong. -/
def firstBad : List (Bool × Nat) → Option Nat
  | [] => none
  | (b, o) :: t =>
    match b, firstBad t with
    | false, r => r
    | true, none => some o
    | true, some x => some (min o x)

/-- The sections of an image in order, as (header field, offset, length), checked for alignment and order: what fails, and
the end of the last section. -/
def secFaults : List (Nat × Nat × Nat) → Nat → List (Bool × Nat) × Nat
  | [], e => ([], e)
  | (field, off, len) :: t, e =>
    let r := secFaults t (off + len)
    ((off % 64 != 0 || decide (off < e), field) :: r.1, r.2)

/-- Bytes between sections are zero: the first that is not. -/
def padFaults (b : List Byte) : List (Nat × Nat × Nat) → Nat → List (Bool × Nat)
  | [], e => ((List.range (b.length - e)).map (fun i => (byteAt b (e + i) != 0, e + i)))
  | (_, off, len) :: t, e =>
    (List.range (off - e)).map (fun i => (byteAt b (e + i) != 0, e + i)) ++ padFaults b t (off + len)

/-- Round up to a multiple of 64. -/
def up64 (n : Nat) : Nat := ceilDiv n 64 * 64

/-- The sections of a forest image (Table 5-3). -/
def forestSecs (f : ForestHdr) : List (Nat × Nat × Nat) :=
  [(32, f.fmap, f.width), (40, f.cmap, f.ntrees), (48, f.node, f.ntrees * (2 ^ f.depth - 1) * 4),
   (56, f.leaf, f.ntrees * 2 ^ f.depth * 4), (64, f.base, f.nclass * 4), (72, f.digest, 32)] ++
  (if f.flags.testBit 0 then [(80, f.sig, 100)] else [])

/-- ERR_IMAGE of a forest image's header. -/
def forestHdrBad (b : List Byte) (f : ForestHdr) : Option Nat :=
  let fmt := f.fmt
  let field :=
    [(leAt b 0 4 != 0x4D464B43, 0), (leAt b 4 2 != 1, 4), (leAt b 6 2 != 0x80, 6), (decide (1024 ≤ leAt b 8 2), 8),
     (decide (f.depth < 1 ∨ 12 < f.depth), 12), (decide (1 < fmt), 13), (decide (f.nclass < 1 ∨ 16 < f.nclass), 14),
     (if fmt = 0 then f.frac != 0 else decide (31 < f.frac), 15), (decide (f.width < 1 ∨ 4096 < f.width), 16),
     (decide (1 < f.flags), 18), (decide (f.ntrees < 1 ∨ 4194304 < f.ntrees), 20),
     (f.flags.testBit 0 == false && f.sig != 0, 80), (leVal (slice b 88 40) != 0, 88)]
  match firstBad field with
  | some o => some o
  | none =>
    let r := secFaults (forestSecs f) 128
    firstBad ((f.len != up64 r.2 || decide (2 ^ 34 < f.len), 24) :: r.1)

/-- ERR_IMAGE of a forest image's sections: classes of K or more, and the zeros between sections (DESIGN CHOICE, log 167: the code and the
offset of a byte there that is not zero). Of the FMAP only USED is held against anything, by ERR_NODE (R117). -/
def forestBodyBad (b : List Byte) (f : ForestHdr) : Option Nat :=
  let cm := (List.range f.ntrees).any (fun j => decide (f.nclass ≤ byteAt b (f.cmap + j)))
  firstBad ((cm, f.cmap) :: padFaults b (forestSecs f) 128)

/-- ERR_NODE (Table 4-2, R86, Table 5-3). `whole`: every node word and FMAP byte could be read, so that USED bits can be judged. DESIGN
CHOICE (log 168): a USED bit that disagrees with the nodes is reported at its FMAP byte. -/
def nodeBad (b : List Byte) (f : ForestHdr) (whole : Bool) : Option Nat :=
  let n := f.ntrees * (2 ^ f.depth - 1)
  let w := fun i => leAt b (f.node + 4 * i) 4
  let bad := (List.range n).map (fun i =>
    (if w i % 16 = 0 then decide (f.width ≤ w i / 2 ^ 20) else w i != 1, f.node + 4 * i))
  let reads := fun s => (List.range n).any (fun i => w i % 16 == 0 && w i / 2 ^ 20 == s)
  firstBad ((List.range f.width).map (fun i => (whole && (byteAt b (f.fmap + i)).testBit 7 != reads i, f.fmap + i)) ++ bad)

/-- ERR_LEAF (Table 4-3): an FP32 NaN or infinity among leaves and base scores. -/
def leafBad (b : List Byte) (f : ForestHdr) : Option Nat :=
  if f.fmt = 0 then
    let bad := fun (o : Nat) => (leAt b o 4 / 2 ^ 23 % 256 == 255, o)
    firstBad ((List.range (f.ntrees * 2 ^ f.depth)).map (fun i => bad (f.leaf + 4 * i)) ++
      (List.range f.nclass).map (fun i => bad (f.base + 4 * i)))
  else none

/-- ERR_DIGEST and ERR_SIGNATURE (R116, R117): the status and its offset. `flagsAt` is where the header's FLAGS field lies. -/
def State.sealBad (s : State) (b : List Byte) (digest sig flagsAt : Nat) (isSigned : Bool) : Option (Nat × Nat) :=
  if slice b digest 32 ≠ sha256 (b.take digest) then some (6, digest)
  else if !isSigned then (if s.cfg Reg.GCTL_SECURE 31 31 = 1 then some (7, flagsAt) else none)
  else
    match Tbl.find s.mgmt.modelKeys (leAt b sig 4) with
    | none => some (7, sig)
    | some key => if Config.ecdsaVerify key (b.take sig) (slice b (sig + 4) 96) then none else some (7, sig)

/-- The checks of a forest image from ERR_IMAGE to ERR_LEAF, in ascending code (R117). `seen off n`: n image bytes from off on could be
read. A check that needs bytes that could not does not fail by them (log 131); bytes that could not be read are zeros here, which
fail none of the checks of single bytes and words. -/
def State.forestBad (s : State) (b : List Byte) (seen : Nat → Nat → Bool) : Option (Nat × Nat) :=
  let f := forestHdr b
  match forestHdrBad b f with
  | some o => some (5, o)
  | none =>
    match forestBodyBad b f with
    | some o => some (5, o)
    | none =>
      match (if seen 0 b.length then s.sealBad b f.digest f.sig 18 (f.flags.testBit 0) else none) with
      | some r => some r
      | none =>
        match nodeBad b f (seen f.fmap f.width && seen f.node (f.ntrees * (2 ^ f.depth - 1) * 4)) with
        | some o => some (8, o)
        | none => (leafBad b f).map (fun o => (9, o))

/-! ## Room (R126) -/

/-- Free room while a version is placed: free lanes by (die × 16 + engine), free tree-store units by die × 8 + compartment, free stream
bytes by die, tolerant stationary lanes used by die × 16 + engine. -/
structure Room where
  lanes : Tbl (List Nat)
  ts : Tbl Nat
  pool : Tbl Nat
  tol : Tbl Nat
  deriving DecidableEq, Repr

/-- Tree-store units of a compartment that no version holds, a reserve among those held. -/
def State.storeFree (s : State) (d c : Nat) : Nat := 4096 - (s.storeUse d c).1 - (s.storeUse d c).2

/-- A die can take a tolerant copy (R125, R126): at least two compartments in service, its reserve lanes free, of earlier copies and of those
that a retirement has moved there, and where it has no tolerant copy yet, 512 units of each tree store free. -/
def State.tolDie (s : State) (d : Nat) : Bool :=
  s.dieOk d && decide (2 ≤ (s.cmptsIn d).length) &&
  !s.allVersions.any (fun hv => hv.2.lanesUsed.any (fun l => l.1 == d && reserved l.2.2)) &&
  (s.hasTolerant d || (s.cmptsIn d).all (fun c => decide (512 ≤ s.storeFree d c)))

/-- The dies of a mask that a placement may use: for a tolerant stationary copy those of R125, for another tolerant one those with two
compartments in service. -/
def State.usable (s : State) (mask : List Nat) (tolerant stationary : Bool) : List Nat :=
  mask.filter (fun d => s.dieOk d && (!tolerant || (if stationary then s.tolDie d else decide (2 ≤ (s.cmptsIn d).length))))

/-- The lanes that tolerant stationary copies may hold in an engine of a die (R125). -/
def State.tolCap (s : State) (tol : Bool) (d : Nat) : Option Nat :=
  if tol then some (32 * ((s.cmptsIn d).length - 1)) else none

/-- The room there is now on dies of a mask, where `tol` says that a die keeps a reserve. -/
def State.room (s : State) (mask : List Nat) (tol : Nat → Bool) : Room :=
  let used := s.allVersions.flatMap (fun hv => hv.2.lanesUsed)
  let dies := mask.filter s.dieOk
  { lanes := dies.flatMap (fun d => (List.range 16).map (fun e =>
      (d * 16 + e, (s.lanesIn d e).filter (fun l => !used.contains (d, e, l) && !(tol d && reserved l)))))
    ts := dies.flatMap (fun d => (s.cmptsIn d).map (fun c =>
      (d * 8 + c, s.storeFree d c - (if tol d && !s.hasTolerant d then 512 else 0))))
    pool := dies.map (fun d => (d, s.poolFree d))
    tol := dies.flatMap (fun d => (List.range 16).map (fun e => (d * 16 + e, (s.tolLanes d e false).length))) }

/-! ## Blocks (R121) -/

/-- A block: class, number, the trees of it in class order. -/
abbrev Block := Nat × Nat × List Nat

/-- The block exponent b_c (R121). -/
def blockExp (p g a : Nat) : Nat :=
  ((List.range 23).filter (fun b => decide (2 ^ b ≤ p ∧ 2 ^ b * g ≤ a))).getLastD 0

/-- The blocks of class c. -/
def classBlocks (b : List Byte) (f : ForestHdr) (a c : Nat) : List Block :=
  let ts := classTrees b f c
  let sz := 2 ^ blockExp (pow2Above ts.length) f.g a
  (List.range (ceilDiv ts.length sz)).map (fun m => (c, m, (ts.drop (m * sz)).take sz))

/-- The blocks in global block order: by number, then by class. -/
def globalBlocks (b : List Byte) (f : ForestHdr) (a : Nat) : List Block :=
  let all := (List.range f.nclass).map (classBlocks b f a)
  let most := all.foldl (fun m l => max m l.length) 0
  (List.range most).flatMap (fun m => all.filterMap (fun l => l[m]?))

/-! ## Stationary copies (R122, R125) -/

/-- Take `n` aligned groups of g lanes from free lanes, lowest first: the groups' first lanes and what is left. -/
def takeGroups (g : Nat) : Nat → List Nat → Option (List Nat × List Nat)
  | 0, free => some ([], free)
  | n + 1, free =>
    match free.find? (fun l => l % g == 0 && (List.range g).all (fun i => free.contains (l + i))) with
    | none => none
    | some l =>
      (takeGroups g n (free.filter (fun x => !(decide (l ≤ x ∧ x < l + g))))).map (fun r => (l :: r.1, r.2))

/-- Put a block's lane images in one engine: lanes as (die, engine, lane, image), and the room left. `cap` limits the
tolerant stationary lanes of an engine. -/
def placeIn (g : Nat) (cap : Option Nat) (d e : Nat) (r : Room) (b : Block) : Option (List (Nat × Nat × Nat × Nat) × Room) :=
  let k := d * 16 + e
  let n := b.2.2.length
  let held := Tbl.getD r.tol k 0
  if (match cap with | some c => decide (c < held + n * g) | none => false) then none
  else
    match takeGroups g n (Tbl.getD r.lanes k []) with
    | none => none
    | some (starts, left) =>
      let ls := (starts.zip b.2.2).flatMap (fun x => (List.range g).map (fun i => (d, e, x.1 + i, x.2 * g + i)))
      some (ls, { r with lanes := Tbl.put r.lanes k left
                         tol := if cap.isSome then Tbl.put r.tol k (held + n * g) else r.tol })

/-- Put a block in the first of some engines whose free lanes take it whole. -/
def placeBlock (g : Nat) (cap : Nat → Option Nat) (r : Room) (b : Block) :
    List (Nat × Nat) → Option (List (Nat × Nat × Nat × Nat) × Room)
  | [] => none
  | (d, e) :: t =>
    match placeIn g (cap d) d e r b with
    | some x => some x
    | none => placeBlock g cap r b t

/-- Put every block of a copy in some engines. -/
def placeBlocks (g : Nat) (cap : Nat → Option Nat) (engines : List (Nat × Nat)) :
    Room → List Block → Option (List (Nat × Nat × Nat × Nat) × Room)
  | r, [] => some ([], r)
  | r, b :: t =>
    match placeBlock g cap r b engines with
    | none => none
    | some (ls, r1) => (placeBlocks g cap engines r1 t).map (fun x => (ls ++ x.1, x.2))

/-- The engines of some dies in order. -/
def enginesOf (dies : List Nat) : List (Nat × Nat) := dies.flatMap (fun d => (List.range 16).map (fun e => (d, e)))

/-- One copy (R122): on the first single die that takes it, else over the dies unless ONE_DIE. -/
def placeCopy (g : Nat) (cap : Nat → Option Nat) (dies : List Nat) (oneDie : Bool) (r : Room) (bs : List Block) :
    Option (List (Nat × Nat × Nat × Nat) × Room) :=
  match dies.findSome? (fun d => placeBlocks g cap (enginesOf [d]) r bs) with
  | some x => some x
  | none => if oneDie then none else placeBlocks g cap (enginesOf dies) r bs

/-- As many copies as fit, at most n, in ascending number. -/
def placeCopies (g : Nat) (cap : Nat → Option Nat) (dies : List Nat) (oneDie : Bool) (bs : List Block) :
    Nat → Room → List (List (Nat × Nat × Nat × Nat)) × Room
  | 0, r => ([], r)
  | n + 1, r =>
    match placeCopy g cap dies oneDie r bs with
    | none => ([], r)
    | some (ls, r1) =>
      let x := placeCopies g cap dies oneDie bs n r1
      (ls :: x.1, x.2)

/-! ## Batch parts (R114, R123) -/

/-- Divide n among m shares as evenly as possible, the lower taking one more. -/
def shares (n m : Nat) : List Nat := (List.range m).map (fun i => n / m + (if i < n % m then 1 else 0))

/-- The lanes of a batch part: LANES over the dies, each die's share over its in-service engines, the lowest free lanes. -/
def dealLanes (s : State) (r : Room) (lanes : Nat) (dies : List Nat) : Option (List (Nat × Nat × Nat)) :=
  let per := dies.zip (shares lanes dies.length)
  let all := per.map (fun x =>
    let es := (List.range 16).filter (fun e => s.cmptOk x.1 (e / 2))
    (es.zip (shares x.2 es.length)).map (fun y => (y.2, ((Tbl.getD r.lanes (x.1 * 16 + y.1) []).take y.2).map (fun l => (x.1, y.1, l)))))
  let flat := all.flatMap id
  if flat.all (fun y => y.2.length == y.1) && sumBy (fun (y : Nat × List (Nat × Nat × Nat)) => y.2.length) flat == lanes then
    some (flat.flatMap (·.2))
  else none

/-- Take units from a compartment's tree store. -/
def Room.take (r : Room) (k n : Nat) : Option Room :=
  match Tbl.find r.ts k with
  | some f => if n ≤ f then some { r with ts := Tbl.put r.ts k (f - n) } else none
  | none => if n = 0 then some r else none

/-- Take units from several compartments. -/
def Room.takeAll : Room → List (Nat × Nat) → Option Room
  | r, [] => some r
  | r, (k, n) :: t => (r.take k n).bind (fun r => Room.takeAll r t)

/-- Tree-store units of batch buffers and staging rings by compartment (R114): a die's buffers spread evenly over its
in-service compartments, the rings in the compartments of their lanes. -/
def bufferUnits (s : State) (f : ForestHdr) (size : Nat) (streamed : Bool) (lanes : List (Nat × Nat × Nat)) : List (Nat × Nat) :=
  let w := ceilDiv (min f.width 1024) 128 * 128
  let n := ceilDiv (4 * size * 2 * w) 2048
  let dies := (List.range 4).filter (fun d => lanes.any (fun l => l.1 == d))
  let bufs := dies.flatMap (fun d =>
    let cs := s.cmptsIn d
    (cs.zip (shares n cs.length)).map (fun x => (d * 8 + x.1, x.2)))
  bufs.map (fun x => (x.1, x.2 + (if streamed then
    2 * (lanes.filter (fun l => l.1 * 8 + l.2.1 / 2 == x.1)).length else 0)))

/-- The compartment with the most free space, the lowest on a tie. -/
def Room.freest (r : Room) (d : Nat) (cs : List Nat) : Option Nat :=
  leastBy (fun c => 4096 - Tbl.getD r.ts (d * 8 + c) 0) cs

/-- The compartment after c among those in service, wrapping. -/
def nextCmpt (cs : List Nat) (c : Nat) : Nat := (othersOf cs c).headD c

/-- Deal blocks (R123): to the die with the fewest bytes so far; a cycled copy's images go to the die's freest compartment,
and of a tolerant one to the next compartment also (R125). Answers the deal and the room, with the units that were
used by compartment. -/
def dealBlocks (s : State) (g : Nat) (streamed tolerant : Bool) (dies : List Nat) :
    Room → Tbl Nat → List Block → Option (List (Nat × Nat × Nat × Nat × Nat) × Room)
  | r, _, [] => some ([], r)
  | r, sofar, b :: t =>
    match leastBy (fun d => Tbl.getD sofar d 0) dies with
    | none => none
    | some d =>
      let n := b.2.2.length * g
      let so := Tbl.put sofar d (Tbl.getD sofar d 0 + n * 2048)
      let cs := s.cmptsIn d
      let step :=
        if streamed then
          let p := Tbl.getD r.pool d 0
          if n * 2048 ≤ p then some (0, { r with pool := Tbl.put r.pool d (p - n * 2048) }) else none
        else
          match r.freest d cs with
          | none => none
          | some c => ((r.take (d * 8 + c) n).bind (fun r =>
              if tolerant then r.take (d * 8 + nextCmpt cs c) n else some r)).map (fun r => (c, r))
      match step with
      | none => none
      | some (c, r1) =>
        (dealBlocks s g streamed tolerant dies r1 so t).map (fun x => ((b.1, b.2.1, d, c, n) :: x.1, x.2))

/-! ## The whole placement (R122 to R127) -/

/-- A placement of a forest: copies, batch part, trees of the resident part, the tree-store units and stream bytes it uses. -/
structure Placed where
  copies : List (List (Nat × Nat × Nat × Nat))
  part : Option BatchPart
  resTrees : Nat
  stores : Tbl (Nat × Nat)
  stream : Tbl Nat
  deriving DecidableEq, Repr

/-- The load descriptor's placement fields. -/
structure Want where
  mode : Nat
  tolerant : Bool
  oneDie : Bool
  dies : List Nat
  copies : Nat
  lanes : Nat
  size : Nat
  deriving DecidableEq, Repr

/-- Read the placement fields of a load descriptor (Table 5-5). -/
def wantOf (d : List Byte) : Want :=
  { mode := leAt d 1 1, tolerant := (leAt d 2 1).testBit 0, oneDie := (leAt d 2 1).testBit 1,
    dies := pick 4 (fun i => (leAt d 3 1).testBit i), copies := leAt d 8 2, lanes := leAt d 12 4, size := 2 ^ leAt d 10 1 }

/-- The blocks of a forest, with A of R121. -/
def wantBlocks (b : List Byte) (f : ForestHdr) (w : Want) : List Block :=
  globalBlocks b f (if w.tolerant ∧ 0 < w.copies then 32 else 256)

/-- The units by die × 8 + compartment that the images of lanes take. -/
def laneUnits (lanes : List (Nat × Nat × Nat × Nat)) : List (Nat × Nat) :=
  (List.range 32).map (fun k => (k, (lanes.filter (fun l => l.1 * 8 + l.2.1 / 2 == k)).length))

/-- The dies over which a batch part is dealt (R123): those of DIE_MASK in service; a cycled copy that is tolerant needs two compartments
(R126). -/
def State.partDies (s : State) (w : Want) : List Nat :=
  if w.mode = 0 then s.usable w.dies w.tolerant false else w.dies.filter s.dieOk

/-- COPIES stationary copies of the first `res` blocks under R122, each lane image with a place in the tree store of its compartment: the
copies, the units that they take and the room that is left. -/
def State.placeStationary (s : State) (f : ForestHdr) (w : Want) (bs : List Block) (res : Nat) :
    Option (List (List (Nat × Nat × Nat × Nat)) × List (Nat × Nat) × Room) :=
  let statTol := w.tolerant && decide (0 < w.copies)
  let usable := s.usable w.dies w.tolerant statTol
  let r0 := s.room w.dies (fun d => s.hasTolerant d || (statTol && usable.contains d))
  let cp := if w.copies = 0 then ([], r0) else placeCopies f.g (s.tolCap statTol) usable w.oneDie (bs.take res) w.copies r0
  let own := laneUnits (cp.1.flatMap id)
  if cp.1.length < w.copies then none else (cp.2.takeAll own).map (fun r => (cp.1, own, r))

/-- Place a forest with the first `res` blocks stationary and the rest in the batch part. DESIGN CHOICE (log 132): the batch buffers and
rings take their units before the blocks of a cycled copy choose the compartment with the most free space. -/
def State.placeWith (s : State) (f : ForestHdr) (w : Want) (bs : List Block) (res : Nat) : Option Placed :=
  match s.placeStationary f w bs res with
  | none => none
  | some (copies, own, r1) =>
    if w.lanes = 0 then
      some { copies := copies, part := none, resTrees := 0, stream := []
             stores := (own.map (fun x => (x.1, (x.2, 0)))).filter (fun x => x.2 != (0, 0)) }
    else
      let streamed := w.mode != 0
      let dies := s.partDies w
      match dealLanes s r1 w.lanes dies with
      | none => none
      | some pl =>
        let bufs := bufferUnits s f w.size streamed pl
        match r1.takeAll bufs with
        | none => none
        | some r2 =>
          match dealBlocks s f.g streamed w.tolerant dies r2 [] (bs.drop res) with
          | none => none
          | some (deal, r3) =>
            let imgs := (List.range 32).map (fun k => (k, Tbl.getD r2.ts k 0 - Tbl.getD r3.ts k 0))
            some { copies := copies
                   part := some { lanes := pl, deal := deal }
                   resTrees := if w.mode = 1 then sumBy (fun (b : Block) => b.2.2.length) (bs.take res) else 0
                   stores := ((List.range 32).map (fun k =>
                      (k, (Tbl.getD own k 0 + Tbl.getD imgs k 0, Tbl.getD bufs k 0)))).filter (fun x => x.2 != (0, 0))
                   stream := if streamed then (List.range 4).map (fun d => (d, Tbl.getD r2.pool d 0 - Tbl.getD r3.pool d 0)) else [] }

/-- The resident part of a SPLIT model (R124): the longest prefix of the global block order for which COPIES stationary copies fit; none
for a prefix of zero blocks. -/
def State.splitPrefix (s : State) (f : ForestHdr) (w : Want) (bs : List Block) : Option Nat :=
  ((List.range bs.length).map (fun i => bs.length - i)).find? (fun n => (s.placeStationary f w bs n).isSome)

/-- The placement of a load (R122 to R124). -/
def State.placeForest (s : State) (b : List Byte) (f : ForestHdr) (w : Want) : Option Placed :=
  let bs := wantBlocks b f w
  if w.mode = 1 then (s.splitPrefix f w bs).bind (s.placeWith f w bs)
  else s.placeWith f w bs (if w.mode = 0 ∧ 0 < w.copies then bs.length else 0)

/-- COPIES_FIT (R127). -/
def State.copiesFit (s : State) (b : List Byte) (f : ForestHdr) (w : Want) : Nat :=
  (((List.range w.copies).map (fun i => w.copies - 1 - i)).find? (fun n =>
    decide (0 < n) && (s.placeForest b f { w with copies := n }).isSome)).getD 0

/-- The lane images that one stationary copy of a request holds. DESIGN CHOICE (log 133): of a SPLIT request, whose resident part depends
on what fits, those of its first block; the other blocks count as streamed. -/
def residentNeed (b : List Byte) (f : ForestHdr) (w : Want) : Nat :=
  if w.mode = 1 then (match wantBlocks b f w with | [] => 0 | x :: _ => x.2.2.length * f.g) else f.ntrees * f.g

/-- LANES_SHORT (R127): against every free lane, and for tolerant stationary copies against those that R125 lets them use. -/
def State.lanesShort (s : State) (b : List Byte) (f : ForestHdr) (w : Want) : Nat :=
  let statTol := w.tolerant && decide (0 < w.copies)
  let dies := s.usable w.dies w.tolerant statTol
  let r := s.room dies (fun d => s.hasTolerant d || statTol)
  let free := sumBy (fun (x : Nat × List Nat) => x.2.length) r.lanes
  let stat := sumBy (fun (x : Nat × List Nat) => match s.tolCap statTol (x.1 / 16) with
    | some c => min x.2.length (c - Tbl.getD r.tol x.1 0)
    | none => x.2.length) r.lanes
  let need := w.copies * residentNeed b f w
  max (need - stat) (need + w.lanes - free)

/-- TS_SHORT (R127): bytes of images, tolerant reserves, tolerant copies of cycled images, batch buffers and rings beyond those
free. -/
def State.tsShort (s : State) (b : List Byte) (f : ForestHdr) (w : Want) : Nat :=
  let dies := s.usable w.dies w.tolerant false
  let free := sumBy (fun d => sumBy (s.storeFree d) (s.cmptsIn d)) dies
  let reserve := if w.tolerant ∧ 0 < w.copies then sumBy (fun d => if s.hasTolerant d then 0 else 512 * (s.cmptsIn d).length) dies else 0
  let cyc := if w.mode = 0 ∧ w.copies = 0 then f.ntrees * f.g * (if w.tolerant then 2 else 1) else 0
  let wd := ceilDiv (min f.width 1024) 128 * 128
  let bufs := if w.lanes = 0 then 0 else dies.length * ceilDiv (4 * w.size * 2 * wd) 2048
  let rings := if w.mode = 0 then 0 else 2 * w.lanes
  (w.copies * residentNeed b f w + reserve + cyc + bufs + rings - free) * 2048

/-- DRAM_SHORT (R127): stream-region bytes beyond the free pool, over the dies that are short; of a SPLIT request for every block but
the first (log 133). -/
def State.dramShort (s : State) (b : List Byte) (f : ForestHdr) (w : Want) : Nat :=
  if w.mode = 0 then 0
  else
    let dies := s.usable w.dies w.tolerant false
    let need := ((wantBlocks b f w).drop (if w.mode = 1 then 1 else 0)).foldl (fun (t : Tbl Nat) x =>
      match leastBy (fun d => Tbl.getD t d 0) dies with
      | some d => Tbl.put t d (Tbl.getD t d 0 + x.2.2.length * f.g * 2048)
      | none => t) []
    sumBy (fun d => to64k (Tbl.getD need d 0) - s.poolFree d) dies

/-! ## What a tree store holds (R84, R122, R123, R125) -/

/-- The images that a cycled copy keeps in a compartment's tree store: those of the blocks dealt to it, and of a tolerant copy to the
compartment before it. -/
def State.dealtImages (s : State) (v : Version) (d c : Nat) : List Nat :=
  match v.part with
  | none => []
  | some p =>
    if v.mode != 0 || p.out then []
    else
      let bs := wantBlocks v.image v.forest (wantOf v.desc)
      p.deal.flatMap (fun x =>
        if x.2.2.1 = d ∧ (x.2.2.2.1 = c ∨ v.tolerant = true ∧ nextCmpt (s.cmptsIn d) x.2.2.2.1 = c) then
          (match bs.find? (fun b => b.1 == x.1 && b.2.1 == x.2.1) with
          | some b => b.2.2.flatMap (fun j => (List.range v.forest.g).map (fun i => j * v.forest.g + i))
          | none => [])
        else [])

/-- The lane images that the tree store of a compartment holds, as (version, image). DESIGN CHOICE (log 85): they lie from the start of
the store on, in this order: of each version the images of its stationary lanes there and of its cycled blocks, then those that the
compartment keeps for tolerant copies of others. -/
def State.storeImages (s : State) (d c : Nat) : List (Version × Nat) :=
  let cs := s.cmptsIn d
  s.allVersions.flatMap (fun hv =>
    hv.2.fcopies.flatMap (fun cp => if cp.2.out then []
      else (cp.2.lanes.filter (fun x => x.1 == d && x.2.1 / 2 == c)).map (fun x => (hv.2, x.2.2.2))) ++
    (s.dealtImages hv.2 d c).map (fun i => (hv.2, i))) ++
  (List.range 16).flatMap (fun e =>
    if e / 2 = c then []
    else ((s.tolLanes d e false).zipIdx.filter (fun x => (othersOf cs (e / 2))[x.2 / 32]? == some c)).filterMap (fun x => s.laneHeld d e x.1))

/-- The compartments in service, as die × 8 + compartment. -/
def State.cmptsNow (s : State) : List Nat := (List.range 4).flatMap (fun d => (s.cmptsIn d).map (fun c => d * 8 + c))

/-- A version from a placement made while some compartments are in service. -/
def Placed.version (p : Placed) (number : Nat) (image : List Byte) (imageAt : Nat) (desc : List Byte) (cmpts : List Nat) : Version :=
  { kind := 0, number := number, image := image, imageAt := imageAt, desc := desc
    digest := slice image (forestHdr image).digest 32
    fcopies := (List.range p.copies.length).map (fun i => (i, ({ lanes := p.copies.getD i [] } : FCopy)))
    part := p.part, resTrees := p.resTrees, stores := p.stores, stream := p.stream, cmpts := cmpts }

end Sys2Proof.Machine
end

