-- ==== Sys2Proof/Machine/ImageP.lean ====
section
/-! DEFINITION. Program and sequence images and their placement: the checks of PLOAD (R161 to R166, R194 to R196). -/
namespace Sys2Proof.Machine

/-! ## Instructions (R194) -/

/-- FMT values an opcode takes (Table 7-9). -/
def fmtOk (o fmt : Nat) : Bool :=
  if [0x03, 0x04, 0x05, 0x06, 0x07, 0x08, 0x0E].contains o then [3, 8, 9].contains fmt
  else if o = 0x0F ∨ o = 0x12 then fmt == 8
  else if o = 0x10 then [1, 2, 3, 6, 7, 8, 9].contains fmt
  else if o = 0x11 ∨ o = 0x2E then decide (fmt ≤ 0xE)
  else if o = 0x13 then [1, 2, 3, 8, 9].contains fmt
  else if o = 0x18 then decide (fmt < 8)
  else if [0x22, 0x23, 0x24, 0x25, 0x26, 0x2C].contains o then [1, 2, 3, 6, 7, 8].contains fmt
  else if o = 0x2A then [0, 1, 2, 4, 5, 6, 7, 8].contains fmt
  else if o = 0x2B then fmt == 3 || fmt == 8
  else if o = 0x2D then decide (fmt ≤ 8)
  else if o = 0x2F then [6, 7, 8].contains fmt
  else if o = 0x30 ∨ o = 0x31 ∨ o = 0x32 then [1, 2, 3].contains fmt
  else fmt == 0

/-- Largest MOD value an opcode takes. -/
def modMax (o : Nat) : Nat :=
  if [0x02, 0x0E, 0x10, 0x2C, 0x2D].contains o then 3
  else if o = 0x2B then 2
  else if [0x0D, 0x13, 0x17, 0x18].contains o then 1
  else 0

/-- Source A's operand code fits the opcode's class (Table 7-2). -/
def saOk (i : Ins) : Bool :=
  if i.sa = 0x1F then false
  else if i.scalar then decide (i.sa < 0x10 ∨ 0x18 ≤ i.sa)
  else if [0x32, 0x33, 0x34].contains i.opc then true
  else decide (0x10 ≤ i.sa)

/-- Source B's field: an operand code, the code Table 7-9 names, or zero. -/
def sbOk (i : Ins) : Bool :=
  if i.opc = 0x10 then decide (i.sb ≤ 9)
  else if i.opc = 0x2D then decide (i.sb ≤ 8)
  else if i.opc = 0x12 ∨ i.opc = 0x2F then decide (i.sb ≤ 4)
  else if !i.usesB then i.sb == 0
  else if i.scalar then decide (i.sb < 0x10 ∨ 0x18 ≤ i.sb)
  else if i.opc = 0x30 then decide (i.sb ≠ 0x1F)
  else decide (0x10 ≤ i.sb ∧ i.sb ≠ 0x1F)

/-- The destination field. -/
def dstOk (i : Ins) : Bool :=
  if [0x15, 0x16, 0x18, 0x33, 0x34].contains i.opc then i.dst == 0x1F
  else if i.opc = 0x17 then i.dst == 0
  else if i.opc = 0x0E then decide (1 ≤ i.dst ∧ i.dst < 0x10) || i.dst == 0x1F
  else if i.opc = 0x0F then decide (i.dst < 0x10)
  else if i.scalar ∨ i.opc = 0x2B ∨ i.opc = 0x31 then decide (i.dst < 0x10) || i.dst == 0x1F
  else decide (0x10 ≤ i.dst ∧ i.dst < 0x18) || i.dst == 0x1F

/-- Elements of a format in 512 bits. -/
def elemsOf (fmt : Nat) : Nat := 512 / max 1 (fmtWidth fmt)

/-- X as an opcode's parameter (Table 7-9): element indices, PART, and LUT tables that stay below 64 KB − E. -/
def paramOk (i : Ins) (ext : Nat) : Bool :=
  if i.opc = 0x13 then decide (i.x * 64 + 256 * (fmtWidth i.fmt / 8) ≤ 65536 - ext)
  else if i.opc = 0x30 ∨ i.opc = 0x31 then decide (i.x < elemsOf i.fmt)
  else if i.opc = 0x2D then
    let n := min (elemsOf i.fmt) (elemsOf i.sb)
    decide (i.x < elemsOf i.fmt / max 1 n)
  else if i.opc = 0x2E then (if i.fmt = 1 ∨ i.fmt = 2 then decide (i.x ≤ 1) else i.x == 0)
  else true

/-- The core record of a copy at a logical stand and position. -/
def recAt (b : List Byte) (p : ProgHdr) (ls pos : Nat) : Option CoreRec :=
  (((List.range p.ncores).map (coreRec b p)).find? (fun r => r.lstand == ls && r.pos == pos))

/-- A route from core r is legal: its direction, its target core, TGT below that core's NINS. -/
def routeOk (b : List Byte) (p : ProgHdr) (r : CoreRec) (i : Ins) (second : Bool) (dir tgt : Nat) (side : Bool) : Bool :=
  let at' := fun (ls pos : Nat) => match recAt b p ls pos with | some q => decide (tgt < q.nins) | none => false
  let x := r.pos % 4
  let y := r.pos / 4
  if dir = 0 then tgt == 0 && !side
  else if dir = 1 then decide (1 ≤ y) && at' r.lstand (r.pos - 4)
  else if dir = 2 then decide (x < 3) && at' r.lstand (r.pos + 1)
  else if dir = 3 then decide (y < 3) && at' r.lstand (r.pos + 4)
  else if dir = 4 then decide (1 ≤ x) && at' r.lstand (r.pos - 1)
  else if dir = 5 then decide (tgt < r.nins)
  else if dir = 6 then !second && decide (i.x < 1024) && at' (bitsOf i.x 9 4) (bitsOf i.x 3 0)
  else if dir = 7 then tgt == 0 && !side
  else false

/-- An instruction of a core is one PLOAD accepts (R194). -/
def insOk (b : List Byte) (p : ProgHdr) (r : CoreRec) (w : Nat) : Bool :=
  let i := insOf w
  let imm := i.usesB && i.scalar && i.sb == 0x1F
  let uses := b2n i.xParam + b2n imm + b2n (i.tagop == 2) + b2n (i.dir == 6)
  opcListed i.opc && fmtOk i.opc i.fmt && decide (i.md ≤ modMax i.opc) && saOk i && sbOk i && dstOk i &&
  !i.sources.isEmpty && i.tagop != 3 && decide (uses ≤ 1) && (i.tagop != 2 || decide (i.x < 1024)) &&
  paramOk i r.ext && (i.opc != 0x18 || decide (i.fmt < p.nFeval)) &&
  (!([0x15, 0x17, 0x18, 0x33].contains i.opc) || i.dir == 5) &&
  routeOk b p r i false i.dir i.tgt i.side &&
  (!i.xRoute || (i.x / 8192 == 0 && routeOk b p r i true (bitsOf i.x 12 9) (bitsOf i.x 8 1) (i.x.testBit 0)))

/-! ## The image (R161, R162, R195) -/

/-- The core records of an image. -/
def recsOf (b : List Byte) (p : ProgHdr) : List CoreRec := (List.range p.ncores).map (coreRec b p)

/-- The sections of a program image (Table 6-8). -/
def progSecs (b : List Byte) (p : ProgHdr) : List (Nat × Nat × Nat) :=
  let rs := recsOf b p
  [(56, p.core, p.ncores * 32)] ++ (if p.nFeval = 0 then [] else [(64, p.feval, p.nFeval * 16)]) ++
  [(72, p.instr, 8 * sumBy (·.nins) rs), (80, p.init, sumBy (fun r => 512 + r.localBytes) rs), (88, p.digest, 32)] ++
  (if p.flags.testBit 0 then [(96, p.sig, 100)] else [])

/-- Entry tokens per message E (R151). -/
def ProgHdr.entry (p : ProgHdr) : Nat := b2n (p.desc.1 != 0xFFFF) + p.nData + p.nKey

/-- ERR_IMAGE of a program image's header (Tables 6-7, 6-4 and 8-1); its sections, whose lengths the core records give, are judged when
`recs` says that those could be read. -/
def progHdrBad (b : List Byte) (p : ProgHdr) (recs : Bool) : Option Nat :=
  let tgt := fun (x : Nat × Nat) (need none : Bool) =>
    if none then x.1 != 0xFFFF else if x.1 = 0xFFFF then need else decide (p.ncores ≤ x.1)
  let field :=
    [(leAt b 0 4 != 0x50414B43, 0), (p.format != 1 && p.format != 2, 4), (leAt b 6 2 != 0x80, 6),
     (decide (1024 ≤ leAt b 8 2), 8), (decide (p.ncores < 1 ∨ 1024 < p.ncores), 12),
     (decide (p.nstands < 1 ∨ 64 < p.nstands), 14), (p.ii == 0, 15), (decide (10 < leAt b 18 1), 18), (decide (3 < p.flags), 19),
     (decide (16 < p.nData) || decide (p.entry < 1 ∨ 8 * p.ii < p.entry) || decide (p.tpm < max p.nData p.nKey), 20),
     (decide (32 < p.nKey), 21), (decide (p.nRes < 1 ∨ 16 < p.nRes ∨ 8 * p.ii < p.nRes), 22), (decide (8 < p.nFeval), 23),
     (decide (1024 < p.resLen), 24), (leAt b 26 2 != 0, 26), (tgt p.desc false false, 28), (leAt b 31 1 != 0, 31),
     (tgt p.data true (p.nData == 0), 32), (leAt b 35 1 != 0, 35), (tgt p.key true (p.nKey == 0), 36), (leAt b 39 1 != 0, 39),
     (p.standMem % 4096 != 0 || decide (0x200000 < p.standMem), 40), (leAt b 44 4 != 0, 44),
     (p.nFeval == 0 && p.feval != 0, 64), (!p.flags.testBit 0 && p.sig != 0, 96)]
  let seq :=
    if p.format = 2 then
      [(p.stateBytes % 64 != 0 || decide (p.stateBytes < 64 ∨ 65536 < p.stateBytes), 104),
       (p.stateOff % 4096 != 0 || decide (p.standMem < p.stateOff + p.ctxPer * p.stateBytes), 108),
       (decide (p.ctxPer < 1 ∨ 4096 < p.ctxPer), 112), (decide (p.step < 1 ∨ p.depth < p.step), 114),
       (decide (p.grate < 1 ∨ 4000000 < p.grate), 116), (p.ckptLog2 != 0 && decide (p.ckptLog2 < 8 ∨ 16 < p.ckptLog2), 120),
       (decide (p.stageLog2 < 1 ∨ 4 < p.stageLog2), 121), (leVal (slice b 122 6) != 0, 122),
       (decide (64 * p.nData < p.resLen), 24)]
    else [(leVal (slice b 104 24) != 0, 104)]
  match firstBad (field ++ seq) with
  | some o => some o
  | none =>
    let r := secFaults (progSecs b p) 128
    if recs then firstBad ((p.len != up64 r.2, 48) :: r.1) else none

/-- ERR_IMAGE of a core record (Table 6-9, R196). -/
def recBad (b : List Byte) (p : ProgHdr) (i : Nat) : List (Bool × Nat) :=
  let r := coreRec b p i
  let o := p.core + 32 * i
  let nins := sumBy (·.nins) (recsOf b p)
  let init := sumBy (fun r => 512 + r.localBytes) (recsOf b p)
  let stage := if p.format = 2 then 2 ^ p.stageLog2 * p.stateBytes / 16 else 0
  [(decide (p.nstands ≤ r.lstand), o), (decide (16 ≤ r.pos), o + 2),
   (decide ((if p.format = 2 then 2 else 1) ≤ leAt b (o + 3) 1), o + 3),
   (decide (r.nins < 1 ∨ 256 < r.nins), o + 10), (decide (nins < r.insIndex + r.nins), o + 12),
   (decide (65536 < r.localBytes + r.ext + stage), o + 16), (r.bal.any (fun x => decide (64 < x)), o + 20),
   (leVal (slice b (o + 25) 3) != 0, o + 25), (decide (init < r.initIndex + 512 + r.localBytes), o + 28),
   ((List.range i).any (fun j => let q := coreRec b p j; q.lstand == r.lstand && q.pos == r.pos), o)]

/-- ERR_IMAGE of a program image's sections: padding, records, instructions, entry targets, and for a sequence model logical
stands whose cores fill all 16 positions. -/
def progBodyBad (b : List Byte) (p : ProgHdr) : Option Nat :=
  let recs := (List.range p.ncores).flatMap (recBad b p)
  let fev := (List.range p.nFeval).map (fun i =>
    (decide (1024 ≤ leAt b (p.feval + 16 * i) 2) || leVal (slice b (p.feval + 16 * i + 6) 10) != 0, p.feval + 16 * i))
  let full := if p.format = 2 then
      [((List.range p.nstands).any (fun s => ((recsOf b p).filter (fun r => r.lstand == s)).length != 16), p.core)]
    else []
  match firstBad (recs ++ fev ++ full ++ padFaults b (progSecs b p) 128) with
  | some o => some o
  | none =>
    let tgt := fun (x : Nat × Nat) (o : Nat) => (x.1 != 0xFFFF && decide ((coreRec b p x.1).nins ≤ x.2), o)
    let ins := (List.range p.ncores).flatMap (fun i =>
      let r := coreRec b p i
      (List.range r.nins).map (fun j => (!insOk b p r (insWord b p r j), p.instr + 8 * (r.insIndex + j))))
    firstBad ([tgt p.desc 30, tgt p.data 34, tgt p.key 38] ++ ins)

/-- ERR_BUDGET of a sequence image under the scaled timing of Exact mode (R315, R316): f is n/d. -/
def seqScaledBad (b : List Byte) (p : ProgHdr) (n d : Nat) : Bool :=
  let ii := ceilDiv (p.ii * n) d
  let dep := p.depth / p.ii * ii
  (recsOf b p).any (fun r => r.state && decide (p.step < ceilDiv (r.stop * n) d)) ||
  decide (250000000 < p.ctxPer * p.grate * ii) || decide (250000000 < p.grate * max p.step dep)

/-- f of Table 13-2 by program class, as numerator and denominator. -/
def classScale (cls : Nat) : Nat × Nat := if cls = 1 then (3, 2) else if cls = 2 then (5, 3) else (1, 1)

/-- ERR_BUDGET (Table 6-4, R196), under the declared and the scaled values (R316). -/
def budgetBad (b : List Byte) (p : ProgHdr) : Bool :=
  let rs := recsOf b p
  let s := p.depth / p.ii
  p.depth % p.ii != 0 || decide (s < 1 ∨ 64 < s ∨ 65536 < p.tpm * s) ||
  rs.any (fun r => decide (r.stop ≤ r.start ∨ p.depth < r.stop ∨ r.fires < 1 ∨ 8 * p.ii < r.fires)) ||
  (p.format == 2 && (rs.any (fun r => r.state && decide (p.step < r.stop)) ||
    decide (250000000 < p.ctxPer * p.grate * p.ii) || decide (250000000 < p.grate * max p.step p.depth) ||
    seqScaledBad b p (classScale (progClass b)).1 (classScale (progClass b)).2))

/-- The checks of a program image from ERR_IMAGE to ERR_BUDGET, in the order of R164. `seen off n`: n image bytes from off on could be
read; checks that need bytes that could not are passed over (log 131). -/
def State.progBad (s : State) (b : List Byte) (seen : Nat → Nat → Bool) : Option (Nat × Nat) :=
  let p := progHdr b
  let body := seen 0 p.digest
  match progHdrBad b p (seen p.core (p.ncores * 32)) with
  | some o => some (5, o)
  | none =>
    match (if body then progBodyBad b p else none) with
    | some o => some (5, o)
    | none =>
      match (if seen 0 b.length then s.sealBad b p.digest p.sig 19 (p.flags.testBit 0) else none) with
      | some r => some r
      | none => if body && budgetBad b p then some (0x0D, 0) else none

/-! ## FEVAL targets (R106, R107, R166) -/

/-- Ticks of a FEVAL from die d to a version (Table 4-6), none without a stationary copy. -/
def Version.fevalTicks (v : Version) (d : Nat) : Option Nat :=
  if !v.stationary then none
  else
    let t := (if v.forest.depth ≤ 8 then 1 else 2) + (if v.wide then 1 else 0)
    (v.fevalHome d).map (fun c =>
      let ds := (List.range 4).filter (fun x => c.2.lanes.any (fun l => l.1 == x))
      if ds = [d] then 5 + t else if ds.length ≤ 1 then 13 + t else 18 + t)

/-- The serving and staged program versions of every handle, with the handle. -/
def State.programs (s : State) : List (Nat × Version) :=
  s.handles.flatMap (fun e => (e.2.serving.toList ++ e.2.staged.toList).filterMap (fun v => if v.kind = 0 then none else some (e.1, v)))

/-- FEVAL demand of a version on a copy of target version t of handle h: FEVALs per message × 250 M ÷ II over its copies, as a fraction
(numerator, II). -/
def demandOf (v : Version) (dies : List Nat) (h : Nat) (t : Version) (copy : Nat) : Nat × Nat :=
  let per := sumBy (fun i => let r := fevalRec v.image v.prog i; if r.1 = h then r.2.1 else 0) (List.range v.prog.nFeval)
  let n := (dies.filter (fun d => match t.fevalHome d with | some c => c.1 == copy | none => false)).length
  (n * per * 250000000, max 1 v.prog.ii)

/-- The larger of two fractions, and the sum of two. -/
def fracMax (a b : Nat × Nat) : Nat × Nat := if a.1 * b.2 < b.1 * a.2 then b else a
def fracAdd (a b : Nat × Nat) : Nat × Nat := (a.1 * b.2 + b.1 * a.2, a.2 * b.2)

/-- The dies of a version's copies in service. -/
def Version.copyDies (v : Version) : List Nat := (v.acopies.filter (fun c => !c.2.out)).map (·.2.die)

/-- The FEVAL records of a version that name handle h. -/
def Version.fevalsTo (v : Version) (h : Nat) : List (Nat × Nat × Nat) :=
  ((List.range v.prog.nFeval).map (fevalRec v.image v.prog)).filter (fun r => r.1 == h)

/-- The declared latencies of a version's FEVALs to handle h are at least Table 4-6's for target version t from some dies (R166). -/
def Version.latFits (v : Version) (dies : List Nat) (h : Nat) (t : Version) : Bool :=
  dies.all (fun d => (v.fevalsTo h).all (fun r => match t.fevalTicks d with | some n => decide (n ≤ r.2.2) | none => false))

/-- The serving and staged programs that name handle h, with their handles and dies; `extra` is a program under check. -/
def State.callers (s : State) (h : Nat) (extra : Option (Nat × Version × List Nat)) : List (Nat × Version × List Nat) :=
  (s.programs.map (fun x => (x.1, x.2, x.2.copyDies)) ++ extra.toList).filter (fun x => !(x.2.1.fevalsTo h).isEmpty)

/-- The demand on each copy of target version t of handle h does not exceed the copy's rate (R110, R166): of the serving and the staged
version of one handle the larger counts. -/
def State.demandFits (s : State) (h : Nat) (t : Version) (extra : Option (Nat × Version × List Nat)) : Bool :=
  let mine := s.callers h extra
  let hs := (mine.map (·.1)).foldl (fun (l : List Nat) x => if l.contains x then l else l ++ [x]) []
  let rate := if t.wide then 500000000 else 2000000000
  t.fcopies.all (fun c => c.2.out ||
    (let d := (hs.map (fun g => (mine.filter (fun x => x.1 == g)).foldl (fun m x => fracMax m (demandOf x.2.1 x.2.2 h t c.1)) (0, 1))).foldl
        fracAdd (0, 1)
     decide (d.1 ≤ rate * d.2)))

/-- Target version t of handle h would be fit for every serving and staged program that names it (R106). -/
def State.fevalFits (s : State) (h : Nat) (t : Version) : Bool :=
  let mine := s.callers h none
  (mine.isEmpty || t.stationary) && mine.all (fun x => x.2.1.latFits x.2.2 h t) && s.demandFits h t none

/-- Some program names handle h in a FEVAL record. -/
def State.fevalNamed (s : State) (h : Nat) : Bool := !(s.callers h none).isEmpty

/-- ERR_FEVAL of PLOAD (R166) for a version of handle h placed on some dies: its own targets, latencies and the demand. -/
def State.fevalBad (s : State) (h : Nat) (v : Version) (dies : List Nat) : Bool :=
  (List.range v.prog.nFeval).any (fun i =>
    let r := fevalRec v.image v.prog i
    match (s.handle r.1).serving with
    | none => true
    | some t => !t.stationary || !v.latFits dies r.1 t || !s.demandFits r.1 t (some (h, v, dies)))

/-! ## Placement (R165) -/

/-- The 4 KB pages of a physical stand's shared SRAM that are allocated. -/
def State.sramUse (s : State) (ps : Nat) : List Nat :=
  s.allVersions.flatMap (fun hv => hv.2.acopies.flatMap (fun c =>
    if c.2.out then []
    else (List.range c.2.stands.length).flatMap (fun i =>
      if s.physStand (c.2.stand i) = ps then c.2.pages.getD i [] else [])))

/-- The lowest free pages that hold n bytes (a multiple of 4,096) in a stand's 2 MB of shared SRAM. -/
def sramFit (used : List Nat) (n : Nat) : Option (List Nat) :=
  let free := (List.range 512).filter (fun p => !used.contains p)
  if ceilDiv n 4096 ≤ free.length then some (free.take (ceilDiv n 4096)) else none

/-- A logical core of a stand can take a copy of a version of handle h: it is in service, no other handle holds a slot of
it, and slot k, when one is asked for, is free. -/
def State.coreFree (s : State) (h : Nat) (k : Option Nat) (ls pos : Nat) : Bool :=
  let p := s.physCore ls pos
  let u := coreUnit p
  let c := s.core p
  s.coreOk u.die u.cmpt u.stand u.unit &&
  [0, 1, 2, 3].all (fun j => match (c.slot j).handle with | some x => x == h | none => true) &&
  (match k with | some j => (c.slot j).handle.isNone | none => true)

/-- What a stand must offer a logical stand of the version: SRAM and cores; `taken` are (stand, position) pairs that other
copies of the version use. -/
def State.standFits (s : State) (h : Nat) (k : Option Nat) (mem : Nat) (poss : List Nat) (taken : List (Nat × Nat))
    (sram : List (Nat × List Nat)) (ls : Nat) : Option (List Nat) :=
  let ps := s.physStand ls
  let u := ps % 72
  if s.standOk (ps / 72) (u / 9) (u % 9) && poss.all (fun q => s.coreFree h k ls q && !taken.contains (ls, q)) then
    sramFit (s.sramUse ps ++ (sram.filter (fun x => x.1 == ls)).flatMap (·.2)) mem
  else none

/-- Place the logical stands of a copy, ascending, on some stands in order. DESIGN CHOICE (log 169): each logical stand takes the lowest
stand that qualifies and is not yet taken, also below one that an earlier logical stand took. -/
def State.placeStands (s : State) (h : Nat) (k : Option Nat) (mem : Nat) (taken : List (Nat × Nat)) (sram : List (Nat × List Nat)) :
    List (List Nat) → List Nat → Option (List (Nat × List Nat))
  | [], _ => some []
  | poss :: t, stands =>
    match stands.findSome? (fun ls => (s.standFits h k mem poss taken sram ls).map (fun b => (ls, b))) with
    | none => none
    | some (ls, b) =>
      (State.placeStands s h k mem taken sram t (stands.filter (· != ls))).map (fun r => (ls, b) :: r)

/-- Logical stands of a die in ascending compartment and stand order. -/
def dieStands (d : Nat) : List Nat := (List.range 64).map (fun i => d * 64 + i)

/-- Place the copies of a version from copy c on, at most n of them, on dies by R165; `mode` gives the cores' slot. The serving
version's copy of the same number gives its own stands when they fit. -/
def State.placeArray (s : State) (h : Nat) (k : Option Nat) (poss : List (List Nat)) (mem : Nat) (dies : List Nat)
    (old : Option Version) (seqEntries : Nat → Nat → Bool) : Nat → Nat → List (Nat × ACopy) → List (Nat × ACopy)
  | 0, _, done => done
  | n + 1, c, done =>
    let taken := done.flatMap (fun x => (x.2.stands.zip poss).flatMap (fun y => y.2.map (fun q => (y.1, q))))
    let sram := done.flatMap (fun x => x.2.stands.zip x.2.pages)
    let onDie := fun d => (done.filter (fun x => x.2.die == d)).length
    let same := match old.bind (fun v => Tbl.find v.acopies c) with
      | some o =>
        if !o.out && dies.contains o.die && o.stands.length == poss.length && seqEntries o.die (onDie o.die + 1) then
          let r := (o.stands.zip poss).map (fun x => (s.standFits h k mem x.2 taken sram x.1).map (fun b => (x.1, b)))
          if r.all (·.isSome) then some (o.die, r.filterMap id) else none
        else none
      | none => none
    let general := fun _ : Unit =>
      -- the die with the fewest copies first, the lowest on a tie; then the others
      let order := (List.range (done.length + 1)).flatMap (fun m => dies.filter (fun d => onDie d == m))
      order.findSome? (fun d =>
        if seqEntries d (onDie d + 1) then
          (s.placeStands h k mem taken sram poss (dieStands d)).map (fun r => (d, r))
        else none)
    match (match same with | some x => some x | none => general ()) with
    | none => done
    | some (d, r) =>
      let cp : ACopy := { die := d, stands := r.map (·.1), pages := r.map (·.2) }
      State.placeArray s h k poss mem dies old seqEntries n (c + 1) (done ++ [(c, cp)])

/-- The positions that each logical stand of an image uses. -/
def standPoss (b : List Byte) (p : ProgHdr) : List (List Nat) :=
  (List.range p.nstands).map (fun ls => ((recsOf b p).filter (fun r => r.lstand == ls)).map (·.pos))

/-- Context entries that sequence versions reserve on a die (R196). -/
def State.ctxReserved (s : State) (d : Nat) : Nat :=
  sumBy (fun hv => if hv.2.kind = 2 then
    (hv.2.acopies.filter (fun c => c.2.die == d && !c.2.out)).length * hv.2.prog.ctxPer else 0) s.allVersions

/-- Whether a die has context entries and checkpoint bytes for n more copies of a sequence image (R196, R339). -/
def State.seqRoom (s : State) (p : ProgHdr) (d n : Nat) : Bool :=
  p.format != 2 || (decide (s.ctxReserved d + n * p.ctxPer ≤ 4096) &&
    decide (n * to64k (2 * p.stateBytes * p.nstands * p.ctxPer) ≤ s.poolFree d))

/-- Copies of a placement that take the cores of the serving version's copy of the same number (R165). -/
def State.keptCopies (s : State) (old : Option Version) (r : List (Nat × ACopy)) : Nat :=
  (r.filter (fun x => match old.bind (fun v => Tbl.find v.acopies x.1) with
    | some o => !o.out && o.stands.map s.physStand == x.2.stands.map s.physStand
    | none => false)).length

/-- The result of placing a program, in the slot in which most copies keep the serving version's cores: a status (0, 0x0A or 0x0C), the slot and the copies. -/
def State.placeProg (s : State) (h : Nat) (b : List Byte) (dies : List Nat) (copies : Nat) : Nat × Nat × List (Nat × ACopy) :=
  let p := progHdr b
  let go := fun k => s.placeArray h k (standPoss b p) p.standMem (dies.filter s.dieOk) (s.handle h).serving
    (fun d n => s.seqRoom p d n) copies 0 []
  let any := go none
  if any.length < copies then (0x0A, 0, any)
  else
    let all := ([0, 1, 2, 3].map (fun k => (k, go (some k)))).filter (fun x => x.2.length == copies)
    match leastBy (fun x => copies - s.keptCopies (s.handle h).serving x.2) all with
    | some (k, r) => (0, k, r)
    | none => (0x0C, 0, any)

/-- The version of a placed program. -/
def progVersion (number : Nat) (image : List Byte) (imageAt : Nat) (desc : List Byte) (slot : Nat) (cs : List (Nat × ACopy)) : Version :=
  { kind := if (progHdr image).format = 2 then 2 else 1, number := number, image := image, imageAt := imageAt
    digest := slice image (progHdr image).digest 32, desc := desc, slot := slot, acopies := cs }

/-- Load a core of a copy (R161, R162): instruction memory, v0 to v7, local SRAM. What is written whole is uncorrectable no more (R342). -/
def State.loadCore (s : State) (h : Nat) (v : Version) (cp : ACopy) (i : Nat) (withLocal : Bool) : State :=
  let p := v.prog
  let r := v.crec i
  let pc := s.copyCore v cp i
  let init := p.init + r.initIndex
  let sl : CoreSlot :=
    { handle := some h, version := v.number
      imem := (List.range r.nins).map (fun j => (j, BitVec.ofNat 64 (insWord v.image p r j)))
      v := (List.range 8).map (fun j => (j, vecOf (leAt v.image (init + 64 * j) 64))) }
  let s1 := (s.setCore pc ((s.core pc).setSlot v.slot sl)).healSpans cp.die
    ([(coreBase pc + 0x10000 + v.slot * 0x800, 0x800), (coreBase pc + 0x12000 + v.slot * 0x200, 0x200)] ++
      (if withLocal then [(coreBase pc, 0x10000)] else []))
  if withLocal then
    let x := s1.die cp.die
    s1.setDie cp.die { x with sram := (x.sram.clear (coreBase pc) 65536).writeN (coreBase pc) (slice v.image (init + 512) r.localBytes) }
  else s1

/-- Load every core of a copy; its stand memory starts at zero (log 7). -/
def State.loadCopy (s : State) (h : Nat) (v : Version) (cp : ACopy) : State :=
  let s1 := (List.range v.prog.ncores).foldl (fun s i => s.loadCore h v cp i true) s
  (List.range cp.stands.length).foldl (fun s i =>
    let x := s.die cp.die
    let l := s.standSpans cp i 0 v.prog.standMem
    (s.setDie cp.die { x with sram := x.sram.clearSpans l }).healSpans cp.die l) s1

/-- Take a version's slots off the cores of a copy. -/
def State.unloadCopy (s : State) (v : Version) (cp : ACopy) : State :=
  (s.copyCores v cp).foldl (fun s p =>
    let c := s.core p
    s.setCore p { c with slots := Tbl.del c.slots v.slot, queues := (Tbl.mapVals c.queues (fun _ q => q.filter (fun t => t.ctx != v.slot))).filter (fun q => q.2 != []) }) s

/-- The gap G_c of R155 between an old and a new version's copy c, none when they share no core. -/
def State.gapOf (s : State) (o n : Version) (c : Nat) : Nat :=
  match Tbl.find o.acopies c, Tbl.find n.acopies c with
  | some oc, some nc =>
    let oi := (List.range o.prog.ncores).map (fun i => (s.copyCore o oc i, (o.crec i).stop))
    let ni := (List.range n.prog.ncores).map (fun i => (s.copyCore n nc i, (n.crec i).start))
    let shared := oi.flatMap (fun a => (ni.filter (fun b => b.1 == a.1)).map (fun b => a.2 - b.2))
    if shared = [] then 0 else shared.foldl max o.prog.ii
  | _, _ => 0

/-- CORES_SHORT and SM_SHORT of a placement that does not fit (Table 6-10). -/
def State.progShort (s : State) (h : Nat) (p : ProgHdr) (dies : List Nat) (copies : Nat) : Nat × Nat :=
  let stands := (dies.filter s.dieOk).flatMap dieStands |>.filter (fun ls =>
    let ps := s.physStand ls
    s.standOk (ps / 72) (ps % 72 / 9) (ps % 72 % 9))
  let cores := sumBy (fun ls => ((List.range 16).filter (s.coreFree h none ls)).length) stands
  let mem := sumBy (fun ls => 0x200000 - 4096 * (s.sramUse (s.physStand ls)).length) stands
  (copies * p.ncores - cores, copies * p.nstands * p.standMem - mem)

end Sys2Proof.Machine
end

