-- ==== Sys2Proof/Machine/Mbox.lean ====
section
/-! DEFINITION. Mailbox commands (R381): taking one from the queue, its refusal under R390, and completion records. -/
namespace Sys2Proof.Machine

/-- The handle a command names, if it names one (R381). -/
def cmdHandle (d : List Byte) : Option Nat :=
  let c := byteAt d 0
  if (1 ≤ c ∧ c ≤ 5) ∨ (0x11 ≤ c ∧ c ≤ 0x13) ∨ (0x21 ≤ c ∧ c ≤ 0x23) then some (leAt d 4 2)
  else if c = 0x31 ∧ byteAt d 1 = 1 then some (leAt d 2 2)
  else none

/-- Take command i of the queue when its CMD is `code` and no earlier command names the same handle. A commit that is due at the
boundary comes first (R22). -/
def State.takeCmd (s : State) (i code : Nat) : Option (MboxCmd × State) :=
  match s.mgmt.mbox[i]? with
  | none => none
  | some c =>
    let h := cmdHandle c.desc
    if !s.mgmt.commit.due ∧ byteAt c.desc 0 = code ∧ !(h.isSome && (s.mgmt.mbox.take i).any (fun x => cmdHandle x.desc == h)) then
      some (c, { s with mgmt.mbox := dropNth s.mgmt.mbox i })
    else none

/-- R390 refuses changes of management origin: a ring exists and has fewer than 4,096 free entries, or the ring and the on-die store
are full. -/
def State.jrnlRefuses (s : State) : Bool := (s.ringBase != 0 && decide (s.ringFree < 4096)) || s.mgmt.jr.full

/-- The fields of a completion record (Tables 5-7 and 6-10). -/
structure Rec where
  status : Nat
  b1 : Nat := 0
  handle : Nat := 0
  version : Nat := 0
  copies : Nat := 0
  used : Nat := 0
  short : Nat := 0
  w16 : Nat := 0
  w20 : Nat := 0
  q24 : Nat := 0
  q32 : Nat := 0
  errOff : Nat := 0
  digest : List Byte := []
  deriving DecidableEq, Repr

/-- The 96 bytes of a completion record. -/
def Rec.bytes (r : Rec) : List Byte :=
  leBytes 1 r.status ++ leBytes 1 r.b1 ++ leBytes 2 r.handle ++ leBytes 2 r.version ++ leBytes 2 r.copies ++
  leBytes 4 r.used ++ leBytes 4 r.short ++ leBytes 4 r.w16 ++ leBytes 4 r.w20 ++ leBytes 8 r.q24 ++ leBytes 8 r.q32 ++
  leBytes 8 r.errOff ++ slice r.digest 0 32 ++ List.replicate 16 0

/-- Complete a model command (R120, R131): its record, its journal entry when it changed something, MODEL_DONE. -/
def State.modelFinish (s : State) (cmd origin record : Nat) (r : Rec) : State :=
  let w := s.recordWrite record r.bytes r.status
  let s2 := if r.status = 0 ∧ [1, 2, 3, 4, 0x11].contains cmd then
      w.2.journal 2 cmd (r.handle % 1024 + r.version % 65536 * 65536) (some (r.digest.take 16)) origin
    else w.2
  s2.modelDone r.handle w.1 cmd

/-- What a version's record reports beside the status. -/
def State.record (s : State) (v : Version) (h : Nat) (status : Nat) : Rec :=
  if v.kind = 0 then
    { status := status, b1 := v.mode, handle := h, version := v.num
      copies := (v.fcopies.filter (fun c => !c.2.out)).length, used := v.lanesUsed.length
      w16 := v.resTrees, w20 := (match v.part with | some p => s.period v p | none => 0), digest := v.digest }
  else
    { status := status, handle := h, version := v.num, copies := (v.acopies.filter (fun c => !c.2.out)).length
      used := (v.acopies.filter (fun c => !c.2.out)).length * v.prog.ncores, digest := v.digest }

/-- A pending felling names a handle's staged version (R131, R304). -/
def State.fellNames (s : State) (h : Nat) : Bool := s.time.fell.any (fun f => f.2.kind == 1 && f.2.handle == h)

/-- Free a version that serves nothing: its slots on cores. -/
def State.freeVersion (s : State) (v : Version) : State :=
  v.acopies.foldl (fun s c => if c.2.out then s else s.unloadCopy v c.2) s

/-- Drop a handle's staged version. -/
def State.dropStaged (s : State) (h : Nat) : State :=
  match (s.handle h).staged with
  | none => s
  | some v =>
    let s1 := s.freeVersion v
    s1.setHandle h { s1.handle h with staged := none }

end Sys2Proof.Machine
end

