-- ==== Sys2Proof/Machine/Models.lean ====
section
/-! DEFINITION. The model commands (R118 to R133, R158, R163 to R167): loading, activation, unloading, draining, and
re-placement after a repair. -/
namespace Sys2Proof.Machine

/-! ## LOAD and PLOAD -/

/-- A range lies wholly in the mirrored model region (R338). -/
def State.inMirror (s : State) (a n : Nat) : Bool :=
  decide (0 < n ∧ a + n ≤ dramEnd ∧ a / 2 ^ 32 = (a + n - 1) / 2 ^ 32 ∧ (a + n - 1) % 2 ^ 32 < 2 ^ 31) &&
  s.stripeMode (a / 2 ^ 32) == 2

/-- Reserved bytes of a load descriptor are zero. -/
def descClean (d : List Byte) : Bool :=
  leAt d 11 1 == 0 && leAt d 20 4 == 0 && leVal (slice d 40 24) == 0 && leAt d 24 8 % 64 == 0 && leAt d 32 8 % 64 == 0

/-- ERR_PARAM of a LOAD descriptor (Tables 5-1 and 5-5). -/
def loadParamBad (d : List Byte) : Bool :=
  let w := wantOf d
  let blog := leAt d 10 1
  let wait := leAt d 16 4
  let nd := max 1 w.dies.length
  let batch := decide (64 ≤ w.lanes ∧ w.lanes ≤ 16384 ∧ w.lanes % (16 * nd) = 0 ∧ 10 ≤ blog ∧ blog ≤ 13 ∧ 1 ≤ wait ∧ wait ≤ 250000)
  let none' := decide (w.lanes = 0 ∧ blog = 0 ∧ wait = 0)
  let some' := decide (1 ≤ w.copies ∧ w.copies ≤ 16)
  let shape := if w.mode = 0 then (some' && none') || (w.copies == 0 && batch)
    else if w.mode = 1 then some' && batch else if w.mode = 2 then w.copies == 0 && batch else false
  !descClean d || decide (4 ≤ leAt d 2 1) || w.dies == [] || decide (16 ≤ leAt d 3 1) || !shape

/-- ERR_PARAM of a PLOAD descriptor (R163). -/
def ploadParamBad (d : List Byte) : Bool :=
  let w := wantOf d
  !descClean d || leAt d 1 2 != 0 || leAt d 10 1 != 0 || leAt d 12 8 != 0 || w.dies == [] || decide (16 ≤ leAt d 3 1) ||
  decide (w.copies < 1 ∨ 1024 < w.copies)

/-- The kind of model that a PLOAD's header announces (R164, R195). -/
def hdrKind (hdr : List Byte) : Nat := if leAt hdr 4 2 = 2 then 2 else 1

/-- Checks 1 to 4 of a load (R117, R164): the status, zero when they pass. A header that cannot be read fails none of them (log 131). -/
def State.loadHead (s : State) (d : List Byte) (param forest : Bool) : Nat :=
  let h := leAt d 4 2
  let ver := leAt d 6 2
  let a := leAt d 24 8
  let hdr := s.devRead a 128
  let dark := s.anyUe a 128
  let n := max 128 (leAt hdr (if forest then 24 else 48) 8)
  let kind := if forest then 0 else hdrKind hdr
  let x := s.handle h
  if param ∨ !s.inMirror a n then 1
  else if 1023 < h ∨ (!dark && leAt hdr 8 2 % 1024 != h) = true ∨
      (match x.kind with | some k => if dark then forest != (k == 0) else k != kind | none => false) = true then 2
  else if (!dark && leAt hdr 10 2 != ver) = true ∨ x.serving.map (·.num) = some ver then 3
  else if x.loading ∨ x.staged.isSome ∨ s.jrnlRefuses then 4
  else 0

/-- The image a load descriptor names. -/
def State.imageOf (s : State) (d : List Byte) (forest : Bool) : List Byte :=
  let a := leAt d 24 8
  s.devRead a (leAt (s.devRead a 128) (if forest then 24 else 48) 8)

/-- Leave a load running with its outcome; with a version it is staged, and the handle's LOAD runs until it completes. -/
def State.startLoad (s : State) (c : MboxCmd) (r : Rec) (v : Option Version) (holds : Bool) : State :=
  let h := leAt c.desc 4 2
  let run : Running := { cmd := byteAt c.desc 0, handle := h, version := leAt c.desc 6 2, record := leAt c.desc 32 8,
                         origin := c.origin, status := r.status, body := r.bytes, holds := holds }
  let s1 := { s with mgmt.running := Tbl.put s.mgmt.running (freshKey s.mgmt.running) run }
  if holds then
    s1.setHandle h { s1.handle h with loading := true, staged := match v with | some x => some x | none => (s1.handle h).staged }
  else s1

/-- A load that fails its first checks runs too until its record is written (R131), unless another load runs on the handle. -/
def State.mayHold (s : State) (h : Nat) : Bool := decide (h ≤ 1023) && !(s.handle h).loading

/-- Bytes from an image offset on could be read, of the image at a device address. -/
def State.imageSeen (s : State) (a off n : Nat) : Bool := !s.anyUe (a + off) n

/-- The record of a forest LOAD that does not fit (R127). -/
def State.forestShort (s : State) (r : Rec) (b : List Byte) (w : Want) : Rec :=
  let f := forestHdr b
  { r with status := 0x0A, copies := s.copiesFit b f w, short := s.lanesShort b f w, q24 := s.tsShort b f w, q32 := s.dramShort b f w
           digest := slice b f.digest 32 }

/-- The outcome of a LOAD past check 4, in ascending code (R117). -/
def State.loadForest (s : State) (d : List Byte) : Rec × Option Version :=
  let h := leAt d 4 2
  let n := leAt d 6 2
  let a := leAt d 24 8
  let b := s.imageOf d true
  let f := forestHdr b
  let r0 : Rec := { status := 0, b1 := leAt d 1 1, handle := h, version := n }
  -- past ERR_IMAGE the record has the digest recomputed (R116)
  let r1 : Rec := { r0 with digest := if s.imageSeen a 0 f.digest then sha256 (b.take f.digest) else [] }
  if !s.imageSeen a 0 128 then ({ r0 with status := 0x0B }, none)
  else
    match s.forestBad b (s.imageSeen a) with
    | some (st, o) => ({ (if st = 5 then r0 else r1) with status := st, errOff := o }, none)
    | none =>
      let w := wantOf d
      match (if s.imageSeen a f.cmap f.ntrees then s.placeForest b f w else none), s.imageSeen a 0 b.length with
      | some p, true =>
        let v := p.version (s.newNumber h n) b a d s.cmptsNow
        (s.record v h 0, some v)
      | none, _ => if s.imageSeen a f.cmap f.ntrees then (s.forestShort r0 b w, none) else ({ r1 with status := 0x0B }, none)
      | some _, false => ({ r1 with status := 0x0B }, none)

/-- LOAD (R120): checks a forest image and places it as the staged version. -/
def State.loadCmd (s : State) (i : Nat) : State :=
  match s.takeCmd i 0x01 with
  | none => s
  | some (c, s1) =>
    let d := c.desc
    let st := s.loadHead d (loadParamBad d) true
    if st ≠ 0 then
      (s1.mirrorHeal (leAt d 24 8) 128).startLoad c { status := st, b1 := leAt d 1 1, handle := leAt d 4 2, version := leAt d 6 2 } none
        (s1.mayHold (leAt d 4 2))
    else
      let r := s.loadForest d
      (s1.mirrorHeal (leAt d 24 8) (s.imageOf d true).length).startLoad c r.1 r.2 true

/-- LOAD (R120). -/
def execLoad (i : Nat) (s : State) : Host.Outcome State Fault Refusal := .next (s.loadCmd i)

/-- The record of a PLOAD that does not fit (Table 6-10); `fit` copies do. -/
def State.progShortRec (s : State) (r : Rec) (b : List Byte) (w : Want) (fit : Nat) : Rec :=
  let sh := s.progShort r.handle (progHdr b) w.dies w.copies
  { r with status := 0x0A, copies := fit, short := sh.1, q24 := sh.2 }

/-- The outcome of a PLOAD past check 4 (R164): the first failure in its order; from ERR_DIGEST on the record has the digest
recomputed. -/
def State.loadProg (s : State) (d : List Byte) : Rec × Option Version :=
  let h := leAt d 4 2
  let n := leAt d 6 2
  let a := leAt d 24 8
  let b := s.imageOf d false
  let r0 : Rec := { status := 0, handle := h, version := n }
  if !s.imageSeen a 0 128 then ({ r0 with status := 0x0B }, none)
  else
    let p := progHdr b
    let w := wantOf d
    let r1 : Rec := { r0 with digest := if s.imageSeen a 0 p.digest then sha256 (b.take p.digest) else [] }
    match s.progBad b (s.imageSeen a) with
    | some (st, o) => ({ (if st = 5 then r0 else r1) with status := st, errOff := o }, none)
    | none =>
      -- placement and FEVAL need every record, instruction and target
      if !s.imageSeen a 0 p.digest then ({ r1 with status := 0x0B }, none)
      else
        let pl := s.placeProg h b w.dies w.copies
        let v := progVersion (s.newNumber h n) b a d pl.2.1 pl.2.2
        if s.fevalBad h v v.copyDies then ({ r1 with status := 0x0E }, none)
        else if pl.1 = 0x0A then (s.progShortRec r1 b w pl.2.2.length, none)
        else if pl.1 ≠ 0 then ({ r1 with status := pl.1 }, none)
        else if !s.imageSeen a 0 b.length then ({ r1 with status := 0x0B }, none)
        else
          let gap := match (s.handle h).serving with
            | some o => v.acopies.foldl (fun m c => max m (s.gapOf o v c.1)) 0
            | none => 0
          ({ s.record v h 0 with w16 := gap }, some v)

/-- PLOAD (R163, R164): checks and places a staged program or sequence version; its cores are loaded. -/
def State.ploadCmd (s : State) (i : Nat) : State :=
  match s.takeCmd i 0x11 with
  | none => s
  | some (c, s1) =>
    let d := c.desc
    let st := s.loadHead d (ploadParamBad d) false
    if st ≠ 0 then
      (s1.mirrorHeal (leAt d 24 8) 128).startLoad c { status := st, handle := leAt d 4 2, version := leAt d 6 2 } none (s1.mayHold (leAt d 4 2))
    else
      let r := s.loadProg d
      let s2 := match r.2 with
        | some v => v.acopies.foldl (fun (s : State) (x : Nat × ACopy) => s.loadCopy (leAt d 4 2) v x.2) s1
        | none => s1
      (s2.mirrorHeal (leAt d 24 8) (s.imageOf d false).length).startLoad c r.1 r.2 true

/-- PLOAD (R164). -/
def execPload (i : Nat) (s : State) : Host.Outcome State Fault Refusal := .next (s.ploadCmd i)

/-- LOAD_COMPLETE (R132): the record is written, the load journaled when it changed something, MODEL_DONE posted. -/
def State.loadComplete (s : State) (k : Nat) : State :=
  match Tbl.find s.mgmt.running k with
  | none => s
  | some r =>
    let s1 := { s with mgmt.running := Tbl.del s.mgmt.running k }
    let s2 := if r.holds then s1.setHandle r.handle { s1.handle r.handle with loading := false } else s1
    let w := s2.recordWrite r.record (overwrite r.body 0 (leBytes 1 r.status)) r.status
    let s4 := if r.status = 0 then
        w.2.journal 2 r.cmd (r.handle % 1024 + r.version % 65536 * 65536) (some (slice r.body 48 16)) r.origin
      else w.2
    s4.modelDone r.handle w.1 r.cmd

/-- LOAD_COMPLETE (R132). -/
def execLoadComplete (i : Nat) (s : State) : Host.Outcome State Fault Refusal := .next (s.loadComplete i)

/-! ## ACTIVATE, DISCARD, UNLOAD, QUERY (R128 to R131) -/

/-- Status of a command that names a handle, before its own checks: a bad record address, a handle above 1,023, a LOAD that
runs, a refusal of R390. -/
def State.cmdStatus (s : State) (d : List Byte) (query : Bool) : Nat :=
  let h := leAt d 4 2
  if leAt d 32 8 % 64 ≠ 0 then 1
  else if 1023 < h then 2
  else if !query && ((s.handle h).loading || s.jrnlRefuses) then 4
  else 0

/-- Run a command that completes at once: `f` gives the status, the version it names and the new state. -/
def State.modelCmd (s : State) (i code : Nat) (f : State → Nat → List Byte → Nat × Option Version × State) : State :=
  match s.takeCmd i code with
  | none => s
  | some (c, s1) =>
    let d := c.desc
    let h := leAt d 4 2
    let st0 := s.cmdStatus d (code == 5)
    let r := if st0 ≠ 0 then (st0, none, s1) else f s1 h d
    let rec' := match r.2.1 with
      | some v => if r.1 = 0 then s1.record v h 0 else { status := r.1, handle := h, version := v.num }
      | none => { status := r.1, handle := h }
    r.2.2.modelFinish code c.origin (leAt d 32 8) rec'

/-- ACTIVATE (R128): arms the staged version for the next successful commit. -/
def activateRun (s : State) (h : Nat) (_ : List Byte) : Nat × Option Version × State :=
  let x := s.handle h
  match x.staged with
  | none => (2, none, s)
  | some v =>
    if s.fellNames h then (4, some v, s)
    else if s.fevalNamed h && !s.fevalFits h v then (0x0E, some v, s)
    else (0, some v, s.setHandle h { x with armActivate := some v.number })

/-- ACTIVATE (R128). -/
def execActivate (i : Nat) (s : State) : Host.Outcome State Fault Refusal := .next (s.modelCmd i 2 activateRun)

/-- DISCARD (R130): frees the staged version at once. An ACTIVATE armed for it stays armed, and the next commit finds it
not ready (R131). -/
def discardRun (s : State) (h : Nat) (_ : List Byte) : Nat × Option Version × State :=
  match (s.handle h).staged with
  | none => (2, none, s)
  | some v => if s.fellNames h then (4, some v, s) else (0, some v, s.dropStaged h)

/-- DISCARD (R130). -/
def execDiscard (i : Nat) (s : State) : Host.Outcome State Fault Refusal := .next (s.modelCmd i 3 discardRun)

/-- UNLOAD (R130): discards the staged version at once and takes the handle out of service at the next commit, at which an
armed ACTIVATE of the handle has no effect (R131). -/
def unloadRun (s : State) (h : Nat) (_ : List Byte) : Nat × Option Version × State :=
  let x := s.handle h
  match (match x.serving with | some v => some v | none => x.staged) with
  | none => (2, none, s)
  | some v =>
    if s.fellNames h then (4, some v, s)
    else if x.serving.isSome && s.fevalNamed h then (0x0E, some v, s)
    else
      let s1 := s.dropStaged h
      (0, some v, s1.setHandle h { s1.handle h with armUnload := true })

/-- UNLOAD (R130). -/
def execUnload (i : Nat) (s : State) : Host.Outcome State Fault Refusal := .next (s.modelCmd i 4 unloadRun)

/-- QUERY (R120): reports the serving version. -/
def queryRun (s : State) (h : Nat) (_ : List Byte) : Nat × Option Version × State :=
  match (s.handle h).serving with
  | none => (2, none, s)
  | some v => (0, some v, s)

/-- QUERY (R120). -/
def execQuery (i : Nat) (s : State) : Host.Outcome State Fault Refusal := .next (s.modelCmd i 5 queryRun)

/-! ## DRAIN and RESUME (R158, R163) -/

/-- The handle holds an array program or a sequence model. -/
def State.isArray (s : State) (h : Nat) : Bool :=
  match (s.handle h).kind with | some k => k != 0 | none => false

/-- DRAIN (R158): stops admission to every copy of every version of the handle; it completes with DRAIN_DONE when they are
empty. -/
def State.drainCmd (s : State) (i : Nat) : State :=
  match s.takeCmd i 0x12 with
  | none => s
  | some (c, s1) =>
    let h := leAt c.desc 4 2
    let rec' := leAt c.desc 32 8
    let st0 := s.cmdStatus c.desc false
    let st := if st0 = 0 ∧ !s.isArray h then 2 else st0
    if st ≠ 0 then (s1.devWrite rec' (Rec.bytes { status := st, handle := h })).post 0 6 []
    else s1.setHandle h { s1.handle h with drained := true, drainWait := (s1.handle h).drainWait ++ [rec'] }

/-- DRAIN (R158). -/
def execDrain (i : Nat) (s : State) : Host.Outcome State Fault Refusal := .next (s.drainCmd i)

/-- DRAIN_DONE (R158): every copy of a drained handle is empty: each DRAIN's record is written and its completion posted. -/
def State.drainDone (s : State) (h : Nat) : State :=
  let x := s.handle h
  if x.drainWait = [] ∨ s.runs.any (fun r => r.2.handle == h) then s
  else
    let n := match x.serving with | some v => v.num | none => 0
    x.drainWait.foldl (fun s a => (s.devWrite a (Rec.bytes { status := 0, handle := h, version := n })).post 0 6 [])
      (s.setHandle h { x with drainWait := [] })

/-- DRAIN_DONE (R158). -/
def execDrainDone (handle : Nat) (s : State) : Host.Outcome State Fault Refusal := .next (s.drainDone handle)

/-- RESUME (R158, R355): reopens admission, to held copies too; without either it changes nothing. -/
def resumeRun (s : State) (h : Nat) (_ : List Byte) : Nat × Option Version × State :=
  if !s.isArray h then (2, none, s)
  else
    let x := s.handle h
    let free := fun (v : Version) => { v with acopies := Tbl.mapVals v.acopies (fun _ c => { c with lostHold := false }) }
    (0, x.serving, s.setHandle h { x with drained := false, serving := x.serving.map free, staged := x.staged.map free
                                          old := x.old.map free })

/-- RESUME (R158). -/
def execResume (i : Nat) (s : State) : Host.Outcome State Fault Refusal := .next (s.modelCmd i 0x13 resumeRun)

/-! ## Release (R129) -/

/-- Some item uses version n of handle h (R129): a message, a head, a run, a context, a FEVAL; and under a felling that has applied what was
stamped before it: a frame whose head has not ended, and an item whose FEVALs of the handle are still to come. -/
def State.verUsed (s : State) (h n : Nat) : Bool :=
  let by' := fun (st : Stamp) => s.time.felled.any (fun a => a.kind == 1 && a.handle == h) &&
    s.verFor h st ((s.handle h).serving.map (·.number)) == some n
  let calls := fun (v : Version) => (List.range v.prog.nFeval).any (fun i => (fevalRec v.image v.prog i).1 == h)
  let caller := fun (g m : Nat) => match (s.handle g).ver m with | some v => v.kind != 0 && calls v | none => false
  s.msgs.any (fun m => !m.2.boom && !m.2.gone && ((m.2.target == h && m.2.version == n) || (by' m.2.org.stamp && caller m.2.target m.2.version))) ||
  s.heads.any (fun x => Tbl.find x.2.vers h == some n ||
    (match Tbl.find s.frames x.2.frame with
     | some f => by' f.stamp || s.verFor h f.stamp (Tbl.find x.2.vers h) == some n
     | none => false)) ||
  s.frames.any (fun f => !f.2.started && by' f.2.stamp) ||
  s.runs.any (fun r => (r.2.handle == h && r.2.version == n) || (by' r.2.stamp && caller r.2.handle r.2.version)) ||
  s.ctxs.any (fun c => c.2.handle == h && c.2.version == n) ||
  s.fevals.any (fun f => f.2.handle == h && f.2.version == n)

/-! ## Re-placement (R133, R167) -/

/-- The version's image in device memory still has its digest. -/
def State.imageIntact (s : State) (v : Version) : Bool :=
  let o := if v.kind = 0 then v.forest.digest else v.prog.digest
  sha256 (s.devRead v.imageAt o) == v.digest && !s.anyUe v.imageAt o

/-- The tree-store units that a forest version uses now, apart from tolerant copies. -/
def State.storesOf (s : State) (v : Version) : Tbl (Nat × Nat) :=
  let lanes := v.fcopies.flatMap (fun c => if c.2.out then [] else c.2.lanes.filter (fun l => !(v.tolerant && reserved l.2.2.1)))
  let part := match v.part with | some p => if p.out then none else some p | none => none
  let imgs := fun k => match part with
    | some p => if v.streamed then 0 else sumBy (fun x =>
        (if x.2.2.1 * 8 + x.2.2.2.1 = k then x.2.2.2.2 else 0) +
        (if v.tolerant ∧ x.2.2.1 * 8 + nextCmpt (s.cmptsIn x.2.2.1) x.2.2.2.1 = k then x.2.2.2.2 else 0)) p.deal
    | none => 0
  let bufs := match part with | some p => bufferUnits s v.forest v.batchSize v.streamed p.lanes | none => []
  ((laneUnits lanes).map (fun x => (x.1, (x.2 + imgs x.1, Tbl.getD bufs x.1 0)))).filter (fun x => x.2 != (0, 0))

/-- The state with a version changed and its units counted anew, so that what is withdrawn of it is free. -/
def State.recount (s : State) (h n : Nat) (f : Version → Version) : State :=
  s.modVer h n (fun v => { f v with stores := s.storesOf (f v) })

/-- Re-place a withdrawn stationary copy under R122: its lanes and their images in the tree stores. -/
def State.replaceCopy (s : State) (h : Nat) (v : Version) (c : Nat) : Option Version :=
  let s0 := s.recount h v.number id
  let f := v.forest
  let w := wantOf v.desc
  let all := wantBlocks v.image f w
  let bs := if v.mode = 1 then
      ((List.range (all.length + 1)).findSome? (fun n =>
        if sumBy (fun (b : Block) => b.2.2.length) (all.take n) = v.resTrees then some (all.take n) else none)).getD []
    else all
  let dies := s0.usable w.dies w.tolerant w.tolerant
  let r := s0.room w.dies (fun d => s0.hasTolerant d || (w.tolerant && dies.contains d))
  match placeCopy f.g (s0.tolCap w.tolerant) dies w.oneDie r bs with
  | none => none
  | some (ls, r1) =>
    (r1.takeAll (laneUnits ls)).map (fun _ =>
      let v1 := { v with fcopies := Tbl.put v.fcopies c { lanes := ls } }
      { v1 with stores := s0.storesOf v1 })

/-- The lanes of a re-dealt batch part (R123, R133): LANES divided over the dies and engines now in service; an engine with fewer free
lanes than its share gives those it has (log 130). -/
def State.redealLanes (s : State) (r : Room) (n : Nat) (dies : List Nat) : List (Nat × Nat × Nat) :=
  (dies.zip (shares n dies.length)).flatMap (fun x =>
    let es := (List.range 16).filter (fun e => s.cmptOk x.1 (e / 2))
    (es.zip (shares x.2 es.length)).flatMap (fun y => ((Tbl.getD r.lanes (x.1 * 16 + y.1) []).take y.2).map (fun l => (x.1, y.1, l))))

/-- Re-deal the blocks of a batch part that its lost dies or tree stores held (R133): the other blocks stay; LANES is divided anew over
the units in service, the part's own lanes free. -/
def State.redeal (s : State) (h : Nat) (v : Version) (p : BatchPart) : Option Version :=
  let f := v.forest
  let w := wantOf v.desc
  let s1 := s.recount h v.number (fun v => { v with part := some { p with out := true } })
  let dies := s.partDies w
  let r := s1.room w.dies s1.hasTolerant
  let lanes := s1.redealLanes r w.lanes dies
  let here := fun (x : Nat × Nat × Nat × Nat × Nat) => dies.contains x.2.2.1 && (v.streamed || s.cmptOk x.2.2.1 x.2.2.2.1)
  let stay := p.deal.filter here
  let bs := (wantBlocks v.image f w).filter (fun b => p.deal.any (fun x => !here x && x.1 == b.1 && x.2.1 == b.2.1))
  let sofar := dies.map (fun d => (d, sumBy (fun x => if x.2.2.1 = d then x.2.2.2.2 * 2048 else 0) stay))
  let v0 := { v with part := some { p with lanes := lanes, deal := stay, out := false } }
  let own := (s1.storesOf { v0 with fcopies := [] }).map (fun x => (x.1, x.2.1 + x.2.2))
  if dies.any (fun d => !lanes.any (fun l => l.1 == d)) || dies = [] then none
  else
    match (r.takeAll own).bind (fun r => dealBlocks s f.g v.streamed v.tolerant dies r sofar bs) with
    | none => none
    | some (deal, _) =>
      let p1 := { p with lanes := lanes, deal := stay ++ deal, out := false }
      let v1 := { v with part := some p1
                         stream := if v.streamed then (List.range 4).map (fun d => (d, p1.jobs d * 2048)) else [] }
      some { v1 with stores := s1.storesOf v1 }

/-- Re-place a withdrawn array copy under R165. -/
def State.replaceArray (s : State) (h : Nat) (v : Version) (c : Nat) : Option Version :=
  let p := v.prog
  let live := v.acopies.filter (fun x => !x.2.out && x.1 != c)
  let r := s.placeArray h (some v.slot) (standPoss v.image p) p.standMem ((wantOf v.desc).dies.filter s.dieOk) none
    (fun d n => s.seqRoom p d (n - (live.filter (fun x => x.2.die == d)).length)) 1 c live
  match r.getLast? with
  | some (k, cp) => if r.length = live.length + 1 ∧ k = c then some { v with acopies := Tbl.put v.acopies c cp } else none
  | none => none

/-- Re-place copy c of a version, or for a number it does not have its batch part, from its image, once that has been checked
against the digest (R133, R167). A held array copy stays held (R355). -/
def State.tryReplace (s : State) (h : Nat) (v : Version) (c : Nat) : Option State :=
  if !s.imageIntact v then none
  else if v.kind = 0 then
    match Tbl.find v.fcopies c, v.part with
    | some _, _ => (s.replaceCopy h v c).map (fun v1 => s.modVer h v.number (fun _ => v1))
    | none, some p => (s.redeal h v p).map (fun v1 => s.modVer h v.number (fun _ => v1))
    | none, none => none
  else
    match Tbl.find v.acopies c, s.replaceArray h v c with
    | some x, some v1 =>
      let v2 := { v1 with acopies := Tbl.modify v1.acopies c (fun y => { y with lostHold := x.lostHold }) }
      let s1 := s.modVer h v.number (fun _ => v2)
      (match Tbl.find v2.acopies c with | some cp => some (s1.loadCopy h v2 cp) | none => some s1)
    | _, _ => none

/-- Copy c of a version, or its batch part, is withdrawn. -/
def Version.withdrawn (v : Version) (c : Nat) : Bool :=
  match Tbl.find v.fcopies c, Tbl.find v.acopies c with
  | some x, _ => x.out
  | none, some x => x.out
  | none, none => match v.part with | some p => p.out | none => false

/-- COPY_REPLACE (R133, R167): a withdrawn copy, or for a copy number the version does not have its withdrawn batch part, is
re-placed; when its image or the placement fails it stays withdrawn and MODEL_DEGRADED is posted. -/
def State.copyReplace (s : State) (h n c : Nat) : State :=
  match (s.handle h).versions.find? (fun v => v.num == n && v.withdrawn c) with
  | none => s
  | some v => ((s.tryReplace h v c).getD (s.degraded h v)).mirrorHeal v.imageAt v.image.length

/-- COPY_REPLACE (R133). -/
def execCopyReplace (handle version copy : Nat) (s : State) : Host.Outcome State Fault Refusal :=
  .next (s.copyReplace handle version copy)

end Sys2Proof.Machine
end

