-- ==== Sys2Proof/Machine/ArrayRun.lean ====
section
/-! DEFINITION. Messages in array copies (R137 to R160, R311, R315): admission, entry streams, the checks of R148, results,
FEVAL and DMA completions, aperture writes and copy drains. -/
namespace Sys2Proof.Machine

/-! ## Timing of a copy (R146, R315) -/

/-- The scale of a version in a mode: f of Table 13-2 in Exact mode. -/
def Version.scale (v : Version) (exact : Bool) : Nat × Nat := if exact then classScale v.cls else (1, 1)
/-- II, or II_X. -/
def Version.iiIn (v : Version) (exact : Bool) : Nat := max 1 (ceilDiv (v.prog.ii * (v.scale exact).1) (v.scale exact).2)
/-- D, or D_X. -/
def Version.depthIn (v : Version) (exact : Bool) : Nat := v.prog.stages * v.iiIn exact
/-- START of a core, or START_X. -/
def Version.startIn (v : Version) (exact : Bool) (i : Nat) : Nat := (v.crec i).start * (v.scale exact).1 / (v.scale exact).2
/-- END of a core, or END_X. -/
def Version.stopIn (v : Version) (exact : Bool) (i : Nat) : Nat := ceilDiv ((v.crec i).stop * (v.scale exact).1) (v.scale exact).2

/-- Runs of a copy. -/
def State.copyRuns (s : State) (h n c : Nat) : Tbl ArrayRun :=
  s.runs.filter (fun r => r.2.handle == h && r.2.version == n && r.2.copy == c)

/-- A copy of an ordered program last admitted in another mode than `exact`, and the gap of R311 since then has not passed. -/
def State.modeGap (s : State) (v : Version) (c : ACopy) (exact : Bool) : Bool :=
  (v.cls == 1 || v.cls == 2) && c.exact != exact &&
  (match c.lastTick with | none => false | some t => decide (s.time.tick < t + v.depthIn c.exact))

/-- A copy may take a mode: no gap of R311 stands before it. -/
def State.modeFits (s : State) (v : Version) (c : ACopy) (exact : Bool) : Bool := !s.modeGap v c exact

/-- The gap of R155 after the other versions of the handle has passed for copy c of a version that has admitted nothing. -/
def State.switchFits (s : State) (h : Nat) (v : Version) (c : Nat) (cp : ACopy) : Bool :=
  cp.admitted != 0 || (s.handle h).versions.all (fun o => o.number == v.number ||
    match (Tbl.find o.acopies c).bind (·.lastTick) with
    | some t => s.gapOf o v c == 0 || decide (t + s.gapOf o v c ≤ s.time.tick)
    | none => true)

/-- A copy has a core on a unit of level 1 or 3. -/
def State.copyOnUnit (s : State) (v : Version) (c : ACopy) (u : UnitId) : Bool :=
  (s.copyCores v c).any (fun p => (u.level == 1 && coreUnit p == u) || (u.level == 3 && { coreUnit p with level := 3, unit := 0 } == u))

/-- A copy is drained or held closed, or is out: its handle's drain (R158), a copy drain of one of its units (R159), lost state (R355), an
image that failed the check of a restore (R354). -/
def State.copyHeld (s : State) (h : Nat) (v : Version) (c : ACopy) : Bool :=
  c.out || c.shut || c.lostHold || (s.handle h).drained || s.units.moves.any (fun m => m.drain && s.copyOnUnit v c m.unit)

/-- A copy is open: not held, and with no unit that is being replaced, for as long as any is (R352). -/
def State.copyOpen (s : State) (h : Nat) (v : Version) (c : ACopy) : Bool :=
  !s.copyHeld h v c && !s.units.moves.any (fun m => s.copyOnUnit v c m.unit)

/-- A copy admits a message now (R147, R155, R311). -/
def State.copyAdmits (s : State) (h : Nat) (v : Version) (c : Nat) (cp : ACopy) (exact : Bool) : Bool :=
  s.copyOpen h v cp && s.modeFits v cp exact && s.switchFits h v c cp &&
  (match cp.lastTick with | some t => decide (t + v.iiIn exact ≤ s.time.tick) | none => true) &&
  decide ((s.copyRuns h v.number c).length < v.prog.stages)

/-! ## Entry streams (R151, R197) -/

/-- What the DESC token tells of a message. -/
structure DescIn where
  d : Desc
  ver : Nat
  nan : Bool
  lport : Nat
  stamp : Stamp
  metadata : List Byte
  seq : Option (Nat × Nat × Nat)
  deriving DecidableEq, Repr

/-- The 64 bytes of a DESC token (Tables 6-5 and 8-2). -/
def DescIn.bytes (x : DescIn) : List Byte :=
  leBytes 1 (x.d.op.getD 0) ++ leBytes 1 (x.d.rflags.getD 0 % 16 + 128 * b2n x.nan) ++ leBytes 2 (x.d.model.getD 0 % 1024) ++
  leBytes 2 x.ver ++ leBytes 2 (x.d.msg.getD 0) ++
  leBytes 4 (match x.d.conv with | some c => c % 2 ^ 17 + 2 ^ 31 | none => 0) ++ leBytes 4 x.d.sq ++
  leBytes 2 (x.d.frame.getD 0) ++ leBytes 2 (x.d.dlen.getD 0) ++ leBytes 2 (x.d.doff.getD 0) ++ leBytes 2 (x.lport % 64) ++
  leBytes 6 x.stamp.sec ++ leBytes 2 x.stamp.gen ++ leBytes 4 x.stamp.ns ++ leBytes 2 x.stamp.frac ++
  (match x.seq with
   | some (pos, cslot, seed) => leBytes 4 pos ++ leBytes 2 cslot ++ leBytes 4 seed
   | none => List.replicate 10 0) ++ slice x.metadata 0 16

/-- step_seed of R197. -/
def stepSeed (seed pos : Nat) : Nat :=
  let m := 2 ^ 64
  let z := (seed + pos * 0x8F1B3C6DA4E75D29) % m
  let z := (z ^^^ (z >>> 31)) * 0x6A5D39E1B0C74F83 % m
  let z := (z ^^^ (z >>> 27)) * 0xC4A35E1B92D70F6B % m
  (z ^^^ (z >>> 33)) % 2 ^ 32

/-- The entry tokens of a message: logical core, target instruction, offset from the base tag, payload, NAN. -/
def entryToks (v : Version) (x : DescIn) (data : List Byte) (key : Nat → Nat) : List (Nat × Nat × Nat × Nat × Bool) :=
  let p := v.prog
  (if p.desc.1 = 0xFFFF then [] else [(p.desc.1, p.desc.2, 0, leVal x.bytes, x.nan)]) ++
  (List.range p.nData).map (fun j => (p.data.1, p.data.2, j, leVal (slice data (64 * j) 64), false)) ++
  (List.range p.nKey).map (fun j =>
    (p.key.1, p.key.2, j, packElems 16 ((List.range 32).map (fun i => key (32 * j + i))), x.nan))

/-- Zero the message frames of runs whose START comes at this tick (R142). -/
def State.openWindow (s : State) (run : ArrayRun) (v : Version) (cp : ACopy) : State :=
  (List.range v.prog.ncores).foldl (fun s i =>
    if run.atTick + v.startIn run.exact i = s.time.tick then
      let pc := s.copyCore v cp i
      let c := s.core pc
      let sl := c.slot v.slot
      s.setCore pc (c.setSlot v.slot { sl with frames := Tbl.del sl.frames (frameNo v.prog.tpm run.tag) })
    else s) s

/-- The windows that open at this tick boundary. -/
def State.openWindows (s : State) : State :=
  s.runs.foldl (fun s r =>
    match (s.handle r.2.handle).ver r.2.version with
    | none => s
    | some v => (match Tbl.find v.acopies r.2.copy with | some cp => s.openWindow r.2 v cp | none => s)) s

/-- The number of a new run: above that of every run there is, and of all that is still on its way for one that is over. -/
def State.freshRun (s : State) : Nat :=
  let m := fun (n : Nat) (l : List Nat) => l.foldl max n
  1 + m (m (m (m 0 (s.runs.map (·.1))) (s.flights.map (·.2.run))) (s.dmas.map (·.2.run))) (s.fevals.map (·.2.run))

/-- Admit an item to a copy (R147): its run, its base tag, its entry tokens on their way. -/
def State.startRun (s : State) (h : Nat) (v : Version) (c : Nat) (cp : ACopy) (slot ctx : Option Nat) (pos : Nat) (exact : Bool)
    (x : DescIn) (data : List Byte) (key : Nat → Nat) : State :=
  let p := v.prog
  let rid := s.freshRun
  let run : ArrayRun := { slot := slot, ctx := ctx, pos := pos, handle := h, version := v.number, copy := c, k := cp.admitted
                          tag := cp.admitted * p.tpm % 65536, atTick := s.time.tick, exact := exact, stamp := x.stamp
                          input := data }
  let s1 := { s with runs := Tbl.put s.runs rid run }
  let s2 := s1.modVer h v.number (fun v => { v with
    acopies := Tbl.modify v.acopies c (fun cp =>
      { cp with lastTick := some s.time.tick, admitted := cp.admitted + 1, exact := exact }) })
  let s3 := (entryToks v x data key).foldl (fun s t =>
    let tok : Tok := { payload := vecOf t.2.2.2.1, tag := (run.tag + t.2.2.1) % 65536, ctx := v.slot, tgt := t.2.1, side := false
                       nan := t.2.2.2.2 }
    { s with
      flights := Tbl.put s.flights (freshKey s.flights)
        { core := s.copyCore v cp t.1, queue := 0x1C, run := rid, entry := true, tok := tok } }) s2
  (s3.count (Reg.ARR_CNT_ADMIT cp.die)).openWindow run v cp

/-! ## Admission (R147, R155, R158) -/

/-- The retry-after of QUEUE for an array handle (Table 10-8). -/
def State.arrayInfo (s : State) (h : Nat) (v : Version) (exact : Bool) : Nat :=
  let n := if s.holding then 0 else (v.acopies.filter (fun c => s.copyOpen h v c.2)).length
  if n = 0 then s.cfg Reg.CONV_RA0 15 0
  else max 1 (ceilDiv ((s.handle h).queue.length * v.iiIn exact) (250 * n))

/-- Put a message in its handle's admission queue, or answer BUSY when it is full (R155, R201). -/
def State.arrayQueue (s : State) (n : Nat) (m : Msg) (v : Version) (stage : MsgStage) : State :=
  let h := s.handle m.target
  if h.queue.contains n then s
  else if 1024 ≤ h.queue.length then (s.busyMsg n 2 (s.arrayInfo m.target v m.exact)).settle
  else (s.setHandle m.target { h with queue := h.queue ++ [n] }).setMsg n
    { m with stage := stage, queuedAt := s.time.raw, waitTo := s.time.raw + s.cfg Reg.CONV_TMR1 15 0 * 1000 }

/-- The decision bytes of a message: DLEN bytes from DOFF, zeros beyond the frame's end (DESIGN CHOICE, log 177). -/
def Origin.data (o : Origin) : List Byte := slice o.win (o.desc.doff.getD 0) (o.desc.dlen.getD 0)

/-- What a message's DESC token tells. -/
def Msg.descIn (m : Msg) (seq : Option (Nat × Nat × Nat)) : DescIn :=
  { d := m.org.desc, ver := m.version, nan := m.nan, lport := m.org.lport, stamp := m.org.stamp, metadata := m.org.metadata, seq := seq }

/-- ARRAY_ADMIT (R147): in arrival order, at a tick boundary at which a copy may admit, the lowest such copy takes the
message; else it waits in the admission queue. -/
def State.arrayAdmit (s : State) (n : Nat) : State :=
  match s.leaving n with
  | none => s
  | some (s, m) =>
    match (s.handle m.target).ver m.version with
    | none => s
    | some v =>
      if m.boom ∨ m.kind ≠ 1 ∨ v.kind ≠ 1 ∨ !(m.stage = .arrived ∨ m.stage = .queued) then s
      else if v.acopies.all (fun c => c.2.out) then ((s.count Reg.RPR_CNT_ITEMRETRY).answerMsg n stFaultRetry 0 0).settle
      else
        let first := match (s.handle m.target).queue with | [] => true | a :: _ => a == n
        match v.acopies.find? (fun c => s.copyAdmits m.target v c.1 c.2 m.exact) with
        | some (c, cp) =>
          if s.admits && first then
            let s1 := s.setHandle m.target { s.handle m.target with queue := (s.handle m.target).queue.filter (· != n) }
            (s1.startRun m.target v c cp (some n) none 0 m.exact (m.descIn none) m.org.data (sampleKey m.sample)).setMsg n
              { m with stage := .running }
          else s.arrayQueue n m v .queued
        | none => s.arrayQueue n m v .queued

/-- ARRAY_ADMIT (R147). -/
def execArrayAdmit (slot : Nat) (s : State) : Host.Outcome State Fault Refusal := .next (s.arrayAdmit slot)

/-- ADMIT_QUEUE_TIMEOUT (R158): a message has waited GAP µs for a handle every copy of which is drained or held closed; it is
answered BUSY with DETAIL QUEUE. One that a copy stopped under R352 keeps waiting goes on waiting (R353). -/
def State.queueTimeout (s : State) (n : Nat) : State :=
  match Tbl.find s.msgs n with
  | none => s
  | some m =>
    match (s.handle m.target).ver m.version with
    | none => s
    | some v =>
      if m.kind ≠ 0 ∧ (s.handle m.target).queue.contains n ∧ m.waitTo ≤ s.time.raw ∧
          v.acopies.all (fun c => s.copyHeld m.target v c.2) = true then
        (s.busyMsg n 2 (s.cfg Reg.CONV_RA0 15 0)).settle
      else s

/-- ADMIT_QUEUE_TIMEOUT (R158). -/
def execAdmitQueueTimeout (slot : Nat) (s : State) : Host.Outcome State Fault Refusal := .next (s.queueTimeout slot)

/-- MODE_GAP_END (R311): the gap of a copy after a mode change has ended; the copy is in the mode in force. -/
def State.modeGapEnd (s : State) (h c : Nat) : State :=
  match (s.handle h).versions.find? (fun v => match Tbl.find v.acopies c with | some x => x.exact != s.exact | none => false) with
  | none => s
  | some v =>
    match Tbl.find v.acopies c with
    | none => s
    | some cp =>
      if s.modeGap v cp s.exact then s
      else s.modVer h v.number (fun v => { v with acopies := Tbl.put v.acopies c { cp with exact := s.exact } })

/-- MODE_GAP_END (R311). -/
def execModeGapEnd (handle copy : Nat) (s : State) : Host.Outcome State Fault Refusal := .next (s.modeGapEnd handle copy)

/-! ## Tokens (R137, R138) -/

/-- Put a token in a queue of a core. -/
def State.enterQueue (s : State) (p q : Nat) (t : Tok) : State :=
  let c := s.core p
  s.setCore p (c.setQueue q (c.queue q ++ [t]))

/-- A result token reaches the bridge endpoint (R152). -/
def ArrayRun.result (r : ArrayRun) (t : Tok) : ArrayRun :=
  { r with results := Tbl.put r.results (tagOff r.tag t.tag) t.payload, nres := r.nres + 1, nan := r.nan || t.nan, sat := r.sat || t.sat,
           bad := r.bad || t.bad }

/-- A token's parity is checked as it enters a queue (R138): a mismatch sets BAD, is posted and counted. -/
def State.parityCheck (s : State) (core : Nat) (t : Tok) (parityOk : Bool) : State × Tok :=
  let d := core / 1224
  (if parityOk then s else (s.post (11 + d) 1 []).count (Reg.ARR_CNT_PARITY d), { t with bad := t.bad || !parityOk })

/-- TOKEN_ARRIVE (R138): a token enters its queue, or the result stream, and its parity is checked; a token of a message that
has overrun or ended is discarded (R149). An entry token that finds queue and extension full waits in the die network (R150). -/
def State.tokenArrive (s : State) (n : Nat) (parityOk : Bool) : State :=
  match Tbl.find s.flights n with
  | none => s
  | some f =>
    let s1 := { s with flights := Tbl.del s.flights n }
    match Tbl.find s1.runs f.run with
    | none => s1
    | some r =>
      if r.overrun then s1
      else if f.entry ∧ !s.queueFree f.core f.queue 1 then s
      else
        let x := s1.parityCheck f.core f.tok parityOk
        if f.queue = 0x1F then x.1.setRun f.run (r.result x.2) else x.1.enterQueue f.core f.queue x.2

/-- TOKEN_ARRIVE (R138). -/
def execTokenArrive (flight : Nat) (parityOk : Bool) (s : State) : Host.Outcome State Fault Refusal :=
  .next (s.tokenArrive flight parityOk)

/-! ## TICK_OVERRUN (R148, R149) -/

/-- A token belongs to a run's block in a slot. -/
def ofRun (v : Version) (r : ArrayRun) (t : Tok) : Bool := t.ctx == v.slot && decide (tagOff r.tag t.tag < v.prog.tpm)

/-- Discard the tokens that a copy's cores hold for a run. -/
def State.dropTokens (s : State) (v : Version) (cp : ACopy) (r : ArrayRun) : State :=
  (s.copyCores v cp).foldl (fun s p =>
    let c := s.core p
    s.setCore p { c with queues := (Tbl.mapVals c.queues (fun _ q => q.filter (fun t => !ofRun v r t))).filter (fun q => q.2 != []) }) s

/-- TICK_OVERRUN of a run on logical core i (R149): posted and counted, the handle's flag set, the core to be tested; and the first time,
the run's tokens discarded, its message's unit-check verdict bad, or its context rolled back. -/
def State.overrun (s : State) (rid : Nat) (r : ArrayRun) (v : Version) (cp : ACopy) (i : Nat) : State :=
  let d := cp.die
  let s1 := (s.post (11 + d) 0 [(r.handle, 16), (r.version, 16), (r.copy, 16), (i, 16), (r.tag, 16)]).count (Reg.ARR_CNT_OVERRUN d)
  let fl := Reg.ARR_OVRFLAG d (r.handle / 32)
  let s2 := s1.setRw fl (BitVec.ofNat 32 ((s1.rwW fl).toNat ||| 2 ^ (r.handle % 32)))
  let u := coreUnit (s2.copyCore v cp i)
  let s3 := { s2 with
    units.overruns := s2.units.overruns ++ [(u, s2.time.raw)]
    units.asked := if s2.units.asked.contains u then s2.units.asked else s2.units.asked ++ [u]
    flights := s2.flights.filter (fun f => f.2.run != rid)
    runs := Tbl.put s2.runs rid { r with overrun := true, bad := true, checked := r.checked ++ [i] } }
  let s4 := s3.dropTokens v cp r
  if r.overrun then s4 else match r.slot with
  | some n => (s4.unitFail n false).settle
  | none => match r.ctx with | some k => s4.ctxFail k 1 r.pos | none => s4

/-- FIRES_CHECK (R148): at a + END a core compares its firings for the message with FIRES; a message can overrun on several cores (R149). -/
def State.firesCheck (s : State) (p k rid : Nat) : State :=
  match Tbl.find s.runs rid, s.home p k with
  | some r, some hm =>
    if r.handle ≠ hm.h ∨ r.version ≠ hm.v.number ∨ r.copy ≠ hm.c ∨ r.checked.contains hm.i ∨
        s.time.tick < r.atTick + hm.v.stopIn r.exact hm.i then s
    else if Tbl.getD r.fires hm.i 0 = (hm.v.crec hm.i).fires then s.setRun rid { r with checked := r.checked ++ [hm.i] }
    else s.overrun rid r hm.v hm.cp hm.i
  | _, _ => s

/-- FIRES_CHECK (R148). -/
def execFiresCheck (core slot msg : Nat) (s : State) : Host.Outcome State Fault Refusal := .next (s.firesCheck core slot msg)

/-! ## Results (R148, R152, R207) -/

/-- The result block of a run (R152): the bytes of a tag that no result token had are a free value of what the run is given (log 141). -/
def runBlock (v : Version) (r : ArrayRun) : List Byte :=
  slice ((List.range v.prog.nRes).flatMap (fun j =>
    leBytes 64 (match Tbl.find r.results j with | some p => p.toNat | none => Config.missingResult v.digest r.input r.results j)))
    0 v.prog.resLen

/-- WTS_DIG of a run's results (R319): SHA-256 over the weights digests of its program's FEVAL targets at the versions that its FEVALs
took, in record order, or would take now; zeros without FEVAL records. -/
def State.wtsDigest (s : State) (v : Version) (r : ArrayRun) : List Byte :=
  if v.prog.nFeval = 0 then List.replicate 32 0
  else sha256 ((List.range v.prog.nFeval).flatMap (fun i =>
    let h := (fevalRec v.image v.prog i).1
    match (match Tbl.find r.fevalVers i with | some n => (s.handle h).ver n | none => s.fevalVer v r i) with
    | some t => slice t.digest 0 32
    | none => List.replicate 32 0))

/-- The completion record of Table 8-5. -/
def State.seqRecord (s : State) (status k : Nat) (x : Option Ctx) : List Byte :=
  match x with
  | none => padTo (leBytes 2 status ++ leBytes 2 k) 96
  | some x =>
    let fr := match (s.handle x.handle).ver x.version with | some v => s.freeRate x.handle v x.copy | none => 0
    padTo (leBytes 2 status ++ leBytes 2 k ++ leBytes 2 x.version ++ leBytes 2 x.copy ++ leBytes 4 x.p ++ leBytes 4 fr) 96

/-- A context is over: its entry is free, and the GSTOPs that waited for its end have their records; without GEN_DONE they complete
with MBOX_DONE (R384). -/
def State.ctxOver (s : State) (k : Nat) (x : Ctx) (genDone : Bool) : State :=
  let s1 := s.freeCtx k
  match x.gen with
  | some g => g.stopRecs.foldl (fun s a =>
      let w := s.recordWrite a (s.seqRecord 0 k (some x)) 0
      if genDone then w.2 else w.2.mboxDone 0x22 w.1) s1
  | none => s1

/-- A context that closes is over once its last run is, its last token has completed, and every frame of its generation is emitted
(R211). -/
def State.ctxSettle (s : State) (k : Nat) : State :=
  match Tbl.find s.ctxs k with
  | some x =>
    if x.closing && !s.ctxBusy k && (match x.gen with | some g => g.emits.isEmpty | none => true) then
      s.ctxOver k x false
    else s
  | none => s

/-- Contexts that close are over at the tick boundary after their last item has ended (R211). -/
def State.ctxSettles (s : State) : State :=
  ((s.ctxs.filter (fun x => x.2.closing)).map (·.1)).foldl State.ctxSettle s

/-- SEQ_STEP_BOUNDARY (R199): STEP ticks after an item's admission P advances; at a multiple of CKPT_INTERVAL a capture is
due (R203). Where P comes to its last value, the token that waits for it is answered TOO_LARGE. -/
def State.stepBoundary (s : State) (k : Nat) : State :=
  match Tbl.find s.ctxs k, s.runs.find? (fun r => r.2.ctx == some k && !r.2.stepped) with
  | some x, some (rid, r) =>
    match (s.handle x.handle).ver x.version with
    | none => s
    | some v =>
      if x.rolling ∨ x.state = 3 ∨ s.time.tick < r.atTick + v.prog.step then s
      else
        let s1 : State := { s.setRun rid { r with stepped := true } with
          ctxs := Tbl.put s.ctxs k { x with p := r.pos + 1, capDue := x.capDue || (r.pos + 1) % v.prog.ckpt == 0 } }
        if r.pos + 1 = 0xFFFFFFFF then
          (s1.msgs.filter (fun m => m.2.ctx == some k && m.2.stage == .waiting)).foldl
            (fun s m => s.answerMsg m.1 stTooLarge 0 (maxLen m.2.org)) s1
        else s1
  | _, _ => s

/-- RESULT_COUNT_CHECK (R148, R152): at a + D the copy compares the result tokens with N_RES; with the right number the item's
result is decided, and the run is over. A generation step's result is its frame to come and the next step's data. -/
def State.resultChecked (s : State) (rid : Nat) : State :=
  match Tbl.find s.runs rid with
  | none => s
  | some r =>
    match (s.handle r.handle).ver r.version with
    | none => s
    | some v =>
      match Tbl.find v.acopies r.copy with
      | none => s
      | some cp =>
        if s.time.tick < r.atTick + v.depthIn r.exact then s
        else
          let good := r.nres == v.prog.nRes
          let s0 := if r.overrun ∨ good then s else s.overrun rid r v cp 0
          let s1 := { s0 with runs := Tbl.del s0.runs rid }
          if r.overrun ∨ !good then s1
          else
            let res := runBlock v r
            match r.slot with
            | some n =>
              let s2 := if r.bad then s1.unitFail n false else s1
              let dh := slice v.digest 0 32 ++ s1.wtsDigest v r
              s2.decideResult n res r.nan r.sat false r.pos dh
            | none =>
              match r.ctx with
              | none => s1
              | some k =>
                if r.bad then s1.ctxFail k 1 r.pos
                else
                  match Tbl.find s1.ctxs k with
                  | none => s1
                  | some x =>
                    match x.gen with
                    | none => s1
                    | some g =>
                      -- a step run again is not emitted; its result still feeds the next step (R209)
                      let silent := decide (r.pos < g.silentTo.getD 0)
                      let em := if silent then g.emits else g.emits ++ [⟨r.pos, res, r.nan, r.sat, g.lateNow, r.warn⟩]
                      let s2 := { s1 with ctxs := Tbl.put s1.ctxs k { x with gen := some { g with block := res, emits := em } } }
                      if silent then s2.posGood k r.pos else s2

/-- RESULT_COUNT_CHECK of a run: an item of a context has passed its STEP boundary by then (STEP is at most D). -/
def State.resultCheck (s : State) (rid : Nat) : State :=
  match Tbl.find s.runs rid with
  | none => s
  | some r =>
    match r.ctx, (s.handle r.handle).ver r.version with
    | some k, some v =>
      if s.time.tick < r.atTick + v.depthIn r.exact then s
      else (State.resultChecked (if r.stepped then s else s.stepBoundary k) rid).ctxSettle k
    | _, _ => s.resultChecked rid

/-- RESULT_COUNT_CHECK (R148), of an item by its run. -/
def execResultCountCheck (slot : Nat) (s : State) : Host.Outcome State Fault Refusal := .next (s.resultCheck slot)

/-! ## FEVAL and DMA completions (R107, R108, R189) -/

/-- FEVAL_RESULT (R107, R108): the result token or tokens reach qf of the issuing core; a result later than the declared
latency is a TICK_OVERRUN, and a bad one makes the message's verdict bad. The tokens' parity is checked as `parityOk` and, of a second
one, `second` (R138). -/
def State.fevalResult (s : State) (n : Nat) (parityOk second : Bool) : State :=
  match Tbl.find s.fevals n with
  | none => s
  | some f =>
    let s1 := { s with fevals := Tbl.del s.fevals n }
    match Tbl.find s1.runs f.run, s1.home f.core f.slot with
    | some r, some hm =>
      if r.overrun then s1
      else if f.atTick + f.latency < s1.time.tick then s1.overrun f.run r hm.v hm.cp hm.i
      else
        let tok := fun (i : Nat) (v : Vec) =>
          ({ payload := v, tag := f.tag, ctx := f.slot, tgt := f.tgt, side := f.side, nan := i == 0 && f.nan, sat := i == 0 && f.sat,
             bad := i == 0 && f.bad, top := if i = 0 then f.top else 0 } : Tok)
        let s2 := (List.range f.payloads.length).foldl (fun s i =>
          let t := tok i (f.payloads.getD i 0)
          let x := s.parityCheck f.core t (if i = 0 then parityOk else second)
          (x.1.enterQueue f.core 0x1D x.2).sendSinks f.run t f.also) s1
        if f.bad then s2.runBad f.run else s2
    | _, _ => s1

/-- FEVAL_RESULT (R107). -/
def execFevalResult (e : TokenEnd) (s : State) : Host.Outcome State Fault Refusal := .next (s.fevalResult e.id e.parityOk e.second)

/-- DMA_COMPLETE (R189): the transfer is made and its completion token enters qm with the length, and BAD when an
uncorrectable error touched it; a token of a message that has overrun is discarded (R149). The length counts units of 64 bytes, as the
operand does (DESIGN CHOICE, log 175). -/
def State.dmaComplete (s : State) (n : Nat) (ue parityOk : Bool) : State :=
  match Tbl.find s.dmas n with
  | none => s
  | some x =>
    let d := s.die (x.core / 1224)
    let s0 : State := { s with dmas := Tbl.del s.dmas n }
    -- a word that is found uncorrectable now is reported and marked (R342); a mirrored source is served by the other copy (R338)
    let s1 := if ue then (if x.toDram then s0.spanUe (x.core / 1224) x.sram else s0.rangeUe x.dev x.len)
      else if x.toDram then s0 else s0.mirrorHeal x.dev x.len
    let bad := ue || (if x.toDram then x.sram.any (fun r => d.sramBad r.1 r.2) else s.anyUe x.dev x.len)
    let s2 :=
      if x.toDram then s1.devWrite x.dev (d.sram.readSpans x.sram)
      else
        let c := s1.core x.core
        -- a DMA into local SRAM leaves the slot no longer clean (R354)
        let s2 := if x.own then s1.setCore x.core (c.setSlot x.slot { c.slot x.slot with dirty := true }) else s1
        s2.setDie (x.core / 1224) ((s2.die (x.core / 1224)).writeSpans x.sram (s.devRead x.dev x.len))
    if (match Tbl.find s.runs x.run with | some r => r.overrun | none => false) then s2
    else
      let t : Tok := { payload := vecOf (x.len / 64), tag := x.tag, ctx := x.slot, tgt := x.tgt, side := x.side
                       nan := x.nan, sat := x.sat, bad := x.bad || bad }
      let y := s2.parityCheck x.core t parityOk
      (y.1.enterQueue x.core 0x1E y.2).sendSinks x.run t x.also

/-- DMA_COMPLETE (R189). -/
def execDmaComplete (e : TokenEnd) (ue : Bool) (s : State) : Host.Outcome State Fault Refusal :=
  .next (s.dmaComplete e.id ue e.parityOk)

/-! ## Aperture writes (R157, R341) -/

/-- The in-flight token counter of slot k of a physical core (R157): tokens held or on their way, and messages whose window on
the core is open. -/
def State.inFlight (s : State) (p k : Nat) : Nat :=
  sumBy (fun q => (q.2.filter (fun t => t.ctx == k)).length) (s.core p).queues +
  (s.flights.filter (fun f => f.2.core == p && f.2.tok.ctx == k && f.2.queue != 0x1F)).length +
  (match s.home p k with
   | none => 0
   | some hm => ((s.copyRuns hm.h hm.v.number hm.c).filter (fun r =>
       decide (r.2.atTick + hm.v.startIn r.2.exact hm.i ≤ s.time.tick ∧ s.time.tick < r.2.atTick + hm.v.stopIn r.2.exact hm.i))).length)

/-- Every in-flight token counter of a version's slots reads zero (R154, R157). -/
def State.slotsIdle (s : State) (v : Version) : Bool :=
  v.acopies.all (fun c => c.2.out || (s.copyCores v c.2).all (fun p => s.inFlight p v.slot == 0))

/-- VERSION_RELEASE (R129, R154): the last item of a former version has ended and its in-flight counters read zero; its resources are
free, and MODEL_RELEASED is posted. -/
def State.versionRelease (s : State) (h n : Nat) : State :=
  let x := s.handle h
  match x.old.find? (fun v => v.num == n && !s.verUsed h v.number && s.slotsIdle v) with
  | none => s
  | some v =>
    let s1 := s.freeVersion v
    (s1.setHandle h { s1.handle h with old := (s1.handle h).old.filter (fun w => w.number != v.number) }).post 0 3 [(h, 16), (n, 16)]

/-- VERSION_RELEASE (R129). -/
def execVersionRelease (handle version : Nat) (s : State) : Host.Outcome State Fault Refusal :=
  .next (s.versionRelease handle version)

/-- A slot holds a serving or staged version. -/
def State.slotLive (s : State) (p k : Nat) : Bool :=
  let sl := (s.core p).slot k
  match sl.handle with
  | none => false
  | some h =>
    let x := s.handle h
    (match x.serving with | some v => v.number == sl.version | none => false) ||
    (match x.staged with | some v => v.number == sl.version | none => false)

/-- A write of context registers to a slot of a live version is let through: its copy is drained or held closed. -/
def State.ctxWritable (s : State) (p k : Nat) : Bool :=
  match s.home p k with
  | none => true
  | some hm => (s.handle hm.h).drained || hm.cp.lostHold

/-- Replace bits 32 i + 31 : 32 i of a vector. -/
def putWord (v : Vec) (i : Nat) (w : Word) : Vec :=
  vecOf (v.toNat - v.toNat / 2 ^ (32 * i) % 2 ^ 32 * 2 ^ (32 * i) + w.toNat * 2 ^ (32 * i))

/-- Write a word of instruction memory or context registers of a core; refused with BUSY_CONTEXT under R157. -/
def State.coreMemWrite (s : State) (p z : Nat) (w : Word) : State :=
  let d := p / 1224
  let c := s.core p
  -- a word written whole is uncorrectable no more (R342)
  let put := fun (c : Core) => (s.setCore p c).healSram d (coreBase p + z / 4 * 4) 4
  if z < 0x12000 then
    let k := (z - 0x10000) / 0x800
    let i := (z - 0x10000) % 0x800 / 8
    if 0 < s.inFlight p k ∨ s.slotLive p k then s.count (Reg.ARR_CNT_BUSYCTX d)
    else
      let sl := c.slot k
      let o := (Tbl.getD sl.imem i 0).toNat
      let n := if z % 8 < 4 then o / 2 ^ 32 * 2 ^ 32 + w.toNat else w.toNat * 2 ^ 32 + o % 2 ^ 32
      put (c.setSlot k { sl with imem := Tbl.put sl.imem i (BitVec.ofNat 64 n) })
  else
    let k := (z - 0x12000) / 0x200
    let r := (z - 0x12000) % 0x200 / 64
    if 0 < s.inFlight p k ∨ (s.slotLive p k ∧ !s.ctxWritable p k) then s.count (Reg.ARR_CNT_BUSYCTX d)
    else
      let sl := c.slot k
      put (c.setSlot k { sl with v := Tbl.put sl.v r (putWord (Tbl.getD sl.v r 0) (z % 64 / 4) w) })

/-- Write a word of a die's data SRAM; a full-word write replaces an uncorrectable word (R342). -/
def State.sramWrite (s : State) (d o : Nat) (w : Word) : State :=
  let x := s.die d
  s.setDie d { x with sram := x.sram.writeN o (leBytes 4 w.toNat), sramUe := x.sramUe.filter (· != o / 4) }

/-- A 32-bit write through an SRAM aperture (R341) at a device address. -/
def State.apWrite (s : State) (a : Nat) (w : Word) : State :=
  let a := a / 4 * 4
  match apertureOf a with
  -- the hub aperture is read only; its dropped writes count with those of tract die 0 (log 18)
  | none => if (hubAperture a).isSome then s.count (Reg.MEM_CNT_APDROP 0) else s
  | some (d, o) =>
    let c := o / 0x10000000
    let r := o % 0x10000000
    let st := r / 0x1000000
    let q := r % 0x1000000
    if 8 ≤ c then s
    else if r < 0x9000000 then
      (if q < 0x200000 then (if s.standOk d c st then s.sramWrite d o w else s.count (Reg.MEM_CNT_APDROP d))
       else if 0x800000 ≤ q ∧ q < 0x800000 + 17 * 0x20000 then
         let k := (q - 0x800000) / 0x20000
         let z := (q - 0x800000) % 0x20000
         let p := d * 1224 + (c * 9 + st) * 17 + k
         if 0x12800 ≤ z then s
         else if !s.coreOk d c st k then s.count (Reg.MEM_CNT_APDROP d)
         else if z < 0x10000 then s.sramWrite d o w
         else s.coreMemWrite p z w
       else s)
    else if 0xC00_0000 ≤ r ∧ r < 0xC80_0000 then s.count (Reg.MEM_CNT_APDROP d)
    else if 0xD00_0000 ≤ r ∧ r < 0xD20_0000 ∧ (r - 0xD00_0000) % 0x100000 < 272 * 0x800 then s.count (Reg.MEM_CNT_APDROP d)
    else s

/-- The device address of the BAR0 window's bytes (R341). -/
def State.windowAddr (s : State) (off : Nat) : Nat := 0x4000000000 + s.rw Reg.GCTL_APWIN 11 0 * 0x1000000 + (off - 0x3000000)

/-- APERTURE_WRITE (R341): by BAR0 offset in the window, or by device address. -/
def execApertureWrite (off : Nat) (val : Word) (s : State) : Host.Outcome State Fault Refusal :=
  .next (s.apWrite (if 0x3000000 ≤ off ∧ off < 0x4000000 then s.windowAddr off else off) val)

/-! ## Copy drains (R159) -/

/-- Copy a range of a die's SRAM to another place of the die. -/
def sramMove (m : Mem) (src dst n : Nat) : Mem :=
  (m.filter (fun e => decide (src ≤ e.1 ∧ e.1 < src + n))).foldl (fun m e => m.write (e.1 - src + dst) e.2) (m.clear dst n)

/-- What a move of a range does to the marks of uncorrectable words: the new place has those of the old, which keeps its own. -/
def ueMove (l : List Nat) (src dst n : Nat) : List Nat :=
  let within := fun (base w : Nat) => decide (base ≤ w * 4 ∧ w * 4 < base + n)
  l.filter (fun w => !within dst w) ++ (l.filter (within src)).map (fun w => w - src / 4 + dst / 4)

/-- Second routes to a core that moves follow it. -/
def sinksMove (l : List Sink) (p q : Nat) : List Sink := l.map (fun k => if k.core = p then { k with core := q } else k)

/-- Move a core's slots, queues and local SRAM to another physical core of its stand, which takes its logical place; what is
on its way follows (R159). -/
def State.moveCore (s : State) (p q : Nat) : State :=
  let ps := p / 17
  let d := p / 1224
  let s1 := { s with
    units.coreMap := Tbl.put s.units.coreMap ps ((s.coresOf ps).map (fun k => if k = p % 17 then q % 17 else k))
    cores := Tbl.del (Tbl.put s.cores q (s.core p)) p
    flights := Tbl.mapVals s.flights (fun _ f => if f.core = p then { f with core := q } else f)
    dmas := Tbl.mapVals s.dmas (fun _ x => { x with core := if x.core = p then q else x.core, also := sinksMove x.also p q })
    fevals := Tbl.mapVals s.fevals (fun _ f => { f with core := if f.core = p then q else f.core, also := sinksMove f.also p q }) }
  let x := s1.die d
  s1.setDie d { x with sram := (sramMove x.sram (coreBase p) (coreBase q) 65536).clear (coreBase p) 65536
                       sramUe := ueMove x.sramUe (coreBase p) (coreBase q) 0x12800 }

/-- A core is part of a copy that has a message in flight. -/
def State.coreBusy (s : State) (p : Nat) : Bool :=
  s.runs.any (fun r => match (s.handle r.2.handle).ver r.2.version with
    | some v => (match Tbl.find v.acopies r.2.copy with | some c => (s.copyCores v c).contains p | none => false)
    | none => false)

/-- COPY_DRAIN (R159): the copies that hold a core admit nothing more, and the core's move to the stand's coppice begins. -/
def State.copyDrain (s : State) (p : Nat) : State :=
  let u := coreUnit p
  if 4896 ≤ p ∨ !s.coreOk u.die u.cmpt u.stand u.unit ∨ !(s.coresOf (p / 17)).contains u.unit ∨
      s.units.moves.any (fun m => m.unit == u) then s
  else
    match s.coppice u.die u.cmpt u.stand with
    | none => s
    | some k => { s with units.moves := s.units.moves ++ [⟨u, k, false, true, []⟩] }

/-- COPY_DRAIN (R159). -/
def execCopyDrain (core : Nat) (s : State) : Host.Outcome State Fault Refusal := .next (s.copyDrain core)

/-- MIGRATION_DONE (R159): the copies are empty; the core's state is on the coppice, which takes its logical place, and the
copies reopen. The freed core is the coppice now; one that cruise moved goes to its test. -/
def State.migrationDone (s : State) (p : Nat) : State :=
  let u := coreUnit p
  match s.units.moves.find? (fun m => m.unit == u && m.drain) with
  | none => s
  | some m =>
    if s.coreBusy p then s
    else
      let q := p / 17 * 17 + m.spare
      let s1 := s.moveCore p q
      { s1 with units.moves := s1.units.moves.filter (fun x => x != m)
                units.tests := if m.test then s1.units.tests ++ [(u, 0)] else s1.units.tests }

/-- MIGRATION_DONE (R159). -/
def execMigrationDone (core : Nat) (s : State) : Host.Outcome State Fault Refusal := .next (s.migrationDone core)

end Sys2Proof.Machine
end

