-- ==== Sys2Proof/Machine/Seq.lean ====
section
/-! DEFINITION. Sequence contexts and generation (R195 to R212). -/
namespace Sys2Proof.Machine

/-- Change a context. -/
def State.setCtx (s : State) (k : Nat) (x : Ctx) : State := { s with ctxs := Tbl.put s.ctxs k x }

/-- The version and copy of a context. -/
def State.ctxHome (s : State) (x : Ctx) : Option (Version × ACopy) :=
  match (s.handle x.handle).ver x.version with
  | none => none
  | some v => (Tbl.find v.acopies x.copy).map (fun c => (v, c))

/-! ## Admission (R201) -/

/-- A context may be given an item: it does not roll back or close, no capture is due, and STEP ticks have passed. -/
def Ctx.free (x : Ctx) (v : Version) (tick : Nat) : Bool :=
  x.state != 3 && !x.rolling && !x.closing && !x.capDue &&
  (match x.lastTick with | some t => decide (t + v.prog.step ≤ tick) | none => true)

/-- A token is ready (R201). -/
def State.tokReady (s : State) (n : Nat) : Bool :=
  match Tbl.find s.msgs n with
  | none => false
  | some m =>
    match m.ctx.bind (Tbl.find s.ctxs) with
    | none => false
    | some x =>
      match s.ctxHome x with
      | none => false
      | some (v, _) => m.stage == .waiting && x.p == m.org.desc.sq && decide (x.p < 0xFFFFFFFF) && x.gen.isNone && s.complete m &&
          s.framesVerdict m.frames == .good && x.free v s.time.tick

/-- The tokens that a tick boundary finds ready are marked with it. -/
def State.markTokens (s : State) : State :=
  { s with msgs := Tbl.mapVals s.msgs (fun n m => { m with
      readyAt := if s.tokReady n then some (m.readyAt.getD s.time.tick) else none }) }

/-- Another ready token of the copy goes before token m of context x (R201): one whose context holds a credit before one whose context
holds none, then the one that was ready earlier. -/
def State.tokenAhead (s : State) (m : Msg) (x : Ctx) : Bool :=
  let since := fun (m : Msg) => m.readyAt.getD (s.time.tick + 1)
  s.msgs.any (fun o => s.tokReady o.1 && (match o.2.ctx.bind (Tbl.find s.ctxs) with
    | some y => y.handle == x.handle && y.version == x.version && y.copy == x.copy &&
        (if y.credits = 0 ∧ 0 < x.credits then false
         else decide (0 < y.credits ∧ x.credits = 0) || decide (since o.2 < since m))
    | none => false))

/-- Note an item's admission in its context. -/
def Ctx.enter (x : Ctx) (tick pos : Nat) : Ctx :=
  { x with lastTick := some tick, credits := x.credits - 1, openPos := x.openPos ++ [pos] }

/-- SEQ_TOKEN_ADMIT (R201): a ready token is admitted to its context's copy, tokens with a credit first, then the earliest ready; one
that finds no admission waits in the handle's admission queue. -/
def State.tokenAdmit (s : State) (n : Nat) : State :=
  match s.leaving n with
  | none => s
  | some (s, m) =>
    match m.ctx with
    | none => s
    | some k =>
      match Tbl.find s.ctxs k with
      | none => s
      | some x =>
        match s.ctxHome x with
        | none => s
        | some (v, cp) =>
          if !s.tokReady n then s
          else if !(s.admits && s.copyAdmits x.handle v x.copy cp m.exact) || s.tokenAhead m x then s.arrayQueue n m v .waiting
          else
            let s1 := s.setHandle m.target { s.handle m.target with queue := (s.handle m.target).queue.filter (· != n) }
            let pos := x.p
            let dsc := m.descIn (some (pos, x.cslot, stepSeed 0 pos))
            let s2 := s1.startRun x.handle v x.copy cp (some n) (some k) pos m.exact dsc m.org.data (sampleKey m.sample)
            ((s2.setMsg n { m with stage := .running }).setCtx k (x.enter s.time.tick pos)).count (Reg.SEQ_CNT_TOKENS (k / 4096))

/-- SEQ_TOKEN_ADMIT (R201). -/
def execSeqTokenAdmit (slot : Nat) (s : State) : Host.Outcome State Fault Refusal := .next (s.tokenAdmit slot)

/-- SEQ_STEP_BOUNDARY (R199). -/
def execSeqStepBoundary (ctx : Nat) (s : State) : Host.Outcome State Fault Refusal := .next (s.stepBoundary ctx)

/-- CREDIT_EARN (R201): a context earns a credit every 1 ÷ GRATE s from its opening, and holds at most 2. -/
def State.creditEarn (s : State) (k : Nat) : State :=
  match Tbl.find s.ctxs k with
  | none => s
  | some x =>
    match s.ctxHome x with
    | none => s
    | some (v, _) =>
      if (x.earned + 1) * 1000000000 ≤ (s.time.raw - x.earnFrom) * v.prog.grate then
        s.setCtx k { x with credits := min 2 (x.credits + 1), earned := x.earned + 1 }
      else s

/-- CREDIT_EARN (R201). -/
def execCreditEarn (ctx : Nat) (s : State) : Host.Outcome State Fault Refusal := .next (s.creditEarn ctx)

/-! ## Checkpoints (R203) -/

/-- The state of a context as its copy holds it, one byte string a logical stand. -/
def State.readCtx (s : State) (v : Version) (cp : ACopy) (cslot : Nat) : List (List Byte) :=
  (s.ctxRegions v cp cslot).map (s.die cp.die).sram.readSpans

/-- CHECKPOINT_CAPTURE (R203): the context's state is copied into a staging buffer, once one is free; of a generation
context also the block that feeds its next step, once the step before has given it. -/
def State.capture (s : State) (k : Nat) : State :=
  match Tbl.find s.ctxs k with
  | none => s
  | some x =>
    match s.ctxHome x with
    | none => s
    | some (v, cp) =>
      let used := sumBy (fun y => y.2.staged.length) (s.copyCtxs x.handle x.version x.copy)
      if !x.capDue ∨ 2 ^ v.prog.stageLog2 ≤ used ∨ x.rolling ∨ (x.gen.isSome && s.runs.any (fun r => r.2.ctx == some k)) then s
      else
        let data := s.readCtx v cp x.cslot ++ (match x.gen with | some g => [g.block] | none => [])
        s.setCtx k { x with staged := x.staged ++ [(x.p, data)], capDue := false }

/-- CHECKPOINT_CAPTURE (R203). -/
def execCheckpointCapture (ctx : Nat) (s : State) : Host.Outcome State Fault Refusal := .next (s.capture ctx)

/-- CHECKPOINT_WRITE_DONE (R203): the oldest staged state is in checkpoint slot C ÷ CKPT_INTERVAL mod 2; C becomes the rollback point
once every earlier verdict is good. A write to the slot of the rollback point in force waits for the other to take its place. -/
def State.ckptWritten (s : State) (k : Nat) : State :=
  match Tbl.find s.ctxs k with
  | none => s
  | some x =>
    match x.staged, s.ctxHome x with
    | (c, data) :: rest, some (v, _) =>
      let i := c / v.prog.ckpt % 2
      if (match Tbl.find x.slots i with | some e => e.1 == x.rb && x.rb != c | none => false) then s
      else (s.setCtx k { x with staged := rest, written := x.written ++ [c], slots := Tbl.put x.slots i (c, data) }).promote k
    | _, _ => s

/-- CHECKPOINT_WRITE_DONE (R203). -/
def execCheckpointWriteDone (ctx : Nat) (s : State) : Host.Outcome State Fault Refusal := .next (s.ckptWritten ctx)

/-! ## Rollback (R204 to R206, R209) -/

/-- Drop the runs of a context and the tokens that carry them. -/
def State.dropRuns (s : State) (k : Nat) (x : Ctx) : State :=
  let mine := s.runs.filter (fun r => r.2.ctx == some k)
  let s1 := mine.foldl (fun s r => match s.ctxHome x with
    | some (v, cp) => s.dropTokens v cp r.2
    | none => s) s
  { s1 with
    runs := s1.runs.filter (fun r => r.2.ctx != some k)
    flights := s1.flights.filter (fun f => !mine.any (fun r => r.1 == f.2.run))
    fevals := s1.fevals.filter (fun f => !mine.any (fun r => r.1 == f.2.run)) }

/-- The conversation's next expected sequence number becomes C (R205, R248): what lies from C through B + 255 is forgotten, and B moves
back to C. -/
def State.convRollback (s : State) (c at' : Nat) : State :=
  let x := s.conv c
  let back := seqDist x.base at'
  let top := seqDist (x.base + 255) at'
  let keep := fun q => !decide (seqDist q at' ≤ top ∧ top < 2 ^ 31 + 256)
  (s.setConv c { x with base := if 1 ≤ back ∧ back < 2 ^ 31 then at' else x.base, done := x.done.filter keep }).setCache c
    (Tbl.keep (s.cacheOf c) (fun q _ => keep q))

/-- Put a token back to wait: its reply, if any, is void, and so are its effects; one whose reply has gone is over. -/
def State.putBack (s : State) (n : Nat) : State :=
  match Tbl.find s.msgs n with
  | none => s
  | some m =>
    if m.gone then s.failMsg n 0
    else (s.voidReply m).setMsg n { m with stage := .waiting, reply := none, unitBad := false, readyAt := none, applied := false }

/-- ROLLBACK (R205): the context stops, its tokens in flight end, every other token but the one at C is answered
CONTEXT_ROLLED_BACK, and P goes back to C. A generation context in fast mode stops instead (R209). -/
def State.rollback (s : State) (k : Nat) : State :=
  match Tbl.find s.ctxs k with
  | none => s
  | some x =>
    if !x.rolling ∨ x.state = 3 then s
    else
      let c := x.rb
      let x1 := { x with state := 3, p := c, staged := [], written := [], capDue := false, lastTick := none,
                         openPos := x.openPos.filter (fun p => decide (p < c)) }
      let s1 := ((s.dropRuns k x).setCtx k x1).count (Reg.SEQ_CNT_ROLLBACK (k / 4096))
      match x.gen with
      | some g =>
        if s.exact then
          s1.setCtx k { x1 with gen := some { g with silentTo := some (max x.failed (g.silentTo.getD 0)), lateNow := true
                                                     emits := g.emits.filter (fun e => decide (e.pos < x.failed)) } }
        else (s1.ctxOver k x1 false).post 0 9 [(c, 32)]
      | none =>
        let s2 := match x.conv with | some cv => s1.convRollback cv c | none => s1
        let toks := (s2.msgs.filter (fun m => m.2.ctx == some k)).map (fun m => (m.1, m.2.org.desc.sq, m.2.gone))
        (toks.foldl (fun s t =>
          if t.2.1 = c ∨ t.2.2 = true then (if c ≤ t.2.1 then s.putBack t.1 else s) else s.answerRolled t.1 k x1) s2).settle

/-- ROLLBACK (R205). -/
def execRollback (ctx : Nat) (s : State) : Host.Outcome State Fault Refusal := .next (s.rollback ctx)

/-- Close a context whose state cannot be had again (R206): its tokens are answered FAULT_FINAL, and a GSTOP that waits for its end
completes. -/
def State.ctxFinal (s : State) (k : Nat) : State :=
  let toks := (s.msgs.filter (fun m => m.2.ctx == some k && !m.2.gone)).map (·.1)
  let s1 := toks.foldl (fun s n => (s.count Reg.RPR_CNT_ITEMFINAL).answerMsg n stFaultFinal 0 0) s
  (match Tbl.find s1.ctxs k with | some x => s1.ctxOver k x false | none => s1).count (Reg.SEQ_CNT_FINAL (k / 4096))

/-- Move a context to another copy of its version (R206). -/
def State.rehome (s : State) (k : Nat) (x : Ctx) (v : Version) : Option State :=
  match s.pickCopy x.handle v (ctxRate v x) with
  | none => none
  | some (c, cp) =>
    let used := (s.copyCtxs x.handle x.version c).map (·.2.cslot)
    let cs := ((List.range (used.length + 1)).filter (fun i => !used.contains i)).headD 0
    let n := (Tbl.freeFrom s.ctxs 4097 (cp.die * 4096)).getD (cp.die * 4096)
    let y := { x with copy := c, cslot := cs, cause := 5, rehomed := true }
    let s1 := { s with
      ctxs := Tbl.put (Tbl.del s.ctxs k) n y
      msgs := Tbl.mapVals s.msgs (fun _ m => if m.ctx = some k then { m with ctx := some n } else m) }
    some (match x.conv with | some cv => s1.setConv cv { s1.conv cv with ctx := some n } | none => s1)

/-- Write the rollback point's state back and let the context go on. -/
def State.restoreAt (s : State) (k : Nat) (x : Ctx) (v : Version) (cp : ACopy) : State :=
  let data := match x.slots.find? (fun e => e.2.1 == x.rb) with | some e => e.2.2 | none => []
  let s1 := s.putCtxState v cp x.cslot data
  let gen := x.gen.map (fun g => { g with block := data.getD v.prog.nstands [] })
  s1.setCtx k { x with state := if x.gen.isSome then 2 else 1, rolling := false, cause := 0, failed := 0, gen := gen }

/-- RESTORE_DONE (R205, R206): the state is that of the rollback point, on the context's copy if it is in service. Else the context is
re-homed to another copy of the version, with CAUSE REHOMED for its tokens until the restore there is done (log 145). Where no place
is found, or the checkpoint cannot be read (`readable`, or its port is lost), the context closes. -/
def State.restoreDone (s : State) (k : Nat) (readable : Bool) : State :=
  match Tbl.find s.ctxs k with
  | none => s
  | some x =>
    if x.state ≠ 3 then s
    else
      match s.ctxHome x with
      | none => s.ctxFinal k
      | some (v, cp) =>
        if x.rb ≠ 0 ∧ (!readable ∨ (x.cause ≠ 5 ∧ (s.die (k / 4096)).lost)) then
          -- a word of the checkpoint is uncorrectable (R206, R342)
          (if (s.die (k / 4096)).lost then s else s.poolUe (k / 4096)).ctxFinal k
        else if !cp.out then s.restoreAt k x v cp
        else
          match s.rehome k x v with
          | none => s.ctxFinal k
          | some s1 => s1

/-- RESTORE_DONE (R205). -/
def execRestoreDone (r : RestoreEnd) (s : State) : Host.Outcome State Fault Refusal :=
  .next ((s.restoreDone r.ctx r.readable).ctxSettle r.ctx)

/-! ## Sequence commands (R207, R210, R211) -/

/-- Complete a sequence command with MBOX_DONE. -/
def State.seqFinish (s : State) (d : List Byte) (status k : Nat) (x : Option Ctx) : State :=
  let w := s.recordWrite (leAt d 48 8) (s.seqRecord status k x) status
  w.2.mboxDone (byteAt d 0) w.1

/-- ERR_PARAM of a GSTART descriptor (Table 8-4, R304 for a START_TIME). -/
def State.gstartBad (s : State) (d : List Byte) : Bool :=
  let c := s.regs.cfg
  let early := decide (timeOf (leAt d 24 6) (leAt d 32 4) < s.now + 100000 * 2 ^ 32)
  decide (1 < byteAt d 1 ∨ 1024 ≤ leAt d 4 2 ∨ 128 ≤ byteAt d 6 ∨ byteAt d 7 = 0 ∨ 64 ≤ byteAt d 7 ∨ 1000000000 ≤ leAt d 32 4) ||
  leAt d 30 2 != 0 || leAt d 36 4 != 0 || leAt d 56 8 != 0 || leAt d 40 8 % 64 != 0 || leAt d 48 8 % 64 != 0 ||
  (entryDest c (byteAt d 7)).isNone || !bitAt (cfgOf c (Reg.RPLY_TMPL_hdr (byteAt d 6))) 31 || (byteAt d 1 == 1 && early)

/-- ERR_PARAM of a GSTOP or SCLOSE descriptor: a reserved field of Table 8-4 that is not zero, or a field it uses outside its range. -/
def seqCmdBad (d : List Byte) : Bool :=
  decide (1 < byteAt d 1 ∨ 1024 ≤ leAt d 4 2 ∨ 128 ≤ byteAt d 6 ∨ 64 ≤ byteAt d 7) || leAt d 30 2 != 0 || leAt d 36 4 != 0 ||
  leAt d 56 8 != 0 || leAt d 48 8 % 64 != 0

/-- GSTART (R207, R210): opens a generation context on the serving version. -/
def State.gstart (s : State) (i : Nat) : State :=
  match s.takeCmd i 0x21 with
  | none => s
  | some (c, s1) =>
    let d := c.desc
    let h := leAt d 4 2
    let interval := leAt d 8 4
    let prime := leAt d 40 8
    if s.gstartBad d then s1.seqFinish d 1 0 none
    else
      match (s.handle h).serving with
      | none => s1.seqFinish d 2 0 none
      | some v =>
        let rate := max v.prog.grate (64000000000 / max 1 interval)
        if v.kind ≠ 2 then s1.seqFinish d 2 0 none
        else if (s.handle h).loading ∨ s.jrnlRefuses then s1.seqFinish d 4 0 none
        else if interval < max v.prog.step v.prog.depth * 256 then s1.seqFinish d 1 0 none
        else
          match s.pickCopy h v rate with
          | none => s1.seqFinish d 0x0A 0 none
          | some (cn, cp) =>
            let s1 := if prime = 0 then s1 else s1.mirrorHeal prime v.prog.resLen
            if prime ≠ 0 ∧ (s.anyUe prime v.prog.resLen || s.anyUnmapped prime v.prog.resLen) then s1.seqFinish d 0x0B 0 none
            else
              let block := if prime = 0 then List.replicate v.prog.resLen 0 else s.devRead prime v.prog.resLen
              let g : GenSt := { seed := leAt d 16 8, interval := interval, count := leAt d 12 4, template := byteAt d 6
                                 dest := byteAt d 7, start := if byteAt d 1 = 1 then none else some ((s.time.tick + 1) * 256)
                                 startSec := leAt d 24 6, startNs := leAt d 32 4, block := block }
              let (k, s2) := s1.openCtx h v cn cp none (some g)
              let s3 := { s2 with ctxs := Tbl.modify s2.ctxs k (fun x => { x with
                slots := [(0, (0, List.replicate v.prog.nstands [] ++ [block]))] }) }
              s3.seqFinish d 0 k (Tbl.find s3.ctxs k)

/-- GSTART (R207). -/
def execGstart (i : Nat) (s : State) : Host.Outcome State Fault Refusal := .next (s.gstart i)

/-- Generation has come to its end (R207). -/
def GenSt.done (g : GenSt) (p : Nat) : Bool :=
  g.stopping || (if g.count = 0 then p == 0xFFFFFFFE else decide (g.count ≤ p))

/-- At the end of generation, with no step running and every frame emitted, the context closes and GEN_DONE is posted with
the final position. -/
def State.genEnd (s : State) (k : Nat) : State :=
  match Tbl.find s.ctxs k with
  | none => s
  | some x =>
    match x.gen with
    | none => s
    | some g =>
      if g.done x.p && !x.rolling && g.emits.isEmpty && !s.runs.any (fun r => r.2.ctx == some k) then
        (s.ctxOver k x true).post 0 7 [(x.p, 32)]
      else s

/-- GSTOP (R207): ends a generation context at the next step boundary; it completes with GEN_DONE. -/
def State.gstop (s : State) (i : Nat) : State :=
  match s.takeCmd i 0x22 with
  | none => s
  | some (c, s1) =>
    let d := c.desc
    let k := leAt d 2 2
    if seqCmdBad d then s1.seqFinish d 1 k none
    else match Tbl.find s.ctxs k with
    | none => s1.seqFinish d 2 k none
    | some x =>
      match x.gen with
      | none => s1.seqFinish d 2 k none
      | some g =>
        if x.handle ≠ leAt d 4 2 then s1.seqFinish d 2 k none
        else if x.rolling ∨ (s.handle x.handle).loading ∨ s.jrnlRefuses then s1.seqFinish d 4 k (some x)
        else (s1.setCtx k { x with gen := some { g with stopping := true, stopRecs := g.stopRecs ++ [leAt d 48 8] } }).genEnd k

/-- GSTOP (R207). -/
def execGstop (i : Nat) (s : State) : Host.Outcome State Fault Refusal := .next (s.gstop i)

/-- SCLOSE (R210, R211): closes a context; tokens in flight complete, those that wait are answered STALE_MESSAGE. -/
def State.sclose (s : State) (i : Nat) : State :=
  match s.takeCmd i 0x23 with
  | none => s
  | some (c, s1) =>
    let d := c.desc
    let k := leAt d 2 2
    if seqCmdBad d then s1.seqFinish d 1 k none
    else match Tbl.find s.ctxs k with
    | none => s1.seqFinish d 2 k none
    | some x =>
      if x.handle ≠ leAt d 4 2 then s1.seqFinish d 2 k none
      else if x.rolling ∨ (s.handle x.handle).loading ∨ s.jrnlRefuses then s1.seqFinish d 4 k (some x)
      else
        let toks := (s1.msgs.filter (fun m => m.2.ctx == some k && m.2.stage == .waiting && (s1.runOfSlot m.1).isNone)).map (·.1)
        let s2 := toks.foldl (fun s n => match Tbl.find s.msgs n with
          | some m => s.answerMsg n stStaleMessage 0 (s.staleInfo m.org.desc)
          | none => s) s1
        (((s2.closeCtx k).ctxSettle k).seqFinish d 0 k (some x)).settle

/-- SCLOSE (R210). -/
def execSclose (i : Nat) (s : State) : Host.Outcome State Fault Refusal := .next (s.sclose i)

/-! ## Generation steps (R207 to R209) -/

/-- A step's scheduled time in 1/256 tick. -/
def GenSt.due (g : GenSt) (p : Nat) : Option Nat := g.start.map (fun t => t + p * g.interval)

/-- The stamp of an instant given in 1/256 tick of the tick counter. -/
def State.stampTick (s : State) (t : Nat) : Stamp :=
  s.stampAt (s.time.raw - 4 * s.time.tick + t / 64) (t % 64 / 4) 0

/-- The mode of a generation step whose scheduled time is t, in 1/256 tick (R310, Table 12-6): in force at its scheduled tick, apart from
fellings that its scheduled time decides. -/
def State.exactAt (s : State) (t : Nat) : Bool :=
  let st := s.stampTick t
  let a := s.time.modes.foldl (fun m e =>
    if (match e.fell with | none => decide (ceilDiv t 256 < e.tick) | some (sec, ns, g) => !takesNew st sec ns g) then e.old else m) s.exact
  s.time.fell.foldl (fun m f => if f.2.ready ∧ takesNew st f.2.sec f.2.ns f.2.gen then
    (if f.2.kind = 2 then f.2.arg == 1 else if f.2.kind = 3 then bitAt (cfgOf f.2.set Reg.GCTL_MODE) 31 else m) else m) a

/-- The START_TIMEs that device time has reached at this tick boundary (R207). -/
def State.genStarts (s : State) : State :=
  { s with ctxs := Tbl.mapVals s.ctxs (fun _ x => { x with
      gen := x.gen.map (fun g => if g.start.isNone ∧ timeOf g.startSec g.startNs ≤ s.now then
        { g with start := some (s.time.tick * 256) } else g) }) }

/-- GEN_STEP (R207, R209): the next step is admitted at the first tick boundary at or after its scheduled time; one that
comes later is LATE. The first step past those run again posts GEN_RECOVERED. -/
def State.genStep (s : State) (k : Nat) : State :=
  match Tbl.find s.ctxs k with
  | none => s
  | some x =>
    match x.gen, s.ctxHome x with
    | some g, some (v, cp) =>
      match g.due x.p with
      | none => s
      | some t =>
        if x.state ≠ 2 ∨ g.done x.p ∨ s.time.tick * 256 < t ∨ !x.free v s.time.tick ∨
            s.runs.any (fun r => r.2.ctx == some k) ∨ !(s.admits && s.copyAdmits x.handle v x.copy cp (s.exactAt t)) then s
        else
          let pos := x.p
          let late := decide (t + 256 ≤ s.time.tick * 256)
          let loud := decide (g.silentTo.getD 0 ≤ pos)
          let dsc : DescIn := { d := { model := some x.handle, seq := some pos }, ver := x.version, nan := false, lport := 0
                                stamp := s.stampTick t, metadata := [], seq := some (pos, x.cslot, stepSeed g.seed pos) }
          let s1 := s.startRun x.handle v x.copy cp none (some k) pos (s.exactAt t) dsc g.block (fun _ => 0)
          let back := loud && g.silentTo.isSome
          let g1 := { g with lateNow := late, silentTo := if back then none else g.silentTo }
          let s2 := (s1.setCtx k { (x.enter s.time.tick pos) with gen := some g1 }).count (Reg.SEQ_CNT_TOKENS (k / 4096))
          let s3 := if late && loud then s2.count (Reg.SEQ_CNT_LATE (k / 4096)) else s2
          if back then s3.post 0 8 [] else s3
    | _, _ => s

/-- GEN_STEP (R207). -/
def execGenStep (ctx : Nat) (s : State) : Host.Outcome State Fault Refusal := .next (s.genStep ctx)

/-- What may follow a frame's emission: the end of generation, or of a context that closes (R207, R211). -/
def State.genOver (s : State) (k : Nat) : State := (s.genEnd k).ctxSettle k

/-- GEN_FRAME_EMIT (R208): the oldest step that has its result gives a frame: the context's template filled for its destination, both of
the configuration of its scheduled time (Table 12-6), with that time and its result block, on its way through the verdict gate. -/
def State.genEmit (s : State) (k : Nat) : State :=
  match Tbl.find s.ctxs k with
  | none => s
  | some x =>
    match x.gen with
    | none => s
    | some g =>
      match g.emits with
      | [] => s.genOver k
      | e :: rest =>
        let t := (g.due e.pos).getD 0
        let st := s.stampTick t
        let s1 := s.setCtx k { x with gen := some { g with emits := rest } }
        match entryDest (s.cfgFor st) g.dest with
        | none => (s1.posGood k e.pos).genOver k
        | some d =>
          let org : Origin := { eport := 0, lport := d.lport, win := [], flen := 0, stamp := st, raw := s.time.raw, sub := 0
                                desc := { model := some x.handle, replyTo := some g.dest }, metadata := [], handler := 0
                                cfg := s.cfgFor st, exact := s.exactAt t, hdrEnd := 0 }
          let r0 := s.newReply org none [] 5 stOk 0 0 d
          let r := { r0 with res := e.res, nan := e.nan, sat := e.sat, late := e.late, warn := e.warn, version := x.version,
                             position := e.pos, tmpl := some g.template, eport := s.egressOf d.lport 48, genCtx := some k }
          ((s1.addReply r).posGood k e.pos).genOver k

/-- GEN_FRAME_EMIT (R208). -/
def execGenFrameEmit (ctx : Nat) (s : State) : Host.Outcome State Fault Refusal := .next (s.genEmit ctx)

end Sys2Proof.Machine
end

