-- ==== Sys2Proof/Machine/BoomPlan.lean ====
section
/-! DEFINITION. The boom's arithmetic and its schedule (R213 to R221): formats, element addition, results, the split of
segments among members and ranks, and the paths of each axis. An element on its way is a number: FP32 or INT64 bits, the
bits of IFMT where nothing is added, or a WIDE128 value, which from 2^128 upward is a set of special marks: 1 NaN, 2 +Inf,
4 −Inf, 8 out of range (R216). -/
namespace Sys2Proof.Machine

/-! ## The epoch's parameters (Table 9-18, R218) -/

/-- KIND of Table 9-1: 0 ALLREDUCE, 1 REDUCE_SCATTER, 2 ALLGATHER, 3 BROADCAST. -/
def BoomEpoch.kind (e : BoomEpoch) : Nat := bitsOf (e.words.getD 0 0) 30 28
/-- IFMT. -/
def BoomEpoch.ifmt (e : BoomEpoch) : Nat := bitsOf (e.words.getD 0 0) 27 24
/-- RWIDE. -/
def BoomEpoch.rwide (e : BoomEpoch) : Bool := (e.words.getD 0 0).testBit 23
/-- L, local contributors a member. -/
def BoomEpoch.lcl (e : BoomEpoch) : Nat := bitsOf (e.words.getD 0 0) 21 16 + 1
/-- σ of R216. -/
def BoomEpoch.sigma (e : BoomEpoch) : Int :=
  if e.ifmt = 4 then -9 else if e.ifmt = 5 then -16 else if e.ifmt = 6 then -24
  else signed 8 (bitsOf (e.words.getD 0 0) 15 8)
/-- E, elements. -/
def BoomEpoch.elems (e : BoomEpoch) : Nat := bitsOf (e.words.getD 1 0) 22 0
/-- ROOT. -/
def BoomEpoch.root (e : BoomEpoch) : Nat := bitsOf (e.words.getD 2 0) 17 0
/-- TIMEOUT in µs. -/
def BoomEpoch.timeout (e : BoomEpoch) : Nat := bitsOf (e.words.getD 3 0) 19 0
/-- The kind adds (R214). -/
def BoomEpoch.adds (e : BoomEpoch) : Bool := decide (e.kind ≤ 1)
/-- An Exact FP32 operation (R217), whose contributions travel unreduced. -/
def BoomEpoch.unreduced (e : BoomEpoch) : Bool := e.adds && e.exact && e.ifmt == 8
/-- An Exact narrow operation (R216). -/
def BoomEpoch.wide (e : BoomEpoch) : Bool := e.adds && e.exact && decide (4 ≤ e.ifmt ∧ e.ifmt ≤ 7)

/-- n of an axis: 0 X, 1 Y, 2 Z. -/
def BoomEpoch.ext (e : BoomEpoch) (a : Nat) : Nat := bitsOf e.slice (15 + 4 * a) (12 + 4 * a) + 1
/-- WRAP of an axis. -/
def BoomEpoch.wrap (e : BoomEpoch) (a : Nat) : Bool := e.slice.testBit (24 + a)
/-- Relative coordinate of an axis (R218), for a slice register, own coordinates and torus extents. -/
def relCoord (slice self torus a : Nat) : Nat :=
  let t := bitsOf torus (3 + 4 * a) (4 * a) + 1
  (bitsOf self (3 + 4 * a) (4 * a) + t - bitsOf slice (3 + 4 * a) (4 * a) % t) % t
/-- The relative coordinate of an axis. -/
def BoomEpoch.coord (e : BoomEpoch) (a : Nat) : Nat := relCoord e.slice e.self e.torus a
/-- The member with relative coordinates x, y, z. -/
def BoomEpoch.memberAtXyz (e : BoomEpoch) (x y z : Nat) : Nat := x + e.ext 0 * (y + e.ext 1 * z)
/-- The member index m. -/
def BoomEpoch.me (e : BoomEpoch) : Nat := e.memberAtXyz (e.coord 0) (e.coord 1) (e.coord 2)
/-- N. -/
def BoomEpoch.members (e : BoomEpoch) : Nat := e.ext 0 * e.ext 1 * e.ext 2
/-- R. -/
def BoomEpoch.ranks (e : BoomEpoch) : Nat := e.members * e.lcl
/-- S. -/
def BoomEpoch.nsegs (e : BoomEpoch) : Nat := ceilDiv e.elems 512
/-- Elements of segment g. -/
def BoomEpoch.segLen (e : BoomEpoch) (g : Nat) : Nat := min 512 (e.elems - 512 * g)
/-- Coordinate of member m on an axis. -/
def BoomEpoch.coordOf (e : BoomEpoch) (m a : Nat) : Nat :=
  if a = 0 then m % e.ext 0 else if a = 1 then m / e.ext 0 % e.ext 1 else m / (e.ext 0 * e.ext 1)

/-- The part of n that holds item g of s items split as floor(k × s ÷ n). -/
def splitOf (g n s : Nat) : Nat := ceilDiv ((g + 1) * n) s - 1
/-- The member that owns segment g after the last reduce phase (R219). -/
def BoomEpoch.ownerOf (e : BoomEpoch) (g : Nat) : Nat := splitOf g e.members e.nsegs
/-- The rank whose slice holds segment g. -/
def BoomEpoch.rankOf (e : BoomEpoch) (g : Nat) : Nat := splitOf g e.ranks e.nsegs
/-- The segments of a rank's slice. -/
def BoomEpoch.sliceOf (e : BoomEpoch) (r : Nat) : List Nat :=
  (List.range (r * e.nsegs / e.ranks + ((r + 1) * e.nsegs / e.ranks - r * e.nsegs / e.ranks))).drop (r * e.nsegs / e.ranks)

/-- P_a of R219: the extents of the axes reduced after axis a. -/
def BoomEpoch.after (e : BoomEpoch) (a : Nat) : Nat := if a = 2 then e.ext 0 * e.ext 1 else if a = 1 then e.ext 0 else 1

/-- Segment g lies in the + half of its shard on axis a (R220). -/
def BoomEpoch.plusHalf (e : BoomEpoch) (g a : Nat) : Bool :=
  let p := e.after a
  let k := e.ownerOf g / p
  let lo := k * p * e.nsegs / e.members
  let hi := (k + 1) * p * e.nsegs / e.members
  decide (g - lo < ceilDiv (hi - lo) 2)

/-- The axes of reduce phases in order, and in the order of distribution (R219). -/
def BoomEpoch.reduceAxes (e : BoomEpoch) : List Nat := [2, 1, 0].filter (fun a => e.ext a != 1)
/-- The axes of distribution in order. -/
def BoomEpoch.distAxes (e : BoomEpoch) : List Nat := [0, 1, 2].filter (fun a => e.ext a != 1)

/-- The next position from p on an axis in the − direction (`dn`) or the + direction, if there is one. -/
def BoomEpoch.step (e : BoomEpoch) (a p : Nat) (dn : Bool) : Option Nat :=
  let n := e.ext a
  if e.wrap a then some (if dn then (p + n - 1) % n else (p + 1) % n)
  else if dn then (if p = 0 then none else some (p - 1)) else (if p + 1 < n then some (p + 1) else none)

/-- The direction in which segment g travels from position p toward its owner j on an axis. -/
def BoomEpoch.toward (e : BoomEpoch) (g a p j : Nat) : Bool := if e.wrap a then !e.plusHalf g a else decide (j < p)

/-- The neighbour from which segment g comes to this member in direction `dn` on axis a sends it in a reduce phase. -/
def BoomEpoch.feeds (e : BoomEpoch) (g a : Nat) (dn : Bool) : Bool :=
  let j := e.coordOf (e.ownerOf g) a
  match e.step a (e.coord a) (!dn) with
  | some q => q != j && e.toward g a q j == dn
  | none => false

/-- The directions from which a reduce phase feeds this member with segment g. -/
def BoomEpoch.feedsOf (e : BoomEpoch) (g a : Nat) : List Bool := [false, true].filter (e.feeds g a)

/-- The directions in which the owner of segment g sends it in distribution. -/
def BoomEpoch.spread (e : BoomEpoch) (g a : Nat) : List Bool :=
  if e.wrap a then [!e.plusHalf g a] else [false, true].filter (fun dn => (e.step a (e.coord a) dn).isSome)

/-- Distribution brings segment g to this member in direction `dn` on axis a. -/
def BoomEpoch.brings (e : BoomEpoch) (g a : Nat) (dn : Bool) : Bool :=
  let j := e.coordOf (e.ownerOf g) a
  let p := e.coord a
  p != j && (if e.wrap a then dn == !e.plusHalf g a else dn == decide (p < j))

/-- The member goes on with segment g in distribution on axis a: the path has not ended. -/
def BoomEpoch.passes (e : BoomEpoch) (g a : Nat) (dn : Bool) : Bool :=
  match e.step a (e.coord a) dn with
  | some q => q != e.coordOf (e.ownerOf g) a
  | none => false

/-- The member one step along an axis. -/
def BoomEpoch.neighbour (e : BoomEpoch) (a : Nat) (dn : Bool) : Option Nat :=
  (e.step a (e.coord a) dn).map (fun q =>
    e.memberAtXyz (if a = 0 then q else e.coord 0) (if a = 1 then q else e.coord 1) (if a = 2 then q else e.coord 2))

/-! ## Formats (Tables 9-2 and 9-4) -/

/-- Bytes an element of IFMT. -/
def BoomEpoch.inBytes (e : BoomEpoch) : Nat := fmtWidth e.ifmt / 8
/-- Bytes an element carried between members. -/
def BoomEpoch.carryBytes (e : BoomEpoch) : Nat :=
  if !e.adds then e.inBytes else if e.ifmt = 3 then 8 else if e.wide then 16 else 4
/-- Bytes an element of the result. -/
def BoomEpoch.outBytes (e : BoomEpoch) : Nat :=
  if !e.adds then e.inBytes else if e.ifmt = 3 then (if e.rwide then 8 else 4) else if e.rwide then 4 else e.inBytes
/-- Buffer bytes (Table 9-4), rounded up to 64 KB (R224). -/
def BoomEpoch.space (e : BoomEpoch) : Nat :=
  ceilDiv (if e.unreduced then 2 * e.lcl * e.elems * 4 else e.elems * e.carryBytes) 65536 * 65536

/-- DDIG (R223). -/
def BoomEpoch.ddig (e : BoomEpoch) : Nat :=
  crc32 ((e.words.take 4).flatMap (leBytes 4) ++ leBytes 4 e.slice ++ [BitVec.ofNat 8 (b2n e.exact)])

/-- Elements of w bytes in network byte order (R7). -/
def readElems (w : Nat) : Nat → List Byte → List Nat
  | 0, _ => []
  | n + 1, b => beVal (b.take w) :: readElems w n (b.drop w)

/-- An input is a NaN. -/
def isNanIn (f v : Nat) : Bool := isFp f && flOf f v == .nan

/-- An input as it is first held (R214 to R216). -/
def BoomEpoch.load (e : BoomEpoch) (v : Nat) : Nat :=
  if !e.adds then v
  else if e.ifmt = 3 then unsigned 64 (signed 32 v)
  else if e.wide then
    match flOf e.ifmt v with
    | .nan => 2 ^ 128 + 1
    | .inf n => 2 ^ 128 + (if n then 4 else 2)
    | .fin n m x =>
      if e.ifmt = 7 ∧ (alignSum [((m : Int), x), (-1, e.sigma + 109)]).1 ≥ 0 then 2 ^ 128 + 8
      else
        let q := roundAt m x e.sigma false
        unsigned 128 (if n then -(q : Int) else q)
  else (flBits 8 (flOf e.ifmt v) false false).1

/-- Addition of two held elements. -/
def BoomEpoch.add (e : BoomEpoch) (a b : Nat) : Nat :=
  if e.ifmt = 3 then (a + b) % 2 ^ 64
  else if e.wide then
    if a < 2 ^ 128 ∧ b < 2 ^ 128 then (a + b) % 2 ^ 128
    else 2 ^ 128 + ((if a < 2 ^ 128 then 0 else a % 2 ^ 128) ||| (if b < 2 ^ 128 then 0 else b % 2 ^ 128))
  else fadd32 a b

/-- Addition of two segments. -/
def BoomEpoch.addSeg (e : BoomEpoch) (a b : List Nat) : List Nat := (a.zip b).map (fun p => e.add p.1 p.2)

/-- A held element in the result format: bits, and whether SAT is set (R214, R216). An infinite input of an Exact sum gives the
infinity of its sign, unsaturated. -/
def BoomEpoch.result (e : BoomEpoch) (v : Nat) : Nat × Bool :=
  let of := if e.rwide then 8 else e.ifmt
  if !e.adds then (v, false)
  else if e.ifmt = 3 then (if e.rwide then (v, false) else intSat 3 (signed 64 v))
  else if e.wide then
    if v < 2 ^ 128 then
      let x := signed 128 v
      flBits of (.fin (decide (x < 0)) x.natAbs e.sigma) false true
    else
      let k := v % 2 ^ 128
      if k.testBit 0 ∨ (k.testBit 1 ∧ k.testBit 2) then (canonNan of, false)
      else if k.testBit 1 then flBits of (.inf false) false false
      else if k.testBit 2 then flBits of (.inf true) false false
      else (canonNan of, true)
  else flBits of (flOf 8 v) false true

/-- The WIDE128 code of marks k (1 to 15). Which code is open (log 20); it is one that no finite sum has, since each of at most 2^18
inputs is at most 255 × 2^101 in magnitude, and each set of marks has its own. -/
def wideMark (k : Nat) : Nat := 2 ^ 127 - 2 ^ 119 + 16 + 16 * (Config.wideCode k % 2 ^ 114) + k

/-- A held element as a frame carries it, and back (Table 9-2). -/
def BoomEpoch.toWire (e : BoomEpoch) (v : Nat) : Nat :=
  if e.wide ∧ 2 ^ 128 ≤ v then wideMark (v % 16) else v
/-- An element read from a PART frame. -/
def BoomEpoch.fromWire (e : BoomEpoch) (v : Nat) : Nat :=
  if e.wide && v % 16 != 0 && v == wideMark (v % 16) then 2 ^ 128 + v % 16 else v

/-! ## Work on segments -/

/-- Something a member sends along an axis: its direction, whether in distribution, the segment, the source rank of an
unreduced one, its elements. -/
structure BoomSend where
  axis : Nat
  dn : Bool
  dist : Bool
  seg : Nat
  rank : Option Nat
  data : List Nat
  deriving DecidableEq, Repr

/-- A segment's record. -/
def BoomEpoch.seg (e : BoomEpoch) (g : Nat) : BoomSeg := Tbl.getD e.segs g {}
/-- Change a segment's record. -/
def BoomEpoch.setSeg (e : BoomEpoch) (g : Nat) (x : BoomSeg) : BoomEpoch := { e with segs := Tbl.put e.segs g x }

/-- A segment has its result at this member: it starts its distribution along every axis of `axes` (R220, R221). -/
def BoomEpoch.startSpread (e : BoomEpoch) (g : Nat) (data : List Nat) (axes : List Nat) : List BoomSend :=
  if e.kind = 1 then []
  else axes.flatMap (fun a => (e.spread g a).map (fun dn => ⟨a, dn, true, g, none, data⟩))

/-- A segment is final at its owner: it is brought to the result format, and distribution starts. -/
def BoomEpoch.finish (e : BoomEpoch) (g : Nat) (acc : List Nat) : BoomEpoch × List BoomSend :=
  let r := acc.map e.result
  let data := r.map (·.1)
  let of := if e.adds && e.rwide then 8 else e.ifmt
  let e1 := { e.setSeg g { e.seg g with final := some data } with
    sat := e.sat || r.any (·.2), nan := e.nan || (e.ifmt != 3 && data.any (isNanIn of)) }
  (e1, e1.startSpread g data e1.distAxes)

/-- The chains of R220 and sums of R215 for a segment whose own value is complete, at most `fuel` stages. -/
def BoomEpoch.advance (e : BoomEpoch) (g : Nat) : Nat → BoomEpoch × List BoomSend
  | 0 => (e, [])
  | fuel + 1 =>
    let x := e.seg g
    if x.count < e.lcl ∨ x.final.isSome then (e, [])
    else
      match e.reduceAxes[x.stage]? with
      | none => if x.stage = e.reduceAxes.length then e.finish g x.acc else (e, [])
      | some a =>
        let here := x.arr.filter (fun r => r.1 == a)
        if here.length < (e.feedsOf g a).length then (e, [])
        else
          let v := here.foldl (fun (s : List Nat) (r : Nat × Bool × List Nat) => e.addSeg s r.2.2) x.acc
          let j := e.coordOf (e.ownerOf g) a
          let x1 := { x with acc := v, arr := x.arr.filter (fun r => r.1 != a) }
          if e.coord a = j then BoomEpoch.advance (e.setSeg g { x1 with stage := x.stage + 1 }) g fuel
          else (e.setSeg g { x1 with acc := [], stage := 4 }, [⟨a, e.toward g a (e.coord a) j, false, g, none, v⟩])

/-- Add a list of FP32 elements by rank (R217). -/
def BoomEpoch.rankSum (e : BoomEpoch) (t : Tbl (List Nat)) : List Nat :=
  match t with
  | [] => []
  | (_, v) :: r => r.foldl (fun (s : List Nat) (x : Nat × List Nat) => e.addSeg s x.2) v

/-- A segment that travels without additions (R217, R219), with the axes still before it: it goes on toward its owner, and
is final there. -/
def BoomEpoch.flow (e : BoomEpoch) (g : Nat) (rank : Option Nat) (data : List Nat) : List Nat → BoomEpoch × List BoomSend
  | [] =>
    match rank with
    | none => e.finish g data
    | some r =>
      let x := e.seg g
      let raws := Tbl.put x.raws r data
      if raws.length = e.ranks then
        let f := e.finish g (e.rankSum raws)
        f
      else (e.setSeg g { x with raws := raws }, [])
  | a :: t =>
    let j := e.coordOf (e.ownerOf g) a
    if e.coord a = j then e.flow g rank data t
    else (e, [⟨a, e.toward g a (e.coord a) j, false, g, rank, data⟩])

/-- The axes from a onward in the order of reduce phases. -/
def BoomEpoch.axesFrom (e : BoomEpoch) (a : Nat) : List Nat := e.reduceAxes.dropWhile (· != a)

/-- A local contribution of rank r to segment g: folded in the order of its frame's verdicts (R215), or on its way. -/
def BoomEpoch.contribute (e : BoomEpoch) (r g : Nat) (data : List Nat) : BoomEpoch × List BoomSend :=
  let e0 := { e with nan := e.nan || data.any (isNanIn e.ifmt), bits := e.bits ++ [(r % e.lcl, g)] }
  let v := data.map e.load
  if !e.adds ∨ e.unreduced then e0.flow g (if e.unreduced then some r else none) v e0.reduceAxes
  else
    let x := e0.seg g
    let x1 := { x with count := x.count + 1, acc := if x.count = 0 then v else e0.addSeg x.acc v }
    (e0.setSeg g x1).advance g 5

/-- The received bit of a path: reduce and distribution phases by axis and direction, unreduced contributions by rank. -/
def feedBit (dist : Bool) (a : Nat) (dn : Bool) (rank : Option Nat) : Nat :=
  match rank with
  | some r => 128 + r * 8 + 2 * a + b2n dn
  | none => 64 + 8 * b2n dist + 2 * a + b2n dn

/-- The member takes part in a phase of segment g on axis a: on the axes reduced before it, which are distributed after it,
its coordinates are the owner's (R219). -/
def BoomEpoch.inPhase (e : BoomEpoch) (g a : Nat) : Bool :=
  e.ext a != 1 && [0, 1, 2].all (fun b => decide (b ≤ a) || e.coordOf (e.ownerOf g) b == e.coord b)

/-- A path of R220 brings segment g to this member by this phase. -/
def BoomEpoch.takes (e : BoomEpoch) (g a : Nat) (dn dist : Bool) : Bool :=
  decide (a ≤ 2) && e.inPhase g a && (if dist then e.kind != 1 && e.brings g a dn else e.feeds g a dn)

/-- A partial sum is, or will give, a NaN. -/
def BoomEpoch.sumNan (e : BoomEpoch) (v : Nat) : Bool :=
  if e.ifmt = 3 then false
  else if e.wide then decide (2 ^ 128 ≤ v) && (v.testBit 0 || (v.testBit 1 && v.testBit 2) || v.testBit 3)
  else isNanIn (if e.adds then 8 else e.ifmt) v

/-- A segment arrives from a neighbour in a reduce phase. -/
def BoomEpoch.reduceIn (e : BoomEpoch) (g a : Nat) (dn : Bool) (rank : Option Nat) (data : List Nat) :
    BoomEpoch × List BoomSend :=
  let e0 := { e with bits := e.bits ++ [(feedBit false a dn rank, g)], nan := e.nan || data.any e.sumNan }
  if !e.adds ∨ e.unreduced then e0.flow g rank data (e0.axesFrom a)
  else
    let x := e0.seg g
    (e0.setSeg g { x with arr := x.arr ++ [(a, dn, data)] }).advance g 5

/-- A segment arrives in distribution: the member keeps a copy, passes it on, and starts the later axes. -/
def BoomEpoch.distIn (e : BoomEpoch) (g a : Nat) (dn : Bool) (data : List Nat) : BoomEpoch × List BoomSend :=
  let of := if e.adds && e.rwide then 8 else e.ifmt
  let e0 := { e with bits := e.bits ++ [(feedBit true a dn none, g)], nan := e.nan || (e.ifmt != 3 && data.any (isNanIn of)) }
  let e1 := e0.setSeg g { e0.seg g with final := some data }
  let on := if e1.passes g a dn then [⟨a, dn, true, g, none, data⟩] else []
  (e1, on ++ e1.startSpread g data (e1.distAxes.filter (fun b => decide (a < b))))

/-- The segments that make this member's complete result (R230). -/
def BoomEpoch.needed (e : BoomEpoch) : List Nat :=
  if e.kind = 1 then (List.range e.nsegs).filter (fun g => e.ownerOf g == e.me) else List.range e.nsegs

/-- The member holds its complete result. -/
def BoomEpoch.complete (e : BoomEpoch) : Bool := e.needed.all (fun g => (e.seg g).final.isSome)

/-- The segments that local rank r contributes (Table 9-1). -/
def BoomEpoch.owes (e : BoomEpoch) (r : Nat) : List Nat :=
  if e.kind = 2 then e.sliceOf r else if e.kind = 3 then (if r = e.root then List.range e.nsegs else []) else List.range e.nsegs

/-- The segments that local rank r receives. -/
def BoomEpoch.gets (e : BoomEpoch) (r : Nat) : List Nat := if e.kind = 1 then e.sliceOf r else List.range e.nsegs

/-- The ranks of member m. -/
def BoomEpoch.ranksOf (e : BoomEpoch) (m : Nat) : List Nat := (List.range e.lcl).map (fun l => m * e.lcl + l)

/-- Local ranks with segments missing. -/
def BoomEpoch.absent (e : BoomEpoch) : List Nat :=
  (e.ranksOf e.me).filter (fun r => !(e.owes r).all (fun g => e.bits.contains (r % e.lcl, g)))

/-- Runs of consecutive segments of at most `lim` for frames: what follows a run joins it when it goes the same way. -/
def joinSends (lim : Nat) : List BoomSend → List (List BoomSend)
  | [] => []
  | x :: t =>
    match joinSends lim t with
    | [] => [[x]]
    | r :: rs =>
      match r with
      | [] => [x] :: rs
      | y :: _ =>
        if y.seg = x.seg + 1 ∧ y.axis = x.axis ∧ y.dn = x.dn ∧ y.dist = x.dist ∧ y.rank = x.rank ∧ r.length < lim
        then (x :: r) :: rs else [x] :: r :: rs

end Sys2Proof.Machine
end

