-- ==== Sys2Proof/Machine/Ptp.lean ====
section
/-! DEFINITION. Time records and the IEEE 1588 handling of an Ethernet port (R295 to R299). Message layouts, addresses and
the arithmetic of delays are IEEE 1588-2019's, which the spec names and does not print (log 23). -/
namespace Sys2Proof.Machine

/-! ## Time records (R297) -/

/-- The fields of a time record (Table 12-3). -/
structure TimeRec where
  kind : Nat
  eport : Nat
  seq : Nat := 0
  mtype : Nat := 0
  flags : Nat := 0
  a : Stamp := {}
  b : Stamp := {}
  c : Stamp := {}
  d : Stamp := {}
  corrS : Int := 0
  corrR : Int := 0
  mpd : Int := 0
  offset : Int := 0
  msg : List Byte := []
  deriving DecidableEq, Repr

/-- A 16-byte timestamp of a record. -/
def Stamp.rec16 (t : Stamp) : List Byte := leBytes 8 t.sec ++ leBytes 4 t.ns ++ leBytes 2 t.frac ++ leBytes 2 t.gen

/-- A signed value of a record, 8 bytes. -/
def le64s (x : Int) : List Byte := leBytes 8 (unsigned 64 x)

/-- The 128 bytes of a time record. RX and TXTS carry the message in place of bytes 32 to 127. -/
def TimeRec.bytes (r : TimeRec) : List Byte :=
  let copy := decide (r.kind ≤ 2)
  let m := if copy then r.msg.take 96 else []
  let head := leBytes 1 r.kind ++ leBytes 1 r.eport ++ leBytes 2 r.seq ++ leBytes 1 m.length ++ leBytes 1 r.mtype ++
    leBytes 1 r.flags ++ [0] ++ r.a.rec16
  if copy then head ++ List.replicate 8 0 ++ padTo m 96
  else head ++ r.b.rec16 ++ r.c.rec16 ++ r.d.rec16 ++ le64s r.corrS ++ le64s r.corrR ++ le64s r.mpd ++ le64s r.offset ++
    List.replicate 24 0

/-- Write a time record to the ring; one that finds it full is discarded and counted, and SIZE 0 disables records. -/
def State.timeRecord (s : State) (r : TimeRec) : State :=
  let n := s.cfg Reg.TIME_RING_SIZE 4 0
  let base := (s.cfgW Reg.TIME_RING_HI).toNat * 2 ^ 32 + (s.cfgW Reg.TIME_RING_LO).toNat
  let w := s.time.ringWr
  if n = 0 then s
  else if (w + 1) % 2 ^ n = s.rw Reg.TIME_RING_RD 15 0 then s.count Reg.TIME_CNT_RINGDROP
  else
    let s1 := s.devWrite (base + w * 128) r.bytes
    { s1 with time.ringWr := (w + 1) % 2 ^ n }

/-! ## The port's configuration (Table 12-13) -/

/-- A port's exchanges. -/
def State.ptp (s : State) (e : Nat) : PtpPort := Tbl.getD s.time.ptp e {}
/-- Change a port's exchanges. -/
def State.setPtp (s : State) (e : Nat) (x : PtpPort) : State := { s with time.ptp := Tbl.put s.time.ptp e x }
/-- EN. -/
def State.ptpEn (s : State) (e : Nat) : Bool := s.rw (Reg.TIME_PTP_w0 e) 31 31 == 1
/-- ROLE. -/
def State.ptpRole (s : State) (e : Nat) : Nat := s.rw (Reg.TIME_PTP_w0 e) 30 29
/-- MECH P2P. -/
def State.ptpP2P (s : State) (e : Nat) : Bool := s.rw (Reg.TIME_PTP_w0 e) 28 28 == 1
/-- ONESTEP. -/
def State.ptpOne (s : State) (e : Nat) : Bool := s.rw (Reg.TIME_PTP_w0 e) 27 27 == 1
/-- CARR; neighbour-side ports use Ethernet whatever is written. -/
def State.ptpCarr (s : State) (e : Nat) : Nat := if epNbr s.regs.cfg e then 0 else s.rw (Reg.TIME_PTP_w0 e) 26 25
/-- LOGSYNC. -/
def State.logSync (s : State) (e : Nat) : Nat := s.rw (Reg.TIME_PTP_w0 e) 24 22
/-- LOGREQ. -/
def State.logReq (s : State) (e : Nat) : Nat := s.rw (Reg.TIME_PTP_w0 e) 21 19
/-- The priority of the frames the port sends is paused (R296). -/
def State.ptpPaused (s : State) (e : Nat) : Bool := (s.ep e).paused.contains (s.rw (Reg.TIME_PTP_w0 e) 18 16)
/-- A FENCED or LINKING twin sends nothing here: host ports carry only PFC and LLDP (R368, R370). -/
def State.ptpSilent (s : State) (e : Nat) : Bool := !s.twinServes && !epNbr s.regs.cfg e
/-- EGRESS in sixteenths of a ns (R294). -/
def State.egressAdj (s : State) (e : Nat) : Int := signed 16 (s.rw (Reg.TIME_PTP_w1 e) 31 16)

/-- REQ_IN_USE (R298): the interval 2^−v s doubles with each miss after the third, up to 2^−1 s. -/
def State.reqInUse (s : State) (e : Nat) : Nat :=
  let v := s.logReq e
  if v = 0 then 0 else max 1 (v - ((s.ptp e).missRun - 3))

/-- An interval 2^−v s in raw counts. -/
def ptpCounts (v : Nat) : Nat := 1000000000 / 2 ^ v

/-- The egress timestamp of a frame that starts in this tick, once the port is free: the instant is a free number of sixteenths of a raw
count from there to the tick's end (log 2). -/
def State.egressStamp (s : State) (e : Nat) : Stamp × State :=
  let from' := max s.time.raw (s.ep e).busyTo
  let r := s.drawNat (16 * (s.time.raw + 4 - from') - 1)
  (r.2.stampAt (from' + r.1 / 16) (r.1 % 16) (s.egressAdj e), r.2)

/-! ## Messages -/

/-- A stamp in units of 2^−16 ns. -/
def Stamp.units (t : Stamp) : Int := ((t.sec * 1000000000 + t.ns) * 65536 + t.frac / 4096 * 4096 : Nat)
/-- The part of a stamp below 1 ns, in units of 2^−16 ns. -/
def Stamp.subNs (t : Stamp) : Int := (t.frac / 4096 * 4096 : Nat)
/-- A PTP timestamp, 10 bytes. -/
def Stamp.ptp10 (t : Stamp) : List Byte := beBytes 6 t.sec ++ beBytes 4 t.ns
/-- Read a PTP timestamp; the generation of a peer's time is not given (log 2). -/
def stampAt10 (b : List Byte) (o gen : Nat) : Stamp := ⟨beAt b o 6, beAt b (o + 6) 4, 0, gen⟩

/-- The device's sourcePortIdentity on a port: PORT_ID, portNumber e + 1. -/
def State.portIdent (s : State) (e : Nat) : List Byte := beBytes 8 s.mgmt.identity ++ beBytes 2 (e + 1)

/-- A PTP message of the device: messageType, sequenceId, correctionField, two-step, body. -/
def State.ptpMsg (s : State) (e ty seq : Nat) (corr : Int) (two : Bool) (body : List Byte) : List Byte :=
  let fl := setFld (BitVec.ofNat 32 (s.rw (Reg.TIME_PTP_w2 e) 15 0)) 9 9 (b2n two)
  let v := if ty = 0 ∨ ty = 8 then s.logSync e else s.logReq e
  let ctl := if ty = 0 then 0 else if ty = 1 then 1 else if ty = 8 then 2 else if ty = 9 then 3 else 5
  beBytes 1 ty ++ beBytes 1 0x12 ++ beBytes 2 (34 + body.length) ++ beBytes 1 (s.rw (Reg.TIME_PTP_w0 e) 15 8) ++ [0] ++
  beBytes 2 fl.toNat ++ beBytes 8 (unsigned 64 corr) ++ beBytes 4 0 ++ s.portIdent e ++ beBytes 2 seq ++ beBytes 1 ctl ++
  beBytes 1 (unsigned 8 (-(v : Int))) ++ body

/-- The frame that carries a PTP message on a port, up to its FCS: untagged, to the group address of its kind. -/
def State.ptpFrame (s : State) (e : Nat) (peer event : Bool) (m : List Byte) : List Byte :=
  let src := beBytes 6 (lpMac s.regs.cfg (epLport s.regs.cfg e))
  -- the device's own frames have CONV_CTL.UDP_PORT as their source (R235)
  let port := beBytes 2 (s.cfg Reg.CONV_CTL 15 0)
  let dport := beBytes 2 (if event then 319 else 320)
  let car := s.ptpCarr e
  if car = 1 then
    let ad := beBytes 4 (Config.frameConst 8) ++ beBytes 4 (if peer then 0xE000006B else 0xE0000181)
    let ul := m.length + 8
    let h0 := beBytes 1 0x45 ++ beBytes 1 (Config.frameConst 3) ++ beBytes 2 (20 + ul) ++ beBytes 2 (Config.frameConst 4) ++
      beBytes 2 (Config.frameConst 5 % 2 * 0x4000) ++ beBytes 1 (Config.frameConst 6) ++ [17]
    let u := port ++ dport ++ beBytes 2 ul
    let c := checksum (ad ++ [0, 17] ++ beBytes 2 ul ++ u ++ [0, 0] ++ m)
    padTo (beBytes 6 (if peer then 0x01005E00006B else 0x01005E000181) ++ src ++ beBytes 2 0x0800 ++ h0 ++
      beBytes 2 (checksum (h0 ++ [0, 0] ++ ad)) ++ ad ++ u ++ beBytes 2 (if c = 0 then 65535 else c) ++ m) 60
  else if car = 2 then
    let ad := beBytes 16 (Config.frameConst 9) ++
      beBytes 16 (if peer then 0xFF02 * 2 ^ 112 + 0x6B else 0xFF0E * 2 ^ 112 + 0x181)
    let mm := m ++ [0, 0]
    let ul := mm.length + 8
    let u := port ++ dport ++ beBytes 2 ul
    let c := checksum (ad ++ beBytes 4 ul ++ [0, 0, 0, 17] ++ u ++ [0, 0] ++ mm)
    padTo (beBytes 6 (if peer then 0x33330000006B else 0x333300000181) ++ src ++ beBytes 2 0x86DD ++
      beBytes 4 (0x60000000 + Config.frameConst 7 % 2 ^ 28) ++ beBytes 2 ul ++ [17] ++ beBytes 1 (Config.frameConst 6) ++ ad ++ u ++
      beBytes 2 (if c = 0 then 65535 else c) ++ mm) 60
  else
    padTo (beBytes 6 (if peer then 0x0180C200000E else 0x011B19000000) ++ src ++ beBytes 2 0x88F7 ++ m) 60

/-- The priority of the frames a port's PTP sends, for pause purposes (R296). -/
def State.ptpPcp (s : State) (e : Nat) : Option Nat := some (s.rw (Reg.TIME_PTP_w0 e) 18 16)

/-- The priority on which what waits at a port waits. -/
def State.waitPrio (s : State) (e : Nat) (w : Wait) : Option Nat :=
  match w with | .frame p _ => p | .answer _ _ => s.ptpPcp e | .ctl _ _ | .resend _ => none

/-- The third class of R32 may start on a priority of port e now: the port is free for it, and nothing of its class waits before it. -/
def State.turn3 (s : State) (e : Nat) (prio : Option Nat) (n : Nat) : Bool :=
  s.free3 e prio n && !((s.ep e).wait.any (fun w => s.waitPrio e w == prio))

/-- A frame of the third class goes out on a port with link up: now, or in its turn. -/
def State.send3 (s : State) (e : Nat) (prio : Option Nat) (bytes : List Byte) : State :=
  if !s.linkUp e then s
  else if s.turn3 e prio bytes.length then s.putFrame e bytes true (wireLen bytes.length)
  else s.setEp e { s.ep e with wait := (s.ep e).wait ++ [.frame prio bytes] }

/-- A frame of a member's link layer starts: a control frame, with the header as it stands then, or a held frame again (R265, R268). The
round trip of a RESUME is measured from its start (R274). -/
def State.linkGo (s : State) (e : Nat) (w : Wait) : State :=
  let p := s.ep e
  match w with
  | .ctl ty units =>
    (s.setEp e { p with sentAt := s.time.raw
                        resumeAt := if ty = 10 then some (16 * max p.busyTo s.time.raw) else p.resumeAt }).putFrame e
      (linkCtl p ty 0 units none) true (wireLen 60)
  | .resend q =>
    match p.held.find? (fun h => h.lseq == q) with
    | none => s
    | some h =>
      let b := if h.isVoid then linkCtl p 8 h.lseq h.units h.bseq else linkHdr p 2 h.lseq h.bseq ++ h.bytes
      ((s.setEp e { p with sentAt := s.time.raw }).putFrame e b true (wireLen b.length)).count (Reg.PORT_CNT_REPLAY (e / 4))
  | _ => s

/-- The bytes of a frame of the link layer, up to its FCS. -/
def EPort.linkLen (p : EPort) (w : Wait) : Nat :=
  match w with
  | .resend q => (match p.held.find? (fun h => h.lseq == q) with | some h => if h.isVoid then 60 else h.bytes.length + 12 | none => 0)
  | _ => 60

/-- A frame of a member's link layer goes out in the turn of the third class (R32); one that waits already goes once. -/
def State.linkJob (s : State) (e : Nat) (w : Wait) : State :=
  if s.turn3 e none ((s.ep e).linkLen w) then s.linkGo e w
  else if (s.ep e).wait.contains w then s
  else s.setEp e { s.ep e with wait := (s.ep e).wait ++ [w] }

/-- Send a PTP message on a port. An event message starts as its time is taken; a general one goes in its turn. -/
def State.ptpSend (s : State) (e : Nat) (peer event : Bool) (m : List Byte) : State :=
  let b := s.ptpFrame e peer event m
  if event then s.putFrame e b true (wireLen b.length) else s.send3 e (s.ptpPcp e) b

/-- The TXTS record of a sent event message; only a master records them (Table 12-2). -/
def State.txts (s : State) (e ty seq : Nat) (t : Stamp) (m : List Byte) : State :=
  if s.ptpRole e = 1 then s.timeRecord { kind := 2, eport := e, seq := seq, mtype := ty, a := t, msg := m } else s

/-! ## Records of exchanges (R299) -/

/-- Flags of a record against the previous one of its kind: PATH_SUSPECT, OFFSET_SUSPECT, FIRST. -/
def State.recFlags (s : State) (last : Option (Int × Int)) (mpd off : Int) : Nat :=
  match last with
  | none => 4
  | some (m, o) =>
    b2n (decide ((s.rw Reg.TIME_THRESH 15 0 * 65536 : Nat) < (mpd - m).natAbs)) +
    2 * b2n (decide ((s.rw Reg.TIME_THRESH 31 16 * 65536 : Nat) < (off - o).natAbs))

/-- Write an exchange record; a suspect one is counted and posts TIME_SUSPECT with the port and the two values. -/
def State.exchange (s : State) (r : TimeRec) : State :=
  let s1 := s.timeRecord r
  if r.flags % 4 = 0 then s1
  else (s1.count Reg.TIME_CNT_SUSPECT).post 1 2 [(r.eport, 8), (unsigned 32 r.mpd, 32), (unsigned 32 r.offset, 32)]

/-- Write an EXCH_E2E, PDELAY or SYNC_P2P record and keep what the next one is compared with. -/
def State.exchangeOf (s : State) (e kind : Nat) (r : TimeRec) : State :=
  let p := s.ptp e
  let last := if kind = 3 then p.lastE else if kind = 4 then p.lastP else p.lastS
  let r1 := { r with kind := kind, eport := e, flags := s.recFlags last r.mpd r.offset }
  let v := some (r.mpd, r.offset)
  State.exchange (s.setPtp e { p with lastE := if kind = 3 then v else p.lastE
                                      lastP := if kind = 4 then v else p.lastP
                                      lastS := if kind = 5 then v else p.lastS }) r1

/-- Forget what the next records of every port would be compared with (R299: the first record after a step). -/
def State.ptpFresh (s : State) : State :=
  { s with time.ptp := Tbl.mapVals s.time.ptp (fun _ p => { p with lastE := none, lastP := none, lastS := none }) }

/-- A port comes up, or its ROLE, MECH or MASTER_ID changes: the next records are FIRST (R299). -/
def State.ptpFirst (s : State) (e : Nat) : State :=
  s.setPtp e { s.ptp e with lastE := none, lastP := none, lastS := none }

/-! ## Sending (R296, R298) -/

/-- The bytes of the longest PTP frame sent (R296): a 54-byte message behind 62 bytes of headers. -/
def ptpLongest : Nat := 116

/-- The port sends: enabled, link up, its priority not paused, and the third class of R32 in its turn. -/
def State.ptpMay (s : State) (e : Nat) : Bool := s.ptpEn e && s.turn3 e (s.ptpPcp e) ptpLongest && !s.ptpSilent e

/-- PTP_SYNC_SEND (R296): a master's Sync at its interval, with the Follow_Up of a two-step port. -/
def State.ptpSync (s : State) (e : Nat) : State :=
  let p := s.ptp e
  if !s.ptpMay e ∨ s.ptpRole e ≠ 1 ∨ s.logSync e = 0 ∨ s.time.raw < p.syncDue then s
  else
    let r := s.egressStamp e
    let t := r.1
    let one := s.ptpOne e
    let m := s.ptpMsg e 0 p.syncId (if one then t.subNs else 0) (!one) (if one then t.ptp10 else List.replicate 10 0)
    let s1 := r.2.setPtp e { p with syncId := (p.syncId + 1) % 65536, syncDue := s.time.raw + ptpCounts (s.logSync e) }
    let s2 := (s1.ptpSend e false true m).txts e 0 p.syncId t m
    if one then s2 else s2.ptpSend e false false (s.ptpMsg e 8 p.syncId t.subNs false t.ptp10)

/-- PTP_SYNC_SEND (R296). -/
def execPtpSyncSend (eport : Nat) (s : State) : Host.Outcome State Fault Refusal := .next (s.ptpSync eport)

/-- The request a port sends: Pdelay_Req with P2P in every role but DISABLED, Delay_Req as an E2E slave (Table 12-2). -/
def State.ptpReqType (s : State) (e : Nat) : Option Nat :=
  if s.logReq e = 0 ∨ s.ptpRole e = 0 ∨ !s.ptpEn e then none
  else if s.ptpP2P e then some 2 else if s.ptpRole e = 2 then some 1 else none

/-- The first request of a port falls due as its configuration lets it send requests (R298, log 121). -/
def State.ptpArm (s old : State) (e : Nat) : State :=
  if (s.ptpReqType e).isSome ∧ (old.ptpReqType e).isNone then s.setPtp e { s.ptp e with reqDue := s.time.raw } else s

/-- PTP_REQ_SEND (R296): the request falls due and goes out. -/
def State.ptpReq (s : State) (e : Nat) : State :=
  let p := s.ptp e
  match s.ptpReqType e with
  | none => s
  | some ty =>
    if !s.ptpMay e ∨ p.req.isSome ∨ s.time.raw < p.reqDue then s
    else
      let seq := if ty = 1 then p.delayId else p.pdelayId
      let r := s.egressStamp e
      let m := s.ptpMsg e ty seq 0 false (List.replicate (if ty = 1 then 10 else 20) 0)
      let s1 := r.2.setPtp e { p with
        delayId := if ty = 1 then (seq + 1) % 65536 else p.delayId
        pdelayId := if ty = 2 then (seq + 1) % 65536 else p.pdelayId
        req := some (ty, seq, r.1), resp := none, reqDue := s.time.raw + ptpCounts (s.reqInUse e) }
      (s1.ptpSend e (ty == 2) true m).txts e ty seq r.1 m

/-- PTP_REQ_SEND (R296). -/
def execPtpReqSend (eport : Nat) (s : State) : Host.Outcome State Fault Refusal := .next (s.ptpReq eport)

/-- PTP_MISS (R298): the next request falls due with the last unanswered, or a request could not start before the next fell
due. -/
def State.ptpMiss (s : State) (e : Nat) : State :=
  let p := s.ptp e
  match s.ptpReqType e with
  | none => s
  | some ty =>
    let every := ptpCounts (s.reqInUse e)
    let blocked := p.req.isNone
    if s.time.raw < p.reqDue + (if blocked then every else 0) then s
    else
      let (mt, seq) := match p.req with
        | some (t, n, _) => (t, n)
        | none => (ty, if ty = 1 then p.delayId else p.pdelayId)
      let s1 := s.setPtp e { p with req := none, resp := none, missRun := min 255 (p.missRun + 1)
                                    reqDue := if blocked then p.reqDue + every else p.reqDue }
      (s1.count Reg.TIME_CNT_MISS).timeRecord { kind := 6, eport := e, seq := seq, mtype := mt }

/-- PTP_MISS (R298). -/
def execPtpMiss (eport : Nat) (s : State) : Host.Outcome State Fault Refusal := .next (s.ptpMiss eport)

/-! ## Receiving (R296) -/

/-- A PTP message in a received frame: its carriage (Table 12-13 CARR) and its bytes. -/
def ptpIn (b : List Byte) : Option (Nat × List Byte) :=
  let x := parseEth b
  let take := fun o => slice b o (beAt b (o + 2) 2)
  if x.etype = 0x88F7 then some (0, take x.l3)
  else if x.udp ∧ (beAt b (x.l4 + 2) 2 = 319 ∨ beAt b (x.l4 + 2) 2 = 320) then some (x.ip, take (x.l4 + 8))
  else none

/-- sequenceId of a message. -/
def ptpSeq (m : List Byte) : Nat := beAt m 30 2
/-- correctionField of a message. -/
def ptpCorr (m : List Byte) : Int := signed 64 (beAt m 8 8)
/-- twoStepFlag of a message. -/
def ptpTwo (m : List Byte) : Bool := (byteAt m 6).testBit 1

/-- The message comes from the chosen master (R296). -/
def State.ofMaster (s : State) (e : Nat) (m : List Byte) : Bool :=
  beAt m 20 8 == (s.rwW (Reg.TIME_PTP_w4 e)).toNat * 2 ^ 32 + (s.rwW (Reg.TIME_PTP_w3 e)).toNat &&
  beAt m 28 2 == s.rw (Reg.TIME_PTP_w5 e) 31 16

/-- Answer a Delay_Req or Pdelay_Req (Table 12-2), received at `t`. -/
def State.ptpAnswer (s : State) (e : Nat) (t : Stamp) (m : List Byte) : State :=
  let who := slice m 20 10
  let seq := ptpSeq m
  if byteAt m 0 % 16 = 1 then
    s.ptpSend e false false (s.ptpMsg e 9 seq (ptpCorr m - t.subNs) false (t.ptp10 ++ who))
  else
    let r := s.egressStamp e
    let t3 := r.1
    if s.ptpOne e then
      let x := s.ptpMsg e 3 seq (ptpCorr m + (t3.units - t.units)) false (List.replicate 10 0 ++ who)
      (r.2.ptpSend e true true x).txts e 3 seq t3 x
    else
      let x := s.ptpMsg e 3 seq (- t.subNs) true (t.ptp10 ++ who)
      ((r.2.ptpSend e true true x).txts e 3 seq t3 x).ptpSend e true false
        (s.ptpMsg e 10 seq (ptpCorr m + t3.subNs) false (t3.ptp10 ++ who))

/-- Answer now, or in the turn of the third class (R32, R296). -/
def State.ptpReply (s : State) (e : Nat) (t : Stamp) (m : List Byte) : State :=
  if s.ptpSilent e ∨ !s.linkUp e then s
  else if s.turn3 e (s.ptpPcp e) ptpLongest then s.ptpAnswer e t m
  else s.setEp e { s.ep e with wait := (s.ep e).wait ++ [.answer t m] }

/-- A quarantined port may send the frame (R280): LLDP, PTP, and on the host side PFC. -/
def quarantineSends (nbr : Bool) (b : List Byte) : Bool :=
  let x := parseEth b
  x.etype == 0x88CC || (ptpIn b).isSome || (!nbr && x.etype == 0x8808 && beAt b x.l3 2 == 0x0101)

/-- What waits at a port goes out as far as it may now (R32), a PFC frame first; what the port may not send any longer (R280,
R368) is lost. -/
def State.flushWait (s : State) (e : Nat) : State :=
  let s := s.flushPfc e
  if (s.ep e).wait = [] then s
  else
    (s.ep e).wait.foldl (fun (s : State) (w : Wait) =>
      match w with
      | .frame p b =>
        if ((s.ep e).state = 4 ∧ !quarantineSends (epNbr s.regs.cfg e) b) ∨ (s.ptpSilent e ∧ (parseEth b).etype ≠ 0x88CC) then s
        else s.send3 e p b
      | .answer t m => s.ptpReply e t m
      | w => if s.epServes e then s.linkJob e w else s) (s.setEp e { s.ep e with wait := [] })

/-- Every port's third class goes on (R32), as at a tick boundary. -/
def State.flushWaits (s : State) : State := (s.eports.map (·.1)).foldl State.flushWait s

/-- The port loses its link: what came and waits for its follow-up, and the frames that wait, go. A request that is out stays so,
and misses as the next falls due (R298). -/
def State.ptpDown (s : State) (e : Nat) : State :=
  State.setEp (s.setPtp e { s.ptp e with resp := none, sync := none }) e { s.ep e with wait := [] }

/-- The port's request is answered: the configured interval is back (R298). -/
def PtpPort.answered (p : PtpPort) : PtpPort := { p with req := none, resp := none, missRun := 0 }

/-- A complete Sync at a slave: kept for the delay exchange, or a SYNC_P2P record. -/
def State.syncDone (s : State) (e seq : Nat) (t1 t2 : Stamp) (corr : Int) : State :=
  let s1 := s.setPtp e { s.ptp e with sync := none, pair := some (t1, t2, corr) }
  if s.ptpP2P e then
    let r := match (s.ptp e).link with
      | some d => (d, s1)
      | none => let x := s1.drawNat (2 ^ 62); ((x.1 : Int), x.2)
    r.2.exchangeOf e 5 { kind := 5, eport := e, seq := seq, a := t1, b := t2, corrS := corr, mpd := r.1
                         offset := t2.units - t1.units - r.1 - corr }
  else s1

/-- The end of a delay exchange at an E2E slave. -/
def State.delayDone (s : State) (e seq : Nat) (t3 t4 : Stamp) (corr : Int) : State :=
  let p := s.ptp e
  let s1 := s.setPtp e p.answered
  match p.pair with
  | none => s1
  | some (t1, t2, cs) =>
    let mpd := ((t2.units - t3.units) + (t4.units - t1.units) - cs - corr) / 2
    s1.exchangeOf e 3 { kind := 3, eport := e, seq := seq, a := t1, b := t2, c := t3, d := t4, corrS := cs, corrR := corr
                        mpd := mpd, offset := t2.units - t1.units - mpd - cs }

/-- The end of a peer delay exchange. -/
def State.pdelayDone (s : State) (e seq : Nat) (t1 t2 t3 t4 : Stamp) (corr turn : Int) : State :=
  let mpd := ((t4.units - t1.units) - turn - corr) / 2
  State.exchangeOf (s.setPtp e { (s.ptp e).answered with link := some mpd }) e 4
    { kind := 4, eport := e, seq := seq, a := t1, b := t2, c := t3, d := t4, corrS := corr, mpd := mpd }

/-- Act on a message by ROLE and MECH (Table 12-2). -/
def State.ptpAct (s : State) (e : Nat) (t : Stamp) (m : List Byte) (gen : Nat) : State :=
  let p := s.ptp e
  let ty := byteAt m 0 % 16
  let seq := ptpSeq m
  let slave := s.ptpRole e = 2 ∧ s.ofMaster e m
  let mine := slice m 44 10 = s.portIdent e
  if ty = 0 then
    if ¬ slave then s
    else if ptpTwo m then s.setPtp e { p with sync := some (seq, t, ptpCorr m) }
    else s.syncDone e seq (stampAt10 m 34 gen) t (ptpCorr m)
  else if ty = 8 then
    match p.sync with
    | some (n, t2, c) => if slave ∧ n = seq then s.syncDone e seq (stampAt10 m 34 gen) t2 (c + ptpCorr m) else s
    | none => s
  else if ty = 1 then if s.ptpRole e = 1 ∧ !s.ptpP2P e then s.ptpReply e t m else s
  else if ty = 2 then if s.ptpRole e ≠ 0 ∧ s.ptpP2P e then s.ptpReply e t m else s
  else
    match p.req with
    | none => s
    | some (rt, n, t1) =>
      if n ≠ seq ∨ ¬ mine then s
      else if ty = 9 then
        if rt = 1 ∧ slave then s.delayDone e seq t1 (stampAt10 m 34 gen) (ptpCorr m) else s
      else if ty = 3 then
        if rt ≠ 2 then s
        else if ptpTwo m then s.setPtp e { p with resp := some (stampAt10 m 34 gen, t, ptpCorr m) }
        else s.pdelayDone e seq t1 (stampAt10 m 34 gen) {} t (ptpCorr m) 0
      else if ty = 10 then
        match p.resp with
        | some (t2, t4, c) =>
          let t3 := stampAt10 m 34 gen
          if rt = 2 then s.pdelayDone e seq t1 t2 t3 t4 (c + ptpCorr m) (t3.units - t2.units) else s
        | none => s
      else s

/-- PTP_EVENT_RECEIVE (R296): an enabled port records the message; it acts on those of its own carriage and domain. -/
def State.ptpReceive (s : State) (e sub : Nat) (b : List Byte) : State :=
  match ptpIn b with
  | none => s
  | some (car, m) =>
    if !s.ptpEn e ∨ !s.linkUp e then s
    else
      let t := s.stampAt s.time.raw sub (signed 16 (s.rw (Reg.TIME_PTP_w1 e) 15 0))
      let r := s.drawNat 65535
      let s1 := r.2.timeRecord { kind := 1, eport := e, seq := ptpSeq m, mtype := byteAt m 0 % 16, a := t, msg := m }
      if car = s.ptpCarr e ∧ byteAt m 4 = s.rw (Reg.TIME_PTP_w0 e) 15 8 ∧ byteAt m 1 % 16 = 2 ∧ s.ptpRole e ≠ 0 then
        s1.ptpAct e t m r.1
      else s1

/-- PTP_EVENT_RECEIVE (R296). -/
def execPtpEventReceive (eport sub : Nat) (bytes : List Byte) (s : State) : Host.Outcome State Fault Refusal :=
  .next (s.ptpReceive eport sub bytes)

end Sys2Proof.Machine
end

