-- ==== Sys2Proof/Machine/BoomNet.lean ====
section
/-! DEFINITION. The boom's frames: outcome blocks (R227), peer frames on neighbour ports and on the host path (R222, R226,
R231), refusals (R225), and how a received reduction frame is read. -/
namespace Sys2Proof.Machine

/-! ## Directions (R277, R282) -/

/-- The logical port that a valid plan entry names, 0x3F for none. -/
def planPort (c : Tbl Word) (r : Nat) : Option Nat :=
  let w := cfgOf c (Reg.PORT_PLAN_w0 r)
  if bitAt w 31 then some (fld w 5 0) else none

/-- The state of direction r (R282): 0 NONE, 1 IN_SERVICE, 2 DEGRADED. -/
def State.dirState (s : State) (r : Nat) : Nat :=
  match planPort s.regs.cfg r with
  | none => 0
  | some l => if l != 0x3F && (lpMembers s.regs.cfg l).any (fun e => epNbr s.regs.cfg e && s.epServes e) then 1 else 2

/-! ## Blocks -/

/-- A reduction block (Table 9-5). -/
def boomBlock (kind phase op epoch seg rank vlen ddig nseg cause pseq : Nat) : List Byte :=
  beBytes 1 kind ++ beBytes 1 phase ++ beBytes 2 op ++ beBytes 2 epoch ++ beBytes 2 seg ++ beBytes 4 rank ++ beBytes 4 vlen ++
  beBytes 4 ddig ++ beBytes 1 nseg ++ beBytes 1 cause ++ beBytes 2 0 ++ beBytes 4 pseq ++ beBytes 4 0

/-- FLAGS of an outcome block, bit 0 DUP apart. -/
def BoomOut.flags (o : BoomOut) : Nat := 2 * b2n o.degraded + 4 * b2n o.sat + 8 * b2n o.nan

/-- FLAGS of an open epoch: what its inputs, results and hops have met so far. -/
def BoomEpoch.flags (e : BoomEpoch) : Nat := 2 * b2n e.degraded + 4 * b2n e.sat + 8 * b2n e.nan

/-- An outcome block (Table 9-6). -/
def outcomeBlock (state cause op epoch seg nseg flags : Nat) (missing : List Nat) (more : Nat := 0) : List Byte :=
  beBytes 1 state ++ beBytes 1 cause ++ beBytes 2 op ++ beBytes 2 epoch ++ beBytes 2 seg ++ beBytes 1 nseg ++ beBytes 1 flags ++
  beBytes 2 0 ++ beBytes 4 (missing.length + more) ++ List.replicate 16 0 ++ (missing.take 64).flatMap (beBytes 4)

/-- The outcome block of a decided outcome. -/
def BoomOut.block (o : BoomOut) (op epoch : Nat) : List Byte :=
  outcomeBlock (if o.ok then 1 else 2) o.cause op epoch 0 0 o.flags (if o.ok then [] else o.missing) (if o.ok then 0 else o.more)

/-- The status of a cause (Table 9-8). -/
def causeStatus (c : Nat) : Nat :=
  if c = 1 ∨ c = 6 then stMalformed else if c = 2 then stIncomplete else if c = 3 then stFaultFinal else stFaultRetry

/-- A peer frame's request from its header on (R226): header, block and payload. Header fields that no rule gives are open
(log 19). -/
def boomRequest (blk body : List Byte) : List Byte :=
  beBytes 2 0x434B ++ beBytes 1 1 ++ beBytes 1 (Config.frameConst 0) ++ beBytes 2 0 ++ beBytes 2 0 ++ beBytes 4 0 ++ beBytes 4 0 ++
  beBytes 2 (Config.frameConst 1) ++ beBytes 2 0 ++ beBytes 1 0 ++ beBytes 1 (Config.frameConst 2) ++ beBytes 2 32 ++
  beBytes 2 32 ++ beBytes 3 (64 + body.length) ++ beBytes 1 0 ++ beBytes 2 0 ++ blk ++ body

/-- PHASE. -/
def phaseOf (a : Nat) (dn dist : Bool) : Nat := a * 64 + b2n dn * 32 + b2n dist * 16

/-! ## The host path (R231) -/

/-- The host path's frame to member m up to its FCS: UDP over IPv4 or IPv6 to BOOM_NET + m on CONV_CTL.UDP_PORT. -/
def State.hostFrame (s : State) (own m : Nat) (req : List Byte) : List Byte :=
  let l := s.cfg Reg.BOOM_HOST 5 0
  let port := beBytes 2 (s.cfg Reg.CONV_CTL 15 0)
  let mac := beBytes 6 (s.cfg Reg.BOOM_GWMAC_HI 15 0 * 2 ^ 32 + (s.cfgW Reg.BOOM_GWMAC_LO).toNat) ++ beBytes 6 (lpMac s.regs.cfg l)
  let ulen := req.length + 8
  let udp := port ++ port ++ beBytes 2 ulen
  if s.cfg Reg.BOOM_HOST 31 31 = 0 then
    let base := (s.cfgW (Reg.BOOM_NET 0)).toNat
    let ad := beBytes 4 (base + own) ++ beBytes 4 (base + m)
    let h0 := beBytes 1 0x45 ++ beBytes 1 (Config.frameConst 3) ++ beBytes 2 (20 + ulen) ++ beBytes 2 (Config.frameConst 4) ++
      beBytes 2 (Config.frameConst 5 % 2 * 0x4000) ++ beBytes 1 (Config.frameConst 6) ++ [17]
    let h := h0 ++ beBytes 2 (checksum (h0 ++ [0, 0] ++ ad)) ++ ad
    let c := checksum (ad ++ [0, 17] ++ beBytes 2 ulen ++ udp ++ [0, 0] ++ req)
    mac ++ beBytes 2 0x0800 ++ h ++ udp ++ beBytes 2 (if c = 0 then 65535 else c) ++ req
  else
    let base := ipWords s.regs.cfg Reg.BOOM_NET
    let ad := beBytes 16 (base + own) ++ beBytes 16 (base + m)
    let h := beBytes 4 (0x60000000 + Config.frameConst 7 % 2 ^ 28) ++ beBytes 2 ulen ++ [17] ++ beBytes 1 (Config.frameConst 6) ++ ad
    let c := checksum (ad ++ beBytes 4 ulen ++ [0, 0, 0, 17] ++ udp ++ [0, 0] ++ req)
    mac ++ beBytes 2 0x86DD ++ h ++ udp ++ beBytes 2 (if c = 0 then 65535 else c) ++ req

/-- Send a host-path frame on BOOM_HOST.PORT in the third class of R32; with the port out of service it is lost. -/
def State.hostOut (s : State) (frame : List Byte) : State :=
  match (lpMembers s.regs.cfg (s.cfg Reg.BOOM_HOST 5 0)).head? with
  | none => s
  | some e =>
    if !s.epServes e ∨ s.twinSilent then s
    else s.send3 e (some (s.cfg Reg.BOOM_HOST 14 12)) frame

/-- Host-path frames of an operation's DEGRADED hop that are out and not acknowledged. -/
def State.hopOut (s : State) (op : Nat) (hop : Option Nat) : Nat :=
  sumBy (fun (t : Nat × Tbl BoomHost) => (t.2.filter (fun f => f.2.op == op && f.2.hop == hop && f.2.out)).length) s.boom.host

/-- A host-path frame that is not acknowledged. -/
def State.hostRec (s : State) (m p : Nat) : Option BoomHost := (Tbl.find s.boom.host m).bind (fun t => Tbl.find t p)
/-- Change a host-path frame's record. -/
def State.setHost (s : State) (m p : Nat) (x : BoomHost) : State :=
  { s with boom.host := Tbl.put s.boom.host m (Tbl.put (Tbl.getD s.boom.host m []) p x) }
/-- Forget a host-path frame. -/
def State.dropHost (s : State) (m p : Nat) : State :=
  let t := Tbl.del (Tbl.getD s.boom.host m []) p
  { s with boom.host := if t = [] then Tbl.del s.boom.host m else Tbl.put s.boom.host m t }

/-- The epoch an operation's record holds. -/
def State.boomEpoch (s : State) (op : Nat) : Option BoomEpoch := (Tbl.find s.boom.ops op).map (·.cur)

/-- This device's member index in an operation. -/
def State.boomMe (s : State) (op : Nat) : Nat := match s.boomEpoch op with | some e => e.me | none => 0

/-- Send the request of a host-path frame now. -/
def State.hostSendNow (s : State) (m p : Nat) (x : BoomHost) : State :=
  (s.setHost m p { x with out := true, sentAt := s.time.raw }).hostOut (s.hostFrame (s.boomMe x.op) m x.bytes)

/-- Put a numbered frame on the host path to member m (R231): at most 64 of a hop are out at a time. PSEQ counts from 1
(log 21). -/
def State.hostSend (s : State) (m op epoch : Nat) (hop : Option Nat) (mk : Nat → List Byte) : Nat × State :=
  let p := max 1 (Tbl.getD s.boom.next m 1 % 2 ^ 32)
  let x : BoomHost := { op := op, epoch := epoch, hop := hop, bytes := mk p, out := false }
  let s1 := { s with boom.next := Tbl.put s.boom.next m (p + 1) }
  if hop.isSome ∧ 64 ≤ s.hopOut op hop then (p, s1.setHost m p x) else (p, s1.hostSendNow m p x)

/-- The next frame of a hop that waits for room goes out. -/
def State.hopNext (s : State) (op : Nat) (hop : Option Nat) : State :=
  if hop.isNone ∨ 64 ≤ s.hopOut op hop then s
  else
    match s.boom.host.findSome? (fun t => (t.2.find? (fun f => f.2.op == op && f.2.hop == hop && !f.2.out)).map (fun f => (t.1, f))) with
    | some (m, p, x) => s.hostSendNow m p x
    | none => s

/-! ## Sending -/

/-- A frame to a neighbour on a logical port: the link header takes the place of the addresses (R264). -/
def State.nbrSend (s : State) (l : Nat) (req : List Byte) : State :=
  s.portSend l (padTo (List.replicate 12 0 ++ beBytes 2 0x88B5 ++ req) 60)

/-- Send one peer frame along an axis: on the port its direction labels, or over the host path where that is DEGRADED
(R222). A direction that the plan does not name carries nothing. -/
def State.sendHop (s : State) (op : Nat) (f : BoomSent) (a : Nat) (dn : Bool) : State :=
  match s.boomEpoch op with
  | none => s
  | some e =>
    let r := 2 * a + b2n dn
    let mk := fun pseq => boomRequest (boomBlock f.kind f.phase op e.epoch f.seg e.me e.elems e.ddig f.nseg 0 pseq) f.body
    let st := s.dirState r
    if st = 1 then
      match planPort s.regs.cfg r with
      | some l =>
        let s1 := { s with boom.ops := Tbl.modify s.boom.ops op (fun o => { o with cur := { e with sent := e.sent ++ [f] } }) }
        s1.nbrSend l (mk 0)
      | none => s
    else if st = 2 then
      match e.neighbour a dn with
      | some m =>
        let s1 := { s with boom.ops := Tbl.modify s.boom.ops op (fun o => { o with cur := { e with degraded := true } }) }
        (s1.hostSend m op e.epoch (some r) mk).2
      | none => s
    else s

/-- The frame of a run of segments (R226): PART for partial sums, GATH for segments that are forwarded or distributed. An
unreduced segment has its rank in front. -/
def BoomEpoch.frameOf (e : BoomEpoch) (run : List BoomSend) : Option (BoomSent × Nat × Bool) :=
  match run with
  | [] => none
  | x :: _ =>
    let part := e.adds && !x.dist
    let w := if part then e.carryBytes else if x.dist then e.outBytes else e.inBytes
    let body := run.flatMap (fun y =>
      (match y.rank with | some r => beBytes 4 r | none => []) ++
      y.data.flatMap (fun v => beBytes w (if part then e.toWire v else v)))
    some (⟨if part then 0x11 else 0x12, phaseOf x.axis x.dn x.dist, x.seg, run.length, body⟩, x.axis, x.dn)

/-- Segments that fit one frame: 16, and 8,192 payload bytes. -/
def frameSegs (w : Nat) (ranked : Bool) : Nat := max 1 (min 16 (8192 / (512 * w + (if ranked then 4 else 0))))

/-- Send what the work on an epoch produced. -/
def State.sendAll (s : State) (op : Nat) (l : List BoomSend) : State :=
  match s.boomEpoch op with
  | none => s
  | some e =>
    let part := l.filter (fun x => e.adds && !x.dist)
    let rest := l.filter (fun x => !(e.adds && !x.dist))
    let runs := joinSends (frameSegs e.carryBytes e.unreduced) part ++
      joinSends (frameSegs (max e.outBytes e.inBytes) false) rest
    runs.foldl (fun s r => match e.frameOf r with
      | some (f, a, dn) => s.sendHop op f a dn
      | none => s) s

/-- HAVE, DECIDE and ABORT go over the host path. -/
def State.hostMsg (s : State) (op m kind cause : Nat) (body : List Byte) : Nat × State :=
  match s.boomEpoch op with
  | none => (0, s)
  | some e =>
    s.hostSend m op e.epoch none (fun p =>
      boomRequest (boomBlock kind 0xC0 op e.epoch 0 e.me e.elems e.ddig 0 cause p) body)

/-! ## Reading a frame -/

/-- A reduction frame as received: its block's fields, its payload, whether it came over the host path. -/
structure BoomIn where
  kind : Nat
  axis : Nat
  dn : Bool
  dist : Bool
  phase : Nat
  op : Nat
  epoch : Nat
  seg : Nat
  rank : Nat
  vlen : Nat
  ddig : Nat
  nseg : Nat
  cause : Nat
  pseq : Nat
  body : List Byte
  host : Bool
  deriving DecidableEq, Repr

/-- The payload of a complete message: its frames' payload bytes in the order of FRAME, MLEN of them (R236, R251). -/
def State.msgBytes (s : State) (m : Msg) : List Byte :=
  let ps := m.parts.foldl (fun (t : Tbl (Nat × Nat)) p => Tbl.put t p.2.1 (p.1, p.2.2)) []
  (ps.flatMap (fun x => match Tbl.find s.frames x.2.1 with
    | some f => (f.bytes.drop (h15Of f.bytes + (if x.1 = 0 then 0 else 32))).take x.2.2
    | none => [])).take (m.org.desc.mlen.getD 0)

/-- Read the block at DOFF of frame 0, and what lies behind it in the message's payload. -/
def readBoom (org : Origin) (b all : List Byte) : BoomIn :=
  let o := org.desc.doff.getD 0
  let ph := byteAt b (o + 1)
  { kind := byteAt b o, axis := ph / 64, dn := ph.testBit 5, dist := ph.testBit 4, phase := ph
    op := beAt b (o + 2) 2 % 8192, epoch := beAt b (o + 4) 2, seg := beAt b (o + 6) 2, rank := beAt b (o + 8) 4 % 2 ^ 18
    vlen := beAt b (o + 12) 4, ddig := beAt b (o + 16) 4, nseg := byteAt b (o + 20), cause := byteAt b (o + 21)
    pseq := beAt b (o + 24) 4, body := all.drop (o + 32 - h15Of b), host := !epNbr org.cfg org.eport }

/-- The peer that sent a frame. -/
def BoomIn.peer (f : BoomIn) : Nat := f.rank % 4096

/-- A reduction frame in a slot, complete and with every request verdict good (R226, R38). -/
def State.boomIn (s : State) (n : Nat) : Option (Msg × BoomIn) :=
  match Tbl.find s.msgs n with
  | none => none
  | some m =>
    if m.stage = .boom ∧ m.reply.isNone ∧ s.complete m ∧ s.framesVerdict m.frames = .good then
      match m.frames.head?.bind (Tbl.find s.frames) with
      | some f => some (m, readBoom m.org f.bytes (s.msgBytes m))
      | none => none
    else none

/-- A frame used, and answered by nothing: its slot is free, once the effects of a message with CONV have applied (R238, R245). -/
def State.boomEnd (s : State) (n : Nat) : State :=
  match (Tbl.find s.msgs n).bind (·.step) with
  | some _ => s.decideTo n none [] false false false 0 []
  | none => (s.failMsg n 0).gc

/-- A control block back to the peer that sent a frame: over the host path, or on the port it came by. -/
def State.ctlBack (s : State) (m : Msg) (f : BoomIn) (kind : Nat) : State :=
  let own := relMe m.org.cfg
  let req := boomRequest (boomBlock kind f.phase f.op f.epoch f.seg own f.vlen f.ddig f.nseg 0 f.pseq) []
  if f.host then s.hostOut (s.hostFrame own f.peer req) else s.nbrSend m.org.lport req
where
  /-- This member's index under a configuration. -/
  relMe (c : Tbl Word) : Nat :=
    let sl := (cfgOf c Reg.BOOM_SLICE).toNat
    let at' := relCoord sl (cfgOf c Reg.BOOM_SELF).toNat (cfgOf c Reg.PORT_TORUS).toNat
    at' 0 + (bitsOf sl 15 12 + 1) * (at' 1 + (bitsOf sl 19 16 + 1) * at' 2)

end Sys2Proof.Machine
end

