-- ==== Sys2Proof/Machine/Boom.lean ====
section
/-! DEFINITION. Reduction epochs (R223 to R233): acceptance, contributions, peer frames, decision, timers, and the commands
of the boom. -/
namespace Sys2Proof.Machine

/-! ## Records -/

/-- Change an operation's current epoch. -/
def State.setEpoch (s : State) (op : Nat) (e : BoomEpoch) : State :=
  { s with boom.ops := Tbl.modify s.boom.ops op (fun o => { o with cur := e }) }

/-- Reduction buffer in use (R224), of operations other than `op`. -/
def State.boomUsed (s : State) (op : Option Nat) : Nat :=
  sumBy (fun (x : Nat × BoomOp) => if x.2.cur.held && some x.1 != op then x.2.cur.space else 0) s.boom.ops

/-- The epoch that a frame of operation `op` would open (R223): its mode is the one in force at the opening (R310). -/
def State.boomNew (s : State) (org : Origin) (op ep : Nat) : BoomEpoch :=
  let w := fun r => (cfgOf org.cfg (r op)).toNat
  let words := [w Reg.BOOM_OP_w0, w Reg.BOOM_OP_w1, w Reg.BOOM_OP_w2, w Reg.BOOM_OP_w3]
  let lim := bitsOf (words.getD 3 0) 19 0
  { epoch := ep, words := words, slice := (cfgOf org.cfg Reg.BOOM_SLICE).toNat
    self := (cfgOf org.cfg Reg.BOOM_SELF).toNat, torus := (cfgOf org.cfg Reg.PORT_TORUS).toNat, exact := s.exact
    memberAt := s.time.raw + lim * 1000
    coordAt := s.time.raw + (lim + s.cfg Reg.BOOM_TMR 23 16 * 10) * 1000
    lost := s.boom.lost }

/-- What Table 9-7 makes of a frame. -/
inductive BoomRow where
  | use | late | opens | openBusy | oow | stale
  deriving DecidableEq, Repr

/-- Table 9-7 for a frame of epoch ep, QUERY apart. -/
def State.boomRow (s : State) (op ep : Nat) : BoomRow :=
  match s.boomEpoch op with
  | none => .opens
  | some e =>
    let d := (ep + 65536 - e.epoch) % 65536
    if d = 0 then (if e.decided then .late else .use)
    else if d = 1 then (if e.decided then .opens else .openBusy)
    else if d < 32768 then .oow else .stale

/-- Open an epoch (R228): the results of the one before are released, its outcome is kept; none where the buffer has no
room (R224). -/
def State.boomOpen (s : State) (org : Origin) (op ep : Nat) : Option State :=
  let e := s.boomNew org op ep
  if 67108864 < s.boomUsed (some op) + e.space then none
  else
    let prev := match s.boomEpoch op with
      | some x => x.outcome.map (fun o => (x.epoch, o))
      | none => none
    some { s with boom.ops := Tbl.put s.boom.ops op { cur := e, prev := prev } }

/-! ## Replies (R227) -/

/-- Answer a contributor's frame with a result block. -/
def State.boomReply (s : State) (n status : Nat) (res : List Byte) (nan sat : Bool) : State :=
  let k := freshKey s.replies
  let s1 := s.decideResult n res nan sat false 0 []
  { s1 with replies := Tbl.modify s1.replies k (fun r => { r with status := status }) }

/-- Send an outcome block with segments to where a contributor's frame asks, which had `fcs` in its FCS field. -/
def State.boomSend (s : State) (org : Origin) (fcs status : Nat) (res : List Byte) (nan sat : Bool) : State :=
  match resolveDest org.cfg org.win org.lport org.desc.sel with
  | .ok d =>
    if hasTmpl org d then s.addReply { s.newReply org none [] 0 status 0 0 d with res := res, nan := nan, sat := sat, fcs0 := some fcs } else s
  | _ => s

/-- Consecutive pieces of at most n of a list, within `fuel` pieces. -/
def chunks {α : Type} (n : Nat) : Nat → List α → List (List α)
  | 0, _ => []
  | fuel + 1, l => if l.isEmpty then [] else l.take n :: chunks n fuel (l.drop n)

/-- The result frames of a list of consecutive segments: an outcome block with STATE RESULT and the segments held. -/
def BoomEpoch.resultFrames (e : BoomEpoch) (op : Nat) (o : BoomOut) (gs : List Nat) : List (List Byte) :=
  (chunks (frameSegs e.outBytes false) (gs.length + 1) gs).map (fun c =>
    outcomeBlock 1 0 op e.epoch (c.headD 0) c.length o.flags [] ++
    c.flatMap (fun g => ((e.seg g).final.getD []).flatMap (beBytes e.outBytes)))

/-- Give every local contributor the outcome (R227, R230). -/
def State.boomDeliver (s : State) (op : Nat) (e : BoomEpoch) (o : BoomOut) : State :=
  e.origins.foldl (fun (s : State) (x : Nat × Origin × Nat) =>
    if o.ok then (e.resultFrames op o (e.gets x.1)).foldl (fun s b => s.boomSend x.2.1 x.2.2 stOk b o.nan o.sat) s
    else s.boomSend x.2.1 x.2.2 (causeStatus o.cause) (o.block op e.epoch) o.nan o.sat) s

/-! ## Decision (R230) -/

/-- The members not lost, lowest first. -/
def BoomEpoch.alive (e : BoomEpoch) : List Nat := (List.range e.members).filter (fun m => !e.lost.contains m)
/-- The coordinator. -/
def BoomEpoch.coordinator (e : BoomEpoch) : Nat := e.alive.headD 0
/-- Put a rank into an ascending list. -/
def addRank : List Nat → Nat → List Nat
  | [], r => [r]
  | x :: t, r => if r < x then r :: x :: t else if r = x then x :: t else x :: addRank t r

/-- An epoch is decided at this member: counted, its contributors answered, its results retained. -/
def State.boomApply (s : State) (op : Nat) (o : BoomOut) : State :=
  match s.boomEpoch op with
  | none => s
  | some e =>
    if e.decided then s
    else
      let o1 := { o with degraded := o.degraded || e.degraded, sat := o.sat || e.sat, nan := o.nan || e.nan }
      let e1 := { e with decided := true, outcome := some o1, waitAck := none,
                         retainTo := s.time.raw + s.cfg Reg.BOOM_CTL 15 0 * 1000 }
      ((s.setEpoch op e1).count (if o.ok then Reg.BOOM_CNT_DONE else Reg.BOOM_CNT_FAIL)).boomDeliver op e1 o1

/-- Send DECIDE to a member. -/
def State.sendDecide (s : State) (op m : Nat) (o : BoomOut) : Nat × State :=
  match s.boomEpoch op with
  | none => (0, s)
  | some e => s.hostMsg op m 0x15 o.cause (o.block op e.epoch)

/-- Step 4 of R230, first half: DECIDE goes to the lowest other member that is not lost, whose ACK is awaited; with no such
member the decision stands at once. -/
def State.decideFirst (s : State) (op : Nat) (o : BoomOut) : State :=
  match s.boomEpoch op with
  | none => s
  | some e =>
    let s1 := s.setEpoch op { e with outcome := some o }
    match e.alive.find? (· != e.me) with
    | none => s1.boomApply op o
    | some m =>
      let r := s1.sendDecide op m o
      match r.2.boomEpoch op with
      | some e2 => r.2.setEpoch op { e2 with waitAck := some (m, r.1) }
      | none => r.2

/-- Step 4, second half: DECIDE goes to every other member, and the coordinator's own contributors get theirs. -/
def State.decideRest (s : State) (op first : Nat) : State :=
  match s.boomEpoch op with
  | none => s
  | some e =>
    match e.outcome with
    | none => s
    | some o =>
      let s1 := (e.alive.filter (fun m => m != e.me && m != first)).foldl (fun s m => (s.sendDecide op m o).2)
        (s.setEpoch op { e with waitAck := none })
      s1.boomApply op o

/-- Decide an epoch as coordinator. -/
def State.boomDecide (s : State) (op : Nat) (ok : Bool) (cause : Nat) : State :=
  match s.boomEpoch op with
  | none => s
  | some e =>
    if e.decided ∨ e.outcome.isSome then s
    else s.decideFirst op { ok := ok, cause := if ok then 0 else cause, degraded := e.degraded, sat := e.sat, nan := e.nan
                            missing := if ok then [] else e.missing }

/-- The coordinator decides OK when it holds HAVE from all N members. -/
def State.tryDecide (s : State) (op : Nat) : State :=
  match s.boomEpoch op with
  | none => s
  | some e =>
    if e.coordinator = e.me ∧ (List.range e.members).all (fun m => e.haves.contains m) then s.boomDecide op true 0 else s

/-- The FLAGS of another member's outcome block join an epoch's own. -/
def BoomEpoch.meets (e : BoomEpoch) (fl : Nat) : BoomEpoch :=
  { e with degraded := e.degraded || fl.testBit 1, sat := e.sat || fl.testBit 2, nan := e.nan || fl.testBit 3 }

/-- An ABORT with the FLAGS of its outcome block reaches the coordinator. -/
def State.coordAbort (s : State) (op cause : Nat) (missing : List Nat) (fl : Nat := 0) : State :=
  match s.boomEpoch op with
  | none => s
  | some e =>
    if e.decided ∨ e.outcome.isSome then s
    else
      let e1 := BoomEpoch.meets { e with cause := some (e.cause.getD cause), missing := missing.foldl addRank e.missing } fl
      let s1 := s.setEpoch op e1
      if e.coordinator = e.me ∧ (cause ≠ 2 ∨ missing ≠ []) then s1.boomDecide op false (e1.cause.getD cause) else s1

/-- This member meets a cause of Table 9-8: it sends ABORT to the coordinator. -/
def State.boomAbort (s : State) (op cause : Nat) (missing : List Nat) : State :=
  match s.boomEpoch op with
  | none => s
  | some e =>
    if e.decided ∨ e.outcome.isSome then s
    else if e.coordinator = e.me then s.coordAbort op cause missing
    else (s.hostMsg op e.coordinator 0x16 cause (outcomeBlock 2 cause op e.epoch 0 0 e.flags missing)).2

/-- A member that holds its complete result sends HAVE to the coordinator and to the next-lowest member. -/
def State.boomHave (s : State) (op : Nat) : State :=
  match s.boomEpoch op with
  | none => s
  | some e =>
    if e.haveSent ∨ e.decided ∨ !e.complete then s
    else
      let s1 := s.setEpoch op { e with haveSent := true, haves := e.haves ++ [e.me] }
      let s2 := ((e.alive.take 2).filter (· != e.me)).foldl (fun s m => (s.hostMsg op m 0x14 0 []).2) s1
      s2.tryDecide op

/-- Store an epoch after work on its segments, send what the work produced, and see whether the result is complete. -/
def State.boomWork (s : State) (op : Nat) (r : BoomEpoch × List BoomSend) : State :=
  ((s.setEpoch op r.1).sendAll op r.2).boomHave op

/-! ## Accepting frames (R226, R228) -/

/-- The operation of a frame may take it: VALID, by the descriptor of the open epoch or of the frame's configuration. -/
def State.boomValid (s : State) (m : Msg) (f : BoomIn) : Bool :=
  match s.boomEpoch f.op with
  | some e => if e.epoch = f.epoch then true else bitAt (cfgOf m.org.cfg (Reg.BOOM_OP_w0 f.op)) 31
  | none => bitAt (cfgOf m.org.cfg (Reg.BOOM_OP_w0 f.op)) 31

/-- The epoch whose descriptor judges a frame: the current one, or the one it would open. -/
def State.boomJudge (s : State) (m : Msg) (f : BoomIn) : BoomEpoch :=
  match s.boomEpoch f.op with
  | some e => if e.epoch = f.epoch then e else s.boomNew m.org f.op f.epoch
  | none => s.boomNew m.org f.op f.epoch

/-- Refuse a frame BUSY (R225, Table 9-7). -/
def State.boomBusy (s : State) (n : Nat) (m : Msg) (f : BoomIn) : State :=
  let s1 := s.count Reg.BOOM_CNT_REFUSE
  if 0x10 ≤ f.kind then (s1.ctlBack m f 0x17).boomEnd n else s1.busyMsg n 7 (s.busyInfo 7)

/-- The device is in Doze or on its way there (Table 16-7). -/
def State.dozing (s : State) : Bool := s.power.state == 2 || s.power.target == some 2

/-- A frame of an epoch out of the window is answered with the operation's current epoch (Tables 9-7 and 10-4). -/
def State.boomStale (s : State) (n : Nat) (f : BoomIn) (status : Nat) : State :=
  (s.count Reg.BOOM_CNT_STALE).answerMsg n status 0 (match s.boomEpoch f.op with | some e => e.epoch | none => 0)

/-- Take a frame through Table 9-7: `use` in an open epoch, `late` after the decision. The second component tells whether
it was refused BUSY or waits. While admission is held a frame that would open an epoch waits in its slot (R393); in Doze it is
answered BUSY (Table 16-7). -/
def State.boomTake (s : State) (n : Nat) (m : Msg) (f : BoomIn) (use late : State → BoomEpoch → State) : State × Bool :=
  let j := s.boomJudge m f
  if !s.boomValid m f then (s.answerMsg n stMalformed 0 0, false)
  else if j.unreduced ∧ 256 < j.ranks then ((s.count Reg.BOOM_CNT_REFUSE).answerMsg n stExactUnavailable 0 0, false)
  else if f.kind < 0x10 ∧ f.rank / j.lcl ≠ j.me then (s.answerMsg n stMalformed 0 0, false)
  else
    match s.boomRow f.op f.epoch with
    | .use => (use s j, false)
    | .late => (late s j, false)
    | .opens =>
      if s.dozing then (s.boomBusy n m f, true)
      else if s.holding then (s, true)
      else
        match s.boomOpen m.org f.op f.epoch with
        | none => (s.boomBusy n m f, true)
        | some s1 => (use s1 (s1.boomJudge m f), false)
    | .openBusy => (s.boomBusy n m f, true)
    | .oow => (s.boomStale n f stOutOfWindow, false)
    | .stale => (s.boomStale n f stStaleMessage, false)

/-- A frame from a contributor. -/
def State.boomLocal (s : State) (n : Nat) (kinds : Nat → Bool) (use : State → Msg → BoomIn → BoomEpoch → State) : State :=
  match s.boomIn n with
  | none => s
  | some (m, f) =>
    if !kinds f.kind then s
    else
      let late := fun (s : State) (e : BoomEpoch) => match e.outcome with
        | some o =>
          if o.ok then s.boomReply n stOk (outcomeBlock 0 0 f.op e.epoch f.seg f.nseg (1 + o.flags) []) o.nan o.sat
          else s.boomReply n (causeStatus o.cause) (o.block f.op e.epoch) o.nan o.sat
        | none => s
      ((s.boomTake n m f (fun s e => use s m f e) late).1).settle

/-- A frame from a peer. Over the host path a PSEQ already received is acknowledged and discarded, and every frame but a
refused one is acknowledged (R231). -/
def State.boomPeer (s : State) (n kind : Nat) (use : State → Msg → BoomIn → BoomEpoch → State) : State :=
  match s.boomIn n with
  | none => s
  | some (m, f) =>
    if f.kind ≠ kind then s
    else
      let had := Tbl.getD s.boom.seen f.peer []
      if f.host ∧ had.contains f.pseq then ((s.ctlBack m f 0x13).boomEnd n).settle
      else
        let r := s.boomTake n m f (fun s e => use s m f e) (fun s _ => s.boomEnd n)
        if f.host ∧ r.2 = false then
          (State.ctlBack { r.1 with boom.seen := Tbl.put r.1.boom.seen f.peer (f.pseq :: had) } m f 0x13).settle
        else r.1.settle

/-! ## Segments of a frame -/

/-- Bytes an element of a frame's payload: IFMT, the carry format, or the result format. -/
def BoomEpoch.width (e : BoomEpoch) (f : BoomIn) : Nat :=
  if f.kind = 0x11 then e.carryBytes else if f.kind = 0x12 ∧ f.dist then e.outBytes else e.inBytes

/-- A frame's payload carries source ranks. -/
def BoomEpoch.ranked (e : BoomEpoch) (f : BoomIn) : Bool := e.unreduced && f.kind == 0x11

/-- The payload length that NSEG asks for. -/
def BoomEpoch.bodyLen (e : BoomEpoch) (f : BoomIn) : Nat :=
  sumBy (fun i => e.segLen (f.seg + i) * e.width f + (if e.ranked f then 4 else 0)) (List.range f.nseg)

/-- The segments of a payload: number, source rank, elements. -/
def BoomEpoch.readSegs (e : BoomEpoch) (f : BoomIn) : Nat → Nat → List Byte → List (Nat × Option Nat × List Nat)
  | 0, _, _ => []
  | n + 1, g, b =>
    let w := e.width f
    let rk := e.ranked f
    let b1 := if rk then b.drop 4 else b
    let k := e.segLen g
    let v := readElems w k b1
    (g, if rk then some (beVal (b.take 4)) else none, if f.kind = 0x11 then v.map e.fromWire else v) ::
      e.readSegs f n (g + 1) (b1.drop (k * w))

/-- VLEN other than E, or segments beyond S (Table 9-8). -/
def BoomEpoch.badSpan (e : BoomEpoch) (f : BoomIn) : Bool := f.vlen != e.elems || decide (16 < f.nseg ∨ e.nsegs < f.seg + f.nseg)

/-- The length errors of Table 9-8 of a frame whose segments follow its block. -/
def BoomEpoch.badLen (e : BoomEpoch) (f : BoomIn) : Bool :=
  e.badSpan f || decide (8192 < f.body.length) || f.body.length != e.bodyLen f

/-- Work through the segments of a frame: a segment whose bit is set is a duplicate; the others are used. -/
def workSegs (bit : Nat → Option Nat → Nat) (use : BoomEpoch → Nat → Option Nat → List Nat → BoomEpoch × List BoomSend) :
    List (Nat × Option Nat × List Nat) → BoomEpoch → BoomEpoch × List BoomSend × Nat
  | [], e => (e, [], 0)
  | (g, r, d) :: t, e =>
    if e.bits.contains (bit g r, g) then
      let x := workSegs bit use t e
      (x.1, x.2.1, x.2.2 + 1)
    else
      let y := use e g r d
      let x := workSegs bit use t y.1
      (x.1, y.2 ++ x.2.1, x.2.2)

/-! ## Contributors -/

/-- A frame from a contributor is judged by R229 and Table 9-8: answered MALFORMED with an ABORT, or used. -/
def State.boomCheck (s : State) (n : Nat) (f : BoomIn) (e : BoomEpoch) (bad : Bool) (ranks : List Nat) (ok : State → State) : State :=
  if f.ddig ≠ e.ddig then (s.answerMsg n stMalformed 0 0).boomAbort f.op 6 (e.ranksOf (if 0x10 ≤ f.kind then f.peer else e.me))
  else if bad then (s.answerMsg n stMalformed 0 0).boomAbort f.op 1 ranks
  else ok s

/-- DATA (R226, R229): the segments are added or forwarded, and the frame is acknowledged. -/
def dataUse (n : Nat) (s : State) (m : Msg) (f : BoomIn) (e : BoomEpoch) : State :=
  let out := (e.kind == 2 && !(List.range f.nseg).all (fun i => (e.sliceOf f.rank).contains (f.seg + i))) ||
    (e.kind == 3 && f.nseg != 0 && f.rank != e.root)
  s.boomCheck n f e (e.badLen f || out) [f.rank] (fun s =>
    let e0 := { e with origins := Tbl.put e.origins f.rank (m.org, s.fcsOf m.frames) }
    let w := workSegs (fun _ _ => f.rank % e.lcl) (fun e g _ d => e.contribute f.rank g d) (e0.readSegs f f.nseg f.seg f.body) e0
    let s1 := s.boomReply n stOk (outcomeBlock 0 0 f.op e.epoch f.seg f.nseg (b2n (decide (0 < w.2.2)) + w.1.flags) []) w.1.nan w.1.sat
    (s1.countN Reg.BOOM_CNT_DUP w.2.2).boomWork f.op (w.1, w.2.1))

/-- BOOM_DATA (R226). A KIND that Table 9-5 reserves is answered MALFORMED here. -/
def State.boomData (s : State) (n : Nat) : State :=
  match s.boomIn n with
  | none => s
  | some (_, f) =>
    if f.kind = 0 ∨ (3 < f.kind ∧ f.kind < 0x11) ∨ 0x17 < f.kind then (s.answerMsg n stMalformed 0 0).settle
    else s.boomLocal n (· == 1) (dataUse n)

/-- BOOM_DATA (R226). -/
def execBoomData (slot : Nat) (s : State) : Host.Outcome State Fault Refusal := .next (s.boomData slot)

/-- ABANDON (R230): acknowledged; the member sends ABORT ABANDONED with the rank. -/
def abandonUse (n : Nat) (s : State) (m : Msg) (f : BoomIn) (e : BoomEpoch) : State :=
  s.boomCheck n f e (e.badLen f) [f.rank] (fun s =>
    let s1 := s.boomReply n stOk (outcomeBlock 0 0 f.op e.epoch f.seg 0 e.flags []) e.nan e.sat
    (s1.setEpoch f.op { e with origins := Tbl.put e.origins f.rank (m.org, s.fcsOf m.frames) }).boomAbort f.op 3 [f.rank])

/-- ABANDON (R230). -/
def execAbandon (slot : Nat) (s : State) : Host.Outcome State Fault Refusal := .next (s.boomLocal slot (· == 2) (abandonUse slot))

/-- The answer of a QUERY to a decided epoch: the segments asked for where the result is held, else the outcome alone. -/
def State.queryDecided (s : State) (n : Nat) (m : Msg) (f : BoomIn) (e : BoomEpoch) (o : BoomOut) : State :=
  if !o.ok then s.boomReply n (causeStatus o.cause) (o.block f.op e.epoch) o.nan o.sat
  else
    let gs := ((List.range f.nseg).map (f.seg + ·)).filter (fun g => e.held && (e.seg g).final.isSome)
    match e.resultFrames f.op o gs with
    | [] => s.boomReply n stOk (outcomeBlock 1 0 f.op e.epoch f.seg 0 o.flags []) o.nan o.sat
    | b :: t => t.foldl (fun (s : State) (b : List Byte) => s.boomSend m.org (s.fcsOf m.frames) stOk b o.nan o.sat) (s.boomReply n stOk b o.nan o.sat)

/-- A QUERY is judged by a descriptor: of the current epoch, or of the next, which its own configuration describes. -/
def State.queryJudged (s : State) (f : BoomIn) : Bool :=
  match s.boomEpoch f.op with
  | none => true
  | some e => decide ((f.epoch + 65536 - e.epoch) % 65536 ≤ 1)

/-- A QUERY of an epoch that is not decided is answered PENDING (R227). -/
def State.queryPending (s : State) (n : Nat) (f : BoomIn) : State :=
  let e := (s.boomEpoch f.op).filter (fun e => e.epoch == f.epoch)
  let any := fun (b : BoomEpoch → Bool) => (e.map b).getD false
  s.boomReply n stOk (outcomeBlock 3 0 f.op f.epoch f.seg 0 ((e.map (·.flags)).getD 0) []) (any (·.nan)) (any (·.sat))

/-- A QUERY that passes its checks is answered by the place of its epoch beside the open one (R227). -/
def State.queryEpoch (s : State) (n : Nat) (m : Msg) (f : BoomIn) : State :=
  match Tbl.find s.boom.ops f.op with
  | none => if s.dozing then s.boomBusy n m f else if s.holding then s else
    (match s.boomOpen m.org f.op f.epoch with | some s1 => s1.queryPending n f | none => s.boomBusy n m f)
  | some x =>
    let d := (f.epoch + 65536 - x.cur.epoch) % 65536
    if d = 0 then (match x.cur.outcome with
      | some o => if x.cur.decided then s.queryDecided n m f x.cur o else s.queryPending n f
      | none => s.queryPending n f)
    else if d = 1 then s.queryPending n f
    else if d < 32768 then s.boomStale n f stOutOfWindow
    else match x.prev with
      | some (p, o) =>
        if p = f.epoch then s.boomReply n (if o.ok then stOk else causeStatus o.cause) (o.block f.op p) o.nan o.sat
        else s.boomStale n f stStaleMessage
      | none => s.boomStale n f stStaleMessage

/-- BOOM_QUERY (R227, Table 9-7); R217's refusal and the checks of DDIG, VLEN and the segments asked for come first (Table 9-8). -/
def State.boomQuery (s : State) (n : Nat) : State :=
  match s.boomIn n with
  | none => s
  | some (m, f) =>
    let j := s.boomJudge m f
    if f.kind ≠ 3 then s
    else if !s.boomValid m f then (s.answerMsg n stMalformed 0 0).settle
    else if j.unreduced ∧ 256 < j.ranks then ((s.count Reg.BOOM_CNT_REFUSE).answerMsg n stExactUnavailable 0 0).settle
    else if s.queryJudged f ∧ (f.ddig ≠ j.ddig ∨ j.badSpan f) then
      (let s1 := s.answerMsg n stMalformed 0 0
       match s.boomEpoch f.op with
       | some e => if e.epoch = f.epoch then (if f.ddig ≠ j.ddig then s1.boomAbort f.op 6 (j.ranksOf j.me) else s1.boomAbort f.op 1 [f.rank])
         else s1
       | none => s1).settle
    else (s.queryEpoch n m f).settle

/-- BOOM_QUERY (R227). -/
def execBoomQuery (slot : Nat) (s : State) : Host.Outcome State Fault Refusal := .next (s.boomQuery slot)

/-! ## Peers -/

/-- Segments of a PART or GATH frame: added or kept once each (R229). A frame that no path of R220 brings here is answered
MALFORMED and has no effect on the epoch (log 22). -/
def peerUse (n : Nat) (s : State) (_ : Msg) (f : BoomIn) (e : BoomEpoch) : State :=
  -- a hop that came over the host path crosses a DEGRADED direction (R222)
  let e := { e with degraded := e.degraded || f.host }
  s.boomCheck n f e (e.badLen f) (e.ranksOf f.peer) (fun s =>
    let fits := (f.kind == 0x12 || e.adds) && f.dist == (f.kind == 0x12 && (f.dist || e.adds)) &&
      (List.range f.nseg).all (fun i => e.takes (f.seg + i) f.axis f.dn f.dist)
    if !fits then s.answerMsg n stMalformed 0 0
    else
      let w := workSegs (fun _ r => feedBit f.dist f.axis f.dn r)
        (fun e g r d => if f.dist then e.distIn g f.axis f.dn d else e.reduceIn g f.axis f.dn r d)
        (e.readSegs f f.nseg f.seg f.body) e
      ((s.boomEnd n).countN Reg.BOOM_CNT_DUP w.2.2).boomWork f.op (w.1, w.2.1))

/-- PART (R229). -/
def execPart (slot : Nat) (s : State) : Host.Outcome State Fault Refusal := .next (s.boomPeer slot 0x11 (peerUse slot))
/-- GATH (R220). -/
def execGath (slot : Nat) (s : State) : Host.Outcome State Fault Refusal := .next (s.boomPeer slot 0x12 (peerUse slot))

/-- HAVE (R230): recorded; the coordinator decides OK once all members hold their results. -/
def haveUse (n : Nat) (s : State) (_ : Msg) (f : BoomIn) (e : BoomEpoch) : State :=
  s.boomCheck n f e (f.vlen != e.elems) (e.ranksOf f.peer) (fun s =>
    ((s.boomEnd n).setEpoch f.op { e with haves := if e.haves.contains f.peer then e.haves else e.haves ++ [f.peer] }).tryDecide f.op)

/-- HAVE (R230). -/
def execHaveMsg (slot : Nat) (s : State) : Host.Outcome State Fault Refusal := .next (s.boomPeer slot 0x14 (haveUse slot))

/-- The ranks of an outcome block's MISSING. -/
def blockMissing (b : List Byte) : List Nat := readElems 4 (min 64 (beAt b 12 4)) (b.drop 32)

/-- The outcome that a DECIDE carries. -/
def readOutcome (f : BoomIn) : BoomOut :=
  let fl := byteAt f.body 9
  { ok := byteAt f.body 0 == 1, cause := byteAt f.body 1, degraded := fl.testBit 1, sat := fl.testBit 2, nan := fl.testBit 3
    missing := blockMissing f.body, more := beAt f.body 12 4 - 64 }

/-- DECIDE (R230): the epoch's outcome at this member. -/
def decideUse (n : Nat) (s : State) (_ : Msg) (f : BoomIn) (e : BoomEpoch) : State :=
  s.boomCheck n f e (f.vlen != e.elems) (e.ranksOf f.peer) (fun s => (s.boomEnd n).boomApply f.op (readOutcome f))

/-- DECIDE (R230). -/
def execDecide (slot : Nat) (s : State) : Host.Outcome State Fault Refusal := .next (s.boomPeer slot 0x15 (decideUse slot))

/-- ABORT (R230). -/
def abortUse (n : Nat) (s : State) (_ : Msg) (f : BoomIn) (e : BoomEpoch) : State :=
  s.boomCheck n f e (f.vlen != e.elems) (e.ranksOf f.peer) (fun s => (s.boomEnd n).coordAbort f.op f.cause (blockMissing f.body) (byteAt f.body 9))

/-- ABORT (R230). -/
def execAbort (slot : Nat) (s : State) : Host.Outcome State Fault Refusal := .next (s.boomPeer slot 0x16 (abortUse slot))

/-! ## The host path (R231) and refusals (R225) -/

/-- BOOM_ACK (R231): the frame of the same PSEQ is acknowledged; the ACK of a first DECIDE lets the others go out. -/
def State.boomAck (s : State) (n : Nat) : State :=
  match s.boomIn n with
  | none => s
  | some (_, f) =>
    if f.kind ≠ 0x13 then s
    else
      let s0 := s.boomEnd n
      match s0.hostRec f.peer f.pseq with
      | none => s0.settle
      | some x =>
        let s1 := (s0.dropHost f.peer f.pseq).hopNext x.op x.hop
        (match s1.boomEpoch x.op with
         | some e => if e.waitAck = some (f.peer, f.pseq) then s1.decideRest x.op f.peer else s1
         | none => s1).settle

/-- BOOM_ACK (R231). -/
def execBoomAck (slot : Nat) (s : State) : Host.Outcome State Fault Refusal := .next (s.boomAck slot)

/-- A refused frame's wait in raw counts: max(retry-after, RTO × 2^k). No field of the block carries the retry-after; it is
2 × RTO by R225. -/
def State.busyWait (s : State) (k : Nat) : Nat :=
  let rto := s.cfg Reg.BOOM_TMR 7 0
  s.time.raw + max (2 * rto) (rto * 2 ^ min 6 k) * 1000

/-- The frame that a BUSY block on a neighbour port refuses: of the frames with its PHASE and first segment the one sent earliest that
does not wait already, since frames and refusals keep their order there; a frame sent again comes after those never refused. -/
def State.refusedFrame (s : State) (f : BoomIn) (e : BoomEpoch) : Option BoomSent :=
  let mine := e.sent.filter (fun x => x.phase == f.phase && x.seg == f.seg && x.nseg == f.nseg)
  let recOf := fun (x : BoomSent) => s.boom.refused.find? (fun r => r.2.op == f.op && r.2.epoch == f.epoch && r.2.sent == some x)
  match mine.find? (fun x => (recOf x).isNone) with
  | some x => some x
  | none => leastBy (fun x => match recOf x with | some r => r.2.count | none => 0)
      (mine.filter (fun x => match recOf x with | some r => r.2.busyTo.isNone | none => true))

/-- BOOM_BUSY_FRAME (R225): the frame it refuses waits to be sent again. -/
def State.boomBusyFrame (s : State) (n : Nat) : State :=
  match s.boomIn n with
  | none => s
  | some (m, f) =>
    if f.kind ≠ 0x17 then s
    else
      let s0 := s.boomEnd n
      let key := if f.host then some (f.peer, f.pseq) else none
      let sent := if f.host then none else
        (s0.boomEpoch f.op).bind (fun e => if e.epoch = f.epoch then s0.refusedFrame f e else none)
      if f.host ∧ (s0.hostRec f.peer f.pseq).isNone ∨ !f.host ∧ sent.isNone then s0.settle
      else
        let old := s0.boom.refused.find? (fun r => r.2.op == f.op && r.2.epoch == f.epoch && r.2.host == key && r.2.sent == sent)
        let k := match old with | some r => r.2.count + 1 | none => 1
        let id := match old with | some r => r.1 | none => leastFree s0.boom.refused
        let r : BoomRefused := ⟨f.op, f.epoch, key, m.org.lport, sent, k, some (s.busyWait k)⟩
        let s1 := { s0 with boom.refused := Tbl.put s0.boom.refused id r }
        (match s1.hostRec f.peer f.pseq with
         | some x => if f.host then s1.setHost f.peer f.pseq { x with refused := k, busyTo := some (s.busyWait k) } else s1
         | none => s1).settle

/-- BOOM_BUSY_FRAME (R225). -/
def execBoomBusyFrame (slot : Nat) (s : State) : Host.Outcome State Fault Refusal := .next (s.boomBusyFrame slot)

/-- BOOM_BUSY_RETRY (R225): the wait is over and the frame is sent again. -/
def State.boomBusyRetry (s : State) (id : Nat) : State :=
  match Tbl.find s.boom.refused id with
  | none => s
  | some r =>
    match r.busyTo with
    | none => s
    | some t =>
      if s.time.raw < t then s
      else
        let s1 := { s with boom.refused := Tbl.put s.boom.refused id { r with busyTo := none } }
        match r.host, r.sent with
        | some (m, p), _ =>
          (match s1.hostRec m p with
           | some x => s1.hostSendNow m p { x with busyTo := none }
           | none => { s1 with boom.refused := Tbl.del s1.boom.refused id })
        | none, some f =>
          (match s1.boomEpoch r.op with
           | some e =>
             if e.epoch = r.epoch ∧ e.decided = false then
               s1.nbrSend r.lport (boomRequest (boomBlock f.kind f.phase r.op e.epoch f.seg e.me e.elems e.ddig f.nseg 0 0) f.body)
             else { s1 with boom.refused := Tbl.del s1.boom.refused id }
           | none => { s1 with boom.refused := Tbl.del s1.boom.refused id })
        | none, none => s1

/-- BOOM_BUSY_RETRY (R225). -/
def execBoomBusyRetry (id : Nat) (s : State) : Host.Outcome State Fault Refusal := .next (s.boomBusyRetry id)

/-! ## Timers (R232) and lost members -/

/-- A reduction frame of an operation whose verdicts are complete has not yet been used (R233). -/
def State.boomWaiting (s : State) (op : Nat) : Bool :=
  s.msgs.any (fun x => match s.boomIn x.1 with | some (_, f) => f.op == op | none => false)

/-- MEMBER_TIMER_EXPIRE (R232): ABORT TIMEOUT with the local ranks whose segments are missing. A contribution whose verdicts
complete in the same tick counts first (R233). -/
def State.memberTimer (s : State) (op : Nat) : State :=
  match s.boomEpoch op with
  | none => s
  | some e =>
    if e.decided ∨ e.memberDone ∨ s.time.raw < e.memberAt ∨ s.boomWaiting op then s
    else (s.setEpoch op { e with memberDone := true }).boomAbort op 2 e.absent

/-- MEMBER_TIMER_EXPIRE (R232). -/
def execMemberTimerExpire (op : Nat) (s : State) : Host.Outcome State Fault Refusal := .next (s.memberTimer op)

/-- COORD_TIMER_EXPIRE (R232): the coordinator decides FAILED TIMEOUT unless it has decided. -/
def State.coordTimer (s : State) (op : Nat) : State :=
  match s.boomEpoch op with
  | none => s
  | some e =>
    if e.decided ∨ e.coordinator ≠ e.me ∨ s.time.raw < e.coordAt ∨ s.boomWaiting op then s
    else s.boomDecide op false (e.cause.getD 2)

/-- COORD_TIMER_EXPIRE (R232). -/
def execCoordTimerExpire (op : Nat) (s : State) : Host.Outcome State Fault Refusal := .next (s.coordTimer op)

/-- A member is lost to one operation's epoch (R230): a new coordinator that holds a DECIDE sends it, one that holds none
decides FAILED with MEMBER_LOST; any other member sends ABORT MEMBER_LOST; a first DECIDE that waited for the lost member
goes to the next. -/
def State.lostIn (s : State) (op m : Nat) : State :=
  match s.boomEpoch op with
  | none => s
  | some e =>
    if e.lost.contains m ∨ e.members ≤ m ∨ m = e.me then s
    else
      let was := e.coordinator
      let e1 := { e with lost := e.lost ++ [m] }
      let s1 := s.setEpoch op e1
      if e1.coordinator = e.me then
        match e.outcome with
        | some o =>
          if was == m || (match e.waitAck with | some (w, _) => w == m | none => false) then s1.decideFirst op o else s1
        | none => s1.coordAbort op 4 (e.ranksOf m)
      else if e.decided then s1
      else s1.boomAbort op 4 (e.ranksOf m)

/-- A member is declared lost (R231, R363): its unacknowledged frames go, and every epoch meets the loss. -/
def State.memberLost (s : State) (m : Nat) : State :=
  let s := { s with boom.back := s.boom.back.filter (· != m) }
  if s.boom.lost.contains m then s
  else
    let s1 := { s with boom.lost := addRank s.boom.lost m, boom.host := Tbl.del s.boom.host m }
    (s1.boom.ops.map (·.1)).foldl (fun s op => s.lostIn op m) s1

/-- The members that MEMBER_BACK has named take part again from this tick boundary on (R363); epochs already open keep them lost. -/
def State.membersBack (s : State) : State :=
  if s.boom.back = [] then s
  else { s with boom.lost := s.boom.lost.filter (fun m => !s.boom.back.contains m), boom.back := [] }

/-- HOSTPATH_RESEND (R231): a frame not acknowledged within RTO is sent again; after RETRY resends its member is lost. -/
def State.hostResend (s : State) (m p : Nat) : State :=
  match s.hostRec m p with
  | none => s
  | some x =>
    if !x.out ∨ x.busyTo.isSome ∨ s.time.raw < x.sentAt + s.cfg Reg.BOOM_TMR 7 0 * 1000 then s
    else if s.cfg Reg.BOOM_TMR 15 8 ≤ x.sends then s.memberLost m
    else (s.count Reg.BOOM_CNT_RESEND).hostSendNow m p { x with sends := x.sends + 1 }

/-- HOSTPATH_RESEND (R231). -/
def execHostpathResend (member pseq : Nat) (s : State) : Host.Outcome State Fault Refusal := .next (s.hostResend member pseq)

/-- RETENTION_EXPIRE (R227): RETAIN µs after the decision the results and their buffer are released. -/
def State.retention (s : State) (op : Nat) : State :=
  match s.boomEpoch op with
  | none => s
  | some e =>
    if e.decided ∧ e.held ∧ e.retainTo ≤ s.time.raw then s.setEpoch op { e with held := false, segs := [], sent := [] } else s

/-- RETENTION_EXPIRE (R227). -/
def execRetentionExpire (op : Nat) (s : State) : Host.Outcome State Fault Refusal := .next (s.retention op)

/-- A unit fault in this member's boom (Table 9-8): the open epochs it can have touched abort with DEVICE_FAULT. -/
def State.boomFault (s : State) : State :=
  ((s.boom.ops.filter (fun o => !o.2.cur.decided)).map (·.1)).foldl (fun s op => s.boomAbort op 5 []) s

/-- The reduction epoch of one message aborts with DEVICE_FAULT (R366). -/
def State.boomFaultIn (s : State) (op ep : Nat) : State :=
  match s.boomEpoch op with
  | some e => if e.epoch = ep then s.boomAbort op 5 [] else s
  | none => s

/-- Epochs open or retained, for BOOM_STAT. -/
def State.boomOpenCount (s : State) : Nat := (s.boom.ops.filter (fun o => o.2.cur.held)).length

end Sys2Proof.Machine
end

