-- ==== Sys2Proof/Machine/Links.lean ====
section
/-! DEFINITION. Ethernet ports and the neighbour link layer (R259 to R284): bring-up, link-layer frames, discovery, plan
checks, quarantine, ADOPT, PFC reception. -/
namespace Sys2Proof.Machine

/-! ## Directions and labels -/

/-- Post AXIS_STATE, direction and state, for every direction whose state differs from what it was (R282). -/
def State.watchAxes (s old : State) : State :=
  (List.range 6).foldl (fun (s : State) r =>
    if s.dirState r = old.dirState r then s else s.post 2 1 [(r, 8), (s.dirState r, 8)]) s

/-- The label of a logical port: the direction of the valid entry that names it, 0xF for none (R277). -/
def labelOf (c : Tbl Word) (l : Nat) : Nat := ((List.range 6).find? (fun r => planPort c r == some l)).getD 0xF

/-- REPLAY_TO in raw counts. -/
def State.replayTo (s : State) : Nat := s.cfg Reg.PORT_LINKTMR 7 0 * 1000

/-! ## A member stops carrying frames (R271, R275) -/

/-- Other members of a port's bundle in service. -/
def State.otherMembers (s : State) (e : Nat) : List Nat :=
  (lpMembers s.regs.cfg (epLport s.regs.cfg e)).filter (fun x => x != e && s.epServes x)

/-- A member's held frames go to the members of its bundle in service, with their BSEQ, unless they have gone already. -/
def State.handOver (s : State) (e : Nat) : State :=
  let p := s.ep e
  let l := epLport s.regs.cfg e
  if p.handed ∨ p.held = [] ∨ s.otherMembers e = [] then s
  else
    let s1 := (s.setEp e { p with handed := true }).setLp l { s.lp l with again := (s.lp l).again ++ p.held }
    s1.drainWait l 64

/-- Frames that a member holds and nothing can carry any longer are discarded and counted (R275). -/
def State.dropHeld (s : State) (e : Nat) : State :=
  let p := s.ep e
  (s.setEp e { p with held := [], handed := false }).countN (Reg.PORT_CNT_DISCARD (e / 4)) (if p.handed then 0 else p.held.length)

/-- A member starts its link layer fresh (R271): counts at zero; held frames that nothing can carry are discarded and
counted. -/
def State.startFresh (s : State) (e : Nat) : State :=
  let s1 := (s.handOver e).dropHeld e
  s1.setEp e { s1.ep e with lseq := 0, expect := 0, charged := 0, freed := 0, peerCred := 0, nak := none, retries := 0, keep := false }

/-- A reply that waits to be sent on a port that is down is lost (R46, R275): not sent again, its effects stand; a notice is
forgotten. One kept for reissue is decided at its reissue (R46, R284). -/
def State.loseWaiting (s : State) (n : Nat) : State :=
  match Tbl.find s.replies n with
  | none => s
  | some r =>
    match r.stage with
    | .ready => (((s.count Reg.RPLY_CNT_LOST).gateEvent 9 r.org.lport).egressFail r).unsent n r
    | .bad (_ + 1) => ({ s with replies := Tbl.del s.replies n }).gc
    | _ => s

/-- The last member of a logical port has left service (R263, R275, R284): the frames that wait for the port are
discarded and counted on a member's quad, and the replies that wait are lost. What the member itself holds goes at once in
quarantine, and after a link down once it cannot come back with its state (R271, log 124). -/
def State.dropWaiting (s : State) (e : Nat) : State :=
  let l := epLport s.regs.cfg e
  if s.epServes e ∨ s.otherMembers e ≠ [] then s
  else
    let n := (s.lp l).wait.length + (s.lp l).again.length
    let s1 := (s.setLp l { s.lp l with wait := [], again := [] }).countN (Reg.PORT_CNT_DISCARD (e / 4)) n
    let mine := (s1.replies.filter (fun r => match r.2.dest with | some d => d.lport == l | none => false)).map (·.1)
    let s2 := mine.foldl State.loseWaiting s1
    if (s2.ep e).state = 4 then s2.dropHeld e else s2

/-- A port leaves service: held frames are handed over, its link layer stops, a reply in transmission is cut (R275, R46). -/
def State.outOfService (s : State) (e : Nat) (st reason : Nat) : State :=
  let was := s.epServes e
  let s1 := if was then s.egressLost e else s
  let s2 := s1.setEp e { s1.ep e with state := st, reason := reason, run := false }
  if was ∧ epNbr s.regs.cfg e then (s2.handOver e).dropWaiting e else s2

/-- A member that went down more than 10 ms ago cannot come back with its link state: what it still holds is discarded (R271,
R275). -/
def State.holdExpire (s : State) (e : Nat) : State :=
  let p := s.ep e
  if p.state < 2 ∧ p.held ≠ [] ∧ p.downAt + 10000000 < s.time.raw then s.dropHeld e else s

/-- Journal a quarantine change and post PORT_STATE with the port and the reason (R280). -/
def State.quarantineNote (s : State) (e reason : Nat) : State :=
  (s.journal 5 reason e none 3).post 2 0 [(e, 8), (reason, 8)]

/-- A link goes down (R45, R46, R275): frames in reception on it are truncated. The port trains again where its quad is
enabled. From quarantine this is an exit (R280). -/
def State.portDown (s : State) (e : Nat) : State :=
  let s1 := ((s.frames.filter (fun f => f.2.eport == e && !f.2.ended)).map (·.1)).foldl (fun s n => s.truncate n) s
  let s2 := (s1.ptpDown e).outOfService e (if 0 < epLanes s.regs.cfg e then 1 else 0) 0
  let s3 := if (s.ep e).state = 4 then s2.quarantineNote e 0 else s2
  let p := s3.ep e
  s3.setEp e { p with
    wasPeer := match p.peer with | some x => x.identity | none => p.wasPeer
    downAt := s.time.raw, peer := none, paused := [], asserted := [], ctl := [], early := none, sliceDiffer := false, planDiffer := false
    ver := 0, delay := none, resumeAt := none }

/-- A commit takes a port away (R263): it goes down, and what waits to be sent on it follows the member-loss rule, on the host side
too. -/
def State.portGone (s : State) (e : Nat) : State :=
  let n := ((s.ep e).wait.filter (fun w => match w with | .frame _ _ => true | _ => false)).length
  ((s.portDown e).countN (Reg.PORT_CNT_DISCARD (e / 4)) n).dropWaiting e

/-- LINK_DOWN (R275). -/
def State.linkDown (s : State) (e : Nat) : State := if s.linkUp e then ((s.portDown e).watchAxes s).settle else s

/-- LINK_DOWN (R275). -/
def execLinkDown (eport : Nat) (s : State) : Host.Outcome State Fault Refusal := .next (s.linkDown eport)

/-! ## Retransmission (R266, R268) -/

/-- Retransmit every held frame in LSEQ order, before any new frame and in the turn of the third class (R32); after REPLAY_MAX times from
one LSEQ without progress the port is taken down and trains again (R268). -/
def State.retransmit (s : State) (e : Nat) : State :=
  let p := s.ep e
  if p.held = [] then s
  else if s.cfg Reg.PORT_LINKTMR 15 8 ≤ p.retries then s.linkDown e
  else
    let s1 := s.setEp e { p with retries := p.retries + 1, progressAt := s.time.raw,
                                 wait := p.wait.filter (fun w => match w with | .resend _ => false | _ => true) }
    p.held.foldl (fun s h => s.linkJob e (.resend h.lseq)) s1

/-- A NAK's retransmission: one that carries the ACK of a retransmission which has not started is ignored (R268). -/
def State.nakTaken (s : State) (e : Nat) : State :=
  let p := s.ep e
  if p.held.head?.any (fun h => p.wait.contains (.resend h.lseq)) then s else s.retransmit e

/-- LINK_REPLAY_TIMEOUT (R268). -/
def State.linkReplayTimeout (s : State) (e : Nat) : State :=
  let p := s.ep e
  if p.run ∧ p.held ≠ [] ∧ p.progressAt + s.replayTo ≤ s.time.raw then s.retransmit e else s

/-- LINK_REPLAY_TIMEOUT (R268). -/
def execLinkReplayTimeout (eport : Nat) (s : State) : Host.Outcome State Fault Refusal := .next (s.linkReplayTimeout eport)

/-- ACK value A of a good frame frees the held frames with (A − LSEQ) mod 2^16 between 1 and 32,768 (R266). -/
def State.takeAck (s : State) (e a : Nat) : State :=
  let p := s.ep e
  let rest := p.held.filter (fun h => let d := (a + 65536 - h.lseq) % 65536; !(decide (1 ≤ d ∧ d ≤ 32768)))
  if rest.length = p.held.length then s
  else s.setEp e { p with held := rest, retries := 0, progressAt := s.time.raw }

/-- ACK and then CRED of a good frame (R265, R284); frames that waited for them start. -/
def State.takeHeader (s : State) (f : LinkIn) : State :=
  let s1 := s.takeAck f.eport (beAt f.bytes 4 2)
  s1.setEp f.eport { s1.ep f.eport with peerCred := beAt f.bytes 6 4 }

/-- Frames that wait on a port's logical port start while there is room. -/
def State.drainPort (s : State) (e : Nat) : State := s.drainWait (epLport s.regs.cfg e) 64

/-! ## Reception (R267, R273) -/

/-- Send a NAK for the present E, unless one has gone for it (R267). -/
def State.sendNak (s : State) (e : Nat) : State :=
  let p := s.ep e
  if p.nak = some p.expect then s
  else (s.setEp e { p with nak := some p.expect, nakAt := s.time.raw }).linkJob e (.ctl 6 0)

/-- Deliver a DATA frame: the addresses are restored (R264) and it is classified, every verdict good but that of its UDP
checksum. A frame that no handler takes leaves the ingress buffer at once. Its timestamp is that of its own arrival (R293). LLDP and PTP
have group addresses on these ports (R264); one inside a DATA frame is discarded and counted (log 172). -/
def State.deliver (s : State) (e raw sub : Nat) (bytes : List Byte) : State :=
  if bytes = [] then s
  else
    let mac := match (s.ep e).peer with | some p => p.mac | none => 0
    let b := beBytes 6 (lpMac s.regs.cfg (epLport s.regs.cfg e)) ++ beBytes 6 mac ++ bytes.drop 12
    if takenBefore b ∨ !s.twinServes then (s.count (Reg.PORT_CNT_DISCARD (e / 4))).creditBack e b.length
    else
      let n := s.frames.length
      let s1 := s.autowake.classify e b b.length true [] sub false (some true)
        (some (if udpHasSum b then udpSumGood b else true)) false raw
      if s1.frames.length = n then s1.creditBack e b.length else s1

/-- Deliver frames of a bundle in BSEQ order while the next is held (R273), at most `fuel`. -/
def State.deliverNext (s : State) (l : Nat) : Nat → State
  | 0 => s
  | fuel + 1 =>
    let p := s.lp l
    match Tbl.find p.reorder p.next with
    | none => s
    | some w =>
      State.deliverNext ((s.setLp l { p with next := (p.next + 1) % 65536, reorder := Tbl.del p.reorder p.next }).deliver
        w.eport w.raw w.sub w.bytes) l fuel

/-- An accepted frame goes to its bundle's reorder buffer, or is delivered (R273): behind NB or already held it is a
duplicate. `bytes` is empty for a VOID frame. -/
def State.accept (s : State) (f : LinkIn) (bytes : List Byte) : State :=
  let e := f.eport
  let l := epLport s.regs.cfg e
  if (byteAt f.bytes 1).testBit 0 then
    let b := beAt f.bytes 10 2
    let p := s.lp l
    if 32768 ≤ (b + 65536 - p.next) % 65536 ∨ (Tbl.find p.reorder b).isSome then
      (if bytes = [] then s else s.creditBack e bytes.length)
    else State.deliverNext (s.setLp l { p with reorder := Tbl.put p.reorder b ⟨e, bytes, s.time.raw, f.sub⟩ }) l 65536
  else s.deliver e s.time.raw f.sub bytes

/-- A received frame of the link layer has a bad verdict (Table 11-4): an uncorrectable codeword, an FCS mismatch, or a length above
9,216 bytes, at which it is truncated (R260). -/
def linkBad (f : LinkIn) : Bool := !f.good || decide (9216 < f.bytes.length)

/-- A frame of the link layer on a member (R264 to R268, R280): quarantined, it is discarded; with a bad verdict, discarded
with a NAK; else its ACK and CRED act and `use` follows. -/
def State.linkFrame (s : State) (f : LinkIn) (ty : Nat) (use : State → State) : State :=
  let e := f.eport
  if !epNbr s.regs.cfg e ∨ !s.linkUp e then s
  else if (s.ep e).state = 4 then s.count (Reg.PORT_CNT_DISCARD (e / 4))
  else if linkBad f then (if s.epServes e then s.sendNak e else s)
  else if byteAt f.bytes 0 ≠ ty ∨ !(s.ep e).run then s
  else ((use (s.takeHeader f)).drainPort e).settle

/-- The receive rule of a DATA or VOID frame with good verdicts (Table 11-4). -/
def State.inSequence (s : State) (f : LinkIn) (take : State → State) : State :=
  let p := s.ep f.eport
  let d := (beAt f.bytes 2 2 + 65536 - p.expect) % 65536
  if d = 0 then take (s.setEp f.eport { p with expect := (p.expect + 1) % 65536, nak := none })
  else if d < 32768 then s.sendNak f.eport
  else s

/-- LINK_DATA_FRAME (R267). -/
def execLinkDataFrame (f : LinkIn) (s : State) : Host.Outcome State Fault Refusal :=
  .next (s.linkFrame f 2 (fun s => s.inSequence f (fun s => s.accept f f.bytes)))

/-- VOID_FRAME (R267): in sequence it frees its UNITS at once. -/
def execVoidFrame (f : LinkIn) (s : State) : Host.Outcome State Fault Refusal :=
  .next (s.linkFrame f 8 (fun s => s.inSequence f (fun s =>
    (s.setEp f.eport { s.ep f.eport with freed := ((s.ep f.eport).freed + beAt f.bytes 14 2) % 2 ^ 32 }).accept f [])))

/-- NAK_FRAME (R268): ACK and CRED first, then every held frame from ACK onward is retransmitted (R284). -/
def execNakFrame (f : LinkIn) (s : State) : Host.Outcome State Fault Refusal :=
  .next (s.linkFrame f 6 (fun s => s.nakTaken f.eport))

/-- LINK_CTRL_FRAME (R268): carries ACK and CRED. -/
def execLinkCtrlFrame (f : LinkIn) (s : State) : Host.Outcome State Fault Refusal := .next (s.linkFrame f 4 (fun s => s))

/-- CTRL_KEEPALIVE (R268): a CTRL frame carries ACK and CRED when nothing else does. -/
def State.ctrlKeepalive (s : State) (e : Nat) : State :=
  if epNbr s.regs.cfg e ∧ s.epServes e ∧ (s.ep e).run = true then s.linkJob e (.ctl 4 0) else s

/-- CTRL_KEEPALIVE (R268). -/
def execCtrlKeepalive (eport : Nat) (s : State) : Host.Outcome State Fault Refusal := .next (s.ctrlKeepalive eport)

/-- NAK_REPEAT_TIMEOUT (R267): REPLAY_TO after a NAK with E unchanged, another may go. -/
def State.nakRepeat (s : State) (e : Nat) : State :=
  let p := s.ep e
  if p.nak = some p.expect ∧ p.nakAt + s.replayTo ≤ s.time.raw then s.setEp e { p with nak := none } else s

/-- NAK_REPEAT_TIMEOUT (R267). -/
def execNakRepeatTimeout (eport : Nat) (s : State) : Host.Outcome State Fault Refusal := .next (s.nakRepeat eport)

/-! ## Quarantine and the plan checks (R278 to R282) -/

/-- The shortest round trip among the members in service and the starting one (R274), in sixteenths of a ns. -/
def State.shortest (s : State) (e : Nat) : Option Nat :=
  let ds := ((lpMembers s.regs.cfg (epLport s.regs.cfg e)).filter (fun x => x == e || s.epServes x)).filterMap (fun x => (s.ep x).delay)
  match ds with
  | [] => none
  | d :: t => some (t.foldl min d)

/-- A member's delay exceeds the shortest by more than 2 µs; both are kept as round trips in sixteenths of a ns. -/
def State.skewed (s : State) (e : Nat) : Bool :=
  match s.shortest e, (s.ep e).delay with
  | some m, some d => decide (m + 64000 < d)
  | _, _ => false

/-- Coordinates moved one step in direction r modulo the torus extents. -/
def stepCoord (self torus r : Nat) : Nat :=
  (List.range 3).foldl (fun x a =>
    let t := bitsOf torus (4 * a + 3) (4 * a) + 1
    let v := bitsOf self (4 * a + 3) (4 * a)
    let w := if r / 2 = a then (if r % 2 = 0 then (v + 1) % t else (v + t - 1) % t) else v
    x + w % 16 * 2 ^ (4 * a)) 0

/-- The link-layer version chosen with a peer (R279), none when the ranges have no common version. -/
def State.chosenVer (s : State) (p : Peer) : Option Nat :=
  let v := min p.vmax s.mgmt.portMax
  if max p.vmin 1 ≤ v then some v else none

/-- The checks of Table 11-7 on a neighbour-side port: the first reason that fails, 0 when all pass. -/
def State.planCheck (s : State) (e : Nat) : Nat :=
  let c := s.regs.cfg
  match (s.ep e).peer with
  | none => 1
  | some p =>
    match p.identity with
    | none => 1
    | some id =>
      let lab := labelOf c (epLport c e)
      let ext := s.cfg Reg.PORT_TORUS 11 0
      let r := p.label ^^^ 1
      let want := (cfgOf c (Reg.PORT_PLAN_w2 lab)).toNat * 2 ^ 32 + (cfgOf c (Reg.PORT_PLAN_w1 lab)).toNat
      if lab = 0xF then 2
      else if (s.chosenVer p).isNone then 3
      else if 6 ≤ p.label ∨ p.ext ≠ ext ∨ p.coord ≠ stepCoord (s.cfg Reg.BOOM_SELF 11 0) ext r then 4
      else if r ≠ lab then 5
      else if want ≠ 0 ∧ want ≠ id then 6
      else if p.reason ≠ 0 ∧ p.reason ≠ 7 then 7
      else if s.skewed e then 8
      else 0

/-- Quarantine a port, or change its reason. -/
def State.quarantine (s : State) (e reason : Nat) : State :=
  if (s.ep e).state = 4 ∧ (s.ep e).reason = reason then s
  else (s.outOfService e 4 reason).quarantineNote e reason

/-- A member sends RESUME with its E and CRED (R271). -/
def State.sendResume (s : State) (e units : Nat) : State := s.linkJob e (.ctl 10 units)

/-- The round trip of a member's RESUME exchange in sixteenths of a ns: from the start of its own RESUME to the arrival of the peer's
(R274). Where the peer's came first the exchange gives none, and it is a free value (log 125); a running member whose exchange is over
keeps the delay it has. -/
def State.roundTrip (s : State) (e at' : Nat) : Option Nat × State :=
  let p := s.ep e
  let s1 := s.setEp e { p with resumeAt := none }
  let free := fun (x : State) => let r := x.drawNat (2 ^ 34); (some r.1, r.2)
  match p.resumeAt with
  | some t => if t ≤ at' then (some (at' - t), s1) else free s1
  | none => if p.run then (p.delay, s1) else free s1

/-- A RESUME frame's effect on a member in service, where it arrived at `at'` in sixteenths of a ns: with UNITS 0x0001 on both sides
the link layer goes on and retransmits from the peer's ACK; else it starts fresh (R271, R284), also one that carries frames already.
The exchange gives the member's delay (R274). -/
def State.resumed (s : State) (e ack cred units at' : Nat) : State :=
  let (d, s) := s.roundTrip e at'
  let p := s.ep e
  let s1 :=
    if p.keep ∧ units = 1 then
      let s0 := s.takeAck e ack
      let s0 := s0.setEp e { s0.ep e with peerCred := cred, run := true, delay := d, handed := false, retries := 0
                                          progressAt := s.time.raw }
      s0.retransmit e
    else
      let s0 := if p.keep ∨ p.run then s.startFresh e else s
      s0.setEp e { s0.ep e with run := true, delay := d }
  let ms := (lpMembers s1.regs.cfg (epLport s1.regs.cfg e)).filter s1.epServes
  let s2 := (ms.filter s1.skewed).foldl (fun s x => s.quarantine x 8) s1
  s2.drainPort e

/-- A port that passes every check enters service and starts its link layer (R271, R278): a member whose link came back
within 10 ms, facing the same peer, sends RESUME with UNITS 0x0001. -/
def State.enterService (s : State) (e : Nat) : State :=
  let p := s.ep e
  let same := match p.peer with | some x => p.wasPeer.isSome && x.identity == p.wasPeer | none => false
  let keep := same && decide (0 < p.upAt ∧ p.upAt ≤ p.downAt + 10000000)
  let s0 := if keep then s else s.startFresh e
  let q := s0.ep e
  let s1 := if p.state = 4 then s0.quarantineNote e 0 else s0
  let ver := match p.peer with | some x => (s.chosenVer x).getD 0 | none => 0
  let s2 := s1.setEp e { q with state := 3, reason := 0, run := false, keep := keep, ver := ver, early := none, wasPeer := none }
  let s3 := s2.sendResume e (b2n keep)
  match q.early with
  | some (a, c, u, d) => s3.resumed e a c u d
  | none => s3

/-- Check a neighbour-side port with link up against the plan (R278). -/
def State.recheck (s : State) (e : Nat) : State :=
  if !epNbr s.regs.cfg e ∨ !s.linkUp e then s
  else if (s.ep e).state = 2 ∧ (match (s.ep e).peer with | some p => p.identity.isNone | none => true) = true then s
  else
    let r := s.planCheck e
    if r ≠ 0 then s.quarantine e r else if s.epServes e then s else s.enterService e

/-- Check every neighbour-side port (R278: after a commit or an ADOPT that changes the plan). -/
def State.recheckAll (s : State) : State := (List.range 48).foldl (fun s e => s.recheck e) s

/-- LINK_RESUME_FRAME (R271). One that comes before the member has passed its own checks is kept until it does. -/
def State.linkResume (s : State) (f : LinkIn) : State :=
  let e := f.eport
  let at' := 16 * s.time.raw + f.sub
  let a := beAt f.bytes 4 2
  let c := beAt f.bytes 6 4
  let u := beAt f.bytes 14 2
  if !epNbr s.regs.cfg e ∨ !s.linkUp e then s
  else if (s.ep e).state = 4 then s.count (Reg.PORT_CNT_DISCARD (e / 4))
  else if linkBad f then (if s.epServes e then s.sendNak e else s)
  else if byteAt f.bytes 0 ≠ 10 then s
  else if s.epServes e then ((s.resumed e a c u at').watchAxes s).settle
  else s.setEp e { s.ep e with early := some (a, c, u, at') }

/-- LINK_RESUME_FRAME (R271). -/
def execLinkResumeFrame (eport : Nat) (f : LinkFrame) (s : State) : Host.Outcome State Fault Refusal := .next (s.linkResume ⟨f, eport⟩)

/-! ## LLDP (R276) -/

/-- A TLV. -/
def tlv (ty : Nat) (b : List Byte) : List Byte := beBytes 2 (ty * 512 + b.length) ++ b
/-- An Uzoken TLV. -/
def uzTlv (sub : Nat) (b : List Byte) : List Byte := tlv 127 (beBytes 3 0x5AC096 ++ beBytes 1 sub ++ b)

/-- The LLDP frame of an Ethernet port, up to its FCS. -/
def State.lldpFrame (s : State) (e : Nat) : List Byte :=
  let c := s.regs.cfg
  let l := epLport c e
  let nbr := epNbr c e
  let mac := beBytes 6 (lpMac c l)
  let lanes := sumBy (fun x => if s.epServes x then epLanes c x else 0) (lpMembers c l)
  let reason := if (s.ep e).state = 4 then (s.ep e).reason else 0
  let ttl := max 1 (ceilDiv (4 * s.cfg Reg.PORT_LLDPCTL 9 0) 1000)
  padTo (beBytes 6 0x0180C200000E ++ mac ++ beBytes 2 0x88CC ++ tlv 1 (beBytes 1 4 ++ mac) ++ tlv 2 (beBytes 1 7 ++ beBytes 1 e) ++
    tlv 3 (beBytes 2 ttl) ++ uzTlv 1 (beBytes 8 s.mgmt.identity) ++
    uzTlv 2 (beBytes 1 l ++ beBytes 1 e ++ beBytes 1 lanes ++ beBytes 1 (128 * b2n nbr + reason) ++
      beBytes 2 (if nbr then bufUnits c e else 0) ++ beBytes 2 0) ++
    uzTlv 3 (beBytes 1 (if nbr then labelOf c l else 0xF) ++ beBytes 2 (s.cfg Reg.BOOM_SELF 11 0) ++
      beBytes 2 (s.cfg Reg.PORT_TORUS 11 0) ++ [0]) ++
    uzTlv 4 (beBytes 1 1 ++ beBytes 1 s.mgmt.portMax) ++ uzTlv 5 (beBytes 4 (s.cfgW Reg.BOOM_SLICE).toNat) ++
    uzTlv 6 (beBytes 4 (s.cfgW Reg.PORT_PLANDIG_HI).toNat ++ beBytes 4 (s.cfgW Reg.PORT_PLANDIG_LO).toNat) ++ tlv 0 []) 60

/-- Send the LLDP frame of a port. -/
def State.lldpOut (s : State) (e : Nat) : State :=
  (s.setEp e { s.ep e with lldpAt := s.time.raw }).send3 e none (s.lldpFrame e)

/-- INTERVAL in raw counts. -/
def State.lldpEvery (s : State) : Nat := s.cfg Reg.PORT_LLDPCTL 9 0 * 1000000

/-- LLDP_SEND (R276): INTERVAL ms after the last one. -/
def execLldpSend (eport : Nat) (s : State) : Host.Outcome State Fault Refusal :=
  .next (if s.linkUp eport ∧ (s.ep eport).lldpAt + s.lldpEvery ≤ s.time.raw then s.lldpOut eport else s)

/-- LINK_UP (R276, R278): an LLDP frame goes out; a host-side port enters service, a neighbour-side port discovers. A
port of a retired network quad stays down (R18). -/
def State.portUp (s : State) (e : Nat) : State :=
  if epLanes s.regs.cfg e = 0 ∨ s.linkUp e ∨ s.mgmt.stage < 5 ∨ s.inMap ⟨6, 0xF, 0, 0, 0x100 + e / 4⟩ then s
  else
    let st := if epNbr s.regs.cfg e then 2 else 3
    State.lldpOut ((s.ptpFirst e).setEp e { s.ep e with state := st, reason := 0, upAt := s.time.raw }) e

/-- LINK_UP (R276). -/
def execLinkUp (eport : Nat) (s : State) : Host.Outcome State Fault Refusal := .next (s.portUp eport)

/-- Read TLVs into what a peer reports, within `fuel` TLVs: the peer, its TTL in s. -/
def readTlvs (b : List Byte) : Nat → Nat → Peer × Nat → Peer × Nat
  | 0, _, p => p
  | fuel + 1, o, (p, ttl) =>
    let h := beAt b o 2
    let ty := h / 512
    let n := h % 512
    let v := slice b (o + 2) n
    let uz := ty = 127 ∧ beAt v 0 3 = 0x5AC096
    let w := v.drop 4
    let sub := byteAt v 3
    if ty = 0 ∨ b.length < o + 2 + n then (p, ttl)
    else
      let next :=
        if ty = 1 ∧ byteAt v 0 = 4 then ({ p with mac := beAt v 1 6 }, ttl)
        else if ty = 3 then (p, beAt v 0 2)
        else if uz ∧ sub = 1 then ({ p with identity := some (beAt w 0 8) }, ttl)
        else if uz ∧ sub = 2 then ({ p with side := (byteAt w 3).testBit 7, reason := byteAt w 3 % 16, bufu := beAt w 4 2 }, ttl)
        else if uz ∧ sub = 3 then ({ p with label := byteAt w 0, coord := beAt w 1 2 % 4096, ext := beAt w 3 2 % 4096 }, ttl)
        else if uz ∧ sub = 4 then ({ p with vmin := byteAt w 0, vmax := byteAt w 1 }, ttl)
        else if uz ∧ sub = 5 then ({ p with slice := some (beAt w 0 4) }, ttl)
        else if uz ∧ sub = 6 then ({ p with plan := some (beAt w 0 8) }, ttl)
        else (p, ttl)
      readTlvs b fuel (o + 2 + n) next

/-- SLICE_DIFFER and PLAN_DIFFER of a port against what its peer last reported (R281): each rise posts its event. -/
def State.differs (s : State) (e : Nat) : State :=
  let p := s.ep e
  let plan := (s.cfgW Reg.PORT_PLANDIG_HI).toNat * 2 ^ 32 + (s.cfgW Reg.PORT_PLANDIG_LO).toNat
  let a := (p.peer.bind (·.slice)).any (· != (s.cfgW Reg.BOOM_SLICE).toNat)
  let b := (p.peer.bind (·.plan)).any (· != plan)
  let s1 := s.setEp e { p with sliceDiffer := a, planDiffer := b }
  let s2 := if a && !p.sliceDiffer then s1.post 2 3 [] else s1
  if b && !p.planDiffer then s2.post 2 4 [] else s2

/-- Compare every port's peer again, as after a commit that changes the device's own values (R281). -/
def State.differsAll (s : State) : State := (s.eports.map (·.1)).foldl State.differs s

/-- LLDP_RECEIVE (R276, R278 to R281): a host-side port that meets an IDENTITY is quarantined UNPLANNED; a neighbour-side
port whose peer's TLVs came first or changed is checked against the plan, and an in-service member whose version changes
starts fresh. -/
def State.lldpReceive (s : State) (e : Nat) (b : List Byte) : State :=
  if !s.linkUp e ∨ (parseEth b).etype ≠ 0x88CC then s
  else
    let (p, ttl) := readTlvs b 64 (parseEth b).l3 ({}, 0)
    let q := s.ep e
    let ver := if epNbr s.regs.cfg e ∧ p.identity.isSome then (s.chosenVer p).getD 0 else q.ver
    let s1 := (s.setEp e { q with peer := some p, ttl := s.time.raw + ttl * 1000000000, ver := ver }).differs e
    if !epNbr s.regs.cfg e then (if p.identity.isSome then (s1.quarantine e 2).settle else s1)
    else if q.peer = some p then s1
    else
      let s3 := s1.recheck e
      let v := (s.chosenVer p).getD 0
      let s4 := if q.state = 3 ∧ s3.epServes e ∧ q.ver ≠ v then
          let x := s3.startFresh e
          (x.setEp e { x.ep e with ver := v, run := false }).sendResume e 0
        else s3
      (s4.watchAxes s).settle

/-- LLDP_RECEIVE (R278). -/
def execLldpReceive (eport : Nat) (bytes : List Byte) (s : State) : Host.Outcome State Fault Refusal :=
  .next (s.lldpReceive eport bytes)

/-- PEER_EXPIRE (R276, R278): the peer's TTL has passed; a neighbour-side port is quarantined NOPEER. -/
def State.peerExpire (s : State) (e : Nat) : State :=
  let p := s.ep e
  if p.peer.isNone ∨ s.time.raw < p.ttl then s
  else
    let s1 := (s.setEp e { p with peer := none, ver := 0 }).differs e
    if epNbr s.regs.cfg e ∧ s.linkUp e then ((s1.quarantine e 1).watchAxes s).settle else s1

/-- PEER_EXPIRE (R276). -/
def execPeerExpire (eport : Nat) (s : State) : Host.Outcome State Fault Refusal := .next (s.peerExpire eport)

/-- NOPEER_TIMEOUT (R278): no IDENTITY within 3 × INTERVAL of link up. -/
def State.nopeerTimeout (s : State) (e : Nat) : State :=
  let p := s.ep e
  if epNbr s.regs.cfg e ∧ p.state = 2 ∧ (match p.peer with | some x => x.identity.isNone | none => true) = true ∧
      p.upAt + 3 * s.lldpEvery ≤ s.time.raw then s.quarantine e 1 else s

/-- NOPEER_TIMEOUT (R278). -/
def execNopeerTimeout (eport : Nat) (s : State) : Host.Outcome State Fault Refusal := .next (s.nopeerTimeout eport)

/-! ## PFC (R261) -/

/-- PFC_FRAME_RECEIVE (R261): each priority with PFC that the frame enables is paused, or released by a time of zero; a
neighbour-side port discards and counts it. -/
def State.pfcFrame (s : State) (e : Nat) (b : List Byte) : State :=
  let o := (parseEth b).l3
  if !s.linkUp e ∨ (parseEth b).etype ≠ 0x8808 ∨ beAt b o 2 ≠ 0x0101 then s
  else if epNbr s.regs.cfg e then s.count (Reg.PORT_CNT_DISCARD (e / 4))
  else
    let on := fun n => (beAt b (o + 2) 2).testBit n && (epPfc s.regs.cfg e).testBit n
    let time := fun n => beAt b (o + 4 + 2 * n) 2
    let p := s.ep e
    let keep := p.paused.filter (fun n => !(on n && time n == 0))
    let add := pick 8 (fun n => on n && time n != 0 && !keep.contains n)
    (s.setEp e { p with paused := keep ++ add }).flushWait e

/-- PFC_FRAME_RECEIVE (R261). -/
def execPfcFrameReceive (eport : Nat) (bytes : List Byte) (s : State) : Host.Outcome State Fault Refusal :=
  .next (s.pfcFrame eport bytes)

/-- PFC_PAUSE_END (R32): the pause of a priority ends. -/
def execPfcPauseEnd (eport prio : Nat) (s : State) : Host.Outcome State Fault Refusal :=
  .next ((s.setEp eport { s.ep eport with paused := (s.ep eport).paused.filter (· != prio) }).flushWait eport)

/-! ## The egress at a tick boundary -/

/-- What waits for an egress goes on at a tick boundary (R32, R272); frames held for a link that has not come back are discarded. -/
def State.egressTick (s : State) : State :=
  let s1 := (s.eports.map (·.1)).foldl State.holdExpire s
  (s1.lports.map (·.1)).foldl (fun s l => s.drainWait l 64) s1.flushWaits

/-! ## ADOPT (R283) -/

/-- Words 0 to 2 of the six plan entries. -/
def planBytes (c : Tbl Word) : List Byte :=
  (List.range 6).flatMap (fun r => leBytes 4 (cfgOf c (Reg.PORT_PLAN_w0 r)).toNat ++ leBytes 4 (cfgOf c (Reg.PORT_PLAN_w1 r)).toNat ++
    leBytes 4 (cfgOf c (Reg.PORT_PLAN_w2 r)).toNat)

/-- A plan after an ADOPT with STATUS OK of a port of logical port l whose peer faces direction r with an identity (R283). A peer
whose LABEL names no direction faces no entry, and none becomes valid (log 28). -/
def adoptedPlan (l r id : Nat) (c : Tbl Word) : Tbl Word :=
  let others := ((List.range 6).filter (fun k => k != r && planPort c k == some l)).map
    (fun k => (Reg.PORT_PLAN_w0 k, setFld (cfgOf c (Reg.PORT_PLAN_w0 k)) 5 0 0x3F))
  let own := if r < 6 then [(Reg.PORT_PLAN_w0 r, setFld (setFld (cfgOf c (Reg.PORT_PLAN_w0 r)) 31 31 1) 5 0 l),
    (Reg.PORT_PLAN_w1 r, BitVec.ofNat 32 id), (Reg.PORT_PLAN_w2 r, BitVec.ofNat 32 (id / 2 ^ 32))] else []
  (others ++ own).foldl (fun (t : Tbl Word) (x : Nat × Word) => Tbl.put t x.1 x.2) c

/-- STATUS of an ADOPT of port e (R283). -/
def State.adoptStatus (s : State) (e : Nat) : Nat :=
  let c := s.regs.cfg
  let p := s.ep e
  let l := epLport c e
  let r := (match p.peer with | some x => x.label | none => 0xF) ^^^ 1
  if p.state ≠ 4 then 1
  else if !epNbr c e ∨ !([2, 5, 6].contains p.reason) then 2
  else if s.otherMembers e ≠ [] then 3
  else if (match (if r < 6 then planPort c r else none) with
    | some k => k != l && k != 0x3F && (lpMembers c k).any s.epServes
    | none => false) then 4
  else 0

/-- The plan's changes by an ADOPT with STATUS OK, in the committed and the shadow plan, each by its own entries (R283). -/
def State.adoptPlan (s : State) (e : Nat) : State :=
  let p := (s.ep e).peer.getD {}
  let up := adoptedPlan (epLport s.regs.cfg e) (p.label ^^^ 1) (p.identity.getD 0)
  { s with regs.cfg := up s.regs.cfg, regs.shadow := up s.regs.shadow, regs.frozen := s.regs.frozen.map up }

/-- ADOPT with its origin (R283, R388): the status is kept, the change journaled, ADOPT_DONE posted, and after OK every
neighbour-side port is checked again. -/
def State.adoptFrom (s : State) (e origin : Nat) : State :=
  let st := s.adoptStatus e
  let s1 := if st = 0 then s.adoptPlan e else s
  let v := (sha256 (planBytes s.regs.cfg ++ planBytes s1.regs.cfg)).take 16
  let s2 := State.setRw s1 Reg.PORT_CMDSTAT (BitVec.ofNat 32 st)
  let s3 := (s2.journal 6 st e (some v) origin).post 2 2 []
  if st = 0 then ((s3.recheckAll).watchAxes s).settle else s3

/-- A write of PORT_CMD with ADOPT (R283, R284): it waits for the next tick boundary, where it applies after any configuration; one
written while PORT_CMDSTAT.BUSY is 1 is ignored. -/
def State.adoptCmd (s : State) (e origin : Nat) : State :=
  if s.mgmt.adopt.isSome then s else { s with mgmt.adopt := some (e, origin), mgmt.acts := s.mgmt.acts ++ [.adopt] }

/-- ADOPT (R283). -/
def execAdopt (eport : Nat) (s : State) : Host.Outcome State Fault Refusal := .next (s.adoptCmd eport 1)

end Sys2Proof.Machine
end

