-- ==== Sys2Proof/Machine/Commit.lean ====
section
/-! DEFINITION. Staged configuration (R386): the checks of Table 16-4 over a configuration set, and its application. -/
namespace Sys2Proof.Machine

/-! ## The checks of Table 16-4 -/

/-- A failing check: the BAR0 offset of the register at fault, 0 when none is. -/
abbrev Fails := List Nat

/-- Offsets of the numbers below n that fail. -/
def failsAt (n : Nat) (off : Nat → Nat) (bad : Nat → Bool) : Fails := (pick n bad).map off

/-- A value outside a range. -/
def outside (v lo hi : Nat) : Bool := !(decide (lo ≤ v) && decide (v ≤ hi))

/-- FIELD for the fields of a valid operation descriptor (Table 9-18); one whose word 0 no set lists has VALID clear, its Reset
column. -/
def opFieldBad (c : Tbl Word) (n : Nat) : Fails :=
  match Tbl.find c (Reg.BOOM_OP_w0 n) with
  | none => []
  | some w0 =>
    let fmt := fld w0 27 24
    let kind := fld w0 30 28
    let sc := signed 8 (fld w0 15 8)
    let ext := fld (cfgOf c Reg.BOOM_SLICE) 23 12
    let n3 := (bitsOf ext 3 0 + 1) * (bitsOf ext 7 4 + 1) * (bitsOf ext 11 8 + 1)
    let ranks := n3 * (fld w0 21 16 + 1)
    if !bitAt w0 31 then []
    else
      (if 4 ≤ kind ∨ fmt < 3 ∨ 8 < fmt ∨ (fmt = 8 ∧ bitAt w0 23) ∨ (fmt ≠ 7 ∧ sc ≠ 0) ∨ 19 < sc then [Reg.BOOM_OP_w0 n] else []) ++
      (if outside (fld (cfgOf c (Reg.BOOM_OP_w1 n)) 22 0) 1 4194304 then [Reg.BOOM_OP_w1 n] else []) ++
      (if kind = 3 ∧ ranks ≤ fld (cfgOf c (Reg.BOOM_OP_w2 n)) 17 0 then [Reg.BOOM_OP_w2 n] else []) ++
      (if outside (fld (cfgOf c (Reg.BOOM_OP_w3 n)) 19 0) 1 1000000 then [Reg.BOOM_OP_w3 n] else [])

/-- FIELD (code 1): a reserved encoding, or a value outside its table. -/
def fieldFails (c : Tbl Word) : Fails :=
  let f := fun r hi lo => fld (cfgOf c r) hi lo
  let one := fun (r : Nat) (b : Bool) => if b then [r] else []
  one Reg.GCTL_MSGBUF (outside (f Reg.GCTL_MSGBUF 28 24) 10 24 || f Reg.GCTL_MSGBUF 15 0 == 0) ++
  one Reg.GCTL_MEMCTL (f Reg.GCTL_MEMCTL 7 0 == 0) ++
  failsAt 64 Reg.GCTL_GRANT_w2 (fun g => bitAt (cfgOf c (Reg.GCTL_GRANT_w0 g)) 31 && cfgOf c (Reg.GCTL_GRANT_w2 g) == 0) ++
  one Reg.TIME_RING_SIZE (f Reg.TIME_RING_SIZE 4 0 != 0 && outside (f Reg.TIME_RING_SIZE 4 0) 4 16) ++
  failsAt 12 Reg.PORT_QCFG (fun q => f (Reg.PORT_QCFG q) 29 28 == 3) ++
  one Reg.PORT_LLDPCTL (outside (f Reg.PORT_LLDPCTL 9 0) 1 1000) ++
  one Reg.PORT_LINKTMR (f Reg.PORT_LINKTMR 15 8 == 0 || f Reg.PORT_LINKTMR 7 0 == 0) ++
  one Reg.CONV_TMR0 (f Reg.CONV_TMR0 31 16 == 0 || f Reg.CONV_TMR0 15 0 == 0) ++
  one Reg.CONV_TMR1 (f Reg.CONV_TMR1 31 16 == 0 || f Reg.CONV_TMR1 15 0 == 0) ++
  one Reg.CONV_RA0 (f Reg.CONV_RA0 31 16 == 0 || f Reg.CONV_RA0 15 0 == 0) ++
  one Reg.CONV_RA1 (f Reg.CONV_RA1 31 16 == 0 || f Reg.CONV_RA1 15 0 == 0) ++
  one Reg.BOOM_CTL (f Reg.BOOM_CTL 15 0 == 0) ++
  one Reg.BOOM_TMR (f Reg.BOOM_TMR 23 16 == 0 || f Reg.BOOM_TMR 15 8 == 0 || f Reg.BOOM_TMR 7 0 == 0) ++
  (List.range 8192).flatMap (opFieldBad c) ++
  failsAt 128 Reg.RPLY_TMPL_hdr (fun t =>
    let h := cfgOf c (Reg.RPLY_TMPL_hdr t)
    bitAt h 31 && (fld h 30 29 == 3 || decide (256 < fld h 8 0))) ++
  one Reg.RPR_CTL (f Reg.RPR_CTL 7 0 == 0) ++
  one Reg.RPR_CRUISE (outside (f Reg.RPR_CRUISE 11 0) 100 2205) ++
  one Reg.RPR_HB (outside (f Reg.RPR_HB 9 0) 10 1000 || (f Reg.RPR_HB 31 31 == 1 && f Reg.RPR_HB 21 16 == 0)) ++
  one Reg.TWIN_TMR (f Reg.TWIN_TMR 15 8 == 0 || outside (f Reg.TWIN_TMR 7 0) 5 40)

/-- Ethernet ports a set enables. -/
def epsOn (c : Tbl Word) : List Nat := pick 48 (fun e => decide (0 < epLanes c e))

/-- The EPCFG register of an Ethernet port. -/
def epReg (e : Nat) : Nat := Reg.PORT_EPCFG (e / 4) (e % 4)

/-- PORT (code 2): R262 and R277. -/
def portFails (c : Tbl Word) : Fails :=
  let on := epsOn c
  let bad := fun e =>
    let l := epLport c e
    let ms := lpMembers c l
    decide (47 < l) || (!epNbr c e && decide (1 < ms.length)) || ms.any (fun x => epNbr c x != epNbr c e) ||
    decide (8 < sumBy (epLanes c) ms)
  let ext := fun r => bitsOf (fld (cfgOf c Reg.PORT_TORUS) 11 0) (4 * (r / 2) + 3) (4 * (r / 2))
  let valid := fun r => bitAt (cfgOf c (Reg.PORT_PLAN_w0 r)) 31
  let lp := fun r => fld (cfgOf c (Reg.PORT_PLAN_w0 r)) 5 0
  let plan := fun r => valid r &&
    ((lp r != 0x3F && !(lpMembers c (lp r)).any (epNbr c)) ||
     (List.range 6).any (fun k => k != r && valid k && lp k == lp r && lp r != 0x3F) || ext r == 0)
  (on.filter bad).map epReg ++ failsAt 6 Reg.PORT_PLAN_w0 plan ++
  (if 12 < (on.filter (epNbr c)).length then [0] else [])

/-- The bits of D, A and the operand field that a parser opcode uses (Table 3-2), none for a reserved opcode. -/
def insUses (i : Nat) : Option Nat :=
  let o := bitsOf i 31 26
  let dd := 0xF * 2 ^ 22
  let aa := 0xF * 2 ^ 18
  let im := i.testBit 17
  if o = 0x00 ∨ o = 0x32 then some 0
  else if o = 0x01 ∨ o = 0x02 then some (dd + 0x3FFFF)
  else if 0x03 ≤ o ∧ o ≤ 0x06 then some (dd + aa + 0x20000 + (if im then 0xFFFF else 0xF000))
  else if o = 0x07 ∨ o = 0x08 then some (dd + aa + 0x1F)
  else if o = 0x09 then some (dd + aa + 0x3FF)
  else if o = 0x10 then some 0x3F
  else if o = 0x11 then some (aa + 0x38000 + (if im then 0x7FC0 else 0x7800) + 0x3F)
  else if o = 0x18 then some (dd + aa + 0x3FFFF)
  else if o = 0x19 then some (aa + 0x3FC00)
  else if o = 0x1A then some (aa + 0x3000F)
  else if o = 0x20 then some (aa + 0x1F)
  else if o = 0x21 then some 0xFFFF
  else if o = 0x30 then some 0x38000
  else if o = 0x31 then some 0xFF
  else none

/-- Bytes of W. -/
def wBytes (w : Nat) : Nat := if w = 0 then 1 else if w = 1 then 2 else 4

/-- R80's checks of instruction k of a handler of n instructions. -/
def insBad (i k n : Nat) : Bool :=
  let o := bitsOf i 31 26
  let w := bitsOf i 17 16
  let disp := bitsOf i 5 0
  match insUses i with
  | none => true
  | some m =>
    (i % 2 ^ 26) &&& (2 ^ 26 - 1 - m) != 0 ||
    (o == 0x01 && w == 3) ||
    (o == 0x1A && (w == 3 || decide (16 < bitsOf i 3 0 + wBytes w))) ||
    ((o == 0x18 || o == 0x19) && bitsOf i 17 14 == 0xF) ||
    (o == 0x09 && decide (32 < bitsOf i 9 5 + bitsOf i 4 0 + 1)) ||
    (o == 0x20 && decide (0x0B < bitsOf i 4 0)) ||
    (o == 0x30 && decide (1 < bitsOf i 17 15)) ||
    (o == 0x31 && outside (bitsOf i 7 0) 0x20 0x24) ||
    ((o == 0x10 || o == 0x11) && (disp == 0 || decide (n ≤ k + disp))) ||
    (k + 1 == n && !(o == 0x30 || o == 0x31 || o == 0x32))

/-- PARSER (code 3): R80. A handler's own fields are reported at its word 0, an instruction at its PRS_IMEM word. -/
def parserFails (c : Tbl Word) : Fails :=
  let on := fun h => bitAt (cfgOf c (Reg.PRS_HDL_w0 h)) 31
  let hdl := fun h =>
    let w0 := cfgOf c (Reg.PRS_HDL_w0 h)
    let w2 := cfgOf c (Reg.PRS_HDL_w2 h)
    let len := fld w0 6 0
    let start := fld w0 27 16
    let ml := fld (cfgOf c (Reg.PRS_HDL_w1 h)) 18 0
    let tm := fun (v : Nat) (t : Nat) => bitAt w2 v && !bitAt (cfgOf c (Reg.RPLY_TMPL_hdr t)) 31
    if !on h then []
    else
      (if outside len 1 64 || decide (4096 < start + len) || outside ml 1 0x40000 ||
          tm 15 (fld w2 14 8) || tm 23 (fld w2 22 16) || tm 31 (fld w2 30 24) then [Reg.PRS_HDL_w0 h] else []) ++
      (if outside len 1 64 || decide (4096 < start + len) then []
       else failsAt len (fun k => Reg.PRS_IMEM (start + k)) (fun k => insBad (cfgOf c (Reg.PRS_IMEM (start + k))).toNat k len))
  failsAt 64 Reg.PRS_SEL_w0 (fun n =>
    let w4 := cfgOf c (Reg.PRS_SEL_w4 n)
    bitAt w4 31 && !on (fld w4 5 0)) ++
  (List.range 64).flatMap hdl

/-- R50's checks of one fill record of a template of carriage `car` with image length n. -/
def fillBad (car n : Nat) (r : Nat × Nat × Nat × Nat) : Bool :=
  let (off, len, src, arg) := r
  decide (0x0E ≤ src) || (src == 8 && decide (3 < arg)) || (src == 9 && decide (1 < arg)) || (src == 12 && decide (2 < arg)) ||
  ((src == 1 || src == 13) && outside len 1 64) || (src == 13 && decide (16 < arg + len)) ||
  (src == 1 && decide (1024 < arg * 4 + len)) || ((src == 8 || src == 9) && arg == 0 && car != 0) ||
  (src == 8 && arg == 1 && car != 1) ||
  (car == 2 && ((src == 8 && arg == 2) || (src == 9 && arg == 1) || (decide (4 ≤ src) && decide (src ≤ 7)))) ||
  decide (n < off + fillWidth car len src arg)

/-- TEMPLATE (code 4): R50, for the valid templates. -/
def templateFails (c : Tbl Word) : Fails :=
  failsAt 128 Reg.RPLY_TMPL_hdr (fun t =>
    let h := cfgOf c (Reg.RPLY_TMPL_hdr t)
    let car := fld h 30 29
    let n := fld h 8 0
    let least := if car = 0 then 90 else if car = 1 then 110 else 62
    bitAt h 31 && (decide (n < least) || (tmplFills c t).any (fillBad car n)))

/-- A port is host-side and a priority has no PFC there. -/
def noPfc (c : Tbl Word) (l p : Nat) : Bool :=
  match lpMembers c l with
  | e :: _ => !epNbr c e && !(epPfc c e).testBit p
  | [] => true

/-- DEST (code 5): R56, and BOOM_HOST.PCP without PFC while the boom is enabled. -/
def destFails (c : Tbl Word) : Fails :=
  failsAt 63 Reg.RPLY_DEST_w0 (fun i =>
    let w := cfgOf c (Reg.RPLY_DEST_w0 i)
    bitAt w 31 && (fld w 30 29 == 3 || noPfc c (fld w 5 0) (fld w 15 13))) ++
  (if bitAt (cfgOf c Reg.BOOM_CTL) 31 ∧ noPfc c (fld (cfgOf c Reg.BOOM_HOST) 5 0) (fld (cfgOf c Reg.BOOM_HOST) 14 12) then
    [Reg.BOOM_HOST] else [])

/-- MSGBUF_SMALL (code 6): R387. -/
def msgbufSmall (c : Tbl Word) : Fails :=
  let part := 2 ^ fld (cfgOf c Reg.GCTL_MSGBUF) 28 24
  failsAt 64 Reg.PRS_HDL_w1 (fun h =>
    bitAt (cfgOf c (Reg.PRS_HDL_w0 h)) 31 && decide (part < fld (cfgOf c (Reg.PRS_HDL_w1 h)) 18 0 * 64))

/-- MSGBUF_POOL (code 7): R387, under the stripe modes of the set. -/
def State.msgbufPool (s : State) (c : Tbl Word) : Fails :=
  let pool := fun d => if (s.die d).lost then 0 else (pick 24 (fun t => stripeModeOf c t == 3)).length * 2 ^ 30
  if (pick 4 s.dieOk).any (fun d => decide (pool d < s.poolLoaded d + s.msgBufShare c d)) then [Reg.GCTL_MSGBUF] else []

/-- SLICE (code 8): R218. -/
def sliceFails (c : Tbl Word) : Fails :=
  let w := cfgOf c Reg.BOOM_SLICE
  let me := fld (cfgOf c Reg.BOOM_SELF) 11 0
  let bad := fun a =>
    let t := bitsOf (fld (cfgOf c Reg.PORT_TORUS) 11 0) (4 * a + 3) (4 * a) + 1
    let n := bitsOf (fld w 23 12) (4 * a + 3) (4 * a) + 1
    let o := bitsOf (fld w 11 0) (4 * a + 3) (4 * a)
    let v := bitsOf me (4 * a + 3) (4 * a)
    (bitAt w (24 + a) && n != t) || decide (n ≤ (v + 16 * t - o) % t)
  if (List.range 3).any bad then [Reg.BOOM_SLICE] else []

/-- ALIGN (code 9): the bases of Table 12-10 and Table 9-16. -/
def alignFails (c : Tbl Word) : Fails :=
  let net := if bitAt (cfgOf c Reg.BOOM_HOST) 31 then 3 else 0
  (if fld (cfgOf c Reg.TIME_RING_LO) 11 0 ≠ 0 then [Reg.TIME_RING_LO] else []) ++
  (if fld (cfgOf c (Reg.BOOM_NET net)) 11 0 ≠ 0 then [Reg.BOOM_NET net] else [])

/-- GRANT (code 0xA): R340. -/
def grantFails (c : Tbl Word) : Fails :=
  failsAt 64 Reg.GCTL_GRANT_w0 (fun g =>
    let b := (cfgOf c (Reg.GCTL_GRANT_w1 g)).toNat * 65536
    let e := b + (cfgOf c (Reg.GCTL_GRANT_w2 g)).toNat * 65536
    bitAt (cfgOf c (Reg.GCTL_GRANT_w0 g)) 31 &&
    (decide (dramEnd < e) ||
     (List.range 24).any (fun t => decide (b < (t + 1) * 2 ^ 32 ∧ t * 2 ^ 32 < e) && decide (2 ≤ stripeModeOf c t))))

/-- The armed ACTIVATE of a handle names a staged version that has been freed (R131). -/
def Handle.unready (x : Handle) : Bool := x.armActivate.isSome && x.armActivate != x.staged.map (·.number)

/-- MODEL_NOT_READY (code 0xB): an armed ACTIVATE whose staged version has been freed (R131). With an UNLOAD of the handle armed beside
it the UNLOAD applies and the commit is not rejected (DESIGN CHOICE, log 179). -/
def State.notReady (s : State) : Bool := s.handles.any (fun h => !h.2.armUnload && h.2.unready)

/-- The ring base of a set. -/
def ringOf (c : Tbl Word) : Nat := (cfgOf c Reg.JRNL_RING_HI).toNat * 2 ^ 32 + (cfgOf c Reg.JRNL_RING_LO).toNat

/-- EXACT of a set. -/
def exactOf (c : Tbl Word) : Bool := bitAt (cfgOf c Reg.GCTL_MODE) 31

/-- FELL_PENDING (code 0xC): R305, R308. -/
def State.fellFails (s : State) (c : Tbl Word) : Fails :=
  if s.time.fell.any (fun f => f.2.kind == 3) then [0]
  else if s.time.fell.any (fun f => f.2.kind == 2) && exactOf c != s.exact then [Reg.GCTL_MODE] else []

/-- JOURNAL_FULL (code 0xD): R390, for changes of management origin, unless the commit sets JRNL_RING. -/
def State.fullFails (s : State) (c : Tbl Word) (origin : Nat) : Fails :=
  if (origin = 1 ∨ origin = 2) ∧ s.jrnlRefuses ∧ ringOf c = s.ringBase then [0] else []

/-- JRNL_RING (code 0xF): R389. -/
def State.ringFails (s : State) (c : Tbl Word) : Fails :=
  let b := ringOf c
  if b = 0 then (if s.regs.firstCommit then [] else [Reg.JRNL_RING_LO])
  else if b % 2 ^ 26 ≠ 0 ∨ dramEnd ≤ b ∨ stripeModeOf c (b / 2 ^ 32) ≠ 2 ∨ 2 ^ 31 < b % 2 ^ 32 + 2 ^ 26 then [Reg.JRNL_RING_LO]
  else []

/-- The lowest failing register, 0 when no register is at fault. -/
def lowest (l : Fails) : Nat := (leastBy id (l.filter (· != 0))).getD 0

/-- Validation of a set (R386): the first failing code and its offset, (0, 0) when it passes. A felling's set is not held to
FELL_PENDING and JOURNAL_FULL, which FELL's own checks decide (R304). -/
def State.validateSet (s : State) (c : Tbl Word) (origin : Nat) (fell : Bool) : Nat × Nat :=
  let checks : List (Nat × Fails) :=
    [(1, fieldFails c), (2, portFails c), (3, parserFails c), (4, templateFails c), (5, destFails c), (6, msgbufSmall c),
     (7, s.msgbufPool c), (8, sliceFails c), (9, alignFails c), (0xA, grantFails c), (0xB, if s.notReady then [0] else []),
     (0xC, if fell then [] else s.fellFails c), (0xD, if fell then [] else s.fullFails c origin), (0xF, s.ringFails c)]
  match checks.find? (fun x => x.2 != []) with
  | none => (0, 0)
  | some (r, l) => (r, lowest l)

/-! ## Activation and unloading at a commit (R128, R130, R131) -/

/-- Shadowing stops for the lanes whose trees change (R103). -/
def State.stopShadows (s : State) (lanes : List (Nat × Nat × Nat)) : State :=
  let keys := (s.units.partner.filter (fun p =>
    lanes.contains (p.1 / 256, p.1 / 16 % 16, p.2) && !s.units.shadowOff.contains p.1)).map (·.1)
  { s with units.shadowOff := s.units.shadowOff ++ keys }

/-- The staged version of a handle becomes its serving version. -/
def State.activate (s : State) (h : Nat) : State :=
  let x := s.handle h
  match x.staged with
  | none => s.setHandle h { x with armActivate := none }
  | some v =>
    let s1 := s.setHandle h { x with serving := some v, staged := none, old := x.serving.toList ++ x.old, armActivate := none }
    s1.stopShadows (v.lanesUsed ++ (match x.serving with | some o => o.lanesUsed | none => []))

/-- UNLOAD at its boundary: the handle serves nothing; of a drained handle the messages of the admission queue are answered
UNKNOWN_MODEL, and so are waiting sequence tokens, whose contexts close (R130, R160, R211). -/
def State.unloadNow (s : State) (h : Nat) : State :=
  let x := s.handle h
  let s1 := s.setHandle h { x with serving := none, old := x.serving.toList ++ x.old, armActivate := none, armUnload := false }
  let s1 := s1.stopShadows (match x.serving with | some o => o.lanesUsed | none => [])
  let mine := s1.ctxs.filter (fun c => c.2.handle == h)
  let waiting := (s1.msgs.filter (fun m => m.2.target == h && (s1.runOfSlot m.1).isNone &&
    ((x.drained && x.queue.contains m.1) ||
     (match m.2.ctx with | some k => mine.any (fun c => c.1 == k) && (m.2.stage == .waiting || m.2.stage == .queued) | none => false)))).map (·.1)
  let s2 := waiting.foldl (fun s n => s.answerMsg n stUnknownModel 0 0) s1
  (mine.map (·.1)).foldl (fun s k => s.closeCtx k) s2

/-- Every armed ACTIVATE and UNLOAD takes effect; where both are armed, UNLOAD applies (R131). One armed between a commit's GO and the
boundary where it applies takes effect with that commit (DESIGN CHOICE, log 178). -/
def State.armsApply (s : State) : State :=
  let armed := (s.handles.filter (fun h => h.2.armUnload || (h.2.armActivate.isSome && !h.2.unready))).map (fun h => (h.1, h.2.armUnload))
  armed.foldl (fun (s : State) (x : Nat × Bool) => if x.2 then s.unloadNow x.1 else s.activate x.1) s

/-! ## Mode changes (R310, R311) -/

/-- Keep a change of the mode for the generation steps that are due before it (R310). -/
def State.keepMode (s : State) (fell : Option (Nat × Nat × Nat)) (old : Bool) : State :=
  { s with time.modes := if s.ctxs.any (fun c => c.2.gen.isSome) then ⟨s.time.tick, fell, old⟩ :: s.time.modes else [] }

/-- The mode changes: the change is journaled, and kept for the generation steps due before it. -/
def State.modeChange (s : State) (new : Bool) (origin : Nat) : State :=
  (if origin = 5 then s else s.keepMode none (!new)).journal 7 (b2n new) 0 none origin

/-! ## Application -/

/-- The registers whose value a set changes, ascending, with their new values (Table 16-14). -/
def changedRegs (old new : Tbl Word) : List (Nat × Word) :=
  let offs := (new.map (·.1)) ++ (old.map (·.1)).filter (fun o => (Tbl.find new o).isNone)
  let both := offs.foldl (fun (t : Tbl Word) o => if cfgOf old o = cfgOf new o then t else Tbl.put t o (cfgOf new o)) []
  both

/-- VALUE of a COMMIT entry (Table 16-14): bytes 0 to 15 of the SHA-256 of the (offset, value) pairs. -/
def changeDigest (ch : List (Nat × Word)) : List Byte :=
  (sha256 (ch.flatMap (fun x => leBytes 4 x.1 ++ leBytes 4 x.2.toNat))).take 16

/-- Ethernet ports that a set changes (R263). -/
def portsChanged (old new : Tbl Word) : List Nat :=
  pick 48 (fun e => epLanes old e != epLanes new e || quadMode old (e / 4) != quadMode new (e / 4) ||
    quadNbr old (e / 4) != quadNbr new (e / 4) || (decide (0 < epLanes new e) && epLport old e != epLport new e))

/-- The bits of a word that a mask names, taken from a value. -/
def maskIn (old val m : Word) : Word := (old &&& ~~~m) ||| (val &&& m)

/-- A set with the RWL fields of another: the first successful commit fixes them until the next reset (R6, R389), so a write to
one between that commit's GO and its application never takes effect. -/
def keepRwl (old new : Tbl Word) : Tbl Word :=
  Tbl.mapVals new (fun off w => maskIn w (cfgOf old off) (regMask off .rwl))

/-- A configuration set applies as a commit with an origin (R386, R263, R310, R370, R389): the RWL fields that an earlier commit
fixed stay (R6); its ports go down and train again, the mode changes, ACTIVATEs and UNLOADs take effect when `arms`, the journal entry is written, and ports whose plan
changed are checked again. -/
def State.applySet (s : State) (c : Tbl Word) (origin : Nat) (arms : Bool) : State :=
  let old := s.regs.cfg
  let c := if s.regs.firstCommit then keepRwl old c else c
  let ports := portsChanged old c
  let s1 := (ports.filter (fun e => 0 < epLanes old e)).foldl (fun s e => s.portGone e) s
  let s2 := { s1 with regs.cfg := c, regs.firstCommit := true, regs.shadow := keepRwl c s1.regs.shadow }
  let s3 := ports.foldl (fun s e => s.setEp e { s.ep e with state := if 0 < epLanes c e then 1 else 0 }) s2
  let s4 := if exactOf old ≠ exactOf c then s3.modeChange (exactOf c) origin else s3
  let s5 := if arms then s4.armsApply else s4
  let ch := changedRegs old c
  let s6 := (s5.journal 1 0 ch.length (some (changeDigest ch)) origin).settleJrnl
  let s7 := if bitAt (cfgOf c Reg.TWIN_CTL) 31 ∧ !bitAt (cfgOf old Reg.TWIN_CTL) 31 then
      State.twinTo { s6 with twin.since := s6.time.raw } 1 0 origin else s6
  let plan := ch.any (fun x => x.1 == Reg.PORT_TORUS || (decide (Reg.PORT_PLAN_w0 0 ≤ x.1) && decide (x.1 < Reg.PORT_PLAN_w0 6)))
  let s8 := (if plan then s7.recheckAll else s7).differsAll
  (s8.watchAxes s).settle

/-- Reject a commit (R386): a rejected commit applies nothing; reason MODEL_NOT_READY disarms the ACTIVATE (R131). -/
def State.reject (s : State) (reason off : Nat) : State :=
  let s1 := if reason = 0xB then { s with handles := Tbl.mapVals s.handles (fun _ h =>
      if h.unready then { h with armActivate := none } else h) } else s
  { s1 with mgmt.commit := { s1.mgmt.commit with busy := false, valid := false, due := false, reason := reason, offset := off }
            regs.frozen := none }

/-- GCTL_COMMITSTAT.BUSY (R386): a commit is in progress, or a FELL of KIND COMMIT that has been taken waits to be validated (R305). -/
def State.commitBusy (s : State) : Bool := s.mgmt.commit.busy || s.mgmt.mbox.any (fun c => c.taken.isSome)

/-- A write of GCTL_COMMIT.GO with its origin (R386): validation of the shadow set starts; one written while a commit is busy
posts COMMIT_REJECTED with reason BUSY. -/
def State.goCommit (s : State) (origin : Nat) : State :=
  if s.commitBusy then s.post 0 1 [(0xE, 8), (0, 32)]
  else { s with mgmt.commit := { s.mgmt.commit with busy := true, valid := false, origin := origin }, regs.frozen := some s.regs.shadow }

/-- COMMIT_GO (R386). -/
def execCommitGo (s : State) : Host.Outcome State Fault Refusal := .next (s.goCommit 1)

/-- COMMIT_VALIDATED (R386): validation of the frozen set completes; it waits while a Doze entry or a wake is in progress (R396). -/
def State.commitValidated (s : State) : State :=
  match s.regs.frozen with
  | none => s
  | some c =>
    if !s.mgmt.commit.busy ∨ s.mgmt.commit.valid ∨ s.moving then s
    else
      let r := s.validateSet c s.mgmt.commit.origin false
      if r.1 = 0 then { s with mgmt.commit := { s.mgmt.commit with valid := true } }
      else (s.reject r.1 r.2).post 0 1 [(r.1, 8), (r.2, 32)]

/-- COMMIT_VALIDATED (R386). -/
def execCommitValidated (s : State) : Host.Outcome State Fault Refusal := .next s.commitValidated

/-- A validated commit applies at the first tick boundary after its validation (R386), and posts COMMIT_DONE. -/
def State.commitApply (s : State) : State :=
  match s.regs.frozen with
  | none => s
  | some c =>
    if !s.mgmt.commit.valid || !s.mgmt.commit.due then s
    else
      let s1 := { s with regs.frozen := none
                         mgmt.commit := { s.mgmt.commit with busy := false, valid := false, due := false, reason := 0, offset := 0 } }
      (s1.applySet c s.mgmt.commit.origin true).post 0 0 []

end Sys2Proof.Machine
end

