-- ==== Sys2Proof/Machine/TimeOps.lean ====
section
/-! DEFINITION. Device time: increment writes and steps (R287, R291, R292), pulses and captures (R301 to R303), felling times
(R304 to R307). -/
namespace Sys2Proof.Machine

/-! ## Increment writes and steps -/

/-- Change a register that holds RW fields in its bits hi:lo. -/
def State.putRw (s : State) (off hi lo v : Nat) : State := s.setRw off (setFld (s.rwW off) hi lo v)

/-- The management commands that wait, with a write that waits for the boundary put last: of two writes of one kind the last counts
(R308). -/
def State.waitAct (s : State) (a : MgmtAct) : List MgmtAct := s.mgmt.acts.filter (· != a) ++ [a]

/-- A write to TIME_INC_NS with an origin (R287): it waits for the next boundary, or is refused. -/
def State.incWrite (s : State) (val : Word) (origin : Nat) : State :=
  let inc := fld val 0 0 * 2 ^ 32 + s.time.incFrac
  if inc < 0xFFBE76C9 ∨ 0x100418937 < inc then (s.count Reg.TIME_CNT_REFUSE).post 1 0 []
  else { s with time.pendInc := some (inc, origin), mgmt.acts := s.waitAct .inc }

/-- TIME_INC_WRITE (R287). -/
def execTimeIncWrite (val : Word) (s : State) : Host.Outcome State Fault Refusal := .next (s.incWrite val 1)

/-- The step magnitude in ns. -/
def State.stepMag (s : State) : Nat :=
  ((s.rwW Reg.TIME_STEP_SEC_HI).toNat * 2 ^ 32 + (s.rwW Reg.TIME_STEP_SEC_LO).toNat) * 1000000000 + s.rw Reg.TIME_STEP_NS 29 0

/-- A write to TIME_STEP_CTL with an origin (R291, R292): with GO the step waits for the next boundary, or is refused. The time
it is tested against is that of the boundary. -/
def State.stepWrite (s : State) (val : Word) (origin : Nat) : State :=
  let m := s.stepMag
  let back := bitAt val 0
  let at' := s.time.total (s.time.raw + 4) 0
  if !bitAt val 31 then s
  else if (s.rw Reg.TIME_CTL 0 0 = 1 ∧ 1000 < m) ∨ (back ∧ at' < m * 2 ^ 32) ∨ 999999999 < s.rw Reg.TIME_STEP_NS 29 0 then
    (s.count Reg.TIME_CNT_REFUSE).post 1 0 []
  else { s with time.pendStep := some (back, m / 1000000000, m % 1000000000, origin), mgmt.acts := s.waitAct .step }

/-- TIME_STEP (R291). -/
def execTimeStep (val : Word) (s : State) : Host.Outcome State Fault Refusal := .next (s.stepWrite val 1)

/-- Set the base pair to a device time at the current raw count (R287, R291). -/
def State.rebase (s : State) (x : Nat) : State :=
  { s with time.baseRaw := s.time.raw, time.baseSec := secOf x % 2 ^ 64, time.baseNs := nsOf x, time.baseFrac := fracOf x }

/-- The pending increment applies at this boundary (R287): device time is continuous; journaled. -/
def State.applyInc (s : State) : State :=
  match s.time.pendInc with
  | none => s
  | some (inc, origin) =>
    let s1 := s.rebase s.now
    let s2 := { s1 with time.inc := inc, time.pendInc := none }
    s2.journal 8 1 0 (some (leBytes 8 inc)) origin

/-! ## Pulses (R301, R302) -/

/-- A pulse output. -/
def State.tpo (s : State) (i : Nat) : Tpo := Tbl.getD s.time.tpo i {}
/-- Change a pulse output. -/
def State.setTpo (s : State) (i : Nat) (x : Tpo) : State := { s with time.tpo := Tbl.put s.time.tpo i x }

/-- START in units of 2^−32 ns. -/
def Tpo.begin (x : Tpo) : Nat := ((x.sec * 1000000000 + x.ns) * 16 + x.sixteenth) * 2 ^ 28
/-- The time of the next edge in units of 2^−32 ns; `period` is in sixteenths of a ns. -/
def Tpo.edge (x : Tpo) : Nat := x.begin + x.k * x.period * 2 ^ 28

/-- The level of a pulse output: POL drives the pulse low. -/
def Tpo.level (x : Tpo) : Bool := x.active != x.pol

/-- An output takes a level; it is held low until STAGE 0x2 is reached (R400). -/
def State.drive (s : State) (i : Nat) (level : Bool) : State := if 2 ≤ s.mgmt.stage then s.emit (.pulse i level) else s

/-- The outputs that stand high go low, as a reset holds them, or come up high once it is over (R400). -/
def State.drivePins (s : State) (t : Tbl Tpo) (level : Bool) : State :=
  (t.filter (fun x => x.2.level)).foldl (fun s x => s.emit (.pulse x.1 level)) s

/-- The leading edge of an output fires; `next` is the edge that follows in a train. -/
def State.fire (s : State) (i next : Nat) (late : Bool) : State :=
  let x := s.tpo i
  let s1 := s.setTpo i { x with armed := x.periodic, k := next, active := true, trailAt := s.time.raw + x.width }
  let s2 := s1.drive i (!x.pol)
  if late then (s2.putRw (Reg.TIME_TPO_w6 i) 31 31 1).post 1 3 [] else s2

/-- The idle level of an output, given when it idles during a pulse. -/
def State.quietPulse (s : State) (i : Nat) : State :=
  let x := s.tpo i
  if x.active then (s.setTpo i { x with active := false }).drive i x.pol else s

/-- TPO_ARM (R301): a write of TIME_TPO[i].CTL. With EN it arms the output from START, PERIOD and WIDTH as they are, and an
arming that breaks a limit is refused; without EN the output idles. -/
def State.tpoArm (s : State) (i : Nat) (val : Word) : State :=
  let s1 := s.setRw (Reg.TIME_TPO_w0 i) (val &&& regMask (Reg.TIME_TPO_w0 i) .rw)
  let periodic := bitAt val 30
  let p := (s.rwW (Reg.TIME_TPO_w4 i)).toNat
  let w := (s.rwW (Reg.TIME_TPO_w5 i)).toNat
  let sec := (s.rwW (Reg.TIME_TPO_w2 i)).toNat * 2 ^ 32 + (s.rwW (Reg.TIME_TPO_w1 i)).toNat
  let s2 := s1.quietPulse i
  let armed := fun (x : Tpo) => if x.pol = (s2.tpo i).pol then s2.setTpo i x else (s2.setTpo i x).drive i x.pol
  if 8 ≤ i then s
  else if !bitAt val 31 then s2.setTpo i { s2.tpo i with armed := false }
  else if w < 4 ∨ (periodic ∧ (p < 100 ∨ p ≤ w)) then
    (s2.setTpo i { s2.tpo i with armed := false }).count Reg.TIME_CNT_REFUSE
  else
    let x : Tpo := { armed := true, sec := sec, ns := s.rw (Reg.TIME_TPO_w3 i) 29 0, sixteenth := fld val 3 0
                     period := if periodic then p * 16 + fld val 7 4 else 0, width := w, periodic := periodic, pol := bitAt val 29 }
    let k := if periodic ∧ x.begin < s.now then ceilDiv (s.now - x.begin) (x.period * 2 ^ 28) else 0
    let s3 := armed { x with k := k }
    if !periodic ∧ x.begin < s.now then s3.fire i 0 true else s3

/-- Device time reaches an armed output's edge (R301). -/
def State.edgeDue (s : State) (i : Nat) : State :=
  if (s.tpo i).armed ∧ (s.tpo i).edge ≤ s.now then s.fire i ((s.tpo i).k + 1) false else s

/-- The trailing edge, WIDTH raw counts after the leading one (R301). -/
def State.trailDue (s : State) (i : Nat) : State :=
  if (s.tpo i).active ∧ (s.tpo i).trailAt ≤ s.time.raw then s.quietPulse i else s

/-- TPO_TRAIL (R301). -/
def execTpoTrail (i : Nat) (s : State) : Host.Outcome State Fault Refusal := .next (s.trailDue i)

/-- The pulse outputs at a raw count between two boundaries: edges that fall due there fire there. -/
def State.pulsesAt (s : State) (r : Nat) : State :=
  (List.range 8).foldl (fun s i => (s.trailDue i).edgeDue i) { s with time.raw := r % 2 ^ 64 }

/-- An output's edge fires when it lies before an instant. -/
def State.edgeBefore (s : State) (t i : Nat) : State :=
  if (s.tpo i).armed ∧ (s.tpo i).edge < t then s.fire i ((s.tpo i).k + 1) false else s

/-- Before a step applies at a boundary, the edges due in the raw counts before it have fired, down to the sixteenth of a ns (R302). -/
def State.pulsesBefore (s : State) : State :=
  if s.time.pendStep.isSome then
    let r := s.time.raw
    let t := s.time.total ((r + 4) % 2 ^ 64) 0
    { (List.range 8).foldl (State.edgeBefore · t ·) (((s.pulsesAt (r + 1)).pulsesAt (r + 2)).pulsesAt (r + 3)) with time.raw := r }
  else s

/-- A forward step past the next edge of an output (Table 12-4): one edge fires LATE, and a train resumes at the first edge
after the new time, the edges between counted in SKIPPED. -/
def State.stepPulse (s : State) (i : Nat) : State :=
  let x := s.tpo i
  if !x.armed ∨ s.now ≤ x.edge then s
  else if !x.periodic then s.fire i 0 true
  else
    let n := (s.now - x.begin) / (x.period * 2 ^ 28) + 1
    let off := Reg.TIME_TPO_w6 i
    State.fire (s.putRw off 15 0 (min 0xFFFF (s.rw off 15 0 + (n - (x.k + 1))))) i n true

/-! ## Felling: what a step does (R307), and what is kept of applied entries (R129) -/

/-- An applied felling still decides for some item: a frame not yet parsed, a head or a message older than it, a step of a context that
generates (R306), or an arrival whose ingress correction takes it before T (R294). -/
def State.fellLive (s : State) (f : Felled) : Bool :=
  s.frames.any (fun x => !x.2.started && !takesNew x.2.stamp f.sec f.ns f.gen) ||
  s.heads.any (fun h => match Tbl.find s.frames h.2.frame with | some x => !takesNew x.stamp f.sec f.ns f.gen | none => false) ||
  s.msgs.any (fun m => !takesNew m.2.org.stamp f.sec f.ns f.gen) || s.ctxs.any (fun c => c.2.gen.isSome) ||
  (f.gen == s.time.gen && decide (s.now < ((f.sec * 1000000000 + f.ns) + 4096) * 2 ^ 32))

/-- Forget applied fellings that no item is too old for. -/
def State.pruneFelled (s : State) : State := { s with time.felled := s.time.felled.filter s.fellLive }

/-- The pending step applies at this boundary (R291): the base pair moves, a backward step opens a new generation and rebinds
pending entries, pulses follow Table 12-4; posted and journaled. A zero magnitude changes nothing. -/
def State.applyStep (s : State) : State :=
  match s.time.pendStep with
  | none => s
  | some (back, sec, ns, origin) =>
    let m := (sec * 1000000000 + ns) * 2 ^ 32
    let s0 := { s with time.pendStep := none }
    if m = 0 then s0
    else
      let s1 := s0.rebase (if back then s.now - m else s.now + m)
      let g := if back then (s.time.gen + 1) % 65536 else s.time.gen
      let s2 := { s1 with time.gen := g, time.fell := if back then Tbl.mapVals s1.time.fell (fun _ f => { f with gen := g })
                                                      else s1.time.fell }
      let s3 := (s2.ptpFresh).pruneFelled
      let s4 := if back then s3 else (List.range 8).foldl (fun s i => s.stepPulse i) s3
      (s4.journal 8 (if back then 3 else 2) 0 (some (leBytes 8 sec ++ leBytes 4 ns)) origin).post 1 1 []

/-! ## ADOPT at its boundary (R22, R283) -/

/-- An ADOPT that waits applies (R283). -/
def State.applyAdopt (s : State) : State :=
  match s.mgmt.adopt with
  | none => s
  | some (e, origin) => State.adoptFrom { s with mgmt.adopt := none } e origin

/-! ## Captures (R303) -/

/-- A capture channel. -/
def State.cap (s : State) (c : Nat) : Cap := Tbl.getD s.time.cap c {}
/-- Change a capture channel. -/
def State.setCap (s : State) (c : Nat) (x : Cap) : State := { s with time.cap := Tbl.put s.time.cap c x }

/-- CAPTURE_EDGE (R303): a selected edge is stamped; one that comes within 16 ns of the last accepted, or finds 16 captures
held, is lost and sets OVF. -/
def State.captureEdge (s : State) (c : Nat) (rising : Bool) (sub : Nat) : State :=
  let w0 := s.rwW (Reg.TIME_CAP_w0 c)
  let x := s.cap c
  let t := s.time.raw * 16 + sub
  let ovf := fun (s : State) => s.putRw (Reg.TIME_CAP_w5 c) 31 31 1
  let div := if c = 5 then max 1 (fld w0 23 0) else 1
  if 6 ≤ c ∨ !bitAt w0 31 ∨ rising ≠ (c == 5 || !bitAt w0 30) then s
  else if (match x.last with | some l => decide (t < l + 256) | none => false) = true then ovf s
  else
    let x1 := { x with last := some t }
    if x.count + 1 < div then s.setCap c { x1 with count := x.count + 1 }
    else if 16 ≤ x.held.length then ovf (s.setCap c { x1 with count := 0 })
    else s.setCap c { x1 with count := 0, held := x.held ++ [s.stampAt s.time.raw sub 0] }

/-- Latch a word that a later read returns (R4). -/
def State.latchW (s : State) (off v : Nat) : State := { s with regs.latch := Tbl.put s.regs.latch off (BitVec.ofNat 32 v) }

/-- CAPTURE_READ (R303): a read of SEC_LO removes the oldest capture and latches its other words. -/
def State.captureRead (s : State) (c : Nat) : State :=
  let x := s.cap c
  let t : Stamp := x.held.headD {}
  if 6 ≤ c then s
  else
    let s1 := s.setCap c { x with held := x.held.drop 1 }
    let s2 := ((s1.latchW (Reg.TIME_CAP_w2 c) (t.sec / 2 ^ 32)).latchW (Reg.TIME_CAP_w3 c) t.ns).latchW (Reg.TIME_CAP_w4 c)
      (t.gen * 65536 + t.frac)
    s2.emit (.read (Reg.TIME_CAP_w1 c) (BitVec.ofNat 32 t.sec))

/-- CAPTURE_READ (R303). -/
def execCaptureRead (c : Nat) (s : State) : Host.Outcome State Fault Refusal := .next (s.captureRead c)

/-! ## Felling times (R304 to R307) -/

/-- Complete a FELL or FCANCEL: its record, with the entry in byte 1, and MBOX_DONE. -/
def State.fellFinish (s : State) (d : List Byte) (r : Rec) : State :=
  let w := s.recordWrite (leAt d 24 8) r.bytes r.status
  w.2.mboxDone (byteAt d 0) w.1

/-- FELL's checks 2 to 7 (R304), with the staged version that KIND ACTIVATE names and the set of KIND COMMIT: the code, 0 when they
pass. -/
def State.fellCheck (s : State) (d : List Byte) (set : Tbl Word) : Nat :=
  let kind := byteAt d 1
  let h := leAt d 2 2
  let x := s.handle h
  let t := leAt d 8 6 * 1000000000 + leAt d 16 4
  let pend := fun (k : Nat) => s.time.fell.any (fun f => f.2.kind == k)
  let exactMove := s.time.fell.any (fun f => f.2.kind == 3 && exactOf f.2.set != s.exact)
  let param := kind = 0 ∨ 3 < kind ∨ leAt d 14 2 ≠ 0 ∨ leAt d 20 4 ≠ 0 ∨ leVal (slice d 32 32) ≠ 0 ∨ 999999999 < leAt d 16 4 ∨
    leAt d 24 8 % 64 ≠ 0 ∨ (if kind = 2 then 1 < byteAt d 6 else byteAt d 6 ≠ 0) ∨ t * 2 ^ 32 < s.now + 100000 * 2 ^ 32
  let busy := (kind = 1 ∧ (s.fellNames h ∨ x.armActivate.isSome ∨ x.loading)) ∨ (kind = 2 ∧ (pend 2 ∨ exactMove)) ∨
    (kind = 3 ∧ (pend 3 ∨ s.mgmt.commit.busy ∨ (pend 2 ∧ exactOf set ≠ s.exact)))
  if s.jrnlRefuses then 4
  else if param then 1
  else if kind = 1 ∧ (1023 < h ∨ x.staged.isNone) then 2
  else if kind = 1 ∧ x.staged.map (·.num) ≠ some (leAt d 4 2) then 3
  else if busy then 4
  else if 32 ≤ s.time.fell.length then 0xA
  else if kind = 1 ∧ s.fevalNamed h ∧ (match x.staged with | some v => !s.fevalFits h v | none => true) = true then 0xE
  else 0

/-- FELL (R304, R305): makes an entry, of KIND COMMIT with the shadow set as it stood when the command was taken, once it validates; the
validation waits while a Doze entry or a wake is in progress (R396). -/
def State.fellCmd (s : State) (i : Nat) : State :=
  match s.takeCmd i 0x31 with
  | none => s
  | some (c, s1) =>
    let d := c.desc
    let kind := byteAt d 1
    let h := leAt d 2 2
    let set := c.taken.getD s1.regs.shadow
    let st := s1.fellCheck d set
    let r0 : Rec := { status := st, handle := if kind = 1 then h else 0, version := if kind = 1 then leAt d 4 2 else 0 }
    let bad := if st = 0 ∧ kind = 3 then s1.validateSet set c.origin true else (0, 0)
    if kind = 3 ∧ s.moving then
      { s with mgmt.mbox := s.mgmt.mbox.zipIdx.map (fun x => if x.2 = i then { x.1 with taken := some set } else x.1) }
    else if st ≠ 0 then s1.fellFinish d r0
    else if bad.1 ≠ 0 then (s1.reject bad.1 bad.2).fellFinish d { r0 with status := 1 }
    else
      let n := leastFree s1.time.fell
      let e : Fell := { kind := kind, handle := r0.handle, version := match kind, (s1.handle h).staged with | 1, some v => v.number | _, _ => 0
                        arg := byteAt d 6, sec := leAt d 8 6
                        ns := leAt d 16 4, gen := s1.time.gen, set := if kind = 3 then set else [] }
      let rr := match kind, (s1.handle h).staged with
        | 1, some v => { s1.record v h 0 with b1 := n }
        | _, _ => { r0 with b1 := n }
      State.fellFinish { s1 with time.fell := Tbl.put s1.time.fell n e } d rr

/-- FELL (R304). -/
def execFell (i : Nat) (s : State) : Host.Outcome State Fault Refusal := .next (s.fellCmd i)

/-- FCANCEL (R304): frees a pending entry. -/
def State.fcancel (s : State) (i : Nat) : State :=
  match s.takeCmd i 0x32 with
  | none => s
  | some (c, s1) =>
    let n := byteAt c.desc 7
    let st := if s1.jrnlRefuses then 4 else if (Tbl.find s1.time.fell n).isNone ∨ leAt c.desc 24 8 % 64 ≠ 0 then 1 else 0
    let s2 := if st = 0 then { s1 with time.fell := Tbl.del s1.time.fell n } else s1
    s2.fellFinish c.desc { status := st, b1 := n }

/-- FCANCEL (R304). -/
def execFcancel (i : Nat) (s : State) : Host.Outcome State Fault Refusal := .next (s.fcancel i)

/-- FELL_READY (R306): device time exceeds T − 1 µs, and the entry's new state is held ready. -/
def execFellReady (n : Nat) (s : State) : Host.Outcome State Fault Refusal :=
  .next (match Tbl.find s.time.fell n with
    | none => s
    | some f =>
      if timeOf f.sec f.ns < s.now + 1000 * 2 ^ 32 then
        { s with time.fell := Tbl.put s.time.fell n { f with ready := true } }
      else s)

/-- The journal entry of a felling (Table 16-14). -/
def State.fellJournal (s : State) (n : Nat) (f : Fell) (skipped : Bool) (dig : Option (List Byte)) : State :=
  s.journal 3 (f.kind + (if skipped then 256 else 0))
    (n + (if f.kind = 2 then f.arg * 256 else 0) + (if f.kind = 1 then f.handle * 65536 else 0)) dig 5

/-- Write EXACT into the committed, shadow and frozen sets (R310, Table 13-10). -/
def State.putExact (s : State) (b : Bool) : State :=
  let up := fun (t : Tbl Word) => Tbl.put t Reg.GCTL_MODE (setFld (cfgOf t Reg.GCTL_MODE) 31 31 (b2n b))
  { s with regs.cfg := up s.regs.cfg, regs.shadow := up s.regs.shadow, regs.frozen := s.regs.frozen.map up }

/-- FELL_APPLY (R306, R307): at the first boundary at which device time reaches T the entry applies; an ACTIVATE whose staged
version is gone, or unfit for FEVAL, is skipped. It waits while the ring and the on-die store are full (R390), and comes
after a commit that is due at the boundary (R22). -/
def State.fellApply (s : State) (n : Nat) : State :=
  match Tbl.find s.time.fell n with
  | none => s
  | some f =>
    if s.now < timeOf f.sec f.ns ∨ s.mgmt.jr.full ∨ s.mgmt.commit.due then s
    else
      let s1 := { s with time.fell := Tbl.del s.time.fell n }
      let x := s.handle f.handle
      let done : Felled := { kind := f.kind, handle := f.handle, sec := f.sec, ns := f.ns, gen := f.gen, oldCfg := s.regs.cfg
                             oldExact := s.exact, oldVer := x.serving.map (·.number)
                             newVer := if f.kind = 1 then some f.version else none }
      let keep := fun (s : State) =>
        State.pruneFelled ({ s with time.felled := done :: s.time.felled }.keepMode (some (f.sec, f.ns, f.gen)) done.oldExact)
      if f.kind = 1 then
        match x.staged with
        | some v =>
          if v.number = f.version ∧ (!s.fevalNamed f.handle || s.fevalFits f.handle v) = true then
            let s2 := keep ((s1.fellJournal n f false (some (v.digest.take 16))).activate f.handle)
            (((s2.journal 2 2 (f.handle + f.version % 65536 * 65536) (some (v.digest.take 16)) 5).post 1 4 []).settle)
          else (s1.fellJournal n f true (some (v.digest.take 16))).post 1 5 []
        | none => (s1.fellJournal n f true none).post 1 5 []
      else if f.kind = 2 then
        let s2 := keep ((s1.fellJournal n f false none).modeChange (f.arg == 1) 5)
        ((s2.putExact (f.arg == 1)).post 1 4 []).settle
      else
        let s2 := keep ((s1.fellJournal n f false none).applySet f.set 5 false)
        (s2.post 0 0 []).post 1 4 []

end Sys2Proof.Machine
end

