-- ==== Sys2Proof/Machine/Repair.lean ====
section
/-! DEFINITION. Defects, faults and repair (R12 to R18, R345 to R363): the repair map, what a fault does to items and to
placed models, replacement, check events, cruise, the repair commands, heartbeats and leaving service. -/
namespace Sys2Proof.Machine

/-! ## Heartbeats and leaving service (R361, R362) -/

/-- A tract die or compartment is retired, or the twin is SOLO. -/
def State.reduced (s : State) : Bool :=
  s.units.map.any (fun e => e.unit.level == 4 || e.unit.level == 5) || s.twin.state == 3

/-- The result block of a heartbeat (Table 15-6). HB_SEQ counts the heartbeats sent before it. -/
def State.beatBlock (s : State) (leaving : Bool) : List Byte :=
  beBytes 8 s.mgmt.identity ++ beBytes 4 s.units.beats ++
  beBytes 1 (if leaving then 3 else if s.reduced then 2 else 1) ++ beBytes 1 s.twin.state ++
  beBytes 2 s.coresIn ++ beBytes 2 s.lanesInAll ++ beBytes 2 (s.rwW Reg.RPR_CNT_REPAIR).toNat ++ List.replicate 12 0

/-- Decide a heartbeat: a frame of the configured template for the configured destination, with the reply header of a
generation frame, OP 0x00; it takes its place among the frames of the second class of R32. -/
def State.sendBeat (s : State) (leaving : Bool) : State :=
  let w := s.cfgW Reg.RPR_HB
  match entryDest s.regs.cfg (fld w 21 16) with
  | none => s
  | some d =>
    let org : Origin := { eport := 0, lport := d.lport, win := [], flen := 0, stamp := s.stamp, raw := s.time.raw, sub := 0
                          desc := {}, metadata := [], handler := 0, cfg := s.regs.cfg, exact := s.exact, hdrEnd := 0 }
    let r := { s.newReply org none [] 6 stOk 0 0 d with
      res := s.beatBlock leaving, tmpl := some (fld w 30 24), eport := s.egressOf d.lport 48 }
    let s1 := s.addReply r
    { s1 with units.beats := s1.units.beats + 1, units.beatAt := some s1.time.raw }

/-- HEARTBEAT (R362): PERIOD µs after the one before, from READY on (Table 16-1). -/
def State.heartbeat (s : State) : State :=
  let w := s.cfgW Reg.RPR_HB
  if bitAt w 31 && s.mgmt.ready && s.mgmt.inService && s.twin.state != 4 &&
      (match s.units.beatAt with | some t => decide (t + fld w 9 0 * 1000 ≤ s.time.raw) | none => true) then s.sendBeat false
  else s

/-- HEARTBEAT (R362). -/
def execHeartbeat (s : State) : Host.Outcome State Fault Refusal := .next s.heartbeat

/-- Fail one item at a fault (Table 15-5): a message by its slot, or from 65,536 up the step that generation context n − 65,536
has in its copy. One whose reply has passed the gate is finished. -/
def State.itemFail (s : State) (final : Bool) (n : Nat) : State :=
  if n < 65536 then
    (match Tbl.find s.msgs n with | some m => if m.gone then s else s.unitFail n final | none => s)
  else match Tbl.find s.ctxs (n - 65536) with
    | some x => s.ctxFail (n - 65536) 1 (match s.runs.find? (fun r => r.2.ctx == some (n - 65536)) with
        | some r => r.2.pos
        | none => x.p - 1)
    | none => s

/-- The device leaves service (R361): one LEAVING heartbeat, every admitted item fails, epochs abort. -/
def State.leaveService (s : State) : State :=
  if !s.mgmt.inService then { s with mgmt.leaveDue := false }
  else
    let s1 := if bitAt (s.cfgW Reg.RPR_HB) 31 then s.sendBeat true else s
    let s2 := (s1.msgs.map (·.1)).foldl (State.itemFail · false ·) { s1 with mgmt.inService := false, mgmt.leaveDue := false }
    s2.boomFault.settle

/-- LEAVE_SERVICE (R361). -/
def execLeaveService (s : State) : Host.Outcome State Fault Refusal := .next s.leaveService

/-! ## The repair map (R346) -/

/-- The 8 bytes of a map entry (Table 15-1). -/
def MapEnt.bytes (e : MapEnt) : List Byte :=
  leBytes 1 e.unit.level ++ leBytes 1 e.unit.die ++ leBytes 1 e.unit.cmpt ++ leBytes 1 e.unit.stand ++ leBytes 2 e.unit.unit ++
  leBytes 1 e.cause ++ leBytes 1 (b2n e.inherited + 2 * b2n e.unretire)

/-- A hub unit number of Table 15-2. -/
def hubUnit (n : Nat) : Bool :=
  decide (n < 0x40 ∨ (0x40 ≤ n ∧ n < 0x44) ∨ (0x80 ≤ n ∧ n < 0x90) ∨ (0x100 ≤ n ∧ n < 0x10C))

/-- The fields name a unit of the device. -/
def unitValid (u : UnitId) : Bool :=
  match u.level with
  | 1 => decide (u.die < 4 ∧ u.cmpt < 8 ∧ u.stand < 9 ∧ u.unit < 17)
  | 2 => decide (u.die < 4 ∧ u.cmpt < 8 ∧ u.stand = 0 ∧ u.unit < 544)
  | 3 => decide (u.die < 4 ∧ u.cmpt < 8 ∧ u.stand < 9 ∧ u.unit = 0)
  | 4 => decide (u.die < 4 ∧ u.cmpt < 8 ∧ u.stand = 0 ∧ u.unit = 0)
  | 5 => decide (u.die < 4 ∧ u.cmpt = 0 ∧ u.stand = 0 ∧ u.unit = 0)
  | 6 => u.die == 0xF && hubUnit u.unit && u.cmpt == 0 && u.stand == 0
  | _ => false

/-- Journal a repair (Table 16-14): SUB the cause and its mark bits, TARGET and VALUE the map entry. -/
def State.repairEntry (s : State) (e : MapEnt) (mark origin : Nat) : State :=
  s.journal 4 (e.cause + mark) (leVal (e.bytes.take 4)) (some (padTo e.bytes 16)) origin

/-- A unit holds another: a stand its cores, a compartment its stands, cores and lanes, a die all of its units. -/
def unitCovers (u w : UnitId) : Bool :=
  u.die == w.die && decide (w.level < u.level) &&
  (u.level == 5 || (u.level == 4 && u.cmpt == w.cmpt) || (u.level == 3 && w.level == 1 && u.cmpt == w.cmpt && u.stand == w.stand))

/-- The map holds 4,096 entries at the most (R346): beyond them entries go, oldest first, whose unit a retired one holds, so that no unit
comes back (DESIGN CHOICE, log 170). -/
def trimMap (map : List MapEnt) : List MapEnt :=
  (map.foldl (fun (a : Nat × List MapEnt) e =>
    if 0 < a.1 ∧ map.any (fun f => unitCovers f.unit e.unit) then (a.1 - 1, a.2) else (a.1, a.2 ++ [e])) (map.length - 4096, [])).2

/-- The body of the REPAIR_MAP record that the firmware writes (R346, R348, R376): the entries but those marked PENDING_UNRETIRE, then the
five die identifiers. -/
def State.flashBody (s : State) : List Byte :=
  (s.units.map.filter (fun e => !e.unretire)).flatMap MapEnt.bytes ++ s.mgmt.dieIds.flatMap (leBytes 16)

/-- The map entries of a REPAIR_MAP body. -/
def flashEntries (b : List Byte) : List (List Byte) := (List.range ((b.length - 80) / 8)).map (fun i => slice b (8 * i) 8)

/-- RPR_MAPSTAT.FLASH_MATCH (Table 15-13): the flash copy equals the current map. -/
def State.flashMatch (s : State) : Bool :=
  match s.units.flash with
  | some r => r.sigOk && r.body == s.units.map.flatMap MapEnt.bytes ++ s.mgmt.dieIds.flatMap (leBytes 16)
  | none => false

/-- Retire a unit: its map entry, RETIRE, the journal. Its tests and SUSPECT mark go. -/
def State.enterMap (s : State) (u : UnitId) (cause origin : Nat) : State :=
  if s.inMap u then s
  else
    let e : MapEnt := { unit := u, cause := cause }
    let s1 := { s with
      units.map := trimMap (s.units.map ++ [e])
      units.tests := s.units.tests.filter (fun t => t.1 != u)
      units.suspects := s.units.suspects.filter (fun t => t.1 != u)
      units.asked := s.units.asked.filter (fun t => t != u) }
    ((s1.count Reg.RPR_CNT_RETIRE).repairEntry e 256 origin).post 8 1 []

/-- Count a replacement by a spare. -/
def State.repaired (s : State) (u : UnitId) (cause origin : Nat) : State :=
  ((s.count Reg.RPR_CNT_REPAIR).repairEntry { unit := u, cause := cause } 0 origin).post 8 0 []

/-! ## Items at a fault (R352, R355, R359) -/

/-- The result tokens of a run have all reached the bridge endpoint. -/
def ArrayRun.allIn (r : ArrayRun) (v : Version) : Bool :=
  decide (v.prog.nRes ≤ r.nres)

/-- A run fails: its tokens are discarded as under R149, and its item fails. -/
def State.failRun (s : State) (rid : Nat) (r : ArrayRun) (v : Version) (cp : ACopy) (final : Bool) : State :=
  let s1 := { s with
    flights := s.flights.filter (fun f => f.2.run != rid)
    fevals := s.fevals.filter (fun f => f.2.run != rid)
    runs := Tbl.put s.runs rid { r with overrun := true, bad := true } }
  let s2 := s1.dropTokens v cp r
  match r.slot with
  | some n => s2.unitFail n final
  | none => match r.ctx with | some k => s2.ctxFail k 1 r.pos | none => s2

/-- The messages in flight on a copy fail, but with `keep` those whose result tokens have all arrived (R352). -/
def State.failCopy (s : State) (h : Nat) (v : Version) (c : Nat) (cp : ACopy) (keep final : Bool) : State :=
  (s.copyRuns h v.number c).foldl (fun s r =>
    if r.2.overrun || (keep && r.2.allIn v) then s else s.failRun r.1 r.2 v cp final) s

/-- A copy of a program is not clean (R354): some slot of it is not. -/
def State.copyDirty (s : State) (v : Version) (cp : ACopy) : Bool :=
  (s.copyCores v cp).any (fun p => ((s.core p).slot v.slot).dirty)

/-- A copy's state is lost (R355): sequence contexts roll back; of an array program that is not clean the messages in flight
fail with FAULT_FINAL, the copy is held closed and STATE_LOST is posted. Answers whether the messages fail finally. -/
def State.stateLost (s : State) (h : Nat) (v : Version) (c : Nat) (cp : ACopy) : Bool × State :=
  if v.kind = 2 then
    (false, (s.ctxs.filter (fun x => x.2.handle == h && x.2.version == v.number && x.2.copy == c)).foldl
      (fun s x => s.ctxFail x.1 2 x.2.p) s)
  else if s.copyDirty v cp then
    (true, (s.modVer h v.number (fun v => { v with
      acopies := Tbl.modify v.acopies c (fun y => { y with lostHold := true }) })).post 0 10 [(h, 16), (c, 16)])
  else (false, s)

/-- Samples of a version that are in evaluation and meet a condition fail. -/
def State.failSamples (s : State) (h n : Nat) (p : Nat → ForestRun → Bool) : State :=
  let ns := (s.msgs.filter (fun m => !m.2.boom && m.2.kind == 0 && m.2.target == h && m.2.version == n && m.2.stage == .running &&
    (match m.2.forest with | some f => p m.1 f | none => false))).map (·.1)
  ns.foldl (State.itemFail · false ·) s

/-- FEVALs that the failed copies of a version serve come back BAD (R108). -/
def State.badFevals (s : State) (h : Nat) (v : Version) (cs : List Nat) : State :=
  { s with fevals := Tbl.mapVals s.fevals (fun _ f =>
      if f.handle = h ∧ f.version = v.number ∧ (match f.copy with | some c => cs.contains c | none => false) = true
      then { f with bad := true } else f) }

/-- The samples that lanes meeting `hit` evaluate fail: those in the copies that hold them, and the batches in passes that use
them. -/
def State.failLanes (s : State) (hit : Nat × Nat × Nat → Bool) : State :=
  s.allVersions.foldl (fun s hv =>
    let v := hv.2
    let cs := (v.fcopies.filter (fun c => !c.2.out && c.2.lanes.any (fun l => hit (l.1, l.2.1, l.2.2.1)))).map (·.1)
    let pass : List Nat := match v.part with
      | some p => if !p.out && p.lanes.any hit then p.running.flatMap (·.1) else []
      | none => []
    if cs.isEmpty && pass.isEmpty then s
    else (s.failSamples hv.1 v.number (fun n f => pass.contains n || (match f.copy with | some c => cs.contains c | none => false))).badFevals
      hv.1 v cs) s

/-! ## Withdrawal (R125, R133, R167) -/

/-- What a retirement reaches: a die, or one compartment of it. -/
structure Lost where
  die : Nat
  cmpt : Option Nat
  deriving DecidableEq, Repr

/-- A compartment of a die is reached. -/
def Lost.has (x : Lost) (d c : Nat) : Bool := x.die == d && (match x.cmpt with | some k => k == c | none => true)

/-- The groups of 32 lanes that a tolerant copy has in engine e of compartment c go to the reserve lanes of the same engine of
the compartments that keep their images (R125). `cs`: the die's compartments in service before the retirement; `used`: the lanes that tolerant copies use in an engine, ascending. -/
def tolMove (cs : List Nat) (d c : Nat) (used : Nat → List Nat) (l : Nat × Nat × Nat × Nat) : Nat × Nat × Nat × Nat :=
  if l.1 = d ∧ l.2.1 / 2 = c then
    let i := ((used l.2.1).filter (fun x => decide (x < l.2.2.1))).length
    (d, (othersOf cs c).getD (i / 32) c * 2 + l.2.1 % 2, 224 + i % 32, l.2.2.2)
  else l

/-- A version is still tolerant of the retirement of a compartment of a die: every other compartment that was in service there as it was
loaded still is (R125). -/
def State.tolerates (s : State) (v : Version) (x : Lost) : Bool :=
  v.tolerant && x.cmpt.isSome && v.cmpts.all (fun k => k / 8 != x.die || x.has x.die (k % 8) || s.cmptOk x.die (k % 8))

/-- What a retirement does to a forest version: tolerant placements move to their reserve, other copies that have a lane there
are withdrawn; a batch part loses the lanes, and is withdrawn for re-dealing when it loses blocks. -/
def Version.lose (v : Version) (tol : Bool) (cs : List Nat) (used : Nat → List Nat) (x : Lost) : Version :=
  let hit := fun (l : Nat × Nat × Nat × Nat) => x.has l.1 (l.2.1 / 2)
  { v with
    fcopies := Tbl.mapVals v.fcopies (fun _ c =>
      if c.out || !c.lanes.any hit then c
      else if tol then { c with lanes := c.lanes.map (tolMove cs x.die (x.cmpt.getD 0) used) }
      else { c with out := true, stopped := 0 })
    part := v.part.map (fun p =>
      let lanes := p.lanes.filter (fun l => !x.has l.1 (l.2.1 / 2))
      let gone := fun (b : Nat × Nat × Nat × Nat × Nat) => if v.mode != 0 then x.cmpt.isNone && b.2.2.1 == x.die else x.has b.2.2.1 b.2.2.2.1
      if tol && v.mode == 0 then
        { p with lanes := lanes
                 deal := p.deal.map (fun b => if gone b then (b.1, b.2.1, b.2.2.1, nextCmpt cs b.2.2.2.1, b.2.2.2.2) else b) }
      else if p.deal.any gone || (lanes = [] && p.lanes != []) then { p with lanes := lanes, out := true }
      else { p with lanes := lanes }) }

/-- A logical stand lies where a retirement reaches. -/
def Lost.stand (x : Lost) (ls : Nat) : Bool := x.has (ls / 64) (ls / 8 % 8)

/-- Withdraw the array copies of a version that have a stand where a retirement reaches (R167): items end, state is lost. -/
def State.loseArray (s : State) (h : Nat) (v : Version) (x : Lost) : State :=
  v.acopies.foldl (fun s c =>
    let cp := c.2
    if cp.out || !cp.stands.any x.stand then s
    else
      let r := s.stateLost h v c.1 cp
      let s1 := r.2.failCopy h v c.1 cp false r.1
      let cores := s1.copyCores v cp
      let s2 := ({ s1 with dmas := s1.dmas.filter (fun d => !(cores.contains d.2.core && d.2.slot == v.slot)) }).unloadCopy v cp
      s2.modVer h v.number (fun v => { v with acopies := Tbl.modify v.acopies c.1 (fun y => { y with out := true, shut := false }) })) s

/-- The LOAD that runs on a handle ends with another outcome. -/
def State.loadEnds (s : State) (h : Nat) (r : Rec) : State :=
  { s with mgmt.running := Tbl.mapVals s.mgmt.running (fun _ x =>
      if x.holds && x.handle == h && x.status == 0 then { x with status := r.status, body := r.bytes } else x) }

/-- The LOAD that placed a handle's staged version still runs (R131). -/
def State.stillLoads (s : State) (h : Nat) : Bool := s.mgmt.running.any (fun x => x.2.holds && x.2.handle == h && x.2.status == 0)

/-- A staged version of a handle no longer fits (R131): it is freed, and STAGED_LOST is posted, or the LOAD that still runs reports
ERR_CAPACITY with what R127 and Table 6-10 ask. -/
def State.stagedLost (s : State) (h : Nat) (v : Version) : State :=
  let s1 := s.dropStaged h
  let w := wantOf v.desc
  let r : Rec := { status := 0, b1 := if v.kind = 0 then v.mode else 0, handle := h, version := v.num, digest := v.digest }
  if s1.stillLoads h then
    s1.loadEnds h (if v.kind = 0 then s1.forestShort r v.image w
      else s1.progShortRec r v.image w (s1.placeProg h v.image w.dies w.copies).2.2.length)
  else s1.post 0 4 [(h, 16)]

/-- A staged version of a handle whose image no longer has its digest: it is not re-placed and MODEL_DEGRADED is posted (R133); a LOAD that
still runs ends with ERR_FAULT, or with ERR_DIGEST where the image can be read (R117). -/
def State.stagedBad (s : State) (h : Nat) (v : Version) : State :=
  let o := if v.kind = 0 then v.forest.digest else v.prog.digest
  let r : Rec := { status := 0x0B, b1 := if v.kind = 0 then v.mode else 0, handle := h, version := v.num }
  if s.stillLoads h then
    (s.dropStaged h).loadEnds h (if s.anyUe v.imageAt v.image.length then r else { r with status := 6, errOff := o })
  else s.degraded h v

/-- A staged forest version has something where a retirement reaches that it is not tolerant of. -/
def State.stagedHit (s : State) (v : Version) (x : Lost) : Bool :=
  v.kind == 0 && !s.tolerates v x &&
  (v.lanesUsed.any (fun l => x.has l.1 (l.2.1 / 2)) || v.stores.any (fun e => x.has (e.1 / 8) (e.1 % 8)) ||
   (x.cmpt.isNone && (match v.part with | some p => v.mode != 0 && p.deal.any (fun b => b.2.2.1 == x.die) | none => false)))

/-- Place a handle's staged forest version anew from its image, as its LOAD did (R131). -/
def State.planAgain (s : State) (h : Nat) (v : Version) : State :=
  let s1 := s.dropStaged h
  match s1.placeForest v.image v.forest (wantOf v.desc) with
  | none => s.stagedLost h v
  | some p =>
    let v1 := p.version v.number v.image v.imageAt v.desc s1.cmptsNow
    let s2 := s1.setHandle h { s1.handle h with staged := some v1 }
    s2.loadEnds h (s2.record v1 h 0)

/-- Re-place a handle's staged version where a repair reaches it (R131, R133): a forest that is hit (`hit`) whole, of a program the copies that
are withdrawn. -/
def State.restage (s : State) (hit : Bool) (h : Nat) : State :=
  match (s.handle h).staged with
  | none => s
  | some v =>
    let cs := (v.acopies.filter (·.2.out)).map (·.1)
    if !hit && cs.isEmpty then s
    else
      let sound := s.imageIntact v
      let s := s.mirrorHeal v.imageAt v.image.length
      if !sound then s.stagedBad h v
      else if hit then s.planAgain h v
      else
        let go := cs.foldl (fun (a : Option State) c => a.bind (fun s =>
          match (s.handle h).staged with | some w => s.tryReplace h w c | none => none)) (some s)
        go.getD (s.stagedLost h v)

/-- The logical lane that a physical lane serves. -/
def State.logicalLane (s : State) (d e l : Nat) : Option Nat := (pick 256 (fun i => (s.lanesOf d e)[i]? == some l)).head?

/-- The lanes of stationary copies that wait for a spare, counted anew from the moves under way (R104). -/
def State.restop (s : State) : State :=
  let waits := s.units.moves.filterMap (fun m =>
    if m.unit.level = 2 ∧ !m.drain then
      let e := m.unit.cmpt * 2 + m.unit.unit / 272
      (s.logicalLane m.unit.die e (m.unit.unit % 272)).map (fun l => (m.unit.die, e, l))
    else none)
  { s with handles := Tbl.mapVals s.handles (fun _ h =>
      let f := fun (v : Version) => { v with fcopies := Tbl.mapVals v.fcopies (fun _ c =>
        { c with stopped := (waits.filter (fun w => !c.out && c.lanes.any (fun x => (x.1, x.2.1, x.2.2.1) == w))).length }) }
      { h with serving := h.serving.map f, staged := h.staged.map f, old := h.old.map f }) }

/-- Everything that a compartment or a die held ends or moves (R125, R133, R167, R359); the map already names it. -/
def State.lose (s : State) (x : Lost) : State :=
  let cs := match x.cmpt with | some c => ((s.cmptsIn x.die) ++ [c]).mergeSort (fun a b => decide (a ≤ b)) | none => s.cmptsIn x.die
  let s1 := s.failLanes (fun l => x.has l.1 (l.2.1 / 2))
  let used := fun e => s1.tolLanes x.die e false
  let s2 := s1.allVersions.foldl (fun s hv =>
    if hv.2.kind = 0 then s.modVer hv.1 hv.2.number (fun v => v.lose (s.tolerates v x) cs used x) else s.loseArray hv.1 hv.2 x) s1
  let s3 := { s2 with
    units.moves := s2.units.moves.filter (fun m => !x.has m.unit.die m.unit.cmpt)
    units.tests := s2.units.tests.filter (fun t => decide (4 ≤ t.1.level) || !x.has t.1.die t.1.cmpt) }.restop
  let hit := fun (h : Nat) => match (s.handle h).staged with | some v => s.stagedHit v x | none => false
  ((s3.handles.map (·.1)).foldl (fun s h => s.restage (hit h) h) s3).settle

/-! ## Retirement of compartments and dies (R14, R17, R360) -/

/-- Retire a compartment. -/
def State.retireCmpt (s : State) (d c cause origin : Nat) : State :=
  if !s.cmptOk d c then s else (s.enterMap ⟨4, d, c, 0, 0⟩ cause origin).lose ⟨d, some c⟩

/-- The causes of a die's retirement with which its port is lost (R12, R17): BRIDGE; REPEAT, which only check events of the bridge give
a die (Table 15-3); HARD_ECC, a failed port (log 135). -/
def portCause (c : Nat) : Bool := c == 5 || c == 3 || c == 7

/-- A die's DRAM port is lost (R17, R343): its data is, and its sweep ends. The messages whose payload lies in the message buffer, which is
spread over the ports, fail with FAULT_FINAL. -/
def State.losePort (s : State) (d : Nat) : State :=
  if (s.die d).lost then s
  else
    let s1 := s.setDie d { s.die d with lost := true, dram := [], ue := [], sweep := none, queued := [] }
    ((s1.msgs.filter (fun m => m.2.buffer)).map (·.1)).foldl (State.itemFail · true ·) s1

/-- Tract dies in service. -/
def State.diesIn (s : State) : List Nat := pick 4 s.dieOk

/-- Retire a tract die, with its port when its bridge or port has failed (R17); a second die that fails ends service (R360). -/
def State.retireDie (s : State) (d cause origin : Nat) (port : Bool) : State :=
  -- of a die that is retired with its port in service only the port can still go (R17); its map entry takes the cause
  if !s.dieOk d then
    (if port && decide (d < 4) && !(s.die d).lost then
      let e : MapEnt := { unit := ⟨5, d, 0, 0, 0⟩, cause := cause }
      ((State.repairEntry { s with units.map := s.units.map.map (fun x => if x.unit = e.unit then e else x) } e 256 origin).losePort d).settle
     else s)
  else
    let s1 := s.enterMap ⟨5, d, 0, 0, 0⟩ cause origin
    let s2 := if port then s1.losePort d else s1
    let s3 := s2.lose ⟨d, none⟩
    if s3.diesIn.length < 3 then s3.leaveService else s3

/-! ## Replacement (R104, R352) -/

/-- The copies that use a core, or a stand, with their handles and versions. -/
def State.copiesOn (s : State) (u : UnitId) : List (Nat × Version × Nat × ACopy) :=
  s.allVersions.flatMap (fun hv => (hv.2.acopies.filter (fun c => !c.2.out && s.copyOnUnit hv.2 c.2 u)).map (fun c => (hv.1, hv.2, c.1, c.2)))

/-- What of a failing core or stand the test port cannot read (Table 15-4): each core that does not answer (`dead`) or has a word of its
context registers or local SRAM that reads uncorrectable, and 17 for a stand's shared SRAM. -/
def State.lostParts (s : State) (u : UnitId) (dead : List Nat) : List Nat :=
  let ps := u.die * 72 + u.cmpt * 9 + u.stand
  let core := fun (k : Nat) => dead.contains k || (s.die u.die).sramBad (coreBase (ps * 17 + k)) 0x10000 ||
    (s.die u.die).sramBad (coreBase (ps * 17 + k) + 0x12000) 0x800
  if u.level = 1 then [u.unit].filter core
  else if u.level = 3 then pick 17 core ++ (if dead.contains 17 || (s.die u.die).sramBad (standBase ps) 0x200000 then [17] else [])
  else []

/-- A copy loses state with the parts of a unit that cannot be read: a slot of its own that is not clean, or its stand's shared SRAM. -/
def State.partsLost (s : State) (u : UnitId) (lost : List Nat) (v : Version) (cp : ACopy) : Bool :=
  let ps := u.die * 72 + u.cmpt * 9 + u.stand
  s.copyOnUnit v cp u && (lost.contains 17 ||
    (s.copyCores v cp).any (fun p => p / 17 == ps && lost.contains (p % 17) && ((s.core p).slot v.slot).dirty))

/-- Stop the copies on a failing core or stand (R352): they admit nothing while its move lasts, their messages fail, and where state
cannot be read R355 applies. -/
def State.stopCopies (s : State) (u : UnitId) (lost : List Nat) : State :=
  (s.copiesOn u).foldl (fun s x =>
    let r := if s.partsLost u lost x.2.1 x.2.2.2 then s.stateLost x.1 x.2.1 x.2.2.1 x.2.2.2 else (false, s)
    r.2.failCopy x.1 x.2.1 x.2.2.1 x.2.2.2 true r.1) s

/-- A stand that a core or stand belongs to is in a cruise step (R371): moving for its test, or under it. -/
def State.cruising (s : State) (u : UnitId) : Bool :=
  let same := fun (w : UnitId) => (w.level == 1 || w.level == 3) && w.die == u.die && w.cmpt == u.cmpt && w.stand == u.stand
  (u.level == 1 || u.level == 3) &&
  (s.units.moves.any (fun m => m.drain && m.test && same m.unit) || s.units.tests.any (fun t => same t.1))

/-- The unit serves a logical place. -/
def State.serving (s : State) (u : UnitId) : Bool :=
  match u.level with
  | 1 => (s.coresOf (u.die * 72 + u.cmpt * 9 + u.stand)).contains u.unit
  | 2 => ((s.lanesOf u.die (u.cmpt * 2 + u.unit / 272)).take 256).contains (u.unit % 272)
  | 3 => (s.standsOf u.die u.cmpt).contains u.stand
  | _ => true

/-- The unit that a spare is. -/
def spareUnit (u : UnitId) (k : Nat) : UnitId :=
  match u.level with
  | 1 => { u with unit := k }
  | 2 => { u with unit := u.unit / 272 * 272 + k }
  | _ => { u with stand := k }

/-- Two units are of the level and the place whose spares they share: a stand's cores, an engine's lanes, a compartment's stands. -/
def sameSpares (u w : UnitId) : Bool :=
  u.level == w.level && u.die == w.die && u.cmpt == w.cmpt &&
  (if u.level = 1 then u.stand == w.stand else if u.level = 2 then u.unit / 272 == w.unit / 272 else true)

/-- A unit's number among those that share spares with it. -/
def spareNum (u : UnitId) : Nat := if u.level = 1 then u.unit else if u.level = 2 then u.unit % 272 else u.stand

/-- The spare that takes over from a unit: a free one of its level, else one whose test is stopped for it, else one to which cruise moves
another unit that has not failed (R14, R15). -/
def State.spareFor (s : State) (u : UnitId) : Option Nat :=
  let free := match u.level with
    | 1 => s.coppice u.die u.cmpt u.stand
    | 2 => (s.spareLanes u.die (u.cmpt * 2 + u.unit / 272)).head?
    | 3 => s.spareStand u.die u.cmpt
    | _ => none
  if u.level = 0 ∨ 3 < u.level then none
  else match free with
    | some k => some k
    | none =>
      match s.units.tests.find? (fun t => sameSpares t.1 u && t.1 != u && !s.serving t.1) with
      | some t => some (spareNum t.1)
      | none => (s.units.moves.find? (fun m => sameSpares m.unit u && m.unit != u && m.drain && m.test)).map (·.spare)

/-- Stop shadowing by the spare lane that physical lane l is, until its next turn (R103). -/
def State.shadowStop (s : State) (d e l : Nat) : State :=
  match (pick 16 (fun sp => (s.lanesOf d e)[256 + sp]? == some l)).head? with
  | none => s
  | some sp =>
    let k := shadowKey d e sp
    if s.units.shadowOff.contains k then s else { s with units.shadowOff := s.units.shadowOff ++ [k] }

/-- Exchange two physical lanes of an engine in its list. -/
def State.swapLanes (s : State) (d e a b : Nat) : State :=
  let l := (s.lanesOf d e).map (fun l => if l = a then b else if l = b then a else l)
  { s with units.laneMap := Tbl.put s.units.laneMap (d * 16 + e) l }

/-- Stop or resume the stationary copies that hold a logical lane (R104). -/
def State.stopLane (s : State) (d e l : Nat) (stop : Bool) : State :=
  { s with handles := Tbl.mapVals s.handles (fun _ h =>
      let f := fun (v : Version) => { v with fcopies := Tbl.mapVals v.fcopies (fun _ c =>
        if !c.out && c.lanes.any (fun x => x.1 == d && x.2.1 == e && x.2.2.1 == l) then
          { c with stopped := if stop then c.stopped + 1 else c.stopped - 1 } else c) }
      { h with serving := h.serving.map f, staged := h.staged.map f, old := h.old.map f }) }

/-- Mark a unit SUSPECT (R350). -/
def State.markSuspect (s : State) (u : UnitId) : State :=
  { s with units.suspects := (s.units.suspects.filter (fun x => x.1 != u)) ++ [(u, s.time.raw)] }

/-- Begin the replacement of a failing unit by a spare (R104, R352): copies stop, items fail, and what held the spare or the
unit lets go; a copy drain of the unit that is under way becomes this move (R371), and cruise's move of another unit to that spare ends, which keeps
its work. `dead`: the parts that do not answer the test port. -/
def State.beginMove (s : State) (u : UnitId) (k : Nat) (test : Bool) (dead : List Nat) : State :=
  let lost := s.lostParts u dead
  let s1 := { s with
    units.tests := s.units.tests.filter (fun t => t.1 != spareUnit u k)
    units.moves := (s.units.moves.filter (fun m => m.unit != u && !(sameSpares m.unit u && m.spare == k))) ++ [⟨u, k, test, false, lost⟩] }
  if u.level = 2 then
    let e := u.cmpt * 2 + u.unit / 272
    match s1.logicalLane u.die e (u.unit % 272) with
    | none => s1
    | some l =>
      let s2 := s1.failLanes (fun x => x == (u.die, e, l))
      (s2.stopLane u.die e l true).shadowStop u.die e k
  else s1.stopCopies u lost

/-- All parts of a unit, or none, answer the test port. -/
def deadParts (u : UnitId) (readable : Bool) : List Nat :=
  if readable then [] else if u.level = 1 then [u.unit] else List.range 18

/-- A retired core, lane or stand that served gives its place to a spare, else repair escalates (R14). -/
def State.replaceUnit (s : State) (u : UnitId) (origin : Nat) (dead : List Nat) : State :=
  match s.spareFor u with
  | some k => s.beginMove u k false dead
  | none =>
    let up : UnitId := { u with level := 3, unit := 0 }
    if u.level = 1 then
      if !s.serving up then s.enterMap up 8 origin
      else match (match s.units.moves.find? (fun m => m.unit == up) with | some m => some m.spare | none => s.spareFor up) with
        | some k => (s.enterMap up 8 origin).beginMove up k false dead
        | none => s.retireCmpt u.die u.cmpt 8 origin
    else s.retireCmpt u.die u.cmpt 8 origin

/-- A spare fails while moves onto it are under way: each is abandoned (R371). A unit that cruise was moving keeps its work; one that a
check event had flagged stays in service, SUSPECT; one that is retired needs another spare. -/
def State.abandonOnto (s : State) (u : UnitId) (origin : Nat) : State :=
  let gone := s.units.moves.filter (fun m => sameSpares m.unit u && m.spare == spareNum u)
  let s1 := { s with units.moves := s.units.moves.filter (fun m => !gone.contains m) }.restop
  gone.foldl (fun s m =>
    if s.inMap m.unit then s.replaceUnit m.unit origin m.lost else if m.drain then s else s.markSuspect m.unit) s1

/-- A unit fails for good (R14): it is retired; when it served, the spare of its level takes over, else repair escalates. -/
def State.failUnit (s : State) (u : UnitId) (cause origin : Nat) (readable : Bool) : State :=
  match u.level with
  | 4 => s.retireCmpt u.die u.cmpt cause origin
  | 5 => s.retireDie u.die cause origin (portCause cause)
  | 6 =>
    if !hubUnit u.unit then s.leaveService
    else
      let s1 := s.enterMap u cause origin
      if 0x100 ≤ u.unit then (List.range 4).foldl (fun s k => s.portDown ((u.unit - 0x100) * 4 + k)) s1
      else s1
  | _ =>
    let s1 := if u.level = 2 then (s.enterMap u cause origin).shadowStop u.die (u.cmpt * 2 + u.unit / 272) (u.unit % 272)
      else s.enterMap u cause origin
    if !s.serving u then s1.abandonOnto u origin
    else match s.units.moves.find? (fun m => m.unit == u) with
      -- a move of this unit onto the spare goes on (R371)
      | some m => s1.beginMove u m.spare false (deadParts u readable)
      | none => s1.replaceUnit u origin (deadParts u readable)

/-! ## Check events (R349 to R351) -/

/-- A unit that is in service or a spare: neither it nor a unit that holds it is retired. -/
def State.unitLive (s : State) (u : UnitId) : Bool :=
  match u.level with
  | 1 => s.coreOk u.die u.cmpt u.stand u.unit
  | 2 => s.laneOk u.die (u.cmpt * 2 + u.unit / 272) (u.unit % 272)
  | 3 => s.standOk u.die u.cmpt u.stand
  | 4 => s.cmptOk u.die u.cmpt
  | 5 => s.dieOk u.die
  | _ => !s.inMap u

/-- Raw counts of SUSPECT_WIN. -/
def State.suspectWin (s : State) : Nat := s.cfg Reg.RPR_CTL 7 0 * 100000000

/-- The unit is marked SUSPECT and its window has not passed. -/
def State.suspect (s : State) (u : UnitId) : Bool :=
  s.units.suspects.any (fun x => x.1 == u && decide (s.time.raw ≤ x.2 + s.suspectWin))

/-- The unit that a first check event replaces, with the spare that takes over (R350): the unit itself, or the stand of a core whose coppice
is in service (R14 item 1). -/
def State.replacement (s : State) (u : UnitId) : Option (UnitId × Nat) :=
  let up : UnitId := { u with level := 3, unit := 0 }
  let spare := fun (w : UnitId) => match s.units.moves.find? (fun m => m.unit == w) with | some m => some m.spare | none => s.spareFor w
  if !s.serving u then none
  else match spare u with
    | some k => some (u, k)
    | none => if u.level = 1 ∧ s.serving up then (spare up).map (fun k => (up, k)) else none

/-- A check event on a unit (R350, R351): a SUSPECT one is retired; else the unit is replaced and then tested when a spare is free, and is
marked SUSPECT when none is. Of a stand that cruise moves the move completes and the source is retired; a spare stand to which a stand
moves is retired, and the move abandoned (R371). -/
def State.checkUnit (s : State) (u : UnitId) (readable : Bool) : State :=
  if s.inMap u || s.units.moves.any (fun m => m.unit == u && !m.drain) then s
  else if s.suspect u then
    (if u.level = 5 then s.retireDie u.die 3 3 true else s.failUnit u 3 3 readable)
  else if u.level = 3 ∧ s.units.moves.any (fun m => m.unit == u || (m.unit.level == 3 && spareUnit m.unit m.spare == u)) then
    s.failUnit u 2 3 readable
  else match s.replacement u with
    | some (w, k) => s.beginMove w k true (deadParts u readable)
    | none => s.markSuspect u

/-- The words that an uncorrectable error of a unit's own memories can be in (Table 14-5): a core's instruction memory and context
registers, a lane's buffer, a stand's shared SRAM, a compartment's tree store. -/
def unitSpan (u : UnitId) : Option (Nat × Nat) :=
  match u.level with
  | 1 => some (coreBase ((u.cmpt * 9 + u.stand) * 17 + u.unit) + 0x10000, 0x2800)
  | 2 => some (laneBase (u.cmpt * 2 + u.unit / 272) (u.unit % 272), 0x800)
  | 3 => some (standBase (u.cmpt * 9 + u.stand), 0x200000)
  | 4 => some (storeBase u.cmpt, 0x800000)
  | _ => none

/-- The reports that a check makes of itself: RESIDUE with the core and slot (R192, R193), MEM_UE, SHADOW_MISMATCH. -/
def State.checkPost (s : State) (u : UnitId) (c : CheckKind) : State :=
  let core := (u.cmpt * 9 + u.stand) * 17 + u.unit
  match c with
  | .residue k => s.post (11 + u.die) 2 [(core, 16), (k, 8)]
  | .parity k => s.post (11 + u.die) 2 [(core, 16), (k, 8)]
  | .uncorrectable =>
    match unitSpan u with
    | some r => s.spanUe u.die [r]
    | none =>
      if u.level = 6 then (s.count Reg.GCTL_CNT_HUBUE).post 0 13 []
      else (s.count (Reg.MEM_CNT_SUE u.die)).post (11 + u.die) 5 []
  | .shadow => (s.count (Reg.FRST_CNT_SHADOW u.die)).post (11 + u.die) 4 []
  | _ => s

/-- A shadow mismatch (R102): the partner lane and the lane that shadows it are both to be tested. -/
def State.shadowTest (s : State) (u : UnitId) : State :=
  let e := u.cmpt * 2 + u.unit / 272
  let sh := match s.logicalLane u.die e (u.unit % 272) with
    | some l => (s.spareAt u.die e (l / 16)).map (laneUnit u.die e)
    | none => none
  let add := fun (s : State) (w : UnitId) =>
    if s.units.tests.any (fun t => t.1 == w) || s.inMap w then s else { s with units.tests := s.units.tests ++ [(w, 2)] }
  sh.toList.foldl add (add s u)

/-- TICK_OVERRUN marks of a core within the window. -/
def State.overrunsOf (s : State) (u : UnitId) : Nat :=
  (s.units.overruns.filter (fun x => x.1 == u && decide (s.time.raw ≤ x.2 + s.suspectWin))).length

/-- The last firing of a core that a residue check (of MUL, FMA, VMUL and VDOT) or a register parity check in a slot is about. -/
def State.firingChecked (s : State) (u : UnitId) (c : CheckKind) : Option Fired :=
  let l := (s.core ((corePhys u))).last
  match c with
  | .residue k => l.filter (fun f => f.slot == k && [0x06, 0x0F, 0x24, 0x2A].contains f.opc)
  | .parity k => l.filter (fun f => f.slot == k)
  | _ => none

/-- A residue or parity check fires in a firing (R143, R192, R193): BAD on its tokens and its message's verdict bad; a firing that read or
wrote a context register has touched every message of its copy (log 139). -/
def State.firingBad (s : State) (p : Nat) (l : Fired) : State :=
  let mark := fun (core queue : Nat) (t : Tok) =>
    if l.sent.any (fun f => f.core == core && f.queue == queue && f.tok == t) then { t with bad := true } else t
  let s1 : State := { s with
    flights := Tbl.mapVals s.flights (fun _ f => { f with tok := mark f.core f.queue f.tok })
    cores := Tbl.mapVals s.cores (fun q c => { c with queues := Tbl.mapVals c.queues (fun k ts => ts.map (mark q k)) })
    fevals := Tbl.mapVals s.fevals (fun k f => if f.core = p ∧ l.fevals.contains k then { f with bad := true } else f)
    dmas := Tbl.mapVals s.dmas (fun k d => if d.core = p ∧ l.dmas.contains k then { d with bad := true } else d) }
  match Tbl.find s.runs l.run with
  | none => s1
  | some r =>
    let runs := if l.context then s.copyRuns r.handle r.version r.copy else [(l.run, r)]
    runs.foldl (fun s x =>
      let s := s.runBad x.1
      match x.2.slot, x.2.ctx with
      | some n, _ => s.itemFail false n
      | none, some k => s.ctxFail k 1 x.2.pos
      | none, none => s) s1

/-- A residue check fires only in a firing of its opcodes, a register parity check in a firing. -/
def State.checkFires (s : State) (u : UnitId) (c : CheckKind) : Bool :=
  match c with
  | .residue _ => (s.firingChecked u c).isSome
  | .parity _ => (s.firingChecked u c).isSome
  | _ => true

/-- CHECK_EVENT (R349 to R352): the items touched fail, the check is reported, and its unit acted on. An engine is named as its
compartment with unit 0 or 1. -/
def State.checkEvent (s : State) (u : UnitId) (c : CheckKind) (items : List Nat) (readable : Bool) : State :=
  let hub := u.level == 6 && !hubUnit u.unit
  -- the rest of the hub is one unit (Table 15-3)
  let u : UnitId := if hub then ⟨6, 0xF, 0, 0, 0xFFF⟩ else u
  -- the port of a retired die can still fail (R17)
  let port := u.level == 5 && c == .hardEcc && decide (u.die < 4) && !(s.die u.die).lost
  -- duplicated adders are one engine's, engine 0 or 1 of the compartment (Table 15-3): each is SUSPECT by itself
  let engine := u.level == 4 && c == .duplicate && u.unit == 1 && unitValid { u with unit := 0 }
  if !(unitValid u || hub || engine) || !(s.unitLive u || port) || !s.checkFires u c then s
  else
    let s0 := match s.firingChecked u c with | some l => s.firingBad ((corePhys u)) l | none => s
    let s1 : State := (items.foldl (State.itemFail · false ·) s0).checkPost u c
    let s2 := match c with
      | .shadow => if u.level = 2 then s1.shadowTest u else s1
      | .hardEcc => s1.failUnit u 7 3 readable
      -- data words: the samples and messages that read them fail, and nothing is charged to the unit (Table 14-7)
      | .uncorrectable => if 2 ≤ u.level ∧ u.level ≤ 4 then s1 else s1.checkUnit u readable
      | .overrun =>
        if s1.overrunsOf u < 2 then s1
        else ({ s1 with units.overruns := s1.units.overruns.filter (fun x => x.1 != u) }).checkUnit u readable
      | _ =>
        if u.level = 6 ∧ u.unit < 0x40 then
          -- a digest pair that differs: both engines (Table 15-3)
          (match s1.digestPair u.unit with
          | some (_, a, b) => (s1.checkUnit { u with unit := a } readable).checkUnit { u with unit := b } readable
          | none => s1.checkUnit u readable)
        else if u.level = 6 ∧ 0x80 ≤ u.unit ∧ u.unit < 0x90 then (s1.boomFault).checkUnit u readable
        else s1.checkUnit u readable
    s2.settle

/-- A stationary copy of a version holds a lane on die d. -/
def Version.onDie (v : Version) (copy : Option Nat) (d : Nat) : Bool :=
  match copy.bind (Tbl.find v.fcopies) with | some c => c.lanes.any (fun l => l.1 == d) | none => false

/-- FEVALs that wait for a partial of die d, made for a message by its slot, or from 65,536 up for the step that generation context
n − 65,536 has in its copy. -/
def State.fevalsOwed (s : State) (n d : Nat) : Tbl Feval :=
  let mine := fun (r : ArrayRun) => if n < 65536 then r.slot == some n else r.slot.isNone && r.ctx == some (n - 65536)
  s.fevals.filter (fun f => !f.2.bad && (match Tbl.find s.runs f.2.run with | some r => mine r | none => false) &&
    (match (s.handle f.2.handle).ver f.2.version with
     | some v => v.onDie f.2.copy d
     | none => false))

/-- The sample of message n waits for a partial of die d that is not noted late yet. -/
def State.awaitsPartial (s : State) (n d : Nat) : Bool :=
  match Tbl.find s.msgs n with
  | some m => (match m.forest, (s.handle m.target).ver m.version with
    | some r, some v => m.stage == .running && v.onDie r.copy d && !r.lateDies.contains d
    | _, _ => false)
  | none => false

/-- PARTIAL_LATE (R99): the die that owed a stationary copy's partial is late: the sample's unit-check verdict is bad, or the result of the
FEVAL sample comes back BAD, and a check event is charged to the die's bridge (Table 15-3). -/
def State.partialLate (s : State) (n d : Nat) : State :=
  let late := s.awaitsPartial n d
  let owed := (s.fevalsOwed n d).map (·.1)
  if 4 ≤ d ∨ late = false ∧ owed = [] then s
  else
    let s1 := s.count (Reg.FRST_CNT_LATE d)
    let s2 := if late then
        State.unitFail { s1 with msgs := Tbl.modify s1.msgs n (fun m =>
          { m with forest := m.forest.map (fun r => { r with lateDies := r.lateDies ++ [d] }) }) } n false
      else { s1 with fevals := Tbl.mapVals s1.fevals (fun k f => if owed.contains k then { f with bad := true } else f) }
    (s2.checkUnit ⟨5, d, 0, 0, 0⟩ true).settle

/-- PARTIAL_LATE (R99). -/
def execPartialLate (slot die : Nat) (s : State) : Host.Outcome State Fault Refusal := .next (s.partialLate slot die)

/-- CHECK_EVENT (R350). -/
def execCheckEvent (unit : UnitId) (check : CheckKind) (slots : List Nat) (readable : Bool) (s : State) :
    Host.Outcome State Fault Refusal := .next (s.checkEvent unit check slots readable)

/-- SUSPECT_EXPIRE (R351): the window has passed with no further event. -/
def execSuspectExpire (unit : UnitId) (s : State) : Host.Outcome State Fault Refusal :=
  .next { s with units.suspects := s.units.suspects.filter (fun x =>
    !(x.1 == unit && decide (x.2 + s.suspectWin ≤ s.time.raw))) }

/-! ## The end of a replacement (R104, R352, R354) -/

/-- Write a slot of a core that took over as its image has it: instruction memory always; context registers and local SRAM
when it is clean, or its state is lost. -/
def State.restoreSlot (s : State) (p k : Nat) (lost : Bool) : State :=
  match s.slotHome p k with
  | none => s
  | some (h, v, _, cp, i) =>
    let sl := (s.core p).slot k
    let sound := s.imageIntact v
    let s := s.mirrorHeal v.imageAt v.image.length
    if !sound then s.modelDone h 0x0B 0x11
    else if sl.dirty && !lost then
      let r := v.crec i
      s.setCore p ((s.core p).setSlot k { sl with imem := (List.range r.nins).map (fun j => (j, BitVec.ofNat 64 (insWord v.image v.prog r j))) })
    else
      let alone := (List.range 4).all (fun j => j == k || ((s.core p).slot j).handle.isNone)
      s.loadCore h v cp i (alone || lost)

/-- A copy of a unit whose image fails its check stays closed; the others reopen with the end of the move (Table 15-4). -/
def State.reopen (s : State) (h n c : Nat) : State :=
  match (s.handle h).ver n with
  | none => s
  | some v =>
    if s.imageIntact v then s
    else s.modVer h n (fun v => { v with acopies := Tbl.modify v.acopies c (fun y => { y with shut := true }) })

/-- The spare core takes the failed core's place. -/
def State.coreTakes (s : State) (u : UnitId) (k : Nat) (lost : Bool) : State :=
  let ps := u.die * 72 + u.cmpt * 9 + u.stand
  let s0 := s.moveCore (ps * 17 + u.unit) (ps * 17 + k)
  let s1 := if lost then s0.healSram u.die (coreBase (ps * 17 + k)) 0x12800 else s0
  (List.range 4).foldl (fun s j => s.restoreSlot (ps * 17 + k) j lost) s1

/-- The spare stand takes a stand's place: its cores in logical order, and its shared SRAM. -/
def State.standMoves (s : State) (u : UnitId) (k : Nat) : State :=
  let a := u.die * 72 + u.cmpt * 9 + u.stand
  let b := u.die * 72 + u.cmpt * 9 + k
  let pairs := (s.coresOf a).zip (s.coresOf b)
  let s1 := pairs.foldl (fun (s : State) (x : Nat × Nat) =>
    let p := a * 17 + x.1
    let q := b * 17 + x.2
    let y := s.die u.die
    State.setDie { s with
      cores := Tbl.del (Tbl.put s.cores q (s.core p)) p
      flights := Tbl.mapVals s.flights (fun _ f => if f.core = p then { f with core := q } else f)
      dmas := Tbl.mapVals s.dmas (fun _ d => { d with core := if d.core = p then q else d.core, also := sinksMove d.also p q })
      fevals := Tbl.mapVals s.fevals (fun _ f => { f with core := if f.core = p then q else f.core, also := sinksMove f.also p q }) } u.die
      { y with sram := (sramMove y.sram (coreBase p) (coreBase q) 65536).clear (coreBase p) 65536
               sramUe := ueMove y.sramUe (coreBase p) (coreBase q) 0x12800 }) s
  let y := s1.die u.die
  let s2 := s1.setDie u.die { y with
    sram := (sramMove y.sram (standBase a) (standBase b) 0x200000).clear (standBase a) 0x200000
    sramUe := ueMove y.sramUe (standBase a) (standBase b) 0x200000 }
  let l := (s2.standsOf u.die u.cmpt).map (fun x => if x = u.stand then k else x)
  { s2 with units.standMap := Tbl.put s2.units.standMap (u.die * 8 + u.cmpt) l }

/-- The spare stand takes the failed stand's place, with its slots restored (R354): what of it could not be read starts anew. -/
def State.standTakes (s : State) (u : UnitId) (k : Nat) (lost : List Nat) : State :=
  let a := u.die * 72 + u.cmpt * 9 + u.stand
  let b := u.die * 72 + u.cmpt * 9 + k
  let pairs := (s.coresOf a).zip (s.coresOf b)
  let s1 := s.standMoves u k
  let s2 := if lost.contains 17 then
      let s := s1.setDie u.die { s1.die u.die with sram := (s1.die u.die).sram.clear (standBase b) 0x200000 }
      s.healSram u.die (standBase b) 0x200000
    else s1
  pairs.foldl (fun (s : State) (x : Nat × Nat) =>
    let gone := lost.contains x.1
    let s := if gone then s.healSram u.die (coreBase (b * 17 + x.2)) 0x12800 else s
    (List.range 4).foldl (fun s j => s.restoreSlot (b * 17 + x.2) j gone) s) s2

/-- No copy with a core on a stand has a message in flight. -/
def State.standBusy (s : State) (u : UnitId) : Bool :=
  (List.range 17).any (fun k => s.coreBusy ((u.die * 72 + u.cmpt * 9 + u.stand) * 17 + k))

/-- Take a move off the list; the freed unit goes to its test, unless it is retired. -/
def State.endMove (s : State) (m : Move) : State :=
  { s with units.moves := s.units.moves.filter (fun x => x != m)
           units.tests := if m.test && !s.inMap m.unit then s.units.tests ++ [(m.unit, if m.drain then 0 else 1)] else s.units.tests }

/-- REPLACE_DONE (R104, R352, R356): the spare is mapped to the unit's coordinates and admission reopens. A stand that cruise
moves has to be empty first (R159). -/
def State.replaceDone (s : State) (u : UnitId) : State :=
  match s.units.moves.find? (fun m => m.unit == u && (!m.drain || u.level == 3)) with
  | none => s
  | some m =>
    if m.drain then
      if s.standBusy u then s
      else (s.standMoves u m.spare).endMove m
    else
      let cause := match s.units.map.find? (fun e => e.unit == u) with | some e => e.cause | none => 0
      if u.level = 2 then
        let e := u.cmpt * 2 + u.unit / 272
        match s.logicalLane u.die e (u.unit % 272) with
        | none => s.endMove m
        | some l =>
          -- the image comes from the tree store, itself rewritten from DRAM where it must be; else the tree store is faulty (Table 15-4)
          let held := (s.allVersions.filter (fun hv => hv.2.lanesUsed.contains (u.die, e, l))).map (·.2)
          if (s.die u.die).sramBad (storeBase u.cmpt) 0x800000 && held.any (fun v => !s.imageIntact v) then
            (s.endMove m).retireCmpt u.die u.cmpt 8 3
          else
            (((((s.rewriteStore u.die u.cmpt).swapLanes u.die e (u.unit % 272) m.spare).rewriteLane u.die e l).stopLane u.die e l false).endMove m).repaired
              u cause 3
      else
        let on := s.copiesOn u
        -- a held program copy starts again from its image (R355)
        let again := on.filter (fun x => x.2.2.2.lostHold && s.partsLost u m.lost x.2.1 x.2.2.2)
        let s1 := if u.level = 1 then s.coreTakes u m.spare (m.lost != []) else s.standTakes u m.spare m.lost
        let s2 := again.foldl (fun s x => s.loadCopy x.1 x.2.1 x.2.2.2) s1
        let s3 := on.foldl (fun s x => s.reopen x.1 x.2.1.number x.2.2.1) s2
        (s3.endMove m).repaired u cause 3

/-- REPLACE_DONE (R352). -/
def execReplaceDone (unit : UnitId) (s : State) : Host.Outcome State Fault Refusal := .next (s.replaceDone unit)

/-! ## Bridges (R12) -/

/-- The word's lane is steered onto a spare; `none` when no spare lane of the direction is free. Spare lanes are numbered 120 to
127 (log 24). -/
def steerSpare (l : List (Nat × Nat)) (bad : Nat) : Option Nat :=
  ((List.range 8).map (· + 120)).find? (fun x => x != bad && !l.any (fun e => e.1 == x || e.2 == x))

/-- BRIDGE_LANE_CHECK (R12): a lane that returns a wrong bit is steered onto a free spare lane; with none free the bridge fails
its check, and is taken out of service with its die. -/
def State.bridgeCheck (s : State) (d : Nat) (toDie : Bool) (bad : Option Nat) : State :=
  match bad with
  | none => s
  | some l =>
    let k := d * 2 + b2n (!toDie)
    let st := Tbl.getD s.units.steered k []
    if 4 ≤ d ∨ (s.die d).lost ∨ 128 ≤ l ∨ st.any (fun e => e.1 == l) then s
    else match steerSpare st l with
      | some x =>
        ((State.journal { s with units.steered := Tbl.put s.units.steered k (st ++ [(l, x)]) } 0xD 3
          (d + l * 2 ^ 8 + x * 2 ^ 16 + b2n (!toDie) * 2 ^ 24) none 3).post (11 + d) 6 [(d, 8)])
      | none => s.retireDie d 5 3 true

/-- BRIDGE_LANE_CHECK (R12). -/
def execBridgeLaneCheck (die : Nat) (toDie : Bool) (bad : Option Nat) (s : State) : Host.Outcome State Fault Refusal :=
  .next (s.bridgeCheck die toDie bad)

/-- BRIDGE_UE (R12): the items of the transfer fail; a second uncorrectable error within 1 s takes the bridge out of service
with its die. -/
def State.bridgeUe (s : State) (d : Nat) (items : List Nat) : State :=
  if 4 ≤ d ∨ (s.die d).lost then s
  else
    let s1 := items.foldl (State.itemFail · false ·) s
    let again := match Tbl.find s1.units.bridgeUe d with | some t => decide (s1.time.raw ≤ t + 1000000000) | none => false
    if again then (s1.retireDie d 5 3 true).settle
    else ({ s1 with units.bridgeUe := Tbl.put s1.units.bridgeUe d s1.time.raw }).settle

/-- BRIDGE_UE (R12). -/
def execBridgeUe (die : Nat) (slots : List Nat) (s : State) : Host.Outcome State Fault Refusal := .next (s.bridgeUe die slots)

/-! ## Cruise (R356 to R358) -/

/-- Begin a test of a unit that is free. -/
def State.startTest (s : State) (u : UnitId) : State :=
  if s.units.tests.any (fun t => t.1 == u) then s else { s with units.tests := s.units.tests ++ [(u, 0)] }

/-- Count a unit that this pass does not test (R357). -/
def State.skip (s : State) : State := { s with units.skipped := s.units.skipped + 1 }

/-- Test physical lane l of an engine (R356): one in service is first replaced by the spare lane that shadows it, with no
sample stopped. -/
def State.cruiseLane (s : State) (d e l : Nat) : State :=
  if !s.laneOk d e l || s.units.moves.any (fun m => m.unit == laneUnit d e l) then s
  else match s.logicalLane d e l with
    | some i =>
      (match s.spareAt d e (i / 16) with
      | some k => ((s.shadowStop d e k).swapLanes d e l k).startTest (laneUnit d e l)
      | none => s.skip)
    | none => (s.shadowStop d e l).startTest (laneUnit d e l)

/-- A copy drain of a unit that is to leave service begins (R159). -/
def State.drainMove (s : State) (u : UnitId) (k : Nat) (test : Bool) : State :=
  { s with units.moves := s.units.moves ++ [⟨u, k, test, true, []⟩] }

/-- Test a physical stand: one in service moves to the spare stand by a copy drain first (R356). -/
def State.cruiseStand (s : State) (d c st : Nat) : State :=
  let u : UnitId := ⟨3, d, c, st, 0⟩
  if !s.standOk d c st || s.units.moves.any (fun m => m.unit == u) then s
  else if s.serving u then
    match s.spareStand d c with
    | some k => s.drainMove u k true
    | none => if (s.coppice d c st).isSome then s else s.skip
  else s.startTest u

/-- Test a physical core by core rotation: one in service moves to the coppice by a copy drain first (R357); with the coppice in service
its stand moves to the spare stand, and is tested (R358). -/
def State.cruiseCore (s : State) (p : Nat) : State :=
  let u := coreUnit p
  if !s.coreOk u.die u.cmpt u.stand u.unit || s.units.moves.any (fun m => m.unit == u) then s
  else if s.serving u then
    match s.coppice u.die u.cmpt u.stand with
    | some k => s.drainMove u k true
    | none => if s.units.moves.any (fun m => m.unit.level == 1 && sameSpares m.unit u) then s else s.cruiseStand u.die u.cmpt u.stand
  else s.startTest u

/-- Take a digest pair out for its test. -/
def State.cruisePair (s : State) (j : Nat) : State :=
  match s.digestPairs.find? (fun p => p.1 == j && !s.units.pairsOut.contains j) with
  | none => s
  | some p => State.startTest (State.startTest { s with units.pairsOut := s.units.pairsOut ++ [j] } ⟨6, 0xF, 0, 0, p.2.1⟩) ⟨6, 0xF, 0, 0, p.2.2⟩

/-- A test asked for out of turn (R358): an extra step. It waits while the unit's stand is in a cruise step (R371). A compartment, a die and
a hub unit other than a digest engine have no spare at any level, and a unit that has none is not tested (R357). -/
def State.outOfTurn (s : State) (u : UnitId) : State :=
  if s.cruising u then s
  else
    let s1 := { s with units.asked := s.units.asked.filter (fun x => x != u) }
    match u.level with
    | 1 => s1.cruiseCore ((u.die * 72 + u.cmpt * 9 + u.stand) * 17 + u.unit)
    | 2 => s1.cruiseLane u.die (u.cmpt * 2 + u.unit / 272) (u.unit % 272)
    | 3 => s1.cruiseStand u.die u.cmpt u.stand
    | 6 => if u.unit < 0x40 then
        (match s1.digestPair u.unit with | some (j, _, _) => s1.cruisePair j | none => s1) else s1
    | _ => s1

/-- The stands of a compartment whose spare stand is in service test by core rotation (R357). -/
def State.rotate (s : State) (d c k : Nat) : State :=
  if (s.spareStand d c).isSome || s.units.moves.any (fun m => m.unit.level == 3 && m.unit.die == d && m.unit.cmpt == c) ||
      s.units.tests.any (fun t => t.1.level == 3 && t.1.die == d && t.1.cmpt == c) then s
  else (List.range 9).foldl (fun s st =>
    if s.standOk d c st && (s.coppice d c st).isSome then s.cruiseCore ((d * 72 + c * 9 + st) * 17 + k) else s) s

/-- The steps of cruise slot i (R356). -/
def State.cruiseSteps (s : State) (i : Nat) : State :=
  let s1 := s.units.asked.foldl State.outOfTurn s
  let s2 := (List.range 64).foldl (fun s n => s.cruiseLane (n / 16) (n % 16) i) s1
  let s3 := if i % 30 = 0 ∧ i ≤ 240 then (List.range 32).foldl (fun s n =>
      if s.cmptOk (n / 8) (n % 8) then s.cruiseStand (n / 8) (n % 8) (i / 30) else s) s2 else s2
  let s4 := (List.range 32).foldl (fun s n => if s.cmptOk (n / 8) (n % 8) then s.rotate (n / 8) (n % 8) (i % 17) else s) s3
  if i % 8 = 0 ∧ i ≤ 248 then s4.cruisePair (i / 8) else s4

/-- CRUISE_SLOT (R356): SLOT ms after the one before, while EN is set, the journal has room (R390) and the device is
in Run (R392). A pass of 272 slots that
has ended is counted. -/
def State.cruiseSlot (s : State) : State :=
  let w := s.cfgW Reg.RPR_CRUISE
  if !bitAt w 31 || !s.mgmt.inService || s.mgmt.jr.full || s.power.state != 0 ||
      (decide (0 < s.units.slot) && decide (s.time.raw < s.units.slotAt + fld w 11 0 * 1000000)) then s
  else
    let i := s.units.slot % 272
    let s1 := if i = 0 ∧ 0 < s.units.slot then
        State.post { s with units.passes := min 0xFFF (s.units.passes + 1), units.untested := s.units.skipped, units.skipped := 0 } 8 4 []
      else s
    State.cruiseSteps { s1 with units.slot := s1.units.slot + 1, units.slotAt := s1.time.raw } i

/-- CRUISE_SLOT (R356). -/
def execCruiseSlot (s : State) : Host.Outcome State Fault Refusal := .next s.cruiseSlot

/-! ## Repair commands (R348, R358, R360, R363) -/

/-- The unit that an RPR_CMD names (Table 15-12); the hub die has no DIE number there. -/
def cmdUnit (w : Word) : UnitId :=
  let l := fld w 27 24
  if l = 6 then ⟨6, 0xF, 0, 0, fld w 11 0⟩
  else ⟨l, fld w 23 22, if 1 ≤ l ∧ l ≤ 4 then fld w 21 19 else 0, if l = 1 ∨ l = 3 then fld w 18 15 else 0,
    if l = 1 ∨ l = 2 then fld w 11 0 else 0⟩

/-- Report an RPR_CMD's STATUS. -/
def State.rprDone (s : State) (st : Nat) : State := { s with units.cmdWait := none, units.cmdStatus := st }

/-- Take a unit out of service on request: a core, a stand or a lane whose spare is free moves with no item stopped (R159,
R356); else R14 applies. -/
def State.takeOut (s : State) (u : UnitId) (origin : Nat) : State :=
  if u.level = 2 then
    let e := u.cmpt * 2 + u.unit / 272
    match s.serving u, (s.spareLanes u.die e).head? with
    | true, some k => ((((s.enterMap u 6 origin).shadowStop u.die e k).swapLanes u.die e (u.unit % 272) k).repaired u 6 origin)
    | _, _ => s.failUnit u 6 origin true
  else if u.level = 1 then
    match s.serving u, s.coppice u.die u.cmpt u.stand with
    | true, some k => (s.enterMap u 6 origin).drainMove u k false
    | true, none =>
      -- with the coppice in service the spare stand takes the stand (R14)
      let up : UnitId := { u with level := 3, unit := 0 }
      (match s.serving up, s.spareStand u.die u.cmpt with
      | true, some k => ((s.enterMap u 6 origin).enterMap up 8 origin).drainMove up k false
      | _, _ => s.failUnit u 6 origin true)
    | _, _ => s.failUnit u 6 origin true
  else if u.level = 3 then
    match s.serving u, s.spareStand u.die u.cmpt with
    | true, some k => (s.enterMap u 6 origin).drainMove u k false
    | _, _ => s.failUnit u 6 origin true
  else s.failUnit u 6 origin true

/-- RPR_CMD RETIRE (R360): a unit in the map already stays as it is; fewer than three tract dies may not remain. -/
def State.retire (s : State) (u : UnitId) (origin : Nat) : State :=
  if !unitValid u then s.rprDone 1
  else if !s.unitLive u then s.rprDone 0
  else if u.level = 5 ∧ s.diesIn.length ≤ 3 then s.rprDone 2
  else (s.takeOut u origin).rprDone 0

/-- RPR_CMD UNRETIRE (R348). -/
def State.unretire (s : State) (u : UnitId) (origin : Nat) : State :=
  if !unitValid u then s.rprDone 1
  else match s.units.map.find? (fun e => e.unit == u) with
    | none => s.rprDone 3
    | some e =>
      if e.cause = 1 ∧ !e.inherited then s.rprDone 3
      else
        let e1 := { e with unretire := true }
        (State.repairEntry { s with units.map := s.units.map.map (fun x => if x.unit = u then e1 else x) } e1 512 origin).rprDone 0

/-- RPR_CMD TEST (R358): the test is made in the next cruise slot. -/
def State.askTest (s : State) (u : UnitId) : State :=
  if !unitValid u then s.rprDone 1
  else if !s.unitLive u || s.units.asked.contains u then s.rprDone 0
  else State.rprDone { s with units.asked := s.units.asked ++ [u] } 0

/-- Run an RPR_CMD of operation `op`; while one waits the write is ignored, and a TEST or RETIRE waits for the cruise step that
its unit's stand is in (R371, Table 15-12). -/
def State.rprCmd (s : State) (op : Nat) (w : Word) (origin : Nat) : State :=
  let u := cmdUnit w
  if s.units.cmdWait.isSome then s
  else if (op = 1 ∨ op = 3) ∧ unitValid u ∧ s.cruising u then
    { s with units.cmdWait := some (setFld w 31 28 op, origin) }
  else if op = 1 then (s.retire u origin).settle
  else if op = 2 then s.unretire u origin
  else if op = 3 then s.askTest u
  else if op = 4 then (s.memberLost (fld w 11 0)).rprDone 0
  else if op = 5 then State.rprDone { s with boom.back := addRank s.boom.back (fld w 11 0) } 0
  else s

/-! ## The end of a test (R350, R356) -/

/-- A command that waited for a cruise step runs once its unit's stand is out of it. -/
def State.rprWake (s : State) : State :=
  match s.units.cmdWait with
  | none => s
  | some (w, o) => if s.cruising (cmdUnit w) then s else State.rprCmd { s with units.cmdWait := none } (fld w 31 28) w o

/-- CRUISE_TEST_DONE (R350, R356): a unit that passes is a spare again, after a check event counted as TRANSIENT and tested once
more out of turn; one that fails is retired, and was in service only after a shadow mismatch. -/
def State.testDone (s : State) (u : UnitId) (pass : Bool) : State :=
  match s.units.tests.find? (fun t => t.1 == u) with
  | none => s
  | some t =>
    let s1 := { s with units.tests := s.units.tests.filter (fun x => x.1 != u) }
    let s2 := { s1 with units.pairsOut := s1.units.pairsOut.filter (fun j => s1.digestPairs.any (fun p => p.1 == j &&
      s1.units.tests.any (fun x => x.1.level == 6 && (x.1.unit == p.2.1 || x.1.unit == p.2.2)))) }
    let s3 :=
      if pass then
        if t.2 = 1 then (State.count { s2 with units.asked := s2.units.asked ++ [u] } Reg.RPR_CNT_TRANSIENT).post 8 2 [] else s2
      else (s2.count Reg.RPR_CNT_CRUISEFAIL).failUnit u (if t.2 = 2 then 4 else 2) 3 true
    s3.rprWake.settle

/-- CRUISE_TEST_DONE (R356). -/
def execCruiseTestDone (unit : UnitId) (pass : Bool) (s : State) : Host.Outcome State Fault Refusal := .next (s.testDone unit pass)

/-- MAP_FLASH_WRITE_DONE (R346): the firmware has written the signed copy of the map. -/
def State.flashWrite (s : State) : State :=
  { s with units.flash := some { type := 4, num := (match s.units.flash with | some r => r.num + 1 | none => 0), body := s.flashBody, sigOk := true } }

/-- MAP_FLASH_WRITE_DONE (R346). -/
def execMapFlashWriteDone (s : State) : Host.Outcome State Fault Refusal := .next s.flashWrite

end Sys2Proof.Machine
end

