-- ==== Sys2Proof/Machine/Memory.lean ====
section
/-! DEFINITION. Scrub, patrol and lane steering (R331 to R336, R342, R343). -/
namespace Sys2Proof.Machine

/-! ## SRAM scrub (R332, R342) -/

/-- The unit that holds a word of a tract die's aperture (Table 14-5). -/
def apertureUnit (d : Nat) (area : SramArea) (o : Nat) : UnitId :=
  let c := o / 0x10000000
  let r := o % 0x10000000
  match area with
  | .localSram | .instr => ⟨1, d, c, r / 0x1000000, (r % 0x1000000 - 0x800000) / 0x20000⟩
  | .sharedSram => ⟨3, d, c, r / 0x1000000, 0⟩
  | .laneBuffer => ⟨2, d, c, 0, (r - 0xD000000) / 0x100000 * 272 + (r - 0xD000000) % 0x100000 / 0x800⟩
  | .treeStore => ⟨4, d, c, 0, 0⟩
  | _ => ⟨6, 0xF, 0, 0, 0xFFF⟩

/-- An address lies in the area it is given for (Table 14-5). -/
def areaHas (area : SramArea) (o : Nat) : Bool :=
  let r := o % 0x10000000
  let q := r % 0x1000000
  decide (o < 0x80000000) &&
  match area with
  | .sharedSram => decide (r < 0x9000000 ∧ q < 0x200000)
  | .localSram => decide (r < 0x9000000 ∧ 0x800000 ≤ q ∧ q < 0x800000 + 17 * 0x20000 ∧ (q - 0x800000) % 0x20000 < 0x10000)
  | .instr => decide (r < 0x9000000 ∧ 0x800000 ≤ q ∧ q < 0x800000 + 17 * 0x20000 ∧ 0x10000 ≤ (q - 0x800000) % 0x20000 ∧
      (q - 0x800000) % 0x20000 < 0x12800)
  | .treeStore => decide (0xC000000 ≤ r ∧ r < 0xC800000)
  | .laneBuffer => decide (0xD000000 ≤ r ∧ r < 0xD200000 ∧ (r - 0xD000000) % 0x100000 < 272 * 0x800)
  | _ => false

/-- The area lies on the hub die. -/
def onHub : SramArea → Bool
  | .convTable | .msgTable | .replayCache | .boomBuffer | .hub => true
  | _ => false

/-- The key of a word among those with a corrected error on the last pass: hub tables are kept apart. -/
def hardKey (area : SramArea) (a : Nat) : Nat :=
  match area with
  | .convTable => 5 * a
  | .msgTable => 5 * a + 1
  | .replayCache => 5 * a + 2
  | .boomBuffer => 5 * a + 3
  | .hub => 5 * a + 4
  | _ => a / 4

/-- The sequence contexts whose state region holds a word (R204). -/
def State.ctxsAt (s : State) (d o : Nat) : List (Nat × Ctx) :=
  s.ctxs.filter (fun x => match (s.handle x.2.handle).ver x.2.version with
    | none => false
    | some v => match Tbl.find v.acopies x.2.copy with
      | none => false
      | some cp => cp.die == d && (s.ctxRegions v cp x.2.cslot).any (fun l => l.any (fun r => decide (r.1 ≤ o ∧ o < r.1 + r.2))))

/-- What an uncorrectable error of a hub table does (Table 14-7). -/
def State.hubUe (s : State) (area : SramArea) (a : Nat) : State :=
  match area with
  | .convTable =>
    -- every message of the conversation fails FAULT_FINAL and the entry becomes FREE
    let s1 := ((s.convMsgs a).map (·.1)).foldl (State.itemFail · true ·) s
    let x := s1.conv a
    let s2 := match x.ctx with | some k => s1.closeCtx k | none => s1
    ((s2.setConv a {}).setCache a []).settle
  | .msgTable => (s.itemFail false a).settle
  | .replayCache =>
    let c := a / 2 ^ 32
    s.setCache c (Tbl.modify (s.cacheOf c) (a % 2 ^ 32) (fun x => { x with lost := true }))
  | .boomBuffer => s.boomFault.settle
  | _ => s

/-- What an uncorrectable error of a tract die's SRAM does (R342): data words keep the mark until they are rewritten; a state
region is state lost; of a core's own memories it is a fault of the core; tree-store images and lane buffers are rewritten. -/
def State.tractUe (s : State) (d : Nat) (area : SramArea) (o : Nat) : State :=
  let mark := fun (s : State) => s.markSram d o
  match area with
  | .localSram => mark s
  | .sharedSram => (s.ctxsAt d o).foldl (fun s x => s.ctxFail x.1 2 x.2.p) (mark s)
  | .instr => ((mark s).checkUnit (apertureUnit d area o) true).settle
  | .treeStore | .laneBuffer => mark s
  | _ => s

/-- A word that shows a corrected error in the same bit on two passes in a row is a hard fault of its unit (R332): it is retired
with CAUSE HARD_ECC; on the hub die it is a check event of the hub. -/
def State.hardFault (s : State) (d : Nat) (area : SramArea) (a : Nat) : State :=
  if (onHub area) then (s.checkUnit ⟨6, 0xF, 0, 0, 0xFFF⟩ true).settle
  else (s.failUnit (apertureUnit d area a) 7 3 true).settle

/-- SCRUB_READ (R331, R332, R342): corrected errors are counted, and a scrub's are reported as a hard fault on the second pass in a
row; uncorrectable ones are counted, posted, and on a tract die logged. -/
def State.scrubRead (s : State) (d : Nat) (area : SramArea) (a : Nat) (err : EccErr) : State :=
  let n := if (onHub area) then 4 else d
  let k := hardKey area a
  if !onHub area && (!decide (d < 4) || !areaHas area a || !s.unitLive (apertureUnit d area a)) then s
  else
    let y := s.die n
    let was := Tbl.find y.hard k
    let s0 := s.setDie n { y with hard := Tbl.del y.hard k }
    match err with
    | .none => s0
    | .met _ => s.count (if onHub area then Reg.GCTL_CNT_HUBCE else Reg.MEM_CNT_SCE d)
    | .corrected b =>
      let s1 := s0.count (if (onHub area) then Reg.GCTL_CNT_HUBCE else Reg.MEM_CNT_SCE d)
      if was = some b then s1.hardFault d area a
      else s1.setDie n { s1.die n with hard := Tbl.put (s1.die n).hard k b }
    | .uncorrectable =>
      if (onHub area) then ((s0.count Reg.GCTL_CNT_HUBUE).post 0 13 []).hubUe area a
      else
        (s0.sramUe d a).tractUe d area a

/-- SCRUB_READ (R332). -/
def execScrubRead (die : Nat) (area : SramArea) (addr : Nat) (err : EccErr) (s : State) : Host.Outcome State Fault Refusal :=
  .next (s.scrubRead die area addr err)

/-- SCRUB_LATE (R332): the flag of MEM_SSTAT. -/
def execScrubLate (die : Nat) (s : State) : Host.Outcome State Fault Refusal :=
  .next (if die < 4 then s.setRw (Reg.MEM_SSTAT die) (setFld (s.rwW (Reg.MEM_SSTAT die)) 30 30 1) else s)

/-! ## DRAM (R335, R336) -/

/-- The word of a transfer whose bit a lane carries (Table 14-2): of a spare lane, that of the lane steered onto it. -/
def laneWord (steer : List (Nat × Nat)) : Nat → Nat → Option Nat
  | 0, _ => none
  | fuel + 1, l =>
    if l < 96 then some (l / 32)
    else if l < 117 then some ((l - 96) / 7)
    else if l < 120 then some (l - 117)
    else match steer.find? (fun e => e.2 == l) with
      | some e => laneWord steer fuel e.1
      | none => none

/-- The lane that takes over from a failing lane: its word's spare-lane bit lane, else the lowest free lane of 120 to 127. -/
def dramSpare (steer : List (Nat × Nat)) (l : Nat) : Option Nat :=
  let free := fun x => x != l && !steer.any (fun e => e.1 == x || e.2 == x)
  let first := match laneWord steer 12 l with | some w => [117 + w] | none => []
  (first ++ (List.range 8).map (· + 120)).find? free

/-- Start the sweep for a failing lane, or report that no spare is free: it stays in service (R335). -/
def State.startSweep (s : State) (d l : Nat) : State :=
  let y := s.die d
  match dramSpare y.steer l with
  | some x => s.setDie d { y with sweep := some (l, x) }
  | none => ((s.setDie d { y with exhausted := y.exhausted ++ [l] }).journal 0xD 2 (d + l * 2 ^ 8) none 3).post (11 + d) 7 []

/-- LANE_FAILING (R335, R343): the sweep starts at once, or once the one that runs ends. -/
def State.laneFailing (s : State) (d l : Nat) : State :=
  let y := s.die d
  if 4 ≤ d ∨ 128 ≤ l ∨ y.lost ∨ y.steer.any (fun e => e.1 == l) ∨ y.queued.contains l ∨ y.exhausted.contains l ∨
      (match y.sweep with | some x => x.1 == l | none => false) = true then s
  else if y.sweep.isSome then s.setDie d { y with queued := y.queued ++ [l] }
  else s.startSweep d l

/-- LANE_FAILING (R335). -/
def execLaneFailing (die lane : Nat) (s : State) : Host.Outcome State Fault Refusal := .next (s.laneFailing die lane)

/-- The word of its 96-bit transfer that a local address holds: words follow one another through the transfers (R333, log 165). -/
def transferWord (a : Nat) : Nat := a / 4 % 3

/-- The lane that carries bit b of word w: data bits, then the SECDED bits, then the spare-lane bit (Table 14-2); of a lane that
is steered, the lane that took over. -/
def laneOf (steer : List (Nat × Nat)) (w b : Nat) : Nat :=
  let l := if b < 32 then 32 * w + b else if b < 39 then 96 + 7 * w + (b - 32) else 117 + w
  steer.foldl (fun l e => if e.1 = l then e.2 else l) l

/-- A second failing lane of a word that found no spare makes the word's errors uncorrectable (R335). -/
def DieSt.twoFailing (y : DieSt) (a : Nat) : Bool :=
  decide (2 ≤ (y.exhausted.filter (fun l => laneWord y.steer 12 l == some (transferWord a))).length)

/-- A corrected error of a DRAM word (R335): it is counted, and counts for its lane, which fails with STEER_THR of them within 1 s. -/
def State.laneError (s : State) (d a b : Nat) : State :=
  let s1 := s.count (Reg.MEM_CNT_DCE d)
  let y := s1.die d
  let l := laneOf y.steer (transferWord a) b
  let ts := (Tbl.getD y.laneErrs l []).filter (fun t => decide (s.time.raw < t + 1000000000)) ++ [s.time.raw]
  let s2 := s1.setDie d { y with laneErrs := Tbl.put y.laneErrs l ts }
  if s.rw (Reg.MEM_DCTL d) 7 0 ≤ ts.length then s2.laneFailing d l else s2

/-- PATROL_SCRUB (R335, R336, R342): a corrected word counts for the word and for its lane; an uncorrectable one is reported and
marked. -/
def State.patrol (s : State) (d a : Nat) (err : EccErr) : State :=
  if 4 ≤ d ∨ 24 * 2 ^ 30 ≤ a ∨ (s.die d).lost then s
  else
    match err with
    | .none => s
    | .corrected b | .met b => if (s.die d).twoFailing a then s.dramUe d a else s.laneError d a b
    | .uncorrectable => s.dramUe d a

/-- PATROL_SCRUB (R336). -/
def execPatrolScrub (die addr : Nat) (err : EccErr) (s : State) : Host.Outcome State Fault Refusal := .next (s.patrol die addr err)

/-- SWEEP_DONE (R335): the steer is in MEM_STEER, journaled and posted; the next queued lane's sweep starts. -/
def State.sweepDone (s : State) (d : Nat) : State :=
  let y := s.die d
  match y.sweep with
  | none => s
  | some (l, x) =>
    let s1 := s.setDie d { y with steer := y.steer ++ [(l, x)], sweep := none, queued := [] }
    let s2 := (s1.journal 0xD 1 (d + l * 2 ^ 8 + x * 2 ^ 16) none 3).post (11 + d) 6 []
    y.queued.foldl (fun s l => s.laneFailing d l) s2

/-- SWEEP_DONE (R335). -/
def execSweepDone (die : Nat) (s : State) : Host.Outcome State Fault Refusal := .next (s.sweepDone die)

end Sys2Proof.Machine
end

