-- ==== Sys2Proof/Machine/TwinOps.lean ====
section
/-! DEFINITION. Twin pairs (R364 to R370): partner records, loss of the partner, pairing. -/
namespace Sys2Proof.Machine

/-! ## Loss of the partner (R368, R371) -/

/-- What R366 does to a message whose effects have applied, or whose failure the partner has answered: its conversation closes
with INC kept, its context rolls back, its reduction epoch aborts, and TWIN_DIVERGED is posted. -/
def State.diverge (s : State) (k : TwinMark) : State :=
  let s1 := match k.conv with | some c => if (s.conv c).state = 0 then s else s.convClose c | none => s
  let s2 := match k.ctx with | some (k, pos) => s1.ctxFail k 3 pos | none => s1
  let s3 := match k.epoch with | some (op, ep) => s2.boomFaultIn op ep | none => s2
  s3.post 10 1 []

/-- The package goes SOLO (R368): pending twin verdicts become good without comparison; a reply in transmission that waited for
one is stomped and kept for reissue; OWN_BAD records not answered are treated as answered (R371). Held copies not RELEASED are reissued by REISSUE. -/
def State.goSolo (s : State) (reason origin : Nat) : State :=
  let s1 := (s.twinTo 3 reason origin)
  let pend := (s1.replies.filter (fun r => r.2.twin.isNone)).map (·.1)
  let s2 := pend.foldl (fun s n => match Tbl.find s.replies n with
    | none => s
    | some r =>
      if r.stage = .held then (s.stompFrame n r).setReply n { r with twin := some true, stage := .kept false, stomped := true }
      else s.setReply n { r with twin := some true }) s1
  let s3 := s2.twin.bad.foldl (fun s b => s.diverge b.2) { s2 with twin.bad := [], twin.theirs := [] }
  s3.settle

/-- A role's state on losing its partner's link (R368, R370): the PRIMARY serves SOLO, the SECONDARY is FENCED. -/
def State.loseLink (s : State) (reason : Nat) : State :=
  if s.cfg Reg.TWIN_CTL 30 30 = 0 then s.goSolo reason 4 else s.twinTo 4 reason 4

/-- KWAIN_SILENCE (R368): LOSS µs without a Kwain frame while PAIRED. -/
def State.kwainSilence (s : State) : State :=
  if s.twin.state = 2 ∧ s.twin.lastFrame + s.cfg Reg.TWIN_TMR 7 0 * 1000 ≤ s.time.raw then
    (if s.twin.aliveIn then s.loseLink 2 else s.goSolo 1 4)
  else s

/-- KWAIN_SILENCE (R368). -/
def execKwainSilence (s : State) : Host.Outcome State Fault Refusal := .next s.kwainSilence

/-- ALIVE_IN_FALL (R368): the partner is lost. -/
def State.aliveFall (s : State) : State :=
  let s1 := { s with twin.aliveIn := false }
  if s1.twin.state = 2 then s1.goSolo 1 4 else s1

/-- ALIVE_IN_FALL (R368). -/
def execAliveInFall (s : State) : Host.Outcome State Fault Refusal := .next s.aliveFall

/-! ## Records (R365 to R367) -/

/-- The holder discards a copy that the sender has released (R367); one whose own verdicts are still open is let go when it
passes. -/
def State.release (s : State) (n : Nat) (r : Reply) : State :=
  match r.stage with
  | .kept _ =>
    if r.slot.isNone then ({ s with replies := Tbl.del s.replies n }).gc
    else s.setReply n { r with twinHeld := false, reissued := true }
  | _ => s.setReply n { r with reissued := true }

/-- An OWN_BAD record (R366): it makes the verdict of a reply that still waits bad; after the effects have applied the pair has
diverged, and a record with OWN_BAD goes back; a package that failed the message itself does the same when the answer comes. -/
def State.ownBad (s : State) (t : TwinRec) : State :=
  let s1 := s.count Reg.TWIN_CNT_OWNBAD
  match s1.twin.applied.find? (fun x => sameRec x.1 t), s1.twin.bad.find? (fun x => sameRec x.1 t) with
  | some x, _ =>
    let gone := s1.replies.filter (fun r => r.2.twinHeld && (match r.2.trec with | some (u, _) => sameRec u t | none => false))
    let s2 := gone.foldl (fun s r => s.release r.1 r.2) { s1 with twin.applied := s1.twin.applied.filter (fun y => !sameRec y.1 t) }
    ((s2.kwain { x.1 with ownBad := true, released := false }).diverge x.2).settle
  | none, some x =>
    (State.diverge { s1 with twin.bad := s1.twin.bad.filter (fun y => !sameRec y.1 t) } x.2).settle
  | none, none =>
    match s1.replies.find? (fun r => match r.2.trec with | some (u, _) => sameRec u t && r.2.stage != .sent | none => false) with
    | some (n, r) => ((s1.setReply n { r with twin := some false }).post 10 0 []).settle
    | none => { s1 with twin.theirs := s1.twin.theirs.filter (fun y => !sameRec y t) ++ [t] }

/-- TWIN_RECORD (R365 to R367): while PAIRED a record releases a held copy, fails a message, decides a twin verdict, or waits for
the package's own record. -/
def State.twinRecord (s : State) (t : TwinRec) : State :=
  let s1 := { s with twin.lastFrame := s.time.raw }
  if s1.twin.state ≠ 2 then s1
  else if t.released then
    match s1.replies.find? (fun r => match r.2.trec with | some (u, _) => sameRec u t && r.2.stage != .sent | none => false) with
    | some (n, r) => s1.release n r
    | none => s1
  else if t.ownBad then s1.ownBad t
  else
    match s1.replies.find? (fun r => r.2.twin.isNone && (match r.2.trec with | some (u, _) => sameRec u t | none => false)) with
    | some (n, r) =>
      match r.trec with
      | some (own, _) => (s1.twinJudge n r own t).settle
      | none => s1
    | none => { s1 with twin.theirs := s1.twin.theirs ++ [t] }

/-- TWIN_RECORD (R365). -/
def execTwinRecord (r : TwinRec) (s : State) : Host.Outcome State Fault Refusal := .next (s.twinRecord r)

/-- TWIN_MATCH_TIMEOUT (R365): no matching record within MATCH µs of the package's own. -/
def State.matchTimeout (s : State) (n : Nat) : State :=
  match Tbl.find s.replies n with
  | none => s
  | some r =>
    match r.trec with
    | some (_, t) =>
      if r.twin.isNone && s.twin.state == 2 && decide (t + s.cfg Reg.TWIN_TMR 15 8 * 1000 ≤ s.time.raw) then
        (((s.count Reg.TWIN_CNT_UNMATCHED).setReply n { r with twin := some false }).post 10 0 []).settle
      else s
    | none => s

/-- TWIN_MATCH_TIMEOUT (R365). -/
def execTwinMatchTimeout (reply : Nat) (s : State) : Host.Outcome State Fault Refusal := .next (s.matchTimeout reply)

/-! ## Pairing (R369, R370) -/

/-- The package holds no open conversation, sequence context or reduction epoch. -/
def State.clean (s : State) : Bool :=
  s.convs.all (fun c => c.2.state == 0 || c.2.state == 3) && s.ctxs.isEmpty && s.boom.ops.all (fun o => o.2.cur.decided)

/-- Registers that the configuration digest covers: the mode, and the PRS, CONV and RPLY settings, with TWIN_SEND. -/
def twinCovers (off : Nat) : Bool :=
  off == Reg.GCTL_MODE || off == Reg.TWIN_SEND_LO || off == Reg.TWIN_SEND_HI ||
  decide ((0x300000 ≤ off ∧ off < 0x500000) ∨ (0x600000 ≤ off ∧ off < 0x700000))

/-- The configuration that pairing compares: TWIN_SEND is inverted for the SECONDARY, and so always there for it. -/
def State.twinRegs (s : State) : List (Nat × Word) :=
  let lo := s.cfgW Reg.TWIN_SEND_LO
  let hi := s.cfgW Reg.TWIN_SEND_HI
  let sec := s.cfg Reg.TWIN_CTL 30 30 == 1
  (s.regs.cfg.filter (fun e => twinCovers e.1 && e.1 != Reg.TWIN_SEND_LO && e.1 != Reg.TWIN_SEND_HI && e.2 != regReset e.1)) ++
  [(Reg.TWIN_SEND_LO, if sec then ~~~lo else lo), (Reg.TWIN_SEND_HI, if sec then ~~~hi &&& 0xFFFF else hi)]

/-- The package's own configuration digest. -/
def State.twinDigestOwn (s : State) : Nat :=
  Config.twinConfig s.twinRegs (s.handles.flatMap (fun h => match h.2.serving with
    | some v => leBytes 2 h.1 ++ leBytes 2 v.number ++ slice v.digest 0 32
    | none => []))

/-- TWIN_PAIRING (R369): with nothing open on either package the digests and roles are compared, and the pair forms or splits.
While LINKING the partner is there, and so is its alive signal. -/
def State.twinPairing (s : State) (p : TwinHello) : State :=
  let s1 := { s with twin.lastFrame := s.time.raw }
  if s1.twin.state ≠ 1 ∨ !s1.clean ∨ !p.clean then s1
  else
    let role := s1.cfg Reg.TWIN_CTL 30 30 == 1
    let own := s1.twinDigestOwn
    let s2 := State.emit { s1 with twin.peerId := p.identity, twin.aliveIn := true } (.hello s1.mgmt.identity own role)
    if p.role == role then s2.loseLink 4
    else if own ≠ p.digest then s2.loseLink 3
    else s2.twinTo 2 0 4

/-- TWIN_PAIRING (R369). -/
def execTwinPairing (p : TwinHello) (s : State) : Host.Outcome State Fault Refusal := .next (s.twinPairing p)

/-- TWIN_LINK_TIMEOUT (R370): no pairing decision within 100 ms of the EN commit. -/
def State.linkTimeout (s : State) : State :=
  if s.twin.state = 1 ∧ s.twin.since + 100000000 ≤ s.time.raw then s.loseLink 2 else s

/-- TWIN_LINK_TIMEOUT (R370). -/
def execTwinLinkTimeout (s : State) : Host.Outcome State Fault Refusal := .next s.linkTimeout

end Sys2Proof.Machine
end

