-- ==== Sys2Proof/Machine/Mgmt.lean ====
section
/-! DEFINITION. The mailbox queue, SEND, IDENTIFY and ENROLL (R377, R381 to R383), event queue reads (R385), management DMA
(R380) and the export of the journal (R389). -/
namespace Sys2Proof.Machine

/-! ## Management reads of the device memory space (R337, R341) -/

/-- What one word of an SRAM aperture reads as: bytes; nothing where the space is unmapped or uncorrectable. -/
inductive ApRead where
  | word (b : List Byte)
  | open4
  | unmapped
  | ue
  deriving DecidableEq, Repr

/-- A word of the buffer of physical lane p of engine e (R84, R90, R101): the image that a stationary copy keeps in the lane, or of a spare
lane its partner's; of any other lane the content is open (log 85). -/
def State.laneBufWord (s : State) (d e p w : Nat) : ApRead :=
  let l := match s.logicalLane d e p with
    | some l => some l
    | none => (pick 16 (fun sp => (s.lanesOf d e)[256 + sp]? == some p)).head?.bind (fun sp =>
        if s.units.shadowOff.contains (shadowKey d e sp) then none else Tbl.find s.units.partner (shadowKey d e sp))
  match l.bind (s.laneHeld d e) with
  | some (v, img) => .word (leBytes 4 (imageWord v.image v.forest img w))
  | none => .open4

/-- A word of a compartment's tree store (R84): of an image it holds; what else lies there is open (log 85). -/
def State.storeWord (s : State) (d c w : Nat) : ApRead :=
  match (s.storeImages d c)[w / 512]? with
  | some (v, img) => .word (leBytes 4 (imageWord v.image v.forest img (w % 512)))
  | none => .open4

/-- A word of a tract die's aperture (Table 14-5): zero of a retired unit. -/
def State.apWord (s : State) (d o : Nat) : ApRead :=
  let c := o / 0x10000000
  let r := o % 0x10000000
  let st := r / 0x1000000
  let q := r % 0x1000000
  let y := s.die d
  let sram := if y.sramUe.contains (o / 4) then ApRead.ue else .word (y.sram.readN o 4)
  if 8 ≤ c then .unmapped
  else if r < 0x9000000 then
    if q < 0x200000 then (if s.standOk d c st then sram else .word [0, 0, 0, 0])
    else if 0x800000 ≤ q ∧ q < 0x800000 + 17 * 0x20000 then
      let k := (q - 0x800000) / 0x20000
      let z := (q - 0x800000) % 0x20000
      let x := s.core (d * 1224 + (c * 9 + st) * 17 + k)
      if 0x12800 ≤ z then .unmapped
      else if !s.coreOk d c st k then .word [0, 0, 0, 0]
      else if z < 0x10000 then sram
      else if y.sramUe.contains (o / 4) then .ue
      else if z < 0x12000 then
        let w := Tbl.getD (x.slot ((z - 0x10000) / 0x800)).imem ((z - 0x10000) % 0x800 / 8) 0
        .word (leBytes 4 (w.toNat / 2 ^ (z % 8 / 4 * 32)))
      else
        let v := Tbl.getD (x.slot ((z - 0x12000) / 0x200)).v ((z - 0x12000) % 0x200 / 64) 0
        .word (leBytes 4 (v.toNat / 2 ^ (z % 64 / 4 * 32)))
    else .unmapped
  else if 0xC000000 ≤ r ∧ r < 0xC800000 then
    (if !s.cmptOk d c then .word [0, 0, 0, 0] else if y.sramUe.contains (o / 4) then .ue else s.storeWord d c ((r - 0xC000000) / 4))
  else if 0xD000000 ≤ r ∧ r < 0xD200000 ∧ (r - 0xD000000) % 0x100000 < 272 * 0x800 then
    let e := c * 2 + (r - 0xD000000) / 0x100000
    let l := (r - 0xD000000) % 0x100000 / 0x800
    (if !s.laneOk d e l then .word [0, 0, 0, 0] else if y.sramUe.contains (o / 4) then .ue else s.laneBufWord d e l (r % 0x800 / 4))
  else .unmapped

/-- What a transfer over the device memory space meets. -/
inductive SpaceErr where
  | ok
  | unmapped
  | ue
  deriving DecidableEq, Repr

/-- The worse of two outcomes: an unmapped address before an uncorrectable word. -/
def SpaceErr.join : SpaceErr → SpaceErr → SpaceErr
  | .unmapped, _ => .unmapped
  | _, .unmapped => .unmapped
  | .ue, _ => .ue
  | .ok, x => x

/-- Read n aperture words from a device address upward: open bytes are free values (log 2). -/
def State.apReads (s : State) (a : Nat) : Nat → List Byte × SpaceErr × State
  | 0 => ([], .ok, s)
  | n + 1 =>
    let here : List Byte × SpaceErr × State :=
      match apertureOf a, hubAperture a with
      | some (d, o), _ =>
        (match s.apWord d (o / 4 * 4) with
        | .word b => (b, .ok, s)
        | .open4 => let r := s.drawNat (2 ^ 32 - 1); (leBytes 4 r.1, .ok, r.2)
        | .unmapped => ([0, 0, 0, 0], .unmapped, s)
        | .ue => ([0, 0, 0, 0], .ue, s))
      | none, some _ => let r := s.drawNat (2 ^ 32 - 1); (leBytes 4 r.1, .ok, r.2)
      | none, none => ([0, 0, 0, 0], .unmapped, s)
    let rest := State.apReads here.2.2 (a + 4) n
    (here.1 ++ rest.1, here.2.1.join rest.2.1, rest.2.2)

/-- Read n bytes of the device memory space from an address upward. -/
def State.spaceRead (s : State) (a n : Nat) : List Byte × SpaceErr × State :=
  if a < dramEnd then
    (s.devRead a n, if s.anyUnmapped a n then .unmapped else if s.anyUe a n then .ue else .ok, s.mirrorHeal a n)
  else
    let r := s.apReads (a / 4 * 4) (ceilDiv (a % 4 + n) 4)
    ((r.1.drop (a % 4)).take n, r.2)

/-- Write words of an aperture from a device address upward. -/
def State.apWrites (s : State) (a : Nat) : Nat → List Byte → State
  | 0, _ => s
  | n + 1, b => State.apWrites (s.apWrite a (BitVec.ofNat 32 (leAt b 0 4))) (a + 4) n (b.drop 4)

/-- An aperture address has content. -/
def State.apMapped (s : State) (a : Nat) : Bool :=
  match apertureOf a with
  | some (d, o) => s.apWord d (o / 4 * 4) != .unmapped
  | none => (hubAperture a).isSome

/-- Write bytes to the device memory space: unmapped addresses drop them (R337). -/
def State.spaceWrite (s : State) (a : Nat) (b : List Byte) : SpaceErr × State :=
  if a < dramEnd then (if s.anyUnmapped a b.length then .unmapped else .ok, s.devWrite a b)
  else
    let n := ceilDiv b.length 4
    (if (List.range n).all (fun i => s.apMapped (a + 4 * i)) then .ok else .unmapped, s.apWrites a n (padTo b (4 * n)))

/-! ## The mailbox (R381) -/

/-- The codes of Table 16-2. -/
def knownCmd (c : Nat) : Bool :=
  [1, 2, 3, 4, 5, 0x11, 0x12, 0x13, 0x21, 0x22, 0x23, 0x31, 0x32, 0x41, 0x42, 0x43].contains c

/-- A write to GCTL_MBOX_HI with an origin (R381): the command joins the queue once the device is READY (R378); a full queue
drops it and sets OVF; a CMD outside Table 16-2 completes at once with no record. With no GCTL_MBOX_LO write since the last
submission the low half held last counts again (DESIGN CHOICE, log 108). -/
def State.mboxSubmit (s : State) (hi : Word) (origin : Nat) : State :=
  let a := hi.toNat * 2 ^ 32 + (Tbl.getD s.regs.loHeld Reg.GCTL_MBOX_LO 0).toNat / 64 * 64
  if !s.mgmt.ready then s
  else if 64 ≤ s.mgmt.mbox.length then s.putRw Reg.GCTL_MBOX_STAT 31 31 1
  else
    let r := s.spaceRead a 64
    if r.2.1 = .ue then r.2.2.mboxDone 0 0x0B
    else if !knownCmd (byteAt r.1 0) then r.2.2.mboxDone (byteAt r.1 0) 1
    else { r.2.2 with mgmt.mbox := r.2.2.mgmt.mbox ++ [{ addr := a, desc := r.1, origin := origin }] }

/-- MBOX_SUBMIT (R381). -/
def execMboxSubmit (hi : Word) (s : State) : Host.Outcome State Fault Refusal := .next (s.mboxSubmit hi 1)

/-! ## SEND (R382) -/

/-- The code of SEND's checks, 0 when they pass, for a frame that has been read. A neighbour-side port sends no group frame but LLDP
and PTP (R261, R264, log 126). -/
def State.sendCheck (s : State) (d b : List Byte) (err : SpaceErr) : Nat :=
  let e := byteAt d 1
  let n := leAt d 4 2
  let nbr := epNbr s.regs.cfg e
  if n < 60 ∨ 9212 < n ∨ epLanes s.regs.cfg e = 0 ∨ 7 < byteAt d 2 ∨ err = .unmapped then 1
  else if err = .ue then 0x0B
  else if (nbr ∧ byteAt b 0 % 2 = 0) ∨ ((nbr ∨ (s.ep e).state = 4) ∧ !quarantineSends nbr b) then 1
  else 0

/-- The frame of a SEND leaves, with its TXTS record when TSREQ asks for one (R297). A port with no link, or a host port of a
package that the twin keeps silent (R368, R370), sends nothing. -/
def State.sendOut (s : State) (e : Nat) (ts : Bool) (b : List Byte) : State :=
  let lldp := (parseEth b).etype == 0x88CC
  if !s.linkUp e || (s.ptpSilent e && !lldp) then s
  else
    let out := fun (s : State) => s.putFrame e b true (wireLen b.length)
    if ts then
      let r := s.egressStamp e
      let m := match ptpIn b with | some x => x.2 | none => []
      (out r.2).timeRecord { kind := 2, eport := e, seq := ptpSeq m, mtype := byteAt m 0 % 16, a := r.1, msg := m }
    else out s

/-- SEND (R382): while the port's priority PCP is paused, or the third class of R32 has no turn there, the command waits. -/
def State.sendCmd (s : State) (i : Nat) : State :=
  match s.takeCmd i 0x41 with
  | none => s
  | some (c, s1) =>
    let d := c.desc
    let e := byteAt d 1
    let r := s1.spaceRead (leAt d 8 8) (leAt d 4 2)
    let st := s1.sendCheck d r.1 r.2.1
    if st = 0 ∧ s.linkUp e ∧ !s.turn3 e (some (byteAt d 2)) (leAt d 4 2) then s
    else
      let s2 := if st = 0 then r.2.2.sendOut e (byteAt d 3 % 2 == 1) r.1 else r.2.2
      s2.fellFinish d { status := st }

/-- SEND (R382). -/
def execSend (i : Nat) (s : State) : Host.Outcome State Fault Refusal := .next (s.sendCmd i)

/-! ## IDENTIFY and ENROLL (R377, R383) -/

/-- The 256-byte identity record. -/
def State.identityRecord (s : State) : List Byte :=
  padTo (padTo (leBytes 8 s.mgmt.identity ++ s.mgmt.dieIds.flatMap (leBytes 16)) 88 ++
    padTo (Config.deviceKey (s.mgmt.dieIds.headD 0)) 97 |>.take 185) 185 ++
  leBytes 1 s.mgmt.svn ++ [0, 0] ++ leBytes 4 s.mgmt.counter1 ++ List.replicate 64 0

/-- IDENTIFY (R383). -/
def State.identify (s : State) (i : Nat) : State :=
  match s.takeCmd i 0x42 with
  | none => s
  | some (c, s1) =>
    let w := s1.recordWrite (leAt c.desc 24 8) s1.identityRecord 0
    w.2.mboxDone 0x42 w.1

/-- IDENTIFY (R383). -/
def execIdentify (i : Nat) (s : State) : Host.Outcome State Fault Refusal := .next (s.identify i)

/-- ENROLL (R377): enrols an owner key while none is set; journaled. -/
def State.enroll (s : State) (i : Nat) : State :=
  match s.takeCmd i 0x43 with
  | none => s
  | some (c, s1) =>
    let r := s1.spaceRead (leAt c.desc 8 8) 97
    let st := if s1.jrnlRefuses then 4 else if s1.mgmt.owner.isSome then 7 else if r.2.1 = .unmapped then 1
      else if r.2.1 = .ue then 0x0B else 0
    let s2 := r.2.2
    let s3 := if st = 0 then
        State.journal { s2 with mgmt.owner := some r.1, mgmt.ownerRec := s2.mgmt.ownerRec + 1 } 0xC 1 (s2.mgmt.ownerRec + 1)
          (some ((sha256 r.1).take 16)) c.origin
      else s2
    s3.fellFinish c.desc { status := st }

/-- ENROLL (R377). -/
def execEnroll (i : Nat) (s : State) : Host.Outcome State Fault Refusal := .next (s.enroll i)

/-! ## Event queue reads (R385) -/

/-- A read of ENTRY word 4: the oldest entry goes, words 5 to 7 are latched, and a queue left non-empty sends its vector. -/
def State.evqRead (s : State) (q : Nat) : State :=
  if 16 ≤ q then s
  else match s.evq q with
    | [] =>
      let z := ((s.latchW (Reg.GCTL_EVQ_w5 q) 0).latchW (Reg.GCTL_EVQ_w6 q) 0).latchW (Reg.GCTL_EVQ_w7 q) 0
      z.emit (.read (Reg.GCTL_EVQ_w4 q) 0)
    | e :: t =>
      let s1 := { s with mgmt.evq := Tbl.put s.mgmt.evq q t }
      let s2 := ((s1.latchW (Reg.GCTL_EVQ_w5 q) e.sec).latchW (Reg.GCTL_EVQ_w6 q) e.ns).latchW (Reg.GCTL_EVQ_w7 q) e.arg
      let s3 := s2.emit (.read (Reg.GCTL_EVQ_w4 q) (BitVec.ofNat 32 (e.cause % 256 + e.argx % 256 * 256 + e.gen % 65536 * 65536)))
      if !t.isEmpty && s3.evqEn q then s3.vector (s3.rw (Reg.GCTL_EVQ_w0 q) 10 0) else s3

/-- EVQ_READ (R385). -/
def execEvqRead (q : Nat) (s : State) : Host.Outcome State Fault Refusal := .next (s.evqRead q)

/-! ## Management DMA (R380) -/

/-- A DMA channel. -/
def State.dmaCh (s : State) (n : Nat) : DmaCh := Tbl.getD s.mgmt.dma n {}
/-- Change a DMA channel. -/
def State.setDmaCh (s : State) (n : Nat) (x : DmaCh) : State := { s with mgmt.dma := Tbl.put s.mgmt.dma n x }

/-- Post DMA_DONE with the channel's vector (log 12). -/
def State.dmaPost (s : State) (n : Nat) : State := s.postV 0 11 [] (some (s.rw (Reg.GCTL_DMA_w2 n) 10 0))

/-- A busy channel stops with an error: BUSY falls, ERR holds the code, DMA_DONE is posted. -/
def State.dmaStop (s : State) (n err : Nat) : State :=
  let x := s.dmaCh n
  if x.busy then (s.setDmaCh n { x with busy := false, err := err }).dmaPost n else s

/-- DMA_GO (R380): the chain starts at DESC. -/
def State.dmaGo (s : State) (n : Nat) : State :=
  let x := s.dmaCh n
  if 4 ≤ n ∨ x.busy then s
  else s.setDmaCh n { x with
    busy := true, err := 0, next := (s.rwW (Reg.GCTL_DMA_w1 n)).toNat * 2 ^ 32 + (s.rwW (Reg.GCTL_DMA_w0 n)).toNat }

/-- DMA_GO (R380). -/
def execDmaGo (n : Nat) (s : State) : Host.Outcome State Fault Refusal := .next (s.dmaGo n)

/-- DMA_ABORT (R380). -/
def execDmaAbort (n : Nat) (s : State) : Host.Outcome State Fault Refusal := .next (s.dmaStop n 4)

/-- The transfer of a descriptor: its error code, 0 when it completes. -/
def State.dmaMove (s : State) (d : HostDesc) : Nat × State :=
  if d.dir = 0 then
    let r := s.spaceWrite d.dst (d.data.take d.len)
    (if d.pcieErr then 1 else if r.1 = .unmapped then 2 else 0, r.2)
  else if d.dir = 1 then
    let r := s.spaceRead d.src d.len
    if r.2.1 = .unmapped then (2, r.2.2)
    else if r.2.1 = .ue then (3, r.2.2)
    else (if d.pcieErr then 1 else 0, r.2.2.emit (.host d.dst r.1))
  else (0, s)

/-- DMA_DESC_DONE (R380): a descriptor completes, or its error stops the chain. -/
def State.dmaDescDone (s : State) (n : Nat) (d : HostDesc) : State :=
  if 4 ≤ n ∨ !(s.dmaCh n).busy then s
  else
    let r := s.dmaMove d
    if r.1 ≠ 0 then r.2.dmaStop n r.1
    else
      let x := r.2.dmaCh n
      let s1 := r.2.setDmaCh n { x with busy := !d.last, done := (x.done + 1) % 65536, next := if d.last then x.next else d.next }
      if d.irq then s1.dmaPost n else s1

/-- DMA_DESC_DONE (R380). -/
def execDmaDescDone (n : Nat) (d : HostDesc) (s : State) : Host.Outcome State Fault Refusal := .next (s.dmaDescDone n d)

/-! ## The export of the journal (R389) -/

/-- A write of JRNL_EXP_HI: the pair applies unless it is below the current value or above HEAD. -/
def State.jrnlExport (s : State) (hi : Word) : State :=
  let lo := Tbl.getD s.regs.loHeld Reg.JRNL_EXP_LO (s.rwW Reg.JRNL_EXP_LO)
  let v := hi.toNat * 2 ^ 32 + lo.toNat
  let s1 := { s with regs.loHeld := Tbl.del s.regs.loHeld Reg.JRNL_EXP_LO }
  if v < s.jrnlExp ∨ s.mgmt.jr.next < v then s1
  else ((s1.setRw Reg.JRNL_EXP_LO lo).setRw Reg.JRNL_EXP_HI hi).settleJrnl

/-- JRNL_EXPORT (R389). -/
def execJrnlExport (hi : Word) (s : State) : Host.Outcome State Fault Refusal := .next (s.jrnlExport hi)

end Sys2Proof.Machine
end

