-- ==== Sys2Proof/Machine/PowerOps.lean ====
section
/-! DEFINITION. Boot, resets, power states, supply, temperature and the test port (R373 to R378, R391 to R396, R400 to R406). -/
namespace Sys2Proof.Machine

/-! ## Plain register writes (Table 0-2, R6) -/

/-- A write to the fields of a register by their access types: RW takes the value, W1C clears, RWS and RWL go to the shadow set
(RWL not after the first successful commit), RO and WO keep nothing. -/
def State.plainWrite (s : State) (off : Nat) (val : Word) : State :=
  let mRw := regMask off .rw
  let mC := regMask off .w1c
  let mS := regMask off .rws ||| (if s.regs.firstCommit then 0 else regMask off .rwl)
  let s1 := if mRw ||| mC = 0 then s else s.setRw off (maskIn (s.rwW off) val mRw &&& ~~~(val &&& mC))
  if mS = 0 then s1
  else { s1 with regs.shadow := Tbl.put s1.regs.shadow off (maskIn (cfgOf s1.regs.shadow off) val mS) }

/-! ## The power status and its journal (R388, Table 16-13) -/

/-- PWR_STAT. -/
def State.pwrStat (s : State) : Word :=
  BitVec.ofNat 32 (s.power.state * 2 ^ 30 + b2n s.power.holdSupply * 2 ^ 29 + min 2 s.power.therm * 2 ^ 27 +
    b2n s.holding * 2 ^ 26 + s.power.refused * 2 ^ 22)

/-- Journal a POWER entry with its cause code and origin. -/
def State.powerEntry (s : State) (code origin : Nat) : State := s.journal 0xA code s.pwrStat.toNat none origin

/-- A POWER event of queue 9 that the device itself finds, with its journal entry. -/
def State.powerEvent (s : State) (idx : Nat) : State := (s.powerEntry (9 * 16 + idx) 3).post 9 idx []

/-- ALIVE_OUT (R401): high exactly while the device is in service and TWIN_CTL.EN is committed; low during every reset. -/
def State.aliveOut (s : State) : Bool :=
  s.mgmt.inService && bitAt (s.cfgW Reg.TWIN_CTL) 31 && !s.power.inReset && !s.power.holdReset

/-! ## Board reset, power-on (R391, R404, Table 16-6) -/

/-- Registers of the always-on domain (R290), with JRNL_EXP beside the journal head (log 27). -/
def aonReg (off : Nat) : Bool :=
  off == Reg.TIME_CTL || off == Reg.TIME_QUAL || off == Reg.TIME_INC_FRAC || off == Reg.TIME_INC_NS ||
  decide (Reg.TIME_TPO_w0 0 ≤ off ∧ off < Reg.TIME_TPO_w0 8) || decide (Reg.TIME_CAP_w0 0 ≤ off ∧ off < Reg.TIME_CAP_w0 6) ||
  off == Reg.JRNL_EXP_LO || off == Reg.JRNL_EXP_HI

/-- The journal across a board reset (R389): the ring is gone, and the entries of the die wait for the new one. -/
def Journal.kept (j : Journal) : Journal :=
  { j with toRing := (leastBy id (j.ondie.map (·.1))).getD j.toRing, low := false, full := false }

/-- What a board reset leaves (Table 16-6): the always-on domain. Latched halves read zero until the next full read (R4). Outputs go low
(R400). `rst`: RST_N low. -/
def State.boardReset (s : State) (rst : Bool) : State :=
  let s1 : State :=
    { pending := s.pending, freeCtr := s.freeCtr, out := s.out
      time := { s.time with tick := 0, running := false, pendInc := none, pendStep := none, ptp := [], fell := [], felled := [], modes := []
                            ringWr := 0 }
      regs := { rw := Tbl.keep s.regs.rw (fun o _ => aonReg o), latch := [] }
      units := { map := s.units.map, beats := s.units.beats, flash := s.units.flash }
      twin := { aliveIn := s.twin.aliveIn }
      mgmt := { dieIds := s.mgmt.dieIds, identity := s.mgmt.identity, rev := s.mgmt.rev, jr := s.mgmt.jr.kept }
      power := { temps := s.power.temps, aon := s.power.aon, rstN := s.power.rstN && !rst, thermN := rst || s.power.therm != 3 } }
  s1.drivePins (if 2 ≤ s.mgmt.stage then s.time.tpo else []) false

/-- BOARD_RESET (R391): RST_N is asserted. -/
def execBoardReset (s : State) : Host.Outcome State Fault Refusal := .next (s.boardReset true)

/-- The state right after power-on; what has left the device, and the commands that wait, stay. -/
def State.powerOn (s : State) (aon : Bool) : State :=
  let s1 : State :=
    { pending := s.pending, freeCtr := s.freeCtr, out := s.out, mgmt := { rev := s.mgmt.rev }, power := { aon := aon },
      units := { flash := s.units.flash } }
  s1.drivePins (if 2 ≤ s.mgmt.stage then s.time.tpo else []) false

/-- POWER_ON (R404): VDD_AON is good; the always-on domain starts from zero. -/
def execPowerOn (s : State) : Host.Outcome State Fault Refusal := .next (s.powerOn true)

/-- AON_LOSS (R403): the always-on domain is lost, as at power-on. -/
def execAonLoss (s : State) : Host.Outcome State Fault Refusal := .next (s.powerOn false)

/-! ## The cold start (R373 to R378, R345 to R347) -/

/-- The mask ROM accepts a slot (R375). -/
def slotOk (env : ColdEnv) (x : FwSlot) : Bool := x.rootOk && x.sigOk && decide (env.counter0 ≤ x.svn)

/-- The slot that boots: of the accepted ones the higher SVN, slot A on a tie. -/
def bootSlot (env : ColdEnv) : Option FwSlot :=
  match slotOk env env.slotA, slotOk env env.slotB with
  | true, true => some (if env.slotA.svn < env.slotB.svn then env.slotB else env.slotA)
  | true, false => some env.slotA
  | false, true => some env.slotB
  | false, false => none

/-- The record of a list with the highest record number. -/
def topRecord (l : List FlashRec) : Option FlashRec :=
  l.foldl (fun (a : Option FlashRec) r => match a with | some x => if x.num < r.num then some r else a | none => some r) none

/-- The records of a TYPE whose signature verifies. -/
def recordsOf (env : ColdEnv) (t : Nat) : List FlashRec := env.records.filter (fun r => r.type == t && r.sigOk)

/-- The model keys in force: of each KEY_ID the record with the highest number. -/
def keysOf (env : ColdEnv) : Tbl (List Byte) :=
  let l := recordsOf env 2
  (l.map (fun r => leAt r.body 0 4)).foldl (fun t k => match topRecord (l.filter (fun r => leAt r.body 0 4 == k)) with
    | some r => Tbl.put t k (slice r.body 4 97)
    | none => t) []

/-- A REPAIR_MAP record is bound to a device's dies (R346): its body ends with their identifiers. -/
def mapBound (ids : List Nat) (r : FlashRec) : Bool := decide (80 ≤ r.body.length) && r.body.drop (r.body.length - 80) == ids.flatMap (leBytes 16)

/-- The REPAIR_MAP records that a cold start reads: those of the flash as they read now, and the one known from before where none is read
under its number. -/
def mapRecords (env : ColdEnv) (held : Option FlashRec) : List FlashRec :=
  let l := env.records.filter (fun r => r.type == 4)
  l ++ held.toList.filter (fun h => !l.any (fun r => r.num == h.num))

/-- The REPAIR_MAP record that counts: the highest record number of those that are valid. -/
def mapCopy (env : ColdEnv) (held : Option FlashRec) (ids : List Nat) : Option FlashRec :=
  topRecord ((mapRecords env held).filter (fun r => r.sigOk && mapBound ids r))

/-- A map entry from its 8 bytes (Table 15-1), taken from the flash copy. -/
def mapEntry (b : List Byte) : MapEnt :=
  { unit := ⟨byteAt b 0, byteAt b 1, byteAt b 2, byteAt b 3, leAt b 4 2⟩, cause := byteAt b 6, inherited := true }

/-- The retired set of a cold start (R346): the units that fail self-test, a tract die with its bridge (R12) or its DRAM port (R17), then
the entries of a valid flash copy. -/
def retiredOf (env : ColdEnv) (copy : Option FlashRec) : List MapEnt :=
  let br : List MapEnt := (pick 4 env.bridges.contains).map (fun d => { unit := ⟨5, d, 0, 0, 0⟩, cause := 5 })
  let ports := (pick 4 env.ports.contains).map (fun d => (⟨5, d, 0, 0, 0⟩ : UnitId))
  let st := br ++ ((env.failing.filter unitValid ++ ports).eraseDups.filter (fun u => !br.any (fun e => e.unit == u))).map (fun u => { unit := u, cause := 1 })
  let cp := match copy with | some r => (flashEntries r.body).map mapEntry | none => []
  st ++ cp.filter (fun e => unitValid e.unit && !st.any (fun x => x.unit == e.unit))

/-- The dies whose DRAM port is lost at a cold start (R17): it fails itself, or the die is retired for its bridge or port. -/
def portsLost (env : ColdEnv) (map : List MapEnt) (copy : Option FlashRec) : List Nat :=
  let old := match copy with | some r => (flashEntries r.body).map mapEntry | none => []
  pick 4 (fun d => env.ports.contains d || (map ++ old).any (fun e => e.unit == ⟨5, d, 0, 0, 0⟩ && portCause e.cause))

/-- Entries that escalation adds (R14): `up` names the unit above, which fails when more than `n` of its units in one
group are retired. -/
def escalate (map : List MapEnt) (level n : Nat) (up : UnitId → UnitId) (grp : UnitId → Nat) : List MapEnt :=
  let us := (map.filter (fun e => e.unit.level == level)).map (·.unit)
  let bad := (us.filter (fun u => decide (n < (us.filter (fun w => up w == up u && grp w == grp u)).length))).map up
  let new := bad.eraseDups.filter (fun u => !map.any (fun e => e.unit == u))
  map ++ new.map (fun u => { unit := u, cause := 8 })

/-- The map with every escalation made: a stand has one spare core, an engine 16 spare lanes, a compartment one spare stand. -/
def fullMap (map : List MapEnt) : List MapEnt :=
  let stand := fun (u : UnitId) => { u with level := 3, unit := 0 }
  let cmpt := fun (u : UnitId) => { u with level := 4, stand := 0, unit := 0 }
  let m1 := escalate map 1 1 stand (fun _ => 0)
  let m2 := escalate m1 2 16 cmpt (fun u => u.unit / 272)
  escalate m2 3 1 cmpt (fun _ => 0)

/-- The units that serve the logical places at a cold start: a retired one gives its place to the spare of its level. -/
def State.bootPlaces (s : State) : State :=
  s.units.map.foldl (fun s e =>
    let u := e.unit
    match u.level with
    | 1 =>
      let ps := u.die * 72 + u.cmpt * 9 + u.stand
      let l := (s.coresOf ps).map (fun k => if k = u.unit then 16 else k)
      { s with units.coreMap := Tbl.put s.units.coreMap ps l }
    | 2 =>
      let g := u.cmpt * 2 + u.unit / 272
      let l := u.unit % 272
      if ((s.lanesOf u.die g).take 256).contains l then
        match ((s.lanesOf u.die g).drop 256).find? (fun x => s.laneOk u.die g x) with
        | some x => s.swapLanes u.die g l x
        | none => s
      else s
    | 3 =>
      let l := (s.standsOf u.die u.cmpt).map (fun k => if k = u.stand then 8 else k)
      { s with units.standMap := Tbl.put s.units.standMap (u.die * 8 + u.cmpt) l }
    | _ => s) s

/-- The device may enter service after self-test (R347). -/
def State.bootOk (s : State) (env : ColdEnv) : Bool :=
  !env.hubBad && (List.range 4).any (fun k => !s.inMap ⟨6, 0xF, 0, 0, 0x40 + k⟩) && !s.pairsIn.isEmpty &&
  decide (3 ≤ s.diesIn.length)

/-- The (offset, value) pairs of a SETTINGS body. -/
def settingsOf (b : List Byte) : List (Nat × Word) :=
  (List.range (b.length / 8)).map (fun i => (leAt b (8 * i) 4, BitVec.ofNat 32 (leAt b (8 * i + 4) 4)))

/-- The SETTINGS record as the first commit, with origin FIRMWARE (R378, R389): one that fails is not applied, and READY comes
without settings. -/
def State.applySettings (s : State) (b : List Byte) : State :=
  let s1 := (settingsOf b).foldl (fun (s : State) x => s.plainWrite x.1 x.2) s
  let r := s1.validateSet s1.regs.shadow 3 false
  if r.1 = 0 then (s1.applySet s1.regs.shadow 3 true).post 0 0 []
  else
    let s2 := (s.reject r.1 r.2).post 0 1 [(r.1, 8), (r.2, 32)]
    if r.1 = 0xF then s2.journal 1 0xF r.2 (some (changeDigest (changedRegs s.regs.cfg s1.regs.shadow))) 3 else s2

/-- The firmware runs (Table 16-1, stage 2): identity and keys are derived, records verified, and MAP_FLASH_INVALID posted for each record
whose signature fails, or that is bound to other dies (R346, R376). The pulse outputs take their levels (R400). -/
def State.bootFirmware (s : State) (env : ColdEnv) (f : FwSlot) : State :=
  let ids := (List.range 5).map (fun i => env.puf.getD i 0 % 2 ^ 128)
  let owner := topRecord (recordsOf env 1)
  let s1 := { s with
    mgmt.stage := 2, mgmt.svn := f.svn, mgmt.fwDigest := f.digest, mgmt.counter1 := env.counter1 + 1, mgmt.dieIds := ids
    mgmt.identity := leVal ((sha384 (ids.flatMap (leBytes 16))).take 8)
    mgmt.owner := owner.map (fun (r : FlashRec) => padTo (r.body.take 97) 97), mgmt.ownerRec := (match owner with | some r => r.num | none => 0)
    mgmt.modelKeys := keysOf env, mgmt.portMax := env.portMax }
  let bad := env.records.filter (fun r => !r.sigOk && r.type != 4) ++
    (mapRecords env s.units.flash).filter (fun r => !(r.sigOk && mapBound ids r))
  bad.foldl (fun s _ => s.post 8 3 []) (s1.drivePins s.time.tpo true)

/-- The repair map merged with the flash copy, and DRAM (Table 16-1, stage 4): units take their places, ports that fail are lost, lanes that
failed in training are steered (R335), every change of the map is journaled. -/
def State.bootUnits (s : State) (env : ColdEnv) : State :=
  let copy := mapCopy env s.units.flash s.mgmt.dieIds
  let map := trimMap (fullMap (retiredOf env copy))
  let new := map.filter (fun e => !s.inMap e.unit)
  let gone := s.units.map.filter (fun e => !map.any (fun x => x.unit == e.unit))
  let s1 := { s with mgmt.stage := 4, units.map := map, units.flashValid := copy.isSome, units.flash := copy, power.temps := env.temps }
  let s2 := (portsLost env map copy).foldl (fun s d => s.losePort d) s1
  let s3 := new.foldl (fun s e => s.repairEntry e 256 3) s2.bootPlaces
  let s4 := gone.foldl (fun s e => s.repairEntry e 0 3) s3
  env.lanes.foldl (fun s l => s.laneFailing l.1 l.2) s4

/-- The arithmetic domain leaves reset (Table 16-1, stage 5), the device enters service where self-test allows it (R347), and the SETTINGS
record applies. The first tick boundary falls at a raw count that is PHASE modulo 4, and each later one four counts on (R21, R27). -/
def State.bootTick (s : State) (env : ColdEnv) : State :=
  let ok := s.bootOk env
  let s1 := { s with
    mgmt.stage := 5, time.running := true, time.tick := 0, time.phase := env.phase % 4
    time.raw := (s.time.raw + (env.phase % 4 + 4 - s.time.raw % 4) % 4) % 2 ^ 64
    mgmt.inService := ok, units.bootFail := !ok }
  match topRecord (recordsOf env 3) with | some r => s1.applySettings r.body | none => s1

/-- READY (R375, R378): the BOOT entry; counter 0 rises to the running SVN. -/
def State.bootReady (s : State) : State :=
  let s1 := { s with mgmt.ready := true, mgmt.stage := 7, mgmt.booting := none }
  let s2 := s1.journal 0xB s1.mgmt.svn s1.mgmt.counter1 (some (s1.mgmt.fwDigest.take 16)) 3
  if s2.mgmt.counter0 < s2.mgmt.svn then
    State.journal { s2 with mgmt.counter0 := s2.mgmt.svn } 0xC 2 s2.mgmt.svn none 3
  else s2

/-- COLD_START (R378): RST_N is released, and the sequence of Table 16-1 begins. -/
def State.coldStart (s : State) (env : ColdEnv) : State :=
  if !s.power.inReset ∨ !s.power.aon then s
  else
    { s with power.inReset := false, power.rstN := true, mgmt.stage := 0, mgmt.counter0 := env.counter0, mgmt.counter1 := env.counter1
             mgmt.booting := some env }

/-- COLD_START (R378). -/
def execColdStart (env : ColdEnv) (s : State) : Host.Outcome State Fault Refusal := .next (s.coldStart env)

/-- The next step of Table 16-1 completes (log 86): with no acceptable firmware the device stays at stage 1. From stage 5 on the enabled
quads train and discover, which stage 6 ends; with none enabled READY follows at once. -/
def State.bootStep (s : State) : State :=
  match s.mgmt.booting with
  | none => s
  | some env =>
    match s.mgmt.stage with
    | 0 => (match bootSlot env with
        | none => { s with mgmt.stage := 1, mgmt.booting := none }
        | some f => s.bootFirmware env f)
    | 2 => { s with mgmt.stage := 3 }
    | 3 => s.bootUnits env
    | 4 => s.bootTick env
    | 5 => if epsOn s.regs.cfg = [] then s.bootReady else { s with mgmt.stage := 6 }
    | _ => s.bootReady

/-- PCIe accesses reach BAR0 and BAR2 once the link is up (Table 16-1): with an accepted firmware slot, from stage 2 on (R375). -/
def State.pcieUp (s : State) : Bool := decide (2 ≤ s.mgmt.stage)

/-- An access over PCIe; with no link there is none. -/
def State.overPcie (s : State) (f : State → State) : State := if s.pcieUp then f s else s

/-! ## Soft reset (R391) -/

/-- A queued mailbox command completes with ERR_FAULT before a soft reset (R396). -/
def State.failCmd (s : State) (c : MboxCmd) : State :=
  let d := c.desc
  let code := byteAt d 0
  if code = 0x12 then (s.devWrite (leAt d 32 8) (Rec.bytes { status := 0x0B, handle := leAt d 4 2 })).post 0 6 []
  else if code ≤ 0x13 then s.modelFinish code c.origin (leAt d 32 8) { status := 0x0B, handle := leAt d 4 2, version := leAt d 6 2 }
  else if code ≤ 0x23 then s.seqFinish d 0x0B (leAt d 2 2) none
  else if code = 0x42 then s.mboxDone code 0x0B
  else s.fellFinish d { status := 0x0B }

/-- A load that runs ends with ERR_FAULT. -/
def State.failRunning (s : State) (r : Running) : State :=
  (s.devWrite r.record (Rec.bytes { status := 0x0B, handle := r.handle, version := r.version })).modelDone r.handle 0x0B r.cmd

/-- DRAINs and GSTOPs that wait end with ERR_FAULT. -/
def State.failWaits (s : State) : State :=
  let s1 := s.handles.foldl (fun s h => h.2.drainWait.foldl (fun s a =>
    (s.devWrite a (Rec.bytes { status := 0x0B, handle := h.1 })).post 0 6 []) s) s
  s.ctxs.foldl (fun s x => match x.2.gen with
    | some g => g.stopRecs.foldl (fun s a => (s.devWrite a (s.seqRecord 0x0B x.1 (some x.2))).mboxDone 0x22 0x0B) s
    | none => s) s1

/-- GCTL_RESET.SOFT (R391): mailbox commands end, admission is held, every admitted item fails with FAULT_RETRY, a LEAVING
heartbeat goes out; the reset falls due 100 µs later, at a tick boundary. -/
def State.softReset (s : State) : State :=
  if s.power.holdReset ∨ s.power.inReset then s
  else
    let s0 := s.mgmt.mbox.foldl State.failCmd s
    let s1 := (s0.mgmt.running.map (·.2)).foldl State.failRunning s0
    let s2 := s1.failWaits
    let s3 := { s2 with mgmt.mbox := [], mgmt.running := [], power.holdReset := true, power.resetAt := s.time.raw + 100000 }
    let s4 : State := (s3.msgs.map (·.1)).foldl (State.itemFail · false ·) s3
    let s5 := if bitAt (s4.cfgW Reg.RPR_HB) 31 ∧ s4.mgmt.inService then s4.sendBeat true else s4
    s5.boomFault.settle

/-- A member of a neighbour port starts its link layer fresh (R271). -/
def State.relink (s : State) (e : Nat) : State :=
  let p := s.ep e
  let q : EPort := { p with
    asserted := [], tx := none, run := false, keep := false, lseq := 0, held := [], expect := 0, nak := none, charged := 0, freed := 0
    peerCred := 0, handed := false, early := none, resumeAt := none, retries := 0, busyTo := 0, wait := [] }
  let s1 := s.setEp e q
  if epNbr s.regs.cfg e ∧ s.epServes e then s1.sendResume e 0 else s1

/-- The data plane's reset (Table 16-6): models, contexts and programs, and the hub tables, are cleared; configuration, DRAM and
the always-on domain stay, and members declared lost stay lost (R363). With TWIN_CTL.EN committed the package may pair again (R369). The registers stay whole: RWL fields stay
fixed and latched halves stay (DESIGN CHOICE, log 107). -/
def State.softResetNow (s : State) : State :=
  let s1 : State := { s with
    frames := [], heads := [], msgs := [], convs := [], cache := [], replies := [], pairs := [], handles := [], cores := []
    flights := [], dmas := [], fevals := [], runs := [], ctxs := []
    boom := { lost := s.boom.lost, back := s.boom.back }, lports := [], quads := []
    dies := Tbl.mapVals s.dies (fun _ y => { y with sram := [], sramUe := [], hard := [] })
    time := { s.time with felled := [], modes := [] }
    units := { s.units with suspects := [], overruns := [] }
    power := { s.power with holdReset := false } }
  let s2 := (s1.eports.map (·.1)).foldl State.relink s1
  let s3 : State := { s2 with twin := { s2.twin with theirs := [], applied := [], bad := [], since := s2.time.raw } }
  (if bitAt (s3.cfgW Reg.TWIN_CTL) 31 then s3.twinTo 1 0 3 else s3).settle

/-! ## Port reset, FLR, PERST_N (R379, R391, R400) -/

/-- GCTL_RESET.QUADS (R391): each named quad trains again under its committed configuration. -/
def State.quadReset (s : State) (mask : Nat) : State :=
  let es := pick 48 (fun e => mask.testBit (e / 4) && decide (0 < epLanes s.regs.cfg e))
  ((es.foldl (fun s e => s.portDown e) s).watchAxes s).settle

/-- A Function Level Reset (R379): every DMA channel ends with ABORTED, and the MSI-X table is cleared. -/
def State.flr (s : State) : State :=
  let s1 := (List.range 4).foldl (fun s n => s.dmaStop n 4) s
  { s1 with mgmt.msix := [] }

/-- FLR (R379). -/
def execFlr (s : State) : Host.Outcome State Fault Refusal := .next s.flr

/-- PERST (R400): the effect of a Function Level Reset, then link retraining. -/
def execPerst (s : State) : Host.Outcome State Fault Refusal := .next s.flr

/-! ## Power states (R392) -/

/-- No item is in flight past admission. -/
def State.quiet (s : State) : Bool := s.runs.isEmpty && s.msgs.all (fun m => m.2.stage != .running)

/-- A power state is reached: PSTATE, journaled with the origin of the request (R388). -/
def State.enterPower (s : State) (st : Nat) : State :=
  (State.powerEntry { s with power.state := st, power.target := none, power.holdTrans := false } (9 * 16 + 5) s.power.origin).post 9 5 []

/-- The entry into Idle ends once the items in flight have completed. -/
def State.idleDue (s : State) : State := if s.power.target = some 1 ∧ s.quiet then s.enterPower 1 else s

/-- Refuse a power request (PWR_STAT.REFUSED). -/
def State.refusePower (s : State) (why : Nat) : State := { s with power.refused := why }

/-- The bytes a Doze save takes from POOL (Table 16-7). -/
def dozeBytes : Nat := 768 * 2 ^ 20

/-- Every array handle drained (R158). -/
def State.drainAll (s : State) : State :=
  { s with handles := s.handles.map (fun h => (h.1, if s.isArray h.1 then { h.2 with drained := true } else h.2)) }

/-- RESUME of every drained handle (Table 16-7). -/
def State.resumeAll (s : State) : State :=
  (s.handles.filter (·.2.drained)).foldl (fun s h => (resumeRun s h.1 []).2.2) s

/-- A write of PWR_CTL.REQ (R392): a transition under way refuses it BUSY, a PAIRED twin refuses Idle and Doze, and POOL without
room refuses Doze. -/
def State.powerReq (s : State) (r origin : Nat) : State :=
  let s := s.putRw Reg.PWR_CTL 31 30 r
  let go := { s with power.target := some r, power.holdTrans := true, power.origin := origin }
  if s.power.target.isSome then s.refusePower 3
  else if r = s.power.state then s
  else if r = 0 then go
  else if s.twin.state = 2 then s.refusePower 2
  else if r = 1 then (if s.power.state = 0 then go.idleDue else s)
  else if r = 2 then (if sumBy s.poolFree s.diesIn < dozeBytes then s.refusePower 1 else go.drainAll)
  else s

/-- DOZE_SAVE_DONE (R392): with every item ended and every open epoch decided, the save completes and the device is in Doze. What
it saves comes back as it was (R325). -/
def State.dozeDone (s : State) : State :=
  if s.power.target = some 2 ∧ s.quiet ∧ s.boom.ops.all (fun o => o.2.cur.decided) then s.enterPower 2 else s

/-- DOZE_SAVE_DONE (R392). -/
def execDozeSaveDone (s : State) : Host.Outcome State Fault Refusal := .next s.dozeDone

/-- WAKE_DONE (R392): the wake completes, from Doze with every drained handle resumed. -/
def State.wakeDone (s : State) : State :=
  if s.power.target = some 0 then
    ((if s.power.state = 2 then s.resumeAll else s).enterPower 0).settle
  else s

/-- WAKE_DONE (R392). -/
def execWakeDone (s : State) : Host.Outcome State Fault Refusal := .next s.wakeDone

/-! ## Supply (R394, R403, R405, R406) -/

/-- Items in flight carry SUPPLY_WARN (R394): those admitted, generation steps and their frames among them, and replies not yet past the
gate. -/
def State.warnAll (s : State) : State :=
  { s with msgs := Tbl.mapVals s.msgs (fun _ m => if m.stage = .running ∨ m.stage = .boom then { m with warn := true } else m)
           runs := Tbl.mapVals s.runs (fun _ r => { r with warn := true })
           ctxs := Tbl.mapVals s.ctxs (fun _ x => { x with gen := x.gen.map (fun g =>
             { g with emits := g.emits.map (fun e => { e with warn := true }) }) })
           replies := Tbl.mapVals s.replies (fun _ r => if r.stage = .build ∧ (r.kind = 0 ∨ r.kind = 5) then { r with warn := true } else r) }

/-- A fall below VWARN found at the boundary before this one holds admission from here on (R394): it is counted, posted and
journaled, and items in flight carry SUPPLY_WARN. -/
def State.supplyHold (s : State) : State :=
  if s.power.warnDue then
    let s1 := { s with power.warnDue := false }
    let s2 := if s1.power.holdSupply then s1 else { s1.warnAll with power.holdSupply := true }
    (s2.count Reg.PWR_CNT_WARN).powerEvent 0
  else s

/-- A rail that the comparison covers: a retired tract die's is left out. -/
def State.railOf (s : State) (rails : List Rail) (i : Nat) : Rail :=
  if i < 4 ∧ !s.dieOk i then .good else rails.getD i .good

/-- SUPPLY_SAMPLE (R394): below VRESET the device leaves service, and the board reset follows at the next tick boundary; a fall below VWARN holds
admission from the next boundary; the hold's release counts from the last sample below VWARN. The rails after the six core rails are
those of Table 17-3 that have no VRESET: the loss of one is a board reset (R405). -/
def State.supplySample (s : State) (rails : List Rail) : State :=
  let any := fun (r : Rail) => (List.range 6).any (fun i => s.railOf rails i == r)
  if !s.time.running then s
  else if any .reset then
    let s1 := s.supplyHold.leaveService
    { s1 with power.vreset := true }
  else if (rails.drop 6).contains .reset then s.boardReset false
  else if any .warn then { s with power.low := true, power.goodSince := none, power.warnDue := s.power.warnDue || !s.power.low }
  else
    { s with power.low := false
             power.goodSince := if (s.power.holdSupply ∨ s.power.warnDue) ∧ s.power.goodSince.isNone then some s.time.raw
               else s.power.goodSince }

/-- SUPPLY_SAMPLE (R394). -/
def execSupplySample (rails : List Rail) (s : State) : Host.Outcome State Fault Refusal := .next (s.supplySample rails)

/-- SUPPLY_OK (R394): 10 µs above VWARN end the hold, after what else takes effect at the boundary (R22). -/
def State.supplyOk (s : State) : State :=
  match s.power.goodSince with
  | some t =>
    if s.power.holdSupply ∧ t + 10000 ≤ s.time.raw ∧ !s.changeDue then
      (State.powerEvent { s with power.holdSupply := false, power.goodSince := none } 1).settle
    else s
  | none => s

/-! ## Temperature (R395, R408) -/

/-- The thresholds of Table 16-8 in 1/8 °C. -/
def thThrottle : Nat := 800
def thHold : Nat := 880
def thShut : Nat := 960
def thHoldOff : Nat := 840
def thNormal : Nat := 760

/-- The thermal shutdown (Table 16-8): the device leaves service, the tract dies are powered off with what they hold, and the entry is
journaled; a board reset follows at the next boundary (R391). -/
def State.thermShut (s : State) : State :=
  let s1 := s.leaveService
  let s2 := { s1 with power.therm := 3, power.thermN := false, power.vreset := true
                      dies := (List.range 4).foldl (fun t d => Tbl.put t d { lost := true }) s1.dies
                      cores := [], flights := [], dmas := [], fevals := [], runs := [] }
  s2.powerEntry 0xFF 3

/-- A step of the thermal state by Tj, when one is due: the new state, its event, its counter. -/
def thermStep (st tj : Nat) : Option (Nat × Option Nat × Option Nat) :=
  if st = 0 ∧ thThrottle ≤ tj then some (1, some 2, some Reg.PWR_CNT_THROTTLE)
  else if st = 1 ∧ thHold ≤ tj then some (2, some 3, some Reg.PWR_CNT_HOLD)
  else if st = 2 ∧ tj < thHoldOff then some (1, none, none)
  else if st = 1 ∧ tj < thNormal then some (0, some 4, none)
  else none

/-- Take at most `fuel` thermal steps. THERM_N is low from the hold to its release. -/
def State.thermSteps (s : State) (tj : Nat) : Nat → State
  | 0 => s
  | fuel + 1 =>
    match thermStep s.power.therm tj with
    | none => s
    | some (st, ev, cnt) =>
      let s1 := { s with power.therm := st, power.thermN := decide (st < 2) }
      let s2 := match cnt with | some c => s1.count c | none => s1
      State.thermSteps (match ev with | some i => s2.powerEvent i | none => s2) tj fuel

/-- TJ_SAMPLE (R395): the sensors are read, and Tj, the highest, is held against Table 16-8. -/
def State.tjSample (s : State) (temps : List Nat) : State :=
  let t := (List.range 5).map (fun d => temps.getD d 0 % 2048)
  let tj := t.foldl max 0
  let s1 := (List.range 5).foldl (fun (s : State) d => s.peak (Reg.PWR_TEMP d) 26 16 (t.getD d 0)) { s with power.temps := t }
  if !s1.time.running ∨ s1.power.therm = 3 then s1
  else
    let s2 := s1.thermSteps tj 2
    if thShut ≤ tj then s2.thermShut else s2.settle

/-! ## JTAG (R400) -/

/-- A JTAG access reaches its target: boundary scan always, a unit's test port at stage 1 or below, or when authorised. -/
def State.jtagReach (s : State) (r : JtagReq) : Bool :=
  match r with
  | .boundaryScan => true
  | .unitPort _ auth => decide (s.mgmt.stage ≤ 1) || auth

/-- TEST_PORT_ACCESS (R400): a refused access reads zero and changes nothing. -/
def execTestPortAccess (req : JtagReq) (s : State) : Host.Outcome State Fault Refusal := .next (s.emit (.jtag (s.jtagReach req)))

end Sys2Proof.Machine
end

