-- ==== Sys2Proof/Machine/Boundary.lean ====
section
/-! DEFINITION. What takes effect at a tick boundary, and in which order (R22): a commit, the management commands in the order in which they
were issued (R23), fellings, and the hold of a supply dip; and the commands that come after a commit that is due. -/
namespace Sys2Proof.Machine

/-! ## Management commands (R22, R23) -/

/-- A management command takes effect; an increment applies before a step of the same boundary (R308). -/
def State.runAct (s : State) (a : MgmtAct) : State :=
  match a with
  | .inc => s.applyInc
  | .step => s.applyInc.applyStep
  | .adopt => s.applyAdopt
  | .tpo i val => s.tpoArm i val
  | .cap off val => s.plainWrite off val
  | .rpr op val origin => s.rprCmd op val origin
  | .power r origin => s.powerReq r origin
  | .soft _ => s.softReset
  | .quads mask => s.quadReset mask

/-- Commands whose change is journaled: while the ring and the on-die store are full they are deferred (R390). -/
def MgmtAct.journaled : MgmtAct → Bool
  | .inc | .step | .adopt | .power _ _ => true
  | .rpr op _ _ => op == 1 || op == 2
  | _ => false

/-- An RPR_CMD. -/
def MgmtAct.isRpr : MgmtAct → Bool
  | .rpr _ _ _ => true
  | _ => false

/-- RPR_CMDSTAT.BUSY: a command waits for its boundary, or for a cruise step to end (R371). -/
def State.rprBusy (s : State) : Bool := s.units.cmdWait.isSome || s.mgmt.acts.any MgmtAct.isRpr

/-- Let a command wait for the boundary behind those that wait. -/
def State.queueAct (s : State) (a : MgmtAct) : State := { s with mgmt.acts := s.mgmt.acts ++ [a] }

/-- Run a command, or defer it while the journal is full (R390). -/
def State.actNow (s : State) (a : MgmtAct) : State := if s.mgmt.jr.full && a.journaled then s.queueAct a else s.runAct a

/-- The management commands that wait for the boundary take effect in the order in which they were issued. -/
def State.mgmtDue (s : State) : State := s.mgmt.acts.foldl State.actNow { s with mgmt.acts := [] }

/-! ## The order of a boundary (R22) -/

/-- The hold of a supply dip that is due begins, once a commit and the fellings due at its boundary have taken effect (R22, R394). -/
def State.holdDue (s : State) : State := if s.changeDue then s else s.supplyHold

/-- The boundary of a validated commit: the commit applies, then the management commands that wait for the boundary. -/
def State.commitBoundary (s : State) : State := if s.mgmt.commit.due then s.commitApply.mgmtDue.holdDue else s

/-- COMMIT_APPLY (R386). -/
def execCommitApply (s : State) : Host.Outcome State Fault Refusal := .next s.commitBoundary

/-- The boundary has come: a validated commit is due and everything else of the boundary waits for it; with none, the
management commands that wait take effect. -/
def State.boundaryDue (s : State) : State :=
  if s.mgmt.commit.valid then { s with mgmt.commit.due := true } else s.mgmtDue

/-- FELL_APPLY (R306). -/
def execFellApply (n : Nat) (s : State) : Host.Outcome State Fault Refusal := .next (s.fellApply n).holdDue

/-- A management command is issued: it comes after a commit that is due, and waits behind commands that wait for the next boundary; a
soft reset's hold begins there (R391). An RPR_CMD while one is in progress is ignored (Table 15-12). -/
def State.act (s : State) (a : MgmtAct) : State :=
  let u := s.commitBoundary
  if a.isRpr && u.rprBusy then u
  else match a with
    | .soft _ => u.queueAct a
    | _ => if u.mgmt.acts = [] then u.actNow a else u.queueAct a

/-! ## The rows -/

/-- TPO_ARM (R301): pulse arming is a management command (R23). -/
def execTpoArm (i : Nat) (val : Word) (s : State) : Host.Outcome State Fault Refusal := .next (s.act (.tpo i val))

/-- TPO_EDGE (R301): it is tested against the time of a step of its raw count (R308). -/
def execTpoEdge (i : Nat) (s : State) : Host.Outcome State Fault Refusal := .next (s.commitBoundary.edgeDue i)

/-- CAPTURE_EDGE (R303): it carries the time and the generation of a step of its raw count (R308). -/
def execCaptureEdge (c : Nat) (rising : Bool) (sub : Nat) (s : State) : Host.Outcome State Fault Refusal :=
  .next (s.commitBoundary.captureEdge c rising sub)

/-- RETIRE (R360). -/
def execRetire (val : Word) (s : State) : Host.Outcome State Fault Refusal := .next (s.act (.rpr 1 val 1))
/-- UNRETIRE (R348). -/
def execUnretire (val : Word) (s : State) : Host.Outcome State Fault Refusal := .next (s.act (.rpr 2 val 1))
/-- TEST (R358). -/
def execTest (val : Word) (s : State) : Host.Outcome State Fault Refusal := .next (s.act (.rpr 3 val 1))
/-- MEMBER_LOST (R363). -/
def execMemberLost (val : Word) (s : State) : Host.Outcome State Fault Refusal := .next (s.act (.rpr 4 val 1))
/-- MEMBER_BACK (R363). -/
def execMemberBack (val : Word) (s : State) : Host.Outcome State Fault Refusal := .next (s.act (.rpr 5 val 1))

/-- SOFT_RESET (R391). -/
def execSoftReset (s : State) : Host.Outcome State Fault Refusal := .next (s.act (.soft 1))
/-- QUAD_RESET (R391). -/
def execQuadReset (mask : Nat) (s : State) : Host.Outcome State Fault Refusal := .next (s.act (.quads mask))

/-- PWR_REQ_RUN (R392). -/
def execPwrReqRun (s : State) : Host.Outcome State Fault Refusal := .next (s.act (.power 0 1))
/-- PWR_REQ_IDLE (R392). -/
def execPwrReqIdle (s : State) : Host.Outcome State Fault Refusal := .next (s.act (.power 1 1))
/-- PWR_REQ_DOZE (R392). -/
def execPwrReqDoze (s : State) : Host.Outcome State Fault Refusal := .next (s.act (.power 2 1))

/-- TJ_SAMPLE (R395): a hold that it begins comes after a commit that is due (R22). -/
def execTjSample (temps : List Nat) (s : State) : Host.Outcome State Fault Refusal := .next (s.commitBoundary.tjSample temps)

/-- SUPPLY_OK (R394). -/
def execSupplyOk (s : State) : Host.Outcome State Fault Refusal := .next s.commitBoundary.supplyOk

end Sys2Proof.Machine
end

