-- ==== Sys2Proof/Machine/RegOps.lean ====
section
/-! DEFINITION. Reads and writes of the BAR0 registers (R4 to R6): what each read-only field reads as, the latched halves, and
the writes that act. -/
namespace Sys2Proof.Machine

/-- A natural number as a register word. -/
def wd (n : Nat) : Word := BitVec.ofNat 32 n

/-- The index of an offset in an array of n registers from `base` at a stride. -/
def idxOf (off base stride n : Nat) : Option Nat :=
  if base ≤ off ∧ (off - base) % stride = 0 ∧ (off - base) / stride < n then some ((off - base) / stride) else none

/-- The low bits of a list of flags, bit i for element i. -/
def bitsFrom (l : List Bool) : Nat := l.foldr (fun b n => b2n b + 2 * n) 0

/-! ## Read-only fields, block by block -/

/-- GCTL_DIECAP (R28). -/
def State.dieCap (s : State) (d : Nat) : Word :=
  let cs := s.cmptsIn d
  let spare := (cs.filter (fun c => (s.spareStand d c).isSome)).length
  let cop := sumBy (fun c => ((s.standsOf d c).filter (fun p => s.standOk d c p && (s.coppice d c p).isSome)).length) cs
  wd (s.dieState d * 2 ^ 30 + bitsFrom ((List.range 8).map (fun c => cs.contains c)) * 2 ^ 16 + spare * 2 ^ 12 + cop)

/-- GCTL_HCLASS (R328): two bits for each of 16 handles. -/
def State.hclass (s : State) (i : Nat) : Word :=
  wd (sumBy (fun j => (match (s.handle (16 * i + j)).serving with | some v => v.cls % 4 | none => 0) * 4 ^ j) (List.range 16))

/-- A copy of an array program waits in a mode gap (R311). -/
def State.switching (s : State) : Bool :=
  s.allVersions.any (fun hv => hv.2.acopies.any (fun c => !c.2.out && s.modeGap hv.2 c.2 s.exact))

/-- Read-only fields of the GCTL block. -/
def State.roGctl (s : State) (off : Nat) : Word :=
  if off = Reg.GCTL_ID then wd (0xC096 * 2 ^ 16 + s.mgmt.rev % 256 * 256)
  else if off = Reg.GCTL_STAT then wd (b2n s.mgmt.ready * 2 ^ 31 + b2n s.mgmt.inService * 2 ^ 30 + s.mgmt.stage % 8 * 2 ^ 24)
  else if off = Reg.GCTL_COMMITSTAT then
    wd (b2n s.commitBusy * 2 ^ 31 + s.mgmt.commit.reason % 32 * 2 ^ 26 + s.mgmt.commit.offset % 2 ^ 26)
  else if off = Reg.GCTL_SECURE then wd (b2n s.mgmt.owner.isSome * 2 ^ 30 + s.mgmt.svn % 256)
  else if off = Reg.GCTL_MODE then wd (b2n s.exact * 2 ^ 30 + b2n s.switching * 2 ^ 29)
  else if off = Reg.GCTL_TICK_LO then wd s.time.tick
  else if off = Reg.GCTL_TICK_HI then wd (s.time.tick / 2 ^ 32)
  else if off = Reg.GCTL_TICKPHASE then wd (s.time.phase % 4)
  else if off = Reg.GCTL_PKGCAP then wd (s.lanesInAll * 2 ^ 16 + s.coresIn)
  else if off = Reg.GCTL_MBOX_STAT then wd (64 - s.mgmt.mbox.length)
  else match idxOf off (Reg.GCTL_DIECAP 0) 4 4 with
  | some d => s.dieCap d
  | none =>
  match idxOf off (Reg.GCTL_HCLASS 0) 4 64 with
  | some i => s.hclass i
  | none =>
  match idxOf off (Reg.GCTL_EVQ_w1 0) 0x20 16 with
  | some q => wd (s.evq q).length
  | none =>
  match idxOf off (Reg.GCTL_EVQ_w4 0) 0x20 16 with
  | some q => (match s.evq q with | e :: _ => wd (e.cause % 256 + e.argx % 256 * 256 + e.gen % 65536 * 65536) | [] => 0)
  | none =>
  match idxOf off (Reg.GCTL_DMA_w3 0) 0x40 4 with
  | some n => wd (b2n (s.dmaCh n).busy * 2 ^ 31 + (s.dmaCh n).err % 256 * 2 ^ 16 + (s.dmaCh n).done % 65536)
  | none => 0

/-- TIME_FELL[n] (R309): its word w. -/
def State.fellWord (s : State) (n w : Nat) : Word :=
  match Tbl.find s.time.fell n with
  | none => 0
  | some f =>
    match w with
    | 0 => wd (2 ^ 31 + f.kind % 8 * 2 ^ 28 + f.handle % 1024 * 2 ^ 16 + (if f.kind = 2 then f.arg else f.version) % 65536)
    | 1 => wd f.sec
    | 2 => wd (f.gen % 65536 * 2 ^ 16 + f.sec / 2 ^ 32 % 65536)
    | _ => wd f.ns

/-- Read-only fields of the TIME block, and TIME_INC, which reads the increment in force (R287). -/
def State.roTime (s : State) (off : Nat) : Word :=
  if off = Reg.TIME_GEN then wd s.time.gen
  else if off = Reg.TIME_RAW_LO then wd s.time.raw
  else if off = Reg.TIME_RAW_HI then wd (s.time.raw / 2 ^ 32)
  else if off = Reg.TIME_NOW_SEC_LO then wd (secOf s.now)
  else if off = Reg.TIME_NOW_SEC_HI then wd (secOf s.now / 2 ^ 32)
  else if off = Reg.TIME_NOW_NS then wd (nsOf s.now)
  else if off = Reg.TIME_NOW_FRAC then wd (s.time.gen % 65536 * 2 ^ 16 + fracOf s.now / 2 ^ 16)
  else if off = Reg.TIME_INC_FRAC then wd s.time.inc
  else if off = Reg.TIME_INC_NS then wd (s.time.inc / 2 ^ 32 % 2)
  else if off = Reg.TIME_RING_WR then wd s.time.ringWr
  else match idxOf off (Reg.TIME_TPO_w6 0) 0x20 8 with
  | some i => wd (b2n (s.tpo i).armed * 2 ^ 30)
  | none =>
  match idxOf off (Reg.TIME_CAP_w1 0) 0x20 6 with
  | some c => wd ((s.cap c).held.headD {}).sec
  | none =>
  match idxOf off (Reg.TIME_CAP_w5 0) 0x20 6 with
  | some c => wd (s.cap c).held.length
  | none =>
  match idxOf off (Reg.TIME_PTP_w5 0) 0x20 48 with
  | some e => wd ((s.ptp e).missRun % 256 * 256 + s.reqInUse e)
  | none =>
  match idxOf off (Reg.TIME_FELL_w0 0) 4 128 with
  | some i => s.fellWord (i / 4) (i % 4)
  | none => 0

/-- PORT_EPSTAT (R285). -/
def State.epStat (s : State) (e : Nat) : Word :=
  let p := s.ep e
  let skew := match s.shortest e, p.delay with | some m, some d => min 0xFF ((d - m) / 512) | _, _ => 0
  wd (p.state * 2 ^ 29 + (if p.state = 4 then p.reason else 0) * 2 ^ 25 + b2n p.sliceDiffer * 2 ^ 24 + b2n p.planDiffer * 2 ^ 23 +
    p.ver % 256 * 256 + skew)

/-- PORT_PEER (R285): its word w. -/
def State.peerWord (s : State) (e w : Nat) : Word :=
  let p := (s.ep e).peer.getD {}
  match w with
  | 0 => wd (p.identity.getD 0)
  | 1 => wd (p.identity.getD 0 / 2 ^ 32)
  | 2 => wd (p.label % 16 * 2 ^ 28 + p.coord % 4096 * 2 ^ 16 + p.ext % 4096 * 16)
  | _ => wd (p.vmin % 256 * 2 ^ 24 + p.vmax % 256 * 2 ^ 16 + p.bufu % 65536)

/-- Read-only fields of the PORT block. -/
def State.roPort (s : State) (off : Nat) : Word :=
  if off = Reg.PORT_VERSION then wd (256 + s.mgmt.portMax % 256)
  else if off = Reg.PORT_ID_LO then wd s.mgmt.identity
  else if off = Reg.PORT_ID_HI then wd (s.mgmt.identity / 2 ^ 32)
  else if off = Reg.PORT_AXISSTAT then wd (sumBy (fun r => s.dirState r * 4 ^ r) (List.range 6))
  else if off = Reg.PORT_CMDSTAT then s.rwW off ||| wd (b2n s.mgmt.adopt.isSome * 2 ^ 31)
  else
    let q := (off - 0x200000) / 0x1000
    let o := off % 0x1000
    if 12 ≤ q then 0
    else match idxOf o 0x40 4 4 with
    | some k => s.epStat (4 * q + k)
    | none => (match idxOf o 0x80 4 16 with | some i => s.peerWord (4 * q + i / 4) (i % 4) | none => 0)

/-- The conversation that CONV_SEL names. -/
def State.convSel (s : State) : Conv := s.conv (s.rw Reg.CONV_SEL 16 0)

/-- Read-only fields of the PRS, CONV, BOOM and RPLY blocks. -/
def State.roPath (s : State) (off : Nat) : Word :=
  let c := s.convSel
  if off = Reg.PRS_STAT then wd s.heads.length
  else if off = Reg.CONV_STAT_OPEN then wd (s.convs.filter (fun x => x.2.state == 1 || x.2.state == 2)).length
  else if off = Reg.CONV_STAT_CACHE then wd s.cacheUsed
  else if off = Reg.CONV_STAT_SLOTS then wd s.msgs.length
  else if off = Reg.CONV_INFO0 then wd c.base
  else if off = Reg.CONV_INFO1 then
    wd (c.state % 4 * 2 ^ 30 + c.inc % 2 ^ 14 * 2 ^ 16 + b2n c.ctx.isSome * 2 ^ 15 + c.ctx.getD 0 % 2 ^ 14)
  else if off = Reg.CONV_INFO2 then
    wd ((if c.state = 2 then (c.final + 2 ^ 32 - c.base) % 2 ^ 32 % 256 else 0) * 2 ^ 9 + c.done.length % 512)
  else if off = Reg.BOOM_STAT then wd (ceilDiv (s.boomUsed none) 65536 * 2 ^ 16 + s.boomOpenCount)
  else if off = Reg.RPLY_SPECSTAT then
    let supp := (List.range 12).map (fun q => (s.quad q).supp)
    let act := (List.range 12).map (fun q => (List.range 4).any (fun k => s.linkUp (4 * q + k)) && !quadNbr s.regs.cfg q &&
      (s.cfg Reg.RPLY_SPECCTL 11 0).testBit q && !(s.quad q).supp)
    wd (bitsFrom supp * 2 ^ 16 + bitsFrom act)
  else if off = Reg.RPLY_DIGSTAT then wd (s.pairsIn.length * 2 ^ 16)
  else 0

/-- The selected entry of the repair map. -/
def State.mapEntBytes (s : State) : List Byte :=
  match s.units.map[s.rw Reg.RPR_MAPSEL 11 0]? with | some e => e.bytes | none => List.replicate 8 0

/-- 16-lane sets of a die with no free spare lane (R103). -/
def State.unshadowed (s : State) (d : Nat) : Nat :=
  sumBy (fun e => 16 - (s.spareLanes d e).length) (List.range 16)

/-- Read-only fields of the JRNL, RPR, PWR and TWIN blocks. -/
def State.roMgmt (s : State) (off : Nat) : Word :=
  let j := s.mgmt.jr
  if off = Reg.JRNL_HEAD_LO then wd j.next
  else if off = Reg.JRNL_HEAD_HI then wd (j.next / 2 ^ 32)
  else if off = Reg.JRNL_STAT then
    wd (b2n j.full * 2 ^ 31 + b2n j.low * 2 ^ 30 + min 4096 s.ondie * 2 ^ 16 +
      (if s.ringBase = 0 then 0 else min 0xFFFF (s.ringFree / 16)))
  else if off = Reg.RPR_CRUISE then wd ((if s.units.slot = 0 then 0 else (s.units.slot - 1) % 272) * 2 ^ 16)
  else if off = Reg.RPR_STAT then
    wd (b2n s.units.bootFail * 2 ^ 31 + min 0xFFF s.units.passes * 2 ^ 16 + min 0xFFFF s.units.untested)
  else if off = Reg.RPR_CMDSTAT then wd (b2n s.rprBusy * 2 ^ 31 + s.units.cmdStatus % 256)
  else if off = Reg.RPR_MAPSTAT then
    wd (b2n s.units.flashValid * 2 ^ 31 + b2n s.flashMatch * 2 ^ 30 + min 4096 s.units.map.length)
  else if off = Reg.RPR_MAPENT_LO then wd (leAt s.mapEntBytes 0 4)
  else if off = Reg.RPR_MAPENT_HI then wd (leAt s.mapEntBytes 4 4)
  else if off = Reg.PWR_STAT then s.pwrStat
  else if off = Reg.TWIN_STAT then wd (s.twin.state % 8 * 2 ^ 29 + s.twin.reason % 8 * 2 ^ 26 + b2n s.twin.aliveIn)
  else if off = Reg.TWIN_PEER_LO then wd s.twin.peerId
  else if off = Reg.TWIN_PEER_HI then wd (s.twin.peerId / 2 ^ 32)
  else match idxOf off (Reg.JRNL_CHAIN 0) 4 4 with
  | some i => wd (leAt j.chain (4 * i) 4)
  | none =>
  match idxOf off (Reg.RPR_UNSHADOW 0) 4 4 with
  | some d => wd (s.unshadowed d)
  | none =>
  match idxOf off (Reg.PWR_TEMP 0) 4 5 with
  | some d => wd (s.power.temps.getD d 0 % 2048)
  | none => 0

/-! ### Tract dies -/

/-- FRST_ENGUSE (Table 5-11). -/
def State.engUse (s : State) (d e : Nat) : Word :=
  let vs := s.allVersions.map (·.2)
  let stat := sumBy (fun (v : Version) => sumBy (fun c => if c.2.out then 0 else
    (c.2.lanes.filter (fun l => l.1 == d && l.2.1 == e)).length) v.fcopies) vs
  let batch := sumBy (fun (v : Version) => match v.part with
    | some p => if p.out then 0 else (p.lanes.filter (fun l => l.1 == d && l.2.1 == e)).length
    | none => 0) vs
  let used := vs.flatMap (·.lanesUsed)
  let free := ((s.lanesIn d e).filter (fun l => !used.contains (d, e, l) && !(s.hasTolerant d && reserved l))).length
  wd (b2n (!s.cmptOk d (e / 2)) * 2 ^ 30 + stat * 2 ^ 18 + batch * 2 ^ 9 + free)

/-- ARR_STAND (Table 6-14) of physical stand p of die d. -/
def State.arrStand (s : State) (d p : Nat) : Word :=
  let c := p / 9
  let st := p % 9
  let l := (List.range 8).find? (fun k => (s.standsOf d c).getD k 9 == st)
  let cores := bitsFrom ((List.range 17).map (fun k => s.coreOk d c st k && (s.coresOf (d * 72 + p)).contains k))
  let state := if !s.standOk d c st then 2 else if l.isSome then 0 else 1
  wd (state * 2 ^ 30 + (if state = 0 then l.getD 0 else 0) * 2 ^ 25 + (if state = 2 then 0 else cores))

/-- ARR_SMUSE (Table 6-15). -/
def State.smUse (s : State) (ps : Nat) : Word :=
  let held := ((List.range 17).filter (fun k => (List.range 4).any (fun j => ((s.core (ps * 17 + k)).slot j).handle.isSome))).length
  wd (held * 2 ^ 16 + (s.sramUse ps).length)

/-- ARR_CTXUSE (Table 6-16), 64 bits. -/
def State.ctxUse (s : State) (ps : Nat) : Nat :=
  bitsFrom ((List.range 64).map (fun i =>
    let p := ps * 17 + (s.coresOf ps).getD (i / 4) 0
    ((s.core p).slot (i % 4)).handle.isSome || decide (0 < s.inFlight p (i % 4))))

/-- Open contexts of a die. -/
def State.ctxOpen (s : State) (d : Nat) : Nat := (s.ctxs.filter (fun x => x.1 / 4096 == d)).length

/-- SEQ_INFO (R212): its word w for the entry that SEQ_SEL names. -/
def State.seqInfo (s : State) (d w : Nat) : Word :=
  match Tbl.find s.ctxs (d * 4096 + s.rw (Reg.SEQ_SEL d) 11 0) with
  | none => 0
  | some x =>
    match w with
    | 0 => wd x.p
    | 1 => wd x.rb
    | 2 => wd (x.state % 4 * 2 ^ 30 + x.handle % 1024 * 2 ^ 16 + x.version % 65536)
    | _ => wd (b2n x.conv.isSome * 2 ^ 31 + x.copy % 1024 * 2 ^ 17 + x.conv.getD 0 % 2 ^ 17)

/-- MEM_SSTAT (Table 14-12), its sweep progress apart. -/
def State.memSstat (s : State) (d : Nat) : Word :=
  let y := s.die d
  let used := (pick 8 (fun i => y.steer.any (fun e => e.2 == 120 + i || e.1 == 120 + i) ||
    (match y.sweep with | some w => w.1 == 120 + i || w.2 == 120 + i | none => false))).length
  wd (b2n y.sweep.isSome * 2 ^ 31 + (8 - used) * 256)

/-- MEM_STEER[i]. -/
def State.memSteer (s : State) (d i : Nat) : Word :=
  match (s.die d).steer[i]? with | some e => wd (2 ^ 31 + e.1 % 128 * 256 + e.2 % 128) | none => 0

/-- Read-only fields of tract die d by the offset from the die's base. -/
def State.roDie (s : State) (d off o : Nat) : Word :=
  if off = Reg.FRST_STRM_LO d ∨ off = Reg.FRST_STRM_HI d then s.rwW off
  else if off = Reg.SEQ_CTXUSE d then wd (s.ctxOpen d * 2 ^ 16 + s.ctxReserved d)
  else if off = Reg.MEM_SSTAT d then s.memSstat d
  else if off = Reg.MEM_POOL d then wd (s.poolFree d / 65536)
  else if off = Reg.MEM_UELOG_LO d then wd (s.die d).uelog
  else if off = Reg.MEM_UELOG_HI d then wd ((s.die d).uelog / 2 ^ 32)
  else match idxOf o 0x100 4 16 with
  | some e => s.engUse d e
  | none =>
  match idxOf o 0x140 4 16 with
  | some e => wd ((s.lanesIn d e).length * 2 ^ 16 + (if s.hasTolerant d && s.cmptOk d (e / 2) then 32 else 0))
  | none =>
  match idxOf o 0x180 4 8 with
  | some c => wd ((s.storeUse d c).1 * 2 ^ 16 + (s.storeUse d c).2)
  | none =>
  match idxOf o 0x1200 4 72 with
  | some p => s.arrStand d p
  | none =>
  match idxOf o 0x1400 4 72 with
  | some p => s.smUse (d * 72 + p)
  | none =>
  match idxOf o 0x1600 4 144 with
  | some i => wd (s.ctxUse (d * 72 + i / 2) / 2 ^ (32 * (i % 2)))
  | none =>
  match idxOf o 0x2034 4 4 with
  | some w => s.seqInfo d w
  | none =>
  match idxOf o 0x3040 4 11 with
  | some i => s.memSteer d i
  | none => 0

/-- The read-only fields of a register (R6), zero elsewhere. -/
def State.roWord (s : State) (off : Nat) : Word :=
  if off < 0x100000 then s.roGctl off
  else if off < 0x200000 then s.roTime off
  else if off < 0x300000 then s.roPort off
  else if off < 0x700000 then s.roPath off
  else if off < 0x1000000 then s.roMgmt off
  else if off < 0x3000000 then s.roDie ((off - 0x1000000) / 0x800000) off (off % 0x800000)
  else 0

/-! ## Reads (R4, R6) -/

/-- The register that a full read of a _LO register latches: the _HI of its pair (R4), the pairs of words of an entry among them
(log 105). -/
def hiOf (off : Nat) : Option Nat :=
  let one := [Reg.GCTL_TICK_LO, Reg.GCTL_STRIPE_LO, Reg.TIME_RAW_LO, Reg.TIME_NOW_SEC_LO, Reg.TIME_STEP_SEC_LO, Reg.TIME_RING_LO,
    Reg.PORT_ID_LO, Reg.PORT_PLANDIG_LO, Reg.BOOM_GWMAC_LO, Reg.JRNL_RING_LO, Reg.JRNL_HEAD_LO, Reg.JRNL_EXP_LO, Reg.RPR_MAPENT_LO,
    Reg.TWIN_SEND_LO, Reg.TWIN_PEER_LO]
  let o := off % 0x800000
  let words := [(Reg.GCTL_DMA_w0 0, 0x40, 4), (Reg.TIME_TPO_w1 0, 0x20, 8), (Reg.TIME_PTP_w3 0, 0x20, 48), (Reg.TIME_FELL_w1 0, 0x10, 32),
    (Reg.PORT_PLAN_w1 0, 0x10, 6), (Reg.PRS_SEL_w0 0, 0x20, 64), (Reg.PRS_SEL_w2 0, 0x20, 64), (Reg.RPLY_DEST_w1 0, 0x40, 63)]
  if one.contains off ∨ words.any (fun x => (idxOf off x.1 x.2.1 x.2.2).isSome) then some (off + 4)
  else if 0x200000 ≤ off ∧ off < 0x20C000 then
    (if (idxOf (off % 0x1000) 0x20 8 4).isSome ∨ (idxOf (off % 0x1000) 0x80 0x10 4).isSome then some (off + 4) else none)
  else if 0x1000000 ≤ off ∧ off < 0x3000000 then
    (if o = 0x10 ∨ o = 0x3028 ∨ (idxOf o 0x1600 8 72).isSome then some (off + 4) else none)
  else none

/-- What a full read of a register latches: the _HI of its pair, and what a rule names beside it. -/
def latchesOf (off : Nat) : List Nat :=
  if off = Reg.TIME_NOW_SEC_LO then [Reg.TIME_NOW_SEC_HI, Reg.TIME_NOW_NS, Reg.TIME_NOW_FRAC]
  else if off = Reg.CONV_INFO0 then [Reg.CONV_INFO1, Reg.CONV_INFO2]
  else if 0x1000000 ≤ off ∧ off < 0x3000000 ∧ off % 0x800000 = 0x2034 then [off + 4, off + 8, off + 12]
  else (hiOf off).toList

/-- A register that reads what was latched for it. -/
def isLatched (off : Nat) : Bool :=
  [4, 8, 12].any (fun k => decide (k ≤ off) && (latchesOf (off - k)).contains off) ||
  (idxOf off (Reg.GCTL_EVQ_w5 0) 0x20 16).isSome || (idxOf off (Reg.GCTL_EVQ_w6 0) 0x20 16).isSome ||
  (idxOf off (Reg.GCTL_EVQ_w7 0) 0x20 16).isSome || (idxOf off (Reg.TIME_CAP_w2 0) 0x20 6).isSome ||
  (idxOf off (Reg.TIME_CAP_w3 0) 0x20 6).isSome || (idxOf off (Reg.TIME_CAP_w4 0) 0x20 6).isSome

/-- TIME_INC_FRAC and TIME_INC_NS read the increment in force, whatever was written (R287). -/
def isInc (off : Nat) : Bool := off == Reg.TIME_INC_FRAC || off == Reg.TIME_INC_NS

/-- PORT_EPCFG and PORT_MAC of an Ethernet port that its quad's MODE does not create, as read (R285): MODE as it reads (log 106). -/
def State.noPort (s : State) (off : Nat) : Bool :=
  let k := match idxOf (off % 0x1000) 0x10 4 4 with | some k => some k | none => (idxOf (off % 0x1000) 0x20 4 8).map (· / 2)
  match k with
  | some k => decide (0x200000 ≤ off) && decide (off < 0x20C000) && !modeMakes s.regs.shadow ((off - 0x200000) / 0x1000 * 4 + k)
  | none => false

/-- The value of a register by its fields' access types: RW and W1C bits as they are, RWS the shadow, RWL the committed value, RO
as computed, WO and reserved bits zero. -/
def State.regNow (s : State) (off : Nat) : Word :=
  if s.noPort off then 0 else
  let rw := if isInc off then 0 else s.rwW off &&& (regMask off .rw ||| regMask off .w1c)
  rw ||| (cfgOf s.regs.shadow off &&& regMask off .rws) ||| (s.cfgW off &&& regMask off .rwl) |||
    (if isInc off then s.roWord off else s.roWord off &&& regMask off .ro)

/-- The bits of a latched register that the latch holds: UDP_DPORT and GEN stand beside a _HI half and are fields of their own. -/
def latchMask (off : Nat) : Word :=
  if (idxOf off (Reg.RPLY_DEST_w2 0) 0x40 63).isSome ∨ (idxOf off (Reg.TIME_FELL_w2 0) 0x10 32).isSome then 0xFFFF else 0xFFFFFFFF

/-- What a register reads as, with no effect of the read: a latched half reads what was latched, zero before. -/
def State.regPeek (s : State) (off : Nat) : Word :=
  if isLatched off then (Tbl.getD s.regs.latch off 0 &&& latchMask off) ||| (s.regNow off &&& ~~~latchMask off) else s.regNow off

/-- A full read that has no effect but its latches. -/
def State.readLatch (s : State) (off : Nat) : State :=
  State.emit { s with regs.latch := (latchesOf off).foldl (fun t o => Tbl.put t o (s.regNow o)) s.regs.latch }
    (.read off (s.regPeek off))

/-- A read of the BAR0 aperture window (R341): a word of the device memory space. One that is uncorrectable ends the read with
Completer Abort (Table 14-7). -/
def State.readWindow (s : State) (off : Nat) : State :=
  let r := s.apReads (s.windowAddr off) 1
  r.2.2.emit (if r.2.1 = .ue then .abort off else .read off (wd (leAt r.1 0 4)))

/-- MEM_SSTAT of a die whose sweep runs: its progress is open (log 2). -/
def State.sweepAt (s : State) (off : Nat) : Bool :=
  let d := (off - 0x1000000) / 0x800000
  decide (0x1000000 ≤ off ∧ off < 0x3000000 ∧ off = Reg.MEM_SSTAT d) && (s.die d).sweep.isSome

/-- A register's word with no effect of the read but the free value that the progress of a sweep draws. -/
def State.peekReg (s : State) (off : Nat) : Word × State :=
  if s.sweepAt off then
    let r := s.drawNat 255
    (s.regPeek off ||| wd r.1, r.2)
  else (s.regPeek off, s)

/-- The word at an aligned offset of BAR0, none where it is uncorrectable, with no effect of the read but the free values that the
aperture window and the progress of a sweep draw. -/
def State.peekWord (s : State) (off : Nat) : Option Word × State :=
  if 0x3000000 ≤ off ∧ off < 0x4000000 then
    let r := s.apReads (s.windowAddr off) 1
    (if r.2.1 = .ue then none else some (wd (leAt r.1 0 4)), r.2.2)
  else if 0x80000 ≤ off ∧ off < 0x88000 then (some (Tbl.getD s.mgmt.msix off 0), s)
  else
    let r := s.peekReg off
    (some r.1, r.2)

/-- The bytes of the register at `w` that an access of `size` bytes at `off` addresses, as a mask. -/
def byteMask (off size w : Nat) : Word :=
  wd (sumBy (fun j => if off ≤ w + j ∧ w + j < off + size then 0xFF * 2 ^ (8 * j) else 0) (List.range 4))

/-- The registers that an access of `size` bytes at `off` touches, lowest first (R4). -/
def touched (off size : Nat) : List Nat :=
  if size = 0 then [] else (List.range ((off + size - 1) / 4 + 1 - off / 4)).map (fun i => off / 4 * 4 + 4 * i)

/-- The access addresses all four bytes of the register at `w`. -/
def wholeReg (off size w : Nat) : Bool := decide (off ≤ w) && decide (w + 4 ≤ off + size)

/-- A narrow read of a register (R4): the addressed bytes of its current value and zero in the others, with no effect. -/
def State.readNarrow (s : State) (w : Nat) (m : Word) : State :=
  let a := s.peekWord w
  a.2.emit (match a.1 with | some x => .read w (x &&& m) | none => .abort w)

/-- A full 32-bit read of a register of BAR0 (R4), with the effects that the register's rule gives it. -/
def State.readFull (s : State) (off : Nat) : State :=
  if 0x3000000 ≤ off ∧ off < 0x4000000 then s.readWindow off
  else match idxOf off (Reg.GCTL_EVQ_w4 0) 0x20 16 with
  | some q => s.evqRead q
  | none =>
  match idxOf off (Reg.TIME_CAP_w1 0) 0x20 6 with
  | some c => s.captureRead c
  | none =>
    if 0x80000 ≤ off ∧ off < 0x88000 then s.emit (.read off (Tbl.getD s.mgmt.msix off 0))
    else if s.sweepAt off then
      let r := s.peekReg off
      r.2.emit (.read off r.1)
    else s.readLatch off

/-! ### BAR2 (R337, R341, R379)

Offsets from 0x400_0000 on name the bytes of BAR2 (log 166). -/

/-- The end of BAR0. -/
def bar2Off : Nat := 0x4000000

/-- The device address of a byte of BAR2. -/
def State.bar2Addr (s : State) (off : Nat) : Nat := s.rw Reg.GCTL_BAR2WIN 9 0 * 2 ^ 30 + (off - bar2Off)

/-- A read of a word of BAR2: zero where unmapped; one that is uncorrectable ends with Completer Abort (Table 14-7). -/
def State.readBar2 (s : State) (w : Nat) (m : Word) : State :=
  let r := s.spaceRead (s.bar2Addr w) 4
  r.2.2.emit (if r.2.1 = .ue then .abort w else .read w (wd (leAt r.1 0 4) &&& m))

/-- A write of some bytes of a word of BAR2: DRAM takes bytes; a word of an aperture is written whole, so the bytes that are not
addressed keep their value, and a word that is uncorrectable takes no part of a word. -/
def State.writeBar2 (s : State) (a n : Nat) (b : List Byte) : State :=
  if a < dramEnd ∨ n = 4 then (s.spaceWrite a (b.take n)).2
  else
    let r := s.apReads (a / 4 * 4) 1
    if r.2.1 = .ok then r.2.2.apWrite a (wd (leAt (overwrite r.1 (a % 4) (b.take n)) 0 4)) else r.2.2

/-- A read over PCIe (R4): each register it touches is read in full, or narrowly where it addresses fewer than its four bytes. -/
def State.readReg (s : State) (off size : Nat) : State :=
  if bar2Off ≤ off then (touched off size).foldl (fun s w => s.readBar2 w (byteMask off size w)) s
  else (touched off size).foldl (fun s w => if wholeReg off size w then s.readFull w else s.readNarrow w (byteMask off size w)) s

/-! ## Writes (R4, R6) -/

/-- Hold a _LO write (R4). -/
def State.holdLo (s : State) (off : Nat) (val : Word) : State := { s with regs.loHeld := Tbl.put s.regs.loHeld off val }

/-- The MASTER_ID pair of a PTP port (R4): a change makes the next records FIRST (R299). -/
def State.masterWrite (s : State) (e : Nat) (hi : Word) : State :=
  let lo := Tbl.getD s.regs.loHeld (Reg.TIME_PTP_w3 e) (s.rwW (Reg.TIME_PTP_w3 e))
  let same := s.rwW (Reg.TIME_PTP_w3 e) = lo ∧ s.rwW (Reg.TIME_PTP_w4 e) = hi
  let s1 := ({ s with regs.loHeld := Tbl.del s.regs.loHeld (Reg.TIME_PTP_w3 e) }.setRw (Reg.TIME_PTP_w3 e) lo).setRw
    (Reg.TIME_PTP_w4 e) hi
  if same then s1 else s1.ptpFirst e

/-- A write of TIME_PTP[e] word w. -/
def State.ptpWrite (s : State) (e w : Nat) (val : Word) : State :=
  let off := Reg.TIME_PTP_w0 e + 4 * w
  let old := s.rwW off
  if w = 3 then s.holdLo off val
  else if w = 4 then s.masterWrite e val
  else if w = 0 then
    let s1 := s.plainWrite off (if fld val 26 25 = 3 then setFld val 26 25 (fld old 26 25) else val)
    State.ptpArm (if fld old 30 28 = fld (s1.rwW off) 30 28 then s1 else s1.ptpFirst e) s e
  else if w = 5 then
    let s1 := s.plainWrite off val
    if fld old 31 16 = fld (s1.rwW off) 31 16 then s1 else s1.ptpFirst e
  else s.plainWrite off val

/-- Writes that act in the GCTL block. -/
def State.writeGctl (s : State) (off : Nat) (val : Word) (origin : Nat) : State :=
  if off = Reg.GCTL_COMMIT then (if bitAt val 31 then s.goCommit origin else s)
  else if off = Reg.GCTL_RESET then
    let s1 := if fld val 11 0 = 0 then s else s.act (.quads (fld val 11 0))
    if bitAt val 31 then s1.act (.soft origin) else s1
  else if off = Reg.GCTL_MBOX_LO then s.holdLo off val
  else if off = Reg.GCTL_MBOX_HI then s.mboxSubmit val origin
  else if 0x80000 ≤ off ∧ off < 0x88000 then { s with mgmt.msix := Tbl.put s.mgmt.msix off val }
  else match idxOf off (Reg.GCTL_DMA_w2 0) 0x40 4 with
  | some n =>
    let s1 := s.plainWrite off val
    let s2 := if bitAt val 31 then s1.dmaGo n else s1
    if bitAt val 30 then s2.dmaStop n 4 else s2
  | none => s.plainWrite off val

/-- Writes that act in the TIME block. -/
def State.writeTime (s : State) (off : Nat) (val : Word) (origin : Nat) : State :=
  if off = Reg.TIME_INC_FRAC then { s with time.incFrac := val.toNat }
  else if off = Reg.TIME_INC_NS then s.incWrite val origin
  else if off = Reg.TIME_STEP_CTL then s.stepWrite val origin
  else match idxOf off (Reg.TIME_TPO_w0 0) 0x20 8 with
  | some i => s.act (.tpo i val)
  | none =>
  match idxOf off (Reg.TIME_PTP_w0 0) 4 (48 * 8) with
  | some i => s.ptpWrite (i / 8) (i % 8) val
  | none => if (idxOf off (Reg.TIME_CAP_w0 0) 0x20 6).isSome then s.act (.cap off val) else s.plainWrite off val

/-- A full 32-bit write to BAR0 with its origin (R388): the action that a rule gives the register, or the access types of its
fields (Table 0-2). Arming, repair commands, power requests and resets come after a commit that is due at their boundary (R22,
R23). -/
def State.writeReg (s : State) (off : Nat) (val : Word) (origin : Nat) : State :=
  if 0x3000000 ≤ off ∧ off < 0x4000000 then s.apWrite (s.windowAddr off) val
  else if off < 0x100000 then s.writeGctl off val origin
  else if off < 0x200000 then s.writeTime off val origin
  else if off = Reg.PORT_CMD then (if bitAt val 31 then s.adoptCmd (fld val 5 0) origin else s)
  else if off = Reg.JRNL_EXP_LO then s.holdLo off val
  else if off = Reg.JRNL_EXP_HI then s.jrnlExport val
  else if off = Reg.RPR_CMD then s.act (.rpr (fld val 31 28) val origin)
  else if off = Reg.PWR_CTL then (s.commitBoundary.plainWrite off val).act (.power (fld val 31 30) origin)
  else s.plainWrite off val

/-- A write of `size` bytes over PCIe (R4): each register whose four bytes it addresses is written; a narrow write of one is discarded. -/
def State.writeBytes (s : State) (off size : Nat) (val : BitVec 64) (origin : Nat) : State :=
  if bar2Off ≤ off then
    (touched off size).foldl (fun s w =>
      let lo := max off w
      s.writeBar2 (s.bar2Addr lo) (min (off + size) (w + 4) - lo) (leBytes 4 (val >>> (8 * (lo - off))).toNat)) s
  else (touched off size).foldl (fun s w =>
    if wholeReg off size w then s.writeReg w ((val >>> (8 * (w - off))).setWidth 32) origin else s) s

/-! ## The rows -/

/-- REGISTER_WRITE (R4, R6). -/
def execRegisterWrite (off size : Nat) (val : BitVec 64) (s : State) : Host.Outcome State Fault Refusal :=
  .next (s.overPcie (·.writeBytes off size val 1))

/-- REG64_LO_READ (R4). -/
def execReg64LoRead (a : BarRead) (s : State) : Host.Outcome State Fault Refusal := .next (s.overPcie (·.readReg a.off a.size))

/-- REG64_LO_WRITE (R4). -/
def execReg64LoWrite (off : Nat) (val : Word) (s : State) : Host.Outcome State Fault Refusal :=
  .next (if off % 4 = 0 then s.overPcie (·.writeReg off val 1) else s)

/-- REG64_HI_WRITE (R4). -/
def execReg64HiWrite (off : Nat) (val : Word) (s : State) : Host.Outcome State Fault Refusal :=
  .next (if off % 4 = 0 then s.overPcie (·.writeReg off val 1) else s)

/-- SEQ_INFO_READ (R212). -/
def execSeqInfoRead (die : Nat) (s : State) : Host.Outcome State Fault Refusal :=
  .next (if die < 4 then s.overPcie (·.readReg (Reg.SEQ_INFO0 die) 4) else s)

/-- CONV_INFO_READ (R258). -/
def execConvInfoRead (s : State) : Host.Outcome State Fault Refusal := .next (s.overPcie (·.readReg Reg.CONV_INFO0 4))

/-- MAPENT_READ (R372). -/
def execMapentRead (s : State) : Host.Outcome State Fault Refusal := .next (s.overPcie (·.readReg Reg.RPR_MAPENT_LO 4))

/-- TIME_NOW_READ (R309). -/
def execTimeNowRead (s : State) : Host.Outcome State Fault Refusal := .next (s.overPcie (·.readReg Reg.TIME_NOW_SEC_LO 4))

/-- SMBUS_REQUEST (R388): a board controller's change is journaled IN_BAND. -/
def execSmbusRequest (req : SmbusReq) (s : State) : Host.Outcome State Fault Refusal :=
  .next (match req with
    | .writeReg off val => if off % 4 = 0 then s.writeReg off val 2 else s
    | .readReg off => s.readReg off 4)

end Sys2Proof.Machine
end

