-- ==== Sys2Proof/Machine/Dispatch.lean ====
section
/-! DEFINITION. The one match over the commands: each arm calls the meaning of its row. -/
namespace Sys2Proof.Machine

def exec (i : Instr) (s : State) : Host.Outcome State Fault Refusal :=
  match i with
  | .registerWrite off size val => Sys2Proof.Machine.execRegisterWrite off size val s
  | .reg64LoRead a => Sys2Proof.Machine.execReg64LoRead a s
  | .reg64LoWrite off val => Sys2Proof.Machine.execReg64LoWrite off val s
  | .reg64HiWrite off val => Sys2Proof.Machine.execReg64HiWrite off val s
  | .seqInfoRead die => Sys2Proof.Machine.execSeqInfoRead die s
  | .convInfoRead => Sys2Proof.Machine.execConvInfoRead s
  | .mapentRead => Sys2Proof.Machine.execMapentRead s
  | .timeNowRead => Sys2Proof.Machine.execTimeNowRead s
  | .commitGo => Sys2Proof.Machine.execCommitGo s
  | .commitValidated => Sys2Proof.Machine.execCommitValidated s
  | .commitApply => Sys2Proof.Machine.execCommitApply s
  | .modeGapEnd handle copy => Sys2Proof.Machine.execModeGapEnd handle copy s
  | .frameReceive f => Sys2Proof.Machine.execFrameReceive f s
  | .headStart frame => Sys2Proof.Machine.execHeadStart frame s
  | .headResume frame handed ended => Sys2Proof.Machine.execHeadResume frame handed ended s
  | .prsNop head => Sys2Proof.Machine.execPrsNop head s
  | .prsLd head => Sys2Proof.Machine.execPrsLd head s
  | .prsLi head => Sys2Proof.Machine.execPrsLi head s
  | .prsAdd head => Sys2Proof.Machine.execPrsAdd head s
  | .prsSub head => Sys2Proof.Machine.execPrsSub head s
  | .prsAnd head => Sys2Proof.Machine.execPrsAnd head s
  | .prsOr head => Sys2Proof.Machine.execPrsOr head s
  | .prsShr head => Sys2Proof.Machine.execPrsShr head s
  | .prsShl head => Sys2Proof.Machine.execPrsShl head s
  | .prsBfx head => Sys2Proof.Machine.execPrsBfx head s
  | .prsJ head => Sys2Proof.Machine.execPrsJ head s
  | .prsJc head => Sys2Proof.Machine.execPrsJc head s
  | .keyn head => Sys2Proof.Machine.execKeyn head s
  | .keyr head => Sys2Proof.Machine.execKeyr head s
  | .metaWrite head => Sys2Proof.Machine.execMetaWrite head s
  | .setf head => Sys2Proof.Machine.execSetf head s
  | .chdr head => Sys2Proof.Machine.execChdr head s
  | .dispatch head => Sys2Proof.Machine.execDispatch head s
  | .fail head => Sys2Proof.Machine.execFail head s
  | .drop head => Sys2Proof.Machine.execDrop head s
  | .messageRerun frame => Sys2Proof.Machine.execMessageRerun frame s
  | .fecSyndromeResult quad on zero => Sys2Proof.Machine.execFecSyndromeResult quad on zero s
  | .fecCorrectionResult quad on ok => Sys2Proof.Machine.execFecCorrectionResult quad on ok s
  | .fcsVerdict frame => Sys2Proof.Machine.execFcsVerdict frame s
  | .specSuppress quad => Sys2Proof.Machine.execSpecSuppress quad s
  | .specWindowEnd quad => Sys2Proof.Machine.execSpecWindowEnd quad s
  | .replyBuild reply => Sys2Proof.Machine.execReplyBuild reply s
  | .replyTransmitStart reply => Sys2Proof.Machine.execReplyTransmitStart reply s
  | .heldUnitDue reply => Sys2Proof.Machine.execHeldUnitDue reply s
  | .extensionExhausted reply => Sys2Proof.Machine.execExtensionExhausted reply s
  | .reissue reply => Sys2Proof.Machine.execReissue reply s
  | .noticeSend reply => Sys2Proof.Machine.execNoticeSend reply s
  | .frameTruncated frame => Sys2Proof.Machine.execFrameTruncated frame s
  | .egressLinkLost eport => Sys2Proof.Machine.execEgressLinkLost eport s
  | .egressTimeout reply => Sys2Proof.Machine.execEgressTimeout reply s
  | .gapTimerExpire slot => Sys2Proof.Machine.execGapTimerExpire slot s
  | .seqWaitTimeout slot => Sys2Proof.Machine.execSeqWaitTimeout slot s
  | .admitQueueTimeout slot => Sys2Proof.Machine.execAdmitQueueTimeout slot s
  | .effectsApply slot => Sys2Proof.Machine.execEffectsApply slot s
  | .replaySend reply => Sys2Proof.Machine.execReplaySend reply s
  | .convIdleClose conv => Sys2Proof.Machine.execConvIdleClose conv s
  | .convLingerClose conv => Sys2Proof.Machine.execConvLingerClose conv s
  | .sampleAdmit slot => Sys2Proof.Machine.execSampleAdmit slot s
  | .combineComplete slot => Sys2Proof.Machine.execCombineComplete slot s
  | .partialLate slot die => Sys2Proof.Machine.execPartialLate slot die s
  | .shadowRotate die engine spare => Sys2Proof.Machine.execShadowRotate die engine spare s
  | .batchWaitExpire handle => Sys2Proof.Machine.execBatchWaitExpire handle s
  | .batchPassStart handle => Sys2Proof.Machine.execBatchPassStart handle s
  | .batchPassComplete p => Sys2Proof.Machine.execBatchPassComplete p s
  | .load n => Sys2Proof.Machine.execLoad n s
  | .loadComplete n => Sys2Proof.Machine.execLoadComplete n s
  | .activate n => Sys2Proof.Machine.execActivate n s
  | .discard n => Sys2Proof.Machine.execDiscard n s
  | .unload n => Sys2Proof.Machine.execUnload n s
  | .query n => Sys2Proof.Machine.execQuery n s
  | .pload n => Sys2Proof.Machine.execPload n s
  | .drain n => Sys2Proof.Machine.execDrain n s
  | .drainDone handle => Sys2Proof.Machine.execDrainDone handle s
  | .resume n => Sys2Proof.Machine.execResume n s
  | .versionRelease handle version => Sys2Proof.Machine.execVersionRelease handle version s
  | .copyReplace handle version copy => Sys2Proof.Machine.execCopyReplace handle version copy s
  | .arrayAdmit slot => Sys2Proof.Machine.execArrayAdmit slot s
  | .tokenArrive flight parityOk => Sys2Proof.Machine.execTokenArrive flight parityOk s
  | .opMov core slot idx tag => Sys2Proof.Machine.execOpMov core slot idx tag s
  | .opLi core slot idx tag => Sys2Proof.Machine.execOpLi core slot idx tag s
  | .opSel core slot idx tag => Sys2Proof.Machine.execOpSel core slot idx tag s
  | .opAdd core slot idx tag => Sys2Proof.Machine.execOpAdd core slot idx tag s
  | .opSub core slot idx tag => Sys2Proof.Machine.execOpSub core slot idx tag s
  | .opMul core slot idx tag => Sys2Proof.Machine.execOpMul core slot idx tag s
  | .opMin core slot idx tag => Sys2Proof.Machine.execOpMin core slot idx tag s
  | .opMax core slot idx tag => Sys2Proof.Machine.execOpMax core slot idx tag s
  | .opAnd core slot idx tag => Sys2Proof.Machine.execOpAnd core slot idx tag s
  | .opOr core slot idx tag => Sys2Proof.Machine.execOpOr core slot idx tag s
  | .opXor core slot idx tag => Sys2Proof.Machine.execOpXor core slot idx tag s
  | .opShl core slot idx tag => Sys2Proof.Machine.execOpShl core slot idx tag s
  | .opShr core slot idx tag => Sys2Proof.Machine.execOpShr core slot idx tag s
  | .opCmp core slot idx tag => Sys2Proof.Machine.execOpCmp core slot idx tag s
  | .opFma core slot idx tag => Sys2Proof.Machine.execOpFma core slot idx tag s
  | .opCvt core slot idx tag => Sys2Proof.Machine.execOpCvt core slot idx tag s
  | .opKey core slot idx tag => Sys2Proof.Machine.execOpKey core slot idx tag s
  | .opSfn core slot idx tag => Sys2Proof.Machine.execOpSfn core slot idx tag s
  | .opLut core slot idx tag => Sys2Proof.Machine.execOpLut core slot idx tag s
  | .opTag core slot idx tag => Sys2Proof.Machine.execOpTag core slot idx tag s
  | .opLd core slot idx tag => Sys2Proof.Machine.execOpLd core slot idx tag s
  | .opSt core slot idx tag => Sys2Proof.Machine.execOpSt core slot idx tag s
  | .opDma core slot idx tag => Sys2Proof.Machine.execOpDma core slot idx tag s
  | .opFeval core slot idx tag => Sys2Proof.Machine.execOpFeval core slot idx tag s
  | .opBswap core slot idx tag => Sys2Proof.Machine.execOpBswap core slot idx tag s
  | .opVmov core slot idx tag => Sys2Proof.Machine.execOpVmov core slot idx tag s
  | .opVsel core slot idx tag => Sys2Proof.Machine.execOpVsel core slot idx tag s
  | .opVadd core slot idx tag => Sys2Proof.Machine.execOpVadd core slot idx tag s
  | .opVsub core slot idx tag => Sys2Proof.Machine.execOpVsub core slot idx tag s
  | .opVmul core slot idx tag => Sys2Proof.Machine.execOpVmul core slot idx tag s
  | .opVmin core slot idx tag => Sys2Proof.Machine.execOpVmin core slot idx tag s
  | .opVmax core slot idx tag => Sys2Proof.Machine.execOpVmax core slot idx tag s
  | .opVand core slot idx tag => Sys2Proof.Machine.execOpVand core slot idx tag s
  | .opVor core slot idx tag => Sys2Proof.Machine.execOpVor core slot idx tag s
  | .opVxor core slot idx tag => Sys2Proof.Machine.execOpVxor core slot idx tag s
  | .opVdot core slot idx tag => Sys2Proof.Machine.execOpVdot core slot idx tag s
  | .opVred core slot idx tag => Sys2Proof.Machine.execOpVred core slot idx tag s
  | .opVcmp core slot idx tag => Sys2Proof.Machine.execOpVcmp core slot idx tag s
  | .opVcvt core slot idx tag => Sys2Proof.Machine.execOpVcvt core slot idx tag s
  | .opVkey core slot idx tag => Sys2Proof.Machine.execOpVkey core slot idx tag s
  | .opVsfn core slot idx tag => Sys2Proof.Machine.execOpVsfn core slot idx tag s
  | .opVins core slot idx tag => Sys2Proof.Machine.execOpVins core slot idx tag s
  | .opVext core slot idx tag => Sys2Proof.Machine.execOpVext core slot idx tag s
  | .opVbcast core slot idx tag => Sys2Proof.Machine.execOpVbcast core slot idx tag s
  | .opVld core slot idx tag => Sys2Proof.Machine.execOpVld core slot idx tag s
  | .opVst core slot idx tag => Sys2Proof.Machine.execOpVst core slot idx tag s
  | .firesCheck core slot run => Sys2Proof.Machine.execFiresCheck core slot run s
  | .resultCountCheck run => Sys2Proof.Machine.execResultCountCheck run s
  | .fevalResult e => Sys2Proof.Machine.execFevalResult e s
  | .dmaComplete e ue => Sys2Proof.Machine.execDmaComplete e ue s
  | .apertureWrite off val => Sys2Proof.Machine.execApertureWrite off val s
  | .copyDrain core => Sys2Proof.Machine.execCopyDrain core s
  | .migrationDone core => Sys2Proof.Machine.execMigrationDone core s
  | .seqTokenAdmit slot => Sys2Proof.Machine.execSeqTokenAdmit slot s
  | .seqStepBoundary ctx => Sys2Proof.Machine.execSeqStepBoundary ctx s
  | .creditEarn ctx => Sys2Proof.Machine.execCreditEarn ctx s
  | .checkpointCapture ctx => Sys2Proof.Machine.execCheckpointCapture ctx s
  | .checkpointWriteDone ctx => Sys2Proof.Machine.execCheckpointWriteDone ctx s
  | .rollback ctx => Sys2Proof.Machine.execRollback ctx s
  | .restoreDone r => Sys2Proof.Machine.execRestoreDone r s
  | .gstart n => Sys2Proof.Machine.execGstart n s
  | .gstop n => Sys2Proof.Machine.execGstop n s
  | .sclose n => Sys2Proof.Machine.execSclose n s
  | .genStep ctx => Sys2Proof.Machine.execGenStep ctx s
  | .genFrameEmit ctx => Sys2Proof.Machine.execGenFrameEmit ctx s
  | .boomData slot => Sys2Proof.Machine.execBoomData slot s
  | .abandon slot => Sys2Proof.Machine.execAbandon slot s
  | .boomQuery slot => Sys2Proof.Machine.execBoomQuery slot s
  | .part slot => Sys2Proof.Machine.execPart slot s
  | .gath slot => Sys2Proof.Machine.execGath slot s
  | .boomAck slot => Sys2Proof.Machine.execBoomAck slot s
  | .haveMsg slot => Sys2Proof.Machine.execHaveMsg slot s
  | .decide slot => Sys2Proof.Machine.execDecide slot s
  | .abort slot => Sys2Proof.Machine.execAbort slot s
  | .boomBusyFrame slot => Sys2Proof.Machine.execBoomBusyFrame slot s
  | .boomBusyRetry id => Sys2Proof.Machine.execBoomBusyRetry id s
  | .memberTimerExpire op => Sys2Proof.Machine.execMemberTimerExpire op s
  | .coordTimerExpire op => Sys2Proof.Machine.execCoordTimerExpire op s
  | .hostpathResend member pseq => Sys2Proof.Machine.execHostpathResend member pseq s
  | .retentionExpire op => Sys2Proof.Machine.execRetentionExpire op s
  | .linkUp eport => Sys2Proof.Machine.execLinkUp eport s
  | .linkDown eport => Sys2Proof.Machine.execLinkDown eport s
  | .linkDataFrame f => Sys2Proof.Machine.execLinkDataFrame f s
  | .voidFrame f => Sys2Proof.Machine.execVoidFrame f s
  | .nakFrame f => Sys2Proof.Machine.execNakFrame f s
  | .linkCtrlFrame f => Sys2Proof.Machine.execLinkCtrlFrame f s
  | .linkResumeFrame eport f => Sys2Proof.Machine.execLinkResumeFrame eport f s
  | .ctrlKeepalive eport => Sys2Proof.Machine.execCtrlKeepalive eport s
  | .linkReplayTimeout eport => Sys2Proof.Machine.execLinkReplayTimeout eport s
  | .nakRepeatTimeout eport => Sys2Proof.Machine.execNakRepeatTimeout eport s
  | .lldpSend eport => Sys2Proof.Machine.execLldpSend eport s
  | .lldpReceive eport bytes => Sys2Proof.Machine.execLldpReceive eport bytes s
  | .peerExpire eport => Sys2Proof.Machine.execPeerExpire eport s
  | .nopeerTimeout eport => Sys2Proof.Machine.execNopeerTimeout eport s
  | .pfcFrameReceive eport bytes => Sys2Proof.Machine.execPfcFrameReceive eport bytes s
  | .adopt eport => Sys2Proof.Machine.execAdopt eport s
  | .timeIncWrite val => Sys2Proof.Machine.execTimeIncWrite val s
  | .timeStep val => Sys2Proof.Machine.execTimeStep val s
  | .tpoArm n val => Sys2Proof.Machine.execTpoArm n val s
  | .tpoEdge n => Sys2Proof.Machine.execTpoEdge n s
  | .tpoTrail n => Sys2Proof.Machine.execTpoTrail n s
  | .captureEdge c rising sub => Sys2Proof.Machine.execCaptureEdge c rising sub s
  | .captureRead c => Sys2Proof.Machine.execCaptureRead c s
  | .ptpEventReceive eport sub bytes => Sys2Proof.Machine.execPtpEventReceive eport sub bytes s
  | .ptpSyncSend eport => Sys2Proof.Machine.execPtpSyncSend eport s
  | .ptpReqSend eport => Sys2Proof.Machine.execPtpReqSend eport s
  | .ptpMiss eport => Sys2Proof.Machine.execPtpMiss eport s
  | .fell n => Sys2Proof.Machine.execFell n s
  | .fcancel n => Sys2Proof.Machine.execFcancel n s
  | .fellReady n => Sys2Proof.Machine.execFellReady n s
  | .fellApply n => Sys2Proof.Machine.execFellApply n s
  | .digestComplete reply => Sys2Proof.Machine.execDigestComplete reply s
  | .fixedRelease reply => Sys2Proof.Machine.execFixedRelease reply s
  | .scrubRead die area addr err => Sys2Proof.Machine.execScrubRead die area addr err s
  | .scrubLate die => Sys2Proof.Machine.execScrubLate die s
  | .laneFailing die lane => Sys2Proof.Machine.execLaneFailing die lane s
  | .sweepDone die => Sys2Proof.Machine.execSweepDone die s
  | .patrolScrub die addr err => Sys2Proof.Machine.execPatrolScrub die addr err s
  | .bridgeLaneCheck die toDie bad => Sys2Proof.Machine.execBridgeLaneCheck die toDie bad s
  | .bridgeUe die slots => Sys2Proof.Machine.execBridgeUe die slots s
  | .checkEvent unit check slots readable => Sys2Proof.Machine.execCheckEvent unit check slots readable s
  | .replaceDone unit => Sys2Proof.Machine.execReplaceDone unit s
  | .suspectExpire unit => Sys2Proof.Machine.execSuspectExpire unit s
  | .cruiseSlot => Sys2Proof.Machine.execCruiseSlot s
  | .cruiseTestDone unit pass => Sys2Proof.Machine.execCruiseTestDone unit pass s
  | .retire val => Sys2Proof.Machine.execRetire val s
  | .unretire val => Sys2Proof.Machine.execUnretire val s
  | .test val => Sys2Proof.Machine.execTest val s
  | .memberLost val => Sys2Proof.Machine.execMemberLost val s
  | .memberBack val => Sys2Proof.Machine.execMemberBack val s
  | .heartbeat => Sys2Proof.Machine.execHeartbeat s
  | .leaveService => Sys2Proof.Machine.execLeaveService s
  | .twinRecord r => Sys2Proof.Machine.execTwinRecord r s
  | .twinMatchTimeout reply => Sys2Proof.Machine.execTwinMatchTimeout reply s
  | .kwainSilence => Sys2Proof.Machine.execKwainSilence s
  | .aliveInFall => Sys2Proof.Machine.execAliveInFall s
  | .twinPairing p => Sys2Proof.Machine.execTwinPairing p s
  | .twinLinkTimeout => Sys2Proof.Machine.execTwinLinkTimeout s
  | .mboxSubmit hi => Sys2Proof.Machine.execMboxSubmit hi s
  | .send n => Sys2Proof.Machine.execSend n s
  | .identify n => Sys2Proof.Machine.execIdentify n s
  | .enroll n => Sys2Proof.Machine.execEnroll n s
  | .evqRead q => Sys2Proof.Machine.execEvqRead q s
  | .dmaGo n => Sys2Proof.Machine.execDmaGo n s
  | .dmaAbort n => Sys2Proof.Machine.execDmaAbort n s
  | .dmaDescDone n d => Sys2Proof.Machine.execDmaDescDone n d s
  | .jrnlExport hi => Sys2Proof.Machine.execJrnlExport hi s
  | .coldStart env => Sys2Proof.Machine.execColdStart env s
  | .boardReset => Sys2Proof.Machine.execBoardReset s
  | .softReset => Sys2Proof.Machine.execSoftReset s
  | .quadReset mask => Sys2Proof.Machine.execQuadReset mask s
  | .flr => Sys2Proof.Machine.execFlr s
  | .perst => Sys2Proof.Machine.execPerst s
  | .aonLoss => Sys2Proof.Machine.execAonLoss s
  | .pwrReqRun => Sys2Proof.Machine.execPwrReqRun s
  | .pwrReqIdle => Sys2Proof.Machine.execPwrReqIdle s
  | .pwrReqDoze => Sys2Proof.Machine.execPwrReqDoze s
  | .dozeSaveDone => Sys2Proof.Machine.execDozeSaveDone s
  | .wakeDone => Sys2Proof.Machine.execWakeDone s
  | .supplySample rails => Sys2Proof.Machine.execSupplySample rails s
  | .supplyOk => Sys2Proof.Machine.execSupplyOk s
  | .tjSample temps => Sys2Proof.Machine.execTjSample temps s
  | .powerOn => Sys2Proof.Machine.execPowerOn s
  | .pfcPauseEnd eport prio => Sys2Proof.Machine.execPfcPauseEnd eport prio s
  | .mapFlashWriteDone => Sys2Proof.Machine.execMapFlashWriteDone s
  | .testPortAccess req => Sys2Proof.Machine.execTestPortAccess req s
  | .smbusRequest req => Sys2Proof.Machine.execSmbusRequest req s

end Sys2Proof.Machine
end

