-- ==== Sys2Proof/Machine/Time.lean ====
section
/-! DEFINITION. The tick boundary (R26, R27, R286): what happens when the next boundary comes (log 1). -/
namespace Sys2Proof.Machine

/-- Leaving service takes effect at a tick boundary (R361). -/
def State.leaveTick (s : State) : State := if s.mgmt.leaveDue then s.leaveService else s

/-- The board reset that follows a crossing of VRESET (R394) or a thermal shutdown (R391). -/
def State.vresetTick (s : State) : State := if s.power.vreset then s.boardReset false else s

/-- A soft reset that falls due (R391). -/
def State.softTick (s : State) : State :=
  if s.power.holdReset ∧ s.power.resetAt ≤ s.time.raw then s.softResetNow else s

/-- What a boundary of the running arithmetic domain does (R26): the count rises; a validated commit falls due, and with none the
increment writes, steps and ADOPTs that wait apply (R22, R287, R291); windows of array runs open (R148); START_TIMEs are reached
(R207); members that are back count (R363); holds begin (R394); what was due at a boundary happens; tokens that are ready are marked (R201). -/
def State.tickWork (s : State) : State :=
  let s1 := { s with time.tick := (s.time.tick + 1) % 2 ^ 64 }.boundaryDue.membersBack.openWindows.genStarts
  (s1.leaveTick.softTick.holdDue.idleDue).ctxSettles.egressTick.markTokens

/-- The next tick boundary: four raw counts later; the always-on domain counts while it has power. A cold start under way completes its next
step (R378). -/
def tickBoundary (s : State) : State :=
  let s0 := if s.time.running then s.pulsesBefore else s
  let s1 := if s.power.aon then { s0 with time.raw := (s0.time.raw + 4) % 2 ^ 64 } else s0
  (if s1.time.running then s1.tickWork else s1).vresetTick.bootStep

end Sys2Proof.Machine
end

