-- ==== Sys2Proof/WellFormed.lean ====
section
/-! DEFINITION. Which commands are well formed: the operand ranges that the spec gives ports, slots, units and registers. The
machine gives every command a meaning; a command outside these ranges names something the device does not have, and changes
nothing (log 5). -/
namespace Sys2Proof

/-- A 32-bit register offset of BAR0, 64 MB (R4, R379). -/
def regOk (off : Nat) : Bool := decide (off < 0x4000000) && off % 4 == 0
/-- A place of the mailbox queue (R381). -/
def mboxOk (i : Nat) : Bool := decide (i < 64)
/-- An Ethernet port (R259). -/
def eportOk (e : Nat) : Bool := decide (e < 48)
/-- A head context (R57). -/
def headOk (h : Nat) : Bool := decide (h < 768)
/-- A message slot (R76). -/
def slotOk (n : Nat) : Bool := decide (n < 65536)
/-- A model handle (R118). -/
def handleOk (h : Nat) : Bool := decide (h < 1024)
/-- A sequence context (R196). -/
def ctxOk (c : Nat) : Bool := decide (c < 16384)
/-- A conversation (R242). -/
def convOk (c : Nat) : Bool := decide (c < 131072)
/-- An operation of the boom (R234). -/
def opOk (o : Nat) : Bool := decide (o < 8192)
/-- A firing: a physical core of the package, a context slot, an instruction, a tag (R135, R139). -/
def fireOk (core slot idx tag : Nat) : Bool := decide (core < 4896) && decide (slot < 4) && decide (idx < 256) && decide (tag < 65536)
/-- A received frame: its port, its phase, no more bytes handed over than there are. -/
def FrameIn.wf (f : FrameIn) : Bool := eportOk f.eport && decide (f.sub < 64) && decide (f.handed ≤ f.bytes.length)
/-- A frame of a neighbour link. -/
def LinkIn.wf (f : LinkIn) : Bool := eportOk f.eport && decide (f.sub < 64)
/-- The fields of a unit fit Table 15-1. -/
def UnitId.wf (u : UnitId) : Bool :=
  decide (1 ≤ u.level) && decide (u.level ≤ 6) && decide (u.die < 16) && decide (u.cmpt < 8) && decide (u.stand < 16) && decide (u.unit < 4096)
/-- A Kwain reply record's fields fit Table 15-7. -/
def TwinRec.wf (r : TwinRec) : Bool := decide (r.occ < 65536) && decide (r.fcs < 2 ^ 32) && decide (r.tdig < 2 ^ 64)
/-- A DMA descriptor: 32-bit length, 64-bit addresses (R380). -/
def HostDesc.wf (d : HostDesc) : Bool := decide (d.len < 2 ^ 32) && decide (d.src < 2 ^ 64) && decide (d.dst < 2 ^ 64)
/-- A cold start: five die identifiers and five sensors, a phase of the timebase, tract dies. -/
def ColdEnv.wf (e : ColdEnv) : Bool :=
  e.puf.length == 5 && e.temps.length == 5 && decide (e.phase < 4) && e.bridges.all (fun d => decide (d < 4)) &&
  e.ports.all (fun d => decide (d < 4)) && e.lanes.all (fun l => decide (l.1 < 4 ∧ l.2 < 128))

/-- An access of 1 to 8 bytes that lies in BAR0, or from 0x400_0000 on in BAR2 (R379). -/
def accessOk (off size : Nat) : Bool :=
  decide (1 ≤ size) && decide (size ≤ 8) && (decide (off + size ≤ 0x4000000) || decide (0x4000000 ≤ off ∧ off + size ≤ 0x4000000 + 2 ^ 34))

/-- A command is well formed. -/
def wellFormed : Instr → Bool
  | .registerWrite off size _ => accessOk off size
  | .reg64LoRead a => accessOk a.off a.size
  | .reg64LoWrite off _ | .reg64HiWrite off _ => regOk off
  | .apertureWrite off _ => off % 4 == 0
  | .smbusRequest (.writeReg off _) => decide (off < 0x4000000)
  | .smbusRequest (.readReg off) => decide (off < 0x4000000)
  | .seqInfoRead d | .scrubLate d | .sweepDone d | .bridgeLaneCheck d _ _ | .bridgeUe d _ => decide (d < 4)
  | .scrubRead d _ _ _ => decide (d < 5)
  | .laneFailing d l => decide (d < 4) && decide (l < 128)
  | .patrolScrub d _ _ => decide (d < 4)
  | .shadowRotate d e sp => decide (d < 4) && decide (e < 16) && decide (sp < 16)
  | .partialLate slot d => decide (slot < 65536 + 65536) && decide (d < 4)
  | .convInfoRead | .mapentRead | .timeNowRead | .commitGo | .commitValidated | .commitApply | .cruiseSlot | .heartbeat
  | .leaveService | .kwainSilence | .aliveInFall | .twinLinkTimeout | .boardReset | .softReset | .flr | .perst | .aonLoss
  | .pwrReqRun | .pwrReqIdle | .pwrReqDoze | .dozeSaveDone | .wakeDone | .supplyOk | .powerOn | .mapFlashWriteDone => true
  | .modeGapEnd h _ | .versionRelease h _ | .copyReplace h _ _ => handleOk h
  | .batchWaitExpire h | .batchPassStart h | .drainDone h => handleOk h
  | .batchPassComplete p => handleOk p.handle
  | .frameReceive f => f.wf
  | .linkDataFrame f | .voidFrame f | .nakFrame f | .linkCtrlFrame f => f.wf
  | .linkResumeFrame e f => LinkIn.wf ⟨f, e⟩
  | .headStart _ | .headResume _ _ _ | .messageRerun _ | .fcsVerdict _
  | .frameTruncated _ => true
  | .prsNop h | .prsLd h | .prsLi h | .prsAdd h | .prsSub h | .prsAnd h | .prsOr h | .prsShr h | .prsShl h | .prsBfx h
  | .prsJ h | .prsJc h | .keyn h | .keyr h | .metaWrite h | .setf h | .chdr h | .dispatch h | .fail h | .drop h => headOk h
  | .specSuppress q | .specWindowEnd q | .fecSyndromeResult q _ _ | .fecCorrectionResult q _ _ => decide (q < 12)
  | .replyBuild _ | .replyTransmitStart _ | .heldUnitDue _ | .extensionExhausted _ | .reissue _ | .noticeSend _ | .egressTimeout _
  | .replaySend _ | .digestComplete _ | .fixedRelease _ | .twinMatchTimeout _ => true
  | .egressLinkLost e | .linkUp e | .linkDown e | .ctrlKeepalive e | .linkReplayTimeout e | .nakRepeatTimeout e | .lldpSend e
  | .lldpReceive e _ | .peerExpire e | .nopeerTimeout e | .pfcFrameReceive e _ | .adopt e | .ptpSyncSend e | .ptpReqSend e
  | .ptpMiss e => eportOk e
  | .ptpEventReceive e sub _ => eportOk e && decide (sub < 64)
  | .pfcPauseEnd e p => eportOk e && decide (p < 8)
  | .gapTimerExpire n | .seqWaitTimeout n | .admitQueueTimeout n | .effectsApply n | .sampleAdmit n | .combineComplete n
  | .arrayAdmit n | .seqTokenAdmit n | .boomData n | .abandon n | .boomQuery n | .part n | .gath n
  | .boomAck n | .haveMsg n | .decide n | .abort n | .boomBusyFrame n => slotOk n
  | .convIdleClose c | .convLingerClose c => convOk c
  | .load i | .activate i | .discard i | .unload i | .query i | .pload i | .drain i | .resume i | .gstart i | .gstop i | .sclose i
  | .fell i | .fcancel i | .send i | .identify i | .enroll i => mboxOk i
  | .resultCountCheck _ | .loadComplete _ | .tokenArrive _ _ | .fevalResult _ | .dmaComplete _ _ | .boomBusyRetry _ => true
  | .opMov c k i t | .opLi c k i t | .opSel c k i t | .opAdd c k i t | .opSub c k i t | .opMul c k i t | .opMin c k i t
  | .opMax c k i t | .opAnd c k i t | .opOr c k i t | .opXor c k i t | .opShl c k i t | .opShr c k i t | .opCmp c k i t
  | .opFma c k i t | .opCvt c k i t | .opKey c k i t | .opSfn c k i t | .opLut c k i t | .opTag c k i t | .opLd c k i t
  | .opSt c k i t | .opDma c k i t | .opFeval c k i t | .opBswap c k i t | .opVmov c k i t | .opVsel c k i t | .opVadd c k i t
  | .opVsub c k i t | .opVmul c k i t | .opVmin c k i t | .opVmax c k i t | .opVand c k i t | .opVor c k i t | .opVxor c k i t
  | .opVdot c k i t | .opVred c k i t | .opVcmp c k i t | .opVcvt c k i t | .opVkey c k i t | .opVsfn c k i t | .opVins c k i t
  | .opVext c k i t | .opVbcast c k i t | .opVld c k i t | .opVst c k i t => fireOk c k i t
  | .firesCheck c k _ => decide (c < 4896) && decide (k < 4)
  | .copyDrain c | .migrationDone c => decide (c < 4896)
  | .seqStepBoundary x | .creditEarn x | .checkpointCapture x | .checkpointWriteDone x | .rollback x | .genStep x
  | .genFrameEmit x => ctxOk x
  | .restoreDone r => ctxOk r.ctx
  | .memberTimerExpire o | .coordTimerExpire o | .retentionExpire o => opOk o
  | .hostpathResend m _ => decide (m < 4096)
  | .timeIncWrite _ | .timeStep _ | .mboxSubmit _ | .jrnlExport _ => true
  | .tpoArm i _ | .tpoEdge i | .tpoTrail i => decide (i < 8)
  | .captureEdge c _ sub => decide (c < 6) && decide (sub < 64)
  | .captureRead c => decide (c < 6)
  | .fellReady n | .fellApply n => decide (n < 32)
  | .checkEvent u _ _ _ | .replaceDone u | .suspectExpire u | .cruiseTestDone u _ => u.wf
  | .retire _ | .unretire _ | .test _ | .memberLost _ | .memberBack _ => true
  | .twinRecord r => r.wf
  | .twinPairing p => decide (p.identity < 2 ^ 64)
  | .evqRead q => decide (q < 16)
  | .dmaGo n | .dmaAbort n => decide (n < 4)
  | .dmaDescDone n d => decide (n < 4) && d.wf
  | .coldStart env => env.wf
  | .quadReset m => decide (m < 4096)
  | .supplySample rails => rails.length == 6
  | .tjSample temps => temps.length == 5 && temps.all (fun t => decide (t < 2048))
  | .testPortAccess .boundaryScan => true
  | .testPortAccess (.unitPort u _) => u.wf

end Sys2Proof
end

