-- ==== Sys2Proof/Safety.lean ====
section
/-! DEFINITION. The terms the statements use: what holds of every state a step reaches from a state in which it holds. -/
namespace Sys2Proof.Machine

/-- A die's memories are in the canonical form. -/
def DieSt.ok (y : DieSt) : Bool := y.dram.wf && y.sram.wf

/-- The device's memories are in the canonical form: one entry a die in rising order, addresses rising, no listed byte equal to
what an unlisted one reads as. -/
def State.memOk (s : State) : Bool := Tbl.ok s.dies && s.dies.all (fun e => e.2.ok)

/-- The mailbox holds at most 64 commands (R381). -/
def State.mboxOk (s : State) : Bool := decide (s.mgmt.mbox.length ≤ 64)

/-- Every waiting command is well formed. -/
def State.queueOk (s : State) : Bool := s.pending.all wellFormed

/-- What every step keeps. -/
def State.inv (s : State) : Bool := s.memOk && s.mboxOk && s.queueOk

/-! ## Parser heads -/

/-- Head n of frame `fr` is not parked and is at an instruction of opcode `opc`. -/
def State.headAt (s : State) (n opc : Nat) (hd : Head) (fr : Frame) : Prop :=
  Tbl.find s.heads n = some hd ∧ Tbl.find s.frames hd.frame = some fr ∧ opcOf hd.instr = opc ∧ hd.park = none

/-- The command completes and changes head n alone, to one of which `p` holds. -/
def State.headBecomes (s : State) (c : Instr) (n : Nat) (p : Head → Prop) : Prop :=
  ∃ x, exec c s = .next { s with heads := Tbl.put s.heads n x } ∧ p x

/-- Head `x` is `hd` one instruction further with `v` in register d, the other registers as they were; register 0 reads as
zero whatever is written. -/
def Head.wrote (hd x : Head) (d v : Nat) : Prop :=
  x.pc = hd.pc + 1 ∧ (d ≠ 0 → x.reg d = v) ∧ x.reg 0 = 0 ∧ (∀ k, k ≠ d → x.reg k = hd.reg k) ∧
  { x with pc := hd.pc, h := hd.h } = hd

/-! ## Registers -/

/-- A register of BAR0 whose writes have no effect but the access types of its fields. -/
def plainOff (off : Nat) : Bool :=
  decide (off % 4 = 0 ∧ off < 0x3000000 ∧ !(0x80000 ≤ off ∧ off < 0x88000)) &&
  !([Reg.GCTL_COMMIT, Reg.GCTL_RESET, Reg.GCTL_MBOX_LO, Reg.GCTL_MBOX_HI, Reg.TIME_INC_FRAC, Reg.TIME_INC_NS, Reg.TIME_STEP_CTL,
     Reg.PORT_CMD, Reg.JRNL_EXP_LO, Reg.JRNL_EXP_HI, Reg.RPR_CMD, Reg.PWR_CTL].contains off) &&
  (idxOf off (Reg.GCTL_DMA_w2 0) 0x40 4).isNone && (idxOf off (Reg.TIME_TPO_w0 0) 0x20 8).isNone &&
  (idxOf off (Reg.TIME_PTP_w0 0) 4 384).isNone

/-- The bits of a register that a field covers. -/
def fieldBits (off : Nat) : Word :=
  regMask off .ro ||| regMask off .rw ||| regMask off .w1c ||| regMask off .wo ||| regMask off .rws ||| regMask off .rwl

/-! ## Firings of a core -/

/-- The command completes as the firing `f` with result `r`: the tokens are consumed and the firing counted, DST takes the result,
the routed outputs carry it, and the core keeps the firing as its last one (R192, R193). -/
def State.firesWith (s : State) (c : Instr) (f : Fire) (r : Res) : Prop :=
  let s1 := s.fired f
  let co := s1.core f.p
  let s2 := s1.setCore f.p (co.setSlot f.k (writeDst (co.slot f.k) f.i (frameNo f.hm.v.prog.tpm f.tag) r.val))
  exec c s = .next (s.noteFiring (s2.sendRoutes f r.val r.nan r.sat f.i.routes) f)

/-- The instructions of a core that write DST, except the two selections: opcode, command, result. -/
def coreWriters : List (Nat × (Nat → Nat → Nat → Nat → Instr) × (Fire → Res)) :=
  [(0x01, .opMov, resMov), (0x02, .opLi, resLi), (0x04, .opAdd, resArith 0), (0x05, .opSub, resArith 1), (0x06, .opMul, resArith 2),
   (0x07, .opMin, resMinMax false), (0x08, .opMax, resMinMax true), (0x09, .opAnd, resAnd), (0x0A, .opOr, resOr),
   (0x0B, .opXor, resXor), (0x0C, .opShl, resShl), (0x0D, .opShr, resShr), (0x0E, .opCmp, resCmp), (0x0F, .opFma, resFma),
   (0x10, .opCvt, resCvt), (0x11, .opKey, resKey), (0x12, .opSfn, resSfn), (0x14, .opTag, resTag), (0x19, .opBswap, resBswap)] ++
  [(0x20, .opVmov, resVmov), (0x22, .opVadd, resVarith 0), (0x23, .opVsub, resVarith 1), (0x24, .opVmul, resVarith 2),
   (0x25, .opVmin, resVminMax false), (0x26, .opVmax, resVminMax true), (0x27, .opVand, resVand), (0x28, .opVor, resVor),
   (0x29, .opVxor, resVxor), (0x2A, .opVdot, resVdot), (0x2B, .opVred, resVred), (0x2C, .opVcmp, resVcmp), (0x2D, .opVcvt, resVcvt),
   (0x2E, .opVkey, resVkey), (0x2F, .opVsfn, resVsfn), (0x30, .opVins, resVins), (0x31, .opVext, resVext), (0x32, .opVbcast, resVbcast)]

end Sys2Proof.Machine
end

