-- ==== Sys2Proof/Certificates/Slice0/Obligations.lean ====
section
/-! DEFINITION. The statements about the block, family by family. A docstring names the rules of the spec its clauses
follow; a hypothesis says where the command has its own effect. -/
open Sys2Proof Sys2Proof.Machine

/-- For every command c and state s, a step of s with c at the front of its queue is exec of c on s with the rest of the queue
(the model's form of a step, log 1). -/
def Obligations.StepRunsFrontCommand : Prop :=
  ∀ (c : Instr) (rest : List Instr) (s : State), s.pending = c :: rest → step s = exec c { s with pending := rest }

/-- On an empty queue a step always answers a next state (the step's form is the model's choice, log 1): the raw counter is four
higher while the always-on domain has power (R21, R286), modulo 2^64, and the tick count is one higher while the arithmetic
domain runs and no reset or leaving of service falls due (R26); while a cold start is under way, its next step completes there
too (log 86), which may move the raw counter on by fewer than 4 counts more, to the phase of the tick. -/
def Obligations.IdleStepIsTickBoundary : Prop :=
  ∀ s : State, s.pending = [] →
    ∃ t, step s = .next t ∧ t.pending = [] ∧
      (s.mgmt.booting = none → t.time.raw = (if s.power.aon then (s.time.raw + 4) % 2 ^ 64 else s.time.raw)) ∧
      (∃ k, k < 4 ∧ (t.time.raw = (if s.power.aon then (s.time.raw + 4) % 2 ^ 64 else s.time.raw) ∨
        t.time.raw = ((if s.power.aon then (s.time.raw + 4) % 2 ^ 64 else s.time.raw) + k) % 2 ^ 64)) ∧
      (s.mgmt.booting = none → s.power.vreset = false → s.power.holdReset = false → s.mgmt.leaveDue = false →
        t.time.tick = (if s.time.running then (s.time.tick + 1) % 2 ^ 64 else s.time.tick))

/-- From every state in which the memories are in the canonical form, the mailbox holds at most 64 commands (R381) and every
waiting command is well formed, a step that answers a next state answers one in which the same holds. -/
def Obligations.StepKeepsInvariant : Prop :=
  ∀ s t : State, s.inv = true → step s = .next t → t.inv = true

/-- The state right after reset has canonical memories, an empty mailbox and an empty queue. -/
def Obligations.InvariantHoldsAtReset : Prop :=
  State.reset.inv = true

/-- Whatever command runs, the commands that wait behind it are the same afterwards, and what has left the device before stays as
it was, followed by what leaves it now. -/
def Obligations.CommandsLeaveTheQueue : Prop :=
  ∀ (c : Instr) (s t : State), exec c s = .next t → t.pending = s.pending ∧ ∃ new, t.out = s.out ++ new

/-- Every command but POWER_ON and AON_LOSS leaves the raw counter as it is (R286: nothing writes it, and no reset short of loss
of power clears it). POWER_ON and the loss of the always-on supply start it at zero. It advances otherwise at tick boundaries
alone (log 1). The two complete from every state. -/
def Obligations.OnlyPowerMovesTheRawCounter : Prop :=
  (∀ (c : Instr) (s t : State), c ≠ .powerOn → c ≠ .aonLoss → exec c s = .next t → t.time.raw = s.time.raw) ∧
  (∀ s : State, ∃ t, exec .powerOn s = .next t ∧ t.time.raw = 0) ∧ (∀ s : State, ∃ t, exec .aonLoss s = .next t ∧ t.time.raw = 0)

/-- Every command answers a next state from every state: the block has no command that faults or is refused. -/
def Obligations.EveryWellFormedCommandRuns : Prop :=
  ∀ (c : Instr) (s : State), ∃ t, exec c s = .next t

/-- Right after reset every register reads its Reset column (nothing is listed in the register tables), no commit has succeeded,
the raw counter is zero (R286), no memory byte is listed, no frame, head, message, conversation, model handle, context, event
or mailbox command is held, and the block is held in reset and not in service. -/
def Obligations.ResetLeavesTheBlockEmpty : Prop :=
  (∀ off, State.reset.rwW off = regReset off ∧ State.reset.cfgW off = regReset off ∧ cfgOf State.reset.regs.shadow off = regReset off) ∧
  State.reset.regs.firstCommit = false ∧ State.reset.time.raw = 0 ∧ State.reset.time.tick = 0 ∧ State.reset.dies = [] ∧
  State.reset.frames = [] ∧ State.reset.heads = [] ∧ State.reset.msgs = [] ∧ State.reset.convs = [] ∧
  State.reset.handles = [] ∧ State.reset.ctxs = [] ∧ State.reset.mgmt.evq = [] ∧ State.reset.mgmt.mbox = [] ∧
  State.reset.power.inReset = true ∧ State.reset.mgmt.inService = false ∧ State.reset.pending = []

/-- Once the PCIe link is up (R378), a full 32-bit write to a register that has no action of its own (a capture pin's control
waits behind the commit and the management commands due at its boundary, R22) completes; no other register changes and nothing
but the register tables changes. Each RW bit takes the written value, each W1C bit written as 1 clears and keeps its value
when written as 0, each RWS bit sets the shadow value, each RWL bit does so until the first successful commit and is ignored
after it, and every bit of no such field keeps its value; committed values never change (R6, Table 0-2). -/
def Obligations.RegisterWriteFollowsAccessTypes : Prop :=
  ∀ (off : Nat) (val : BitVec 64) (s : State), plainOff off = true → s.pcieUp = true →
    (s.mgmt.commit.due = true ∨ s.mgmt.acts ≠ [] → idxOf off (Reg.TIME_CAP_w0 0) 0x20 6 = none) →
    ∃ rw sh, exec (.registerWrite off 4 val) s = .next { s with regs := { s.regs with rw := rw, shadow := sh } } ∧
      (∀ o, o ≠ off → Tbl.getD rw o (regReset o) = s.rwW o ∧ cfgOf sh o = cfgOf s.regs.shadow o) ∧
      ∀ i, i < 32 →
        ((regMask off .w1c).getLsbD i = true → (regMask off .rw).getLsbD i = false →
          (Tbl.getD rw off (regReset off)).getLsbD i = ((s.rwW off).getLsbD i && !val.getLsbD i)) ∧
        ((regMask off .rw).getLsbD i = true → (regMask off .w1c).getLsbD i = false →
          (Tbl.getD rw off (regReset off)).getLsbD i = val.getLsbD i) ∧
        ((regMask off .rw).getLsbD i = false → (regMask off .w1c).getLsbD i = false →
          (Tbl.getD rw off (regReset off)).getLsbD i = (s.rwW off).getLsbD i) ∧
        ((regMask off .rws).getLsbD i = true → (cfgOf sh off).getLsbD i = val.getLsbD i) ∧
        ((regMask off .rwl).getLsbD i = true → (regMask off .rws).getLsbD i = false →
          (cfgOf sh off).getLsbD i = (if s.regs.firstCommit then (cfgOf s.regs.shadow off).getLsbD i else val.getLsbD i)) ∧
        ((regMask off .rws).getLsbD i = false → (regMask off .rwl).getLsbD i = false →
          (cfgOf sh off).getLsbD i = (cfgOf s.regs.shadow off).getLsbD i)

/-- In a register that does not read a latched half, every bit that no field covers reads as zero; and a full write to a register
with no action of its own does the same whatever is written to its reserved bits (R5); a capture pin's control, which may wait
with its value, is left to the statement before. -/
def Obligations.ReservedBitsReadZeroAndIgnoreWrites : Prop :=
  (∀ (off : Nat) (s : State) (i : Nat), isLatched off = false → isInc off = false → (fieldBits off).getLsbD i = false →
    (s.regPeek off).getLsbD i = false) ∧
  (∀ (off : Nat) (val : BitVec 64) (s : State), plainOff off = true → idxOf off (Reg.TIME_CAP_w0 0) 0x20 6 = none →
    exec (.registerWrite off 4 val) s = exec (.registerWrite off 4 (val &&& (fieldBits off).setWidth 64)) s)

/-- Once the PCIe link is up (R378), a full read of a register that latches others answers its own current value and keeps the
current value of each register it latches; a read of such a register right after it answers the kept value, and neither read
changes anything but the latches and what leaves the device (R4). -/
def Obligations.LowHalfReadLatchesTheHighHalf : Prop :=
  ∀ (off h : Nat) (s : State), off % 4 = 0 → h ∈ latchesOf off → isLatched off = false → s.pcieUp = true →
    ∃ l, exec (.reg64LoRead ⟨off, 4⟩) s =
        .next { s with regs := { s.regs with latch := l }, out := s.out ++ [.read off (s.regNow off)] } ∧
      Tbl.getD l h 0 = s.regNow h ∧
      ∀ t, exec (.reg64LoRead ⟨off, 4⟩) s = .next t →
        ∃ l', exec (.reg64LoRead ⟨h, 4⟩) t =
          .next { t with regs := { t.regs with latch := l' }, out := t.out ++ [.read h (s.regNow h)] }

/-- Over a PCIe link that is up (R378), a _LO write of JRNL_EXP or GCTL_MBOX is held and changes no register; a _HI write of
JRNL_EXP applies the held half with it when the whole value is at or above the pair in force and at or below HEAD, and
otherwise drops the held half without applying it; a MASTER_ID pair of a time-exchange port applies at its _HI write as one
value (R4). -/
def Obligations.SixtyFourBitPairsApplyAtTheHighHalf : Prop :=
  (∀ (val : Word) (s : State), s.pcieUp = true → exec (.reg64LoWrite Reg.JRNL_EXP_LO val) s = .next (s.holdLo Reg.JRNL_EXP_LO val) ∧
    exec (.reg64LoWrite Reg.GCTL_MBOX_LO val) s = .next (s.holdLo Reg.GCTL_MBOX_LO val) ∧
    (∀ off, (s.holdLo Reg.JRNL_EXP_LO val).rwW off = s.rwW off)) ∧
  (∀ (hi : Word) (s : State), s.pcieUp = true →
    let lo := Tbl.getD s.regs.loHeld Reg.JRNL_EXP_LO (s.rwW Reg.JRNL_EXP_LO)
    let v := hi.toNat * 2 ^ 32 + lo.toNat
    let s1 := { s with regs.loHeld := Tbl.del s.regs.loHeld Reg.JRNL_EXP_LO }
    (s.jrnlExp ≤ v → v ≤ s.mgmt.jr.next →
      exec (.jrnlExport hi) s = .next ((s1.setRw Reg.JRNL_EXP_LO lo).setRw Reg.JRNL_EXP_HI hi).settleJrnl ∧
      exec (.reg64HiWrite Reg.JRNL_EXP_HI hi) s = exec (.jrnlExport hi) s) ∧
    (v < s.jrnlExp ∨ s.mgmt.jr.next < v → exec (.jrnlExport hi) s = .next s1)) ∧
  (∀ (e : Nat) (hi : Word) (s : State), s.pcieUp = true → e < 48 →
    ∃ t, exec (.reg64HiWrite (Reg.TIME_PTP_w4 e) hi) s = .next t ∧ t.rwW (Reg.TIME_PTP_w4 e) = hi ∧
      t.rwW (Reg.TIME_PTP_w3 e) = Tbl.getD s.regs.loHeld (Reg.TIME_PTP_w3 e) (s.rwW (Reg.TIME_PTP_w3 e)))

/-- A write that addresses fewer than the four bytes of a register leaves the whole state as it is, from the host and from the
board controller; once the PCIe link is up, a write of eight bytes writes its two registers in ascending order, and a read of
fewer than four bytes within one register sends the addressed bytes and zero in the others, and changes nothing else: no read
action and no latch (R4). Before the link is up (R375, R378) accesses over PCIe do nothing. A read of SEQ_INFO0, CONV_INFO0,
RPR_MAPENT_LO and TIME_NOW_SEC_LO completes: it sends the low word of the selected sequence context's position, of the
selected conversation's base, of the selected map entry, of the seconds of device time, and keeps the next word of each (for
TIME_NOW the nanoseconds) as it is then for the read of that word (R212, R258, R372, R309). A board controller's full read
does what the host's does, and its full write what the host's does with origin IN_BAND (R388). -/
def Obligations.NarrowWritesAreDiscardedAndSelectedEntriesRead : Prop :=
  (∀ (off size : Nat) (val : BitVec 64) (s : State), off % 4 + size ≤ 4 → size ≠ 4 → off < 0x4000000 →
    exec (.registerWrite off size val) s = .next s) ∧
  (∀ (off : Nat) (val : Word) (s : State), off % 4 ≠ 0 → exec (.reg64LoWrite off val) s = .next s ∧
    exec (.reg64HiWrite off val) s = .next s ∧ exec (.smbusRequest (.writeReg off val)) s = .next s) ∧
  (∀ (s : State) (a : BarRead) (off size : Nat) (val : BitVec 64), s.pcieUp = false →
    exec (.reg64LoRead a) s = .next s ∧ exec (.registerWrite off size val) s = .next s) ∧
  (∀ s : State, s.pcieUp = true →
    (∀ d x, d < 4 → Tbl.find s.ctxs (d * 4096 + s.rw (Reg.SEQ_SEL d) 11 0) = some x →
      ∃ t, exec (.seqInfoRead d) s = .next t ∧ t.out = s.out ++ [.read (Reg.SEQ_INFO0 d) (BitVec.ofNat 32 x.p)] ∧
        Tbl.getD t.regs.latch (Reg.SEQ_INFO1 d) 0 = BitVec.ofNat 32 x.rb) ∧
    (∃ t, exec .convInfoRead s = .next t ∧
      t.out = s.out ++ [.read Reg.CONV_INFO0 (BitVec.ofNat 32 (s.conv (s.rw Reg.CONV_SEL 16 0)).base)] ∧
      Tbl.getD t.regs.latch Reg.CONV_INFO1 0 = s.regNow Reg.CONV_INFO1) ∧
    (∀ e, s.units.map[s.rw Reg.RPR_MAPSEL 11 0]? = some e →
      ∃ t, exec .mapentRead s = .next t ∧ t.out = s.out ++ [.read Reg.RPR_MAPENT_LO (BitVec.ofNat 32 (leAt e.bytes 0 4))] ∧
        Tbl.getD t.regs.latch Reg.RPR_MAPENT_HI 0 = BitVec.ofNat 32 (leAt e.bytes 4 4)) ∧
    (∃ t, exec .timeNowRead s = .next t ∧ t.out = s.out ++ [.read Reg.TIME_NOW_SEC_LO (BitVec.ofNat 32 (secOf s.now))] ∧
      Tbl.getD t.regs.latch Reg.TIME_NOW_NS 0 = BitVec.ofNat 32 (nsOf s.now)) ∧
    (∀ off size, 0 < size → size < 4 → off % 4 + size ≤ 4 → off < 0x3000000 → ¬(0x80000 ≤ off ∧ off < 0x88000) →
      s.sweepAt (off / 4 * 4) = false →
      ∃ v : Word, exec (.reg64LoRead ⟨off, size⟩) s = .next { s with out := s.out ++ [.read (off / 4 * 4) v] } ∧
        ∀ i, i < 32 → v.getLsbD i =
          (decide (off % 4 ≤ i / 8 ∧ i / 8 < off % 4 + size) && (s.regPeek (off / 4 * 4)).getLsbD i)) ∧
    (∀ off, exec (.reg64LoRead ⟨off, 4⟩) s = .next (s.readReg off 4) ∧
      exec (.smbusRequest (.readReg off)) s = .next (s.readReg off 4)) ∧
    (∀ off (val : Word), off % 4 = 0 → off < 0x4000000 →
      exec (.registerWrite off 4 (val.setWidth 64)) s = .next (s.writeReg off val 1) ∧
      exec (.smbusRequest (.writeReg off val)) s = .next (s.writeReg off val 2)) ∧
    (∀ off (val : BitVec 64), off % 4 = 0 → off + 8 ≤ 0x4000000 →
      exec (.registerWrite off 8 val) s =
        .next ((s.writeReg off (val.setWidth 32) 1).writeReg (off + 4) ((val >>> 32).setWidth 32) 1)))

/-- A write of GO while COMMITSTAT.BUSY reads 0 freezes the shadow set and makes the commit busy, and while it reads 1 (a commit
in progress, or a FELL of KIND COMMIT still to be validated, R305) posts COMMIT_REJECTED with reason BUSY and starts nothing.
Validation of the frozen set makes it valid, or rejects it with the first failing check of Table 16-4 and its register:
nothing applies, the reason and offset are kept, and COMMIT_REJECTED is posted. At the boundary where a validated set is due
it is applied as a whole with every armed ACTIVATE and UNLOAD (State.applySet), the commit ends, COMMIT_DONE is posted, the
management commands that wait for the boundary take effect after it, and then the hold of a supply dip begins that is due
there (R22, R386, R394). -/
def Obligations.CommitIsStagedAndAtomic : Prop :=
  (∀ s : State, s.commitBusy = false →
    exec .commitGo s = .next { s with mgmt.commit := { s.mgmt.commit with busy := true, valid := false, origin := 1 }
                                      regs.frozen := some s.regs.shadow }) ∧
  (∀ s : State, s.commitBusy = true → exec .commitGo s = .next (s.post 0 1 [(0xE, 8), (0, 32)])) ∧
  (∀ (s : State) (c : Tbl Word), s.regs.frozen = some c → s.mgmt.commit.busy = true → s.mgmt.commit.valid = false →
    s.moving = false →
    ((s.validateSet c s.mgmt.commit.origin false).1 = 0 →
      exec .commitValidated s = .next { s with mgmt.commit := { s.mgmt.commit with valid := true } }) ∧
    (∀ r off, s.validateSet c s.mgmt.commit.origin false = (r, off) → r ≠ 0 →
      exec .commitValidated s = .next ((s.reject r off).post 0 1 [(r, 8), (off, 32)]) ∧
      (s.reject r off).regs.cfg = s.regs.cfg ∧ (s.reject r off).mgmt.commit.busy = false ∧
      (s.reject r off).mgmt.commit.reason = r ∧ (s.reject r off).mgmt.commit.offset = off ∧
      (s.reject r off).regs.frozen = none)) ∧
  (∀ (s : State) (c : Tbl Word), s.regs.frozen = some c → s.mgmt.commit.valid = true →
    s.mgmt.commit.due = true →
    exec .commitApply s = .next ((State.applySet { s with
      regs.frozen := none
      mgmt.commit := { s.mgmt.commit with busy := false, valid := false, due := false, reason := 0, offset := 0 } }
        c s.mgmt.commit.origin true).post 0 0 []).mgmtDue.holdDue)

/-- A set that fails FIELD is rejected with code 1 whatever else it fails; one that passes FIELD and fails PORT with code 2; one
that passes both and fails PARSER with code 3; each with the lowest register at fault, which is one of the failing registers
and not above any other (R386). -/
def Obligations.ChecksFailInTableOrder : Prop :=
  ∀ (s : State) (c : Tbl Word) (o : Nat) (fell : Bool),
    (fieldFails c ≠ [] → s.validateSet c o fell = (1, lowest (fieldFails c))) ∧
    (fieldFails c = [] → portFails c ≠ [] → s.validateSet c o fell = (2, lowest (portFails c))) ∧
    (fieldFails c = [] → portFails c = [] → parserFails c ≠ [] → s.validateSet c o fell = (3, lowest (parserFails c))) ∧
    ((∃ x, x ∈ fieldFails c ∧ x ≠ 0) → lowest (fieldFails c) ∈ fieldFails c ∧
      ∀ x, x ∈ fieldFails c → x ≠ 0 → lowest (fieldFails c) ≤ x)

/-- LI, ADD, SUB, AND, OR, SHR, SHL and BFX of a head that is at such an instruction complete: register D takes the value of Table
3-2 modulo 2^32 (h0 keeps reading zero), the next instruction follows, and nothing else of the head or of the block changes
(R64, R68). -/
def Obligations.ParserArithmeticWritesOneRegister : Prop :=
  ∀ (s : State) (n : Nat) (hd : Head) (fr : Frame),
    let i := hd.instr
    let a := hd.reg (aOf i)
    let b := if bitsOf i 17 17 = 1 then bitsOf i 15 0 else hd.reg (bitsOf i 15 12)
    (s.headAt n 0x02 hd fr → s.headBecomes (.prsLi n) n (fun x => hd.wrote x (dOf i) (bitsOf i 17 0 % 2 ^ 32))) ∧
    (s.headAt n 0x03 hd fr → s.headBecomes (.prsAdd n) n (fun x => hd.wrote x (dOf i) ((a + b) % 2 ^ 32))) ∧
    (s.headAt n 0x04 hd fr → s.headBecomes (.prsSub n) n (fun x => hd.wrote x (dOf i) ((a + 2 ^ 32 - b) % 2 ^ 32))) ∧
    (s.headAt n 0x05 hd fr → s.headBecomes (.prsAnd n) n (fun x => hd.wrote x (dOf i) ((a &&& b) % 2 ^ 32))) ∧
    (s.headAt n 0x06 hd fr → s.headBecomes (.prsOr n) n (fun x => hd.wrote x (dOf i) ((a ||| b) % 2 ^ 32))) ∧
    (s.headAt n 0x07 hd fr → s.headBecomes (.prsShr n) n (fun x => hd.wrote x (dOf i) (a / 2 ^ bitsOf i 4 0 % 2 ^ 32))) ∧
    (s.headAt n 0x08 hd fr → s.headBecomes (.prsShl n) n (fun x => hd.wrote x (dOf i) (a * 2 ^ bitsOf i 4 0 % 2 ^ 32))) ∧
    (s.headAt n 0x09 hd fr → s.headBecomes (.prsBfx n) n
      (fun x => hd.wrote x (dOf i) (a / 2 ^ bitsOf i 9 5 % 2 ^ (bitsOf i 4 0 + 1) % 2 ^ 32)))

/-- NOP goes on; J goes DISP instructions on; JC does so when its condition holds over unsigned values (EQ, NE, LTU, GEU, R69) and
otherwise goes on; META writes the low bytes of hA, most significant first, to the metadata and SETF the low bits of hA to the
descriptor field it names; nothing else of the head or of the block changes (Table 3-2, Table 3-4). -/
def Obligations.ParserJumpsAndDescriptorWrites : Prop :=
  ∀ (s : State) (n : Nat) (hd : Head) (fr : Frame),
    let i := hd.instr
    let a := hd.reg (aOf i)
    let b := if bitsOf i 17 17 = 1 then bitsOf i 14 6 else hd.reg (bitsOf i 14 11)
    let go := fun (c : Instr) (x : Head) => exec c s = .next { s with heads := Tbl.put s.heads n x }
    let jump := { hd with pc := hd.pc + bitsOf i 5 0 }
    let on := { hd with pc := hd.pc + 1 }
    (s.headAt n 0x00 hd fr → go (.prsNop n) on) ∧
    (s.headAt n 0x10 hd fr → go (.prsJ n) jump) ∧
    (s.headAt n 0x11 hd fr →
      (bitsOf i 16 15 = 0 → go (.prsJc n) (if a = b then jump else on)) ∧
      (bitsOf i 16 15 = 1 → go (.prsJc n) (if a ≠ b then jump else on)) ∧
      (bitsOf i 16 15 = 2 → go (.prsJc n) (if a < b then jump else on)) ∧
      (bitsOf i 16 15 = 3 → go (.prsJc n) (if b ≤ a then jump else on))) ∧
    (s.headAt n 0x1A hd fr → go (.metaWrite n)
      { on with metadata := overwrite hd.metadata (bitsOf i 3 0) (beBytes (widthOf (bitsOf i 17 16)) a) }) ∧
    (s.headAt n 0x20 hd fr → go (.setf n) { on with desc := hd.desc.setField (bitsOf i 4 0) a })

/-- LD of bytes that the bucker has (Frame.avail: handed over and, without speculative release, decoded, R33) writes them big-
endian and zero-extended to register D. A read at or beyond offset 1,024 fails the head with MALFORMED and counts
PRS_CNT_PROG; one beyond the end of a frame handed over whole fails it with MALFORMED and counts PRS_CNT_SHORT; any other read
parks the head on the last byte it needs and changes nothing else (R66). CHDR over 32 such bytes with a good header fills the
descriptor, h12 and h11, and with a bad one fails the head with MALFORMED (R74). -/
def Obligations.ParserWindowReads : Prop :=
  ∀ (s : State) (n : Nat) (hd : Head) (fr : Frame),
    let i := hd.instr
    let at0 := hd.reg (bitsOf i 15 12) + bitsOf i 11 0
    let w := widthOf (bitsOf i 17 16)
    let end0 := at0 + w
    (s.headAt n 0x01 hd fr →
      (end0 ≤ 1024 → end0 ≤ fr.avail →
        s.headBecomes (.prsLd n) n (fun x => hd.wrote x (dOf i) (beVal (slice fr.bytes at0 w) % 2 ^ 32))) ∧
      (1024 < end0 → exec (.prsLd n) s = .next (s.failHead n hd fr stMalformed Reg.PRS_CNT_PROG)) ∧
      (end0 ≤ 1024 → fr.avail < end0 → fr.whole = true →
        exec (.prsLd n) s = .next (s.failHead n hd fr stMalformed Reg.PRS_CNT_SHORT)) ∧
      (end0 ≤ 1024 → fr.avail < end0 → fr.whole = false →
        exec (.prsLd n) s = .next { s with heads := Tbl.put s.heads n { hd with park := some (end0 - 1) } })) ∧
    (s.headAt n 0x21 hd fr → at0 + 32 ≤ 1024 → at0 + 32 ≤ fr.avail →
      let h := slice fr.bytes at0 32
      let d := cheteDesc h at0
      (cheteOk h = true → s.headBecomes (.chdr n) n (fun x =>
        x.pc = hd.pc + 1 ∧ x.desc = d ∧ x.reg 12 = d.doff.getD 0 % 2 ^ 32 ∧ x.reg 11 = d.dlen.getD 0 % 2 ^ 32 ∧
        (∀ k, k ≠ 11 → k ≠ 12 → x.reg k = hd.reg k) ∧ x.sample = hd.sample ∧ x.metadata = hd.metadata)) ∧
      (cheteOk h = false → exec (.chdr n) s = .next (s.failHead n hd fr stMalformed Reg.PRS_CNT_FAIL)))

/-- KEYN over window bytes that the bucker has writes the key of each packed field to the slots hA upward, and KEYR the key of the
low bytes of hB to slot hA; every other slot keeps its key and hA advances by the number of keys. A slot of 1,024 or higher
fails the head with MALFORMED and counts PRS_CNT_PROG (R69, R70, R72). -/
def Obligations.ParserKeysFillSlots : Prop :=
  ∀ (s : State) (n : Nat) (hd : Head) (fr : Frame),
    let i := hd.instr
    let fmt := bitsOf i 17 14
    let w := keyWidth fmt
    let slot := hd.reg (aOf i)
    (s.headAt n 0x18 hd fr →
      let m := dOf i + 1
      let at0 := hd.reg (bitsOf i 13 10) + bitsOf i 9 0
      at0 + m * w ≤ 1024 → at0 + m * w ≤ fr.avail →
      (slot + m ≤ 1024 → s.headBecomes (.keyn n) n (fun x =>
        x.pc = hd.pc + 1 ∧ (aOf i ≠ 0 → x.reg (aOf i) = (slot + m) % 2 ^ 32) ∧
        (∀ j, j < m → Tbl.getD x.sample (slot + j) 0 =
          (keyOf fmt (keyVal fmt ((slice fr.bytes at0 (m * w)).drop (j * w) |>.take w))).1) ∧
        (∀ k, k < slot ∨ slot + m ≤ k → Tbl.getD x.sample k 0 = Tbl.getD hd.sample k 0))) ∧
      (1024 < slot + m → exec (.keyn n) s = .next (s.failHead n hd fr stMalformed Reg.PRS_CNT_PROG))) ∧
    (s.headAt n 0x19 hd fr →
      let v := hd.reg (bitsOf i 13 10) % 2 ^ (8 * w)
      (slot + 1 ≤ 1024 → s.headBecomes (.keyr n) n (fun x =>
        x.pc = hd.pc + 1 ∧ (aOf i ≠ 0 → x.reg (aOf i) = (slot + 1) % 2 ^ 32) ∧
        Tbl.getD x.sample slot 0 = (keyOf fmt (keyVal fmt ((if 10 ≤ fmt then leBytes w v else beBytes w v).take w))).1 ∧
        (∀ k, k ≠ slot → Tbl.getD x.sample k 0 = Tbl.getD hd.sample k 0))) ∧
      (1024 < slot + 1 → exec (.keyr n) s = .next (s.failHead n hd fr stMalformed Reg.PRS_CNT_PROG)))

/-- FAIL ends its head, marks its frame as one on which an answer stands (R43), counts PRS_CNT_FAIL and, where the answer has a
destination with a template, adds one answer with the status it names, no result block and the head's origin, and otherwise
sends nothing; DROP ends its head and its frame, counts PRS_CNT_DROP and sends nothing (R67). Nothing else of the block
changes in either. That is of a frame that is not run again; of one that is, the message of its first run fails besides (R36).
A FAIL with EXACT_UNAVAILABLE makes the same answer, which is counted as such (State.answer). -/
def Obligations.HeadsEndWithAnAnswerOrNone : Prop :=
  ∀ (s : State) (n : Nat) (hd : Head) (fr : Frame),
    let bound := Tbl.modify s.frames hd.frame (fun f => { f with bound := true })
    let cnt := fun (off : Nat) => { s.regs with rw := Tbl.put s.regs.rw off (satInc (s.rwW off)) }
    (s.headAt n 0x31 hd fr →
      let st := bitsOf hd.instr 7 0
      (s.rerunMsg hd.frame = none → st ≠ stExactUnavailable →
        (∀ d, answerDest (hd.origin fr) = .ok d → hasTmpl (hd.origin fr) d = true →
          ∃ r, exec (.fail n) s = .next { s with heads := Tbl.del s.heads n, frames := bound, regs := cnt Reg.PRS_CNT_FAIL
                                                 replies := Tbl.put s.replies (freshKey s.replies) r } ∧
            r.status = st ∧ r.res = [] ∧ r.kind = 1 ∧ r.dest = some d ∧ r.frames = [hd.frame] ∧ r.org = hd.origin fr) ∧
        (answerDest (hd.origin fr) = .silent ∨ (∃ d, answerDest (hd.origin fr) = .ok d ∧ hasTmpl (hd.origin fr) d = false) →
          exec (.fail n) s = .next { s with heads := Tbl.del s.heads n, frames := bound, regs := cnt Reg.PRS_CNT_FAIL })) ∧
      (s.rerunMsg hd.frame = none → st = stExactUnavailable →
        exec (.fail n) s = .next ((((s.endHead n).bindFrame hd.frame).count Reg.PRS_CNT_FAIL).answer (hd.origin fr) [hd.frame]
          st 0 0 true)) ∧
      (∀ k m, s.rerunMsg hd.frame = some (k, m) →
        exec (.fail n) s = .next ((((((s.endHead n).failMsg k 2).bindFrame hd.frame).count Reg.PRS_CNT_FAIL).answer (hd.origin fr)
          [hd.frame] st 0 0 true)))) ∧
    (s.headAt n 0x32 hd fr →
      (s.rerunMsg hd.frame = none →
        exec (.drop n) s = .next { s with heads := Tbl.del s.heads n, frames := Tbl.del s.frames hd.frame
                                          regs := cnt Reg.PRS_CNT_DROP }) ∧
      (∀ k m, s.rerunMsg hd.frame = some (k, m) →
        let s1 := ((s.endHead n).failMsg k 2).count Reg.PRS_CNT_DROP
        exec (.drop n) s = .next { s1 with frames := Tbl.del s1.frames hd.frame }))

/-- A frame that arrives on a host-side port with link up, out of Idle and quarantine and not taken before selection, completes as
the classification of it and then the pause that its arrival asserts (R48, R63). Classification holds a frame of at most 9,216
bytes that an entry matches, with the handler of the first matching valid entry, its ingress stamp and the speculative choice
of its quad, and changes only the frames and the heads parked on them; one that none matches, with the bytes of its key at
hand, changes nothing but PRS_CNT_NOMATCH. A head starts for a frame whose turn it is (State.mayStart: fewer than 768 contexts
in use and 12 starts in the tick, its key at hand, and no frame that came earlier ready, R58, R59): on the least free context,
at the first instruction of the handler that the selection in force chooses, with h13 to h15 as R64 says; a frame that no
entry matches any longer is discarded and counted (R78). More bytes handed over, with no DISPATCH waiting for some (R61),
raise the frame's count and release the heads parked on bytes the bucker then has (R66); a frame whose key comes with them and
that no entry matches is discarded and counted (R63). -/
def Obligations.FramesAndHeadsStart : Prop :=
  (∀ (s : State) (e sub : Nat) (b : List Byte) (handed : Nat) (ended spec : Bool) (cws : List Cw) (v : Option Bool),
    let st := s.ingressStamp e sub
    let l := epLport s.regs.cfg e
    b.length ≤ 9216 →
    (∀ h, selectHandler (s.cfgFor st) (selKey b l) = some h →
      ∃ t f, s.classify e b handed ended cws sub spec none v false = t ∧
        t.frames = Tbl.put s.frames (freshKey s.frames) f ∧ { t with frames := s.frames, heads := s.heads } = s ∧
        f.handler = h ∧ f.eport = e ∧ f.lport = l ∧ f.bytes = b ∧ f.stamp = st ∧ f.spec = spec ∧ f.started = false ∧
        f.handed = min handed b.length) ∧
    (selectHandler (s.cfgFor st) (selKey b l) = none →
      fld (cfgOf (s.cfgFor st) Reg.PRS_CTL) 31 31 = 0 ∨ (cws = [] ∧ selNeed b ≤ handed) →
      s.classify e b handed ended cws sub spec none v false = s.count Reg.PRS_CNT_NOMATCH)) ∧
  (∀ (s : State) (f : FrameIn), 0 < epLanes s.regs.cfg f.eport → s.linkUp f.eport = true →
    quadNbr s.regs.cfg (f.eport / 4) = false → (parseEth f.bytes).etype ≠ 0x8808 → takenBefore f.bytes = false →
    (s.ep f.eport).state ≠ 4 → s.twinServes = true → s.power.state ≠ 1 → f.bytes.length ≤ s.bufFree f.eport →
    exec (.frameReceive f) s = .next ((s.classify f.eport f.bytes f.handed f.ended
      (f.cws.map (fun c => { first := c.1, last := c.2 })) f.sub (s.specNow f.eport) none (udpStart f.bytes) false).pfcAssert
        f.eport (parseEth f.bytes).pcp)) ∧
  (∀ (s : State) (n : Nat) (f : Frame), Tbl.find s.frames n = some f → f.started = false → s.mayStart n f = true →
    let c := s.cfgFor f.stamp
    (∀ h, selectHandler c (selKey f.bytes f.lport) = some h →
      ∃ t hd, exec (.headStart n) s = .next t ∧ t.heads = Tbl.put s.heads (leastFree s.heads) hd ∧
        t.frames = Tbl.put s.frames n { f with started := true, handler := h } ∧ hd.frame = n ∧ hd.cfg = c ∧ hd.handler = h ∧
        hd.pc = fld (cfgOf c (Reg.PRS_HDL_w0 h)) 27 16 ∧ hd.reg 0 = 0 ∧ hd.reg 13 = f.lport ∧
        hd.reg 14 = h14Of f.bytes ∧ hd.reg 15 = h15Of f.bytes ∧ hd.sample = [] ∧ hd.desc = {} ∧ hd.park = none) ∧
    (selectHandler c (selKey f.bytes f.lport) = none →
      ∃ t, exec (.headStart n) s = .next t ∧ t.frames = Tbl.del s.frames n ∧ t.heads = s.heads ∧
        t.rwW Reg.PRS_CNT_NOMATCH = satInc (s.rwW Reg.PRS_CNT_NOMATCH))) ∧
  (∀ (s : State) (n handed : Nat) (ended : Bool) (f : Frame), Tbl.find s.frames n = some f →
    s.heads.all (fun h => !h.2.waits) = true →
    let g := { f with handed := max f.handed (min handed f.bytes.length), ended := f.ended || ended }
    let h := selectHandler (s.cfgFor f.stamp) (selKey f.bytes f.lport)
    (f.started = true ∨ f.keyed = true ∨ h ≠ none →
      ∃ t f', exec (.headResume n handed ended) s = .next t ∧ Tbl.find t.frames n = some f' ∧ { f' with gapAt := f.gapAt } = g ∧
        (∀ k hd, Tbl.find s.heads k = some hd → hd.frame = n → hd.park.getD 0 < f'.avail ∨ f'.whole = true →
          Tbl.find t.heads k = some { hd with park := none }) ∧
        (∀ k hd, Tbl.find s.heads k = some hd → hd.frame ≠ n → Tbl.find t.heads k = some hd)) ∧
    (f.started = false → f.keyed = false → g.keyed = true → h = none →
      ∃ t f', exec (.headResume n handed ended) s = .next t ∧ { f' with gapAt := f.gapAt } = g ∧
        t.frames = Tbl.del (Tbl.put s.frames n f') n ∧ t.rwW Reg.PRS_CNT_NOMATCH = satInc (s.rwW Reg.PRS_CNT_NOMATCH)))

/-- For a head at DISPATCH, of a first frame of a reduction that would go on to check 6 once its decision bytes are at hand (log
123), while the device is in service and the frame is not run again: the head ends; a descriptor without its lengths is
answered MALFORMED, then a selector that names no valid destination or template is answered MALFORMED, then a message longer
than MAX_LEN is answered TOO_LARGE with MAX_LEN as INFO, then a later frame joins its message, then a reduction frame is
answered MALFORMED and counted while BOOM_CTL.EN is clear, a handle that serves no version is answered UNKNOWN_MODEL, a
MODEL_VER other than the serving version STALE_VERSION with that version, and every other message goes to the checks of its
mode, window and slot. Out of service every dispatch is answered FAULT_RETRY (R75, R361). A frame that is run again and
dispatches with the fields of its first run keeps its message (R36). -/
def Obligations.DispatchChecksInOrder : Prop :=
  ∀ (s : State) (n : Nat) (hd : Head) (f : Frame), s.headAt n 0x30 hd f →
    let d := fillMlen hd.desc f.bytes
    let org := { hd.origin f with desc := d }
    let s0 := (s.endHead n).bindFrame hd.frame
    let boom := bitsOf hd.instr 17 15 == 1
    let fr := [hd.frame]
    (boom = true → s.mgmt.inService = true → check1 d boom = true → check2 org = true → d.mlen.getD 0 ≤ maxLen org →
      d.later = false → fld (cfgOf org.cfg Reg.BOOM_CTL) 31 31 = 1 → d.lastNeeded f.bytes.length ≤ f.avail) →
    (∀ k m, s0.rerunMsg hd.frame = some (k, m) → s.mgmt.inService = true → sameFields d m.org.desc = true →
      exec (.dispatch n) s = .next (s0.rerunKeep org hd k m).settle.gc) ∧
    (s0.rerunMsg hd.frame = none →
      (s.mgmt.inService = false →
        exec (.dispatch n) s = .next ((s0.count Reg.RPR_CNT_ITEMRETRY).answer org fr stFaultRetry 0 0 false).settle.gc) ∧
      (s.mgmt.inService = true →
        (check1 d boom = false → exec (.dispatch n) s = .next (s0.answer org fr stMalformed 0 0 false).settle.gc) ∧
        (check1 d boom = true →
          (check2 org = false → exec (.dispatch n) s = .next (s0.answer org fr stMalformed 0 0 false).settle.gc) ∧
          (check2 org = true →
            (maxLen org < d.mlen.getD 0 →
              exec (.dispatch n) s = .next (s0.answer org fr stTooLarge 0 (maxLen org) false).settle.gc) ∧
            (d.mlen.getD 0 ≤ maxLen org →
              (d.later = true → exec (.dispatch n) s = .next (s0.joinFrame org hd.frame f).settle.gc) ∧
              (d.later = false → boom = true →
                (fld (cfgOf org.cfg Reg.BOOM_CTL) 31 31 = 0 → exec (.dispatch n) s =
                  .next ((s0.count Reg.BOOM_CNT_REFUSE).answer org fr stMalformed 0 0 false).settle.gc) ∧
                (fld (cfgOf org.cfg Reg.BOOM_CTL) 31 31 ≠ 0 →
                  exec (.dispatch n) s = .next (s0.admitFirst org hd.frame f hd true none).settle.gc)) ∧
              (d.later = false → boom = false →
                (s0.servesHead hd f (d.model.getD 0) = none →
                  exec (.dispatch n) s = .next (s0.answer org fr stUnknownModel 0 0 false).settle.gc) ∧
                (∀ v, s0.servesHead hd f (d.model.getD 0) = some v →
                  (d.modelVer.isSome → d.modelVer ≠ some v.num →
                    exec (.dispatch n) s = .next (s0.answer org fr stStaleVersion 0 v.num false).settle.gc) ∧
                  (d.modelVer = none ∨ d.modelVer = some v.num →
                    exec (.dispatch n) s = .next (s0.admitFirst org hd.frame f hd false (some v)).settle.gc))))))))

/-- With D the distance of a sequence number above the base B modulo 2^32: a free entry opens for a number of 255 or less and
answers a higher one STALE_MESSAGE; a closed entry does so only for another incarnation; of a FREE entry that another owner
opened in this very tick that owner gives way when its frames came in on higher logical ports alone, and this message is
refused as OWNER otherwise, whatever its incarnation (R257); any other open or closing entry refuses another incarnation as
stale and another owner as OWNER; an open one lets D of 255 or less proceed, is busy with a number in progress and replays one
that is done; D of 256 to 511 slides the window to the number less 255 when nothing in progress would fall below it, and is
out of window otherwise; a higher D below 2^31 is out of window and the rest is stale (R244, Table 10-6). -/
def Obligations.WindowStepRows : Prop :=
  ∀ (s : State) (c inc q lport : Nat) (ow : Owner),
    let x := s.conv c
    let dl := seqDist q x.base
    let rival := x.state = 1 ∧ x.owner ≠ ow ∧ q ≤ 255 ∧ s.openedNow c = true
    (rival → s.fromAbove c lport = true → s.winStep c inc q lport ow = .takeover) ∧
    (rival → s.fromAbove c lport = false → s.winStep c inc q lport ow = .owner) ∧
    (x.state = 0 → q ≤ 255 → s.winStep c inc q lport ow = .proceed none true) ∧
    (x.state = 0 → 255 < q → s.winStep c inc q lport ow = .stale 0) ∧
    (x.state = 3 → x.inc ≠ inc → q ≤ 255 → s.winStep c inc q lport ow = .proceed none true) ∧
    (x.state = 3 → x.inc = inc → s.winStep c inc q lport ow = .stale x.base) ∧
    (x.state = 1 ∨ x.state = 2 → ¬rival → x.inc ≠ inc → s.winStep c inc q lport ow = .stale x.base) ∧
    (x.state = 1 ∨ x.state = 2 → ¬rival → x.inc = inc → x.owner ≠ ow → s.winStep c inc q lport ow = .owner) ∧
    (x.state = 2 → x.inc = inc → x.owner = ow → seqDist x.final x.base < dl → dl < 2 ^ 31 →
      s.winStep c inc q lport ow = .stale x.base) ∧
    (x.state = 1 → x.inc = inc → x.owner = ow →
      (dl ≤ 255 → s.inProgress c q = true → s.winStep c inc q lport ow = .busy) ∧
      (dl ≤ 255 → s.inProgress c q = false → q ∈ x.done → s.winStep c inc q lport ow = .replay) ∧
      (dl ≤ 255 → s.inProgress c q = false → q ∉ x.done → s.winStep c inc q lport ow = .proceed none false) ∧
      (256 ≤ dl → dl ≤ 511 →
        (∀ p, s.inProgress c p = true → dl - 255 ≤ seqDist p x.base ∧ seqDist p x.base < 2 ^ 31) →
        s.winStep c inc q lport ow = .proceed (some ((q + 2 ^ 32 - 255) % 2 ^ 32)) false) ∧
      (∀ p, 256 ≤ dl → dl ≤ 511 → s.inProgress c p = true → seqDist p x.base < dl - 255 →
        s.winStep c inc q lport ow = .oow x.base) ∧
      (512 ≤ dl → dl < 2 ^ 31 → s.winStep c inc q lport ow = .oow x.base) ∧
      (2 ^ 31 ≤ dl → s.winStep c inc q lport ow = .stale x.base))

/-- A message with ACKV clear, or whose A lies outside 1 to 256 above the base, moves nothing. Otherwise the base moves to A, or
to the lowest sequence number at or above it that is in progress when there is one below A; the DONE bits and cached replies
below the new base are released and all others stay, and nothing else changes. The cache table is taken to be in its canonical
form. -/
def Obligations.AcknowledgementMovesTheBase : Prop :=
  ∀ (s : State) (c : Nat) (d : Desc), Tbl.ok s.cache = true →
    let x := s.conv c
    let a := (d.sq + 2 ^ 32 - d.ackd) % 2 ^ 32
    let n := seqDist a x.base
    let t := s.effAck c d
    let b := (t.conv c).base
    (d.ackv = false ∨ n = 0 ∨ 256 < n → t = s) ∧
    (d.ackv = true → 0 < n → n ≤ 256 →
      seqDist b x.base ≤ n ∧ (∀ q, s.inProgress c q = true → seqDist b x.base ≤ seqDist q x.base) ∧
      (b = a ∨ ∃ q, s.inProgress c q = true ∧ b = q % 2 ^ 32) ∧
      (∀ q, q ∈ (t.conv c).done ↔ q ∈ x.done ∧ seqDist q b < 256) ∧
      (∀ q, Tbl.find (t.cacheOf c) q = if seqDist q b < 256 then Tbl.find (s.cacheOf c) q else none) ∧
      { t with convs := s.convs, cache := s.cache } = s ∧
      { t.conv c with base := x.base, done := x.done } = x)

/-- A syndrome result not yet known is recorded for every frame of which its codeword carries bytes, and a non-zero one counts
once in its quad's window, also of a codeword that carries no bytes of a held frame; a correction result of a codeword with a
non-zero syndrome is recorded for every such frame, corrected bytes replace those received, and it counts once on its quad;
every other frame stays as it was until the verdicts act; the FCS verdict of a frame that has ended with every codeword
decoded is that of its bytes, and its UDP verdict comes with it; a frame in reception that is truncated ends with the bytes
the bucker has, is marked truncated and counted. After each every verdict acts (State.settle), and after a codeword's the
heads whose DISPATCH waits for bytes go on (State.lateDispatch; R35, R37, R45, R61). The frames of the codeword are started
ones, or have their selection key, or match an entry (another is discarded, R63). A frame that is to run again, and whose turn
it is, starts a head on the least free context with the bytes it now has, no longer speculative (R36). -/
def Obligations.VerdictsArriveAndSettle : Prop :=
  (∀ (s : State) (q : Nat) (on : List (Nat × Nat)) (z : Bool), (on.map Prod.fst).Nodup →
    (∀ x ∈ on, ∃ f c, s.cwOf x.1 x.2 = some (f, c) ∧ c.zero = none ∧
      (f.started = true ∨ f.keyed = true ∨ selectHandler (s.cfgFor f.stamp) (selKey f.bytes f.lport) ≠ none)) →
    ∃ s1 : State, exec (.fecSyndromeResult q on z) s =
        .next (State.settle (if z then s1 else s1.setQuad q { s.quad q with nonzero := (s.quad q).nonzero + 1 })).lateDispatch ∧
      { s1 with frames := s.frames, heads := s.heads, msgs := s.msgs } = s ∧
      (∀ n cw f c, (n, cw) ∈ on → s.cwOf n cw = some (f, c) → ∃ g, Tbl.find s1.frames n = some g ∧
        { g with gapAt := f.gapAt } = { f with cws := setNth f.cws cw { c with zero := some z } }) ∧
      (∀ n, (∀ cw, (n, cw) ∉ on) → Tbl.find s1.frames n = Tbl.find s.frames n)) ∧
  (∀ (s : State) (q : Nat) (on : List (Nat × Nat × List (Nat × Byte))) (ok : Bool), (on.map Prod.fst).Nodup →
    (∀ x ∈ on, ∃ f c, s.cwOf x.1 x.2.1 = some (f, c) ∧ c.zero = some false ∧ c.fixed = none ∧ (f.started = true ∨ f.keyed = true ∨
      selectHandler (s.cfgFor f.stamp) (selKey (if ok then patchBytes f.bytes x.2.2 else f.bytes) f.lport) ≠ none)) →
    ∃ s1 : State, exec (.fecCorrectionResult q on ok) s = .next (State.settle (if ok then s1.count (Reg.PORT_CNT_FECCOR q)
        else (s1.count (Reg.PORT_CNT_FECUNC q)).setQuad q { s.quad q with uncorr := true })).lateDispatch ∧
      { s1 with frames := s.frames, heads := s.heads, msgs := s.msgs } = s ∧
      (∀ n cw l f c, (n, cw, l) ∈ on → s.cwOf n cw = some (f, c) → ∃ g, Tbl.find s1.frames n = some g ∧
        { g with gapAt := f.gapAt } =
          { f with cws := setNth f.cws cw { c with zero := some (ok && !f.consumed c), fixed := some ok }
                   bytes := if ok then patchBytes f.bytes l else f.bytes }) ∧
      (∀ n, (∀ cw l, (n, cw, l) ∉ on) → Tbl.find s1.frames n = Tbl.find s.frames n)) ∧
  (∀ (s : State) (n : Nat) (f : Frame), Tbl.find s.frames n = some f →
    let f1 := { f with fcs := some (fcsGood f.bytes), udp := some (!udpHasSum f.bytes || udpSumGood f.bytes) }
    let f2 := { f with trunc := true, ended := true, bytes := f.bytes.take f.avail, handed := min f.avail f.bytes.length
                       cws := f.cws.filter (fun c => decide (c.first < f.avail)) }
    let f3 := { f with rerun := false, spec := false, started := false }
    (f.ended = true → f.fcs = none → f.trunc = false → f.cws.all Cw.resolved = true →
      exec (.fcsVerdict n) s = .next (State.settle { s with frames := Tbl.put s.frames n f1 })) ∧
    (f.ended = false → exec (.frameTruncated n) s = .next ((s.setFrame n f2).count Reg.RPLY_CNT_TRUNC).settle) ∧
    (f.rerun = true → s.mayStart n f3 = true → ∀ h, selectHandler (s.cfgFor f.stamp) (selKey f.bytes f.lport) = some h →
      ∃ t hd, exec (.messageRerun n) s = .next t ∧ t.heads = Tbl.put s.heads (leastFree s.heads) hd ∧
        t.frames = Tbl.put s.frames n { f3 with started := true, handler := h } ∧ hd.frame = n ∧ hd.handler = h ∧
        hd.pc = fld (cfgOf (s.cfgFor f.stamp) (Reg.PRS_HDL_w0 h)) 27 16 ∧ hd.desc = {} ∧ hd.park = none))

/-- A quad whose window has met an event of R35 and is not suppressed becomes suppressed and posts it. At the end of the window, a
tick count that is a multiple of 250,000, the counts start again, and suppression holds exactly when an event happened in the
window; a change posts its event (R35). -/
def Obligations.SpeculationIsSuppressed : Prop :=
  ∀ (s : State) (q : Nat),
    let fresh := fun (on : Bool) => s.setQuad q { nonzero := 0, uncorr := false, supp := on }
    (s.specEvent q = true → (s.quad q).supp = false →
      exec (.specSuppress q) s = .next ((s.setQuad q { s.quad q with supp := true }).post 6 0 [(q, 8), (1, 8)])) ∧
    (s.time.tick % 250000 = 0 → s.specEvent q = (s.quad q).supp → exec (.specWindowEnd q) s = .next (fresh (s.specEvent q))) ∧
    (s.time.tick % 250000 = 0 → s.specEvent q = true → (s.quad q).supp = false →
      exec (.specWindowEnd q) s = .next ((fresh true).post 6 0 [(q, 8), (1, 8)])) ∧
    (s.time.tick % 250000 = 0 → s.specEvent q = false → (s.quad q).supp = true →
      exec (.specWindowEnd q) s = .next ((fresh false).post 6 0 [(q, 8), (0, 8)]))

/-- A decided reply is built once, with the window base and the order of that moment, and without a digest its twin record goes
out; its digest, when it carries one, is that of R319 over the kind of its message, and frees its pair's blocks; before the
reply is built only the digest is kept. A ready reply that this package may send and whose port takes it now
(State.egressOpen, R32) enters transmission as State.startTx says, and a replayed copy does by its own command (R39, R49,
R250, R320). A reply with a fixed release, of a port that this package sends on, enters transmission in the tick of its target
when it has been complete for 4 ns then, its port carries it and is free, and no other target has the port; from then on it is
otherwise marked late and waits its turn (R322 to R324). -/
def Obligations.RepliesAreBuiltAndSent : Prop :=
  ∀ (s : State) (n : Nat) (r : Reply), Tbl.find s.replies n = some r →
    let built := fun (s1 : State) => s1.setReply n (s.rendered { r with
      base := s.baseOf r.org.desc, stage := .ready, order := s.nextOrder
      egressAt := s.time.raw + s.cfg Reg.CONV_TMR1 31 16 * 1000000, doneAt := s.time.raw })
    (r.stage = .build → r.hasDig = false → exec (.replyBuild n) s = .next ((built s).twinSend n).settle) ∧
    (r.stage = .build → r.hasDig = true → exec (.replyBuild n) s = .next (State.settle (built
      (match r.slot with | some k => if r.digest.isNone then s.pairReady k else s | none => s)))) ∧
    (r.hasDig = true → r.digest = none →
      let s1 := match r.slot with | some k => s.pairDrop k | none => s
      let done := fun (kind : Nat) => { r with digest := some (digestOf r kind), order := s.nextOrder, doneAt := s.time.raw }
      let sent := fun (kind : Nat) => ((s1.setReply n (s1.rendered (done kind))).twinSend n).settle
      (r.slot = none → (r.stage = .ready → exec (.digestComplete n) s = .next (sent 0)) ∧
        (r.stage = .build → exec (.digestComplete n) s = .next (s.setReply n (done 0)))) ∧
      (∀ k m, r.slot = some k → Tbl.find s.msgs k = some m →
        (r.stage = .ready → exec (.digestComplete n) s = .next (sent m.kind)) ∧
        (r.stage = .build → exec (.digestComplete n) s = .next ((s.pairDrop k).setReply n (done m.kind))))) ∧
    (s.replyReady r = true → s.egressOpen n (s.txPort r) r = true → (∀ d, r.dest = some d → s.holdsPort d.lport = false) →
      (r.kind ≠ 3 → exec (.replyTransmitStart n) s = .next (s.startTx n r false)) ∧
      (r.kind = 3 → exec (.replaySend n) s = .next (s.startTx n r false))) ∧
    (∀ t, r.fixed = some t → r.released = false → r.stage = .ready → t ≤ 16 * (s.time.raw + 4) → s.heldHere r = false →
      let r1 := { r with released := true, order := s.nextOrder }
      let onTime := 16 * s.time.raw ≤ t ∧ 16 * (r.doneAt + 4) ≤ t ∧ s.replyReady r1 = true ∧ s.carries (s.txPort r1) r1 = true ∧
        s.portFree (s.txPort r1) = true ∧ s.rival n (s.txPort r1) t r1 = false
      (onTime → exec (.fixedRelease n) s = .next (s.startTx n r1 false)) ∧
      (¬onTime → exec (.fixedRelease n) s = .next (s.setReply n { r1 with late := true }).markReady))

/-- At the due instant of a held unit a pending verdict adds 8 bytes of extension below 2,048, and good verdicts let the frame end
with its extension and pad word (R40); at 2,048 bytes with a verdict pending the reply is stomped, counted, reported and kept
(R42); a kept reply with good verdicts and no member of its logical port that may carry it is lost, counted and reported where
its cut has not done so already, and not sent, and a sequence context that has advanced past it rolls back (R46, R204); a bad
reply's notice is sent when its port takes it (R43); a link lost in transmission cuts the reply it carries, held or not yet
gone whole (R46); and a reply that has waited its egress limit is counted and leaves (R256). -/
def Obligations.TheGateHoldsExtendsAndStomps : Prop :=
  ∀ (s : State) (n : Nat) (r : Reply), Tbl.find s.replies n = some r →
    (r.stage = .held → s.replyVerdict r = .pending → r.ext < 2048 →
      exec (.heldUnitDue n) s = .next (s.setReply n { r with ext := r.ext + 8 })) ∧
    (∀ d, r.stage = .held → s.replyVerdict r = .good → r.dest = some d →
      exec (.heldUnitDue n) s = .next (((s.endFrame r.eport (wireBytes d r.content ++ List.replicate (r.ext + 4) 0) true).peak
        Reg.RPLY_EXTMAX 11 0 r.ext).passed n r .sent)) ∧
    (r.stage = .held → s.replyVerdict r = .pending → r.ext = 2048 →
      exec (.extensionExhausted n) s = .next ((((s.stompFrame n r).count Reg.RPLY_CNT_STOMP_EXH).gateEvent 8 r.org.lport).setReply n
        { r with stage := .kept false, due := false }).markReady) ∧
    (∀ d lost, r.stage = .kept lost → r.dest = some d → r.reissued = false → s.replyVerdict r = .good →
      s.holdsPort d.lport = false → s.reissuePort r d lost = none →
      exec (.reissue n) s = .next (((if lost then s else (s.count Reg.RPLY_CNT_LOST).gateEvent 9 r.org.lport).egressFail r).unsent n r)) ∧
    (∀ d c, r.stage = .bad (c + 1) → r.dest = some d → s.holdsPort d.lport = false →
      s.egressOpen n (s.txPort r) { r with content := List.replicate 256 0 } = true →
      let r1 := s.rendered { r with base := s.baseOf r.org.desc, eport := s.txPort r, unchecked := s.twin.state == 3, stage := .sent }
      let s1 := if s.twin.state == 3 then s.count Reg.TWIN_CNT_UNCHECKED else s
      let w := wireBytes d r1.content
      exec (.noticeSend n) s =
        .next ((((s1.takeTx (s.txPort r) n).sendFrame (s.txPort r) w true (wireLen w.length)).setReply n r1).gc)) ∧
    (∀ e, (s.ep e).tx = some n → r.stage = .held ∨ (r.stage = .sent ∧ s.time.raw < (s.ep e).busyTo) →
      exec (.egressLinkLost e) s = .next (s.cutReply n e r)) ∧
    (r.stage = .ready → r.dest.isSome → r.egressAt ≤ s.time.raw →
      exec (.egressTimeout n) s = .next (((s.count Reg.CONV_CNT_EGRESS).egressFail r).unsent n r))

/-- A reply that the gate kept or that was cut with its link, whose verdicts are all good, goes out again whole with PAD clear and
no extension once the member that takes it (its own while that may carry it, else the lowest other) accepts it, is counted as
reissued, and passes the gate; that is outside a twin pair and of a reply that still has its slot (R42, R46). -/
def Obligations.KeptReplyIsReissued : Prop :=
  ∀ (s : State) (n : Nat) (r : Reply) (d : Dest) (e : Nat) (lost : Bool), Tbl.find s.replies n = some r → r.stage = .kept lost →
    r.dest = some d → r.reissued = false → r.twinHeld = false → s.replyVerdict r = .good → s.holdsPort d.lport = false →
    s.reissuePort r d lost = some e → s.egressOpen n e r = true → s.twin.state ≠ 3 → r.slot.isSome →
    let r1 := s.rendered { r with pad := false, ext := 0, late := r.late || r.fixed.isSome, reissued := true
                                  unchecked := false, eport := e, stomped := false }
    let w := wireBytes d r1.content
    exec (.reissue n) s = .next (((((s.takeTx e n).recache r r1).count Reg.RPLY_CNT_REISSUE).sendFrame e w true
      (wireLen w.length)).passed n r1 .sent)

/-- EFFECTS_APPLY: once a message of a conversation is complete and its built result has every verdict good and its digest, its
effects on its conversation and its context apply once, its reservation is returned and the message is marked, while its reply
is still to pass (R38, R245). CONV_IDLE_CLOSE and CONV_LINGER_CLOSE: an open entry that has no message in progress closes once
its quiet period has reached IDLE in an earlier tick, and a closing one once it has reached LINGER (a message of the tick of
the expiry still counts, R257): it becomes CLOSED with its incarnation and base kept, its DONE bits and cached replies go, the
closing is counted, and its sequence context, where it has one, closes (R247). GAP_TIMER_EXPIRE: an incomplete message whose
gap timer has expired, no frame that came by then being still to dispatch, is counted, answered INCOMPLETE with the bytes
received, and fails. SEQ_WAIT_TIMEOUT: a sequence token that waited longer than its limit out of turn is counted and answered
INCOMPLETE with P (R253). -/
def Obligations.ConversationsTakeEffectAndClose : Prop :=
  (∀ (s : State) (n k : Nat) (m : Msg) (r : Reply) (c : Nat) (st : WinStep), Tbl.find s.msgs n = some m → m.reply = some k →
    Tbl.find s.replies k = some r → m.applied = false → r.kind = 0 → r.stage ≠ .build → s.complete m = true →
    s.replyVerdict r = .good → (r.hasDig && r.digest.isNone) = false → m.org.desc.conv = some c → m.step = some st → r.trec = none →
    m.gone = false → r.dest ≠ none →
    let s1 := s.convEffects c m.org.desc st r
    exec (.effectsApply n) s =
      .next (State.ctxEffects { s1 with msgs := Tbl.modify s1.msgs n (fun x => { x with applied := true, units := 0 }) } m)) ∧
  (∀ (s : State) (c : Nat), s.convMsgs c = [] →
    let x := s.conv c
    let shut := ((s.setConv c { x with state := 3, done := [], prior := none }).setCache c []).count Reg.CONV_CNT_CLOSE
    let closed := match x.ctx with | some k => shut.closeCtx k | none => shut
    (x.state = 1 → x.quietFrom + x.idleMs * 1000000 + 4 ≤ s.time.raw → exec (.convIdleClose c) s = .next closed) ∧
    (x.state = 2 → x.quietFrom + x.lingerMs * 1000000 + 4 ≤ s.time.raw → exec (.convLingerClose c) s = .next closed)) ∧
  (∀ (s : State) (n t : Nat) (m : Msg), Tbl.find s.msgs n = some m → m.gapAt = some t → t < s.time.raw → s.complete m = false →
    m.reply = none → s.frames.any (fun x => decide (x.2.raw ≤ t + 4) && s.undispatched x.1 x.2) = false →
    exec (.gapTimerExpire n) s = .next ((((s.count Reg.CONV_CNT_GAP).answerW m.warn m.org m.frames stIncomplete 1 m.received
      false).failMsg n 0).settle)) ∧
  (∀ (s : State) (n k : Nat) (m : Msg) (x : Ctx), Tbl.find s.msgs n = some m → m.ctx = some k → Tbl.find s.ctxs k = some x →
    m.stage = .waiting → x.p ≠ m.org.desc.sq → m.waitTo < s.time.raw →
    exec (.seqWaitTimeout n) s = .next ((s.count Reg.CONV_CNT_GAP).answerMsg n stIncomplete 2 x.p).settle)

/-- From node i a walk goes on at node 2i + 1 (left) when the key of slot FEAT is below THRESH at a COMPARE node, at node 2i + 2
(right) when it is equal or above, and at node 2i + 1 at a PAD node, whatever the sample; nothing else decides; and a walk of
depth d always ends at one of 2^d leaves. -/
def Obligations.BranchesFollowTheThreshold : Prop :=
  (∀ (b : List Byte) (base : Nat) (key : Nat → Nat) (n i : Nat),
    let w := leAt b (base + 4 * i) 4
    let f := key (bitsOf w 31 20)
    let t := bitsOf w 19 4
    (w % 16 = 0 → f < t → walk b base key (n + 1) i = walk b base key n (2 * i + 1)) ∧
    (w % 16 = 0 → t ≤ f → walk b base key (n + 1) i = walk b base key n (2 * i + 2)) ∧
    (w % 16 = 1 → walk b base key (n + 1) i = walk b base key n (2 * i + 1))) ∧
  (∀ (b : List Byte) (f : ForestHdr) (key : Nat → Nat) (j : Nat), leafOf b f key j < 2 ^ f.depth)

/-- Over integer scores TOP is a class, no class has a larger score, every class below it has a smaller one, and TOP is 0 for one
class; over FP32 scores a NaN ranks above every number and the zeros are equal (R97). -/
def Obligations.TopIsTheLowestLargestScore : Prop :=
  (∀ l : List Nat, l ≠ [] →
    let v := fun c => signed 64 (l.getD c 0)
    topOf false l < l.length ∧ (∀ c, c < l.length → v c ≤ v (topOf false l)) ∧ (∀ c, c < topOf false l → v c < v (topOf false l))) ∧
  (∀ (fp : Bool) (x : Nat), topOf fp [x] = 0) ∧
  (∀ a b : Nat, flOf 8 a = .nan → flOf 8 b ≠ .nan → scoreAbove true a b = true ∧ scoreAbove true b a = false) ∧
  scoreAbove true 0 0x80000000 = false ∧ scoreAbove true 0x80000000 0 = false

/-- SAMPLE_ADMIT of a forest message that may leave the bucker (State.leaving: its decision bytes have been handed over, R61). At
the front of its model's queue, at a boundary that admits, it goes to the copy of its version that can accept it soonest, of a
model with stationary copies alone; when no copy can take it in the tick, or another is ahead of it, or the boundary does not
admit, it joins the admission queue while that holds fewer than 1,024, and is answered BUSY with QUEUE when it is full (R89).
Of a model with a part in batches it joins the open batch, with a copy too where the version has copies, and is answered BUSY
with BATCH while none may open (R112). A message whose version has no copy or part in service is counted and answered
FAULT_RETRY (R133). -/
def Obligations.SamplesAreAdmitted : Prop :=
  ∀ (s s1 : State) (n : Nat) (m : Msg) (v : Version), s.leaving n = some (s1, m) → (s1.handle m.target).ver m.version = some v →
    m.boom = false → m.kind = 0 → m.stage = .arrived ∨ m.stage = .queued →
    let front := (s1.handle m.target).queue = [] ∨ (s1.handle m.target).queue.head? = some n
    (v.serves = false → exec (.sampleAdmit n) s = .next ((s1.count Reg.RPR_CNT_ITEMRETRY).answerMsg n stFaultRetry 0 0).settle) ∧
    (v.serves = true → v.part = none →
      (∀ c, s1.soonest v = some c → s1.admits = true → front →
        exec (.sampleAdmit n) s = .next (s1.admitSample n m v (some c)) ∧
        ∃ m', Tbl.find (s1.admitSample n m v (some c)).msgs n = some m' ∧ m'.stage = .running ∧
          m'.forest = some { copy := some c, part := false, atTick := s1.time.tick }) ∧
      (s1.soonest v = none ∨ s1.admits = false ∨ ¬front → exec (.sampleAdmit n) s = .next (s1.enqueue n m v).settle)) ∧
    (∀ p, v.serves = true → v.part = some p →
      (p.out = true ∨ s1.admits = false ∨ ¬front → exec (.sampleAdmit n) s = .next (s1.enqueue n m v).settle) ∧
      (p.out = false → s1.admits = true → front →
        (p.canOpen = false →
          exec (.sampleAdmit n) s = .next (s1.busyMsg n 3 (max 1 (ceilDiv (s1.nextPass v p) 1000))).settle) ∧
        (p.canOpen = true → v.useCopies = false → exec (.sampleAdmit n) s = .next (s1.admitSample n m v none)) ∧
        (p.canOpen = true → v.useCopies = true →
          (∀ c, s1.soonest v = some c → exec (.sampleAdmit n) s = .next (s1.admitSample n m v (some c))) ∧
          (s1.soonest v = none → exec (.sampleAdmit n) s = .next (s1.enqueue n m v).settle)))) ∧
    ((s1.handle m.target).queue.contains n = false →
      (1024 ≤ (s1.handle m.target).queue.length → s1.enqueue n m v = s1.busyMsg n 2 (s1.queueInfo m.target v)) ∧
      ((s1.handle m.target).queue.length < 1024 →
        ((s1.enqueue n m v).handle m.target).queue = (s1.handle m.target).queue ++ [n]))

/-- COMBINE_COMPLETE: a running sample whose partials are in decides a result whose block is the evaluation of its version's
forest on its keys, with SAT as the evaluation gives it and MIXED_LATENCY for a SPLIT model. PARTIAL_LATE: a late partial of a
die that owes it is counted for the die, the sample's unit-check verdict is bad, and a check event is charged to the die's
bridge (R99). -/
def Obligations.ForestResultsCombine : Prop :=
  ∀ (s : State) (n : Nat) (m : Msg) (r : ForestRun) (v : Version), Tbl.find s.msgs n = some m → m.forest = some r →
    (s.handle m.target).ver m.version = some v → m.stage = .running →
    (r.part = false ∨ r.partDone = true →
      let x := evalForest v.image v.forest (sampleKey m.sample)
      exec (.combineComplete n) s =
        .next (s.decideResult n x.block false x.sat (v.mode == 1) 0 (List.replicate 32 0 ++ v.digest))) ∧
    (∀ d, d < 4 → v.onDie r.copy d = true → r.lateDies.contains d = false →
      exec (.partialLate n d) s = .next (((((s.count (Reg.FRST_CNT_LATE d)).setMsg n
        { m with forest := some { r with lateDies := r.lateDies ++ [d] } }).unitFail n false).checkUnit ⟨5, d, 0, 0, 0⟩ true).settle))

/-- In every state each of the four commands answers a next state, and this one. BATCH_WAIT_EXPIRE: of the serving version, then
those that drain, the first whose open batch has waited BATCH_WAIT ticks since its first sample closes that batch, and no
batch opens while two closed ones wait; with none due nothing changes. BATCH_PASS_START: the first such version with a closed
batch, its part in service and its period passed, starts the pass of its oldest closed batch, after its lanes and tree stores
are rewritten where they are uncorrectable (Table 14-7), after which a batch may open; with none nothing changes.
BATCH_PASS_COMPLETE: the first such version with a batch in a pass takes the oldest out of the running ones and marks its
samples' partial as done; after a streamed pass that met an uncorrectable word that word is marked in the POOL of a die that
streams for the part, and the unit-check verdict of each sample of the batch is bad besides; with no batch in a pass nothing
changes (R112, R113, R342). SHADOW_ROTATE: a free spare lane moves to the next of its sixteen lanes, in ascending order from
the one it shadows, that is in service and not in cycled evaluation, and takes its image from the tree store; a spare lane
that is not free, or with no such lane, stays (R101). -/
def Obligations.BatchesCloseRunAndShadowsRotate : Prop :=
  (∀ (s : State) (h : Nat),
    let parts := fun (c : Version → BatchPart → Bool) => ((s.handle h).serving.toList ++ (s.handle h).old).find? (fun v =>
      match v.part with | some b => c v b | none => false)
    let due := fun (v : Version) (p : BatchPart) => p.batch != [] && decide (p.firstTick + v.batchWait ≤ s.time.tick)
    let may := fun (v : Version) (p : BatchPart) => p.closed != [] && !p.out && s.nextPass v p == 0
    let runs := fun (_ : Version) (p : BatchPart) => p.running != []
    (parts due = none → exec (.batchWaitExpire h) s = .next s) ∧
    (∀ v p, parts due = some v → v.part = some p →
      exec (.batchWaitExpire h) s = .next (s.modVer h v.number (fun w => { w with part := w.part.map (fun q => q.close) })) ∧
      p.close.batch = [] ∧ p.close.closed = p.closed ++ [p.batch] ∧
      (p.close.canOpen = true ↔ p.closed.length + 1 < 2)) ∧
    (parts may = none → exec (.batchPassStart h) s = .next s) ∧
    (∀ v p b rest, parts may = some v → v.part = some p → p.closed = b :: rest →
      exec (.batchPassStart h) s = .next ((s.rewriteParts h may).modVer h v.number
          (fun w => { w with part := w.part.map (fun q => q.startPass s.time.raw) })) ∧
      p.startPass s.time.raw = { p with closed := rest, running := p.running ++ [(b, s.time.raw)]
                                        last := some s.time.raw, canOpen := true }) ∧
    (∀ ue, parts runs = none → exec (.batchPassComplete ⟨h, ue⟩) s = .next s) ∧
    (∀ v p b t0 rest, parts runs = some v → v.part = some p → p.running = (b, t0) :: rest →
      ∃ t, exec (.batchPassComplete ⟨h, false⟩) s = .next t ∧
        (t.handle h) = (s.handle h).modVer v.number (fun w => { w with part := some { p with running := rest } }) ∧
        (∀ k m r, k ∈ b → Tbl.find s.msgs k = some m → m.forest = some r →
          ∃ m', Tbl.find t.msgs k = some m' ∧ m'.forest = some { r with partDone := true }) ∧
        (v.streamed = false → exec (.batchPassComplete ⟨h, true⟩) s = .next t) ∧
        (v.streamed = true →
          let ds := (List.range 4).filter (fun d => 0 < p.jobs d)
          let r := t.drawNat (ds.length - 1)
          exec (.batchPassComplete ⟨h, true⟩) s =
            .next (b.foldl (fun s n => s.unitFail n false) (r.2.poolUe (ds.getD r.1 0))).settle))) ∧
  (∀ (s : State) (d e sp : Nat), d < 4 → e < 16 → sp < 16 →
    let cur := match Tbl.find s.units.partner (shadowKey d e sp) with | some x => x % 16 | none => 15
    let s1 := (s.rewriteStore d (e / 2)).rewriteLane d e (256 + sp)
    (s.shadowFree d e sp = false ∨ (∀ j, j < 16 → s.shadowable d e (16 * sp + j) = false) →
      exec (.shadowRotate d e sp) s = .next s) ∧
    (∀ i, s.shadowFree d e sp = true → i < 16 → s.shadowable d e (16 * sp + (cur + 1 + i) % 16) = true →
      (∀ j, j < i → s.shadowable d e (16 * sp + (cur + 1 + j) % 16) = false) →
      exec (.shadowRotate d e sp) s = .next { s1 with units := { s1.units with
        partner := Tbl.put s1.units.partner (shadowKey d e sp) (16 * sp + (cur + 1 + i) % 16)
        shadowOff := s1.units.shadowOff.filter (· != shadowKey d e sp) } }))

/-- A LOAD or PLOAD taken from the mailbox whose checks 1 to 4 fail runs to its completion with that status and stages nothing,
and holds its handle as loading unless another load does; one that passes them reads its image, which heals mirrored words,
and runs with the status of the image's checks and of placement, staging the version when they pass; a PLOAD that passes loads
its copies' cores (R117, R120, R164). LOAD_COMPLETE: a completed load leaves the running ones, its handle no longer loads, its
record is written with its status, a successful one is journaled, and MODEL_DONE is posted with that status, or ERR_FAULT
where a byte of a successful one's record is unmapped (R132, R337; log 173). -/
def Obligations.LoadsCheckAndStage : Prop :=
  (∀ (s s1 : State) (i : Nat) (c : MboxCmd), s.takeCmd i 0x01 = some (c, s1) →
    let d := c.desc
    let st := s.loadHead d (loadParamBad d) true
    (st ≠ 0 → exec (.load i) s = .next ((s1.mirrorHeal (leAt d 24 8) 128).startLoad c
      { status := st, b1 := leAt d 1 1, handle := leAt d 4 2, version := leAt d 6 2 } none (s1.mayHold (leAt d 4 2)))) ∧
    (st = 0 → exec (.load i) s = .next ((s1.mirrorHeal (leAt d 24 8) (s.imageOf d true).length).startLoad c
      (s.loadForest d).1 (s.loadForest d).2 true))) ∧
  (∀ (s s1 : State) (i : Nat) (c : MboxCmd), s.takeCmd i 0x11 = some (c, s1) →
    let d := c.desc
    let st := s.loadHead d (ploadParamBad d) false
    let len := (s.imageOf d false).length
    (st ≠ 0 → exec (.pload i) s = .next ((s1.mirrorHeal (leAt d 24 8) 128).startLoad c
      { status := st, handle := leAt d 4 2, version := leAt d 6 2 } none (s1.mayHold (leAt d 4 2)))) ∧
    (st = 0 → (s.loadProg d).2 = none →
      exec (.pload i) s = .next ((s1.mirrorHeal (leAt d 24 8) len).startLoad c (s.loadProg d).1 none true)) ∧
    (st = 0 → ∀ v, (s.loadProg d).2 = some v →
      exec (.pload i) s = .next (((v.acopies.foldl (fun (s : State) (x : Nat × ACopy) => s.loadCopy (leAt d 4 2) v x.2) s1).mirrorHeal
        (leAt d 24 8) len).startLoad c (s.loadProg d).1 (some v) true))) ∧
  (∀ (s : State) (c : MboxCmd) (r : Rec) (v : Version),
    let h := leAt c.desc 4 2
    ((s.startLoad c r (some v) true).handle h).staged = some v ∧ ((s.startLoad c r (some v) true).handle h).loading = true ∧
    ((s.startLoad c r (some v) true).handle h).serving = (s.handle h).serving ∧
    ((s.startLoad c r none true).handle h) = { s.handle h with loading := true } ∧
    ((s.startLoad c r none false).handle h) = s.handle h) ∧
  (∀ (s : State) (k : Nat) (r : Running), Tbl.find s.mgmt.running k = some r →
    let s1 := { s with mgmt := { s.mgmt with running := Tbl.del s.mgmt.running k } }
    let s2 := if r.holds = true then s1.setHandle r.handle { s1.handle r.handle with loading := false } else s1
    let b := overwrite r.body 0 (leBytes 1 r.status)
    let s3 := s2.devWrite r.record b
    let st := if s2.anyUnmapped r.record b.length = true then 0x0B else 0
    (r.status = 0 → exec (.loadComplete k) s = .next ((s3.journal 2 r.cmd
      (r.handle % 1024 + r.version % 65536 * 65536) (some (slice r.body 48 16)) r.origin).modelDone r.handle st r.cmd)) ∧
    (r.status ≠ 0 → exec (.loadComplete k) s = .next (s3.modelDone r.handle r.status r.cmd)))

/-- For a handle of 1,023 or less that nothing loads and no felling names, with the record address aligned and the journal taking
changes: ACTIVATE arms the staged version for the next commit, unless a program in force names the handle in FEVAL and the
version does not fit it, and changes no version; DISCARD frees the staged version at once; UNLOAD arms the handle to leave
service and discards its staged version, of a handle that no program in force names in FEVAL or that serves nothing; QUERY
reports the serving version and changes nothing; RESUME of an array handle reopens it and the held copies of its serving
version. Each finishes with its record and completion (R128, R130, R120, R158). A handle without the version that an ACTIVATE,
DISCARD, UNLOAD or QUERY needs answers status 2. -/
def Obligations.HandleCommandsActOnTheirVersion : Prop :=
  ∀ (s s1 : State) (i : Nat) (c : MboxCmd),
    let d := c.desc
    let h := leAt d 4 2
    let done := fun (code : Nat) (t : State) (r : Rec) => State.modelFinish t code c.origin (leAt d 32 8) r
    let none' : Rec := { status := 2, handle := h }
    (s.takeCmd i 2 = some (c, s1) → s.cmdStatus d false = 0 →
      (∀ v, (s1.handle h).staged = some v → s1.fellNames h = false → s1.fevalNamed h = false ∨ s1.fevalFits h v = true →
        exec (.activate i) s = .next (done 2 (s1.setHandle h { s1.handle h with armActivate := some v.number }) (s1.record v h 0))) ∧
      ((s1.handle h).staged = none → exec (.activate i) s = .next (done 2 s1 none'))) ∧
    (s.takeCmd i 3 = some (c, s1) → s.cmdStatus d false = 0 →
      (∀ v, (s1.handle h).staged = some v → s1.fellNames h = false →
        exec (.discard i) s = .next (done 3 (s1.dropStaged h) (s1.record v h 0))) ∧
      ((s1.handle h).staged = none → exec (.discard i) s = .next (done 3 s1 none'))) ∧
    (s.takeCmd i 4 = some (c, s1) → s.cmdStatus d false = 0 →
      let s2 := s1.dropStaged h
      let armed := s2.setHandle h { s2.handle h with armUnload := true }
      (∀ v, (s1.handle h).serving = some v → s1.fellNames h = false → s1.fevalNamed h = false →
        exec (.unload i) s = .next (done 4 armed (s1.record v h 0))) ∧
      (∀ v, (s1.handle h).serving = none → (s1.handle h).staged = some v → s1.fellNames h = false →
        exec (.unload i) s = .next (done 4 armed (s1.record v h 0))) ∧
      ((s1.handle h).serving = none → (s1.handle h).staged = none → exec (.unload i) s = .next (done 4 s1 none'))) ∧
    (s.takeCmd i 5 = some (c, s1) → s.cmdStatus d true = 0 →
      (∀ v, (s1.handle h).serving = some v → exec (.query i) s = .next (done 5 s1 (s1.record v h 0))) ∧
      ((s1.handle h).serving = none → exec (.query i) s = .next (done 5 s1 none'))) ∧
    (s.takeCmd i 0x13 = some (c, s1) → s.cmdStatus d false = 0 → s1.isArray h = true → ∀ v, (s1.handle h).serving = some v →
      ∃ t, exec (.resume i) s = .next (done 0x13 t (s1.record v h 0)) ∧ (t.handle h).drained = false ∧
        ∀ w k cp, (t.handle h).serving = some w → Tbl.find w.acopies k = some cp → cp.lostHold = false)

/-- A DRAIN of an array handle closes its admission and keeps its record address; DRAIN_DONE: once every run of the handle has
ended each waiting record is written, with the serving version's number, and its completion posted (R158). VERSION_RELEASE: a
former version that no item uses and whose in-flight counters read zero (R154) leaves the handle, its resources are freed and
MODEL_RELEASED is posted (R129). COPY_REPLACE: a withdrawn copy is re-placed from its image where that succeeds, and otherwise
stays withdrawn and MODEL_DEGRADED is posted, as when the image has lost its digest; its read of the image heals mirrored
words (R133, R167, R338). -/
def Obligations.HandlesDrainReleaseAndReplace : Prop :=
  (∀ (s s1 : State) (i : Nat) (c : MboxCmd), s.takeCmd i 0x12 = some (c, s1) → s.cmdStatus c.desc false = 0 →
    s.isArray (leAt c.desc 4 2) = true →
    let h := leAt c.desc 4 2
    exec (.drain i) s = .next (s1.setHandle h { s1.handle h with
      drained := true, drainWait := (s1.handle h).drainWait ++ [leAt c.desc 32 8] })) ∧
  (∀ (s : State) (h : Nat), (s.handle h).drainWait ≠ [] → s.runs.any (fun r => r.2.handle == h) = false →
    let n := match (s.handle h).serving with | some v => v.num | none => 0
    exec (.drainDone h) s = .next ((s.handle h).drainWait.foldl
      (fun s a => (s.devWrite a (Rec.bytes { status := 0, handle := h, version := n })).post 0 6 [])
      (s.setHandle h { s.handle h with drainWait := [] }))) ∧
  (∀ (s : State) (h n : Nat) (v : Version),
    (s.handle h).old.find? (fun v => v.num == n && !s.verUsed h v.number && s.slotsIdle v) = some v →
    let s1 := s.freeVersion v
    exec (.versionRelease h n) s = .next ((s1.setHandle h { s1.handle h with
      old := (s1.handle h).old.filter (fun w => w.number != v.number) }).post 0 3 [(h, 16), (n, 16)])) ∧
  (∀ (s : State) (h n c : Nat) (v : Version),
    (s.handle h).versions.find? (fun v => v.num == n && v.withdrawn c) = some v →
    let heal := fun (t : State) => t.mirrorHeal v.imageAt v.image.length
    (∀ t, s.tryReplace h v c = some t → exec (.copyReplace h n c) s = .next (heal t)) ∧
    (s.tryReplace h v c = none → exec (.copyReplace h n c) s = .next (heal (s.degraded h v))) ∧
    (s.imageIntact v = false → exec (.copyReplace h n c) s = .next (heal (s.degraded h v))))

/-- ARRAY_ADMIT of an array message that may leave the bucker (State.leaving, R61): at a boundary that admits, the message at the
front of its handle's queue is taken by the first copy of its version that may admit and starts a run there (R147); where no
copy may admit it, another message is ahead of it, or the boundary does not admit, it waits in a queue of fewer than 1,024 and
is answered BUSY when that is full (R155); with every copy out of service it is counted and answered FAULT_RETRY (R167).
ADMIT_QUEUE_TIMEOUT: a message that has waited its limit for a handle every copy of which is drained or held closed
(State.copyHeld) is answered BUSY with QUEUE (R158). MODE_GAP_END: a copy that last took another mode than the one in force
takes the mode in force once the gap of R311 since its last admission has passed, and stays as it was before that. -/
def Obligations.ArrayMessagesAreAdmitted : Prop :=
  (∀ (s s1 : State) (n : Nat) (m : Msg) (v : Version), s.leaving n = some (s1, m) → (s1.handle m.target).ver m.version = some v →
    m.boom = false → m.kind = 1 → v.kind = 1 → m.stage = .arrived ∨ m.stage = .queued →
    let found := v.acopies.find? (fun c => s1.copyAdmits m.target v c.1 c.2 m.exact)
    let front := (s1.handle m.target).queue = [] ∨ (s1.handle m.target).queue.head? = some n
    (v.acopies.all (fun c => c.2.out) = true →
      exec (.arrayAdmit n) s = .next ((s1.count Reg.RPR_CNT_ITEMRETRY).answerMsg n stFaultRetry 0 0).settle) ∧
    (v.acopies.all (fun c => c.2.out) = false →
      (∀ c cp, found = some (c, cp) → s1.admits = true → front →
        let s2 := s1.setHandle m.target { s1.handle m.target with queue := (s1.handle m.target).queue.filter (· != n) }
        exec (.arrayAdmit n) s = .next ((s2.startRun m.target v c cp (some n) none 0 m.exact (m.descIn none) m.org.data
          (sampleKey m.sample)).setMsg n { m with stage := .running })) ∧
      (found = none ∨ s1.admits = false ∨ ¬front → (s1.handle m.target).queue.contains n = false →
        ((s1.handle m.target).queue.length < 1024 →
          ∃ t, exec (.arrayAdmit n) s = .next t ∧ (t.handle m.target).queue = (s1.handle m.target).queue ++ [n] ∧
            ∃ m', Tbl.find t.msgs n = some m' ∧ m'.stage = .queued) ∧
        (1024 ≤ (s1.handle m.target).queue.length →
          exec (.arrayAdmit n) s = .next (s1.busyMsg n 2 (s1.arrayInfo m.target v m.exact)).settle)))) ∧
  (∀ (s : State) (n : Nat) (m : Msg) (v : Version), Tbl.find s.msgs n = some m → (s.handle m.target).ver m.version = some v →
    m.kind ≠ 0 → (s.handle m.target).queue.contains n = true → m.waitTo ≤ s.time.raw →
    v.acopies.all (fun c => s.copyHeld m.target v c.2) = true →
    exec (.admitQueueTimeout n) s = .next (s.busyMsg n 2 (s.cfg Reg.CONV_RA0 15 0)).settle) ∧
  (∀ (s : State) (h c : Nat) (v : Version) (cp : ACopy), Tbl.find v.acopies c = some cp →
    (s.handle h).versions.find? (fun v => match Tbl.find v.acopies c with | some x => x.exact != s.exact | none => false) = some v →
    (s.modeGap v cp s.exact = false → exec (.modeGapEnd h c) s = .next (s.modVer h v.number (fun v =>
      { v with acopies := Tbl.put v.acopies c { cp with exact := s.exact } }))) ∧
    (s.modeGap v cp s.exact = true → exec (.modeGapEnd h c) s = .next s))

/-- TOKEN_ARRIVE: a token of a run that has not overrun leaves its flight and enters its core's queue, or the run's result when it
is a result token; an entry token that finds its queue and the extension full waits in the network (R150); a parity error
makes it BAD, is posted and counted (R138); a token of a run that has overrun is discarded (R149). FIRES_CHECK: from its end
tick on, a core whose firings for the message equal FIRES is checked, and one whose firings differ raises TICK_OVERRUN (R148,
R149). RESULT_COUNT_CHECK: from the depth on, the run of a message is over; with the right number of result tokens it decides
its result, the message's unit-check verdict being bad where a token was, and with another number it raises TICK_OVERRUN; a
run of a context that has not passed its STEP boundary passes it first. -/
def Obligations.TokensArriveAndRunsAreChecked : Prop :=
  (∀ (s : State) (n : Nat) (f : Flight) (r : ArrayRun), Tbl.find s.flights n = some f → Tbl.find s.runs f.run = some r →
    let s1 := { s with flights := Tbl.del s.flights n }
    let d := f.core / 1224
    let s2 := (s1.post (11 + d) 1 []).count (Reg.ARR_CNT_PARITY d)
    (r.overrun = true → ∀ ok, exec (.tokenArrive n ok) s = .next s1) ∧
    (r.overrun = false → f.entry = true → s.queueFree f.core f.queue 1 = false → ∀ ok, exec (.tokenArrive n ok) s = .next s) ∧
    (r.overrun = false → f.queue ≠ 0x1F → f.entry = false ∨ s.queueFree f.core f.queue 1 = true →
      exec (.tokenArrive n true) s = .next (s1.enterQueue f.core f.queue f.tok) ∧
      exec (.tokenArrive n false) s = .next (s2.enterQueue f.core f.queue { f.tok with bad := true }) ∧
      ∃ c, s1.enterQueue f.core f.queue f.tok = { s1 with cores := Tbl.put s.cores f.core c } ∧
        c.queue f.queue = (s.core f.core).queue f.queue ++ [f.tok]) ∧
    (r.overrun = false → f.queue = 0x1F → f.entry = false →
      exec (.tokenArrive n true) s = .next (s1.setRun f.run (r.result f.tok)) ∧
      exec (.tokenArrive n false) s = .next (s2.setRun f.run (r.result { f.tok with bad := true })))) ∧
  (∀ (s : State) (p k rid : Nat) (r : ArrayRun) (hm : Home), Tbl.find s.runs rid = some r → s.home p k = some hm →
    r.handle = hm.h → r.version = hm.v.number → r.copy = hm.c → r.checked.contains hm.i = false →
    r.atTick + hm.v.stopIn r.exact hm.i ≤ s.time.tick →
    (Tbl.getD r.fires hm.i 0 = (hm.v.crec hm.i).fires →
      exec (.firesCheck p k rid) s = .next (s.setRun rid { r with checked := r.checked ++ [hm.i] })) ∧
    (Tbl.getD r.fires hm.i 0 ≠ (hm.v.crec hm.i).fires →
      exec (.firesCheck p k rid) s = .next (s.overrun rid r hm.v hm.cp hm.i))) ∧
  (∀ (s : State) (rid : Nat) (r : ArrayRun) (v : Version) (cp : ACopy), Tbl.find s.runs rid = some r →
    (s.handle r.handle).ver r.version = some v → Tbl.find v.acopies r.copy = some cp → r.atTick + v.depthIn r.exact ≤ s.time.tick →
    let s1 := { s with runs := Tbl.del s.runs rid }
    (∀ k, r.ctx = some k →
      exec (.resultCountCheck rid) s = .next ((State.resultChecked (if r.stepped then s else s.stepBoundary k) rid).ctxSettle k)) ∧
    (∀ n, r.slot = some n → r.ctx = none →
      (r.overrun = true → exec (.resultCountCheck rid) s = .next s1) ∧
      (r.overrun = false → r.nres = v.prog.nRes →
        let s2 := if r.bad then s1.unitFail n false else s1
        exec (.resultCountCheck rid) s = .next (s2.decideResult n (runBlock v r) r.nan r.sat false r.pos
          (slice v.digest 0 32 ++ s1.wtsDigest v r))) ∧
      (r.overrun = false → r.nres ≠ v.prog.nRes →
        let s2 := s.overrun rid r v cp 0
        exec (.resultCountCheck rid) s = .next { s2 with runs := Tbl.del s2.runs rid })))

/-- FEVAL_RESULT: a result of a run that has not overrun, within its declared latency, enters queue 0x1D of the issuing core with
the issuing tag, one token for each payload, of which only the first carries its flags, each with its parity checked, and each
goes out on the firing's second route too; a BAD one makes the run bad (R107, R108, R138, R173). One later than its latency
raises TICK_OVERRUN. DMA_COMPLETE: a DMA toward DRAM writes the stand's bytes to device memory and one toward the stand the
device's bytes to the stand, marking a slot whose own SRAM it writes; unless the run has overrun, a completion token enters
queue 0x1E with the length in 64-byte units (log 175), the flags of the firing's tokens, and BAD also when an uncorrectable
error or its parity touched it (R189); a word found uncorrectable now is marked and reported, and the read of a mirrored
source heals it (R338, R342). -/
def Obligations.FevalAndDmaComplete : Prop :=
  (∀ (s : State) (core : Nat) (t : Tok), s.parityCheck core t true = (s, t) ∧
    s.parityCheck core t false = ((s.post (11 + core / 1224) 1 []).count (Reg.ARR_CNT_PARITY (core / 1224)), { t with bad := true })) ∧
  (∀ (s : State) (n : Nat) (f : Feval) (r : ArrayRun) (hm : Home) (ok ok2 : Bool), Tbl.find s.fevals n = some f →
    Tbl.find s.runs f.run = some r → (State.home { s with fevals := Tbl.del s.fevals n } f.core f.slot) = some hm → r.overrun = false →
    let s1 := { s with fevals := Tbl.del s.fevals n }
    let plain := fun (v : Vec) => ({ payload := v, tag := f.tag, ctx := f.slot, tgt := f.tgt, side := f.side } : Tok)
    let first := fun (v : Vec) => { plain v with nan := f.nan, sat := f.sat, bad := f.bad, top := f.top }
    let arrive := fun (s : State) (t : Tok) (ok : Bool) =>
      ((s.parityCheck f.core t ok).1.enterQueue f.core 0x1D (s.parityCheck f.core t ok).2).sendSinks f.run t f.also
    let ends := fun (t : State) => if f.bad then t.runBad f.run else t
    (s.time.tick ≤ f.atTick + f.latency → ∀ v, f.payloads = [v] →
      exec (.fevalResult ⟨n, ok, ok2⟩) s = .next (ends (arrive s1 (first v) ok))) ∧
    (s.time.tick ≤ f.atTick + f.latency → ∀ v w, f.payloads = [v, w] →
      exec (.fevalResult ⟨n, ok, ok2⟩) s = .next (ends (arrive (arrive s1 (first v) ok) (plain w) ok2))) ∧
    (f.atTick + f.latency < s.time.tick → exec (.fevalResult ⟨n, ok, ok2⟩) s = .next (s1.overrun f.run r hm.v hm.cp hm.i))) ∧
  (∀ (s : State) (n : Nat) (x : StandDma) (ue ok ok2 : Bool), Tbl.find s.dmas n = some x →
    let s0 : State := { s with dmas := Tbl.del s.dmas n }
    let d := s.die (x.core / 1224)
    let s1 := if ue then (if x.toDram then s0.spanUe (x.core / 1224) x.sram else s0.rangeUe x.dev x.len)
      else if x.toDram then s0 else s0.mirrorHeal x.dev x.len
    let own := if x.own then s1.setCore x.core ((s1.core x.core).setSlot x.slot { (s1.core x.core).slot x.slot with dirty := true }) else s1
    let moved := if x.toDram then s1.devWrite x.dev (d.sram.readSpans x.sram)
      else own.setDie (x.core / 1224) ((own.die (x.core / 1224)).writeSpans x.sram (s.devRead x.dev x.len))
    let touched := ue || (if x.toDram then x.sram.any (fun r => d.sramBad r.1 r.2) else s.anyUe x.dev x.len)
    let tok : Tok := { payload := vecOf (x.len / 64), tag := x.tag, ctx := x.slot, tgt := x.tgt, side := x.side
                       nan := x.nan, sat := x.sat, bad := x.bad || touched }
    (∀ r, Tbl.find s.runs x.run = some r → r.overrun = true → exec (.dmaComplete ⟨n, ok, ok2⟩ ue) s = .next moved) ∧
    ((∀ r, Tbl.find s.runs x.run = some r → r.overrun = false) →
      exec (.dmaComplete ⟨n, ok, ok2⟩ ue) s =
        .next (((moved.parityCheck x.core tok ok).1.enterQueue x.core 0x1E (moved.parityCheck x.core tok ok).2).sendSinks
          x.run tok x.also)))

/-- A word written through the aperture to the shared SRAM of a stand in service replaces four bytes and the word's uncorrectable
mark; to a stand out of service it is dropped and counted (R341, R342). A word of instruction memory is written, and its
uncorrectable mark goes, while the slot has nothing in flight and holds no serving or staged version, and is otherwise refused
and counted in BUSYCTX (R157). A copy drain of a core in service that does not move closes the copies that use it, and its
move to the coppice begins; once they are empty the move is made and is over, so that the copies are closed by it no more, and
the freed core goes to its test where cruise asked for it (R159). -/
def Obligations.ApertureWritesAndCopyDrains : Prop :=
  (∀ (s : State) (d c st q : Nat) (val : Word), d < 4 → c < 8 → st < 9 → q < 0x200000 → q % 4 = 0 →
    let o := c * 0x10000000 + st * 0x1000000 + q
    let a := 0x4000000000 + d * 2 ^ 32 + o
    (s.standOk d c st = true → exec (.apertureWrite a val) s = .next (s.setDie d { s.die d with
      sram := (s.die d).sram.writeN o (leBytes 4 val.toNat), sramUe := (s.die d).sramUe.filter (· != o / 4) })) ∧
    (s.standOk d c st = false → exec (.apertureWrite a val) s = .next (s.count (Reg.MEM_CNT_APDROP d)))) ∧
  (∀ (s : State) (p z : Nat) (w : Word), 0x10000 ≤ z → z < 0x12000 →
    let k := (z - 0x10000) / 0x800
    let i := (z - 0x10000) % 0x800 / 8
    let sl := (s.core p).slot k
    let o := (Tbl.getD sl.imem i 0).toNat
    (0 < s.inFlight p k ∨ s.slotLive p k = true → s.coreMemWrite p z w = s.count (Reg.ARR_CNT_BUSYCTX (p / 1224))) ∧
    (s.inFlight p k = 0 → s.slotLive p k = false → z % 8 < 4 →
      s.coreMemWrite p z w = (s.setCore p ((s.core p).setSlot k
        { sl with imem := Tbl.put sl.imem i (BitVec.ofNat 64 (o / 2 ^ 32 * 2 ^ 32 + w.toNat)) })).healSram (p / 1224)
          (coreBase p + z / 4 * 4) 4)) ∧
  (∀ (s : State) (p k : Nat), p < 4896 →
    let u := coreUnit p
    s.coreOk u.die u.cmpt u.stand u.unit = true → (s.coresOf (p / 17)).contains u.unit = true →
    s.units.moves.any (fun m => m.unit == u) = false → s.coppice u.die u.cmpt u.stand = some k →
    let t : State := { s with units := { s.units with moves := s.units.moves ++ [⟨u, k, false, true, []⟩] } }
    exec (.copyDrain p) s = .next t ∧ ∀ h v c, t.copyOnUnit v c u = true → t.copyHeld h v c = true) ∧
  (∀ (s : State) (p : Nat) (m : Move), s.units.moves.find? (fun m => m.unit == coreUnit p && m.drain) = some m →
    s.coreBusy p = false →
    let q := p / 17 * 17 + m.spare
    let s1 := s.moveCore p q
    exec (.migrationDone p) s = .next { s1 with units := { s1.units with
      moves := s1.units.moves.filter (fun x => x != m)
      tests := if m.test then s1.units.tests ++ [(coreUnit p, 0)] else s1.units.tests } })

/-- When such an instruction is the one its core issues now and its effective predicate is true (SEL fires either way and takes A
or B by it), the firing consumes its tokens, is counted, writes DST and routes the result: MOV A, LI the immediate by its
mode, AND, OR and XOR of 32 bits, SHL and SHR by B modulo 32, CMP one bit, TAG the tag less the base tag modulo 2^16, BSWAP
the bytes reversed (R173, R174, R178). -/
def Obligations.ScalarLogicFires : Prop :=
  ∀ (s : State) (p k idx tag : Nat) (f : Fire),
    (s.fireOf p k idx tag 0x03 = some f → s.firesWith (.opSel p k idx tag) f (res (if f.eff then f.a else f.b))) ∧
    (f.eff = true →
      (s.fireOf p k idx tag 0x01 = some f → s.firesWith (.opMov p k idx tag) f (res f.a)) ∧
      (s.fireOf p k idx tag 0x02 = some f →
        (f.i.md = 0 → s.firesWith (.opLi p k idx tag) f (res f.i.x)) ∧
        (f.i.md = 1 → s.firesWith (.opLi p k idx tag) f (res (unsigned 32 (signed 16 f.i.x)))) ∧
        (f.i.md = 2 → s.firesWith (.opLi p k idx tag) f (res (f.i.x * 65536))) ∧
        (f.i.md = 3 → s.firesWith (.opLi p k idx tag) f (res (f.i.x * 65536 + f.prior.toNat % 65536)))) ∧
      (s.fireOf p k idx tag 0x09 = some f → s.firesWith (.opAnd p k idx tag) f (res (f.a &&& f.b))) ∧
      (s.fireOf p k idx tag 0x0A = some f → s.firesWith (.opOr p k idx tag) f (res (f.a ||| f.b))) ∧
      (s.fireOf p k idx tag 0x0B = some f → s.firesWith (.opXor p k idx tag) f (res (f.a ^^^ f.b))) ∧
      (s.fireOf p k idx tag 0x0C = some f → s.firesWith (.opShl p k idx tag) f (res (f.a * 2 ^ (f.b % 32) % 2 ^ 32))) ∧
      (s.fireOf p k idx tag 0x0D = some f →
        (f.i.md ≠ 1 → s.firesWith (.opShr p k idx tag) f (res (f.a / 2 ^ (f.b % 32)))) ∧
        (f.i.md = 1 → s.firesWith (.opShr p k idx tag) f (res (unsigned 32 (signed 32 f.a / (2 ^ (f.b % 32) : Nat)))))) ∧
      (s.fireOf p k idx tag 0x0E = some f →
        s.firesWith (.opCmp p k idx tag) f (res (if condOf f.i.md f.i.fmt f.a f.b then 1 else 0))) ∧
      (s.fireOf p k idx tag 0x14 = some f →
        s.firesWith (.opTag p k idx tag) f (res ((f.tag + 65536 - f.run.tag % 65536) % 65536))) ∧
      (s.fireOf p k idx tag 0x19 = some f → s.firesWith (.opBswap p k idx tag) f
        (res (f.a % 256 * 2 ^ 24 + f.a / 256 % 256 * 2 ^ 16 + f.a / 2 ^ 16 % 256 * 256 + f.a / 2 ^ 24 % 256))))

/-- When such an instruction is the one its core issues now and its effective predicate is true, the firing consumes its tokens,
is counted, writes DST and routes the result: ADD, SUB and MUL of integers wrap modulo 2^32 and of FP32 round the exact result
once (R180, R181); FMA rounds A × B + d once; MIN and MAX take the lesser and the greater (R182); CVT converts with SAT as it
saturates; KEY maps to a key with NAN for a NaN (R187); SFN gives the special function. -/
def Obligations.ScalarArithmeticFires : Prop :=
  ∀ (s : State) (p k idx tag : Nat) (f : Fire), f.eff = true →
    let x := intOf f.i.fmt f.a
    let y := intOf f.i.fmt f.b
    let u := flOf 8 f.a
    let v := flOf 8 f.b
    let round := fun z => res (flBits 8 z false false).1
    (s.fireOf p k idx tag 0x04 = some f →
      (f.i.fmt ≠ 8 → s.firesWith (.opAdd p k idx tag) f (res (unsigned 32 (x + y)))) ∧
      (f.i.fmt = 8 → s.firesWith (.opAdd p k idx tag) f (round (flSum [u, v])))) ∧
    (s.fireOf p k idx tag 0x05 = some f →
      (f.i.fmt ≠ 8 → s.firesWith (.opSub p k idx tag) f (res (unsigned 32 (x - y)))) ∧
      (f.i.fmt = 8 → s.firesWith (.opSub p k idx tag) f (round (flSum [u, flNeg v])))) ∧
    (s.fireOf p k idx tag 0x06 = some f →
      (f.i.fmt ≠ 8 → s.firesWith (.opMul p k idx tag) f (res (unsigned 32 (x * y)))) ∧
      (f.i.fmt = 8 → s.firesWith (.opMul p k idx tag) f (round (flMul u v)))) ∧
    (s.fireOf p k idx tag 0x07 = some f → s.firesWith (.opMin p k idx tag) f (res (minMax false f.i.fmt f.a f.b))) ∧
    (s.fireOf p k idx tag 0x08 = some f → s.firesWith (.opMax p k idx tag) f (res (minMax true f.i.fmt f.a f.b))) ∧
    (s.fireOf p k idx tag 0x0F = some f →
      s.firesWith (.opFma p k idx tag) f (round (flSum [flMul u v, flOf 8 (f.prior.toNat % 2 ^ 32)]))) ∧
    (s.fireOf p k idx tag 0x10 = some f →
      let r := cvt f.i.fmt f.i.sb (f.i.md.testBit 0) (f.i.md.testBit 1) (f.a % 2 ^ fmtWidth f.i.fmt)
      s.firesWith (.opCvt p k idx tag) f { val := vecOf r.1, sat := r.2 }) ∧
    (s.fireOf p k idx tag 0x11 = some f →
      let r := keyOf f.i.fmt (f.a % 2 ^ (8 * keyWidth f.i.fmt))
      s.firesWith (.opKey p k idx tag) f { val := vecOf r.1, nan := r.2 }) ∧
    (s.fireOf p k idx tag 0x12 = some f → s.firesWith (.opSfn p k idx tag) f (res (sfn32 f.i.sb f.a)))

/-- CMP, VCMP and MIN, MAX, VMIN, VMAX use one comparison and one extremum a value or element. In the floating-point formats a
comparison with a NaN is EQ false, NE true, LT false and GE false, and the zeros compare equal; the extrema order minus zero
below plus zero, return the other operand of one NaN and the canonical NaN of two. Integer comparisons are signed for INT8 to
INT32 and unsigned for U32. -/
def Obligations.ComparisonsAndExtrema : Prop :=
  (∀ (mx : Bool) (f : Fire), resCmp f = res (if condOf f.i.md f.i.fmt f.a f.b then 1 else 0) ∧
    resMinMax mx f = res (minMax mx f.i.fmt f.a f.b) ∧
    ∀ j, j < 512 / fmtWidth f.i.fmt →
      elem (resVcmp f).val (fmtWidth f.i.fmt) j = (if condOf f.i.md f.i.fmt (elem f.va (fmtWidth f.i.fmt) j)
        (elem f.vb (fmtWidth f.i.fmt) j) then 2 ^ fmtWidth f.i.fmt - 1 else 0) ∧
      elem (resVminMax mx f).val (fmtWidth f.i.fmt) j =
        minMax mx f.i.fmt (elem f.va (fmtWidth f.i.fmt) j) (elem f.vb (fmtWidth f.i.fmt) j) % 2 ^ fmtWidth f.i.fmt) ∧
  (∀ f a b : Nat, isFp f = true →
    (flOf f a = .nan ∨ flOf f b = .nan →
      condOf 0 f a b = false ∧ condOf 1 f a b = true ∧ condOf 2 f a b = false ∧ condOf 3 f a b = false) ∧
    (∀ m n e g, flOf f a = .fin m 0 e → flOf f b = .fin n 0 g →
      condOf 0 f a b = true ∧ condOf 1 f a b = false ∧ condOf 2 f a b = false ∧ condOf 3 f a b = true) ∧
    (a < 2 ^ fmtWidth f → b < 2 ^ fmtWidth f →
      (∀ e g, flOf f a = .fin true 0 e → flOf f b = .fin false 0 g →
        minMax false f a b = a ∧ minMax false f b a = a ∧ minMax true f a b = b ∧ minMax true f b a = b) ∧
      (∀ mx, flOf f a = .nan → flOf f b ≠ .nan → minMax mx f a b = b ∧ minMax mx f b a = b) ∧
      (∀ mx, flOf f a = .nan → flOf f b = .nan → minMax mx f a b = canonNan f))) ∧
  (∀ f a b : Nat, f = 1 ∨ f = 2 ∨ f = 3 →
    (condOf 0 f a b = true ↔ signed (fmtWidth f) a = signed (fmtWidth f) b) ∧ (condOf 1 f a b = !condOf 0 f a b) ∧
    (condOf 2 f a b = true ↔ signed (fmtWidth f) a < signed (fmtWidth f) b) ∧ (condOf 3 f a b = !condOf 2 f a b)) ∧
  (∀ a b : Nat, a < 2 ^ 32 → b < 2 ^ 32 →
    (condOf 0 9 a b = true ↔ a = b) ∧ (condOf 1 9 a b = true ↔ a ≠ b) ∧ (condOf 2 9 a b = true ↔ a < b) ∧
    (condOf 3 9 a b = true ↔ b ≤ a))

/-- When such an instruction is the one its core issues now and its effective predicate is true (VSEL fires either way), the
firing consumes its tokens, is counted, writes DST and routes the result. VMOV and VSEL take a source, VAND, VOR and VXOR act
on 512 bits; VADD, VSUB and VMUL compute each element by its format, saturating an integer with SAT unless it goes to a
context register (R180, R185); VMIN, VMAX and VCMP act on each element (R182), VSFN gives the special function of each; VBCAST
puts the low bits of A in every element, VEXT sign-extends one element, and VINS replaces one and keeps the others. -/
def Obligations.VectorsFireElementwise : Prop :=
  ∀ (s : State) (p k idx tag : Nat) (f : Fire),
    let w := fmtWidth f.i.fmt
    let ea := elem f.va w
    let eb := elem f.vb w
    let each := fun (c : Instr) (g : Nat → Nat × Bool) => ∃ r : Res, s.firesWith c f r ∧ r.nan = false ∧
      (r.sat = true ↔ ∃ j, j < 512 / w ∧ (g j).2 = true) ∧ ∀ j, j < 512 / w → elem r.val w j = (g j).1 % 2 ^ w
    (s.fireOf p k idx tag 0x21 = some f →
      s.firesWith (.opVsel p k idx tag) f { val := if f.eff then f.va else f.vb }) ∧
    (f.eff = true →
      (s.fireOf p k idx tag 0x20 = some f → s.firesWith (.opVmov p k idx tag) f { val := f.va }) ∧
      (s.fireOf p k idx tag 0x27 = some f → s.firesWith (.opVand p k idx tag) f { val := f.va &&& f.vb }) ∧
      (s.fireOf p k idx tag 0x28 = some f → s.firesWith (.opVor p k idx tag) f { val := f.va ||| f.vb }) ∧
      (s.fireOf p k idx tag 0x29 = some f → s.firesWith (.opVxor p k idx tag) f { val := f.va ^^^ f.vb }) ∧
      (s.fireOf p k idx tag 0x22 = some f →
        each (.opVadd p k idx tag) (fun j => elemArith 0 f.i.fmt f.wraps (ea j) (eb j))) ∧
      (s.fireOf p k idx tag 0x23 = some f →
        each (.opVsub p k idx tag) (fun j => elemArith 1 f.i.fmt f.wraps (ea j) (eb j))) ∧
      (s.fireOf p k idx tag 0x24 = some f →
        each (.opVmul p k idx tag) (fun j => elemArith 2 f.i.fmt f.wraps (ea j) (eb j))) ∧
      (s.fireOf p k idx tag 0x25 = some f → each (.opVmin p k idx tag) (fun j => (minMax false f.i.fmt (ea j) (eb j), false))) ∧
      (s.fireOf p k idx tag 0x26 = some f → each (.opVmax p k idx tag) (fun j => (minMax true f.i.fmt (ea j) (eb j), false))) ∧
      (s.fireOf p k idx tag 0x2C = some f →
        each (.opVcmp p k idx tag) (fun j => (if condOf f.i.md f.i.fmt (ea j) (eb j) then 2 ^ w - 1 else 0, false))) ∧
      (s.fireOf p k idx tag 0x2F = some f → each (.opVsfn p k idx tag) (fun j => (sfnElem f.i.sb f.i.fmt (ea j), false))) ∧
      (s.fireOf p k idx tag 0x32 = some f → each (.opVbcast p k idx tag) (fun _ => (f.a, false))) ∧
      (s.fireOf p k idx tag 0x31 = some f →
        s.firesWith (.opVext p k idx tag) f (res (unsigned 32 (signed w (ea f.i.x))))) ∧
      (s.fireOf p k idx tag 0x30 = some f → f.i.x < 512 / w →
        each (.opVins p k idx tag) (fun j => (if j = f.i.x then f.b else ea j, false))))

/-- When such an instruction is the one its core issues now and its effective predicate is true, the firing consumes its tokens,
is counted, writes DST and routes the result of the dot product on the value DST held (R183), the reduction of the sixteen
elements (R184), the conversion of the elements of one part (R180), or the keys of the elements with NAN when one is a NaN
(R187). -/
def Obligations.VectorReductionsAndConversionsFire : Prop :=
  ∀ (s : State) (p k idx tag : Nat) (f : Fire), f.eff = true →
    (s.fireOf p k idx tag 0x2A = some f →
      let r := vdot f.i.fmt f.wraps f.prior f.va f.vb
      s.firesWith (.opVdot p k idx tag) f { val := r.1, sat := r.2 }) ∧
    (s.fireOf p k idx tag 0x2B = some f →
      let r := vred f.i.md f.i.fmt f.va
      s.firesWith (.opVred p k idx tag) f { val := vecOf r.1, sat := r.2 }) ∧
    (s.fireOf p k idx tag 0x2D = some f → s.firesWith (.opVcvt p k idx tag) f (resVcvt f) ∧
      ((resVcvt f).sat = true ↔ ∃ j, j < 512 / max (fmtWidth f.i.fmt) (fmtWidth f.i.sb) ∧
        (cvt f.i.fmt f.i.sb (f.i.md.testBit 0) (f.i.md.testBit 1) (elem f.va (fmtWidth f.i.fmt)
          (f.i.x % 8 * (512 / max (fmtWidth f.i.fmt) (fmtWidth f.i.sb)) + j))).2 = true)) ∧
    (s.fireOf p k idx tag 0x2E = some f → s.firesWith (.opVkey p k idx tag) f (resVkey f) ∧ (resVkey f).sat = false)

/-- Of every instruction that writes DST, the two selections apart, a firing whose effective predicate is false consumes its
tokens and is counted, writes no register, and routes the value DST held, with no flag of its own; a firing whose predicate is
true writes and routes its result (R174). -/
def Obligations.FalsePredicateKeepsTheDestination : Prop :=
  ∀ (o : Nat) (c : Nat → Nat → Nat → Nat → Instr) (g : Fire → Res), (o, c, g) ∈ coreWriters →
    ∀ (s : State) (p k idx tag : Nat) (f : Fire), s.fireOf p k idx tag o = some f →
      (f.eff = false → exec (c p k idx tag) s =
        .next (s.noteFiring ((s.fired f).sendRoutes f f.prior false false f.i.routes) f)) ∧
      (f.eff = true → s.firesWith (c p k idx tag) f (g f))

/-- When such an instruction is the one its core issues now and its effective predicate is true, the firing consumes its tokens,
is counted and kept as the core's last one, and: LD and VLD read 4 and 64 bytes at the address rounded down to that width and
send them to queue 0x1E; ST and VST write the low 4 and all 64 bytes of B there (R188); LUT writes the entry of its table that
A selects to DST, sign-extended of the integer formats below 32 bits (R178); DMA within range and granted puts one transfer on
its way, and otherwise posts MEM_RANGE, makes the verdict bad and completes at once (R189, R340); FEVAL of a version with a
stationary copy in service puts the evaluation of its sample on its way, and of one with none, or no version, a result of
zeros with BAD (R105, R106, R190). An address out of range reads as zeros, makes the message's verdict bad and posts
MEM_RANGE. The routes of ST and VST carry a value of the operands that the spec does not give (Config.storeRoute, log 15), and
the second route of DMA and FEVAL takes their response (R173). -/
def Obligations.CoreMemoryInstructionsFire : Prop :=
  ∀ (s : State) (p k idx tag : Nat) (f : Fire), f.eff = true →
    let s1 := s.fired f
    let at0 := fun (n : Nat) => (f.a + f.i.x) % 2 ^ 32 / n * n
    let done := fun (c : Instr) (t : State) => exec c s = .next (s.noteFiring t f)
    (∀ a n, s1.standAddr f.hm f.p a n = none → s1.standRead f a n = (s1.memRange f a, List.replicate n 0, f)) ∧
    (s.fireOf p k idx tag 0x15 = some f →
      let r := s1.standRead f (at0 4) 4
      done (.opLd p k idx tag) (r.1.sendTok p 0x1E f.runId (r.2.2.tokOut (vecOf (leVal r.2.1)) false false f.i.tgt f.i.side))) ∧
    (s.fireOf p k idx tag 0x33 = some f →
      let r := s1.standRead f (at0 64) 64
      done (.opVld p k idx tag) (r.1.sendTok p 0x1E f.runId (r.2.2.tokOut (vecOf (leVal r.2.1)) false false f.i.tgt f.i.side))) ∧
    (s.fireOf p k idx tag 0x16 = some f →
      done (.opSt p k idx tag) ((s1.standWrite f (at0 4) (leBytes 4 f.vb.toNat)).sendRoutes f
        (vecOf (Config.storeRoute 0x16 f.a f.vb.toNat)) false false f.i.routes)) ∧
    (s.fireOf p k idx tag 0x34 = some f →
      done (.opVst p k idx tag) ((s1.standWrite f (at0 64) (leBytes 64 f.vb.toNat)).sendRoutes f
        (vecOf (Config.storeRoute 0x34 f.a f.vb.toNat)) false false f.i.routes)) ∧
    (s.fireOf p k idx tag 0x13 = some f →
      let w := fmtWidth f.i.fmt / 8
      let i := if f.i.md = 1 then (max 0 (min 255 (signed 32 f.a))).toNat else f.a % 256
      (f.i.x * 64 + 256 * w ≤ 65536 - (f.hm.v.crec f.hm.i).ext →
        let r := s1.standRead f (f.i.x * 64 + i * w) w
        let v := leVal r.2.1
        done (.opLut p k idx tag)
          (r.1.writeResult r.2.2 (res (if f.i.fmt = 1 ∨ f.i.fmt = 2 then unsigned 32 (signed (8 * w) v) else v)))) ∧
      (65536 - (f.hm.v.crec f.hm.i).ext < f.i.x * 64 + 256 * w →
        done (.opLut p k idx tag) ((s1.memRange f (f.i.x * 64)).writeResult f (res 0)))) ∧
    (s.fireOf p k idx tag 0x17 = some f →
      let dev := f.a * 64
      let len := f.b / 65536 * 64
      let sa := f.b % 65536 * 64
      let wr := f.i.md.testBit 0
      let tok := fun (n : Nat) => { f.tokOut (vecOf n) false false f.i.tgt f.i.side with tag := f.tag }
      let now := fun (t : State) =>
        (t.sendTok p 0x1E f.runId (tok (len / 64))).sendSinks f.runId (tok (len / 64)) (t.sinks f)
      (∀ o, s1.standAddr f.hm p sa len = some o → s1.granted f.hm.h dev len wr = true → dev + len ≤ dramEnd →
        let x : StandDma := { core := p, slot := k, run := f.runId, tag := f.tag, tgt := f.i.tgt, side := f.i.side, nan := (tok 0).nan
                              sat := (tok 0).sat, bad := (tok 0).bad, toDram := wr, dev := dev, sram := o, own := decide (sa < 65536)
                              len := len, also := s1.sinks f }
        done (.opDma p k idx tag) { s1 with dmas := Tbl.put s1.dmas (freshKey s1.dmas) x }) ∧
      (∀ o, s1.standAddr f.hm p sa len = some o → s1.granted f.hm.h dev len wr = false ∨ dramEnd < dev + len →
        done (.opDma p k idx tag) (now (s1.memRange f (dev / 64)))) ∧
      (s1.standAddr f.hm p sa len = none →
        done (.opDma p k idx tag) (now (s1.memRange f sa)))) ∧
    (s.fireOf p k idx tag 0x18 = some f →
      let rc := fevalRec f.hm.v.image f.hm.v.prog (f.i.fmt % 8)
      let ver := s1.fevalVer f.hm.v f.run (f.i.fmt % 8)
      (∀ v cn, ver = some v → v.fevalCopy (p / 1224) = some cn → v.stationary = true →
        let sm := (s1.rewriteLanes v (some cn.1)).fevalSample f v.forest.width
        ∃ t x, exec (.opFeval p k idx tag) s = .next t ∧ t.fevals = Tbl.put sm.1.fevals (freshKey sm.1.fevals) x ∧
          x.handle = rc.1 ∧ x.version = v.number ∧ x.atTick = s1.time.tick ∧ x.latency = rc.2.2 ∧ x.run = f.runId ∧
          x.copy = some cn.1 ∧ x.also = s1.sinks f ∧ x.payloads = (evalForest v.image v.forest (sampleKey sm.2.1)).tokens) ∧
      (ver = none ∨ (∃ v, ver = some v ∧ (v.fevalCopy (p / 1224) = none ∨ v.stationary = false)) →
        ∃ t x, exec (.opFeval p k idx tag) s = .next t ∧ t.fevals = Tbl.put s1.fevals (freshKey s1.fevals) x ∧
          x.run = f.runId ∧ x.bad = true ∧ x.payloads = List.replicate (fevalToks ver) 0))

/-- SEQ_TOKEN_ADMIT: a ready token that may leave the bucker, whose copy admits it with none ahead, starts a run at the context's
position, counted and taking a credit; one without admission waits in its handle's queue (R201). SEQ_STEP_BOUNDARY: STEP ticks
after an admission the position advances; at a multiple of CKPT_INTERVAL a capture falls due; at the last position tokens that
wait get TOO_LARGE (R199, R203). CREDIT_EARN: credit n is earned n ÷ GRATE s after the opening, not before, and at most 2 are
held. CHECKPOINT_CAPTURE: with a free staging buffer a due capture stages the copy's state, in generation with the step's
block; CHECKPOINT_WRITE_DONE: the oldest staged state enters slot C / CKPT_INTERVAL mod 2 and may promote the rollback point,
waiting while that slot holds the one in force. ROLLBACK of a generation context in fast mode ends it and posts the rollback
position, in Exact mode silences the steps run again (R209); of a conversation's context it returns to the rollback point,
drops its runs, sets the conversation back, puts back the token at that position, ends those above whose reply has gone and
answers the others (R205). RESTORE_DONE writes the rollback state to a copy in service and the context goes on, re-homes it
where its copy is out of service, and closes it where no place or checkpoint is left, reporting an uncorrectable word of the
checkpoint's POOL (R205, R206, R342). GSTART opens a generation context with the prime block as rollback state; GSTOP stops it
at the next boundary; SCLOSE closes one that does not roll back and answers waiting tokens STALE_MESSAGE; each answers
ERR_PARAM for a field out of range (R207, R210, R211). GEN_STEP: a due step starts a run with the stamp and mode of its
scheduled time, counts LATE a tick or more late, and the first past those run again posts GEN_RECOVERED; GEN_FRAME_EMIT: a
step with its result gives a reply through the gate for the destination of its scheduled time's configuration (R207 to R209,
R306). -/
def Obligations.SequencesAdmitCheckpointAndGenerate : Prop :=
  ∀ (s s1 : State) (i n k : Nat),
    (∀ m x v cp, s.leaving n = some (s1, m) → m.ctx = some k → Tbl.find s1.ctxs k = some x → s1.ctxHome x = some (v, cp) →
      s1.tokReady n = true →
      (s1.admits = true → s1.copyAdmits x.handle v x.copy cp m.exact = true → s1.tokenAhead m x = false →
        let s2 := s1.setHandle m.target { s1.handle m.target with queue := (s1.handle m.target).queue.filter (· != n) }
        let s3 := s2.startRun x.handle v x.copy cp (some n) (some k) x.p m.exact
          (m.descIn (some (x.p, x.cslot, stepSeed 0 x.p))) m.org.data (sampleKey m.sample)
        let y := { x with lastTick := some s1.time.tick, credits := x.credits - 1, openPos := x.openPos ++ [x.p] }
        exec (.seqTokenAdmit n) s = .next (((s3.setMsg n { m with stage := .running }).setCtx k y).count
          (Reg.SEQ_CNT_TOKENS (k / 4096)))) ∧
      (s1.admits = false ∨ s1.copyAdmits x.handle v x.copy cp m.exact = false ∨ s1.tokenAhead m x = true →
        exec (.seqTokenAdmit n) s = .next (s1.arrayQueue n m v .waiting))) ∧
    (∀ x v rid r, Tbl.find s.ctxs k = some x → s.runs.find? (fun r => r.2.ctx == some k && !r.2.stepped) = some (rid, r) →
      (s.handle x.handle).ver x.version = some v → x.rolling = false → x.state ≠ 3 → r.atTick + v.prog.step ≤ s.time.tick →
      let s2 := (s.setRun rid { r with stepped := true }).setCtx k { x with
        p := r.pos + 1, capDue := x.capDue || (r.pos + 1) % v.prog.ckpt == 0 }
      (r.pos + 1 ≠ 0xFFFFFFFF → exec (.seqStepBoundary k) s = .next s2) ∧
      (r.pos + 1 = 0xFFFFFFFF → exec (.seqStepBoundary k) s = .next
        ((s2.msgs.filter (fun m => m.2.ctx == some k && m.2.stage == .waiting)).foldl
          (fun s m => s.answerMsg m.1 stTooLarge 0 (maxLen m.2.org)) s2))) ∧
    (∀ x v cp, Tbl.find s.ctxs k = some x → s.ctxHome x = some (v, cp) →
      ((x.earned + 1) * 1000000000 ≤ (s.time.raw - x.earnFrom) * v.prog.grate →
        exec (.creditEarn k) s = .next (s.setCtx k { x with credits := min 2 (x.credits + 1), earned := x.earned + 1 })) ∧
      ((s.time.raw - x.earnFrom) * v.prog.grate < (x.earned + 1) * 1000000000 → exec (.creditEarn k) s = .next s)) ∧
    (∀ x v cp, Tbl.find s.ctxs k = some x → s.ctxHome x = some (v, cp) → x.capDue = true → x.rolling = false →
      sumBy (fun y => y.2.staged.length) (s.copyCtxs x.handle x.version x.copy) < 2 ^ v.prog.stageLog2 →
      (x.gen.isSome = true → s.runs.any (fun r => r.2.ctx == some k) = false) →
      let data := s.readCtx v cp x.cslot ++ (match x.gen with | some g => [g.block] | none => [])
      exec (.checkpointCapture k) s = .next (s.setCtx k { x with staged := x.staged ++ [(x.p, data)], capDue := false })) ∧
    (∀ x v cp c data rest, Tbl.find s.ctxs k = some x → s.ctxHome x = some (v, cp) → x.staged = (c, data) :: rest →
      ((∀ e, Tbl.find x.slots (c / v.prog.ckpt % 2) = some e → e.1 = x.rb → x.rb = c) →
        exec (.checkpointWriteDone k) s = .next ((s.setCtx k { x with
          staged := rest, written := x.written ++ [c], slots := Tbl.put x.slots (c / v.prog.ckpt % 2) (c, data) }).promote k)) ∧
      (∀ e, Tbl.find x.slots (c / v.prog.ckpt % 2) = some e → e.1 = x.rb → x.rb ≠ c →
        exec (.checkpointWriteDone k) s = .next s)) ∧
    (∀ x, Tbl.find s.ctxs k = some x → x.rolling = true → x.state ≠ 3 →
      let y := { x with state := 3, p := x.rb, staged := [], written := [], capDue := false, lastTick := none,
                        openPos := x.openPos.filter (fun p => decide (p < x.rb)) }
      let s2 := ((s.dropRuns k x).setCtx k y).count (Reg.SEQ_CNT_ROLLBACK (k / 4096))
      (x.gen.isSome = true → s.exact = false → exec (.rollback k) s = .next ((s2.ctxOver k y false).post 0 9 [(x.rb, 32)])) ∧
      (∀ g, x.gen = some g → s.exact = true → exec (.rollback k) s = .next (s2.setCtx k { y with gen := some { g with
        silentTo := some (max x.failed (g.silentTo.getD 0)), lateNow := true
        emits := g.emits.filter (fun e => decide (e.pos < x.failed)) } })) ∧
      (x.gen = none → ∀ c, x.conv = some c → exec (.rollback k) s = .next (State.settle
        ((((s2.convRollback c x.rb).msgs.filter (fun m => m.2.ctx == some k)).map (fun m => (m.1, m.2.org.desc.sq, m.2.gone))).foldl
          (fun s t => if t.2.1 = x.rb ∨ t.2.2 = true then (if x.rb ≤ t.2.1 then s.putBack t.1 else s)
            else s.answerRolled t.1 k y) (s2.convRollback c x.rb))))) ∧
    (∀ x v cp readable, Tbl.find s.ctxs k = some x → x.state = 3 → s.ctxHome x = some (v, cp) →
      let dark := x.rb ≠ 0 ∧ (readable = false ∨ (x.cause ≠ 5 ∧ (s.die (k / 4096)).lost = true))
      (dark → exec (.restoreDone ⟨k, readable⟩) s =
        .next (((if (s.die (k / 4096)).lost then s else s.poolUe (k / 4096)).ctxFinal k).ctxSettle k)) ∧
      (¬dark → cp.out = false → exec (.restoreDone ⟨k, readable⟩) s = .next ((s.restoreAt k x v cp).ctxSettle k)) ∧
      (¬dark → cp.out = true →
        (∀ t, s.rehome k x v = some t → exec (.restoreDone ⟨k, readable⟩) s = .next (t.ctxSettle k)) ∧
        (s.rehome k x v = none → exec (.restoreDone ⟨k, readable⟩) s = .next ((s.ctxFinal k).ctxSettle k)))) ∧
    (∀ c, s.takeCmd i 0x21 = some (c, s1) →
      let d := c.desc
      let h := leAt d 4 2
      let prime := leAt d 40 8
      (s.gstartBad d = true → exec (.gstart i) s = .next (s1.seqFinish d 1 0 none)) ∧
      (∀ v cn cp, s.gstartBad d = false → (s.handle h).serving = some v → v.kind = 2 → (s.handle h).loading = false →
        s.jrnlRefuses = false → max v.prog.step v.prog.depth * 256 ≤ leAt d 8 4 →
        s.pickCopy h v (max v.prog.grate (64000000000 / max 1 (leAt d 8 4))) = some (cn, cp) →
        (prime = 0 ∨ (s.anyUe prime v.prog.resLen = false ∧ s.anyUnmapped prime v.prog.resLen = false)) →
        let s1 := if prime = 0 then s1 else s1.mirrorHeal prime v.prog.resLen
        ∃ g k2 s2 s3, s1.openCtx h v cn cp none (some g) = (k2, s2) ∧ g.seed = leAt d 16 8 ∧ g.interval = leAt d 8 4 ∧
          g.count = leAt d 12 4 ∧ g.dest = byteAt d 7 ∧ g.template = byteAt d 6 ∧
          g.block = (if prime = 0 then List.replicate v.prog.resLen 0 else s.devRead prime v.prog.resLen) ∧
          s3 = { s2 with ctxs := Tbl.modify s2.ctxs k2 (fun x => { x with
            slots := [(0, (0, List.replicate v.prog.nstands [] ++ [g.block]))] }) } ∧
          exec (.gstart i) s = .next (s3.seqFinish d 0 k2 (Tbl.find s3.ctxs k2)))) ∧
    (∀ c, s.takeCmd i 0x22 = some (c, s1) →
      let j := leAt c.desc 2 2
      (seqCmdBad c.desc = true → exec (.gstop i) s = .next (s1.seqFinish c.desc 1 j none)) ∧
      (∀ x g, seqCmdBad c.desc = false → Tbl.find s.ctxs j = some x → x.gen = some g → x.handle = leAt c.desc 4 2 →
        x.rolling = false → (s.handle x.handle).loading = false → s.jrnlRefuses = false →
        exec (.gstop i) s = .next ((s1.setCtx j { x with
          gen := some { g with stopping := true, stopRecs := g.stopRecs ++ [leAt c.desc 48 8] } }).genEnd j))) ∧
    (∀ c, s.takeCmd i 0x23 = some (c, s1) →
      let j := leAt c.desc 2 2
      let waits := (s1.msgs.filter (fun m => m.2.ctx == some j && m.2.stage == .waiting && (s1.runOfSlot m.1).isNone)).map (·.1)
      let told := waits.foldl (fun s n => match Tbl.find s.msgs n with
        | some m => s.answerMsg n stStaleMessage 0 (s.staleInfo m.org.desc) | none => s) s1
      (seqCmdBad c.desc = true → exec (.sclose i) s = .next (s1.seqFinish c.desc 1 j none)) ∧
      (∀ x, seqCmdBad c.desc = false → Tbl.find s.ctxs j = some x → x.handle = leAt c.desc 4 2 → x.rolling = false →
        (s.handle x.handle).loading = false → s.jrnlRefuses = false →
        exec (.sclose i) s = .next ((((told.closeCtx j).ctxSettle j).seqFinish c.desc 0 j (some x)).settle))) ∧
    (∀ x g v cp t, Tbl.find s.ctxs k = some x → x.gen = some g → s.ctxHome x = some (v, cp) → g.due x.p = some t → x.state = 2 →
      g.done x.p = false → t ≤ s.time.tick * 256 → x.free v s.time.tick = true → s.runs.any (fun r => r.2.ctx == some k) = false →
      s.admits = true → s.copyAdmits x.handle v x.copy cp (s.exactAt t) = true →
      let late := decide (t + 256 ≤ s.time.tick * 256)
      let loud := decide (g.silentTo.getD 0 ≤ x.p)
      let back := loud && g.silentTo.isSome
      let dsc : DescIn := { d := { model := some x.handle, seq := some x.p }, ver := x.version, nan := false, lport := 0
                            stamp := s.stampTick t, metadata := [], seq := some (x.p, x.cslot, stepSeed g.seed x.p) }
      let s2 := s.startRun x.handle v x.copy cp none (some k) x.p (s.exactAt t) dsc g.block (fun _ => 0)
      let s3 := (s2.setCtx k { (x.enter s.time.tick x.p) with gen := some { g with
        lateNow := late, silentTo := if back then none else g.silentTo } }).count (Reg.SEQ_CNT_TOKENS (k / 4096))
      let s4 := if late && loud then s3.count (Reg.SEQ_CNT_LATE (k / 4096)) else s3
      exec (.genStep k) s = .next (if back then s4.post 0 8 [] else s4)) ∧
    (∀ x g e rest d, Tbl.find s.ctxs k = some x → x.gen = some g → g.emits = e :: rest →
      entryDest (s.cfgFor (s.stampTick ((g.due e.pos).getD 0))) g.dest = some d →
      ∃ r : Reply, r.res = e.res ∧ r.nan = e.nan ∧ r.sat = e.sat ∧ r.late = e.late ∧ r.warn = e.warn ∧ r.position = e.pos ∧ r.genCtx = some k ∧ r.tmpl = some g.template ∧
        r.version = x.version ∧ r.org.desc.seq = none ∧ exec (.genFrameEmit k) s =
          .next ((((s.setCtx k { x with gen := some { g with emits := rest } }).addReply r).posGood k e.pos).genOver k))

/-- A complete reduction frame with good verdicts whose operation is VALID and whose exactness the plan can give takes its effect
in the epoch it names, whether that epoch is open or the frame opens it (R226, R228). BOOM_DATA of a contributor of this
member with the epoch's digest, length and segments: each segment is worked in once, duplicates are counted, and the answer is
an outcome block that reports them (R229). ABANDON: acknowledged with the epoch's flags, and ABANDONED is aborted with its
rank; of a wrong length it is answered MALFORMED and LENGTH is aborted with its rank (R230, Table 9-8). After the decision
both are answered with the outcome. PART and GATH that fit the plan: each segment is worked in once, and over the host path
the epoch is degraded (R220, R222, R229). HAVE_MSG: the peer is recorded and the decision tried; DECIDE: the outcome it
carries applies; ABORT: the coordinator takes it, with the flags of its outcome block (R222, R230). A peer frame over the host
path is remembered and acknowledged; one received before is acknowledged and dropped (R231). BOOM_QUERY with the right digest,
length and segments: PENDING, with the flags of its open epoch, before the decision, in a next epoch and in one it opens; the
decided outcome after it; the outcome kept of the epoch before (R227). BOOM_ACK: the frame it names is done, the next of its
hop goes, and the acknowledgement of the first DECIDE lets the others go out (R231). BOOM_BUSY_FRAME: the refused frame, on
the host path or on a neighbour port, is noted to wait; the wait is at least 2 RTO (R225). BOOM_BUSY_RETRY: after the wait
that frame goes again, on its own path. HOSTPATH_RESEND: after RTO an unacknowledged frame goes again and counts, and after
RETRY resends its member is lost (R231). MEMBER_TIMER_EXPIRE: at its time the member aborts TIMEOUT with the absent ranks;
COORD_TIMER_EXPIRE: the coordinator decides FAILED (R232). RETENTION_EXPIRE: RETAIN after the decision the results are
released (R227). -/
def Obligations.ReductionFramesAndTimersAct : Prop :=
  (∀ (s u : State) (n : Nat) (m : Msg) (f : BoomIn), s.boomIn n = some (m, f) → s.boomValid m f = true →
    ((s.boomJudge m f).unreduced = true → (s.boomJudge m f).ranks ≤ 256) →
    (f.kind < 0x10 → f.rank / (s.boomJudge m f).lcl = (s.boomJudge m f).me) →
    (∀ o, s.boomRow f.op f.epoch = .late → (s.boomJudge m f).outcome = some o →
      let e := s.boomJudge m f
      let t := (if o.ok then s.boomReply n stOk (outcomeBlock 0 0 f.op e.epoch f.seg f.nseg (1 + o.flags) []) o.nan o.sat
        else s.boomReply n (causeStatus o.cause) (o.block f.op e.epoch) o.nan o.sat).settle
      (f.kind = 1 → exec (.boomData n) s = .next t) ∧ (f.kind = 2 → exec (.abandon n) s = .next t)) ∧
    (s.boomRow f.op f.epoch = .use ∧ u = s ∨
      s.boomRow f.op f.epoch = .opens ∧ s.dozing = false ∧ s.holding = false ∧ s.boomOpen m.org f.op f.epoch = some u →
      let e := u.boomJudge m f
      f.ddig = e.ddig →
      (f.kind = 1 → (e.badLen f || ((e.kind == 2 && !(List.range f.nseg).all (fun i => (e.sliceOf f.rank).contains (f.seg + i))) ||
          (e.kind == 3 && f.nseg != 0 && f.rank != e.root))) = false →
        let e0 := { e with origins := Tbl.put e.origins f.rank (m.org, u.fcsOf m.frames) }
        let w := workSegs (fun _ _ => f.rank % e.lcl) (fun e g _ d => e.contribute f.rank g d) (e0.readSegs f f.nseg f.seg f.body) e0
        let fl := b2n (decide (0 < w.2.2)) + w.1.flags
        let s1 := u.boomReply n stOk (outcomeBlock 0 0 f.op e.epoch f.seg f.nseg fl []) w.1.nan w.1.sat
        exec (.boomData n) s = .next ((s1.countN Reg.BOOM_CNT_DUP w.2.2).boomWork f.op (w.1, w.2.1)).settle) ∧
      (f.kind = 2 → e.badLen f = true → exec (.abandon n) s = .next ((u.answerMsg n stMalformed 0 0).boomAbort f.op 1 [f.rank]).settle) ∧
      (f.kind = 2 → e.badLen f = false →
        let s1 := u.boomReply n stOk (outcomeBlock 0 0 f.op e.epoch f.seg 0 e.flags []) e.nan e.sat
        let s2 := s1.setEpoch f.op { e with origins := Tbl.put e.origins f.rank (m.org, u.fcsOf m.frames) }
        exec (.abandon n) s = .next (s2.boomAbort f.op 3 [f.rank]).settle) ∧
      (let had := Tbl.getD s.boom.seen f.peer []
        let acked := fun (t : State) =>
          if f.host then (State.ctlBack { t with boom.seen := Tbl.put t.boom.seen f.peer (f.pseq :: had) } m f 0x13).settle
          else t.settle
        (f.host = true → had.contains f.pseq = false) →
        (f.vlen = e.elems →
          let e1 := { e with haves := if e.haves.contains f.peer then e.haves else e.haves ++ [f.peer] }
          (f.kind = 0x14 → exec (.haveMsg n) s = .next (acked (((u.boomEnd n).setEpoch f.op e1).tryDecide f.op))) ∧
          (f.kind = 0x15 → exec (.decide n) s = .next (acked ((u.boomEnd n).boomApply f.op (readOutcome f)))) ∧
          (f.kind = 0x16 → exec (.abort n) s = .next (acked ((u.boomEnd n).coordAbort f.op f.cause (blockMissing f.body)
            (byteAt f.body 9))))) ∧
        (let e0 := { e with degraded := e.degraded || f.host };
          e0.badLen f = false → (∀ i, i < f.nseg → e0.takes (f.seg + i) f.axis f.dn f.dist = true) →
          let w := workSegs (fun _ r => feedBit f.dist f.axis f.dn r)
            (fun e g r d => if f.dist then e.distIn g f.axis f.dn d else e.reduceIn g f.axis f.dn r d)
            (e0.readSegs f f.nseg f.seg f.body) e0
          let t := acked (((u.boomEnd n).countN Reg.BOOM_CNT_DUP w.2.2).boomWork f.op (w.1, w.2.1))
          (f.kind = 0x11 → e0.adds = true → f.dist = false → exec (.part n) s = .next t) ∧
          (f.kind = 0x12 → f.dist = (f.dist || e0.adds) → exec (.gath n) s = .next t))))) ∧
  (∀ (s : State) (n : Nat) (m : Msg) (f : BoomIn), s.boomIn n = some (m, f) → f.host = true →
    (Tbl.getD s.boom.seen f.peer []).contains f.pseq = true →
    let t := ((s.ctlBack m f 0x13).boomEnd n).settle
    (f.kind = 0x11 → exec (.part n) s = .next t) ∧ (f.kind = 0x12 → exec (.gath n) s = .next t) ∧
    (f.kind = 0x14 → exec (.haveMsg n) s = .next t) ∧ (f.kind = 0x15 → exec (.decide n) s = .next t) ∧
    (f.kind = 0x16 → exec (.abort n) s = .next t)) ∧
  (∀ (s : State) (n : Nat) (m : Msg) (f : BoomIn), s.boomIn n = some (m, f) → f.kind = 3 → s.boomValid m f = true →
    ((s.boomJudge m f).unreduced = true → (s.boomJudge m f).ranks ≤ 256) →
    (s.queryJudged f = true → f.ddig = (s.boomJudge m f).ddig ∧ (s.boomJudge m f).badSpan f = false) →
    let pend := fun (s : State) =>
      let e := (s.boomEpoch f.op).filter (fun e => e.epoch == f.epoch)
      let has := fun (b : BoomEpoch → Bool) => (e.map b).getD false
      (s.boomReply n stOk (outcomeBlock 3 0 f.op f.epoch f.seg 0 ((e.map (·.flags)).getD 0) []) (has (·.nan)) (has (·.sat))).settle
    (∀ u, Tbl.find s.boom.ops f.op = none → s.dozing = false → s.holding = false → s.boomOpen m.org f.op f.epoch = some u →
      exec (.boomQuery n) s = .next (pend u)) ∧
    (∀ x, Tbl.find s.boom.ops f.op = some x →
      let d := (f.epoch + 65536 - x.cur.epoch) % 65536
      (d = 0 ∧ (x.cur.outcome = none ∨ x.cur.decided = false) ∨ d = 1 → exec (.boomQuery n) s = .next (pend s)) ∧
      (∀ o, d = 0 → x.cur.outcome = some o → x.cur.decided = true →
        exec (.boomQuery n) s = .next (s.queryDecided n m f x.cur o).settle) ∧
      (∀ o, 32768 ≤ d → x.prev = some (f.epoch, o) →
        exec (.boomQuery n) s =
          .next (s.boomReply n (if o.ok then stOk else causeStatus o.cause) (o.block f.op f.epoch) o.nan o.sat).settle))) ∧
  (∀ (s : State) (n : Nat) (m : Msg) (f : BoomIn), s.boomIn n = some (m, f) →
    let s0 := s.boomEnd n
    (f.kind = 0x13 →
      (s0.hostRec f.peer f.pseq = none → exec (.boomAck n) s = .next s0.settle) ∧
      (∀ x, s0.hostRec f.peer f.pseq = some x →
        let s1 := (s0.dropHost f.peer f.pseq).hopNext x.op x.hop
        (∀ e, s1.boomEpoch x.op = some e → e.waitAck = some (f.peer, f.pseq) →
          exec (.boomAck n) s = .next (s1.decideRest x.op f.peer).settle) ∧
        ((∀ e, s1.boomEpoch x.op = some e → e.waitAck ≠ some (f.peer, f.pseq)) → exec (.boomAck n) s = .next s1.settle))) ∧
    (f.kind = 0x17 →
      let was := fun (key : Option (Nat × Nat)) (b : Option BoomSent) =>
        s0.boom.refused.find? (fun r => r.2.op == f.op && r.2.epoch == f.epoch && r.2.host == key && r.2.sent == b)
      let times := fun (w : Option (Nat × BoomRefused)) => match w with | some r => r.2.count + 1 | none => 1
      let noted := fun (key : Option (Nat × Nat)) (b : Option BoomSent) =>
        let k := times (was key b)
        let id := match was key b with | some r => r.1 | none => leastFree s0.boom.refused
        { s0 with boom.refused := Tbl.put s0.boom.refused id ⟨f.op, f.epoch, key, m.org.lport, b, k, some (s.busyWait k)⟩ }
      (∀ x, f.host = true → s0.hostRec f.peer f.pseq = some x →
        let k := times (was (some (f.peer, f.pseq)) none)
        exec (.boomBusyFrame n) s = .next ((noted (some (f.peer, f.pseq)) none).setHost f.peer f.pseq
          { x with refused := k, busyTo := some (s.busyWait k) }).settle) ∧
      (∀ e b, f.host = false → s0.boomEpoch f.op = some e → e.epoch = f.epoch → s0.refusedFrame f e = some b →
        exec (.boomBusyFrame n) s = .next (noted none (some b)).settle))) ∧
  (∀ (s : State) (k : Nat), s.time.raw + 2 * s.cfg Reg.BOOM_TMR 7 0 * 1000 ≤ s.busyWait k) ∧
  (∀ (s : State) (id t : Nat) (r : BoomRefused), Tbl.find s.boom.refused id = some r → r.busyTo = some t → t ≤ s.time.raw →
    let s1 := { s with boom.refused := Tbl.put s.boom.refused id { r with busyTo := none } }
    (∀ m p x, r.host = some (m, p) → s.hostRec m p = some x →
      exec (.boomBusyRetry id) s = .next (s1.hostSendNow m p { x with busyTo := none })) ∧
    (∀ f e, r.host = none → r.sent = some f → s.boomEpoch r.op = some e → e.epoch = r.epoch → e.decided = false →
      exec (.boomBusyRetry id) s = .next (s1.nbrSend r.lport
        (boomRequest (boomBlock f.kind f.phase r.op e.epoch f.seg e.me e.elems e.ddig f.nseg 0 0) f.body)))) ∧
  (∀ (s : State) (op : Nat) (e : BoomEpoch), s.boomEpoch op = some e →
    (e.decided = false → s.boomWaiting op = false →
      (e.memberDone = false → e.memberAt ≤ s.time.raw →
        exec (.memberTimerExpire op) s = .next ((s.setEpoch op { e with memberDone := true }).boomAbort op 2 e.absent)) ∧
      (e.coordinator = e.me → e.coordAt ≤ s.time.raw →
        exec (.coordTimerExpire op) s = .next (s.boomDecide op false (e.cause.getD 2)))) ∧
    (e.decided = true → e.held = true → e.retainTo ≤ s.time.raw →
      exec (.retentionExpire op) s = .next (s.setEpoch op { e with held := false, segs := [], sent := [] }))) ∧
  (∀ (s : State) (m p : Nat) (x : BoomHost), s.hostRec m p = some x → x.out = true → x.busyTo = none →
    x.sentAt + s.cfg Reg.BOOM_TMR 7 0 * 1000 ≤ s.time.raw →
    (s.cfg Reg.BOOM_TMR 15 8 ≤ x.sends → exec (.hostpathResend m p) s = .next (s.memberLost m)) ∧
    (x.sends < s.cfg Reg.BOOM_TMR 15 8 →
      exec (.hostpathResend m p) s = .next ((s.count Reg.BOOM_CNT_RESEND).hostSendNow m p { x with sends := x.sends + 1 })))

/-- On a neighbour member with link up: a quarantined member counts and discards every link frame (R280); a member in service
drops one with a bad verdict and has NAK sent (R267). Once the link layer runs a good frame first gives its ACK and CRED
(R284). LINK_DATA_FRAME and VOID_FRAME with LSEQ = E are accepted and E advances, a VOID frame freeing its UNITS; one ahead of
E is dropped with a NAK, one behind is a duplicate and only its ACK and CRED act (Table 11-4). NAK_FRAME: every held frame
goes again, unless a retransmission from the frame its ACK names has yet to start; LINK_CTRL_FRAME: only ACK and CRED act
(R268). Each then lets frames that waited start. LINK_RESUME_FRAME: a member in service takes it up with the peer's ACK, CRED
and UNITS and the time it arrived; before the member is in service it is kept (R271). LINK_REPLAY_TIMEOUT: REPLAY_TO without
progress retransmits; NAK_REPEAT_TIMEOUT: another NAK may go; CTRL_KEEPALIVE: a CTRL frame goes out, or waits for its turn in
the third class (R32, R267, R268). LINK_DOWN: a link that is up goes down (R275). PFC_FRAME_RECEIVE: on a host-side port each
priority that has PFC and is enabled in the frame is paused, or released by a time of zero, others as before, and what waits
there is tried again; on a neighbour-side port it is counted and discarded (R261). PFC_PAUSE_END: the priority is no longer
paused and what waits is tried again (R32). -/
def Obligations.LinkFramesAreAcceptedInSequence : Prop :=
  (∀ (s : State) (f : LinkIn), epNbr s.regs.cfg f.eport = true → s.linkUp f.eport = true →
    let e := f.eport
    let all := fun (t : State) => exec (.linkDataFrame f) s = .next t ∧ exec (.voidFrame f) s = .next t ∧
      exec (.nakFrame f) s = .next t ∧ exec (.linkCtrlFrame f) s = .next t ∧ exec (.linkResumeFrame f.eport f.toLinkFrame) s = .next t
    ((s.ep e).state = 4 → all (s.count (Reg.PORT_CNT_DISCARD (e / 4)))) ∧
    (s.epServes e = true → linkBad f = true → all (s.sendNak e))) ∧
  (∀ (s : State) (f : LinkIn), epNbr s.regs.cfg f.eport = true → s.linkUp f.eport = true → (s.ep f.eport).state ≠ 4 →
    linkBad f = false →
    let e := f.eport
    let s1 := s.takeHeader f
    let d := (beAt f.bytes 2 2 + 65536 - (s1.ep e).expect) % 65536
    let next := fun (t : State) => t.setEp e { t.ep e with expect := ((t.ep e).expect + 1) % 65536, nak := none }
    let fin := fun (t : State) => (t.drainPort e).settle
    ((s.ep e).run = true →
      (byteAt f.bytes 0 = 2 →
        (d = 0 → exec (.linkDataFrame f) s = .next (fin ((next s1).accept f f.bytes))) ∧
        (0 < d → d < 32768 → exec (.linkDataFrame f) s = .next (fin (s1.sendNak e))) ∧
        (32768 ≤ d → exec (.linkDataFrame f) s = .next (fin s1))) ∧
      (byteAt f.bytes 0 = 8 →
        (d = 0 →
          let s2 := next s1
          let s3 := s2.setEp e { s2.ep e with freed := ((s2.ep e).freed + beAt f.bytes 14 2) % 2 ^ 32 }
          exec (.voidFrame f) s = .next (fin (s3.accept f []))) ∧
        (0 < d → d < 32768 → exec (.voidFrame f) s = .next (fin (s1.sendNak e))) ∧
        (32768 ≤ d → exec (.voidFrame f) s = .next (fin s1))) ∧
      (byteAt f.bytes 0 = 6 →
        let due := (s1.ep e).held.head?.any (fun h => (s1.ep e).wait.contains (.resend h.lseq))
        (due = false → exec (.nakFrame f) s = .next (fin (s1.retransmit e))) ∧
        (due = true → exec (.nakFrame f) s = .next (fin s1))) ∧
      (byteAt f.bytes 0 = 4 → exec (.linkCtrlFrame f) s = .next (fin s1))) ∧
    (byteAt f.bytes 0 = 10 →
      let at' := 16 * s.time.raw + f.sub
      (s.epServes e = true → exec (.linkResumeFrame f.eport f.toLinkFrame) s = .next
        ((s.resumed e (beAt f.bytes 4 2) (beAt f.bytes 6 4) (beAt f.bytes 14 2) at').watchAxes s).settle) ∧
      (s.epServes e = false →
        let q := { s.ep e with early := some (beAt f.bytes 4 2, beAt f.bytes 6 4, beAt f.bytes 14 2, at') }
        exec (.linkResumeFrame f.eport f.toLinkFrame) s = .next (s.setEp e q)))) ∧
  (∀ (s : State) (e prio : Nat),
    ((s.ep e).run = true → (s.ep e).held ≠ [] → (s.ep e).progressAt + s.replayTo ≤ s.time.raw →
      exec (.linkReplayTimeout e) s = .next (s.retransmit e)) ∧
    ((s.ep e).nak = some (s.ep e).expect → (s.ep e).nakAt + s.replayTo ≤ s.time.raw →
      exec (.nakRepeatTimeout e) s = .next (s.setEp e { s.ep e with nak := none })) ∧
    (epNbr s.regs.cfg e = true → s.epServes e = true → (s.ep e).run = true →
      (s.turn3 e none 60 = true → exec (.ctrlKeepalive e) s = .next (s.linkGo e (.ctl 4 0))) ∧
      (s.turn3 e none 60 = false → (s.ep e).wait.contains (.ctl 4 0) = false → exec (.ctrlKeepalive e) s =
        .next (s.setEp e { s.ep e with wait := (s.ep e).wait ++ [.ctl 4 0] }))) ∧
    (s.linkUp e = true → exec (.linkDown e) s = .next ((s.portDown e).watchAxes s).settle) ∧
    exec (.pfcPauseEnd e prio) s =
      .next ((s.setEp e { s.ep e with paused := (s.ep e).paused.filter (· != prio) }).flushWait e)) ∧
  (∀ (s : State) (e : Nat) (b : List Byte), s.linkUp e = true → (parseEth b).etype = 0x8808 →
    beAt b (parseEth b).l3 2 = 0x0101 →
    (epNbr s.regs.cfg e = true → exec (.pfcFrameReceive e b) s = .next (s.count (Reg.PORT_CNT_DISCARD (e / 4)))) ∧
    (epNbr s.regs.cfg e = false →
      ∃ ps, exec (.pfcFrameReceive e b) s = .next ((s.setEp e { s.ep e with paused := ps }).flushWait e) ∧ ∀ n, n < 8 →
        let on := (beAt b ((parseEth b).l3 + 2) 2).testBit n && (epPfc s.regs.cfg e).testBit n
        let time := beAt b ((parseEth b).l3 + 4 + 2 * n) 2
        (ps.contains n = if on then decide (time ≠ 0) else (s.ep e).paused.contains n)))

/-- LINK_UP from boot stage 5 on, on a port with lanes whose quad is not retired, puts a host-side port in service and a
neighbour-side port in discovery and sends its LLDP frame; LLDP_SEND: another goes out after every INTERVAL (R276, R278).
LLDP_RECEIVE: the frame becomes the port's peer and gives a neighbour-side port its link-layer version (R279, R285), and
SLICE_DIFFER and PLAN_DIFFER follow it (R281); an IDENTITY on a host-side port quarantines it UNPLANNED; a new or changed peer
on a neighbour-side port is checked against the plan (R278). PEER_EXPIRE: past its TTL the peer is forgotten and a neighbour-
side port with link up is quarantined NOPEER; NOPEER_TIMEOUT: so is one without an IDENTITY three intervals after link up,
with a journal entry and PORT_STATE (R276, R278, R280). The plan check gives the first reason of Table 11-7 that fails, shown
for its first rows. ADOPT waits for the next tick boundary behind the management commands that wait already (R22), and one
given while another waits is ignored (R283, R284); where it applies its status is kept, and after OK the plan's entry of the
direction that the peer faces changes in the committed and the shadow set and every port is checked again; either way it is
journaled and posts ADOPT_DONE; the first conditions of R283 are tried in order. -/
def Obligations.PortsDiscoverCheckAndAdopt : Prop :=
  (∀ (s : State) (e : Nat),
    (epLanes s.regs.cfg e ≠ 0 → s.linkUp e = false → 5 ≤ s.mgmt.stage → s.inMap ⟨6, 0xF, 0, 0, 0x100 + e / 4⟩ = false →
      let q := { s.ep e with state := if epNbr s.regs.cfg e then 2 else 3, reason := 0, upAt := s.time.raw }
      exec (.linkUp e) s = .next (State.lldpOut ((s.ptpFirst e).setEp e q) e)) ∧
    (s.linkUp e = true → (s.ep e).lldpAt + s.lldpEvery ≤ s.time.raw → exec (.lldpSend e) s =
      .next ((s.setEp e { s.ep e with lldpAt := s.time.raw }).send3 e none (s.lldpFrame e))) ∧
    ((s.ep e).peer.isSome = true → (s.ep e).ttl ≤ s.time.raw →
      let s1 := (s.setEp e { s.ep e with peer := none, ver := 0 }).differs e
      (epNbr s.regs.cfg e = true → s.linkUp e = true → exec (.peerExpire e) s = .next ((s1.quarantine e 1).watchAxes s).settle) ∧
      (epNbr s.regs.cfg e = false ∨ s.linkUp e = false → exec (.peerExpire e) s = .next s1)) ∧
    (epNbr s.regs.cfg e = true → (s.ep e).state = 2 →
      ((s.ep e).peer = none ∨ ∃ p, (s.ep e).peer = some p ∧ p.identity = none) →
      (s.ep e).upAt + 3 * s.lldpEvery ≤ s.time.raw →
      exec (.nopeerTimeout e) s = .next (((s.outOfService e 4 1).journal 5 1 e none 3).post 2 0 [(e, 8), (1, 8)]))) ∧
  (∀ (s : State) (e : Nat) (b : List Byte), s.linkUp e = true → (parseEth b).etype = 0x88CC →
    let p := (readTlvs b 64 (parseEth b).l3 ({}, 0)).1
    let ttl := (readTlvs b 64 (parseEth b).l3 ({}, 0)).2
    let ver := if epNbr s.regs.cfg e = true ∧ p.identity.isSome then (s.chosenVer p).getD 0 else (s.ep e).ver
    let s1 := (s.setEp e { s.ep e with peer := some p, ttl := s.time.raw + ttl * 1000000000, ver := ver }).differs e
    (epNbr s.regs.cfg e = false →
      (p.identity = none → exec (.lldpReceive e b) s = .next s1) ∧
      (p.identity.isSome = true → exec (.lldpReceive e b) s = .next (s1.quarantine e 2).settle)) ∧
    (epNbr s.regs.cfg e = true →
      ((s.ep e).peer = some p → exec (.lldpReceive e b) s = .next s1) ∧
      ((s.ep e).peer ≠ some p →
        let s2 := s1.recheck e
        let v := (s.chosenVer p).getD 0
        ((s.ep e).state ≠ 3 ∨ s2.epServes e = false ∨ (s.ep e).ver = v → exec (.lldpReceive e b) s = .next (s2.watchAxes s).settle) ∧
        ((s.ep e).state = 3 → s2.epServes e = true → (s.ep e).ver ≠ v →
          let s3 := s2.startFresh e
          exec (.lldpReceive e b) s =
            .next ((((s3.setEp e { s3.ep e with ver := v, run := false }).sendResume e 0).watchAxes s).settle))))) ∧
  (∀ (s : State) (e : Nat) (p : Peer) (id : Nat), (s.ep e).peer = some p →
    let lab := labelOf s.regs.cfg (epLport s.regs.cfg e)
    (p.identity = none → s.planCheck e = 1) ∧
    (p.identity = some id →
      (lab = 0xF → s.planCheck e = 2) ∧
      (lab ≠ 0xF → s.chosenVer p = none → s.planCheck e = 3) ∧
      (lab ≠ 0xF → (s.chosenVer p).isSome = true → 6 ≤ p.label → s.planCheck e = 4))) ∧
  (∀ (s : State) (e : Nat),
    (s.mgmt.adopt = none → exec (.adopt e) s = .next { s with mgmt.adopt := some (e, 1), mgmt.acts := s.mgmt.acts ++ [.adopt] }) ∧
    (s.mgmt.adopt.isSome = true → exec (.adopt e) s = .next s) ∧
    ((s.ep e).state ≠ 4 → s.adoptStatus e = 1) ∧
    ((s.ep e).state = 4 → (epNbr s.regs.cfg e = false ∨ (s.ep e).reason ∉ [2, 5, 6]) → s.adoptStatus e = 2) ∧
    ((s.ep e).state = 4 → epNbr s.regs.cfg e = true → (s.ep e).reason ∈ [2, 5, 6] → s.otherMembers e ≠ [] → s.adoptStatus e = 3)) ∧
  (∀ (s : State) (e origin : Nat), s.mgmt.adopt = some (e, origin) →
    let s0 : State := { s with mgmt.adopt := none }
    (s0.adoptStatus e = 0 → ∃ dig, s.applyAdopt = State.settle (State.watchAxes (State.recheckAll
      (((State.setRw (s0.adoptPlan e) Reg.PORT_CMDSTAT (BitVec.ofNat 32 0)).journal 6 0 e (some dig) origin).post 2 2 [])) s0)) ∧
    (s0.adoptStatus e ≠ 0 → ∃ dig, s.applyAdopt =
      ((State.setRw s0 Reg.PORT_CMDSTAT (BitVec.ofNat 32 (s0.adoptStatus e))).journal 6 (s0.adoptStatus e) e (some dig) origin).post 2 2 []))

/-- TIME_INC_WRITE with the increment in range waits for the next boundary, and one out of range is refused, counted and posted;
the applied increment leaves device time, the raw counter and the generation as they are (R287). TIME_STEP with GO whose
magnitude the lock, the time and the ns limit allow waits for the boundary, one that they do not is refused; applied, a step
moves device time by exactly its magnitude modulo 2^64 s, and a backward step opens the next generation (R288, R291, R292).
TPO_ARM, after a commit that is due at its boundary, waits behind the management commands that wait for the next, and with
none waiting arms an output within the limits of R301 from START, PERIOD and WIDTH, a train at its first edge not past, fires
a single pulse whose START is past LATE, refuses one outside the limits, and idles the output without EN (R22, R301).
TPO_EDGE, after a commit that is due and the step that follows it: an armed output whose edge device time reaches fires;
TPO_TRAIL: its trailing edge comes WIDTH later; each drives the pin once STAGE 0x2 is reached (R301, R400). CAPTURE_EDGE,
likewise after a commit that is due (R308): a selected edge that completes the divider is stamped into a channel with room,
one before that counts, and one that finds 16 held or comes within 16 ns of the last sets OVF; CAPTURE_READ of SEC_LO removes
the oldest capture and gives its seconds (R303). -/
def Obligations.DeviceTimePulsesAndCaptures : Prop :=
  (∀ (s : State) (val : Word), let inc := fld val 0 0 * 2 ^ 32 + s.time.incFrac
    (inc < 0xFFBE76C9 ∨ 0x100418937 < inc → exec (.timeIncWrite val) s = .next ((s.count Reg.TIME_CNT_REFUSE).post 1 0 [])) ∧
    (0xFFBE76C9 ≤ inc → inc ≤ 0x100418937 → exec (.timeIncWrite val) s = .next { s with time.pendInc := some (inc, 1), mgmt.acts := s.waitAct .inc })) ∧
  (∀ (s : State) (inc origin : Nat), s.time.pendInc = some (inc, origin) →
    s.applyInc.now = s.now ∧ s.applyInc.time.inc = inc ∧ s.applyInc.time.raw = s.time.raw ∧ s.applyInc.time.gen = s.time.gen) ∧
  (∀ (s : State) (val : Word), bitAt val 31 = true →
    let bad := (s.rw Reg.TIME_CTL 0 0 = 1 ∧ 1000 < s.stepMag) ∨
      (bitAt val 0 = true ∧ s.time.total (s.time.raw + 4) 0 < s.stepMag * 2 ^ 32) ∨ 999999999 < s.rw Reg.TIME_STEP_NS 29 0
    (bad → exec (.timeStep val) s = .next ((s.count Reg.TIME_CNT_REFUSE).post 1 0 [])) ∧
    (¬ bad → exec (.timeStep val) s = .next { s with
      time.pendStep := some (bitAt val 0, s.stepMag / 1000000000, s.stepMag % 1000000000, 1), mgmt.acts := s.waitAct .step })) ∧
  (∀ (s : State) (back : Bool) (sec ns origin : Nat), s.time.pendStep = some (back, sec, ns, origin) →
    let m := (sec * 1000000000 + ns) * 2 ^ 32
    (m ≠ 0 → back = false → s.applyStep.now = (s.now + m) % timeMod ∧ s.applyStep.time.gen = s.time.gen) ∧
    (m ≠ 0 → back = true → s.applyStep.now = s.now - m ∧ s.applyStep.time.gen = (s.time.gen + 1) % 65536) ∧
    (m = 0 → s.applyStep = { s with time.pendStep := none })) ∧
  (∀ (s : State) (i : Nat) (val : Word), s.commitBoundary.mgmt.acts ≠ [] →
    exec (.tpoArm i val) s = .next (s.commitBoundary.queueAct (.tpo i val))) ∧
  (∀ (s : State) (i : Nat) (val : Word), i < 8 → s.commitBoundary.mgmt.acts = [] →
    let u := s.commitBoundary
    let periodic := bitAt val 30
    let p := (u.rwW (Reg.TIME_TPO_w4 i)).toNat
    let w := (u.rwW (Reg.TIME_TPO_w5 i)).toNat
    let s2 := (u.setRw (Reg.TIME_TPO_w0 i) (val &&& regMask (Reg.TIME_TPO_w0 i) .rw)).quietPulse i
    (bitAt val 31 = false → exec (.tpoArm i val) s = .next (s2.setTpo i { s2.tpo i with armed := false })) ∧
    (bitAt val 31 = true → (w < 4 ∨ periodic = true ∧ (p < 100 ∨ p ≤ w)) →
      exec (.tpoArm i val) s = .next ((s2.setTpo i { s2.tpo i with armed := false }).count Reg.TIME_CNT_REFUSE)) ∧
    (bitAt val 31 = true → 4 ≤ w → (periodic = true → 100 ≤ p ∧ w < p) →
      let x : Tpo := { armed := true, ns := u.rw (Reg.TIME_TPO_w3 i) 29 0, sixteenth := fld val 3 0, width := w, pol := bitAt val 29,
                       sec := (u.rwW (Reg.TIME_TPO_w2 i)).toNat * 2 ^ 32 + (u.rwW (Reg.TIME_TPO_w1 i)).toNat
                       period := if periodic then p * 16 + fld val 7 4 else 0, periodic := periodic }
      let armed := fun (x : Tpo) => if x.pol = (s2.tpo i).pol then s2.setTpo i x else (s2.setTpo i x).drive i x.pol
      (u.now ≤ x.begin → exec (.tpoArm i val) s = .next (armed x)) ∧
      (x.begin < u.now → periodic = false → exec (.tpoArm i val) s = .next ((armed x).fire i 0 true)) ∧
      (x.begin < u.now → periodic = true →
        exec (.tpoArm i val) s = .next (armed { x with k := ceilDiv (u.now - x.begin) (x.period * 2 ^ 28) })))) ∧
  (∀ (s : State) (i : Nat),
    (let u := s.commitBoundary;
      (u.tpo i).armed = true → (u.tpo i).edge ≤ u.now → ∃ t, exec (.tpoEdge i) s = .next t ∧
      t.regs = u.regs ∧ t.mgmt = u.mgmt ∧ t.time = { u.time with tpo := t.time.tpo } ∧ (∀ j, j ≠ i → t.tpo j = u.tpo j) ∧
      (t.tpo i).active = true ∧ (t.tpo i).trailAt = u.time.raw + (u.tpo i).width ∧ (t.tpo i).armed = (u.tpo i).periodic ∧
      (t.tpo i).k = (u.tpo i).k + 1 ∧ t.out = u.out ++ (if 2 ≤ u.mgmt.stage then [.pulse i (!(u.tpo i).pol)] else [])) ∧
    ((s.tpo i).active = true → (s.tpo i).trailAt ≤ s.time.raw → ∃ t, exec (.tpoTrail i) s = .next t ∧
      t.regs = s.regs ∧ t.mgmt = s.mgmt ∧ t.time = { s.time with tpo := t.time.tpo } ∧ (∀ j, j ≠ i → t.tpo j = s.tpo j) ∧
      (t.tpo i).active = false ∧ t.out = s.out ++ (if 2 ≤ s.mgmt.stage then [.pulse i (s.tpo i).pol] else []))) ∧
  (∀ (s : State) (c sub : Nat), c < 6 →
    (let u := s.commitBoundary
      let w0 := u.rwW (Reg.TIME_CAP_w0 c)
      let x := u.cap c
      let t := u.time.raw * 16 + sub
      let sel := c == 5 || !bitAt w0 30
      let div := if c = 5 then max 1 (fld w0 23 0) else 1
      let early := ∃ l, x.last = some l ∧ t < l + 256
      let x0 := { x with last := some t, count := 0 }
      (bitAt w0 31 = true → early → exec (.captureEdge c sel sub) s = .next (u.putRw (Reg.TIME_CAP_w5 c) 31 31 1)) ∧
      (bitAt w0 31 = true → ¬ early →
        (x.count + 1 < div → exec (.captureEdge c sel sub) s = .next (u.setCap c { x0 with count := x.count + 1 })) ∧
        (div ≤ x.count + 1 → x.held.length < 16 →
          exec (.captureEdge c sel sub) s = .next (u.setCap c { x0 with held := x.held ++ [u.stampAt u.time.raw sub 0] })) ∧
        (div ≤ x.count + 1 → 16 ≤ x.held.length →
          exec (.captureEdge c sel sub) s = .next ((u.setCap c x0).putRw (Reg.TIME_CAP_w5 c) 31 31 1)))) ∧
    (let x := s.cap c
      ∃ r, exec (.captureRead c) s = .next r ∧ (r.cap c).held = x.held.drop 1 ∧ r.regs.rw = s.regs.rw ∧ r.mgmt = s.mgmt ∧
      (∀ j, j ≠ c → r.cap j = s.cap j) ∧
      r.out = s.out ++ [.read (Reg.TIME_CAP_w1 c) (BitVec.ofNat 32 (x.held.headD {}).sec)] ∧
      Tbl.find r.regs.latch (Reg.TIME_CAP_w3 c) = some (BitVec.ofNat 32 (x.held.headD {}).ns)))

/-- PTP_SYNC_SEND: a master port whose turn it is sends its due Sync with the egress stamp, on a two-step port with the Follow_Up,
and its next one falls due an interval later (R32, R296). PTP_REQ_SEND: a due Delay_Req or Pdelay_Req is sent and remembered
and its number advances; PTP_MISS: a request unanswered at the next due time, or one that could not start for an interval, is
counted and recorded (R298). PTP_EVENT_RECEIVE: a PTP message on an enabled port with link up is stamped and recorded, and
acted on when its carriage, domain and version are the port's and the port has a role (R296). FELL whose checks pass makes the
least free entry, of KIND ACTIVATE for the staged version, of KIND EXACT, or of KIND COMMIT with the shadow set as it stood
when the command was taken, once it validates, which waits while a Doze entry or a wake is in progress; one whose checks fail
gives its code, and a set that does not validate is rejected (R304, R305). FCANCEL frees a pending entry and fails on any
other. FELL_READY: an entry within 1 µs of its time is held ready. FELL_APPLY, at its time with no commit due, and before the
hold of a supply dip (R22): an ACTIVATE whose version is staged and fits FEVAL activates it, one whose version is gone or
unfit is skipped, an EXACT felling changes the mode and a COMMIT felling applies its set (R306, R307). -/
def Obligations.PtpAndFellingTimesAct : Prop :=
  (∀ (s : State) (e : Nat),
    (s.ptpMay e = true → s.ptpRole e = 1 → s.logSync e ≠ 0 → (s.ptp e).syncDue ≤ s.time.raw →
      let id := (s.ptp e).syncId
      let r := s.egressStamp e
      let s1 := r.2.setPtp e { s.ptp e with syncId := (id + 1) % 65536, syncDue := s.time.raw + ptpCounts (s.logSync e) }
      (s.ptpOne e = true →
        let m := s.ptpMsg e 0 id r.1.subNs false r.1.ptp10
        exec (.ptpSyncSend e) s = .next ((s1.ptpSend e false true m).txts e 0 id r.1 m)) ∧
      (s.ptpOne e = false →
        let m := s.ptpMsg e 0 id 0 true (List.replicate 10 0)
        exec (.ptpSyncSend e) s = .next (((s1.ptpSend e false true m).txts e 0 id r.1 m).ptpSend e false false
          (s.ptpMsg e 8 id r.1.subNs false r.1.ptp10)))) ∧
    (∀ ty, s.ptpReqType e = some ty → s.ptpMay e = true → (s.ptp e).req = none → (s.ptp e).reqDue ≤ s.time.raw →
      let p := s.ptp e
      let seq := if ty = 1 then p.delayId else p.pdelayId
      let r := s.egressStamp e
      let m := s.ptpMsg e ty seq 0 false (List.replicate (if ty = 1 then 10 else 20) 0)
      let q := { p with delayId := if ty = 1 then (seq + 1) % 65536 else p.delayId
                        pdelayId := if ty = 2 then (seq + 1) % 65536 else p.pdelayId
                        req := some (ty, seq, r.1), resp := none, reqDue := s.time.raw + ptpCounts (s.reqInUse e) }
      exec (.ptpReqSend e) s = .next (((r.2.setPtp e q).ptpSend e (ty == 2) true m).txts e ty seq r.1 m)) ∧
    (∀ ty, s.ptpReqType e = some ty →
      let p := s.ptp e
      let q := { p with req := none, resp := none, missRun := min 255 (p.missRun + 1) }
      let every := ptpCounts (s.reqInUse e)
      (∀ t n st, p.req = some (t, n, st) → p.reqDue ≤ s.time.raw → exec (.ptpMiss e) s =
        .next (((s.setPtp e q).count Reg.TIME_CNT_MISS).timeRecord { kind := 6, eport := e, seq := n, mtype := t })) ∧
      (p.req = none → p.reqDue + every ≤ s.time.raw → exec (.ptpMiss e) s =
        .next (((s.setPtp e { q with reqDue := p.reqDue + every }).count Reg.TIME_CNT_MISS).timeRecord
          { kind := 6, eport := e, seq := if ty = 1 then p.delayId else p.pdelayId, mtype := ty }))) ∧
    (∀ sub b car m, ptpIn b = some (car, m) → s.ptpEn e = true → s.linkUp e = true →
      let r := s.drawNat 65535
      let t := s.stampAt s.time.raw sub (signed 16 (s.rw (Reg.TIME_PTP_w1 e) 15 0))
      let s1 := r.2.timeRecord { kind := 1, eport := e, seq := ptpSeq m, mtype := byteAt m 0 % 16, a := t, msg := m }
      exec (.ptpEventReceive e sub b) s = .next (if car = s.ptpCarr e ∧ byteAt m 4 = s.rw (Reg.TIME_PTP_w0 e) 15 8 ∧
        byteAt m 1 % 16 = 2 ∧ s.ptpRole e ≠ 0 then s1.ptpAct e t m r.1 else s1))) ∧
  (∀ (s s1 : State) (i : Nat) (c : MboxCmd),
    (s.takeCmd i 0x31 = some (c, s1) →
      let d := c.desc
      let kind := byteAt d 1
      let h := leAt d 2 2
      let cset := c.taken.getD s1.regs.shadow
      let st := s1.fellCheck d cset
      let r0 : Rec := { status := st, handle := if kind = 1 then h else 0, version := if kind = 1 then leAt d 4 2 else 0 }
      let f : Fell := { kind := kind, handle := if kind = 1 then h else 0, version := 0, arg := byteAt d 6, sec := leAt d 8 6
                        ns := leAt d 16 4, gen := s1.time.gen, set := [] }
      let n := leastFree s1.time.fell
      let made := fun (f : Fell) (r : Rec) => State.fellFinish { s1 with time.fell := Tbl.put s1.time.fell n f } d r
      let box := s.mgmt.mbox.zipIdx.map (fun x => if x.2 = i then { x.1 with taken := some cset } else x.1)
      (kind = 3 → s.moving = true → exec (.fell i) s = .next { s with mgmt.mbox := box }) ∧
      (st ≠ 0 → (kind = 3 → s.moving = false) → exec (.fell i) s = .next (s1.fellFinish d r0)) ∧
      (st = 0 →
        (∀ v, kind = 1 → (s1.handle h).staged = some v →
          exec (.fell i) s = .next (made { f with version := v.number } { s1.record v h 0 with b1 := n })) ∧
        (kind = 2 → exec (.fell i) s = .next (made f { r0 with b1 := n })) ∧
        (kind = 3 → s.moving = false →
          let bad := s1.validateSet cset c.origin true
          (bad.1 = 0 → exec (.fell i) s = .next (made { f with set := cset } { r0 with b1 := n })) ∧
          (bad.1 ≠ 0 → exec (.fell i) s = .next ((s1.reject bad.1 bad.2).fellFinish d { r0 with status := 1 }))))) ∧
    (s.takeCmd i 0x32 = some (c, s1) → s1.jrnlRefuses = false → leAt c.desc 24 8 % 64 = 0 →
      let n := byteAt c.desc 7
      ((Tbl.find s1.time.fell n).isSome = true → exec (.fcancel i) s =
        .next (State.fellFinish { s1 with time.fell := Tbl.del s1.time.fell n } c.desc { status := 0, b1 := n })) ∧
      (Tbl.find s1.time.fell n = none → exec (.fcancel i) s = .next (s1.fellFinish c.desc { status := 1, b1 := n })))) ∧
  (∀ (s : State) (n : Nat) (f : Fell), Tbl.find s.time.fell n = some f →
    (timeOf f.sec f.ns < s.now + 1000 * 2 ^ 32 →
      exec (.fellReady n) s = .next { s with time.fell := Tbl.put s.time.fell n { f with ready := true } }) ∧
    (s.now + 1000 * 2 ^ 32 ≤ timeOf f.sec f.ns → exec (.fellReady n) s = .next s) ∧
    (timeOf f.sec f.ns ≤ s.now → s.mgmt.jr.full = false → s.mgmt.commit.due = false →
      let s1 := { s with time.fell := Tbl.del s.time.fell n }
      let done : Felled := { kind := f.kind, handle := f.handle, sec := f.sec, ns := f.ns, gen := f.gen, oldCfg := s.regs.cfg
                             oldExact := s.exact, oldVer := (s.handle f.handle).serving.map (·.number)
                             newVer := if f.kind = 1 then some f.version else none }
      let keep := fun (t : State) => State.pruneFelled
        (State.keepMode { t with time.felled := done :: t.time.felled } (some (f.sec, f.ns, f.gen)) s.exact)
      (f.kind = 1 → (s.handle f.handle).staged = none →
        exec (.fellApply n) s = .next ((s1.fellJournal n f true none).post 1 5 []).holdDue) ∧
      (∀ v, f.kind = 1 → (s.handle f.handle).staged = some v →
        let dig := some (v.digest.take 16)
        (v.number = f.version → (s.fevalNamed f.handle = true → s.fevalFits f.handle v = true) →
          let s2 := keep ((s1.fellJournal n f false dig).activate f.handle)
          exec (.fellApply n) s =
            .next ((s2.journal 2 2 (f.handle + f.version % 65536 * 65536) dig 5).post 1 4 []).settle.holdDue) ∧
        (v.number ≠ f.version ∨ s.fevalNamed f.handle = true ∧ s.fevalFits f.handle v = false →
          exec (.fellApply n) s = .next ((s1.fellJournal n f true dig).post 1 5 []).holdDue)) ∧
      (f.kind = 2 → exec (.fellApply n) s = .next (((keep ((s1.fellJournal n f false none).modeChange (f.arg == 1) 5)).putExact
        (f.arg == 1)).post 1 4 []).settle.holdDue) ∧
      (f.kind = 3 → exec (.fellApply n) s =
        .next (((keep ((s1.fellJournal n f false none).applySet f.set 5 false)).post 0 0 []).post 1 4 []).holdDue)))

/-- SCRUB_READ of a word without an error forgets the word's last corrected bit; a corrected error that an access met is counted;
a corrected error of a scrub pass is counted, and on the same bit of the same word in two passes running it is a hard fault;
an uncorrectable one is counted and posted, on a tract die logged, and acts by its area; on a live unit of a tract die and on
the hub die's areas (R331, R332, R342). SCRUB_LATE sets its flag. PATROL_SCRUB: a corrected DRAM word is counted for its die
and its lane, which fails with STEER_THR of them within 1 s; a word in which two lanes fail without a spare is uncorrectable;
an uncorrectable one is counted, posted with MEM_UE, logged and stays bad (R336, R342). LANE_FAILING starts the sweep onto the
lane's spare, waits for the sweep that runs, or is reported where no spare is free; SWEEP_DONE: the steer is entered,
journaled and posted, and the lanes that waited follow (R335). BRIDGE_LANE_CHECK: a lane that returns a wrong bit is steered
onto a free spare lane, and without one the bridge's die is retired with its port; BRIDGE_UE: an uncorrectable transfer fails
its items, and a second within a second takes the bridge out with its die (R12). -/
def Obligations.MemoryErrorsAreCountedSteeredAndContained : Prop :=
  (∀ (s : State) (d a b : Nat) (area : SramArea),
    let hub := onHub area
    let n := if hub then 4 else d
    let k := hardKey area a
    let s0 := s.setDie n { s.die n with hard := Tbl.del (s.die n).hard k }
    let s1 := s0.count (if hub then Reg.GCTL_CNT_HUBCE else Reg.MEM_CNT_SCE d)
    (hub = false → d < 4 ∧ areaHas area a = true ∧ s.unitLive (apertureUnit d area a) = true) →
    exec (.scrubRead d area a .none) s = .next s0 ∧
    exec (.scrubRead d area a (.met b)) s = .next (s.count (if hub then Reg.GCTL_CNT_HUBCE else Reg.MEM_CNT_SCE d)) ∧
    (Tbl.find (s.die n).hard k = some b → exec (.scrubRead d area a (.corrected b)) s = .next (s1.hardFault d area a)) ∧
    (Tbl.find (s.die n).hard k ≠ some b → exec (.scrubRead d area a (.corrected b)) s =
      .next (s1.setDie n { s1.die n with hard := Tbl.put (s1.die n).hard k b })) ∧
    (hub = false → exec (.scrubRead d area a .uncorrectable) s = .next (State.tractUe
      (((s0.count (Reg.MEM_CNT_SUE d)).post (11 + d) 5 []).logUe d (0x4000000000 + d * 2 ^ 32 + a)) d area a)) ∧
    (hub = true → exec (.scrubRead d area a .uncorrectable) s =
      .next (State.hubUe ((s0.count Reg.GCTL_CNT_HUBUE).post 0 13 []) area a))) ∧
  (∀ (s : State) (d l : Nat), d < 4 →
    exec (.scrubLate d) s = .next (s.setRw (Reg.MEM_SSTAT d) (setFld (s.rwW (Reg.MEM_SSTAT d)) 30 30 1)) ∧
    (∀ a b, a < 24 * 2 ^ 30 → (s.die d).lost = false →
      exec (.patrolScrub d a .none) s = .next s ∧
      ((s.die d).twoFailing a = true → exec (.patrolScrub d a (.corrected b)) s = .next (s.dramUe d a)) ∧
      ((s.die d).twoFailing a = false →
        let s1 := s.count (Reg.MEM_CNT_DCE d)
        let y := s1.die d
        let l := laneOf y.steer (transferWord a) b
        let ts := (Tbl.getD y.laneErrs l []).filter (fun t => decide (s.time.raw < t + 1000000000)) ++ [s.time.raw]
        let s2 := s1.setDie d { y with laneErrs := Tbl.put y.laneErrs l ts }
        (ts.length < s.rw (Reg.MEM_DCTL d) 7 0 → exec (.patrolScrub d a (.corrected b)) s = .next s2) ∧
        (s.rw (Reg.MEM_DCTL d) 7 0 ≤ ts.length → exec (.patrolScrub d a (.corrected b)) s = .next (s2.laneFailing d l))) ∧
      (let s1 := (s.count (Reg.MEM_CNT_DUE d)).post (11 + d) 5 []
        let bad := if (s1.die d).ue.contains (a / 4) then (s1.die d).ue else (s1.die d).ue ++ [a / 4]
        let y := { s1.die d with ue := bad, uelog := s.dramAddr d (a / 4 * 4) }
        exec (.patrolScrub d a .uncorrectable) s = .next (s1.setDie d y))) ∧
    (l < 128 → (s.die d).lost = false → (∀ e ∈ (s.die d).steer, e.1 ≠ l) → l ∉ (s.die d).queued → l ∉ (s.die d).exhausted →
      (∀ x, (s.die d).sweep = none → dramSpare (s.die d).steer l = some x →
        exec (.laneFailing d l) s = .next (s.setDie d { s.die d with sweep := some (l, x) })) ∧
      ((s.die d).sweep = none → dramSpare (s.die d).steer l = none →
        exec (.laneFailing d l) s =
        .next ((State.journal (s.setDie d { s.die d with exhausted := (s.die d).exhausted ++ [l] }) 0xD 2 (d + l * 2 ^ 8) none 3).post (11 + d) 7 [])) ∧
      (∀ x, (s.die d).sweep = some x → x.1 ≠ l →
        exec (.laneFailing d l) s = .next (s.setDie d { s.die d with queued := (s.die d).queued ++ [l] }))) ∧
    (∀ x, (s.die d).sweep = some (l, x) →
      let s1 := s.setDie d { s.die d with steer := (s.die d).steer ++ [(l, x)], sweep := none, queued := [] }
      exec (.sweepDone d) s = .next ((s.die d).queued.foldl (fun s l => s.laneFailing d l)
        ((s1.journal 0xD 1 (d + l * 2 ^ 8 + x * 2 ^ 16) none 3).post (11 + d) 6 []))) ∧
    (∀ toDie, (s.die d).lost = false →
      let k := d * 2 + b2n (!toDie)
      let st := Tbl.getD s.units.steered k []
      exec (.bridgeLaneCheck d toDie none) s = .next s ∧
      (l < 128 → (∀ e ∈ st, e.1 ≠ l) →
        (steerSpare st l = none → exec (.bridgeLaneCheck d toDie (some l)) s = .next (s.retireDie d 5 3 true)) ∧
        (∀ x, steerSpare st l = some x → exec (.bridgeLaneCheck d toDie (some l)) s =
          .next ((State.journal { s with units.steered := Tbl.put s.units.steered k (st ++ [(l, x)]) } 0xD 3
            (d + l * 2 ^ 8 + x * 2 ^ 16 + b2n (!toDie) * 2 ^ 24) none 3).post (11 + d) 6 [(d, 8)])))) ∧
    (∀ items, (s.die d).lost = false →
      let s1 := items.foldl (fun (s : State) n => s.itemFail false n) s
      ((∀ t, Tbl.find s1.units.bridgeUe d = some t → t + 1000000000 < s1.time.raw) → exec (.bridgeUe d items) s =
        .next (State.settle { s1 with units.bridgeUe := Tbl.put s1.units.bridgeUe d s1.time.raw })) ∧
      (∀ t, Tbl.find s1.units.bridgeUe d = some t → s1.time.raw ≤ t + 1000000000 →
        exec (.bridgeUe d items) s = .next (s1.retireDie d 5 3 true).settle)))

/-- CHECK_EVENT on a live unit, of a residue or parity check one with a firing it is about: its tokens and the items named fail
and the check is reported; a hard ECC fault retires the unit; a shadow mismatch tests both lanes; an uncorrectable data word
charges no unit; a second overrun in the window and every other check act on the unit, of a digest pair on both engines, of
the boom after its epochs abort (R349 to R352). Acting retires a SUSPECT one and a stand that a move of stands begins to use
or leave, replaces it, or the stand of a core whose coppice is in use, when it serves and a spare is free, and else marks it
SUSPECT (R350, R371); SUSPECT_EXPIRE ends marks past their window. REPLACE_DONE: a core's or stand's spare takes its
coordinates and its copies reopen, a lane's spare takes its place with its image rewritten, or the compartment is retired
where no image can be read, a stand that cruise moves takes its spare once empty, and the unit is tested (R104, R352, R356).
CRUISE_SLOT runs its steps, and a pass that ends is counted and posted; CRUISE_TEST_DONE: a passed test frees the unit, after
a check event it is asked for again and counted TRANSIENT, a failed one retires it, counted (R356, R358). After a commit due,
an RPR_CMD while one is in progress is ignored, one behind waiting management commands waits, and RETIRE and UNRETIRE wait
while the journal is full (R22, R390, Table 15-12); else RETIRE of an invalid unit reports 1, of a retired one 0, of a live
one takes it out, and keeps three dies (R360); UNRETIRE marks its entry, or reports 3 (R348); TEST asks for it (R358); RETIRE
and TEST wait for a cruise step of that stand (R371); MEMBER_LOST declares a member lost, and MEMBER_BACK has it back at the
next boundary (R363). HEARTBEAT: a due one is sent (R362); LEAVE_SERVICE sends LEAVING, fails items and aborts epochs (R361);
MAP_FLASH_WRITE_DONE leaves the map in flash, without entries to be unretired, under the next record number (R346, R348). -/
def Obligations.FaultsAreTestedReplacedAndReported : Prop :=
  (∀ (s : State) (v : UnitId) (c : CheckKind) (items : List Nat) (ok : Bool),
    let hub := v.level == 6 && !hubUnit v.unit
    let u : UnitId := if hub then ⟨6, 0xF, 0, 0, 0xFFF⟩ else v
    unitValid u = true ∨ hub = true ∨ u.level = 4 ∧ c = .duplicate ∧ u.unit = 1 ∧ unitValid { u with unit := 0 } = true →
    s.unitLive u = true ∨ u.level = 5 ∧ c = .hardEcc ∧ u.die < 4 ∧ (s.die u.die).lost = false → s.checkFires u c = true →
    let s0 := match s.firingChecked u c with | some l => s.firingBad (corePhys u) l | none => s
    let s1 := State.checkPost (items.foldl (fun (s : State) n => s.itemFail false n) s0) u c
    (c = .hardEcc → exec (.checkEvent v c items ok) s = .next (s1.failUnit u 7 3 ok).settle) ∧
    (c = .shadow → exec (.checkEvent v c items ok) s = .next (if u.level = 2 then s1.shadowTest u else s1).settle) ∧
    (c = .uncorrectable → exec (.checkEvent v c items ok) s =
      .next (if 2 ≤ u.level ∧ u.level ≤ 4 then s1 else s1.checkUnit u ok).settle) ∧
    (c = .overrun →
      (s1.overrunsOf u < 2 → exec (.checkEvent v c items ok) s = .next s1.settle) ∧
      (2 ≤ s1.overrunsOf u → exec (.checkEvent v c items ok) s = .next (State.checkUnit
        { s1 with units.overruns := s1.units.overruns.filter (fun x => x.1 != u) } u ok).settle)) ∧
    (c ≠ .hardEcc → c ≠ .shadow → c ≠ .uncorrectable → c ≠ .overrun →
      (u.level ≠ 6 ∨ 0x40 ≤ u.unit ∧ u.unit < 0x80 ∨ 0x90 ≤ u.unit →
        exec (.checkEvent v c items ok) s = .next (s1.checkUnit u ok).settle) ∧
      (u.level = 6 → 0x80 ≤ u.unit → u.unit < 0x90 →
        exec (.checkEvent v c items ok) s = .next (s1.boomFault.checkUnit u ok).settle) ∧
      (∀ j a b, u.level = 6 → u.unit < 0x40 → s1.digestPair u.unit = some (j, a, b) →
        exec (.checkEvent v c items ok) s =
          .next ((s1.checkUnit { u with unit := a } ok).checkUnit { u with unit := b } ok).settle) ∧
      (u.level = 6 → u.unit < 0x40 → s1.digestPair u.unit = none →
        exec (.checkEvent v c items ok) s = .next (s1.checkUnit u ok).settle))) ∧
  (∀ (s : State) (u : UnitId) (ok : Bool), s.inMap u = false → (∀ m ∈ s.units.moves, m.unit = u → m.drain = true) →
    (s.suspect u = true → u.level ≠ 5 → s.checkUnit u ok = s.failUnit u 3 3 ok) ∧
    (s.suspect u = true → u.level = 5 → s.checkUnit u ok = s.retireDie u.die 3 3 true) ∧
    (s.suspect u = false →
      let moving := u.level = 3 ∧ ∃ m ∈ s.units.moves, m.unit = u ∨ m.unit.level = 3 ∧ spareUnit m.unit m.spare = u
      (moving → s.checkUnit u ok = s.failUnit u 2 3 ok) ∧
      (∀ w k, ¬ moving → s.replacement u = some (w, k) → s.checkUnit u ok = s.beginMove w k true (deadParts u ok)) ∧
      (¬ moving → s.replacement u = none → s.checkUnit u ok =
        { s with units.suspects := (s.units.suspects.filter (fun x => x.1 != u)) ++ [(u, s.time.raw)] }))) ∧
  (∀ (s : State) (u : UnitId),
    exec (.suspectExpire u) s = .next { s with units.suspects := s.units.suspects.filter (fun x =>
      !(x.1 == u && decide (x.2 + s.suspectWin ≤ s.time.raw))) } ∧
    (let num := match s.units.flash with | some r => r.num + 1 | none => 0
     exec .mapFlashWriteDone s = .next { s with units.flash := some { type := 4, num := num, body := s.flashBody, sigOk := true } }) ∧
    (∀ m, s.units.moves.find? (fun m => m.unit == u && (!m.drain || u.level == 3)) = some m →
      let cause := match s.units.map.find? (fun e => e.unit == u) with | some e => e.cause | none => 0
      (m.drain = true → s.standBusy u = false → exec (.replaceDone u) s =
        .next ((s.standMoves u m.spare).endMove m)) ∧
      (∀ l, m.drain = false → u.level = 2 → s.logicalLane u.die (u.cmpt * 2 + u.unit / 272) (u.unit % 272) = some l →
        let e := u.cmpt * 2 + u.unit / 272
        let held := (s.allVersions.filter (fun hv => hv.2.lanesUsed.contains (u.die, e, l))).map (·.2)
        let lost := (s.die u.die).sramBad (storeBase u.cmpt) 0x800000 && held.any (fun v => !s.imageIntact v)
        (lost = true → exec (.replaceDone u) s = .next ((s.endMove m).retireCmpt u.die u.cmpt 8 3)) ∧
        (lost = false → exec (.replaceDone u) s = .next ((((((s.rewriteStore u.die u.cmpt).swapLanes u.die e (u.unit % 272)
          m.spare).rewriteLane u.die e l).stopLane u.die e l false).endMove m).repaired u cause 3))) ∧
      (m.drain = false → u.level ≠ 2 →
        let on := s.copiesOn u
        let s1 := if u.level = 1 then s.coreTakes u m.spare (m.lost != []) else s.standTakes u m.spare m.lost
        let s2 := (on.filter (fun x => x.2.2.2.lostHold && s.partsLost u m.lost x.2.1 x.2.2.2)).foldl (fun s x => s.loadCopy x.1 x.2.1 x.2.2.2) s1
        exec (.replaceDone u) s = .next (((on.foldl (fun (s : State) (x : Nat × Version × Nat × ACopy) =>
          s.reopen x.1 x.2.1.number x.2.2.1) s2).endMove m).repaired u cause 3))) ∧
    (∀ w k, s.units.tests.find? (fun t => t.1 == u) = some (w, k) →
      let s1 := { s with units.tests := s.units.tests.filter (fun x => x.1 != u) }
      let s2 := { s1 with units.pairsOut := s1.units.pairsOut.filter (fun j => s1.digestPairs.any (fun p => p.1 == j &&
        s1.units.tests.any (fun x => x.1.level == 6 && (x.1.unit == p.2.1 || x.1.unit == p.2.2)))) }
      (k ≠ 1 → exec (.cruiseTestDone u true) s = .next s2.rprWake.settle) ∧
      (k = 1 → exec (.cruiseTestDone u true) s = .next (((State.count { s2 with units.asked := s2.units.asked ++ [u] }
        Reg.RPR_CNT_TRANSIENT).post 8 2 []).rprWake).settle) ∧
      exec (.cruiseTestDone u false) s =
        .next (((s2.count Reg.RPR_CNT_CRUISEFAIL).failUnit u (if k = 2 then 4 else 2) 3 true).rprWake).settle)) ∧
  (∀ (s : State), bitAt (s.cfgW Reg.RPR_CRUISE) 31 = true → s.mgmt.inService = true → s.mgmt.jr.full = false → s.power.state = 0 →
    (s.units.slot = 0 ∨ s.units.slotAt + fld (s.cfgW Reg.RPR_CRUISE) 11 0 * 1000000 ≤ s.time.raw) →
    (s.units.slot = 0 ∨ s.units.slot % 272 ≠ 0 →
      exec .cruiseSlot s = .next (State.cruiseSteps { s with units.slot := s.units.slot + 1, units.slotAt := s.time.raw }
        (s.units.slot % 272))) ∧
    (0 < s.units.slot → s.units.slot % 272 = 0 →
      let s1 := State.post { s with units.passes := min 0xFFF (s.units.passes + 1), units.untested := s.units.skipped, units.skipped := 0 } 8 4 []
      exec .cruiseSlot s = .next (State.cruiseSteps { s1 with units.slot := s1.units.slot + 1, units.slotAt := s1.time.raw } 0))) ∧
  (∀ (s0 : State) (w : Word), let s := s0.commitBoundary
    (s.rprBusy = true → exec (.retire w) s0 = .next s ∧ exec (.unretire w) s0 = .next s ∧ exec (.test w) s0 = .next s ∧
      exec (.memberLost w) s0 = .next s ∧ exec (.memberBack w) s0 = .next s) ∧
    (s.rprBusy = false → s.mgmt.acts ≠ [] →
      exec (.retire w) s0 = .next (s.queueAct (.rpr 1 w 1)) ∧ exec (.unretire w) s0 = .next (s.queueAct (.rpr 2 w 1)) ∧
      exec (.test w) s0 = .next (s.queueAct (.rpr 3 w 1)) ∧ exec (.memberLost w) s0 = .next (s.queueAct (.rpr 4 w 1)) ∧
      exec (.memberBack w) s0 = .next (s.queueAct (.rpr 5 w 1))) ∧
    (s.units.cmdWait = none → s.mgmt.acts = [] → s.mgmt.jr.full = true →
      exec (.retire w) s0 = .next (s.queueAct (.rpr 1 w 1)) ∧ exec (.unretire w) s0 = .next (s.queueAct (.rpr 2 w 1)))) ∧
  (∀ (s0 : State) (w : Word), s0.commitBoundary.units.cmdWait = none → s0.commitBoundary.mgmt.acts = [] →
    let s := s0.commitBoundary
    let room := s.mgmt.jr.full = false
    let u := cmdUnit w
    (unitValid u = false → (room → exec (.retire w) s0 = .next (s.rprDone 1).settle ∧ exec (.unretire w) s0 = .next (s.rprDone 1)) ∧
      exec (.test w) s0 = .next (s.rprDone 1)) ∧
    (unitValid u = true → s.cruising u = true →
      (room → exec (.retire w) s0 = .next { s with units.cmdWait := some (setFld w 31 28 1, 1) }) ∧
      exec (.test w) s0 = .next { s with units.cmdWait := some (setFld w 31 28 3, 1) }) ∧
    (unitValid u = true → s.cruising u = false →
      (s.unitLive u = false → room → exec (.retire w) s0 = .next (s.rprDone 0).settle) ∧
      (s.unitLive u = true → (u.level ≠ 5 ∨ 3 < s.diesIn.length) → room → exec (.retire w) s0 = .next ((s.takeOut u 1).rprDone 0).settle) ∧
      (s.unitLive u = true → u.level = 5 → s.diesIn.length ≤ 3 → room → exec (.retire w) s0 = .next (s.rprDone 2).settle) ∧
      (s.unitLive u = false ∨ s.units.asked.contains u = true → exec (.test w) s0 = .next (s.rprDone 0)) ∧
      (s.unitLive u = true → s.units.asked.contains u = false →
        exec (.test w) s0 = .next (State.rprDone { s with units.asked := s.units.asked ++ [u] } 0))) ∧
    (unitValid u = true → room →
      (s.units.map.find? (fun e => e.unit == u) = none → exec (.unretire w) s0 = .next (s.rprDone 3)) ∧
      (∀ e, s.units.map.find? (fun e => e.unit == u) = some e →
        (e.cause = 1 → e.inherited = false → exec (.unretire w) s0 = .next (s.rprDone 3)) ∧
        (e.cause ≠ 1 ∨ e.inherited = true →
          let e1 := { e with unretire := true }
          let m := s.units.map.map (fun x => if x.unit = u then e1 else x)
          exec (.unretire w) s0 =
            .next ((State.repairEntry { s with units.map := m } e1 512 1).rprDone 0)))) ∧
    exec (.memberLost w) s0 = .next ((s.memberLost (fld w 11 0)).rprDone 0) ∧
    exec (.memberBack w) s0 = .next (State.rprDone { s with boom.back := addRank s.boom.back (fld w 11 0) } 0)) ∧
  (∀ (s : State), s.boom.back ≠ [] → s.membersBack =
    { s with boom.lost := s.boom.lost.filter (fun m => !s.boom.back.contains m), boom.back := [] }) ∧
  (∀ (s : State), s.mgmt.inService = true →
    (bitAt (s.cfgW Reg.RPR_HB) 31 = true → s.mgmt.ready = true → s.twin.state ≠ 4 →
      (∀ t, s.units.beatAt = some t → t + fld (s.cfgW Reg.RPR_HB) 9 0 * 1000 ≤ s.time.raw) →
      exec .heartbeat s = .next (s.sendBeat false)) ∧
    (let s1 := if bitAt (s.cfgW Reg.RPR_HB) 31 then s.sendBeat true else s
     exec .leaveService s = .next (State.boomFault ((s1.msgs.map (·.1)).foldl (fun (s : State) n => s.itemFail false n)
       { s1 with mgmt.inService := false, mgmt.leaveDue := false })).settle))

/-- TWIN_RECORD while PAIRED: a RELEASED record discards the copy it names, an OWN_BAD record makes the verdict of the waiting
reply bad, a record with both flags clear judges the waiting reply or waits for it; in every other state a record only marks
the time of the last frame (R365 to R367). TWIN_MATCH_TIMEOUT: a reply with no record within MATCH is bad (R365).
KWAIN_SILENCE of LOSS while PAIRED ends the link by role, or serves SOLO when the partner is gone; ALIVE_IN_FALL while PAIRED
serves SOLO (R368); TWIN_LINK_TIMEOUT: a pairing not decided within 100 ms ends by role (R370): the PRIMARY serves SOLO, the
SECONDARY is FENCED. TWIN_PAIRING while LINKING with nothing open on either package: a hello of the other role with the same
digest pairs, a different digest or the same role ends the pairing with its reason; any other only marks the time (R369). -/
def Obligations.TwinPairsFormJudgeAndFall : Prop :=
  (∀ (s : State) (t : TwinRec),
    let s1 := { s with twin.lastFrame := s.time.raw }
    let mine := fun (r : Nat × Reply) => match r.2.trec with | some (u, _) => sameRec u t | none => false
    (s.twin.state ≠ 2 → exec (.twinRecord t) s = .next s1) ∧
    (s.twin.state = 2 →
      (∀ n r, t.released = true → s.replies.find? (fun r => match r.2.trec with
          | some (u, _) => sameRec u t && r.2.stage != .sent | none => false) = some (n, r) →
        exec (.twinRecord t) s = .next (s1.release n r)) ∧
      (t.released = true → s.replies.find? (fun r => match r.2.trec with
          | some (u, _) => sameRec u t && r.2.stage != .sent | none => false) = none → exec (.twinRecord t) s = .next s1) ∧
      (t.released = false → t.ownBad = true → exec (.twinRecord t) s = .next (s1.ownBad t)) ∧
      (∀ n r own at0, t.released = false → t.ownBad = false → s.replies.find? (fun r => r.2.twin.isNone && mine r) = some (n, r) →
        r.trec = some (own, at0) → exec (.twinRecord t) s = .next (s1.twinJudge n r own t).settle) ∧
      (t.released = false → t.ownBad = false → (∀ r ∈ s.replies, r.2.twin.isNone = false ∨ mine r = false) →
        exec (.twinRecord t) s = .next { s1 with twin.theirs := s.twin.theirs ++ [t] }))) ∧
  (∀ (s : State) (n : Nat) (r : Reply) (u : TwinRec) (t : Nat), Tbl.find s.replies n = some r → r.trec = some (u, t) → r.twin = none →
    s.twin.state = 2 → t + s.cfg Reg.TWIN_TMR 15 8 * 1000 ≤ s.time.raw →
    exec (.twinMatchTimeout n) s =
      .next (((s.count Reg.TWIN_CNT_UNMATCHED).setReply n { r with twin := some false }).post 10 0 []).settle) ∧
  (∀ (s : State),
    (s.twin.state = 2 → s.twin.lastFrame + s.cfg Reg.TWIN_TMR 7 0 * 1000 ≤ s.time.raw → s.twin.aliveIn = true →
      exec .kwainSilence s = .next (s.loseLink 2)) ∧
    (s.twin.state = 2 → s.twin.lastFrame + s.cfg Reg.TWIN_TMR 7 0 * 1000 ≤ s.time.raw → s.twin.aliveIn = false →
      exec .kwainSilence s = .next (s.goSolo 1 4)) ∧
    (s.twin.state = 2 → exec .aliveInFall s = .next (State.goSolo { s with twin.aliveIn := false } 1 4)) ∧
    (s.twin.state ≠ 2 → exec .aliveInFall s = .next { s with twin.aliveIn := false }) ∧
    (s.twin.state = 1 → s.twin.since + 100000000 ≤ s.time.raw → exec .twinLinkTimeout s = .next (s.loseLink 2)) ∧
    (∀ reason, s.cfg Reg.TWIN_CTL 30 30 = 1 → s.loseLink reason = s.twinTo 4 reason 4) ∧
    (∀ reason, s.cfg Reg.TWIN_CTL 30 30 = 0 → s.loseLink reason = s.goSolo reason 4)) ∧
  (∀ (s : State) (p : TwinHello), s.twin.state ≠ 1 ∨ s.clean = false ∨ p.clean = false →
    exec (.twinPairing p) s = .next { s with twin.lastFrame := s.time.raw }) ∧
  (∀ (s : State) (p : TwinHello), s.twin.state = 1 → s.clean = true → p.clean = true →
    let role := s.cfg Reg.TWIN_CTL 30 30 == 1
    let s1 := { s with twin.lastFrame := s.time.raw, twin.peerId := p.identity, twin.aliveIn := true }
    let s2 := s1.emit (.hello s.mgmt.identity s.twinDigestOwn role)
    (p.role = role → exec (.twinPairing p) s = .next (s2.loseLink 4)) ∧
    (p.role ≠ role → p.digest ≠ s.twinDigestOwn → exec (.twinPairing p) s = .next (s2.loseLink 3)) ∧
    (p.role ≠ role → p.digest = s.twinDigestOwn → exec (.twinPairing p) s = .next (s2.twinTo 2 0 4)))

/-- MBOX_SUBMIT on a READY device appends the command that GCTL_MBOX_HI with the held low half points at, with its origin, sets
OVF when 64 wait, completes a descriptor that reads uncorrectable with ERR_FAULT, and one whose CMD is outside Table 16-2 with
status 1 (R381). SEND: a frame whose checks pass goes out when the port's turn comes, until which the command waits, or is
dropped where the port has no link, and completes; one whose checks fail completes with their status (R32, R382). IDENTIFY
writes the identity record, and a record of which a byte is unmapped completes with ERR_FAULT (R337, R383; the code is the
model's choice, log 173). ENROLL stores the key of its buffer while none is set and journals it, and fails with its code for
an unexported journal, an owner already set, an unmapped buffer or an uncorrectable one (R377, R390). EVQ_READ returns and
removes the oldest entry of a queue and latches its other words, and a queue left non-empty sends its vector; an empty one
reads zero (R385). DMA_GO starts an idle channel at DESC, and does nothing on a busy one; DMA_ABORT stops a busy one with
ABORTED; DMA_DESC_DONE: a descriptor that completes moves its data and advances the chain, one that meets an error stops it
(R380). SMBUS_REQUEST acts as a register write of its own origin, or as a read (R388). -/
def Obligations.MailboxEventQueuesAndDmaAct : Prop :=
  (∀ (s : State) (hi : Word), s.mgmt.ready = true →
    let a := hi.toNat * 2 ^ 32 + (Tbl.getD s.regs.loHeld Reg.GCTL_MBOX_LO 0).toNat / 64 * 64
    let r := s.spaceRead a 64
    (64 ≤ s.mgmt.mbox.length → exec (.mboxSubmit hi) s = .next (s.putRw Reg.GCTL_MBOX_STAT 31 31 1)) ∧
    (s.mgmt.mbox.length < 64 → r.2.1 = .ue → exec (.mboxSubmit hi) s = .next (r.2.2.mboxDone 0 0x0B)) ∧
    (s.mgmt.mbox.length < 64 → r.2.1 ≠ .ue →
      (knownCmd (byteAt r.1 0) = true →
        exec (.mboxSubmit hi) s = .next { r.2.2 with mgmt.mbox := r.2.2.mgmt.mbox ++ [{ addr := a, desc := r.1, origin := 1 }] }) ∧
      (knownCmd (byteAt r.1 0) = false → exec (.mboxSubmit hi) s = .next (r.2.2.mboxDone (byteAt r.1 0) 1)))) ∧
  (∀ (s s1 : State) (i : Nat) (c : MboxCmd), let d := c.desc
    (s.takeCmd i 0x41 = some (c, s1) →
      let r := s1.spaceRead (leAt d 8 8) (leAt d 4 2)
      let st := s1.sendCheck d r.1 r.2.1
      (st = 0 → (s.linkUp (byteAt d 1) = false ∨ s.turn3 (byteAt d 1) (some (byteAt d 2)) (leAt d 4 2) = true) → exec (.send i) s =
        .next ((r.2.2.sendOut (byteAt d 1) (byteAt d 3 % 2 == 1) r.1).fellFinish d { status := 0 })) ∧
      (st = 0 → s.linkUp (byteAt d 1) = true → s.turn3 (byteAt d 1) (some (byteAt d 2)) (leAt d 4 2) = false →
        exec (.send i) s = .next s) ∧
      (st ≠ 0 → exec (.send i) s = .next (r.2.2.fellFinish d { status := st }))) ∧
    (s.takeCmd i 0x42 = some (c, s1) →
      let st := if s1.anyUnmapped (leAt d 24 8) s1.identityRecord.length then 0x0B else 0
      exec (.identify i) s = .next ((s1.devWrite (leAt d 24 8) s1.identityRecord).mboxDone 0x42 st)) ∧
    (s.takeCmd i 0x43 = some (c, s1) →
      let r := s1.spaceRead (leAt d 8 8) 97
      let s2 := r.2.2
      (s1.jrnlRefuses = true → exec (.enroll i) s = .next (s2.fellFinish d { status := 4 })) ∧
      (s1.jrnlRefuses = false → s1.mgmt.owner.isSome = true → exec (.enroll i) s = .next (s2.fellFinish d { status := 7 })) ∧
      (s1.jrnlRefuses = false → s1.mgmt.owner = none →
        (r.2.1 = .unmapped → exec (.enroll i) s = .next (s2.fellFinish d { status := 1 })) ∧
        (r.2.1 = .ue → exec (.enroll i) s = .next (s2.fellFinish d { status := 0x0B })) ∧
        (r.2.1 = .ok → exec (.enroll i) s = .next (State.fellFinish
          (State.journal { s2 with mgmt.owner := some r.1, mgmt.ownerRec := s2.mgmt.ownerRec + 1 } 0xC 1 (s2.mgmt.ownerRec + 1)
            (some ((sha256 r.1).take 16)) c.origin) d { status := 0 }))))) ∧
  (∀ (s : State) (q : Nat), q < 16 →
    (∀ e t, s.evq q = e :: t →
      let s1 := { s with mgmt.evq := Tbl.put s.mgmt.evq q t }
      let s2 := ((s1.latchW (Reg.GCTL_EVQ_w5 q) e.sec).latchW (Reg.GCTL_EVQ_w6 q) e.ns).latchW (Reg.GCTL_EVQ_w7 q) e.arg
      let s3 := s2.emit (.read (Reg.GCTL_EVQ_w4 q) (BitVec.ofNat 32 (e.cause % 256 + e.argx % 256 * 256 + e.gen % 65536 * 65536)))
      exec (.evqRead q) s = .next (if !t.isEmpty && s3.evqEn q then s3.vector (s3.rw (Reg.GCTL_EVQ_w0 q) 10 0) else s3)) ∧
    (s.evq q = [] → ∃ t, exec (.evqRead q) s = .next t ∧ t.mgmt = s.mgmt ∧ t.regs.rw = s.regs.rw ∧ t.time = s.time ∧ t.out = s.out ++ [.read (Reg.GCTL_EVQ_w4 q) 0])) ∧
  (∀ (s : State) (n : Nat) (d : HostDesc), n < 4 →
    ((s.dmaCh n).busy = false →
      let desc := (s.rwW (Reg.GCTL_DMA_w1 n)).toNat * 2 ^ 32 + (s.rwW (Reg.GCTL_DMA_w0 n)).toNat
      exec (.dmaGo n) s = .next (s.setDmaCh n { s.dmaCh n with busy := true, err := 0, next := desc })) ∧
    ((s.dmaCh n).busy = true →
      exec (.dmaGo n) s = .next s ∧
      exec (.dmaAbort n) s = .next ((s.setDmaCh n { s.dmaCh n with busy := false, err := 4 }).dmaPost n) ∧
      (let r := s.dmaMove d
       (r.1 ≠ 0 → exec (.dmaDescDone n d) s = .next (r.2.dmaStop n r.1)) ∧
       (r.1 = 0 →
         let x := r.2.dmaCh n
         let y := { x with busy := !d.last, done := (x.done + 1) % 65536, next := if d.last then x.next else d.next }
         exec (.dmaDescDone n d) s = .next (if d.irq then (r.2.setDmaCh n y).dmaPost n else r.2.setDmaCh n y))))) ∧
  (∀ (s : State) (off : Nat) (val : Word),
    (off % 4 = 0 → exec (.smbusRequest (.writeReg off val)) s = .next (s.writeReg off val 2)) ∧
    exec (.smbusRequest (.readReg off)) s = .next (s.readReg off 4))

/-- POWER_ON starts the always-on domain from zero, and AON_LOSS ends it (R403, R404). COLD_START of a device in reset begins the
sequence of Table 16-1, each step completing on a step of the idle block (log 86): the accepted firmware of the higher SVN,
slot A on a tie, comes up at stage 2, the units are merged at stage 4, the tick runs from stage 5, quads train to stage 6,
READY ends it at stage 7; without such firmware it stops at stage 1 (R375, R378). BOARD_RESET keeps the always-on domain and
the repair map, and clears configuration, latches, models, items and DRAM (R4, R391, Table 16-6). After a commit due,
SOFT_RESET waits for the next tick boundary, where it ends commands and running loads, fails the items, holds admission and
falls due 100 µs later; QUAD_RESET, behind the management commands that wait, takes the named quads' ports down (R22, R391).
FLR and PERST end the DMA chains and clear the MSI-X table (R379, R400). PWR_REQ_RUN, PWR_REQ_IDLE and PWR_REQ_DOZE, after a
commit due, wait behind waiting management commands and while the journal is full (R390); else during a transition refused
BUSY; for the present state, and Idle from Doze, nothing; with a PAIRED twin Idle and Doze are refused, Doze too without room;
else the transition starts; DOZE_SAVE_DONE and WAKE_DONE end it with the state reached (R392). SUPPLY_SAMPLE: below VRESET the
device leaves service and its board reset follows at the next boundary; loss of another rail is a board reset; a fall below
VWARN is due to hold admission at the next boundary, where it is counted, posted and journaled, marking the items in flight;
SUPPLY_OK, after a commit due and with no change of the boundary to come: 10 µs above it end the hold (R22, R394, R405).
TJ_SAMPLE, after a commit due: the sensors are read and the thermal state follows; at 120 degrees the device leaves service,
the tract dies lose what they hold, and a board reset is due (R391, R395). TEST_PORT_ACCESS answers whether it reaches its
target (R400). -/
def Obligations.BootResetsAndPowerAct : Prop :=
  (∀ s : State,
    (∃ t, exec .powerOn s = .next t ∧ t.time = {} ∧ t.regs = {} ∧ t.dies = [] ∧ t.units = { flash := s.units.flash } ∧ t.power.aon = true ∧ t.power.inReset = true) ∧
    (∃ t, exec .aonLoss s = .next t ∧ t.time = {} ∧ t.regs = {} ∧ t.units = { flash := s.units.flash } ∧ t.power.aon = false) ∧
    (∃ t, exec .boardReset s = .next t ∧ t.time.raw = s.time.raw ∧ t.time.baseSec = s.time.baseSec ∧ t.time.inc = s.time.inc ∧
      t.units.map = s.units.map ∧ t.units.flash = s.units.flash ∧ t.regs.cfg = [] ∧ t.regs.shadow = [] ∧ t.msgs = [] ∧ t.handles = [] ∧ t.dies = [] ∧
      t.regs.latch = [] ∧ t.power.inReset = true ∧ t.power.rstN = false) ∧
    (∀ env, s.power.inReset = true → s.power.aon = true →
      exec (.coldStart env) s = .next { s with power.inReset := false, power.rstN := true, mgmt.stage := 0, mgmt.counter0 := env.counter0
                                               mgmt.counter1 := env.counter1, mgmt.booting := some env }) ∧
    (∀ env, s.mgmt.booting = some env →
      (s.mgmt.stage = 0 → bootSlot env = none → s.bootStep = { s with mgmt.stage := 1, mgmt.booting := none }) ∧
      (∀ f, s.mgmt.stage = 0 → bootSlot env = some f → s.bootStep.mgmt.stage = 2 ∧ s.bootStep.mgmt.svn = f.svn ∧
        s.bootStep.mgmt.fwDigest = f.digest ∧ s.bootStep.mgmt.modelKeys = keysOf env) ∧
      (s.mgmt.stage = 2 → s.bootStep = { s with mgmt.stage := 3 }) ∧
      (s.mgmt.stage = 3 → s.bootStep.mgmt.stage = 4 ∧ s.bootStep.power.temps = env.temps) ∧
      (s.mgmt.stage = 4 → s.bootStep.mgmt.stage = 5 ∧ s.bootStep.time.running = true ∧ s.bootStep.time.tick = 0 ∧
        s.bootStep.time.phase = env.phase % 4) ∧
      (s.mgmt.stage = 5 → epsOn s.regs.cfg ≠ [] → s.bootStep = { s with mgmt.stage := 6 }) ∧
      (s.mgmt.stage = 6 ∨ s.mgmt.stage = 5 ∧ epsOn s.regs.cfg = [] → s.bootStep.mgmt.ready = true ∧ s.bootStep.mgmt.stage = 7 ∧
        s.bootStep.mgmt.booting = none)) ∧
    (s.pending = [] → s.time.running = false → s.power.aon = true → s.power.vreset = false →
      step s = .next (State.bootStep { s with time.raw := (s.time.raw + 4) % 2 ^ 64 }))) ∧
  (∀ (env : ColdEnv), slotOk env env.slotA = true → slotOk env env.slotB = true →
    (env.slotA.svn < env.slotB.svn → bootSlot env = some env.slotB) ∧
    (env.slotB.svn ≤ env.slotA.svn → bootSlot env = some env.slotA)) ∧
  (∀ s : State,
    exec .softReset s = .next (s.commitBoundary.queueAct (.soft 1)) ∧
    (s.mgmt.acts = [.soft 1] → s.mgmtDue = State.softReset { s with mgmt.acts := [] }) ∧
    (s.power.holdReset = false → s.power.inReset = false →
      let s0 := s.mgmt.mbox.foldl State.failCmd s
      let s2 := ((s0.mgmt.running.map (·.2)).foldl State.failRunning s0).failWaits
      let s3 := { s2 with mgmt.mbox := [], mgmt.running := [], power.holdReset := true, power.resetAt := s.time.raw + 100000 }
      let s4 : State := (s3.msgs.map (·.1)).foldl (fun (s : State) n => s.itemFail false n) s3
      let s5 := if bitAt (s4.cfgW Reg.RPR_HB) 31 ∧ s4.mgmt.inService then s4.sendBeat true else s4
      s.softReset = s5.boomFault.settle) ∧
    (∀ mask, s.commitBoundary.mgmt.acts ≠ [] → exec (.quadReset mask) s = .next (s.commitBoundary.queueAct (.quads mask))) ∧
    (∀ mask, s.commitBoundary.mgmt.acts = [] → let u := s.commitBoundary;
      exec (.quadReset mask) s = .next (State.settle (State.watchAxes ((pick 48 (fun e => mask.testBit (e / 4) &&
        decide (0 < epLanes u.regs.cfg e))).foldl (fun (s : State) e => s.portDown e) u) u))) ∧
    (∃ t, exec .flr s = .next t ∧ exec .perst s = .next t ∧ t.mgmt.msix = [] ∧ ∀ n, n < 4 → (t.dmaCh n).busy = false ∧
      ((s.dmaCh n).busy = true → (t.dmaCh n).err = 4))) ∧
  (∀ s0 : State, let s := s0.commitBoundary
    s.mgmt.acts ≠ [] ∨ s.mgmt.jr.full = true → exec .pwrReqRun s0 = .next (s.queueAct (.power 0 1)) ∧
      exec .pwrReqIdle s0 = .next (s.queueAct (.power 1 1)) ∧ exec .pwrReqDoze s0 = .next (s.queueAct (.power 2 1))) ∧
  (∀ s0 : State, s0.commitBoundary.mgmt.acts = [] → s0.commitBoundary.mgmt.jr.full = false →
    let s := s0.commitBoundary
    let q := fun (r : Nat) => s.putRw Reg.PWR_CTL 31 30 r
    let go := fun (r : Nat) => { q r with power.target := some r, power.holdTrans := true, power.origin := 1 }
    (s.power.target.isSome = true →
      exec .pwrReqRun s0 = .next { q 0 with power.refused := 3 } ∧ exec .pwrReqIdle s0 = .next { q 1 with power.refused := 3 } ∧
      exec .pwrReqDoze s0 = .next { q 2 with power.refused := 3 }) ∧
    (s.power.target = none →
      (s.power.state = 0 → exec .pwrReqRun s0 = .next (q 0)) ∧
      (s.power.state = 1 → exec .pwrReqIdle s0 = .next (q 1)) ∧
      (s.power.state = 2 → exec .pwrReqDoze s0 = .next (q 2)) ∧
      (s.power.state ≠ 0 → exec .pwrReqRun s0 = .next (go 0)) ∧
      (s.twin.state = 2 →
        (s.power.state ≠ 1 → exec .pwrReqIdle s0 = .next { q 1 with power.refused := 2 }) ∧
        (s.power.state ≠ 2 → exec .pwrReqDoze s0 = .next { q 2 with power.refused := 2 })) ∧
      (s.twin.state ≠ 2 →
        (s.power.state = 0 →
          exec .pwrReqIdle s0 = .next (go 1).idleDue) ∧
        (s.power.state = 2 → exec .pwrReqIdle s0 = .next (q 1)) ∧
        (s.power.state ≠ 2 → sumBy (q 2).poolFree (q 2).diesIn < 768 * 2 ^ 20 →
          exec .pwrReqDoze s0 = .next { q 2 with power.refused := 1 }) ∧
        (s.power.state ≠ 2 → 768 * 2 ^ 20 ≤ sumBy (q 2).poolFree (q 2).diesIn →
          exec .pwrReqDoze s0 = .next (go 2).drainAll)))) ∧
  (∀ s : State,
    (s.power.target = some 2 → s.quiet = true → (∀ o ∈ s.boom.ops, o.2.cur.decided = true) →
      exec .dozeSaveDone s = .next (s.enterPower 2)) ∧
    (s.power.target = some 0 → s.power.state = 2 → exec .wakeDone s = .next (s.resumeAll.enterPower 0).settle) ∧
    (s.power.target = some 0 → s.power.state ≠ 2 → exec .wakeDone s = .next (s.enterPower 0).settle)) ∧
  (∀ (s : State) (rails : List Rail), s.time.running = true →
    let any := fun (r : Rail) => (List.range 6).any (fun i => s.railOf rails i == r)
    (any .reset = true → exec (.supplySample rails) s = .next { s.supplyHold.leaveService with power.vreset := true }) ∧
    (any .reset = false → (rails.drop 6).contains .reset = true → exec (.supplySample rails) s = .next (s.boardReset false)) ∧
    (any .reset = false → (rails.drop 6).contains .reset = false →
      (any .warn = true → exec (.supplySample rails) s = .next { s with
        power.low := true, power.goodSince := none, power.warnDue := s.power.warnDue || !s.power.low }) ∧
      (any .warn = false → (s.power.holdSupply = true ∨ s.power.warnDue = true) → s.power.goodSince = none →
        exec (.supplySample rails) s = .next { s with power.low := false, power.goodSince := some s.time.raw }) ∧
      (any .warn = false → (s.power.goodSince.isSome = true ∨ s.power.holdSupply = false ∧ s.power.warnDue = false) →
        exec (.supplySample rails) s = .next { s with power.low := false })) ∧
    (s.power.warnDue = true →
      let s1 := { s with power.warnDue := false }
      (s.power.holdSupply = false → s.supplyHold =
        (State.count { s1.warnAll with power.holdSupply := true } Reg.PWR_CNT_WARN).powerEvent 0) ∧
      (s.power.holdSupply = true → s.supplyHold = (s1.count Reg.PWR_CNT_WARN).powerEvent 0)) ∧
    (∀ t, let u := s.commitBoundary
      u.power.goodSince = some t → u.power.holdSupply = true → t + 10000 ≤ u.time.raw → u.changeDue = false →
      exec .supplyOk s = .next (State.powerEvent { u with power.holdSupply := false, power.goodSince := none } 1).settle)) ∧
  (∀ (s : State) (temps : List Nat), s.commitBoundary.time.running = true → s.commitBoundary.power.therm ≠ 3 →
    let u := s.commitBoundary
    let t := (List.range 5).map (fun d => temps.getD d 0 % 2048)
    let tj := t.foldl max 0
    let s1 := (List.range 5).foldl (fun (s : State) d => s.peak (Reg.PWR_TEMP d) 26 16 (t.getD d 0)) { u with power.temps := t }
    (tj < 960 → exec (.tjSample temps) s = .next (s1.thermSteps tj 2).settle) ∧
    (960 ≤ tj → exec (.tjSample temps) s = .next (s1.thermSteps tj 2).thermShut)) ∧
  (∀ s : State, let t := s.thermShut;
    t.power.therm = 3 ∧ t.power.thermN = false ∧ t.power.vreset = true ∧ t.cores = [] ∧ t.runs = [] ∧ ∀ d, d < 4 → (t.die d).lost = true) ∧
  (∀ (s : State) (auth : Bool) (u : UnitId),
    exec (.testPortAccess .boundaryScan) s = .next (s.emit (.jtag true)) ∧
    exec (.testPortAccess (.unitPort u auth)) s = .next (s.emit (.jtag (decide (s.mgmt.stage ≤ 1) || auth))))
end

