-- ==== Sys2Proof/Laws/Tables.lean ====
section
/-! SUPPORT. Laws of sparse tables and of the byte memory: what a read after a write gives, and that every write keeps the
canonical form. -/
namespace Sys2Proof.Machine

/-! ## Tables -/

/-- A table whose keys start at n starts at any lower number. -/
theorem Tbl.risingFrom_mono {α : Type} {m n : Nat} (h : m ≤ n) {t : Tbl α} (k : Tbl.risingFrom n t = true) :
    Tbl.risingFrom m t = true := by
  cases t with
  | nil => rfl
  | cons e t => simp only [Tbl.risingFrom, Bool.and_eq_true, decide_eq_true_eq] at k ⊢; exact ⟨Nat.le_trans h k.1, k.2⟩

/-- No key below the start of a rising table is listed. -/
theorem Tbl.find_none_of_lt {α : Type} {n k : Nat} (h : k < n) {t : Tbl α} (r : Tbl.risingFrom n t = true) :
    Tbl.find t k = none := by
  induction t generalizing n with
  | nil => rfl
  | cons e t ih =>
    simp only [Tbl.risingFrom, Bool.and_eq_true, decide_eq_true_eq] at r
    have hk : e.1 ≠ k := by omega
    simp only [Tbl.find, hk, if_false]
    exact ih (by omega : k < e.1 + 1) r.2

/-- Writing keeps a table rising. -/
theorem Tbl.put_risingFrom {α : Type} {n k : Nat} (h : n ≤ k) (x : α) {t : Tbl α} (r : Tbl.risingFrom n t = true) :
    Tbl.risingFrom n (Tbl.put t k x) = true := by
  induction t generalizing n with
  | nil => simp [Tbl.put, Tbl.risingFrom, h]
  | cons e t ih =>
    simp only [Tbl.risingFrom, Bool.and_eq_true, decide_eq_true_eq] at r
    by_cases h1 : k < e.1
    · simp [Tbl.put, h1, Tbl.risingFrom, h, r.2, Nat.succ_le_of_lt h1]
    · by_cases h2 : k = e.1
      · subst h2; simp [Tbl.put, Tbl.risingFrom, r.1, r.2]
      · simp only [Tbl.put, h1, h2, if_false, Tbl.risingFrom, Bool.and_eq_true, decide_eq_true_eq]
        exact ⟨r.1, ih (by omega) r.2⟩

/-- Removing an entry keeps a table rising. -/
theorem Tbl.del_risingFrom {α : Type} {n : Nat} (k : Nat) {t : Tbl α} (r : Tbl.risingFrom n t = true) :
    Tbl.risingFrom n (Tbl.del t k) = true := by
  induction t generalizing n with
  | nil => rfl
  | cons e t ih =>
    simp only [Tbl.risingFrom, Bool.and_eq_true, decide_eq_true_eq] at r
    by_cases h : e.1 = k
    · simp only [Tbl.del, h, if_true]; exact Tbl.risingFrom_mono (by omega) r.2
    · simp only [Tbl.del, h, if_false, Tbl.risingFrom, Bool.and_eq_true, decide_eq_true_eq]; exact ⟨r.1, ih r.2⟩

/-- Filtering keeps a table rising. -/
theorem Tbl.filter_risingFrom {α : Type} {n : Nat} (p : Nat × α → Bool) {t : Tbl α} (r : Tbl.risingFrom n t = true) :
    Tbl.risingFrom n (t.filter p) = true := by
  induction t generalizing n with
  | nil => rfl
  | cons e t ih =>
    simp only [Tbl.risingFrom, Bool.and_eq_true, decide_eq_true_eq] at r
    by_cases h : p e = true
    · rw [List.filter_cons_of_pos h]
      simp only [Tbl.risingFrom, Bool.and_eq_true, decide_eq_true_eq]
      exact ⟨r.1, ih r.2⟩
    · rw [List.filter_cons_of_neg h]
      exact Tbl.risingFrom_mono (by omega) (ih r.2)

/-- Writing keeps the canonical form of a table. -/
theorem Tbl.ok_put {α : Type} {t : Tbl α} (k : Nat) (x : α) (h : Tbl.ok t = true) : Tbl.ok (Tbl.put t k x) = true :=
  Tbl.put_risingFrom (Nat.zero_le k) x h

/-- Removing keeps the canonical form of a table. -/
theorem Tbl.ok_del {α : Type} {t : Tbl α} (k : Nat) (h : Tbl.ok t = true) : Tbl.ok (Tbl.del t k) = true :=
  Tbl.del_risingFrom k h

/-- Changing every entry keeps the canonical form of a table. -/
theorem Tbl.ok_mapVals {α β : Type} {t : Tbl α} (f : Nat → α → β) (h : Tbl.ok t = true) :
    Tbl.ok (Tbl.mapVals t f) = true := by
  have g : ∀ (t : Tbl α) (n : Nat), Tbl.risingFrom n t = true → Tbl.risingFrom n (Tbl.mapVals t f) = true := by
    intro t
    induction t with
    | nil => intro n _; rfl
    | cons e t ih =>
      intro n r
      simp only [Tbl.risingFrom, Bool.and_eq_true, decide_eq_true_eq] at r
      simp only [Tbl.mapVals, List.map_cons, Tbl.risingFrom, Bool.and_eq_true, decide_eq_true_eq]
      exact ⟨r.1, ih _ r.2⟩
  exact g t 0 h

/-- A read of the entry just written. -/
@[simp] theorem Tbl.find_put_self {α : Type} (t : Tbl α) (k : Nat) (x : α) : Tbl.find (Tbl.put t k x) k = some x := by
  induction t with
  | nil => simp [Tbl.put, Tbl.find]
  | cons e t ih =>
    by_cases h1 : k < e.1
    · simp [Tbl.put, h1, Tbl.find]
    · by_cases h2 : k = e.1
      · simp [Tbl.put, h2, Tbl.find]
      · have h3 : e.1 ≠ k := fun q => h2 q.symm
        simp [Tbl.put, h1, h2, h3, Tbl.find, ih]

/-- A write leaves every other entry alone. -/
theorem Tbl.find_put_ne {α : Type} (t : Tbl α) {k j : Nat} (x : α) (h : j ≠ k) : Tbl.find (Tbl.put t k x) j = Tbl.find t j := by
  induction t with
  | nil => simp [Tbl.put, Tbl.find, h.symm]
  | cons e t ih =>
    by_cases h1 : k < e.1
    · simp [Tbl.put, h1, Tbl.find, h.symm]
    · by_cases h2 : k = e.1
      · have : e.1 ≠ j := by omega
        simp [Tbl.put, h2, Tbl.find, this]
      · simp only [Tbl.put, h1, h2, if_false, Tbl.find]; rw [ih]

/-- A read of any entry after a write. -/
theorem Tbl.find_put {α : Type} (t : Tbl α) (k j : Nat) (x : α) :
    Tbl.find (Tbl.put t k x) j = if j = k then some x else Tbl.find t j := by
  by_cases h : j = k
  · subst h; simp
  · simp [h, Tbl.find_put_ne t x h]

@[simp] theorem Tbl.getD_put_self {α : Type} (t : Tbl α) (k : Nat) (x d : α) : Tbl.getD (Tbl.put t k x) k d = x := by
  simp [Tbl.getD]

theorem Tbl.getD_put_ne {α : Type} (t : Tbl α) {k j : Nat} (x d : α) (h : j ≠ k) :
    Tbl.getD (Tbl.put t k x) j d = Tbl.getD t j d := by simp [Tbl.getD, Tbl.find_put_ne t x h]

/-- In a canonical table a removed entry is gone, and the others stay. -/
theorem Tbl.find_del {α : Type} {t : Tbl α} (k j : Nat) (r : Tbl.ok t = true) :
    Tbl.find (Tbl.del t k) j = if j = k then none else Tbl.find t j := by
  have g : ∀ (t : Tbl α) (n : Nat), Tbl.risingFrom n t = true →
      Tbl.find (Tbl.del t k) j = if j = k then none else Tbl.find t j := by
    intro t
    induction t with
    | nil => intro n _; simp [Tbl.del, Tbl.find]
    | cons e t ih =>
      intro n r
      simp only [Tbl.risingFrom, Bool.and_eq_true, decide_eq_true_eq] at r
      by_cases h : e.1 = k
      · simp only [Tbl.del, h, if_true]
        by_cases hj : j = k
        · subst hj; simp only [if_true]; exact Tbl.find_none_of_lt (by omega : j < e.1 + 1) r.2
        · have : k ≠ j := fun q => hj q.symm
          simp [Tbl.find, hj, h, this]
      · simp only [Tbl.del, h, if_false, Tbl.find]
        rw [ih _ r.2]
        by_cases hj : e.1 = j
        · subst hj; simp [h]
        · simp [hj]
  exact g t 0 r

/-- What is listed after a write is what was listed, or the new entry. -/
theorem Tbl.mem_put {α : Type} {t : Tbl α} {k : Nat} {x : α} {e : Nat × α} (h : e ∈ Tbl.put t k x) : e = (k, x) ∨ e ∈ t := by
  induction t with
  | nil => simp only [Tbl.put, List.mem_singleton] at h; exact .inl h
  | cons a t ih =>
    by_cases h1 : k < a.1
    · simp only [Tbl.put, h1, if_true, List.mem_cons] at h; rcases h with h | h | h <;> simp [h]
    · by_cases h2 : k = a.1
      · subst h2
        simp only [Tbl.put, Nat.lt_irrefl, if_false, if_true, List.mem_cons] at h
        rcases h with h | h
        · exact .inl h
        · simp [h]
      · simp only [Tbl.put, h1, h2, if_false, List.mem_cons] at h
        rcases h with h | h
        · simp [h]
        · rcases ih h with h | h
          · exact .inl h
          · simp [h]

/-- What is listed after a removal was listed. -/
theorem Tbl.mem_del {α : Type} {t : Tbl α} {k : Nat} {e : Nat × α} (h : e ∈ Tbl.del t k) : e ∈ t := by
  induction t with
  | nil => exact h
  | cons a t ih =>
    by_cases h1 : a.1 = k
    · simp only [Tbl.del, h1, if_true] at h; simp [h]
    · simp only [Tbl.del, h1, if_false, List.mem_cons] at h
      rcases h with h | h
      · simp [h]
      · simp [ih h]

/-- A listed entry is one that a read finds, or the default. -/
theorem Tbl.getD_mem {α : Type} (t : Tbl α) (k : Nat) (d : α) : Tbl.getD t k d = d ∨ (k, Tbl.getD t k d) ∈ t := by
  induction t with
  | nil => left; rfl
  | cons e t ih =>
    obtain ⟨a, b⟩ := e
    by_cases h : a = k
    · subst h; right; simp [Tbl.getD, Tbl.find]
    · have : Tbl.getD ((a, b) :: t) k d = Tbl.getD t k d := by simp [Tbl.getD, Tbl.find, h]
      rw [this]
      rcases ih with h | h
      · exact .inl h
      · exact .inr (List.mem_cons_of_mem _ h)

/-! ## Memory -/

theorem Mem.wf_iff (m : Mem) : m.wf = true ↔ Tbl.ok m = true ∧ ∀ e ∈ m, e.2 ≠ Mem.unlisted := by
  simp [Mem.wf]

/-- Empty memory is canonical. -/
theorem Mem.wf_nil : Mem.wf [] = true := by decide

/-- Writing a byte keeps the canonical form. -/
theorem Mem.wf_write {m : Mem} (h : m.wf = true) (a : Nat) (b : Byte) : (m.write a b).wf = true := by
  rw [Mem.wf_iff] at h ⊢
  unfold Mem.write
  by_cases hb : b = Mem.unlisted
  · simp only [hb, if_true]
    exact ⟨Tbl.ok_del a h.1, fun e he => h.2 e (Tbl.mem_del he)⟩
  · simp only [hb, if_false]
    refine ⟨Tbl.ok_put a b h.1, fun e he => ?_⟩
    rcases Tbl.mem_put he with he | he
    · subst he; exact hb
    · exact h.2 e he

/-- Writing bytes keeps the canonical form. -/
theorem Mem.wf_writeN {m : Mem} (h : m.wf = true) (a : Nat) (l : List Byte) : (m.writeN a l).wf = true := by
  induction l generalizing m a with
  | nil => exact h
  | cons b t ih => exact ih (Mem.wf_write h a b) (a + 1)

/-- Forgetting a range keeps the canonical form. -/
theorem Mem.wf_clear {m : Mem} (h : m.wf = true) (a n : Nat) : (m.clear a n).wf = true := by
  rw [Mem.wf_iff] at h ⊢
  exact ⟨Tbl.filter_risingFrom _ h.1, fun e he => h.2 e (List.mem_filter.1 he).1⟩

/-- A read after a write gives the byte written, and every other byte as it was. -/
theorem Mem.read_write {m : Mem} (h : m.wf = true) (a c : Nat) (b : Byte) :
    (m.write a b).read c = if c = a then b else m.read c := by
  have ho := ((Mem.wf_iff m).1 h).1
  unfold Mem.write Mem.read
  by_cases hb : b = Mem.unlisted
  · simp only [hb, if_true, Tbl.getD, Tbl.find_del a c ho]
    by_cases hc : c = a <;> simp [hc]
  · simp only [hb, if_false, Tbl.getD, Tbl.find_put]
    by_cases hc : c = a <;> simp [hc]

/-- Bytes outside a written range read as before. -/
theorem Mem.read_writeN_of_lt {m : Mem} (h : m.wf = true) (a c : Nat) (l : List Byte) (hc : c < a ∨ a + l.length ≤ c) :
    (m.writeN a l).read c = m.read c := by
  induction l generalizing m a with
  | nil => rfl
  | cons b t ih =>
    simp only [List.length_cons] at hc
    have h1 : c ≠ a := by omega
    rw [Mem.writeN, ih (Mem.wf_write h a b) (a + 1) (by omega), Mem.read_write h]
    simp [h1]

/-- A byte of a written range reads as written. -/
theorem Mem.read_writeN {m : Mem} (h : m.wf = true) (a i : Nat) (l : List Byte) (hi : i < l.length) :
    (m.writeN a l).read (a + i) = l[i] := by
  induction l generalizing m a i with
  | nil => exact absurd hi (by simp)
  | cons b t ih =>
    cases i with
    | zero =>
      rw [Mem.writeN, Mem.read_writeN_of_lt (Mem.wf_write h a b) (a + 1) (a + 0) t (by omega), Mem.read_write h]
      simp
    | succ i =>
      have e : a + (i + 1) = (a + 1) + i := by omega
      rw [Mem.writeN, e, ih (Mem.wf_write h a b) (a + 1) i (by simpa using hi)]
      simp

/-- Dropping an entry never lengthens a list. -/
theorem length_dropNth {α : Type} (l : List α) (n : Nat) : (dropNth l n).length ≤ l.length := by
  induction l generalizing n with
  | nil => cases n <;> exact Nat.le_refl _
  | cons a l ih =>
    cases n with
    | zero => exact Nat.le_succ _
    | succ n => exact Nat.succ_le_succ (ih n)

end Sys2Proof.Machine
end

