-- ==== Sys2Proof/Laws/Kept.lean ====
section
/-! SUPPORT. What every operation of the machine keeps: the queue of waiting commands, the raw counter, what has left the device,
the canonical form of the memories, the bound of the mailbox, and that no cold start is under way. One lemma for each operation says so in the other files
of this name; here are the relation and the operations that write memory. -/
namespace Sys2Proof.Machine

/-- What holds between a state and a later one within a command. -/
structure Kept (s t : State) : Prop where
  pending : t.pending = s.pending
  raw : t.time.raw = s.time.raw
  out : s.out <+: t.out
  mem : s.memOk = true → t.memOk = true
  mbox : s.mboxOk = true → t.mboxOk = true
  boot : s.mgmt.booting = none → t.mgmt.booting = none

/-- A die's memories are canonical when the first state's are. -/
def DieKept (s : State) (y : DieSt) : Prop := s.memOk = true → y.ok = true
/-- A memory is canonical when the first state's are. -/
def MemKept (s : State) (m : Mem) : Prop := s.memOk = true → m.wf = true

theorem Kept.refl (s : State) : Kept s s := ⟨rfl, rfl, List.prefix_refl _, id, id, id⟩

theorem Kept.trans {a b c : State} (h : Kept a b) (k : Kept b c) : Kept a c :=
  ⟨k.pending.trans h.pending, k.raw.trans h.raw, List.IsPrefix.trans h.out k.out, fun m => k.mem (h.mem m), fun m => k.mbox (h.mbox m),
    fun m => k.boot (h.boot m)⟩

/-- Name an intermediate state and forget how it was made. -/
theorem Kept.cut {P : Prop} {s x v : State} (hx : x = v) (h : Kept s v) (k : Kept s x → P) : P := k (hx ▸ h)
theorem Kept.cut2 {α : Type} {P : Prop} {s : State} {x v : α × State} (hx : x = v) (h : Kept s v.2) (k : Kept s x.2 → P) : P := k (hx ▸ h)
theorem Kept.cut3 {α β : Type} {P : Prop} {s : State} {x v : α × β × State} (hx : x = v) (h : Kept s v.2.2) (k : Kept s x.2.2 → P) : P :=
  k (hx ▸ h)
theorem Kept.cut1 {α : Type} {P : Prop} {s : State} {x v : State × α} (hx : x = v) (h : Kept s v.1) (k : Kept s x.1 → P) : P := k (hx ▸ h)
theorem DieKept.cut {P : Prop} {s : State} {x v : DieSt} (hx : x = v) (h : DieKept s v) (k : DieKept s x → P) : P := k (hx ▸ h)

/-! Record updates of fields that the relation does not name: outside TIME and management, in one of them, in both. -/

theorem Kept.upd {s0 s : State}
    {xfreeCtr : Nat} {xregs : RegSt} {xframes : Tbl Frame} {xheads : Tbl Head} {xstarts : Nat × Nat} {xmsgs : Tbl Msg}
    {xconvs : Tbl Conv} {xcache : Tbl (Tbl Cached)} {xreplies : Tbl Reply} {xpairs : Tbl PairQ} {xhandles : Tbl Handle}
    {xcores : Tbl Core} {xflights : Tbl Flight} {xdmas : Tbl StandDma} {xfevals : Tbl Feval} {xruns : Tbl ArrayRun} {xctxs
    : Tbl Ctx} {xboom : Boom} {xeports : Tbl EPort} {xlports : Tbl LPort} {xquads : Tbl Quad} {xunits : Units} {xtwin :
    Twin} {xpower : Power}
    (h : Kept s0 s) :
    Kept s0 ⟨
    s.pending, xfreeCtr, s.out, s.time, xregs, xframes, xheads, xstarts, xmsgs, xconvs, xcache, xreplies, xpairs,
    xhandles, xcores, xflights, xdmas, xfevals, xruns, xctxs, xboom, xeports, xlports, xquads, s.dies, xunits, xtwin,
    s.mgmt, xpower⟩ :=
  ⟨h.pending, h.raw, h.out, h.mem, h.mbox, h.boot⟩

theorem Kept.updT {s0 s : State}
    {xfreeCtr : Nat} {ttick : Nat} {trunning : Bool} {tphase : Nat} {tbaseRaw : Nat} {tbaseSec : Nat} {tbaseNs : Nat}
    {tbaseFrac : Nat} {tinc : Nat} {tgen : Nat} {tincFrac : Nat} {tpendInc : Option (Nat × Nat)} {tpendStep : Option (Bool
    × Nat × Nat × Nat)} {ttpo : Tbl Tpo} {tcap : Tbl Cap} {tptp : Tbl PtpPort} {tfell : Tbl Fell} {tfelled : List Felled}
    {tmodes : List ModeStep} {tringWr : Nat} {xregs : RegSt} {xframes : Tbl Frame} {xheads : Tbl Head} {xstarts : Nat ×
    Nat} {xmsgs : Tbl Msg} {xconvs : Tbl Conv} {xcache : Tbl (Tbl Cached)} {xreplies : Tbl Reply} {xpairs : Tbl PairQ}
    {xhandles : Tbl Handle} {xcores : Tbl Core} {xflights : Tbl Flight} {xdmas : Tbl StandDma} {xfevals : Tbl Feval}
    {xruns : Tbl ArrayRun} {xctxs : Tbl Ctx} {xboom : Boom} {xeports : Tbl EPort} {xlports : Tbl LPort} {xquads : Tbl
    Quad} {xunits : Units} {xtwin : Twin} {xpower : Power}
    (h : Kept s0 s) :
    Kept s0 ⟨
    s.pending, xfreeCtr, s.out, ⟨s.time.raw, ttick, trunning, tphase, tbaseRaw, tbaseSec, tbaseNs, tbaseFrac, tinc, tgen,
    tincFrac, tpendInc, tpendStep, ttpo, tcap, tptp, tfell, tfelled, tmodes, tringWr⟩, xregs, xframes, xheads, xstarts,
    xmsgs, xconvs, xcache, xreplies, xpairs, xhandles, xcores, xflights, xdmas, xfevals, xruns, xctxs, xboom, xeports,
    xlports, xquads, s.dies, xunits, xtwin, s.mgmt, xpower⟩ :=
  ⟨h.pending, h.raw, h.out, h.mem, h.mbox, h.boot⟩

theorem Kept.updM {s0 s : State}
    {xfreeCtr : Nat} {xregs : RegSt} {xframes : Tbl Frame} {xheads : Tbl Head} {xstarts : Nat × Nat} {xmsgs : Tbl Msg}
    {xconvs : Tbl Conv} {xcache : Tbl (Tbl Cached)} {xreplies : Tbl Reply} {xpairs : Tbl PairQ} {xhandles : Tbl Handle}
    {xcores : Tbl Core} {xflights : Tbl Flight} {xdmas : Tbl StandDma} {xfevals : Tbl Feval} {xruns : Tbl ArrayRun} {xctxs
    : Tbl Ctx} {xboom : Boom} {xeports : Tbl EPort} {xlports : Tbl LPort} {xquads : Tbl Quad} {xunits : Units} {xtwin :
    Twin} {mstage : Nat} {mready : Bool} {minService : Bool} {mleaveDue : Bool} {mdieIds : List Nat} {midentity : Nat}
    {mrev : Nat} {msvn : Nat} {mcounter0 : Nat} {mcounter1 : Nat} {mowner : Option (List Byte)} {mownerRec : Nat}
    {mmodelKeys : Tbl (List Byte)} {mfwDigest : List Byte} {mportMax : Nat} {mevq : Tbl (List EvEntry)} {mjr : Journal}
    {mcommit : CommitSt} {mrunning : Tbl Running} {mdma : Tbl DmaCh} {mmsix : Tbl Word} {madopt : Option (Nat × Nat)}
    {macts : List MgmtAct} {xpower : Power}
    (h : Kept s0 s) :
    Kept s0 ⟨
    s.pending, xfreeCtr, s.out, s.time, xregs, xframes, xheads, xstarts, xmsgs, xconvs, xcache, xreplies, xpairs,
    xhandles, xcores, xflights, xdmas, xfevals, xruns, xctxs, xboom, xeports, xlports, xquads, s.dies, xunits, xtwin,
    ⟨mstage, mready, minService, mleaveDue, mdieIds, midentity, mrev, msvn, mcounter0, mcounter1, mowner, mownerRec,
    mmodelKeys, mfwDigest, mportMax, mevq, mjr, mcommit, s.mgmt.mbox, mrunning, mdma, mmsix, madopt, macts,
    s.mgmt.booting⟩, xpower⟩ :=
  ⟨h.pending, h.raw, h.out, h.mem, h.mbox, h.boot⟩

theorem Kept.updTM {s0 s : State}
    {xfreeCtr : Nat} {ttick : Nat} {trunning : Bool} {tphase : Nat} {tbaseRaw : Nat} {tbaseSec : Nat} {tbaseNs : Nat}
    {tbaseFrac : Nat} {tinc : Nat} {tgen : Nat} {tincFrac : Nat} {tpendInc : Option (Nat × Nat)} {tpendStep : Option (Bool
    × Nat × Nat × Nat)} {ttpo : Tbl Tpo} {tcap : Tbl Cap} {tptp : Tbl PtpPort} {tfell : Tbl Fell} {tfelled : List Felled}
    {tmodes : List ModeStep} {tringWr : Nat} {xregs : RegSt} {xframes : Tbl Frame} {xheads : Tbl Head} {xstarts : Nat ×
    Nat} {xmsgs : Tbl Msg} {xconvs : Tbl Conv} {xcache : Tbl (Tbl Cached)} {xreplies : Tbl Reply} {xpairs : Tbl PairQ}
    {xhandles : Tbl Handle} {xcores : Tbl Core} {xflights : Tbl Flight} {xdmas : Tbl StandDma} {xfevals : Tbl Feval}
    {xruns : Tbl ArrayRun} {xctxs : Tbl Ctx} {xboom : Boom} {xeports : Tbl EPort} {xlports : Tbl LPort} {xquads : Tbl
    Quad} {xunits : Units} {xtwin : Twin} {mstage : Nat} {mready : Bool} {minService : Bool} {mleaveDue : Bool} {mdieIds :
    List Nat} {midentity : Nat} {mrev : Nat} {msvn : Nat} {mcounter0 : Nat} {mcounter1 : Nat} {mowner : Option (List
    Byte)} {mownerRec : Nat} {mmodelKeys : Tbl (List Byte)} {mfwDigest : List Byte} {mportMax : Nat} {mevq : Tbl (List
    EvEntry)} {mjr : Journal} {mcommit : CommitSt} {mrunning : Tbl Running} {mdma : Tbl DmaCh} {mmsix : Tbl Word} {madopt
    : Option (Nat × Nat)} {macts : List MgmtAct} {xpower : Power}
    (h : Kept s0 s) :
    Kept s0 ⟨
    s.pending, xfreeCtr, s.out, ⟨s.time.raw, ttick, trunning, tphase, tbaseRaw, tbaseSec, tbaseNs, tbaseFrac, tinc, tgen,
    tincFrac, tpendInc, tpendStep, ttpo, tcap, tptp, tfell, tfelled, tmodes, tringWr⟩, xregs, xframes, xheads, xstarts,
    xmsgs, xconvs, xcache, xreplies, xpairs, xhandles, xcores, xflights, xdmas, xfevals, xruns, xctxs, xboom, xeports,
    xlports, xquads, s.dies, xunits, xtwin, ⟨mstage, mready, minService, mleaveDue, mdieIds, midentity, mrev, msvn,
    mcounter0, mcounter1, mowner, mownerRec, mmodelKeys, mfwDigest, mportMax, mevq, mjr, mcommit, s.mgmt.mbox, mrunning,
    mdma, mmsix, madopt, macts, s.mgmt.booting⟩, xpower⟩ :=
  ⟨h.pending, h.raw, h.out, h.mem, h.mbox, h.boot⟩

/-- The cold start is over. -/
theorem Kept.updB {s0 s : State}
    {xfreeCtr : Nat} {xregs : RegSt} {xframes : Tbl Frame} {xheads : Tbl Head} {xstarts : Nat × Nat} {xmsgs : Tbl Msg}
    {xconvs : Tbl Conv} {xcache : Tbl (Tbl Cached)} {xreplies : Tbl Reply} {xpairs : Tbl PairQ} {xhandles : Tbl Handle}
    {xcores : Tbl Core} {xflights : Tbl Flight} {xdmas : Tbl StandDma} {xfevals : Tbl Feval} {xruns : Tbl ArrayRun} {xctxs
    : Tbl Ctx} {xboom : Boom} {xeports : Tbl EPort} {xlports : Tbl LPort} {xquads : Tbl Quad} {xunits : Units} {xtwin :
    Twin} {mstage : Nat} {mready : Bool} {minService : Bool} {mleaveDue : Bool} {mdieIds : List Nat} {midentity : Nat}
    {mrev : Nat} {msvn : Nat} {mcounter0 : Nat} {mcounter1 : Nat} {mowner : Option (List Byte)} {mownerRec : Nat}
    {mmodelKeys : Tbl (List Byte)} {mfwDigest : List Byte} {mportMax : Nat} {mevq : Tbl (List EvEntry)} {mjr : Journal}
    {mcommit : CommitSt} {mrunning : Tbl Running} {mdma : Tbl DmaCh} {mmsix : Tbl Word} {madopt : Option (Nat × Nat)}
    {macts : List MgmtAct} {xpower : Power}
    (h : Kept s0 s) :
    Kept s0 ⟨
    s.pending, xfreeCtr, s.out, s.time, xregs, xframes, xheads, xstarts, xmsgs, xconvs, xcache, xreplies, xpairs,
    xhandles, xcores, xflights, xdmas, xfevals, xruns, xctxs, xboom, xeports, xlports, xquads, s.dies, xunits, xtwin,
    ⟨mstage, mready, minService, mleaveDue, mdieIds, midentity, mrev, msvn, mcounter0, mcounter1, mowner, mownerRec,
    mmodelKeys, mfwDigest, mportMax, mevq, mjr, mcommit, s.mgmt.mbox, mrunning, mdma, mmsix, madopt, macts, none⟩, xpower⟩ :=
  ⟨h.pending, h.raw, h.out, h.mem, h.mbox, fun _ => rfl⟩

/-- Folding an operation that keeps. -/
theorem kept_foldl {α : Type} {s0 : State} (f : State → α → State) (l : List α) (s : State) (h : Kept s0 s)
    (hf : ∀ t a, Kept s0 t → Kept s0 (f t a)) : Kept s0 (l.foldl f s) := by
  induction l generalizing s with
  | nil => exact h
  | cons a l ih => exact ih (f s a) (hf s a h)

/-- Folding an operation that carries a value beside the state. -/
theorem kept_foldl2 {α β : Type} {s0 : State} (f : β × State → α → β × State) (l : List α) (b : β × State) (h : Kept s0 b.2)
    (hf : ∀ t a, Kept s0 t.2 → Kept s0 (f t a).2) : Kept s0 (l.foldl f b).2 := by
  induction l generalizing b with
  | nil => exact h
  | cons a l ih => exact ih (f b a) (hf b a h)

/-! ## Memory -/

theorem dieKept_die {s0 s : State} (d : Nat) (h : Kept s0 s) : DieKept s0 (s.die d) := by
  intro m
  have hm := h.mem m
  simp only [State.memOk, Bool.and_eq_true, List.all_eq_true] at hm
  rcases Tbl.getD_mem s.dies d {} with e | e
  · unfold State.die; rw [e]; decide
  · exact hm.2 _ e

theorem dieKept_upd {s0 : State} {a : Mem} {b : List Nat} {c : Bool} {f : Mem} {g : List Nat} {h : List (Nat × Nat)} {i : Option (Nat × Nat)} {j : List Nat} {k : List Nat} {l : Tbl (List Nat)} {m : Nat} {n : Tbl Nat}
    (x : MemKept s0 a) (y : MemKept s0 f) : DieKept s0 ⟨a, b, c, f, g, h, i, j, k, l, m, n⟩ := by
  intro q
  simp [DieSt.ok, x q, y q]

theorem memKept_dram {s0 : State} {y : DieSt} (h : DieKept s0 y) : MemKept s0 y.dram := fun m => by
  have := h m; simp only [DieSt.ok, Bool.and_eq_true] at this; exact this.1
theorem memKept_sram {s0 : State} {y : DieSt} (h : DieKept s0 y) : MemKept s0 y.sram := fun m => by
  have := h m; simp only [DieSt.ok, Bool.and_eq_true] at this; exact this.2
theorem memKept_nil {s0 : State} : MemKept s0 [] := fun _ => Mem.wf_nil
theorem memKept_write {s0 : State} {m : Mem} (a : Nat) (b : Byte) (h : MemKept s0 m) : MemKept s0 (m.write a b) :=
  fun k => Mem.wf_write (h k) a b
theorem memKept_writeN {s0 : State} {m : Mem} (a : Nat) (b : List Byte) (h : MemKept s0 m) : MemKept s0 (m.writeN a b) :=
  fun k => Mem.wf_writeN (h k) a b
theorem memKept_clear {s0 : State} {m : Mem} (a n : Nat) (h : MemKept s0 m) : MemKept s0 (m.clear a n) :=
  fun k => Mem.wf_clear (h k) a n

theorem memKept_clearSpans {s0 : State} {m : Mem} (l : List (Nat × Nat)) (h : MemKept s0 m) : MemKept s0 (m.clearSpans l) := by
  induction l generalizing m with
  | nil => exact h
  | cons r l ih => exact ih (memKept_clear r.1 r.2 h)
theorem memKept_writeSpans {s0 : State} {m : Mem} (o : List (Nat × Nat)) (b : List Byte) (h : MemKept s0 m) :
    MemKept s0 (m.writeSpans o b) := by
  induction o generalizing m b with
  | nil => exact h
  | cons r o ih => exact ih _ (memKept_writeN _ _ h)

/-- Moving a range keeps the canonical form. -/
theorem memKept_sramMove {s0 : State} {m : Mem} (src dst n : Nat) (h : MemKept s0 m) : MemKept s0 (sramMove m src dst n) := by
  intro k
  have g : ∀ (l : List (Nat × Byte)) (q : Mem), q.wf = true → (l.foldl (fun m e => Mem.write m (e.1 - src + dst) e.2) q).wf = true := by
    intro l
    induction l with
    | nil => exact fun q hq => hq
    | cons e l ih => exact fun q hq => ih _ (Mem.wf_write hq _ _)
  exact g _ _ (Mem.wf_clear (h k) dst n)

theorem kept_setDie {s0 s : State} (d : Nat) {x : DieSt} (h : Kept s0 s) (hx : DieKept s0 x) : Kept s0 (s.setDie d x) := by
  refine ⟨h.pending, h.raw, h.out, fun m => ?_, h.mbox, h.boot⟩
  have hm := h.mem m
  simp only [State.memOk, Bool.and_eq_true, List.all_eq_true] at hm ⊢
  refine ⟨Tbl.ok_put d x hm.1, fun e he => ?_⟩
  rcases Tbl.mem_put he with he | he
  · subst he; exact hx m
  · exact hm.2 e he

theorem dieKept_putByte {s0 : State} {x : DieSt} (a : Nat) (b : Byte) (h : DieKept s0 x) : DieKept s0 (x.putByte a b) := by
  unfold DieSt.putByte
  split
  · exact h
  · exact dieKept_upd (memKept_write a b (memKept_dram h)) (memKept_sram h)

theorem dieKept_writeSpans {s0 : State} {x : DieSt} (o : List (Nat × Nat)) (b : List Byte) (h : DieKept s0 x) :
    DieKept s0 (x.writeSpans o b) :=
  dieKept_upd (memKept_dram h) (memKept_writeSpans o b (memKept_sram h))

theorem dieKept_heal {s0 : State} {x : DieSt} (a : Nat) (h : DieKept s0 x) : DieKept s0 (x.heal a) :=
  dieKept_upd (memKept_dram h) (memKept_sram h)

/-- What leaves the device is only added to. -/
theorem kept_emit {s0 s : State} (o : Out) (h : Kept s0 s) : Kept s0 (s.emit o) :=
  ⟨h.pending, h.raw, List.IsPrefix.trans h.out (List.prefix_append _ _), h.mem, h.mbox, h.boot⟩

end Sys2Proof.Machine
end

