-- ==== Sys2Proof/Laws/KeptDevMem.lean ====
section
/-! SUPPORT. What the operations of DevMem.lean keep (Laws/Kept.lean). -/
namespace Sys2Proof.Machine
set_option linter.all false

theorem kept_setRw {s0 : State} (s : State) (off : Nat) (w : Word) (hk : Kept s0 s)  : Kept s0 (State.setRw s off w) := by
  unfold State.setRw
  exact Kept.upd hk

theorem kept_count {s0 : State} (s : State) (off : Nat) (hk : Kept s0 s)  : Kept s0 (State.count s off) := by
  unfold State.count
  exact Kept.upd hk

theorem kept_countN {s0 : State} (s : State) (off : Nat) (a : Nat) (hk : Kept s0 s)  : Kept s0 (State.countN s off a) := by
  induction a generalizing s off with
  | zero => exact hk
  | succ fuel ih =>
    unfold State.countN
    repeat' first
      | with_reducible apply ih
      | with_reducible assumption
      | with_reducible first
          | apply kept_count
      | ((try lift_lets -underBinder); intro x; clear_value (hx : x = _); first
          | refine Kept.cut (s := s0) hx ?_ (fun kx => ?_)
          | refine Kept.cut2 (s := s0) hx ?_ (fun kx => ?_)
          | (have : Mgmt := x; subst hx)
          | clear hx)
      | split
      | (with_reducible first | apply Kept.upd | apply Kept.updM | apply Kept.updT | apply Kept.updTM) <;> with_reducible first | assumption | apply kept_count

theorem kept_peak {s0 : State} (s : State) (off : Nat) (hi : Nat) (lo : Nat) (v : Nat) (hk : Kept s0 s)  : Kept s0 (State.peak s off hi lo v) := by
  unfold State.peak
  repeat' first
    | with_reducible assumption
    | with_reducible first
        | apply kept_setRw
    | ((try lift_lets -underBinder); intro x; clear_value (hx : x = _); first
        | refine Kept.cut (s := s0) hx ?_ (fun kx => ?_)
        | refine Kept.cut2 (s := s0) hx ?_ (fun kx => ?_)
        | (have : Mgmt := x; subst hx)
        | clear hx)
    | split
    | (with_reducible first | apply Kept.upd | apply Kept.updM | apply Kept.updT | apply Kept.updTM) <;> with_reducible first | assumption | apply kept_setRw

theorem kept_drawNat {s0 : State} (s : State) (n : Nat) (hk : Kept s0 s)  : Kept s0 (State.drawNat s n).2 := by
  unfold State.drawNat
  exact Kept.upd hk

theorem kept_dramWrite {s0 : State} (s : State) (a : Nat) (b : Byte) (hk : Kept s0 s)  : Kept s0 (State.dramWrite s a b) := by
  unfold State.dramWrite
  repeat' first
    | with_reducible assumption
    | with_reducible first
        | apply kept_setDie
        | apply dieKept_die
        | apply dieKept_putByte
        | apply dieKept_heal
        | apply dieKept_writeSpans
        | apply memKept_clearSpans
        | apply memKept_writeSpans
        | apply dieKept_upd
        | apply memKept_writeN
        | apply memKept_write
        | apply memKept_clear
        | apply memKept_sramMove
        | apply memKept_dram
        | apply memKept_sram
        | exact memKept_nil
    | ((try lift_lets -underBinder); intro x; clear_value (hx : x = _); first
        | refine Kept.cut (s := s0) hx ?_ (fun kx => ?_)
        | refine Kept.cut2 (s := s0) hx ?_ (fun kx => ?_)
        | (have : Mgmt := x; subst hx)
        | clear hx)
    | split
    | (with_reducible first | apply Kept.upd | apply Kept.updM | apply Kept.updT | apply Kept.updTM) <;> with_reducible first | assumption | apply kept_setDie | apply dieKept_die | apply dieKept_putByte | apply dieKept_heal | apply dieKept_writeSpans | apply memKept_clearSpans | apply memKept_writeSpans | apply dieKept_upd | apply memKept_writeN | apply memKept_write | apply memKept_clear | apply memKept_sramMove | apply memKept_dram | apply memKept_sram | exact memKept_nil

theorem kept_healWord {s0 : State} (s : State) (a : Nat) (hk : Kept s0 s)  : Kept s0 (State.healWord s a) := by
  unfold State.healWord
  repeat' first
    | with_reducible assumption
    | with_reducible first
        | apply kept_setDie
        | apply dieKept_die
        | apply dieKept_putByte
        | apply dieKept_heal
        | apply dieKept_writeSpans
        | apply memKept_clearSpans
        | apply memKept_writeSpans
        | apply dieKept_upd
        | apply memKept_writeN
        | apply memKept_write
        | apply memKept_clear
        | apply memKept_sramMove
        | apply memKept_dram
        | apply memKept_sram
        | exact memKept_nil
    | ((try lift_lets -underBinder); intro x; clear_value (hx : x = _); first
        | refine Kept.cut (s := s0) hx ?_ (fun kx => ?_)
        | refine Kept.cut2 (s := s0) hx ?_ (fun kx => ?_)
        | (have : Mgmt := x; subst hx)
        | clear hx)
    | split
    | (with_reducible first | apply Kept.upd | apply Kept.updM | apply Kept.updT | apply Kept.updTM) <;> with_reducible first | assumption | apply kept_setDie | apply dieKept_die | apply dieKept_putByte | apply dieKept_heal | apply dieKept_writeSpans | apply memKept_clearSpans | apply memKept_writeSpans | apply dieKept_upd | apply memKept_writeN | apply memKept_write | apply memKept_clear | apply memKept_sramMove | apply memKept_dram | apply memKept_sram | exact memKept_nil

theorem kept_devWrite {s0 : State} (s : State) (a : Nat) (x2 : List Byte) (hk : Kept s0 s)  : Kept s0 (State.devWrite s a x2) := by
  induction x2 generalizing s a with
  | nil => exact hk
  | cons y l ih =>
    unfold State.devWrite
    repeat' first
      | with_reducible apply ih
      | with_reducible assumption
      | with_reducible first
          | apply kept_dramWrite
          | apply kept_healWord
      | ((try lift_lets -underBinder); intro x; clear_value (hx : x = _); first
          | refine Kept.cut (s := s0) hx ?_ (fun kx => ?_)
          | refine Kept.cut2 (s := s0) hx ?_ (fun kx => ?_)
          | (have : Mgmt := x; subst hx)
          | clear hx)
      | split
      | (with_reducible first | apply Kept.upd | apply Kept.updM | apply Kept.updT | apply Kept.updTM) <;> with_reducible first | assumption | apply kept_dramWrite | apply kept_healWord

theorem kept_recordWrite {s0 : State} (s : State) (a : Nat) (b : List Byte) (status : Nat) (hk : Kept s0 s)  : Kept s0 (State.recordWrite s a b status).2 := by
  unfold State.recordWrite
  repeat' first
    | with_reducible assumption
    | with_reducible first
        | apply kept_devWrite
    | ((try lift_lets -underBinder); intro x; clear_value (hx : x = _); first
        | refine Kept.cut (s := s0) hx ?_ (fun kx => ?_)
        | refine Kept.cut2 (s := s0) hx ?_ (fun kx => ?_)
        | (have : Mgmt := x; subst hx)
        | clear hx)
    | split
    | (with_reducible first | apply Kept.upd | apply Kept.updM | apply Kept.updT | apply Kept.updTM) <;> with_reducible first | assumption | apply kept_devWrite

theorem kept_mirrorWord {s0 : State} (s : State) (a : Nat) (hk : Kept s0 s)  : Kept s0 (State.mirrorWord s a) := by
  unfold State.mirrorWord
  repeat' first
    | with_reducible assumption
    | with_reducible first
        | apply kept_setDie
        | apply dieKept_die
        | apply dieKept_putByte
        | apply dieKept_heal
        | apply dieKept_writeSpans
        | apply memKept_clearSpans
        | apply memKept_writeSpans
        | apply dieKept_upd
        | apply memKept_writeN
        | apply memKept_write
        | apply memKept_clear
        | apply memKept_sramMove
        | apply memKept_dram
        | apply memKept_sram
        | exact memKept_nil
    | ((try lift_lets -underBinder); intro x; clear_value (hx : x = _); first
        | refine Kept.cut (s := s0) hx ?_ (fun kx => ?_)
        | refine Kept.cut2 (s := s0) hx ?_ (fun kx => ?_)
        | refine Kept.cut3 (s := s0) hx ?_ (fun kx => ?_)
        | refine Kept.cut1 (s := s0) hx ?_ (fun kx => ?_)
        | refine DieKept.cut (s := s0) hx ?_ (fun kx => ?_)
        | (have : Mgmt := x; subst hx)
        | (have : TimeSt := x; subst hx)
        | clear hx)
    | with_reducible refine kept_foldl _ _ _ ?_ (fun t a kt => ?_)
    | with_reducible refine kept_foldl2 _ _ _ ?_ (fun t a kt => ?_)
    | intro _
    | split
    | (with_reducible first | apply Kept.upd | apply Kept.updM | apply Kept.updT | apply Kept.updTM) <;> with_reducible first | assumption | apply kept_setDie | apply dieKept_die | apply dieKept_putByte | apply dieKept_heal | apply dieKept_writeSpans | apply memKept_clearSpans | apply memKept_writeSpans | apply dieKept_upd | apply memKept_writeN | apply memKept_write | apply memKept_clear | apply memKept_sramMove | apply memKept_dram | apply memKept_sram | exact memKept_nil

theorem kept_mirrorHeal {s0 : State} (s : State) (a : Nat) (n : Nat) (hk : Kept s0 s)  : Kept s0 (State.mirrorHeal s a n) := by
  unfold State.mirrorHeal
  repeat' first
    | with_reducible assumption
    | with_reducible first
        | apply kept_mirrorWord
        | apply dieKept_die
        | apply dieKept_putByte
        | apply dieKept_heal
        | apply dieKept_writeSpans
        | apply memKept_clearSpans
        | apply memKept_writeSpans
        | apply dieKept_upd
        | apply memKept_writeN
        | apply memKept_write
        | apply memKept_clear
        | apply memKept_sramMove
        | apply memKept_dram
        | apply memKept_sram
        | exact memKept_nil
    | ((try lift_lets -underBinder); intro x; clear_value (hx : x = _); first
        | refine Kept.cut (s := s0) hx ?_ (fun kx => ?_)
        | refine Kept.cut2 (s := s0) hx ?_ (fun kx => ?_)
        | (have : Mgmt := x; subst hx)
        | clear hx)
    | with_reducible refine kept_foldl _ _ _ ?_ (fun t a kt => ?_)
    | intro _
    | split
    | (with_reducible first | apply Kept.upd | apply Kept.updM | apply Kept.updT | apply Kept.updTM) <;> with_reducible first | assumption | apply kept_mirrorWord | apply dieKept_die | apply dieKept_putByte | apply dieKept_heal | apply dieKept_writeSpans | apply memKept_clearSpans | apply memKept_writeSpans | apply dieKept_upd | apply memKept_writeN | apply memKept_write | apply memKept_clear | apply memKept_sramMove | apply memKept_dram | apply memKept_sram | exact memKept_nil

end Sys2Proof.Machine
end

