-- ==== Sys2Proof/Laws/KeptOps.lean ====
section
/-! SUPPORT. What the operations of Ops.lean keep (Laws/Kept.lean). -/
namespace Sys2Proof.Machine
set_option linter.all false

theorem kept_vector {s0 : State} (s : State) (n : Nat) (hk : Kept s0 s)  : Kept s0 (State.vector s n) := by
  unfold State.vector
  repeat' first
    | with_reducible assumption
    | with_reducible first
        | apply kept_emit
    | ((try lift_lets -underBinder); intro x; clear_value (hx : x = _); first
        | refine Kept.cut (s := s0) hx ?_ (fun kx => ?_)
        | refine Kept.cut2 (s := s0) hx ?_ (fun kx => ?_)
        | (have : Mgmt := x; subst hx)
        | clear hx)
    | split
    | (with_reducible first | apply Kept.upd | apply Kept.updM | apply Kept.updT | apply Kept.updTM) <;> with_reducible first | assumption | apply kept_emit

theorem kept_postV {s0 : State} (s : State) (q : Nat) (idx : Nat) (items : List (Nat × Nat)) (vec : Option Nat) (hk : Kept s0 s)  : Kept s0 (State.postV s q idx items vec) := by
  unfold State.postV
  repeat' first
    | with_reducible assumption
    | with_reducible first
        | apply kept_setRw
        | apply kept_vector
        | apply kept_count
    | ((try lift_lets -underBinder); intro x; clear_value (hx : x = _); first
        | refine Kept.cut (s := s0) hx ?_ (fun kx => ?_)
        | refine Kept.cut2 (s := s0) hx ?_ (fun kx => ?_)
        | (have : Mgmt := x; subst hx)
        | clear hx)
    | split
    | (with_reducible first | apply Kept.upd | apply Kept.updM | apply Kept.updT | apply Kept.updTM) <;> with_reducible first | assumption | apply kept_setRw | apply kept_vector | apply kept_count

theorem kept_post {s0 : State} (s : State) (q : Nat) (idx : Nat) (items : List (Nat × Nat)) (hk : Kept s0 s)  : Kept s0 (State.post s q idx items) := by
  unfold State.post
  exact kept_postV (hk := hk) ..

theorem kept_mboxDone {s0 : State} (s : State) (cmd : Nat) (status : Nat) (hk : Kept s0 s)  : Kept s0 (State.mboxDone s cmd status) := by
  unfold State.mboxDone
  exact kept_postV (hk := hk) ..

theorem kept_modelDone {s0 : State} (s : State) (handle : Nat) (status : Nat) (cmd : Nat) (hk : Kept s0 s)  : Kept s0 (State.modelDone s handle status cmd) := by
  unfold State.modelDone
  exact kept_post (hk := hk) ..

theorem kept_gateEvent {s0 : State} (s : State) (cause : Nat) (lport : Nat) (hk : Kept s0 s)  : Kept s0 (State.gateEvent s cause lport) := by
  unfold State.gateEvent
  exact kept_post (hk := hk) ..

theorem kept_logUe {s0 : State} (s : State) (d : Nat) (a : Nat) (hk : Kept s0 s)  : Kept s0 (State.logUe s d a) := by
  unfold State.logUe
  repeat' first
    | with_reducible assumption
    | with_reducible first
        | apply kept_setDie
        | apply dieKept_die
        | apply dieKept_putByte
        | apply dieKept_heal
        | apply dieKept_writeSpans
        | apply memKept_clearSpans
        | apply memKept_writeSpans
        | apply dieKept_upd
        | apply memKept_writeN
        | apply memKept_write
        | apply memKept_clear
        | apply memKept_sramMove
        | apply memKept_dram
        | apply memKept_sram
        | exact memKept_nil
    | ((try lift_lets -underBinder); intro x; clear_value (hx : x = _); first
        | refine Kept.cut (s := s0) hx ?_ (fun kx => ?_)
        | refine Kept.cut2 (s := s0) hx ?_ (fun kx => ?_)
        | (have : Mgmt := x; subst hx)
        | clear hx)
    | split
    | (with_reducible first | apply Kept.upd | apply Kept.updM | apply Kept.updT | apply Kept.updTM) <;> with_reducible first | assumption | apply kept_setDie | apply dieKept_die | apply dieKept_putByte | apply dieKept_heal | apply dieKept_writeSpans | apply memKept_clearSpans | apply memKept_writeSpans | apply dieKept_upd | apply memKept_writeN | apply memKept_write | apply memKept_clear | apply memKept_sramMove | apply memKept_dram | apply memKept_sram | exact memKept_nil

theorem kept_dramUe {s0 : State} (s : State) (d : Nat) (a : Nat) (hk : Kept s0 s)  : Kept s0 (State.dramUe s d a) := by
  unfold State.dramUe
  repeat' first
    | with_reducible assumption
    | with_reducible first
        | apply kept_post
        | apply kept_setDie
        | apply kept_count
        | apply dieKept_die
        | apply dieKept_putByte
        | apply dieKept_heal
        | apply dieKept_writeSpans
        | apply memKept_clearSpans
        | apply memKept_writeSpans
        | apply dieKept_upd
        | apply memKept_writeN
        | apply memKept_write
        | apply memKept_clear
        | apply memKept_sramMove
        | apply memKept_dram
        | apply memKept_sram
        | exact memKept_nil
    | ((try lift_lets -underBinder); intro x; clear_value (hx : x = _); first
        | refine Kept.cut (s := s0) hx ?_ (fun kx => ?_)
        | refine Kept.cut2 (s := s0) hx ?_ (fun kx => ?_)
        | (have : Mgmt := x; subst hx)
        | clear hx)
    | split
    | (with_reducible first | apply Kept.upd | apply Kept.updM | apply Kept.updT | apply Kept.updTM) <;> with_reducible first | assumption | apply kept_post | apply kept_setDie | apply kept_count | apply dieKept_die | apply dieKept_putByte | apply dieKept_heal | apply dieKept_writeSpans | apply memKept_clearSpans | apply memKept_writeSpans | apply dieKept_upd | apply memKept_writeN | apply memKept_write | apply memKept_clear | apply memKept_sramMove | apply memKept_dram | apply memKept_sram | exact memKept_nil

theorem kept_markSram {s0 : State} (s : State) (d : Nat) (o : Nat) (hk : Kept s0 s)  : Kept s0 (State.markSram s d o) := by
  unfold State.markSram
  repeat' first
    | with_reducible assumption
    | with_reducible first
        | apply kept_setDie
        | apply dieKept_die
        | apply dieKept_putByte
        | apply dieKept_heal
        | apply dieKept_writeSpans
        | apply memKept_clearSpans
        | apply memKept_writeSpans
        | apply dieKept_upd
        | apply memKept_writeN
        | apply memKept_write
        | apply memKept_clear
        | apply memKept_sramMove
        | apply memKept_dram
        | apply memKept_sram
        | exact memKept_nil
    | ((try lift_lets -underBinder); intro x; clear_value (hx : x = _); first
        | refine Kept.cut (s := s0) hx ?_ (fun kx => ?_)
        | refine Kept.cut2 (s := s0) hx ?_ (fun kx => ?_)
        | (have : Mgmt := x; subst hx)
        | clear hx)
    | split
    | (with_reducible first | apply Kept.upd | apply Kept.updM | apply Kept.updT | apply Kept.updTM) <;> with_reducible first | assumption | apply kept_setDie | apply dieKept_die | apply dieKept_putByte | apply dieKept_heal | apply dieKept_writeSpans | apply memKept_clearSpans | apply memKept_writeSpans | apply dieKept_upd | apply memKept_writeN | apply memKept_write | apply memKept_clear | apply memKept_sramMove | apply memKept_dram | apply memKept_sram | exact memKept_nil

theorem kept_sramUe {s0 : State} (s : State) (d : Nat) (o : Nat) (hk : Kept s0 s)  : Kept s0 (State.sramUe s d o) := by
  unfold State.sramUe
  repeat' first
    | with_reducible assumption
    | with_reducible first
        | apply kept_post
        | apply kept_logUe
        | apply kept_count
    | ((try lift_lets -underBinder); intro x; clear_value (hx : x = _); first
        | refine Kept.cut (s := s0) hx ?_ (fun kx => ?_)
        | refine Kept.cut2 (s := s0) hx ?_ (fun kx => ?_)
        | (have : Mgmt := x; subst hx)
        | clear hx)
    | split
    | (with_reducible first | apply Kept.upd | apply Kept.updM | apply Kept.updT | apply Kept.updTM) <;> with_reducible first | assumption | apply kept_post | apply kept_logUe | apply kept_count

theorem kept_spanUe {s0 : State} (s : State) (d : Nat) (l : List (Nat × Nat)) (hk : Kept s0 s)  : Kept s0 (State.spanUe s d l) := by
  unfold State.spanUe
  repeat' first
    | with_reducible assumption
    | with_reducible first
        | apply kept_markSram
        | apply kept_drawNat
        | apply kept_sramUe
    | ((try lift_lets -underBinder); intro x; clear_value (hx : x = _); first
        | refine Kept.cut (s := s0) hx ?_ (fun kx => ?_)
        | refine Kept.cut2 (s := s0) hx ?_ (fun kx => ?_)
        | (have : Mgmt := x; subst hx)
        | clear hx)
    | split
    | (with_reducible first | apply Kept.upd | apply Kept.updM | apply Kept.updT | apply Kept.updTM) <;> with_reducible first | assumption | apply kept_markSram | apply kept_drawNat | apply kept_sramUe

theorem kept_rangeUe {s0 : State} (s : State) (a : Nat) (n : Nat) (hk : Kept s0 s)  : Kept s0 (State.rangeUe s a n) := by
  unfold State.rangeUe
  repeat' first
    | with_reducible assumption
    | with_reducible first
        | apply kept_dramUe
        | apply kept_drawNat
    | ((try lift_lets -underBinder); intro x; clear_value (hx : x = _); first
        | refine Kept.cut (s := s0) hx ?_ (fun kx => ?_)
        | refine Kept.cut2 (s := s0) hx ?_ (fun kx => ?_)
        | (have : Mgmt := x; subst hx)
        | clear hx)
    | split
    | (with_reducible first | apply Kept.upd | apply Kept.updM | apply Kept.updT | apply Kept.updTM) <;> with_reducible first | assumption | apply kept_dramUe | apply kept_drawNat

theorem kept_poolUe {s0 : State} (s : State) (d : Nat) (hk : Kept s0 s)  : Kept s0 (State.poolUe s d) := by
  unfold State.poolUe
  repeat' first
    | with_reducible assumption
    | with_reducible first
        | apply kept_dramUe
        | apply kept_drawNat
    | ((try lift_lets -underBinder); intro x; clear_value (hx : x = _); first
        | refine Kept.cut (s := s0) hx ?_ (fun kx => ?_)
        | refine Kept.cut2 (s := s0) hx ?_ (fun kx => ?_)
        | (have : Mgmt := x; subst hx)
        | clear hx)
    | split
    | (with_reducible first | apply Kept.upd | apply Kept.updM | apply Kept.updT | apply Kept.updTM) <;> with_reducible first | assumption | apply kept_dramUe | apply kept_drawNat

theorem kept_healSram {s0 : State} (s : State) (d : Nat) (o : Nat) (n : Nat) (hk : Kept s0 s)  : Kept s0 (State.healSram s d o n) := by
  unfold State.healSram
  repeat' first
    | with_reducible assumption
    | with_reducible first
        | apply kept_setDie
        | apply dieKept_die
        | apply dieKept_putByte
        | apply dieKept_heal
        | apply dieKept_writeSpans
        | apply memKept_clearSpans
        | apply memKept_writeSpans
        | apply dieKept_upd
        | apply memKept_writeN
        | apply memKept_write
        | apply memKept_clear
        | apply memKept_sramMove
        | apply memKept_dram
        | apply memKept_sram
        | exact memKept_nil
    | ((try lift_lets -underBinder); intro x; clear_value (hx : x = _); first
        | refine Kept.cut (s := s0) hx ?_ (fun kx => ?_)
        | refine Kept.cut2 (s := s0) hx ?_ (fun kx => ?_)
        | refine Kept.cut3 (s := s0) hx ?_ (fun kx => ?_)
        | refine Kept.cut1 (s := s0) hx ?_ (fun kx => ?_)
        | refine DieKept.cut (s := s0) hx ?_ (fun kx => ?_)
        | (have : Mgmt := x; subst hx)
        | (have : TimeSt := x; subst hx)
        | clear hx)
    | with_reducible refine kept_foldl _ _ _ ?_ (fun t a kt => ?_)
    | with_reducible refine kept_foldl2 _ _ _ ?_ (fun t a kt => ?_)
    | intro _
    | split
    | (with_reducible first | apply Kept.upd | apply Kept.updM | apply Kept.updT | apply Kept.updTM) <;> with_reducible first | assumption | apply kept_setDie | apply dieKept_die | apply dieKept_putByte | apply dieKept_heal | apply dieKept_writeSpans | apply memKept_clearSpans | apply memKept_writeSpans | apply dieKept_upd | apply memKept_writeN | apply memKept_write | apply memKept_clear | apply memKept_sramMove | apply memKept_dram | apply memKept_sram | exact memKept_nil

theorem kept_healSpans {s0 : State} (s : State) (d : Nat) (l : List (Nat × Nat)) (hk : Kept s0 s)  : Kept s0 (State.healSpans s d l) := by
  unfold State.healSpans
  repeat' first
    | with_reducible assumption
    | with_reducible first
        | apply kept_healSram
    | ((try lift_lets -underBinder); intro x; clear_value (hx : x = _); first
        | refine Kept.cut (s := s0) hx ?_ (fun kx => ?_)
        | refine Kept.cut2 (s := s0) hx ?_ (fun kx => ?_)
        | refine Kept.cut3 (s := s0) hx ?_ (fun kx => ?_)
        | refine Kept.cut1 (s := s0) hx ?_ (fun kx => ?_)
        | refine DieKept.cut (s := s0) hx ?_ (fun kx => ?_)
        | (have : Mgmt := x; subst hx)
        | (have : TimeSt := x; subst hx)
        | clear hx)
    | with_reducible refine kept_foldl _ _ _ ?_ (fun t a kt => ?_)
    | with_reducible refine kept_foldl2 _ _ _ ?_ (fun t a kt => ?_)
    | intro _
    | split
    | (with_reducible first | apply Kept.upd | apply Kept.updM | apply Kept.updT | apply Kept.updTM) <;> with_reducible first | assumption | apply kept_healSram

theorem kept_makeRoom {s0 : State} (s : State) (hk : Kept s0 s)  : Kept s0 (State.makeRoom s) := by
  unfold State.makeRoom
  repeat' first
    | with_reducible assumption
    | ((try lift_lets -underBinder); intro x; clear_value (hx : x = _); first
        | refine Kept.cut (s := s0) hx ?_ (fun kx => ?_)
        | refine Kept.cut2 (s := s0) hx ?_ (fun kx => ?_)
        | (have : Mgmt := x; subst hx)
        | clear hx)
    | split
    | (with_reducible first | apply Kept.upd | apply Kept.updM | apply Kept.updT | apply Kept.updTM) <;> with_reducible first | assumption

theorem kept_drainJrnl {s0 : State} (s : State) (a : Nat) (hk : Kept s0 s)  : Kept s0 (State.drainJrnl s a) := by
  induction a generalizing s with
  | zero => exact hk
  | succ fuel ih =>
    unfold State.drainJrnl
    repeat' first
      | with_reducible apply ih
      | with_reducible assumption
      | with_reducible first
          | apply kept_devWrite
      | ((try lift_lets -underBinder); intro x; clear_value (hx : x = _); first
          | refine Kept.cut (s := s0) hx ?_ (fun kx => ?_)
          | refine Kept.cut2 (s := s0) hx ?_ (fun kx => ?_)
          | (have : Mgmt := x; subst hx)
          | clear hx)
      | split
      | (with_reducible first | apply Kept.upd | apply Kept.updM | apply Kept.updT | apply Kept.updTM) <;> with_reducible first | assumption | apply kept_devWrite

theorem kept_refillJrnl {s0 : State} (s : State) (a : Nat) (hk : Kept s0 s)  : Kept s0 (State.refillJrnl s a) := by
  induction a generalizing s with
  | zero => exact hk
  | succ fuel ih =>
    unfold State.refillJrnl
    repeat' first
      | with_reducible apply ih
      | with_reducible assumption
      | ((try lift_lets -underBinder); intro x; clear_value (hx : x = _); first
          | refine Kept.cut (s := s0) hx ?_ (fun kx => ?_)
          | refine Kept.cut2 (s := s0) hx ?_ (fun kx => ?_)
          | (have : Mgmt := x; subst hx)
          | clear hx)
      | split
      | (with_reducible first | apply Kept.upd | apply Kept.updM | apply Kept.updT | apply Kept.updTM) <;> with_reducible first | assumption

theorem kept_jrnlLevels {s0 : State} (s : State) (hk : Kept s0 s)  : Kept s0 (State.jrnlLevels s) := by
  unfold State.jrnlLevels
  repeat' first
    | with_reducible assumption
    | with_reducible first
        | apply kept_post
    | ((try lift_lets -underBinder); intro x; clear_value (hx : x = _); first
        | refine Kept.cut (s := s0) hx ?_ (fun kx => ?_)
        | refine Kept.cut2 (s := s0) hx ?_ (fun kx => ?_)
        | (have : Mgmt := x; subst hx)
        | clear hx)
    | split
    | (with_reducible first | apply Kept.upd | apply Kept.updM | apply Kept.updT | apply Kept.updTM) <;> with_reducible first | assumption | apply kept_post

theorem kept_settleJrnl {s0 : State} (s : State) (hk : Kept s0 s)  : Kept s0 (State.settleJrnl s) := by
  unfold State.settleJrnl
  repeat' first
    | with_reducible assumption
    | with_reducible first
        | apply kept_refillJrnl
        | apply kept_jrnlLevels
        | apply kept_drainJrnl
    | ((try lift_lets -underBinder); intro x; clear_value (hx : x = _); first
        | refine Kept.cut (s := s0) hx ?_ (fun kx => ?_)
        | refine Kept.cut2 (s := s0) hx ?_ (fun kx => ?_)
        | (have : Mgmt := x; subst hx)
        | clear hx)
    | split
    | (with_reducible first | apply Kept.upd | apply Kept.updM | apply Kept.updT | apply Kept.updTM) <;> with_reducible first | assumption | apply kept_refillJrnl | apply kept_jrnlLevels | apply kept_drainJrnl

theorem kept_journal {s0 : State} (s : State) (kind : Nat) (sub : Nat) (target : Nat) (value : Option (List Byte)) (origin : Nat) (hk : Kept s0 s)  : Kept s0 (State.journal s kind sub target value origin) := by
  unfold State.journal
  repeat' first
    | with_reducible assumption
    | with_reducible first
        | apply kept_settleJrnl
        | apply kept_makeRoom
    | ((try lift_lets -underBinder); intro x; clear_value (hx : x = _); first
        | refine Kept.cut (s := s0) hx ?_ (fun kx => ?_)
        | refine Kept.cut2 (s := s0) hx ?_ (fun kx => ?_)
        | (have : Mgmt := x; subst hx)
        | clear hx)
    | split
    | (with_reducible first | apply Kept.upd | apply Kept.updM | apply Kept.updT | apply Kept.updTM) <;> with_reducible first | assumption | apply kept_settleJrnl | apply kept_makeRoom

theorem kept_setEp {s0 : State} (s : State) (e : Nat) (p : EPort) (hk : Kept s0 s)  : Kept s0 (State.setEp s e p) := by
  unfold State.setEp
  exact Kept.upd hk

theorem kept_setLp {s0 : State} (s : State) (l : Nat) (p : LPort) (hk : Kept s0 s)  : Kept s0 (State.setLp s l p) := by
  unfold State.setLp
  exact Kept.upd hk

theorem kept_setQuad {s0 : State} (s : State) (q : Nat) (x : Quad) (hk : Kept s0 s)  : Kept s0 (State.setQuad s q x) := by
  unfold State.setQuad
  exact Kept.upd hk

end Sys2Proof.Machine
end

