-- ==== Sys2Proof/Laws/KeptReply.lean ====
section
/-! SUPPORT. What the operations of Reply.lean keep (Laws/Kept.lean). -/
namespace Sys2Proof.Machine
set_option linter.all false

theorem kept_addReply {s0 : State} (s : State) (r : Reply) (hk : Kept s0 s)  : Kept s0 (State.addReply s r) := by
  unfold State.addReply
  exact Kept.upd hk

theorem kept_answerW {s0 : State} (s : State) (warn : Bool) (org : Origin) (frames : List Nat) (status : Nat) (detail : Nat) (info : Nat) (counted : Bool) (hk : Kept s0 s)  : Kept s0 (State.answerW s warn org frames status detail info counted) := by
  unfold State.answerW
  repeat' first
    | with_reducible assumption
    | with_reducible first
        | apply kept_addReply
        | apply kept_count
    | ((try lift_lets -underBinder); intro x; clear_value (hx : x = _); first
        | refine Kept.cut (s := s0) hx ?_ (fun kx => ?_)
        | refine Kept.cut2 (s := s0) hx ?_ (fun kx => ?_)
        | (have : Mgmt := x; subst hx)
        | clear hx)
    | split
    | (with_reducible first | apply Kept.upd | apply Kept.updM | apply Kept.updT | apply Kept.updTM) <;> with_reducible first | assumption | apply kept_addReply | apply kept_count

theorem kept_answer {s0 : State} (s : State) (org : Origin) (frames : List Nat) (status : Nat) (detail : Nat) (info : Nat) (counted : Bool) (hk : Kept s0 s)  : Kept s0 (State.answer s org frames status detail info counted) := by
  unfold State.answer
  exact kept_answerW (hk := hk) ..

theorem kept_answerBusyW {s0 : State} (s : State) (warn : Bool) (org : Origin) (frames : List Nat) (detail : Nat) (info : Nat) (hk : Kept s0 s)  : Kept s0 (State.answerBusyW s warn org frames detail info) := by
  unfold State.answerBusyW
  repeat' first
    | with_reducible assumption
    | with_reducible first
        | apply kept_answerW
        | apply kept_count
    | ((try lift_lets -underBinder); intro x; clear_value (hx : x = _); first
        | refine Kept.cut (s := s0) hx ?_ (fun kx => ?_)
        | refine Kept.cut2 (s := s0) hx ?_ (fun kx => ?_)
        | (have : Mgmt := x; subst hx)
        | clear hx)
    | split
    | (with_reducible first | apply Kept.upd | apply Kept.updM | apply Kept.updT | apply Kept.updTM) <;> with_reducible first | assumption | apply kept_answerW | apply kept_count

theorem kept_answerBusy {s0 : State} (s : State) (org : Origin) (frames : List Nat) (detail : Nat) (info : Nat) (hk : Kept s0 s)  : Kept s0 (State.answerBusy s org frames detail info) := by
  unfold State.answerBusy
  exact kept_answerBusyW (hk := hk) ..

end Sys2Proof.Machine
end

