-- ==== Sys2Proof/Laws/KeptLinkTx.lean ====
section
/-! SUPPORT. What the operations of LinkTx.lean keep (Laws/Kept.lean). -/
namespace Sys2Proof.Machine
set_option linter.all false

theorem kept_freeTx {s0 : State} (s : State) (e : Nat) (hk : Kept s0 s)  : Kept s0 (State.freeTx s e) := by
  unfold State.freeTx
  repeat' first
    | with_reducible assumption
    | with_reducible first
        | apply kept_setEp
    | ((try lift_lets -underBinder); intro x; clear_value (hx : x = _); first
        | refine Kept.cut (s := s0) hx ?_ (fun kx => ?_)
        | refine Kept.cut2 (s := s0) hx ?_ (fun kx => ?_)
        | (have : Mgmt := x; subst hx)
        | clear hx)
    | split
    | (with_reducible first | apply Kept.upd | apply Kept.updM | apply Kept.updT | apply Kept.updTM) <;> with_reducible first | assumption | apply kept_setEp

theorem kept_occupy {s0 : State} (s : State) (e : Nat) (n : Nat) (hk : Kept s0 s)  : Kept s0 (State.occupy s e n) := by
  unfold State.occupy
  exact Kept.upd hk

theorem kept_putFrame {s0 : State} (s : State) (e : Nat) (bytes : List Byte) (good : Bool) (left : Nat) (hk : Kept s0 s)  : Kept s0 (State.putFrame s e bytes good left) := by
  unfold State.putFrame
  repeat' first
    | with_reducible assumption
    | with_reducible first
        | apply kept_freeTx
        | apply kept_occupy
        | apply kept_emit
    | ((try lift_lets -underBinder); intro x; clear_value (hx : x = _); first
        | refine Kept.cut (s := s0) hx ?_ (fun kx => ?_)
        | refine Kept.cut2 (s := s0) hx ?_ (fun kx => ?_)
        | (have : Mgmt := x; subst hx)
        | clear hx)
    | split
    | (with_reducible first | apply Kept.upd | apply Kept.updM | apply Kept.updT | apply Kept.updTM) <;> with_reducible first | assumption | apply kept_freeTx | apply kept_occupy | apply kept_emit

theorem kept_linkOpen {s0 : State} (s : State) (e : Nat) (rest : List Byte) (good : Bool) (bseq : Option Nat) (hk : Kept s0 s)  : Kept s0 (State.linkOpen s e rest good bseq).2 := by
  unfold State.linkOpen
  repeat' first
    | with_reducible assumption
    | with_reducible first
        | apply kept_setEp
        | apply kept_setLp
    | ((try lift_lets -underBinder); intro x; clear_value (hx : x = _); first
        | refine Kept.cut (s := s0) hx ?_ (fun kx => ?_)
        | refine Kept.cut2 (s := s0) hx ?_ (fun kx => ?_)
        | (have : Mgmt := x; subst hx)
        | clear hx)
    | split
    | (with_reducible first | apply Kept.upd | apply Kept.updM | apply Kept.updT | apply Kept.updTM) <;> with_reducible first | assumption | apply kept_setEp | apply kept_setLp

theorem kept_linkStart {s0 : State} (s : State) (e : Nat) (rest : List Byte) (good : Bool) (bseq : Option Nat) (left : Nat) (hk : Kept s0 s)  : Kept s0 (State.linkStart s e rest good bseq left) := by
  unfold State.linkStart
  repeat' first
    | with_reducible assumption
    | with_reducible first
        | apply kept_linkOpen
        | apply kept_putFrame
    | ((try lift_lets -underBinder); intro x; clear_value (hx : x = _); first
        | refine Kept.cut (s := s0) hx ?_ (fun kx => ?_)
        | refine Kept.cut2 (s := s0) hx ?_ (fun kx => ?_)
        | (have : Mgmt := x; subst hx)
        | clear hx)
    | split
    | (with_reducible first | apply Kept.upd | apply Kept.updM | apply Kept.updT | apply Kept.updTM) <;> with_reducible first | assumption | apply kept_linkOpen | apply kept_putFrame

theorem kept_linkClose {s0 : State} (s : State) (e : Nat) (rest : List Byte) (good : Bool) (hk : Kept s0 s)  : Kept s0 (State.linkClose s e rest good) := by
  unfold State.linkClose
  repeat' first
    | with_reducible assumption
    | with_reducible first
        | apply kept_setEp
        | apply kept_putFrame
    | ((try lift_lets -underBinder); intro x; clear_value (hx : x = _); first
        | refine Kept.cut (s := s0) hx ?_ (fun kx => ?_)
        | refine Kept.cut2 (s := s0) hx ?_ (fun kx => ?_)
        | (have : Mgmt := x; subst hx)
        | clear hx)
    | split
    | (with_reducible first | apply Kept.upd | apply Kept.updM | apply Kept.updT | apply Kept.updTM) <;> with_reducible first | assumption | apply kept_setEp | apply kept_putFrame

theorem kept_linkCut {s0 : State} (s : State) (e : Nat) (hk : Kept s0 s)  : Kept s0 (State.linkCut s e) := by
  unfold State.linkCut
  repeat' first
    | with_reducible assumption
    | with_reducible first
        | apply kept_setEp
    | ((try lift_lets -underBinder); intro x; clear_value (hx : x = _); first
        | refine Kept.cut (s := s0) hx ?_ (fun kx => ?_)
        | refine Kept.cut2 (s := s0) hx ?_ (fun kx => ?_)
        | (have : Mgmt := x; subst hx)
        | clear hx)
    | split
    | (with_reducible first | apply Kept.upd | apply Kept.updM | apply Kept.updT | apply Kept.updTM) <;> with_reducible first | assumption | apply kept_setEp

theorem kept_sendFrame {s0 : State} (s : State) (e : Nat) (bytes : List Byte) (good : Bool) (left : Nat) (hk : Kept s0 s)  : Kept s0 (State.sendFrame s e bytes good left) := by
  unfold State.sendFrame
  repeat' first
    | with_reducible assumption
    | with_reducible first
        | apply kept_putFrame
        | apply kept_linkStart
    | ((try lift_lets -underBinder); intro x; clear_value (hx : x = _); first
        | refine Kept.cut (s := s0) hx ?_ (fun kx => ?_)
        | refine Kept.cut2 (s := s0) hx ?_ (fun kx => ?_)
        | (have : Mgmt := x; subst hx)
        | clear hx)
    | split
    | (with_reducible first | apply Kept.upd | apply Kept.updM | apply Kept.updT | apply Kept.updTM) <;> with_reducible first | assumption | apply kept_putFrame | apply kept_linkStart

theorem kept_openFrame {s0 : State} (s : State) (e : Nat) (bytes : List Byte) (hk : Kept s0 s)  : Kept s0 (State.openFrame s e bytes) := by
  unfold State.openFrame
  repeat' first
    | with_reducible assumption
    | with_reducible first
        | apply kept_linkOpen
        | apply kept_setEp
    | ((try lift_lets -underBinder); intro x; clear_value (hx : x = _); first
        | refine Kept.cut (s := s0) hx ?_ (fun kx => ?_)
        | refine Kept.cut2 (s := s0) hx ?_ (fun kx => ?_)
        | (have : Mgmt := x; subst hx)
        | clear hx)
    | split
    | (with_reducible first | apply Kept.upd | apply Kept.updM | apply Kept.updT | apply Kept.updTM) <;> with_reducible first | assumption | apply kept_linkOpen | apply kept_setEp

theorem kept_endFrame {s0 : State} (s : State) (e : Nat) (bytes : List Byte) (good : Bool) (hk : Kept s0 s)  : Kept s0 (State.endFrame s e bytes good) := by
  unfold State.endFrame
  repeat' first
    | with_reducible assumption
    | with_reducible first
        | apply kept_linkClose
        | apply kept_putFrame
    | ((try lift_lets -underBinder); intro x; clear_value (hx : x = _); first
        | refine Kept.cut (s := s0) hx ?_ (fun kx => ?_)
        | refine Kept.cut2 (s := s0) hx ?_ (fun kx => ?_)
        | (have : Mgmt := x; subst hx)
        | clear hx)
    | split
    | (with_reducible first | apply Kept.upd | apply Kept.updM | apply Kept.updT | apply Kept.updTM) <;> with_reducible first | assumption | apply kept_linkClose | apply kept_putFrame

theorem kept_linkVoid {s0 : State} (s : State) (e : Nat) (h : LinkHeld) (hk : Kept s0 s)  : Kept s0 (State.linkVoid s e h) := by
  unfold State.linkVoid
  repeat' first
    | with_reducible assumption
    | with_reducible first
        | apply kept_setEp
        | apply kept_putFrame
    | ((try lift_lets -underBinder); intro x; clear_value (hx : x = _); first
        | refine Kept.cut (s := s0) hx ?_ (fun kx => ?_)
        | refine Kept.cut2 (s := s0) hx ?_ (fun kx => ?_)
        | (have : Mgmt := x; subst hx)
        | clear hx)
    | split
    | (with_reducible first | apply Kept.upd | apply Kept.updM | apply Kept.updT | apply Kept.updTM) <;> with_reducible first | assumption | apply kept_setEp | apply kept_putFrame

end Sys2Proof.Machine
end

