-- ==== Sys2Proof/Laws/KeptEgress.lean ====
section
/-! SUPPORT. What the operations of Egress.lean keep (Laws/Kept.lean). -/
namespace Sys2Proof.Machine
set_option linter.all false

theorem kept_markReady {s0 : State} (s : State) (hk : Kept s0 s)  : Kept s0 (State.markReady s) := by
  unfold State.markReady
  repeat' first
    | with_reducible assumption
    | ((try lift_lets -underBinder); intro x; clear_value (hx : x = _); first
        | refine Kept.cut (s := s0) hx ?_ (fun kx => ?_)
        | refine Kept.cut2 (s := s0) hx ?_ (fun kx => ?_)
        | (have : Mgmt := x; subst hx)
        | clear hx)
    | with_reducible refine kept_foldl _ _ _ ?_ (fun t a kt => ?_)
    | intro _
    | split
    | (with_reducible first | apply Kept.upd | apply Kept.updM | apply Kept.updT | apply Kept.updTM) <;> with_reducible first | assumption

theorem kept_flushPfc {s0 : State} (s : State) (e : Nat) (hk : Kept s0 s)  : Kept s0 (State.flushPfc s e) := by
  unfold State.flushPfc
  repeat' first
    | with_reducible assumption
    | with_reducible first
        | apply kept_freeTx
        | apply kept_setEp
        | apply kept_occupy
        | apply kept_emit
    | ((try lift_lets -underBinder); intro x; clear_value (hx : x = _); first
        | refine Kept.cut (s := s0) hx ?_ (fun kx => ?_)
        | refine Kept.cut2 (s := s0) hx ?_ (fun kx => ?_)
        | (have : Mgmt := x; subst hx)
        | clear hx)
    | split
    | (with_reducible first | apply Kept.upd | apply Kept.updM | apply Kept.updT | apply Kept.updTM) <;> with_reducible first | assumption | apply kept_freeTx | apply kept_setEp | apply kept_occupy | apply kept_emit

theorem kept_portSend {s0 : State} (s : State) (l : Nat) (bytes : List Byte) (hk : Kept s0 s)  : Kept s0 (State.portSend s l bytes) := by
  unfold State.portSend
  repeat' first
    | with_reducible assumption
    | with_reducible first
        | apply kept_sendFrame
        | apply kept_setLp
    | ((try lift_lets -underBinder); intro x; clear_value (hx : x = _); first
        | refine Kept.cut (s := s0) hx ?_ (fun kx => ?_)
        | refine Kept.cut2 (s := s0) hx ?_ (fun kx => ?_)
        | (have : Mgmt := x; subst hx)
        | clear hx)
    | split
    | (with_reducible first | apply Kept.upd | apply Kept.updM | apply Kept.updT | apply Kept.updTM) <;> with_reducible first | assumption | apply kept_sendFrame | apply kept_setLp

theorem kept_drainWait {s0 : State} (s : State) (l : Nat) (a : Nat) (hk : Kept s0 s)  : Kept s0 (State.drainWait s l a) := by
  induction a generalizing s l with
  | zero => exact hk
  | succ fuel ih =>
    unfold State.drainWait
    repeat' first
      | with_reducible apply ih
      | with_reducible assumption
      | with_reducible first
          | apply kept_setLp
          | apply kept_linkStart
          | apply kept_sendFrame
          | apply kept_linkVoid
      | ((try lift_lets -underBinder); intro x; clear_value (hx : x = _); first
          | refine Kept.cut (s := s0) hx ?_ (fun kx => ?_)
          | refine Kept.cut2 (s := s0) hx ?_ (fun kx => ?_)
          | (have : Mgmt := x; subst hx)
          | clear hx)
      | split
      | (with_reducible first | apply Kept.upd | apply Kept.updM | apply Kept.updT | apply Kept.updTM) <;> with_reducible first | assumption | apply kept_setLp | apply kept_linkStart | apply kept_sendFrame | apply kept_linkVoid

end Sys2Proof.Machine
end

