-- ==== Sys2Proof/Laws/KeptParser.lean ====
section
/-! SUPPORT. What the operations of Parser.lean keep (Laws/Kept.lean). -/
namespace Sys2Proof.Machine
set_option linter.all false

theorem kept_putPfc {s0 : State} (s : State) (e : Nat) (ps : List Nat) (pause : Bool) (hk : Kept s0 s)  : Kept s0 (State.putPfc s e ps pause) := by
  unfold State.putPfc
  repeat' first
    | with_reducible assumption
    | with_reducible first
        | apply kept_setEp
        | apply kept_flushPfc
    | ((try lift_lets -underBinder); intro x; clear_value (hx : x = _); first
        | refine Kept.cut (s := s0) hx ?_ (fun kx => ?_)
        | refine Kept.cut2 (s := s0) hx ?_ (fun kx => ?_)
        | (have : Mgmt := x; subst hx)
        | clear hx)
    | split
    | (with_reducible first | apply Kept.upd | apply Kept.updM | apply Kept.updT | apply Kept.updTM) <;> with_reducible first | assumption | apply kept_setEp | apply kept_flushPfc

theorem kept_pfcAssert {s0 : State} (s : State) (e : Nat) (now : Nat) (hk : Kept s0 s)  : Kept s0 (State.pfcAssert s e now) := by
  unfold State.pfcAssert
  repeat' first
    | with_reducible assumption
    | with_reducible first
        | apply kept_setEp
        | apply kept_putPfc
    | ((try lift_lets -underBinder); intro x; clear_value (hx : x = _); first
        | refine Kept.cut (s := s0) hx ?_ (fun kx => ?_)
        | refine Kept.cut2 (s := s0) hx ?_ (fun kx => ?_)
        | (have : Mgmt := x; subst hx)
        | clear hx)
    | split
    | (with_reducible first | apply Kept.upd | apply Kept.updM | apply Kept.updT | apply Kept.updTM) <;> with_reducible first | assumption | apply kept_setEp | apply kept_putPfc

theorem kept_pfcRelease {s0 : State} (s : State) (e : Nat) (hk : Kept s0 s)  : Kept s0 (State.pfcRelease s e) := by
  unfold State.pfcRelease
  repeat' first
    | with_reducible assumption
    | with_reducible first
        | apply kept_setEp
        | apply kept_putPfc
    | ((try lift_lets -underBinder); intro x; clear_value (hx : x = _); first
        | refine Kept.cut (s := s0) hx ?_ (fun kx => ?_)
        | refine Kept.cut2 (s := s0) hx ?_ (fun kx => ?_)
        | (have : Mgmt := x; subst hx)
        | clear hx)
    | split
    | (with_reducible first | apply Kept.upd | apply Kept.updM | apply Kept.updT | apply Kept.updTM) <;> with_reducible first | assumption | apply kept_setEp | apply kept_putPfc

theorem kept_regap {s0 : State} (s : State) (k : Nat) (hk : Kept s0 s)  : Kept s0 (State.regap s k) := by
  unfold State.regap
  exact Kept.upd hk

theorem kept_creditBack {s0 : State} (s : State) (e : Nat) (n : Nat) (hk : Kept s0 s)  : Kept s0 (State.creditBack s e n) := by
  unfold State.creditBack
  repeat' first
    | with_reducible assumption
    | with_reducible first
        | apply kept_setEp
    | ((try lift_lets -underBinder); intro x; clear_value (hx : x = _); first
        | refine Kept.cut (s := s0) hx ?_ (fun kx => ?_)
        | refine Kept.cut2 (s := s0) hx ?_ (fun kx => ?_)
        | (have : Mgmt := x; subst hx)
        | clear hx)
    | split
    | (with_reducible first | apply Kept.upd | apply Kept.updM | apply Kept.updT | apply Kept.updTM) <;> with_reducible first | assumption | apply kept_setEp

theorem kept_noMatch {s0 : State} (s : State) (n : Nat) (f : Frame) (hk : Kept s0 s)  : Kept s0 (State.noMatch s n f) := by
  unfold State.noMatch
  repeat' first
    | with_reducible assumption
    | with_reducible first
        | apply kept_creditBack
        | apply kept_pfcRelease
        | apply kept_count
    | ((try lift_lets -underBinder); intro x; clear_value (hx : x = _); first
        | refine Kept.cut (s := s0) hx ?_ (fun kx => ?_)
        | refine Kept.cut2 (s := s0) hx ?_ (fun kx => ?_)
        | (have : Mgmt := x; subst hx)
        | clear hx)
    | split
    | (with_reducible first | apply Kept.upd | apply Kept.updM | apply Kept.updT | apply Kept.updTM) <;> with_reducible first | assumption | apply kept_creditBack | apply kept_pfcRelease | apply kept_count

theorem kept_setFrame {s0 : State} (s : State) (n : Nat) (f : Frame) (hk : Kept s0 s)  : Kept s0 (State.setFrame s n f) := by
  unfold State.setFrame
  repeat' first
    | with_reducible assumption
    | with_reducible first
        | apply kept_regap
        | apply kept_noMatch
    | ((try lift_lets -underBinder); intro x; clear_value (hx : x = _); first
        | refine Kept.cut (s := s0) hx ?_ (fun kx => ?_)
        | refine Kept.cut2 (s := s0) hx ?_ (fun kx => ?_)
        | (have : Mgmt := x; subst hx)
        | clear hx)
    | split
    | (with_reducible first | apply Kept.upd | apply Kept.updM | apply Kept.updT | apply Kept.updTM) <;> with_reducible first | assumption | apply kept_regap | apply kept_noMatch

theorem kept_classify {s0 : State} (s : State) (e : Nat) (bytes : List Byte) (handed : Nat) (ended : Bool) (cws : List Cw) (sub : Nat) (spec : Bool) (fcs : Option Bool) (udp : Option Bool) (trunc : Bool) (raw : optParam Nat s.time.raw) (hk : Kept s0 s)  : Kept s0 (State.classify s e bytes handed ended cws sub spec fcs udp trunc raw) := by
  unfold State.classify
  repeat' first
    | with_reducible assumption
    | with_reducible first
        | apply kept_setFrame
        | apply kept_count
    | ((try lift_lets -underBinder); intro x; clear_value (hx : x = _); first
        | refine Kept.cut (s := s0) hx ?_ (fun kx => ?_)
        | refine Kept.cut2 (s := s0) hx ?_ (fun kx => ?_)
        | (have : Mgmt := x; subst hx)
        | clear hx)
    | split
    | (with_reducible first | apply Kept.upd | apply Kept.updM | apply Kept.updT | apply Kept.updTM) <;> with_reducible first | assumption | apply kept_setFrame | apply kept_count

theorem kept_autowake {s0 : State} (s : State) (hk : Kept s0 s)  : Kept s0 (State.autowake s) := by
  unfold State.autowake
  repeat' first
    | with_reducible assumption
    | ((try lift_lets -underBinder); intro x; clear_value (hx : x = _); first
        | refine Kept.cut (s := s0) hx ?_ (fun kx => ?_)
        | refine Kept.cut2 (s := s0) hx ?_ (fun kx => ?_)
        | (have : Mgmt := x; subst hx)
        | clear hx)
    | split
    | (with_reducible first | apply Kept.upd | apply Kept.updM | apply Kept.updT | apply Kept.updTM) <;> with_reducible first | assumption

theorem kept_receiveHost {s0 : State} (s : State) (f : FrameIn) (hk : Kept s0 s)  : Kept s0 (State.receiveHost s f) := by
  unfold State.receiveHost
  repeat' first
    | with_reducible assumption
    | with_reducible first
        | apply kept_pfcAssert
        | apply kept_classify
        | apply kept_autowake
        | apply kept_count
    | ((try lift_lets -underBinder); intro x; clear_value (hx : x = _); first
        | refine Kept.cut (s := s0) hx ?_ (fun kx => ?_)
        | refine Kept.cut2 (s := s0) hx ?_ (fun kx => ?_)
        | (have : Mgmt := x; subst hx)
        | clear hx)
    | split
    | (with_reducible first | apply Kept.upd | apply Kept.updM | apply Kept.updT | apply Kept.updTM) <;> with_reducible first | assumption | apply kept_pfcAssert | apply kept_classify | apply kept_autowake | apply kept_count

theorem kept_frameReceive {s0 : State} (s : State) (f : FrameIn) (hk : Kept s0 s)  : Kept s0 (State.frameReceive s f) := by
  unfold State.frameReceive
  repeat' first
    | with_reducible assumption
    | with_reducible first
        | apply kept_count
        | apply kept_receiveHost
    | ((try lift_lets -underBinder); intro x; clear_value (hx : x = _); first
        | refine Kept.cut (s := s0) hx ?_ (fun kx => ?_)
        | refine Kept.cut2 (s := s0) hx ?_ (fun kx => ?_)
        | (have : Mgmt := x; subst hx)
        | clear hx)
    | split
    | (with_reducible first | apply Kept.upd | apply Kept.updM | apply Kept.updT | apply Kept.updTM) <;> with_reducible first | assumption | apply kept_count | apply kept_receiveHost

theorem kept_runHead {s0 : State} (s : State) (n : Nat) (f : Frame) (hk : Kept s0 s)  : Kept s0 (State.runHead s n f) := by
  unfold State.runHead
  repeat' first
    | with_reducible assumption
    | with_reducible first
        | apply kept_creditBack
        | apply kept_pfcRelease
        | apply kept_peak
        | apply kept_noMatch
        | apply kept_count
    | ((try lift_lets -underBinder); intro x; clear_value (hx : x = _); first
        | refine Kept.cut (s := s0) hx ?_ (fun kx => ?_)
        | refine Kept.cut2 (s := s0) hx ?_ (fun kx => ?_)
        | (have : Mgmt := x; subst hx)
        | clear hx)
    | split
    | (with_reducible first | apply Kept.upd | apply Kept.updM | apply Kept.updT | apply Kept.updTM) <;> with_reducible first | assumption | apply kept_creditBack | apply kept_pfcRelease | apply kept_peak | apply kept_noMatch | apply kept_count

theorem kept_headStart {s0 : State} (s : State) (n : Nat) (hk : Kept s0 s)  : Kept s0 (State.headStart s n) := by
  unfold State.headStart
  repeat' first
    | with_reducible assumption
    | with_reducible first
        | apply kept_runHead
    | ((try lift_lets -underBinder); intro x; clear_value (hx : x = _); first
        | refine Kept.cut (s := s0) hx ?_ (fun kx => ?_)
        | refine Kept.cut2 (s := s0) hx ?_ (fun kx => ?_)
        | (have : Mgmt := x; subst hx)
        | clear hx)
    | split
    | (with_reducible first | apply Kept.upd | apply Kept.updM | apply Kept.updT | apply Kept.updTM) <;> with_reducible first | assumption | apply kept_runHead

theorem kept_headResume {s0 : State} (s : State) (n : Nat) (handed : Nat) (ended : Bool) (hk : Kept s0 s)  : Kept s0 (State.headResume s n handed ended) := by
  unfold State.headResume
  repeat' first
    | with_reducible assumption
    | with_reducible first
        | apply kept_setFrame
        | apply kept_markReady
    | ((try lift_lets -underBinder); intro x; clear_value (hx : x = _); first
        | refine Kept.cut (s := s0) hx ?_ (fun kx => ?_)
        | refine Kept.cut2 (s := s0) hx ?_ (fun kx => ?_)
        | (have : Mgmt := x; subst hx)
        | clear hx)
    | split
    | (with_reducible first | apply Kept.upd | apply Kept.updM | apply Kept.updT | apply Kept.updTM) <;> with_reducible first | assumption | apply kept_setFrame | apply kept_markReady

theorem kept_endHead {s0 : State} (s : State) (n : Nat) (hk : Kept s0 s)  : Kept s0 (State.endHead s n) := by
  unfold State.endHead
  exact Kept.upd hk

end Sys2Proof.Machine
end

