-- ==== Sys2Proof/Laws/KeptPlace.lean ====
section
/-! SUPPORT. What the operations of Place.lean keep (Laws/Kept.lean). -/
namespace Sys2Proof.Machine
set_option linter.all false

theorem kept_rewrite {s0 : State} (s : State) (d : Nat) (a : Nat) (n : Nat) (hk : Kept s0 s)  : Kept s0 (State.rewrite s d a n) := by
  unfold State.rewrite
  repeat' first
    | with_reducible assumption
    | with_reducible first
        | apply kept_setDie
        | apply dieKept_die
        | apply dieKept_putByte
        | apply dieKept_heal
        | apply dieKept_writeSpans
        | apply memKept_clearSpans
        | apply memKept_writeSpans
        | apply dieKept_upd
        | apply memKept_writeN
        | apply memKept_write
        | apply memKept_clear
        | apply memKept_sramMove
        | apply memKept_dram
        | apply memKept_sram
        | exact memKept_nil
    | ((try lift_lets -underBinder); intro x; clear_value (hx : x = _); first
        | refine Kept.cut (s := s0) hx ?_ (fun kx => ?_)
        | refine Kept.cut2 (s := s0) hx ?_ (fun kx => ?_)
        | refine Kept.cut3 (s := s0) hx ?_ (fun kx => ?_)
        | refine Kept.cut1 (s := s0) hx ?_ (fun kx => ?_)
        | refine DieKept.cut (s := s0) hx ?_ (fun kx => ?_)
        | (have : Mgmt := x; subst hx)
        | (have : TimeSt := x; subst hx)
        | clear hx)
    | with_reducible refine kept_foldl _ _ _ ?_ (fun t a kt => ?_)
    | with_reducible refine kept_foldl2 _ _ _ ?_ (fun t a kt => ?_)
    | intro _
    | split
    | (with_reducible first | apply Kept.upd | apply Kept.updM | apply Kept.updT | apply Kept.updTM) <;> with_reducible first | assumption | apply kept_setDie | apply dieKept_die | apply dieKept_putByte | apply dieKept_heal | apply dieKept_writeSpans | apply memKept_clearSpans | apply memKept_writeSpans | apply dieKept_upd | apply memKept_writeN | apply memKept_write | apply memKept_clear | apply memKept_sramMove | apply memKept_dram | apply memKept_sram | exact memKept_nil

theorem kept_rewriteLane {s0 : State} (s : State) (d : Nat) (e : Nat) (l : Nat) (hk : Kept s0 s)  : Kept s0 (State.rewriteLane s d e l) := by
  unfold State.rewriteLane
  repeat' first
    | with_reducible assumption
    | with_reducible first
        | apply kept_rewrite
    | ((try lift_lets -underBinder); intro x; clear_value (hx : x = _); first
        | refine Kept.cut (s := s0) hx ?_ (fun kx => ?_)
        | refine Kept.cut2 (s := s0) hx ?_ (fun kx => ?_)
        | (have : Mgmt := x; subst hx)
        | clear hx)
    | split
    | (with_reducible first | apply Kept.upd | apply Kept.updM | apply Kept.updT | apply Kept.updTM) <;> with_reducible first | assumption | apply kept_rewrite

theorem kept_rewriteStore {s0 : State} (s : State) (d : Nat) (c : Nat) (hk : Kept s0 s)  : Kept s0 (State.rewriteStore s d c) := by
  unfold State.rewriteStore
  repeat' first
    | with_reducible assumption
    | with_reducible first
        | apply kept_rewrite
    | ((try lift_lets -underBinder); intro x; clear_value (hx : x = _); first
        | refine Kept.cut (s := s0) hx ?_ (fun kx => ?_)
        | refine Kept.cut2 (s := s0) hx ?_ (fun kx => ?_)
        | (have : Mgmt := x; subst hx)
        | clear hx)
    | split
    | (with_reducible first | apply Kept.upd | apply Kept.updM | apply Kept.updT | apply Kept.updTM) <;> with_reducible first | assumption | apply kept_rewrite

theorem kept_setHandle {s0 : State} (s : State) (h : Nat) (x : Handle) (hk : Kept s0 s)  : Kept s0 (State.setHandle s h x) := by
  unfold State.setHandle
  exact Kept.upd hk

theorem kept_modVer {s0 : State} (s : State) (h : Nat) (n : Nat) (f : Version → Version) (hk : Kept s0 s)  : Kept s0 (State.modVer s h n f) := by
  unfold State.modVer
  exact Kept.upd hk

theorem kept_degraded {s0 : State} (s : State) (h : Nat) (v : Version) (hk : Kept s0 s)  : Kept s0 (State.degraded s h v) := by
  unfold State.degraded
  exact kept_post (hk := hk) ..

theorem kept_setCore {s0 : State} (s : State) (p : Nat) (c : Core) (hk : Kept s0 s)  : Kept s0 (State.setCore s p c) := by
  unfold State.setCore
  exact Kept.upd hk

theorem kept_ctxFail {s0 : State} (s : State) (k : Nat) (cause : Nat) (pos : Nat) (hk : Kept s0 s)  : Kept s0 (State.ctxFail s k cause pos) := by
  unfold State.ctxFail
  repeat' first
    | with_reducible assumption
    | ((try lift_lets -underBinder); intro x; clear_value (hx : x = _); first
        | refine Kept.cut (s := s0) hx ?_ (fun kx => ?_)
        | refine Kept.cut2 (s := s0) hx ?_ (fun kx => ?_)
        | (have : Mgmt := x; subst hx)
        | clear hx)
    | split
    | (with_reducible first | apply Kept.upd | apply Kept.updM | apply Kept.updT | apply Kept.updTM) <;> with_reducible first | assumption

end Sys2Proof.Machine
end

