-- ==== Sys2Proof/Laws/KeptCoreIsa.lean ====
section
/-! SUPPORT. What the operations of CoreIsa.lean keep (Laws/Kept.lean). -/
namespace Sys2Proof.Machine
set_option linter.all false

theorem kept_consume {s0 : State} (s : State) (p : Nat) (k : Nat) (idx : Nat) (tag : Nat) (a : List (Nat × Bool)) (hk : Kept s0 s)  : Kept s0 (State.consume s p k idx tag a) := by
  induction a generalizing s p k idx tag with
  | nil => exact hk
  | cons y l ih =>
    unfold State.consume
    repeat' first
      | with_reducible apply ih
      | with_reducible assumption
      | with_reducible first
          | apply kept_setCore
      | ((try lift_lets -underBinder); intro x; clear_value (hx : x = _); first
          | refine Kept.cut (s := s0) hx ?_ (fun kx => ?_)
          | refine Kept.cut2 (s := s0) hx ?_ (fun kx => ?_)
          | (have : Mgmt := x; subst hx)
          | clear hx)
      | split
      | (with_reducible first | apply Kept.upd | apply Kept.updM | apply Kept.updT | apply Kept.updTM) <;> with_reducible first | assumption | apply kept_setCore

theorem kept_sendTok {s0 : State} (s : State) (core : Nat) (queue : Nat) (run : Nat) (t : Tok) (hk : Kept s0 s)  : Kept s0 (State.sendTok s core queue run t) := by
  unfold State.sendTok
  exact Kept.upd hk

theorem kept_setRun {s0 : State} (s : State) (n : Nat) (r : ArrayRun) (hk : Kept s0 s)  : Kept s0 (State.setRun s n r) := by
  unfold State.setRun
  exact Kept.upd hk

theorem kept_sendRoutes {s0 : State} (s : State) (f : Fire) (v : Vec) (nan : Bool) (sat : Bool) (a : List (Nat × Nat × Bool)) (hk : Kept s0 s)  : Kept s0 (State.sendRoutes s f v nan sat a) := by
  induction a generalizing s f v nan sat with
  | nil => exact hk
  | cons y l ih =>
    unfold State.sendRoutes
    repeat' first
      | with_reducible apply ih
      | with_reducible assumption
      | with_reducible first
          | apply kept_sendTok
      | ((try lift_lets -underBinder); intro x; clear_value (hx : x = _); first
          | refine Kept.cut (s := s0) hx ?_ (fun kx => ?_)
          | refine Kept.cut2 (s := s0) hx ?_ (fun kx => ?_)
          | (have : Mgmt := x; subst hx)
          | clear hx)
      | split
      | (with_reducible first | apply Kept.upd | apply Kept.updM | apply Kept.updT | apply Kept.updTM) <;> with_reducible first | assumption | apply kept_sendTok

theorem kept_sendSinks {s0 : State} (s : State) (run : Nat) (t : Tok) (l : List Sink) (hk : Kept s0 s)  : Kept s0 (State.sendSinks s run t l) := by
  unfold State.sendSinks
  repeat' first
    | with_reducible assumption
    | with_reducible first
        | apply kept_sendTok
    | ((try lift_lets -underBinder); intro x; clear_value (hx : x = _); first
        | refine Kept.cut (s := s0) hx ?_ (fun kx => ?_)
        | refine Kept.cut2 (s := s0) hx ?_ (fun kx => ?_)
        | (have : Mgmt := x; subst hx)
        | clear hx)
    | with_reducible refine kept_foldl _ _ _ ?_ (fun t a kt => ?_)
    | intro _
    | split
    | (with_reducible first | apply Kept.upd | apply Kept.updM | apply Kept.updT | apply Kept.updTM) <;> with_reducible first | assumption | apply kept_sendTok

theorem kept_fired {s0 : State} (s : State) (f : Fire) (hk : Kept s0 s)  : Kept s0 (State.fired s f) := by
  unfold State.fired
  repeat' first
    | with_reducible assumption
    | with_reducible first
        | apply kept_consume
        | apply kept_setRun
    | ((try lift_lets -underBinder); intro x; clear_value (hx : x = _); first
        | refine Kept.cut (s := s0) hx ?_ (fun kx => ?_)
        | refine Kept.cut2 (s := s0) hx ?_ (fun kx => ?_)
        | (have : Mgmt := x; subst hx)
        | clear hx)
    | split
    | (with_reducible first | apply Kept.upd | apply Kept.updM | apply Kept.updT | apply Kept.updTM) <;> with_reducible first | assumption | apply kept_consume | apply kept_setRun

theorem kept_noteFiring {s0 : State} (s t : State) (f : Fire) (hk : Kept s0 t) : Kept s0 (s.noteFiring t f) := by
  unfold State.noteFiring
  exact kept_setCore (hk := hk) ..

theorem kept_issue {s0 : State} (s : State) (p : Nat) (k : Nat) (idx : Nat) (tag : Nat) (opc : Nat) (body : State → Fire → State) (hk : Kept s0 s) (hbody : ∀ t0 t1, Kept s0 t0 → Kept s0 (body t0 t1)) : Kept s0 (State.issue s p k idx tag opc body) := by
  unfold State.issue
  repeat' first
    | with_reducible assumption
    | with_reducible first
        | apply kept_noteFiring
        | apply kept_fired
        | apply hbody
    | ((try lift_lets -underBinder); intro x; clear_value (hx : x = _); first
        | refine Kept.cut (s := s0) hx ?_ (fun kx => ?_)
        | refine Kept.cut2 (s := s0) hx ?_ (fun kx => ?_)
        | (have : Mgmt := x; subst hx)
        | clear hx)
    | split
    | (with_reducible first | apply Kept.upd | apply Kept.updM | apply Kept.updT | apply Kept.updTM) <;> with_reducible first | assumption | apply kept_noteFiring | apply kept_fired | apply hbody

theorem kept_writeResult {s0 : State} (s : State) (f : Fire) (r : Res) (hk : Kept s0 s)  : Kept s0 (State.writeResult s f r) := by
  unfold State.writeResult
  repeat' first
    | with_reducible assumption
    | with_reducible first
        | apply kept_sendRoutes
        | apply kept_setCore
    | ((try lift_lets -underBinder); intro x; clear_value (hx : x = _); first
        | refine Kept.cut (s := s0) hx ?_ (fun kx => ?_)
        | refine Kept.cut2 (s := s0) hx ?_ (fun kx => ?_)
        | (have : Mgmt := x; subst hx)
        | clear hx)
    | split
    | (with_reducible first | apply Kept.upd | apply Kept.updM | apply Kept.updT | apply Kept.updTM) <;> with_reducible first | assumption | apply kept_sendRoutes | apply kept_setCore

theorem kept_fireReg {s0 : State} (s : State) (p : Nat) (k : Nat) (idx : Nat) (tag : Nat) (opc : Nat) (g : Fire → Res) (select : Bool) (hk : Kept s0 s)  : Kept s0 (State.fireReg s p k idx tag opc g select) := by
  unfold State.fireReg
  repeat' first
    | with_reducible assumption
    | with_reducible first
        | apply kept_writeResult
        | apply kept_issue
        | apply kept_sendRoutes
    | ((try lift_lets -underBinder); intro x; clear_value (hx : x = _); first
        | refine Kept.cut (s := s0) hx ?_ (fun kx => ?_)
        | refine Kept.cut2 (s := s0) hx ?_ (fun kx => ?_)
        | refine Kept.cut3 (s := s0) hx ?_ (fun kx => ?_)
        | refine Kept.cut1 (s := s0) hx ?_ (fun kx => ?_)
        | refine DieKept.cut (s := s0) hx ?_ (fun kx => ?_)
        | (have : Mgmt := x; subst hx)
        | (have : TimeSt := x; subst hx)
        | clear hx)
    | with_reducible refine kept_foldl _ _ _ ?_ (fun t a kt => ?_)
    | with_reducible refine kept_foldl2 _ _ _ ?_ (fun t a kt => ?_)
    | intro _
    | split
    | (with_reducible first | apply Kept.upd | apply Kept.updM | apply Kept.updT | apply Kept.updTM) <;> with_reducible first | assumption | apply kept_writeResult | apply kept_issue | apply kept_sendRoutes

theorem kept_runBad {s0 : State} (s : State) (n : Nat) (hk : Kept s0 s)  : Kept s0 (State.runBad s n) := by
  unfold State.runBad
  repeat' first
    | with_reducible assumption
    | with_reducible first
        | apply kept_setRun
    | ((try lift_lets -underBinder); intro x; clear_value (hx : x = _); first
        | refine Kept.cut (s := s0) hx ?_ (fun kx => ?_)
        | refine Kept.cut2 (s := s0) hx ?_ (fun kx => ?_)
        | (have : Mgmt := x; subst hx)
        | clear hx)
    | split
    | (with_reducible first | apply Kept.upd | apply Kept.updM | apply Kept.updT | apply Kept.updTM) <;> with_reducible first | assumption | apply kept_setRun

theorem kept_memRange {s0 : State} (s : State) (f : Fire) (a : Nat) (hk : Kept s0 s)  : Kept s0 (State.memRange s f a) := by
  unfold State.memRange
  repeat' first
    | with_reducible assumption
    | with_reducible first
        | apply kept_post
        | apply kept_runBad
    | ((try lift_lets -underBinder); intro x; clear_value (hx : x = _); first
        | refine Kept.cut (s := s0) hx ?_ (fun kx => ?_)
        | refine Kept.cut2 (s := s0) hx ?_ (fun kx => ?_)
        | (have : Mgmt := x; subst hx)
        | clear hx)
    | split
    | (with_reducible first | apply Kept.upd | apply Kept.updM | apply Kept.updT | apply Kept.updTM) <;> with_reducible first | assumption | apply kept_post | apply kept_runBad

theorem kept_standRead {s0 : State} (s : State) (f : Fire) (a : Nat) (n : Nat) (hk : Kept s0 s)  : Kept s0 (State.standRead s f a n).1 := by
  unfold State.standRead
  repeat' first
    | with_reducible assumption
    | with_reducible first
        | apply kept_runBad
        | apply kept_ctxFail
        | apply kept_memRange
        | apply dieKept_die
        | apply dieKept_putByte
        | apply dieKept_heal
        | apply dieKept_writeSpans
        | apply memKept_clearSpans
        | apply memKept_writeSpans
        | apply dieKept_upd
        | apply memKept_writeN
        | apply memKept_write
        | apply memKept_clear
        | apply memKept_sramMove
        | apply memKept_dram
        | apply memKept_sram
        | exact memKept_nil
    | ((try lift_lets -underBinder); intro x; clear_value (hx : x = _); first
        | refine Kept.cut (s := s0) hx ?_ (fun kx => ?_)
        | refine Kept.cut2 (s := s0) hx ?_ (fun kx => ?_)
        | (have : Mgmt := x; subst hx)
        | clear hx)
    | split
    | (with_reducible first | apply Kept.upd | apply Kept.updM | apply Kept.updT | apply Kept.updTM) <;> with_reducible first | assumption | apply kept_runBad | apply kept_ctxFail | apply kept_memRange | apply dieKept_die | apply dieKept_putByte | apply dieKept_heal | apply dieKept_writeSpans | apply memKept_clearSpans | apply memKept_writeSpans | apply dieKept_upd | apply memKept_writeN | apply memKept_write | apply memKept_clear | apply memKept_sramMove | apply memKept_dram | apply memKept_sram | exact memKept_nil

theorem kept_standWrite {s0 : State} (s : State) (f : Fire) (a : Nat) (b : List Byte) (hk : Kept s0 s)  : Kept s0 (State.standWrite s f a b) := by
  unfold State.standWrite
  repeat' first
    | with_reducible assumption
    | with_reducible first
        | apply kept_setDie
        | apply kept_setCore
        | apply kept_memRange
        | apply dieKept_die
        | apply dieKept_putByte
        | apply dieKept_heal
        | apply dieKept_writeSpans
        | apply memKept_clearSpans
        | apply memKept_writeSpans
        | apply dieKept_upd
        | apply memKept_writeN
        | apply memKept_write
        | apply memKept_clear
        | apply memKept_sramMove
        | apply memKept_dram
        | apply memKept_sram
        | exact memKept_nil
    | ((try lift_lets -underBinder); intro x; clear_value (hx : x = _); first
        | refine Kept.cut (s := s0) hx ?_ (fun kx => ?_)
        | refine Kept.cut2 (s := s0) hx ?_ (fun kx => ?_)
        | (have : Mgmt := x; subst hx)
        | clear hx)
    | split
    | (with_reducible first | apply Kept.upd | apply Kept.updM | apply Kept.updT | apply Kept.updTM) <;> with_reducible first | assumption | apply kept_setDie | apply kept_setCore | apply kept_memRange | apply dieKept_die | apply dieKept_putByte | apply dieKept_heal | apply dieKept_writeSpans | apply memKept_clearSpans | apply memKept_writeSpans | apply dieKept_upd | apply memKept_writeN | apply memKept_write | apply memKept_clear | apply memKept_sramMove | apply memKept_dram | apply memKept_sram | exact memKept_nil

theorem kept_fireLoad {s0 : State} (s : State) (p : Nat) (k : Nat) (idx : Nat) (tag : Nat) (opc : Nat) (n : Nat) (hk : Kept s0 s)  : Kept s0 (State.fireLoad s p k idx tag opc n) := by
  unfold State.fireLoad
  repeat' first
    | with_reducible assumption
    | with_reducible first
        | apply kept_issue
        | apply kept_sendTok
        | apply kept_standRead
    | ((try lift_lets -underBinder); intro x; clear_value (hx : x = _); first
        | refine Kept.cut (s := s0) hx ?_ (fun kx => ?_)
        | refine Kept.cut2 (s := s0) hx ?_ (fun kx => ?_)
        | refine Kept.cut3 (s := s0) hx ?_ (fun kx => ?_)
        | refine Kept.cut1 (s := s0) hx ?_ (fun kx => ?_)
        | refine DieKept.cut (s := s0) hx ?_ (fun kx => ?_)
        | (have : Mgmt := x; subst hx)
        | (have : TimeSt := x; subst hx)
        | clear hx)
    | with_reducible refine kept_foldl _ _ _ ?_ (fun t a kt => ?_)
    | with_reducible refine kept_foldl2 _ _ _ ?_ (fun t a kt => ?_)
    | intro _
    | split
    | (with_reducible first | apply Kept.upd | apply Kept.updM | apply Kept.updT | apply Kept.updTM) <;> with_reducible first | assumption | apply kept_issue | apply kept_sendTok | apply kept_standRead

theorem kept_fireStore {s0 : State} (s : State) (p : Nat) (k : Nat) (idx : Nat) (tag : Nat) (opc : Nat) (n : Nat) (hk : Kept s0 s)  : Kept s0 (State.fireStore s p k idx tag opc n) := by
  unfold State.fireStore
  repeat' first
    | with_reducible assumption
    | with_reducible first
        | apply kept_issue
        | apply kept_standWrite
        | apply kept_sendRoutes
    | ((try lift_lets -underBinder); intro x; clear_value (hx : x = _); first
        | refine Kept.cut (s := s0) hx ?_ (fun kx => ?_)
        | refine Kept.cut2 (s := s0) hx ?_ (fun kx => ?_)
        | refine Kept.cut3 (s := s0) hx ?_ (fun kx => ?_)
        | refine Kept.cut1 (s := s0) hx ?_ (fun kx => ?_)
        | refine DieKept.cut (s := s0) hx ?_ (fun kx => ?_)
        | (have : Mgmt := x; subst hx)
        | (have : TimeSt := x; subst hx)
        | clear hx)
    | with_reducible refine kept_foldl _ _ _ ?_ (fun t a kt => ?_)
    | with_reducible refine kept_foldl2 _ _ _ ?_ (fun t a kt => ?_)
    | intro _
    | split
    | (with_reducible first | apply Kept.upd | apply Kept.updM | apply Kept.updT | apply Kept.updTM) <;> with_reducible first | assumption | apply kept_issue | apply kept_standWrite | apply kept_sendRoutes

theorem kept_fireLut {s0 : State} (s : State) (p : Nat) (k : Nat) (idx : Nat) (tag : Nat) (hk : Kept s0 s)  : Kept s0 (State.fireLut s p k idx tag) := by
  unfold State.fireLut
  repeat' first
    | with_reducible assumption
    | with_reducible first
        | apply kept_writeResult
        | apply kept_issue
        | apply kept_sendRoutes
        | apply kept_standRead
        | apply kept_memRange
    | ((try lift_lets -underBinder); intro x; clear_value (hx : x = _); first
        | refine Kept.cut (s := s0) hx ?_ (fun kx => ?_)
        | refine Kept.cut2 (s := s0) hx ?_ (fun kx => ?_)
        | refine Kept.cut3 (s := s0) hx ?_ (fun kx => ?_)
        | refine Kept.cut1 (s := s0) hx ?_ (fun kx => ?_)
        | refine DieKept.cut (s := s0) hx ?_ (fun kx => ?_)
        | (have : Mgmt := x; subst hx)
        | (have : TimeSt := x; subst hx)
        | clear hx)
    | with_reducible refine kept_foldl _ _ _ ?_ (fun t a kt => ?_)
    | with_reducible refine kept_foldl2 _ _ _ ?_ (fun t a kt => ?_)
    | intro _
    | split
    | (with_reducible first | apply Kept.upd | apply Kept.updM | apply Kept.updT | apply Kept.updTM) <;> with_reducible first | assumption | apply kept_writeResult | apply kept_issue | apply kept_sendRoutes | apply kept_standRead | apply kept_memRange

theorem kept_fireDma {s0 : State} (s : State) (p : Nat) (k : Nat) (idx : Nat) (tag : Nat) (hk : Kept s0 s)  : Kept s0 (State.fireDma s p k idx tag) := by
  unfold State.fireDma
  repeat' first
    | with_reducible assumption
    | with_reducible first
        | apply kept_issue
        | apply kept_sendTok
        | apply kept_sendSinks
        | apply kept_memRange
    | split
    | ((try lift_lets -underBinder); intro x; clear_value (hx : x = _); first
        | refine Kept.cut (s := s0) hx ?_ (fun kx => ?_)
        | refine Kept.cut2 (s := s0) hx ?_ (fun kx => ?_)
        | refine Kept.cut3 (s := s0) hx ?_ (fun kx => ?_)
        | refine Kept.cut1 (s := s0) hx ?_ (fun kx => ?_)
        | refine DieKept.cut (s := s0) hx ?_ (fun kx => ?_)
        | (have : Mgmt := x; subst hx)
        | (have : TimeSt := x; subst hx)
        | clear hx)
    | with_reducible refine kept_foldl _ _ _ ?_ (fun t a kt => ?_)
    | with_reducible refine kept_foldl2 _ _ _ ?_ (fun t a kt => ?_)
    | intro _
    | (with_reducible first | apply Kept.upd | apply Kept.updM | apply Kept.updT | apply Kept.updTM) <;> with_reducible first | assumption | apply kept_issue | apply kept_sendTok | apply kept_sendSinks | apply kept_memRange

end Sys2Proof.Machine
end

