-- ==== Sys2Proof/Laws/KeptForest.lean ====
section
/-! SUPPORT. What the operations of Forest.lean keep (Laws/Kept.lean). -/
namespace Sys2Proof.Machine
set_option linter.all false

theorem kept_rewriteLanes {s0 : State} (s : State) (v : Version) (copy : Option Nat) (hk : Kept s0 s)  : Kept s0 (State.rewriteLanes s v copy) := by
  unfold State.rewriteLanes
  repeat' first
    | with_reducible assumption
    | with_reducible first
        | apply kept_rewriteLane
        | apply dieKept_die
        | apply dieKept_putByte
        | apply dieKept_heal
        | apply dieKept_writeSpans
        | apply memKept_clearSpans
        | apply memKept_writeSpans
        | apply dieKept_upd
        | apply memKept_writeN
        | apply memKept_write
        | apply memKept_clear
        | apply memKept_sramMove
        | apply memKept_dram
        | apply memKept_sram
        | exact memKept_nil
    | ((try lift_lets -underBinder); intro x; clear_value (hx : x = _); first
        | refine Kept.cut (s := s0) hx ?_ (fun kx => ?_)
        | refine Kept.cut2 (s := s0) hx ?_ (fun kx => ?_)
        | (have : Mgmt := x; subst hx)
        | clear hx)
    | with_reducible refine kept_foldl _ _ _ ?_ (fun t a kt => ?_)
    | intro _
    | split
    | (with_reducible first | apply Kept.upd | apply Kept.updM | apply Kept.updT | apply Kept.updTM) <;> with_reducible first | assumption | apply kept_rewriteLane | apply dieKept_die | apply dieKept_putByte | apply dieKept_heal | apply dieKept_writeSpans | apply memKept_clearSpans | apply memKept_writeSpans | apply dieKept_upd | apply memKept_writeN | apply memKept_write | apply memKept_clear | apply memKept_sramMove | apply memKept_dram | apply memKept_sram | exact memKept_nil

theorem kept_fevalSample {s0 : State} (s : State) (f : Fire) (w : Nat) (hk : Kept s0 s)  : Kept s0 (State.fevalSample s f w).1 := by
  unfold State.fevalSample
  repeat' first
    | with_reducible assumption
    | with_reducible first
        | apply kept_standRead
    | ((try lift_lets -underBinder); intro x; clear_value (hx : x = _); first
        | refine Kept.cut (s := s0) hx ?_ (fun kx => ?_)
        | refine Kept.cut2 (s := s0) hx ?_ (fun kx => ?_)
        | refine Kept.cut3 (s := s0) hx ?_ (fun kx => ?_)
        | refine Kept.cut1 (s := s0) hx ?_ (fun kx => ?_)
        | refine DieKept.cut (s := s0) hx ?_ (fun kx => ?_)
        | (have : Mgmt := x; subst hx)
        | (have : TimeSt := x; subst hx)
        | clear hx)
    | with_reducible refine kept_foldl _ _ _ ?_ (fun t a kt => ?_)
    | with_reducible refine kept_foldl2 _ _ _ ?_ (fun t a kt => ?_)
    | intro _
    | split
    | (with_reducible first | apply Kept.upd | apply Kept.updM | apply Kept.updT | apply Kept.updTM) <;> with_reducible first | assumption | apply kept_standRead

theorem kept_fireFeval {s0 : State} (s : State) (p : Nat) (k : Nat) (idx : Nat) (tag : Nat) (hk : Kept s0 s)  : Kept s0 (State.fireFeval s p k idx tag) := by
  unfold State.fireFeval
  refine kept_issue (hk := hk) _ _ _ _ _ _ _ ?_
  intro s1 f h1
  extract_lets rc nan bad ver put zeros s2
  clear_value nan bad ver zeros
  have hput : ∀ t a b c d e g i, Kept s0 t → Kept s0 (put t a b c d e g i) := fun t a b c d e g i h => Kept.upd h
  have h2 : Kept s0 s2 := by
    unfold s2
    split
    · exact hput _ _ _ _ _ _ _ _ h1
    · split
      · exact hput _ _ _ _ _ _ _ _ h1
      · split
        · exact kept_modVer (hk := hput _ _ _ _ _ _ _ _ (kept_fevalSample (hk := kept_rewriteLanes (hk := h1) ..) ..)) ..
        · exact kept_degraded (hk := hput _ _ _ _ _ _ _ _ h1) ..
  split
  · exact kept_setRun (hk := h2) ..
  · exact h2

end Sys2Proof.Machine
end

