-- ==== Sys2Proof/Laws/KeptPtp.lean ====
section
/-! SUPPORT. What the operations of Ptp.lean keep (Laws/Kept.lean). -/
namespace Sys2Proof.Machine
set_option linter.all false

theorem kept_timeRecord {s0 : State} (s : State) (r : TimeRec) (hk : Kept s0 s)  : Kept s0 (State.timeRecord s r) := by
  unfold State.timeRecord
  repeat' first
    | with_reducible assumption
    | with_reducible first
        | apply kept_count
        | apply kept_devWrite
    | ((try lift_lets -underBinder); intro x; clear_value (hx : x = _); first
        | refine Kept.cut (s := s0) hx ?_ (fun kx => ?_)
        | refine Kept.cut2 (s := s0) hx ?_ (fun kx => ?_)
        | refine Kept.cut3 (s := s0) hx ?_ (fun kx => ?_)
        | refine Kept.cut1 (s := s0) hx ?_ (fun kx => ?_)
        | refine DieKept.cut (s := s0) hx ?_ (fun kx => ?_)
        | (have : Mgmt := x; subst hx)
        | (have : TimeSt := x; subst hx)
        | clear hx)
    | with_reducible refine kept_foldl _ _ _ ?_ (fun t a kt => ?_)
    | with_reducible refine kept_foldl2 _ _ _ ?_ (fun t a kt => ?_)
    | intro _
    | split
    | (with_reducible first | apply Kept.upd | apply Kept.updM | apply Kept.updT | apply Kept.updTM) <;> with_reducible first | assumption | apply kept_count | apply kept_devWrite

theorem kept_setPtp {s0 : State} (s : State) (e : Nat) (x : PtpPort) (hk : Kept s0 s)  : Kept s0 (State.setPtp s e x) := by
  unfold State.setPtp
  exact Kept.updT hk

theorem kept_egressStamp {s0 : State} (s : State) (e : Nat) (hk : Kept s0 s)  : Kept s0 (State.egressStamp s e).2 := by
  unfold State.egressStamp
  exact Kept.upd hk

theorem kept_send3 {s0 : State} (s : State) (e : Nat) (prio : Option Nat) (bytes : List Byte) (hk : Kept s0 s)  : Kept s0 (State.send3 s e prio bytes) := by
  unfold State.send3
  repeat' first
    | with_reducible assumption
    | with_reducible first
        | apply kept_setEp
        | apply kept_putFrame
    | ((try lift_lets -underBinder); intro x; clear_value (hx : x = _); first
        | refine Kept.cut (s := s0) hx ?_ (fun kx => ?_)
        | refine Kept.cut2 (s := s0) hx ?_ (fun kx => ?_)
        | (have : Mgmt := x; subst hx)
        | clear hx)
    | split
    | (with_reducible first | apply Kept.upd | apply Kept.updM | apply Kept.updT | apply Kept.updTM) <;> with_reducible first | assumption | apply kept_setEp | apply kept_putFrame

theorem kept_linkGo {s0 : State} (s : State) (e : Nat) (w : Wait) (hk : Kept s0 s)  : Kept s0 (State.linkGo s e w) := by
  unfold State.linkGo
  repeat' first
    | with_reducible assumption
    | with_reducible first
        | apply kept_setEp
        | apply kept_putFrame
        | apply kept_count
    | ((try lift_lets -underBinder); intro x; clear_value (hx : x = _); first
        | refine Kept.cut (s := s0) hx ?_ (fun kx => ?_)
        | refine Kept.cut2 (s := s0) hx ?_ (fun kx => ?_)
        | (have : Mgmt := x; subst hx)
        | clear hx)
    | split
    | (with_reducible first | apply Kept.upd | apply Kept.updM | apply Kept.updT | apply Kept.updTM) <;> with_reducible first | assumption | apply kept_setEp | apply kept_putFrame | apply kept_count

theorem kept_linkJob {s0 : State} (s : State) (e : Nat) (w : Wait) (hk : Kept s0 s)  : Kept s0 (State.linkJob s e w) := by
  unfold State.linkJob
  repeat' first
    | with_reducible assumption
    | with_reducible first
        | apply kept_setEp
        | apply kept_linkGo
    | ((try lift_lets -underBinder); intro x; clear_value (hx : x = _); first
        | refine Kept.cut (s := s0) hx ?_ (fun kx => ?_)
        | refine Kept.cut2 (s := s0) hx ?_ (fun kx => ?_)
        | (have : Mgmt := x; subst hx)
        | clear hx)
    | split
    | (with_reducible first | apply Kept.upd | apply Kept.updM | apply Kept.updT | apply Kept.updTM) <;> with_reducible first | assumption | apply kept_setEp | apply kept_linkGo

theorem kept_ptpSend {s0 : State} (s : State) (e : Nat) (peer : Bool) (event : Bool) (m : List Byte) (hk : Kept s0 s)  : Kept s0 (State.ptpSend s e peer event m) := by
  unfold State.ptpSend
  repeat' first
    | with_reducible assumption
    | with_reducible first
        | apply kept_send3
        | apply kept_putFrame
    | ((try lift_lets -underBinder); intro x; clear_value (hx : x = _); first
        | refine Kept.cut (s := s0) hx ?_ (fun kx => ?_)
        | refine Kept.cut2 (s := s0) hx ?_ (fun kx => ?_)
        | (have : Mgmt := x; subst hx)
        | clear hx)
    | split
    | (with_reducible first | apply Kept.upd | apply Kept.updM | apply Kept.updT | apply Kept.updTM) <;> with_reducible first | assumption | apply kept_send3 | apply kept_putFrame

theorem kept_txts {s0 : State} (s : State) (e : Nat) (ty : Nat) (seq : Nat) (t : Stamp) (m : List Byte) (hk : Kept s0 s)  : Kept s0 (State.txts s e ty seq t m) := by
  unfold State.txts
  repeat' first
    | with_reducible assumption
    | with_reducible first
        | apply kept_timeRecord
    | ((try lift_lets -underBinder); intro x; clear_value (hx : x = _); first
        | refine Kept.cut (s := s0) hx ?_ (fun kx => ?_)
        | refine Kept.cut2 (s := s0) hx ?_ (fun kx => ?_)
        | (have : Mgmt := x; subst hx)
        | clear hx)
    | split
    | (with_reducible first | apply Kept.upd | apply Kept.updM | apply Kept.updT | apply Kept.updTM) <;> with_reducible first | assumption | apply kept_timeRecord

theorem kept_exchange {s0 : State} (s : State) (r : TimeRec) (hk : Kept s0 s)  : Kept s0 (State.exchange s r) := by
  unfold State.exchange
  repeat' first
    | with_reducible assumption
    | with_reducible first
        | apply kept_post
        | apply kept_timeRecord
        | apply kept_count
    | ((try lift_lets -underBinder); intro x; clear_value (hx : x = _); first
        | refine Kept.cut (s := s0) hx ?_ (fun kx => ?_)
        | refine Kept.cut2 (s := s0) hx ?_ (fun kx => ?_)
        | (have : Mgmt := x; subst hx)
        | clear hx)
    | split
    | (with_reducible first | apply Kept.upd | apply Kept.updM | apply Kept.updT | apply Kept.updTM) <;> with_reducible first | assumption | apply kept_post | apply kept_timeRecord | apply kept_count

theorem kept_exchangeOf {s0 : State} (s : State) (e : Nat) (kind : Nat) (r : TimeRec) (hk : Kept s0 s)  : Kept s0 (State.exchangeOf s e kind r) := by
  unfold State.exchangeOf
  repeat' first
    | with_reducible assumption
    | with_reducible first
        | apply kept_exchange
        | apply kept_setPtp
    | ((try lift_lets -underBinder); intro x; clear_value (hx : x = _); first
        | refine Kept.cut (s := s0) hx ?_ (fun kx => ?_)
        | refine Kept.cut2 (s := s0) hx ?_ (fun kx => ?_)
        | (have : Mgmt := x; subst hx)
        | clear hx)
    | split
    | (with_reducible first | apply Kept.upd | apply Kept.updM | apply Kept.updT | apply Kept.updTM) <;> with_reducible first | assumption | apply kept_exchange | apply kept_setPtp

theorem kept_ptpFresh {s0 : State} (s : State) (hk : Kept s0 s)  : Kept s0 (State.ptpFresh s) := by
  unfold State.ptpFresh
  exact Kept.updT hk

theorem kept_ptpFirst {s0 : State} (s : State) (e : Nat) (hk : Kept s0 s)  : Kept s0 (State.ptpFirst s e) := by
  unfold State.ptpFirst
  exact Kept.updT hk

theorem kept_ptpSync {s0 : State} (s : State) (e : Nat) (hk : Kept s0 s)  : Kept s0 (State.ptpSync s e) := by
  unfold State.ptpSync
  repeat' first
    | with_reducible assumption
    | with_reducible first
        | apply kept_txts
        | apply kept_egressStamp
        | apply kept_ptpSend
        | apply kept_setPtp
    | ((try lift_lets -underBinder); intro x; clear_value (hx : x = _); first
        | refine Kept.cut (s := s0) hx ?_ (fun kx => ?_)
        | refine Kept.cut2 (s := s0) hx ?_ (fun kx => ?_)
        | (have : Mgmt := x; subst hx)
        | clear hx)
    | split
    | (with_reducible first | apply Kept.upd | apply Kept.updM | apply Kept.updT | apply Kept.updTM) <;> with_reducible first | assumption | apply kept_txts | apply kept_egressStamp | apply kept_ptpSend | apply kept_setPtp

theorem kept_ptpArm {s0 : State} (s : State) (old : State) (e : Nat) (hk : Kept s0 s)  : Kept s0 (State.ptpArm s old e) := by
  unfold State.ptpArm
  repeat' first
    | with_reducible assumption
    | with_reducible first
        | apply kept_setPtp
    | ((try lift_lets -underBinder); intro x; clear_value (hx : x = _); first
        | refine Kept.cut (s := s0) hx ?_ (fun kx => ?_)
        | refine Kept.cut2 (s := s0) hx ?_ (fun kx => ?_)
        | (have : Mgmt := x; subst hx)
        | clear hx)
    | split
    | (with_reducible first | apply Kept.upd | apply Kept.updM | apply Kept.updT | apply Kept.updTM) <;> with_reducible first | assumption | apply kept_setPtp

theorem kept_ptpReq {s0 : State} (s : State) (e : Nat) (hk : Kept s0 s)  : Kept s0 (State.ptpReq s e) := by
  unfold State.ptpReq
  repeat' first
    | with_reducible assumption
    | with_reducible first
        | apply kept_txts
        | apply kept_egressStamp
        | apply kept_ptpSend
        | apply kept_setPtp
    | ((try lift_lets -underBinder); intro x; clear_value (hx : x = _); first
        | refine Kept.cut (s := s0) hx ?_ (fun kx => ?_)
        | refine Kept.cut2 (s := s0) hx ?_ (fun kx => ?_)
        | (have : Mgmt := x; subst hx)
        | clear hx)
    | split
    | (with_reducible first | apply Kept.upd | apply Kept.updM | apply Kept.updT | apply Kept.updTM) <;> with_reducible first | assumption | apply kept_txts | apply kept_egressStamp | apply kept_ptpSend | apply kept_setPtp

theorem kept_ptpMiss {s0 : State} (s : State) (e : Nat) (hk : Kept s0 s)  : Kept s0 (State.ptpMiss s e) := by
  unfold State.ptpMiss
  repeat' first
    | with_reducible assumption
    | with_reducible first
        | apply kept_timeRecord
        | apply kept_setPtp
        | apply kept_count
    | ((try lift_lets -underBinder); intro x; clear_value (hx : x = _); first
        | refine Kept.cut (s := s0) hx ?_ (fun kx => ?_)
        | refine Kept.cut2 (s := s0) hx ?_ (fun kx => ?_)
        | (have : Mgmt := x; subst hx)
        | clear hx)
    | split
    | (with_reducible first | apply Kept.upd | apply Kept.updM | apply Kept.updT | apply Kept.updTM) <;> with_reducible first | assumption | apply kept_timeRecord | apply kept_setPtp | apply kept_count

theorem kept_ptpAnswer {s0 : State} (s : State) (e : Nat) (t : Stamp) (m : List Byte) (hk : Kept s0 s)  : Kept s0 (State.ptpAnswer s e t m) := by
  unfold State.ptpAnswer
  repeat' first
    | with_reducible assumption
    | with_reducible first
        | apply kept_txts
        | apply kept_egressStamp
        | apply kept_ptpSend
    | ((try lift_lets -underBinder); intro x; clear_value (hx : x = _); first
        | refine Kept.cut (s := s0) hx ?_ (fun kx => ?_)
        | refine Kept.cut2 (s := s0) hx ?_ (fun kx => ?_)
        | (have : Mgmt := x; subst hx)
        | clear hx)
    | split
    | (with_reducible first | apply Kept.upd | apply Kept.updM | apply Kept.updT | apply Kept.updTM) <;> with_reducible first | assumption | apply kept_txts | apply kept_egressStamp | apply kept_ptpSend

theorem kept_ptpReply {s0 : State} (s : State) (e : Nat) (t : Stamp) (m : List Byte) (hk : Kept s0 s)  : Kept s0 (State.ptpReply s e t m) := by
  unfold State.ptpReply
  repeat' first
    | with_reducible assumption
    | with_reducible first
        | apply kept_ptpAnswer
        | apply kept_setEp
    | ((try lift_lets -underBinder); intro x; clear_value (hx : x = _); first
        | refine Kept.cut (s := s0) hx ?_ (fun kx => ?_)
        | refine Kept.cut2 (s := s0) hx ?_ (fun kx => ?_)
        | (have : Mgmt := x; subst hx)
        | clear hx)
    | split
    | (with_reducible first | apply Kept.upd | apply Kept.updM | apply Kept.updT | apply Kept.updTM) <;> with_reducible first | assumption | apply kept_ptpAnswer | apply kept_setEp

theorem kept_flushWait {s0 : State} (s : State) (e : Nat) (hk : Kept s0 s)  : Kept s0 (State.flushWait s e) := by
  unfold State.flushWait
  repeat' first
    | with_reducible assumption
    | with_reducible first
        | apply kept_send3
        | apply kept_setEp
        | apply kept_flushPfc
        | apply kept_ptpReply
        | apply kept_linkJob
    | ((try lift_lets -underBinder); intro x; clear_value (hx : x = _); first
        | refine Kept.cut (s := s0) hx ?_ (fun kx => ?_)
        | refine Kept.cut2 (s := s0) hx ?_ (fun kx => ?_)
        | (have : Mgmt := x; subst hx)
        | clear hx)
    | with_reducible refine kept_foldl _ _ _ ?_ (fun t a kt => ?_)
    | intro _
    | split
    | (with_reducible first | apply Kept.upd | apply Kept.updM | apply Kept.updT | apply Kept.updTM) <;> with_reducible first | assumption | apply kept_send3 | apply kept_setEp | apply kept_flushPfc | apply kept_ptpReply | apply kept_linkJob

theorem kept_flushWaits {s0 : State} (s : State) (hk : Kept s0 s)  : Kept s0 (State.flushWaits s) := by
  unfold State.flushWaits
  repeat' first
    | with_reducible assumption
    | with_reducible first
        | apply kept_flushWait
    | ((try lift_lets -underBinder); intro x; clear_value (hx : x = _); first
        | refine Kept.cut (s := s0) hx ?_ (fun kx => ?_)
        | refine Kept.cut2 (s := s0) hx ?_ (fun kx => ?_)
        | (have : Mgmt := x; subst hx)
        | clear hx)
    | with_reducible refine kept_foldl _ _ _ ?_ (fun t a kt => ?_)
    | intro _
    | split
    | (with_reducible first | apply Kept.upd | apply Kept.updM | apply Kept.updT | apply Kept.updTM) <;> with_reducible first | assumption | apply kept_flushWait

theorem kept_ptpDown {s0 : State} (s : State) (e : Nat) (hk : Kept s0 s)  : Kept s0 (State.ptpDown s e) := by
  unfold State.ptpDown
  repeat' first
    | with_reducible assumption
    | with_reducible first
        | apply kept_setEp
        | apply kept_setPtp
    | ((try lift_lets -underBinder); intro x; clear_value (hx : x = _); first
        | refine Kept.cut (s := s0) hx ?_ (fun kx => ?_)
        | refine Kept.cut2 (s := s0) hx ?_ (fun kx => ?_)
        | (have : Mgmt := x; subst hx)
        | clear hx)
    | split
    | (with_reducible first | apply Kept.upd | apply Kept.updM | apply Kept.updT | apply Kept.updTM) <;> with_reducible first | assumption | apply kept_setEp | apply kept_setPtp

theorem kept_syncDone {s0 : State} (s : State) (e : Nat) (seq : Nat) (t1 : Stamp) (t2 : Stamp) (corr : Int) (hk : Kept s0 s)  : Kept s0 (State.syncDone s e seq t1 t2 corr) := by
  unfold State.syncDone
  repeat' first
    | with_reducible assumption
    | with_reducible first
        | apply kept_exchangeOf
        | apply kept_drawNat
        | apply kept_setPtp
    | ((try lift_lets -underBinder); intro x; clear_value (hx : x = _); first
        | refine Kept.cut (s := s0) hx ?_ (fun kx => ?_)
        | refine Kept.cut2 (s := s0) hx ?_ (fun kx => ?_)
        | (have : Mgmt := x; subst hx)
        | clear hx)
    | split
    | (with_reducible first | apply Kept.upd | apply Kept.updM | apply Kept.updT | apply Kept.updTM) <;> with_reducible first | assumption | apply kept_exchangeOf | apply kept_drawNat | apply kept_setPtp

theorem kept_delayDone {s0 : State} (s : State) (e : Nat) (seq : Nat) (t3 : Stamp) (t4 : Stamp) (corr : Int) (hk : Kept s0 s)  : Kept s0 (State.delayDone s e seq t3 t4 corr) := by
  unfold State.delayDone
  repeat' first
    | with_reducible assumption
    | with_reducible first
        | apply kept_exchangeOf
        | apply kept_setPtp
    | ((try lift_lets -underBinder); intro x; clear_value (hx : x = _); first
        | refine Kept.cut (s := s0) hx ?_ (fun kx => ?_)
        | refine Kept.cut2 (s := s0) hx ?_ (fun kx => ?_)
        | (have : Mgmt := x; subst hx)
        | clear hx)
    | split
    | (with_reducible first | apply Kept.upd | apply Kept.updM | apply Kept.updT | apply Kept.updTM) <;> with_reducible first | assumption | apply kept_exchangeOf | apply kept_setPtp

theorem kept_pdelayDone {s0 : State} (s : State) (e : Nat) (seq : Nat) (t1 : Stamp) (t2 : Stamp) (t3 : Stamp) (t4 : Stamp) (corr : Int) (turn : Int) (hk : Kept s0 s)  : Kept s0 (State.pdelayDone s e seq t1 t2 t3 t4 corr turn) := by
  unfold State.pdelayDone
  repeat' first
    | with_reducible assumption
    | with_reducible first
        | apply kept_exchangeOf
        | apply kept_setPtp
    | ((try lift_lets -underBinder); intro x; clear_value (hx : x = _); first
        | refine Kept.cut (s := s0) hx ?_ (fun kx => ?_)
        | refine Kept.cut2 (s := s0) hx ?_ (fun kx => ?_)
        | (have : Mgmt := x; subst hx)
        | clear hx)
    | split
    | (with_reducible first | apply Kept.upd | apply Kept.updM | apply Kept.updT | apply Kept.updTM) <;> with_reducible first | assumption | apply kept_exchangeOf | apply kept_setPtp

theorem kept_ptpAct {s0 : State} (s : State) (e : Nat) (t : Stamp) (m : List Byte) (gen : Nat) (hk : Kept s0 s)  : Kept s0 (State.ptpAct s e t m gen) := by
  unfold State.ptpAct
  repeat' first
    | with_reducible assumption
    | with_reducible first
        | apply kept_pdelayDone
        | apply kept_syncDone
        | apply kept_ptpReply
        | apply kept_setPtp
        | apply kept_delayDone
    | ((try lift_lets -underBinder); intro x; clear_value (hx : x = _); first
        | refine Kept.cut (s := s0) hx ?_ (fun kx => ?_)
        | refine Kept.cut2 (s := s0) hx ?_ (fun kx => ?_)
        | refine Kept.cut3 (s := s0) hx ?_ (fun kx => ?_)
        | refine Kept.cut1 (s := s0) hx ?_ (fun kx => ?_)
        | refine DieKept.cut (s := s0) hx ?_ (fun kx => ?_)
        | (have : Mgmt := x; subst hx)
        | (have : TimeSt := x; subst hx)
        | clear hx)
    | with_reducible refine kept_foldl _ _ _ ?_ (fun t a kt => ?_)
    | with_reducible refine kept_foldl2 _ _ _ ?_ (fun t a kt => ?_)
    | intro _
    | split
    | (with_reducible first | apply Kept.upd | apply Kept.updM | apply Kept.updT | apply Kept.updTM) <;> with_reducible first | assumption | apply kept_pdelayDone | apply kept_syncDone | apply kept_ptpReply | apply kept_setPtp | apply kept_delayDone

theorem kept_ptpReceive {s0 : State} (s : State) (e : Nat) (sub : Nat) (b : List Byte) (hk : Kept s0 s)  : Kept s0 (State.ptpReceive s e sub b) := by
  unfold State.ptpReceive
  repeat' first
    | with_reducible assumption
    | with_reducible first
        | apply kept_ptpAct
        | apply kept_drawNat
        | apply kept_timeRecord
    | ((try lift_lets -underBinder); intro x; clear_value (hx : x = _); first
        | refine Kept.cut (s := s0) hx ?_ (fun kx => ?_)
        | refine Kept.cut2 (s := s0) hx ?_ (fun kx => ?_)
        | (have : Mgmt := x; subst hx)
        | clear hx)
    | split
    | (with_reducible first | apply Kept.upd | apply Kept.updM | apply Kept.updT | apply Kept.updTM) <;> with_reducible first | assumption | apply kept_ptpAct | apply kept_drawNat | apply kept_timeRecord

end Sys2Proof.Machine
end

