-- ==== Sys2Proof/Laws/KeptMsg.lean ====
section
/-! SUPPORT. What the operations of Msg.lean keep (Laws/Kept.lean). -/
namespace Sys2Proof.Machine
set_option linter.all false

theorem kept_setMsg {s0 : State} (s : State) (n : Nat) (m : Msg) (hk : Kept s0 s)  : Kept s0 (State.setMsg s n m) := by
  unfold State.setMsg
  exact Kept.upd hk

theorem kept_setReply {s0 : State} (s : State) (n : Nat) (r : Reply) (hk : Kept s0 s)  : Kept s0 (State.setReply s n r) := by
  unfold State.setReply
  exact Kept.upd hk

theorem kept_setConv {s0 : State} (s : State) (c : Nat) (x : Conv) (hk : Kept s0 s)  : Kept s0 (State.setConv s c x) := by
  unfold State.setConv
  exact Kept.upd hk

theorem kept_setCache {s0 : State} (s : State) (c : Nat) (x : Tbl Cached) (hk : Kept s0 s)  : Kept s0 (State.setCache s c x) := by
  unfold State.setCache
  exact Kept.upd hk

theorem kept_moveBase {s0 : State} (s : State) (c : Nat) (b : Nat) (hk : Kept s0 s)  : Kept s0 (State.moveBase s c b) := by
  unfold State.moveBase
  repeat' first
    | with_reducible assumption
    | with_reducible first
        | apply kept_setCache
        | apply kept_setConv
    | ((try lift_lets -underBinder); intro x; clear_value (hx : x = _); first
        | refine Kept.cut (s := s0) hx ?_ (fun kx => ?_)
        | refine Kept.cut2 (s := s0) hx ?_ (fun kx => ?_)
        | (have : Mgmt := x; subst hx)
        | clear hx)
    | split
    | (with_reducible first | apply Kept.upd | apply Kept.updM | apply Kept.updT | apply Kept.updTM) <;> with_reducible first | assumption | apply kept_setCache | apply kept_setConv

theorem kept_pairJobs {s0 : State} (s : State) (n : Nat) (f : PairJob → List PairJob) (hk : Kept s0 s)  : Kept s0 (State.pairJobs s n f) := by
  unfold State.pairJobs
  exact Kept.upd hk

theorem kept_pairDrop {s0 : State} (s : State) (n : Nat) (hk : Kept s0 s)  : Kept s0 (State.pairDrop s n) := by
  unfold State.pairDrop
  exact Kept.upd hk

theorem kept_pairReady {s0 : State} (s : State) (n : Nat) (hk : Kept s0 s)  : Kept s0 (State.pairReady s n) := by
  unfold State.pairReady
  exact Kept.upd hk

theorem kept_unhook {s0 : State} (s : State) (n : Nat) (hk : Kept s0 s)  : Kept s0 (State.unhook s n) := by
  unfold State.unhook
  repeat' first
    | with_reducible assumption
    | ((try lift_lets -underBinder); intro x; clear_value (hx : x = _); first
        | refine Kept.cut (s := s0) hx ?_ (fun kx => ?_)
        | refine Kept.cut2 (s := s0) hx ?_ (fun kx => ?_)
        | (have : Mgmt := x; subst hx)
        | clear hx)
    | split
    | (with_reducible first | apply Kept.upd | apply Kept.updM | apply Kept.updT | apply Kept.updTM) <;> with_reducible first | assumption

theorem kept_endMsg {s0 : State} (s : State) (n : Nat) (hk : Kept s0 s)  : Kept s0 (State.endMsg s n) := by
  unfold State.endMsg
  repeat' first
    | with_reducible assumption
    | with_reducible first
        | apply kept_unhook
        | apply kept_setConv
        | apply kept_pairDrop
    | ((try lift_lets -underBinder); intro x; clear_value (hx : x = _); first
        | refine Kept.cut (s := s0) hx ?_ (fun kx => ?_)
        | refine Kept.cut2 (s := s0) hx ?_ (fun kx => ?_)
        | (have : Mgmt := x; subst hx)
        | clear hx)
    | split
    | (with_reducible first | apply Kept.upd | apply Kept.updM | apply Kept.updT | apply Kept.updTM) <;> with_reducible first | assumption | apply kept_unhook | apply kept_setConv | apply kept_pairDrop

theorem kept_undoOpening {s0 : State} (s : State) (c : Nat) (hk : Kept s0 s)  : Kept s0 (State.undoOpening s c) := by
  unfold State.undoOpening
  repeat' first
    | with_reducible assumption
    | with_reducible first
        | apply kept_setConv
    | ((try lift_lets -underBinder); intro x; clear_value (hx : x = _); first
        | refine Kept.cut (s := s0) hx ?_ (fun kx => ?_)
        | refine Kept.cut2 (s := s0) hx ?_ (fun kx => ?_)
        | (have : Mgmt := x; subst hx)
        | clear hx)
    | split
    | (with_reducible first | apply Kept.upd | apply Kept.updM | apply Kept.updT | apply Kept.updTM) <;> with_reducible first | assumption | apply kept_setConv

theorem kept_failMsg {s0 : State} (s : State) (n : Nat) (cause : Nat) (hk : Kept s0 s)  : Kept s0 (State.failMsg s n cause) := by
  unfold State.failMsg
  repeat' first
    | with_reducible assumption
    | with_reducible first
        | apply kept_endMsg
        | apply kept_ctxFail
        | apply kept_undoOpening
    | ((try lift_lets -underBinder); intro x; clear_value (hx : x = _); first
        | refine Kept.cut (s := s0) hx ?_ (fun kx => ?_)
        | refine Kept.cut2 (s := s0) hx ?_ (fun kx => ?_)
        | (have : Mgmt := x; subst hx)
        | clear hx)
    | split
    | (with_reducible first | apply Kept.upd | apply Kept.updM | apply Kept.updT | apply Kept.updTM) <;> with_reducible first | assumption | apply kept_endMsg | apply kept_ctxFail | apply kept_undoOpening

theorem kept_answerMsg {s0 : State} (s : State) (n : Nat) (status : Nat) (detail : Nat) (info : Nat) (hk : Kept s0 s)  : Kept s0 (State.answerMsg s n status detail info) := by
  unfold State.answerMsg
  repeat' first
    | with_reducible assumption
    | with_reducible first
        | apply kept_failMsg
        | apply kept_answerW
        | apply kept_count
    | ((try lift_lets -underBinder); intro x; clear_value (hx : x = _); first
        | refine Kept.cut (s := s0) hx ?_ (fun kx => ?_)
        | refine Kept.cut2 (s := s0) hx ?_ (fun kx => ?_)
        | (have : Mgmt := x; subst hx)
        | clear hx)
    | split
    | (with_reducible first | apply Kept.upd | apply Kept.updM | apply Kept.updT | apply Kept.updTM) <;> with_reducible first | assumption | apply kept_failMsg | apply kept_answerW | apply kept_count

theorem kept_busyMsg {s0 : State} (s : State) (n : Nat) (detail : Nat) (info : Nat) (hk : Kept s0 s)  : Kept s0 (State.busyMsg s n detail info) := by
  unfold State.busyMsg
  repeat' first
    | with_reducible assumption
    | with_reducible first
        | apply kept_failMsg
        | apply kept_answerBusyW
    | ((try lift_lets -underBinder); intro x; clear_value (hx : x = _); first
        | refine Kept.cut (s := s0) hx ?_ (fun kx => ?_)
        | refine Kept.cut2 (s := s0) hx ?_ (fun kx => ?_)
        | (have : Mgmt := x; subst hx)
        | clear hx)
    | split
    | (with_reducible first | apply Kept.upd | apply Kept.updM | apply Kept.updT | apply Kept.updTM) <;> with_reducible first | assumption | apply kept_failMsg | apply kept_answerBusyW

theorem kept_freeCtx {s0 : State} (s : State) (k : Nat) (hk : Kept s0 s)  : Kept s0 (State.freeCtx s k) := by
  unfold State.freeCtx
  repeat' first
    | with_reducible assumption
    | with_reducible first
        | apply kept_answerMsg
        | apply kept_setConv
    | ((try lift_lets -underBinder); intro x; clear_value (hx : x = _); first
        | refine Kept.cut (s := s0) hx ?_ (fun kx => ?_)
        | refine Kept.cut2 (s := s0) hx ?_ (fun kx => ?_)
        | (have : Mgmt := x; subst hx)
        | clear hx)
    | with_reducible refine kept_foldl _ _ _ ?_ (fun t a kt => ?_)
    | intro _
    | split
    | (with_reducible first | apply Kept.upd | apply Kept.updM | apply Kept.updT | apply Kept.updTM) <;> with_reducible first | assumption | apply kept_answerMsg | apply kept_setConv

theorem kept_closeCtx {s0 : State} (s : State) (k : Nat) (hk : Kept s0 s)  : Kept s0 (State.closeCtx s k) := by
  unfold State.closeCtx
  repeat' first
    | with_reducible assumption
    | with_reducible first
        | apply kept_freeCtx
    | ((try lift_lets -underBinder); intro x; clear_value (hx : x = _); first
        | refine Kept.cut (s := s0) hx ?_ (fun kx => ?_)
        | refine Kept.cut2 (s := s0) hx ?_ (fun kx => ?_)
        | (have : Mgmt := x; subst hx)
        | clear hx)
    | split
    | (with_reducible first | apply Kept.upd | apply Kept.updM | apply Kept.updT | apply Kept.updTM) <;> with_reducible first | assumption | apply kept_freeCtx

theorem kept_convClose {s0 : State} (s : State) (c : Nat) (hk : Kept s0 s)  : Kept s0 (State.convClose s c) := by
  unfold State.convClose
  repeat' first
    | with_reducible assumption
    | with_reducible first
        | apply kept_closeCtx
        | apply kept_setCache
        | apply kept_setConv
        | apply kept_count
    | ((try lift_lets -underBinder); intro x; clear_value (hx : x = _); first
        | refine Kept.cut (s := s0) hx ?_ (fun kx => ?_)
        | refine Kept.cut2 (s := s0) hx ?_ (fun kx => ?_)
        | (have : Mgmt := x; subst hx)
        | clear hx)
    | split
    | (with_reducible first | apply Kept.upd | apply Kept.updM | apply Kept.updT | apply Kept.updTM) <;> with_reducible first | assumption | apply kept_closeCtx | apply kept_setCache | apply kept_setConv | apply kept_count

theorem kept_idleClose {s0 : State} (s : State) (c : Nat) (hk : Kept s0 s)  : Kept s0 (State.idleClose s c) := by
  unfold State.idleClose
  repeat' first
    | with_reducible assumption
    | with_reducible first
        | apply kept_convClose
    | ((try lift_lets -underBinder); intro x; clear_value (hx : x = _); first
        | refine Kept.cut (s := s0) hx ?_ (fun kx => ?_)
        | refine Kept.cut2 (s := s0) hx ?_ (fun kx => ?_)
        | (have : Mgmt := x; subst hx)
        | clear hx)
    | split
    | (with_reducible first | apply Kept.upd | apply Kept.updM | apply Kept.updT | apply Kept.updTM) <;> with_reducible first | assumption | apply kept_convClose

theorem kept_lingerClose {s0 : State} (s : State) (c : Nat) (hk : Kept s0 s)  : Kept s0 (State.lingerClose s c) := by
  unfold State.lingerClose
  repeat' first
    | with_reducible assumption
    | with_reducible first
        | apply kept_convClose
    | ((try lift_lets -underBinder); intro x; clear_value (hx : x = _); first
        | refine Kept.cut (s := s0) hx ?_ (fun kx => ?_)
        | refine Kept.cut2 (s := s0) hx ?_ (fun kx => ?_)
        | (have : Mgmt := x; subst hx)
        | clear hx)
    | split
    | (with_reducible first | apply Kept.upd | apply Kept.updM | apply Kept.updT | apply Kept.updTM) <;> with_reducible first | assumption | apply kept_convClose

theorem kept_closeIfPast {s0 : State} (s : State) (c : Nat) (hk : Kept s0 s)  : Kept s0 (State.closeIfPast s c) := by
  unfold State.closeIfPast
  repeat' first
    | with_reducible assumption
    | with_reducible first
        | apply kept_convClose
    | ((try lift_lets -underBinder); intro x; clear_value (hx : x = _); first
        | refine Kept.cut (s := s0) hx ?_ (fun kx => ?_)
        | refine Kept.cut2 (s := s0) hx ?_ (fun kx => ?_)
        | (have : Mgmt := x; subst hx)
        | clear hx)
    | split
    | (with_reducible first | apply Kept.upd | apply Kept.updM | apply Kept.updT | apply Kept.updTM) <;> with_reducible first | assumption | apply kept_convClose

end Sys2Proof.Machine
end

