-- ==== Sys2Proof/Laws/KeptParserRun.lean ====
section
/-! SUPPORT. What the operations of ParserRun.lean keep (Laws/Kept.lean). -/
namespace Sys2Proof.Machine
set_option linter.all false

theorem kept_endRerun {s0 : State} (s : State) (fr : Nat) (hk : Kept s0 s)  : Kept s0 (State.endRerun s fr) := by
  unfold State.endRerun
  repeat' first
    | with_reducible assumption
    | with_reducible first
        | apply kept_failMsg
    | ((try lift_lets -underBinder); intro x; clear_value (hx : x = _); first
        | refine Kept.cut (s := s0) hx ?_ (fun kx => ?_)
        | refine Kept.cut2 (s := s0) hx ?_ (fun kx => ?_)
        | (have : Mgmt := x; subst hx)
        | clear hx)
    | split
    | (with_reducible first | apply Kept.upd | apply Kept.updM | apply Kept.updT | apply Kept.updTM) <;> with_reducible first | assumption | apply kept_failMsg

theorem kept_bindFrame {s0 : State} (s : State) (fr : Nat) (hk : Kept s0 s)  : Kept s0 (State.bindFrame s fr) := by
  unfold State.bindFrame
  exact Kept.upd hk

theorem kept_failHead {s0 : State} (s : State) (n : Nat) (hd : Head) (f : Frame) (status : Nat) (cnt : Nat) (hk : Kept s0 s)  : Kept s0 (State.failHead s n hd f status cnt) := by
  unfold State.failHead
  repeat' first
    | with_reducible assumption
    | with_reducible first
        | apply kept_answer
        | apply kept_endHead
        | apply kept_endRerun
        | apply kept_bindFrame
        | apply kept_count
    | ((try lift_lets -underBinder); intro x; clear_value (hx : x = _); first
        | refine Kept.cut (s := s0) hx ?_ (fun kx => ?_)
        | refine Kept.cut2 (s := s0) hx ?_ (fun kx => ?_)
        | (have : Mgmt := x; subst hx)
        | clear hx)
    | split
    | (with_reducible first | apply Kept.upd | apply Kept.updM | apply Kept.updT | apply Kept.updTM) <;> with_reducible first | assumption | apply kept_answer | apply kept_endHead | apply kept_endRerun | apply kept_bindFrame | apply kept_count

theorem kept_prs {s0 : State} (s : State) (n : Nat) (opc : Nat) (f : Head → Frame → Nat → PrsRes) (hk : Kept s0 s)  : Kept s0 (State.prs s n opc f) := by
  unfold State.prs
  repeat' first
    | with_reducible assumption
    | with_reducible first
        | apply kept_failHead
    | ((try lift_lets -underBinder); intro x; clear_value (hx : x = _); first
        | refine Kept.cut (s := s0) hx ?_ (fun kx => ?_)
        | refine Kept.cut2 (s := s0) hx ?_ (fun kx => ?_)
        | (have : Mgmt := x; subst hx)
        | clear hx)
    | split
    | (with_reducible first | apply Kept.upd | apply Kept.updM | apply Kept.updT | apply Kept.updTM) <;> with_reducible first | assumption | apply kept_failHead

theorem kept_dropHead {s0 : State} (s : State) (n : Nat) (hk : Kept s0 s)  : Kept s0 (State.dropHead s n) := by
  unfold State.dropHead
  repeat' first
    | with_reducible assumption
    | with_reducible first
        | apply kept_endHead
        | apply kept_endRerun
        | apply kept_count
    | ((try lift_lets -underBinder); intro x; clear_value (hx : x = _); first
        | refine Kept.cut (s := s0) hx ?_ (fun kx => ?_)
        | refine Kept.cut2 (s := s0) hx ?_ (fun kx => ?_)
        | (have : Mgmt := x; subst hx)
        | clear hx)
    | split
    | (with_reducible first | apply Kept.upd | apply Kept.updM | apply Kept.updT | apply Kept.updTM) <;> with_reducible first | assumption | apply kept_endHead | apply kept_endRerun | apply kept_count

end Sys2Proof.Machine
end

