-- ==== Sys2Proof/Laws/KeptKwain.lean ====
section
/-! SUPPORT. What the operations of Kwain.lean keep (Laws/Kept.lean). -/
namespace Sys2Proof.Machine
set_option linter.all false

theorem kept_twinTo {s0 : State} (s : State) (st : Nat) (reason : Nat) (origin : Nat) (hk : Kept s0 s)  : Kept s0 (State.twinTo s st reason origin) := by
  unfold State.twinTo
  repeat' first
    | with_reducible assumption
    | with_reducible first
        | apply kept_post
        | apply kept_journal
    | ((try lift_lets -underBinder); intro x; clear_value (hx : x = _); first
        | refine Kept.cut (s := s0) hx ?_ (fun kx => ?_)
        | refine Kept.cut2 (s := s0) hx ?_ (fun kx => ?_)
        | (have : Mgmt := x; subst hx)
        | clear hx)
    | split
    | (with_reducible first | apply Kept.upd | apply Kept.updM | apply Kept.updT | apply Kept.updTM) <;> with_reducible first | assumption | apply kept_post | apply kept_journal

theorem kept_kwain {s0 : State} (s : State) (r : TwinRec) (hk : Kept s0 s)  : Kept s0 (State.kwain s r) := by
  unfold State.kwain
  repeat' first
    | with_reducible assumption
    | with_reducible first
        | apply kept_emit
    | ((try lift_lets -underBinder); intro x; clear_value (hx : x = _); first
        | refine Kept.cut (s := s0) hx ?_ (fun kx => ?_)
        | refine Kept.cut2 (s := s0) hx ?_ (fun kx => ?_)
        | (have : Mgmt := x; subst hx)
        | clear hx)
    | split
    | (with_reducible first | apply Kept.upd | apply Kept.updM | apply Kept.updT | apply Kept.updTM) <;> with_reducible first | assumption | apply kept_emit

theorem kept_twinJudge {s0 : State} (s : State) (n : Nat) (r : Reply) (own : TwinRec) (their : TwinRec) (hk : Kept s0 s)  : Kept s0 (State.twinJudge s n r own their) := by
  unfold State.twinJudge
  repeat' first
    | with_reducible assumption
    | with_reducible first
        | apply kept_post
        | apply kept_setReply
        | apply kept_count
    | ((try lift_lets -underBinder); intro x; clear_value (hx : x = _); first
        | refine Kept.cut (s := s0) hx ?_ (fun kx => ?_)
        | refine Kept.cut2 (s := s0) hx ?_ (fun kx => ?_)
        | (have : Mgmt := x; subst hx)
        | clear hx)
    | split
    | (with_reducible first | apply Kept.upd | apply Kept.updM | apply Kept.updT | apply Kept.updTM) <;> with_reducible first | assumption | apply kept_post | apply kept_setReply | apply kept_count

theorem kept_twinSend {s0 : State} (s : State) (n : Nat) (hk : Kept s0 s)  : Kept s0 (State.twinSend s n) := by
  unfold State.twinSend
  repeat' first
    | with_reducible assumption
    | with_reducible first
        | apply kept_twinJudge
        | apply kept_setReply
        | apply kept_kwain
    | ((try lift_lets -underBinder); intro x; clear_value (hx : x = _); first
        | refine Kept.cut (s := s0) hx ?_ (fun kx => ?_)
        | refine Kept.cut2 (s := s0) hx ?_ (fun kx => ?_)
        | (have : Mgmt := x; subst hx)
        | clear hx)
    | split
    | (with_reducible first | apply Kept.upd | apply Kept.updM | apply Kept.updT | apply Kept.updTM) <;> with_reducible first | assumption | apply kept_twinJudge | apply kept_setReply | apply kept_kwain

theorem kept_twinAgain {s0 : State} (s : State) (r : Reply) (bad : Bool) (rel : Bool) (hk : Kept s0 s)  : Kept s0 (State.twinAgain s r bad rel) := by
  unfold State.twinAgain
  repeat' first
    | with_reducible assumption
    | with_reducible first
        | apply kept_kwain
    | ((try lift_lets -underBinder); intro x; clear_value (hx : x = _); first
        | refine Kept.cut (s := s0) hx ?_ (fun kx => ?_)
        | refine Kept.cut2 (s := s0) hx ?_ (fun kx => ?_)
        | (have : Mgmt := x; subst hx)
        | clear hx)
    | split
    | (with_reducible first | apply Kept.upd | apply Kept.updM | apply Kept.updT | apply Kept.updTM) <;> with_reducible first | assumption | apply kept_kwain

end Sys2Proof.Machine
end

