-- ==== Sys2Proof/Laws/KeptGate.lean ====
section
/-! SUPPORT. What the operations of Gate.lean keep (Laws/Kept.lean). -/
namespace Sys2Proof.Machine
set_option linter.all false

theorem kept_promote {s0 : State} (s : State) (k : Nat) (hk : Kept s0 s)  : Kept s0 (State.promote s k) := by
  unfold State.promote
  repeat' first
    | with_reducible assumption
    | with_reducible first
        | apply kept_count
    | ((try lift_lets -underBinder); intro x; clear_value (hx : x = _); first
        | refine Kept.cut (s := s0) hx ?_ (fun kx => ?_)
        | refine Kept.cut2 (s := s0) hx ?_ (fun kx => ?_)
        | (have : Mgmt := x; subst hx)
        | clear hx)
    | split
    | (with_reducible first | apply Kept.upd | apply Kept.updM | apply Kept.updT | apply Kept.updTM) <;> with_reducible first | assumption | apply kept_count

theorem kept_posGood {s0 : State} (s : State) (k : Nat) (pos : Nat) (hk : Kept s0 s)  : Kept s0 (State.posGood s k pos) := by
  unfold State.posGood
  repeat' first
    | with_reducible assumption
    | with_reducible first
        | apply kept_promote
    | ((try lift_lets -underBinder); intro x; clear_value (hx : x = _); first
        | refine Kept.cut (s := s0) hx ?_ (fun kx => ?_)
        | refine Kept.cut2 (s := s0) hx ?_ (fun kx => ?_)
        | (have : Mgmt := x; subst hx)
        | clear hx)
    | split
    | (with_reducible first | apply Kept.upd | apply Kept.updM | apply Kept.updT | apply Kept.updTM) <;> with_reducible first | assumption | apply kept_promote

theorem kept_gc {s0 : State} (s : State) (hk : Kept s0 s)  : Kept s0 (State.gc s) := by
  unfold State.gc
  exact Kept.upd hk

theorem kept_postFrame {s0 : State} (s : State) (n : Nat) (f : Frame) (hk : Kept s0 s)  : Kept s0 (State.postFrame s n f) := by
  unfold State.postFrame
  repeat' first
    | with_reducible assumption
    | with_reducible first
        | apply kept_gateEvent
        | apply kept_count
    | ((try lift_lets -underBinder); intro x; clear_value (hx : x = _); first
        | refine Kept.cut (s := s0) hx ?_ (fun kx => ?_)
        | refine Kept.cut2 (s := s0) hx ?_ (fun kx => ?_)
        | (have : Mgmt := x; subst hx)
        | clear hx)
    | with_reducible refine kept_foldl _ _ _ ?_ (fun t a kt => ?_)
    | intro _
    | split
    | (with_reducible first | apply Kept.upd | apply Kept.updM | apply Kept.updT | apply Kept.updTM) <;> with_reducible first | assumption | apply kept_gateEvent | apply kept_count

theorem kept_postCauses {s0 : State} (s : State) (hk : Kept s0 s)  : Kept s0 (State.postCauses s) := by
  unfold State.postCauses
  repeat' first
    | with_reducible assumption
    | with_reducible first
        | apply kept_postFrame
    | ((try lift_lets -underBinder); intro x; clear_value (hx : x = _); first
        | refine Kept.cut (s := s0) hx ?_ (fun kx => ?_)
        | refine Kept.cut2 (s := s0) hx ?_ (fun kx => ?_)
        | (have : Mgmt := x; subst hx)
        | clear hx)
    | with_reducible refine kept_foldl _ _ _ ?_ (fun t a kt => ?_)
    | intro _
    | split
    | (with_reducible first | apply Kept.upd | apply Kept.updM | apply Kept.updT | apply Kept.updTM) <;> with_reducible first | assumption | apply kept_postFrame

theorem kept_twinFreed {s0 : State} (s : State) (r : Reply) (hk : Kept s0 s)  : Kept s0 (State.twinFreed s r) := by
  unfold State.twinFreed
  repeat' first
    | with_reducible assumption
    | with_reducible first
        | apply kept_twinAgain
    | ((try lift_lets -underBinder); intro x; clear_value (hx : x = _); first
        | refine Kept.cut (s := s0) hx ?_ (fun kx => ?_)
        | refine Kept.cut2 (s := s0) hx ?_ (fun kx => ?_)
        | (have : Mgmt := x; subst hx)
        | clear hx)
    | split
    | (with_reducible first | apply Kept.upd | apply Kept.updM | apply Kept.updT | apply Kept.updTM) <;> with_reducible first | assumption | apply kept_twinAgain

theorem kept_clearTx {s0 : State} (s : State) (n : Nat) (hk : Kept s0 s)  : Kept s0 (State.clearTx s n) := by
  unfold State.clearTx
  exact Kept.upd hk

theorem kept_stompFrame {s0 : State} (s : State) (n : Nat) (r : Reply) (hk : Kept s0 s)  : Kept s0 (State.stompFrame s n r) := by
  unfold State.stompFrame
  repeat' first
    | with_reducible assumption
    | with_reducible first
        | apply kept_peak
        | apply kept_drawNat
        | apply kept_setReply
        | apply kept_clearTx
        | apply kept_endFrame
    | ((try lift_lets -underBinder); intro x; clear_value (hx : x = _); first
        | refine Kept.cut (s := s0) hx ?_ (fun kx => ?_)
        | refine Kept.cut2 (s := s0) hx ?_ (fun kx => ?_)
        | (have : Mgmt := x; subst hx)
        | clear hx)
    | split
    | (with_reducible first | apply Kept.upd | apply Kept.updM | apply Kept.updT | apply Kept.updTM) <;> with_reducible first | assumption | apply kept_peak | apply kept_drawNat | apply kept_setReply | apply kept_clearTx | apply kept_endFrame

theorem kept_voidReply {s0 : State} (s : State) (m : Msg) (hk : Kept s0 s)  : Kept s0 (State.voidReply s m) := by
  unfold State.voidReply
  repeat' first
    | with_reducible assumption
    | with_reducible first
        | apply kept_clearTx
        | apply kept_stompFrame
    | ((try lift_lets -underBinder); intro x; clear_value (hx : x = _); first
        | refine Kept.cut (s := s0) hx ?_ (fun kx => ?_)
        | refine Kept.cut2 (s := s0) hx ?_ (fun kx => ?_)
        | (have : Mgmt := x; subst hx)
        | clear hx)
    | split
    | (with_reducible first | apply Kept.upd | apply Kept.updM | apply Kept.updT | apply Kept.updTM) <;> with_reducible first | assumption | apply kept_clearTx | apply kept_stompFrame

theorem kept_decideBad {s0 : State} (s : State) (n : Nat) (r : Reply) (c : Nat) (hk : Kept s0 s)  : Kept s0 (State.decideBad s n r c) := by
  unfold State.decideBad
  repeat' first
    | with_reducible assumption
    | with_reducible first
        | apply kept_failMsg
        | apply kept_twinFreed
        | apply kept_gc
        | apply kept_twinAgain
        | apply kept_gateEvent
        | apply kept_setReply
        | apply kept_count
    | ((try lift_lets -underBinder); intro x; clear_value (hx : x = _); first
        | refine Kept.cut (s := s0) hx ?_ (fun kx => ?_)
        | refine Kept.cut2 (s := s0) hx ?_ (fun kx => ?_)
        | (have : Mgmt := x; subst hx)
        | clear hx)
    | with_reducible refine kept_foldl _ _ _ ?_ (fun t a kt => ?_)
    | intro _
    | split
    | (with_reducible first | apply Kept.upd | apply Kept.updM | apply Kept.updT | apply Kept.updTM) <;> with_reducible first | assumption | apply kept_failMsg | apply kept_twinFreed | apply kept_gc | apply kept_twinAgain | apply kept_gateEvent | apply kept_setReply | apply kept_count

theorem kept_rerunFrame {s0 : State} (s : State) (n : Nat) (hk : Kept s0 s)  : Kept s0 (State.rerunFrame s n) := by
  unfold State.rerunFrame
  repeat' first
    | with_reducible assumption
    | with_reducible first
        | apply kept_unhook
        | apply kept_regap
        | apply kept_ctxFail
    | ((try lift_lets -underBinder); intro x; clear_value (hx : x = _); first
        | refine Kept.cut (s := s0) hx ?_ (fun kx => ?_)
        | refine Kept.cut2 (s := s0) hx ?_ (fun kx => ?_)
        | (have : Mgmt := x; subst hx)
        | clear hx)
    | with_reducible refine kept_foldl _ _ _ ?_ (fun t a kt => ?_)
    | intro _
    | split
    | (with_reducible first | apply Kept.upd | apply Kept.updM | apply Kept.updT | apply Kept.updTM) <;> with_reducible first | assumption | apply kept_unhook | apply kept_regap | apply kept_ctxFail

theorem kept_rerunAll {s0 : State} (s : State) (hk : Kept s0 s)  : Kept s0 (State.rerunAll s) := by
  unfold State.rerunAll
  repeat' first
    | with_reducible assumption
    | with_reducible first
        | apply kept_rerunFrame
    | ((try lift_lets -underBinder); intro x; clear_value (hx : x = _); first
        | refine Kept.cut (s := s0) hx ?_ (fun kx => ?_)
        | refine Kept.cut2 (s := s0) hx ?_ (fun kx => ?_)
        | (have : Mgmt := x; subst hx)
        | clear hx)
    | with_reducible refine kept_foldl _ _ _ ?_ (fun t a kt => ?_)
    | intro _
    | split
    | (with_reducible first | apply Kept.upd | apply Kept.updM | apply Kept.updT | apply Kept.updTM) <;> with_reducible first | assumption | apply kept_rerunFrame

theorem kept_settleReply {s0 : State} (s : State) (n : Nat) (hk : Kept s0 s)  : Kept s0 (State.settleReply s n) := by
  unfold State.settleReply
  repeat' first
    | with_reducible assumption
    | with_reducible first
        | apply kept_decideBad
        | apply kept_setReply
        | apply kept_stompFrame
    | ((try lift_lets -underBinder); intro x; clear_value (hx : x = _); first
        | refine Kept.cut (s := s0) hx ?_ (fun kx => ?_)
        | refine Kept.cut2 (s := s0) hx ?_ (fun kx => ?_)
        | (have : Mgmt := x; subst hx)
        | clear hx)
    | split
    | (with_reducible first | apply Kept.upd | apply Kept.updM | apply Kept.updT | apply Kept.updTM) <;> with_reducible first | assumption | apply kept_decideBad | apply kept_setReply | apply kept_stompFrame

theorem kept_settleMsg {s0 : State} (s : State) (n : Nat) (hk : Kept s0 s)  : Kept s0 (State.settleMsg s n) := by
  unfold State.settleMsg
  repeat' first
    | with_reducible assumption
    | with_reducible first
        | apply kept_decideBad
    | ((try lift_lets -underBinder); intro x; clear_value (hx : x = _); first
        | refine Kept.cut (s := s0) hx ?_ (fun kx => ?_)
        | refine Kept.cut2 (s := s0) hx ?_ (fun kx => ?_)
        | (have : Mgmt := x; subst hx)
        | clear hx)
    | split
    | (with_reducible first | apply Kept.upd | apply Kept.updM | apply Kept.updT | apply Kept.updTM) <;> with_reducible first | assumption | apply kept_decideBad

theorem kept_settle {s0 : State} (s : State) (hk : Kept s0 s)  : Kept s0 (State.settle s) := by
  unfold State.settle
  repeat' first
    | with_reducible assumption
    | with_reducible first
        | apply kept_settleReply
        | apply kept_settleMsg
        | apply kept_markReady
        | apply kept_rerunAll
        | apply kept_postCauses
    | ((try lift_lets -underBinder); intro x; clear_value (hx : x = _); first
        | refine Kept.cut (s := s0) hx ?_ (fun kx => ?_)
        | refine Kept.cut2 (s := s0) hx ?_ (fun kx => ?_)
        | (have : Mgmt := x; subst hx)
        | clear hx)
    | with_reducible refine kept_foldl _ _ _ ?_ (fun t a kt => ?_)
    | intro _
    | split
    | (with_reducible first | apply Kept.upd | apply Kept.updM | apply Kept.updT | apply Kept.updTM) <;> with_reducible first | assumption | apply kept_settleReply | apply kept_settleMsg | apply kept_markReady | apply kept_rerunAll | apply kept_postCauses

theorem kept_unitFail {s0 : State} (s : State) (n : Nat) (final : Bool) (hk : Kept s0 s)  : Kept s0 (State.unitFail s n final) := by
  unfold State.unitFail
  repeat' first
    | with_reducible assumption
    | with_reducible first
        | apply kept_settleReply
        | apply kept_decideBad
        | apply kept_setMsg
    | ((try lift_lets -underBinder); intro x; clear_value (hx : x = _); first
        | refine Kept.cut (s := s0) hx ?_ (fun kx => ?_)
        | refine Kept.cut2 (s := s0) hx ?_ (fun kx => ?_)
        | (have : Mgmt := x; subst hx)
        | clear hx)
    | split
    | (with_reducible first | apply Kept.upd | apply Kept.updM | apply Kept.updT | apply Kept.updTM) <;> with_reducible first | assumption | apply kept_settleReply | apply kept_decideBad | apply kept_setMsg

theorem kept_decideTo {s0 : State} (s : State) (n : Nat) (d : Option Dest) (res : List Byte) (nan : Bool) (sat : Bool) (mixed : Bool) (pos : Nat) (digHead : List Byte) (hk : Kept s0 s)  : Kept s0 (State.decideTo s n d res nan sat mixed pos digHead) := by
  unfold State.decideTo
  repeat' first
    | with_reducible assumption
    | with_reducible first
        | apply kept_settle
        | apply kept_setMsg
        | apply kept_setReply
    | ((try lift_lets -underBinder); intro x; clear_value (hx : x = _); first
        | refine Kept.cut (s := s0) hx ?_ (fun kx => ?_)
        | refine Kept.cut2 (s := s0) hx ?_ (fun kx => ?_)
        | (have : Mgmt := x; subst hx)
        | clear hx)
    | split
    | (with_reducible first | apply Kept.upd | apply Kept.updM | apply Kept.updT | apply Kept.updTM) <;> with_reducible first | assumption | apply kept_settle | apply kept_setMsg | apply kept_setReply

theorem kept_decideResult {s0 : State} (s : State) (n : Nat) (res : List Byte) (nan : Bool) (sat : Bool) (mixed : Bool) (pos : Nat) (digHead : List Byte) (hk : Kept s0 s)  : Kept s0 (State.decideResult s n res nan sat mixed pos digHead) := by
  unfold State.decideResult
  repeat' first
    | with_reducible assumption
    | with_reducible first
        | apply kept_decideTo
    | ((try lift_lets -underBinder); intro x; clear_value (hx : x = _); first
        | refine Kept.cut (s := s0) hx ?_ (fun kx => ?_)
        | refine Kept.cut2 (s := s0) hx ?_ (fun kx => ?_)
        | (have : Mgmt := x; subst hx)
        | clear hx)
    | split
    | (with_reducible first | apply Kept.upd | apply Kept.updM | apply Kept.updT | apply Kept.updTM) <;> with_reducible first | assumption | apply kept_decideTo

theorem kept_replyBuild {s0 : State} (s : State) (n : Nat) (hk : Kept s0 s)  : Kept s0 (State.replyBuild s n) := by
  unfold State.replyBuild
  repeat' first
    | with_reducible assumption
    | with_reducible first
        | apply kept_pairReady
        | apply kept_twinSend
        | apply kept_settle
        | apply kept_setReply
    | ((try lift_lets -underBinder); intro x; clear_value (hx : x = _); first
        | refine Kept.cut (s := s0) hx ?_ (fun kx => ?_)
        | refine Kept.cut2 (s := s0) hx ?_ (fun kx => ?_)
        | (have : Mgmt := x; subst hx)
        | clear hx)
    | split
    | (with_reducible first | apply Kept.upd | apply Kept.updM | apply Kept.updT | apply Kept.updTM) <;> with_reducible first | assumption | apply kept_pairReady | apply kept_twinSend | apply kept_settle | apply kept_setReply

theorem kept_digestComplete {s0 : State} (s : State) (n : Nat) (hk : Kept s0 s)  : Kept s0 (State.digestComplete s n) := by
  unfold State.digestComplete
  repeat' first
    | with_reducible assumption
    | with_reducible first
        | apply kept_twinSend
        | apply kept_settle
        | apply kept_setReply
        | apply kept_pairDrop
    | ((try lift_lets -underBinder); intro x; clear_value (hx : x = _); first
        | refine Kept.cut (s := s0) hx ?_ (fun kx => ?_)
        | refine Kept.cut2 (s := s0) hx ?_ (fun kx => ?_)
        | (have : Mgmt := x; subst hx)
        | clear hx)
    | split
    | (with_reducible first | apply Kept.upd | apply Kept.updM | apply Kept.updT | apply Kept.updTM) <;> with_reducible first | assumption | apply kept_twinSend | apply kept_settle | apply kept_setReply | apply kept_pairDrop

theorem kept_passed {s0 : State} (s : State) (n : Nat) (r : Reply) (stage : RStage) (hk : Kept s0 s)  : Kept s0 (State.passed s n r stage) := by
  unfold State.passed
  repeat' first
    | with_reducible assumption
    | with_reducible first
        | apply kept_twinFreed
        | apply kept_gc
        | apply kept_endMsg
        | apply kept_setMsg
        | apply kept_setReply
        | apply kept_count
    | ((try lift_lets -underBinder); intro x; clear_value (hx : x = _); first
        | refine Kept.cut (s := s0) hx ?_ (fun kx => ?_)
        | refine Kept.cut2 (s := s0) hx ?_ (fun kx => ?_)
        | (have : Mgmt := x; subst hx)
        | clear hx)
    | split
    | (with_reducible first | apply Kept.upd | apply Kept.updM | apply Kept.updT | apply Kept.updTM) <;> with_reducible first | assumption | apply kept_twinFreed | apply kept_gc | apply kept_endMsg | apply kept_setMsg | apply kept_setReply | apply kept_count

theorem kept_takeTx {s0 : State} (s : State) (e : Nat) (n : Nat) (hk : Kept s0 s)  : Kept s0 (State.takeTx s e n) := by
  unfold State.takeTx
  repeat' first
    | with_reducible assumption
    | with_reducible first
        | apply kept_freeTx
        | apply kept_setEp
    | ((try lift_lets -underBinder); intro x; clear_value (hx : x = _); first
        | refine Kept.cut (s := s0) hx ?_ (fun kx => ?_)
        | refine Kept.cut2 (s := s0) hx ?_ (fun kx => ?_)
        | (have : Mgmt := x; subst hx)
        | clear hx)
    | split
    | (with_reducible first | apply Kept.upd | apply Kept.updM | apply Kept.updT | apply Kept.updTM) <;> with_reducible first | assumption | apply kept_freeTx | apply kept_setEp

theorem kept_recache {s0 : State} (s : State) (old : Reply) (new : Reply) (hk : Kept s0 s)  : Kept s0 (State.recache s old new) := by
  unfold State.recache
  repeat' first
    | with_reducible assumption
    | with_reducible first
        | apply kept_setCache
    | ((try lift_lets -underBinder); intro x; clear_value (hx : x = _); first
        | refine Kept.cut (s := s0) hx ?_ (fun kx => ?_)
        | refine Kept.cut2 (s := s0) hx ?_ (fun kx => ?_)
        | (have : Mgmt := x; subst hx)
        | clear hx)
    | split
    | (with_reducible first | apply Kept.upd | apply Kept.updM | apply Kept.updT | apply Kept.updTM) <;> with_reducible first | assumption | apply kept_setCache

theorem kept_startTx {s0 : State} (s : State) (n : Nat) (r : Reply) (reissue : Bool) (hk : Kept s0 s)  : Kept s0 (State.startTx s n r reissue) := by
  unfold State.startTx
  repeat' first
    | with_reducible assumption
    | with_reducible first
        | apply kept_openFrame
        | apply kept_sendFrame
        | apply kept_recache
        | apply kept_takeTx
        | apply kept_setReply
        | apply kept_count
        | apply kept_passed
    | ((try lift_lets -underBinder); intro x; clear_value (hx : x = _); first
        | refine Kept.cut (s := s0) hx ?_ (fun kx => ?_)
        | refine Kept.cut2 (s := s0) hx ?_ (fun kx => ?_)
        | (have : Mgmt := x; subst hx)
        | clear hx)
    | split
    | (with_reducible first | apply Kept.upd | apply Kept.updM | apply Kept.updT | apply Kept.updTM) <;> with_reducible first | assumption | apply kept_openFrame | apply kept_sendFrame | apply kept_recache | apply kept_takeTx | apply kept_setReply | apply kept_count | apply kept_passed

theorem kept_dropPassed {s0 : State} (s : State) (n : Nat) (hk : Kept s0 s)  : Kept s0 (State.dropPassed s n) := by
  unfold State.dropPassed
  repeat' first
    | with_reducible assumption
    | with_reducible first
        | apply kept_gc
    | ((try lift_lets -underBinder); intro x; clear_value (hx : x = _); first
        | refine Kept.cut (s := s0) hx ?_ (fun kx => ?_)
        | refine Kept.cut2 (s := s0) hx ?_ (fun kx => ?_)
        | (have : Mgmt := x; subst hx)
        | clear hx)
    | split
    | (with_reducible first | apply Kept.upd | apply Kept.updM | apply Kept.updT | apply Kept.updTM) <;> with_reducible first | assumption | apply kept_gc

theorem kept_transmit {s0 : State} (s : State) (n : Nat) (p : Reply → Bool) (hk : Kept s0 s)  : Kept s0 (State.transmit s n p) := by
  unfold State.transmit
  repeat' first
    | with_reducible assumption
    | with_reducible first
        | apply kept_dropPassed
        | apply kept_startTx
        | apply kept_passed
    | ((try lift_lets -underBinder); intro x; clear_value (hx : x = _); first
        | refine Kept.cut (s := s0) hx ?_ (fun kx => ?_)
        | refine Kept.cut2 (s := s0) hx ?_ (fun kx => ?_)
        | (have : Mgmt := x; subst hx)
        | clear hx)
    | split
    | (with_reducible first | apply Kept.upd | apply Kept.updM | apply Kept.updT | apply Kept.updTM) <;> with_reducible first | assumption | apply kept_dropPassed | apply kept_startTx | apply kept_passed

theorem kept_fixedRelease {s0 : State} (s : State) (n : Nat) (hk : Kept s0 s)  : Kept s0 (State.fixedRelease s n) := by
  unfold State.fixedRelease
  repeat' first
    | with_reducible assumption
    | with_reducible first
        | apply kept_transmit
        | apply kept_startTx
        | apply kept_markReady
        | apply kept_setReply
    | ((try lift_lets -underBinder); intro x; clear_value (hx : x = _); first
        | refine Kept.cut (s := s0) hx ?_ (fun kx => ?_)
        | refine Kept.cut2 (s := s0) hx ?_ (fun kx => ?_)
        | (have : Mgmt := x; subst hx)
        | clear hx)
    | split
    | (with_reducible first | apply Kept.upd | apply Kept.updM | apply Kept.updT | apply Kept.updTM) <;> with_reducible first | assumption | apply kept_transmit | apply kept_startTx | apply kept_markReady | apply kept_setReply

theorem kept_heldUnitDue {s0 : State} (s : State) (n : Nat) (hk : Kept s0 s)  : Kept s0 (State.heldUnitDue s n) := by
  unfold State.heldUnitDue
  repeat' first
    | with_reducible assumption
    | with_reducible first
        | apply kept_settleReply
        | apply kept_peak
        | apply kept_setReply
        | apply kept_endFrame
        | apply kept_passed
    | ((try lift_lets -underBinder); intro x; clear_value (hx : x = _); first
        | refine Kept.cut (s := s0) hx ?_ (fun kx => ?_)
        | refine Kept.cut2 (s := s0) hx ?_ (fun kx => ?_)
        | (have : Mgmt := x; subst hx)
        | clear hx)
    | split
    | (with_reducible first | apply Kept.upd | apply Kept.updM | apply Kept.updT | apply Kept.updTM) <;> with_reducible first | assumption | apply kept_settleReply | apply kept_peak | apply kept_setReply | apply kept_endFrame | apply kept_passed

theorem kept_exhausted {s0 : State} (s : State) (n : Nat) (hk : Kept s0 s)  : Kept s0 (State.exhausted s n) := by
  unfold State.exhausted
  repeat' first
    | with_reducible assumption
    | with_reducible first
        | apply kept_gateEvent
        | apply kept_markReady
        | apply kept_setReply
        | apply kept_stompFrame
        | apply kept_count
    | ((try lift_lets -underBinder); intro x; clear_value (hx : x = _); first
        | refine Kept.cut (s := s0) hx ?_ (fun kx => ?_)
        | refine Kept.cut2 (s := s0) hx ?_ (fun kx => ?_)
        | (have : Mgmt := x; subst hx)
        | clear hx)
    | split
    | (with_reducible first | apply Kept.upd | apply Kept.updM | apply Kept.updT | apply Kept.updTM) <;> with_reducible first | assumption | apply kept_gateEvent | apply kept_markReady | apply kept_setReply | apply kept_stompFrame | apply kept_count

theorem kept_egressFail {s0 : State} (s : State) (r : Reply) (hk : Kept s0 s)  : Kept s0 (State.egressFail s r) := by
  unfold State.egressFail
  repeat' first
    | with_reducible assumption
    | with_reducible first
        | apply kept_ctxFail
    | ((try lift_lets -underBinder); intro x; clear_value (hx : x = _); first
        | refine Kept.cut (s := s0) hx ?_ (fun kx => ?_)
        | refine Kept.cut2 (s := s0) hx ?_ (fun kx => ?_)
        | (have : Mgmt := x; subst hx)
        | clear hx)
    | split
    | (with_reducible first | apply Kept.upd | apply Kept.updM | apply Kept.updT | apply Kept.updTM) <;> with_reducible first | assumption | apply kept_ctxFail

theorem kept_unsent {s0 : State} (s : State) (n : Nat) (r : Reply) (hk : Kept s0 s)  : Kept s0 (State.unsent s n r) := by
  unfold State.unsent
  repeat' first
    | with_reducible assumption
    | with_reducible first
        | apply kept_twinFreed
        | apply kept_gc
        | apply kept_endMsg
        | apply kept_setMsg
        | apply kept_setReply
    | ((try lift_lets -underBinder); intro x; clear_value (hx : x = _); first
        | refine Kept.cut (s := s0) hx ?_ (fun kx => ?_)
        | refine Kept.cut2 (s := s0) hx ?_ (fun kx => ?_)
        | (have : Mgmt := x; subst hx)
        | clear hx)
    | split
    | (with_reducible first | apply Kept.upd | apply Kept.updM | apply Kept.updT | apply Kept.updTM) <;> with_reducible first | assumption | apply kept_twinFreed | apply kept_gc | apply kept_endMsg | apply kept_setMsg | apply kept_setReply

theorem kept_reissue {s0 : State} (s : State) (n : Nat) (hk : Kept s0 s)  : Kept s0 (State.reissue s n) := by
  unfold State.reissue
  repeat' first
    | with_reducible assumption
    | with_reducible first
        | apply kept_gc
        | apply kept_sendFrame
        | apply kept_recache
        | apply kept_takeTx
        | apply kept_gateEvent
        | apply kept_egressFail
        | apply kept_setReply
        | apply kept_count
        | apply kept_unsent
        | apply kept_passed
    | ((try lift_lets -underBinder); intro x; clear_value (hx : x = _); first
        | refine Kept.cut (s := s0) hx ?_ (fun kx => ?_)
        | refine Kept.cut2 (s := s0) hx ?_ (fun kx => ?_)
        | (have : Mgmt := x; subst hx)
        | clear hx)
    | split
    | (with_reducible first | apply Kept.upd | apply Kept.updM | apply Kept.updT | apply Kept.updTM) <;> with_reducible first | assumption | apply kept_gc | apply kept_sendFrame | apply kept_recache | apply kept_takeTx | apply kept_gateEvent | apply kept_egressFail | apply kept_setReply | apply kept_count | apply kept_unsent | apply kept_passed

theorem kept_noticeSend {s0 : State} (s : State) (n : Nat) (hk : Kept s0 s)  : Kept s0 (State.noticeSend s n) := by
  unfold State.noticeSend
  repeat' first
    | with_reducible assumption
    | with_reducible first
        | apply kept_gc
        | apply kept_sendFrame
        | apply kept_takeTx
        | apply kept_setReply
        | apply kept_count
    | ((try lift_lets -underBinder); intro x; clear_value (hx : x = _); first
        | refine Kept.cut (s := s0) hx ?_ (fun kx => ?_)
        | refine Kept.cut2 (s := s0) hx ?_ (fun kx => ?_)
        | (have : Mgmt := x; subst hx)
        | clear hx)
    | split
    | (with_reducible first | apply Kept.upd | apply Kept.updM | apply Kept.updT | apply Kept.updTM) <;> with_reducible first | assumption | apply kept_gc | apply kept_sendFrame | apply kept_takeTx | apply kept_setReply | apply kept_count

theorem kept_cutReply {s0 : State} (s : State) (n : Nat) (e : Nat) (r : Reply) (hk : Kept s0 s)  : Kept s0 (State.cutReply s n e r) := by
  unfold State.cutReply
  repeat' first
    | with_reducible assumption
    | with_reducible first
        | apply kept_gc
        | apply kept_linkCut
        | apply kept_gateEvent
        | apply kept_peak
        | apply kept_markReady
        | apply kept_egressFail
        | apply kept_setReply
        | apply kept_clearTx
        | apply kept_count
        | apply kept_unsent
    | ((try lift_lets -underBinder); intro x; clear_value (hx : x = _); first
        | refine Kept.cut (s := s0) hx ?_ (fun kx => ?_)
        | refine Kept.cut2 (s := s0) hx ?_ (fun kx => ?_)
        | (have : Mgmt := x; subst hx)
        | clear hx)
    | split
    | (with_reducible first | apply Kept.upd | apply Kept.updM | apply Kept.updT | apply Kept.updTM) <;> with_reducible first | assumption | apply kept_gc | apply kept_linkCut | apply kept_gateEvent | apply kept_peak | apply kept_markReady | apply kept_egressFail | apply kept_setReply | apply kept_clearTx | apply kept_count | apply kept_unsent

theorem kept_egressLost {s0 : State} (s : State) (e : Nat) (hk : Kept s0 s)  : Kept s0 (State.egressLost s e) := by
  unfold State.egressLost
  repeat' first
    | with_reducible assumption
    | with_reducible first
        | apply kept_cutReply
    | ((try lift_lets -underBinder); intro x; clear_value (hx : x = _); first
        | refine Kept.cut (s := s0) hx ?_ (fun kx => ?_)
        | refine Kept.cut2 (s := s0) hx ?_ (fun kx => ?_)
        | (have : Mgmt := x; subst hx)
        | clear hx)
    | split
    | (with_reducible first | apply Kept.upd | apply Kept.updM | apply Kept.updT | apply Kept.updTM) <;> with_reducible first | assumption | apply kept_cutReply

theorem kept_egressTimeout {s0 : State} (s : State) (n : Nat) (hk : Kept s0 s)  : Kept s0 (State.egressTimeout s n) := by
  unfold State.egressTimeout
  repeat' first
    | with_reducible assumption
    | with_reducible first
        | apply kept_egressFail
        | apply kept_count
        | apply kept_unsent
    | ((try lift_lets -underBinder); intro x; clear_value (hx : x = _); first
        | refine Kept.cut (s := s0) hx ?_ (fun kx => ?_)
        | refine Kept.cut2 (s := s0) hx ?_ (fun kx => ?_)
        | (have : Mgmt := x; subst hx)
        | clear hx)
    | split
    | (with_reducible first | apply Kept.upd | apply Kept.updM | apply Kept.updT | apply Kept.updTM) <;> with_reducible first | assumption | apply kept_egressFail | apply kept_count | apply kept_unsent

theorem kept_fecSyndrome {s0 : State} (s : State) (q : Nat) (on : List (Nat × Nat)) (zero : Bool) (hk : Kept s0 s)  : Kept s0 (State.fecSyndrome s q on zero) := by
  unfold State.fecSyndrome
  repeat' first
    | with_reducible assumption
    | with_reducible first
        | apply kept_setFrame
        | apply kept_settle
        | apply kept_setQuad
    | ((try lift_lets -underBinder); intro x; clear_value (hx : x = _); first
        | refine Kept.cut (s := s0) hx ?_ (fun kx => ?_)
        | refine Kept.cut2 (s := s0) hx ?_ (fun kx => ?_)
        | (have : Mgmt := x; subst hx)
        | clear hx)
    | with_reducible refine kept_foldl _ _ _ ?_ (fun t a kt => ?_)
    | intro _
    | split
    | (with_reducible first | apply Kept.upd | apply Kept.updM | apply Kept.updT | apply Kept.updTM) <;> with_reducible first | assumption | apply kept_setFrame | apply kept_settle | apply kept_setQuad

theorem kept_decoded {s0 : State} (s : State) (n : Nat) (cw : Nat) (fix : List (Nat × Byte)) (ok : Bool) (hk : Kept s0 s)  : Kept s0 (State.decoded s n cw fix ok) := by
  unfold State.decoded
  repeat' first
    | with_reducible assumption
    | with_reducible first
        | apply kept_setFrame
    | ((try lift_lets -underBinder); intro x; clear_value (hx : x = _); first
        | refine Kept.cut (s := s0) hx ?_ (fun kx => ?_)
        | refine Kept.cut2 (s := s0) hx ?_ (fun kx => ?_)
        | (have : Mgmt := x; subst hx)
        | clear hx)
    | split
    | (with_reducible first | apply Kept.upd | apply Kept.updM | apply Kept.updT | apply Kept.updTM) <;> with_reducible first | assumption | apply kept_setFrame

theorem kept_fecCorrection {s0 : State} (s : State) (q : Nat) (on : List (Nat × Nat × List (Nat × Byte))) (ok : Bool) (hk : Kept s0 s)  : Kept s0 (State.fecCorrection s q on ok) := by
  unfold State.fecCorrection
  repeat' first
    | with_reducible assumption
    | with_reducible first
        | apply kept_settle
        | apply kept_decoded
        | apply kept_count
        | apply kept_setQuad
    | ((try lift_lets -underBinder); intro x; clear_value (hx : x = _); first
        | refine Kept.cut (s := s0) hx ?_ (fun kx => ?_)
        | refine Kept.cut2 (s := s0) hx ?_ (fun kx => ?_)
        | (have : Mgmt := x; subst hx)
        | clear hx)
    | with_reducible refine kept_foldl _ _ _ ?_ (fun t a kt => ?_)
    | intro _
    | split
    | (with_reducible first | apply Kept.upd | apply Kept.updM | apply Kept.updT | apply Kept.updTM) <;> with_reducible first | assumption | apply kept_settle | apply kept_decoded | apply kept_count | apply kept_setQuad

theorem kept_fcsVerdict {s0 : State} (s : State) (n : Nat) (hk : Kept s0 s)  : Kept s0 (State.fcsVerdict s n) := by
  unfold State.fcsVerdict
  repeat' first
    | with_reducible assumption
    | with_reducible first
        | apply kept_settle
    | ((try lift_lets -underBinder); intro x; clear_value (hx : x = _); first
        | refine Kept.cut (s := s0) hx ?_ (fun kx => ?_)
        | refine Kept.cut2 (s := s0) hx ?_ (fun kx => ?_)
        | (have : Mgmt := x; subst hx)
        | clear hx)
    | split
    | (with_reducible first | apply Kept.upd | apply Kept.updM | apply Kept.updT | apply Kept.updTM) <;> with_reducible first | assumption | apply kept_settle

theorem kept_truncate {s0 : State} (s : State) (n : Nat) (hk : Kept s0 s)  : Kept s0 (State.truncate s n) := by
  unfold State.truncate
  repeat' first
    | with_reducible assumption
    | with_reducible first
        | apply kept_setFrame
        | apply kept_settle
        | apply kept_count
    | ((try lift_lets -underBinder); intro x; clear_value (hx : x = _); first
        | refine Kept.cut (s := s0) hx ?_ (fun kx => ?_)
        | refine Kept.cut2 (s := s0) hx ?_ (fun kx => ?_)
        | (have : Mgmt := x; subst hx)
        | clear hx)
    | split
    | (with_reducible first | apply Kept.upd | apply Kept.updM | apply Kept.updT | apply Kept.updTM) <;> with_reducible first | assumption | apply kept_setFrame | apply kept_settle | apply kept_count

theorem kept_messageRerun {s0 : State} (s : State) (n : Nat) (hk : Kept s0 s)  : Kept s0 (State.messageRerun s n) := by
  unfold State.messageRerun
  repeat' first
    | with_reducible assumption
    | with_reducible first
        | apply kept_runHead
        | apply kept_endRerun
    | ((try lift_lets -underBinder); intro x; clear_value (hx : x = _); first
        | refine Kept.cut (s := s0) hx ?_ (fun kx => ?_)
        | refine Kept.cut2 (s := s0) hx ?_ (fun kx => ?_)
        | (have : Mgmt := x; subst hx)
        | clear hx)
    | split
    | (with_reducible first | apply Kept.upd | apply Kept.updM | apply Kept.updT | apply Kept.updTM) <;> with_reducible first | assumption | apply kept_runHead | apply kept_endRerun

theorem kept_specSuppress {s0 : State} (s : State) (q : Nat) (hk : Kept s0 s)  : Kept s0 (State.specSuppress s q) := by
  unfold State.specSuppress
  repeat' first
    | with_reducible assumption
    | with_reducible first
        | apply kept_post
        | apply kept_setQuad
    | ((try lift_lets -underBinder); intro x; clear_value (hx : x = _); first
        | refine Kept.cut (s := s0) hx ?_ (fun kx => ?_)
        | refine Kept.cut2 (s := s0) hx ?_ (fun kx => ?_)
        | (have : Mgmt := x; subst hx)
        | clear hx)
    | split
    | (with_reducible first | apply Kept.upd | apply Kept.updM | apply Kept.updT | apply Kept.updTM) <;> with_reducible first | assumption | apply kept_post | apply kept_setQuad

theorem kept_specWindowEnd {s0 : State} (s : State) (q : Nat) (hk : Kept s0 s)  : Kept s0 (State.specWindowEnd s q) := by
  unfold State.specWindowEnd
  repeat' first
    | with_reducible assumption
    | with_reducible first
        | apply kept_post
        | apply kept_setQuad
    | ((try lift_lets -underBinder); intro x; clear_value (hx : x = _); first
        | refine Kept.cut (s := s0) hx ?_ (fun kx => ?_)
        | refine Kept.cut2 (s := s0) hx ?_ (fun kx => ?_)
        | (have : Mgmt := x; subst hx)
        | clear hx)
    | split
    | (with_reducible first | apply Kept.upd | apply Kept.updM | apply Kept.updT | apply Kept.updTM) <;> with_reducible first | assumption | apply kept_post | apply kept_setQuad

end Sys2Proof.Machine
end

