-- ==== Sys2Proof/Laws/KeptConv.lean ====
section
/-! SUPPORT. What the operations of Conv.lean keep (Laws/Kept.lean). -/
namespace Sys2Proof.Machine
set_option linter.all false

theorem kept_effSlide {s0 : State} (s : State) (c : Nat) (slide : Option Nat) (hk : Kept s0 s)  : Kept s0 (State.effSlide s c slide) := by
  unfold State.effSlide
  repeat' first
    | with_reducible assumption
    | with_reducible first
        | apply kept_moveBase
    | ((try lift_lets -underBinder); intro x; clear_value (hx : x = _); first
        | refine Kept.cut (s := s0) hx ?_ (fun kx => ?_)
        | refine Kept.cut2 (s := s0) hx ?_ (fun kx => ?_)
        | (have : Mgmt := x; subst hx)
        | clear hx)
    | split
    | (with_reducible first | apply Kept.upd | apply Kept.updM | apply Kept.updT | apply Kept.updTM) <;> with_reducible first | assumption | apply kept_moveBase

theorem kept_effDone {s0 : State} (s : State) (c : Nat) (q : Nat) (r : Reply) (hk : Kept s0 s)  : Kept s0 (State.effDone s c q r) := by
  unfold State.effDone
  repeat' first
    | with_reducible assumption
    | with_reducible first
        | apply kept_setCache
        | apply kept_setConv
    | ((try lift_lets -underBinder); intro x; clear_value (hx : x = _); first
        | refine Kept.cut (s := s0) hx ?_ (fun kx => ?_)
        | refine Kept.cut2 (s := s0) hx ?_ (fun kx => ?_)
        | (have : Mgmt := x; subst hx)
        | clear hx)
    | split
    | (with_reducible first | apply Kept.upd | apply Kept.updM | apply Kept.updT | apply Kept.updTM) <;> with_reducible first | assumption | apply kept_setCache | apply kept_setConv

theorem kept_effAck {s0 : State} (s : State) (c : Nat) (d : Desc) (hk : Kept s0 s)  : Kept s0 (State.effAck s c d) := by
  unfold State.effAck
  repeat' first
    | with_reducible assumption
    | with_reducible first
        | apply kept_moveBase
    | ((try lift_lets -underBinder); intro x; clear_value (hx : x = _); first
        | refine Kept.cut (s := s0) hx ?_ (fun kx => ?_)
        | refine Kept.cut2 (s := s0) hx ?_ (fun kx => ?_)
        | (have : Mgmt := x; subst hx)
        | clear hx)
    | split
    | (with_reducible first | apply Kept.upd | apply Kept.updM | apply Kept.updT | apply Kept.updTM) <;> with_reducible first | assumption | apply kept_moveBase

theorem kept_effClose {s0 : State} (s : State) (c : Nat) (d : Desc) (hk : Kept s0 s)  : Kept s0 (State.effClose s c d) := by
  unfold State.effClose
  repeat' first
    | with_reducible assumption
    | with_reducible first
        | apply kept_setConv
    | ((try lift_lets -underBinder); intro x; clear_value (hx : x = _); first
        | refine Kept.cut (s := s0) hx ?_ (fun kx => ?_)
        | refine Kept.cut2 (s := s0) hx ?_ (fun kx => ?_)
        | (have : Mgmt := x; subst hx)
        | clear hx)
    | split
    | (with_reducible first | apply Kept.upd | apply Kept.updM | apply Kept.updT | apply Kept.updTM) <;> with_reducible first | assumption | apply kept_setConv

theorem kept_effLast {s0 : State} (s : State) (c : Nat) (t : Nat) (hk : Kept s0 s)  : Kept s0 (State.effLast s c t) := by
  unfold State.effLast
  repeat' first
    | with_reducible assumption
    | with_reducible first
        | apply kept_setConv
    | ((try lift_lets -underBinder); intro x; clear_value (hx : x = _); first
        | refine Kept.cut (s := s0) hx ?_ (fun kx => ?_)
        | refine Kept.cut2 (s := s0) hx ?_ (fun kx => ?_)
        | (have : Mgmt := x; subst hx)
        | clear hx)
    | split
    | (with_reducible first | apply Kept.upd | apply Kept.updM | apply Kept.updT | apply Kept.updTM) <;> with_reducible first | assumption | apply kept_setConv

theorem kept_convEffects {s0 : State} (s : State) (c : Nat) (d : Desc) (st : WinStep) (r : Reply) (hk : Kept s0 s)  : Kept s0 (State.convEffects s c d st r) := by
  unfold State.convEffects
  repeat' first
    | with_reducible assumption
    | with_reducible first
        | apply kept_effLast
        | apply kept_effAck
        | apply kept_closeIfPast
        | apply kept_effClose
        | apply kept_setConv
        | apply kept_effDone
        | apply kept_effSlide
    | ((try lift_lets -underBinder); intro x; clear_value (hx : x = _); first
        | refine Kept.cut (s := s0) hx ?_ (fun kx => ?_)
        | refine Kept.cut2 (s := s0) hx ?_ (fun kx => ?_)
        | (have : Mgmt := x; subst hx)
        | clear hx)
    | split
    | (with_reducible first | apply Kept.upd | apply Kept.updM | apply Kept.updT | apply Kept.updTM) <;> with_reducible first | assumption | apply kept_effLast | apply kept_effAck | apply kept_closeIfPast | apply kept_effClose | apply kept_setConv | apply kept_effDone | apply kept_effSlide

theorem kept_ctxEffects {s0 : State} (s : State) (m : Msg) (hk : Kept s0 s)  : Kept s0 (State.ctxEffects s m) := by
  unfold State.ctxEffects
  repeat' first
    | with_reducible assumption
    | with_reducible first
        | apply kept_closeCtx
        | apply kept_posGood
    | ((try lift_lets -underBinder); intro x; clear_value (hx : x = _); first
        | refine Kept.cut (s := s0) hx ?_ (fun kx => ?_)
        | refine Kept.cut2 (s := s0) hx ?_ (fun kx => ?_)
        | (have : Mgmt := x; subst hx)
        | clear hx)
    | split
    | (with_reducible first | apply Kept.upd | apply Kept.updM | apply Kept.updT | apply Kept.updTM) <;> with_reducible first | assumption | apply kept_closeCtx | apply kept_posGood

theorem kept_effectsApply {s0 : State} (s : State) (n : Nat) (hk : Kept s0 s)  : Kept s0 (State.effectsApply s n) := by
  unfold State.effectsApply
  repeat' first
    | with_reducible assumption
    | with_reducible first
        | apply kept_convEffects
        | apply kept_twinFreed
        | apply kept_gc
        | apply kept_endMsg
        | apply kept_ctxEffects
    | ((try lift_lets -underBinder); intro x; clear_value (hx : x = _); first
        | refine Kept.cut (s := s0) hx ?_ (fun kx => ?_)
        | refine Kept.cut2 (s := s0) hx ?_ (fun kx => ?_)
        | (have : Mgmt := x; subst hx)
        | clear hx)
    | split
    | (with_reducible first | apply Kept.upd | apply Kept.updM | apply Kept.updT | apply Kept.updTM) <;> with_reducible first | assumption | apply kept_convEffects | apply kept_twinFreed | apply kept_gc | apply kept_endMsg | apply kept_ctxEffects

theorem kept_gapExpire {s0 : State} (s : State) (n : Nat) (hk : Kept s0 s)  : Kept s0 (State.gapExpire s n) := by
  unfold State.gapExpire
  repeat' first
    | with_reducible assumption
    | with_reducible first
        | apply kept_failMsg
        | apply kept_settle
        | apply kept_answerW
        | apply kept_count
    | ((try lift_lets -underBinder); intro x; clear_value (hx : x = _); first
        | refine Kept.cut (s := s0) hx ?_ (fun kx => ?_)
        | refine Kept.cut2 (s := s0) hx ?_ (fun kx => ?_)
        | (have : Mgmt := x; subst hx)
        | clear hx)
    | split
    | (with_reducible first | apply Kept.upd | apply Kept.updM | apply Kept.updT | apply Kept.updTM) <;> with_reducible first | assumption | apply kept_failMsg | apply kept_settle | apply kept_answerW | apply kept_count

theorem kept_seqWaitTimeout {s0 : State} (s : State) (n : Nat) (hk : Kept s0 s)  : Kept s0 (State.seqWaitTimeout s n) := by
  unfold State.seqWaitTimeout
  repeat' first
    | with_reducible assumption
    | with_reducible first
        | apply kept_answerMsg
        | apply kept_settle
        | apply kept_count
    | ((try lift_lets -underBinder); intro x; clear_value (hx : x = _); first
        | refine Kept.cut (s := s0) hx ?_ (fun kx => ?_)
        | refine Kept.cut2 (s := s0) hx ?_ (fun kx => ?_)
        | (have : Mgmt := x; subst hx)
        | clear hx)
    | split
    | (with_reducible first | apply Kept.upd | apply Kept.updM | apply Kept.updT | apply Kept.updTM) <;> with_reducible first | assumption | apply kept_answerMsg | apply kept_settle | apply kept_count

end Sys2Proof.Machine
end

