-- ==== Sys2Proof/Laws/KeptAdmit.lean ====
section
/-! SUPPORT. What the operations of Admit.lean keep (Laws/Kept.lean). -/
namespace Sys2Proof.Machine
set_option linter.all false

theorem kept_boomRefuse {s0 : State} (s : State) (boom : Bool) (hk : Kept s0 s)  : Kept s0 (State.boomRefuse s boom) := by
  unfold State.boomRefuse
  repeat' first
    | with_reducible assumption
    | with_reducible first
        | apply kept_count
    | ((try lift_lets -underBinder); intro x; clear_value (hx : x = _); first
        | refine Kept.cut (s := s0) hx ?_ (fun kx => ?_)
        | refine Kept.cut2 (s := s0) hx ?_ (fun kx => ?_)
        | (have : Mgmt := x; subst hx)
        | clear hx)
    | split
    | (with_reducible first | apply Kept.upd | apply Kept.updM | apply Kept.updT | apply Kept.updTM) <;> with_reducible first | assumption | apply kept_count

theorem kept_boomPast {s0 : State} (s : State) (boom : Bool) (hk : Kept s0 s)  : Kept s0 (State.boomPast s boom) := by
  unfold State.boomPast
  repeat' first
    | with_reducible assumption
    | with_reducible first
        | apply kept_count
    | ((try lift_lets -underBinder); intro x; clear_value (hx : x = _); first
        | refine Kept.cut (s := s0) hx ?_ (fun kx => ?_)
        | refine Kept.cut2 (s := s0) hx ?_ (fun kx => ?_)
        | (have : Mgmt := x; subst hx)
        | clear hx)
    | split
    | (with_reducible first | apply Kept.upd | apply Kept.updM | apply Kept.updT | apply Kept.updTM) <;> with_reducible first | assumption | apply kept_count

theorem kept_pairPeak {s0 : State} (s : State) (d : Dig) (hk : Kept s0 s)  : Kept s0 (State.pairPeak s d) := by
  unfold State.pairPeak
  repeat' first
    | with_reducible assumption
    | with_reducible first
        | apply kept_peak
    | ((try lift_lets -underBinder); intro x; clear_value (hx : x = _); first
        | refine Kept.cut (s := s0) hx ?_ (fun kx => ?_)
        | refine Kept.cut2 (s := s0) hx ?_ (fun kx => ?_)
        | (have : Mgmt := x; subst hx)
        | clear hx)
    | split
    | (with_reducible first | apply Kept.upd | apply Kept.updM | apply Kept.updT | apply Kept.updTM) <;> with_reducible first | assumption | apply kept_peak

theorem kept_addBlocks {s0 : State} (s : State) (k : Nat) (dlen : Nat) (d : Dig) (hk : Kept s0 s)  : Kept s0 (State.addBlocks s k dlen d) := by
  unfold State.addBlocks
  repeat' first
    | with_reducible assumption
    | ((try lift_lets -underBinder); intro x; clear_value (hx : x = _); first
        | refine Kept.cut (s := s0) hx ?_ (fun kx => ?_)
        | refine Kept.cut2 (s := s0) hx ?_ (fun kx => ?_)
        | (have : Mgmt := x; subst hx)
        | clear hx)
    | split
    | (with_reducible first | apply Kept.upd | apply Kept.updM | apply Kept.updT | apply Kept.updTM) <;> with_reducible first | assumption

theorem kept_openConv {s0 : State} (s : State) (c : Nat) (inc : Nat) (ow : Owner) (hk : Kept s0 s)  : Kept s0 (State.openConv s c inc ow) := by
  unfold State.openConv
  repeat' first
    | with_reducible assumption
    | with_reducible first
        | apply kept_setConv
        | apply kept_count
    | ((try lift_lets -underBinder); intro x; clear_value (hx : x = _); first
        | refine Kept.cut (s := s0) hx ?_ (fun kx => ?_)
        | refine Kept.cut2 (s := s0) hx ?_ (fun kx => ?_)
        | (have : Mgmt := x; subst hx)
        | clear hx)
    | split
    | (with_reducible first | apply Kept.upd | apply Kept.updM | apply Kept.updT | apply Kept.updTM) <;> with_reducible first | assumption | apply kept_setConv | apply kept_count

theorem kept_replay {s0 : State} (s : State) (org : Origin) (fr : Nat) (hk : Kept s0 s)  : Kept s0 (State.replay s org fr) := by
  unfold State.replay
  repeat' first
    | with_reducible assumption
    | with_reducible first
        | apply kept_answer
        | apply kept_twinSend
        | apply kept_setReply
        | apply kept_count
    | ((try lift_lets -underBinder); intro x; clear_value (hx : x = _); first
        | refine Kept.cut (s := s0) hx ?_ (fun kx => ?_)
        | refine Kept.cut2 (s := s0) hx ?_ (fun kx => ?_)
        | (have : Mgmt := x; subst hx)
        | clear hx)
    | split
    | (with_reducible first | apply Kept.upd | apply Kept.updM | apply Kept.updT | apply Kept.updTM) <;> with_reducible first | assumption | apply kept_answer | apply kept_twinSend | apply kept_setReply | apply kept_count

theorem kept_putCtxState {s0 : State} (s : State) (v : Version) (cp : ACopy) (cslot : Nat) (data : List (List Byte)) (hk : Kept s0 s)  : Kept s0 (State.putCtxState s v cp cslot data) := by
  unfold State.putCtxState
  repeat' first
    | with_reducible assumption
    | with_reducible first
        | apply kept_healSpans
        | apply kept_setDie
        | apply dieKept_die
        | apply dieKept_putByte
        | apply dieKept_heal
        | apply dieKept_writeSpans
        | apply memKept_clearSpans
        | apply memKept_writeSpans
        | apply dieKept_upd
        | apply memKept_writeN
        | apply memKept_write
        | apply memKept_clear
        | apply memKept_sramMove
        | apply memKept_dram
        | apply memKept_sram
        | exact memKept_nil
    | ((try lift_lets -underBinder); intro x; clear_value (hx : x = _); first
        | refine Kept.cut (s := s0) hx ?_ (fun kx => ?_)
        | refine Kept.cut2 (s := s0) hx ?_ (fun kx => ?_)
        | (have : Mgmt := x; subst hx)
        | clear hx)
    | with_reducible refine kept_foldl _ _ _ ?_ (fun t a kt => ?_)
    | intro _
    | split
    | (with_reducible first | apply Kept.upd | apply Kept.updM | apply Kept.updT | apply Kept.updTM) <;> with_reducible first | assumption | apply kept_healSpans | apply kept_setDie | apply dieKept_die | apply dieKept_putByte | apply dieKept_heal | apply dieKept_writeSpans | apply memKept_clearSpans | apply memKept_writeSpans | apply dieKept_upd | apply memKept_writeN | apply memKept_write | apply memKept_clear | apply memKept_sramMove | apply memKept_dram | apply memKept_sram | exact memKept_nil

theorem kept_openCtx {s0 : State} (s : State) (h : Nat) (v : Version) (c : Nat) (cp : ACopy) (conv : Option Nat) (gen : Option GenSt) (hk : Kept s0 s)  : Kept s0 (State.openCtx s h v c cp conv gen).2 := by
  unfold State.openCtx
  repeat' first
    | with_reducible assumption
    | with_reducible first
        | apply kept_putCtxState
    | ((try lift_lets -underBinder); intro x; clear_value (hx : x = _); first
        | refine Kept.cut (s := s0) hx ?_ (fun kx => ?_)
        | refine Kept.cut2 (s := s0) hx ?_ (fun kx => ?_)
        | (have : Mgmt := x; subst hx)
        | clear hx)
    | split
    | (with_reducible first | apply Kept.upd | apply Kept.updM | apply Kept.updT | apply Kept.updTM) <;> with_reducible first | assumption | apply kept_putCtxState

theorem kept_answerRolled {s0 : State} (s : State) (n : Nat) (k : Nat) (x : Ctx) (hk : Kept s0 s)  : Kept s0 (State.answerRolled s n k x) := by
  unfold State.answerRolled
  repeat' first
    | with_reducible assumption
    | with_reducible first
        | apply kept_failMsg
        | apply kept_voidReply
        | apply kept_addReply
        | apply kept_count
    | ((try lift_lets -underBinder); intro x; clear_value (hx : x = _); first
        | refine Kept.cut (s := s0) hx ?_ (fun kx => ?_)
        | refine Kept.cut2 (s := s0) hx ?_ (fun kx => ?_)
        | (have : Mgmt := x; subst hx)
        | clear hx)
    | split
    | (with_reducible first | apply Kept.upd | apply Kept.updM | apply Kept.updT | apply Kept.updTM) <;> with_reducible first | assumption | apply kept_failMsg | apply kept_voidReply | apply kept_addReply | apply kept_count

theorem kept_seqDispatch {s0 : State} (s : State) (n : Nat) (m : Msg) (v : Version) (hk : Kept s0 s)  : Kept s0 (State.seqDispatch s n m v) := by
  unfold State.seqDispatch
  repeat' first
    | with_reducible assumption
    | with_reducible first
        | apply kept_answerRolled
        | apply kept_answerMsg
        | apply kept_setMsg
        | apply kept_openCtx
        | apply kept_setConv
        | apply kept_busyMsg
    | split
    | ((try lift_lets -underBinder); intro x; clear_value (hx : x = _); first
        | refine Kept.cut (s := s0) hx ?_ (fun kx => ?_)
        | refine Kept.cut2 (s := s0) hx ?_ (fun kx => ?_)
        | refine Kept.cut3 (s := s0) hx ?_ (fun kx => ?_)
        | refine Kept.cut1 (s := s0) hx ?_ (fun kx => ?_)
        | refine DieKept.cut (s := s0) hx ?_ (fun kx => ?_)
        | (have : Mgmt := x; subst hx)
        | (have : TimeSt := x; subst hx)
        | clear hx)
    | with_reducible refine kept_foldl _ _ _ ?_ (fun t a kt => ?_)
    | with_reducible refine kept_foldl2 _ _ _ ?_ (fun t a kt => ?_)
    | intro _
    | (with_reducible first | apply Kept.upd | apply Kept.updM | apply Kept.updT | apply Kept.updTM) <;> with_reducible first | assumption | apply kept_answerRolled | apply kept_answerMsg | apply kept_setMsg | apply kept_openCtx | apply kept_setConv | apply kept_busyMsg

theorem kept_joinFrame {s0 : State} (s : State) (org : Origin) (fr : Nat) (f : Frame) (hk : Kept s0 s)  : Kept s0 (State.joinFrame s org fr f) := by
  unfold State.joinFrame
  repeat' first
    | with_reducible assumption
    | with_reducible first
        | apply kept_answer
        | apply kept_regap
        | apply kept_count
    | ((try lift_lets -underBinder); intro x; clear_value (hx : x = _); first
        | refine Kept.cut (s := s0) hx ?_ (fun kx => ?_)
        | refine Kept.cut2 (s := s0) hx ?_ (fun kx => ?_)
        | (have : Mgmt := x; subst hx)
        | clear hx)
    | split
    | (with_reducible first | apply Kept.upd | apply Kept.updM | apply Kept.updT | apply Kept.updTM) <;> with_reducible first | assumption | apply kept_answer | apply kept_regap | apply kept_count

theorem kept_unopen {s0 : State} (s : State) (org : Origin) (step : Option (Option Nat × Bool)) (hk : Kept s0 s)  : Kept s0 (State.unopen s org step) := by
  unfold State.unopen
  repeat' first
    | with_reducible assumption
    | with_reducible first
        | apply kept_undoOpening
    | ((try lift_lets -underBinder); intro x; clear_value (hx : x = _); first
        | refine Kept.cut (s := s0) hx ?_ (fun kx => ?_)
        | refine Kept.cut2 (s := s0) hx ?_ (fun kx => ?_)
        | (have : Mgmt := x; subst hx)
        | clear hx)
    | split
    | (with_reducible first | apply Kept.upd | apply Kept.updM | apply Kept.updT | apply Kept.updTM) <;> with_reducible first | assumption | apply kept_undoOpening

theorem kept_takeSlot {s0 : State} (s : State) (org : Origin) (fr : Nat) (f : Frame) (hd : Head) (boom : Bool) (v : Option Version) (dig : Dig) (step : Option (Option Nat × Bool)) (units : Nat) (hk : Kept s0 s)  : Kept s0 (State.takeSlot s org fr f hd boom v dig step units) := by
  unfold State.takeSlot
  repeat' first
    | with_reducible assumption
    | with_reducible first
        | apply kept_addBlocks
        | apply kept_boomRefuse
        | apply kept_answerBusy
        | apply kept_regap
        | apply kept_seqDispatch
        | apply kept_unopen
        | apply kept_count
    | ((try lift_lets -underBinder); intro x; clear_value (hx : x = _); first
        | refine Kept.cut (s := s0) hx ?_ (fun kx => ?_)
        | refine Kept.cut2 (s := s0) hx ?_ (fun kx => ?_)
        | (have : Mgmt := x; subst hx)
        | clear hx)
    | split
    | (with_reducible first | apply Kept.upd | apply Kept.updM | apply Kept.updT | apply Kept.updTM) <;> with_reducible first | assumption | apply kept_addBlocks | apply kept_boomRefuse | apply kept_answerBusy | apply kept_regap | apply kept_seqDispatch | apply kept_unopen | apply kept_count

theorem kept_afterStep {s0 : State} (s : State) (org : Origin) (fr : Nat) (f : Frame) (hd : Head) (boom : Bool) (v : Option Version) (dig : Dig) (resMax : Nat) (c : Nat) (w : WinRes) (hk : Kept s0 s)  : Kept s0 (State.afterStep s org fr f hd boom v dig resMax c w) := by
  unfold State.afterStep
  repeat' first
    | with_reducible assumption
    | with_reducible first
        | apply kept_answer
        | apply kept_replay
        | apply kept_boomRefuse
        | apply kept_takeSlot
        | apply kept_answerBusy
        | apply kept_boomPast
        | apply kept_openConv
        | apply kept_unopen
        | apply kept_count
    | ((try lift_lets -underBinder); intro x; clear_value (hx : x = _); first
        | refine Kept.cut (s := s0) hx ?_ (fun kx => ?_)
        | refine Kept.cut2 (s := s0) hx ?_ (fun kx => ?_)
        | (have : Mgmt := x; subst hx)
        | clear hx)
    | split
    | (with_reducible first | apply Kept.upd | apply Kept.updM | apply Kept.updT | apply Kept.updTM) <;> with_reducible first | assumption | apply kept_answer | apply kept_replay | apply kept_boomRefuse | apply kept_takeSlot | apply kept_answerBusy | apply kept_boomPast | apply kept_openConv | apply kept_unopen | apply kept_count

theorem kept_giveUp {s0 : State} (s : State) (c : Nat) (hk : Kept s0 s)  : Kept s0 (State.giveUp s c) := by
  unfold State.giveUp
  repeat' first
    | with_reducible assumption
    | with_reducible first
        | apply kept_answerMsg
        | apply kept_count
    | ((try lift_lets -underBinder); intro x; clear_value (hx : x = _); first
        | refine Kept.cut (s := s0) hx ?_ (fun kx => ?_)
        | refine Kept.cut2 (s := s0) hx ?_ (fun kx => ?_)
        | (have : Mgmt := x; subst hx)
        | clear hx)
    | with_reducible refine kept_foldl _ _ _ ?_ (fun t a kt => ?_)
    | intro _
    | split
    | (with_reducible first | apply Kept.upd | apply Kept.updM | apply Kept.updT | apply Kept.updTM) <;> with_reducible first | assumption | apply kept_answerMsg | apply kept_count

theorem kept_admitFirst {s0 : State} (s : State) (org : Origin) (fr : Nat) (f : Frame) (hd : Head) (boom : Bool) (v : Option Version) (hk : Kept s0 s)  : Kept s0 (State.admitFirst s org fr f hd boom v) := by
  unfold State.admitFirst
  repeat' first
    | with_reducible assumption
    | with_reducible first
        | apply kept_afterStep
        | apply kept_answer
        | apply kept_lingerClose
        | apply kept_boomRefuse
        | apply kept_giveUp
        | apply kept_takeSlot
        | apply kept_idleClose
        | apply kept_pairPeak
    | ((try lift_lets -underBinder); intro x; clear_value (hx : x = _); first
        | refine Kept.cut (s := s0) hx ?_ (fun kx => ?_)
        | refine Kept.cut2 (s := s0) hx ?_ (fun kx => ?_)
        | (have : Mgmt := x; subst hx)
        | clear hx)
    | split
    | (with_reducible first | apply Kept.upd | apply Kept.updM | apply Kept.updT | apply Kept.updTM) <;> with_reducible first | assumption | apply kept_afterStep | apply kept_answer | apply kept_lingerClose | apply kept_boomRefuse | apply kept_giveUp | apply kept_takeSlot | apply kept_idleClose | apply kept_pairPeak

theorem kept_rerunKeep {s0 : State} (s : State) (org : Origin) (hd : Head) (n : Nat) (m : Msg) (hk : Kept s0 s)  : Kept s0 (State.rerunKeep s org hd n m) := by
  unfold State.rerunKeep
  repeat' first
    | with_reducible assumption
    | with_reducible first
        | apply kept_addBlocks
        | apply kept_setMsg
        | apply kept_seqDispatch
    | ((try lift_lets -underBinder); intro x; clear_value (hx : x = _); first
        | refine Kept.cut (s := s0) hx ?_ (fun kx => ?_)
        | refine Kept.cut2 (s := s0) hx ?_ (fun kx => ?_)
        | (have : Mgmt := x; subst hx)
        | clear hx)
    | split
    | (with_reducible first | apply Kept.upd | apply Kept.updM | apply Kept.updT | apply Kept.updTM) <;> with_reducible first | assumption | apply kept_addBlocks | apply kept_setMsg | apply kept_seqDispatch

theorem kept_dispatchFirst {s0 : State} (s : State) (org : Origin) (fr : Nat) (f : Frame) (hd : Head) (boom : Bool) (hk : Kept s0 s)  : Kept s0 (State.dispatchFirst s org fr f hd boom) := by
  unfold State.dispatchFirst
  repeat' first
    | with_reducible assumption
    | with_reducible first
        | apply kept_answer
        | apply kept_admitFirst
        | apply kept_count
    | ((try lift_lets -underBinder); intro x; clear_value (hx : x = _); first
        | refine Kept.cut (s := s0) hx ?_ (fun kx => ?_)
        | refine Kept.cut2 (s := s0) hx ?_ (fun kx => ?_)
        | (have : Mgmt := x; subst hx)
        | clear hx)
    | split
    | (with_reducible first | apply Kept.upd | apply Kept.updM | apply Kept.updT | apply Kept.updTM) <;> with_reducible first | assumption | apply kept_answer | apply kept_admitFirst | apply kept_count

theorem kept_leaving {s0 : State} (s : State) (n : Nat) {t a} (hk : Kept s0 s) (e : State.leaving s n = some (t, a)) : Kept s0 t := by
  unfold State.leaving at e
  dsimp only at e
  repeat' first | (cases e; done) | split at e
  all_goals cases e
  all_goals repeat' first
    | with_reducible assumption
    | with_reducible first
        | apply kept_setMsg
    | ((try lift_lets -underBinder); intro x; clear_value (hx : x = _); first
        | refine Kept.cut (s := s0) hx ?_ (fun kx => ?_)
        | refine Kept.cut2 (s := s0) hx ?_ (fun kx => ?_)
        | refine Kept.cut3 (s := s0) hx ?_ (fun kx => ?_)
        | refine Kept.cut1 (s := s0) hx ?_ (fun kx => ?_)
        | refine DieKept.cut (s := s0) hx ?_ (fun kx => ?_)
        | (have : Mgmt := x; subst hx)
        | (have : TimeSt := x; subst hx)
        | clear hx)
    | with_reducible refine kept_foldl _ _ _ ?_ (fun t a kt => ?_)
    | with_reducible refine kept_foldl2 _ _ _ ?_ (fun t a kt => ?_)
    | intro _
    | split
    | (with_reducible first | apply Kept.upd | apply Kept.updM | apply Kept.updT | apply Kept.updTM) <;> with_reducible first | assumption | apply kept_setMsg

theorem kept_dispatch {s0 : State} (s : State) (n : Nat) (hk : Kept s0 s)  : Kept s0 (State.dispatch s n) := by
  unfold State.dispatch
  repeat' first
    | with_reducible assumption
    | with_reducible first
        | apply kept_failMsg
        | apply kept_answer
        | apply kept_gc
        | apply kept_endHead
        | apply kept_settle
        | apply kept_dispatchFirst
        | apply kept_joinFrame
        | apply kept_rerunKeep
        | apply kept_bindFrame
        | apply kept_count
    | ((try lift_lets -underBinder); intro x; clear_value (hx : x = _); first
        | refine Kept.cut (s := s0) hx ?_ (fun kx => ?_)
        | refine Kept.cut2 (s := s0) hx ?_ (fun kx => ?_)
        | (have : Mgmt := x; subst hx)
        | clear hx)
    | split
    | (with_reducible first | apply Kept.upd | apply Kept.updM | apply Kept.updT | apply Kept.updTM) <;> with_reducible first | assumption | apply kept_failMsg | apply kept_answer | apply kept_gc | apply kept_endHead | apply kept_settle | apply kept_dispatchFirst | apply kept_joinFrame | apply kept_rerunKeep | apply kept_bindFrame | apply kept_count

theorem kept_lateDispatch {s0 : State} (s : State) (hk : Kept s0 s)  : Kept s0 (State.lateDispatch s) := by
  unfold State.lateDispatch
  repeat' first
    | with_reducible assumption
    | with_reducible first
        | apply kept_dispatch
    | ((try lift_lets -underBinder); intro x; clear_value (hx : x = _); first
        | refine Kept.cut (s := s0) hx ?_ (fun kx => ?_)
        | refine Kept.cut2 (s := s0) hx ?_ (fun kx => ?_)
        | (have : Mgmt := x; subst hx)
        | clear hx)
    | with_reducible refine kept_foldl _ _ _ ?_ (fun t a kt => ?_)
    | intro _
    | split
    | (with_reducible first | apply Kept.upd | apply Kept.updM | apply Kept.updT | apply Kept.updTM) <;> with_reducible first | assumption | apply kept_dispatch

end Sys2Proof.Machine
end

