-- ==== Sys2Proof/Laws/KeptForestRun.lean ====
section
/-! SUPPORT. What the operations of ForestRun.lean keep (Laws/Kept.lean). -/
namespace Sys2Proof.Machine
set_option linter.all false

theorem kept_enqueue {s0 : State} (s : State) (n : Nat) (m : Msg) (v : Version) (hk : Kept s0 s)  : Kept s0 (State.enqueue s n m v) := by
  unfold State.enqueue
  repeat' first
    | with_reducible assumption
    | with_reducible first
        | apply kept_setMsg
        | apply kept_setHandle
        | apply kept_busyMsg
    | ((try lift_lets -underBinder); intro x; clear_value (hx : x = _); first
        | refine Kept.cut (s := s0) hx ?_ (fun kx => ?_)
        | refine Kept.cut2 (s := s0) hx ?_ (fun kx => ?_)
        | (have : Mgmt := x; subst hx)
        | clear hx)
    | split
    | (with_reducible first | apply Kept.upd | apply Kept.updM | apply Kept.updT | apply Kept.updTM) <;> with_reducible first | assumption | apply kept_setMsg | apply kept_setHandle | apply kept_busyMsg

theorem kept_admitSample {s0 : State} (s : State) (n : Nat) (m : Msg) (v : Version) (copy : Option Nat) (hk : Kept s0 s)  : Kept s0 (State.admitSample s n m v copy) := by
  unfold State.admitSample
  repeat' first
    | with_reducible assumption
    | with_reducible first
        | apply kept_modVer
        | apply kept_setMsg
        | apply kept_setHandle
        | apply kept_rewriteLanes
    | ((try lift_lets -underBinder); intro x; clear_value (hx : x = _); first
        | refine Kept.cut (s := s0) hx ?_ (fun kx => ?_)
        | refine Kept.cut2 (s := s0) hx ?_ (fun kx => ?_)
        | (have : Mgmt := x; subst hx)
        | clear hx)
    | split
    | (with_reducible first | apply Kept.upd | apply Kept.updM | apply Kept.updT | apply Kept.updTM) <;> with_reducible first | assumption | apply kept_modVer | apply kept_setMsg | apply kept_setHandle | apply kept_rewriteLanes

theorem kept_sampleAdmit {s0 : State} (s : State) (n : Nat) (hk : Kept s0 s)  : Kept s0 (State.sampleAdmit s n) := by
  unfold State.sampleAdmit
  repeat' first
    | with_reducible assumption
    | with_reducible first
        | apply kept_enqueue
        | apply kept_answerMsg
        | refine kept_leaving (hk := ?_) (e := by assumption) <;> assumption
        | apply kept_settle
        | apply kept_admitSample
        | apply kept_count
        | apply kept_busyMsg
    | ((try lift_lets -underBinder); intro x; clear_value (hx : x = _); first
        | refine Kept.cut (s := s0) hx ?_ (fun kx => ?_)
        | refine Kept.cut2 (s := s0) hx ?_ (fun kx => ?_)
        | (have : Mgmt := x; subst hx)
        | clear hx)
    | split
    | (with_reducible first | apply Kept.upd | apply Kept.updM | apply Kept.updT | apply Kept.updTM) <;> with_reducible first | assumption | apply kept_enqueue | apply kept_answerMsg | refine kept_leaving (hk := ?_) (e := by assumption) <;> assumption | apply kept_settle | apply kept_admitSample | apply kept_count | apply kept_busyMsg

theorem kept_combineComplete {s0 : State} (s : State) (n : Nat) (hk : Kept s0 s)  : Kept s0 (State.combineComplete s n) := by
  unfold State.combineComplete
  repeat' first
    | with_reducible assumption
    | with_reducible first
        | apply kept_decideResult
    | ((try lift_lets -underBinder); intro x; clear_value (hx : x = _); first
        | refine Kept.cut (s := s0) hx ?_ (fun kx => ?_)
        | refine Kept.cut2 (s := s0) hx ?_ (fun kx => ?_)
        | (have : Mgmt := x; subst hx)
        | clear hx)
    | split
    | (with_reducible first | apply Kept.upd | apply Kept.updM | apply Kept.updT | apply Kept.updTM) <;> with_reducible first | assumption | apply kept_decideResult

theorem kept_shadowRotate {s0 : State} (s : State) (d : Nat) (e : Nat) (sp : Nat) (hk : Kept s0 s)  : Kept s0 (State.shadowRotate s d e sp) := by
  unfold State.shadowRotate
  repeat' first
    | with_reducible assumption
    | with_reducible first
        | apply kept_rewriteStore
        | apply kept_rewriteLane
    | ((try lift_lets -underBinder); intro x; clear_value (hx : x = _); first
        | refine Kept.cut (s := s0) hx ?_ (fun kx => ?_)
        | refine Kept.cut2 (s := s0) hx ?_ (fun kx => ?_)
        | (have : Mgmt := x; subst hx)
        | clear hx)
    | split
    | (with_reducible first | apply Kept.upd | apply Kept.updM | apply Kept.updT | apply Kept.updTM) <;> with_reducible first | assumption | apply kept_rewriteStore | apply kept_rewriteLane

theorem kept_onPart {s0 : State} (s : State) (h : Nat) (p : Version → BatchPart → Bool) (f : Version → BatchPart → BatchPart) (hk : Kept s0 s)  : Kept s0 (State.onPart s h p f) := by
  unfold State.onPart
  repeat' first
    | with_reducible assumption
    | with_reducible first
        | apply kept_modVer
    | ((try lift_lets -underBinder); intro x; clear_value (hx : x = _); first
        | refine Kept.cut (s := s0) hx ?_ (fun kx => ?_)
        | refine Kept.cut2 (s := s0) hx ?_ (fun kx => ?_)
        | (have : Mgmt := x; subst hx)
        | clear hx)
    | split
    | (with_reducible first | apply Kept.upd | apply Kept.updM | apply Kept.updT | apply Kept.updTM) <;> with_reducible first | assumption | apply kept_modVer

theorem kept_rewriteParts {s0 : State} (s : State) (h : Nat) (p : Version → BatchPart → Bool) (hk : Kept s0 s)  : Kept s0 (State.rewriteParts s h p) := by
  unfold State.rewriteParts
  repeat' first
    | with_reducible assumption
    | with_reducible first
        | apply kept_rewriteStore
        | apply kept_rewriteLanes
    | ((try lift_lets -underBinder); intro x; clear_value (hx : x = _); first
        | refine Kept.cut (s := s0) hx ?_ (fun kx => ?_)
        | refine Kept.cut2 (s := s0) hx ?_ (fun kx => ?_)
        | (have : Mgmt := x; subst hx)
        | clear hx)
    | with_reducible refine kept_foldl _ _ _ ?_ (fun t a kt => ?_)
    | intro _
    | split
    | (with_reducible first | apply Kept.upd | apply Kept.updM | apply Kept.updT | apply Kept.updTM) <;> with_reducible first | assumption | apply kept_rewriteStore | apply kept_rewriteLanes

theorem kept_passDone {s0 : State} (s : State) (v : Version) (p : BatchPart) (d : Nat) (hk : Kept s0 s)  : Kept s0 (State.passDone s v p d) := by
  unfold State.passDone
  repeat' first
    | with_reducible assumption
    | with_reducible first
        | apply kept_setRw
        | apply kept_count
    | ((try lift_lets -underBinder); intro x; clear_value (hx : x = _); first
        | refine Kept.cut (s := s0) hx ?_ (fun kx => ?_)
        | refine Kept.cut2 (s := s0) hx ?_ (fun kx => ?_)
        | (have : Mgmt := x; subst hx)
        | clear hx)
    | split
    | (with_reducible first | apply Kept.upd | apply Kept.updM | apply Kept.updT | apply Kept.updTM) <;> with_reducible first | assumption | apply kept_setRw | apply kept_count

theorem kept_batchDone {s0 : State} (s : State) (h : Nat) (ue : Bool) (hk : Kept s0 s)  : Kept s0 (State.batchDone s h ue) := by
  unfold State.batchDone
  repeat' first
    | with_reducible assumption
    | with_reducible first
        | apply kept_passDone
        | apply kept_modVer
        | apply kept_unitFail
        | apply kept_poolUe
        | apply kept_settle
        | apply kept_drawNat
    | ((try lift_lets -underBinder); intro x; clear_value (hx : x = _); first
        | refine Kept.cut (s := s0) hx ?_ (fun kx => ?_)
        | refine Kept.cut2 (s := s0) hx ?_ (fun kx => ?_)
        | (have : Mgmt := x; subst hx)
        | clear hx)
    | with_reducible refine kept_foldl _ _ _ ?_ (fun t a kt => ?_)
    | intro _
    | split
    | (with_reducible first | apply Kept.upd | apply Kept.updM | apply Kept.updT | apply Kept.updTM) <;> with_reducible first | assumption | apply kept_passDone | apply kept_modVer | apply kept_unitFail | apply kept_poolUe | apply kept_settle | apply kept_drawNat

end Sys2Proof.Machine
end

