-- ==== Sys2Proof/Laws/KeptMbox.lean ====
section
/-! SUPPORT. What the operations of Mbox.lean keep (Laws/Kept.lean). -/
namespace Sys2Proof.Machine
set_option linter.all false

theorem kept_takeCmd {s0 : State} (s : State) (i : Nat) (code : Nat) {a t} (hk : Kept s0 s) (e : State.takeCmd s i code = some (a, t)) : Kept s0 t := by
  unfold State.takeCmd at e
  split at e
  · cases e
  · dsimp only at e
    split at e
    · cases e
      refine ⟨hk.pending, hk.raw, hk.out, hk.mem, fun m => ?_, hk.boot⟩
      have hm := hk.mbox m
      simp only [State.mboxOk, decide_eq_true_eq] at hm ⊢
      exact Nat.le_trans (length_dropNth _ _) hm
    · cases e

theorem kept_modelFinish {s0 : State} (s : State) (cmd : Nat) (origin : Nat) (record : Nat) (r : Rec) (hk : Kept s0 s)  : Kept s0 (State.modelFinish s cmd origin record r) := by
  unfold State.modelFinish
  repeat' first
    | with_reducible assumption
    | with_reducible first
        | apply kept_recordWrite
        | apply kept_journal
        | apply kept_modelDone
    | ((try lift_lets -underBinder); intro x; clear_value (hx : x = _); first
        | refine Kept.cut (s := s0) hx ?_ (fun kx => ?_)
        | refine Kept.cut2 (s := s0) hx ?_ (fun kx => ?_)
        | (have : Mgmt := x; subst hx)
        | clear hx)
    | split
    | (with_reducible first | apply Kept.upd | apply Kept.updM | apply Kept.updT | apply Kept.updTM) <;> with_reducible first | assumption | apply kept_recordWrite | apply kept_journal | apply kept_modelDone

theorem kept_freeVersion {s0 : State} (s : State) (v : Version) (hk : Kept s0 s)  : Kept s0 (State.freeVersion s v) := by
  unfold State.freeVersion
  repeat' first
    | with_reducible assumption
    | with_reducible first
        | apply kept_unloadCopy
    | ((try lift_lets -underBinder); intro x; clear_value (hx : x = _); first
        | refine Kept.cut (s := s0) hx ?_ (fun kx => ?_)
        | refine Kept.cut2 (s := s0) hx ?_ (fun kx => ?_)
        | (have : Mgmt := x; subst hx)
        | clear hx)
    | with_reducible refine kept_foldl _ _ _ ?_ (fun t a kt => ?_)
    | intro _
    | split
    | (with_reducible first | apply Kept.upd | apply Kept.updM | apply Kept.updT | apply Kept.updTM) <;> with_reducible first | assumption | apply kept_unloadCopy

theorem kept_dropStaged {s0 : State} (s : State) (h : Nat) (hk : Kept s0 s)  : Kept s0 (State.dropStaged s h) := by
  unfold State.dropStaged
  repeat' first
    | with_reducible assumption
    | with_reducible first
        | apply kept_freeVersion
        | apply kept_setHandle
    | ((try lift_lets -underBinder); intro x; clear_value (hx : x = _); first
        | refine Kept.cut (s := s0) hx ?_ (fun kx => ?_)
        | refine Kept.cut2 (s := s0) hx ?_ (fun kx => ?_)
        | (have : Mgmt := x; subst hx)
        | clear hx)
    | split
    | (with_reducible first | apply Kept.upd | apply Kept.updM | apply Kept.updT | apply Kept.updTM) <;> with_reducible first | assumption | apply kept_freeVersion | apply kept_setHandle

end Sys2Proof.Machine
end

