-- ==== Sys2Proof/Laws/KeptModels.lean ====
section
/-! SUPPORT. What the operations of Models.lean keep (Laws/Kept.lean). -/
namespace Sys2Proof.Machine
set_option linter.all false

theorem kept_startLoad {s0 : State} (s : State) (c : MboxCmd) (r : Rec) (v : Option Version) (holds : Bool) (hk : Kept s0 s)  : Kept s0 (State.startLoad s c r v holds) := by
  unfold State.startLoad
  repeat' first
    | with_reducible assumption
    | with_reducible first
        | apply kept_setHandle
    | ((try lift_lets -underBinder); intro x; clear_value (hx : x = _); first
        | refine Kept.cut (s := s0) hx ?_ (fun kx => ?_)
        | refine Kept.cut2 (s := s0) hx ?_ (fun kx => ?_)
        | (have : Mgmt := x; subst hx)
        | clear hx)
    | split
    | (with_reducible first | apply Kept.upd | apply Kept.updM | apply Kept.updT | apply Kept.updTM) <;> with_reducible first | assumption | apply kept_setHandle

theorem kept_loadCmd {s0 : State} (s : State) (i : Nat) (hk : Kept s0 s)  : Kept s0 (State.loadCmd s i) := by
  unfold State.loadCmd
  repeat' first
    | with_reducible assumption
    | with_reducible first
        | apply kept_mirrorHeal
        | refine kept_takeCmd (hk := ?_) (e := by assumption) <;> assumption
        | apply kept_startLoad
    | ((try lift_lets -underBinder); intro x; clear_value (hx : x = _); first
        | refine Kept.cut (s := s0) hx ?_ (fun kx => ?_)
        | refine Kept.cut2 (s := s0) hx ?_ (fun kx => ?_)
        | (have : Mgmt := x; subst hx)
        | clear hx)
    | split
    | (with_reducible first | apply Kept.upd | apply Kept.updM | apply Kept.updT | apply Kept.updTM) <;> with_reducible first | assumption | apply kept_mirrorHeal | refine kept_takeCmd (hk := ?_) (e := by assumption) <;> assumption | apply kept_startLoad

theorem kept_ploadCmd {s0 : State} (s : State) (i : Nat) (hk : Kept s0 s)  : Kept s0 (State.ploadCmd s i) := by
  unfold State.ploadCmd
  repeat' first
    | with_reducible assumption
    | with_reducible first
        | apply kept_mirrorHeal
        | refine kept_takeCmd (hk := ?_) (e := by assumption) <;> assumption
        | apply kept_startLoad
        | apply kept_loadCopy
    | ((try lift_lets -underBinder); intro x; clear_value (hx : x = _); first
        | refine Kept.cut (s := s0) hx ?_ (fun kx => ?_)
        | refine Kept.cut2 (s := s0) hx ?_ (fun kx => ?_)
        | (have : Mgmt := x; subst hx)
        | clear hx)
    | with_reducible refine kept_foldl _ _ _ ?_ (fun t a kt => ?_)
    | intro _
    | split
    | (with_reducible first | apply Kept.upd | apply Kept.updM | apply Kept.updT | apply Kept.updTM) <;> with_reducible first | assumption | apply kept_mirrorHeal | refine kept_takeCmd (hk := ?_) (e := by assumption) <;> assumption | apply kept_startLoad | apply kept_loadCopy

theorem kept_loadComplete {s0 : State} (s : State) (k : Nat) (hk : Kept s0 s)  : Kept s0 (State.loadComplete s k) := by
  unfold State.loadComplete
  repeat' first
    | with_reducible assumption
    | with_reducible first
        | apply kept_recordWrite
        | apply kept_journal
        | apply kept_modelDone
        | apply kept_setHandle
    | ((try lift_lets -underBinder); intro x; clear_value (hx : x = _); first
        | refine Kept.cut (s := s0) hx ?_ (fun kx => ?_)
        | refine Kept.cut2 (s := s0) hx ?_ (fun kx => ?_)
        | (have : Mgmt := x; subst hx)
        | clear hx)
    | split
    | (with_reducible first | apply Kept.upd | apply Kept.updM | apply Kept.updT | apply Kept.updTM) <;> with_reducible first | assumption | apply kept_recordWrite | apply kept_journal | apply kept_modelDone | apply kept_setHandle

theorem kept_modelCmd {s0 : State} (s : State) (i : Nat) (code : Nat) (f : State → Nat → List Byte → Nat × Option Version × State) (hk : Kept s0 s) (hf : ∀ t0 t1 t2, Kept s0 t0 → Kept s0 (f t0 t1 t2).2.2) : Kept s0 (State.modelCmd s i code f) := by
  unfold State.modelCmd
  repeat' first
    | with_reducible assumption
    | with_reducible first
        | refine kept_takeCmd (hk := ?_) (e := by assumption) <;> assumption
        | apply kept_modelFinish
        | apply hf
    | ((try lift_lets -underBinder); intro x; clear_value (hx : x = _); first
        | refine Kept.cut (s := s0) hx ?_ (fun kx => ?_)
        | refine Kept.cut2 (s := s0) hx ?_ (fun kx => ?_)
        | (have : Mgmt := x; subst hx)
        | clear hx)
    | split
    | (with_reducible first | apply Kept.upd | apply Kept.updM | apply Kept.updT | apply Kept.updTM) <;> with_reducible first | assumption | refine kept_takeCmd (hk := ?_) (e := by assumption) <;> assumption | apply kept_modelFinish | apply hf

theorem kept_activateRun {s0 : State} (s : State) (h : Nat) (x : List Byte) (hk : Kept s0 s)  : Kept s0 (activateRun s h x).2.2 := by
  unfold activateRun
  repeat' first
    | with_reducible assumption
    | with_reducible first
        | apply kept_setHandle
    | ((try lift_lets -underBinder); intro x; clear_value (hx : x = _); first
        | refine Kept.cut (s := s0) hx ?_ (fun kx => ?_)
        | refine Kept.cut2 (s := s0) hx ?_ (fun kx => ?_)
        | (have : Mgmt := x; subst hx)
        | clear hx)
    | split
    | (with_reducible first | apply Kept.upd | apply Kept.updM | apply Kept.updT | apply Kept.updTM) <;> with_reducible first | assumption | apply kept_setHandle

theorem kept_discardRun {s0 : State} (s : State) (h : Nat) (x : List Byte) (hk : Kept s0 s)  : Kept s0 (discardRun s h x).2.2 := by
  unfold discardRun
  repeat' first
    | with_reducible assumption
    | with_reducible first
        | apply kept_dropStaged
    | ((try lift_lets -underBinder); intro x; clear_value (hx : x = _); first
        | refine Kept.cut (s := s0) hx ?_ (fun kx => ?_)
        | refine Kept.cut2 (s := s0) hx ?_ (fun kx => ?_)
        | (have : Mgmt := x; subst hx)
        | clear hx)
    | split
    | (with_reducible first | apply Kept.upd | apply Kept.updM | apply Kept.updT | apply Kept.updTM) <;> with_reducible first | assumption | apply kept_dropStaged

theorem kept_unloadRun {s0 : State} (s : State) (h : Nat) (x : List Byte) (hk : Kept s0 s)  : Kept s0 (unloadRun s h x).2.2 := by
  unfold unloadRun
  repeat' first
    | with_reducible assumption
    | with_reducible first
        | apply kept_dropStaged
        | apply kept_setHandle
    | ((try lift_lets -underBinder); intro x; clear_value (hx : x = _); first
        | refine Kept.cut (s := s0) hx ?_ (fun kx => ?_)
        | refine Kept.cut2 (s := s0) hx ?_ (fun kx => ?_)
        | (have : Mgmt := x; subst hx)
        | clear hx)
    | split
    | (with_reducible first | apply Kept.upd | apply Kept.updM | apply Kept.updT | apply Kept.updTM) <;> with_reducible first | assumption | apply kept_dropStaged | apply kept_setHandle

theorem kept_queryRun {s0 : State} (s : State) (h : Nat) (x : List Byte) (hk : Kept s0 s)  : Kept s0 (queryRun s h x).2.2 := by
  unfold queryRun
  repeat' first
    | with_reducible assumption
    | ((try lift_lets -underBinder); intro x; clear_value (hx : x = _); first
        | refine Kept.cut (s := s0) hx ?_ (fun kx => ?_)
        | refine Kept.cut2 (s := s0) hx ?_ (fun kx => ?_)
        | (have : Mgmt := x; subst hx)
        | clear hx)
    | split
    | (with_reducible first | apply Kept.upd | apply Kept.updM | apply Kept.updT | apply Kept.updTM) <;> with_reducible first | assumption

theorem kept_drainCmd {s0 : State} (s : State) (i : Nat) (hk : Kept s0 s)  : Kept s0 (State.drainCmd s i) := by
  unfold State.drainCmd
  repeat' first
    | with_reducible assumption
    | with_reducible first
        | apply kept_post
        | refine kept_takeCmd (hk := ?_) (e := by assumption) <;> assumption
        | apply kept_setHandle
        | apply kept_devWrite
    | ((try lift_lets -underBinder); intro x; clear_value (hx : x = _); first
        | refine Kept.cut (s := s0) hx ?_ (fun kx => ?_)
        | refine Kept.cut2 (s := s0) hx ?_ (fun kx => ?_)
        | (have : Mgmt := x; subst hx)
        | clear hx)
    | split
    | (with_reducible first | apply Kept.upd | apply Kept.updM | apply Kept.updT | apply Kept.updTM) <;> with_reducible first | assumption | apply kept_post | refine kept_takeCmd (hk := ?_) (e := by assumption) <;> assumption | apply kept_setHandle | apply kept_devWrite

theorem kept_drainDone {s0 : State} (s : State) (h : Nat) (hk : Kept s0 s)  : Kept s0 (State.drainDone s h) := by
  unfold State.drainDone
  repeat' first
    | with_reducible assumption
    | with_reducible first
        | apply kept_post
        | apply kept_setHandle
        | apply kept_devWrite
    | ((try lift_lets -underBinder); intro x; clear_value (hx : x = _); first
        | refine Kept.cut (s := s0) hx ?_ (fun kx => ?_)
        | refine Kept.cut2 (s := s0) hx ?_ (fun kx => ?_)
        | (have : Mgmt := x; subst hx)
        | clear hx)
    | with_reducible refine kept_foldl _ _ _ ?_ (fun t a kt => ?_)
    | intro _
    | split
    | (with_reducible first | apply Kept.upd | apply Kept.updM | apply Kept.updT | apply Kept.updTM) <;> with_reducible first | assumption | apply kept_post | apply kept_setHandle | apply kept_devWrite

theorem kept_resumeRun {s0 : State} (s : State) (h : Nat) (x : List Byte) (hk : Kept s0 s)  : Kept s0 (resumeRun s h x).2.2 := by
  unfold resumeRun
  repeat' first
    | with_reducible assumption
    | with_reducible first
        | apply kept_setHandle
    | ((try lift_lets -underBinder); intro x; clear_value (hx : x = _); first
        | refine Kept.cut (s := s0) hx ?_ (fun kx => ?_)
        | refine Kept.cut2 (s := s0) hx ?_ (fun kx => ?_)
        | (have : Mgmt := x; subst hx)
        | clear hx)
    | split
    | (with_reducible first | apply Kept.upd | apply Kept.updM | apply Kept.updT | apply Kept.updTM) <;> with_reducible first | assumption | apply kept_setHandle

theorem kept_recount {s0 : State} (s : State) (h : Nat) (n : Nat) (f : Version → Version) (hk : Kept s0 s)  : Kept s0 (State.recount s h n f) := by
  unfold State.recount
  exact Kept.upd hk

theorem kept_tryReplace {s0 : State} (s : State) (h : Nat) (v : Version) (c : Nat) {t : State} (hk : Kept s0 s) (e : State.tryReplace s h v c = some t) : Kept s0 t := by
  unfold State.tryReplace at e
  repeat' first
    | (cases e; done)
    | split at e
  all_goals first
    | (obtain ⟨v1, _, rfl⟩ := Option.map_eq_some_iff.1 e; exact kept_modVer (hk := hk) ..)
    | skip
  all_goals dsimp only at e
  all_goals split at e
  all_goals cases e
  · exact kept_loadCopy (hk := kept_modVer (hk := hk) ..) ..
  · exact kept_modVer (hk := hk) ..

theorem kept_copyReplace {s0 : State} (s : State) (h : Nat) (n : Nat) (c : Nat) (hk : Kept s0 s)  : Kept s0 (State.copyReplace s h n c) := by
  unfold State.copyReplace
  split
  · exact hk
  · next v _ =>
    apply kept_mirrorHeal
    cases e : s.tryReplace h v c with
    | none => exact kept_degraded (hk := hk) ..
    | some t => exact kept_tryReplace (hk := hk) (e := e)

end Sys2Proof.Machine
end

