-- ==== Sys2Proof/Laws/KeptArrayRun.lean ====
section
/-! SUPPORT. What the operations of ArrayRun.lean keep (Laws/Kept.lean). -/
namespace Sys2Proof.Machine
set_option linter.all false

theorem kept_openWindow {s0 : State} (s : State) (run : ArrayRun) (v : Version) (cp : ACopy) (hk : Kept s0 s)  : Kept s0 (State.openWindow s run v cp) := by
  unfold State.openWindow
  repeat' first
    | with_reducible assumption
    | with_reducible first
        | apply kept_setCore
    | ((try lift_lets -underBinder); intro x; clear_value (hx : x = _); first
        | refine Kept.cut (s := s0) hx ?_ (fun kx => ?_)
        | refine Kept.cut2 (s := s0) hx ?_ (fun kx => ?_)
        | (have : Mgmt := x; subst hx)
        | clear hx)
    | with_reducible refine kept_foldl _ _ _ ?_ (fun t a kt => ?_)
    | intro _
    | split
    | (with_reducible first | apply Kept.upd | apply Kept.updM | apply Kept.updT | apply Kept.updTM) <;> with_reducible first | assumption | apply kept_setCore

theorem kept_openWindows {s0 : State} (s : State) (hk : Kept s0 s)  : Kept s0 (State.openWindows s) := by
  unfold State.openWindows
  repeat' first
    | with_reducible assumption
    | with_reducible first
        | apply kept_openWindow
    | ((try lift_lets -underBinder); intro x; clear_value (hx : x = _); first
        | refine Kept.cut (s := s0) hx ?_ (fun kx => ?_)
        | refine Kept.cut2 (s := s0) hx ?_ (fun kx => ?_)
        | (have : Mgmt := x; subst hx)
        | clear hx)
    | with_reducible refine kept_foldl _ _ _ ?_ (fun t a kt => ?_)
    | intro _
    | split
    | (with_reducible first | apply Kept.upd | apply Kept.updM | apply Kept.updT | apply Kept.updTM) <;> with_reducible first | assumption | apply kept_openWindow

theorem kept_startRun {s0 : State} (s : State) (h : Nat) (v : Version) (c : Nat) (cp : ACopy) (slot : Option Nat) (ctx : Option Nat) (pos : Nat) (exact : Bool) (x : DescIn) (data : List Byte) (key : Nat → Nat) (hk : Kept s0 s)  : Kept s0 (State.startRun s h v c cp slot ctx pos exact x data key) := by
  unfold State.startRun
  repeat' first
    | with_reducible assumption
    | with_reducible first
        | apply kept_modVer
        | apply kept_openWindow
        | apply kept_count
    | ((try lift_lets -underBinder); intro x; clear_value (hx : x = _); first
        | refine Kept.cut (s := s0) hx ?_ (fun kx => ?_)
        | refine Kept.cut2 (s := s0) hx ?_ (fun kx => ?_)
        | (have : Mgmt := x; subst hx)
        | clear hx)
    | with_reducible refine kept_foldl _ _ _ ?_ (fun t a kt => ?_)
    | intro _
    | split
    | (with_reducible first | apply Kept.upd | apply Kept.updM | apply Kept.updT | apply Kept.updTM) <;> with_reducible first | assumption | apply kept_modVer | apply kept_openWindow | apply kept_count

theorem kept_arrayQueue {s0 : State} (s : State) (n : Nat) (m : Msg) (v : Version) (stage : MsgStage) (hk : Kept s0 s)  : Kept s0 (State.arrayQueue s n m v stage) := by
  unfold State.arrayQueue
  repeat' first
    | with_reducible assumption
    | with_reducible first
        | apply kept_settle
        | apply kept_setMsg
        | apply kept_setHandle
        | apply kept_busyMsg
    | ((try lift_lets -underBinder); intro x; clear_value (hx : x = _); first
        | refine Kept.cut (s := s0) hx ?_ (fun kx => ?_)
        | refine Kept.cut2 (s := s0) hx ?_ (fun kx => ?_)
        | (have : Mgmt := x; subst hx)
        | clear hx)
    | split
    | (with_reducible first | apply Kept.upd | apply Kept.updM | apply Kept.updT | apply Kept.updTM) <;> with_reducible first | assumption | apply kept_settle | apply kept_setMsg | apply kept_setHandle | apply kept_busyMsg

theorem kept_arrayAdmit {s0 : State} (s : State) (n : Nat) (hk : Kept s0 s)  : Kept s0 (State.arrayAdmit s n) := by
  unfold State.arrayAdmit
  repeat' first
    | with_reducible assumption
    | with_reducible first
        | apply kept_startRun
        | apply kept_answerMsg
        | refine kept_leaving (hk := ?_) (e := by assumption) <;> assumption
        | apply kept_settle
        | apply kept_setMsg
        | apply kept_setHandle
        | apply kept_arrayQueue
        | apply kept_count
    | ((try lift_lets -underBinder); intro x; clear_value (hx : x = _); first
        | refine Kept.cut (s := s0) hx ?_ (fun kx => ?_)
        | refine Kept.cut2 (s := s0) hx ?_ (fun kx => ?_)
        | (have : Mgmt := x; subst hx)
        | clear hx)
    | split
    | (with_reducible first | apply Kept.upd | apply Kept.updM | apply Kept.updT | apply Kept.updTM) <;> with_reducible first | assumption | apply kept_startRun | apply kept_answerMsg | refine kept_leaving (hk := ?_) (e := by assumption) <;> assumption | apply kept_settle | apply kept_setMsg | apply kept_setHandle | apply kept_arrayQueue | apply kept_count

theorem kept_queueTimeout {s0 : State} (s : State) (n : Nat) (hk : Kept s0 s)  : Kept s0 (State.queueTimeout s n) := by
  unfold State.queueTimeout
  repeat' first
    | with_reducible assumption
    | with_reducible first
        | apply kept_settle
        | apply kept_busyMsg
    | ((try lift_lets -underBinder); intro x; clear_value (hx : x = _); first
        | refine Kept.cut (s := s0) hx ?_ (fun kx => ?_)
        | refine Kept.cut2 (s := s0) hx ?_ (fun kx => ?_)
        | (have : Mgmt := x; subst hx)
        | clear hx)
    | split
    | (with_reducible first | apply Kept.upd | apply Kept.updM | apply Kept.updT | apply Kept.updTM) <;> with_reducible first | assumption | apply kept_settle | apply kept_busyMsg

theorem kept_modeGapEnd {s0 : State} (s : State) (h : Nat) (c : Nat) (hk : Kept s0 s)  : Kept s0 (State.modeGapEnd s h c) := by
  unfold State.modeGapEnd
  repeat' first
    | with_reducible assumption
    | with_reducible first
        | apply kept_modVer
    | ((try lift_lets -underBinder); intro x; clear_value (hx : x = _); first
        | refine Kept.cut (s := s0) hx ?_ (fun kx => ?_)
        | refine Kept.cut2 (s := s0) hx ?_ (fun kx => ?_)
        | (have : Mgmt := x; subst hx)
        | clear hx)
    | split
    | (with_reducible first | apply Kept.upd | apply Kept.updM | apply Kept.updT | apply Kept.updTM) <;> with_reducible first | assumption | apply kept_modVer

theorem kept_enterQueue {s0 : State} (s : State) (p : Nat) (q : Nat) (t : Tok) (hk : Kept s0 s)  : Kept s0 (State.enterQueue s p q t) := by
  unfold State.enterQueue
  exact Kept.upd hk

theorem kept_parityCheck {s0 : State} (s : State) (core : Nat) (t : Tok) (parityOk : Bool) (hk : Kept s0 s)  : Kept s0 (State.parityCheck s core t parityOk).1 := by
  unfold State.parityCheck
  repeat' first
    | with_reducible assumption
    | with_reducible first
        | apply kept_post
        | apply kept_count
    | ((try lift_lets -underBinder); intro x; clear_value (hx : x = _); first
        | refine Kept.cut (s := s0) hx ?_ (fun kx => ?_)
        | refine Kept.cut2 (s := s0) hx ?_ (fun kx => ?_)
        | (have : Mgmt := x; subst hx)
        | clear hx)
    | split
    | (with_reducible first | apply Kept.upd | apply Kept.updM | apply Kept.updT | apply Kept.updTM) <;> with_reducible first | assumption | apply kept_post | apply kept_count

theorem kept_tokenArrive {s0 : State} (s : State) (n : Nat) (parityOk : Bool) (hk : Kept s0 s)  : Kept s0 (State.tokenArrive s n parityOk) := by
  unfold State.tokenArrive
  repeat' first
    | with_reducible assumption
    | with_reducible first
        | apply kept_parityCheck
        | apply kept_enterQueue
        | apply kept_setRun
    | ((try lift_lets -underBinder); intro x; clear_value (hx : x = _); first
        | refine Kept.cut (s := s0) hx ?_ (fun kx => ?_)
        | refine Kept.cut2 (s := s0) hx ?_ (fun kx => ?_)
        | refine Kept.cut3 (s := s0) hx ?_ (fun kx => ?_)
        | refine Kept.cut1 (s := s0) hx ?_ (fun kx => ?_)
        | refine DieKept.cut (s := s0) hx ?_ (fun kx => ?_)
        | (have : Mgmt := x; subst hx)
        | (have : TimeSt := x; subst hx)
        | clear hx)
    | with_reducible refine kept_foldl _ _ _ ?_ (fun t a kt => ?_)
    | with_reducible refine kept_foldl2 _ _ _ ?_ (fun t a kt => ?_)
    | intro _
    | split
    | (with_reducible first | apply Kept.upd | apply Kept.updM | apply Kept.updT | apply Kept.updTM) <;> with_reducible first | assumption | apply kept_parityCheck | apply kept_enterQueue | apply kept_setRun

theorem kept_dropTokens {s0 : State} (s : State) (v : Version) (cp : ACopy) (r : ArrayRun) (hk : Kept s0 s)  : Kept s0 (State.dropTokens s v cp r) := by
  unfold State.dropTokens
  repeat' first
    | with_reducible assumption
    | with_reducible first
        | apply kept_setCore
    | ((try lift_lets -underBinder); intro x; clear_value (hx : x = _); first
        | refine Kept.cut (s := s0) hx ?_ (fun kx => ?_)
        | refine Kept.cut2 (s := s0) hx ?_ (fun kx => ?_)
        | (have : Mgmt := x; subst hx)
        | clear hx)
    | with_reducible refine kept_foldl _ _ _ ?_ (fun t a kt => ?_)
    | intro _
    | split
    | (with_reducible first | apply Kept.upd | apply Kept.updM | apply Kept.updT | apply Kept.updTM) <;> with_reducible first | assumption | apply kept_setCore

theorem kept_overrun {s0 : State} (s : State) (rid : Nat) (r : ArrayRun) (v : Version) (cp : ACopy) (i : Nat) (hk : Kept s0 s)  : Kept s0 (State.overrun s rid r v cp i) := by
  unfold State.overrun
  repeat' first
    | with_reducible assumption
    | with_reducible first
        | apply kept_post
        | apply kept_unitFail
        | apply kept_dropTokens
        | apply kept_settle
        | apply kept_setRw
        | apply kept_ctxFail
        | apply kept_count
    | ((try lift_lets -underBinder); intro x; clear_value (hx : x = _); first
        | refine Kept.cut (s := s0) hx ?_ (fun kx => ?_)
        | refine Kept.cut2 (s := s0) hx ?_ (fun kx => ?_)
        | (have : Mgmt := x; subst hx)
        | clear hx)
    | split
    | (with_reducible first | apply Kept.upd | apply Kept.updM | apply Kept.updT | apply Kept.updTM) <;> with_reducible first | assumption | apply kept_post | apply kept_unitFail | apply kept_dropTokens | apply kept_settle | apply kept_setRw | apply kept_ctxFail | apply kept_count

theorem kept_firesCheck {s0 : State} (s : State) (p : Nat) (k : Nat) (rid : Nat) (hk : Kept s0 s)  : Kept s0 (State.firesCheck s p k rid) := by
  unfold State.firesCheck
  repeat' first
    | with_reducible assumption
    | with_reducible first
        | apply kept_overrun
        | apply kept_setRun
    | ((try lift_lets -underBinder); intro x; clear_value (hx : x = _); first
        | refine Kept.cut (s := s0) hx ?_ (fun kx => ?_)
        | refine Kept.cut2 (s := s0) hx ?_ (fun kx => ?_)
        | (have : Mgmt := x; subst hx)
        | clear hx)
    | split
    | (with_reducible first | apply Kept.upd | apply Kept.updM | apply Kept.updT | apply Kept.updTM) <;> with_reducible first | assumption | apply kept_overrun | apply kept_setRun

theorem kept_ctxOver {s0 : State} (s : State) (k : Nat) (x : Ctx) (genDone : Bool) (hk : Kept s0 s)  : Kept s0 (State.ctxOver s k x genDone) := by
  unfold State.ctxOver
  repeat' first
    | with_reducible assumption
    | with_reducible first
        | apply kept_recordWrite
        | apply kept_freeCtx
        | apply kept_mboxDone
    | ((try lift_lets -underBinder); intro x; clear_value (hx : x = _); first
        | refine Kept.cut (s := s0) hx ?_ (fun kx => ?_)
        | refine Kept.cut2 (s := s0) hx ?_ (fun kx => ?_)
        | (have : Mgmt := x; subst hx)
        | clear hx)
    | with_reducible refine kept_foldl _ _ _ ?_ (fun t a kt => ?_)
    | intro _
    | split
    | (with_reducible first | apply Kept.upd | apply Kept.updM | apply Kept.updT | apply Kept.updTM) <;> with_reducible first | assumption | apply kept_recordWrite | apply kept_freeCtx | apply kept_mboxDone

theorem kept_ctxSettle {s0 : State} (s : State) (k : Nat) (hk : Kept s0 s)  : Kept s0 (State.ctxSettle s k) := by
  unfold State.ctxSettle
  repeat' first
    | with_reducible assumption
    | with_reducible first
        | apply kept_ctxOver
    | ((try lift_lets -underBinder); intro x; clear_value (hx : x = _); first
        | refine Kept.cut (s := s0) hx ?_ (fun kx => ?_)
        | refine Kept.cut2 (s := s0) hx ?_ (fun kx => ?_)
        | (have : Mgmt := x; subst hx)
        | clear hx)
    | split
    | (with_reducible first | apply Kept.upd | apply Kept.updM | apply Kept.updT | apply Kept.updTM) <;> with_reducible first | assumption | apply kept_ctxOver

theorem kept_ctxSettles {s0 : State} (s : State) (hk : Kept s0 s)  : Kept s0 (State.ctxSettles s) := by
  unfold State.ctxSettles
  repeat' first
    | with_reducible assumption
    | with_reducible first
        | apply kept_ctxSettle
    | ((try lift_lets -underBinder); intro x; clear_value (hx : x = _); first
        | refine Kept.cut (s := s0) hx ?_ (fun kx => ?_)
        | refine Kept.cut2 (s := s0) hx ?_ (fun kx => ?_)
        | (have : Mgmt := x; subst hx)
        | clear hx)
    | with_reducible refine kept_foldl _ _ _ ?_ (fun t a kt => ?_)
    | intro _
    | split
    | (with_reducible first | apply Kept.upd | apply Kept.updM | apply Kept.updT | apply Kept.updTM) <;> with_reducible first | assumption | apply kept_ctxSettle

theorem kept_stepBoundary {s0 : State} (s : State) (k : Nat) (hk : Kept s0 s)  : Kept s0 (State.stepBoundary s k) := by
  unfold State.stepBoundary
  repeat' first
    | with_reducible assumption
    | with_reducible first
        | apply kept_answerMsg
        | apply kept_setRun
    | ((try lift_lets -underBinder); intro x; clear_value (hx : x = _); first
        | refine Kept.cut (s := s0) hx ?_ (fun kx => ?_)
        | refine Kept.cut2 (s := s0) hx ?_ (fun kx => ?_)
        | (have : Mgmt := x; subst hx)
        | clear hx)
    | with_reducible refine kept_foldl _ _ _ ?_ (fun t a kt => ?_)
    | intro _
    | split
    | (with_reducible first | apply Kept.upd | apply Kept.updM | apply Kept.updT | apply Kept.updTM) <;> with_reducible first | assumption | apply kept_answerMsg | apply kept_setRun

theorem kept_resultChecked {s0 : State} (s : State) (rid : Nat) (hk : Kept s0 s)  : Kept s0 (State.resultChecked s rid) := by
  unfold State.resultChecked
  repeat' first
    | with_reducible assumption
    | with_reducible first
        | apply kept_posGood
        | apply kept_overrun
        | apply kept_unitFail
        | apply kept_decideResult
        | apply kept_ctxFail
    | ((try lift_lets -underBinder); intro x; clear_value (hx : x = _); first
        | refine Kept.cut (s := s0) hx ?_ (fun kx => ?_)
        | refine Kept.cut2 (s := s0) hx ?_ (fun kx => ?_)
        | (have : Mgmt := x; subst hx)
        | clear hx)
    | split
    | (with_reducible first | apply Kept.upd | apply Kept.updM | apply Kept.updT | apply Kept.updTM) <;> with_reducible first | assumption | apply kept_posGood | apply kept_overrun | apply kept_unitFail | apply kept_decideResult | apply kept_ctxFail

theorem kept_resultCheck {s0 : State} (s : State) (rid : Nat) (hk : Kept s0 s)  : Kept s0 (State.resultCheck s rid) := by
  unfold State.resultCheck
  repeat' first
    | with_reducible assumption
    | with_reducible first
        | apply kept_stepBoundary
        | apply kept_ctxSettle
        | apply kept_resultChecked
    | ((try lift_lets -underBinder); intro x; clear_value (hx : x = _); first
        | refine Kept.cut (s := s0) hx ?_ (fun kx => ?_)
        | refine Kept.cut2 (s := s0) hx ?_ (fun kx => ?_)
        | (have : Mgmt := x; subst hx)
        | clear hx)
    | split
    | (with_reducible first | apply Kept.upd | apply Kept.updM | apply Kept.updT | apply Kept.updTM) <;> with_reducible first | assumption | apply kept_stepBoundary | apply kept_ctxSettle | apply kept_resultChecked

theorem kept_fevalResult {s0 : State} (s : State) (n : Nat) (parityOk : Bool) (second : Bool) (hk : Kept s0 s)  : Kept s0 (State.fevalResult s n parityOk second) := by
  unfold State.fevalResult
  repeat' first
    | with_reducible assumption
    | with_reducible first
        | apply kept_parityCheck
        | apply kept_overrun
        | apply kept_runBad
        | apply kept_sendSinks
        | apply kept_enterQueue
    | ((try lift_lets -underBinder); intro x; clear_value (hx : x = _); first
        | refine Kept.cut (s := s0) hx ?_ (fun kx => ?_)
        | refine Kept.cut2 (s := s0) hx ?_ (fun kx => ?_)
        | (have : Mgmt := x; subst hx)
        | clear hx)
    | with_reducible refine kept_foldl _ _ _ ?_ (fun t a kt => ?_)
    | intro _
    | split
    | (with_reducible first | apply Kept.upd | apply Kept.updM | apply Kept.updT | apply Kept.updTM) <;> with_reducible first | assumption | apply kept_parityCheck | apply kept_overrun | apply kept_runBad | apply kept_sendSinks | apply kept_enterQueue

theorem kept_dmaComplete {s0 : State} (s : State) (n : Nat) (ue : Bool) (parityOk : Bool) (hk : Kept s0 s)  : Kept s0 (State.dmaComplete s n ue parityOk) := by
  unfold State.dmaComplete
  repeat' first
    | with_reducible assumption
    | with_reducible first
        | apply kept_parityCheck
        | apply kept_rangeUe
        | apply kept_mirrorHeal
        | apply kept_setDie
        | apply kept_spanUe
        | apply kept_sendSinks
        | apply kept_setCore
        | apply kept_enterQueue
        | apply kept_devWrite
        | apply dieKept_die
        | apply dieKept_putByte
        | apply dieKept_heal
        | apply dieKept_writeSpans
        | apply memKept_clearSpans
        | apply memKept_writeSpans
        | apply dieKept_upd
        | apply memKept_writeN
        | apply memKept_write
        | apply memKept_clear
        | apply memKept_sramMove
        | apply memKept_dram
        | apply memKept_sram
        | exact memKept_nil
    | ((try lift_lets -underBinder); intro x; clear_value (hx : x = _); first
        | refine Kept.cut (s := s0) hx ?_ (fun kx => ?_)
        | refine Kept.cut2 (s := s0) hx ?_ (fun kx => ?_)
        | refine Kept.cut3 (s := s0) hx ?_ (fun kx => ?_)
        | refine Kept.cut1 (s := s0) hx ?_ (fun kx => ?_)
        | refine DieKept.cut (s := s0) hx ?_ (fun kx => ?_)
        | (have : Mgmt := x; subst hx)
        | (have : TimeSt := x; subst hx)
        | clear hx)
    | with_reducible refine kept_foldl _ _ _ ?_ (fun t a kt => ?_)
    | with_reducible refine kept_foldl2 _ _ _ ?_ (fun t a kt => ?_)
    | intro _
    | split
    | (with_reducible first | apply Kept.upd | apply Kept.updM | apply Kept.updT | apply Kept.updTM) <;> with_reducible first | assumption | apply kept_parityCheck | apply kept_rangeUe | apply kept_mirrorHeal | apply kept_setDie | apply kept_spanUe | apply kept_sendSinks | apply kept_setCore | apply kept_enterQueue | apply kept_devWrite | apply dieKept_die | apply dieKept_putByte | apply dieKept_heal | apply dieKept_writeSpans | apply memKept_clearSpans | apply memKept_writeSpans | apply dieKept_upd | apply memKept_writeN | apply memKept_write | apply memKept_clear | apply memKept_sramMove | apply memKept_dram | apply memKept_sram | exact memKept_nil

theorem kept_versionRelease {s0 : State} (s : State) (h : Nat) (n : Nat) (hk : Kept s0 s)  : Kept s0 (State.versionRelease s h n) := by
  unfold State.versionRelease
  repeat' first
    | with_reducible assumption
    | with_reducible first
        | apply kept_post
        | apply kept_freeVersion
        | apply kept_setHandle
    | ((try lift_lets -underBinder); intro x; clear_value (hx : x = _); first
        | refine Kept.cut (s := s0) hx ?_ (fun kx => ?_)
        | refine Kept.cut2 (s := s0) hx ?_ (fun kx => ?_)
        | (have : Mgmt := x; subst hx)
        | clear hx)
    | split
    | (with_reducible first | apply Kept.upd | apply Kept.updM | apply Kept.updT | apply Kept.updTM) <;> with_reducible first | assumption | apply kept_post | apply kept_freeVersion | apply kept_setHandle

theorem kept_coreMemWrite {s0 : State} (s : State) (p : Nat) (z : Nat) (w : Word) (hk : Kept s0 s)  : Kept s0 (State.coreMemWrite s p z w) := by
  unfold State.coreMemWrite
  extract_lets d c put k i k2 r
  have hput : ∀ c, Kept s0 (put c) := fun c => kept_healSram (hk := kept_setCore (hk := hk) ..) ..
  split
  · split
    · exact kept_count (hk := hk) ..
    · exact hput _
  · split
    · exact kept_count (hk := hk) ..
    · exact hput _

theorem kept_sramWrite {s0 : State} (s : State) (d : Nat) (o : Nat) (w : Word) (hk : Kept s0 s)  : Kept s0 (State.sramWrite s d o w) := by
  unfold State.sramWrite
  repeat' first
    | with_reducible assumption
    | with_reducible first
        | apply kept_setDie
        | apply dieKept_die
        | apply dieKept_putByte
        | apply dieKept_heal
        | apply dieKept_writeSpans
        | apply memKept_clearSpans
        | apply memKept_writeSpans
        | apply dieKept_upd
        | apply memKept_writeN
        | apply memKept_write
        | apply memKept_clear
        | apply memKept_sramMove
        | apply memKept_dram
        | apply memKept_sram
        | exact memKept_nil
    | ((try lift_lets -underBinder); intro x; clear_value (hx : x = _); first
        | refine Kept.cut (s := s0) hx ?_ (fun kx => ?_)
        | refine Kept.cut2 (s := s0) hx ?_ (fun kx => ?_)
        | (have : Mgmt := x; subst hx)
        | clear hx)
    | split
    | (with_reducible first | apply Kept.upd | apply Kept.updM | apply Kept.updT | apply Kept.updTM) <;> with_reducible first | assumption | apply kept_setDie | apply dieKept_die | apply dieKept_putByte | apply dieKept_heal | apply dieKept_writeSpans | apply memKept_clearSpans | apply memKept_writeSpans | apply dieKept_upd | apply memKept_writeN | apply memKept_write | apply memKept_clear | apply memKept_sramMove | apply memKept_dram | apply memKept_sram | exact memKept_nil

theorem kept_apWrite {s0 : State} (s : State) (a : Nat) (w : Word) (hk : Kept s0 s)  : Kept s0 (State.apWrite s a w) := by
  unfold State.apWrite
  repeat' first
    | with_reducible assumption
    | with_reducible first
        | apply kept_coreMemWrite
        | apply kept_sramWrite
        | apply kept_count
    | ((try lift_lets -underBinder); intro x; clear_value (hx : x = _); first
        | refine Kept.cut (s := s0) hx ?_ (fun kx => ?_)
        | refine Kept.cut2 (s := s0) hx ?_ (fun kx => ?_)
        | (have : Mgmt := x; subst hx)
        | clear hx)
    | split
    | (with_reducible first | apply Kept.upd | apply Kept.updM | apply Kept.updT | apply Kept.updTM) <;> with_reducible first | assumption | apply kept_coreMemWrite | apply kept_sramWrite | apply kept_count

theorem kept_moveCore {s0 : State} (s : State) (p : Nat) (q : Nat) (hk : Kept s0 s)  : Kept s0 (State.moveCore s p q) := by
  unfold State.moveCore
  repeat' first
    | with_reducible assumption
    | with_reducible first
        | apply kept_setDie
        | apply dieKept_die
        | apply dieKept_putByte
        | apply dieKept_heal
        | apply dieKept_writeSpans
        | apply memKept_clearSpans
        | apply memKept_writeSpans
        | apply dieKept_upd
        | apply memKept_writeN
        | apply memKept_write
        | apply memKept_clear
        | apply memKept_sramMove
        | apply memKept_dram
        | apply memKept_sram
        | exact memKept_nil
    | ((try lift_lets -underBinder); intro x; clear_value (hx : x = _); first
        | refine Kept.cut (s := s0) hx ?_ (fun kx => ?_)
        | refine Kept.cut2 (s := s0) hx ?_ (fun kx => ?_)
        | (have : Mgmt := x; subst hx)
        | clear hx)
    | split
    | (with_reducible first | apply Kept.upd | apply Kept.updM | apply Kept.updT | apply Kept.updTM) <;> with_reducible first | assumption | apply kept_setDie | apply dieKept_die | apply dieKept_putByte | apply dieKept_heal | apply dieKept_writeSpans | apply memKept_clearSpans | apply memKept_writeSpans | apply dieKept_upd | apply memKept_writeN | apply memKept_write | apply memKept_clear | apply memKept_sramMove | apply memKept_dram | apply memKept_sram | exact memKept_nil

theorem kept_copyDrain {s0 : State} (s : State) (p : Nat) (hk : Kept s0 s)  : Kept s0 (State.copyDrain s p) := by
  unfold State.copyDrain
  repeat' first
    | with_reducible assumption
    | ((try lift_lets -underBinder); intro x; clear_value (hx : x = _); first
        | refine Kept.cut (s := s0) hx ?_ (fun kx => ?_)
        | refine Kept.cut2 (s := s0) hx ?_ (fun kx => ?_)
        | (have : Mgmt := x; subst hx)
        | clear hx)
    | split
    | (with_reducible first | apply Kept.upd | apply Kept.updM | apply Kept.updT | apply Kept.updTM) <;> with_reducible first | assumption

theorem kept_migrationDone {s0 : State} (s : State) (p : Nat) (hk : Kept s0 s)  : Kept s0 (State.migrationDone s p) := by
  unfold State.migrationDone
  repeat' first
    | with_reducible assumption
    | with_reducible first
        | apply kept_moveCore
    | ((try lift_lets -underBinder); intro x; clear_value (hx : x = _); first
        | refine Kept.cut (s := s0) hx ?_ (fun kx => ?_)
        | refine Kept.cut2 (s := s0) hx ?_ (fun kx => ?_)
        | (have : Mgmt := x; subst hx)
        | clear hx)
    | split
    | (with_reducible first | apply Kept.upd | apply Kept.updM | apply Kept.updT | apply Kept.updTM) <;> with_reducible first | assumption | apply kept_moveCore

end Sys2Proof.Machine
end

