-- ==== Sys2Proof/Laws/KeptSeq.lean ====
section
/-! SUPPORT. What the operations of Seq.lean keep (Laws/Kept.lean). -/
namespace Sys2Proof.Machine
set_option linter.all false

theorem kept_setCtx {s0 : State} (s : State) (k : Nat) (x : Ctx) (hk : Kept s0 s)  : Kept s0 (State.setCtx s k x) := by
  unfold State.setCtx
  exact Kept.upd hk

theorem kept_markTokens {s0 : State} (s : State) (hk : Kept s0 s)  : Kept s0 (State.markTokens s) := by
  unfold State.markTokens
  exact Kept.upd hk

theorem kept_tokenAdmit {s0 : State} (s : State) (n : Nat) (hk : Kept s0 s)  : Kept s0 (State.tokenAdmit s n) := by
  unfold State.tokenAdmit
  repeat' first
    | with_reducible assumption
    | with_reducible first
        | apply kept_startRun
        | refine kept_leaving (hk := ?_) (e := by assumption) <;> assumption
        | apply kept_setMsg
        | apply kept_setHandle
        | apply kept_arrayQueue
        | apply kept_setCtx
        | apply kept_count
    | ((try lift_lets -underBinder); intro x; clear_value (hx : x = _); first
        | refine Kept.cut (s := s0) hx ?_ (fun kx => ?_)
        | refine Kept.cut2 (s := s0) hx ?_ (fun kx => ?_)
        | (have : Mgmt := x; subst hx)
        | clear hx)
    | split
    | (with_reducible first | apply Kept.upd | apply Kept.updM | apply Kept.updT | apply Kept.updTM) <;> with_reducible first | assumption | apply kept_startRun | refine kept_leaving (hk := ?_) (e := by assumption) <;> assumption | apply kept_setMsg | apply kept_setHandle | apply kept_arrayQueue | apply kept_setCtx | apply kept_count

theorem kept_creditEarn {s0 : State} (s : State) (k : Nat) (hk : Kept s0 s)  : Kept s0 (State.creditEarn s k) := by
  unfold State.creditEarn
  repeat' first
    | with_reducible assumption
    | with_reducible first
        | apply kept_setCtx
    | ((try lift_lets -underBinder); intro x; clear_value (hx : x = _); first
        | refine Kept.cut (s := s0) hx ?_ (fun kx => ?_)
        | refine Kept.cut2 (s := s0) hx ?_ (fun kx => ?_)
        | (have : Mgmt := x; subst hx)
        | clear hx)
    | split
    | (with_reducible first | apply Kept.upd | apply Kept.updM | apply Kept.updT | apply Kept.updTM) <;> with_reducible first | assumption | apply kept_setCtx

theorem kept_capture {s0 : State} (s : State) (k : Nat) (hk : Kept s0 s)  : Kept s0 (State.capture s k) := by
  unfold State.capture
  repeat' first
    | with_reducible assumption
    | with_reducible first
        | apply kept_setCtx
    | ((try lift_lets -underBinder); intro x; clear_value (hx : x = _); first
        | refine Kept.cut (s := s0) hx ?_ (fun kx => ?_)
        | refine Kept.cut2 (s := s0) hx ?_ (fun kx => ?_)
        | (have : Mgmt := x; subst hx)
        | clear hx)
    | split
    | (with_reducible first | apply Kept.upd | apply Kept.updM | apply Kept.updT | apply Kept.updTM) <;> with_reducible first | assumption | apply kept_setCtx

theorem kept_ckptWritten {s0 : State} (s : State) (k : Nat) (hk : Kept s0 s)  : Kept s0 (State.ckptWritten s k) := by
  unfold State.ckptWritten
  repeat' first
    | with_reducible assumption
    | with_reducible first
        | apply kept_promote
        | apply kept_setCtx
    | ((try lift_lets -underBinder); intro x; clear_value (hx : x = _); first
        | refine Kept.cut (s := s0) hx ?_ (fun kx => ?_)
        | refine Kept.cut2 (s := s0) hx ?_ (fun kx => ?_)
        | (have : Mgmt := x; subst hx)
        | clear hx)
    | split
    | (with_reducible first | apply Kept.upd | apply Kept.updM | apply Kept.updT | apply Kept.updTM) <;> with_reducible first | assumption | apply kept_promote | apply kept_setCtx

theorem kept_dropRuns {s0 : State} (s : State) (k : Nat) (x : Ctx) (hk : Kept s0 s)  : Kept s0 (State.dropRuns s k x) := by
  unfold State.dropRuns
  repeat' first
    | with_reducible assumption
    | with_reducible first
        | apply kept_dropTokens
    | ((try lift_lets -underBinder); intro x; clear_value (hx : x = _); first
        | refine Kept.cut (s := s0) hx ?_ (fun kx => ?_)
        | refine Kept.cut2 (s := s0) hx ?_ (fun kx => ?_)
        | (have : Mgmt := x; subst hx)
        | clear hx)
    | with_reducible refine kept_foldl _ _ _ ?_ (fun t a kt => ?_)
    | intro _
    | split
    | (with_reducible first | apply Kept.upd | apply Kept.updM | apply Kept.updT | apply Kept.updTM) <;> with_reducible first | assumption | apply kept_dropTokens

theorem kept_convRollback {s0 : State} (s : State) (c : Nat) (at' : Nat) (hk : Kept s0 s)  : Kept s0 (State.convRollback s c at') := by
  unfold State.convRollback
  repeat' first
    | with_reducible assumption
    | with_reducible first
        | apply kept_setCache
        | apply kept_setConv
    | ((try lift_lets -underBinder); intro x; clear_value (hx : x = _); first
        | refine Kept.cut (s := s0) hx ?_ (fun kx => ?_)
        | refine Kept.cut2 (s := s0) hx ?_ (fun kx => ?_)
        | (have : Mgmt := x; subst hx)
        | clear hx)
    | split
    | (with_reducible first | apply Kept.upd | apply Kept.updM | apply Kept.updT | apply Kept.updTM) <;> with_reducible first | assumption | apply kept_setCache | apply kept_setConv

theorem kept_putBack {s0 : State} (s : State) (n : Nat) (hk : Kept s0 s)  : Kept s0 (State.putBack s n) := by
  unfold State.putBack
  repeat' first
    | with_reducible assumption
    | with_reducible first
        | apply kept_failMsg
        | apply kept_voidReply
        | apply kept_setMsg
    | ((try lift_lets -underBinder); intro x; clear_value (hx : x = _); first
        | refine Kept.cut (s := s0) hx ?_ (fun kx => ?_)
        | refine Kept.cut2 (s := s0) hx ?_ (fun kx => ?_)
        | (have : Mgmt := x; subst hx)
        | clear hx)
    | split
    | (with_reducible first | apply Kept.upd | apply Kept.updM | apply Kept.updT | apply Kept.updTM) <;> with_reducible first | assumption | apply kept_failMsg | apply kept_voidReply | apply kept_setMsg

theorem kept_rollback {s0 : State} (s : State) (k : Nat) (hk : Kept s0 s)  : Kept s0 (State.rollback s k) := by
  unfold State.rollback
  repeat' first
    | with_reducible assumption
    | with_reducible first
        | apply kept_post
        | apply kept_answerRolled
        | apply kept_ctxOver
        | apply kept_settle
        | apply kept_convRollback
        | apply kept_putBack
        | apply kept_dropRuns
        | apply kept_setCtx
        | apply kept_count
    | ((try lift_lets -underBinder); intro x; clear_value (hx : x = _); first
        | refine Kept.cut (s := s0) hx ?_ (fun kx => ?_)
        | refine Kept.cut2 (s := s0) hx ?_ (fun kx => ?_)
        | (have : Mgmt := x; subst hx)
        | clear hx)
    | with_reducible refine kept_foldl _ _ _ ?_ (fun t a kt => ?_)
    | intro _
    | split
    | (with_reducible first | apply Kept.upd | apply Kept.updM | apply Kept.updT | apply Kept.updTM) <;> with_reducible first | assumption | apply kept_post | apply kept_answerRolled | apply kept_ctxOver | apply kept_settle | apply kept_convRollback | apply kept_putBack | apply kept_dropRuns | apply kept_setCtx | apply kept_count

theorem kept_ctxFinal {s0 : State} (s : State) (k : Nat) (hk : Kept s0 s)  : Kept s0 (State.ctxFinal s k) := by
  unfold State.ctxFinal
  repeat' first
    | with_reducible assumption
    | with_reducible first
        | apply kept_answerMsg
        | apply kept_ctxOver
        | apply kept_count
    | ((try lift_lets -underBinder); intro x; clear_value (hx : x = _); first
        | refine Kept.cut (s := s0) hx ?_ (fun kx => ?_)
        | refine Kept.cut2 (s := s0) hx ?_ (fun kx => ?_)
        | (have : Mgmt := x; subst hx)
        | clear hx)
    | with_reducible refine kept_foldl _ _ _ ?_ (fun t a kt => ?_)
    | intro _
    | split
    | (with_reducible first | apply Kept.upd | apply Kept.updM | apply Kept.updT | apply Kept.updTM) <;> with_reducible first | assumption | apply kept_answerMsg | apply kept_ctxOver | apply kept_count

theorem kept_rehome {s0 : State} (s : State) (k : Nat) (x : Ctx) (v : Version) {t : State} (hk : Kept s0 s) (e : State.rehome s k x v = some t) : Kept s0 t := by
  unfold State.rehome at e
  repeat' first | (cases e; done) | split at e
  all_goals simp only [Option.some.injEq, Prod.mk.injEq] at e
  all_goals obtain ⟨-, -, rfl⟩ := e
  all_goals repeat' first
    | with_reducible assumption
    | with_reducible first
        | apply kept_setConv
    | ((try lift_lets -underBinder); intro x; clear_value (hx : x = _); first
        | refine Kept.cut (s := s0) hx ?_ (fun kx => ?_)
        | refine Kept.cut2 (s := s0) hx ?_ (fun kx => ?_)
        | refine Kept.cut3 (s := s0) hx ?_ (fun kx => ?_)
        | refine Kept.cut1 (s := s0) hx ?_ (fun kx => ?_)
        | refine DieKept.cut (s := s0) hx ?_ (fun kx => ?_)
        | (have : Mgmt := x; subst hx)
        | (have : TimeSt := x; subst hx)
        | clear hx)
    | with_reducible refine kept_foldl _ _ _ ?_ (fun t a kt => ?_)
    | with_reducible refine kept_foldl2 _ _ _ ?_ (fun t a kt => ?_)
    | intro _
    | split
    | (with_reducible first | apply Kept.upd | apply Kept.updM | apply Kept.updT | apply Kept.updTM) <;> with_reducible first | assumption | apply kept_setConv

theorem kept_restoreAt {s0 : State} (s : State) (k : Nat) (x : Ctx) (v : Version) (cp : ACopy) (hk : Kept s0 s)  : Kept s0 (State.restoreAt s k x v cp) := by
  unfold State.restoreAt
  repeat' first
    | with_reducible assumption
    | with_reducible first
        | apply kept_putCtxState
        | apply kept_setCtx
    | ((try lift_lets -underBinder); intro x; clear_value (hx : x = _); first
        | refine Kept.cut (s := s0) hx ?_ (fun kx => ?_)
        | refine Kept.cut2 (s := s0) hx ?_ (fun kx => ?_)
        | (have : Mgmt := x; subst hx)
        | clear hx)
    | split
    | (with_reducible first | apply Kept.upd | apply Kept.updM | apply Kept.updT | apply Kept.updTM) <;> with_reducible first | assumption | apply kept_putCtxState | apply kept_setCtx

theorem kept_restoreDone {s0 : State} (s : State) (k : Nat) (readable : Bool) (hk : Kept s0 s)  : Kept s0 (State.restoreDone s k readable) := by
  unfold State.restoreDone
  repeat' first
    | with_reducible assumption
    | with_reducible first
        | apply kept_poolUe
        | refine kept_rehome (hk := ?_) (e := by assumption) <;> assumption
        | apply kept_restoreAt
        | apply kept_ctxFinal
        | apply dieKept_die
        | apply dieKept_putByte
        | apply dieKept_heal
        | apply dieKept_writeSpans
        | apply memKept_clearSpans
        | apply memKept_writeSpans
        | apply dieKept_upd
        | apply memKept_writeN
        | apply memKept_write
        | apply memKept_clear
        | apply memKept_sramMove
        | apply memKept_dram
        | apply memKept_sram
        | exact memKept_nil
    | ((try lift_lets -underBinder); intro x; clear_value (hx : x = _); first
        | refine Kept.cut (s := s0) hx ?_ (fun kx => ?_)
        | refine Kept.cut2 (s := s0) hx ?_ (fun kx => ?_)
        | (have : Mgmt := x; subst hx)
        | clear hx)
    | split
    | (with_reducible first | apply Kept.upd | apply Kept.updM | apply Kept.updT | apply Kept.updTM) <;> with_reducible first | assumption | apply kept_poolUe | refine kept_rehome (hk := ?_) (e := by assumption) <;> assumption | apply kept_restoreAt | apply kept_ctxFinal | apply dieKept_die | apply dieKept_putByte | apply dieKept_heal | apply dieKept_writeSpans | apply memKept_clearSpans | apply memKept_writeSpans | apply dieKept_upd | apply memKept_writeN | apply memKept_write | apply memKept_clear | apply memKept_sramMove | apply memKept_dram | apply memKept_sram | exact memKept_nil

theorem kept_seqFinish {s0 : State} (s : State) (d : List Byte) (status : Nat) (k : Nat) (x : Option Ctx) (hk : Kept s0 s)  : Kept s0 (State.seqFinish s d status k x) := by
  unfold State.seqFinish
  repeat' first
    | with_reducible assumption
    | with_reducible first
        | apply kept_recordWrite
        | apply kept_mboxDone
    | ((try lift_lets -underBinder); intro x; clear_value (hx : x = _); first
        | refine Kept.cut (s := s0) hx ?_ (fun kx => ?_)
        | refine Kept.cut2 (s := s0) hx ?_ (fun kx => ?_)
        | (have : Mgmt := x; subst hx)
        | clear hx)
    | split
    | (with_reducible first | apply Kept.upd | apply Kept.updM | apply Kept.updT | apply Kept.updTM) <;> with_reducible first | assumption | apply kept_recordWrite | apply kept_mboxDone

theorem kept_gstart {s0 : State} (s : State) (i : Nat) (hk : Kept s0 s)  : Kept s0 (State.gstart s i) := by
  unfold State.gstart
  repeat' first
    | with_reducible assumption
    | with_reducible first
        | apply kept_seqFinish
        | apply kept_mirrorHeal
        | refine kept_takeCmd (hk := ?_) (e := by assumption) <;> assumption
        | apply kept_openCtx
    | ((try lift_lets -underBinder); intro x; clear_value (hx : x = _); first
        | refine Kept.cut (s := s0) hx ?_ (fun kx => ?_)
        | refine Kept.cut2 (s := s0) hx ?_ (fun kx => ?_)
        | (have : Mgmt := x; subst hx)
        | clear hx)
    | split
    | (with_reducible first | apply Kept.upd | apply Kept.updM | apply Kept.updT | apply Kept.updTM) <;> with_reducible first | assumption | apply kept_seqFinish | apply kept_mirrorHeal | refine kept_takeCmd (hk := ?_) (e := by assumption) <;> assumption | apply kept_openCtx

theorem kept_genEnd {s0 : State} (s : State) (k : Nat) (hk : Kept s0 s)  : Kept s0 (State.genEnd s k) := by
  unfold State.genEnd
  repeat' first
    | with_reducible assumption
    | with_reducible first
        | apply kept_post
        | apply kept_ctxOver
    | ((try lift_lets -underBinder); intro x; clear_value (hx : x = _); first
        | refine Kept.cut (s := s0) hx ?_ (fun kx => ?_)
        | refine Kept.cut2 (s := s0) hx ?_ (fun kx => ?_)
        | (have : Mgmt := x; subst hx)
        | clear hx)
    | split
    | (with_reducible first | apply Kept.upd | apply Kept.updM | apply Kept.updT | apply Kept.updTM) <;> with_reducible first | assumption | apply kept_post | apply kept_ctxOver

theorem kept_gstop {s0 : State} (s : State) (i : Nat) (hk : Kept s0 s)  : Kept s0 (State.gstop s i) := by
  unfold State.gstop
  repeat' first
    | with_reducible assumption
    | with_reducible first
        | apply kept_seqFinish
        | refine kept_takeCmd (hk := ?_) (e := by assumption) <;> assumption
        | apply kept_genEnd
        | apply kept_setCtx
    | ((try lift_lets -underBinder); intro x; clear_value (hx : x = _); first
        | refine Kept.cut (s := s0) hx ?_ (fun kx => ?_)
        | refine Kept.cut2 (s := s0) hx ?_ (fun kx => ?_)
        | (have : Mgmt := x; subst hx)
        | clear hx)
    | split
    | (with_reducible first | apply Kept.upd | apply Kept.updM | apply Kept.updT | apply Kept.updTM) <;> with_reducible first | assumption | apply kept_seqFinish | refine kept_takeCmd (hk := ?_) (e := by assumption) <;> assumption | apply kept_genEnd | apply kept_setCtx

theorem kept_sclose {s0 : State} (s : State) (i : Nat) (hk : Kept s0 s)  : Kept s0 (State.sclose s i) := by
  unfold State.sclose
  repeat' first
    | with_reducible assumption
    | with_reducible first
        | apply kept_closeCtx
        | apply kept_seqFinish
        | apply kept_answerMsg
        | apply kept_ctxSettle
        | apply kept_settle
        | refine kept_takeCmd (hk := ?_) (e := by assumption) <;> assumption
    | ((try lift_lets -underBinder); intro x; clear_value (hx : x = _); first
        | refine Kept.cut (s := s0) hx ?_ (fun kx => ?_)
        | refine Kept.cut2 (s := s0) hx ?_ (fun kx => ?_)
        | (have : Mgmt := x; subst hx)
        | clear hx)
    | with_reducible refine kept_foldl _ _ _ ?_ (fun t a kt => ?_)
    | intro _
    | split
    | (with_reducible first | apply Kept.upd | apply Kept.updM | apply Kept.updT | apply Kept.updTM) <;> with_reducible first | assumption | apply kept_closeCtx | apply kept_seqFinish | apply kept_answerMsg | apply kept_ctxSettle | apply kept_settle | refine kept_takeCmd (hk := ?_) (e := by assumption) <;> assumption

theorem kept_genStarts {s0 : State} (s : State) (hk : Kept s0 s)  : Kept s0 (State.genStarts s) := by
  unfold State.genStarts
  exact Kept.upd hk

theorem kept_genStep {s0 : State} (s : State) (k : Nat) (hk : Kept s0 s)  : Kept s0 (State.genStep s k) := by
  unfold State.genStep
  repeat' first
    | with_reducible assumption
    | with_reducible first
        | apply kept_post
        | apply kept_startRun
        | apply kept_setCtx
        | apply kept_count
    | ((try lift_lets -underBinder); intro x; clear_value (hx : x = _); first
        | refine Kept.cut (s := s0) hx ?_ (fun kx => ?_)
        | refine Kept.cut2 (s := s0) hx ?_ (fun kx => ?_)
        | (have : Mgmt := x; subst hx)
        | clear hx)
    | split
    | (with_reducible first | apply Kept.upd | apply Kept.updM | apply Kept.updT | apply Kept.updTM) <;> with_reducible first | assumption | apply kept_post | apply kept_startRun | apply kept_setCtx | apply kept_count

theorem kept_genOver {s0 : State} (s : State) (k : Nat) (hk : Kept s0 s)  : Kept s0 (State.genOver s k) := by
  unfold State.genOver
  repeat' first
    | with_reducible assumption
    | with_reducible first
        | apply kept_ctxSettle
        | apply kept_genEnd
    | ((try lift_lets -underBinder); intro x; clear_value (hx : x = _); first
        | refine Kept.cut (s := s0) hx ?_ (fun kx => ?_)
        | refine Kept.cut2 (s := s0) hx ?_ (fun kx => ?_)
        | (have : Mgmt := x; subst hx)
        | clear hx)
    | split
    | (with_reducible first | apply Kept.upd | apply Kept.updM | apply Kept.updT | apply Kept.updTM) <;> with_reducible first | assumption | apply kept_ctxSettle | apply kept_genEnd

theorem kept_genEmit {s0 : State} (s : State) (k : Nat) (hk : Kept s0 s)  : Kept s0 (State.genEmit s k) := by
  unfold State.genEmit
  repeat' first
    | with_reducible assumption
    | with_reducible first
        | apply kept_posGood
        | apply kept_addReply
        | apply kept_setCtx
        | apply kept_genOver
    | ((try lift_lets -underBinder); intro x; clear_value (hx : x = _); first
        | refine Kept.cut (s := s0) hx ?_ (fun kx => ?_)
        | refine Kept.cut2 (s := s0) hx ?_ (fun kx => ?_)
        | (have : Mgmt := x; subst hx)
        | clear hx)
    | split
    | (with_reducible first | apply Kept.upd | apply Kept.updM | apply Kept.updT | apply Kept.updTM) <;> with_reducible first | assumption | apply kept_posGood | apply kept_addReply | apply kept_setCtx | apply kept_genOver

end Sys2Proof.Machine
end

