-- ==== Sys2Proof/Laws/KeptBoomNet.lean ====
section
/-! SUPPORT. What the operations of BoomNet.lean keep (Laws/Kept.lean). -/
namespace Sys2Proof.Machine
set_option linter.all false

theorem kept_hostOut {s0 : State} (s : State) (frame : List Byte) (hk : Kept s0 s)  : Kept s0 (State.hostOut s frame) := by
  unfold State.hostOut
  repeat' first
    | with_reducible assumption
    | with_reducible first
        | apply kept_send3
    | ((try lift_lets -underBinder); intro x; clear_value (hx : x = _); first
        | refine Kept.cut (s := s0) hx ?_ (fun kx => ?_)
        | refine Kept.cut2 (s := s0) hx ?_ (fun kx => ?_)
        | (have : Mgmt := x; subst hx)
        | clear hx)
    | split
    | (with_reducible first | apply Kept.upd | apply Kept.updM | apply Kept.updT | apply Kept.updTM) <;> with_reducible first | assumption | apply kept_send3

theorem kept_setHost {s0 : State} (s : State) (m : Nat) (p : Nat) (x : BoomHost) (hk : Kept s0 s)  : Kept s0 (State.setHost s m p x) := by
  unfold State.setHost
  exact Kept.upd hk

theorem kept_dropHost {s0 : State} (s : State) (m : Nat) (p : Nat) (hk : Kept s0 s)  : Kept s0 (State.dropHost s m p) := by
  unfold State.dropHost
  exact Kept.upd hk

theorem kept_hostSendNow {s0 : State} (s : State) (m : Nat) (p : Nat) (x : BoomHost) (hk : Kept s0 s)  : Kept s0 (State.hostSendNow s m p x) := by
  unfold State.hostSendNow
  repeat' first
    | with_reducible assumption
    | with_reducible first
        | apply kept_setHost
        | apply kept_hostOut
    | ((try lift_lets -underBinder); intro x; clear_value (hx : x = _); first
        | refine Kept.cut (s := s0) hx ?_ (fun kx => ?_)
        | refine Kept.cut2 (s := s0) hx ?_ (fun kx => ?_)
        | (have : Mgmt := x; subst hx)
        | clear hx)
    | split
    | (with_reducible first | apply Kept.upd | apply Kept.updM | apply Kept.updT | apply Kept.updTM) <;> with_reducible first | assumption | apply kept_setHost | apply kept_hostOut

theorem kept_hostSend {s0 : State} (s : State) (m : Nat) (op : Nat) (epoch : Nat) (hop : Option Nat) (mk : Nat → List Byte) (hk : Kept s0 s)  : Kept s0 (State.hostSend s m op epoch hop mk).2 := by
  unfold State.hostSend
  repeat' first
    | with_reducible assumption
    | with_reducible first
        | apply kept_setHost
        | apply kept_hostSendNow
    | ((try lift_lets -underBinder); intro x; clear_value (hx : x = _); first
        | refine Kept.cut (s := s0) hx ?_ (fun kx => ?_)
        | refine Kept.cut2 (s := s0) hx ?_ (fun kx => ?_)
        | (have : Mgmt := x; subst hx)
        | clear hx)
    | split
    | (with_reducible first | apply Kept.upd | apply Kept.updM | apply Kept.updT | apply Kept.updTM) <;> with_reducible first | assumption | apply kept_setHost | apply kept_hostSendNow

theorem kept_hopNext {s0 : State} (s : State) (op : Nat) (hop : Option Nat) (hk : Kept s0 s)  : Kept s0 (State.hopNext s op hop) := by
  unfold State.hopNext
  repeat' first
    | with_reducible assumption
    | with_reducible first
        | apply kept_hostSendNow
    | ((try lift_lets -underBinder); intro x; clear_value (hx : x = _); first
        | refine Kept.cut (s := s0) hx ?_ (fun kx => ?_)
        | refine Kept.cut2 (s := s0) hx ?_ (fun kx => ?_)
        | (have : Mgmt := x; subst hx)
        | clear hx)
    | split
    | (with_reducible first | apply Kept.upd | apply Kept.updM | apply Kept.updT | apply Kept.updTM) <;> with_reducible first | assumption | apply kept_hostSendNow

theorem kept_nbrSend {s0 : State} (s : State) (l : Nat) (req : List Byte) (hk : Kept s0 s)  : Kept s0 (State.nbrSend s l req) := by
  unfold State.nbrSend
  exact kept_portSend (hk := hk) ..

theorem kept_sendHop {s0 : State} (s : State) (op : Nat) (f : BoomSent) (a : Nat) (dn : Bool) (hk : Kept s0 s)  : Kept s0 (State.sendHop s op f a dn) := by
  unfold State.sendHop
  repeat' first
    | with_reducible assumption
    | with_reducible first
        | apply kept_hostSend
        | apply kept_nbrSend
    | ((try lift_lets -underBinder); intro x; clear_value (hx : x = _); first
        | refine Kept.cut (s := s0) hx ?_ (fun kx => ?_)
        | refine Kept.cut2 (s := s0) hx ?_ (fun kx => ?_)
        | (have : Mgmt := x; subst hx)
        | clear hx)
    | split
    | (with_reducible first | apply Kept.upd | apply Kept.updM | apply Kept.updT | apply Kept.updTM) <;> with_reducible first | assumption | apply kept_hostSend | apply kept_nbrSend

theorem kept_sendAll {s0 : State} (s : State) (op : Nat) (l : List BoomSend) (hk : Kept s0 s)  : Kept s0 (State.sendAll s op l) := by
  unfold State.sendAll
  repeat' first
    | with_reducible assumption
    | with_reducible first
        | apply kept_sendHop
    | ((try lift_lets -underBinder); intro x; clear_value (hx : x = _); first
        | refine Kept.cut (s := s0) hx ?_ (fun kx => ?_)
        | refine Kept.cut2 (s := s0) hx ?_ (fun kx => ?_)
        | (have : Mgmt := x; subst hx)
        | clear hx)
    | with_reducible refine kept_foldl _ _ _ ?_ (fun t a kt => ?_)
    | intro _
    | split
    | (with_reducible first | apply Kept.upd | apply Kept.updM | apply Kept.updT | apply Kept.updTM) <;> with_reducible first | assumption | apply kept_sendHop

theorem kept_hostMsg {s0 : State} (s : State) (op : Nat) (m : Nat) (kind : Nat) (cause : Nat) (body : List Byte) (hk : Kept s0 s)  : Kept s0 (State.hostMsg s op m kind cause body).2 := by
  unfold State.hostMsg
  repeat' first
    | with_reducible assumption
    | with_reducible first
        | apply kept_hostSend
    | ((try lift_lets -underBinder); intro x; clear_value (hx : x = _); first
        | refine Kept.cut (s := s0) hx ?_ (fun kx => ?_)
        | refine Kept.cut2 (s := s0) hx ?_ (fun kx => ?_)
        | (have : Mgmt := x; subst hx)
        | clear hx)
    | split
    | (with_reducible first | apply Kept.upd | apply Kept.updM | apply Kept.updT | apply Kept.updTM) <;> with_reducible first | assumption | apply kept_hostSend

theorem kept_boomEnd {s0 : State} (s : State) (n : Nat) (hk : Kept s0 s)  : Kept s0 (State.boomEnd s n) := by
  unfold State.boomEnd
  repeat' first
    | with_reducible assumption
    | with_reducible first
        | apply kept_failMsg
        | apply kept_gc
        | apply kept_decideTo
    | ((try lift_lets -underBinder); intro x; clear_value (hx : x = _); first
        | refine Kept.cut (s := s0) hx ?_ (fun kx => ?_)
        | refine Kept.cut2 (s := s0) hx ?_ (fun kx => ?_)
        | (have : Mgmt := x; subst hx)
        | clear hx)
    | split
    | (with_reducible first | apply Kept.upd | apply Kept.updM | apply Kept.updT | apply Kept.updTM) <;> with_reducible first | assumption | apply kept_failMsg | apply kept_gc | apply kept_decideTo

theorem kept_ctlBack {s0 : State} (s : State) (m : Msg) (f : BoomIn) (kind : Nat) (hk : Kept s0 s)  : Kept s0 (State.ctlBack s m f kind) := by
  unfold State.ctlBack
  repeat' first
    | with_reducible assumption
    | with_reducible first
        | apply kept_nbrSend
        | apply kept_hostOut
    | ((try lift_lets -underBinder); intro x; clear_value (hx : x = _); first
        | refine Kept.cut (s := s0) hx ?_ (fun kx => ?_)
        | refine Kept.cut2 (s := s0) hx ?_ (fun kx => ?_)
        | (have : Mgmt := x; subst hx)
        | clear hx)
    | split
    | (with_reducible first | apply Kept.upd | apply Kept.updM | apply Kept.updT | apply Kept.updTM) <;> with_reducible first | assumption | apply kept_nbrSend | apply kept_hostOut

end Sys2Proof.Machine
end

