-- ==== Sys2Proof/Laws/KeptBoom.lean ====
section
/-! SUPPORT. What the operations of Boom.lean keep (Laws/Kept.lean). -/
namespace Sys2Proof.Machine
set_option linter.all false

theorem kept_setEpoch {s0 : State} (s : State) (op : Nat) (e : BoomEpoch) (hk : Kept s0 s)  : Kept s0 (State.setEpoch s op e) := by
  unfold State.setEpoch
  exact Kept.upd hk

theorem kept_boomOpen {s0 : State} (s : State) (org : Origin) (op : Nat) (ep : Nat) {t : State} (hk : Kept s0 s) (e : State.boomOpen s org op ep = some t) : Kept s0 t := by
  unfold State.boomOpen at e
  dsimp only at e
  repeat' first | (cases e; done) | split at e
  all_goals cases e
  all_goals repeat' first
    | with_reducible assumption
    | ((try lift_lets -underBinder); intro x; clear_value (hx : x = _); first
        | refine Kept.cut (s := s0) hx ?_ (fun kx => ?_)
        | refine Kept.cut2 (s := s0) hx ?_ (fun kx => ?_)
        | refine Kept.cut3 (s := s0) hx ?_ (fun kx => ?_)
        | refine Kept.cut1 (s := s0) hx ?_ (fun kx => ?_)
        | refine DieKept.cut (s := s0) hx ?_ (fun kx => ?_)
        | (have : Mgmt := x; subst hx)
        | (have : TimeSt := x; subst hx)
        | clear hx)
    | with_reducible refine kept_foldl _ _ _ ?_ (fun t a kt => ?_)
    | with_reducible refine kept_foldl2 _ _ _ ?_ (fun t a kt => ?_)
    | intro _
    | split
    | (with_reducible first | apply Kept.upd | apply Kept.updM | apply Kept.updT | apply Kept.updTM) <;> with_reducible first | assumption

theorem kept_boomReply {s0 : State} (s : State) (n : Nat) (status : Nat) (res : List Byte) (nan : Bool) (sat : Bool) (hk : Kept s0 s)  : Kept s0 (State.boomReply s n status res nan sat) := by
  unfold State.boomReply
  repeat' first
    | with_reducible assumption
    | with_reducible first
        | apply kept_decideResult
    | ((try lift_lets -underBinder); intro x; clear_value (hx : x = _); first
        | refine Kept.cut (s := s0) hx ?_ (fun kx => ?_)
        | refine Kept.cut2 (s := s0) hx ?_ (fun kx => ?_)
        | (have : Mgmt := x; subst hx)
        | clear hx)
    | split
    | (with_reducible first | apply Kept.upd | apply Kept.updM | apply Kept.updT | apply Kept.updTM) <;> with_reducible first | assumption | apply kept_decideResult

theorem kept_boomSend {s0 : State} (s : State) (org : Origin) (fcs : Nat) (status : Nat) (res : List Byte) (nan : Bool) (sat : Bool) (hk : Kept s0 s)  : Kept s0 (State.boomSend s org fcs status res nan sat) := by
  unfold State.boomSend
  repeat' first
    | with_reducible assumption
    | with_reducible first
        | apply kept_addReply
    | ((try lift_lets -underBinder); intro x; clear_value (hx : x = _); first
        | refine Kept.cut (s := s0) hx ?_ (fun kx => ?_)
        | refine Kept.cut2 (s := s0) hx ?_ (fun kx => ?_)
        | (have : Mgmt := x; subst hx)
        | clear hx)
    | split
    | (with_reducible first | apply Kept.upd | apply Kept.updM | apply Kept.updT | apply Kept.updTM) <;> with_reducible first | assumption | apply kept_addReply

theorem kept_boomDeliver {s0 : State} (s : State) (op : Nat) (e : BoomEpoch) (o : BoomOut) (hk : Kept s0 s)  : Kept s0 (State.boomDeliver s op e o) := by
  unfold State.boomDeliver
  repeat' first
    | with_reducible assumption
    | with_reducible first
        | apply kept_boomSend
    | ((try lift_lets -underBinder); intro x; clear_value (hx : x = _); first
        | refine Kept.cut (s := s0) hx ?_ (fun kx => ?_)
        | refine Kept.cut2 (s := s0) hx ?_ (fun kx => ?_)
        | (have : Mgmt := x; subst hx)
        | clear hx)
    | with_reducible refine kept_foldl _ _ _ ?_ (fun t a kt => ?_)
    | intro _
    | split
    | (with_reducible first | apply Kept.upd | apply Kept.updM | apply Kept.updT | apply Kept.updTM) <;> with_reducible first | assumption | apply kept_boomSend

theorem kept_boomApply {s0 : State} (s : State) (op : Nat) (o : BoomOut) (hk : Kept s0 s)  : Kept s0 (State.boomApply s op o) := by
  unfold State.boomApply
  repeat' first
    | with_reducible assumption
    | with_reducible first
        | apply kept_setEpoch
        | apply kept_count
        | apply kept_boomDeliver
    | ((try lift_lets -underBinder); intro x; clear_value (hx : x = _); first
        | refine Kept.cut (s := s0) hx ?_ (fun kx => ?_)
        | refine Kept.cut2 (s := s0) hx ?_ (fun kx => ?_)
        | (have : Mgmt := x; subst hx)
        | clear hx)
    | split
    | (with_reducible first | apply Kept.upd | apply Kept.updM | apply Kept.updT | apply Kept.updTM) <;> with_reducible first | assumption | apply kept_setEpoch | apply kept_count | apply kept_boomDeliver

theorem kept_sendDecide {s0 : State} (s : State) (op : Nat) (m : Nat) (o : BoomOut) (hk : Kept s0 s)  : Kept s0 (State.sendDecide s op m o).2 := by
  unfold State.sendDecide
  repeat' first
    | with_reducible assumption
    | with_reducible first
        | apply kept_hostMsg
    | ((try lift_lets -underBinder); intro x; clear_value (hx : x = _); first
        | refine Kept.cut (s := s0) hx ?_ (fun kx => ?_)
        | refine Kept.cut2 (s := s0) hx ?_ (fun kx => ?_)
        | (have : Mgmt := x; subst hx)
        | clear hx)
    | split
    | (with_reducible first | apply Kept.upd | apply Kept.updM | apply Kept.updT | apply Kept.updTM) <;> with_reducible first | assumption | apply kept_hostMsg

theorem kept_decideFirst {s0 : State} (s : State) (op : Nat) (o : BoomOut) (hk : Kept s0 s)  : Kept s0 (State.decideFirst s op o) := by
  unfold State.decideFirst
  repeat' first
    | with_reducible assumption
    | with_reducible first
        | apply kept_setEpoch
        | apply kept_boomApply
        | apply kept_sendDecide
    | ((try lift_lets -underBinder); intro x; clear_value (hx : x = _); first
        | refine Kept.cut (s := s0) hx ?_ (fun kx => ?_)
        | refine Kept.cut2 (s := s0) hx ?_ (fun kx => ?_)
        | (have : Mgmt := x; subst hx)
        | clear hx)
    | split
    | (with_reducible first | apply Kept.upd | apply Kept.updM | apply Kept.updT | apply Kept.updTM) <;> with_reducible first | assumption | apply kept_setEpoch | apply kept_boomApply | apply kept_sendDecide

theorem kept_decideRest {s0 : State} (s : State) (op : Nat) (first : Nat) (hk : Kept s0 s)  : Kept s0 (State.decideRest s op first) := by
  unfold State.decideRest
  repeat' first
    | with_reducible assumption
    | with_reducible first
        | apply kept_setEpoch
        | apply kept_boomApply
        | apply kept_sendDecide
    | ((try lift_lets -underBinder); intro x; clear_value (hx : x = _); first
        | refine Kept.cut (s := s0) hx ?_ (fun kx => ?_)
        | refine Kept.cut2 (s := s0) hx ?_ (fun kx => ?_)
        | (have : Mgmt := x; subst hx)
        | clear hx)
    | with_reducible refine kept_foldl _ _ _ ?_ (fun t a kt => ?_)
    | intro _
    | split
    | (with_reducible first | apply Kept.upd | apply Kept.updM | apply Kept.updT | apply Kept.updTM) <;> with_reducible first | assumption | apply kept_setEpoch | apply kept_boomApply | apply kept_sendDecide

theorem kept_boomDecide {s0 : State} (s : State) (op : Nat) (ok : Bool) (cause : Nat) (hk : Kept s0 s)  : Kept s0 (State.boomDecide s op ok cause) := by
  unfold State.boomDecide
  repeat' first
    | with_reducible assumption
    | with_reducible first
        | apply kept_decideFirst
    | ((try lift_lets -underBinder); intro x; clear_value (hx : x = _); first
        | refine Kept.cut (s := s0) hx ?_ (fun kx => ?_)
        | refine Kept.cut2 (s := s0) hx ?_ (fun kx => ?_)
        | (have : Mgmt := x; subst hx)
        | clear hx)
    | split
    | (with_reducible first | apply Kept.upd | apply Kept.updM | apply Kept.updT | apply Kept.updTM) <;> with_reducible first | assumption | apply kept_decideFirst

theorem kept_tryDecide {s0 : State} (s : State) (op : Nat) (hk : Kept s0 s)  : Kept s0 (State.tryDecide s op) := by
  unfold State.tryDecide
  repeat' first
    | with_reducible assumption
    | with_reducible first
        | apply kept_boomDecide
    | ((try lift_lets -underBinder); intro x; clear_value (hx : x = _); first
        | refine Kept.cut (s := s0) hx ?_ (fun kx => ?_)
        | refine Kept.cut2 (s := s0) hx ?_ (fun kx => ?_)
        | (have : Mgmt := x; subst hx)
        | clear hx)
    | split
    | (with_reducible first | apply Kept.upd | apply Kept.updM | apply Kept.updT | apply Kept.updTM) <;> with_reducible first | assumption | apply kept_boomDecide

theorem kept_coordAbort {s0 : State} (s : State) (op : Nat) (cause : Nat) (missing : List Nat) (fl : optParam Nat 0) (hk : Kept s0 s)  : Kept s0 (State.coordAbort s op cause missing fl) := by
  unfold State.coordAbort
  repeat' first
    | with_reducible assumption
    | with_reducible first
        | apply kept_setEpoch
        | apply kept_boomDecide
    | ((try lift_lets -underBinder); intro x; clear_value (hx : x = _); first
        | refine Kept.cut (s := s0) hx ?_ (fun kx => ?_)
        | refine Kept.cut2 (s := s0) hx ?_ (fun kx => ?_)
        | (have : Mgmt := x; subst hx)
        | clear hx)
    | with_reducible refine kept_foldl _ _ _ ?_ (fun t a kt => ?_)
    | intro _
    | split
    | (with_reducible first | apply Kept.upd | apply Kept.updM | apply Kept.updT | apply Kept.updTM) <;> with_reducible first | assumption | apply kept_setEpoch | apply kept_boomDecide

theorem kept_boomAbort {s0 : State} (s : State) (op : Nat) (cause : Nat) (missing : List Nat) (hk : Kept s0 s)  : Kept s0 (State.boomAbort s op cause missing) := by
  unfold State.boomAbort
  repeat' first
    | with_reducible assumption
    | with_reducible first
        | apply kept_hostMsg
        | apply kept_coordAbort
    | ((try lift_lets -underBinder); intro x; clear_value (hx : x = _); first
        | refine Kept.cut (s := s0) hx ?_ (fun kx => ?_)
        | refine Kept.cut2 (s := s0) hx ?_ (fun kx => ?_)
        | (have : Mgmt := x; subst hx)
        | clear hx)
    | split
    | (with_reducible first | apply Kept.upd | apply Kept.updM | apply Kept.updT | apply Kept.updTM) <;> with_reducible first | assumption | apply kept_hostMsg | apply kept_coordAbort

theorem kept_boomHave {s0 : State} (s : State) (op : Nat) (hk : Kept s0 s)  : Kept s0 (State.boomHave s op) := by
  unfold State.boomHave
  repeat' first
    | with_reducible assumption
    | with_reducible first
        | apply kept_hostMsg
        | apply kept_setEpoch
        | apply kept_tryDecide
    | ((try lift_lets -underBinder); intro x; clear_value (hx : x = _); first
        | refine Kept.cut (s := s0) hx ?_ (fun kx => ?_)
        | refine Kept.cut2 (s := s0) hx ?_ (fun kx => ?_)
        | (have : Mgmt := x; subst hx)
        | clear hx)
    | with_reducible refine kept_foldl _ _ _ ?_ (fun t a kt => ?_)
    | intro _
    | split
    | (with_reducible first | apply Kept.upd | apply Kept.updM | apply Kept.updT | apply Kept.updTM) <;> with_reducible first | assumption | apply kept_hostMsg | apply kept_setEpoch | apply kept_tryDecide

theorem kept_boomWork {s0 : State} (s : State) (op : Nat) (r : BoomEpoch × List BoomSend) (hk : Kept s0 s)  : Kept s0 (State.boomWork s op r) := by
  unfold State.boomWork
  repeat' first
    | with_reducible assumption
    | with_reducible first
        | apply kept_setEpoch
        | apply kept_boomHave
        | apply kept_sendAll
    | ((try lift_lets -underBinder); intro x; clear_value (hx : x = _); first
        | refine Kept.cut (s := s0) hx ?_ (fun kx => ?_)
        | refine Kept.cut2 (s := s0) hx ?_ (fun kx => ?_)
        | (have : Mgmt := x; subst hx)
        | clear hx)
    | split
    | (with_reducible first | apply Kept.upd | apply Kept.updM | apply Kept.updT | apply Kept.updTM) <;> with_reducible first | assumption | apply kept_setEpoch | apply kept_boomHave | apply kept_sendAll

theorem kept_boomBusy {s0 : State} (s : State) (n : Nat) (m : Msg) (f : BoomIn) (hk : Kept s0 s)  : Kept s0 (State.boomBusy s n m f) := by
  unfold State.boomBusy
  repeat' first
    | with_reducible assumption
    | with_reducible first
        | apply kept_ctlBack
        | apply kept_boomEnd
        | apply kept_count
        | apply kept_busyMsg
    | ((try lift_lets -underBinder); intro x; clear_value (hx : x = _); first
        | refine Kept.cut (s := s0) hx ?_ (fun kx => ?_)
        | refine Kept.cut2 (s := s0) hx ?_ (fun kx => ?_)
        | (have : Mgmt := x; subst hx)
        | clear hx)
    | split
    | (with_reducible first | apply Kept.upd | apply Kept.updM | apply Kept.updT | apply Kept.updTM) <;> with_reducible first | assumption | apply kept_ctlBack | apply kept_boomEnd | apply kept_count | apply kept_busyMsg

theorem kept_boomStale {s0 : State} (s : State) (n : Nat) (f : BoomIn) (status : Nat) (hk : Kept s0 s)  : Kept s0 (State.boomStale s n f status) := by
  unfold State.boomStale
  repeat' first
    | with_reducible assumption
    | with_reducible first
        | apply kept_answerMsg
        | apply kept_count
    | ((try lift_lets -underBinder); intro x; clear_value (hx : x = _); first
        | refine Kept.cut (s := s0) hx ?_ (fun kx => ?_)
        | refine Kept.cut2 (s := s0) hx ?_ (fun kx => ?_)
        | (have : Mgmt := x; subst hx)
        | clear hx)
    | split
    | (with_reducible first | apply Kept.upd | apply Kept.updM | apply Kept.updT | apply Kept.updTM) <;> with_reducible first | assumption | apply kept_answerMsg | apply kept_count

theorem kept_boomTake {s0 : State} (s : State) (n : Nat) (m : Msg) (f : BoomIn) (use : State → BoomEpoch → State) (late : State → BoomEpoch → State) (hk : Kept s0 s) (huse : ∀ t0 t1, Kept s0 t0 → Kept s0 (use t0 t1)) (hlate : ∀ t0 t1, Kept s0 t0 → Kept s0 (late t0 t1)) : Kept s0 (State.boomTake s n m f use late).1 := by
  unfold State.boomTake
  repeat' first
    | with_reducible assumption
    | with_reducible first
        | apply kept_boomStale
        | apply kept_answerMsg
        | apply kept_boomBusy
        | refine kept_boomOpen (hk := ?_) (e := by assumption) <;> assumption
        | apply kept_count
        | apply huse
        | apply hlate
    | ((try lift_lets -underBinder); intro x; clear_value (hx : x = _); first
        | refine Kept.cut (s := s0) hx ?_ (fun kx => ?_)
        | refine Kept.cut2 (s := s0) hx ?_ (fun kx => ?_)
        | (have : Mgmt := x; subst hx)
        | clear hx)
    | split
    | (with_reducible first | apply Kept.upd | apply Kept.updM | apply Kept.updT | apply Kept.updTM) <;> with_reducible first | assumption | apply kept_boomStale | apply kept_answerMsg | apply kept_boomBusy | refine kept_boomOpen (hk := ?_) (e := by assumption) <;> assumption | apply kept_count | apply huse | apply hlate

theorem kept_boomLocal {s0 : State} (s : State) (n : Nat) (kinds : Nat → Bool) (use : State → Msg → BoomIn → BoomEpoch → State) (hk : Kept s0 s) (huse : ∀ t0 t1 t2 t3, Kept s0 t0 → Kept s0 (use t0 t1 t2 t3)) : Kept s0 (State.boomLocal s n kinds use) := by
  unfold State.boomLocal
  repeat' first
    | with_reducible assumption
    | with_reducible first
        | apply kept_boomTake
        | apply kept_boomReply
        | apply kept_settle
        | apply huse
    | split
    | ((try lift_lets -underBinder); intro x; clear_value (hx : x = _); first
        | refine Kept.cut (s := s0) hx ?_ (fun kx => ?_)
        | refine Kept.cut2 (s := s0) hx ?_ (fun kx => ?_)
        | refine Kept.cut3 (s := s0) hx ?_ (fun kx => ?_)
        | refine Kept.cut1 (s := s0) hx ?_ (fun kx => ?_)
        | refine DieKept.cut (s := s0) hx ?_ (fun kx => ?_)
        | (have : Mgmt := x; subst hx)
        | (have : TimeSt := x; subst hx)
        | clear hx)
    | with_reducible refine kept_foldl _ _ _ ?_ (fun t a kt => ?_)
    | with_reducible refine kept_foldl2 _ _ _ ?_ (fun t a kt => ?_)
    | intro _
    | (with_reducible first | apply Kept.upd | apply Kept.updM | apply Kept.updT | apply Kept.updTM) <;> with_reducible first | assumption | apply kept_boomTake | apply kept_boomReply | apply kept_settle | apply huse

theorem kept_boomPeer {s0 : State} (s : State) (n : Nat) (kind : Nat) (use : State → Msg → BoomIn → BoomEpoch → State) (hk : Kept s0 s) (huse : ∀ t0 t1 t2 t3, Kept s0 t0 → Kept s0 (use t0 t1 t2 t3)) : Kept s0 (State.boomPeer s n kind use) := by
  unfold State.boomPeer
  repeat' first
    | with_reducible assumption
    | with_reducible first
        | apply kept_ctlBack
        | apply kept_boomTake
        | apply kept_settle
        | apply kept_boomEnd
        | apply huse
    | ((try lift_lets -underBinder); intro x; clear_value (hx : x = _); first
        | refine Kept.cut (s := s0) hx ?_ (fun kx => ?_)
        | refine Kept.cut2 (s := s0) hx ?_ (fun kx => ?_)
        | refine Kept.cut3 (s := s0) hx ?_ (fun kx => ?_)
        | refine Kept.cut1 (s := s0) hx ?_ (fun kx => ?_)
        | refine DieKept.cut (s := s0) hx ?_ (fun kx => ?_)
        | (have : Mgmt := x; subst hx)
        | (have : TimeSt := x; subst hx)
        | clear hx)
    | with_reducible refine kept_foldl _ _ _ ?_ (fun t a kt => ?_)
    | with_reducible refine kept_foldl2 _ _ _ ?_ (fun t a kt => ?_)
    | intro _
    | split
    | (with_reducible first | apply Kept.upd | apply Kept.updM | apply Kept.updT | apply Kept.updTM) <;> with_reducible first | assumption | apply kept_ctlBack | apply kept_boomTake | apply kept_settle | apply kept_boomEnd | apply huse

theorem kept_boomCheck {s0 : State} (s : State) (n : Nat) (f : BoomIn) (e : BoomEpoch) (bad : Bool) (ranks : List Nat) (ok : State → State) (hk : Kept s0 s) (hok : ∀ t0, Kept s0 t0 → Kept s0 (ok t0)) : Kept s0 (State.boomCheck s n f e bad ranks ok) := by
  unfold State.boomCheck
  repeat' first
    | with_reducible assumption
    | with_reducible first
        | apply kept_boomAbort
        | apply kept_answerMsg
        | apply hok
    | ((try lift_lets -underBinder); intro x; clear_value (hx : x = _); first
        | refine Kept.cut (s := s0) hx ?_ (fun kx => ?_)
        | refine Kept.cut2 (s := s0) hx ?_ (fun kx => ?_)
        | (have : Mgmt := x; subst hx)
        | clear hx)
    | split
    | (with_reducible first | apply Kept.upd | apply Kept.updM | apply Kept.updT | apply Kept.updTM) <;> with_reducible first | assumption | apply kept_boomAbort | apply kept_answerMsg | apply hok

theorem kept_dataUse {s0 : State} (n : Nat) (s : State) (m : Msg) (f : BoomIn) (e : BoomEpoch) (hk : Kept s0 s)  : Kept s0 (dataUse n s m f e) := by
  unfold dataUse
  repeat' first
    | with_reducible assumption
    | with_reducible first
        | apply kept_boomReply
        | apply kept_boomCheck
        | apply kept_countN
        | apply kept_boomWork
    | ((try lift_lets -underBinder); intro x; clear_value (hx : x = _); first
        | refine Kept.cut (s := s0) hx ?_ (fun kx => ?_)
        | refine Kept.cut2 (s := s0) hx ?_ (fun kx => ?_)
        | refine Kept.cut3 (s := s0) hx ?_ (fun kx => ?_)
        | refine Kept.cut1 (s := s0) hx ?_ (fun kx => ?_)
        | refine DieKept.cut (s := s0) hx ?_ (fun kx => ?_)
        | (have : Mgmt := x; subst hx)
        | (have : TimeSt := x; subst hx)
        | clear hx)
    | with_reducible refine kept_foldl _ _ _ ?_ (fun t a kt => ?_)
    | with_reducible refine kept_foldl2 _ _ _ ?_ (fun t a kt => ?_)
    | intro _
    | split
    | (with_reducible first | apply Kept.upd | apply Kept.updM | apply Kept.updT | apply Kept.updTM) <;> with_reducible first | assumption | apply kept_boomReply | apply kept_boomCheck | apply kept_countN | apply kept_boomWork

theorem kept_boomData {s0 : State} (s : State) (n : Nat) (hk : Kept s0 s)  : Kept s0 (State.boomData s n) := by
  unfold State.boomData
  repeat' first
    | with_reducible assumption
    | with_reducible first
        | apply kept_dataUse
        | apply kept_answerMsg
        | apply kept_settle
        | apply kept_boomLocal
    | ((try lift_lets -underBinder); intro x; clear_value (hx : x = _); first
        | refine Kept.cut (s := s0) hx ?_ (fun kx => ?_)
        | refine Kept.cut2 (s := s0) hx ?_ (fun kx => ?_)
        | (have : Mgmt := x; subst hx)
        | clear hx)
    | split
    | (with_reducible first | apply Kept.upd | apply Kept.updM | apply Kept.updT | apply Kept.updTM) <;> with_reducible first | assumption | apply kept_dataUse | apply kept_answerMsg | apply kept_settle | apply kept_boomLocal

theorem kept_abandonUse {s0 : State} (n : Nat) (s : State) (m : Msg) (f : BoomIn) (e : BoomEpoch) (hk : Kept s0 s)  : Kept s0 (abandonUse n s m f e) := by
  unfold abandonUse
  repeat' first
    | with_reducible assumption
    | with_reducible first
        | apply kept_boomReply
        | apply kept_boomCheck
        | apply kept_boomAbort
        | apply kept_setEpoch
    | ((try lift_lets -underBinder); intro x; clear_value (hx : x = _); first
        | refine Kept.cut (s := s0) hx ?_ (fun kx => ?_)
        | refine Kept.cut2 (s := s0) hx ?_ (fun kx => ?_)
        | refine Kept.cut3 (s := s0) hx ?_ (fun kx => ?_)
        | refine Kept.cut1 (s := s0) hx ?_ (fun kx => ?_)
        | refine DieKept.cut (s := s0) hx ?_ (fun kx => ?_)
        | (have : Mgmt := x; subst hx)
        | (have : TimeSt := x; subst hx)
        | clear hx)
    | with_reducible refine kept_foldl _ _ _ ?_ (fun t a kt => ?_)
    | with_reducible refine kept_foldl2 _ _ _ ?_ (fun t a kt => ?_)
    | intro _
    | split
    | (with_reducible first | apply Kept.upd | apply Kept.updM | apply Kept.updT | apply Kept.updTM) <;> with_reducible first | assumption | apply kept_boomReply | apply kept_boomCheck | apply kept_boomAbort | apply kept_setEpoch

theorem kept_queryDecided {s0 : State} (s : State) (n : Nat) (m : Msg) (f : BoomIn) (e : BoomEpoch) (o : BoomOut) (hk : Kept s0 s)  : Kept s0 (State.queryDecided s n m f e o) := by
  unfold State.queryDecided
  repeat' first
    | with_reducible assumption
    | with_reducible first
        | apply kept_boomReply
        | apply kept_boomSend
    | ((try lift_lets -underBinder); intro x; clear_value (hx : x = _); first
        | refine Kept.cut (s := s0) hx ?_ (fun kx => ?_)
        | refine Kept.cut2 (s := s0) hx ?_ (fun kx => ?_)
        | (have : Mgmt := x; subst hx)
        | clear hx)
    | with_reducible refine kept_foldl _ _ _ ?_ (fun t a kt => ?_)
    | intro _
    | split
    | (with_reducible first | apply Kept.upd | apply Kept.updM | apply Kept.updT | apply Kept.updTM) <;> with_reducible first | assumption | apply kept_boomReply | apply kept_boomSend

theorem kept_queryPending {s0 : State} (s : State) (n : Nat) (f : BoomIn) (hk : Kept s0 s)  : Kept s0 (State.queryPending s n f) := by
  unfold State.queryPending
  exact kept_boomReply (hk := hk) ..

theorem kept_queryEpoch {s0 : State} (s : State) (n : Nat) (m : Msg) (f : BoomIn) (hk : Kept s0 s)  : Kept s0 (State.queryEpoch s n m f) := by
  unfold State.queryEpoch
  repeat' first
    | with_reducible assumption
    | with_reducible first
        | apply kept_boomStale
        | apply kept_boomReply
        | apply kept_queryDecided
        | apply kept_boomBusy
        | refine kept_boomOpen (hk := ?_) (e := by assumption) <;> assumption
        | apply kept_queryPending
    | ((try lift_lets -underBinder); intro x; clear_value (hx : x = _); first
        | refine Kept.cut (s := s0) hx ?_ (fun kx => ?_)
        | refine Kept.cut2 (s := s0) hx ?_ (fun kx => ?_)
        | (have : Mgmt := x; subst hx)
        | clear hx)
    | split
    | (with_reducible first | apply Kept.upd | apply Kept.updM | apply Kept.updT | apply Kept.updTM) <;> with_reducible first | assumption | apply kept_boomStale | apply kept_boomReply | apply kept_queryDecided | apply kept_boomBusy | refine kept_boomOpen (hk := ?_) (e := by assumption) <;> assumption | apply kept_queryPending

theorem kept_boomQuery {s0 : State} (s : State) (n : Nat) (hk : Kept s0 s)  : Kept s0 (State.boomQuery s n) := by
  unfold State.boomQuery
  repeat' first
    | with_reducible assumption
    | with_reducible first
        | apply kept_boomAbort
        | apply kept_answerMsg
        | apply kept_settle
        | apply kept_queryEpoch
        | apply kept_count
    | ((try lift_lets -underBinder); intro x; clear_value (hx : x = _); first
        | refine Kept.cut (s := s0) hx ?_ (fun kx => ?_)
        | refine Kept.cut2 (s := s0) hx ?_ (fun kx => ?_)
        | (have : Mgmt := x; subst hx)
        | clear hx)
    | split
    | (with_reducible first | apply Kept.upd | apply Kept.updM | apply Kept.updT | apply Kept.updTM) <;> with_reducible first | assumption | apply kept_boomAbort | apply kept_answerMsg | apply kept_settle | apply kept_queryEpoch | apply kept_count

theorem kept_peerUse {s0 : State} (n : Nat) (s : State) (x : Msg) (f : BoomIn) (e : BoomEpoch) (hk : Kept s0 s)  : Kept s0 (peerUse n s x f e) := by
  unfold peerUse
  repeat' first
    | with_reducible assumption
    | with_reducible first
        | apply kept_boomCheck
        | apply kept_answerMsg
        | apply kept_countN
        | apply kept_boomEnd
        | apply kept_boomWork
    | ((try lift_lets -underBinder); intro x; clear_value (hx : x = _); first
        | refine Kept.cut (s := s0) hx ?_ (fun kx => ?_)
        | refine Kept.cut2 (s := s0) hx ?_ (fun kx => ?_)
        | refine Kept.cut3 (s := s0) hx ?_ (fun kx => ?_)
        | refine Kept.cut1 (s := s0) hx ?_ (fun kx => ?_)
        | refine DieKept.cut (s := s0) hx ?_ (fun kx => ?_)
        | (have : Mgmt := x; subst hx)
        | (have : TimeSt := x; subst hx)
        | clear hx)
    | with_reducible refine kept_foldl _ _ _ ?_ (fun t a kt => ?_)
    | with_reducible refine kept_foldl2 _ _ _ ?_ (fun t a kt => ?_)
    | intro _
    | split
    | (with_reducible first | apply Kept.upd | apply Kept.updM | apply Kept.updT | apply Kept.updTM) <;> with_reducible first | assumption | apply kept_boomCheck | apply kept_answerMsg | apply kept_countN | apply kept_boomEnd | apply kept_boomWork

theorem kept_haveUse {s0 : State} (n : Nat) (s : State) (x : Msg) (f : BoomIn) (e : BoomEpoch) (hk : Kept s0 s)  : Kept s0 (haveUse n s x f e) := by
  unfold haveUse
  repeat' first
    | with_reducible assumption
    | with_reducible first
        | apply kept_boomCheck
        | apply kept_setEpoch
        | apply kept_boomEnd
        | apply kept_tryDecide
    | ((try lift_lets -underBinder); intro x; clear_value (hx : x = _); first
        | refine Kept.cut (s := s0) hx ?_ (fun kx => ?_)
        | refine Kept.cut2 (s := s0) hx ?_ (fun kx => ?_)
        | refine Kept.cut3 (s := s0) hx ?_ (fun kx => ?_)
        | refine Kept.cut1 (s := s0) hx ?_ (fun kx => ?_)
        | refine DieKept.cut (s := s0) hx ?_ (fun kx => ?_)
        | (have : Mgmt := x; subst hx)
        | (have : TimeSt := x; subst hx)
        | clear hx)
    | with_reducible refine kept_foldl _ _ _ ?_ (fun t a kt => ?_)
    | with_reducible refine kept_foldl2 _ _ _ ?_ (fun t a kt => ?_)
    | intro _
    | split
    | (with_reducible first | apply Kept.upd | apply Kept.updM | apply Kept.updT | apply Kept.updTM) <;> with_reducible first | assumption | apply kept_boomCheck | apply kept_setEpoch | apply kept_boomEnd | apply kept_tryDecide

theorem kept_decideUse {s0 : State} (n : Nat) (s : State) (x : Msg) (f : BoomIn) (e : BoomEpoch) (hk : Kept s0 s)  : Kept s0 (decideUse n s x f e) := by
  unfold decideUse
  repeat' first
    | with_reducible assumption
    | with_reducible first
        | apply kept_boomCheck
        | apply kept_boomApply
        | apply kept_boomEnd
    | ((try lift_lets -underBinder); intro x; clear_value (hx : x = _); first
        | refine Kept.cut (s := s0) hx ?_ (fun kx => ?_)
        | refine Kept.cut2 (s := s0) hx ?_ (fun kx => ?_)
        | refine Kept.cut3 (s := s0) hx ?_ (fun kx => ?_)
        | refine Kept.cut1 (s := s0) hx ?_ (fun kx => ?_)
        | refine DieKept.cut (s := s0) hx ?_ (fun kx => ?_)
        | (have : Mgmt := x; subst hx)
        | (have : TimeSt := x; subst hx)
        | clear hx)
    | with_reducible refine kept_foldl _ _ _ ?_ (fun t a kt => ?_)
    | with_reducible refine kept_foldl2 _ _ _ ?_ (fun t a kt => ?_)
    | intro _
    | split
    | (with_reducible first | apply Kept.upd | apply Kept.updM | apply Kept.updT | apply Kept.updTM) <;> with_reducible first | assumption | apply kept_boomCheck | apply kept_boomApply | apply kept_boomEnd

theorem kept_abortUse {s0 : State} (n : Nat) (s : State) (x : Msg) (f : BoomIn) (e : BoomEpoch) (hk : Kept s0 s)  : Kept s0 (abortUse n s x f e) := by
  unfold abortUse
  repeat' first
    | with_reducible assumption
    | with_reducible first
        | apply kept_boomCheck
        | apply kept_boomEnd
        | apply kept_coordAbort
    | ((try lift_lets -underBinder); intro x; clear_value (hx : x = _); first
        | refine Kept.cut (s := s0) hx ?_ (fun kx => ?_)
        | refine Kept.cut2 (s := s0) hx ?_ (fun kx => ?_)
        | refine Kept.cut3 (s := s0) hx ?_ (fun kx => ?_)
        | refine Kept.cut1 (s := s0) hx ?_ (fun kx => ?_)
        | refine DieKept.cut (s := s0) hx ?_ (fun kx => ?_)
        | (have : Mgmt := x; subst hx)
        | (have : TimeSt := x; subst hx)
        | clear hx)
    | with_reducible refine kept_foldl _ _ _ ?_ (fun t a kt => ?_)
    | with_reducible refine kept_foldl2 _ _ _ ?_ (fun t a kt => ?_)
    | intro _
    | split
    | (with_reducible first | apply Kept.upd | apply Kept.updM | apply Kept.updT | apply Kept.updTM) <;> with_reducible first | assumption | apply kept_boomCheck | apply kept_boomEnd | apply kept_coordAbort

theorem kept_boomAck {s0 : State} (s : State) (n : Nat) (hk : Kept s0 s)  : Kept s0 (State.boomAck s n) := by
  unfold State.boomAck
  repeat' first
    | with_reducible assumption
    | with_reducible first
        | apply kept_hopNext
        | apply kept_decideRest
        | apply kept_settle
        | apply kept_boomEnd
        | apply kept_dropHost
    | ((try lift_lets -underBinder); intro x; clear_value (hx : x = _); first
        | refine Kept.cut (s := s0) hx ?_ (fun kx => ?_)
        | refine Kept.cut2 (s := s0) hx ?_ (fun kx => ?_)
        | (have : Mgmt := x; subst hx)
        | clear hx)
    | split
    | (with_reducible first | apply Kept.upd | apply Kept.updM | apply Kept.updT | apply Kept.updTM) <;> with_reducible first | assumption | apply kept_hopNext | apply kept_decideRest | apply kept_settle | apply kept_boomEnd | apply kept_dropHost

theorem kept_boomBusyFrame {s0 : State} (s : State) (n : Nat) (hk : Kept s0 s)  : Kept s0 (State.boomBusyFrame s n) := by
  unfold State.boomBusyFrame
  repeat' first
    | with_reducible assumption
    | with_reducible first
        | apply kept_setHost
        | apply kept_settle
        | apply kept_boomEnd
    | ((try lift_lets -underBinder); intro x; clear_value (hx : x = _); first
        | refine Kept.cut (s := s0) hx ?_ (fun kx => ?_)
        | refine Kept.cut2 (s := s0) hx ?_ (fun kx => ?_)
        | (have : Mgmt := x; subst hx)
        | clear hx)
    | split
    | (with_reducible first | apply Kept.upd | apply Kept.updM | apply Kept.updT | apply Kept.updTM) <;> with_reducible first | assumption | apply kept_setHost | apply kept_settle | apply kept_boomEnd

theorem kept_boomBusyRetry {s0 : State} (s : State) (id : Nat) (hk : Kept s0 s)  : Kept s0 (State.boomBusyRetry s id) := by
  unfold State.boomBusyRetry
  repeat' first
    | with_reducible assumption
    | with_reducible first
        | apply kept_nbrSend
        | apply kept_hostSendNow
    | ((try lift_lets -underBinder); intro x; clear_value (hx : x = _); first
        | refine Kept.cut (s := s0) hx ?_ (fun kx => ?_)
        | refine Kept.cut2 (s := s0) hx ?_ (fun kx => ?_)
        | (have : Mgmt := x; subst hx)
        | clear hx)
    | split
    | (with_reducible first | apply Kept.upd | apply Kept.updM | apply Kept.updT | apply Kept.updTM) <;> with_reducible first | assumption | apply kept_nbrSend | apply kept_hostSendNow

theorem kept_memberTimer {s0 : State} (s : State) (op : Nat) (hk : Kept s0 s)  : Kept s0 (State.memberTimer s op) := by
  unfold State.memberTimer
  repeat' first
    | with_reducible assumption
    | with_reducible first
        | apply kept_boomAbort
        | apply kept_setEpoch
    | ((try lift_lets -underBinder); intro x; clear_value (hx : x = _); first
        | refine Kept.cut (s := s0) hx ?_ (fun kx => ?_)
        | refine Kept.cut2 (s := s0) hx ?_ (fun kx => ?_)
        | (have : Mgmt := x; subst hx)
        | clear hx)
    | split
    | (with_reducible first | apply Kept.upd | apply Kept.updM | apply Kept.updT | apply Kept.updTM) <;> with_reducible first | assumption | apply kept_boomAbort | apply kept_setEpoch

theorem kept_coordTimer {s0 : State} (s : State) (op : Nat) (hk : Kept s0 s)  : Kept s0 (State.coordTimer s op) := by
  unfold State.coordTimer
  repeat' first
    | with_reducible assumption
    | with_reducible first
        | apply kept_boomDecide
    | ((try lift_lets -underBinder); intro x; clear_value (hx : x = _); first
        | refine Kept.cut (s := s0) hx ?_ (fun kx => ?_)
        | refine Kept.cut2 (s := s0) hx ?_ (fun kx => ?_)
        | (have : Mgmt := x; subst hx)
        | clear hx)
    | split
    | (with_reducible first | apply Kept.upd | apply Kept.updM | apply Kept.updT | apply Kept.updTM) <;> with_reducible first | assumption | apply kept_boomDecide

theorem kept_lostIn {s0 : State} (s : State) (op : Nat) (m : Nat) (hk : Kept s0 s)  : Kept s0 (State.lostIn s op m) := by
  unfold State.lostIn
  repeat' first
    | with_reducible assumption
    | with_reducible first
        | apply kept_boomAbort
        | apply kept_setEpoch
        | apply kept_decideFirst
        | apply kept_coordAbort
    | ((try lift_lets -underBinder); intro x; clear_value (hx : x = _); first
        | refine Kept.cut (s := s0) hx ?_ (fun kx => ?_)
        | refine Kept.cut2 (s := s0) hx ?_ (fun kx => ?_)
        | (have : Mgmt := x; subst hx)
        | clear hx)
    | split
    | (with_reducible first | apply Kept.upd | apply Kept.updM | apply Kept.updT | apply Kept.updTM) <;> with_reducible first | assumption | apply kept_boomAbort | apply kept_setEpoch | apply kept_decideFirst | apply kept_coordAbort

theorem kept_memberLost {s0 : State} (s : State) (m : Nat) (hk : Kept s0 s)  : Kept s0 (State.memberLost s m) := by
  unfold State.memberLost
  repeat' first
    | with_reducible assumption
    | with_reducible first
        | apply kept_lostIn
    | ((try lift_lets -underBinder); intro x; clear_value (hx : x = _); first
        | refine Kept.cut (s := s0) hx ?_ (fun kx => ?_)
        | refine Kept.cut2 (s := s0) hx ?_ (fun kx => ?_)
        | (have : Mgmt := x; subst hx)
        | clear hx)
    | with_reducible refine kept_foldl _ _ _ ?_ (fun t a kt => ?_)
    | intro _
    | split
    | (with_reducible first | apply Kept.upd | apply Kept.updM | apply Kept.updT | apply Kept.updTM) <;> with_reducible first | assumption | apply kept_lostIn

theorem kept_membersBack {s0 : State} (s : State) (hk : Kept s0 s)  : Kept s0 (State.membersBack s) := by
  unfold State.membersBack
  repeat' first
    | with_reducible assumption
    | ((try lift_lets -underBinder); intro x; clear_value (hx : x = _); first
        | refine Kept.cut (s := s0) hx ?_ (fun kx => ?_)
        | refine Kept.cut2 (s := s0) hx ?_ (fun kx => ?_)
        | (have : Mgmt := x; subst hx)
        | clear hx)
    | split
    | (with_reducible first | apply Kept.upd | apply Kept.updM | apply Kept.updT | apply Kept.updTM) <;> with_reducible first | assumption

theorem kept_hostResend {s0 : State} (s : State) (m : Nat) (p : Nat) (hk : Kept s0 s)  : Kept s0 (State.hostResend s m p) := by
  unfold State.hostResend
  repeat' first
    | with_reducible assumption
    | with_reducible first
        | apply kept_memberLost
        | apply kept_hostSendNow
        | apply kept_count
    | ((try lift_lets -underBinder); intro x; clear_value (hx : x = _); first
        | refine Kept.cut (s := s0) hx ?_ (fun kx => ?_)
        | refine Kept.cut2 (s := s0) hx ?_ (fun kx => ?_)
        | (have : Mgmt := x; subst hx)
        | clear hx)
    | split
    | (with_reducible first | apply Kept.upd | apply Kept.updM | apply Kept.updT | apply Kept.updTM) <;> with_reducible first | assumption | apply kept_memberLost | apply kept_hostSendNow | apply kept_count

theorem kept_retention {s0 : State} (s : State) (op : Nat) (hk : Kept s0 s)  : Kept s0 (State.retention s op) := by
  unfold State.retention
  repeat' first
    | with_reducible assumption
    | with_reducible first
        | apply kept_setEpoch
    | ((try lift_lets -underBinder); intro x; clear_value (hx : x = _); first
        | refine Kept.cut (s := s0) hx ?_ (fun kx => ?_)
        | refine Kept.cut2 (s := s0) hx ?_ (fun kx => ?_)
        | (have : Mgmt := x; subst hx)
        | clear hx)
    | split
    | (with_reducible first | apply Kept.upd | apply Kept.updM | apply Kept.updT | apply Kept.updTM) <;> with_reducible first | assumption | apply kept_setEpoch

theorem kept_boomFault {s0 : State} (s : State) (hk : Kept s0 s)  : Kept s0 (State.boomFault s) := by
  unfold State.boomFault
  repeat' first
    | with_reducible assumption
    | with_reducible first
        | apply kept_boomAbort
    | ((try lift_lets -underBinder); intro x; clear_value (hx : x = _); first
        | refine Kept.cut (s := s0) hx ?_ (fun kx => ?_)
        | refine Kept.cut2 (s := s0) hx ?_ (fun kx => ?_)
        | (have : Mgmt := x; subst hx)
        | clear hx)
    | with_reducible refine kept_foldl _ _ _ ?_ (fun t a kt => ?_)
    | intro _
    | split
    | (with_reducible first | apply Kept.upd | apply Kept.updM | apply Kept.updT | apply Kept.updTM) <;> with_reducible first | assumption | apply kept_boomAbort

theorem kept_boomFaultIn {s0 : State} (s : State) (op : Nat) (ep : Nat) (hk : Kept s0 s)  : Kept s0 (State.boomFaultIn s op ep) := by
  unfold State.boomFaultIn
  repeat' first
    | with_reducible assumption
    | with_reducible first
        | apply kept_boomAbort
    | ((try lift_lets -underBinder); intro x; clear_value (hx : x = _); first
        | refine Kept.cut (s := s0) hx ?_ (fun kx => ?_)
        | refine Kept.cut2 (s := s0) hx ?_ (fun kx => ?_)
        | (have : Mgmt := x; subst hx)
        | clear hx)
    | split
    | (with_reducible first | apply Kept.upd | apply Kept.updM | apply Kept.updT | apply Kept.updTM) <;> with_reducible first | assumption | apply kept_boomAbort

end Sys2Proof.Machine
end

