-- ==== Sys2Proof/Laws/KeptLinks.lean ====
section
/-! SUPPORT. What the operations of Links.lean keep (Laws/Kept.lean). -/
namespace Sys2Proof.Machine
set_option linter.all false

theorem kept_watchAxes {s0 : State} (s : State) (old : State) (hk : Kept s0 s)  : Kept s0 (State.watchAxes s old) := by
  unfold State.watchAxes
  repeat' first
    | with_reducible assumption
    | with_reducible first
        | apply kept_post
    | ((try lift_lets -underBinder); intro x; clear_value (hx : x = _); first
        | refine Kept.cut (s := s0) hx ?_ (fun kx => ?_)
        | refine Kept.cut2 (s := s0) hx ?_ (fun kx => ?_)
        | (have : Mgmt := x; subst hx)
        | clear hx)
    | with_reducible refine kept_foldl _ _ _ ?_ (fun t a kt => ?_)
    | intro _
    | split
    | (with_reducible first | apply Kept.upd | apply Kept.updM | apply Kept.updT | apply Kept.updTM) <;> with_reducible first | assumption | apply kept_post

theorem kept_handOver {s0 : State} (s : State) (e : Nat) (hk : Kept s0 s)  : Kept s0 (State.handOver s e) := by
  unfold State.handOver
  repeat' first
    | with_reducible assumption
    | with_reducible first
        | apply kept_drainWait
        | apply kept_setEp
        | apply kept_setLp
    | ((try lift_lets -underBinder); intro x; clear_value (hx : x = _); first
        | refine Kept.cut (s := s0) hx ?_ (fun kx => ?_)
        | refine Kept.cut2 (s := s0) hx ?_ (fun kx => ?_)
        | (have : Mgmt := x; subst hx)
        | clear hx)
    | split
    | (with_reducible first | apply Kept.upd | apply Kept.updM | apply Kept.updT | apply Kept.updTM) <;> with_reducible first | assumption | apply kept_drainWait | apply kept_setEp | apply kept_setLp

theorem kept_dropHeld {s0 : State} (s : State) (e : Nat) (hk : Kept s0 s)  : Kept s0 (State.dropHeld s e) := by
  unfold State.dropHeld
  repeat' first
    | with_reducible assumption
    | with_reducible first
        | apply kept_countN
        | apply kept_setEp
    | ((try lift_lets -underBinder); intro x; clear_value (hx : x = _); first
        | refine Kept.cut (s := s0) hx ?_ (fun kx => ?_)
        | refine Kept.cut2 (s := s0) hx ?_ (fun kx => ?_)
        | (have : Mgmt := x; subst hx)
        | clear hx)
    | split
    | (with_reducible first | apply Kept.upd | apply Kept.updM | apply Kept.updT | apply Kept.updTM) <;> with_reducible first | assumption | apply kept_countN | apply kept_setEp

theorem kept_startFresh {s0 : State} (s : State) (e : Nat) (hk : Kept s0 s)  : Kept s0 (State.startFresh s e) := by
  unfold State.startFresh
  repeat' first
    | with_reducible assumption
    | with_reducible first
        | apply kept_handOver
        | apply kept_setEp
        | apply kept_dropHeld
    | ((try lift_lets -underBinder); intro x; clear_value (hx : x = _); first
        | refine Kept.cut (s := s0) hx ?_ (fun kx => ?_)
        | refine Kept.cut2 (s := s0) hx ?_ (fun kx => ?_)
        | (have : Mgmt := x; subst hx)
        | clear hx)
    | split
    | (with_reducible first | apply Kept.upd | apply Kept.updM | apply Kept.updT | apply Kept.updTM) <;> with_reducible first | assumption | apply kept_handOver | apply kept_setEp | apply kept_dropHeld

theorem kept_loseWaiting {s0 : State} (s : State) (n : Nat) (hk : Kept s0 s)  : Kept s0 (State.loseWaiting s n) := by
  unfold State.loseWaiting
  repeat' first
    | with_reducible assumption
    | with_reducible first
        | apply kept_gc
        | apply kept_gateEvent
        | apply kept_egressFail
        | apply kept_count
        | apply kept_unsent
    | ((try lift_lets -underBinder); intro x; clear_value (hx : x = _); first
        | refine Kept.cut (s := s0) hx ?_ (fun kx => ?_)
        | refine Kept.cut2 (s := s0) hx ?_ (fun kx => ?_)
        | (have : Mgmt := x; subst hx)
        | clear hx)
    | split
    | (with_reducible first | apply Kept.upd | apply Kept.updM | apply Kept.updT | apply Kept.updTM) <;> with_reducible first | assumption | apply kept_gc | apply kept_gateEvent | apply kept_egressFail | apply kept_count | apply kept_unsent

theorem kept_dropWaiting {s0 : State} (s : State) (e : Nat) (hk : Kept s0 s)  : Kept s0 (State.dropWaiting s e) := by
  unfold State.dropWaiting
  repeat' first
    | with_reducible assumption
    | with_reducible first
        | apply kept_countN
        | apply kept_setLp
        | apply kept_loseWaiting
        | apply kept_dropHeld
    | ((try lift_lets -underBinder); intro x; clear_value (hx : x = _); first
        | refine Kept.cut (s := s0) hx ?_ (fun kx => ?_)
        | refine Kept.cut2 (s := s0) hx ?_ (fun kx => ?_)
        | (have : Mgmt := x; subst hx)
        | clear hx)
    | with_reducible refine kept_foldl _ _ _ ?_ (fun t a kt => ?_)
    | intro _
    | split
    | (with_reducible first | apply Kept.upd | apply Kept.updM | apply Kept.updT | apply Kept.updTM) <;> with_reducible first | assumption | apply kept_countN | apply kept_setLp | apply kept_loseWaiting | apply kept_dropHeld

theorem kept_outOfService {s0 : State} (s : State) (e : Nat) (st : Nat) (reason : Nat) (hk : Kept s0 s)  : Kept s0 (State.outOfService s e st reason) := by
  unfold State.outOfService
  repeat' first
    | with_reducible assumption
    | with_reducible first
        | apply kept_egressLost
        | apply kept_handOver
        | apply kept_setEp
        | apply kept_dropWaiting
    | ((try lift_lets -underBinder); intro x; clear_value (hx : x = _); first
        | refine Kept.cut (s := s0) hx ?_ (fun kx => ?_)
        | refine Kept.cut2 (s := s0) hx ?_ (fun kx => ?_)
        | (have : Mgmt := x; subst hx)
        | clear hx)
    | split
    | (with_reducible first | apply Kept.upd | apply Kept.updM | apply Kept.updT | apply Kept.updTM) <;> with_reducible first | assumption | apply kept_egressLost | apply kept_handOver | apply kept_setEp | apply kept_dropWaiting

theorem kept_holdExpire {s0 : State} (s : State) (e : Nat) (hk : Kept s0 s)  : Kept s0 (State.holdExpire s e) := by
  unfold State.holdExpire
  repeat' first
    | with_reducible assumption
    | with_reducible first
        | apply kept_dropHeld
    | ((try lift_lets -underBinder); intro x; clear_value (hx : x = _); first
        | refine Kept.cut (s := s0) hx ?_ (fun kx => ?_)
        | refine Kept.cut2 (s := s0) hx ?_ (fun kx => ?_)
        | (have : Mgmt := x; subst hx)
        | clear hx)
    | split
    | (with_reducible first | apply Kept.upd | apply Kept.updM | apply Kept.updT | apply Kept.updTM) <;> with_reducible first | assumption | apply kept_dropHeld

theorem kept_quarantineNote {s0 : State} (s : State) (e : Nat) (reason : Nat) (hk : Kept s0 s)  : Kept s0 (State.quarantineNote s e reason) := by
  unfold State.quarantineNote
  repeat' first
    | with_reducible assumption
    | with_reducible first
        | apply kept_post
        | apply kept_journal
    | ((try lift_lets -underBinder); intro x; clear_value (hx : x = _); first
        | refine Kept.cut (s := s0) hx ?_ (fun kx => ?_)
        | refine Kept.cut2 (s := s0) hx ?_ (fun kx => ?_)
        | (have : Mgmt := x; subst hx)
        | clear hx)
    | split
    | (with_reducible first | apply Kept.upd | apply Kept.updM | apply Kept.updT | apply Kept.updTM) <;> with_reducible first | assumption | apply kept_post | apply kept_journal

theorem kept_portDown {s0 : State} (s : State) (e : Nat) (hk : Kept s0 s)  : Kept s0 (State.portDown s e) := by
  unfold State.portDown
  repeat' first
    | with_reducible assumption
    | with_reducible first
        | apply kept_outOfService
        | apply kept_truncate
        | apply kept_setEp
        | apply kept_quarantineNote
        | apply kept_ptpDown
    | ((try lift_lets -underBinder); intro x; clear_value (hx : x = _); first
        | refine Kept.cut (s := s0) hx ?_ (fun kx => ?_)
        | refine Kept.cut2 (s := s0) hx ?_ (fun kx => ?_)
        | (have : Mgmt := x; subst hx)
        | clear hx)
    | with_reducible refine kept_foldl _ _ _ ?_ (fun t a kt => ?_)
    | intro _
    | split
    | (with_reducible first | apply Kept.upd | apply Kept.updM | apply Kept.updT | apply Kept.updTM) <;> with_reducible first | assumption | apply kept_outOfService | apply kept_truncate | apply kept_setEp | apply kept_quarantineNote | apply kept_ptpDown

theorem kept_portGone {s0 : State} (s : State) (e : Nat) (hk : Kept s0 s)  : Kept s0 (State.portGone s e) := by
  unfold State.portGone
  repeat' first
    | with_reducible assumption
    | with_reducible first
        | apply kept_portDown
        | apply kept_countN
        | apply kept_dropWaiting
    | ((try lift_lets -underBinder); intro x; clear_value (hx : x = _); first
        | refine Kept.cut (s := s0) hx ?_ (fun kx => ?_)
        | refine Kept.cut2 (s := s0) hx ?_ (fun kx => ?_)
        | (have : Mgmt := x; subst hx)
        | clear hx)
    | split
    | (with_reducible first | apply Kept.upd | apply Kept.updM | apply Kept.updT | apply Kept.updTM) <;> with_reducible first | assumption | apply kept_portDown | apply kept_countN | apply kept_dropWaiting

theorem kept_linkDown {s0 : State} (s : State) (e : Nat) (hk : Kept s0 s)  : Kept s0 (State.linkDown s e) := by
  unfold State.linkDown
  repeat' first
    | with_reducible assumption
    | with_reducible first
        | apply kept_watchAxes
        | apply kept_portDown
        | apply kept_settle
    | ((try lift_lets -underBinder); intro x; clear_value (hx : x = _); first
        | refine Kept.cut (s := s0) hx ?_ (fun kx => ?_)
        | refine Kept.cut2 (s := s0) hx ?_ (fun kx => ?_)
        | (have : Mgmt := x; subst hx)
        | clear hx)
    | split
    | (with_reducible first | apply Kept.upd | apply Kept.updM | apply Kept.updT | apply Kept.updTM) <;> with_reducible first | assumption | apply kept_watchAxes | apply kept_portDown | apply kept_settle

theorem kept_retransmit {s0 : State} (s : State) (e : Nat) (hk : Kept s0 s)  : Kept s0 (State.retransmit s e) := by
  unfold State.retransmit
  repeat' first
    | with_reducible assumption
    | with_reducible first
        | apply kept_linkDown
        | apply kept_setEp
        | apply kept_linkJob
    | ((try lift_lets -underBinder); intro x; clear_value (hx : x = _); first
        | refine Kept.cut (s := s0) hx ?_ (fun kx => ?_)
        | refine Kept.cut2 (s := s0) hx ?_ (fun kx => ?_)
        | (have : Mgmt := x; subst hx)
        | clear hx)
    | with_reducible refine kept_foldl _ _ _ ?_ (fun t a kt => ?_)
    | intro _
    | split
    | (with_reducible first | apply Kept.upd | apply Kept.updM | apply Kept.updT | apply Kept.updTM) <;> with_reducible first | assumption | apply kept_linkDown | apply kept_setEp | apply kept_linkJob

theorem kept_nakTaken {s0 : State} (s : State) (e : Nat) (hk : Kept s0 s)  : Kept s0 (State.nakTaken s e) := by
  unfold State.nakTaken
  repeat' first
    | with_reducible assumption
    | with_reducible first
        | apply kept_retransmit
    | ((try lift_lets -underBinder); intro x; clear_value (hx : x = _); first
        | refine Kept.cut (s := s0) hx ?_ (fun kx => ?_)
        | refine Kept.cut2 (s := s0) hx ?_ (fun kx => ?_)
        | (have : Mgmt := x; subst hx)
        | clear hx)
    | split
    | (with_reducible first | apply Kept.upd | apply Kept.updM | apply Kept.updT | apply Kept.updTM) <;> with_reducible first | assumption | apply kept_retransmit

theorem kept_linkReplayTimeout {s0 : State} (s : State) (e : Nat) (hk : Kept s0 s)  : Kept s0 (State.linkReplayTimeout s e) := by
  unfold State.linkReplayTimeout
  repeat' first
    | with_reducible assumption
    | with_reducible first
        | apply kept_retransmit
    | ((try lift_lets -underBinder); intro x; clear_value (hx : x = _); first
        | refine Kept.cut (s := s0) hx ?_ (fun kx => ?_)
        | refine Kept.cut2 (s := s0) hx ?_ (fun kx => ?_)
        | (have : Mgmt := x; subst hx)
        | clear hx)
    | split
    | (with_reducible first | apply Kept.upd | apply Kept.updM | apply Kept.updT | apply Kept.updTM) <;> with_reducible first | assumption | apply kept_retransmit

theorem kept_takeAck {s0 : State} (s : State) (e : Nat) (a : Nat) (hk : Kept s0 s)  : Kept s0 (State.takeAck s e a) := by
  unfold State.takeAck
  repeat' first
    | with_reducible assumption
    | with_reducible first
        | apply kept_setEp
    | ((try lift_lets -underBinder); intro x; clear_value (hx : x = _); first
        | refine Kept.cut (s := s0) hx ?_ (fun kx => ?_)
        | refine Kept.cut2 (s := s0) hx ?_ (fun kx => ?_)
        | (have : Mgmt := x; subst hx)
        | clear hx)
    | split
    | (with_reducible first | apply Kept.upd | apply Kept.updM | apply Kept.updT | apply Kept.updTM) <;> with_reducible first | assumption | apply kept_setEp

theorem kept_takeHeader {s0 : State} (s : State) (f : LinkIn) (hk : Kept s0 s)  : Kept s0 (State.takeHeader s f) := by
  unfold State.takeHeader
  repeat' first
    | with_reducible assumption
    | with_reducible first
        | apply kept_takeAck
        | apply kept_setEp
    | ((try lift_lets -underBinder); intro x; clear_value (hx : x = _); first
        | refine Kept.cut (s := s0) hx ?_ (fun kx => ?_)
        | refine Kept.cut2 (s := s0) hx ?_ (fun kx => ?_)
        | (have : Mgmt := x; subst hx)
        | clear hx)
    | split
    | (with_reducible first | apply Kept.upd | apply Kept.updM | apply Kept.updT | apply Kept.updTM) <;> with_reducible first | assumption | apply kept_takeAck | apply kept_setEp

theorem kept_drainPort {s0 : State} (s : State) (e : Nat) (hk : Kept s0 s)  : Kept s0 (State.drainPort s e) := by
  unfold State.drainPort
  exact kept_drainWait (hk := hk) ..

theorem kept_sendNak {s0 : State} (s : State) (e : Nat) (hk : Kept s0 s)  : Kept s0 (State.sendNak s e) := by
  unfold State.sendNak
  repeat' first
    | with_reducible assumption
    | with_reducible first
        | apply kept_setEp
        | apply kept_linkJob
    | ((try lift_lets -underBinder); intro x; clear_value (hx : x = _); first
        | refine Kept.cut (s := s0) hx ?_ (fun kx => ?_)
        | refine Kept.cut2 (s := s0) hx ?_ (fun kx => ?_)
        | (have : Mgmt := x; subst hx)
        | clear hx)
    | split
    | (with_reducible first | apply Kept.upd | apply Kept.updM | apply Kept.updT | apply Kept.updTM) <;> with_reducible first | assumption | apply kept_setEp | apply kept_linkJob

theorem kept_deliver {s0 : State} (s : State) (e : Nat) (raw : Nat) (sub : Nat) (bytes : List Byte) (hk : Kept s0 s)  : Kept s0 (State.deliver s e raw sub bytes) := by
  unfold State.deliver
  repeat' first
    | with_reducible assumption
    | with_reducible first
        | apply kept_creditBack
        | apply kept_classify
        | apply kept_autowake
        | apply kept_count
    | ((try lift_lets -underBinder); intro x; clear_value (hx : x = _); first
        | refine Kept.cut (s := s0) hx ?_ (fun kx => ?_)
        | refine Kept.cut2 (s := s0) hx ?_ (fun kx => ?_)
        | (have : Mgmt := x; subst hx)
        | clear hx)
    | split
    | (with_reducible first | apply Kept.upd | apply Kept.updM | apply Kept.updT | apply Kept.updTM) <;> with_reducible first | assumption | apply kept_creditBack | apply kept_classify | apply kept_autowake | apply kept_count

theorem kept_deliverNext {s0 : State} (s : State) (l : Nat) (a : Nat) (hk : Kept s0 s)  : Kept s0 (State.deliverNext s l a) := by
  induction a generalizing s l with
  | zero => exact hk
  | succ fuel ih =>
    unfold State.deliverNext
    repeat' first
      | with_reducible apply ih
      | with_reducible assumption
      | with_reducible first
          | apply kept_setLp
          | apply kept_deliver
      | ((try lift_lets -underBinder); intro x; clear_value (hx : x = _); first
          | refine Kept.cut (s := s0) hx ?_ (fun kx => ?_)
          | refine Kept.cut2 (s := s0) hx ?_ (fun kx => ?_)
          | (have : Mgmt := x; subst hx)
          | clear hx)
      | split
      | (with_reducible first | apply Kept.upd | apply Kept.updM | apply Kept.updT | apply Kept.updTM) <;> with_reducible first | assumption | apply kept_setLp | apply kept_deliver

theorem kept_accept {s0 : State} (s : State) (f : LinkIn) (bytes : List Byte) (hk : Kept s0 s)  : Kept s0 (State.accept s f bytes) := by
  unfold State.accept
  repeat' first
    | with_reducible assumption
    | with_reducible first
        | apply kept_creditBack
        | apply kept_setLp
        | apply kept_deliverNext
        | apply kept_deliver
    | ((try lift_lets -underBinder); intro x; clear_value (hx : x = _); first
        | refine Kept.cut (s := s0) hx ?_ (fun kx => ?_)
        | refine Kept.cut2 (s := s0) hx ?_ (fun kx => ?_)
        | (have : Mgmt := x; subst hx)
        | clear hx)
    | split
    | (with_reducible first | apply Kept.upd | apply Kept.updM | apply Kept.updT | apply Kept.updTM) <;> with_reducible first | assumption | apply kept_creditBack | apply kept_setLp | apply kept_deliverNext | apply kept_deliver

theorem kept_linkFrame {s0 : State} (s : State) (f : LinkIn) (ty : Nat) (use : State → State) (hk : Kept s0 s) (huse : ∀ t0, Kept s0 t0 → Kept s0 (use t0)) : Kept s0 (State.linkFrame s f ty use) := by
  unfold State.linkFrame
  repeat' first
    | with_reducible assumption
    | with_reducible first
        | apply kept_sendNak
        | apply kept_takeHeader
        | apply kept_settle
        | apply kept_drainPort
        | apply kept_count
        | apply huse
    | ((try lift_lets -underBinder); intro x; clear_value (hx : x = _); first
        | refine Kept.cut (s := s0) hx ?_ (fun kx => ?_)
        | refine Kept.cut2 (s := s0) hx ?_ (fun kx => ?_)
        | (have : Mgmt := x; subst hx)
        | clear hx)
    | split
    | (with_reducible first | apply Kept.upd | apply Kept.updM | apply Kept.updT | apply Kept.updTM) <;> with_reducible first | assumption | apply kept_sendNak | apply kept_takeHeader | apply kept_settle | apply kept_drainPort | apply kept_count | apply huse

theorem kept_inSequence {s0 : State} (s : State) (f : LinkIn) (take : State → State) (hk : Kept s0 s) (htake : ∀ t0, Kept s0 t0 → Kept s0 (take t0)) : Kept s0 (State.inSequence s f take) := by
  unfold State.inSequence
  repeat' first
    | with_reducible assumption
    | with_reducible first
        | apply kept_sendNak
        | apply kept_setEp
        | apply htake
    | ((try lift_lets -underBinder); intro x; clear_value (hx : x = _); first
        | refine Kept.cut (s := s0) hx ?_ (fun kx => ?_)
        | refine Kept.cut2 (s := s0) hx ?_ (fun kx => ?_)
        | (have : Mgmt := x; subst hx)
        | clear hx)
    | split
    | (with_reducible first | apply Kept.upd | apply Kept.updM | apply Kept.updT | apply Kept.updTM) <;> with_reducible first | assumption | apply kept_sendNak | apply kept_setEp | apply htake

theorem kept_ctrlKeepalive {s0 : State} (s : State) (e : Nat) (hk : Kept s0 s)  : Kept s0 (State.ctrlKeepalive s e) := by
  unfold State.ctrlKeepalive
  repeat' first
    | with_reducible assumption
    | with_reducible first
        | apply kept_linkJob
    | ((try lift_lets -underBinder); intro x; clear_value (hx : x = _); first
        | refine Kept.cut (s := s0) hx ?_ (fun kx => ?_)
        | refine Kept.cut2 (s := s0) hx ?_ (fun kx => ?_)
        | (have : Mgmt := x; subst hx)
        | clear hx)
    | split
    | (with_reducible first | apply Kept.upd | apply Kept.updM | apply Kept.updT | apply Kept.updTM) <;> with_reducible first | assumption | apply kept_linkJob

theorem kept_nakRepeat {s0 : State} (s : State) (e : Nat) (hk : Kept s0 s)  : Kept s0 (State.nakRepeat s e) := by
  unfold State.nakRepeat
  repeat' first
    | with_reducible assumption
    | with_reducible first
        | apply kept_setEp
    | ((try lift_lets -underBinder); intro x; clear_value (hx : x = _); first
        | refine Kept.cut (s := s0) hx ?_ (fun kx => ?_)
        | refine Kept.cut2 (s := s0) hx ?_ (fun kx => ?_)
        | (have : Mgmt := x; subst hx)
        | clear hx)
    | split
    | (with_reducible first | apply Kept.upd | apply Kept.updM | apply Kept.updT | apply Kept.updTM) <;> with_reducible first | assumption | apply kept_setEp

theorem kept_quarantine {s0 : State} (s : State) (e : Nat) (reason : Nat) (hk : Kept s0 s)  : Kept s0 (State.quarantine s e reason) := by
  unfold State.quarantine
  repeat' first
    | with_reducible assumption
    | with_reducible first
        | apply kept_outOfService
        | apply kept_quarantineNote
    | ((try lift_lets -underBinder); intro x; clear_value (hx : x = _); first
        | refine Kept.cut (s := s0) hx ?_ (fun kx => ?_)
        | refine Kept.cut2 (s := s0) hx ?_ (fun kx => ?_)
        | (have : Mgmt := x; subst hx)
        | clear hx)
    | split
    | (with_reducible first | apply Kept.upd | apply Kept.updM | apply Kept.updT | apply Kept.updTM) <;> with_reducible first | assumption | apply kept_outOfService | apply kept_quarantineNote

theorem kept_sendResume {s0 : State} (s : State) (e : Nat) (units : Nat) (hk : Kept s0 s)  : Kept s0 (State.sendResume s e units) := by
  unfold State.sendResume
  exact kept_linkJob (hk := hk) ..

theorem kept_roundTrip {s0 : State} (s : State) (e : Nat) (at' : Nat) (hk : Kept s0 s)  : Kept s0 (State.roundTrip s e at').2 := by
  unfold State.roundTrip
  repeat' first
    | with_reducible assumption
    | with_reducible first
        | apply kept_setEp
        | apply kept_drawNat
    | split
    | ((try lift_lets -underBinder); intro x; clear_value (hx : x = _); first
        | refine Kept.cut (s := s0) hx ?_ (fun kx => ?_)
        | refine Kept.cut2 (s := s0) hx ?_ (fun kx => ?_)
        | refine Kept.cut3 (s := s0) hx ?_ (fun kx => ?_)
        | refine Kept.cut1 (s := s0) hx ?_ (fun kx => ?_)
        | refine DieKept.cut (s := s0) hx ?_ (fun kx => ?_)
        | (have : Mgmt := x; subst hx)
        | (have : TimeSt := x; subst hx)
        | clear hx)
    | with_reducible refine kept_foldl _ _ _ ?_ (fun t a kt => ?_)
    | with_reducible refine kept_foldl2 _ _ _ ?_ (fun t a kt => ?_)
    | intro _
    | (with_reducible first | apply Kept.upd | apply Kept.updM | apply Kept.updT | apply Kept.updTM) <;> with_reducible first | assumption | apply kept_setEp | apply kept_drawNat

theorem kept_resumed {s0 : State} (s : State) (e : Nat) (ack : Nat) (cred : Nat) (units : Nat) (at' : Nat) (hk : Kept s0 s)  : Kept s0 (State.resumed s e ack cred units at') := by
  unfold State.resumed
  repeat' first
    | with_reducible assumption
    | with_reducible first
        | apply kept_takeAck
        | apply kept_roundTrip
        | apply kept_setEp
        | apply kept_retransmit
        | apply kept_quarantine
        | apply kept_drainPort
        | apply kept_startFresh
    | ((try lift_lets -underBinder); intro x; clear_value (hx : x = _); first
        | refine Kept.cut (s := s0) hx ?_ (fun kx => ?_)
        | refine Kept.cut2 (s := s0) hx ?_ (fun kx => ?_)
        | (have : Mgmt := x; subst hx)
        | clear hx)
    | with_reducible refine kept_foldl _ _ _ ?_ (fun t a kt => ?_)
    | intro _
    | split
    | (with_reducible first | apply Kept.upd | apply Kept.updM | apply Kept.updT | apply Kept.updTM) <;> with_reducible first | assumption | apply kept_takeAck | apply kept_roundTrip | apply kept_setEp | apply kept_retransmit | apply kept_quarantine | apply kept_drainPort | apply kept_startFresh

theorem kept_enterService {s0 : State} (s : State) (e : Nat) (hk : Kept s0 s)  : Kept s0 (State.enterService s e) := by
  unfold State.enterService
  repeat' first
    | with_reducible assumption
    | with_reducible first
        | apply kept_sendResume
        | apply kept_setEp
        | apply kept_quarantineNote
        | apply kept_startFresh
        | apply kept_resumed
    | ((try lift_lets -underBinder); intro x; clear_value (hx : x = _); first
        | refine Kept.cut (s := s0) hx ?_ (fun kx => ?_)
        | refine Kept.cut2 (s := s0) hx ?_ (fun kx => ?_)
        | (have : Mgmt := x; subst hx)
        | clear hx)
    | split
    | (with_reducible first | apply Kept.upd | apply Kept.updM | apply Kept.updT | apply Kept.updTM) <;> with_reducible first | assumption | apply kept_sendResume | apply kept_setEp | apply kept_quarantineNote | apply kept_startFresh | apply kept_resumed

theorem kept_recheck {s0 : State} (s : State) (e : Nat) (hk : Kept s0 s)  : Kept s0 (State.recheck s e) := by
  unfold State.recheck
  repeat' first
    | with_reducible assumption
    | with_reducible first
        | apply kept_enterService
        | apply kept_quarantine
    | ((try lift_lets -underBinder); intro x; clear_value (hx : x = _); first
        | refine Kept.cut (s := s0) hx ?_ (fun kx => ?_)
        | refine Kept.cut2 (s := s0) hx ?_ (fun kx => ?_)
        | (have : Mgmt := x; subst hx)
        | clear hx)
    | split
    | (with_reducible first | apply Kept.upd | apply Kept.updM | apply Kept.updT | apply Kept.updTM) <;> with_reducible first | assumption | apply kept_enterService | apply kept_quarantine

theorem kept_recheckAll {s0 : State} (s : State) (hk : Kept s0 s)  : Kept s0 (State.recheckAll s) := by
  unfold State.recheckAll
  repeat' first
    | with_reducible assumption
    | with_reducible first
        | apply kept_recheck
    | ((try lift_lets -underBinder); intro x; clear_value (hx : x = _); first
        | refine Kept.cut (s := s0) hx ?_ (fun kx => ?_)
        | refine Kept.cut2 (s := s0) hx ?_ (fun kx => ?_)
        | (have : Mgmt := x; subst hx)
        | clear hx)
    | with_reducible refine kept_foldl _ _ _ ?_ (fun t a kt => ?_)
    | intro _
    | split
    | (with_reducible first | apply Kept.upd | apply Kept.updM | apply Kept.updT | apply Kept.updTM) <;> with_reducible first | assumption | apply kept_recheck

theorem kept_linkResume {s0 : State} (s : State) (f : LinkIn) (hk : Kept s0 s)  : Kept s0 (State.linkResume s f) := by
  unfold State.linkResume
  repeat' first
    | with_reducible assumption
    | with_reducible first
        | apply kept_sendNak
        | apply kept_watchAxes
        | apply kept_settle
        | apply kept_setEp
        | apply kept_count
        | apply kept_resumed
    | ((try lift_lets -underBinder); intro x; clear_value (hx : x = _); first
        | refine Kept.cut (s := s0) hx ?_ (fun kx => ?_)
        | refine Kept.cut2 (s := s0) hx ?_ (fun kx => ?_)
        | (have : Mgmt := x; subst hx)
        | clear hx)
    | split
    | (with_reducible first | apply Kept.upd | apply Kept.updM | apply Kept.updT | apply Kept.updTM) <;> with_reducible first | assumption | apply kept_sendNak | apply kept_watchAxes | apply kept_settle | apply kept_setEp | apply kept_count | apply kept_resumed

theorem kept_lldpOut {s0 : State} (s : State) (e : Nat) (hk : Kept s0 s)  : Kept s0 (State.lldpOut s e) := by
  unfold State.lldpOut
  repeat' first
    | with_reducible assumption
    | with_reducible first
        | apply kept_send3
        | apply kept_setEp
    | ((try lift_lets -underBinder); intro x; clear_value (hx : x = _); first
        | refine Kept.cut (s := s0) hx ?_ (fun kx => ?_)
        | refine Kept.cut2 (s := s0) hx ?_ (fun kx => ?_)
        | (have : Mgmt := x; subst hx)
        | clear hx)
    | split
    | (with_reducible first | apply Kept.upd | apply Kept.updM | apply Kept.updT | apply Kept.updTM) <;> with_reducible first | assumption | apply kept_send3 | apply kept_setEp

theorem kept_portUp {s0 : State} (s : State) (e : Nat) (hk : Kept s0 s)  : Kept s0 (State.portUp s e) := by
  unfold State.portUp
  repeat' first
    | with_reducible assumption
    | with_reducible first
        | apply kept_lldpOut
        | apply kept_setEp
        | apply kept_ptpFirst
    | ((try lift_lets -underBinder); intro x; clear_value (hx : x = _); first
        | refine Kept.cut (s := s0) hx ?_ (fun kx => ?_)
        | refine Kept.cut2 (s := s0) hx ?_ (fun kx => ?_)
        | (have : Mgmt := x; subst hx)
        | clear hx)
    | split
    | (with_reducible first | apply Kept.upd | apply Kept.updM | apply Kept.updT | apply Kept.updTM) <;> with_reducible first | assumption | apply kept_lldpOut | apply kept_setEp | apply kept_ptpFirst

theorem kept_differs {s0 : State} (s : State) (e : Nat) (hk : Kept s0 s)  : Kept s0 (State.differs s e) := by
  unfold State.differs
  repeat' first
    | with_reducible assumption
    | with_reducible first
        | apply kept_post
        | apply kept_setEp
    | ((try lift_lets -underBinder); intro x; clear_value (hx : x = _); first
        | refine Kept.cut (s := s0) hx ?_ (fun kx => ?_)
        | refine Kept.cut2 (s := s0) hx ?_ (fun kx => ?_)
        | (have : Mgmt := x; subst hx)
        | clear hx)
    | split
    | (with_reducible first | apply Kept.upd | apply Kept.updM | apply Kept.updT | apply Kept.updTM) <;> with_reducible first | assumption | apply kept_post | apply kept_setEp

theorem kept_differsAll {s0 : State} (s : State) (hk : Kept s0 s)  : Kept s0 (State.differsAll s) := by
  unfold State.differsAll
  repeat' first
    | with_reducible assumption
    | with_reducible first
        | apply kept_differs
    | ((try lift_lets -underBinder); intro x; clear_value (hx : x = _); first
        | refine Kept.cut (s := s0) hx ?_ (fun kx => ?_)
        | refine Kept.cut2 (s := s0) hx ?_ (fun kx => ?_)
        | (have : Mgmt := x; subst hx)
        | clear hx)
    | with_reducible refine kept_foldl _ _ _ ?_ (fun t a kt => ?_)
    | intro _
    | split
    | (with_reducible first | apply Kept.upd | apply Kept.updM | apply Kept.updT | apply Kept.updTM) <;> with_reducible first | assumption | apply kept_differs

theorem kept_lldpReceive {s0 : State} (s : State) (e : Nat) (b : List Byte) (hk : Kept s0 s)  : Kept s0 (State.lldpReceive s e b) := by
  unfold State.lldpReceive
  repeat' first
    | with_reducible assumption
    | with_reducible first
        | apply kept_differs
        | apply kept_sendResume
        | apply kept_watchAxes
        | apply kept_recheck
        | apply kept_settle
        | apply kept_setEp
        | apply kept_quarantine
        | apply kept_startFresh
    | ((try lift_lets -underBinder); intro x; clear_value (hx : x = _); first
        | refine Kept.cut (s := s0) hx ?_ (fun kx => ?_)
        | refine Kept.cut2 (s := s0) hx ?_ (fun kx => ?_)
        | (have : Mgmt := x; subst hx)
        | clear hx)
    | split
    | (with_reducible first | apply Kept.upd | apply Kept.updM | apply Kept.updT | apply Kept.updTM) <;> with_reducible first | assumption | apply kept_differs | apply kept_sendResume | apply kept_watchAxes | apply kept_recheck | apply kept_settle | apply kept_setEp | apply kept_quarantine | apply kept_startFresh

theorem kept_peerExpire {s0 : State} (s : State) (e : Nat) (hk : Kept s0 s)  : Kept s0 (State.peerExpire s e) := by
  unfold State.peerExpire
  repeat' first
    | with_reducible assumption
    | with_reducible first
        | apply kept_differs
        | apply kept_watchAxes
        | apply kept_settle
        | apply kept_setEp
        | apply kept_quarantine
    | ((try lift_lets -underBinder); intro x; clear_value (hx : x = _); first
        | refine Kept.cut (s := s0) hx ?_ (fun kx => ?_)
        | refine Kept.cut2 (s := s0) hx ?_ (fun kx => ?_)
        | (have : Mgmt := x; subst hx)
        | clear hx)
    | split
    | (with_reducible first | apply Kept.upd | apply Kept.updM | apply Kept.updT | apply Kept.updTM) <;> with_reducible first | assumption | apply kept_differs | apply kept_watchAxes | apply kept_settle | apply kept_setEp | apply kept_quarantine

theorem kept_nopeerTimeout {s0 : State} (s : State) (e : Nat) (hk : Kept s0 s)  : Kept s0 (State.nopeerTimeout s e) := by
  unfold State.nopeerTimeout
  repeat' first
    | with_reducible assumption
    | with_reducible first
        | apply kept_quarantine
    | ((try lift_lets -underBinder); intro x; clear_value (hx : x = _); first
        | refine Kept.cut (s := s0) hx ?_ (fun kx => ?_)
        | refine Kept.cut2 (s := s0) hx ?_ (fun kx => ?_)
        | (have : Mgmt := x; subst hx)
        | clear hx)
    | split
    | (with_reducible first | apply Kept.upd | apply Kept.updM | apply Kept.updT | apply Kept.updTM) <;> with_reducible first | assumption | apply kept_quarantine

theorem kept_pfcFrame {s0 : State} (s : State) (e : Nat) (b : List Byte) (hk : Kept s0 s)  : Kept s0 (State.pfcFrame s e b) := by
  unfold State.pfcFrame
  repeat' first
    | with_reducible assumption
    | with_reducible first
        | apply kept_flushWait
        | apply kept_setEp
        | apply kept_count
    | ((try lift_lets -underBinder); intro x; clear_value (hx : x = _); first
        | refine Kept.cut (s := s0) hx ?_ (fun kx => ?_)
        | refine Kept.cut2 (s := s0) hx ?_ (fun kx => ?_)
        | (have : Mgmt := x; subst hx)
        | clear hx)
    | split
    | (with_reducible first | apply Kept.upd | apply Kept.updM | apply Kept.updT | apply Kept.updTM) <;> with_reducible first | assumption | apply kept_flushWait | apply kept_setEp | apply kept_count

theorem kept_egressTick {s0 : State} (s : State) (hk : Kept s0 s)  : Kept s0 (State.egressTick s) := by
  unfold State.egressTick
  repeat' first
    | with_reducible assumption
    | with_reducible first
        | apply kept_drainWait
        | apply kept_flushWaits
        | apply kept_holdExpire
    | ((try lift_lets -underBinder); intro x; clear_value (hx : x = _); first
        | refine Kept.cut (s := s0) hx ?_ (fun kx => ?_)
        | refine Kept.cut2 (s := s0) hx ?_ (fun kx => ?_)
        | (have : Mgmt := x; subst hx)
        | clear hx)
    | with_reducible refine kept_foldl _ _ _ ?_ (fun t a kt => ?_)
    | intro _
    | split
    | (with_reducible first | apply Kept.upd | apply Kept.updM | apply Kept.updT | apply Kept.updTM) <;> with_reducible first | assumption | apply kept_drainWait | apply kept_flushWaits | apply kept_holdExpire

theorem kept_adoptPlan {s0 : State} (s : State) (e : Nat) (hk : Kept s0 s)  : Kept s0 (State.adoptPlan s e) := by
  unfold State.adoptPlan
  exact Kept.upd hk

theorem kept_adoptFrom {s0 : State} (s : State) (e : Nat) (origin : Nat) (hk : Kept s0 s)  : Kept s0 (State.adoptFrom s e origin) := by
  unfold State.adoptFrom
  repeat' first
    | with_reducible assumption
    | with_reducible first
        | apply kept_post
        | apply kept_recheckAll
        | apply kept_adoptPlan
        | apply kept_watchAxes
        | apply kept_journal
        | apply kept_settle
        | apply kept_setRw
    | ((try lift_lets -underBinder); intro x; clear_value (hx : x = _); first
        | refine Kept.cut (s := s0) hx ?_ (fun kx => ?_)
        | refine Kept.cut2 (s := s0) hx ?_ (fun kx => ?_)
        | (have : Mgmt := x; subst hx)
        | clear hx)
    | split
    | (with_reducible first | apply Kept.upd | apply Kept.updM | apply Kept.updT | apply Kept.updTM) <;> with_reducible first | assumption | apply kept_post | apply kept_recheckAll | apply kept_adoptPlan | apply kept_watchAxes | apply kept_journal | apply kept_settle | apply kept_setRw

theorem kept_adoptCmd {s0 : State} (s : State) (e : Nat) (origin : Nat) (hk : Kept s0 s)  : Kept s0 (State.adoptCmd s e origin) := by
  unfold State.adoptCmd
  repeat' first
    | with_reducible assumption
    | ((try lift_lets -underBinder); intro x; clear_value (hx : x = _); first
        | refine Kept.cut (s := s0) hx ?_ (fun kx => ?_)
        | refine Kept.cut2 (s := s0) hx ?_ (fun kx => ?_)
        | (have : Mgmt := x; subst hx)
        | clear hx)
    | split
    | (with_reducible first | apply Kept.upd | apply Kept.updM | apply Kept.updT | apply Kept.updTM) <;> with_reducible first | assumption

end Sys2Proof.Machine
end

