-- ==== Sys2Proof/Laws/KeptCommit.lean ====
section
/-! SUPPORT. What the operations of Commit.lean keep (Laws/Kept.lean). -/
namespace Sys2Proof.Machine
set_option linter.all false

theorem kept_stopShadows {s0 : State} (s : State) (lanes : List (Nat × Nat × Nat)) (hk : Kept s0 s)  : Kept s0 (State.stopShadows s lanes) := by
  unfold State.stopShadows
  exact Kept.upd hk

theorem kept_activate {s0 : State} (s : State) (h : Nat) (hk : Kept s0 s)  : Kept s0 (State.activate s h) := by
  unfold State.activate
  repeat' first
    | with_reducible assumption
    | with_reducible first
        | apply kept_stopShadows
        | apply kept_setHandle
    | ((try lift_lets -underBinder); intro x; clear_value (hx : x = _); first
        | refine Kept.cut (s := s0) hx ?_ (fun kx => ?_)
        | refine Kept.cut2 (s := s0) hx ?_ (fun kx => ?_)
        | (have : Mgmt := x; subst hx)
        | clear hx)
    | split
    | (with_reducible first | apply Kept.upd | apply Kept.updM | apply Kept.updT | apply Kept.updTM) <;> with_reducible first | assumption | apply kept_stopShadows | apply kept_setHandle

theorem kept_unloadNow {s0 : State} (s : State) (h : Nat) (hk : Kept s0 s)  : Kept s0 (State.unloadNow s h) := by
  unfold State.unloadNow
  repeat' first
    | with_reducible assumption
    | with_reducible first
        | apply kept_closeCtx
        | apply kept_stopShadows
        | apply kept_answerMsg
        | apply kept_setHandle
    | ((try lift_lets -underBinder); intro x; clear_value (hx : x = _); first
        | refine Kept.cut (s := s0) hx ?_ (fun kx => ?_)
        | refine Kept.cut2 (s := s0) hx ?_ (fun kx => ?_)
        | (have : Mgmt := x; subst hx)
        | clear hx)
    | with_reducible refine kept_foldl _ _ _ ?_ (fun t a kt => ?_)
    | intro _
    | split
    | (with_reducible first | apply Kept.upd | apply Kept.updM | apply Kept.updT | apply Kept.updTM) <;> with_reducible first | assumption | apply kept_closeCtx | apply kept_stopShadows | apply kept_answerMsg | apply kept_setHandle

theorem kept_armsApply {s0 : State} (s : State) (hk : Kept s0 s)  : Kept s0 (State.armsApply s) := by
  unfold State.armsApply
  repeat' first
    | with_reducible assumption
    | with_reducible first
        | apply kept_activate
        | apply kept_unloadNow
    | ((try lift_lets -underBinder); intro x; clear_value (hx : x = _); first
        | refine Kept.cut (s := s0) hx ?_ (fun kx => ?_)
        | refine Kept.cut2 (s := s0) hx ?_ (fun kx => ?_)
        | (have : Mgmt := x; subst hx)
        | clear hx)
    | with_reducible refine kept_foldl _ _ _ ?_ (fun t a kt => ?_)
    | intro _
    | split
    | (with_reducible first | apply Kept.upd | apply Kept.updM | apply Kept.updT | apply Kept.updTM) <;> with_reducible first | assumption | apply kept_activate | apply kept_unloadNow

theorem kept_keepMode {s0 : State} (s : State) (fell : Option (Nat × Nat × Nat)) (old : Bool) (hk : Kept s0 s)  : Kept s0 (State.keepMode s fell old) := by
  unfold State.keepMode
  exact Kept.updT hk

theorem kept_modeChange {s0 : State} (s : State) (new : Bool) (origin : Nat) (hk : Kept s0 s)  : Kept s0 (State.modeChange s new origin) := by
  unfold State.modeChange
  repeat' first
    | with_reducible assumption
    | with_reducible first
        | apply kept_keepMode
        | apply kept_journal
    | ((try lift_lets -underBinder); intro x; clear_value (hx : x = _); first
        | refine Kept.cut (s := s0) hx ?_ (fun kx => ?_)
        | refine Kept.cut2 (s := s0) hx ?_ (fun kx => ?_)
        | (have : Mgmt := x; subst hx)
        | clear hx)
    | split
    | (with_reducible first | apply Kept.upd | apply Kept.updM | apply Kept.updT | apply Kept.updTM) <;> with_reducible first | assumption | apply kept_keepMode | apply kept_journal

theorem kept_applySet {s0 : State} (s : State) (c : Tbl Word) (origin : Nat) (arms : Bool) (hk : Kept s0 s)  : Kept s0 (State.applySet s c origin arms) := by
  unfold State.applySet
  repeat' first
    | with_reducible assumption
    | with_reducible first
        | apply kept_recheckAll
        | apply kept_modeChange
        | apply kept_twinTo
        | apply kept_settleJrnl
        | apply kept_watchAxes
        | apply kept_journal
        | apply kept_portGone
        | apply kept_settle
        | apply kept_setEp
        | apply kept_armsApply
        | apply kept_differsAll
    | ((try lift_lets -underBinder); intro x; clear_value (hx : x = _); first
        | refine Kept.cut (s := s0) hx ?_ (fun kx => ?_)
        | refine Kept.cut2 (s := s0) hx ?_ (fun kx => ?_)
        | refine Kept.cut3 (s := s0) hx ?_ (fun kx => ?_)
        | refine Kept.cut1 (s := s0) hx ?_ (fun kx => ?_)
        | refine DieKept.cut (s := s0) hx ?_ (fun kx => ?_)
        | (have : Mgmt := x; subst hx)
        | (have : TimeSt := x; subst hx)
        | clear hx)
    | with_reducible refine kept_foldl _ _ _ ?_ (fun t a kt => ?_)
    | with_reducible refine kept_foldl2 _ _ _ ?_ (fun t a kt => ?_)
    | intro _
    | split
    | (with_reducible first | apply Kept.upd | apply Kept.updM | apply Kept.updT | apply Kept.updTM) <;> with_reducible first | assumption | apply kept_recheckAll | apply kept_modeChange | apply kept_twinTo | apply kept_settleJrnl | apply kept_watchAxes | apply kept_journal | apply kept_portGone | apply kept_settle | apply kept_setEp | apply kept_armsApply | apply kept_differsAll | refine kept_foldl _ _ _ ?_ (fun _ _ kt => ?_)

theorem kept_reject {s0 : State} (s : State) (reason : Nat) (off : Nat) (hk : Kept s0 s)  : Kept s0 (State.reject s reason off) := by
  unfold State.reject
  repeat' first
    | with_reducible assumption
    | ((try lift_lets -underBinder); intro x; clear_value (hx : x = _); first
        | refine Kept.cut (s := s0) hx ?_ (fun kx => ?_)
        | refine Kept.cut2 (s := s0) hx ?_ (fun kx => ?_)
        | (have : Mgmt := x; subst hx)
        | clear hx)
    | split
    | (with_reducible first | apply Kept.upd | apply Kept.updM | apply Kept.updT | apply Kept.updTM) <;> with_reducible first | assumption

theorem kept_goCommit {s0 : State} (s : State) (origin : Nat) (hk : Kept s0 s)  : Kept s0 (State.goCommit s origin) := by
  unfold State.goCommit
  repeat' first
    | with_reducible assumption
    | with_reducible first
        | apply kept_post
    | ((try lift_lets -underBinder); intro x; clear_value (hx : x = _); first
        | refine Kept.cut (s := s0) hx ?_ (fun kx => ?_)
        | refine Kept.cut2 (s := s0) hx ?_ (fun kx => ?_)
        | (have : Mgmt := x; subst hx)
        | clear hx)
    | split
    | (with_reducible first | apply Kept.upd | apply Kept.updM | apply Kept.updT | apply Kept.updTM) <;> with_reducible first | assumption | apply kept_post

theorem kept_commitValidated {s0 : State} (s : State) (hk : Kept s0 s)  : Kept s0 (State.commitValidated s) := by
  unfold State.commitValidated
  repeat' first
    | with_reducible assumption
    | with_reducible first
        | apply kept_post
        | apply kept_reject
    | ((try lift_lets -underBinder); intro x; clear_value (hx : x = _); first
        | refine Kept.cut (s := s0) hx ?_ (fun kx => ?_)
        | refine Kept.cut2 (s := s0) hx ?_ (fun kx => ?_)
        | (have : Mgmt := x; subst hx)
        | clear hx)
    | split
    | (with_reducible first | apply Kept.upd | apply Kept.updM | apply Kept.updT | apply Kept.updTM) <;> with_reducible first | assumption | apply kept_post | apply kept_reject

theorem kept_commitApply {s0 : State} (s : State) (hk : Kept s0 s)  : Kept s0 (State.commitApply s) := by
  unfold State.commitApply
  repeat' first
    | with_reducible assumption
    | with_reducible first
        | apply kept_post
        | apply kept_applySet
    | ((try lift_lets -underBinder); intro x; clear_value (hx : x = _); first
        | refine Kept.cut (s := s0) hx ?_ (fun kx => ?_)
        | refine Kept.cut2 (s := s0) hx ?_ (fun kx => ?_)
        | (have : Mgmt := x; subst hx)
        | clear hx)
    | split
    | (with_reducible first | apply Kept.upd | apply Kept.updM | apply Kept.updT | apply Kept.updTM) <;> with_reducible first | assumption | apply kept_post | apply kept_applySet

end Sys2Proof.Machine
end

