-- ==== Sys2Proof/Laws/KeptTimeOps.lean ====
section
/-! SUPPORT. What the operations of TimeOps.lean keep (Laws/Kept.lean). -/
namespace Sys2Proof.Machine
set_option linter.all false

theorem kept_putRw {s0 : State} (s : State) (off : Nat) (hi : Nat) (lo : Nat) (v : Nat) (hk : Kept s0 s)  : Kept s0 (State.putRw s off hi lo v) := by
  unfold State.putRw
  exact Kept.upd hk

theorem kept_incWrite {s0 : State} (s : State) (val : Word) (origin : Nat) (hk : Kept s0 s)  : Kept s0 (State.incWrite s val origin) := by
  unfold State.incWrite
  repeat' first
    | with_reducible assumption
    | with_reducible first
        | apply kept_post
        | apply kept_count
    | ((try lift_lets -underBinder); intro x; clear_value (hx : x = _); first
        | refine Kept.cut (s := s0) hx ?_ (fun kx => ?_)
        | refine Kept.cut2 (s := s0) hx ?_ (fun kx => ?_)
        | refine Kept.cut3 (s := s0) hx ?_ (fun kx => ?_)
        | refine Kept.cut1 (s := s0) hx ?_ (fun kx => ?_)
        | refine DieKept.cut (s := s0) hx ?_ (fun kx => ?_)
        | (have : Mgmt := x; subst hx)
        | (have : TimeSt := x; subst hx)
        | clear hx)
    | with_reducible refine kept_foldl _ _ _ ?_ (fun t a kt => ?_)
    | with_reducible refine kept_foldl2 _ _ _ ?_ (fun t a kt => ?_)
    | intro _
    | split
    | (with_reducible first | apply Kept.upd | apply Kept.updM | apply Kept.updT | apply Kept.updTM) <;> with_reducible first | assumption | apply kept_post | apply kept_count

theorem kept_stepWrite {s0 : State} (s : State) (val : Word) (origin : Nat) (hk : Kept s0 s)  : Kept s0 (State.stepWrite s val origin) := by
  unfold State.stepWrite
  repeat' first
    | with_reducible assumption
    | with_reducible first
        | apply kept_post
        | apply kept_count
    | ((try lift_lets -underBinder); intro x; clear_value (hx : x = _); first
        | refine Kept.cut (s := s0) hx ?_ (fun kx => ?_)
        | refine Kept.cut2 (s := s0) hx ?_ (fun kx => ?_)
        | refine Kept.cut3 (s := s0) hx ?_ (fun kx => ?_)
        | refine Kept.cut1 (s := s0) hx ?_ (fun kx => ?_)
        | refine DieKept.cut (s := s0) hx ?_ (fun kx => ?_)
        | (have : Mgmt := x; subst hx)
        | (have : TimeSt := x; subst hx)
        | clear hx)
    | with_reducible refine kept_foldl _ _ _ ?_ (fun t a kt => ?_)
    | with_reducible refine kept_foldl2 _ _ _ ?_ (fun t a kt => ?_)
    | intro _
    | split
    | (with_reducible first | apply Kept.upd | apply Kept.updM | apply Kept.updT | apply Kept.updTM) <;> with_reducible first | assumption | apply kept_post | apply kept_count

theorem kept_rebase {s0 : State} (s : State) (x : Nat) (hk : Kept s0 s)  : Kept s0 (State.rebase s x) := by
  unfold State.rebase
  exact Kept.updT hk

theorem kept_applyInc {s0 : State} (s : State) (hk : Kept s0 s)  : Kept s0 (State.applyInc s) := by
  unfold State.applyInc
  repeat' first
    | with_reducible assumption
    | with_reducible first
        | apply kept_journal
        | apply kept_rebase
    | ((try lift_lets -underBinder); intro x; clear_value (hx : x = _); first
        | refine Kept.cut (s := s0) hx ?_ (fun kx => ?_)
        | refine Kept.cut2 (s := s0) hx ?_ (fun kx => ?_)
        | refine Kept.cut3 (s := s0) hx ?_ (fun kx => ?_)
        | refine Kept.cut1 (s := s0) hx ?_ (fun kx => ?_)
        | refine DieKept.cut (s := s0) hx ?_ (fun kx => ?_)
        | (have : Mgmt := x; subst hx)
        | (have : TimeSt := x; subst hx)
        | clear hx)
    | with_reducible refine kept_foldl _ _ _ ?_ (fun t a kt => ?_)
    | with_reducible refine kept_foldl2 _ _ _ ?_ (fun t a kt => ?_)
    | intro _
    | split
    | (with_reducible first | apply Kept.upd | apply Kept.updM | apply Kept.updT | apply Kept.updTM) <;> with_reducible first | assumption | apply kept_journal | apply kept_rebase

theorem kept_setTpo {s0 : State} (s : State) (i : Nat) (x : Tpo) (hk : Kept s0 s)  : Kept s0 (State.setTpo s i x) := by
  unfold State.setTpo
  exact Kept.updT hk

theorem kept_drive {s0 : State} (s : State) (i : Nat) (level : Bool) (hk : Kept s0 s)  : Kept s0 (State.drive s i level) := by
  unfold State.drive
  repeat' first
    | with_reducible assumption
    | with_reducible first
        | apply kept_emit
    | ((try lift_lets -underBinder); intro x; clear_value (hx : x = _); first
        | refine Kept.cut (s := s0) hx ?_ (fun kx => ?_)
        | refine Kept.cut2 (s := s0) hx ?_ (fun kx => ?_)
        | (have : Mgmt := x; subst hx)
        | clear hx)
    | split
    | (with_reducible first | apply Kept.upd | apply Kept.updM | apply Kept.updT | apply Kept.updTM) <;> with_reducible first | assumption | apply kept_emit

theorem kept_drivePins {s0 : State} (s : State) (t : Tbl Tpo) (level : Bool) (hk : Kept s0 s)  : Kept s0 (State.drivePins s t level) := by
  unfold State.drivePins
  repeat' first
    | with_reducible assumption
    | with_reducible first
        | apply kept_emit
    | ((try lift_lets -underBinder); intro x; clear_value (hx : x = _); first
        | refine Kept.cut (s := s0) hx ?_ (fun kx => ?_)
        | refine Kept.cut2 (s := s0) hx ?_ (fun kx => ?_)
        | (have : Mgmt := x; subst hx)
        | clear hx)
    | with_reducible refine kept_foldl _ _ _ ?_ (fun t a kt => ?_)
    | intro _
    | split
    | (with_reducible first | apply Kept.upd | apply Kept.updM | apply Kept.updT | apply Kept.updTM) <;> with_reducible first | assumption | apply kept_emit

theorem kept_fire {s0 : State} (s : State) (i : Nat) (next : Nat) (late : Bool) (hk : Kept s0 s)  : Kept s0 (State.fire s i next late) := by
  unfold State.fire
  repeat' first
    | with_reducible assumption
    | with_reducible first
        | apply kept_post
        | apply kept_drive
        | apply kept_setTpo
        | apply kept_putRw
    | ((try lift_lets -underBinder); intro x; clear_value (hx : x = _); first
        | refine Kept.cut (s := s0) hx ?_ (fun kx => ?_)
        | refine Kept.cut2 (s := s0) hx ?_ (fun kx => ?_)
        | (have : Mgmt := x; subst hx)
        | clear hx)
    | split
    | (with_reducible first | apply Kept.upd | apply Kept.updM | apply Kept.updT | apply Kept.updTM) <;> with_reducible first | assumption | apply kept_post | apply kept_drive | apply kept_setTpo | apply kept_putRw

theorem kept_quietPulse {s0 : State} (s : State) (i : Nat) (hk : Kept s0 s)  : Kept s0 (State.quietPulse s i) := by
  unfold State.quietPulse
  repeat' first
    | with_reducible assumption
    | with_reducible first
        | apply kept_drive
        | apply kept_setTpo
    | ((try lift_lets -underBinder); intro x; clear_value (hx : x = _); first
        | refine Kept.cut (s := s0) hx ?_ (fun kx => ?_)
        | refine Kept.cut2 (s := s0) hx ?_ (fun kx => ?_)
        | (have : Mgmt := x; subst hx)
        | clear hx)
    | split
    | (with_reducible first | apply Kept.upd | apply Kept.updM | apply Kept.updT | apply Kept.updTM) <;> with_reducible first | assumption | apply kept_drive | apply kept_setTpo

theorem kept_tpoArm {s0 : State} (s : State) (i : Nat) (val : Word) (hk : Kept s0 s)  : Kept s0 (State.tpoArm s i val) := by
  have h1 := kept_quietPulse _ i (kept_setRw s (Reg.TIME_TPO_w0 i) (val &&& regMask (Reg.TIME_TPO_w0 i) .rw) hk)
  unfold State.tpoArm
  dsimp only
  repeat' split
  all_goals repeat' first
    | exact hk
    | exact h1
    | with_reducible apply kept_fire
    | with_reducible apply kept_count
    | with_reducible apply kept_drive
    | with_reducible apply kept_setTpo

theorem kept_edgeDue {s0 : State} (s : State) (i : Nat) (hk : Kept s0 s)  : Kept s0 (State.edgeDue s i) := by
  unfold State.edgeDue
  repeat' first
    | with_reducible assumption
    | with_reducible first
        | apply kept_fire
    | ((try lift_lets -underBinder); intro x; clear_value (hx : x = _); first
        | refine Kept.cut (s := s0) hx ?_ (fun kx => ?_)
        | refine Kept.cut2 (s := s0) hx ?_ (fun kx => ?_)
        | (have : Mgmt := x; subst hx)
        | clear hx)
    | split
    | (with_reducible first | apply Kept.upd | apply Kept.updM | apply Kept.updT | apply Kept.updTM) <;> with_reducible first | assumption | apply kept_fire

theorem kept_trailDue {s0 : State} (s : State) (i : Nat) (hk : Kept s0 s)  : Kept s0 (State.trailDue s i) := by
  unfold State.trailDue
  repeat' first
    | with_reducible assumption
    | with_reducible first
        | apply kept_quietPulse
    | ((try lift_lets -underBinder); intro x; clear_value (hx : x = _); first
        | refine Kept.cut (s := s0) hx ?_ (fun kx => ?_)
        | refine Kept.cut2 (s := s0) hx ?_ (fun kx => ?_)
        | (have : Mgmt := x; subst hx)
        | clear hx)
    | split
    | (with_reducible first | apply Kept.upd | apply Kept.updM | apply Kept.updT | apply Kept.updTM) <;> with_reducible first | assumption | apply kept_quietPulse

theorem kept_edgeBefore {s0 : State} (s : State) (t : Nat) (i : Nat) (hk : Kept s0 s)  : Kept s0 (State.edgeBefore s t i) := by
  unfold State.edgeBefore
  repeat' first
    | with_reducible assumption
    | with_reducible first
        | apply kept_fire
    | ((try lift_lets -underBinder); intro x; clear_value (hx : x = _); first
        | refine Kept.cut (s := s0) hx ?_ (fun kx => ?_)
        | refine Kept.cut2 (s := s0) hx ?_ (fun kx => ?_)
        | (have : Mgmt := x; subst hx)
        | clear hx)
    | split
    | (with_reducible first | apply Kept.upd | apply Kept.updM | apply Kept.updT | apply Kept.updTM) <;> with_reducible first | assumption | apply kept_fire

theorem kept_stepPulse {s0 : State} (s : State) (i : Nat) (hk : Kept s0 s)  : Kept s0 (State.stepPulse s i) := by
  unfold State.stepPulse
  repeat' first
    | with_reducible assumption
    | with_reducible first
        | apply kept_fire
        | apply kept_putRw
    | ((try lift_lets -underBinder); intro x; clear_value (hx : x = _); first
        | refine Kept.cut (s := s0) hx ?_ (fun kx => ?_)
        | refine Kept.cut2 (s := s0) hx ?_ (fun kx => ?_)
        | (have : Mgmt := x; subst hx)
        | clear hx)
    | split
    | (with_reducible first | apply Kept.upd | apply Kept.updM | apply Kept.updT | apply Kept.updTM) <;> with_reducible first | assumption | apply kept_fire | apply kept_putRw

theorem kept_pruneFelled {s0 : State} (s : State) (hk : Kept s0 s)  : Kept s0 (State.pruneFelled s) := by
  unfold State.pruneFelled
  exact Kept.updT hk

theorem kept_applyStep {s0 : State} (s : State) (hk : Kept s0 s)  : Kept s0 (State.applyStep s) := by
  unfold State.applyStep
  repeat' first
    | with_reducible assumption
    | with_reducible first
        | apply kept_post
        | apply kept_journal
        | apply kept_rebase
        | apply kept_stepPulse
        | apply kept_pruneFelled
        | apply kept_ptpFresh
    | ((try lift_lets -underBinder); intro x; clear_value (hx : x = _); first
        | refine Kept.cut (s := s0) hx ?_ (fun kx => ?_)
        | refine Kept.cut2 (s := s0) hx ?_ (fun kx => ?_)
        | refine Kept.cut3 (s := s0) hx ?_ (fun kx => ?_)
        | refine Kept.cut1 (s := s0) hx ?_ (fun kx => ?_)
        | refine DieKept.cut (s := s0) hx ?_ (fun kx => ?_)
        | (have : Mgmt := x; subst hx)
        | (have : TimeSt := x; subst hx)
        | clear hx)
    | with_reducible refine kept_foldl _ _ _ ?_ (fun t a kt => ?_)
    | with_reducible refine kept_foldl2 _ _ _ ?_ (fun t a kt => ?_)
    | intro _
    | split
    | (with_reducible first | apply Kept.upd | apply Kept.updM | apply Kept.updT | apply Kept.updTM) <;> with_reducible first | assumption | apply kept_post | apply kept_journal | apply kept_rebase | apply kept_stepPulse | apply kept_pruneFelled | apply kept_ptpFresh

theorem kept_applyAdopt {s0 : State} (s : State) (hk : Kept s0 s)  : Kept s0 (State.applyAdopt s) := by
  unfold State.applyAdopt
  repeat' first
    | with_reducible assumption
    | with_reducible first
        | apply kept_adoptFrom
    | ((try lift_lets -underBinder); intro x; clear_value (hx : x = _); first
        | refine Kept.cut (s := s0) hx ?_ (fun kx => ?_)
        | refine Kept.cut2 (s := s0) hx ?_ (fun kx => ?_)
        | (have : Mgmt := x; subst hx)
        | clear hx)
    | split
    | (with_reducible first | apply Kept.upd | apply Kept.updM | apply Kept.updT | apply Kept.updTM) <;> with_reducible first | assumption | apply kept_adoptFrom

theorem kept_setCap {s0 : State} (s : State) (c : Nat) (x : Cap) (hk : Kept s0 s)  : Kept s0 (State.setCap s c x) := by
  unfold State.setCap
  exact Kept.updT hk

theorem kept_captureEdge {s0 : State} (s : State) (c : Nat) (rising : Bool) (sub : Nat) (hk : Kept s0 s)  : Kept s0 (State.captureEdge s c rising sub) := by
  unfold State.captureEdge
  dsimp only
  repeat' first | assumption | split | apply kept_setCap | apply kept_putRw

theorem kept_latchW {s0 : State} (s : State) (off : Nat) (v : Nat) (hk : Kept s0 s)  : Kept s0 (State.latchW s off v) := by
  unfold State.latchW
  exact Kept.upd hk

theorem kept_captureRead {s0 : State} (s : State) (c : Nat) (hk : Kept s0 s)  : Kept s0 (State.captureRead s c) := by
  unfold State.captureRead
  repeat' first
    | with_reducible assumption
    | with_reducible first
        | apply kept_setCap
        | apply kept_latchW
        | apply kept_emit
    | ((try lift_lets -underBinder); intro x; clear_value (hx : x = _); first
        | refine Kept.cut (s := s0) hx ?_ (fun kx => ?_)
        | refine Kept.cut2 (s := s0) hx ?_ (fun kx => ?_)
        | (have : Mgmt := x; subst hx)
        | clear hx)
    | split
    | (with_reducible first | apply Kept.upd | apply Kept.updM | apply Kept.updT | apply Kept.updTM) <;> with_reducible first | assumption | apply kept_setCap | apply kept_latchW | apply kept_emit

theorem kept_fellFinish {s0 : State} (s : State) (d : List Byte) (r : Rec) (hk : Kept s0 s)  : Kept s0 (State.fellFinish s d r) := by
  unfold State.fellFinish
  repeat' first
    | with_reducible assumption
    | with_reducible first
        | apply kept_recordWrite
        | apply kept_mboxDone
    | ((try lift_lets -underBinder); intro x; clear_value (hx : x = _); first
        | refine Kept.cut (s := s0) hx ?_ (fun kx => ?_)
        | refine Kept.cut2 (s := s0) hx ?_ (fun kx => ?_)
        | (have : Mgmt := x; subst hx)
        | clear hx)
    | split
    | (with_reducible first | apply Kept.upd | apply Kept.updM | apply Kept.updT | apply Kept.updTM) <;> with_reducible first | assumption | apply kept_recordWrite | apply kept_mboxDone

theorem kept_fellCmd {s0 : State} (s : State) (i : Nat) (hk : Kept s0 s)  : Kept s0 (State.fellCmd s i) := by
  unfold State.fellCmd
  split
  · exact hk
  · next c s1 e =>
    have h1 : Kept s0 s1 := kept_takeCmd (hk := hk) (e := e)
    extract_lets d kind h set st r0 bad n en rr
    split
    · refine ⟨hk.pending, hk.raw, hk.out, hk.mem, fun m => ?_, hk.boot⟩
      have hm := hk.mbox m
      simp only [State.mboxOk, decide_eq_true_eq] at hm ⊢
      simpa using hm
    · split
      · exact kept_fellFinish (hk := h1) ..
      · split
        · exact kept_fellFinish (hk := kept_reject (hk := h1) ..) ..
        · exact kept_fellFinish (hk := Kept.updT h1) ..

theorem kept_fcancel {s0 : State} (s : State) (i : Nat) (hk : Kept s0 s)  : Kept s0 (State.fcancel s i) := by
  unfold State.fcancel
  repeat' first
    | with_reducible assumption
    | with_reducible first
        | refine kept_takeCmd (hk := ?_) (e := by assumption) <;> assumption
        | apply kept_fellFinish
    | ((try lift_lets -underBinder); intro x; clear_value (hx : x = _); first
        | refine Kept.cut (s := s0) hx ?_ (fun kx => ?_)
        | refine Kept.cut2 (s := s0) hx ?_ (fun kx => ?_)
        | refine Kept.cut3 (s := s0) hx ?_ (fun kx => ?_)
        | refine Kept.cut1 (s := s0) hx ?_ (fun kx => ?_)
        | refine DieKept.cut (s := s0) hx ?_ (fun kx => ?_)
        | (have : Mgmt := x; subst hx)
        | (have : TimeSt := x; subst hx)
        | clear hx)
    | with_reducible refine kept_foldl _ _ _ ?_ (fun t a kt => ?_)
    | with_reducible refine kept_foldl2 _ _ _ ?_ (fun t a kt => ?_)
    | intro _
    | split
    | (with_reducible first | apply Kept.upd | apply Kept.updM | apply Kept.updT | apply Kept.updTM) <;> with_reducible first | assumption | refine kept_takeCmd (hk := ?_) (e := by assumption) <;> assumption | apply kept_fellFinish

theorem kept_fellJournal {s0 : State} (s : State) (n : Nat) (f : Fell) (skipped : Bool) (dig : Option (List Byte)) (hk : Kept s0 s)  : Kept s0 (State.fellJournal s n f skipped dig) := by
  unfold State.fellJournal
  exact kept_journal (hk := hk) ..

theorem kept_putExact {s0 : State} (s : State) (b : Bool) (hk : Kept s0 s)  : Kept s0 (State.putExact s b) := by
  unfold State.putExact
  exact Kept.upd hk

theorem kept_fellApply {s0 : State} (s : State) (n : Nat) (hk : Kept s0 s)  : Kept s0 (State.fellApply s n) := by
  unfold State.fellApply
  split
  · exact hk
  · next f _ =>
    split
    · exact hk
    · extract_lets t0 s1 x done keep
      have h1 : Kept s0 s1 := Kept.updT hk
      have hkeep : ∀ t, Kept s0 t → Kept s0 (keep t) := fun t h => kept_pruneFelled (hk := kept_keepMode (hk := Kept.updT h) ..) ..
      clear_value s1 x keep
      clear t0
      repeat' first
        | with_reducible assumption
        | with_reducible first
          | apply hkeep
          | apply kept_post
          | apply kept_settle
          | apply kept_journal
          | apply kept_activate
          | apply kept_fellJournal
          | apply kept_modeChange
          | apply kept_applySet
          | apply kept_putExact
        | split

end Sys2Proof.Machine
end

