-- ==== Sys2Proof/Laws/KeptRepair.lean ====
section
/-! SUPPORT. What the operations of Repair.lean keep (Laws/Kept.lean). -/
namespace Sys2Proof.Machine
set_option linter.all false

theorem kept_sendBeat {s0 : State} (s : State) (leaving : Bool) (hk : Kept s0 s)  : Kept s0 (State.sendBeat s leaving) := by
  unfold State.sendBeat
  repeat' first
    | with_reducible assumption
    | with_reducible first
        | apply kept_addReply
    | ((try lift_lets -underBinder); intro x; clear_value (hx : x = _); first
        | refine Kept.cut (s := s0) hx ?_ (fun kx => ?_)
        | refine Kept.cut2 (s := s0) hx ?_ (fun kx => ?_)
        | (have : Mgmt := x; subst hx)
        | clear hx)
    | split
    | (with_reducible first | apply Kept.upd | apply Kept.updM | apply Kept.updT | apply Kept.updTM) <;> with_reducible first | assumption | apply kept_addReply

theorem kept_heartbeat {s0 : State} (s : State) (hk : Kept s0 s)  : Kept s0 (State.heartbeat s) := by
  unfold State.heartbeat
  repeat' first
    | with_reducible assumption
    | with_reducible first
        | apply kept_sendBeat
    | ((try lift_lets -underBinder); intro x; clear_value (hx : x = _); first
        | refine Kept.cut (s := s0) hx ?_ (fun kx => ?_)
        | refine Kept.cut2 (s := s0) hx ?_ (fun kx => ?_)
        | (have : Mgmt := x; subst hx)
        | clear hx)
    | split
    | (with_reducible first | apply Kept.upd | apply Kept.updM | apply Kept.updT | apply Kept.updTM) <;> with_reducible first | assumption | apply kept_sendBeat

theorem kept_itemFail {s0 : State} (s : State) (final : Bool) (n : Nat) (hk : Kept s0 s)  : Kept s0 (State.itemFail s final n) := by
  unfold State.itemFail
  repeat' first
    | with_reducible assumption
    | with_reducible first
        | apply kept_unitFail
        | apply kept_ctxFail
    | ((try lift_lets -underBinder); intro x; clear_value (hx : x = _); first
        | refine Kept.cut (s := s0) hx ?_ (fun kx => ?_)
        | refine Kept.cut2 (s := s0) hx ?_ (fun kx => ?_)
        | (have : Mgmt := x; subst hx)
        | clear hx)
    | split
    | (with_reducible first | apply Kept.upd | apply Kept.updM | apply Kept.updT | apply Kept.updTM) <;> with_reducible first | assumption | apply kept_unitFail | apply kept_ctxFail

theorem kept_leaveService {s0 : State} (s : State) (hk : Kept s0 s)  : Kept s0 (State.leaveService s) := by
  unfold State.leaveService
  repeat' first
    | with_reducible assumption
    | with_reducible first
        | apply kept_boomFault
        | apply kept_itemFail
        | apply kept_settle
        | apply kept_sendBeat
    | ((try lift_lets -underBinder); intro x; clear_value (hx : x = _); first
        | refine Kept.cut (s := s0) hx ?_ (fun kx => ?_)
        | refine Kept.cut2 (s := s0) hx ?_ (fun kx => ?_)
        | (have : Mgmt := x; subst hx)
        | clear hx)
    | with_reducible refine kept_foldl _ _ _ ?_ (fun t a kt => ?_)
    | intro _
    | split
    | (with_reducible first | apply Kept.upd | apply Kept.updM | apply Kept.updT | apply Kept.updTM) <;> with_reducible first | assumption | apply kept_boomFault | apply kept_itemFail | apply kept_settle | apply kept_sendBeat

theorem kept_repairEntry {s0 : State} (s : State) (e : MapEnt) (mark : Nat) (origin : Nat) (hk : Kept s0 s)  : Kept s0 (State.repairEntry s e mark origin) := by
  unfold State.repairEntry
  exact kept_journal (hk := hk) ..

theorem kept_enterMap {s0 : State} (s : State) (u : UnitId) (cause : Nat) (origin : Nat) (hk : Kept s0 s)  : Kept s0 (State.enterMap s u cause origin) := by
  unfold State.enterMap
  repeat' first
    | with_reducible assumption
    | with_reducible first
        | apply kept_post
        | apply kept_repairEntry
        | apply kept_count
    | ((try lift_lets -underBinder); intro x; clear_value (hx : x = _); first
        | refine Kept.cut (s := s0) hx ?_ (fun kx => ?_)
        | refine Kept.cut2 (s := s0) hx ?_ (fun kx => ?_)
        | (have : Mgmt := x; subst hx)
        | clear hx)
    | split
    | (with_reducible first | apply Kept.upd | apply Kept.updM | apply Kept.updT | apply Kept.updTM) <;> with_reducible first | assumption | apply kept_post | apply kept_repairEntry | apply kept_count

theorem kept_repaired {s0 : State} (s : State) (u : UnitId) (cause : Nat) (origin : Nat) (hk : Kept s0 s)  : Kept s0 (State.repaired s u cause origin) := by
  unfold State.repaired
  repeat' first
    | with_reducible assumption
    | with_reducible first
        | apply kept_post
        | apply kept_repairEntry
        | apply kept_count
    | ((try lift_lets -underBinder); intro x; clear_value (hx : x = _); first
        | refine Kept.cut (s := s0) hx ?_ (fun kx => ?_)
        | refine Kept.cut2 (s := s0) hx ?_ (fun kx => ?_)
        | (have : Mgmt := x; subst hx)
        | clear hx)
    | split
    | (with_reducible first | apply Kept.upd | apply Kept.updM | apply Kept.updT | apply Kept.updTM) <;> with_reducible first | assumption | apply kept_post | apply kept_repairEntry | apply kept_count

theorem kept_failRun {s0 : State} (s : State) (rid : Nat) (r : ArrayRun) (v : Version) (cp : ACopy) (final : Bool) (hk : Kept s0 s)  : Kept s0 (State.failRun s rid r v cp final) := by
  unfold State.failRun
  repeat' first
    | with_reducible assumption
    | with_reducible first
        | apply kept_unitFail
        | apply kept_dropTokens
        | apply kept_ctxFail
    | ((try lift_lets -underBinder); intro x; clear_value (hx : x = _); first
        | refine Kept.cut (s := s0) hx ?_ (fun kx => ?_)
        | refine Kept.cut2 (s := s0) hx ?_ (fun kx => ?_)
        | (have : Mgmt := x; subst hx)
        | clear hx)
    | split
    | (with_reducible first | apply Kept.upd | apply Kept.updM | apply Kept.updT | apply Kept.updTM) <;> with_reducible first | assumption | apply kept_unitFail | apply kept_dropTokens | apply kept_ctxFail

theorem kept_failCopy {s0 : State} (s : State) (h : Nat) (v : Version) (c : Nat) (cp : ACopy) (keep : Bool) (final : Bool) (hk : Kept s0 s)  : Kept s0 (State.failCopy s h v c cp keep final) := by
  unfold State.failCopy
  repeat' first
    | with_reducible assumption
    | with_reducible first
        | apply kept_failRun
    | ((try lift_lets -underBinder); intro x; clear_value (hx : x = _); first
        | refine Kept.cut (s := s0) hx ?_ (fun kx => ?_)
        | refine Kept.cut2 (s := s0) hx ?_ (fun kx => ?_)
        | (have : Mgmt := x; subst hx)
        | clear hx)
    | with_reducible refine kept_foldl _ _ _ ?_ (fun t a kt => ?_)
    | intro _
    | split
    | (with_reducible first | apply Kept.upd | apply Kept.updM | apply Kept.updT | apply Kept.updTM) <;> with_reducible first | assumption | apply kept_failRun

theorem kept_stateLost {s0 : State} (s : State) (h : Nat) (v : Version) (c : Nat) (cp : ACopy) (hk : Kept s0 s)  : Kept s0 (State.stateLost s h v c cp).2 := by
  unfold State.stateLost
  repeat' first
    | with_reducible assumption
    | with_reducible first
        | apply kept_post
        | apply kept_modVer
        | apply kept_ctxFail
    | ((try lift_lets -underBinder); intro x; clear_value (hx : x = _); first
        | refine Kept.cut (s := s0) hx ?_ (fun kx => ?_)
        | refine Kept.cut2 (s := s0) hx ?_ (fun kx => ?_)
        | (have : Mgmt := x; subst hx)
        | clear hx)
    | with_reducible refine kept_foldl _ _ _ ?_ (fun t a kt => ?_)
    | intro _
    | split
    | (with_reducible first | apply Kept.upd | apply Kept.updM | apply Kept.updT | apply Kept.updTM) <;> with_reducible first | assumption | apply kept_post | apply kept_modVer | apply kept_ctxFail

theorem kept_failSamples {s0 : State} (s : State) (h : Nat) (n : Nat) (p : Nat → ForestRun → Bool) (hk : Kept s0 s)  : Kept s0 (State.failSamples s h n p) := by
  unfold State.failSamples
  repeat' first
    | with_reducible assumption
    | with_reducible first
        | apply kept_itemFail
    | ((try lift_lets -underBinder); intro x; clear_value (hx : x = _); first
        | refine Kept.cut (s := s0) hx ?_ (fun kx => ?_)
        | refine Kept.cut2 (s := s0) hx ?_ (fun kx => ?_)
        | (have : Mgmt := x; subst hx)
        | clear hx)
    | with_reducible refine kept_foldl _ _ _ ?_ (fun t a kt => ?_)
    | intro _
    | split
    | (with_reducible first | apply Kept.upd | apply Kept.updM | apply Kept.updT | apply Kept.updTM) <;> with_reducible first | assumption | apply kept_itemFail

theorem kept_badFevals {s0 : State} (s : State) (h : Nat) (v : Version) (cs : List Nat) (hk : Kept s0 s)  : Kept s0 (State.badFevals s h v cs) := by
  unfold State.badFevals
  exact Kept.upd hk

theorem kept_failLanes {s0 : State} (s : State) (hit : Nat × Nat × Nat → Bool) (hk : Kept s0 s)  : Kept s0 (State.failLanes s hit) := by
  unfold State.failLanes
  repeat' first
    | with_reducible assumption
    | with_reducible first
        | apply kept_badFevals
        | apply kept_failSamples
    | ((try lift_lets -underBinder); intro x; clear_value (hx : x = _); first
        | refine Kept.cut (s := s0) hx ?_ (fun kx => ?_)
        | refine Kept.cut2 (s := s0) hx ?_ (fun kx => ?_)
        | (have : Mgmt := x; subst hx)
        | clear hx)
    | with_reducible refine kept_foldl _ _ _ ?_ (fun t a kt => ?_)
    | intro _
    | split
    | (with_reducible first | apply Kept.upd | apply Kept.updM | apply Kept.updT | apply Kept.updTM) <;> with_reducible first | assumption | apply kept_badFevals | apply kept_failSamples

theorem kept_loseArray {s0 : State} (s : State) (h : Nat) (v : Version) (x : Lost) (hk : Kept s0 s)  : Kept s0 (State.loseArray s h v x) := by
  unfold State.loseArray
  repeat' first
    | with_reducible assumption
    | with_reducible first
        | apply kept_stateLost
        | apply kept_modVer
        | apply kept_failCopy
        | apply kept_unloadCopy
    | ((try lift_lets -underBinder); intro x; clear_value (hx : x = _); first
        | refine Kept.cut (s := s0) hx ?_ (fun kx => ?_)
        | refine Kept.cut2 (s := s0) hx ?_ (fun kx => ?_)
        | (have : Mgmt := x; subst hx)
        | clear hx)
    | with_reducible refine kept_foldl _ _ _ ?_ (fun t a kt => ?_)
    | intro _
    | split
    | (with_reducible first | apply Kept.upd | apply Kept.updM | apply Kept.updT | apply Kept.updTM) <;> with_reducible first | assumption | apply kept_stateLost | apply kept_modVer | apply kept_failCopy | apply kept_unloadCopy

theorem kept_loadEnds {s0 : State} (s : State) (h : Nat) (r : Rec) (hk : Kept s0 s)  : Kept s0 (State.loadEnds s h r) := by
  unfold State.loadEnds
  exact Kept.updM hk

theorem kept_stagedLost {s0 : State} (s : State) (h : Nat) (v : Version) (hk : Kept s0 s)  : Kept s0 (State.stagedLost s h v) := by
  unfold State.stagedLost
  repeat' first
    | with_reducible assumption
    | with_reducible first
        | apply kept_post
        | apply kept_dropStaged
        | apply kept_loadEnds
    | ((try lift_lets -underBinder); intro x; clear_value (hx : x = _); first
        | refine Kept.cut (s := s0) hx ?_ (fun kx => ?_)
        | refine Kept.cut2 (s := s0) hx ?_ (fun kx => ?_)
        | (have : Mgmt := x; subst hx)
        | clear hx)
    | split
    | (with_reducible first | apply Kept.upd | apply Kept.updM | apply Kept.updT | apply Kept.updTM) <;> with_reducible first | assumption | apply kept_post | apply kept_dropStaged | apply kept_loadEnds

theorem kept_stagedBad {s0 : State} (s : State) (h : Nat) (v : Version) (hk : Kept s0 s)  : Kept s0 (State.stagedBad s h v) := by
  unfold State.stagedBad
  repeat' first
    | with_reducible assumption
    | with_reducible first
        | apply kept_dropStaged
        | apply kept_degraded
        | apply kept_loadEnds
    | ((try lift_lets -underBinder); intro x; clear_value (hx : x = _); first
        | refine Kept.cut (s := s0) hx ?_ (fun kx => ?_)
        | refine Kept.cut2 (s := s0) hx ?_ (fun kx => ?_)
        | (have : Mgmt := x; subst hx)
        | clear hx)
    | split
    | (with_reducible first | apply Kept.upd | apply Kept.updM | apply Kept.updT | apply Kept.updTM) <;> with_reducible first | assumption | apply kept_dropStaged | apply kept_degraded | apply kept_loadEnds

theorem kept_planAgain {s0 : State} (s : State) (h : Nat) (v : Version) (hk : Kept s0 s)  : Kept s0 (State.planAgain s h v) := by
  unfold State.planAgain
  repeat' first
    | with_reducible assumption
    | with_reducible first
        | apply kept_stagedLost
        | apply kept_dropStaged
        | apply kept_setHandle
        | apply kept_loadEnds
    | ((try lift_lets -underBinder); intro x; clear_value (hx : x = _); first
        | refine Kept.cut (s := s0) hx ?_ (fun kx => ?_)
        | refine Kept.cut2 (s := s0) hx ?_ (fun kx => ?_)
        | (have : Mgmt := x; subst hx)
        | clear hx)
    | split
    | (with_reducible first | apply Kept.upd | apply Kept.updM | apply Kept.updT | apply Kept.updTM) <;> with_reducible first | assumption | apply kept_stagedLost | apply kept_dropStaged | apply kept_setHandle | apply kept_loadEnds

theorem kept_restage {s0 : State} (s : State) (hit : Bool) (h : Nat) (hk : Kept s0 s)  : Kept s0 (State.restage s hit h) := by
  have hgo : ∀ (l : List Nat) (o : Option State), (∀ t, o = some t → Kept s0 t) → ∀ t,
      l.foldl (fun (a : Option State) c => a.bind (fun s =>
        match (s.handle h).staged with | some w => s.tryReplace h w c | none => none)) o = some t → Kept s0 t := by
    intro l
    induction l with
    | nil => exact fun o ho => ho
    | cons c l ih =>
      intro o ho
      refine ih _ (fun t e => ?_)
      obtain ⟨u, hu, e⟩ := Option.bind_eq_some_iff.1 e
      split at e
      · exact kept_tryReplace (hk := ho u hu) (e := e)
      · cases e
  unfold State.restage
  split
  · exact hk
  · rename_i v _
    extract_lets cs sound u go
    have hu : Kept s0 u := kept_mirrorHeal (hk := hk) ..
    have hg : ∀ t, go = some t → Kept s0 t := hgo cs (some u) (fun t e => by cases e; exact hu)
    clear_value go
    clear_value cs sound u
    split
    · exact hk
    · split
      · exact kept_stagedBad (hk := hu) ..
      · split
        · exact kept_planAgain (hk := hu) ..
        · cases go with
          | some t => exact hg t rfl
          | none => exact kept_stagedLost (hk := hu) ..

theorem kept_restop {s0 : State} (s : State) (hk : Kept s0 s)  : Kept s0 (State.restop s) := by
  unfold State.restop
  repeat' first
    | with_reducible assumption
    | ((try lift_lets -underBinder); intro x; clear_value (hx : x = _); first
        | refine Kept.cut (s := s0) hx ?_ (fun kx => ?_)
        | refine Kept.cut2 (s := s0) hx ?_ (fun kx => ?_)
        | (have : Mgmt := x; subst hx)
        | clear hx)
    | split
    | (with_reducible first | apply Kept.upd | apply Kept.updM | apply Kept.updT | apply Kept.updTM) <;> with_reducible first | assumption

theorem kept_lose {s0 : State} (s : State) (x : Lost) (hk : Kept s0 s)  : Kept s0 (State.lose s x) := by
  unfold State.lose
  repeat' first
    | with_reducible assumption
    | with_reducible first
        | apply kept_modVer
        | apply kept_settle
        | apply kept_restop
        | apply kept_failLanes
        | apply kept_restage
        | apply kept_loseArray
    | ((try lift_lets -underBinder); intro x; clear_value (hx : x = _); first
        | refine Kept.cut (s := s0) hx ?_ (fun kx => ?_)
        | refine Kept.cut2 (s := s0) hx ?_ (fun kx => ?_)
        | refine Kept.cut3 (s := s0) hx ?_ (fun kx => ?_)
        | refine Kept.cut1 (s := s0) hx ?_ (fun kx => ?_)
        | refine DieKept.cut (s := s0) hx ?_ (fun kx => ?_)
        | (have : Mgmt := x; subst hx)
        | (have : TimeSt := x; subst hx)
        | clear hx)
    | with_reducible refine kept_foldl _ _ _ ?_ (fun t a kt => ?_)
    | with_reducible refine kept_foldl2 _ _ _ ?_ (fun t a kt => ?_)
    | intro _
    | split
    | (with_reducible first | apply Kept.upd | apply Kept.updM | apply Kept.updT | apply Kept.updTM) <;> with_reducible first | assumption | apply kept_modVer | apply kept_settle | apply kept_restop | apply kept_failLanes | apply kept_restage | apply kept_loseArray | refine kept_foldl _ _ _ ?_ (fun _ _ kt => ?_)

theorem kept_retireCmpt {s0 : State} (s : State) (d : Nat) (c : Nat) (cause : Nat) (origin : Nat) (hk : Kept s0 s)  : Kept s0 (State.retireCmpt s d c cause origin) := by
  unfold State.retireCmpt
  repeat' first
    | with_reducible assumption
    | with_reducible first
        | apply kept_enterMap
        | apply kept_lose
    | ((try lift_lets -underBinder); intro x; clear_value (hx : x = _); first
        | refine Kept.cut (s := s0) hx ?_ (fun kx => ?_)
        | refine Kept.cut2 (s := s0) hx ?_ (fun kx => ?_)
        | (have : Mgmt := x; subst hx)
        | clear hx)
    | split
    | (with_reducible first | apply Kept.upd | apply Kept.updM | apply Kept.updT | apply Kept.updTM) <;> with_reducible first | assumption | apply kept_enterMap | apply kept_lose

theorem kept_losePort {s0 : State} (s : State) (d : Nat) (hk : Kept s0 s)  : Kept s0 (State.losePort s d) := by
  unfold State.losePort
  repeat' first
    | with_reducible assumption
    | with_reducible first
        | apply kept_itemFail
        | apply kept_setDie
        | apply dieKept_die
        | apply dieKept_putByte
        | apply dieKept_heal
        | apply dieKept_writeSpans
        | apply memKept_clearSpans
        | apply memKept_writeSpans
        | apply dieKept_upd
        | apply memKept_writeN
        | apply memKept_write
        | apply memKept_clear
        | apply memKept_sramMove
        | apply memKept_dram
        | apply memKept_sram
        | exact memKept_nil
    | ((try lift_lets -underBinder); intro x; clear_value (hx : x = _); first
        | refine Kept.cut (s := s0) hx ?_ (fun kx => ?_)
        | refine Kept.cut2 (s := s0) hx ?_ (fun kx => ?_)
        | refine Kept.cut3 (s := s0) hx ?_ (fun kx => ?_)
        | refine Kept.cut1 (s := s0) hx ?_ (fun kx => ?_)
        | refine DieKept.cut (s := s0) hx ?_ (fun kx => ?_)
        | (have : Mgmt := x; subst hx)
        | (have : TimeSt := x; subst hx)
        | clear hx)
    | with_reducible refine kept_foldl _ _ _ ?_ (fun t a kt => ?_)
    | with_reducible refine kept_foldl2 _ _ _ ?_ (fun t a kt => ?_)
    | intro _
    | split
    | (with_reducible first | apply Kept.upd | apply Kept.updM | apply Kept.updT | apply Kept.updTM) <;> with_reducible first | assumption | apply kept_itemFail | apply kept_setDie | apply dieKept_die | apply dieKept_putByte | apply dieKept_heal | apply dieKept_writeSpans | apply memKept_clearSpans | apply memKept_writeSpans | apply dieKept_upd | apply memKept_writeN | apply memKept_write | apply memKept_clear | apply memKept_sramMove | apply memKept_dram | apply memKept_sram | exact memKept_nil

theorem kept_retireDie {s0 : State} (s : State) (d : Nat) (cause : Nat) (origin : Nat) (port : Bool) (hk : Kept s0 s)  : Kept s0 (State.retireDie s d cause origin port) := by
  unfold State.retireDie
  repeat' first
    | with_reducible assumption
    | with_reducible first
        | apply kept_enterMap
        | apply kept_repairEntry
        | apply kept_leaveService
        | apply kept_lose
        | apply kept_settle
        | apply kept_losePort
        | apply dieKept_die
        | apply dieKept_putByte
        | apply dieKept_heal
        | apply dieKept_writeSpans
        | apply memKept_clearSpans
        | apply memKept_writeSpans
        | apply dieKept_upd
        | apply memKept_writeN
        | apply memKept_write
        | apply memKept_clear
        | apply memKept_sramMove
        | apply memKept_dram
        | apply memKept_sram
        | exact memKept_nil
    | ((try lift_lets -underBinder); intro x; clear_value (hx : x = _); first
        | refine Kept.cut (s := s0) hx ?_ (fun kx => ?_)
        | refine Kept.cut2 (s := s0) hx ?_ (fun kx => ?_)
        | (have : Mgmt := x; subst hx)
        | clear hx)
    | split
    | (with_reducible first | apply Kept.upd | apply Kept.updM | apply Kept.updT | apply Kept.updTM) <;> with_reducible first | assumption | apply kept_enterMap | apply kept_repairEntry | apply kept_leaveService | apply kept_lose | apply kept_settle | apply kept_losePort | apply dieKept_die | apply dieKept_putByte | apply dieKept_heal | apply dieKept_writeSpans | apply memKept_clearSpans | apply memKept_writeSpans | apply dieKept_upd | apply memKept_writeN | apply memKept_write | apply memKept_clear | apply memKept_sramMove | apply memKept_dram | apply memKept_sram | exact memKept_nil

theorem kept_stopCopies {s0 : State} (s : State) (u : UnitId) (lost : List Nat) (hk : Kept s0 s)  : Kept s0 (State.stopCopies s u lost) := by
  unfold State.stopCopies
  repeat' first
    | with_reducible assumption
    | with_reducible first
        | apply kept_stateLost
        | apply kept_failCopy
    | ((try lift_lets -underBinder); intro x; clear_value (hx : x = _); first
        | refine Kept.cut (s := s0) hx ?_ (fun kx => ?_)
        | refine Kept.cut2 (s := s0) hx ?_ (fun kx => ?_)
        | (have : Mgmt := x; subst hx)
        | clear hx)
    | with_reducible refine kept_foldl _ _ _ ?_ (fun t a kt => ?_)
    | intro _
    | split
    | (with_reducible first | apply Kept.upd | apply Kept.updM | apply Kept.updT | apply Kept.updTM) <;> with_reducible first | assumption | apply kept_stateLost | apply kept_failCopy

theorem kept_shadowStop {s0 : State} (s : State) (d : Nat) (e : Nat) (l : Nat) (hk : Kept s0 s)  : Kept s0 (State.shadowStop s d e l) := by
  unfold State.shadowStop
  repeat' first
    | with_reducible assumption
    | ((try lift_lets -underBinder); intro x; clear_value (hx : x = _); first
        | refine Kept.cut (s := s0) hx ?_ (fun kx => ?_)
        | refine Kept.cut2 (s := s0) hx ?_ (fun kx => ?_)
        | (have : Mgmt := x; subst hx)
        | clear hx)
    | split
    | (with_reducible first | apply Kept.upd | apply Kept.updM | apply Kept.updT | apply Kept.updTM) <;> with_reducible first | assumption

theorem kept_swapLanes {s0 : State} (s : State) (d : Nat) (e : Nat) (a : Nat) (b : Nat) (hk : Kept s0 s)  : Kept s0 (State.swapLanes s d e a b) := by
  unfold State.swapLanes
  exact Kept.upd hk

theorem kept_stopLane {s0 : State} (s : State) (d : Nat) (e : Nat) (l : Nat) (stop : Bool) (hk : Kept s0 s)  : Kept s0 (State.stopLane s d e l stop) := by
  unfold State.stopLane
  repeat' first
    | with_reducible assumption
    | ((try lift_lets -underBinder); intro x; clear_value (hx : x = _); first
        | refine Kept.cut (s := s0) hx ?_ (fun kx => ?_)
        | refine Kept.cut2 (s := s0) hx ?_ (fun kx => ?_)
        | (have : Mgmt := x; subst hx)
        | clear hx)
    | split
    | (with_reducible first | apply Kept.upd | apply Kept.updM | apply Kept.updT | apply Kept.updTM) <;> with_reducible first | assumption

theorem kept_markSuspect {s0 : State} (s : State) (u : UnitId) (hk : Kept s0 s)  : Kept s0 (State.markSuspect s u) := by
  unfold State.markSuspect
  exact Kept.upd hk

theorem kept_beginMove {s0 : State} (s : State) (u : UnitId) (k : Nat) (test : Bool) (dead : List Nat) (hk : Kept s0 s)  : Kept s0 (State.beginMove s u k test dead) := by
  unfold State.beginMove
  repeat' first
    | with_reducible assumption
    | with_reducible first
        | apply kept_shadowStop
        | apply kept_stopCopies
        | apply kept_stopLane
        | apply kept_failLanes
    | ((try lift_lets -underBinder); intro x; clear_value (hx : x = _); first
        | refine Kept.cut (s := s0) hx ?_ (fun kx => ?_)
        | refine Kept.cut2 (s := s0) hx ?_ (fun kx => ?_)
        | (have : Mgmt := x; subst hx)
        | clear hx)
    | split
    | (with_reducible first | apply Kept.upd | apply Kept.updM | apply Kept.updT | apply Kept.updTM) <;> with_reducible first | assumption | apply kept_shadowStop | apply kept_stopCopies | apply kept_stopLane | apply kept_failLanes

theorem kept_replaceUnit {s0 : State} (s : State) (u : UnitId) (origin : Nat) (dead : List Nat) (hk : Kept s0 s)  : Kept s0 (State.replaceUnit s u origin dead) := by
  unfold State.replaceUnit
  repeat' first
    | with_reducible assumption
    | with_reducible first
        | apply kept_enterMap
        | apply kept_retireCmpt
        | apply kept_beginMove
    | ((try lift_lets -underBinder); intro x; clear_value (hx : x = _); first
        | refine Kept.cut (s := s0) hx ?_ (fun kx => ?_)
        | refine Kept.cut2 (s := s0) hx ?_ (fun kx => ?_)
        | (have : Mgmt := x; subst hx)
        | clear hx)
    | split
    | (with_reducible first | apply Kept.upd | apply Kept.updM | apply Kept.updT | apply Kept.updTM) <;> with_reducible first | assumption | apply kept_enterMap | apply kept_retireCmpt | apply kept_beginMove

theorem kept_abandonOnto {s0 : State} (s : State) (u : UnitId) (origin : Nat) (hk : Kept s0 s)  : Kept s0 (State.abandonOnto s u origin) := by
  unfold State.abandonOnto
  repeat' first
    | with_reducible assumption
    | with_reducible first
        | apply kept_replaceUnit
        | apply kept_restop
        | apply kept_markSuspect
    | ((try lift_lets -underBinder); intro x; clear_value (hx : x = _); first
        | refine Kept.cut (s := s0) hx ?_ (fun kx => ?_)
        | refine Kept.cut2 (s := s0) hx ?_ (fun kx => ?_)
        | (have : Mgmt := x; subst hx)
        | clear hx)
    | with_reducible refine kept_foldl _ _ _ ?_ (fun t a kt => ?_)
    | intro _
    | split
    | (with_reducible first | apply Kept.upd | apply Kept.updM | apply Kept.updT | apply Kept.updTM) <;> with_reducible first | assumption | apply kept_replaceUnit | apply kept_restop | apply kept_markSuspect

theorem kept_failUnit {s0 : State} (s : State) (u : UnitId) (cause : Nat) (origin : Nat) (readable : Bool) (hk : Kept s0 s)  : Kept s0 (State.failUnit s u cause origin readable) := by
  unfold State.failUnit
  repeat' first
    | with_reducible assumption
    | with_reducible first
        | apply kept_enterMap
        | apply kept_shadowStop
        | apply kept_retireDie
        | apply kept_abandonOnto
        | apply kept_leaveService
        | apply kept_portDown
        | apply kept_replaceUnit
        | apply kept_retireCmpt
        | apply kept_beginMove
    | ((try lift_lets -underBinder); intro x; clear_value (hx : x = _); first
        | refine Kept.cut (s := s0) hx ?_ (fun kx => ?_)
        | refine Kept.cut2 (s := s0) hx ?_ (fun kx => ?_)
        | (have : Mgmt := x; subst hx)
        | clear hx)
    | with_reducible refine kept_foldl _ _ _ ?_ (fun t a kt => ?_)
    | intro _
    | split
    | (with_reducible first | apply Kept.upd | apply Kept.updM | apply Kept.updT | apply Kept.updTM) <;> with_reducible first | assumption | apply kept_enterMap | apply kept_shadowStop | apply kept_retireDie | apply kept_abandonOnto | apply kept_leaveService | apply kept_portDown | apply kept_replaceUnit | apply kept_retireCmpt | apply kept_beginMove

theorem kept_checkUnit {s0 : State} (s : State) (u : UnitId) (readable : Bool) (hk : Kept s0 s)  : Kept s0 (State.checkUnit s u readable) := by
  unfold State.checkUnit
  repeat' first
    | with_reducible assumption
    | with_reducible first
        | apply kept_retireDie
        | apply kept_failUnit
        | apply kept_markSuspect
        | apply kept_beginMove
    | ((try lift_lets -underBinder); intro x; clear_value (hx : x = _); first
        | refine Kept.cut (s := s0) hx ?_ (fun kx => ?_)
        | refine Kept.cut2 (s := s0) hx ?_ (fun kx => ?_)
        | (have : Mgmt := x; subst hx)
        | clear hx)
    | split
    | (with_reducible first | apply Kept.upd | apply Kept.updM | apply Kept.updT | apply Kept.updTM) <;> with_reducible first | assumption | apply kept_retireDie | apply kept_failUnit | apply kept_markSuspect | apply kept_beginMove

theorem kept_checkPost {s0 : State} (s : State) (u : UnitId) (c : CheckKind) (hk : Kept s0 s)  : Kept s0 (State.checkPost s u c) := by
  unfold State.checkPost
  repeat' first
    | with_reducible assumption
    | with_reducible first
        | apply kept_post
        | apply kept_spanUe
        | apply kept_count
    | ((try lift_lets -underBinder); intro x; clear_value (hx : x = _); first
        | refine Kept.cut (s := s0) hx ?_ (fun kx => ?_)
        | refine Kept.cut2 (s := s0) hx ?_ (fun kx => ?_)
        | (have : Mgmt := x; subst hx)
        | clear hx)
    | split
    | (with_reducible first | apply Kept.upd | apply Kept.updM | apply Kept.updT | apply Kept.updTM) <;> with_reducible first | assumption | apply kept_post | apply kept_spanUe | apply kept_count

theorem kept_shadowTest {s0 : State} (s : State) (u : UnitId) (hk : Kept s0 s)  : Kept s0 (State.shadowTest s u) := by
  unfold State.shadowTest
  dsimp only
  refine kept_foldl _ _ _ ?_ (fun t a kt => ?_)
  · split
    · exact hk
    · exact Kept.upd hk
  · split
    · exact kt
    · exact Kept.upd kt

theorem kept_firingBad {s0 : State} (s : State) (p : Nat) (l : Fired) (hk : Kept s0 s)  : Kept s0 (State.firingBad s p l) := by
  unfold State.firingBad
  repeat' first
    | with_reducible assumption
    | with_reducible first
        | apply kept_runBad
        | apply kept_itemFail
        | apply kept_ctxFail
    | ((try lift_lets -underBinder); intro x; clear_value (hx : x = _); first
        | refine Kept.cut (s := s0) hx ?_ (fun kx => ?_)
        | refine Kept.cut2 (s := s0) hx ?_ (fun kx => ?_)
        | (have : Mgmt := x; subst hx)
        | clear hx)
    | with_reducible refine kept_foldl _ _ _ ?_ (fun t a kt => ?_)
    | intro _
    | split
    | (with_reducible first | apply Kept.upd | apply Kept.updM | apply Kept.updT | apply Kept.updTM) <;> with_reducible first | assumption | apply kept_runBad | apply kept_itemFail | apply kept_ctxFail

theorem kept_checkEvent {s0 : State} (s : State) (u : UnitId) (c : CheckKind) (items : List Nat) (readable : Bool) (hk : Kept s0 s)  : Kept s0 (State.checkEvent s u c items readable) := by
  unfold State.checkEvent
  repeat' first
    | with_reducible assumption
    | with_reducible first
        | apply kept_checkUnit
        | apply kept_boomFault
        | apply kept_itemFail
        | apply kept_checkPost
        | apply kept_settle
        | apply kept_failUnit
        | apply kept_firingBad
        | apply kept_shadowTest
        | apply dieKept_die
        | apply dieKept_putByte
        | apply dieKept_heal
        | apply dieKept_writeSpans
        | apply memKept_clearSpans
        | apply memKept_writeSpans
        | apply dieKept_upd
        | apply memKept_writeN
        | apply memKept_write
        | apply memKept_clear
        | apply memKept_sramMove
        | apply memKept_dram
        | apply memKept_sram
        | exact memKept_nil
    | ((try lift_lets -underBinder); intro x; clear_value (hx : x = _); first
        | refine Kept.cut (s := s0) hx ?_ (fun kx => ?_)
        | refine Kept.cut2 (s := s0) hx ?_ (fun kx => ?_)
        | (have : Mgmt := x; subst hx)
        | clear hx)
    | with_reducible refine kept_foldl _ _ _ ?_ (fun t a kt => ?_)
    | intro _
    | split
    | (with_reducible first | apply Kept.upd | apply Kept.updM | apply Kept.updT | apply Kept.updTM) <;> with_reducible first | assumption | apply kept_checkUnit | apply kept_boomFault | apply kept_itemFail | apply kept_checkPost | apply kept_settle | apply kept_failUnit | apply kept_firingBad | apply kept_shadowTest | apply dieKept_die | apply dieKept_putByte | apply dieKept_heal | apply dieKept_writeSpans | apply memKept_clearSpans | apply memKept_writeSpans | apply dieKept_upd | apply memKept_writeN | apply memKept_write | apply memKept_clear | apply memKept_sramMove | apply memKept_dram | apply memKept_sram | exact memKept_nil

theorem kept_partialLate {s0 : State} (s : State) (n : Nat) (d : Nat) (hk : Kept s0 s)  : Kept s0 (State.partialLate s n d) := by
  unfold State.partialLate
  repeat' first
    | with_reducible assumption
    | with_reducible first
        | apply kept_checkUnit
        | apply kept_unitFail
        | apply kept_settle
        | apply kept_count
    | ((try lift_lets -underBinder); intro x; clear_value (hx : x = _); first
        | refine Kept.cut (s := s0) hx ?_ (fun kx => ?_)
        | refine Kept.cut2 (s := s0) hx ?_ (fun kx => ?_)
        | (have : Mgmt := x; subst hx)
        | clear hx)
    | split
    | (with_reducible first | apply Kept.upd | apply Kept.updM | apply Kept.updT | apply Kept.updTM) <;> with_reducible first | assumption | apply kept_checkUnit | apply kept_unitFail | apply kept_settle | apply kept_count

theorem kept_restoreSlot {s0 : State} (s : State) (p : Nat) (k : Nat) (lost : Bool) (hk : Kept s0 s)  : Kept s0 (State.restoreSlot s p k lost) := by
  unfold State.restoreSlot
  repeat' first
    | with_reducible assumption
    | with_reducible first
        | apply kept_loadCore
        | apply kept_mirrorHeal
        | apply kept_setCore
        | apply kept_modelDone
    | ((try lift_lets -underBinder); intro x; clear_value (hx : x = _); first
        | refine Kept.cut (s := s0) hx ?_ (fun kx => ?_)
        | refine Kept.cut2 (s := s0) hx ?_ (fun kx => ?_)
        | (have : Mgmt := x; subst hx)
        | clear hx)
    | split
    | (with_reducible first | apply Kept.upd | apply Kept.updM | apply Kept.updT | apply Kept.updTM) <;> with_reducible first | assumption | apply kept_loadCore | apply kept_mirrorHeal | apply kept_setCore | apply kept_modelDone

theorem kept_reopen {s0 : State} (s : State) (h : Nat) (n : Nat) (c : Nat) (hk : Kept s0 s)  : Kept s0 (State.reopen s h n c) := by
  unfold State.reopen
  repeat' first
    | with_reducible assumption
    | with_reducible first
        | apply kept_modVer
    | ((try lift_lets -underBinder); intro x; clear_value (hx : x = _); first
        | refine Kept.cut (s := s0) hx ?_ (fun kx => ?_)
        | refine Kept.cut2 (s := s0) hx ?_ (fun kx => ?_)
        | (have : Mgmt := x; subst hx)
        | clear hx)
    | split
    | (with_reducible first | apply Kept.upd | apply Kept.updM | apply Kept.updT | apply Kept.updTM) <;> with_reducible first | assumption | apply kept_modVer

theorem kept_coreTakes {s0 : State} (s : State) (u : UnitId) (k : Nat) (lost : Bool) (hk : Kept s0 s)  : Kept s0 (State.coreTakes s u k lost) := by
  unfold State.coreTakes
  repeat' first
    | with_reducible assumption
    | with_reducible first
        | apply kept_moveCore
        | apply kept_restoreSlot
        | apply kept_healSram
    | ((try lift_lets -underBinder); intro x; clear_value (hx : x = _); first
        | refine Kept.cut (s := s0) hx ?_ (fun kx => ?_)
        | refine Kept.cut2 (s := s0) hx ?_ (fun kx => ?_)
        | (have : Mgmt := x; subst hx)
        | clear hx)
    | with_reducible refine kept_foldl _ _ _ ?_ (fun t a kt => ?_)
    | intro _
    | split
    | (with_reducible first | apply Kept.upd | apply Kept.updM | apply Kept.updT | apply Kept.updTM) <;> with_reducible first | assumption | apply kept_moveCore | apply kept_restoreSlot | apply kept_healSram

theorem kept_standMoves {s0 : State} (s : State) (u : UnitId) (k : Nat) (hk : Kept s0 s)  : Kept s0 (State.standMoves s u k) := by
  unfold State.standMoves
  repeat' first
    | with_reducible assumption
    | with_reducible first
        | apply kept_setDie
        | apply dieKept_die
        | apply dieKept_putByte
        | apply dieKept_heal
        | apply dieKept_writeSpans
        | apply memKept_clearSpans
        | apply memKept_writeSpans
        | apply dieKept_upd
        | apply memKept_writeN
        | apply memKept_write
        | apply memKept_clear
        | apply memKept_sramMove
        | apply memKept_dram
        | apply memKept_sram
        | exact memKept_nil
    | ((try lift_lets -underBinder); intro x; clear_value (hx : x = _); first
        | refine Kept.cut (s := s0) hx ?_ (fun kx => ?_)
        | refine Kept.cut2 (s := s0) hx ?_ (fun kx => ?_)
        | refine Kept.cut3 (s := s0) hx ?_ (fun kx => ?_)
        | refine Kept.cut1 (s := s0) hx ?_ (fun kx => ?_)
        | refine DieKept.cut (s := s0) hx ?_ (fun kx => ?_)
        | (have : Mgmt := x; subst hx)
        | (have : TimeSt := x; subst hx)
        | clear hx)
    | with_reducible refine kept_foldl _ _ _ ?_ (fun t a kt => ?_)
    | with_reducible refine kept_foldl2 _ _ _ ?_ (fun t a kt => ?_)
    | intro _
    | split
    | (with_reducible first | apply Kept.upd | apply Kept.updM | apply Kept.updT | apply Kept.updTM) <;> with_reducible first | assumption | apply kept_setDie | apply dieKept_die | apply dieKept_putByte | apply dieKept_heal | apply dieKept_writeSpans | apply memKept_clearSpans | apply memKept_writeSpans | apply dieKept_upd | apply memKept_writeN | apply memKept_write | apply memKept_clear | apply memKept_sramMove | apply memKept_dram | apply memKept_sram | exact memKept_nil

theorem kept_standTakes {s0 : State} (s : State) (u : UnitId) (k : Nat) (lost : List Nat) (hk : Kept s0 s)  : Kept s0 (State.standTakes s u k lost) := by
  unfold State.standTakes
  repeat' first
    | with_reducible assumption
    | with_reducible first
        | apply kept_standMoves
        | apply kept_setDie
        | apply kept_restoreSlot
        | apply kept_healSram
        | apply dieKept_die
        | apply dieKept_putByte
        | apply dieKept_heal
        | apply dieKept_writeSpans
        | apply memKept_clearSpans
        | apply memKept_writeSpans
        | apply dieKept_upd
        | apply memKept_writeN
        | apply memKept_write
        | apply memKept_clear
        | apply memKept_sramMove
        | apply memKept_dram
        | apply memKept_sram
        | exact memKept_nil
    | ((try lift_lets -underBinder); intro x; clear_value (hx : x = _); first
        | refine Kept.cut (s := s0) hx ?_ (fun kx => ?_)
        | refine Kept.cut2 (s := s0) hx ?_ (fun kx => ?_)
        | refine Kept.cut3 (s := s0) hx ?_ (fun kx => ?_)
        | refine Kept.cut1 (s := s0) hx ?_ (fun kx => ?_)
        | refine DieKept.cut (s := s0) hx ?_ (fun kx => ?_)
        | (have : Mgmt := x; subst hx)
        | (have : TimeSt := x; subst hx)
        | clear hx)
    | with_reducible refine kept_foldl _ _ _ ?_ (fun t a kt => ?_)
    | with_reducible refine kept_foldl2 _ _ _ ?_ (fun t a kt => ?_)
    | intro _
    | split
    | (with_reducible first | apply Kept.upd | apply Kept.updM | apply Kept.updT | apply Kept.updTM) <;> with_reducible first | assumption | apply kept_standMoves | apply kept_setDie | apply kept_restoreSlot | apply kept_healSram | apply dieKept_die | apply dieKept_putByte | apply dieKept_heal | apply dieKept_writeSpans | apply memKept_clearSpans | apply memKept_writeSpans | apply dieKept_upd | apply memKept_writeN | apply memKept_write | apply memKept_clear | apply memKept_sramMove | apply memKept_dram | apply memKept_sram | exact memKept_nil

theorem kept_endMove {s0 : State} (s : State) (m : Move) (hk : Kept s0 s)  : Kept s0 (State.endMove s m) := by
  unfold State.endMove
  exact Kept.upd hk

theorem kept_replaceDone {s0 : State} (s : State) (u : UnitId) (hk : Kept s0 s)  : Kept s0 (State.replaceDone s u) := by
  unfold State.replaceDone
  repeat' first
    | with_reducible assumption
    | with_reducible first
        | apply kept_rewriteStore
        | apply kept_rewriteLane
        | apply kept_standMoves
        | apply kept_repaired
        | apply kept_retireCmpt
        | apply kept_swapLanes
        | apply kept_stopLane
        | apply kept_reopen
        | apply kept_standTakes
        | apply kept_coreTakes
        | apply kept_loadCopy
        | apply kept_endMove
        | apply dieKept_die
        | apply dieKept_putByte
        | apply dieKept_heal
        | apply dieKept_writeSpans
        | apply memKept_clearSpans
        | apply memKept_writeSpans
        | apply dieKept_upd
        | apply memKept_writeN
        | apply memKept_write
        | apply memKept_clear
        | apply memKept_sramMove
        | apply memKept_dram
        | apply memKept_sram
        | exact memKept_nil
    | ((try lift_lets -underBinder); intro x; clear_value (hx : x = _); first
        | refine Kept.cut (s := s0) hx ?_ (fun kx => ?_)
        | refine Kept.cut2 (s := s0) hx ?_ (fun kx => ?_)
        | (have : Mgmt := x; subst hx)
        | clear hx)
    | with_reducible refine kept_foldl _ _ _ ?_ (fun t a kt => ?_)
    | intro _
    | split
    | (with_reducible first | apply Kept.upd | apply Kept.updM | apply Kept.updT | apply Kept.updTM) <;> with_reducible first | assumption | apply kept_rewriteStore | apply kept_rewriteLane | apply kept_standMoves | apply kept_repaired | apply kept_retireCmpt | apply kept_swapLanes | apply kept_stopLane | apply kept_reopen | apply kept_standTakes | apply kept_coreTakes | apply kept_loadCopy | apply kept_endMove | apply dieKept_die | apply dieKept_putByte | apply dieKept_heal | apply dieKept_writeSpans | apply memKept_clearSpans | apply memKept_writeSpans | apply dieKept_upd | apply memKept_writeN | apply memKept_write | apply memKept_clear | apply memKept_sramMove | apply memKept_dram | apply memKept_sram | exact memKept_nil

theorem kept_bridgeCheck {s0 : State} (s : State) (d : Nat) (toDie : Bool) (bad : Option Nat) (hk : Kept s0 s)  : Kept s0 (State.bridgeCheck s d toDie bad) := by
  unfold State.bridgeCheck
  repeat' first
    | with_reducible assumption
    | with_reducible first
        | apply kept_post
        | apply kept_retireDie
        | apply kept_journal
        | apply dieKept_die
        | apply dieKept_putByte
        | apply dieKept_heal
        | apply dieKept_writeSpans
        | apply memKept_clearSpans
        | apply memKept_writeSpans
        | apply dieKept_upd
        | apply memKept_writeN
        | apply memKept_write
        | apply memKept_clear
        | apply memKept_sramMove
        | apply memKept_dram
        | apply memKept_sram
        | exact memKept_nil
    | ((try lift_lets -underBinder); intro x; clear_value (hx : x = _); first
        | refine Kept.cut (s := s0) hx ?_ (fun kx => ?_)
        | refine Kept.cut2 (s := s0) hx ?_ (fun kx => ?_)
        | (have : Mgmt := x; subst hx)
        | clear hx)
    | split
    | (with_reducible first | apply Kept.upd | apply Kept.updM | apply Kept.updT | apply Kept.updTM) <;> with_reducible first | assumption | apply kept_post | apply kept_retireDie | apply kept_journal | apply dieKept_die | apply dieKept_putByte | apply dieKept_heal | apply dieKept_writeSpans | apply memKept_clearSpans | apply memKept_writeSpans | apply dieKept_upd | apply memKept_writeN | apply memKept_write | apply memKept_clear | apply memKept_sramMove | apply memKept_dram | apply memKept_sram | exact memKept_nil

theorem kept_bridgeUe {s0 : State} (s : State) (d : Nat) (items : List Nat) (hk : Kept s0 s)  : Kept s0 (State.bridgeUe s d items) := by
  unfold State.bridgeUe
  repeat' first
    | with_reducible assumption
    | with_reducible first
        | apply kept_retireDie
        | apply kept_itemFail
        | apply kept_settle
        | apply dieKept_die
        | apply dieKept_putByte
        | apply dieKept_heal
        | apply dieKept_writeSpans
        | apply memKept_clearSpans
        | apply memKept_writeSpans
        | apply dieKept_upd
        | apply memKept_writeN
        | apply memKept_write
        | apply memKept_clear
        | apply memKept_sramMove
        | apply memKept_dram
        | apply memKept_sram
        | exact memKept_nil
    | ((try lift_lets -underBinder); intro x; clear_value (hx : x = _); first
        | refine Kept.cut (s := s0) hx ?_ (fun kx => ?_)
        | refine Kept.cut2 (s := s0) hx ?_ (fun kx => ?_)
        | (have : Mgmt := x; subst hx)
        | clear hx)
    | with_reducible refine kept_foldl _ _ _ ?_ (fun t a kt => ?_)
    | intro _
    | split
    | (with_reducible first | apply Kept.upd | apply Kept.updM | apply Kept.updT | apply Kept.updTM) <;> with_reducible first | assumption | apply kept_retireDie | apply kept_itemFail | apply kept_settle | apply dieKept_die | apply dieKept_putByte | apply dieKept_heal | apply dieKept_writeSpans | apply memKept_clearSpans | apply memKept_writeSpans | apply dieKept_upd | apply memKept_writeN | apply memKept_write | apply memKept_clear | apply memKept_sramMove | apply memKept_dram | apply memKept_sram | exact memKept_nil

theorem kept_startTest {s0 : State} (s : State) (u : UnitId) (hk : Kept s0 s)  : Kept s0 (State.startTest s u) := by
  unfold State.startTest
  repeat' first
    | with_reducible assumption
    | ((try lift_lets -underBinder); intro x; clear_value (hx : x = _); first
        | refine Kept.cut (s := s0) hx ?_ (fun kx => ?_)
        | refine Kept.cut2 (s := s0) hx ?_ (fun kx => ?_)
        | (have : Mgmt := x; subst hx)
        | clear hx)
    | split
    | (with_reducible first | apply Kept.upd | apply Kept.updM | apply Kept.updT | apply Kept.updTM) <;> with_reducible first | assumption

theorem kept_skip {s0 : State} (s : State) (hk : Kept s0 s)  : Kept s0 (State.skip s) := by
  unfold State.skip
  exact Kept.upd hk

theorem kept_cruiseLane {s0 : State} (s : State) (d : Nat) (e : Nat) (l : Nat) (hk : Kept s0 s)  : Kept s0 (State.cruiseLane s d e l) := by
  unfold State.cruiseLane
  repeat' first
    | with_reducible assumption
    | with_reducible first
        | apply kept_shadowStop
        | apply kept_startTest
        | apply kept_swapLanes
        | apply kept_skip
    | ((try lift_lets -underBinder); intro x; clear_value (hx : x = _); first
        | refine Kept.cut (s := s0) hx ?_ (fun kx => ?_)
        | refine Kept.cut2 (s := s0) hx ?_ (fun kx => ?_)
        | (have : Mgmt := x; subst hx)
        | clear hx)
    | split
    | (with_reducible first | apply Kept.upd | apply Kept.updM | apply Kept.updT | apply Kept.updTM) <;> with_reducible first | assumption | apply kept_shadowStop | apply kept_startTest | apply kept_swapLanes | apply kept_skip

theorem kept_drainMove {s0 : State} (s : State) (u : UnitId) (k : Nat) (test : Bool) (hk : Kept s0 s)  : Kept s0 (State.drainMove s u k test) := by
  unfold State.drainMove
  exact Kept.upd hk

theorem kept_cruiseStand {s0 : State} (s : State) (d : Nat) (c : Nat) (st : Nat) (hk : Kept s0 s)  : Kept s0 (State.cruiseStand s d c st) := by
  unfold State.cruiseStand
  repeat' first
    | with_reducible assumption
    | with_reducible first
        | apply kept_drainMove
        | apply kept_startTest
        | apply kept_skip
    | ((try lift_lets -underBinder); intro x; clear_value (hx : x = _); first
        | refine Kept.cut (s := s0) hx ?_ (fun kx => ?_)
        | refine Kept.cut2 (s := s0) hx ?_ (fun kx => ?_)
        | (have : Mgmt := x; subst hx)
        | clear hx)
    | split
    | (with_reducible first | apply Kept.upd | apply Kept.updM | apply Kept.updT | apply Kept.updTM) <;> with_reducible first | assumption | apply kept_drainMove | apply kept_startTest | apply kept_skip

theorem kept_cruiseCore {s0 : State} (s : State) (p : Nat) (hk : Kept s0 s)  : Kept s0 (State.cruiseCore s p) := by
  unfold State.cruiseCore
  repeat' first
    | with_reducible assumption
    | with_reducible first
        | apply kept_drainMove
        | apply kept_startTest
        | apply kept_cruiseStand
    | ((try lift_lets -underBinder); intro x; clear_value (hx : x = _); first
        | refine Kept.cut (s := s0) hx ?_ (fun kx => ?_)
        | refine Kept.cut2 (s := s0) hx ?_ (fun kx => ?_)
        | (have : Mgmt := x; subst hx)
        | clear hx)
    | split
    | (with_reducible first | apply Kept.upd | apply Kept.updM | apply Kept.updT | apply Kept.updTM) <;> with_reducible first | assumption | apply kept_drainMove | apply kept_startTest | apply kept_cruiseStand

theorem kept_cruisePair {s0 : State} (s : State) (j : Nat) (hk : Kept s0 s)  : Kept s0 (State.cruisePair s j) := by
  unfold State.cruisePair
  repeat' first
    | with_reducible assumption
    | with_reducible first
        | apply kept_startTest
    | ((try lift_lets -underBinder); intro x; clear_value (hx : x = _); first
        | refine Kept.cut (s := s0) hx ?_ (fun kx => ?_)
        | refine Kept.cut2 (s := s0) hx ?_ (fun kx => ?_)
        | (have : Mgmt := x; subst hx)
        | clear hx)
    | split
    | (with_reducible first | apply Kept.upd | apply Kept.updM | apply Kept.updT | apply Kept.updTM) <;> with_reducible first | assumption | apply kept_startTest

theorem kept_outOfTurn {s0 : State} (s : State) (u : UnitId) (hk : Kept s0 s)  : Kept s0 (State.outOfTurn s u) := by
  unfold State.outOfTurn
  repeat' first
    | with_reducible assumption
    | with_reducible first
        | apply kept_cruiseCore
        | apply kept_cruiseLane
        | apply kept_cruisePair
        | apply kept_cruiseStand
    | ((try lift_lets -underBinder); intro x; clear_value (hx : x = _); first
        | refine Kept.cut (s := s0) hx ?_ (fun kx => ?_)
        | refine Kept.cut2 (s := s0) hx ?_ (fun kx => ?_)
        | (have : Mgmt := x; subst hx)
        | clear hx)
    | split
    | (with_reducible first | apply Kept.upd | apply Kept.updM | apply Kept.updT | apply Kept.updTM) <;> with_reducible first | assumption | apply kept_cruiseCore | apply kept_cruiseLane | apply kept_cruisePair | apply kept_cruiseStand

theorem kept_rotate {s0 : State} (s : State) (d : Nat) (c : Nat) (k : Nat) (hk : Kept s0 s)  : Kept s0 (State.rotate s d c k) := by
  unfold State.rotate
  repeat' first
    | with_reducible assumption
    | with_reducible first
        | apply kept_cruiseCore
    | ((try lift_lets -underBinder); intro x; clear_value (hx : x = _); first
        | refine Kept.cut (s := s0) hx ?_ (fun kx => ?_)
        | refine Kept.cut2 (s := s0) hx ?_ (fun kx => ?_)
        | (have : Mgmt := x; subst hx)
        | clear hx)
    | with_reducible refine kept_foldl _ _ _ ?_ (fun t a kt => ?_)
    | intro _
    | split
    | (with_reducible first | apply Kept.upd | apply Kept.updM | apply Kept.updT | apply Kept.updTM) <;> with_reducible first | assumption | apply kept_cruiseCore

theorem kept_cruiseSteps {s0 : State} (s : State) (i : Nat) (hk : Kept s0 s)  : Kept s0 (State.cruiseSteps s i) := by
  unfold State.cruiseSteps
  repeat' first
    | with_reducible assumption
    | with_reducible first
        | apply kept_outOfTurn
        | apply kept_cruiseLane
        | apply kept_cruisePair
        | apply kept_rotate
        | apply kept_cruiseStand
    | ((try lift_lets -underBinder); intro x; clear_value (hx : x = _); first
        | refine Kept.cut (s := s0) hx ?_ (fun kx => ?_)
        | refine Kept.cut2 (s := s0) hx ?_ (fun kx => ?_)
        | (have : Mgmt := x; subst hx)
        | clear hx)
    | with_reducible refine kept_foldl _ _ _ ?_ (fun t a kt => ?_)
    | intro _
    | split
    | (with_reducible first | apply Kept.upd | apply Kept.updM | apply Kept.updT | apply Kept.updTM) <;> with_reducible first | assumption | apply kept_outOfTurn | apply kept_cruiseLane | apply kept_cruisePair | apply kept_rotate | apply kept_cruiseStand

theorem kept_cruiseSlot {s0 : State} (s : State) (hk : Kept s0 s)  : Kept s0 (State.cruiseSlot s) := by
  unfold State.cruiseSlot
  repeat' first
    | with_reducible assumption
    | with_reducible first
        | apply kept_post
        | apply kept_cruiseSteps
    | ((try lift_lets -underBinder); intro x; clear_value (hx : x = _); first
        | refine Kept.cut (s := s0) hx ?_ (fun kx => ?_)
        | refine Kept.cut2 (s := s0) hx ?_ (fun kx => ?_)
        | (have : Mgmt := x; subst hx)
        | clear hx)
    | split
    | (with_reducible first | apply Kept.upd | apply Kept.updM | apply Kept.updT | apply Kept.updTM) <;> with_reducible first | assumption | apply kept_post | apply kept_cruiseSteps

theorem kept_rprDone {s0 : State} (s : State) (st : Nat) (hk : Kept s0 s)  : Kept s0 (State.rprDone s st) := by
  unfold State.rprDone
  exact Kept.upd hk

theorem kept_takeOut {s0 : State} (s : State) (u : UnitId) (origin : Nat) (hk : Kept s0 s)  : Kept s0 (State.takeOut s u origin) := by
  unfold State.takeOut
  repeat' first
    | with_reducible assumption
    | with_reducible first
        | apply kept_enterMap
        | apply kept_shadowStop
        | apply kept_repaired
        | apply kept_drainMove
        | apply kept_swapLanes
        | apply kept_failUnit
    | ((try lift_lets -underBinder); intro x; clear_value (hx : x = _); first
        | refine Kept.cut (s := s0) hx ?_ (fun kx => ?_)
        | refine Kept.cut2 (s := s0) hx ?_ (fun kx => ?_)
        | (have : Mgmt := x; subst hx)
        | clear hx)
    | split
    | (with_reducible first | apply Kept.upd | apply Kept.updM | apply Kept.updT | apply Kept.updTM) <;> with_reducible first | assumption | apply kept_enterMap | apply kept_shadowStop | apply kept_repaired | apply kept_drainMove | apply kept_swapLanes | apply kept_failUnit

theorem kept_retire {s0 : State} (s : State) (u : UnitId) (origin : Nat) (hk : Kept s0 s)  : Kept s0 (State.retire s u origin) := by
  unfold State.retire
  repeat' first
    | with_reducible assumption
    | with_reducible first
        | apply kept_rprDone
        | apply kept_takeOut
    | ((try lift_lets -underBinder); intro x; clear_value (hx : x = _); first
        | refine Kept.cut (s := s0) hx ?_ (fun kx => ?_)
        | refine Kept.cut2 (s := s0) hx ?_ (fun kx => ?_)
        | (have : Mgmt := x; subst hx)
        | clear hx)
    | split
    | (with_reducible first | apply Kept.upd | apply Kept.updM | apply Kept.updT | apply Kept.updTM) <;> with_reducible first | assumption | apply kept_rprDone | apply kept_takeOut

theorem kept_unretire {s0 : State} (s : State) (u : UnitId) (origin : Nat) (hk : Kept s0 s)  : Kept s0 (State.unretire s u origin) := by
  unfold State.unretire
  repeat' first
    | with_reducible assumption
    | with_reducible first
        | apply kept_rprDone
        | apply kept_repairEntry
    | ((try lift_lets -underBinder); intro x; clear_value (hx : x = _); first
        | refine Kept.cut (s := s0) hx ?_ (fun kx => ?_)
        | refine Kept.cut2 (s := s0) hx ?_ (fun kx => ?_)
        | (have : Mgmt := x; subst hx)
        | clear hx)
    | split
    | (with_reducible first | apply Kept.upd | apply Kept.updM | apply Kept.updT | apply Kept.updTM) <;> with_reducible first | assumption | apply kept_rprDone | apply kept_repairEntry

theorem kept_askTest {s0 : State} (s : State) (u : UnitId) (hk : Kept s0 s)  : Kept s0 (State.askTest s u) := by
  unfold State.askTest
  repeat' first
    | with_reducible assumption
    | with_reducible first
        | apply kept_rprDone
    | ((try lift_lets -underBinder); intro x; clear_value (hx : x = _); first
        | refine Kept.cut (s := s0) hx ?_ (fun kx => ?_)
        | refine Kept.cut2 (s := s0) hx ?_ (fun kx => ?_)
        | (have : Mgmt := x; subst hx)
        | clear hx)
    | split
    | (with_reducible first | apply Kept.upd | apply Kept.updM | apply Kept.updT | apply Kept.updTM) <;> with_reducible first | assumption | apply kept_rprDone

theorem kept_rprCmd {s0 : State} (s : State) (op : Nat) (w : Word) (origin : Nat) (hk : Kept s0 s)  : Kept s0 (State.rprCmd s op w origin) := by
  unfold State.rprCmd
  repeat' first
    | with_reducible assumption
    | with_reducible first
        | apply kept_rprDone
        | apply kept_retire
        | apply kept_unretire
        | apply kept_memberLost
        | apply kept_settle
        | apply kept_askTest
    | ((try lift_lets -underBinder); intro x; clear_value (hx : x = _); first
        | refine Kept.cut (s := s0) hx ?_ (fun kx => ?_)
        | refine Kept.cut2 (s := s0) hx ?_ (fun kx => ?_)
        | (have : Mgmt := x; subst hx)
        | clear hx)
    | split
    | (with_reducible first | apply Kept.upd | apply Kept.updM | apply Kept.updT | apply Kept.updTM) <;> with_reducible first | assumption | apply kept_rprDone | apply kept_retire | apply kept_unretire | apply kept_memberLost | apply kept_settle | apply kept_askTest

theorem kept_rprWake {s0 : State} (s : State) (hk : Kept s0 s)  : Kept s0 (State.rprWake s) := by
  unfold State.rprWake
  repeat' first
    | with_reducible assumption
    | with_reducible first
        | apply kept_rprCmd
    | ((try lift_lets -underBinder); intro x; clear_value (hx : x = _); first
        | refine Kept.cut (s := s0) hx ?_ (fun kx => ?_)
        | refine Kept.cut2 (s := s0) hx ?_ (fun kx => ?_)
        | (have : Mgmt := x; subst hx)
        | clear hx)
    | split
    | (with_reducible first | apply Kept.upd | apply Kept.updM | apply Kept.updT | apply Kept.updTM) <;> with_reducible first | assumption | apply kept_rprCmd

theorem kept_testDone {s0 : State} (s : State) (u : UnitId) (pass : Bool) (hk : Kept s0 s)  : Kept s0 (State.testDone s u pass) := by
  unfold State.testDone
  split
  · exact hk
  · dsimp only
    refine kept_settle (hk := kept_rprWake (hk := ?_) ..) ..
    repeat' first
      | assumption
      | split
      | with_reducible apply kept_post
      | with_reducible apply kept_count
      | with_reducible apply kept_failUnit
      | apply Kept.upd

theorem kept_flashWrite {s0 : State} (s : State) (hk : Kept s0 s)  : Kept s0 (State.flashWrite s) := by
  unfold State.flashWrite
  exact Kept.upd hk

end Sys2Proof.Machine
end

