-- ==== Sys2Proof/Laws/KeptTwinOps.lean ====
section
/-! SUPPORT. What the operations of TwinOps.lean keep (Laws/Kept.lean). -/
namespace Sys2Proof.Machine
set_option linter.all false

theorem kept_diverge {s0 : State} (s : State) (k : TwinMark) (hk : Kept s0 s)  : Kept s0 (State.diverge s k) := by
  unfold State.diverge
  repeat' first
    | with_reducible assumption
    | with_reducible first
        | apply kept_post
        | apply kept_convClose
        | apply kept_ctxFail
        | apply kept_boomFaultIn
    | ((try lift_lets -underBinder); intro x; clear_value (hx : x = _); first
        | refine Kept.cut (s := s0) hx ?_ (fun kx => ?_)
        | refine Kept.cut2 (s := s0) hx ?_ (fun kx => ?_)
        | (have : Mgmt := x; subst hx)
        | clear hx)
    | split
    | (with_reducible first | apply Kept.upd | apply Kept.updM | apply Kept.updT | apply Kept.updTM) <;> with_reducible first | assumption | apply kept_post | apply kept_convClose | apply kept_ctxFail | apply kept_boomFaultIn

theorem kept_goSolo {s0 : State} (s : State) (reason : Nat) (origin : Nat) (hk : Kept s0 s)  : Kept s0 (State.goSolo s reason origin) := by
  unfold State.goSolo
  repeat' first
    | with_reducible assumption
    | with_reducible first
        | apply kept_twinTo
        | apply kept_diverge
        | apply kept_settle
        | apply kept_setReply
        | apply kept_stompFrame
    | ((try lift_lets -underBinder); intro x; clear_value (hx : x = _); first
        | refine Kept.cut (s := s0) hx ?_ (fun kx => ?_)
        | refine Kept.cut2 (s := s0) hx ?_ (fun kx => ?_)
        | refine Kept.cut3 (s := s0) hx ?_ (fun kx => ?_)
        | refine Kept.cut1 (s := s0) hx ?_ (fun kx => ?_)
        | refine DieKept.cut (s := s0) hx ?_ (fun kx => ?_)
        | (have : Mgmt := x; subst hx)
        | (have : TimeSt := x; subst hx)
        | clear hx)
    | with_reducible refine kept_foldl _ _ _ ?_ (fun t a kt => ?_)
    | with_reducible refine kept_foldl2 _ _ _ ?_ (fun t a kt => ?_)
    | intro _
    | split
    | (with_reducible first | apply Kept.upd | apply Kept.updM | apply Kept.updT | apply Kept.updTM) <;> with_reducible first | assumption | apply kept_twinTo | apply kept_diverge | apply kept_settle | apply kept_setReply | apply kept_stompFrame | refine kept_foldl _ _ _ ?_ (fun _ _ kt => ?_)

theorem kept_loseLink {s0 : State} (s : State) (reason : Nat) (hk : Kept s0 s)  : Kept s0 (State.loseLink s reason) := by
  unfold State.loseLink
  repeat' first
    | with_reducible assumption
    | with_reducible first
        | apply kept_goSolo
        | apply kept_twinTo
    | ((try lift_lets -underBinder); intro x; clear_value (hx : x = _); first
        | refine Kept.cut (s := s0) hx ?_ (fun kx => ?_)
        | refine Kept.cut2 (s := s0) hx ?_ (fun kx => ?_)
        | (have : Mgmt := x; subst hx)
        | clear hx)
    | split
    | (with_reducible first | apply Kept.upd | apply Kept.updM | apply Kept.updT | apply Kept.updTM) <;> with_reducible first | assumption | apply kept_goSolo | apply kept_twinTo

theorem kept_kwainSilence {s0 : State} (s : State) (hk : Kept s0 s)  : Kept s0 (State.kwainSilence s) := by
  unfold State.kwainSilence
  repeat' first
    | with_reducible assumption
    | with_reducible first
        | apply kept_goSolo
        | apply kept_loseLink
    | ((try lift_lets -underBinder); intro x; clear_value (hx : x = _); first
        | refine Kept.cut (s := s0) hx ?_ (fun kx => ?_)
        | refine Kept.cut2 (s := s0) hx ?_ (fun kx => ?_)
        | (have : Mgmt := x; subst hx)
        | clear hx)
    | split
    | (with_reducible first | apply Kept.upd | apply Kept.updM | apply Kept.updT | apply Kept.updTM) <;> with_reducible first | assumption | apply kept_goSolo | apply kept_loseLink

theorem kept_aliveFall {s0 : State} (s : State) (hk : Kept s0 s)  : Kept s0 (State.aliveFall s) := by
  unfold State.aliveFall
  have h : Kept s0 { s with twin.aliveIn := false } := Kept.upd hk
  dsimp only at h ⊢
  split
  · exact kept_goSolo (hk := h) ..
  · exact h

theorem kept_release {s0 : State} (s : State) (n : Nat) (r : Reply) (hk : Kept s0 s)  : Kept s0 (State.release s n r) := by
  unfold State.release
  repeat' first
    | with_reducible assumption
    | with_reducible first
        | apply kept_gc
        | apply kept_setReply
    | ((try lift_lets -underBinder); intro x; clear_value (hx : x = _); first
        | refine Kept.cut (s := s0) hx ?_ (fun kx => ?_)
        | refine Kept.cut2 (s := s0) hx ?_ (fun kx => ?_)
        | (have : Mgmt := x; subst hx)
        | clear hx)
    | split
    | (with_reducible first | apply Kept.upd | apply Kept.updM | apply Kept.updT | apply Kept.updTM) <;> with_reducible first | assumption | apply kept_gc | apply kept_setReply

theorem kept_ownBad {s0 : State} (s : State) (t : TwinRec) (hk : Kept s0 s)  : Kept s0 (State.ownBad s t) := by
  unfold State.ownBad
  repeat' first
    | with_reducible assumption
    | with_reducible first
        | apply kept_post
        | apply kept_diverge
        | apply kept_settle
        | apply kept_setReply
        | apply kept_kwain
        | apply kept_count
        | apply kept_release
    | ((try lift_lets -underBinder); intro x; clear_value (hx : x = _); first
        | refine Kept.cut (s := s0) hx ?_ (fun kx => ?_)
        | refine Kept.cut2 (s := s0) hx ?_ (fun kx => ?_)
        | (have : Mgmt := x; subst hx)
        | clear hx)
    | with_reducible refine kept_foldl _ _ _ ?_ (fun t a kt => ?_)
    | intro _
    | split
    | (with_reducible first | apply Kept.upd | apply Kept.updM | apply Kept.updT | apply Kept.updTM) <;> with_reducible first | assumption | apply kept_post | apply kept_diverge | apply kept_settle | apply kept_setReply | apply kept_kwain | apply kept_count | apply kept_release

theorem kept_twinRecord {s0 : State} (s : State) (t : TwinRec) (hk : Kept s0 s)  : Kept s0 (State.twinRecord s t) := by
  unfold State.twinRecord
  repeat' first
    | with_reducible assumption
    | with_reducible first
        | apply kept_ownBad
        | apply kept_twinJudge
        | apply kept_settle
        | apply kept_release
    | ((try lift_lets -underBinder); intro x; clear_value (hx : x = _); first
        | refine Kept.cut (s := s0) hx ?_ (fun kx => ?_)
        | refine Kept.cut2 (s := s0) hx ?_ (fun kx => ?_)
        | (have : Mgmt := x; subst hx)
        | clear hx)
    | split
    | (with_reducible first | apply Kept.upd | apply Kept.updM | apply Kept.updT | apply Kept.updTM) <;> with_reducible first | assumption | apply kept_ownBad | apply kept_twinJudge | apply kept_settle | apply kept_release

theorem kept_matchTimeout {s0 : State} (s : State) (n : Nat) (hk : Kept s0 s)  : Kept s0 (State.matchTimeout s n) := by
  unfold State.matchTimeout
  repeat' first
    | with_reducible assumption
    | with_reducible first
        | apply kept_post
        | apply kept_settle
        | apply kept_setReply
        | apply kept_count
    | ((try lift_lets -underBinder); intro x; clear_value (hx : x = _); first
        | refine Kept.cut (s := s0) hx ?_ (fun kx => ?_)
        | refine Kept.cut2 (s := s0) hx ?_ (fun kx => ?_)
        | (have : Mgmt := x; subst hx)
        | clear hx)
    | split
    | (with_reducible first | apply Kept.upd | apply Kept.updM | apply Kept.updT | apply Kept.updTM) <;> with_reducible first | assumption | apply kept_post | apply kept_settle | apply kept_setReply | apply kept_count

theorem kept_twinPairing {s0 : State} (s : State) (p : TwinHello) (hk : Kept s0 s)  : Kept s0 (State.twinPairing s p) := by
  unfold State.twinPairing
  dsimp only
  split
  · exact Kept.upd hk
  · have h : ∀ x o, Kept s0 (State.emit { s with twin := x } o) := fun x o => kept_emit _ (Kept.upd hk)
    split
    · exact kept_loseLink (hk := h _ _) ..
    · split
      · exact kept_loseLink (hk := h _ _) ..
      · exact kept_twinTo (hk := h _ _) ..

theorem kept_linkTimeout {s0 : State} (s : State) (hk : Kept s0 s)  : Kept s0 (State.linkTimeout s) := by
  unfold State.linkTimeout
  repeat' first
    | with_reducible assumption
    | with_reducible first
        | apply kept_loseLink
    | ((try lift_lets -underBinder); intro x; clear_value (hx : x = _); first
        | refine Kept.cut (s := s0) hx ?_ (fun kx => ?_)
        | refine Kept.cut2 (s := s0) hx ?_ (fun kx => ?_)
        | (have : Mgmt := x; subst hx)
        | clear hx)
    | split
    | (with_reducible first | apply Kept.upd | apply Kept.updM | apply Kept.updT | apply Kept.updTM) <;> with_reducible first | assumption | apply kept_loseLink

end Sys2Proof.Machine
end

