-- ==== Sys2Proof/Laws/KeptMgmt.lean ====
section
/-! SUPPORT. What the operations of Mgmt.lean keep (Laws/Kept.lean). -/
namespace Sys2Proof.Machine
set_option linter.all false

theorem kept_apReads {s0 : State} (s : State) (a : Nat) (x2 : Nat) (hk : Kept s0 s)  : Kept s0 (State.apReads s a x2).2.2 := by
  induction x2 generalizing s a with
  | zero => exact hk
  | succ fuel ih =>
    unfold State.apReads
    repeat' first
      | with_reducible apply ih
      | with_reducible assumption
      | with_reducible first
          | apply kept_drawNat
      | ((try lift_lets -underBinder); intro x; clear_value (hx : x = _); first
          | refine Kept.cut (s := s0) hx ?_ (fun kx => ?_)
          | refine Kept.cut2 (s := s0) hx ?_ (fun kx => ?_)
          | (have : Mgmt := x; subst hx)
          | clear hx)
      | split
      | (with_reducible first | apply Kept.upd | apply Kept.updM | apply Kept.updT | apply Kept.updTM) <;> with_reducible first | assumption | apply kept_drawNat

theorem kept_spaceRead {s0 : State} (s : State) (a : Nat) (n : Nat) (hk : Kept s0 s)  : Kept s0 (State.spaceRead s a n).2.2 := by
  unfold State.spaceRead
  repeat' first
    | with_reducible assumption
    | with_reducible first
        | apply kept_apReads
        | apply kept_mirrorHeal
    | ((try lift_lets -underBinder); intro x; clear_value (hx : x = _); first
        | refine Kept.cut (s := s0) hx ?_ (fun kx => ?_)
        | refine Kept.cut2 (s := s0) hx ?_ (fun kx => ?_)
        | refine Kept.cut3 (s := s0) hx ?_ (fun kx => ?_)
        | refine Kept.cut1 (s := s0) hx ?_ (fun kx => ?_)
        | refine DieKept.cut (s := s0) hx ?_ (fun kx => ?_)
        | (have : Mgmt := x; subst hx)
        | (have : TimeSt := x; subst hx)
        | clear hx)
    | with_reducible refine kept_foldl _ _ _ ?_ (fun t a kt => ?_)
    | with_reducible refine kept_foldl2 _ _ _ ?_ (fun t a kt => ?_)
    | intro _
    | split
    | (with_reducible first | apply Kept.upd | apply Kept.updM | apply Kept.updT | apply Kept.updTM) <;> with_reducible first | assumption | apply kept_apReads | apply kept_mirrorHeal

theorem kept_apWrites {s0 : State} (s : State) (a : Nat) (x2 : Nat) (x3 : List Byte) (hk : Kept s0 s)  : Kept s0 (State.apWrites s a x2 x3) := by
  induction x2 generalizing s a x3 with
  | zero => exact hk
  | succ fuel ih =>
    unfold State.apWrites
    repeat' first
      | with_reducible apply ih
      | with_reducible assumption
      | with_reducible first
          | apply kept_apWrite
      | ((try lift_lets -underBinder); intro x; clear_value (hx : x = _); first
          | refine Kept.cut (s := s0) hx ?_ (fun kx => ?_)
          | refine Kept.cut2 (s := s0) hx ?_ (fun kx => ?_)
          | (have : Mgmt := x; subst hx)
          | clear hx)
      | split
      | (with_reducible first | apply Kept.upd | apply Kept.updM | apply Kept.updT | apply Kept.updTM) <;> with_reducible first | assumption | apply kept_apWrite

theorem kept_spaceWrite {s0 : State} (s : State) (a : Nat) (b : List Byte) (hk : Kept s0 s)  : Kept s0 (State.spaceWrite s a b).2 := by
  unfold State.spaceWrite
  repeat' first
    | with_reducible assumption
    | with_reducible first
        | apply kept_apWrites
        | apply kept_devWrite
    | ((try lift_lets -underBinder); intro x; clear_value (hx : x = _); first
        | refine Kept.cut (s := s0) hx ?_ (fun kx => ?_)
        | refine Kept.cut2 (s := s0) hx ?_ (fun kx => ?_)
        | (have : Mgmt := x; subst hx)
        | clear hx)
    | split
    | (with_reducible first | apply Kept.upd | apply Kept.updM | apply Kept.updT | apply Kept.updTM) <;> with_reducible first | assumption | apply kept_apWrites | apply kept_devWrite

theorem kept_sendOut {s0 : State} (s : State) (e : Nat) (ts : Bool) (b : List Byte) (hk : Kept s0 s)  : Kept s0 (State.sendOut s e ts b) := by
  unfold State.sendOut
  repeat' first
    | with_reducible assumption
    | with_reducible first
        | apply kept_egressStamp
        | apply kept_putFrame
        | apply kept_timeRecord
    | split
    | ((try lift_lets -underBinder); intro x; clear_value (hx : x = _); first
        | refine Kept.cut (s := s0) hx ?_ (fun kx => ?_)
        | refine Kept.cut2 (s := s0) hx ?_ (fun kx => ?_)
        | refine Kept.cut3 (s := s0) hx ?_ (fun kx => ?_)
        | refine Kept.cut1 (s := s0) hx ?_ (fun kx => ?_)
        | refine DieKept.cut (s := s0) hx ?_ (fun kx => ?_)
        | (have : Mgmt := x; subst hx)
        | (have : TimeSt := x; subst hx)
        | clear hx)
    | with_reducible refine kept_foldl _ _ _ ?_ (fun t a kt => ?_)
    | with_reducible refine kept_foldl2 _ _ _ ?_ (fun t a kt => ?_)
    | intro _
    | (with_reducible first | apply Kept.upd | apply Kept.updM | apply Kept.updT | apply Kept.updTM) <;> with_reducible first | assumption | apply kept_egressStamp | apply kept_putFrame | apply kept_timeRecord

theorem kept_sendCmd {s0 : State} (s : State) (i : Nat) (hk : Kept s0 s)  : Kept s0 (State.sendCmd s i) := by
  unfold State.sendCmd
  repeat' first
    | with_reducible assumption
    | with_reducible first
        | apply kept_spaceRead
        | refine kept_takeCmd (hk := ?_) (e := by assumption) <;> assumption
        | apply kept_sendOut
        | apply kept_fellFinish
    | ((try lift_lets -underBinder); intro x; clear_value (hx : x = _); first
        | refine Kept.cut (s := s0) hx ?_ (fun kx => ?_)
        | refine Kept.cut2 (s := s0) hx ?_ (fun kx => ?_)
        | refine Kept.cut3 (s := s0) hx ?_ (fun kx => ?_)
        | refine Kept.cut1 (s := s0) hx ?_ (fun kx => ?_)
        | refine DieKept.cut (s := s0) hx ?_ (fun kx => ?_)
        | (have : Mgmt := x; subst hx)
        | (have : TimeSt := x; subst hx)
        | clear hx)
    | with_reducible refine kept_foldl _ _ _ ?_ (fun t a kt => ?_)
    | with_reducible refine kept_foldl2 _ _ _ ?_ (fun t a kt => ?_)
    | intro _
    | split
    | (with_reducible first | apply Kept.upd | apply Kept.updM | apply Kept.updT | apply Kept.updTM) <;> with_reducible first | assumption | apply kept_spaceRead | refine kept_takeCmd (hk := ?_) (e := by assumption) <;> assumption | apply kept_sendOut | apply kept_fellFinish

theorem kept_identify {s0 : State} (s : State) (i : Nat) (hk : Kept s0 s)  : Kept s0 (State.identify s i) := by
  unfold State.identify
  repeat' first
    | with_reducible assumption
    | with_reducible first
        | apply kept_recordWrite
        | refine kept_takeCmd (hk := ?_) (e := by assumption) <;> assumption
        | apply kept_mboxDone
    | ((try lift_lets -underBinder); intro x; clear_value (hx : x = _); first
        | refine Kept.cut (s := s0) hx ?_ (fun kx => ?_)
        | refine Kept.cut2 (s := s0) hx ?_ (fun kx => ?_)
        | (have : Mgmt := x; subst hx)
        | clear hx)
    | split
    | (with_reducible first | apply Kept.upd | apply Kept.updM | apply Kept.updT | apply Kept.updTM) <;> with_reducible first | assumption | apply kept_recordWrite | refine kept_takeCmd (hk := ?_) (e := by assumption) <;> assumption | apply kept_mboxDone

theorem kept_enroll {s0 : State} (s : State) (i : Nat) (hk : Kept s0 s)  : Kept s0 (State.enroll s i) := by
  unfold State.enroll
  repeat' first
    | with_reducible assumption
    | with_reducible first
        | apply kept_spaceRead
        | apply kept_journal
        | refine kept_takeCmd (hk := ?_) (e := by assumption) <;> assumption
        | apply kept_fellFinish
    | ((try lift_lets -underBinder); intro x; clear_value (hx : x = _); first
        | refine Kept.cut (s := s0) hx ?_ (fun kx => ?_)
        | refine Kept.cut2 (s := s0) hx ?_ (fun kx => ?_)
        | (have : Mgmt := x; subst hx)
        | clear hx)
    | split
    | (with_reducible first | apply Kept.upd | apply Kept.updM | apply Kept.updT | apply Kept.updTM) <;> with_reducible first | assumption | apply kept_spaceRead | apply kept_journal | refine kept_takeCmd (hk := ?_) (e := by assumption) <;> assumption | apply kept_fellFinish

theorem kept_evqRead {s0 : State} (s : State) (q : Nat) (hk : Kept s0 s)  : Kept s0 (State.evqRead s q) := by
  unfold State.evqRead
  repeat' first
    | with_reducible assumption
    | with_reducible first
        | apply kept_latchW
        | apply kept_vector
        | apply kept_emit
    | ((try lift_lets -underBinder); intro x; clear_value (hx : x = _); first
        | refine Kept.cut (s := s0) hx ?_ (fun kx => ?_)
        | refine Kept.cut2 (s := s0) hx ?_ (fun kx => ?_)
        | (have : Mgmt := x; subst hx)
        | clear hx)
    | split
    | (with_reducible first | apply Kept.upd | apply Kept.updM | apply Kept.updT | apply Kept.updTM) <;> with_reducible first | assumption | apply kept_latchW | apply kept_vector | apply kept_emit

theorem kept_setDmaCh {s0 : State} (s : State) (n : Nat) (x : DmaCh) (hk : Kept s0 s)  : Kept s0 (State.setDmaCh s n x) := by
  unfold State.setDmaCh
  exact Kept.updM hk

theorem kept_dmaPost {s0 : State} (s : State) (n : Nat) (hk : Kept s0 s)  : Kept s0 (State.dmaPost s n) := by
  unfold State.dmaPost
  exact kept_postV (hk := hk) ..

theorem kept_dmaStop {s0 : State} (s : State) (n : Nat) (err : Nat) (hk : Kept s0 s)  : Kept s0 (State.dmaStop s n err) := by
  unfold State.dmaStop
  repeat' first
    | with_reducible assumption
    | with_reducible first
        | apply kept_dmaPost
        | apply kept_setDmaCh
    | ((try lift_lets -underBinder); intro x; clear_value (hx : x = _); first
        | refine Kept.cut (s := s0) hx ?_ (fun kx => ?_)
        | refine Kept.cut2 (s := s0) hx ?_ (fun kx => ?_)
        | (have : Mgmt := x; subst hx)
        | clear hx)
    | split
    | (with_reducible first | apply Kept.upd | apply Kept.updM | apply Kept.updT | apply Kept.updTM) <;> with_reducible first | assumption | apply kept_dmaPost | apply kept_setDmaCh

theorem kept_dmaGo {s0 : State} (s : State) (n : Nat) (hk : Kept s0 s)  : Kept s0 (State.dmaGo s n) := by
  unfold State.dmaGo
  repeat' first
    | with_reducible assumption
    | with_reducible first
        | apply kept_setDmaCh
    | ((try lift_lets -underBinder); intro x; clear_value (hx : x = _); first
        | refine Kept.cut (s := s0) hx ?_ (fun kx => ?_)
        | refine Kept.cut2 (s := s0) hx ?_ (fun kx => ?_)
        | (have : Mgmt := x; subst hx)
        | clear hx)
    | split
    | (with_reducible first | apply Kept.upd | apply Kept.updM | apply Kept.updT | apply Kept.updTM) <;> with_reducible first | assumption | apply kept_setDmaCh

theorem kept_dmaMove {s0 : State} (s : State) (d : HostDesc) (hk : Kept s0 s)  : Kept s0 (State.dmaMove s d).2 := by
  unfold State.dmaMove
  repeat' first
    | with_reducible assumption
    | with_reducible first
        | apply kept_spaceRead
        | apply kept_spaceWrite
        | apply kept_emit
    | ((try lift_lets -underBinder); intro x; clear_value (hx : x = _); first
        | refine Kept.cut (s := s0) hx ?_ (fun kx => ?_)
        | refine Kept.cut2 (s := s0) hx ?_ (fun kx => ?_)
        | refine Kept.cut3 (s := s0) hx ?_ (fun kx => ?_)
        | refine Kept.cut1 (s := s0) hx ?_ (fun kx => ?_)
        | refine DieKept.cut (s := s0) hx ?_ (fun kx => ?_)
        | (have : Mgmt := x; subst hx)
        | (have : TimeSt := x; subst hx)
        | clear hx)
    | with_reducible refine kept_foldl _ _ _ ?_ (fun t a kt => ?_)
    | with_reducible refine kept_foldl2 _ _ _ ?_ (fun t a kt => ?_)
    | intro _
    | split
    | (with_reducible first | apply Kept.upd | apply Kept.updM | apply Kept.updT | apply Kept.updTM) <;> with_reducible first | assumption | apply kept_spaceRead | apply kept_spaceWrite | apply kept_emit

theorem kept_dmaDescDone {s0 : State} (s : State) (n : Nat) (d : HostDesc) (hk : Kept s0 s)  : Kept s0 (State.dmaDescDone s n d) := by
  unfold State.dmaDescDone
  repeat' first
    | with_reducible assumption
    | with_reducible first
        | apply kept_dmaStop
        | apply kept_dmaPost
        | apply kept_setDmaCh
        | apply kept_dmaMove
    | ((try lift_lets -underBinder); intro x; clear_value (hx : x = _); first
        | refine Kept.cut (s := s0) hx ?_ (fun kx => ?_)
        | refine Kept.cut2 (s := s0) hx ?_ (fun kx => ?_)
        | (have : Mgmt := x; subst hx)
        | clear hx)
    | split
    | (with_reducible first | apply Kept.upd | apply Kept.updM | apply Kept.updT | apply Kept.updTM) <;> with_reducible first | assumption | apply kept_dmaStop | apply kept_dmaPost | apply kept_setDmaCh | apply kept_dmaMove

theorem kept_jrnlExport {s0 : State} (s : State) (hi : Word) (hk : Kept s0 s)  : Kept s0 (State.jrnlExport s hi) := by
  unfold State.jrnlExport
  repeat' first
    | with_reducible assumption
    | with_reducible first
        | apply kept_settleJrnl
        | apply kept_setRw
    | ((try lift_lets -underBinder); intro x; clear_value (hx : x = _); first
        | refine Kept.cut (s := s0) hx ?_ (fun kx => ?_)
        | refine Kept.cut2 (s := s0) hx ?_ (fun kx => ?_)
        | (have : Mgmt := x; subst hx)
        | clear hx)
    | split
    | (with_reducible first | apply Kept.upd | apply Kept.updM | apply Kept.updT | apply Kept.updTM) <;> with_reducible first | assumption | apply kept_settleJrnl | apply kept_setRw

end Sys2Proof.Machine
end

