-- ==== Sys2Proof/Laws/KeptPowerOps.lean ====
section
/-! SUPPORT. What the operations of PowerOps.lean keep (Laws/Kept.lean). -/
namespace Sys2Proof.Machine
set_option linter.all false

theorem kept_plainWrite {s0 : State} (s : State) (off : Nat) (val : Word) (hk : Kept s0 s)  : Kept s0 (State.plainWrite s off val) := by
  unfold State.plainWrite
  repeat' first
    | with_reducible assumption
    | with_reducible first
        | apply kept_setRw
    | ((try lift_lets -underBinder); intro x; clear_value (hx : x = _); first
        | refine Kept.cut (s := s0) hx ?_ (fun kx => ?_)
        | refine Kept.cut2 (s := s0) hx ?_ (fun kx => ?_)
        | (have : Mgmt := x; subst hx)
        | clear hx)
    | split
    | (with_reducible first | apply Kept.upd | apply Kept.updM | apply Kept.updT | apply Kept.updTM) <;> with_reducible first | assumption | apply kept_setRw

theorem kept_powerEntry {s0 : State} (s : State) (code : Nat) (origin : Nat) (hk : Kept s0 s)  : Kept s0 (State.powerEntry s code origin) := by
  unfold State.powerEntry
  exact kept_journal (hk := hk) ..

theorem kept_powerEvent {s0 : State} (s : State) (idx : Nat) (hk : Kept s0 s)  : Kept s0 (State.powerEvent s idx) := by
  unfold State.powerEvent
  repeat' first
    | with_reducible assumption
    | with_reducible first
        | apply kept_post
        | apply kept_powerEntry
    | ((try lift_lets -underBinder); intro x; clear_value (hx : x = _); first
        | refine Kept.cut (s := s0) hx ?_ (fun kx => ?_)
        | refine Kept.cut2 (s := s0) hx ?_ (fun kx => ?_)
        | (have : Mgmt := x; subst hx)
        | clear hx)
    | split
    | (with_reducible first | apply Kept.upd | apply Kept.updM | apply Kept.updT | apply Kept.updTM) <;> with_reducible first | assumption | apply kept_post | apply kept_powerEntry

theorem kept_boardReset {s0 : State} (s : State) (rst : Bool) (hk : Kept s0 s)  : Kept s0 (State.boardReset s rst) := by
  unfold State.boardReset
  extract_lets t0 s1
  have h1 : Kept s0 s1 := ⟨hk.pending, hk.raw, hk.out, fun _ => rfl, fun _ => rfl, fun _ => rfl⟩
  exact kept_drivePins (hk := h1) ..

theorem kept_bootPlaces {s0 : State} (s : State) (hk : Kept s0 s)  : Kept s0 (State.bootPlaces s) := by
  unfold State.bootPlaces
  repeat' first
    | with_reducible assumption
    | with_reducible first
        | apply kept_swapLanes
    | ((try lift_lets -underBinder); intro x; clear_value (hx : x = _); first
        | refine Kept.cut (s := s0) hx ?_ (fun kx => ?_)
        | refine Kept.cut2 (s := s0) hx ?_ (fun kx => ?_)
        | (have : Mgmt := x; subst hx)
        | clear hx)
    | with_reducible refine kept_foldl _ _ _ ?_ (fun t a kt => ?_)
    | intro _
    | split
    | (with_reducible first | apply Kept.upd | apply Kept.updM | apply Kept.updT | apply Kept.updTM) <;> with_reducible first | assumption | apply kept_swapLanes

theorem kept_applySettings {s0 : State} (s : State) (b : List Byte) (hk : Kept s0 s)  : Kept s0 (State.applySettings s b) := by
  unfold State.applySettings
  repeat' first
    | with_reducible assumption
    | with_reducible first
        | apply kept_post
        | apply kept_journal
        | apply kept_reject
        | apply kept_plainWrite
        | apply kept_applySet
    | ((try lift_lets -underBinder); intro x; clear_value (hx : x = _); first
        | refine Kept.cut (s := s0) hx ?_ (fun kx => ?_)
        | refine Kept.cut2 (s := s0) hx ?_ (fun kx => ?_)
        | (have : Mgmt := x; subst hx)
        | clear hx)
    | with_reducible refine kept_foldl _ _ _ ?_ (fun t a kt => ?_)
    | intro _
    | split
    | (with_reducible first | apply Kept.upd | apply Kept.updM | apply Kept.updT | apply Kept.updTM) <;> with_reducible first | assumption | apply kept_post | apply kept_journal | apply kept_reject | apply kept_plainWrite | apply kept_applySet

theorem kept_bootFirmware {s0 : State} (s : State) (env : ColdEnv) (f : FwSlot) (hk : Kept s0 s)  : Kept s0 (State.bootFirmware s env f) := by
  unfold State.bootFirmware
  repeat' first
    | with_reducible assumption
    | with_reducible first
        | apply kept_post
        | apply kept_drivePins
    | ((try lift_lets -underBinder); intro x; clear_value (hx : x = _); first
        | refine Kept.cut (s := s0) hx ?_ (fun kx => ?_)
        | refine Kept.cut2 (s := s0) hx ?_ (fun kx => ?_)
        | (have : Mgmt := x; subst hx)
        | clear hx)
    | with_reducible refine kept_foldl _ _ _ ?_ (fun t a kt => ?_)
    | intro _
    | split
    | (with_reducible first | apply Kept.upd | apply Kept.updM | apply Kept.updT | apply Kept.updTM) <;> with_reducible first | assumption | apply kept_post | apply kept_drivePins

theorem kept_bootUnits {s0 : State} (s : State) (env : ColdEnv) (hk : Kept s0 s)  : Kept s0 (State.bootUnits s env) := by
  unfold State.bootUnits
  repeat' first
    | with_reducible assumption
    | with_reducible first
        | apply kept_repairEntry
        | apply kept_laneFailing
        | apply kept_bootPlaces
        | apply kept_losePort
    | ((try lift_lets -underBinder); intro x; clear_value (hx : x = _); first
        | refine Kept.cut (s := s0) hx ?_ (fun kx => ?_)
        | refine Kept.cut2 (s := s0) hx ?_ (fun kx => ?_)
        | (have : Mgmt := x; subst hx)
        | clear hx)
    | with_reducible refine kept_foldl _ _ _ ?_ (fun t a kt => ?_)
    | intro _
    | split
    | (with_reducible first | apply Kept.upd | apply Kept.updM | apply Kept.updT | apply Kept.updTM) <;> with_reducible first | assumption | apply kept_repairEntry | apply kept_laneFailing | apply kept_bootPlaces | apply kept_losePort

theorem kept_bootReady {s0 : State} (s : State) (hk : Kept s0 s)  : Kept s0 (State.bootReady s) := by
  unfold State.bootReady
  extract_lets m0 s1 s2
  have h1 : Kept s0 s1 := Kept.updB hk
  have h2 : Kept s0 s2 := kept_journal (hk := h1) ..
  split
  · exact kept_journal (hk := Kept.updM h2) ..
  · exact h2

theorem kept_overPcie {s0 : State} (s : State) (f : State → State) (hk : Kept s0 s) (hf : ∀ t0, Kept s0 t0 → Kept s0 (f t0)) : Kept s0 (State.overPcie s f) := by
  unfold State.overPcie
  repeat' first
    | with_reducible assumption
    | with_reducible first
        | apply hf
    | ((try lift_lets -underBinder); intro x; clear_value (hx : x = _); first
        | refine Kept.cut (s := s0) hx ?_ (fun kx => ?_)
        | refine Kept.cut2 (s := s0) hx ?_ (fun kx => ?_)
        | (have : Mgmt := x; subst hx)
        | clear hx)
    | split
    | (with_reducible first | apply Kept.upd | apply Kept.updM | apply Kept.updT | apply Kept.updTM) <;> with_reducible first | assumption | apply hf

theorem kept_failCmd {s0 : State} (s : State) (c : MboxCmd) (hk : Kept s0 s)  : Kept s0 (State.failCmd s c) := by
  unfold State.failCmd
  repeat' first
    | with_reducible assumption
    | with_reducible first
        | apply kept_post
        | apply kept_seqFinish
        | apply kept_modelFinish
        | apply kept_fellFinish
        | apply kept_devWrite
        | apply kept_mboxDone
    | ((try lift_lets -underBinder); intro x; clear_value (hx : x = _); first
        | refine Kept.cut (s := s0) hx ?_ (fun kx => ?_)
        | refine Kept.cut2 (s := s0) hx ?_ (fun kx => ?_)
        | (have : Mgmt := x; subst hx)
        | clear hx)
    | split
    | (with_reducible first | apply Kept.upd | apply Kept.updM | apply Kept.updT | apply Kept.updTM) <;> with_reducible first | assumption | apply kept_post | apply kept_seqFinish | apply kept_modelFinish | apply kept_fellFinish | apply kept_devWrite | apply kept_mboxDone

theorem kept_failRunning {s0 : State} (s : State) (r : Running) (hk : Kept s0 s)  : Kept s0 (State.failRunning s r) := by
  unfold State.failRunning
  repeat' first
    | with_reducible assumption
    | with_reducible first
        | apply kept_modelDone
        | apply kept_devWrite
    | ((try lift_lets -underBinder); intro x; clear_value (hx : x = _); first
        | refine Kept.cut (s := s0) hx ?_ (fun kx => ?_)
        | refine Kept.cut2 (s := s0) hx ?_ (fun kx => ?_)
        | (have : Mgmt := x; subst hx)
        | clear hx)
    | split
    | (with_reducible first | apply Kept.upd | apply Kept.updM | apply Kept.updT | apply Kept.updTM) <;> with_reducible first | assumption | apply kept_modelDone | apply kept_devWrite

theorem kept_failWaits {s0 : State} (s : State) (hk : Kept s0 s)  : Kept s0 (State.failWaits s) := by
  unfold State.failWaits
  repeat' first
    | with_reducible assumption
    | with_reducible first
        | apply kept_post
        | apply kept_devWrite
        | apply kept_mboxDone
    | ((try lift_lets -underBinder); intro x; clear_value (hx : x = _); first
        | refine Kept.cut (s := s0) hx ?_ (fun kx => ?_)
        | refine Kept.cut2 (s := s0) hx ?_ (fun kx => ?_)
        | (have : Mgmt := x; subst hx)
        | clear hx)
    | with_reducible refine kept_foldl _ _ _ ?_ (fun t a kt => ?_)
    | intro _
    | split
    | (with_reducible first | apply Kept.upd | apply Kept.updM | apply Kept.updT | apply Kept.updTM) <;> with_reducible first | assumption | apply kept_post | apply kept_devWrite | apply kept_mboxDone

theorem kept_softReset {s0 : State} (s : State) (hk : Kept s0 s)  : Kept s0 (State.softReset s) := by
  unfold State.softReset
  split
  · exact hk
  · extract_lets a0 a1 a2 m0 p0 a3 a4 a5
    have h0 : Kept s0 a0 := kept_foldl _ _ _ hk (fun _ _ kt => kept_failCmd (hk := kt) ..)
    have h1 : Kept s0 a1 := kept_foldl _ _ _ h0 (fun _ _ kt => kept_failRunning (hk := kt) ..)
    have h2 : Kept s0 a2 := kept_failWaits (hk := h1) ..
    have h3 : Kept s0 a3 := ⟨h2.pending, h2.raw, h2.out, h2.mem, fun _ => rfl, h2.boot⟩
    have h4 : Kept s0 a4 := kept_foldl _ _ _ h3 (fun _ _ kt => kept_itemFail (hk := kt) ..)
    have h5 : Kept s0 a5 := by
      unfold a5
      split
      · exact kept_sendBeat (hk := h4) ..
      · exact h4
    exact kept_settle (hk := kept_boomFault (hk := h5) ..) ..

theorem kept_relink {s0 : State} (s : State) (e : Nat) (hk : Kept s0 s)  : Kept s0 (State.relink s e) := by
  unfold State.relink
  repeat' first
    | with_reducible assumption
    | with_reducible first
        | apply kept_sendResume
        | apply kept_setEp
    | ((try lift_lets -underBinder); intro x; clear_value (hx : x = _); first
        | refine Kept.cut (s := s0) hx ?_ (fun kx => ?_)
        | refine Kept.cut2 (s := s0) hx ?_ (fun kx => ?_)
        | (have : Mgmt := x; subst hx)
        | clear hx)
    | split
    | (with_reducible first | apply Kept.upd | apply Kept.updM | apply Kept.updT | apply Kept.updTM) <;> with_reducible first | assumption | apply kept_sendResume | apply kept_setEp

theorem kept_softResetNow {s0 : State} (s : State) (hk : Kept s0 s)  : Kept s0 (State.softResetNow s) := by
  unfold State.softResetNow
  extract_lets t0 u0 p0 a1 a2 w0 a3
  have h1 : Kept s0 a1 := by
    refine ⟨hk.pending, hk.raw, hk.out, fun m => ?_, hk.mbox, hk.boot⟩
    have hm := hk.mem m
    simp only [State.memOk, Bool.and_eq_true] at hm ⊢
    refine ⟨(Tbl.ok_mapVals (fun _ (y : DieSt) => { y with sram := [], sramUe := [], hard := [] }) hm.1 :), ?_⟩
    have hd := hm.2
    simp only [DieSt.ok, List.all_eq_true, Tbl.mapVals, List.mem_map, a1] at hd ⊢
    rintro x ⟨y, hy, rfl⟩
    have := hd y hy
    simp only [Bool.and_eq_true] at this ⊢
    exact ⟨this.1, rfl⟩
  have h2 : Kept s0 a2 := kept_foldl _ _ _ h1 (fun _ _ kt => kept_relink (hk := kt) ..)
  have h3 : Kept s0 a3 := Kept.upd h2
  apply kept_settle
  split
  · exact kept_twinTo (hk := h3) ..
  · exact h3

theorem kept_quadReset {s0 : State} (s : State) (mask : Nat) (hk : Kept s0 s)  : Kept s0 (State.quadReset s mask) := by
  unfold State.quadReset
  repeat' first
    | with_reducible assumption
    | with_reducible first
        | apply kept_watchAxes
        | apply kept_portDown
        | apply kept_settle
    | ((try lift_lets -underBinder); intro x; clear_value (hx : x = _); first
        | refine Kept.cut (s := s0) hx ?_ (fun kx => ?_)
        | refine Kept.cut2 (s := s0) hx ?_ (fun kx => ?_)
        | (have : Mgmt := x; subst hx)
        | clear hx)
    | with_reducible refine kept_foldl _ _ _ ?_ (fun t a kt => ?_)
    | intro _
    | split
    | (with_reducible first | apply Kept.upd | apply Kept.updM | apply Kept.updT | apply Kept.updTM) <;> with_reducible first | assumption | apply kept_watchAxes | apply kept_portDown | apply kept_settle

theorem kept_flr {s0 : State} (s : State) (hk : Kept s0 s)  : Kept s0 (State.flr s) := by
  unfold State.flr
  repeat' first
    | with_reducible assumption
    | with_reducible first
        | apply kept_dmaStop
    | ((try lift_lets -underBinder); intro x; clear_value (hx : x = _); first
        | refine Kept.cut (s := s0) hx ?_ (fun kx => ?_)
        | refine Kept.cut2 (s := s0) hx ?_ (fun kx => ?_)
        | (have : Mgmt := x; subst hx)
        | clear hx)
    | with_reducible refine kept_foldl _ _ _ ?_ (fun t a kt => ?_)
    | intro _
    | split
    | (with_reducible first | apply Kept.upd | apply Kept.updM | apply Kept.updT | apply Kept.updTM) <;> with_reducible first | assumption | apply kept_dmaStop

theorem kept_enterPower {s0 : State} (s : State) (st : Nat) (hk : Kept s0 s)  : Kept s0 (State.enterPower s st) := by
  unfold State.enterPower
  repeat' first
    | with_reducible assumption
    | with_reducible first
        | apply kept_post
        | apply kept_powerEntry
    | ((try lift_lets -underBinder); intro x; clear_value (hx : x = _); first
        | refine Kept.cut (s := s0) hx ?_ (fun kx => ?_)
        | refine Kept.cut2 (s := s0) hx ?_ (fun kx => ?_)
        | (have : Mgmt := x; subst hx)
        | clear hx)
    | split
    | (with_reducible first | apply Kept.upd | apply Kept.updM | apply Kept.updT | apply Kept.updTM) <;> with_reducible first | assumption | apply kept_post | apply kept_powerEntry

theorem kept_idleDue {s0 : State} (s : State) (hk : Kept s0 s)  : Kept s0 (State.idleDue s) := by
  unfold State.idleDue
  repeat' first
    | with_reducible assumption
    | with_reducible first
        | apply kept_enterPower
    | ((try lift_lets -underBinder); intro x; clear_value (hx : x = _); first
        | refine Kept.cut (s := s0) hx ?_ (fun kx => ?_)
        | refine Kept.cut2 (s := s0) hx ?_ (fun kx => ?_)
        | (have : Mgmt := x; subst hx)
        | clear hx)
    | split
    | (with_reducible first | apply Kept.upd | apply Kept.updM | apply Kept.updT | apply Kept.updTM) <;> with_reducible first | assumption | apply kept_enterPower

theorem kept_refusePower {s0 : State} (s : State) (why : Nat) (hk : Kept s0 s)  : Kept s0 (State.refusePower s why) := by
  unfold State.refusePower
  exact Kept.upd hk

theorem kept_drainAll {s0 : State} (s : State) (hk : Kept s0 s)  : Kept s0 (State.drainAll s) := by
  unfold State.drainAll
  exact Kept.upd hk

theorem kept_resumeAll {s0 : State} (s : State) (hk : Kept s0 s)  : Kept s0 (State.resumeAll s) := by
  unfold State.resumeAll
  repeat' first
    | with_reducible assumption
    | with_reducible first
        | apply kept_resumeRun
    | ((try lift_lets -underBinder); intro x; clear_value (hx : x = _); first
        | refine Kept.cut (s := s0) hx ?_ (fun kx => ?_)
        | refine Kept.cut2 (s := s0) hx ?_ (fun kx => ?_)
        | (have : Mgmt := x; subst hx)
        | clear hx)
    | with_reducible refine kept_foldl _ _ _ ?_ (fun t a kt => ?_)
    | intro _
    | split
    | (with_reducible first | apply Kept.upd | apply Kept.updM | apply Kept.updT | apply Kept.updTM) <;> with_reducible first | assumption | apply kept_resumeRun

theorem kept_powerReq {s0 : State} (s : State) (r : Nat) (origin : Nat) (hk : Kept s0 s)  : Kept s0 (State.powerReq s r origin) := by
  unfold State.powerReq
  repeat' first
    | with_reducible assumption
    | with_reducible first
        | apply kept_drainAll
        | apply kept_idleDue
        | apply kept_refusePower
        | apply kept_putRw
    | ((try lift_lets -underBinder); intro x; clear_value (hx : x = _); first
        | refine Kept.cut (s := s0) hx ?_ (fun kx => ?_)
        | refine Kept.cut2 (s := s0) hx ?_ (fun kx => ?_)
        | (have : Mgmt := x; subst hx)
        | clear hx)
    | split
    | (with_reducible first | apply Kept.upd | apply Kept.updM | apply Kept.updT | apply Kept.updTM) <;> with_reducible first | assumption | apply kept_drainAll | apply kept_idleDue | apply kept_refusePower | apply kept_putRw

theorem kept_dozeDone {s0 : State} (s : State) (hk : Kept s0 s)  : Kept s0 (State.dozeDone s) := by
  unfold State.dozeDone
  repeat' first
    | with_reducible assumption
    | with_reducible first
        | apply kept_enterPower
    | ((try lift_lets -underBinder); intro x; clear_value (hx : x = _); first
        | refine Kept.cut (s := s0) hx ?_ (fun kx => ?_)
        | refine Kept.cut2 (s := s0) hx ?_ (fun kx => ?_)
        | (have : Mgmt := x; subst hx)
        | clear hx)
    | split
    | (with_reducible first | apply Kept.upd | apply Kept.updM | apply Kept.updT | apply Kept.updTM) <;> with_reducible first | assumption | apply kept_enterPower

theorem kept_wakeDone {s0 : State} (s : State) (hk : Kept s0 s)  : Kept s0 (State.wakeDone s) := by
  unfold State.wakeDone
  repeat' first
    | with_reducible assumption
    | with_reducible first
        | apply kept_enterPower
        | apply kept_resumeAll
        | apply kept_settle
    | ((try lift_lets -underBinder); intro x; clear_value (hx : x = _); first
        | refine Kept.cut (s := s0) hx ?_ (fun kx => ?_)
        | refine Kept.cut2 (s := s0) hx ?_ (fun kx => ?_)
        | (have : Mgmt := x; subst hx)
        | clear hx)
    | split
    | (with_reducible first | apply Kept.upd | apply Kept.updM | apply Kept.updT | apply Kept.updTM) <;> with_reducible first | assumption | apply kept_enterPower | apply kept_resumeAll | apply kept_settle

theorem kept_warnAll {s0 : State} (s : State) (hk : Kept s0 s)  : Kept s0 (State.warnAll s) := by
  unfold State.warnAll
  repeat' first
    | with_reducible assumption
    | ((try lift_lets -underBinder); intro x; clear_value (hx : x = _); first
        | refine Kept.cut (s := s0) hx ?_ (fun kx => ?_)
        | refine Kept.cut2 (s := s0) hx ?_ (fun kx => ?_)
        | (have : Mgmt := x; subst hx)
        | clear hx)
    | split
    | (with_reducible first | apply Kept.upd | apply Kept.updM | apply Kept.updT | apply Kept.updTM) <;> with_reducible first | assumption

theorem kept_supplyHold {s0 : State} (s : State) (hk : Kept s0 s)  : Kept s0 (State.supplyHold s) := by
  unfold State.supplyHold
  repeat' first
    | with_reducible assumption
    | with_reducible first
        | apply kept_warnAll
        | apply kept_powerEvent
        | apply kept_count
    | ((try lift_lets -underBinder); intro x; clear_value (hx : x = _); first
        | refine Kept.cut (s := s0) hx ?_ (fun kx => ?_)
        | refine Kept.cut2 (s := s0) hx ?_ (fun kx => ?_)
        | (have : Mgmt := x; subst hx)
        | clear hx)
    | split
    | (with_reducible first | apply Kept.upd | apply Kept.updM | apply Kept.updT | apply Kept.updTM) <;> with_reducible first | assumption | apply kept_warnAll | apply kept_powerEvent | apply kept_count

theorem kept_supplySample {s0 : State} (s : State) (rails : List Rail) (hk : Kept s0 s)  : Kept s0 (State.supplySample s rails) := by
  unfold State.supplySample
  repeat' first
    | with_reducible assumption
    | with_reducible first
        | apply kept_leaveService
        | apply kept_boardReset
        | apply kept_supplyHold
    | ((try lift_lets -underBinder); intro x; clear_value (hx : x = _); first
        | refine Kept.cut (s := s0) hx ?_ (fun kx => ?_)
        | refine Kept.cut2 (s := s0) hx ?_ (fun kx => ?_)
        | (have : Mgmt := x; subst hx)
        | clear hx)
    | split
    | (with_reducible first | apply Kept.upd | apply Kept.updM | apply Kept.updT | apply Kept.updTM) <;> with_reducible first | assumption | apply kept_leaveService | apply kept_boardReset | apply kept_supplyHold

theorem kept_supplyOk {s0 : State} (s : State) (hk : Kept s0 s)  : Kept s0 (State.supplyOk s) := by
  unfold State.supplyOk
  repeat' first
    | with_reducible assumption
    | with_reducible first
        | apply kept_settle
        | apply kept_powerEvent
    | ((try lift_lets -underBinder); intro x; clear_value (hx : x = _); first
        | refine Kept.cut (s := s0) hx ?_ (fun kx => ?_)
        | refine Kept.cut2 (s := s0) hx ?_ (fun kx => ?_)
        | (have : Mgmt := x; subst hx)
        | clear hx)
    | split
    | (with_reducible first | apply Kept.upd | apply Kept.updM | apply Kept.updT | apply Kept.updTM) <;> with_reducible first | assumption | apply kept_settle | apply kept_powerEvent

theorem kept_thermShut {s0 : State} (s : State) (hk : Kept s0 s)  : Kept s0 (State.thermShut s) := by
  unfold State.thermShut
  extract_lets s1 p0 s2
  have h1 : Kept s0 s1 := kept_leaveService (hk := hk) ..
  have hd : ∀ (l : List Nat) (t : Tbl DieSt), (Tbl.ok t && t.all (fun e => e.2.ok)) = true →
      (Tbl.ok (l.foldl (fun t d => Tbl.put t d { lost := true }) t) &&
        (l.foldl (fun t d => Tbl.put t d { lost := true }) t).all (fun e => e.2.ok)) = true := by
    intro l
    induction l with
    | nil => exact fun _ h => h
    | cons k l ih =>
      intro t h
      refine ih _ ?_
      simp only [Bool.and_eq_true, List.all_eq_true] at h ⊢
      refine ⟨Tbl.ok_put _ _ h.1, fun e he => ?_⟩
      rcases Tbl.mem_put he with he | he
      · subst he; rfl
      · exact h.2 e he
  have h2 : Kept s0 s2 := ⟨h1.pending, h1.raw, h1.out, fun m => hd _ _ (h1.mem m), h1.mbox, h1.boot⟩
  exact kept_powerEntry (hk := h2) ..

theorem kept_thermSteps {s0 : State} (s : State) (tj : Nat) (a : Nat) (hk : Kept s0 s)  : Kept s0 (State.thermSteps s tj a) := by
  induction a generalizing s tj with
  | zero => exact hk
  | succ fuel ih =>
    unfold State.thermSteps
    repeat' first
      | with_reducible apply ih
      | with_reducible assumption
      | with_reducible first
          | apply kept_count
          | apply kept_powerEvent
      | ((try lift_lets -underBinder); intro x; clear_value (hx : x = _); first
          | refine Kept.cut (s := s0) hx ?_ (fun kx => ?_)
          | refine Kept.cut2 (s := s0) hx ?_ (fun kx => ?_)
          | (have : Mgmt := x; subst hx)
          | clear hx)
      | split
      | (with_reducible first | apply Kept.upd | apply Kept.updM | apply Kept.updT | apply Kept.updTM) <;> with_reducible first | assumption | apply kept_count | apply kept_powerEvent

theorem kept_tjSample {s0 : State} (s : State) (temps : List Nat) (hk : Kept s0 s)  : Kept s0 (State.tjSample s temps) := by
  unfold State.tjSample
  repeat' first
    | with_reducible assumption
    | with_reducible first
        | apply kept_settle
        | apply kept_thermSteps
        | apply kept_peak
        | apply kept_thermShut
    | ((try lift_lets -underBinder); intro x; clear_value (hx : x = _); first
        | refine Kept.cut (s := s0) hx ?_ (fun kx => ?_)
        | refine Kept.cut2 (s := s0) hx ?_ (fun kx => ?_)
        | (have : Mgmt := x; subst hx)
        | clear hx)
    | with_reducible refine kept_foldl _ _ _ ?_ (fun t a kt => ?_)
    | intro _
    | split
    | (with_reducible first | apply Kept.upd | apply Kept.updM | apply Kept.updT | apply Kept.updTM) <;> with_reducible first | assumption | apply kept_settle | apply kept_thermSteps | apply kept_peak | apply kept_thermShut

end Sys2Proof.Machine
end

