-- ==== Sys2Proof/Laws/KeptBoundary.lean ====
section
/-! SUPPORT. What the operations of Boundary.lean keep (Laws/Kept.lean). -/
namespace Sys2Proof.Machine
set_option linter.all false

theorem kept_runAct {s0 : State} (s : State) (a : MgmtAct) (hk : Kept s0 s)  : Kept s0 (State.runAct s a) := by
  unfold State.runAct
  repeat' first
    | with_reducible assumption
    | with_reducible first
        | apply kept_quadReset
        | apply kept_applyStep
        | apply kept_applyInc
        | apply kept_rprCmd
        | apply kept_plainWrite
        | apply kept_tpoArm
        | apply kept_powerReq
        | apply kept_applyAdopt
        | apply kept_softReset
    | ((try lift_lets -underBinder); intro x; clear_value (hx : x = _); first
        | refine Kept.cut (s := s0) hx ?_ (fun kx => ?_)
        | refine Kept.cut2 (s := s0) hx ?_ (fun kx => ?_)
        | (have : Mgmt := x; subst hx)
        | clear hx)
    | split
    | (with_reducible first | apply Kept.upd | apply Kept.updM | apply Kept.updT | apply Kept.updTM) <;> with_reducible first | assumption | apply kept_quadReset | apply kept_applyStep | apply kept_applyInc | apply kept_rprCmd | apply kept_plainWrite | apply kept_tpoArm | apply kept_powerReq | apply kept_applyAdopt | apply kept_softReset

theorem kept_queueAct {s0 : State} (s : State) (a : MgmtAct) (hk : Kept s0 s)  : Kept s0 (State.queueAct s a) := by
  unfold State.queueAct
  exact Kept.updM hk

theorem kept_actNow {s0 : State} (s : State) (a : MgmtAct) (hk : Kept s0 s)  : Kept s0 (State.actNow s a) := by
  unfold State.actNow
  repeat' first
    | with_reducible assumption
    | with_reducible first
        | apply kept_runAct
        | apply kept_queueAct
    | ((try lift_lets -underBinder); intro x; clear_value (hx : x = _); first
        | refine Kept.cut (s := s0) hx ?_ (fun kx => ?_)
        | refine Kept.cut2 (s := s0) hx ?_ (fun kx => ?_)
        | (have : Mgmt := x; subst hx)
        | clear hx)
    | split
    | (with_reducible first | apply Kept.upd | apply Kept.updM | apply Kept.updT | apply Kept.updTM) <;> with_reducible first | assumption | apply kept_runAct | apply kept_queueAct

theorem kept_mgmtDue {s0 : State} (s : State) (hk : Kept s0 s)  : Kept s0 (State.mgmtDue s) := by
  unfold State.mgmtDue
  repeat' first
    | with_reducible assumption
    | with_reducible first
        | apply kept_actNow
    | ((try lift_lets -underBinder); intro x; clear_value (hx : x = _); first
        | refine Kept.cut (s := s0) hx ?_ (fun kx => ?_)
        | refine Kept.cut2 (s := s0) hx ?_ (fun kx => ?_)
        | (have : Mgmt := x; subst hx)
        | clear hx)
    | with_reducible refine kept_foldl _ _ _ ?_ (fun t a kt => ?_)
    | intro _
    | split
    | (with_reducible first | apply Kept.upd | apply Kept.updM | apply Kept.updT | apply Kept.updTM) <;> with_reducible first | assumption | apply kept_actNow

theorem kept_holdDue {s0 : State} (s : State) (hk : Kept s0 s)  : Kept s0 (State.holdDue s) := by
  unfold State.holdDue
  repeat' first
    | with_reducible assumption
    | with_reducible first
        | apply kept_supplyHold
    | ((try lift_lets -underBinder); intro x; clear_value (hx : x = _); first
        | refine Kept.cut (s := s0) hx ?_ (fun kx => ?_)
        | refine Kept.cut2 (s := s0) hx ?_ (fun kx => ?_)
        | (have : Mgmt := x; subst hx)
        | clear hx)
    | split
    | (with_reducible first | apply Kept.upd | apply Kept.updM | apply Kept.updT | apply Kept.updTM) <;> with_reducible first | assumption | apply kept_supplyHold

theorem kept_commitBoundary {s0 : State} (s : State) (hk : Kept s0 s)  : Kept s0 (State.commitBoundary s) := by
  unfold State.commitBoundary
  repeat' first
    | with_reducible assumption
    | with_reducible first
        | apply kept_holdDue
        | apply kept_mgmtDue
        | apply kept_commitApply
    | ((try lift_lets -underBinder); intro x; clear_value (hx : x = _); first
        | refine Kept.cut (s := s0) hx ?_ (fun kx => ?_)
        | refine Kept.cut2 (s := s0) hx ?_ (fun kx => ?_)
        | (have : Mgmt := x; subst hx)
        | clear hx)
    | split
    | (with_reducible first | apply Kept.upd | apply Kept.updM | apply Kept.updT | apply Kept.updTM) <;> with_reducible first | assumption | apply kept_holdDue | apply kept_mgmtDue | apply kept_commitApply

theorem kept_boundaryDue {s0 : State} (s : State) (hk : Kept s0 s)  : Kept s0 (State.boundaryDue s) := by
  unfold State.boundaryDue
  repeat' first
    | with_reducible assumption
    | with_reducible first
        | apply kept_mgmtDue
    | ((try lift_lets -underBinder); intro x; clear_value (hx : x = _); first
        | refine Kept.cut (s := s0) hx ?_ (fun kx => ?_)
        | refine Kept.cut2 (s := s0) hx ?_ (fun kx => ?_)
        | (have : Mgmt := x; subst hx)
        | clear hx)
    | split
    | (with_reducible first | apply Kept.upd | apply Kept.updM | apply Kept.updT | apply Kept.updTM) <;> with_reducible first | assumption | apply kept_mgmtDue

theorem kept_act {s0 : State} (s : State) (a : MgmtAct) (hk : Kept s0 s)  : Kept s0 (State.act s a) := by
  unfold State.act
  repeat' first
    | with_reducible assumption
    | with_reducible first
        | apply kept_actNow
        | apply kept_queueAct
        | apply kept_commitBoundary
    | ((try lift_lets -underBinder); intro x; clear_value (hx : x = _); first
        | refine Kept.cut (s := s0) hx ?_ (fun kx => ?_)
        | refine Kept.cut2 (s := s0) hx ?_ (fun kx => ?_)
        | (have : Mgmt := x; subst hx)
        | clear hx)
    | split
    | (with_reducible first | apply Kept.upd | apply Kept.updM | apply Kept.updT | apply Kept.updTM) <;> with_reducible first | assumption | apply kept_actNow | apply kept_queueAct | apply kept_commitBoundary

end Sys2Proof.Machine
end

