-- ==== Sys2Proof/Laws/State.lean ====
section
/-! SUPPORT. What each shared update of the state leaves as it was, one lemma for each field, and what it writes. -/
namespace Sys2Proof.Machine

/-! ## setMsg -/

@[simp] theorem State.setMsg_pending (s : State) (n : Nat) (m : Msg) : (s.setMsg n m).pending = s.pending := rfl
@[simp] theorem State.setMsg_freeCtr (s : State) (n : Nat) (m : Msg) : (s.setMsg n m).freeCtr = s.freeCtr := rfl
@[simp] theorem State.setMsg_out (s : State) (n : Nat) (m : Msg) : (s.setMsg n m).out = s.out := rfl
@[simp] theorem State.setMsg_time (s : State) (n : Nat) (m : Msg) : (s.setMsg n m).time = s.time := rfl
@[simp] theorem State.setMsg_regs (s : State) (n : Nat) (m : Msg) : (s.setMsg n m).regs = s.regs := rfl
@[simp] theorem State.setMsg_frames (s : State) (n : Nat) (m : Msg) : (s.setMsg n m).frames = s.frames := rfl
@[simp] theorem State.setMsg_heads (s : State) (n : Nat) (m : Msg) : (s.setMsg n m).heads = s.heads := rfl
@[simp] theorem State.setMsg_starts (s : State) (n : Nat) (m : Msg) : (s.setMsg n m).starts = s.starts := rfl
@[simp] theorem State.setMsg_convs (s : State) (n : Nat) (m : Msg) : (s.setMsg n m).convs = s.convs := rfl
@[simp] theorem State.setMsg_cache (s : State) (n : Nat) (m : Msg) : (s.setMsg n m).cache = s.cache := rfl
@[simp] theorem State.setMsg_replies (s : State) (n : Nat) (m : Msg) : (s.setMsg n m).replies = s.replies := rfl
@[simp] theorem State.setMsg_pairs (s : State) (n : Nat) (m : Msg) : (s.setMsg n m).pairs = s.pairs := rfl
@[simp] theorem State.setMsg_handles (s : State) (n : Nat) (m : Msg) : (s.setMsg n m).handles = s.handles := rfl
@[simp] theorem State.setMsg_cores (s : State) (n : Nat) (m : Msg) : (s.setMsg n m).cores = s.cores := rfl
@[simp] theorem State.setMsg_flights (s : State) (n : Nat) (m : Msg) : (s.setMsg n m).flights = s.flights := rfl
@[simp] theorem State.setMsg_dmas (s : State) (n : Nat) (m : Msg) : (s.setMsg n m).dmas = s.dmas := rfl
@[simp] theorem State.setMsg_fevals (s : State) (n : Nat) (m : Msg) : (s.setMsg n m).fevals = s.fevals := rfl
@[simp] theorem State.setMsg_runs (s : State) (n : Nat) (m : Msg) : (s.setMsg n m).runs = s.runs := rfl
@[simp] theorem State.setMsg_ctxs (s : State) (n : Nat) (m : Msg) : (s.setMsg n m).ctxs = s.ctxs := rfl
@[simp] theorem State.setMsg_boom (s : State) (n : Nat) (m : Msg) : (s.setMsg n m).boom = s.boom := rfl
@[simp] theorem State.setMsg_eports (s : State) (n : Nat) (m : Msg) : (s.setMsg n m).eports = s.eports := rfl
@[simp] theorem State.setMsg_lports (s : State) (n : Nat) (m : Msg) : (s.setMsg n m).lports = s.lports := rfl
@[simp] theorem State.setMsg_quads (s : State) (n : Nat) (m : Msg) : (s.setMsg n m).quads = s.quads := rfl
@[simp] theorem State.setMsg_dies (s : State) (n : Nat) (m : Msg) : (s.setMsg n m).dies = s.dies := rfl
@[simp] theorem State.setMsg_units (s : State) (n : Nat) (m : Msg) : (s.setMsg n m).units = s.units := rfl
@[simp] theorem State.setMsg_twin (s : State) (n : Nat) (m : Msg) : (s.setMsg n m).twin = s.twin := rfl
@[simp] theorem State.setMsg_mgmt (s : State) (n : Nat) (m : Msg) : (s.setMsg n m).mgmt = s.mgmt := rfl
@[simp] theorem State.setMsg_power (s : State) (n : Nat) (m : Msg) : (s.setMsg n m).power = s.power := rfl
@[simp] theorem State.setMsg_find_self (s : State) (n : Nat) (m : Msg) : Tbl.find (s.setMsg n m).msgs n = some m := Tbl.find_put_self ..
theorem State.setMsg_find_ne (s : State) (n : Nat) (m : Msg) (j : Nat) (hj : j ≠ n) : Tbl.find (s.setMsg n m).msgs j = Tbl.find s.msgs j := Tbl.find_put_ne _ _ hj

/-! ## setReply -/

@[simp] theorem State.setReply_pending (s : State) (n : Nat) (r : Reply) : (s.setReply n r).pending = s.pending := rfl
@[simp] theorem State.setReply_freeCtr (s : State) (n : Nat) (r : Reply) : (s.setReply n r).freeCtr = s.freeCtr := rfl
@[simp] theorem State.setReply_out (s : State) (n : Nat) (r : Reply) : (s.setReply n r).out = s.out := rfl
@[simp] theorem State.setReply_time (s : State) (n : Nat) (r : Reply) : (s.setReply n r).time = s.time := rfl
@[simp] theorem State.setReply_regs (s : State) (n : Nat) (r : Reply) : (s.setReply n r).regs = s.regs := rfl
@[simp] theorem State.setReply_frames (s : State) (n : Nat) (r : Reply) : (s.setReply n r).frames = s.frames := rfl
@[simp] theorem State.setReply_heads (s : State) (n : Nat) (r : Reply) : (s.setReply n r).heads = s.heads := rfl
@[simp] theorem State.setReply_starts (s : State) (n : Nat) (r : Reply) : (s.setReply n r).starts = s.starts := rfl
@[simp] theorem State.setReply_msgs (s : State) (n : Nat) (r : Reply) : (s.setReply n r).msgs = s.msgs := rfl
@[simp] theorem State.setReply_convs (s : State) (n : Nat) (r : Reply) : (s.setReply n r).convs = s.convs := rfl
@[simp] theorem State.setReply_cache (s : State) (n : Nat) (r : Reply) : (s.setReply n r).cache = s.cache := rfl
@[simp] theorem State.setReply_pairs (s : State) (n : Nat) (r : Reply) : (s.setReply n r).pairs = s.pairs := rfl
@[simp] theorem State.setReply_handles (s : State) (n : Nat) (r : Reply) : (s.setReply n r).handles = s.handles := rfl
@[simp] theorem State.setReply_cores (s : State) (n : Nat) (r : Reply) : (s.setReply n r).cores = s.cores := rfl
@[simp] theorem State.setReply_flights (s : State) (n : Nat) (r : Reply) : (s.setReply n r).flights = s.flights := rfl
@[simp] theorem State.setReply_dmas (s : State) (n : Nat) (r : Reply) : (s.setReply n r).dmas = s.dmas := rfl
@[simp] theorem State.setReply_fevals (s : State) (n : Nat) (r : Reply) : (s.setReply n r).fevals = s.fevals := rfl
@[simp] theorem State.setReply_runs (s : State) (n : Nat) (r : Reply) : (s.setReply n r).runs = s.runs := rfl
@[simp] theorem State.setReply_ctxs (s : State) (n : Nat) (r : Reply) : (s.setReply n r).ctxs = s.ctxs := rfl
@[simp] theorem State.setReply_boom (s : State) (n : Nat) (r : Reply) : (s.setReply n r).boom = s.boom := rfl
@[simp] theorem State.setReply_eports (s : State) (n : Nat) (r : Reply) : (s.setReply n r).eports = s.eports := rfl
@[simp] theorem State.setReply_lports (s : State) (n : Nat) (r : Reply) : (s.setReply n r).lports = s.lports := rfl
@[simp] theorem State.setReply_quads (s : State) (n : Nat) (r : Reply) : (s.setReply n r).quads = s.quads := rfl
@[simp] theorem State.setReply_dies (s : State) (n : Nat) (r : Reply) : (s.setReply n r).dies = s.dies := rfl
@[simp] theorem State.setReply_units (s : State) (n : Nat) (r : Reply) : (s.setReply n r).units = s.units := rfl
@[simp] theorem State.setReply_twin (s : State) (n : Nat) (r : Reply) : (s.setReply n r).twin = s.twin := rfl
@[simp] theorem State.setReply_mgmt (s : State) (n : Nat) (r : Reply) : (s.setReply n r).mgmt = s.mgmt := rfl
@[simp] theorem State.setReply_power (s : State) (n : Nat) (r : Reply) : (s.setReply n r).power = s.power := rfl
@[simp] theorem State.setReply_find_self (s : State) (n : Nat) (r : Reply) : Tbl.find (s.setReply n r).replies n = some r := Tbl.find_put_self ..
theorem State.setReply_find_ne (s : State) (n : Nat) (r : Reply) (j : Nat) (hj : j ≠ n) : Tbl.find (s.setReply n r).replies j = Tbl.find s.replies j := Tbl.find_put_ne _ _ hj

/-! ## setConv -/

@[simp] theorem State.setConv_pending (s : State) (c : Nat) (x : Conv) : (s.setConv c x).pending = s.pending := rfl
@[simp] theorem State.setConv_freeCtr (s : State) (c : Nat) (x : Conv) : (s.setConv c x).freeCtr = s.freeCtr := rfl
@[simp] theorem State.setConv_out (s : State) (c : Nat) (x : Conv) : (s.setConv c x).out = s.out := rfl
@[simp] theorem State.setConv_time (s : State) (c : Nat) (x : Conv) : (s.setConv c x).time = s.time := rfl
@[simp] theorem State.setConv_regs (s : State) (c : Nat) (x : Conv) : (s.setConv c x).regs = s.regs := rfl
@[simp] theorem State.setConv_frames (s : State) (c : Nat) (x : Conv) : (s.setConv c x).frames = s.frames := rfl
@[simp] theorem State.setConv_heads (s : State) (c : Nat) (x : Conv) : (s.setConv c x).heads = s.heads := rfl
@[simp] theorem State.setConv_starts (s : State) (c : Nat) (x : Conv) : (s.setConv c x).starts = s.starts := rfl
@[simp] theorem State.setConv_msgs (s : State) (c : Nat) (x : Conv) : (s.setConv c x).msgs = s.msgs := rfl
@[simp] theorem State.setConv_cache (s : State) (c : Nat) (x : Conv) : (s.setConv c x).cache = s.cache := rfl
@[simp] theorem State.setConv_replies (s : State) (c : Nat) (x : Conv) : (s.setConv c x).replies = s.replies := rfl
@[simp] theorem State.setConv_pairs (s : State) (c : Nat) (x : Conv) : (s.setConv c x).pairs = s.pairs := rfl
@[simp] theorem State.setConv_handles (s : State) (c : Nat) (x : Conv) : (s.setConv c x).handles = s.handles := rfl
@[simp] theorem State.setConv_cores (s : State) (c : Nat) (x : Conv) : (s.setConv c x).cores = s.cores := rfl
@[simp] theorem State.setConv_flights (s : State) (c : Nat) (x : Conv) : (s.setConv c x).flights = s.flights := rfl
@[simp] theorem State.setConv_dmas (s : State) (c : Nat) (x : Conv) : (s.setConv c x).dmas = s.dmas := rfl
@[simp] theorem State.setConv_fevals (s : State) (c : Nat) (x : Conv) : (s.setConv c x).fevals = s.fevals := rfl
@[simp] theorem State.setConv_runs (s : State) (c : Nat) (x : Conv) : (s.setConv c x).runs = s.runs := rfl
@[simp] theorem State.setConv_ctxs (s : State) (c : Nat) (x : Conv) : (s.setConv c x).ctxs = s.ctxs := rfl
@[simp] theorem State.setConv_boom (s : State) (c : Nat) (x : Conv) : (s.setConv c x).boom = s.boom := rfl
@[simp] theorem State.setConv_eports (s : State) (c : Nat) (x : Conv) : (s.setConv c x).eports = s.eports := rfl
@[simp] theorem State.setConv_lports (s : State) (c : Nat) (x : Conv) : (s.setConv c x).lports = s.lports := rfl
@[simp] theorem State.setConv_quads (s : State) (c : Nat) (x : Conv) : (s.setConv c x).quads = s.quads := rfl
@[simp] theorem State.setConv_dies (s : State) (c : Nat) (x : Conv) : (s.setConv c x).dies = s.dies := rfl
@[simp] theorem State.setConv_units (s : State) (c : Nat) (x : Conv) : (s.setConv c x).units = s.units := rfl
@[simp] theorem State.setConv_twin (s : State) (c : Nat) (x : Conv) : (s.setConv c x).twin = s.twin := rfl
@[simp] theorem State.setConv_mgmt (s : State) (c : Nat) (x : Conv) : (s.setConv c x).mgmt = s.mgmt := rfl
@[simp] theorem State.setConv_power (s : State) (c : Nat) (x : Conv) : (s.setConv c x).power = s.power := rfl
@[simp] theorem State.setConv_conv_self (s : State) (c : Nat) (x : Conv) : (s.setConv c x).conv c = x := Tbl.getD_put_self ..
theorem State.setConv_conv_ne (s : State) (c : Nat) (x : Conv) (j : Nat) (hj : j ≠ c) : (s.setConv c x).conv j = s.conv j := Tbl.getD_put_ne _ _ _ hj

/-! ## setCache -/

@[simp] theorem State.setCache_pending (s : State) (c : Nat) (x : Tbl Cached) : (s.setCache c x).pending = s.pending := rfl
@[simp] theorem State.setCache_freeCtr (s : State) (c : Nat) (x : Tbl Cached) : (s.setCache c x).freeCtr = s.freeCtr := rfl
@[simp] theorem State.setCache_out (s : State) (c : Nat) (x : Tbl Cached) : (s.setCache c x).out = s.out := rfl
@[simp] theorem State.setCache_time (s : State) (c : Nat) (x : Tbl Cached) : (s.setCache c x).time = s.time := rfl
@[simp] theorem State.setCache_regs (s : State) (c : Nat) (x : Tbl Cached) : (s.setCache c x).regs = s.regs := rfl
@[simp] theorem State.setCache_frames (s : State) (c : Nat) (x : Tbl Cached) : (s.setCache c x).frames = s.frames := rfl
@[simp] theorem State.setCache_heads (s : State) (c : Nat) (x : Tbl Cached) : (s.setCache c x).heads = s.heads := rfl
@[simp] theorem State.setCache_starts (s : State) (c : Nat) (x : Tbl Cached) : (s.setCache c x).starts = s.starts := rfl
@[simp] theorem State.setCache_msgs (s : State) (c : Nat) (x : Tbl Cached) : (s.setCache c x).msgs = s.msgs := rfl
@[simp] theorem State.setCache_convs (s : State) (c : Nat) (x : Tbl Cached) : (s.setCache c x).convs = s.convs := rfl
@[simp] theorem State.setCache_replies (s : State) (c : Nat) (x : Tbl Cached) : (s.setCache c x).replies = s.replies := rfl
@[simp] theorem State.setCache_pairs (s : State) (c : Nat) (x : Tbl Cached) : (s.setCache c x).pairs = s.pairs := rfl
@[simp] theorem State.setCache_handles (s : State) (c : Nat) (x : Tbl Cached) : (s.setCache c x).handles = s.handles := rfl
@[simp] theorem State.setCache_cores (s : State) (c : Nat) (x : Tbl Cached) : (s.setCache c x).cores = s.cores := rfl
@[simp] theorem State.setCache_flights (s : State) (c : Nat) (x : Tbl Cached) : (s.setCache c x).flights = s.flights := rfl
@[simp] theorem State.setCache_dmas (s : State) (c : Nat) (x : Tbl Cached) : (s.setCache c x).dmas = s.dmas := rfl
@[simp] theorem State.setCache_fevals (s : State) (c : Nat) (x : Tbl Cached) : (s.setCache c x).fevals = s.fevals := rfl
@[simp] theorem State.setCache_runs (s : State) (c : Nat) (x : Tbl Cached) : (s.setCache c x).runs = s.runs := rfl
@[simp] theorem State.setCache_ctxs (s : State) (c : Nat) (x : Tbl Cached) : (s.setCache c x).ctxs = s.ctxs := rfl
@[simp] theorem State.setCache_boom (s : State) (c : Nat) (x : Tbl Cached) : (s.setCache c x).boom = s.boom := rfl
@[simp] theorem State.setCache_eports (s : State) (c : Nat) (x : Tbl Cached) : (s.setCache c x).eports = s.eports := rfl
@[simp] theorem State.setCache_lports (s : State) (c : Nat) (x : Tbl Cached) : (s.setCache c x).lports = s.lports := rfl
@[simp] theorem State.setCache_quads (s : State) (c : Nat) (x : Tbl Cached) : (s.setCache c x).quads = s.quads := rfl
@[simp] theorem State.setCache_dies (s : State) (c : Nat) (x : Tbl Cached) : (s.setCache c x).dies = s.dies := rfl
@[simp] theorem State.setCache_units (s : State) (c : Nat) (x : Tbl Cached) : (s.setCache c x).units = s.units := rfl
@[simp] theorem State.setCache_twin (s : State) (c : Nat) (x : Tbl Cached) : (s.setCache c x).twin = s.twin := rfl
@[simp] theorem State.setCache_mgmt (s : State) (c : Nat) (x : Tbl Cached) : (s.setCache c x).mgmt = s.mgmt := rfl
@[simp] theorem State.setCache_power (s : State) (c : Nat) (x : Tbl Cached) : (s.setCache c x).power = s.power := rfl

/-! ## setHandle -/

@[simp] theorem State.setHandle_pending (s : State) (h : Nat) (x : Handle) : (s.setHandle h x).pending = s.pending := rfl
@[simp] theorem State.setHandle_freeCtr (s : State) (h : Nat) (x : Handle) : (s.setHandle h x).freeCtr = s.freeCtr := rfl
@[simp] theorem State.setHandle_out (s : State) (h : Nat) (x : Handle) : (s.setHandle h x).out = s.out := rfl
@[simp] theorem State.setHandle_time (s : State) (h : Nat) (x : Handle) : (s.setHandle h x).time = s.time := rfl
@[simp] theorem State.setHandle_regs (s : State) (h : Nat) (x : Handle) : (s.setHandle h x).regs = s.regs := rfl
@[simp] theorem State.setHandle_frames (s : State) (h : Nat) (x : Handle) : (s.setHandle h x).frames = s.frames := rfl
@[simp] theorem State.setHandle_heads (s : State) (h : Nat) (x : Handle) : (s.setHandle h x).heads = s.heads := rfl
@[simp] theorem State.setHandle_starts (s : State) (h : Nat) (x : Handle) : (s.setHandle h x).starts = s.starts := rfl
@[simp] theorem State.setHandle_msgs (s : State) (h : Nat) (x : Handle) : (s.setHandle h x).msgs = s.msgs := rfl
@[simp] theorem State.setHandle_convs (s : State) (h : Nat) (x : Handle) : (s.setHandle h x).convs = s.convs := rfl
@[simp] theorem State.setHandle_cache (s : State) (h : Nat) (x : Handle) : (s.setHandle h x).cache = s.cache := rfl
@[simp] theorem State.setHandle_replies (s : State) (h : Nat) (x : Handle) : (s.setHandle h x).replies = s.replies := rfl
@[simp] theorem State.setHandle_pairs (s : State) (h : Nat) (x : Handle) : (s.setHandle h x).pairs = s.pairs := rfl
@[simp] theorem State.setHandle_cores (s : State) (h : Nat) (x : Handle) : (s.setHandle h x).cores = s.cores := rfl
@[simp] theorem State.setHandle_flights (s : State) (h : Nat) (x : Handle) : (s.setHandle h x).flights = s.flights := rfl
@[simp] theorem State.setHandle_dmas (s : State) (h : Nat) (x : Handle) : (s.setHandle h x).dmas = s.dmas := rfl
@[simp] theorem State.setHandle_fevals (s : State) (h : Nat) (x : Handle) : (s.setHandle h x).fevals = s.fevals := rfl
@[simp] theorem State.setHandle_runs (s : State) (h : Nat) (x : Handle) : (s.setHandle h x).runs = s.runs := rfl
@[simp] theorem State.setHandle_ctxs (s : State) (h : Nat) (x : Handle) : (s.setHandle h x).ctxs = s.ctxs := rfl
@[simp] theorem State.setHandle_boom (s : State) (h : Nat) (x : Handle) : (s.setHandle h x).boom = s.boom := rfl
@[simp] theorem State.setHandle_eports (s : State) (h : Nat) (x : Handle) : (s.setHandle h x).eports = s.eports := rfl
@[simp] theorem State.setHandle_lports (s : State) (h : Nat) (x : Handle) : (s.setHandle h x).lports = s.lports := rfl
@[simp] theorem State.setHandle_quads (s : State) (h : Nat) (x : Handle) : (s.setHandle h x).quads = s.quads := rfl
@[simp] theorem State.setHandle_dies (s : State) (h : Nat) (x : Handle) : (s.setHandle h x).dies = s.dies := rfl
@[simp] theorem State.setHandle_units (s : State) (h : Nat) (x : Handle) : (s.setHandle h x).units = s.units := rfl
@[simp] theorem State.setHandle_twin (s : State) (h : Nat) (x : Handle) : (s.setHandle h x).twin = s.twin := rfl
@[simp] theorem State.setHandle_mgmt (s : State) (h : Nat) (x : Handle) : (s.setHandle h x).mgmt = s.mgmt := rfl
@[simp] theorem State.setHandle_power (s : State) (h : Nat) (x : Handle) : (s.setHandle h x).power = s.power := rfl
@[simp] theorem State.setHandle_handle_self (s : State) (h : Nat) (x : Handle) : (s.setHandle h x).handle h = x := Tbl.getD_put_self ..
theorem State.setHandle_handle_ne (s : State) (h : Nat) (x : Handle) (j : Nat) (hj : j ≠ h) : (s.setHandle h x).handle j = s.handle j := Tbl.getD_put_ne _ _ _ hj

/-! ## setCore -/

@[simp] theorem State.setCore_pending (s : State) (p : Nat) (c : Core) : (s.setCore p c).pending = s.pending := rfl
@[simp] theorem State.setCore_freeCtr (s : State) (p : Nat) (c : Core) : (s.setCore p c).freeCtr = s.freeCtr := rfl
@[simp] theorem State.setCore_out (s : State) (p : Nat) (c : Core) : (s.setCore p c).out = s.out := rfl
@[simp] theorem State.setCore_time (s : State) (p : Nat) (c : Core) : (s.setCore p c).time = s.time := rfl
@[simp] theorem State.setCore_regs (s : State) (p : Nat) (c : Core) : (s.setCore p c).regs = s.regs := rfl
@[simp] theorem State.setCore_frames (s : State) (p : Nat) (c : Core) : (s.setCore p c).frames = s.frames := rfl
@[simp] theorem State.setCore_heads (s : State) (p : Nat) (c : Core) : (s.setCore p c).heads = s.heads := rfl
@[simp] theorem State.setCore_starts (s : State) (p : Nat) (c : Core) : (s.setCore p c).starts = s.starts := rfl
@[simp] theorem State.setCore_msgs (s : State) (p : Nat) (c : Core) : (s.setCore p c).msgs = s.msgs := rfl
@[simp] theorem State.setCore_convs (s : State) (p : Nat) (c : Core) : (s.setCore p c).convs = s.convs := rfl
@[simp] theorem State.setCore_cache (s : State) (p : Nat) (c : Core) : (s.setCore p c).cache = s.cache := rfl
@[simp] theorem State.setCore_replies (s : State) (p : Nat) (c : Core) : (s.setCore p c).replies = s.replies := rfl
@[simp] theorem State.setCore_pairs (s : State) (p : Nat) (c : Core) : (s.setCore p c).pairs = s.pairs := rfl
@[simp] theorem State.setCore_handles (s : State) (p : Nat) (c : Core) : (s.setCore p c).handles = s.handles := rfl
@[simp] theorem State.setCore_flights (s : State) (p : Nat) (c : Core) : (s.setCore p c).flights = s.flights := rfl
@[simp] theorem State.setCore_dmas (s : State) (p : Nat) (c : Core) : (s.setCore p c).dmas = s.dmas := rfl
@[simp] theorem State.setCore_fevals (s : State) (p : Nat) (c : Core) : (s.setCore p c).fevals = s.fevals := rfl
@[simp] theorem State.setCore_runs (s : State) (p : Nat) (c : Core) : (s.setCore p c).runs = s.runs := rfl
@[simp] theorem State.setCore_ctxs (s : State) (p : Nat) (c : Core) : (s.setCore p c).ctxs = s.ctxs := rfl
@[simp] theorem State.setCore_boom (s : State) (p : Nat) (c : Core) : (s.setCore p c).boom = s.boom := rfl
@[simp] theorem State.setCore_eports (s : State) (p : Nat) (c : Core) : (s.setCore p c).eports = s.eports := rfl
@[simp] theorem State.setCore_lports (s : State) (p : Nat) (c : Core) : (s.setCore p c).lports = s.lports := rfl
@[simp] theorem State.setCore_quads (s : State) (p : Nat) (c : Core) : (s.setCore p c).quads = s.quads := rfl
@[simp] theorem State.setCore_dies (s : State) (p : Nat) (c : Core) : (s.setCore p c).dies = s.dies := rfl
@[simp] theorem State.setCore_units (s : State) (p : Nat) (c : Core) : (s.setCore p c).units = s.units := rfl
@[simp] theorem State.setCore_twin (s : State) (p : Nat) (c : Core) : (s.setCore p c).twin = s.twin := rfl
@[simp] theorem State.setCore_mgmt (s : State) (p : Nat) (c : Core) : (s.setCore p c).mgmt = s.mgmt := rfl
@[simp] theorem State.setCore_power (s : State) (p : Nat) (c : Core) : (s.setCore p c).power = s.power := rfl
@[simp] theorem State.setCore_core_self (s : State) (p : Nat) (c : Core) : (s.setCore p c).core p = c := Tbl.getD_put_self ..
theorem State.setCore_core_ne (s : State) (p : Nat) (c : Core) (j : Nat) (hj : j ≠ p) : (s.setCore p c).core j = s.core j := Tbl.getD_put_ne _ _ _ hj

/-! ## setRun -/

@[simp] theorem State.setRun_pending (s : State) (n : Nat) (r : ArrayRun) : (s.setRun n r).pending = s.pending := rfl
@[simp] theorem State.setRun_freeCtr (s : State) (n : Nat) (r : ArrayRun) : (s.setRun n r).freeCtr = s.freeCtr := rfl
@[simp] theorem State.setRun_out (s : State) (n : Nat) (r : ArrayRun) : (s.setRun n r).out = s.out := rfl
@[simp] theorem State.setRun_time (s : State) (n : Nat) (r : ArrayRun) : (s.setRun n r).time = s.time := rfl
@[simp] theorem State.setRun_regs (s : State) (n : Nat) (r : ArrayRun) : (s.setRun n r).regs = s.regs := rfl
@[simp] theorem State.setRun_frames (s : State) (n : Nat) (r : ArrayRun) : (s.setRun n r).frames = s.frames := rfl
@[simp] theorem State.setRun_heads (s : State) (n : Nat) (r : ArrayRun) : (s.setRun n r).heads = s.heads := rfl
@[simp] theorem State.setRun_starts (s : State) (n : Nat) (r : ArrayRun) : (s.setRun n r).starts = s.starts := rfl
@[simp] theorem State.setRun_msgs (s : State) (n : Nat) (r : ArrayRun) : (s.setRun n r).msgs = s.msgs := rfl
@[simp] theorem State.setRun_convs (s : State) (n : Nat) (r : ArrayRun) : (s.setRun n r).convs = s.convs := rfl
@[simp] theorem State.setRun_cache (s : State) (n : Nat) (r : ArrayRun) : (s.setRun n r).cache = s.cache := rfl
@[simp] theorem State.setRun_replies (s : State) (n : Nat) (r : ArrayRun) : (s.setRun n r).replies = s.replies := rfl
@[simp] theorem State.setRun_pairs (s : State) (n : Nat) (r : ArrayRun) : (s.setRun n r).pairs = s.pairs := rfl
@[simp] theorem State.setRun_handles (s : State) (n : Nat) (r : ArrayRun) : (s.setRun n r).handles = s.handles := rfl
@[simp] theorem State.setRun_cores (s : State) (n : Nat) (r : ArrayRun) : (s.setRun n r).cores = s.cores := rfl
@[simp] theorem State.setRun_flights (s : State) (n : Nat) (r : ArrayRun) : (s.setRun n r).flights = s.flights := rfl
@[simp] theorem State.setRun_dmas (s : State) (n : Nat) (r : ArrayRun) : (s.setRun n r).dmas = s.dmas := rfl
@[simp] theorem State.setRun_fevals (s : State) (n : Nat) (r : ArrayRun) : (s.setRun n r).fevals = s.fevals := rfl
@[simp] theorem State.setRun_ctxs (s : State) (n : Nat) (r : ArrayRun) : (s.setRun n r).ctxs = s.ctxs := rfl
@[simp] theorem State.setRun_boom (s : State) (n : Nat) (r : ArrayRun) : (s.setRun n r).boom = s.boom := rfl
@[simp] theorem State.setRun_eports (s : State) (n : Nat) (r : ArrayRun) : (s.setRun n r).eports = s.eports := rfl
@[simp] theorem State.setRun_lports (s : State) (n : Nat) (r : ArrayRun) : (s.setRun n r).lports = s.lports := rfl
@[simp] theorem State.setRun_quads (s : State) (n : Nat) (r : ArrayRun) : (s.setRun n r).quads = s.quads := rfl
@[simp] theorem State.setRun_dies (s : State) (n : Nat) (r : ArrayRun) : (s.setRun n r).dies = s.dies := rfl
@[simp] theorem State.setRun_units (s : State) (n : Nat) (r : ArrayRun) : (s.setRun n r).units = s.units := rfl
@[simp] theorem State.setRun_twin (s : State) (n : Nat) (r : ArrayRun) : (s.setRun n r).twin = s.twin := rfl
@[simp] theorem State.setRun_mgmt (s : State) (n : Nat) (r : ArrayRun) : (s.setRun n r).mgmt = s.mgmt := rfl
@[simp] theorem State.setRun_power (s : State) (n : Nat) (r : ArrayRun) : (s.setRun n r).power = s.power := rfl
@[simp] theorem State.setRun_find_self (s : State) (n : Nat) (r : ArrayRun) : Tbl.find (s.setRun n r).runs n = some r := Tbl.find_put_self ..
theorem State.setRun_find_ne (s : State) (n : Nat) (r : ArrayRun) (j : Nat) (hj : j ≠ n) : Tbl.find (s.setRun n r).runs j = Tbl.find s.runs j := Tbl.find_put_ne _ _ hj

/-! ## setCtx -/

@[simp] theorem State.setCtx_pending (s : State) (k : Nat) (x : Ctx) : (s.setCtx k x).pending = s.pending := rfl
@[simp] theorem State.setCtx_freeCtr (s : State) (k : Nat) (x : Ctx) : (s.setCtx k x).freeCtr = s.freeCtr := rfl
@[simp] theorem State.setCtx_out (s : State) (k : Nat) (x : Ctx) : (s.setCtx k x).out = s.out := rfl
@[simp] theorem State.setCtx_time (s : State) (k : Nat) (x : Ctx) : (s.setCtx k x).time = s.time := rfl
@[simp] theorem State.setCtx_regs (s : State) (k : Nat) (x : Ctx) : (s.setCtx k x).regs = s.regs := rfl
@[simp] theorem State.setCtx_frames (s : State) (k : Nat) (x : Ctx) : (s.setCtx k x).frames = s.frames := rfl
@[simp] theorem State.setCtx_heads (s : State) (k : Nat) (x : Ctx) : (s.setCtx k x).heads = s.heads := rfl
@[simp] theorem State.setCtx_starts (s : State) (k : Nat) (x : Ctx) : (s.setCtx k x).starts = s.starts := rfl
@[simp] theorem State.setCtx_msgs (s : State) (k : Nat) (x : Ctx) : (s.setCtx k x).msgs = s.msgs := rfl
@[simp] theorem State.setCtx_convs (s : State) (k : Nat) (x : Ctx) : (s.setCtx k x).convs = s.convs := rfl
@[simp] theorem State.setCtx_cache (s : State) (k : Nat) (x : Ctx) : (s.setCtx k x).cache = s.cache := rfl
@[simp] theorem State.setCtx_replies (s : State) (k : Nat) (x : Ctx) : (s.setCtx k x).replies = s.replies := rfl
@[simp] theorem State.setCtx_pairs (s : State) (k : Nat) (x : Ctx) : (s.setCtx k x).pairs = s.pairs := rfl
@[simp] theorem State.setCtx_handles (s : State) (k : Nat) (x : Ctx) : (s.setCtx k x).handles = s.handles := rfl
@[simp] theorem State.setCtx_cores (s : State) (k : Nat) (x : Ctx) : (s.setCtx k x).cores = s.cores := rfl
@[simp] theorem State.setCtx_flights (s : State) (k : Nat) (x : Ctx) : (s.setCtx k x).flights = s.flights := rfl
@[simp] theorem State.setCtx_dmas (s : State) (k : Nat) (x : Ctx) : (s.setCtx k x).dmas = s.dmas := rfl
@[simp] theorem State.setCtx_fevals (s : State) (k : Nat) (x : Ctx) : (s.setCtx k x).fevals = s.fevals := rfl
@[simp] theorem State.setCtx_runs (s : State) (k : Nat) (x : Ctx) : (s.setCtx k x).runs = s.runs := rfl
@[simp] theorem State.setCtx_boom (s : State) (k : Nat) (x : Ctx) : (s.setCtx k x).boom = s.boom := rfl
@[simp] theorem State.setCtx_eports (s : State) (k : Nat) (x : Ctx) : (s.setCtx k x).eports = s.eports := rfl
@[simp] theorem State.setCtx_lports (s : State) (k : Nat) (x : Ctx) : (s.setCtx k x).lports = s.lports := rfl
@[simp] theorem State.setCtx_quads (s : State) (k : Nat) (x : Ctx) : (s.setCtx k x).quads = s.quads := rfl
@[simp] theorem State.setCtx_dies (s : State) (k : Nat) (x : Ctx) : (s.setCtx k x).dies = s.dies := rfl
@[simp] theorem State.setCtx_units (s : State) (k : Nat) (x : Ctx) : (s.setCtx k x).units = s.units := rfl
@[simp] theorem State.setCtx_twin (s : State) (k : Nat) (x : Ctx) : (s.setCtx k x).twin = s.twin := rfl
@[simp] theorem State.setCtx_mgmt (s : State) (k : Nat) (x : Ctx) : (s.setCtx k x).mgmt = s.mgmt := rfl
@[simp] theorem State.setCtx_power (s : State) (k : Nat) (x : Ctx) : (s.setCtx k x).power = s.power := rfl
@[simp] theorem State.setCtx_find_self (s : State) (k : Nat) (x : Ctx) : Tbl.find (s.setCtx k x).ctxs k = some x := Tbl.find_put_self ..
theorem State.setCtx_find_ne (s : State) (k : Nat) (x : Ctx) (j : Nat) (hj : j ≠ k) : Tbl.find (s.setCtx k x).ctxs j = Tbl.find s.ctxs j := Tbl.find_put_ne _ _ hj

/-! ## setEp -/

@[simp] theorem State.setEp_pending (s : State) (e : Nat) (p : EPort) : (s.setEp e p).pending = s.pending := rfl
@[simp] theorem State.setEp_freeCtr (s : State) (e : Nat) (p : EPort) : (s.setEp e p).freeCtr = s.freeCtr := rfl
@[simp] theorem State.setEp_out (s : State) (e : Nat) (p : EPort) : (s.setEp e p).out = s.out := rfl
@[simp] theorem State.setEp_time (s : State) (e : Nat) (p : EPort) : (s.setEp e p).time = s.time := rfl
@[simp] theorem State.setEp_regs (s : State) (e : Nat) (p : EPort) : (s.setEp e p).regs = s.regs := rfl
@[simp] theorem State.setEp_frames (s : State) (e : Nat) (p : EPort) : (s.setEp e p).frames = s.frames := rfl
@[simp] theorem State.setEp_heads (s : State) (e : Nat) (p : EPort) : (s.setEp e p).heads = s.heads := rfl
@[simp] theorem State.setEp_starts (s : State) (e : Nat) (p : EPort) : (s.setEp e p).starts = s.starts := rfl
@[simp] theorem State.setEp_msgs (s : State) (e : Nat) (p : EPort) : (s.setEp e p).msgs = s.msgs := rfl
@[simp] theorem State.setEp_convs (s : State) (e : Nat) (p : EPort) : (s.setEp e p).convs = s.convs := rfl
@[simp] theorem State.setEp_cache (s : State) (e : Nat) (p : EPort) : (s.setEp e p).cache = s.cache := rfl
@[simp] theorem State.setEp_replies (s : State) (e : Nat) (p : EPort) : (s.setEp e p).replies = s.replies := rfl
@[simp] theorem State.setEp_pairs (s : State) (e : Nat) (p : EPort) : (s.setEp e p).pairs = s.pairs := rfl
@[simp] theorem State.setEp_handles (s : State) (e : Nat) (p : EPort) : (s.setEp e p).handles = s.handles := rfl
@[simp] theorem State.setEp_cores (s : State) (e : Nat) (p : EPort) : (s.setEp e p).cores = s.cores := rfl
@[simp] theorem State.setEp_flights (s : State) (e : Nat) (p : EPort) : (s.setEp e p).flights = s.flights := rfl
@[simp] theorem State.setEp_dmas (s : State) (e : Nat) (p : EPort) : (s.setEp e p).dmas = s.dmas := rfl
@[simp] theorem State.setEp_fevals (s : State) (e : Nat) (p : EPort) : (s.setEp e p).fevals = s.fevals := rfl
@[simp] theorem State.setEp_runs (s : State) (e : Nat) (p : EPort) : (s.setEp e p).runs = s.runs := rfl
@[simp] theorem State.setEp_ctxs (s : State) (e : Nat) (p : EPort) : (s.setEp e p).ctxs = s.ctxs := rfl
@[simp] theorem State.setEp_boom (s : State) (e : Nat) (p : EPort) : (s.setEp e p).boom = s.boom := rfl
@[simp] theorem State.setEp_lports (s : State) (e : Nat) (p : EPort) : (s.setEp e p).lports = s.lports := rfl
@[simp] theorem State.setEp_quads (s : State) (e : Nat) (p : EPort) : (s.setEp e p).quads = s.quads := rfl
@[simp] theorem State.setEp_dies (s : State) (e : Nat) (p : EPort) : (s.setEp e p).dies = s.dies := rfl
@[simp] theorem State.setEp_units (s : State) (e : Nat) (p : EPort) : (s.setEp e p).units = s.units := rfl
@[simp] theorem State.setEp_twin (s : State) (e : Nat) (p : EPort) : (s.setEp e p).twin = s.twin := rfl
@[simp] theorem State.setEp_mgmt (s : State) (e : Nat) (p : EPort) : (s.setEp e p).mgmt = s.mgmt := rfl
@[simp] theorem State.setEp_power (s : State) (e : Nat) (p : EPort) : (s.setEp e p).power = s.power := rfl
@[simp] theorem State.setEp_ep_self (s : State) (e : Nat) (p : EPort) : (s.setEp e p).ep e = p := Tbl.getD_put_self ..
theorem State.setEp_ep_ne (s : State) (e : Nat) (p : EPort) (j : Nat) (hj : j ≠ e) : (s.setEp e p).ep j = s.ep j := Tbl.getD_put_ne _ _ _ hj

/-! ## setLp -/

@[simp] theorem State.setLp_pending (s : State) (l : Nat) (p : LPort) : (s.setLp l p).pending = s.pending := rfl
@[simp] theorem State.setLp_freeCtr (s : State) (l : Nat) (p : LPort) : (s.setLp l p).freeCtr = s.freeCtr := rfl
@[simp] theorem State.setLp_out (s : State) (l : Nat) (p : LPort) : (s.setLp l p).out = s.out := rfl
@[simp] theorem State.setLp_time (s : State) (l : Nat) (p : LPort) : (s.setLp l p).time = s.time := rfl
@[simp] theorem State.setLp_regs (s : State) (l : Nat) (p : LPort) : (s.setLp l p).regs = s.regs := rfl
@[simp] theorem State.setLp_frames (s : State) (l : Nat) (p : LPort) : (s.setLp l p).frames = s.frames := rfl
@[simp] theorem State.setLp_heads (s : State) (l : Nat) (p : LPort) : (s.setLp l p).heads = s.heads := rfl
@[simp] theorem State.setLp_starts (s : State) (l : Nat) (p : LPort) : (s.setLp l p).starts = s.starts := rfl
@[simp] theorem State.setLp_msgs (s : State) (l : Nat) (p : LPort) : (s.setLp l p).msgs = s.msgs := rfl
@[simp] theorem State.setLp_convs (s : State) (l : Nat) (p : LPort) : (s.setLp l p).convs = s.convs := rfl
@[simp] theorem State.setLp_cache (s : State) (l : Nat) (p : LPort) : (s.setLp l p).cache = s.cache := rfl
@[simp] theorem State.setLp_replies (s : State) (l : Nat) (p : LPort) : (s.setLp l p).replies = s.replies := rfl
@[simp] theorem State.setLp_pairs (s : State) (l : Nat) (p : LPort) : (s.setLp l p).pairs = s.pairs := rfl
@[simp] theorem State.setLp_handles (s : State) (l : Nat) (p : LPort) : (s.setLp l p).handles = s.handles := rfl
@[simp] theorem State.setLp_cores (s : State) (l : Nat) (p : LPort) : (s.setLp l p).cores = s.cores := rfl
@[simp] theorem State.setLp_flights (s : State) (l : Nat) (p : LPort) : (s.setLp l p).flights = s.flights := rfl
@[simp] theorem State.setLp_dmas (s : State) (l : Nat) (p : LPort) : (s.setLp l p).dmas = s.dmas := rfl
@[simp] theorem State.setLp_fevals (s : State) (l : Nat) (p : LPort) : (s.setLp l p).fevals = s.fevals := rfl
@[simp] theorem State.setLp_runs (s : State) (l : Nat) (p : LPort) : (s.setLp l p).runs = s.runs := rfl
@[simp] theorem State.setLp_ctxs (s : State) (l : Nat) (p : LPort) : (s.setLp l p).ctxs = s.ctxs := rfl
@[simp] theorem State.setLp_boom (s : State) (l : Nat) (p : LPort) : (s.setLp l p).boom = s.boom := rfl
@[simp] theorem State.setLp_eports (s : State) (l : Nat) (p : LPort) : (s.setLp l p).eports = s.eports := rfl
@[simp] theorem State.setLp_quads (s : State) (l : Nat) (p : LPort) : (s.setLp l p).quads = s.quads := rfl
@[simp] theorem State.setLp_dies (s : State) (l : Nat) (p : LPort) : (s.setLp l p).dies = s.dies := rfl
@[simp] theorem State.setLp_units (s : State) (l : Nat) (p : LPort) : (s.setLp l p).units = s.units := rfl
@[simp] theorem State.setLp_twin (s : State) (l : Nat) (p : LPort) : (s.setLp l p).twin = s.twin := rfl
@[simp] theorem State.setLp_mgmt (s : State) (l : Nat) (p : LPort) : (s.setLp l p).mgmt = s.mgmt := rfl
@[simp] theorem State.setLp_power (s : State) (l : Nat) (p : LPort) : (s.setLp l p).power = s.power := rfl
@[simp] theorem State.setLp_lp_self (s : State) (l : Nat) (p : LPort) : (s.setLp l p).lp l = p := Tbl.getD_put_self ..
theorem State.setLp_lp_ne (s : State) (l : Nat) (p : LPort) (j : Nat) (hj : j ≠ l) : (s.setLp l p).lp j = s.lp j := Tbl.getD_put_ne _ _ _ hj

/-! ## setQuad -/

@[simp] theorem State.setQuad_pending (s : State) (q : Nat) (x : Quad) : (s.setQuad q x).pending = s.pending := rfl
@[simp] theorem State.setQuad_freeCtr (s : State) (q : Nat) (x : Quad) : (s.setQuad q x).freeCtr = s.freeCtr := rfl
@[simp] theorem State.setQuad_out (s : State) (q : Nat) (x : Quad) : (s.setQuad q x).out = s.out := rfl
@[simp] theorem State.setQuad_time (s : State) (q : Nat) (x : Quad) : (s.setQuad q x).time = s.time := rfl
@[simp] theorem State.setQuad_regs (s : State) (q : Nat) (x : Quad) : (s.setQuad q x).regs = s.regs := rfl
@[simp] theorem State.setQuad_frames (s : State) (q : Nat) (x : Quad) : (s.setQuad q x).frames = s.frames := rfl
@[simp] theorem State.setQuad_heads (s : State) (q : Nat) (x : Quad) : (s.setQuad q x).heads = s.heads := rfl
@[simp] theorem State.setQuad_starts (s : State) (q : Nat) (x : Quad) : (s.setQuad q x).starts = s.starts := rfl
@[simp] theorem State.setQuad_msgs (s : State) (q : Nat) (x : Quad) : (s.setQuad q x).msgs = s.msgs := rfl
@[simp] theorem State.setQuad_convs (s : State) (q : Nat) (x : Quad) : (s.setQuad q x).convs = s.convs := rfl
@[simp] theorem State.setQuad_cache (s : State) (q : Nat) (x : Quad) : (s.setQuad q x).cache = s.cache := rfl
@[simp] theorem State.setQuad_replies (s : State) (q : Nat) (x : Quad) : (s.setQuad q x).replies = s.replies := rfl
@[simp] theorem State.setQuad_pairs (s : State) (q : Nat) (x : Quad) : (s.setQuad q x).pairs = s.pairs := rfl
@[simp] theorem State.setQuad_handles (s : State) (q : Nat) (x : Quad) : (s.setQuad q x).handles = s.handles := rfl
@[simp] theorem State.setQuad_cores (s : State) (q : Nat) (x : Quad) : (s.setQuad q x).cores = s.cores := rfl
@[simp] theorem State.setQuad_flights (s : State) (q : Nat) (x : Quad) : (s.setQuad q x).flights = s.flights := rfl
@[simp] theorem State.setQuad_dmas (s : State) (q : Nat) (x : Quad) : (s.setQuad q x).dmas = s.dmas := rfl
@[simp] theorem State.setQuad_fevals (s : State) (q : Nat) (x : Quad) : (s.setQuad q x).fevals = s.fevals := rfl
@[simp] theorem State.setQuad_runs (s : State) (q : Nat) (x : Quad) : (s.setQuad q x).runs = s.runs := rfl
@[simp] theorem State.setQuad_ctxs (s : State) (q : Nat) (x : Quad) : (s.setQuad q x).ctxs = s.ctxs := rfl
@[simp] theorem State.setQuad_boom (s : State) (q : Nat) (x : Quad) : (s.setQuad q x).boom = s.boom := rfl
@[simp] theorem State.setQuad_eports (s : State) (q : Nat) (x : Quad) : (s.setQuad q x).eports = s.eports := rfl
@[simp] theorem State.setQuad_lports (s : State) (q : Nat) (x : Quad) : (s.setQuad q x).lports = s.lports := rfl
@[simp] theorem State.setQuad_dies (s : State) (q : Nat) (x : Quad) : (s.setQuad q x).dies = s.dies := rfl
@[simp] theorem State.setQuad_units (s : State) (q : Nat) (x : Quad) : (s.setQuad q x).units = s.units := rfl
@[simp] theorem State.setQuad_twin (s : State) (q : Nat) (x : Quad) : (s.setQuad q x).twin = s.twin := rfl
@[simp] theorem State.setQuad_mgmt (s : State) (q : Nat) (x : Quad) : (s.setQuad q x).mgmt = s.mgmt := rfl
@[simp] theorem State.setQuad_power (s : State) (q : Nat) (x : Quad) : (s.setQuad q x).power = s.power := rfl
@[simp] theorem State.setQuad_quad_self (s : State) (q : Nat) (x : Quad) : (s.setQuad q x).quad q = x := Tbl.getD_put_self ..
theorem State.setQuad_quad_ne (s : State) (q : Nat) (x : Quad) (j : Nat) (hj : j ≠ q) : (s.setQuad q x).quad j = s.quad j := Tbl.getD_put_ne _ _ _ hj

/-! ## setDie -/

@[simp] theorem State.setDie_pending (s : State) (d : Nat) (x : DieSt) : (s.setDie d x).pending = s.pending := rfl
@[simp] theorem State.setDie_freeCtr (s : State) (d : Nat) (x : DieSt) : (s.setDie d x).freeCtr = s.freeCtr := rfl
@[simp] theorem State.setDie_out (s : State) (d : Nat) (x : DieSt) : (s.setDie d x).out = s.out := rfl
@[simp] theorem State.setDie_time (s : State) (d : Nat) (x : DieSt) : (s.setDie d x).time = s.time := rfl
@[simp] theorem State.setDie_regs (s : State) (d : Nat) (x : DieSt) : (s.setDie d x).regs = s.regs := rfl
@[simp] theorem State.setDie_frames (s : State) (d : Nat) (x : DieSt) : (s.setDie d x).frames = s.frames := rfl
@[simp] theorem State.setDie_heads (s : State) (d : Nat) (x : DieSt) : (s.setDie d x).heads = s.heads := rfl
@[simp] theorem State.setDie_starts (s : State) (d : Nat) (x : DieSt) : (s.setDie d x).starts = s.starts := rfl
@[simp] theorem State.setDie_msgs (s : State) (d : Nat) (x : DieSt) : (s.setDie d x).msgs = s.msgs := rfl
@[simp] theorem State.setDie_convs (s : State) (d : Nat) (x : DieSt) : (s.setDie d x).convs = s.convs := rfl
@[simp] theorem State.setDie_cache (s : State) (d : Nat) (x : DieSt) : (s.setDie d x).cache = s.cache := rfl
@[simp] theorem State.setDie_replies (s : State) (d : Nat) (x : DieSt) : (s.setDie d x).replies = s.replies := rfl
@[simp] theorem State.setDie_pairs (s : State) (d : Nat) (x : DieSt) : (s.setDie d x).pairs = s.pairs := rfl
@[simp] theorem State.setDie_handles (s : State) (d : Nat) (x : DieSt) : (s.setDie d x).handles = s.handles := rfl
@[simp] theorem State.setDie_cores (s : State) (d : Nat) (x : DieSt) : (s.setDie d x).cores = s.cores := rfl
@[simp] theorem State.setDie_flights (s : State) (d : Nat) (x : DieSt) : (s.setDie d x).flights = s.flights := rfl
@[simp] theorem State.setDie_dmas (s : State) (d : Nat) (x : DieSt) : (s.setDie d x).dmas = s.dmas := rfl
@[simp] theorem State.setDie_fevals (s : State) (d : Nat) (x : DieSt) : (s.setDie d x).fevals = s.fevals := rfl
@[simp] theorem State.setDie_runs (s : State) (d : Nat) (x : DieSt) : (s.setDie d x).runs = s.runs := rfl
@[simp] theorem State.setDie_ctxs (s : State) (d : Nat) (x : DieSt) : (s.setDie d x).ctxs = s.ctxs := rfl
@[simp] theorem State.setDie_boom (s : State) (d : Nat) (x : DieSt) : (s.setDie d x).boom = s.boom := rfl
@[simp] theorem State.setDie_eports (s : State) (d : Nat) (x : DieSt) : (s.setDie d x).eports = s.eports := rfl
@[simp] theorem State.setDie_lports (s : State) (d : Nat) (x : DieSt) : (s.setDie d x).lports = s.lports := rfl
@[simp] theorem State.setDie_quads (s : State) (d : Nat) (x : DieSt) : (s.setDie d x).quads = s.quads := rfl
@[simp] theorem State.setDie_units (s : State) (d : Nat) (x : DieSt) : (s.setDie d x).units = s.units := rfl
@[simp] theorem State.setDie_twin (s : State) (d : Nat) (x : DieSt) : (s.setDie d x).twin = s.twin := rfl
@[simp] theorem State.setDie_mgmt (s : State) (d : Nat) (x : DieSt) : (s.setDie d x).mgmt = s.mgmt := rfl
@[simp] theorem State.setDie_power (s : State) (d : Nat) (x : DieSt) : (s.setDie d x).power = s.power := rfl
@[simp] theorem State.setDie_die_self (s : State) (d : Nat) (x : DieSt) : (s.setDie d x).die d = x := Tbl.getD_put_self ..
theorem State.setDie_die_ne (s : State) (d : Nat) (x : DieSt) (j : Nat) (hj : j ≠ d) : (s.setDie d x).die j = s.die j := Tbl.getD_put_ne _ _ _ hj

/-! ## setPtp -/

@[simp] theorem State.setPtp_pending (s : State) (e : Nat) (x : PtpPort) : (s.setPtp e x).pending = s.pending := rfl
@[simp] theorem State.setPtp_freeCtr (s : State) (e : Nat) (x : PtpPort) : (s.setPtp e x).freeCtr = s.freeCtr := rfl
@[simp] theorem State.setPtp_out (s : State) (e : Nat) (x : PtpPort) : (s.setPtp e x).out = s.out := rfl
@[simp] theorem State.setPtp_regs (s : State) (e : Nat) (x : PtpPort) : (s.setPtp e x).regs = s.regs := rfl
@[simp] theorem State.setPtp_frames (s : State) (e : Nat) (x : PtpPort) : (s.setPtp e x).frames = s.frames := rfl
@[simp] theorem State.setPtp_heads (s : State) (e : Nat) (x : PtpPort) : (s.setPtp e x).heads = s.heads := rfl
@[simp] theorem State.setPtp_starts (s : State) (e : Nat) (x : PtpPort) : (s.setPtp e x).starts = s.starts := rfl
@[simp] theorem State.setPtp_msgs (s : State) (e : Nat) (x : PtpPort) : (s.setPtp e x).msgs = s.msgs := rfl
@[simp] theorem State.setPtp_convs (s : State) (e : Nat) (x : PtpPort) : (s.setPtp e x).convs = s.convs := rfl
@[simp] theorem State.setPtp_cache (s : State) (e : Nat) (x : PtpPort) : (s.setPtp e x).cache = s.cache := rfl
@[simp] theorem State.setPtp_replies (s : State) (e : Nat) (x : PtpPort) : (s.setPtp e x).replies = s.replies := rfl
@[simp] theorem State.setPtp_pairs (s : State) (e : Nat) (x : PtpPort) : (s.setPtp e x).pairs = s.pairs := rfl
@[simp] theorem State.setPtp_handles (s : State) (e : Nat) (x : PtpPort) : (s.setPtp e x).handles = s.handles := rfl
@[simp] theorem State.setPtp_cores (s : State) (e : Nat) (x : PtpPort) : (s.setPtp e x).cores = s.cores := rfl
@[simp] theorem State.setPtp_flights (s : State) (e : Nat) (x : PtpPort) : (s.setPtp e x).flights = s.flights := rfl
@[simp] theorem State.setPtp_dmas (s : State) (e : Nat) (x : PtpPort) : (s.setPtp e x).dmas = s.dmas := rfl
@[simp] theorem State.setPtp_fevals (s : State) (e : Nat) (x : PtpPort) : (s.setPtp e x).fevals = s.fevals := rfl
@[simp] theorem State.setPtp_runs (s : State) (e : Nat) (x : PtpPort) : (s.setPtp e x).runs = s.runs := rfl
@[simp] theorem State.setPtp_ctxs (s : State) (e : Nat) (x : PtpPort) : (s.setPtp e x).ctxs = s.ctxs := rfl
@[simp] theorem State.setPtp_boom (s : State) (e : Nat) (x : PtpPort) : (s.setPtp e x).boom = s.boom := rfl
@[simp] theorem State.setPtp_eports (s : State) (e : Nat) (x : PtpPort) : (s.setPtp e x).eports = s.eports := rfl
@[simp] theorem State.setPtp_lports (s : State) (e : Nat) (x : PtpPort) : (s.setPtp e x).lports = s.lports := rfl
@[simp] theorem State.setPtp_quads (s : State) (e : Nat) (x : PtpPort) : (s.setPtp e x).quads = s.quads := rfl
@[simp] theorem State.setPtp_dies (s : State) (e : Nat) (x : PtpPort) : (s.setPtp e x).dies = s.dies := rfl
@[simp] theorem State.setPtp_units (s : State) (e : Nat) (x : PtpPort) : (s.setPtp e x).units = s.units := rfl
@[simp] theorem State.setPtp_twin (s : State) (e : Nat) (x : PtpPort) : (s.setPtp e x).twin = s.twin := rfl
@[simp] theorem State.setPtp_mgmt (s : State) (e : Nat) (x : PtpPort) : (s.setPtp e x).mgmt = s.mgmt := rfl
@[simp] theorem State.setPtp_power (s : State) (e : Nat) (x : PtpPort) : (s.setPtp e x).power = s.power := rfl
@[simp] theorem State.setPtp_ptp_self (s : State) (e : Nat) (x : PtpPort) : (s.setPtp e x).ptp e = x := Tbl.getD_put_self ..
theorem State.setPtp_ptp_ne (s : State) (e : Nat) (x : PtpPort) (j : Nat) (hj : j ≠ e) : (s.setPtp e x).ptp j = s.ptp j := Tbl.getD_put_ne _ _ _ hj

/-! ## setTpo -/

@[simp] theorem State.setTpo_pending (s : State) (i : Nat) (x : Tpo) : (s.setTpo i x).pending = s.pending := rfl
@[simp] theorem State.setTpo_freeCtr (s : State) (i : Nat) (x : Tpo) : (s.setTpo i x).freeCtr = s.freeCtr := rfl
@[simp] theorem State.setTpo_out (s : State) (i : Nat) (x : Tpo) : (s.setTpo i x).out = s.out := rfl
@[simp] theorem State.setTpo_regs (s : State) (i : Nat) (x : Tpo) : (s.setTpo i x).regs = s.regs := rfl
@[simp] theorem State.setTpo_frames (s : State) (i : Nat) (x : Tpo) : (s.setTpo i x).frames = s.frames := rfl
@[simp] theorem State.setTpo_heads (s : State) (i : Nat) (x : Tpo) : (s.setTpo i x).heads = s.heads := rfl
@[simp] theorem State.setTpo_starts (s : State) (i : Nat) (x : Tpo) : (s.setTpo i x).starts = s.starts := rfl
@[simp] theorem State.setTpo_msgs (s : State) (i : Nat) (x : Tpo) : (s.setTpo i x).msgs = s.msgs := rfl
@[simp] theorem State.setTpo_convs (s : State) (i : Nat) (x : Tpo) : (s.setTpo i x).convs = s.convs := rfl
@[simp] theorem State.setTpo_cache (s : State) (i : Nat) (x : Tpo) : (s.setTpo i x).cache = s.cache := rfl
@[simp] theorem State.setTpo_replies (s : State) (i : Nat) (x : Tpo) : (s.setTpo i x).replies = s.replies := rfl
@[simp] theorem State.setTpo_pairs (s : State) (i : Nat) (x : Tpo) : (s.setTpo i x).pairs = s.pairs := rfl
@[simp] theorem State.setTpo_handles (s : State) (i : Nat) (x : Tpo) : (s.setTpo i x).handles = s.handles := rfl
@[simp] theorem State.setTpo_cores (s : State) (i : Nat) (x : Tpo) : (s.setTpo i x).cores = s.cores := rfl
@[simp] theorem State.setTpo_flights (s : State) (i : Nat) (x : Tpo) : (s.setTpo i x).flights = s.flights := rfl
@[simp] theorem State.setTpo_dmas (s : State) (i : Nat) (x : Tpo) : (s.setTpo i x).dmas = s.dmas := rfl
@[simp] theorem State.setTpo_fevals (s : State) (i : Nat) (x : Tpo) : (s.setTpo i x).fevals = s.fevals := rfl
@[simp] theorem State.setTpo_runs (s : State) (i : Nat) (x : Tpo) : (s.setTpo i x).runs = s.runs := rfl
@[simp] theorem State.setTpo_ctxs (s : State) (i : Nat) (x : Tpo) : (s.setTpo i x).ctxs = s.ctxs := rfl
@[simp] theorem State.setTpo_boom (s : State) (i : Nat) (x : Tpo) : (s.setTpo i x).boom = s.boom := rfl
@[simp] theorem State.setTpo_eports (s : State) (i : Nat) (x : Tpo) : (s.setTpo i x).eports = s.eports := rfl
@[simp] theorem State.setTpo_lports (s : State) (i : Nat) (x : Tpo) : (s.setTpo i x).lports = s.lports := rfl
@[simp] theorem State.setTpo_quads (s : State) (i : Nat) (x : Tpo) : (s.setTpo i x).quads = s.quads := rfl
@[simp] theorem State.setTpo_dies (s : State) (i : Nat) (x : Tpo) : (s.setTpo i x).dies = s.dies := rfl
@[simp] theorem State.setTpo_units (s : State) (i : Nat) (x : Tpo) : (s.setTpo i x).units = s.units := rfl
@[simp] theorem State.setTpo_twin (s : State) (i : Nat) (x : Tpo) : (s.setTpo i x).twin = s.twin := rfl
@[simp] theorem State.setTpo_mgmt (s : State) (i : Nat) (x : Tpo) : (s.setTpo i x).mgmt = s.mgmt := rfl
@[simp] theorem State.setTpo_power (s : State) (i : Nat) (x : Tpo) : (s.setTpo i x).power = s.power := rfl
@[simp] theorem State.setTpo_tpo_self (s : State) (i : Nat) (x : Tpo) : (s.setTpo i x).tpo i = x := Tbl.getD_put_self ..
theorem State.setTpo_tpo_ne (s : State) (i : Nat) (x : Tpo) (j : Nat) (hj : j ≠ i) : (s.setTpo i x).tpo j = s.tpo j := Tbl.getD_put_ne _ _ _ hj

/-! ## setCap -/

@[simp] theorem State.setCap_pending (s : State) (c : Nat) (x : Cap) : (s.setCap c x).pending = s.pending := rfl
@[simp] theorem State.setCap_freeCtr (s : State) (c : Nat) (x : Cap) : (s.setCap c x).freeCtr = s.freeCtr := rfl
@[simp] theorem State.setCap_out (s : State) (c : Nat) (x : Cap) : (s.setCap c x).out = s.out := rfl
@[simp] theorem State.setCap_regs (s : State) (c : Nat) (x : Cap) : (s.setCap c x).regs = s.regs := rfl
@[simp] theorem State.setCap_frames (s : State) (c : Nat) (x : Cap) : (s.setCap c x).frames = s.frames := rfl
@[simp] theorem State.setCap_heads (s : State) (c : Nat) (x : Cap) : (s.setCap c x).heads = s.heads := rfl
@[simp] theorem State.setCap_starts (s : State) (c : Nat) (x : Cap) : (s.setCap c x).starts = s.starts := rfl
@[simp] theorem State.setCap_msgs (s : State) (c : Nat) (x : Cap) : (s.setCap c x).msgs = s.msgs := rfl
@[simp] theorem State.setCap_convs (s : State) (c : Nat) (x : Cap) : (s.setCap c x).convs = s.convs := rfl
@[simp] theorem State.setCap_cache (s : State) (c : Nat) (x : Cap) : (s.setCap c x).cache = s.cache := rfl
@[simp] theorem State.setCap_replies (s : State) (c : Nat) (x : Cap) : (s.setCap c x).replies = s.replies := rfl
@[simp] theorem State.setCap_pairs (s : State) (c : Nat) (x : Cap) : (s.setCap c x).pairs = s.pairs := rfl
@[simp] theorem State.setCap_handles (s : State) (c : Nat) (x : Cap) : (s.setCap c x).handles = s.handles := rfl
@[simp] theorem State.setCap_cores (s : State) (c : Nat) (x : Cap) : (s.setCap c x).cores = s.cores := rfl
@[simp] theorem State.setCap_flights (s : State) (c : Nat) (x : Cap) : (s.setCap c x).flights = s.flights := rfl
@[simp] theorem State.setCap_dmas (s : State) (c : Nat) (x : Cap) : (s.setCap c x).dmas = s.dmas := rfl
@[simp] theorem State.setCap_fevals (s : State) (c : Nat) (x : Cap) : (s.setCap c x).fevals = s.fevals := rfl
@[simp] theorem State.setCap_runs (s : State) (c : Nat) (x : Cap) : (s.setCap c x).runs = s.runs := rfl
@[simp] theorem State.setCap_ctxs (s : State) (c : Nat) (x : Cap) : (s.setCap c x).ctxs = s.ctxs := rfl
@[simp] theorem State.setCap_boom (s : State) (c : Nat) (x : Cap) : (s.setCap c x).boom = s.boom := rfl
@[simp] theorem State.setCap_eports (s : State) (c : Nat) (x : Cap) : (s.setCap c x).eports = s.eports := rfl
@[simp] theorem State.setCap_lports (s : State) (c : Nat) (x : Cap) : (s.setCap c x).lports = s.lports := rfl
@[simp] theorem State.setCap_quads (s : State) (c : Nat) (x : Cap) : (s.setCap c x).quads = s.quads := rfl
@[simp] theorem State.setCap_dies (s : State) (c : Nat) (x : Cap) : (s.setCap c x).dies = s.dies := rfl
@[simp] theorem State.setCap_units (s : State) (c : Nat) (x : Cap) : (s.setCap c x).units = s.units := rfl
@[simp] theorem State.setCap_twin (s : State) (c : Nat) (x : Cap) : (s.setCap c x).twin = s.twin := rfl
@[simp] theorem State.setCap_mgmt (s : State) (c : Nat) (x : Cap) : (s.setCap c x).mgmt = s.mgmt := rfl
@[simp] theorem State.setCap_power (s : State) (c : Nat) (x : Cap) : (s.setCap c x).power = s.power := rfl
@[simp] theorem State.setCap_cap_self (s : State) (c : Nat) (x : Cap) : (s.setCap c x).cap c = x := Tbl.getD_put_self ..
theorem State.setCap_cap_ne (s : State) (c : Nat) (x : Cap) (j : Nat) (hj : j ≠ c) : (s.setCap c x).cap j = s.cap j := Tbl.getD_put_ne _ _ _ hj

/-! ## setDmaCh -/

@[simp] theorem State.setDmaCh_pending (s : State) (n : Nat) (x : DmaCh) : (s.setDmaCh n x).pending = s.pending := rfl
@[simp] theorem State.setDmaCh_freeCtr (s : State) (n : Nat) (x : DmaCh) : (s.setDmaCh n x).freeCtr = s.freeCtr := rfl
@[simp] theorem State.setDmaCh_out (s : State) (n : Nat) (x : DmaCh) : (s.setDmaCh n x).out = s.out := rfl
@[simp] theorem State.setDmaCh_time (s : State) (n : Nat) (x : DmaCh) : (s.setDmaCh n x).time = s.time := rfl
@[simp] theorem State.setDmaCh_regs (s : State) (n : Nat) (x : DmaCh) : (s.setDmaCh n x).regs = s.regs := rfl
@[simp] theorem State.setDmaCh_frames (s : State) (n : Nat) (x : DmaCh) : (s.setDmaCh n x).frames = s.frames := rfl
@[simp] theorem State.setDmaCh_heads (s : State) (n : Nat) (x : DmaCh) : (s.setDmaCh n x).heads = s.heads := rfl
@[simp] theorem State.setDmaCh_starts (s : State) (n : Nat) (x : DmaCh) : (s.setDmaCh n x).starts = s.starts := rfl
@[simp] theorem State.setDmaCh_msgs (s : State) (n : Nat) (x : DmaCh) : (s.setDmaCh n x).msgs = s.msgs := rfl
@[simp] theorem State.setDmaCh_convs (s : State) (n : Nat) (x : DmaCh) : (s.setDmaCh n x).convs = s.convs := rfl
@[simp] theorem State.setDmaCh_cache (s : State) (n : Nat) (x : DmaCh) : (s.setDmaCh n x).cache = s.cache := rfl
@[simp] theorem State.setDmaCh_replies (s : State) (n : Nat) (x : DmaCh) : (s.setDmaCh n x).replies = s.replies := rfl
@[simp] theorem State.setDmaCh_pairs (s : State) (n : Nat) (x : DmaCh) : (s.setDmaCh n x).pairs = s.pairs := rfl
@[simp] theorem State.setDmaCh_handles (s : State) (n : Nat) (x : DmaCh) : (s.setDmaCh n x).handles = s.handles := rfl
@[simp] theorem State.setDmaCh_cores (s : State) (n : Nat) (x : DmaCh) : (s.setDmaCh n x).cores = s.cores := rfl
@[simp] theorem State.setDmaCh_flights (s : State) (n : Nat) (x : DmaCh) : (s.setDmaCh n x).flights = s.flights := rfl
@[simp] theorem State.setDmaCh_dmas (s : State) (n : Nat) (x : DmaCh) : (s.setDmaCh n x).dmas = s.dmas := rfl
@[simp] theorem State.setDmaCh_fevals (s : State) (n : Nat) (x : DmaCh) : (s.setDmaCh n x).fevals = s.fevals := rfl
@[simp] theorem State.setDmaCh_runs (s : State) (n : Nat) (x : DmaCh) : (s.setDmaCh n x).runs = s.runs := rfl
@[simp] theorem State.setDmaCh_ctxs (s : State) (n : Nat) (x : DmaCh) : (s.setDmaCh n x).ctxs = s.ctxs := rfl
@[simp] theorem State.setDmaCh_boom (s : State) (n : Nat) (x : DmaCh) : (s.setDmaCh n x).boom = s.boom := rfl
@[simp] theorem State.setDmaCh_eports (s : State) (n : Nat) (x : DmaCh) : (s.setDmaCh n x).eports = s.eports := rfl
@[simp] theorem State.setDmaCh_lports (s : State) (n : Nat) (x : DmaCh) : (s.setDmaCh n x).lports = s.lports := rfl
@[simp] theorem State.setDmaCh_quads (s : State) (n : Nat) (x : DmaCh) : (s.setDmaCh n x).quads = s.quads := rfl
@[simp] theorem State.setDmaCh_dies (s : State) (n : Nat) (x : DmaCh) : (s.setDmaCh n x).dies = s.dies := rfl
@[simp] theorem State.setDmaCh_units (s : State) (n : Nat) (x : DmaCh) : (s.setDmaCh n x).units = s.units := rfl
@[simp] theorem State.setDmaCh_twin (s : State) (n : Nat) (x : DmaCh) : (s.setDmaCh n x).twin = s.twin := rfl
@[simp] theorem State.setDmaCh_power (s : State) (n : Nat) (x : DmaCh) : (s.setDmaCh n x).power = s.power := rfl
@[simp] theorem State.setDmaCh_dmaCh_self (s : State) (n : Nat) (x : DmaCh) : (s.setDmaCh n x).dmaCh n = x := Tbl.getD_put_self ..
theorem State.setDmaCh_dmaCh_ne (s : State) (n : Nat) (x : DmaCh) (j : Nat) (hj : j ≠ n) : (s.setDmaCh n x).dmaCh j = s.dmaCh j := Tbl.getD_put_ne _ _ _ hj

/-! ## setRw -/

@[simp] theorem State.setRw_pending (s : State) (off : Nat) (w : Word) : (s.setRw off w).pending = s.pending := rfl
@[simp] theorem State.setRw_freeCtr (s : State) (off : Nat) (w : Word) : (s.setRw off w).freeCtr = s.freeCtr := rfl
@[simp] theorem State.setRw_out (s : State) (off : Nat) (w : Word) : (s.setRw off w).out = s.out := rfl
@[simp] theorem State.setRw_time (s : State) (off : Nat) (w : Word) : (s.setRw off w).time = s.time := rfl
@[simp] theorem State.setRw_frames (s : State) (off : Nat) (w : Word) : (s.setRw off w).frames = s.frames := rfl
@[simp] theorem State.setRw_heads (s : State) (off : Nat) (w : Word) : (s.setRw off w).heads = s.heads := rfl
@[simp] theorem State.setRw_starts (s : State) (off : Nat) (w : Word) : (s.setRw off w).starts = s.starts := rfl
@[simp] theorem State.setRw_msgs (s : State) (off : Nat) (w : Word) : (s.setRw off w).msgs = s.msgs := rfl
@[simp] theorem State.setRw_convs (s : State) (off : Nat) (w : Word) : (s.setRw off w).convs = s.convs := rfl
@[simp] theorem State.setRw_cache (s : State) (off : Nat) (w : Word) : (s.setRw off w).cache = s.cache := rfl
@[simp] theorem State.setRw_replies (s : State) (off : Nat) (w : Word) : (s.setRw off w).replies = s.replies := rfl
@[simp] theorem State.setRw_pairs (s : State) (off : Nat) (w : Word) : (s.setRw off w).pairs = s.pairs := rfl
@[simp] theorem State.setRw_handles (s : State) (off : Nat) (w : Word) : (s.setRw off w).handles = s.handles := rfl
@[simp] theorem State.setRw_cores (s : State) (off : Nat) (w : Word) : (s.setRw off w).cores = s.cores := rfl
@[simp] theorem State.setRw_flights (s : State) (off : Nat) (w : Word) : (s.setRw off w).flights = s.flights := rfl
@[simp] theorem State.setRw_dmas (s : State) (off : Nat) (w : Word) : (s.setRw off w).dmas = s.dmas := rfl
@[simp] theorem State.setRw_fevals (s : State) (off : Nat) (w : Word) : (s.setRw off w).fevals = s.fevals := rfl
@[simp] theorem State.setRw_runs (s : State) (off : Nat) (w : Word) : (s.setRw off w).runs = s.runs := rfl
@[simp] theorem State.setRw_ctxs (s : State) (off : Nat) (w : Word) : (s.setRw off w).ctxs = s.ctxs := rfl
@[simp] theorem State.setRw_boom (s : State) (off : Nat) (w : Word) : (s.setRw off w).boom = s.boom := rfl
@[simp] theorem State.setRw_eports (s : State) (off : Nat) (w : Word) : (s.setRw off w).eports = s.eports := rfl
@[simp] theorem State.setRw_lports (s : State) (off : Nat) (w : Word) : (s.setRw off w).lports = s.lports := rfl
@[simp] theorem State.setRw_quads (s : State) (off : Nat) (w : Word) : (s.setRw off w).quads = s.quads := rfl
@[simp] theorem State.setRw_dies (s : State) (off : Nat) (w : Word) : (s.setRw off w).dies = s.dies := rfl
@[simp] theorem State.setRw_units (s : State) (off : Nat) (w : Word) : (s.setRw off w).units = s.units := rfl
@[simp] theorem State.setRw_twin (s : State) (off : Nat) (w : Word) : (s.setRw off w).twin = s.twin := rfl
@[simp] theorem State.setRw_mgmt (s : State) (off : Nat) (w : Word) : (s.setRw off w).mgmt = s.mgmt := rfl
@[simp] theorem State.setRw_power (s : State) (off : Nat) (w : Word) : (s.setRw off w).power = s.power := rfl
@[simp] theorem State.setRw_rwW_self (s : State) (off : Nat) (w : Word) : (s.setRw off w).rwW off = w := Tbl.getD_put_self ..
theorem State.setRw_rwW_ne (s : State) (off : Nat) (w : Word) (j : Nat) (hj : j ≠ off) : (s.setRw off w).rwW j = s.rwW j := Tbl.getD_put_ne _ _ _ hj

/-! ## count -/

@[simp] theorem State.count_pending (s : State) (off : Nat) : (s.count off).pending = s.pending := rfl
@[simp] theorem State.count_freeCtr (s : State) (off : Nat) : (s.count off).freeCtr = s.freeCtr := rfl
@[simp] theorem State.count_out (s : State) (off : Nat) : (s.count off).out = s.out := rfl
@[simp] theorem State.count_time (s : State) (off : Nat) : (s.count off).time = s.time := rfl
@[simp] theorem State.count_frames (s : State) (off : Nat) : (s.count off).frames = s.frames := rfl
@[simp] theorem State.count_heads (s : State) (off : Nat) : (s.count off).heads = s.heads := rfl
@[simp] theorem State.count_starts (s : State) (off : Nat) : (s.count off).starts = s.starts := rfl
@[simp] theorem State.count_msgs (s : State) (off : Nat) : (s.count off).msgs = s.msgs := rfl
@[simp] theorem State.count_convs (s : State) (off : Nat) : (s.count off).convs = s.convs := rfl
@[simp] theorem State.count_cache (s : State) (off : Nat) : (s.count off).cache = s.cache := rfl
@[simp] theorem State.count_replies (s : State) (off : Nat) : (s.count off).replies = s.replies := rfl
@[simp] theorem State.count_pairs (s : State) (off : Nat) : (s.count off).pairs = s.pairs := rfl
@[simp] theorem State.count_handles (s : State) (off : Nat) : (s.count off).handles = s.handles := rfl
@[simp] theorem State.count_cores (s : State) (off : Nat) : (s.count off).cores = s.cores := rfl
@[simp] theorem State.count_flights (s : State) (off : Nat) : (s.count off).flights = s.flights := rfl
@[simp] theorem State.count_dmas (s : State) (off : Nat) : (s.count off).dmas = s.dmas := rfl
@[simp] theorem State.count_fevals (s : State) (off : Nat) : (s.count off).fevals = s.fevals := rfl
@[simp] theorem State.count_runs (s : State) (off : Nat) : (s.count off).runs = s.runs := rfl
@[simp] theorem State.count_ctxs (s : State) (off : Nat) : (s.count off).ctxs = s.ctxs := rfl
@[simp] theorem State.count_boom (s : State) (off : Nat) : (s.count off).boom = s.boom := rfl
@[simp] theorem State.count_eports (s : State) (off : Nat) : (s.count off).eports = s.eports := rfl
@[simp] theorem State.count_lports (s : State) (off : Nat) : (s.count off).lports = s.lports := rfl
@[simp] theorem State.count_quads (s : State) (off : Nat) : (s.count off).quads = s.quads := rfl
@[simp] theorem State.count_dies (s : State) (off : Nat) : (s.count off).dies = s.dies := rfl
@[simp] theorem State.count_units (s : State) (off : Nat) : (s.count off).units = s.units := rfl
@[simp] theorem State.count_twin (s : State) (off : Nat) : (s.count off).twin = s.twin := rfl
@[simp] theorem State.count_mgmt (s : State) (off : Nat) : (s.count off).mgmt = s.mgmt := rfl
@[simp] theorem State.count_power (s : State) (off : Nat) : (s.count off).power = s.power := rfl
@[simp] theorem State.count_rwW_self (s : State) (off : Nat) : (s.count off).rwW off = satInc (s.rwW off) := Tbl.getD_put_self ..
theorem State.count_rwW_ne (s : State) (off j : Nat) (hj : j ≠ off) : (s.count off).rwW j = s.rwW j := Tbl.getD_put_ne _ _ _ hj

/-! ## putRw -/

@[simp] theorem State.putRw_pending (s : State) (off hi lo v : Nat) : (s.putRw off hi lo v).pending = s.pending := rfl
@[simp] theorem State.putRw_freeCtr (s : State) (off hi lo v : Nat) : (s.putRw off hi lo v).freeCtr = s.freeCtr := rfl
@[simp] theorem State.putRw_out (s : State) (off hi lo v : Nat) : (s.putRw off hi lo v).out = s.out := rfl
@[simp] theorem State.putRw_time (s : State) (off hi lo v : Nat) : (s.putRw off hi lo v).time = s.time := rfl
@[simp] theorem State.putRw_frames (s : State) (off hi lo v : Nat) : (s.putRw off hi lo v).frames = s.frames := rfl
@[simp] theorem State.putRw_heads (s : State) (off hi lo v : Nat) : (s.putRw off hi lo v).heads = s.heads := rfl
@[simp] theorem State.putRw_starts (s : State) (off hi lo v : Nat) : (s.putRw off hi lo v).starts = s.starts := rfl
@[simp] theorem State.putRw_msgs (s : State) (off hi lo v : Nat) : (s.putRw off hi lo v).msgs = s.msgs := rfl
@[simp] theorem State.putRw_convs (s : State) (off hi lo v : Nat) : (s.putRw off hi lo v).convs = s.convs := rfl
@[simp] theorem State.putRw_cache (s : State) (off hi lo v : Nat) : (s.putRw off hi lo v).cache = s.cache := rfl
@[simp] theorem State.putRw_replies (s : State) (off hi lo v : Nat) : (s.putRw off hi lo v).replies = s.replies := rfl
@[simp] theorem State.putRw_pairs (s : State) (off hi lo v : Nat) : (s.putRw off hi lo v).pairs = s.pairs := rfl
@[simp] theorem State.putRw_handles (s : State) (off hi lo v : Nat) : (s.putRw off hi lo v).handles = s.handles := rfl
@[simp] theorem State.putRw_cores (s : State) (off hi lo v : Nat) : (s.putRw off hi lo v).cores = s.cores := rfl
@[simp] theorem State.putRw_flights (s : State) (off hi lo v : Nat) : (s.putRw off hi lo v).flights = s.flights := rfl
@[simp] theorem State.putRw_dmas (s : State) (off hi lo v : Nat) : (s.putRw off hi lo v).dmas = s.dmas := rfl
@[simp] theorem State.putRw_fevals (s : State) (off hi lo v : Nat) : (s.putRw off hi lo v).fevals = s.fevals := rfl
@[simp] theorem State.putRw_runs (s : State) (off hi lo v : Nat) : (s.putRw off hi lo v).runs = s.runs := rfl
@[simp] theorem State.putRw_ctxs (s : State) (off hi lo v : Nat) : (s.putRw off hi lo v).ctxs = s.ctxs := rfl
@[simp] theorem State.putRw_boom (s : State) (off hi lo v : Nat) : (s.putRw off hi lo v).boom = s.boom := rfl
@[simp] theorem State.putRw_eports (s : State) (off hi lo v : Nat) : (s.putRw off hi lo v).eports = s.eports := rfl
@[simp] theorem State.putRw_lports (s : State) (off hi lo v : Nat) : (s.putRw off hi lo v).lports = s.lports := rfl
@[simp] theorem State.putRw_quads (s : State) (off hi lo v : Nat) : (s.putRw off hi lo v).quads = s.quads := rfl
@[simp] theorem State.putRw_dies (s : State) (off hi lo v : Nat) : (s.putRw off hi lo v).dies = s.dies := rfl
@[simp] theorem State.putRw_units (s : State) (off hi lo v : Nat) : (s.putRw off hi lo v).units = s.units := rfl
@[simp] theorem State.putRw_twin (s : State) (off hi lo v : Nat) : (s.putRw off hi lo v).twin = s.twin := rfl
@[simp] theorem State.putRw_mgmt (s : State) (off hi lo v : Nat) : (s.putRw off hi lo v).mgmt = s.mgmt := rfl
@[simp] theorem State.putRw_power (s : State) (off hi lo v : Nat) : (s.putRw off hi lo v).power = s.power := rfl

/-! ## latchW -/

@[simp] theorem State.latchW_pending (s : State) (off v : Nat) : (s.latchW off v).pending = s.pending := rfl
@[simp] theorem State.latchW_freeCtr (s : State) (off v : Nat) : (s.latchW off v).freeCtr = s.freeCtr := rfl
@[simp] theorem State.latchW_out (s : State) (off v : Nat) : (s.latchW off v).out = s.out := rfl
@[simp] theorem State.latchW_time (s : State) (off v : Nat) : (s.latchW off v).time = s.time := rfl
@[simp] theorem State.latchW_frames (s : State) (off v : Nat) : (s.latchW off v).frames = s.frames := rfl
@[simp] theorem State.latchW_heads (s : State) (off v : Nat) : (s.latchW off v).heads = s.heads := rfl
@[simp] theorem State.latchW_starts (s : State) (off v : Nat) : (s.latchW off v).starts = s.starts := rfl
@[simp] theorem State.latchW_msgs (s : State) (off v : Nat) : (s.latchW off v).msgs = s.msgs := rfl
@[simp] theorem State.latchW_convs (s : State) (off v : Nat) : (s.latchW off v).convs = s.convs := rfl
@[simp] theorem State.latchW_cache (s : State) (off v : Nat) : (s.latchW off v).cache = s.cache := rfl
@[simp] theorem State.latchW_replies (s : State) (off v : Nat) : (s.latchW off v).replies = s.replies := rfl
@[simp] theorem State.latchW_pairs (s : State) (off v : Nat) : (s.latchW off v).pairs = s.pairs := rfl
@[simp] theorem State.latchW_handles (s : State) (off v : Nat) : (s.latchW off v).handles = s.handles := rfl
@[simp] theorem State.latchW_cores (s : State) (off v : Nat) : (s.latchW off v).cores = s.cores := rfl
@[simp] theorem State.latchW_flights (s : State) (off v : Nat) : (s.latchW off v).flights = s.flights := rfl
@[simp] theorem State.latchW_dmas (s : State) (off v : Nat) : (s.latchW off v).dmas = s.dmas := rfl
@[simp] theorem State.latchW_fevals (s : State) (off v : Nat) : (s.latchW off v).fevals = s.fevals := rfl
@[simp] theorem State.latchW_runs (s : State) (off v : Nat) : (s.latchW off v).runs = s.runs := rfl
@[simp] theorem State.latchW_ctxs (s : State) (off v : Nat) : (s.latchW off v).ctxs = s.ctxs := rfl
@[simp] theorem State.latchW_boom (s : State) (off v : Nat) : (s.latchW off v).boom = s.boom := rfl
@[simp] theorem State.latchW_eports (s : State) (off v : Nat) : (s.latchW off v).eports = s.eports := rfl
@[simp] theorem State.latchW_lports (s : State) (off v : Nat) : (s.latchW off v).lports = s.lports := rfl
@[simp] theorem State.latchW_quads (s : State) (off v : Nat) : (s.latchW off v).quads = s.quads := rfl
@[simp] theorem State.latchW_dies (s : State) (off v : Nat) : (s.latchW off v).dies = s.dies := rfl
@[simp] theorem State.latchW_units (s : State) (off v : Nat) : (s.latchW off v).units = s.units := rfl
@[simp] theorem State.latchW_twin (s : State) (off v : Nat) : (s.latchW off v).twin = s.twin := rfl
@[simp] theorem State.latchW_mgmt (s : State) (off v : Nat) : (s.latchW off v).mgmt = s.mgmt := rfl
@[simp] theorem State.latchW_power (s : State) (off v : Nat) : (s.latchW off v).power = s.power := rfl

/-! ## holdLo -/

@[simp] theorem State.holdLo_pending (s : State) (off : Nat) (v : Word) : (s.holdLo off v).pending = s.pending := rfl
@[simp] theorem State.holdLo_freeCtr (s : State) (off : Nat) (v : Word) : (s.holdLo off v).freeCtr = s.freeCtr := rfl
@[simp] theorem State.holdLo_out (s : State) (off : Nat) (v : Word) : (s.holdLo off v).out = s.out := rfl
@[simp] theorem State.holdLo_time (s : State) (off : Nat) (v : Word) : (s.holdLo off v).time = s.time := rfl
@[simp] theorem State.holdLo_frames (s : State) (off : Nat) (v : Word) : (s.holdLo off v).frames = s.frames := rfl
@[simp] theorem State.holdLo_heads (s : State) (off : Nat) (v : Word) : (s.holdLo off v).heads = s.heads := rfl
@[simp] theorem State.holdLo_starts (s : State) (off : Nat) (v : Word) : (s.holdLo off v).starts = s.starts := rfl
@[simp] theorem State.holdLo_msgs (s : State) (off : Nat) (v : Word) : (s.holdLo off v).msgs = s.msgs := rfl
@[simp] theorem State.holdLo_convs (s : State) (off : Nat) (v : Word) : (s.holdLo off v).convs = s.convs := rfl
@[simp] theorem State.holdLo_cache (s : State) (off : Nat) (v : Word) : (s.holdLo off v).cache = s.cache := rfl
@[simp] theorem State.holdLo_replies (s : State) (off : Nat) (v : Word) : (s.holdLo off v).replies = s.replies := rfl
@[simp] theorem State.holdLo_pairs (s : State) (off : Nat) (v : Word) : (s.holdLo off v).pairs = s.pairs := rfl
@[simp] theorem State.holdLo_handles (s : State) (off : Nat) (v : Word) : (s.holdLo off v).handles = s.handles := rfl
@[simp] theorem State.holdLo_cores (s : State) (off : Nat) (v : Word) : (s.holdLo off v).cores = s.cores := rfl
@[simp] theorem State.holdLo_flights (s : State) (off : Nat) (v : Word) : (s.holdLo off v).flights = s.flights := rfl
@[simp] theorem State.holdLo_dmas (s : State) (off : Nat) (v : Word) : (s.holdLo off v).dmas = s.dmas := rfl
@[simp] theorem State.holdLo_fevals (s : State) (off : Nat) (v : Word) : (s.holdLo off v).fevals = s.fevals := rfl
@[simp] theorem State.holdLo_runs (s : State) (off : Nat) (v : Word) : (s.holdLo off v).runs = s.runs := rfl
@[simp] theorem State.holdLo_ctxs (s : State) (off : Nat) (v : Word) : (s.holdLo off v).ctxs = s.ctxs := rfl
@[simp] theorem State.holdLo_boom (s : State) (off : Nat) (v : Word) : (s.holdLo off v).boom = s.boom := rfl
@[simp] theorem State.holdLo_eports (s : State) (off : Nat) (v : Word) : (s.holdLo off v).eports = s.eports := rfl
@[simp] theorem State.holdLo_lports (s : State) (off : Nat) (v : Word) : (s.holdLo off v).lports = s.lports := rfl
@[simp] theorem State.holdLo_quads (s : State) (off : Nat) (v : Word) : (s.holdLo off v).quads = s.quads := rfl
@[simp] theorem State.holdLo_dies (s : State) (off : Nat) (v : Word) : (s.holdLo off v).dies = s.dies := rfl
@[simp] theorem State.holdLo_units (s : State) (off : Nat) (v : Word) : (s.holdLo off v).units = s.units := rfl
@[simp] theorem State.holdLo_twin (s : State) (off : Nat) (v : Word) : (s.holdLo off v).twin = s.twin := rfl
@[simp] theorem State.holdLo_mgmt (s : State) (off : Nat) (v : Word) : (s.holdLo off v).mgmt = s.mgmt := rfl
@[simp] theorem State.holdLo_power (s : State) (off : Nat) (v : Word) : (s.holdLo off v).power = s.power := rfl

/-! ## setEpoch -/

@[simp] theorem State.setEpoch_pending (s : State) (op : Nat) (e : BoomEpoch) : (s.setEpoch op e).pending = s.pending := rfl
@[simp] theorem State.setEpoch_freeCtr (s : State) (op : Nat) (e : BoomEpoch) : (s.setEpoch op e).freeCtr = s.freeCtr := rfl
@[simp] theorem State.setEpoch_out (s : State) (op : Nat) (e : BoomEpoch) : (s.setEpoch op e).out = s.out := rfl
@[simp] theorem State.setEpoch_time (s : State) (op : Nat) (e : BoomEpoch) : (s.setEpoch op e).time = s.time := rfl
@[simp] theorem State.setEpoch_regs (s : State) (op : Nat) (e : BoomEpoch) : (s.setEpoch op e).regs = s.regs := rfl
@[simp] theorem State.setEpoch_frames (s : State) (op : Nat) (e : BoomEpoch) : (s.setEpoch op e).frames = s.frames := rfl
@[simp] theorem State.setEpoch_heads (s : State) (op : Nat) (e : BoomEpoch) : (s.setEpoch op e).heads = s.heads := rfl
@[simp] theorem State.setEpoch_starts (s : State) (op : Nat) (e : BoomEpoch) : (s.setEpoch op e).starts = s.starts := rfl
@[simp] theorem State.setEpoch_msgs (s : State) (op : Nat) (e : BoomEpoch) : (s.setEpoch op e).msgs = s.msgs := rfl
@[simp] theorem State.setEpoch_convs (s : State) (op : Nat) (e : BoomEpoch) : (s.setEpoch op e).convs = s.convs := rfl
@[simp] theorem State.setEpoch_cache (s : State) (op : Nat) (e : BoomEpoch) : (s.setEpoch op e).cache = s.cache := rfl
@[simp] theorem State.setEpoch_replies (s : State) (op : Nat) (e : BoomEpoch) : (s.setEpoch op e).replies = s.replies := rfl
@[simp] theorem State.setEpoch_pairs (s : State) (op : Nat) (e : BoomEpoch) : (s.setEpoch op e).pairs = s.pairs := rfl
@[simp] theorem State.setEpoch_handles (s : State) (op : Nat) (e : BoomEpoch) : (s.setEpoch op e).handles = s.handles := rfl
@[simp] theorem State.setEpoch_cores (s : State) (op : Nat) (e : BoomEpoch) : (s.setEpoch op e).cores = s.cores := rfl
@[simp] theorem State.setEpoch_flights (s : State) (op : Nat) (e : BoomEpoch) : (s.setEpoch op e).flights = s.flights := rfl
@[simp] theorem State.setEpoch_dmas (s : State) (op : Nat) (e : BoomEpoch) : (s.setEpoch op e).dmas = s.dmas := rfl
@[simp] theorem State.setEpoch_fevals (s : State) (op : Nat) (e : BoomEpoch) : (s.setEpoch op e).fevals = s.fevals := rfl
@[simp] theorem State.setEpoch_runs (s : State) (op : Nat) (e : BoomEpoch) : (s.setEpoch op e).runs = s.runs := rfl
@[simp] theorem State.setEpoch_ctxs (s : State) (op : Nat) (e : BoomEpoch) : (s.setEpoch op e).ctxs = s.ctxs := rfl
@[simp] theorem State.setEpoch_eports (s : State) (op : Nat) (e : BoomEpoch) : (s.setEpoch op e).eports = s.eports := rfl
@[simp] theorem State.setEpoch_lports (s : State) (op : Nat) (e : BoomEpoch) : (s.setEpoch op e).lports = s.lports := rfl
@[simp] theorem State.setEpoch_quads (s : State) (op : Nat) (e : BoomEpoch) : (s.setEpoch op e).quads = s.quads := rfl
@[simp] theorem State.setEpoch_dies (s : State) (op : Nat) (e : BoomEpoch) : (s.setEpoch op e).dies = s.dies := rfl
@[simp] theorem State.setEpoch_units (s : State) (op : Nat) (e : BoomEpoch) : (s.setEpoch op e).units = s.units := rfl
@[simp] theorem State.setEpoch_twin (s : State) (op : Nat) (e : BoomEpoch) : (s.setEpoch op e).twin = s.twin := rfl
@[simp] theorem State.setEpoch_mgmt (s : State) (op : Nat) (e : BoomEpoch) : (s.setEpoch op e).mgmt = s.mgmt := rfl
@[simp] theorem State.setEpoch_power (s : State) (op : Nat) (e : BoomEpoch) : (s.setEpoch op e).power = s.power := rfl

/-! ## setHost -/

@[simp] theorem State.setHost_pending (s : State) (m p : Nat) (x : BoomHost) : (s.setHost m p x).pending = s.pending := rfl
@[simp] theorem State.setHost_freeCtr (s : State) (m p : Nat) (x : BoomHost) : (s.setHost m p x).freeCtr = s.freeCtr := rfl
@[simp] theorem State.setHost_out (s : State) (m p : Nat) (x : BoomHost) : (s.setHost m p x).out = s.out := rfl
@[simp] theorem State.setHost_time (s : State) (m p : Nat) (x : BoomHost) : (s.setHost m p x).time = s.time := rfl
@[simp] theorem State.setHost_regs (s : State) (m p : Nat) (x : BoomHost) : (s.setHost m p x).regs = s.regs := rfl
@[simp] theorem State.setHost_frames (s : State) (m p : Nat) (x : BoomHost) : (s.setHost m p x).frames = s.frames := rfl
@[simp] theorem State.setHost_heads (s : State) (m p : Nat) (x : BoomHost) : (s.setHost m p x).heads = s.heads := rfl
@[simp] theorem State.setHost_starts (s : State) (m p : Nat) (x : BoomHost) : (s.setHost m p x).starts = s.starts := rfl
@[simp] theorem State.setHost_msgs (s : State) (m p : Nat) (x : BoomHost) : (s.setHost m p x).msgs = s.msgs := rfl
@[simp] theorem State.setHost_convs (s : State) (m p : Nat) (x : BoomHost) : (s.setHost m p x).convs = s.convs := rfl
@[simp] theorem State.setHost_cache (s : State) (m p : Nat) (x : BoomHost) : (s.setHost m p x).cache = s.cache := rfl
@[simp] theorem State.setHost_replies (s : State) (m p : Nat) (x : BoomHost) : (s.setHost m p x).replies = s.replies := rfl
@[simp] theorem State.setHost_pairs (s : State) (m p : Nat) (x : BoomHost) : (s.setHost m p x).pairs = s.pairs := rfl
@[simp] theorem State.setHost_handles (s : State) (m p : Nat) (x : BoomHost) : (s.setHost m p x).handles = s.handles := rfl
@[simp] theorem State.setHost_cores (s : State) (m p : Nat) (x : BoomHost) : (s.setHost m p x).cores = s.cores := rfl
@[simp] theorem State.setHost_flights (s : State) (m p : Nat) (x : BoomHost) : (s.setHost m p x).flights = s.flights := rfl
@[simp] theorem State.setHost_dmas (s : State) (m p : Nat) (x : BoomHost) : (s.setHost m p x).dmas = s.dmas := rfl
@[simp] theorem State.setHost_fevals (s : State) (m p : Nat) (x : BoomHost) : (s.setHost m p x).fevals = s.fevals := rfl
@[simp] theorem State.setHost_runs (s : State) (m p : Nat) (x : BoomHost) : (s.setHost m p x).runs = s.runs := rfl
@[simp] theorem State.setHost_ctxs (s : State) (m p : Nat) (x : BoomHost) : (s.setHost m p x).ctxs = s.ctxs := rfl
@[simp] theorem State.setHost_eports (s : State) (m p : Nat) (x : BoomHost) : (s.setHost m p x).eports = s.eports := rfl
@[simp] theorem State.setHost_lports (s : State) (m p : Nat) (x : BoomHost) : (s.setHost m p x).lports = s.lports := rfl
@[simp] theorem State.setHost_quads (s : State) (m p : Nat) (x : BoomHost) : (s.setHost m p x).quads = s.quads := rfl
@[simp] theorem State.setHost_dies (s : State) (m p : Nat) (x : BoomHost) : (s.setHost m p x).dies = s.dies := rfl
@[simp] theorem State.setHost_units (s : State) (m p : Nat) (x : BoomHost) : (s.setHost m p x).units = s.units := rfl
@[simp] theorem State.setHost_twin (s : State) (m p : Nat) (x : BoomHost) : (s.setHost m p x).twin = s.twin := rfl
@[simp] theorem State.setHost_mgmt (s : State) (m p : Nat) (x : BoomHost) : (s.setHost m p x).mgmt = s.mgmt := rfl
@[simp] theorem State.setHost_power (s : State) (m p : Nat) (x : BoomHost) : (s.setHost m p x).power = s.power := rfl

/-! ## addReply -/

@[simp] theorem State.addReply_pending (s : State) (r : Reply) : (s.addReply r).pending = s.pending := rfl
@[simp] theorem State.addReply_freeCtr (s : State) (r : Reply) : (s.addReply r).freeCtr = s.freeCtr := rfl
@[simp] theorem State.addReply_out (s : State) (r : Reply) : (s.addReply r).out = s.out := rfl
@[simp] theorem State.addReply_time (s : State) (r : Reply) : (s.addReply r).time = s.time := rfl
@[simp] theorem State.addReply_regs (s : State) (r : Reply) : (s.addReply r).regs = s.regs := rfl
@[simp] theorem State.addReply_frames (s : State) (r : Reply) : (s.addReply r).frames = s.frames := rfl
@[simp] theorem State.addReply_heads (s : State) (r : Reply) : (s.addReply r).heads = s.heads := rfl
@[simp] theorem State.addReply_starts (s : State) (r : Reply) : (s.addReply r).starts = s.starts := rfl
@[simp] theorem State.addReply_msgs (s : State) (r : Reply) : (s.addReply r).msgs = s.msgs := rfl
@[simp] theorem State.addReply_convs (s : State) (r : Reply) : (s.addReply r).convs = s.convs := rfl
@[simp] theorem State.addReply_cache (s : State) (r : Reply) : (s.addReply r).cache = s.cache := rfl
@[simp] theorem State.addReply_pairs (s : State) (r : Reply) : (s.addReply r).pairs = s.pairs := rfl
@[simp] theorem State.addReply_handles (s : State) (r : Reply) : (s.addReply r).handles = s.handles := rfl
@[simp] theorem State.addReply_cores (s : State) (r : Reply) : (s.addReply r).cores = s.cores := rfl
@[simp] theorem State.addReply_flights (s : State) (r : Reply) : (s.addReply r).flights = s.flights := rfl
@[simp] theorem State.addReply_dmas (s : State) (r : Reply) : (s.addReply r).dmas = s.dmas := rfl
@[simp] theorem State.addReply_fevals (s : State) (r : Reply) : (s.addReply r).fevals = s.fevals := rfl
@[simp] theorem State.addReply_runs (s : State) (r : Reply) : (s.addReply r).runs = s.runs := rfl
@[simp] theorem State.addReply_ctxs (s : State) (r : Reply) : (s.addReply r).ctxs = s.ctxs := rfl
@[simp] theorem State.addReply_boom (s : State) (r : Reply) : (s.addReply r).boom = s.boom := rfl
@[simp] theorem State.addReply_eports (s : State) (r : Reply) : (s.addReply r).eports = s.eports := rfl
@[simp] theorem State.addReply_lports (s : State) (r : Reply) : (s.addReply r).lports = s.lports := rfl
@[simp] theorem State.addReply_quads (s : State) (r : Reply) : (s.addReply r).quads = s.quads := rfl
@[simp] theorem State.addReply_dies (s : State) (r : Reply) : (s.addReply r).dies = s.dies := rfl
@[simp] theorem State.addReply_units (s : State) (r : Reply) : (s.addReply r).units = s.units := rfl
@[simp] theorem State.addReply_twin (s : State) (r : Reply) : (s.addReply r).twin = s.twin := rfl
@[simp] theorem State.addReply_mgmt (s : State) (r : Reply) : (s.addReply r).mgmt = s.mgmt := rfl
@[simp] theorem State.addReply_power (s : State) (r : Reply) : (s.addReply r).power = s.power := rfl

/-! ## emit -/

@[simp] theorem State.emit_pending (s : State) (o : Out) : (s.emit o).pending = s.pending := rfl
@[simp] theorem State.emit_freeCtr (s : State) (o : Out) : (s.emit o).freeCtr = s.freeCtr := rfl
@[simp] theorem State.emit_time (s : State) (o : Out) : (s.emit o).time = s.time := rfl
@[simp] theorem State.emit_regs (s : State) (o : Out) : (s.emit o).regs = s.regs := rfl
@[simp] theorem State.emit_frames (s : State) (o : Out) : (s.emit o).frames = s.frames := rfl
@[simp] theorem State.emit_heads (s : State) (o : Out) : (s.emit o).heads = s.heads := rfl
@[simp] theorem State.emit_starts (s : State) (o : Out) : (s.emit o).starts = s.starts := rfl
@[simp] theorem State.emit_msgs (s : State) (o : Out) : (s.emit o).msgs = s.msgs := rfl
@[simp] theorem State.emit_convs (s : State) (o : Out) : (s.emit o).convs = s.convs := rfl
@[simp] theorem State.emit_cache (s : State) (o : Out) : (s.emit o).cache = s.cache := rfl
@[simp] theorem State.emit_replies (s : State) (o : Out) : (s.emit o).replies = s.replies := rfl
@[simp] theorem State.emit_pairs (s : State) (o : Out) : (s.emit o).pairs = s.pairs := rfl
@[simp] theorem State.emit_handles (s : State) (o : Out) : (s.emit o).handles = s.handles := rfl
@[simp] theorem State.emit_cores (s : State) (o : Out) : (s.emit o).cores = s.cores := rfl
@[simp] theorem State.emit_flights (s : State) (o : Out) : (s.emit o).flights = s.flights := rfl
@[simp] theorem State.emit_dmas (s : State) (o : Out) : (s.emit o).dmas = s.dmas := rfl
@[simp] theorem State.emit_fevals (s : State) (o : Out) : (s.emit o).fevals = s.fevals := rfl
@[simp] theorem State.emit_runs (s : State) (o : Out) : (s.emit o).runs = s.runs := rfl
@[simp] theorem State.emit_ctxs (s : State) (o : Out) : (s.emit o).ctxs = s.ctxs := rfl
@[simp] theorem State.emit_boom (s : State) (o : Out) : (s.emit o).boom = s.boom := rfl
@[simp] theorem State.emit_eports (s : State) (o : Out) : (s.emit o).eports = s.eports := rfl
@[simp] theorem State.emit_lports (s : State) (o : Out) : (s.emit o).lports = s.lports := rfl
@[simp] theorem State.emit_quads (s : State) (o : Out) : (s.emit o).quads = s.quads := rfl
@[simp] theorem State.emit_dies (s : State) (o : Out) : (s.emit o).dies = s.dies := rfl
@[simp] theorem State.emit_units (s : State) (o : Out) : (s.emit o).units = s.units := rfl
@[simp] theorem State.emit_twin (s : State) (o : Out) : (s.emit o).twin = s.twin := rfl
@[simp] theorem State.emit_mgmt (s : State) (o : Out) : (s.emit o).mgmt = s.mgmt := rfl
@[simp] theorem State.emit_power (s : State) (o : Out) : (s.emit o).power = s.power := rfl
@[simp] theorem State.emit_out (s : State) (o : Out) : (s.emit o).out = s.out ++ [o] := rfl

/-! ## Posting -/

@[simp] theorem State.postV_pending (s : State) (q idx : Nat) (items : List (Nat × Nat)) (vec : Option Nat) :
    (s.postV q idx items vec).pending = s.pending := by
  unfold State.postV
  dsimp only
  repeat' first | rfl | split
@[simp] theorem State.post_pending (s : State) (q idx : Nat) (items : List (Nat × Nat)) : (s.post q idx items).pending = s.pending :=
  State.postV_pending ..
@[simp] theorem State.postV_freeCtr (s : State) (q idx : Nat) (items : List (Nat × Nat)) (vec : Option Nat) :
    (s.postV q idx items vec).freeCtr = s.freeCtr := by
  unfold State.postV
  dsimp only
  repeat' first | rfl | split
@[simp] theorem State.post_freeCtr (s : State) (q idx : Nat) (items : List (Nat × Nat)) : (s.post q idx items).freeCtr = s.freeCtr :=
  State.postV_freeCtr ..
@[simp] theorem State.postV_time (s : State) (q idx : Nat) (items : List (Nat × Nat)) (vec : Option Nat) :
    (s.postV q idx items vec).time = s.time := by
  unfold State.postV
  dsimp only
  repeat' first | rfl | split
@[simp] theorem State.post_time (s : State) (q idx : Nat) (items : List (Nat × Nat)) : (s.post q idx items).time = s.time :=
  State.postV_time ..
@[simp] theorem State.postV_frames (s : State) (q idx : Nat) (items : List (Nat × Nat)) (vec : Option Nat) :
    (s.postV q idx items vec).frames = s.frames := by
  unfold State.postV
  dsimp only
  repeat' first | rfl | split
@[simp] theorem State.post_frames (s : State) (q idx : Nat) (items : List (Nat × Nat)) : (s.post q idx items).frames = s.frames :=
  State.postV_frames ..
@[simp] theorem State.postV_heads (s : State) (q idx : Nat) (items : List (Nat × Nat)) (vec : Option Nat) :
    (s.postV q idx items vec).heads = s.heads := by
  unfold State.postV
  dsimp only
  repeat' first | rfl | split
@[simp] theorem State.post_heads (s : State) (q idx : Nat) (items : List (Nat × Nat)) : (s.post q idx items).heads = s.heads :=
  State.postV_heads ..
@[simp] theorem State.postV_starts (s : State) (q idx : Nat) (items : List (Nat × Nat)) (vec : Option Nat) :
    (s.postV q idx items vec).starts = s.starts := by
  unfold State.postV
  dsimp only
  repeat' first | rfl | split
@[simp] theorem State.post_starts (s : State) (q idx : Nat) (items : List (Nat × Nat)) : (s.post q idx items).starts = s.starts :=
  State.postV_starts ..
@[simp] theorem State.postV_msgs (s : State) (q idx : Nat) (items : List (Nat × Nat)) (vec : Option Nat) :
    (s.postV q idx items vec).msgs = s.msgs := by
  unfold State.postV
  dsimp only
  repeat' first | rfl | split
@[simp] theorem State.post_msgs (s : State) (q idx : Nat) (items : List (Nat × Nat)) : (s.post q idx items).msgs = s.msgs :=
  State.postV_msgs ..
@[simp] theorem State.postV_convs (s : State) (q idx : Nat) (items : List (Nat × Nat)) (vec : Option Nat) :
    (s.postV q idx items vec).convs = s.convs := by
  unfold State.postV
  dsimp only
  repeat' first | rfl | split
@[simp] theorem State.post_convs (s : State) (q idx : Nat) (items : List (Nat × Nat)) : (s.post q idx items).convs = s.convs :=
  State.postV_convs ..
@[simp] theorem State.postV_cache (s : State) (q idx : Nat) (items : List (Nat × Nat)) (vec : Option Nat) :
    (s.postV q idx items vec).cache = s.cache := by
  unfold State.postV
  dsimp only
  repeat' first | rfl | split
@[simp] theorem State.post_cache (s : State) (q idx : Nat) (items : List (Nat × Nat)) : (s.post q idx items).cache = s.cache :=
  State.postV_cache ..
@[simp] theorem State.postV_replies (s : State) (q idx : Nat) (items : List (Nat × Nat)) (vec : Option Nat) :
    (s.postV q idx items vec).replies = s.replies := by
  unfold State.postV
  dsimp only
  repeat' first | rfl | split
@[simp] theorem State.post_replies (s : State) (q idx : Nat) (items : List (Nat × Nat)) : (s.post q idx items).replies = s.replies :=
  State.postV_replies ..
@[simp] theorem State.postV_pairs (s : State) (q idx : Nat) (items : List (Nat × Nat)) (vec : Option Nat) :
    (s.postV q idx items vec).pairs = s.pairs := by
  unfold State.postV
  dsimp only
  repeat' first | rfl | split
@[simp] theorem State.post_pairs (s : State) (q idx : Nat) (items : List (Nat × Nat)) : (s.post q idx items).pairs = s.pairs :=
  State.postV_pairs ..
@[simp] theorem State.postV_handles (s : State) (q idx : Nat) (items : List (Nat × Nat)) (vec : Option Nat) :
    (s.postV q idx items vec).handles = s.handles := by
  unfold State.postV
  dsimp only
  repeat' first | rfl | split
@[simp] theorem State.post_handles (s : State) (q idx : Nat) (items : List (Nat × Nat)) : (s.post q idx items).handles = s.handles :=
  State.postV_handles ..
@[simp] theorem State.postV_cores (s : State) (q idx : Nat) (items : List (Nat × Nat)) (vec : Option Nat) :
    (s.postV q idx items vec).cores = s.cores := by
  unfold State.postV
  dsimp only
  repeat' first | rfl | split
@[simp] theorem State.post_cores (s : State) (q idx : Nat) (items : List (Nat × Nat)) : (s.post q idx items).cores = s.cores :=
  State.postV_cores ..
@[simp] theorem State.postV_flights (s : State) (q idx : Nat) (items : List (Nat × Nat)) (vec : Option Nat) :
    (s.postV q idx items vec).flights = s.flights := by
  unfold State.postV
  dsimp only
  repeat' first | rfl | split
@[simp] theorem State.post_flights (s : State) (q idx : Nat) (items : List (Nat × Nat)) : (s.post q idx items).flights = s.flights :=
  State.postV_flights ..
@[simp] theorem State.postV_dmas (s : State) (q idx : Nat) (items : List (Nat × Nat)) (vec : Option Nat) :
    (s.postV q idx items vec).dmas = s.dmas := by
  unfold State.postV
  dsimp only
  repeat' first | rfl | split
@[simp] theorem State.post_dmas (s : State) (q idx : Nat) (items : List (Nat × Nat)) : (s.post q idx items).dmas = s.dmas :=
  State.postV_dmas ..
@[simp] theorem State.postV_fevals (s : State) (q idx : Nat) (items : List (Nat × Nat)) (vec : Option Nat) :
    (s.postV q idx items vec).fevals = s.fevals := by
  unfold State.postV
  dsimp only
  repeat' first | rfl | split
@[simp] theorem State.post_fevals (s : State) (q idx : Nat) (items : List (Nat × Nat)) : (s.post q idx items).fevals = s.fevals :=
  State.postV_fevals ..
@[simp] theorem State.postV_runs (s : State) (q idx : Nat) (items : List (Nat × Nat)) (vec : Option Nat) :
    (s.postV q idx items vec).runs = s.runs := by
  unfold State.postV
  dsimp only
  repeat' first | rfl | split
@[simp] theorem State.post_runs (s : State) (q idx : Nat) (items : List (Nat × Nat)) : (s.post q idx items).runs = s.runs :=
  State.postV_runs ..
@[simp] theorem State.postV_ctxs (s : State) (q idx : Nat) (items : List (Nat × Nat)) (vec : Option Nat) :
    (s.postV q idx items vec).ctxs = s.ctxs := by
  unfold State.postV
  dsimp only
  repeat' first | rfl | split
@[simp] theorem State.post_ctxs (s : State) (q idx : Nat) (items : List (Nat × Nat)) : (s.post q idx items).ctxs = s.ctxs :=
  State.postV_ctxs ..
@[simp] theorem State.postV_boom (s : State) (q idx : Nat) (items : List (Nat × Nat)) (vec : Option Nat) :
    (s.postV q idx items vec).boom = s.boom := by
  unfold State.postV
  dsimp only
  repeat' first | rfl | split
@[simp] theorem State.post_boom (s : State) (q idx : Nat) (items : List (Nat × Nat)) : (s.post q idx items).boom = s.boom :=
  State.postV_boom ..
@[simp] theorem State.postV_eports (s : State) (q idx : Nat) (items : List (Nat × Nat)) (vec : Option Nat) :
    (s.postV q idx items vec).eports = s.eports := by
  unfold State.postV
  dsimp only
  repeat' first | rfl | split
@[simp] theorem State.post_eports (s : State) (q idx : Nat) (items : List (Nat × Nat)) : (s.post q idx items).eports = s.eports :=
  State.postV_eports ..
@[simp] theorem State.postV_lports (s : State) (q idx : Nat) (items : List (Nat × Nat)) (vec : Option Nat) :
    (s.postV q idx items vec).lports = s.lports := by
  unfold State.postV
  dsimp only
  repeat' first | rfl | split
@[simp] theorem State.post_lports (s : State) (q idx : Nat) (items : List (Nat × Nat)) : (s.post q idx items).lports = s.lports :=
  State.postV_lports ..
@[simp] theorem State.postV_quads (s : State) (q idx : Nat) (items : List (Nat × Nat)) (vec : Option Nat) :
    (s.postV q idx items vec).quads = s.quads := by
  unfold State.postV
  dsimp only
  repeat' first | rfl | split
@[simp] theorem State.post_quads (s : State) (q idx : Nat) (items : List (Nat × Nat)) : (s.post q idx items).quads = s.quads :=
  State.postV_quads ..
@[simp] theorem State.postV_dies (s : State) (q idx : Nat) (items : List (Nat × Nat)) (vec : Option Nat) :
    (s.postV q idx items vec).dies = s.dies := by
  unfold State.postV
  dsimp only
  repeat' first | rfl | split
@[simp] theorem State.post_dies (s : State) (q idx : Nat) (items : List (Nat × Nat)) : (s.post q idx items).dies = s.dies :=
  State.postV_dies ..
@[simp] theorem State.postV_units (s : State) (q idx : Nat) (items : List (Nat × Nat)) (vec : Option Nat) :
    (s.postV q idx items vec).units = s.units := by
  unfold State.postV
  dsimp only
  repeat' first | rfl | split
@[simp] theorem State.post_units (s : State) (q idx : Nat) (items : List (Nat × Nat)) : (s.post q idx items).units = s.units :=
  State.postV_units ..
@[simp] theorem State.postV_twin (s : State) (q idx : Nat) (items : List (Nat × Nat)) (vec : Option Nat) :
    (s.postV q idx items vec).twin = s.twin := by
  unfold State.postV
  dsimp only
  repeat' first | rfl | split
@[simp] theorem State.post_twin (s : State) (q idx : Nat) (items : List (Nat × Nat)) : (s.post q idx items).twin = s.twin :=
  State.postV_twin ..
@[simp] theorem State.postV_power (s : State) (q idx : Nat) (items : List (Nat × Nat)) (vec : Option Nat) :
    (s.postV q idx items vec).power = s.power := by
  unfold State.postV
  dsimp only
  repeat' first | rfl | split
@[simp] theorem State.post_power (s : State) (q idx : Nat) (items : List (Nat × Nat)) : (s.post q idx items).power = s.power :=
  State.postV_power ..

end Sys2Proof.Machine
end

