-- ==== Sys2Proof/Laws/Mailbox.lean ====
section
/-! SUPPORT. The mailbox: a management read leaves the management state alone, and a submission keeps what every command
keeps (R381). -/
namespace Sys2Proof.Machine

/-- Drawing a free value leaves the management state alone. -/
@[simp] theorem State.drawNat_mgmt (s : State) (n : Nat) : (s.drawNat n).2.mgmt = s.mgmt := rfl

/-- Healing a mirrored word leaves the management state alone. -/
@[simp] theorem State.mirrorWord_mgmt (s : State) (a : Nat) : (s.mirrorWord a).mgmt = s.mgmt := by
  unfold State.mirrorWord
  split
  · rfl
  · split
    · rfl
    · dsimp only
      split <;> rfl

/-- A read of mirrored memory leaves the management state alone. -/
@[simp] theorem State.mirrorHeal_mgmt (s : State) (a n : Nat) : (s.mirrorHeal a n).mgmt = s.mgmt := by
  unfold State.mirrorHeal
  split
  · rfl
  · next h =>
    clear h
    generalize List.range (n / 4 + 1) = l
    induction l generalizing s with
    | nil => rfl
    | cons x t ih => rw [List.foldl_cons, ih, State.mirrorWord_mgmt]

/-- A read of an aperture leaves the management state alone. -/
@[simp] theorem State.apReads_mgmt (s : State) (a n : Nat) : (s.apReads a n).2.2.mgmt = s.mgmt := by
  induction n generalizing s a with
  | zero => rfl
  | succ n ih =>
    unfold State.apReads
    dsimp only
    rw [ih]
    split
    · split <;> rfl
    · rfl
    · rfl

/-- A read of the device memory space leaves the management state alone. -/
@[simp] theorem State.spaceRead_mgmt (s : State) (a n : Nat) : (s.spaceRead a n).2.2.mgmt = s.mgmt := by
  unfold State.spaceRead
  by_cases h : a < dramEnd
  · rw [if_pos h]
    exact s.mirrorHeal_mgmt a n
  · rw [if_neg h]
    exact s.apReads_mgmt _ _

/-- A submission whose descriptor has been read as `r` keeps the mailbox within its 64 commands, and everything else that every
command keeps. -/
theorem kept_submitRead {s0 : State} (s : State) (a origin : Nat) (r : List Byte × SpaceErr × State) (hl : s.mgmt.mbox.length < 64)
    (h : Kept s0 r.2.2) (hm : r.2.2.mgmt = s.mgmt) :
    Kept s0 (if r.2.1 = .ue then r.2.2.mboxDone 0 0x0B
      else if !knownCmd (byteAt r.1 0) then r.2.2.mboxDone (byteAt r.1 0) 1
      else { r.2.2 with mgmt.mbox := r.2.2.mgmt.mbox ++ [{ addr := a, desc := r.1, origin := origin }] }) := by
  split
  · exact kept_mboxDone (hk := h) ..
  · split
    · exact kept_mboxDone (hk := h) ..
    · refine ⟨h.pending, h.raw, h.out, h.mem, fun _ => ?_, h.boot⟩
      simp only [State.mboxOk, List.length_append, List.length_singleton, hm, decide_eq_true_eq]
      omega

/-- A submission keeps what every command keeps. -/
theorem kept_mboxSubmit {s0 : State} (s : State) (hi : Word) (origin : Nat) (hk : Kept s0 s) :
    Kept s0 (s.mboxSubmit hi origin) := by
  unfold State.mboxSubmit
  dsimp only
  split
  · exact hk
  · split
    · exact kept_putRw (hk := hk) ..
    · exact kept_submitRead s _ origin _ (by omega) (kept_spaceRead (hk := hk) ..) (s.spaceRead_mgmt _ _)

end Sys2Proof.Machine
end

