-- ==== Sys2Proof/Laws/KeptRegOps.lean ====
section
/-! SUPPORT. What the operations of RegOps.lean keep (Laws/Kept.lean). -/
namespace Sys2Proof.Machine
set_option linter.all false

theorem kept_readLatch {s0 : State} (s : State) (off : Nat) (hk : Kept s0 s)  : Kept s0 (State.readLatch s off) := by
  unfold State.readLatch
  repeat' first
    | with_reducible assumption
    | with_reducible first
        | apply kept_emit
    | ((try lift_lets -underBinder); intro x; clear_value (hx : x = _); first
        | refine Kept.cut (s := s0) hx ?_ (fun kx => ?_)
        | refine Kept.cut2 (s := s0) hx ?_ (fun kx => ?_)
        | (have : Mgmt := x; subst hx)
        | clear hx)
    | with_reducible refine kept_foldl _ _ _ ?_ (fun t a kt => ?_)
    | intro _
    | split
    | (with_reducible first | apply Kept.upd | apply Kept.updM | apply Kept.updT | apply Kept.updTM) <;> with_reducible first | assumption | apply kept_emit

theorem kept_readWindow {s0 : State} (s : State) (off : Nat) (hk : Kept s0 s)  : Kept s0 (State.readWindow s off) := by
  unfold State.readWindow
  repeat' first
    | with_reducible assumption
    | with_reducible first
        | apply kept_apReads
        | apply kept_emit
    | ((try lift_lets -underBinder); intro x; clear_value (hx : x = _); first
        | refine Kept.cut (s := s0) hx ?_ (fun kx => ?_)
        | refine Kept.cut2 (s := s0) hx ?_ (fun kx => ?_)
        | (have : Mgmt := x; subst hx)
        | clear hx)
    | split
    | (with_reducible first | apply Kept.upd | apply Kept.updM | apply Kept.updT | apply Kept.updTM) <;> with_reducible first | assumption | apply kept_apReads | apply kept_emit

theorem kept_peekReg {s0 : State} (s : State) (off : Nat) (hk : Kept s0 s)  : Kept s0 (State.peekReg s off).2 := by
  unfold State.peekReg
  repeat' first
    | with_reducible assumption
    | with_reducible first
        | apply kept_drawNat
    | ((try lift_lets -underBinder); intro x; clear_value (hx : x = _); first
        | refine Kept.cut (s := s0) hx ?_ (fun kx => ?_)
        | refine Kept.cut2 (s := s0) hx ?_ (fun kx => ?_)
        | (have : Mgmt := x; subst hx)
        | clear hx)
    | split
    | (with_reducible first | apply Kept.upd | apply Kept.updM | apply Kept.updT | apply Kept.updTM) <;> with_reducible first | assumption | apply kept_drawNat

theorem kept_peekWord {s0 : State} (s : State) (off : Nat) (hk : Kept s0 s)  : Kept s0 (State.peekWord s off).2 := by
  have cut : ∀ (c : Prop) [Decidable c] (a b : Option Word × State), Kept s0 a.2 → Kept s0 b.2 → Kept s0 (if c then a else b).2 := by
    intro c _ a b ha hb
    split
    · exact ha
    · exact hb
  have fst : ∀ (o : Option Word) (t : State), Kept s0 t → Kept s0 (o, t).2 := fun _ _ h => h
  have hap : Kept s0 (s.apReads (s.windowAddr off) 1).2.2 := kept_apReads (hk := hk) ..
  have hpk : Kept s0 (s.peekReg off).2 := kept_peekReg (hk := hk) ..
  unfold State.peekWord
  refine cut _ _ _ ?_ (cut _ _ _ ?_ ?_)
  · exact fst _ _ hap
  · exact fst _ _ hk
  · exact fst _ _ hpk

theorem kept_readNarrow {s0 : State} (s : State) (w : Nat) (m : Word) (hk : Kept s0 s)  : Kept s0 (State.readNarrow s w m) := by
  unfold State.readNarrow
  repeat' first
    | with_reducible assumption
    | with_reducible first
        | apply kept_peekWord
        | apply kept_emit
    | ((try lift_lets -underBinder); intro x; clear_value (hx : x = _); first
        | refine Kept.cut (s := s0) hx ?_ (fun kx => ?_)
        | refine Kept.cut2 (s := s0) hx ?_ (fun kx => ?_)
        | (have : Mgmt := x; subst hx)
        | clear hx)
    | split
    | (with_reducible first | apply Kept.upd | apply Kept.updM | apply Kept.updT | apply Kept.updTM) <;> with_reducible first | assumption | apply kept_peekWord | apply kept_emit

theorem kept_readFull {s0 : State} (s : State) (off : Nat) (hk : Kept s0 s)  : Kept s0 (State.readFull s off) := by
  unfold State.readFull
  repeat' first
    | with_reducible assumption
    | with_reducible first
        | apply kept_readLatch
        | apply kept_readWindow
        | apply kept_evqRead
        | apply kept_peekReg
        | apply kept_emit
        | apply kept_captureRead
    | ((try lift_lets -underBinder); intro x; clear_value (hx : x = _); first
        | refine Kept.cut (s := s0) hx ?_ (fun kx => ?_)
        | refine Kept.cut2 (s := s0) hx ?_ (fun kx => ?_)
        | (have : Mgmt := x; subst hx)
        | clear hx)
    | split
    | (with_reducible first | apply Kept.upd | apply Kept.updM | apply Kept.updT | apply Kept.updTM) <;> with_reducible first | assumption | apply kept_readLatch | apply kept_readWindow | apply kept_evqRead | apply kept_peekReg | apply kept_emit | apply kept_captureRead

theorem kept_readBar2 {s0 : State} (s : State) (w : Nat) (m : Word) (hk : Kept s0 s)  : Kept s0 (State.readBar2 s w m) := by
  unfold State.readBar2
  repeat' first
    | with_reducible assumption
    | with_reducible first
        | apply kept_spaceRead
        | apply kept_emit
    | ((try lift_lets -underBinder); intro x; clear_value (hx : x = _); first
        | refine Kept.cut (s := s0) hx ?_ (fun kx => ?_)
        | refine Kept.cut2 (s := s0) hx ?_ (fun kx => ?_)
        | (have : Mgmt := x; subst hx)
        | clear hx)
    | split
    | (with_reducible first | apply Kept.upd | apply Kept.updM | apply Kept.updT | apply Kept.updTM) <;> with_reducible first | assumption | apply kept_spaceRead | apply kept_emit

theorem kept_writeBar2 {s0 : State} (s : State) (a : Nat) (n : Nat) (b : List Byte) (hk : Kept s0 s)  : Kept s0 (State.writeBar2 s a n b) := by
  unfold State.writeBar2
  repeat' first
    | with_reducible assumption
    | with_reducible first
        | apply kept_apReads
        | apply kept_spaceWrite
        | apply kept_apWrite
    | ((try lift_lets -underBinder); intro x; clear_value (hx : x = _); first
        | refine Kept.cut (s := s0) hx ?_ (fun kx => ?_)
        | refine Kept.cut2 (s := s0) hx ?_ (fun kx => ?_)
        | refine Kept.cut3 (s := s0) hx ?_ (fun kx => ?_)
        | refine Kept.cut1 (s := s0) hx ?_ (fun kx => ?_)
        | refine DieKept.cut (s := s0) hx ?_ (fun kx => ?_)
        | (have : Mgmt := x; subst hx)
        | (have : TimeSt := x; subst hx)
        | clear hx)
    | with_reducible refine kept_foldl _ _ _ ?_ (fun t a kt => ?_)
    | with_reducible refine kept_foldl2 _ _ _ ?_ (fun t a kt => ?_)
    | intro _
    | split
    | (with_reducible first | apply Kept.upd | apply Kept.updM | apply Kept.updT | apply Kept.updTM) <;> with_reducible first | assumption | apply kept_apReads | apply kept_spaceWrite | apply kept_apWrite

theorem kept_readReg {s0 : State} (s : State) (off : Nat) (size : Nat) (hk : Kept s0 s)  : Kept s0 (State.readReg s off size) := by
  unfold State.readReg
  repeat' first
    | with_reducible assumption
    | with_reducible first
        | apply kept_readFull
        | apply kept_readBar2
        | apply kept_readNarrow
    | ((try lift_lets -underBinder); intro x; clear_value (hx : x = _); first
        | refine Kept.cut (s := s0) hx ?_ (fun kx => ?_)
        | refine Kept.cut2 (s := s0) hx ?_ (fun kx => ?_)
        | (have : Mgmt := x; subst hx)
        | clear hx)
    | with_reducible refine kept_foldl _ _ _ ?_ (fun t a kt => ?_)
    | intro _
    | split
    | (with_reducible first | apply Kept.upd | apply Kept.updM | apply Kept.updT | apply Kept.updTM) <;> with_reducible first | assumption | apply kept_readFull | apply kept_readBar2 | apply kept_readNarrow

theorem kept_holdLo {s0 : State} (s : State) (off : Nat) (val : Word) (hk : Kept s0 s)  : Kept s0 (State.holdLo s off val) := by
  unfold State.holdLo
  exact Kept.upd hk

theorem kept_masterWrite {s0 : State} (s : State) (e : Nat) (hi : Word) (hk : Kept s0 s)  : Kept s0 (State.masterWrite s e hi) := by
  unfold State.masterWrite
  repeat' first
    | with_reducible assumption
    | with_reducible first
        | apply kept_setRw
        | apply kept_ptpFirst
    | ((try lift_lets -underBinder); intro x; clear_value (hx : x = _); first
        | refine Kept.cut (s := s0) hx ?_ (fun kx => ?_)
        | refine Kept.cut2 (s := s0) hx ?_ (fun kx => ?_)
        | refine Kept.cut3 (s := s0) hx ?_ (fun kx => ?_)
        | refine Kept.cut1 (s := s0) hx ?_ (fun kx => ?_)
        | refine DieKept.cut (s := s0) hx ?_ (fun kx => ?_)
        | (have : Mgmt := x; subst hx)
        | (have : TimeSt := x; subst hx)
        | clear hx)
    | with_reducible refine kept_foldl _ _ _ ?_ (fun t a kt => ?_)
    | with_reducible refine kept_foldl2 _ _ _ ?_ (fun t a kt => ?_)
    | intro _
    | split
    | (with_reducible first | apply Kept.upd | apply Kept.updM | apply Kept.updT | apply Kept.updTM) <;> with_reducible first | assumption | apply kept_setRw | apply kept_ptpFirst

theorem kept_ptpWrite {s0 : State} (s : State) (e : Nat) (w : Nat) (val : Word) (hk : Kept s0 s)  : Kept s0 (State.ptpWrite s e w val) := by
  unfold State.ptpWrite
  repeat' first
    | with_reducible assumption
    | with_reducible first
        | apply kept_ptpArm
        | apply kept_plainWrite
        | apply kept_masterWrite
        | apply kept_ptpFirst
        | apply kept_holdLo
    | ((try lift_lets -underBinder); intro x; clear_value (hx : x = _); first
        | refine Kept.cut (s := s0) hx ?_ (fun kx => ?_)
        | refine Kept.cut2 (s := s0) hx ?_ (fun kx => ?_)
        | (have : Mgmt := x; subst hx)
        | clear hx)
    | split
    | (with_reducible first | apply Kept.upd | apply Kept.updM | apply Kept.updT | apply Kept.updTM) <;> with_reducible first | assumption | apply kept_ptpArm | apply kept_plainWrite | apply kept_masterWrite | apply kept_ptpFirst | apply kept_holdLo

theorem kept_writeGctl {s0 : State} (s : State) (off : Nat) (val : Word) (origin : Nat) (hk : Kept s0 s)  : Kept s0 (State.writeGctl s off val origin) := by
  unfold State.writeGctl
  repeat' first
    | with_reducible assumption
    | with_reducible first
        | apply kept_dmaStop
        | apply kept_mboxSubmit
        | apply kept_goCommit
        | apply kept_plainWrite
        | apply kept_dmaGo
        | apply kept_act
        | apply kept_holdLo
    | ((try lift_lets -underBinder); intro x; clear_value (hx : x = _); first
        | refine Kept.cut (s := s0) hx ?_ (fun kx => ?_)
        | refine Kept.cut2 (s := s0) hx ?_ (fun kx => ?_)
        | (have : Mgmt := x; subst hx)
        | clear hx)
    | split
    | (with_reducible first | apply Kept.upd | apply Kept.updM | apply Kept.updT | apply Kept.updTM) <;> with_reducible first | assumption | apply kept_dmaStop | apply kept_mboxSubmit | apply kept_goCommit | apply kept_plainWrite | apply kept_dmaGo | apply kept_act | apply kept_holdLo

theorem kept_writeTime {s0 : State} (s : State) (off : Nat) (val : Word) (origin : Nat) (hk : Kept s0 s)  : Kept s0 (State.writeTime s off val origin) := by
  unfold State.writeTime
  repeat' first
    | with_reducible assumption
    | with_reducible first
        | apply kept_incWrite
        | apply kept_plainWrite
        | apply kept_stepWrite
        | apply kept_act
        | apply kept_ptpWrite
    | ((try lift_lets -underBinder); intro x; clear_value (hx : x = _); first
        | refine Kept.cut (s := s0) hx ?_ (fun kx => ?_)
        | refine Kept.cut2 (s := s0) hx ?_ (fun kx => ?_)
        | refine Kept.cut3 (s := s0) hx ?_ (fun kx => ?_)
        | refine Kept.cut1 (s := s0) hx ?_ (fun kx => ?_)
        | refine DieKept.cut (s := s0) hx ?_ (fun kx => ?_)
        | (have : Mgmt := x; subst hx)
        | (have : TimeSt := x; subst hx)
        | clear hx)
    | with_reducible refine kept_foldl _ _ _ ?_ (fun t a kt => ?_)
    | with_reducible refine kept_foldl2 _ _ _ ?_ (fun t a kt => ?_)
    | intro _
    | split
    | (with_reducible first | apply Kept.upd | apply Kept.updM | apply Kept.updT | apply Kept.updTM) <;> with_reducible first | assumption | apply kept_incWrite | apply kept_plainWrite | apply kept_stepWrite | apply kept_act | apply kept_ptpWrite

theorem kept_writeReg {s0 : State} (s : State) (off : Nat) (val : Word) (origin : Nat) (hk : Kept s0 s)  : Kept s0 (State.writeReg s off val origin) := by
  unfold State.writeReg
  repeat' first
    | with_reducible assumption
    | with_reducible first
        | apply kept_jrnlExport
        | apply kept_writeGctl
        | apply kept_adoptCmd
        | apply kept_plainWrite
        | apply kept_act
        | apply kept_holdLo
        | apply kept_commitBoundary
        | apply kept_apWrite
        | apply kept_writeTime
    | ((try lift_lets -underBinder); intro x; clear_value (hx : x = _); first
        | refine Kept.cut (s := s0) hx ?_ (fun kx => ?_)
        | refine Kept.cut2 (s := s0) hx ?_ (fun kx => ?_)
        | (have : Mgmt := x; subst hx)
        | clear hx)
    | split
    | (with_reducible first | apply Kept.upd | apply Kept.updM | apply Kept.updT | apply Kept.updTM) <;> with_reducible first | assumption | apply kept_jrnlExport | apply kept_writeGctl | apply kept_adoptCmd | apply kept_plainWrite | apply kept_act | apply kept_holdLo | apply kept_commitBoundary | apply kept_apWrite | apply kept_writeTime

theorem kept_writeBytes {s0 : State} (s : State) (off : Nat) (size : Nat) (val : BitVec 64) (origin : Nat) (hk : Kept s0 s)  : Kept s0 (State.writeBytes s off size val origin) := by
  unfold State.writeBytes
  repeat' first
    | with_reducible assumption
    | with_reducible first
        | apply kept_writeBar2
        | apply kept_writeReg
    | ((try lift_lets -underBinder); intro x; clear_value (hx : x = _); first
        | refine Kept.cut (s := s0) hx ?_ (fun kx => ?_)
        | refine Kept.cut2 (s := s0) hx ?_ (fun kx => ?_)
        | (have : Mgmt := x; subst hx)
        | clear hx)
    | with_reducible refine kept_foldl _ _ _ ?_ (fun t a kt => ?_)
    | intro _
    | split
    | (with_reducible first | apply Kept.upd | apply Kept.updM | apply Kept.updT | apply Kept.updTM) <;> with_reducible first | assumption | apply kept_writeBar2 | apply kept_writeReg

end Sys2Proof.Machine
end

