-- ==== Sys2Proof/Laws/KeptTime.lean ====
section
/-! SUPPORT. What the operations of Time.lean keep (Laws/Kept.lean). -/
namespace Sys2Proof.Machine
set_option linter.all false

theorem kept_leaveTick {s0 : State} (s : State) (hk : Kept s0 s)  : Kept s0 (State.leaveTick s) := by
  unfold State.leaveTick
  repeat' first
    | with_reducible assumption
    | with_reducible first
        | apply kept_leaveService
    | ((try lift_lets -underBinder); intro x; clear_value (hx : x = _); first
        | refine Kept.cut (s := s0) hx ?_ (fun kx => ?_)
        | refine Kept.cut2 (s := s0) hx ?_ (fun kx => ?_)
        | (have : Mgmt := x; subst hx)
        | clear hx)
    | split
    | (with_reducible first | apply Kept.upd | apply Kept.updM | apply Kept.updT | apply Kept.updTM) <;> with_reducible first | assumption | apply kept_leaveService

theorem kept_vresetTick {s0 : State} (s : State) (hk : Kept s0 s)  : Kept s0 (State.vresetTick s) := by
  unfold State.vresetTick
  repeat' first
    | with_reducible assumption
    | with_reducible first
        | apply kept_boardReset
    | ((try lift_lets -underBinder); intro x; clear_value (hx : x = _); first
        | refine Kept.cut (s := s0) hx ?_ (fun kx => ?_)
        | refine Kept.cut2 (s := s0) hx ?_ (fun kx => ?_)
        | (have : Mgmt := x; subst hx)
        | clear hx)
    | split
    | (with_reducible first | apply Kept.upd | apply Kept.updM | apply Kept.updT | apply Kept.updTM) <;> with_reducible first | assumption | apply kept_boardReset

theorem kept_softTick {s0 : State} (s : State) (hk : Kept s0 s)  : Kept s0 (State.softTick s) := by
  unfold State.softTick
  repeat' first
    | with_reducible assumption
    | with_reducible first
        | apply kept_softResetNow
    | ((try lift_lets -underBinder); intro x; clear_value (hx : x = _); first
        | refine Kept.cut (s := s0) hx ?_ (fun kx => ?_)
        | refine Kept.cut2 (s := s0) hx ?_ (fun kx => ?_)
        | (have : Mgmt := x; subst hx)
        | clear hx)
    | split
    | (with_reducible first | apply Kept.upd | apply Kept.updM | apply Kept.updT | apply Kept.updTM) <;> with_reducible first | assumption | apply kept_softResetNow

theorem kept_tickWork {s0 : State} (s : State) (hk : Kept s0 s)  : Kept s0 (State.tickWork s) := by
  unfold State.tickWork
  repeat' first
    | with_reducible assumption
    | with_reducible first
        | apply kept_markTokens
        | apply kept_egressTick
        | apply kept_holdDue
        | apply kept_softTick
        | apply kept_genStarts
        | apply kept_boundaryDue
        | apply kept_membersBack
        | apply kept_idleDue
        | apply kept_openWindows
        | apply kept_leaveTick
        | apply kept_ctxSettles
    | ((try lift_lets -underBinder); intro x; clear_value (hx : x = _); first
        | refine Kept.cut (s := s0) hx ?_ (fun kx => ?_)
        | refine Kept.cut2 (s := s0) hx ?_ (fun kx => ?_)
        | refine Kept.cut3 (s := s0) hx ?_ (fun kx => ?_)
        | refine Kept.cut1 (s := s0) hx ?_ (fun kx => ?_)
        | refine DieKept.cut (s := s0) hx ?_ (fun kx => ?_)
        | (have : Mgmt := x; subst hx)
        | (have : TimeSt := x; subst hx)
        | clear hx)
    | with_reducible refine kept_foldl _ _ _ ?_ (fun t a kt => ?_)
    | with_reducible refine kept_foldl2 _ _ _ ?_ (fun t a kt => ?_)
    | intro _
    | split
    | (with_reducible first | apply Kept.upd | apply Kept.updM | apply Kept.updT | apply Kept.updTM) <;> with_reducible first | assumption | apply kept_markTokens | apply kept_egressTick | apply kept_holdDue | apply kept_softTick | apply kept_genStarts | apply kept_boundaryDue | apply kept_membersBack | apply kept_idleDue | apply kept_openWindows | apply kept_leaveTick | apply kept_ctxSettles

end Sys2Proof.Machine
end

