-- ==== Sys2Proof/Laws/KeptExec.lean ====
section
/-! SUPPORT. What every command keeps: the queue of waiting commands, the raw counter, what has left the device, the canonical
form of the memories and the bound of the mailbox (Laws/Kept.lean). POWER_ON, AON_LOSS and COLD_START set the raw counter. -/
namespace Sys2Proof.Machine
set_option linter.all false

theorem kept_exec_registerWrite (s t : State) {off} {size} {val} (h : exec (.registerWrite off size val) s = .next t) : Kept s t := by
  unfold exec at h; dsimp only at h; unfold execRegisterWrite at h; cases h
  repeat' first | with_reducible exact Kept.refl _ | with_reducible assumption | with_reducible apply kept_overPcie | with_reducible apply kept_writeBytes | split | intro _ | (with_reducible first | apply Kept.upd | apply Kept.updM | apply Kept.updT | apply Kept.updTM)

theorem kept_exec_reg64LoRead (s t : State) {a} (h : exec (.reg64LoRead a) s = .next t) : Kept s t := by
  unfold exec at h; dsimp only at h; unfold execReg64LoRead at h; cases h
  repeat' first | with_reducible exact Kept.refl _ | with_reducible assumption | with_reducible apply kept_overPcie | with_reducible apply kept_readReg | split | intro _ | (with_reducible first | apply Kept.upd | apply Kept.updM | apply Kept.updT | apply Kept.updTM)

theorem kept_exec_reg64LoWrite (s t : State) {off} {val} (h : exec (.reg64LoWrite off val) s = .next t) : Kept s t := by
  unfold exec at h; dsimp only at h; unfold execReg64LoWrite at h; cases h
  repeat' first | with_reducible exact Kept.refl _ | with_reducible assumption | with_reducible apply kept_overPcie | with_reducible apply kept_writeReg | split | intro _ | (with_reducible first | apply Kept.upd | apply Kept.updM | apply Kept.updT | apply Kept.updTM)

theorem kept_exec_reg64HiWrite (s t : State) {off} {val} (h : exec (.reg64HiWrite off val) s = .next t) : Kept s t := by
  unfold exec at h; dsimp only at h; unfold execReg64HiWrite at h; cases h
  repeat' first | with_reducible exact Kept.refl _ | with_reducible assumption | with_reducible apply kept_overPcie | with_reducible apply kept_writeReg | split | intro _ | (with_reducible first | apply Kept.upd | apply Kept.updM | apply Kept.updT | apply Kept.updTM)

theorem kept_exec_seqInfoRead (s t : State) {die} (h : exec (.seqInfoRead die) s = .next t) : Kept s t := by
  unfold exec at h; dsimp only at h; unfold execSeqInfoRead at h; cases h
  repeat' first | with_reducible exact Kept.refl _ | with_reducible assumption | with_reducible apply kept_overPcie | with_reducible apply kept_readReg | split | intro _ | (with_reducible first | apply Kept.upd | apply Kept.updM | apply Kept.updT | apply Kept.updTM)

theorem kept_exec_convInfoRead (s t : State) (h : exec (.convInfoRead) s = .next t) : Kept s t := by
  unfold exec at h; dsimp only at h; unfold execConvInfoRead at h; cases h
  repeat' first | with_reducible exact Kept.refl _ | with_reducible assumption | with_reducible apply kept_overPcie | with_reducible apply kept_readReg | split | intro _ | (with_reducible first | apply Kept.upd | apply Kept.updM | apply Kept.updT | apply Kept.updTM)

theorem kept_exec_mapentRead (s t : State) (h : exec (.mapentRead) s = .next t) : Kept s t := by
  unfold exec at h; dsimp only at h; unfold execMapentRead at h; cases h
  repeat' first | with_reducible exact Kept.refl _ | with_reducible assumption | with_reducible apply kept_overPcie | with_reducible apply kept_readReg | split | intro _ | (with_reducible first | apply Kept.upd | apply Kept.updM | apply Kept.updT | apply Kept.updTM)

theorem kept_exec_timeNowRead (s t : State) (h : exec (.timeNowRead) s = .next t) : Kept s t := by
  unfold exec at h; dsimp only at h; unfold execTimeNowRead at h; cases h
  repeat' first | with_reducible exact Kept.refl _ | with_reducible assumption | with_reducible apply kept_overPcie | with_reducible apply kept_readReg | split | intro _ | (with_reducible first | apply Kept.upd | apply Kept.updM | apply Kept.updT | apply Kept.updTM)

theorem kept_exec_commitGo (s t : State) (h : exec (.commitGo) s = .next t) : Kept s t := by
  unfold exec at h; dsimp only at h; unfold execCommitGo at h; cases h
  repeat' first | with_reducible exact Kept.refl _ | with_reducible assumption | with_reducible apply kept_goCommit | split | intro _ | (with_reducible first | apply Kept.upd | apply Kept.updM | apply Kept.updT | apply Kept.updTM)

theorem kept_exec_commitValidated (s t : State) (h : exec (.commitValidated) s = .next t) : Kept s t := by
  unfold exec at h; dsimp only at h; unfold execCommitValidated at h; cases h
  repeat' first | with_reducible exact Kept.refl _ | with_reducible assumption | with_reducible apply kept_commitValidated | split | intro _ | (with_reducible first | apply Kept.upd | apply Kept.updM | apply Kept.updT | apply Kept.updTM)

theorem kept_exec_commitApply (s t : State) (h : exec (.commitApply) s = .next t) : Kept s t := by
  unfold exec at h; dsimp only at h; unfold execCommitApply at h; cases h
  repeat' first | with_reducible exact Kept.refl _ | with_reducible assumption | with_reducible apply kept_commitBoundary | split | intro _ | (with_reducible first | apply Kept.upd | apply Kept.updM | apply Kept.updT | apply Kept.updTM)

theorem kept_exec_modeGapEnd (s t : State) {handle} {copy} (h : exec (.modeGapEnd handle copy) s = .next t) : Kept s t := by
  unfold exec at h; dsimp only at h; unfold execModeGapEnd at h; cases h
  repeat' first | with_reducible exact Kept.refl _ | with_reducible assumption | with_reducible apply kept_modeGapEnd | split | intro _ | (with_reducible first | apply Kept.upd | apply Kept.updM | apply Kept.updT | apply Kept.updTM)

theorem kept_exec_frameReceive (s t : State) {f} (h : exec (.frameReceive f) s = .next t) : Kept s t := by
  unfold exec at h; dsimp only at h; unfold execFrameReceive at h; cases h
  repeat' first | with_reducible exact Kept.refl _ | with_reducible assumption | with_reducible apply kept_frameReceive | split | intro _ | (with_reducible first | apply Kept.upd | apply Kept.updM | apply Kept.updT | apply Kept.updTM)

theorem kept_exec_headStart (s t : State) {frame} (h : exec (.headStart frame) s = .next t) : Kept s t := by
  unfold exec at h; dsimp only at h; unfold execHeadStart at h; cases h
  repeat' first | with_reducible exact Kept.refl _ | with_reducible assumption | with_reducible apply kept_headStart | split | intro _ | (with_reducible first | apply Kept.upd | apply Kept.updM | apply Kept.updT | apply Kept.updTM)

theorem kept_exec_headResume (s t : State) {frame} {handed} {ended} (h : exec (.headResume frame handed ended) s = .next t) : Kept s t := by
  unfold exec at h; dsimp only at h; unfold execHeadResume at h; cases h
  repeat' first | with_reducible exact Kept.refl _ | with_reducible assumption | with_reducible apply kept_headResume | with_reducible apply kept_lateDispatch | split | intro _ | (with_reducible first | apply Kept.upd | apply Kept.updM | apply Kept.updT | apply Kept.updTM)

theorem kept_exec_prsNop (s t : State) {head} (h : exec (.prsNop head) s = .next t) : Kept s t := by
  unfold exec at h; dsimp only at h; unfold execPrsNop at h; cases h
  repeat' first | with_reducible exact Kept.refl _ | with_reducible assumption | with_reducible apply kept_prs | split | intro _ | (with_reducible first | apply Kept.upd | apply Kept.updM | apply Kept.updT | apply Kept.updTM)

theorem kept_exec_prsLd (s t : State) {head} (h : exec (.prsLd head) s = .next t) : Kept s t := by
  unfold exec at h; dsimp only at h; unfold execPrsLd at h; cases h
  repeat' first | with_reducible exact Kept.refl _ | with_reducible assumption | with_reducible apply kept_prs | split | intro _ | (with_reducible first | apply Kept.upd | apply Kept.updM | apply Kept.updT | apply Kept.updTM)

theorem kept_exec_prsLi (s t : State) {head} (h : exec (.prsLi head) s = .next t) : Kept s t := by
  unfold exec at h; dsimp only at h; unfold execPrsLi at h; cases h
  repeat' first | with_reducible exact Kept.refl _ | with_reducible assumption | with_reducible apply kept_prs | split | intro _ | (with_reducible first | apply Kept.upd | apply Kept.updM | apply Kept.updT | apply Kept.updTM)

theorem kept_exec_prsAdd (s t : State) {head} (h : exec (.prsAdd head) s = .next t) : Kept s t := by
  unfold exec at h; dsimp only at h; unfold execPrsAdd at h; cases h
  repeat' first | with_reducible exact Kept.refl _ | with_reducible assumption | with_reducible apply kept_prs | split | intro _ | (with_reducible first | apply Kept.upd | apply Kept.updM | apply Kept.updT | apply Kept.updTM)

theorem kept_exec_prsSub (s t : State) {head} (h : exec (.prsSub head) s = .next t) : Kept s t := by
  unfold exec at h; dsimp only at h; unfold execPrsSub at h; cases h
  repeat' first | with_reducible exact Kept.refl _ | with_reducible assumption | with_reducible apply kept_prs | split | intro _ | (with_reducible first | apply Kept.upd | apply Kept.updM | apply Kept.updT | apply Kept.updTM)

theorem kept_exec_prsAnd (s t : State) {head} (h : exec (.prsAnd head) s = .next t) : Kept s t := by
  unfold exec at h; dsimp only at h; unfold execPrsAnd at h; cases h
  repeat' first | with_reducible exact Kept.refl _ | with_reducible assumption | with_reducible apply kept_prs | split | intro _ | (with_reducible first | apply Kept.upd | apply Kept.updM | apply Kept.updT | apply Kept.updTM)

theorem kept_exec_prsOr (s t : State) {head} (h : exec (.prsOr head) s = .next t) : Kept s t := by
  unfold exec at h; dsimp only at h; unfold execPrsOr at h; cases h
  repeat' first | with_reducible exact Kept.refl _ | with_reducible assumption | with_reducible apply kept_prs | split | intro _ | (with_reducible first | apply Kept.upd | apply Kept.updM | apply Kept.updT | apply Kept.updTM)

theorem kept_exec_prsShr (s t : State) {head} (h : exec (.prsShr head) s = .next t) : Kept s t := by
  unfold exec at h; dsimp only at h; unfold execPrsShr at h; cases h
  repeat' first | with_reducible exact Kept.refl _ | with_reducible assumption | with_reducible apply kept_prs | split | intro _ | (with_reducible first | apply Kept.upd | apply Kept.updM | apply Kept.updT | apply Kept.updTM)

theorem kept_exec_prsShl (s t : State) {head} (h : exec (.prsShl head) s = .next t) : Kept s t := by
  unfold exec at h; dsimp only at h; unfold execPrsShl at h; cases h
  repeat' first | with_reducible exact Kept.refl _ | with_reducible assumption | with_reducible apply kept_prs | split | intro _ | (with_reducible first | apply Kept.upd | apply Kept.updM | apply Kept.updT | apply Kept.updTM)

theorem kept_exec_prsBfx (s t : State) {head} (h : exec (.prsBfx head) s = .next t) : Kept s t := by
  unfold exec at h; dsimp only at h; unfold execPrsBfx at h; cases h
  repeat' first | with_reducible exact Kept.refl _ | with_reducible assumption | with_reducible apply kept_prs | split | intro _ | (with_reducible first | apply Kept.upd | apply Kept.updM | apply Kept.updT | apply Kept.updTM)

theorem kept_exec_prsJ (s t : State) {head} (h : exec (.prsJ head) s = .next t) : Kept s t := by
  unfold exec at h; dsimp only at h; unfold execPrsJ at h; cases h
  repeat' first | with_reducible exact Kept.refl _ | with_reducible assumption | with_reducible apply kept_prs | split | intro _ | (with_reducible first | apply Kept.upd | apply Kept.updM | apply Kept.updT | apply Kept.updTM)

theorem kept_exec_prsJc (s t : State) {head} (h : exec (.prsJc head) s = .next t) : Kept s t := by
  unfold exec at h; dsimp only at h; unfold execPrsJc at h; cases h
  repeat' first | with_reducible exact Kept.refl _ | with_reducible assumption | with_reducible apply kept_prs | split | intro _ | (with_reducible first | apply Kept.upd | apply Kept.updM | apply Kept.updT | apply Kept.updTM)

theorem kept_exec_keyn (s t : State) {head} (h : exec (.keyn head) s = .next t) : Kept s t := by
  unfold exec at h; dsimp only at h; unfold execKeyn at h; cases h
  repeat' first | with_reducible exact Kept.refl _ | with_reducible assumption | with_reducible apply kept_prs | split | intro _ | (with_reducible first | apply Kept.upd | apply Kept.updM | apply Kept.updT | apply Kept.updTM)

theorem kept_exec_keyr (s t : State) {head} (h : exec (.keyr head) s = .next t) : Kept s t := by
  unfold exec at h; dsimp only at h; unfold execKeyr at h; cases h
  repeat' first | with_reducible exact Kept.refl _ | with_reducible assumption | with_reducible apply kept_prs | split | intro _ | (with_reducible first | apply Kept.upd | apply Kept.updM | apply Kept.updT | apply Kept.updTM)

theorem kept_exec_metaWrite (s t : State) {head} (h : exec (.metaWrite head) s = .next t) : Kept s t := by
  unfold exec at h; dsimp only at h; unfold execMetaWrite at h; cases h
  repeat' first | with_reducible exact Kept.refl _ | with_reducible assumption | with_reducible apply kept_prs | split | intro _ | (with_reducible first | apply Kept.upd | apply Kept.updM | apply Kept.updT | apply Kept.updTM)

theorem kept_exec_setf (s t : State) {head} (h : exec (.setf head) s = .next t) : Kept s t := by
  unfold exec at h; dsimp only at h; unfold execSetf at h; cases h
  repeat' first | with_reducible exact Kept.refl _ | with_reducible assumption | with_reducible apply kept_prs | split | intro _ | (with_reducible first | apply Kept.upd | apply Kept.updM | apply Kept.updT | apply Kept.updTM)

theorem kept_exec_chdr (s t : State) {head} (h : exec (.chdr head) s = .next t) : Kept s t := by
  unfold exec at h; dsimp only at h; unfold execChdr at h; cases h
  repeat' first | with_reducible exact Kept.refl _ | with_reducible assumption | with_reducible apply kept_prs | split | intro _ | (with_reducible first | apply Kept.upd | apply Kept.updM | apply Kept.updT | apply Kept.updTM)

theorem kept_exec_dispatch (s t : State) {head} (h : exec (.dispatch head) s = .next t) : Kept s t := by
  unfold exec at h; dsimp only at h; unfold execDispatch at h; cases h
  repeat' first | with_reducible exact Kept.refl _ | with_reducible assumption | with_reducible apply kept_dispatch | split | intro _ | (with_reducible first | apply Kept.upd | apply Kept.updM | apply Kept.updT | apply Kept.updTM)

theorem kept_exec_fail (s t : State) {head} (h : exec (.fail head) s = .next t) : Kept s t := by
  unfold exec at h; dsimp only at h; unfold execFail at h; cases h
  repeat' first | with_reducible exact Kept.refl _ | with_reducible assumption | with_reducible apply kept_prs | split | intro _ | (with_reducible first | apply Kept.upd | apply Kept.updM | apply Kept.updT | apply Kept.updTM)

theorem kept_exec_drop (s t : State) {head} (h : exec (.drop head) s = .next t) : Kept s t := by
  unfold exec at h; dsimp only at h; unfold execDrop at h; cases h
  repeat' first | with_reducible exact Kept.refl _ | with_reducible assumption | with_reducible apply kept_dropHead | split | intro _ | (with_reducible first | apply Kept.upd | apply Kept.updM | apply Kept.updT | apply Kept.updTM)

theorem kept_exec_messageRerun (s t : State) {frame} (h : exec (.messageRerun frame) s = .next t) : Kept s t := by
  unfold exec at h; dsimp only at h; unfold execMessageRerun at h; cases h
  repeat' first | with_reducible exact Kept.refl _ | with_reducible assumption | with_reducible apply kept_messageRerun | split | intro _ | (with_reducible first | apply Kept.upd | apply Kept.updM | apply Kept.updT | apply Kept.updTM)

theorem kept_exec_fecSyndromeResult (s t : State) {quad} {on} {zero} (h : exec (.fecSyndromeResult quad on zero) s = .next t) : Kept s t := by
  unfold exec at h; dsimp only at h; unfold execFecSyndromeResult at h; cases h
  repeat' first | with_reducible exact Kept.refl _ | with_reducible assumption | with_reducible apply kept_fecSyndrome | with_reducible apply kept_lateDispatch | split | intro _ | (with_reducible first | apply Kept.upd | apply Kept.updM | apply Kept.updT | apply Kept.updTM)

theorem kept_exec_fecCorrectionResult (s t : State) {quad} {on} {ok} (h : exec (.fecCorrectionResult quad on ok) s = .next t) : Kept s t := by
  unfold exec at h; dsimp only at h; unfold execFecCorrectionResult at h; cases h
  repeat' first | with_reducible exact Kept.refl _ | with_reducible assumption | with_reducible apply kept_fecCorrection | with_reducible apply kept_lateDispatch | split | intro _ | (with_reducible first | apply Kept.upd | apply Kept.updM | apply Kept.updT | apply Kept.updTM)

theorem kept_exec_fcsVerdict (s t : State) {frame} (h : exec (.fcsVerdict frame) s = .next t) : Kept s t := by
  unfold exec at h; dsimp only at h; unfold execFcsVerdict at h; cases h
  repeat' first | with_reducible exact Kept.refl _ | with_reducible assumption | with_reducible apply kept_fcsVerdict | split | intro _ | (with_reducible first | apply Kept.upd | apply Kept.updM | apply Kept.updT | apply Kept.updTM)

theorem kept_exec_specSuppress (s t : State) {quad} (h : exec (.specSuppress quad) s = .next t) : Kept s t := by
  unfold exec at h; dsimp only at h; unfold execSpecSuppress at h; cases h
  repeat' first | with_reducible exact Kept.refl _ | with_reducible assumption | with_reducible apply kept_specSuppress | split | intro _ | (with_reducible first | apply Kept.upd | apply Kept.updM | apply Kept.updT | apply Kept.updTM)

theorem kept_exec_specWindowEnd (s t : State) {quad} (h : exec (.specWindowEnd quad) s = .next t) : Kept s t := by
  unfold exec at h; dsimp only at h; unfold execSpecWindowEnd at h; cases h
  repeat' first | with_reducible exact Kept.refl _ | with_reducible assumption | with_reducible apply kept_specWindowEnd | split | intro _ | (with_reducible first | apply Kept.upd | apply Kept.updM | apply Kept.updT | apply Kept.updTM)

theorem kept_exec_replyBuild (s t : State) {reply} (h : exec (.replyBuild reply) s = .next t) : Kept s t := by
  unfold exec at h; dsimp only at h; unfold execReplyBuild at h; cases h
  repeat' first | with_reducible exact Kept.refl _ | with_reducible assumption | with_reducible apply kept_replyBuild | split | intro _ | (with_reducible first | apply Kept.upd | apply Kept.updM | apply Kept.updT | apply Kept.updTM)

theorem kept_exec_replyTransmitStart (s t : State) {reply} (h : exec (.replyTransmitStart reply) s = .next t) : Kept s t := by
  unfold exec at h; dsimp only at h; unfold execReplyTransmitStart at h; cases h
  repeat' first | with_reducible exact Kept.refl _ | with_reducible assumption | with_reducible apply kept_transmit | split | intro _ | (with_reducible first | apply Kept.upd | apply Kept.updM | apply Kept.updT | apply Kept.updTM)

theorem kept_exec_heldUnitDue (s t : State) {reply} (h : exec (.heldUnitDue reply) s = .next t) : Kept s t := by
  unfold exec at h; dsimp only at h; unfold execHeldUnitDue at h; cases h
  repeat' first | with_reducible exact Kept.refl _ | with_reducible assumption | with_reducible apply kept_heldUnitDue | split | intro _ | (with_reducible first | apply Kept.upd | apply Kept.updM | apply Kept.updT | apply Kept.updTM)

theorem kept_exec_extensionExhausted (s t : State) {reply} (h : exec (.extensionExhausted reply) s = .next t) : Kept s t := by
  unfold exec at h; dsimp only at h; unfold execExtensionExhausted at h; cases h
  repeat' first | with_reducible exact Kept.refl _ | with_reducible assumption | with_reducible apply kept_exhausted | split | intro _ | (with_reducible first | apply Kept.upd | apply Kept.updM | apply Kept.updT | apply Kept.updTM)

theorem kept_exec_reissue (s t : State) {reply} (h : exec (.reissue reply) s = .next t) : Kept s t := by
  unfold exec at h; dsimp only at h; unfold execReissue at h; cases h
  repeat' first | with_reducible exact Kept.refl _ | with_reducible assumption | with_reducible apply kept_reissue | split | intro _ | (with_reducible first | apply Kept.upd | apply Kept.updM | apply Kept.updT | apply Kept.updTM)

theorem kept_exec_noticeSend (s t : State) {reply} (h : exec (.noticeSend reply) s = .next t) : Kept s t := by
  unfold exec at h; dsimp only at h; unfold execNoticeSend at h; cases h
  repeat' first | with_reducible exact Kept.refl _ | with_reducible assumption | with_reducible apply kept_noticeSend | split | intro _ | (with_reducible first | apply Kept.upd | apply Kept.updM | apply Kept.updT | apply Kept.updTM)

theorem kept_exec_frameTruncated (s t : State) {frame} (h : exec (.frameTruncated frame) s = .next t) : Kept s t := by
  unfold exec at h; dsimp only at h; unfold execFrameTruncated at h; cases h
  repeat' first | with_reducible exact Kept.refl _ | with_reducible assumption | with_reducible apply kept_truncate | split | intro _ | (with_reducible first | apply Kept.upd | apply Kept.updM | apply Kept.updT | apply Kept.updTM)

theorem kept_exec_egressLinkLost (s t : State) {eport} (h : exec (.egressLinkLost eport) s = .next t) : Kept s t := by
  unfold exec at h; dsimp only at h; unfold execEgressLinkLost at h; cases h
  repeat' first | with_reducible exact Kept.refl _ | with_reducible assumption | with_reducible apply kept_egressLost | split | intro _ | (with_reducible first | apply Kept.upd | apply Kept.updM | apply Kept.updT | apply Kept.updTM)

theorem kept_exec_egressTimeout (s t : State) {reply} (h : exec (.egressTimeout reply) s = .next t) : Kept s t := by
  unfold exec at h; dsimp only at h; unfold execEgressTimeout at h; cases h
  repeat' first | with_reducible exact Kept.refl _ | with_reducible assumption | with_reducible apply kept_egressTimeout | split | intro _ | (with_reducible first | apply Kept.upd | apply Kept.updM | apply Kept.updT | apply Kept.updTM)

theorem kept_exec_gapTimerExpire (s t : State) {slot} (h : exec (.gapTimerExpire slot) s = .next t) : Kept s t := by
  unfold exec at h; dsimp only at h; unfold execGapTimerExpire at h; cases h
  repeat' first | with_reducible exact Kept.refl _ | with_reducible assumption | with_reducible apply kept_gapExpire | split | intro _ | (with_reducible first | apply Kept.upd | apply Kept.updM | apply Kept.updT | apply Kept.updTM)

theorem kept_exec_seqWaitTimeout (s t : State) {slot} (h : exec (.seqWaitTimeout slot) s = .next t) : Kept s t := by
  unfold exec at h; dsimp only at h; unfold execSeqWaitTimeout at h; cases h
  repeat' first | with_reducible exact Kept.refl _ | with_reducible assumption | with_reducible apply kept_seqWaitTimeout | split | intro _ | (with_reducible first | apply Kept.upd | apply Kept.updM | apply Kept.updT | apply Kept.updTM)

theorem kept_exec_admitQueueTimeout (s t : State) {slot} (h : exec (.admitQueueTimeout slot) s = .next t) : Kept s t := by
  unfold exec at h; dsimp only at h; unfold execAdmitQueueTimeout at h; cases h
  repeat' first | with_reducible exact Kept.refl _ | with_reducible assumption | with_reducible apply kept_queueTimeout | split | intro _ | (with_reducible first | apply Kept.upd | apply Kept.updM | apply Kept.updT | apply Kept.updTM)

theorem kept_exec_effectsApply (s t : State) {slot} (h : exec (.effectsApply slot) s = .next t) : Kept s t := by
  unfold exec at h; dsimp only at h; unfold execEffectsApply at h; cases h
  repeat' first | with_reducible exact Kept.refl _ | with_reducible assumption | with_reducible apply kept_effectsApply | split | intro _ | (with_reducible first | apply Kept.upd | apply Kept.updM | apply Kept.updT | apply Kept.updTM)

theorem kept_exec_replaySend (s t : State) {reply} (h : exec (.replaySend reply) s = .next t) : Kept s t := by
  unfold exec at h; dsimp only at h; unfold execReplaySend at h; cases h
  repeat' first | with_reducible exact Kept.refl _ | with_reducible assumption | with_reducible apply kept_transmit | split | intro _ | (with_reducible first | apply Kept.upd | apply Kept.updM | apply Kept.updT | apply Kept.updTM)

theorem kept_exec_convIdleClose (s t : State) {conv} (h : exec (.convIdleClose conv) s = .next t) : Kept s t := by
  unfold exec at h; dsimp only at h; unfold execConvIdleClose at h; cases h
  repeat' first | with_reducible exact Kept.refl _ | with_reducible assumption | with_reducible apply kept_idleClose | split | intro _ | (with_reducible first | apply Kept.upd | apply Kept.updM | apply Kept.updT | apply Kept.updTM)

theorem kept_exec_convLingerClose (s t : State) {conv} (h : exec (.convLingerClose conv) s = .next t) : Kept s t := by
  unfold exec at h; dsimp only at h; unfold execConvLingerClose at h; cases h
  repeat' first | with_reducible exact Kept.refl _ | with_reducible assumption | with_reducible apply kept_lingerClose | split | intro _ | (with_reducible first | apply Kept.upd | apply Kept.updM | apply Kept.updT | apply Kept.updTM)

theorem kept_exec_sampleAdmit (s t : State) {slot} (h : exec (.sampleAdmit slot) s = .next t) : Kept s t := by
  unfold exec at h; dsimp only at h; unfold execSampleAdmit at h; cases h
  repeat' first | with_reducible exact Kept.refl _ | with_reducible assumption | with_reducible apply kept_sampleAdmit | split | intro _ | (with_reducible first | apply Kept.upd | apply Kept.updM | apply Kept.updT | apply Kept.updTM)

theorem kept_exec_combineComplete (s t : State) {slot} (h : exec (.combineComplete slot) s = .next t) : Kept s t := by
  unfold exec at h; dsimp only at h; unfold execCombineComplete at h; cases h
  repeat' first | with_reducible exact Kept.refl _ | with_reducible assumption | with_reducible apply kept_combineComplete | split | intro _ | (with_reducible first | apply Kept.upd | apply Kept.updM | apply Kept.updT | apply Kept.updTM)

theorem kept_exec_partialLate (s t : State) {slot} {die} (h : exec (.partialLate slot die) s = .next t) : Kept s t := by
  unfold exec at h; dsimp only at h; unfold execPartialLate at h; cases h
  repeat' first | with_reducible exact Kept.refl _ | with_reducible assumption | with_reducible apply kept_partialLate | split | intro _ | (with_reducible first | apply Kept.upd | apply Kept.updM | apply Kept.updT | apply Kept.updTM)

theorem kept_exec_shadowRotate (s t : State) {die} {engine} {spare} (h : exec (.shadowRotate die engine spare) s = .next t) : Kept s t := by
  unfold exec at h; dsimp only at h; unfold execShadowRotate at h; cases h
  repeat' first | with_reducible exact Kept.refl _ | with_reducible assumption | with_reducible apply kept_shadowRotate | split | intro _ | (with_reducible first | apply Kept.upd | apply Kept.updM | apply Kept.updT | apply Kept.updTM)

theorem kept_exec_batchWaitExpire (s t : State) {handle} (h : exec (.batchWaitExpire handle) s = .next t) : Kept s t := by
  unfold exec at h; dsimp only at h; unfold execBatchWaitExpire at h; cases h
  repeat' first | with_reducible exact Kept.refl _ | with_reducible assumption | with_reducible apply kept_onPart | split | intro _ | (with_reducible first | apply Kept.upd | apply Kept.updM | apply Kept.updT | apply Kept.updTM)

theorem kept_exec_batchPassStart (s t : State) {handle} (h : exec (.batchPassStart handle) s = .next t) : Kept s t := by
  unfold exec at h; dsimp only at h; unfold execBatchPassStart at h; cases h
  repeat' first | with_reducible exact Kept.refl _ | with_reducible assumption | with_reducible apply kept_onPart | with_reducible apply kept_rewriteParts | split | intro _ | (with_reducible first | apply Kept.upd | apply Kept.updM | apply Kept.updT | apply Kept.updTM)

theorem kept_exec_batchPassComplete (s t : State) {p} (h : exec (.batchPassComplete p) s = .next t) : Kept s t := by
  unfold exec at h; dsimp only at h; unfold execBatchPassComplete at h; cases h
  repeat' first | with_reducible exact Kept.refl _ | with_reducible assumption | with_reducible apply kept_batchDone | split | intro _ | (with_reducible first | apply Kept.upd | apply Kept.updM | apply Kept.updT | apply Kept.updTM)

theorem kept_exec_load (s t : State) {n} (h : exec (.load n) s = .next t) : Kept s t := by
  unfold exec at h; dsimp only at h; unfold execLoad at h; cases h
  repeat' first | with_reducible exact Kept.refl _ | with_reducible assumption | with_reducible apply kept_loadCmd | split | intro _ | (with_reducible first | apply Kept.upd | apply Kept.updM | apply Kept.updT | apply Kept.updTM)

theorem kept_exec_loadComplete (s t : State) {n} (h : exec (.loadComplete n) s = .next t) : Kept s t := by
  unfold exec at h; dsimp only at h; unfold execLoadComplete at h; cases h
  repeat' first | with_reducible exact Kept.refl _ | with_reducible assumption | with_reducible apply kept_loadComplete | split | intro _ | (with_reducible first | apply Kept.upd | apply Kept.updM | apply Kept.updT | apply Kept.updTM)

theorem kept_exec_activate (s t : State) {n} (h : exec (.activate n) s = .next t) : Kept s t := by
  unfold exec at h; dsimp only at h; unfold execActivate at h; cases h
  repeat' first | with_reducible exact Kept.refl _ | with_reducible assumption | with_reducible apply kept_modelCmd | with_reducible apply kept_activateRun | split | intro _ | (with_reducible first | apply Kept.upd | apply Kept.updM | apply Kept.updT | apply Kept.updTM)

theorem kept_exec_discard (s t : State) {n} (h : exec (.discard n) s = .next t) : Kept s t := by
  unfold exec at h; dsimp only at h; unfold execDiscard at h; cases h
  repeat' first | with_reducible exact Kept.refl _ | with_reducible assumption | with_reducible apply kept_modelCmd | with_reducible apply kept_discardRun | split | intro _ | (with_reducible first | apply Kept.upd | apply Kept.updM | apply Kept.updT | apply Kept.updTM)

theorem kept_exec_unload (s t : State) {n} (h : exec (.unload n) s = .next t) : Kept s t := by
  unfold exec at h; dsimp only at h; unfold execUnload at h; cases h
  repeat' first | with_reducible exact Kept.refl _ | with_reducible assumption | with_reducible apply kept_modelCmd | with_reducible apply kept_unloadRun | split | intro _ | (with_reducible first | apply Kept.upd | apply Kept.updM | apply Kept.updT | apply Kept.updTM)

theorem kept_exec_query (s t : State) {n} (h : exec (.query n) s = .next t) : Kept s t := by
  unfold exec at h; dsimp only at h; unfold execQuery at h; cases h
  repeat' first | with_reducible exact Kept.refl _ | with_reducible assumption | with_reducible apply kept_modelCmd | with_reducible apply kept_queryRun | split | intro _ | (with_reducible first | apply Kept.upd | apply Kept.updM | apply Kept.updT | apply Kept.updTM)

theorem kept_exec_pload (s t : State) {n} (h : exec (.pload n) s = .next t) : Kept s t := by
  unfold exec at h; dsimp only at h; unfold execPload at h; cases h
  repeat' first | with_reducible exact Kept.refl _ | with_reducible assumption | with_reducible apply kept_ploadCmd | split | intro _ | (with_reducible first | apply Kept.upd | apply Kept.updM | apply Kept.updT | apply Kept.updTM)

theorem kept_exec_drain (s t : State) {n} (h : exec (.drain n) s = .next t) : Kept s t := by
  unfold exec at h; dsimp only at h; unfold execDrain at h; cases h
  repeat' first | with_reducible exact Kept.refl _ | with_reducible assumption | with_reducible apply kept_drainCmd | split | intro _ | (with_reducible first | apply Kept.upd | apply Kept.updM | apply Kept.updT | apply Kept.updTM)

theorem kept_exec_drainDone (s t : State) {handle} (h : exec (.drainDone handle) s = .next t) : Kept s t := by
  unfold exec at h; dsimp only at h; unfold execDrainDone at h; cases h
  repeat' first | with_reducible exact Kept.refl _ | with_reducible assumption | with_reducible apply kept_drainDone | split | intro _ | (with_reducible first | apply Kept.upd | apply Kept.updM | apply Kept.updT | apply Kept.updTM)

theorem kept_exec_resume (s t : State) {n} (h : exec (.resume n) s = .next t) : Kept s t := by
  unfold exec at h; dsimp only at h; unfold execResume at h; cases h
  repeat' first | with_reducible exact Kept.refl _ | with_reducible assumption | with_reducible apply kept_modelCmd | with_reducible apply kept_resumeRun | split | intro _ | (with_reducible first | apply Kept.upd | apply Kept.updM | apply Kept.updT | apply Kept.updTM)

theorem kept_exec_versionRelease (s t : State) {handle} {version} (h : exec (.versionRelease handle version) s = .next t) : Kept s t := by
  unfold exec at h; dsimp only at h; unfold execVersionRelease at h; cases h
  repeat' first | with_reducible exact Kept.refl _ | with_reducible assumption | with_reducible apply kept_versionRelease | split | intro _ | (with_reducible first | apply Kept.upd | apply Kept.updM | apply Kept.updT | apply Kept.updTM)

theorem kept_exec_copyReplace (s t : State) {handle} {version} {copy} (h : exec (.copyReplace handle version copy) s = .next t) : Kept s t := by
  unfold exec at h; dsimp only at h; unfold execCopyReplace at h; cases h
  repeat' first | with_reducible exact Kept.refl _ | with_reducible assumption | with_reducible apply kept_copyReplace | split | intro _ | (with_reducible first | apply Kept.upd | apply Kept.updM | apply Kept.updT | apply Kept.updTM)

theorem kept_exec_arrayAdmit (s t : State) {slot} (h : exec (.arrayAdmit slot) s = .next t) : Kept s t := by
  unfold exec at h; dsimp only at h; unfold execArrayAdmit at h; cases h
  repeat' first | with_reducible exact Kept.refl _ | with_reducible assumption | with_reducible apply kept_arrayAdmit | split | intro _ | (with_reducible first | apply Kept.upd | apply Kept.updM | apply Kept.updT | apply Kept.updTM)

theorem kept_exec_tokenArrive (s t : State) {flight} {parityOk} (h : exec (.tokenArrive flight parityOk) s = .next t) : Kept s t := by
  unfold exec at h; dsimp only at h; unfold execTokenArrive at h; cases h
  repeat' first | with_reducible exact Kept.refl _ | with_reducible assumption | with_reducible apply kept_tokenArrive | split | intro _ | (with_reducible first | apply Kept.upd | apply Kept.updM | apply Kept.updT | apply Kept.updTM)

theorem kept_exec_opMov (s t : State) {core} {slot} {idx} {tag} (h : exec (.opMov core slot idx tag) s = .next t) : Kept s t := by
  unfold exec at h; dsimp only at h; unfold execOpMov at h; cases h
  repeat' first | with_reducible exact Kept.refl _ | with_reducible assumption | with_reducible apply kept_fireReg | split | intro _ | (with_reducible first | apply Kept.upd | apply Kept.updM | apply Kept.updT | apply Kept.updTM)

theorem kept_exec_opLi (s t : State) {core} {slot} {idx} {tag} (h : exec (.opLi core slot idx tag) s = .next t) : Kept s t := by
  unfold exec at h; dsimp only at h; unfold execOpLi at h; cases h
  repeat' first | with_reducible exact Kept.refl _ | with_reducible assumption | with_reducible apply kept_fireReg | split | intro _ | (with_reducible first | apply Kept.upd | apply Kept.updM | apply Kept.updT | apply Kept.updTM)

theorem kept_exec_opSel (s t : State) {core} {slot} {idx} {tag} (h : exec (.opSel core slot idx tag) s = .next t) : Kept s t := by
  unfold exec at h; dsimp only at h; unfold execOpSel at h; cases h
  repeat' first | with_reducible exact Kept.refl _ | with_reducible assumption | with_reducible apply kept_fireReg | split | intro _ | (with_reducible first | apply Kept.upd | apply Kept.updM | apply Kept.updT | apply Kept.updTM)

theorem kept_exec_opAdd (s t : State) {core} {slot} {idx} {tag} (h : exec (.opAdd core slot idx tag) s = .next t) : Kept s t := by
  unfold exec at h; dsimp only at h; unfold execOpAdd at h; cases h
  repeat' first | with_reducible exact Kept.refl _ | with_reducible assumption | with_reducible apply kept_fireReg | split | intro _ | (with_reducible first | apply Kept.upd | apply Kept.updM | apply Kept.updT | apply Kept.updTM)

theorem kept_exec_opSub (s t : State) {core} {slot} {idx} {tag} (h : exec (.opSub core slot idx tag) s = .next t) : Kept s t := by
  unfold exec at h; dsimp only at h; unfold execOpSub at h; cases h
  repeat' first | with_reducible exact Kept.refl _ | with_reducible assumption | with_reducible apply kept_fireReg | split | intro _ | (with_reducible first | apply Kept.upd | apply Kept.updM | apply Kept.updT | apply Kept.updTM)

theorem kept_exec_opMul (s t : State) {core} {slot} {idx} {tag} (h : exec (.opMul core slot idx tag) s = .next t) : Kept s t := by
  unfold exec at h; dsimp only at h; unfold execOpMul at h; cases h
  repeat' first | with_reducible exact Kept.refl _ | with_reducible assumption | with_reducible apply kept_fireReg | split | intro _ | (with_reducible first | apply Kept.upd | apply Kept.updM | apply Kept.updT | apply Kept.updTM)

theorem kept_exec_opMin (s t : State) {core} {slot} {idx} {tag} (h : exec (.opMin core slot idx tag) s = .next t) : Kept s t := by
  unfold exec at h; dsimp only at h; unfold execOpMin at h; cases h
  repeat' first | with_reducible exact Kept.refl _ | with_reducible assumption | with_reducible apply kept_fireReg | split | intro _ | (with_reducible first | apply Kept.upd | apply Kept.updM | apply Kept.updT | apply Kept.updTM)

theorem kept_exec_opMax (s t : State) {core} {slot} {idx} {tag} (h : exec (.opMax core slot idx tag) s = .next t) : Kept s t := by
  unfold exec at h; dsimp only at h; unfold execOpMax at h; cases h
  repeat' first | with_reducible exact Kept.refl _ | with_reducible assumption | with_reducible apply kept_fireReg | split | intro _ | (with_reducible first | apply Kept.upd | apply Kept.updM | apply Kept.updT | apply Kept.updTM)

theorem kept_exec_opAnd (s t : State) {core} {slot} {idx} {tag} (h : exec (.opAnd core slot idx tag) s = .next t) : Kept s t := by
  unfold exec at h; dsimp only at h; unfold execOpAnd at h; cases h
  repeat' first | with_reducible exact Kept.refl _ | with_reducible assumption | with_reducible apply kept_fireReg | split | intro _ | (with_reducible first | apply Kept.upd | apply Kept.updM | apply Kept.updT | apply Kept.updTM)

theorem kept_exec_opOr (s t : State) {core} {slot} {idx} {tag} (h : exec (.opOr core slot idx tag) s = .next t) : Kept s t := by
  unfold exec at h; dsimp only at h; unfold execOpOr at h; cases h
  repeat' first | with_reducible exact Kept.refl _ | with_reducible assumption | with_reducible apply kept_fireReg | split | intro _ | (with_reducible first | apply Kept.upd | apply Kept.updM | apply Kept.updT | apply Kept.updTM)

theorem kept_exec_opXor (s t : State) {core} {slot} {idx} {tag} (h : exec (.opXor core slot idx tag) s = .next t) : Kept s t := by
  unfold exec at h; dsimp only at h; unfold execOpXor at h; cases h
  repeat' first | with_reducible exact Kept.refl _ | with_reducible assumption | with_reducible apply kept_fireReg | split | intro _ | (with_reducible first | apply Kept.upd | apply Kept.updM | apply Kept.updT | apply Kept.updTM)

theorem kept_exec_opShl (s t : State) {core} {slot} {idx} {tag} (h : exec (.opShl core slot idx tag) s = .next t) : Kept s t := by
  unfold exec at h; dsimp only at h; unfold execOpShl at h; cases h
  repeat' first | with_reducible exact Kept.refl _ | with_reducible assumption | with_reducible apply kept_fireReg | split | intro _ | (with_reducible first | apply Kept.upd | apply Kept.updM | apply Kept.updT | apply Kept.updTM)

theorem kept_exec_opShr (s t : State) {core} {slot} {idx} {tag} (h : exec (.opShr core slot idx tag) s = .next t) : Kept s t := by
  unfold exec at h; dsimp only at h; unfold execOpShr at h; cases h
  repeat' first | with_reducible exact Kept.refl _ | with_reducible assumption | with_reducible apply kept_fireReg | split | intro _ | (with_reducible first | apply Kept.upd | apply Kept.updM | apply Kept.updT | apply Kept.updTM)

theorem kept_exec_opCmp (s t : State) {core} {slot} {idx} {tag} (h : exec (.opCmp core slot idx tag) s = .next t) : Kept s t := by
  unfold exec at h; dsimp only at h; unfold execOpCmp at h; cases h
  repeat' first | with_reducible exact Kept.refl _ | with_reducible assumption | with_reducible apply kept_fireReg | split | intro _ | (with_reducible first | apply Kept.upd | apply Kept.updM | apply Kept.updT | apply Kept.updTM)

theorem kept_exec_opFma (s t : State) {core} {slot} {idx} {tag} (h : exec (.opFma core slot idx tag) s = .next t) : Kept s t := by
  unfold exec at h; dsimp only at h; unfold execOpFma at h; cases h
  repeat' first | with_reducible exact Kept.refl _ | with_reducible assumption | with_reducible apply kept_fireReg | split | intro _ | (with_reducible first | apply Kept.upd | apply Kept.updM | apply Kept.updT | apply Kept.updTM)

theorem kept_exec_opCvt (s t : State) {core} {slot} {idx} {tag} (h : exec (.opCvt core slot idx tag) s = .next t) : Kept s t := by
  unfold exec at h; dsimp only at h; unfold execOpCvt at h; cases h
  repeat' first | with_reducible exact Kept.refl _ | with_reducible assumption | with_reducible apply kept_fireReg | split | intro _ | (with_reducible first | apply Kept.upd | apply Kept.updM | apply Kept.updT | apply Kept.updTM)

theorem kept_exec_opKey (s t : State) {core} {slot} {idx} {tag} (h : exec (.opKey core slot idx tag) s = .next t) : Kept s t := by
  unfold exec at h; dsimp only at h; unfold execOpKey at h; cases h
  repeat' first | with_reducible exact Kept.refl _ | with_reducible assumption | with_reducible apply kept_fireReg | split | intro _ | (with_reducible first | apply Kept.upd | apply Kept.updM | apply Kept.updT | apply Kept.updTM)

theorem kept_exec_opSfn (s t : State) {core} {slot} {idx} {tag} (h : exec (.opSfn core slot idx tag) s = .next t) : Kept s t := by
  unfold exec at h; dsimp only at h; unfold execOpSfn at h; cases h
  repeat' first | with_reducible exact Kept.refl _ | with_reducible assumption | with_reducible apply kept_fireReg | split | intro _ | (with_reducible first | apply Kept.upd | apply Kept.updM | apply Kept.updT | apply Kept.updTM)

theorem kept_exec_opLut (s t : State) {core} {slot} {idx} {tag} (h : exec (.opLut core slot idx tag) s = .next t) : Kept s t := by
  unfold exec at h; dsimp only at h; unfold execOpLut at h; cases h
  repeat' first | with_reducible exact Kept.refl _ | with_reducible assumption | with_reducible apply kept_fireLut | split | intro _ | (with_reducible first | apply Kept.upd | apply Kept.updM | apply Kept.updT | apply Kept.updTM)

theorem kept_exec_opTag (s t : State) {core} {slot} {idx} {tag} (h : exec (.opTag core slot idx tag) s = .next t) : Kept s t := by
  unfold exec at h; dsimp only at h; unfold execOpTag at h; cases h
  repeat' first | with_reducible exact Kept.refl _ | with_reducible assumption | with_reducible apply kept_fireReg | split | intro _ | (with_reducible first | apply Kept.upd | apply Kept.updM | apply Kept.updT | apply Kept.updTM)

theorem kept_exec_opLd (s t : State) {core} {slot} {idx} {tag} (h : exec (.opLd core slot idx tag) s = .next t) : Kept s t := by
  unfold exec at h; dsimp only at h; unfold execOpLd at h; cases h
  repeat' first | with_reducible exact Kept.refl _ | with_reducible assumption | with_reducible apply kept_fireLoad | split | intro _ | (with_reducible first | apply Kept.upd | apply Kept.updM | apply Kept.updT | apply Kept.updTM)

theorem kept_exec_opSt (s t : State) {core} {slot} {idx} {tag} (h : exec (.opSt core slot idx tag) s = .next t) : Kept s t := by
  unfold exec at h; dsimp only at h; unfold execOpSt at h; cases h
  repeat' first | with_reducible exact Kept.refl _ | with_reducible assumption | with_reducible apply kept_fireStore | split | intro _ | (with_reducible first | apply Kept.upd | apply Kept.updM | apply Kept.updT | apply Kept.updTM)

theorem kept_exec_opDma (s t : State) {core} {slot} {idx} {tag} (h : exec (.opDma core slot idx tag) s = .next t) : Kept s t := by
  unfold exec at h; dsimp only at h; unfold execOpDma at h; cases h
  repeat' first | with_reducible exact Kept.refl _ | with_reducible assumption | with_reducible apply kept_fireDma | split | intro _ | (with_reducible first | apply Kept.upd | apply Kept.updM | apply Kept.updT | apply Kept.updTM)

theorem kept_exec_opFeval (s t : State) {core} {slot} {idx} {tag} (h : exec (.opFeval core slot idx tag) s = .next t) : Kept s t := by
  unfold exec at h; dsimp only at h; unfold execOpFeval at h; cases h
  repeat' first | with_reducible exact Kept.refl _ | with_reducible assumption | with_reducible apply kept_fireFeval | split | intro _ | (with_reducible first | apply Kept.upd | apply Kept.updM | apply Kept.updT | apply Kept.updTM)

theorem kept_exec_opBswap (s t : State) {core} {slot} {idx} {tag} (h : exec (.opBswap core slot idx tag) s = .next t) : Kept s t := by
  unfold exec at h; dsimp only at h; unfold execOpBswap at h; cases h
  repeat' first | with_reducible exact Kept.refl _ | with_reducible assumption | with_reducible apply kept_fireReg | split | intro _ | (with_reducible first | apply Kept.upd | apply Kept.updM | apply Kept.updT | apply Kept.updTM)

theorem kept_exec_opVmov (s t : State) {core} {slot} {idx} {tag} (h : exec (.opVmov core slot idx tag) s = .next t) : Kept s t := by
  unfold exec at h; dsimp only at h; unfold execOpVmov at h; cases h
  repeat' first | with_reducible exact Kept.refl _ | with_reducible assumption | with_reducible apply kept_fireReg | split | intro _ | (with_reducible first | apply Kept.upd | apply Kept.updM | apply Kept.updT | apply Kept.updTM)

theorem kept_exec_opVsel (s t : State) {core} {slot} {idx} {tag} (h : exec (.opVsel core slot idx tag) s = .next t) : Kept s t := by
  unfold exec at h; dsimp only at h; unfold execOpVsel at h; cases h
  repeat' first | with_reducible exact Kept.refl _ | with_reducible assumption | with_reducible apply kept_fireReg | split | intro _ | (with_reducible first | apply Kept.upd | apply Kept.updM | apply Kept.updT | apply Kept.updTM)

theorem kept_exec_opVadd (s t : State) {core} {slot} {idx} {tag} (h : exec (.opVadd core slot idx tag) s = .next t) : Kept s t := by
  unfold exec at h; dsimp only at h; unfold execOpVadd at h; cases h
  repeat' first | with_reducible exact Kept.refl _ | with_reducible assumption | with_reducible apply kept_fireReg | split | intro _ | (with_reducible first | apply Kept.upd | apply Kept.updM | apply Kept.updT | apply Kept.updTM)

theorem kept_exec_opVsub (s t : State) {core} {slot} {idx} {tag} (h : exec (.opVsub core slot idx tag) s = .next t) : Kept s t := by
  unfold exec at h; dsimp only at h; unfold execOpVsub at h; cases h
  repeat' first | with_reducible exact Kept.refl _ | with_reducible assumption | with_reducible apply kept_fireReg | split | intro _ | (with_reducible first | apply Kept.upd | apply Kept.updM | apply Kept.updT | apply Kept.updTM)

theorem kept_exec_opVmul (s t : State) {core} {slot} {idx} {tag} (h : exec (.opVmul core slot idx tag) s = .next t) : Kept s t := by
  unfold exec at h; dsimp only at h; unfold execOpVmul at h; cases h
  repeat' first | with_reducible exact Kept.refl _ | with_reducible assumption | with_reducible apply kept_fireReg | split | intro _ | (with_reducible first | apply Kept.upd | apply Kept.updM | apply Kept.updT | apply Kept.updTM)

theorem kept_exec_opVmin (s t : State) {core} {slot} {idx} {tag} (h : exec (.opVmin core slot idx tag) s = .next t) : Kept s t := by
  unfold exec at h; dsimp only at h; unfold execOpVmin at h; cases h
  repeat' first | with_reducible exact Kept.refl _ | with_reducible assumption | with_reducible apply kept_fireReg | split | intro _ | (with_reducible first | apply Kept.upd | apply Kept.updM | apply Kept.updT | apply Kept.updTM)

theorem kept_exec_opVmax (s t : State) {core} {slot} {idx} {tag} (h : exec (.opVmax core slot idx tag) s = .next t) : Kept s t := by
  unfold exec at h; dsimp only at h; unfold execOpVmax at h; cases h
  repeat' first | with_reducible exact Kept.refl _ | with_reducible assumption | with_reducible apply kept_fireReg | split | intro _ | (with_reducible first | apply Kept.upd | apply Kept.updM | apply Kept.updT | apply Kept.updTM)

theorem kept_exec_opVand (s t : State) {core} {slot} {idx} {tag} (h : exec (.opVand core slot idx tag) s = .next t) : Kept s t := by
  unfold exec at h; dsimp only at h; unfold execOpVand at h; cases h
  repeat' first | with_reducible exact Kept.refl _ | with_reducible assumption | with_reducible apply kept_fireReg | split | intro _ | (with_reducible first | apply Kept.upd | apply Kept.updM | apply Kept.updT | apply Kept.updTM)

theorem kept_exec_opVor (s t : State) {core} {slot} {idx} {tag} (h : exec (.opVor core slot idx tag) s = .next t) : Kept s t := by
  unfold exec at h; dsimp only at h; unfold execOpVor at h; cases h
  repeat' first | with_reducible exact Kept.refl _ | with_reducible assumption | with_reducible apply kept_fireReg | split | intro _ | (with_reducible first | apply Kept.upd | apply Kept.updM | apply Kept.updT | apply Kept.updTM)

theorem kept_exec_opVxor (s t : State) {core} {slot} {idx} {tag} (h : exec (.opVxor core slot idx tag) s = .next t) : Kept s t := by
  unfold exec at h; dsimp only at h; unfold execOpVxor at h; cases h
  repeat' first | with_reducible exact Kept.refl _ | with_reducible assumption | with_reducible apply kept_fireReg | split | intro _ | (with_reducible first | apply Kept.upd | apply Kept.updM | apply Kept.updT | apply Kept.updTM)

theorem kept_exec_opVdot (s t : State) {core} {slot} {idx} {tag} (h : exec (.opVdot core slot idx tag) s = .next t) : Kept s t := by
  unfold exec at h; dsimp only at h; unfold execOpVdot at h; cases h
  repeat' first | with_reducible exact Kept.refl _ | with_reducible assumption | with_reducible apply kept_fireReg | split | intro _ | (with_reducible first | apply Kept.upd | apply Kept.updM | apply Kept.updT | apply Kept.updTM)

theorem kept_exec_opVred (s t : State) {core} {slot} {idx} {tag} (h : exec (.opVred core slot idx tag) s = .next t) : Kept s t := by
  unfold exec at h; dsimp only at h; unfold execOpVred at h; cases h
  repeat' first | with_reducible exact Kept.refl _ | with_reducible assumption | with_reducible apply kept_fireReg | split | intro _ | (with_reducible first | apply Kept.upd | apply Kept.updM | apply Kept.updT | apply Kept.updTM)

theorem kept_exec_opVcmp (s t : State) {core} {slot} {idx} {tag} (h : exec (.opVcmp core slot idx tag) s = .next t) : Kept s t := by
  unfold exec at h; dsimp only at h; unfold execOpVcmp at h; cases h
  repeat' first | with_reducible exact Kept.refl _ | with_reducible assumption | with_reducible apply kept_fireReg | split | intro _ | (with_reducible first | apply Kept.upd | apply Kept.updM | apply Kept.updT | apply Kept.updTM)

theorem kept_exec_opVcvt (s t : State) {core} {slot} {idx} {tag} (h : exec (.opVcvt core slot idx tag) s = .next t) : Kept s t := by
  unfold exec at h; dsimp only at h; unfold execOpVcvt at h; cases h
  repeat' first | with_reducible exact Kept.refl _ | with_reducible assumption | with_reducible apply kept_fireReg | split | intro _ | (with_reducible first | apply Kept.upd | apply Kept.updM | apply Kept.updT | apply Kept.updTM)

theorem kept_exec_opVkey (s t : State) {core} {slot} {idx} {tag} (h : exec (.opVkey core slot idx tag) s = .next t) : Kept s t := by
  unfold exec at h; dsimp only at h; unfold execOpVkey at h; cases h
  repeat' first | with_reducible exact Kept.refl _ | with_reducible assumption | with_reducible apply kept_fireReg | split | intro _ | (with_reducible first | apply Kept.upd | apply Kept.updM | apply Kept.updT | apply Kept.updTM)

theorem kept_exec_opVsfn (s t : State) {core} {slot} {idx} {tag} (h : exec (.opVsfn core slot idx tag) s = .next t) : Kept s t := by
  unfold exec at h; dsimp only at h; unfold execOpVsfn at h; cases h
  repeat' first | with_reducible exact Kept.refl _ | with_reducible assumption | with_reducible apply kept_fireReg | split | intro _ | (with_reducible first | apply Kept.upd | apply Kept.updM | apply Kept.updT | apply Kept.updTM)

theorem kept_exec_opVins (s t : State) {core} {slot} {idx} {tag} (h : exec (.opVins core slot idx tag) s = .next t) : Kept s t := by
  unfold exec at h; dsimp only at h; unfold execOpVins at h; cases h
  repeat' first | with_reducible exact Kept.refl _ | with_reducible assumption | with_reducible apply kept_fireReg | split | intro _ | (with_reducible first | apply Kept.upd | apply Kept.updM | apply Kept.updT | apply Kept.updTM)

theorem kept_exec_opVext (s t : State) {core} {slot} {idx} {tag} (h : exec (.opVext core slot idx tag) s = .next t) : Kept s t := by
  unfold exec at h; dsimp only at h; unfold execOpVext at h; cases h
  repeat' first | with_reducible exact Kept.refl _ | with_reducible assumption | with_reducible apply kept_fireReg | split | intro _ | (with_reducible first | apply Kept.upd | apply Kept.updM | apply Kept.updT | apply Kept.updTM)

theorem kept_exec_opVbcast (s t : State) {core} {slot} {idx} {tag} (h : exec (.opVbcast core slot idx tag) s = .next t) : Kept s t := by
  unfold exec at h; dsimp only at h; unfold execOpVbcast at h; cases h
  repeat' first | with_reducible exact Kept.refl _ | with_reducible assumption | with_reducible apply kept_fireReg | split | intro _ | (with_reducible first | apply Kept.upd | apply Kept.updM | apply Kept.updT | apply Kept.updTM)

theorem kept_exec_opVld (s t : State) {core} {slot} {idx} {tag} (h : exec (.opVld core slot idx tag) s = .next t) : Kept s t := by
  unfold exec at h; dsimp only at h; unfold execOpVld at h; cases h
  repeat' first | with_reducible exact Kept.refl _ | with_reducible assumption | with_reducible apply kept_fireLoad | split | intro _ | (with_reducible first | apply Kept.upd | apply Kept.updM | apply Kept.updT | apply Kept.updTM)

theorem kept_exec_opVst (s t : State) {core} {slot} {idx} {tag} (h : exec (.opVst core slot idx tag) s = .next t) : Kept s t := by
  unfold exec at h; dsimp only at h; unfold execOpVst at h; cases h
  repeat' first | with_reducible exact Kept.refl _ | with_reducible assumption | with_reducible apply kept_fireStore | split | intro _ | (with_reducible first | apply Kept.upd | apply Kept.updM | apply Kept.updT | apply Kept.updTM)

theorem kept_exec_firesCheck (s t : State) {core} {slot} {run} (h : exec (.firesCheck core slot run) s = .next t) : Kept s t := by
  unfold exec at h; dsimp only at h; unfold execFiresCheck at h; cases h
  repeat' first | with_reducible exact Kept.refl _ | with_reducible assumption | with_reducible apply kept_firesCheck | split | intro _ | (with_reducible first | apply Kept.upd | apply Kept.updM | apply Kept.updT | apply Kept.updTM)

theorem kept_exec_resultCountCheck (s t : State) {run} (h : exec (.resultCountCheck run) s = .next t) : Kept s t := by
  unfold exec at h; dsimp only at h; unfold execResultCountCheck at h; cases h
  repeat' first | with_reducible exact Kept.refl _ | with_reducible assumption | with_reducible apply kept_resultCheck | split | intro _ | (with_reducible first | apply Kept.upd | apply Kept.updM | apply Kept.updT | apply Kept.updTM)

theorem kept_exec_fevalResult (s t : State) {e} (h : exec (.fevalResult e) s = .next t) : Kept s t := by
  unfold exec at h; dsimp only at h; unfold execFevalResult at h; cases h
  repeat' first | with_reducible exact Kept.refl _ | with_reducible assumption | with_reducible apply kept_fevalResult | split | intro _ | (with_reducible first | apply Kept.upd | apply Kept.updM | apply Kept.updT | apply Kept.updTM)

theorem kept_exec_dmaComplete (s t : State) {e} {ue} (h : exec (.dmaComplete e ue) s = .next t) : Kept s t := by
  unfold exec at h; dsimp only at h; unfold execDmaComplete at h; cases h
  repeat' first | with_reducible exact Kept.refl _ | with_reducible assumption | with_reducible apply kept_dmaComplete | split | intro _ | (with_reducible first | apply Kept.upd | apply Kept.updM | apply Kept.updT | apply Kept.updTM)

theorem kept_exec_apertureWrite (s t : State) {off} {val} (h : exec (.apertureWrite off val) s = .next t) : Kept s t := by
  unfold exec at h; dsimp only at h; unfold execApertureWrite at h; cases h
  repeat' first | with_reducible exact Kept.refl _ | with_reducible assumption | with_reducible apply kept_apWrite | split | intro _ | (with_reducible first | apply Kept.upd | apply Kept.updM | apply Kept.updT | apply Kept.updTM)

theorem kept_exec_copyDrain (s t : State) {core} (h : exec (.copyDrain core) s = .next t) : Kept s t := by
  unfold exec at h; dsimp only at h; unfold execCopyDrain at h; cases h
  repeat' first | with_reducible exact Kept.refl _ | with_reducible assumption | with_reducible apply kept_copyDrain | split | intro _ | (with_reducible first | apply Kept.upd | apply Kept.updM | apply Kept.updT | apply Kept.updTM)

theorem kept_exec_migrationDone (s t : State) {core} (h : exec (.migrationDone core) s = .next t) : Kept s t := by
  unfold exec at h; dsimp only at h; unfold execMigrationDone at h; cases h
  repeat' first | with_reducible exact Kept.refl _ | with_reducible assumption | with_reducible apply kept_migrationDone | split | intro _ | (with_reducible first | apply Kept.upd | apply Kept.updM | apply Kept.updT | apply Kept.updTM)

theorem kept_exec_seqTokenAdmit (s t : State) {slot} (h : exec (.seqTokenAdmit slot) s = .next t) : Kept s t := by
  unfold exec at h; dsimp only at h; unfold execSeqTokenAdmit at h; cases h
  repeat' first | with_reducible exact Kept.refl _ | with_reducible assumption | with_reducible apply kept_tokenAdmit | split | intro _ | (with_reducible first | apply Kept.upd | apply Kept.updM | apply Kept.updT | apply Kept.updTM)

theorem kept_exec_seqStepBoundary (s t : State) {ctx} (h : exec (.seqStepBoundary ctx) s = .next t) : Kept s t := by
  unfold exec at h; dsimp only at h; unfold execSeqStepBoundary at h; cases h
  repeat' first | with_reducible exact Kept.refl _ | with_reducible assumption | with_reducible apply kept_stepBoundary | split | intro _ | (with_reducible first | apply Kept.upd | apply Kept.updM | apply Kept.updT | apply Kept.updTM)

theorem kept_exec_creditEarn (s t : State) {ctx} (h : exec (.creditEarn ctx) s = .next t) : Kept s t := by
  unfold exec at h; dsimp only at h; unfold execCreditEarn at h; cases h
  repeat' first | with_reducible exact Kept.refl _ | with_reducible assumption | with_reducible apply kept_creditEarn | split | intro _ | (with_reducible first | apply Kept.upd | apply Kept.updM | apply Kept.updT | apply Kept.updTM)

theorem kept_exec_checkpointCapture (s t : State) {ctx} (h : exec (.checkpointCapture ctx) s = .next t) : Kept s t := by
  unfold exec at h; dsimp only at h; unfold execCheckpointCapture at h; cases h
  repeat' first | with_reducible exact Kept.refl _ | with_reducible assumption | with_reducible apply kept_capture | split | intro _ | (with_reducible first | apply Kept.upd | apply Kept.updM | apply Kept.updT | apply Kept.updTM)

theorem kept_exec_checkpointWriteDone (s t : State) {ctx} (h : exec (.checkpointWriteDone ctx) s = .next t) : Kept s t := by
  unfold exec at h; dsimp only at h; unfold execCheckpointWriteDone at h; cases h
  repeat' first | with_reducible exact Kept.refl _ | with_reducible assumption | with_reducible apply kept_ckptWritten | split | intro _ | (with_reducible first | apply Kept.upd | apply Kept.updM | apply Kept.updT | apply Kept.updTM)

theorem kept_exec_rollback (s t : State) {ctx} (h : exec (.rollback ctx) s = .next t) : Kept s t := by
  unfold exec at h; dsimp only at h; unfold execRollback at h; cases h
  repeat' first | with_reducible exact Kept.refl _ | with_reducible assumption | with_reducible apply kept_rollback | split | intro _ | (with_reducible first | apply Kept.upd | apply Kept.updM | apply Kept.updT | apply Kept.updTM)

theorem kept_exec_restoreDone (s t : State) {r} (h : exec (.restoreDone r) s = .next t) : Kept s t := by
  unfold exec at h; dsimp only at h; unfold execRestoreDone at h; cases h
  repeat' first | with_reducible exact Kept.refl _ | with_reducible assumption | with_reducible apply kept_restoreDone | with_reducible apply kept_ctxSettle | split | intro _ | (with_reducible first | apply Kept.upd | apply Kept.updM | apply Kept.updT | apply Kept.updTM)

theorem kept_exec_gstart (s t : State) {n} (h : exec (.gstart n) s = .next t) : Kept s t := by
  unfold exec at h; dsimp only at h; unfold execGstart at h; cases h
  repeat' first | with_reducible exact Kept.refl _ | with_reducible assumption | with_reducible apply kept_gstart | split | intro _ | (with_reducible first | apply Kept.upd | apply Kept.updM | apply Kept.updT | apply Kept.updTM)

theorem kept_exec_gstop (s t : State) {n} (h : exec (.gstop n) s = .next t) : Kept s t := by
  unfold exec at h; dsimp only at h; unfold execGstop at h; cases h
  repeat' first | with_reducible exact Kept.refl _ | with_reducible assumption | with_reducible apply kept_gstop | split | intro _ | (with_reducible first | apply Kept.upd | apply Kept.updM | apply Kept.updT | apply Kept.updTM)

theorem kept_exec_sclose (s t : State) {n} (h : exec (.sclose n) s = .next t) : Kept s t := by
  unfold exec at h; dsimp only at h; unfold execSclose at h; cases h
  repeat' first | with_reducible exact Kept.refl _ | with_reducible assumption | with_reducible apply kept_sclose | split | intro _ | (with_reducible first | apply Kept.upd | apply Kept.updM | apply Kept.updT | apply Kept.updTM)

theorem kept_exec_genStep (s t : State) {ctx} (h : exec (.genStep ctx) s = .next t) : Kept s t := by
  unfold exec at h; dsimp only at h; unfold execGenStep at h; cases h
  repeat' first | with_reducible exact Kept.refl _ | with_reducible assumption | with_reducible apply kept_genStep | split | intro _ | (with_reducible first | apply Kept.upd | apply Kept.updM | apply Kept.updT | apply Kept.updTM)

theorem kept_exec_genFrameEmit (s t : State) {ctx} (h : exec (.genFrameEmit ctx) s = .next t) : Kept s t := by
  unfold exec at h; dsimp only at h; unfold execGenFrameEmit at h; cases h
  repeat' first | with_reducible exact Kept.refl _ | with_reducible assumption | with_reducible apply kept_genEmit | split | intro _ | (with_reducible first | apply Kept.upd | apply Kept.updM | apply Kept.updT | apply Kept.updTM)

theorem kept_exec_boomData (s t : State) {slot} (h : exec (.boomData slot) s = .next t) : Kept s t := by
  unfold exec at h; dsimp only at h; unfold execBoomData at h; cases h
  repeat' first | with_reducible exact Kept.refl _ | with_reducible assumption | with_reducible apply kept_boomData | split | intro _ | (with_reducible first | apply Kept.upd | apply Kept.updM | apply Kept.updT | apply Kept.updTM)

theorem kept_exec_abandon (s t : State) {slot} (h : exec (.abandon slot) s = .next t) : Kept s t := by
  unfold exec at h; dsimp only at h; unfold execAbandon at h; cases h
  repeat' first | with_reducible exact Kept.refl _ | with_reducible assumption | with_reducible apply kept_boomLocal | with_reducible apply kept_abandonUse | split | intro _ | (with_reducible first | apply Kept.upd | apply Kept.updM | apply Kept.updT | apply Kept.updTM)

theorem kept_exec_boomQuery (s t : State) {slot} (h : exec (.boomQuery slot) s = .next t) : Kept s t := by
  unfold exec at h; dsimp only at h; unfold execBoomQuery at h; cases h
  repeat' first | with_reducible exact Kept.refl _ | with_reducible assumption | with_reducible apply kept_boomQuery | split | intro _ | (with_reducible first | apply Kept.upd | apply Kept.updM | apply Kept.updT | apply Kept.updTM)

theorem kept_exec_part (s t : State) {slot} (h : exec (.part slot) s = .next t) : Kept s t := by
  unfold exec at h; dsimp only at h; unfold execPart at h; cases h
  repeat' first | with_reducible exact Kept.refl _ | with_reducible assumption | with_reducible apply kept_boomPeer | with_reducible apply kept_peerUse | split | intro _ | (with_reducible first | apply Kept.upd | apply Kept.updM | apply Kept.updT | apply Kept.updTM)

theorem kept_exec_gath (s t : State) {slot} (h : exec (.gath slot) s = .next t) : Kept s t := by
  unfold exec at h; dsimp only at h; unfold execGath at h; cases h
  repeat' first | with_reducible exact Kept.refl _ | with_reducible assumption | with_reducible apply kept_boomPeer | with_reducible apply kept_peerUse | split | intro _ | (with_reducible first | apply Kept.upd | apply Kept.updM | apply Kept.updT | apply Kept.updTM)

theorem kept_exec_boomAck (s t : State) {slot} (h : exec (.boomAck slot) s = .next t) : Kept s t := by
  unfold exec at h; dsimp only at h; unfold execBoomAck at h; cases h
  repeat' first | with_reducible exact Kept.refl _ | with_reducible assumption | with_reducible apply kept_boomAck | split | intro _ | (with_reducible first | apply Kept.upd | apply Kept.updM | apply Kept.updT | apply Kept.updTM)

theorem kept_exec_haveMsg (s t : State) {slot} (h : exec (.haveMsg slot) s = .next t) : Kept s t := by
  unfold exec at h; dsimp only at h; unfold execHaveMsg at h; cases h
  repeat' first | with_reducible exact Kept.refl _ | with_reducible assumption | with_reducible apply kept_boomPeer | with_reducible apply kept_haveUse | split | intro _ | (with_reducible first | apply Kept.upd | apply Kept.updM | apply Kept.updT | apply Kept.updTM)

theorem kept_exec_decide (s t : State) {slot} (h : exec (.decide slot) s = .next t) : Kept s t := by
  unfold exec at h; dsimp only at h; unfold execDecide at h; cases h
  repeat' first | with_reducible exact Kept.refl _ | with_reducible assumption | with_reducible apply kept_boomPeer | with_reducible apply kept_decideUse | split | intro _ | (with_reducible first | apply Kept.upd | apply Kept.updM | apply Kept.updT | apply Kept.updTM)

theorem kept_exec_abort (s t : State) {slot} (h : exec (.abort slot) s = .next t) : Kept s t := by
  unfold exec at h; dsimp only at h; unfold execAbort at h; cases h
  repeat' first | with_reducible exact Kept.refl _ | with_reducible assumption | with_reducible apply kept_boomPeer | with_reducible apply kept_abortUse | split | intro _ | (with_reducible first | apply Kept.upd | apply Kept.updM | apply Kept.updT | apply Kept.updTM)

theorem kept_exec_boomBusyFrame (s t : State) {slot} (h : exec (.boomBusyFrame slot) s = .next t) : Kept s t := by
  unfold exec at h; dsimp only at h; unfold execBoomBusyFrame at h; cases h
  repeat' first | with_reducible exact Kept.refl _ | with_reducible assumption | with_reducible apply kept_boomBusyFrame | split | intro _ | (with_reducible first | apply Kept.upd | apply Kept.updM | apply Kept.updT | apply Kept.updTM)

theorem kept_exec_boomBusyRetry (s t : State) {id} (h : exec (.boomBusyRetry id) s = .next t) : Kept s t := by
  unfold exec at h; dsimp only at h; unfold execBoomBusyRetry at h; cases h
  repeat' first | with_reducible exact Kept.refl _ | with_reducible assumption | with_reducible apply kept_boomBusyRetry | split | intro _ | (with_reducible first | apply Kept.upd | apply Kept.updM | apply Kept.updT | apply Kept.updTM)

theorem kept_exec_memberTimerExpire (s t : State) {op} (h : exec (.memberTimerExpire op) s = .next t) : Kept s t := by
  unfold exec at h; dsimp only at h; unfold execMemberTimerExpire at h; cases h
  repeat' first | with_reducible exact Kept.refl _ | with_reducible assumption | with_reducible apply kept_memberTimer | split | intro _ | (with_reducible first | apply Kept.upd | apply Kept.updM | apply Kept.updT | apply Kept.updTM)

theorem kept_exec_coordTimerExpire (s t : State) {op} (h : exec (.coordTimerExpire op) s = .next t) : Kept s t := by
  unfold exec at h; dsimp only at h; unfold execCoordTimerExpire at h; cases h
  repeat' first | with_reducible exact Kept.refl _ | with_reducible assumption | with_reducible apply kept_coordTimer | split | intro _ | (with_reducible first | apply Kept.upd | apply Kept.updM | apply Kept.updT | apply Kept.updTM)

theorem kept_exec_hostpathResend (s t : State) {member} {pseq} (h : exec (.hostpathResend member pseq) s = .next t) : Kept s t := by
  unfold exec at h; dsimp only at h; unfold execHostpathResend at h; cases h
  repeat' first | with_reducible exact Kept.refl _ | with_reducible assumption | with_reducible apply kept_hostResend | split | intro _ | (with_reducible first | apply Kept.upd | apply Kept.updM | apply Kept.updT | apply Kept.updTM)

theorem kept_exec_retentionExpire (s t : State) {op} (h : exec (.retentionExpire op) s = .next t) : Kept s t := by
  unfold exec at h; dsimp only at h; unfold execRetentionExpire at h; cases h
  repeat' first | with_reducible exact Kept.refl _ | with_reducible assumption | with_reducible apply kept_retention | split | intro _ | (with_reducible first | apply Kept.upd | apply Kept.updM | apply Kept.updT | apply Kept.updTM)

theorem kept_exec_linkUp (s t : State) {eport} (h : exec (.linkUp eport) s = .next t) : Kept s t := by
  unfold exec at h; dsimp only at h; unfold execLinkUp at h; cases h
  repeat' first | with_reducible exact Kept.refl _ | with_reducible assumption | with_reducible apply kept_portUp | split | intro _ | (with_reducible first | apply Kept.upd | apply Kept.updM | apply Kept.updT | apply Kept.updTM)

theorem kept_exec_linkDown (s t : State) {eport} (h : exec (.linkDown eport) s = .next t) : Kept s t := by
  unfold exec at h; dsimp only at h; unfold execLinkDown at h; cases h
  repeat' first | with_reducible exact Kept.refl _ | with_reducible assumption | with_reducible apply kept_linkDown | split | intro _ | (with_reducible first | apply Kept.upd | apply Kept.updM | apply Kept.updT | apply Kept.updTM)

theorem kept_exec_linkDataFrame (s t : State) {f} (h : exec (.linkDataFrame f) s = .next t) : Kept s t := by
  unfold exec at h; dsimp only at h; unfold execLinkDataFrame at h; cases h
  repeat' first | with_reducible exact Kept.refl _ | with_reducible assumption | with_reducible apply kept_linkFrame | with_reducible apply kept_inSequence | with_reducible apply kept_accept | split | intro _ | (with_reducible first | apply Kept.upd | apply Kept.updM | apply Kept.updT | apply Kept.updTM)

theorem kept_exec_voidFrame (s t : State) {f} (h : exec (.voidFrame f) s = .next t) : Kept s t := by
  unfold exec at h; dsimp only at h; unfold execVoidFrame at h; cases h
  repeat' first | with_reducible exact Kept.refl _ | with_reducible assumption | with_reducible apply kept_linkFrame | with_reducible apply kept_inSequence | with_reducible apply kept_setEp | with_reducible apply kept_accept | split | intro _ | (with_reducible first | apply Kept.upd | apply Kept.updM | apply Kept.updT | apply Kept.updTM)

theorem kept_exec_nakFrame (s t : State) {f} (h : exec (.nakFrame f) s = .next t) : Kept s t := by
  unfold exec at h; dsimp only at h; unfold execNakFrame at h; cases h
  repeat' first | with_reducible exact Kept.refl _ | with_reducible assumption | with_reducible apply kept_linkFrame | with_reducible apply kept_nakTaken | split | intro _ | (with_reducible first | apply Kept.upd | apply Kept.updM | apply Kept.updT | apply Kept.updTM)

theorem kept_exec_linkCtrlFrame (s t : State) {f} (h : exec (.linkCtrlFrame f) s = .next t) : Kept s t := by
  unfold exec at h; dsimp only at h; unfold execLinkCtrlFrame at h; cases h
  repeat' first | with_reducible exact Kept.refl _ | with_reducible assumption | with_reducible apply kept_linkFrame | split | intro _ | (with_reducible first | apply Kept.upd | apply Kept.updM | apply Kept.updT | apply Kept.updTM)

theorem kept_exec_linkResumeFrame (s t : State) {eport} {f} (h : exec (.linkResumeFrame eport f) s = .next t) : Kept s t := by
  unfold exec at h; dsimp only at h; unfold execLinkResumeFrame at h; cases h
  repeat' first | with_reducible exact Kept.refl _ | with_reducible assumption | with_reducible apply kept_linkResume | split | intro _ | (with_reducible first | apply Kept.upd | apply Kept.updM | apply Kept.updT | apply Kept.updTM)

theorem kept_exec_ctrlKeepalive (s t : State) {eport} (h : exec (.ctrlKeepalive eport) s = .next t) : Kept s t := by
  unfold exec at h; dsimp only at h; unfold execCtrlKeepalive at h; cases h
  repeat' first | with_reducible exact Kept.refl _ | with_reducible assumption | with_reducible apply kept_ctrlKeepalive | split | intro _ | (with_reducible first | apply Kept.upd | apply Kept.updM | apply Kept.updT | apply Kept.updTM)

theorem kept_exec_linkReplayTimeout (s t : State) {eport} (h : exec (.linkReplayTimeout eport) s = .next t) : Kept s t := by
  unfold exec at h; dsimp only at h; unfold execLinkReplayTimeout at h; cases h
  repeat' first | with_reducible exact Kept.refl _ | with_reducible assumption | with_reducible apply kept_linkReplayTimeout | split | intro _ | (with_reducible first | apply Kept.upd | apply Kept.updM | apply Kept.updT | apply Kept.updTM)

theorem kept_exec_nakRepeatTimeout (s t : State) {eport} (h : exec (.nakRepeatTimeout eport) s = .next t) : Kept s t := by
  unfold exec at h; dsimp only at h; unfold execNakRepeatTimeout at h; cases h
  repeat' first | with_reducible exact Kept.refl _ | with_reducible assumption | with_reducible apply kept_nakRepeat | split | intro _ | (with_reducible first | apply Kept.upd | apply Kept.updM | apply Kept.updT | apply Kept.updTM)

theorem kept_exec_lldpSend (s t : State) {eport} (h : exec (.lldpSend eport) s = .next t) : Kept s t := by
  unfold exec at h; dsimp only at h; unfold execLldpSend at h; cases h
  repeat' first | with_reducible exact Kept.refl _ | with_reducible assumption | with_reducible apply kept_lldpOut | split | intro _ | (with_reducible first | apply Kept.upd | apply Kept.updM | apply Kept.updT | apply Kept.updTM)

theorem kept_exec_lldpReceive (s t : State) {eport} {bytes} (h : exec (.lldpReceive eport bytes) s = .next t) : Kept s t := by
  unfold exec at h; dsimp only at h; unfold execLldpReceive at h; cases h
  repeat' first | with_reducible exact Kept.refl _ | with_reducible assumption | with_reducible apply kept_lldpReceive | split | intro _ | (with_reducible first | apply Kept.upd | apply Kept.updM | apply Kept.updT | apply Kept.updTM)

theorem kept_exec_peerExpire (s t : State) {eport} (h : exec (.peerExpire eport) s = .next t) : Kept s t := by
  unfold exec at h; dsimp only at h; unfold execPeerExpire at h; cases h
  repeat' first | with_reducible exact Kept.refl _ | with_reducible assumption | with_reducible apply kept_peerExpire | split | intro _ | (with_reducible first | apply Kept.upd | apply Kept.updM | apply Kept.updT | apply Kept.updTM)

theorem kept_exec_nopeerTimeout (s t : State) {eport} (h : exec (.nopeerTimeout eport) s = .next t) : Kept s t := by
  unfold exec at h; dsimp only at h; unfold execNopeerTimeout at h; cases h
  repeat' first | with_reducible exact Kept.refl _ | with_reducible assumption | with_reducible apply kept_nopeerTimeout | split | intro _ | (with_reducible first | apply Kept.upd | apply Kept.updM | apply Kept.updT | apply Kept.updTM)

theorem kept_exec_pfcFrameReceive (s t : State) {eport} {bytes} (h : exec (.pfcFrameReceive eport bytes) s = .next t) : Kept s t := by
  unfold exec at h; dsimp only at h; unfold execPfcFrameReceive at h; cases h
  repeat' first | with_reducible exact Kept.refl _ | with_reducible assumption | with_reducible apply kept_pfcFrame | split | intro _ | (with_reducible first | apply Kept.upd | apply Kept.updM | apply Kept.updT | apply Kept.updTM)

theorem kept_exec_adopt (s t : State) {eport} (h : exec (.adopt eport) s = .next t) : Kept s t := by
  unfold exec at h; dsimp only at h; unfold execAdopt at h; cases h
  repeat' first | with_reducible exact Kept.refl _ | with_reducible assumption | with_reducible apply kept_adoptCmd | split | intro _ | (with_reducible first | apply Kept.upd | apply Kept.updM | apply Kept.updT | apply Kept.updTM)

theorem kept_exec_timeIncWrite (s t : State) {val} (h : exec (.timeIncWrite val) s = .next t) : Kept s t := by
  unfold exec at h; dsimp only at h; unfold execTimeIncWrite at h; cases h
  repeat' first | with_reducible exact Kept.refl _ | with_reducible assumption | with_reducible apply kept_incWrite | split | intro _ | (with_reducible first | apply Kept.upd | apply Kept.updM | apply Kept.updT | apply Kept.updTM)

theorem kept_exec_timeStep (s t : State) {val} (h : exec (.timeStep val) s = .next t) : Kept s t := by
  unfold exec at h; dsimp only at h; unfold execTimeStep at h; cases h
  repeat' first | with_reducible exact Kept.refl _ | with_reducible assumption | with_reducible apply kept_stepWrite | split | intro _ | (with_reducible first | apply Kept.upd | apply Kept.updM | apply Kept.updT | apply Kept.updTM)

theorem kept_exec_tpoArm (s t : State) {n} {val} (h : exec (.tpoArm n val) s = .next t) : Kept s t := by
  unfold exec at h; dsimp only at h; unfold execTpoArm at h; cases h
  repeat' first | with_reducible exact Kept.refl _ | with_reducible assumption | with_reducible apply kept_act | split | intro _ | (with_reducible first | apply Kept.upd | apply Kept.updM | apply Kept.updT | apply Kept.updTM)

theorem kept_exec_tpoEdge (s t : State) {n} (h : exec (.tpoEdge n) s = .next t) : Kept s t := by
  unfold exec at h; dsimp only at h; unfold execTpoEdge at h; cases h
  repeat' first | with_reducible exact Kept.refl _ | with_reducible assumption | with_reducible apply kept_commitBoundary | with_reducible apply kept_edgeDue | split | intro _ | (with_reducible first | apply Kept.upd | apply Kept.updM | apply Kept.updT | apply Kept.updTM)

theorem kept_exec_tpoTrail (s t : State) {n} (h : exec (.tpoTrail n) s = .next t) : Kept s t := by
  unfold exec at h; dsimp only at h; unfold execTpoTrail at h; cases h
  repeat' first | with_reducible exact Kept.refl _ | with_reducible assumption | with_reducible apply kept_trailDue | split | intro _ | (with_reducible first | apply Kept.upd | apply Kept.updM | apply Kept.updT | apply Kept.updTM)

theorem kept_exec_captureEdge (s t : State) {c} {rising} {sub} (h : exec (.captureEdge c rising sub) s = .next t) : Kept s t := by
  unfold exec at h; dsimp only at h; unfold execCaptureEdge at h; cases h
  repeat' first | with_reducible exact Kept.refl _ | with_reducible assumption | with_reducible apply kept_commitBoundary | with_reducible apply kept_captureEdge | split | intro _ | (with_reducible first | apply Kept.upd | apply Kept.updM | apply Kept.updT | apply Kept.updTM)

theorem kept_exec_captureRead (s t : State) {c} (h : exec (.captureRead c) s = .next t) : Kept s t := by
  unfold exec at h; dsimp only at h; unfold execCaptureRead at h; cases h
  repeat' first | with_reducible exact Kept.refl _ | with_reducible assumption | with_reducible apply kept_captureRead | split | intro _ | (with_reducible first | apply Kept.upd | apply Kept.updM | apply Kept.updT | apply Kept.updTM)

theorem kept_exec_ptpEventReceive (s t : State) {eport} {sub} {bytes} (h : exec (.ptpEventReceive eport sub bytes) s = .next t) : Kept s t := by
  unfold exec at h; dsimp only at h; unfold execPtpEventReceive at h; cases h
  repeat' first | with_reducible exact Kept.refl _ | with_reducible assumption | with_reducible apply kept_ptpReceive | split | intro _ | (with_reducible first | apply Kept.upd | apply Kept.updM | apply Kept.updT | apply Kept.updTM)

theorem kept_exec_ptpSyncSend (s t : State) {eport} (h : exec (.ptpSyncSend eport) s = .next t) : Kept s t := by
  unfold exec at h; dsimp only at h; unfold execPtpSyncSend at h; cases h
  repeat' first | with_reducible exact Kept.refl _ | with_reducible assumption | with_reducible apply kept_ptpSync | split | intro _ | (with_reducible first | apply Kept.upd | apply Kept.updM | apply Kept.updT | apply Kept.updTM)

theorem kept_exec_ptpReqSend (s t : State) {eport} (h : exec (.ptpReqSend eport) s = .next t) : Kept s t := by
  unfold exec at h; dsimp only at h; unfold execPtpReqSend at h; cases h
  repeat' first | with_reducible exact Kept.refl _ | with_reducible assumption | with_reducible apply kept_ptpReq | split | intro _ | (with_reducible first | apply Kept.upd | apply Kept.updM | apply Kept.updT | apply Kept.updTM)

theorem kept_exec_ptpMiss (s t : State) {eport} (h : exec (.ptpMiss eport) s = .next t) : Kept s t := by
  unfold exec at h; dsimp only at h; unfold execPtpMiss at h; cases h
  repeat' first | with_reducible exact Kept.refl _ | with_reducible assumption | with_reducible apply kept_ptpMiss | split | intro _ | (with_reducible first | apply Kept.upd | apply Kept.updM | apply Kept.updT | apply Kept.updTM)

theorem kept_exec_fell (s t : State) {n} (h : exec (.fell n) s = .next t) : Kept s t := by
  unfold exec at h; dsimp only at h; unfold execFell at h; cases h
  repeat' first | with_reducible exact Kept.refl _ | with_reducible assumption | with_reducible apply kept_fellCmd | split | intro _ | (with_reducible first | apply Kept.upd | apply Kept.updM | apply Kept.updT | apply Kept.updTM)

theorem kept_exec_fcancel (s t : State) {n} (h : exec (.fcancel n) s = .next t) : Kept s t := by
  unfold exec at h; dsimp only at h; unfold execFcancel at h; cases h
  repeat' first | with_reducible exact Kept.refl _ | with_reducible assumption | with_reducible apply kept_fcancel | split | intro _ | (with_reducible first | apply Kept.upd | apply Kept.updM | apply Kept.updT | apply Kept.updTM)

theorem kept_exec_fellReady (s t : State) {n} (h : exec (.fellReady n) s = .next t) : Kept s t := by
  unfold exec at h; dsimp only at h; unfold execFellReady at h; cases h
  repeat' first | with_reducible exact Kept.refl _ | with_reducible assumption | split | intro _ | (with_reducible first | apply Kept.upd | apply Kept.updM | apply Kept.updT | apply Kept.updTM)

theorem kept_exec_fellApply (s t : State) {n} (h : exec (.fellApply n) s = .next t) : Kept s t := by
  unfold exec at h; dsimp only at h; unfold execFellApply at h; cases h
  repeat' first | with_reducible exact Kept.refl _ | with_reducible assumption | with_reducible apply kept_fellApply | with_reducible apply kept_holdDue | split | intro _ | (with_reducible first | apply Kept.upd | apply Kept.updM | apply Kept.updT | apply Kept.updTM)

theorem kept_exec_digestComplete (s t : State) {reply} (h : exec (.digestComplete reply) s = .next t) : Kept s t := by
  unfold exec at h; dsimp only at h; unfold execDigestComplete at h; cases h
  repeat' first | with_reducible exact Kept.refl _ | with_reducible assumption | with_reducible apply kept_digestComplete | split | intro _ | (with_reducible first | apply Kept.upd | apply Kept.updM | apply Kept.updT | apply Kept.updTM)

theorem kept_exec_fixedRelease (s t : State) {reply} (h : exec (.fixedRelease reply) s = .next t) : Kept s t := by
  unfold exec at h; dsimp only at h; unfold execFixedRelease at h; cases h
  repeat' first | with_reducible exact Kept.refl _ | with_reducible assumption | with_reducible apply kept_fixedRelease | split | intro _ | (with_reducible first | apply Kept.upd | apply Kept.updM | apply Kept.updT | apply Kept.updTM)

theorem kept_exec_scrubRead (s t : State) {die} {area} {addr} {err} (h : exec (.scrubRead die area addr err) s = .next t) : Kept s t := by
  unfold exec at h; dsimp only at h; unfold execScrubRead at h; cases h
  repeat' first | with_reducible exact Kept.refl _ | with_reducible assumption | with_reducible apply kept_scrubRead | split | intro _ | (with_reducible first | apply Kept.upd | apply Kept.updM | apply Kept.updT | apply Kept.updTM)

theorem kept_exec_scrubLate (s t : State) {die} (h : exec (.scrubLate die) s = .next t) : Kept s t := by
  unfold exec at h; dsimp only at h; unfold execScrubLate at h; cases h
  repeat' first | with_reducible exact Kept.refl _ | with_reducible assumption | with_reducible apply kept_setRw | split | intro _ | (with_reducible first | apply Kept.upd | apply Kept.updM | apply Kept.updT | apply Kept.updTM)

theorem kept_exec_laneFailing (s t : State) {die} {lane} (h : exec (.laneFailing die lane) s = .next t) : Kept s t := by
  unfold exec at h; dsimp only at h; unfold execLaneFailing at h; cases h
  repeat' first | with_reducible exact Kept.refl _ | with_reducible assumption | with_reducible apply kept_laneFailing | split | intro _ | (with_reducible first | apply Kept.upd | apply Kept.updM | apply Kept.updT | apply Kept.updTM)

theorem kept_exec_sweepDone (s t : State) {die} (h : exec (.sweepDone die) s = .next t) : Kept s t := by
  unfold exec at h; dsimp only at h; unfold execSweepDone at h; cases h
  repeat' first | with_reducible exact Kept.refl _ | with_reducible assumption | with_reducible apply kept_sweepDone | split | intro _ | (with_reducible first | apply Kept.upd | apply Kept.updM | apply Kept.updT | apply Kept.updTM)

theorem kept_exec_patrolScrub (s t : State) {die} {addr} {err} (h : exec (.patrolScrub die addr err) s = .next t) : Kept s t := by
  unfold exec at h; dsimp only at h; unfold execPatrolScrub at h; cases h
  repeat' first | with_reducible exact Kept.refl _ | with_reducible assumption | with_reducible apply kept_patrol | split | intro _ | (with_reducible first | apply Kept.upd | apply Kept.updM | apply Kept.updT | apply Kept.updTM)

theorem kept_exec_bridgeLaneCheck (s t : State) {die} {toDie} {bad} (h : exec (.bridgeLaneCheck die toDie bad) s = .next t) : Kept s t := by
  unfold exec at h; dsimp only at h; unfold execBridgeLaneCheck at h; cases h
  repeat' first | with_reducible exact Kept.refl _ | with_reducible assumption | with_reducible apply kept_bridgeCheck | split | intro _ | (with_reducible first | apply Kept.upd | apply Kept.updM | apply Kept.updT | apply Kept.updTM)

theorem kept_exec_bridgeUe (s t : State) {die} {slots} (h : exec (.bridgeUe die slots) s = .next t) : Kept s t := by
  unfold exec at h; dsimp only at h; unfold execBridgeUe at h; cases h
  repeat' first | with_reducible exact Kept.refl _ | with_reducible assumption | with_reducible apply kept_bridgeUe | split | intro _ | (with_reducible first | apply Kept.upd | apply Kept.updM | apply Kept.updT | apply Kept.updTM)

theorem kept_exec_checkEvent (s t : State) {unit} {check} {slots} {readable} (h : exec (.checkEvent unit check slots readable) s = .next t) : Kept s t := by
  unfold exec at h; dsimp only at h; unfold execCheckEvent at h; cases h
  repeat' first | with_reducible exact Kept.refl _ | with_reducible assumption | with_reducible apply kept_checkEvent | split | intro _ | (with_reducible first | apply Kept.upd | apply Kept.updM | apply Kept.updT | apply Kept.updTM)

theorem kept_exec_replaceDone (s t : State) {unit} (h : exec (.replaceDone unit) s = .next t) : Kept s t := by
  unfold exec at h; dsimp only at h; unfold execReplaceDone at h; cases h
  repeat' first | with_reducible exact Kept.refl _ | with_reducible assumption | with_reducible apply kept_replaceDone | split | intro _ | (with_reducible first | apply Kept.upd | apply Kept.updM | apply Kept.updT | apply Kept.updTM)

theorem kept_exec_suspectExpire (s t : State) {unit} (h : exec (.suspectExpire unit) s = .next t) : Kept s t := by
  unfold exec at h; dsimp only at h; unfold execSuspectExpire at h; cases h
  repeat' first | with_reducible exact Kept.refl _ | with_reducible assumption | split | intro _ | (with_reducible first | apply Kept.upd | apply Kept.updM | apply Kept.updT | apply Kept.updTM)

theorem kept_exec_cruiseSlot (s t : State) (h : exec (.cruiseSlot) s = .next t) : Kept s t := by
  unfold exec at h; dsimp only at h; unfold execCruiseSlot at h; cases h
  repeat' first | with_reducible exact Kept.refl _ | with_reducible assumption | with_reducible apply kept_cruiseSlot | split | intro _ | (with_reducible first | apply Kept.upd | apply Kept.updM | apply Kept.updT | apply Kept.updTM)

theorem kept_exec_cruiseTestDone (s t : State) {unit} {pass} (h : exec (.cruiseTestDone unit pass) s = .next t) : Kept s t := by
  unfold exec at h; dsimp only at h; unfold execCruiseTestDone at h; cases h
  repeat' first | with_reducible exact Kept.refl _ | with_reducible assumption | with_reducible apply kept_testDone | split | intro _ | (with_reducible first | apply Kept.upd | apply Kept.updM | apply Kept.updT | apply Kept.updTM)

theorem kept_exec_retire (s t : State) {val} (h : exec (.retire val) s = .next t) : Kept s t := by
  unfold exec at h; dsimp only at h; unfold execRetire at h; cases h
  repeat' first | with_reducible exact Kept.refl _ | with_reducible assumption | with_reducible apply kept_act | split | intro _ | (with_reducible first | apply Kept.upd | apply Kept.updM | apply Kept.updT | apply Kept.updTM)

theorem kept_exec_unretire (s t : State) {val} (h : exec (.unretire val) s = .next t) : Kept s t := by
  unfold exec at h; dsimp only at h; unfold execUnretire at h; cases h
  repeat' first | with_reducible exact Kept.refl _ | with_reducible assumption | with_reducible apply kept_act | split | intro _ | (with_reducible first | apply Kept.upd | apply Kept.updM | apply Kept.updT | apply Kept.updTM)

theorem kept_exec_test (s t : State) {val} (h : exec (.test val) s = .next t) : Kept s t := by
  unfold exec at h; dsimp only at h; unfold execTest at h; cases h
  repeat' first | with_reducible exact Kept.refl _ | with_reducible assumption | with_reducible apply kept_act | split | intro _ | (with_reducible first | apply Kept.upd | apply Kept.updM | apply Kept.updT | apply Kept.updTM)

theorem kept_exec_memberLost (s t : State) {val} (h : exec (.memberLost val) s = .next t) : Kept s t := by
  unfold exec at h; dsimp only at h; unfold execMemberLost at h; cases h
  repeat' first | with_reducible exact Kept.refl _ | with_reducible assumption | with_reducible apply kept_act | split | intro _ | (with_reducible first | apply Kept.upd | apply Kept.updM | apply Kept.updT | apply Kept.updTM)

theorem kept_exec_memberBack (s t : State) {val} (h : exec (.memberBack val) s = .next t) : Kept s t := by
  unfold exec at h; dsimp only at h; unfold execMemberBack at h; cases h
  repeat' first | with_reducible exact Kept.refl _ | with_reducible assumption | with_reducible apply kept_act | split | intro _ | (with_reducible first | apply Kept.upd | apply Kept.updM | apply Kept.updT | apply Kept.updTM)

theorem kept_exec_heartbeat (s t : State) (h : exec (.heartbeat) s = .next t) : Kept s t := by
  unfold exec at h; dsimp only at h; unfold execHeartbeat at h; cases h
  repeat' first | with_reducible exact Kept.refl _ | with_reducible assumption | with_reducible apply kept_heartbeat | split | intro _ | (with_reducible first | apply Kept.upd | apply Kept.updM | apply Kept.updT | apply Kept.updTM)

theorem kept_exec_leaveService (s t : State) (h : exec (.leaveService) s = .next t) : Kept s t := by
  unfold exec at h; dsimp only at h; unfold execLeaveService at h; cases h
  repeat' first | with_reducible exact Kept.refl _ | with_reducible assumption | with_reducible apply kept_leaveService | split | intro _ | (with_reducible first | apply Kept.upd | apply Kept.updM | apply Kept.updT | apply Kept.updTM)

theorem kept_exec_twinRecord (s t : State) {r} (h : exec (.twinRecord r) s = .next t) : Kept s t := by
  unfold exec at h; dsimp only at h; unfold execTwinRecord at h; cases h
  repeat' first | with_reducible exact Kept.refl _ | with_reducible assumption | with_reducible apply kept_twinRecord | split | intro _ | (with_reducible first | apply Kept.upd | apply Kept.updM | apply Kept.updT | apply Kept.updTM)

theorem kept_exec_twinMatchTimeout (s t : State) {reply} (h : exec (.twinMatchTimeout reply) s = .next t) : Kept s t := by
  unfold exec at h; dsimp only at h; unfold execTwinMatchTimeout at h; cases h
  repeat' first | with_reducible exact Kept.refl _ | with_reducible assumption | with_reducible apply kept_matchTimeout | split | intro _ | (with_reducible first | apply Kept.upd | apply Kept.updM | apply Kept.updT | apply Kept.updTM)

theorem kept_exec_kwainSilence (s t : State) (h : exec (.kwainSilence) s = .next t) : Kept s t := by
  unfold exec at h; dsimp only at h; unfold execKwainSilence at h; cases h
  repeat' first | with_reducible exact Kept.refl _ | with_reducible assumption | with_reducible apply kept_kwainSilence | split | intro _ | (with_reducible first | apply Kept.upd | apply Kept.updM | apply Kept.updT | apply Kept.updTM)

theorem kept_exec_aliveInFall (s t : State) (h : exec (.aliveInFall) s = .next t) : Kept s t := by
  unfold exec at h; dsimp only at h; unfold execAliveInFall at h; cases h
  repeat' first | with_reducible exact Kept.refl _ | with_reducible assumption | with_reducible apply kept_aliveFall | split | intro _ | (with_reducible first | apply Kept.upd | apply Kept.updM | apply Kept.updT | apply Kept.updTM)

theorem kept_exec_twinPairing (s t : State) {p} (h : exec (.twinPairing p) s = .next t) : Kept s t := by
  unfold exec at h; dsimp only at h; unfold execTwinPairing at h; cases h
  repeat' first | with_reducible exact Kept.refl _ | with_reducible assumption | with_reducible apply kept_twinPairing | split | intro _ | (with_reducible first | apply Kept.upd | apply Kept.updM | apply Kept.updT | apply Kept.updTM)

theorem kept_exec_twinLinkTimeout (s t : State) (h : exec (.twinLinkTimeout) s = .next t) : Kept s t := by
  unfold exec at h; dsimp only at h; unfold execTwinLinkTimeout at h; cases h
  repeat' first | with_reducible exact Kept.refl _ | with_reducible assumption | with_reducible apply kept_linkTimeout | split | intro _ | (with_reducible first | apply Kept.upd | apply Kept.updM | apply Kept.updT | apply Kept.updTM)

theorem kept_exec_mboxSubmit (s t : State) {hi} (h : exec (.mboxSubmit hi) s = .next t) : Kept s t := by
  unfold exec at h; dsimp only at h; unfold execMboxSubmit at h; cases h
  repeat' first | with_reducible exact Kept.refl _ | with_reducible assumption | with_reducible apply kept_mboxSubmit | split | intro _ | (with_reducible first | apply Kept.upd | apply Kept.updM | apply Kept.updT | apply Kept.updTM)

theorem kept_exec_send (s t : State) {n} (h : exec (.send n) s = .next t) : Kept s t := by
  unfold exec at h; dsimp only at h; unfold execSend at h; cases h
  repeat' first | with_reducible exact Kept.refl _ | with_reducible assumption | with_reducible apply kept_sendCmd | split | intro _ | (with_reducible first | apply Kept.upd | apply Kept.updM | apply Kept.updT | apply Kept.updTM)

theorem kept_exec_identify (s t : State) {n} (h : exec (.identify n) s = .next t) : Kept s t := by
  unfold exec at h; dsimp only at h; unfold execIdentify at h; cases h
  repeat' first | with_reducible exact Kept.refl _ | with_reducible assumption | with_reducible apply kept_identify | split | intro _ | (with_reducible first | apply Kept.upd | apply Kept.updM | apply Kept.updT | apply Kept.updTM)

theorem kept_exec_enroll (s t : State) {n} (h : exec (.enroll n) s = .next t) : Kept s t := by
  unfold exec at h; dsimp only at h; unfold execEnroll at h; cases h
  repeat' first | with_reducible exact Kept.refl _ | with_reducible assumption | with_reducible apply kept_enroll | split | intro _ | (with_reducible first | apply Kept.upd | apply Kept.updM | apply Kept.updT | apply Kept.updTM)

theorem kept_exec_evqRead (s t : State) {q} (h : exec (.evqRead q) s = .next t) : Kept s t := by
  unfold exec at h; dsimp only at h; unfold execEvqRead at h; cases h
  repeat' first | with_reducible exact Kept.refl _ | with_reducible assumption | with_reducible apply kept_evqRead | split | intro _ | (with_reducible first | apply Kept.upd | apply Kept.updM | apply Kept.updT | apply Kept.updTM)

theorem kept_exec_dmaGo (s t : State) {n} (h : exec (.dmaGo n) s = .next t) : Kept s t := by
  unfold exec at h; dsimp only at h; unfold execDmaGo at h; cases h
  repeat' first | with_reducible exact Kept.refl _ | with_reducible assumption | with_reducible apply kept_dmaGo | split | intro _ | (with_reducible first | apply Kept.upd | apply Kept.updM | apply Kept.updT | apply Kept.updTM)

theorem kept_exec_dmaAbort (s t : State) {n} (h : exec (.dmaAbort n) s = .next t) : Kept s t := by
  unfold exec at h; dsimp only at h; unfold execDmaAbort at h; cases h
  repeat' first | with_reducible exact Kept.refl _ | with_reducible assumption | with_reducible apply kept_dmaStop | split | intro _ | (with_reducible first | apply Kept.upd | apply Kept.updM | apply Kept.updT | apply Kept.updTM)

theorem kept_exec_dmaDescDone (s t : State) {n} {d} (h : exec (.dmaDescDone n d) s = .next t) : Kept s t := by
  unfold exec at h; dsimp only at h; unfold execDmaDescDone at h; cases h
  repeat' first | with_reducible exact Kept.refl _ | with_reducible assumption | with_reducible apply kept_dmaDescDone | split | intro _ | (with_reducible first | apply Kept.upd | apply Kept.updM | apply Kept.updT | apply Kept.updTM)

theorem kept_exec_jrnlExport (s t : State) {hi} (h : exec (.jrnlExport hi) s = .next t) : Kept s t := by
  unfold exec at h; dsimp only at h; unfold execJrnlExport at h; cases h
  repeat' first | with_reducible exact Kept.refl _ | with_reducible assumption | with_reducible apply kept_jrnlExport | split | intro _ | (with_reducible first | apply Kept.upd | apply Kept.updM | apply Kept.updT | apply Kept.updTM)

theorem kept_exec_boardReset (s t : State) (h : exec (.boardReset) s = .next t) : Kept s t := by
  unfold exec at h; dsimp only at h; unfold execBoardReset at h; cases h
  repeat' first | with_reducible exact Kept.refl _ | with_reducible assumption | with_reducible apply kept_boardReset | split | intro _ | (with_reducible first | apply Kept.upd | apply Kept.updM | apply Kept.updT | apply Kept.updTM)

theorem kept_exec_softReset (s t : State) (h : exec (.softReset) s = .next t) : Kept s t := by
  unfold exec at h; dsimp only at h; unfold execSoftReset at h; cases h
  repeat' first | with_reducible exact Kept.refl _ | with_reducible assumption | with_reducible apply kept_act | split | intro _ | (with_reducible first | apply Kept.upd | apply Kept.updM | apply Kept.updT | apply Kept.updTM)

theorem kept_exec_quadReset (s t : State) {mask} (h : exec (.quadReset mask) s = .next t) : Kept s t := by
  unfold exec at h; dsimp only at h; unfold execQuadReset at h; cases h
  repeat' first | with_reducible exact Kept.refl _ | with_reducible assumption | with_reducible apply kept_act | split | intro _ | (with_reducible first | apply Kept.upd | apply Kept.updM | apply Kept.updT | apply Kept.updTM)

theorem kept_exec_flr (s t : State) (h : exec (.flr) s = .next t) : Kept s t := by
  unfold exec at h; dsimp only at h; unfold execFlr at h; cases h
  repeat' first | with_reducible exact Kept.refl _ | with_reducible assumption | with_reducible apply kept_flr | split | intro _ | (with_reducible first | apply Kept.upd | apply Kept.updM | apply Kept.updT | apply Kept.updTM)

theorem kept_exec_perst (s t : State) (h : exec (.perst) s = .next t) : Kept s t := by
  unfold exec at h; dsimp only at h; unfold execPerst at h; cases h
  repeat' first | with_reducible exact Kept.refl _ | with_reducible assumption | with_reducible apply kept_flr | split | intro _ | (with_reducible first | apply Kept.upd | apply Kept.updM | apply Kept.updT | apply Kept.updTM)

theorem kept_exec_pwrReqRun (s t : State) (h : exec (.pwrReqRun) s = .next t) : Kept s t := by
  unfold exec at h; dsimp only at h; unfold execPwrReqRun at h; cases h
  repeat' first | with_reducible exact Kept.refl _ | with_reducible assumption | with_reducible apply kept_act | split | intro _ | (with_reducible first | apply Kept.upd | apply Kept.updM | apply Kept.updT | apply Kept.updTM)

theorem kept_exec_pwrReqIdle (s t : State) (h : exec (.pwrReqIdle) s = .next t) : Kept s t := by
  unfold exec at h; dsimp only at h; unfold execPwrReqIdle at h; cases h
  repeat' first | with_reducible exact Kept.refl _ | with_reducible assumption | with_reducible apply kept_act | split | intro _ | (with_reducible first | apply Kept.upd | apply Kept.updM | apply Kept.updT | apply Kept.updTM)

theorem kept_exec_pwrReqDoze (s t : State) (h : exec (.pwrReqDoze) s = .next t) : Kept s t := by
  unfold exec at h; dsimp only at h; unfold execPwrReqDoze at h; cases h
  repeat' first | with_reducible exact Kept.refl _ | with_reducible assumption | with_reducible apply kept_act | split | intro _ | (with_reducible first | apply Kept.upd | apply Kept.updM | apply Kept.updT | apply Kept.updTM)

theorem kept_exec_dozeSaveDone (s t : State) (h : exec (.dozeSaveDone) s = .next t) : Kept s t := by
  unfold exec at h; dsimp only at h; unfold execDozeSaveDone at h; cases h
  repeat' first | with_reducible exact Kept.refl _ | with_reducible assumption | with_reducible apply kept_dozeDone | split | intro _ | (with_reducible first | apply Kept.upd | apply Kept.updM | apply Kept.updT | apply Kept.updTM)

theorem kept_exec_wakeDone (s t : State) (h : exec (.wakeDone) s = .next t) : Kept s t := by
  unfold exec at h; dsimp only at h; unfold execWakeDone at h; cases h
  repeat' first | with_reducible exact Kept.refl _ | with_reducible assumption | with_reducible apply kept_wakeDone | split | intro _ | (with_reducible first | apply Kept.upd | apply Kept.updM | apply Kept.updT | apply Kept.updTM)

theorem kept_exec_supplySample (s t : State) {rails} (h : exec (.supplySample rails) s = .next t) : Kept s t := by
  unfold exec at h; dsimp only at h; unfold execSupplySample at h; cases h
  repeat' first | with_reducible exact Kept.refl _ | with_reducible assumption | with_reducible apply kept_supplySample | split | intro _ | (with_reducible first | apply Kept.upd | apply Kept.updM | apply Kept.updT | apply Kept.updTM)

theorem kept_exec_supplyOk (s t : State) (h : exec (.supplyOk) s = .next t) : Kept s t := by
  unfold exec at h; dsimp only at h; unfold execSupplyOk at h; cases h
  repeat' first | with_reducible exact Kept.refl _ | with_reducible assumption | with_reducible apply kept_commitBoundary | with_reducible apply kept_supplyOk | split | intro _ | (with_reducible first | apply Kept.upd | apply Kept.updM | apply Kept.updT | apply Kept.updTM)

theorem kept_exec_tjSample (s t : State) {temps} (h : exec (.tjSample temps) s = .next t) : Kept s t := by
  unfold exec at h; dsimp only at h; unfold execTjSample at h; cases h
  repeat' first | with_reducible exact Kept.refl _ | with_reducible assumption | with_reducible apply kept_commitBoundary | with_reducible apply kept_tjSample | split | intro _ | (with_reducible first | apply Kept.upd | apply Kept.updM | apply Kept.updT | apply Kept.updTM)

theorem kept_exec_pfcPauseEnd (s t : State) {eport} {prio} (h : exec (.pfcPauseEnd eport prio) s = .next t) : Kept s t := by
  unfold exec at h; dsimp only at h; unfold execPfcPauseEnd at h; cases h
  repeat' first | with_reducible exact Kept.refl _ | with_reducible assumption | with_reducible apply kept_setEp | with_reducible apply kept_flushWait | split | intro _ | (with_reducible first | apply Kept.upd | apply Kept.updM | apply Kept.updT | apply Kept.updTM)

theorem kept_exec_mapFlashWriteDone (s t : State) (h : exec (.mapFlashWriteDone) s = .next t) : Kept s t := by
  unfold exec at h; dsimp only at h; unfold execMapFlashWriteDone at h; cases h
  repeat' first | with_reducible exact Kept.refl _ | with_reducible assumption | with_reducible apply kept_flashWrite | split | intro _ | (with_reducible first | apply Kept.upd | apply Kept.updM | apply Kept.updT | apply Kept.updTM)

theorem kept_exec_testPortAccess (s t : State) {req} (h : exec (.testPortAccess req) s = .next t) : Kept s t := by
  unfold exec at h; dsimp only at h; unfold execTestPortAccess at h; cases h
  repeat' first | with_reducible exact Kept.refl _ | with_reducible assumption | with_reducible apply kept_emit | split | intro _ | (with_reducible first | apply Kept.upd | apply Kept.updM | apply Kept.updT | apply Kept.updTM)

theorem kept_exec_smbusRequest (s t : State) {req} (h : exec (.smbusRequest req) s = .next t) : Kept s t := by
  unfold exec at h; dsimp only at h; unfold execSmbusRequest at h; cases h
  repeat' first | with_reducible exact Kept.refl _ | with_reducible assumption | with_reducible apply kept_writeReg | with_reducible apply kept_readReg | split | intro _ | (with_reducible first | apply Kept.upd | apply Kept.updM | apply Kept.updT | apply Kept.updTM)

end Sys2Proof.Machine
end

