-- ==== Sys2Proof/Laws/KeptBoot.lean ====
section
/-! SUPPORT. What the steps of a cold start keep: all that every command keeps, beside the raw counter, which the start of the arithmetic
domain takes to the phase of the tick. -/
namespace Sys2Proof.Machine
set_option linter.all false

/-- A state at another raw count. -/
def State.atRaw (s : State) (r : Nat) : State := { s with time.raw := r }

/-- Setting the raw counter keeps everything else. -/
theorem Kept.atRaw {s0 s : State} (hk : Kept s0 s) (r : Nat) : Kept (s0.atRaw r) (s.atRaw r) :=
  ⟨hk.pending, rfl, hk.out, hk.mem, hk.mbox, hk.boot⟩

/-- A state at its own raw count. -/
@[simp] theorem State.atRaw_self (s : State) : s.atRaw s.time.raw = s := rfl

/-- The raw count that a cold start takes the counter to. -/
def bootRaw (env : ColdEnv) (raw : Nat) : Nat := (raw + (env.phase % 4 + 4 - raw % 4) % 4) % 2 ^ 64

/-- COLD_START leaves the queue, the time, what has left the device, the memories and the mailbox as they are. -/
theorem coldStart_keeps (s : State) (env : ColdEnv) :
    (s.coldStart env).pending = s.pending ∧ (s.coldStart env).time = s.time ∧ (s.coldStart env).out = s.out ∧
    (s.coldStart env).dies = s.dies ∧ (s.coldStart env).mgmt.mbox = s.mgmt.mbox := by
  unfold State.coldStart
  split
  · exact ⟨rfl, rfl, rfl, rfl, rfl⟩
  · exact ⟨rfl, rfl, rfl, rfl, rfl⟩

/-- The start of the arithmetic domain keeps what every command keeps, at the raw count of the phase. -/
theorem kept_bootTick {s0 : State} (s : State) (env : ColdEnv) (hk : Kept s0 s) :
    Kept (s0.atRaw (bootRaw env s.time.raw)) (s.bootTick env) := by
  unfold State.bootTick
  extract_lets ok t0 u0 m0 s1
  have h1 : Kept (s0.atRaw (bootRaw env s.time.raw)) s1 := Kept.updTM (hk.atRaw _)
  split
  · exact kept_applySettings (hk := h1) ..
  · exact h1

/-- With no cold start under way there is no step of one. -/
theorem bootStep_idle (s : State) (h : s.mgmt.booting = none) : s.bootStep = s := by
  unfold State.bootStep
  rw [h]

/-- A step of a cold start keeps what every command keeps, at a raw count that it leaves or takes to the phase. -/
theorem kept_bootStep {s0 : State} (s : State) (hk : Kept s0 s) :
    Kept s0 s.bootStep ∨ ∃ env, Kept (s0.atRaw (bootRaw env s.time.raw)) s.bootStep := by
  unfold State.bootStep
  split
  · exact .inl hk
  · next env _ =>
    split
    · split
      · exact .inl (Kept.updB hk)
      · exact .inl (kept_bootFirmware (hk := hk) ..)
    · exact .inl (Kept.updM hk)
    · exact .inl (kept_bootUnits (hk := hk) ..)
    · exact .inr ⟨env, kept_bootTick s env hk⟩
    · split
      · exact .inl (kept_bootReady (hk := hk) ..)
      · exact .inl (Kept.updM hk)
    · exact .inl (kept_bootReady (hk := hk) ..)

end Sys2Proof.Machine
end

