-- ==== Sys2Proof/Tests/Slice0.lean ====
section
/-! SUPPORT. Tests of the model: for every statement with hypotheses, states and operands that meet them, clause by clause; the
checks of well-formedness; and small results worked out from the spec. -/
namespace Sys2Proof.Tests
open Sys2Proof.Machine
set_option Elab.async false

/-! ## States of the tests -/

/-- Every claim of a list holds. -/
def all (l : List Bool) : Bool := l.all id
/-- A value is there. -/
def has {α : Type} (o : Option α) : Bool := o.isSome
/-- A command answers a next state that meets a test. -/
def goes (c : Instr) (s : State) (p : State → Bool := fun _ => true) : Bool :=
  match exec c s with
  | .next t => p t
  | _ => false
/-- Registers of a committed set. -/
def regs (l : List (Nat × Nat)) : Tbl Word := l.foldl (fun t x => Tbl.put t x.1 (BitVec.ofNat 32 x.2)) []
/-- The reset state with registers of the committed set. -/
def withCfg (l : List (Nat × Nat)) : State := { State.reset with regs.cfg := regs l }
/-- A list of n bytes, zero but for those listed. -/
def bytesOf (n : Nat) (l : List (Nat × Nat)) : List Byte :=
  (List.range n).map (fun i => match l.find? (fun x => x.1 == i) with | some x => BitVec.ofNat 8 x.2 | none => 0)
/-- An origin with nothing in it. -/
def org0 : Origin :=
  { eport := 0, lport := 0, win := [], flen := 0, stamp := {}, raw := 0, sub := 0, desc := {}, metadata := [], handler := 0,
    cfg := [], exact := false, hdrEnd := 0 }
/-- A frame of zeros that has ended. -/
def frame0 : Frame :=
  { eport := 0, lport := 0, bytes := List.replicate 100 0, handed := 100, ended := true, stamp := {}, raw := 0, sub := 0, spec := false
    cws := [], handler := 0 }

/-- A configuration with quad 0 as one port, a handler that every frame selects, MAX_LEN 1,024 and a template on carriage 2;
the first parser instruction is `w`. -/
def parserCfg (w : Nat) : Tbl Word :=
  regs [(Reg.PORT_QCFG 0, 2 ^ 31), (Reg.PRS_CTL, 2 ^ 31), (Reg.PRS_SEL_w4 0, 2 ^ 31), (Reg.PRS_HDL_w0 0, 2 ^ 31), (Reg.PRS_HDL_w1 0, 16),
        (Reg.PRS_HDL_w2 0, 2 ^ 31), (Reg.PRS_IMEM 0, w), (Reg.RPLY_TMPL_hdr 0, 2 ^ 31), (Reg.RPLY_SPECCTL, 1), (Reg.BOOM_CTL, 2 ^ 31)]
/-- A head at the instruction `w` with the registers h. -/
def head0 (w : Nat) (h : Tbl Nat := []) : Head :=
  { frame := 0, cfg := parserCfg w, exact := false, handler := 0, pc := 0, h := h }
/-- A state in service with that head on frame 0. -/
def headState (w : Nat) (f : Frame := frame0) (h : Tbl Nat := []) (d : Desc := {}) : State :=
  { State.reset with regs.cfg := parserCfg w, frames := [(0, f)], heads := [(0, { head0 w h with desc := d })], mgmt.inService := true
                     power.inReset := false }
/-- Head 0 stands at opcode opc, on its frame, not parked. -/
def atOpc (s : State) (opc : Nat) : Bool :=
  match Tbl.find s.heads 0 with
  | some hd => has (Tbl.find s.frames hd.frame) && opcOf hd.instr == opc && hd.park == none
  | none => false
/-- A destination of carriage 2 on logical port 0. -/
def dest0 : Dest := ⟨2, 0, 0, 0, 0, 0, 0, none, none, 0, 0⟩
/-- A message slot in a stage. -/
def msg0 (st : MsgStage) : Msg := { org := org0, owner := ⟨0, 0, 0⟩, frames := [], parts := [], stage := st }
/-- A reply at a stage. -/
def reply0 (st : RStage) : Reply := { org := org0, slot := none, frames := [], kind := 0, status := 0, dest := some dest0, stage := st }
/-- An Ethernet port of quad 0 in service. -/
def portsUp : Tbl EPort := [(0, { state := 3 })]

/-- The first 768 bytes of a program image: one logical core with the instruction `w`, one data token a message, a result of 8
bytes (Tables 6-7 to 6-9). -/
def imageBody (w : Nat) : List Byte :=
  bytesOf 128 [(0, 0x43), (1, 0x4B), (2, 0x41), (3, 0x50), (4, 1), (6, 0x80), (10, 1), (12, 1), (14, 1), (15, 1), (16, 1), (20, 1), (22, 1),
    (24, 8), (28, 0xFF), (29, 0xFF), (36, 0xFF), (37, 0xFF), (41, 0x10), (48, 0x40), (49, 3), (56, 128), (72, 192), (81, 1), (89, 3)] ++
  bytesOf 64 [(6, 1), (8, 1), (10, 1)] ++ leBytes 8 w ++ List.replicate 568 0
/-- A device memory at zero with the whole image of `w`, its digest as a number; the other bytes of the image are zero. -/
def withImage (w digest : Nat) (s : State) : State :=
  (((s.devWrite 0 ((imageBody w).take 91)).devWrite 134 [1, 0, 1, 0, 1]).devWrite 192 (leBytes 8 w)).devWrite 768 (beBytes 32 digest)
/-- Version 1 of a program with the instruction `w`, its copy 0 on stand 0 of die 0. -/
def prog0 (w : Nat) : Version :=
  { kind := 1, number := 1, image := (imageBody w).take 200, imageAt := 0, digest := [], desc := []
    acopies := [(0, { die := 0, stands := [0], pages := [[0]] })] }
/-- A version of a forest with the load descriptor d. -/
def forest0 (d : List Byte) : Version :=
  { kind := 0, number := 1, image := [], imageAt := 0, digest := [], desc := d, fcopies := [(0, { lanes := [(0, 0, 0, 0)] })] }
/-- A device in service. -/
def running0 : State := { State.reset with mgmt.inService := true, power.inReset := false, time.running := true }
/-- A mailbox that holds one command with the 64 descriptor bytes listed. -/
def boxed (l : List (Nat × Nat)) (s : State := running0) : State :=
  { s with mgmt.mbox := [{ addr := 0, desc := bytesOf 64 l, origin := 1 }] }

/-! ## Steps and the invariant -/

/-- Reset satisfies the invariant. -/
theorem test_reset_inv : State.reset.inv = true := by decide
/-- A state with a command in front and one behind, for the statements about a step and about a command. -/
theorem wit_steps : all
    [ ({ State.reset with pending := [.flr, .boardReset] } : State).inv,
      goes .flr { State.reset with pending := [.boardReset] } (fun t => t.pending == [.boardReset] && t.out == []),
      goes .aonLoss State.reset, State.reset.pending == [],
      State.reset.power.vreset == false && State.reset.power.holdReset == false && State.reset.mgmt.leaveDue == false,
      State.reset.mgmt.booting == none && State.reset.pcieUp == false ] = true := by decide

/-! ## Registers -/

/-- Registers with a bit of each access type, and one with a reserved bit. -/
theorem wit_access_types : all
    [ plainOff Reg.TIME_QUAL && (regMask Reg.TIME_QUAL .rw).getLsbD 0 && !(regMask Reg.TIME_QUAL .w1c).getLsbD 0,
      plainOff (Reg.GCTL_EVQ_w1 0) && (regMask (Reg.GCTL_EVQ_w1 0) .w1c).getLsbD 31 && !(regMask (Reg.GCTL_EVQ_w1 0) .rw).getLsbD 31,
      plainOff Reg.RPR_CTL && (regMask Reg.RPR_CTL .rws).getLsbD 0 && !(regMask Reg.RPR_CTL .rwl).getLsbD 0,
      !(regMask Reg.RPR_CTL .rw).getLsbD 0 && !(regMask Reg.RPR_CTL .w1c).getLsbD 0,
      !(regMask Reg.TIME_QUAL .rws).getLsbD 0 && !(regMask Reg.TIME_QUAL .rwl).getLsbD 0,
      idxOf Reg.TIME_QUAL (Reg.TIME_CAP_w0 0) 0x20 6 == none && plainOff (Reg.TIME_CAP_w0 5), !isLatched Reg.PRS_CTL && !isInc Reg.PRS_CTL && plainOff Reg.PRS_CTL && !(fieldBits Reg.PRS_CTL).getLsbD 30 ] = true := by decide
/-- An RWL register with a written bit. -/
theorem wit_rwl : all
    [ plainOff 0x404 && (regMask 0x404 .rwl).getLsbD 31 && !(regMask 0x404 .rws).getLsbD 31 && !(regMask 0x404 .rw).getLsbD 31 ] = true := by
  decide
/-- A latching register, a pair at its bounds, a time-exchange port, narrow and misaligned accesses. -/
theorem wit_pairs : all
    [ ({ State.reset with mgmt.stage := 2 } : State).pcieUp, (latchesOf Reg.TIME_NOW_SEC_LO).contains Reg.TIME_NOW_NS && !isLatched Reg.TIME_NOW_SEC_LO && Reg.TIME_NOW_SEC_LO % 4 == 0,
      decide (State.reset.jrnlExp ≤ 0 ∧ 0 ≤ State.reset.mgmt.jr.next), decide (State.reset.mgmt.jr.next < 2 ^ 32),
      decide (47 < 48), decide (2 % 4 + 2 ≤ 4 ∧ 2 ≠ 4), decide (0 % 4 = 0 ∧ 0 + 8 ≤ 0x4000000),
      decide (1 < 4 ∧ 0x2FFFFFF % 4 + 1 ≤ 4 ∧ 0x2FFFFFF < 0x3000000 ∧ ¬(0x80000 ≤ 0x2FFFFFF ∧ 0x2FFFFFF < 0x88000)),
      State.reset.sweepAt (0x2FFFFFF / 4 * 4) == false ] = true := by decide
/-- A narrow read answers the addressed byte in its place, and zero in the others. -/
theorem test_narrow_read : goes (.reg64LoRead ⟨Reg.TIME_STEP_SEC_LO + 1, 1⟩) { State.reset with mgmt.stage := 2, regs.rw := regs [(Reg.TIME_STEP_SEC_LO, 0x1234)] }
    (fun t => t.out == [.read Reg.TIME_STEP_SEC_LO 0x1200]) = true := by decide +kernel
/-- A selected context, conversation and map entry. -/
theorem wit_selected : all
    [ has (Tbl.find ({ State.reset with ctxs := [(3 * 4096, { state := 1, handle := 0, version := 1, copy := 0, cslot := 0, conv := none })] }
        : State).ctxs (3 * 4096 + State.reset.rw (Reg.SEQ_SEL 3) 11 0)),
      has (({ State.reset with units.map := [{ unit := ⟨4, 0, 0, 0, 0⟩, cause := 6 }] } : State).units.map[State.reset.rw
        Reg.RPR_MAPSEL 11 0]?) ] = true := by decide

/-! ## Commits -/

/-- An idle commit, a busy one, one whose frozen set passes, one that fails, one that waits for its boundary. -/
theorem wit_commit :
    let busy : State := { State.reset with mgmt.commit.busy := true, regs.frozen := some [] }
    let bad := regs [(Reg.PORT_QCFG 0, 3 * 2 ^ 28)]
    all
    [ State.reset.commitBusy == false, ({ State.reset with mgmt.mbox := [{ addr := 0, desc := [], origin := 1, taken := some [] }] } : State).commitBusy,
      busy.mgmt.commit.busy && busy.commitBusy && busy.mgmt.commit.valid == false && busy.moving == false,
      (busy.validateSet bad 1 false).1 != 0 ] = true := by decide +kernel
/-- A set that passes its checks and applies. -/
theorem wit_commit_passes :
    let good := regs [(Reg.GCTL_STRIPE_LO, 2 ^ 32 - 2), (Reg.JRNL_RING_LO, 2 ^ 26)]
    let go : State := { State.reset with mgmt.commit.busy := true, regs.frozen := some good }
    all
    [ (go.validateSet good 1 false).1 == 0,
      goes .commitApply { go with mgmt.commit.valid := true, mgmt.commit.due := true } (fun t => t.regs.cfg == good && !t.mgmt.commit.busy) ] = true := by decide +kernel
/-- Sets that fail each of the first three checks. -/
theorem wit_checks : (fieldFails (regs [(Reg.PORT_QCFG 0, 3 * 2 ^ 28)])).any (fun x => x != 0) = true := by decide +kernel
theorem wit_checks_port :
    (let f := regs [(Reg.PORT_QCFG 0, 2 ^ 31), (Reg.PORT_EPCFG 0 0, 63 * 2 ^ 16)]
     fieldFails f == [] && portFails f != []) = true := by decide +kernel
theorem wit_checks_parser :
    (let f := regs [(Reg.PRS_HDL_w0 0, 2 ^ 31 + 4095 * 2 ^ 16 + 64)]
     fieldFails f == [] && portFails f == [] && parserFails f != []) = true := by decide +kernel

/-! ## Heads -/

/-- A head at each computing instruction and at each jump, with conditions that hold and that do not. -/
theorem wit_parser_alu : all
    ((List.range 8).map (fun k => atOpc (headState ((k + 2) * 2 ^ 26 + 2 ^ 22)) (k + 2)) ++
     [0x00, 0x10, 0x11, 0x1A, 0x20].map (fun o => atOpc (headState (o * 2 ^ 26)) o) ++
     [0, 1, 2, 3].map (fun k => atOpc (headState (0x11 * 2 ^ 26 + k * 2 ^ 15)) 0x11)) = true := by decide +kernel
/-- Loads inside the window, at its end, beyond it, beyond a whole frame, and of bytes not handed over. -/
theorem wit_parser_loads :
    let whole := { frame0 with bytes := List.replicate 1024 0, handed := 1024 }
    let part := { frame0 with handed := 3, ended := false }
    let chdr := { frame0 with bytes := bytesOf 100 [(0, 0x43), (1, 0x4B), (2, 1)] }
    all
    [ atOpc (headState (1 * 2 ^ 26 + 1023) whole) 1, goes (.prsLd 0) (headState (1 * 2 ^ 26 + 1023) whole) (fun t => has (Tbl.find t.heads 0)),
      goes (.prsLd 0) (headState (1 * 2 ^ 26 + 1024) whole) (fun t => t.heads == [] && t.rwW Reg.PRS_CNT_PROG == 1),
      goes (.prsLd 0) (headState (1 * 2 ^ 26 + 100)) (fun t => t.heads == [] && t.rwW Reg.PRS_CNT_SHORT == 1),
      goes (.prsLd 0) (headState (1 * 2 ^ 26 + 3) part) (fun t => (t.heads.map (fun x => x.2.park)) == [some 3]),
      atOpc (headState (0x21 * 2 ^ 26)) 0x21, cheteOk (slice chdr.bytes 0 32), cheteOk (slice frame0.bytes 0 32) == false,
      goes (.chdr 0) (headState (0x21 * 2 ^ 26) chdr) (fun t => (t.heads.map (fun x => x.2.desc.op)) == [some 0]),
      goes (.chdr 0) (headState (0x21 * 2 ^ 26)) (fun t => t.heads == []) ] = true := by decide +kernel
/-- Keys at the last slot and past it. -/
theorem wit_parser_keys : all
    [ goes (.keyn 0) (headState (0x18 * 2 ^ 26 + 2 ^ 18) frame0 [(1, 1023)]) (fun t => (t.heads.map (fun x => x.2.pc)) == [1]),
      goes (.keyn 0) (headState (0x18 * 2 ^ 26 + 2 ^ 18) frame0 [(1, 1024)]) (fun t => t.heads == []),
      goes (.keyr 0) (headState (0x19 * 2 ^ 26 + 2 ^ 18) frame0 [(1, 1023)]) (fun t => (t.heads.map (fun x => x.2.pc)) == [1]),
      goes (.keyr 0) (headState (0x19 * 2 ^ 26 + 2 ^ 18) frame0 [(1, 1024)]) (fun t => t.heads == []) ] = true := by decide +kernel
/-- A FAIL whose answer has a destination and a template, one that is silent, a DROP. -/
theorem wit_parser_ends :
    let f := headState (0x31 * 2 ^ 26 + 5)
    let quiet := headState (0x31 * 2 ^ 26 + 5) frame0 [] { replyTo := some 0xFF }
    let again := fun (s : State) => { s with msgs := [(4, { msg0 .rerun with frames := [0] })] }
    all
    [ atOpc f 0x31 && atOpc quiet 0x31 && atOpc (headState (0x32 * 2 ^ 26)) 0x32, stExactUnavailable != 5,
      (match answerDest ((head0 0).origin frame0) with | .ok d => hasTmpl ((head0 0).origin frame0) d | _ => false),
      (match answerDest (({ head0 0 with desc := { replyTo := some 0xFF } } : Head).origin frame0) with | .silent => true | _ => false),
      goes (.fail 0) f (fun t => t.replies.map (fun r => r.2.status) == [5]), goes (.fail 0) quiet (fun t => t.replies == []),
      goes (.drop 0) (headState (0x32 * 2 ^ 26)) (fun t => t.frames == []),
      f.rerunMsg 0 == none, has (again f |>.rerunMsg 0), goes (.fail 0) (again f) (fun t => t.replies.length == 1), atOpc (headState (0x31 * 2 ^ 26 + stExactUnavailable)) 0x31,
      has (again (headState (0x32 * 2 ^ 26)) |>.rerunMsg 0), goes (.drop 0) (again (headState (0x32 * 2 ^ 26))) (fun t => t.frames == []),
      bitsOf (0x31 * 2 ^ 26 + stExactUnavailable) 7 0 == stExactUnavailable ] = true := by decide +kernel
/-- A frame that a handler takes, one that nothing takes; a head that starts; heads that resume and that stay. -/
theorem wit_frames_start :
    let s : State := { headState 0 with heads := [], frames := [], eports := portsUp }
    let fr : FrameIn := { eport := 0, sub := 15, bytes := List.replicate 100 0, handed := 64, ended := false, cws := [(0, 99)] }
    let parked : State := { headState 0 { frame0 with handed := 3, ended := false } with
      heads := [(0, { head0 0 with park := some 3 }), (1, { head0 0 with frame := 7, park := some 3 })] }
    all
    [ selectHandler (s.cfgFor (s.ingressStamp 0 15)) (selKey fr.bytes 0) == some 0, decide (fr.bytes.length ≤ 9216),
      selectHandler (State.reset.cfgFor (State.reset.ingressStamp 0 0)) (selKey fr.bytes 0) == none,
      decide (0 < epLanes s.regs.cfg 0) && s.linkUp 0 && !quadNbr s.regs.cfg 0, (parseEth fr.bytes).etype != 0x8808,
      takenBefore fr.bytes == false && (s.ep 0).state != 4 && s.twinServes && s.power.state != 1 && decide (fr.bytes.length ≤ s.bufFree 0),
      goes (.frameReceive fr) s (fun t => t.frames.map (fun x => x.2.handler) == [0]),
      frame0.started == false && ({ headState 0 with heads := [] } : State).mayStart 0 frame0,
      selNeed fr.bytes ≤ 64, has (selectHandler ((headState 0).cfgFor {}) (selKey frame0.bytes 0)),
      selectHandler (State.reset.cfgFor {}) (selKey frame0.bytes 0) == none && State.reset.mayStart 0 frame0,
      goes (.headStart 0) { State.reset with frames := [(0, frame0)] } (fun t => t.frames == [] && t.rwW Reg.PRS_CNT_NOMATCH == 1),
      goes (.headStart 0) { headState 0 with heads := [] } (fun t => t.heads.length == 1),
      parked.heads.all (fun h => !h.2.waits) && ({ frame0 with handed := 3, ended := false } : Frame).keyed == false && frame0.keyed,
      goes (.headResume 0 100 true) { State.reset with frames := [(0, { frame0 with handed := 3, ended := false })] }
        (fun t => t.frames == [] && t.rwW Reg.PRS_CNT_NOMATCH == 1),
      goes (.headResume 0 64 false) parked (fun t => t.heads.map (fun x => x.2.park) == [none, some 3]) ] = true := by decide +kernel
/-- DISPATCH: each check fails alone, and a message passes them all. -/
theorem wit_dispatch :
    let d : Desc := { op := some 1, model := some 3, doff := some 32, dlen := some 1, mlen := some 1 }
    let w := 0x30 * 2 ^ 26
    let s := headState w frame0 [] d
    let org := (head0 w).origin frame0
    let wb := 0x30 * 2 ^ 26 + 2 ^ 15
    let again : State := { s with msgs := [(4, { msg0 .rerun with frames := [0], org := { org0 with desc := d } })] }
    let ver : Version := { kind := 0, number := 5, image := [], imageAt := 0, digest := [], desc := [] }
    let served : State := { s with handles := [(3, { serving := some ver })], heads := [(0, { head0 w with desc := d, vers := [(3, 5)] })] }
    let hd := { head0 w with desc := d, vers := [(3, 5)] }
    all
    [ atOpc s 0x30, has ((s.endHead 0).rerunMsg 0) == false, bitsOf w 17 15 != 1,
      atOpc (headState wb frame0 [] d) 0x30 && bitsOf wb 17 15 == 1 && check1 d true, decide (d.lastNeeded frame0.bytes.length ≤ frame0.avail),
      fld (cfgOf (parserCfg wb) Reg.BOOM_CTL) 31 31 != 0, goes (.dispatch 0) (headState wb frame0 [] d) (fun t => t.heads == []),
      goes (.dispatch 0) { headState wb frame0 [] d with heads := [(0, { head0 wb with desc := d, cfg := Tbl.del (parserCfg wb) Reg.BOOM_CTL })] }
        (fun t => t.rwW Reg.BOOM_CNT_REFUSE == 1), d.later == false && { d with frame := some 1 }.later,
      has ((again.endHead 0).rerunMsg 0) && again.mgmt.inService && sameFields (fillMlen d frame0.bytes) d,
      goes (.dispatch 0) again (fun t => t.msgs.map (fun m => m.2.stage) == [.arrived]),
      goes (.dispatch 0) { s with mgmt.inService := false } (fun t => t.replies.map (fun r => r.2.status) == [stFaultRetry]),
      check1 {} false == false, check1 d false,
      check2 { org with desc := { d with replyTo := some 1 } } == false, check2 { org with desc := d },
      decide (maxLen org < 1025), decide (1024 ≤ maxLen org),
      goes (.dispatch 0) (headState w frame0 [] { d with mlen := some 1025 }) (fun t => t.replies.map (fun r => r.2.status) == [stTooLarge]),
      goes (.dispatch 0) s (fun t => t.replies.map (fun r => r.2.status) == [stUnknownModel]),
      (s.endHead 0).servesHead hd frame0 3 == none, (served.endHead 0).servesHead hd frame0 3 == some ver,
      goes (.dispatch 0) { served with heads := [(0, { hd with desc := { d with modelVer := some 4 } })] }
        (fun t => t.replies.map (fun r => (r.2.status, r.2.info)) == [(stStaleVersion, 5)]),
      goes (.dispatch 0) served (fun t => t.heads == []),
      goes (.dispatch 0) (headState w frame0 [] { d with frame := some 1 }) (fun t => t.heads == []) ] = true := by decide +kernel
/-- The rows of the window step, at the bounds of each distance. -/
theorem wit_window :
    let own : Owner := ⟨0, 0, 0⟩
    let conv := fun (x : Conv) => ({ State.reset with convs := [(9, x)] } : State)
    let opened := fun (b : Nat) => conv { state := 1, base := b, done := [b] }
    let busy := fun (q : Nat) => ({ opened 0 with msgs := [(0, { msg0 .running with
      org := { org0 with desc := { conv := some 9, seq := some q } }, owner := own, step := some { slide := none, opened := false, atTime := 0 } })] } : State)
    let taken := fun (l : Nat) => ({ conv { state := 1, owner := ⟨1, 2, 3⟩, prior := some (0, 0, own, 0, 0, 0) } with msgs := [(0, { msg0 .running with
      org := { org0 with lport := l, desc := { conv := some 9, seq := some 3 } }, step := some { slide := none, opened := true, atTime := 0 } })] } : State)
    let is := fun (s : State) (inc q : Nat) (r : WinRes) => decide (s.winStep 9 inc q 2 own = r)
    all
    [ is (conv {}) 0 255 (.proceed none true), is (conv {}) 0 256 (.stale 0),
      is (conv { state := 3, inc := 1, base := 4 }) 2 255 (.proceed none true), is (conv { state := 3, inc := 1, base := 4 }) 1 4 (.stale 4),
      is (conv { state := 2, inc := 1, base := 4 }) 2 4 (.stale 4), is (conv { state := 1, owner := ⟨1, 2, 3⟩ }) 0 0 .owner,
      is (conv { state := 2, base := 4, final := 6 }) 0 7 (.stale 4),
      (busy 3).inProgress 9 3, is (busy 3) 0 3 .busy, is (opened 7) 0 7 .replay, is (opened 7) 0 (7 + 255) (.proceed none false),
      is (opened 7) 0 (7 + 256) (.proceed (some 8) false), is (opened 7) 0 (7 + 511) (.proceed (some 263) false),
      is (busy 0) 0 256 (.oow 0), is (busy 1) 0 256 (.proceed (some 1) false), is (opened 7) 0 (7 + 512) (.oow 7),
      (taken 3).openedNow 9 && (taken 3).fromAbove 9 2 && (taken 2).fromAbove 9 2 == false, is (taken 3) 0 0 .takeover,
      is (taken 2) 0 0 .owner, is (taken 3) 5 255 .takeover, is (taken 3) 0 256 .owner,
      is (opened 0) 0 (2 ^ 31 - 1) (.oow 0), is (opened 0) 0 (2 ^ 31) (.stale 0) ] = true := by decide +kernel
/-- Acknowledgements outside the range, to their number, and stopped by one in progress. -/
theorem wit_ack :
    let s : State := { State.reset with convs := [(9, { state := 1, base := 10, done := [10, 11] })] }
    let org := { org0 with desc := { conv := some 9, seq := some 12 } }
    let m := { msg0 .running with org := org, step := some { slide := none, opened := false, atTime := 0 } }
    let busy : State := { s with msgs := [(0, m)] }
    let d := fun (q k : Nat) => ({ seq := some q, ackv := true, ackd := k } : Desc)
    all
    [ Tbl.ok s.cache, s.effAck 9 (d 20 10) == s, s.effAck 9 (d 267 0) == s, ((s.effAck 9 (d 266 0)).conv 9).base == 266,
      ((s.effAck 9 (d 20 9)).conv 9).done == [11], busy.inProgress 9 12, ((busy.effAck 9 (d 20 5)).conv 9).base == 12 ] = true := by decide +kernel

/-! ## Verdicts, replies and the gate -/

/-- A state with port 0 in service and one reply. -/
def egr (r : Reply) : State :=
  { State.reset with regs.cfg := parserCfg 0, eports := portsUp, replies := [(0, r)], mgmt.inService := true, power.inReset := false }
/-- A state with one frame of one codeword. -/
def rx (f : Frame) : State :=
  { State.reset with regs.cfg := parserCfg 0, eports := portsUp, frames := [(0, f)], mgmt.inService := true, power.inReset := false }
/-- A codeword with a syndrome unknown, one non-zero, an ended frame, one in reception, one that runs again. -/
theorem wit_verdicts :
    let f := { frame0 with cws := [{ first := 0, last := 99 }] }
    let g := { f with cws := [{ first := 0, last := 99, zero := some false }], started := true }
    all
    [ f.cws[0]? == some { first := 0, last := 99 }, has ((rx f).cwOf 0 0) && has ((rx g).cwOf 0 0), goes (.fecSyndromeResult 0 [(0, 0)] false) (rx f) (fun t => (t.quad 0).nonzero == 1),
      goes (.fecSyndromeResult 0 [(0, 0)] true) (rx f), goes (.fecSyndromeResult 0 [] false) (rx f) (fun t => (t.quad 0).nonzero == 1),
      goes (.fecCorrectionResult 0 [(0, 0, [(0, 1)])] true) (rx g) (fun t => t.rwW (Reg.PORT_CNT_FECCOR 0) == 1),
      goes (.fecCorrectionResult 0 [(0, 0, [])] false) (rx g) (fun t => (t.quad 0).uncorr),
      frame0.ended && frame0.fcs == none && frame0.trunc == false && frame0.cws.all Cw.resolved, goes (.fcsVerdict 0) (rx frame0),
      goes (.frameTruncated 0) (rx { frame0 with ended := false, handed := 64 }) (fun t => t.rwW Reg.RPLY_CNT_TRUNC == 1),
      selectHandler ((rx frame0).cfgFor frame0.stamp) (selKey frame0.bytes frame0.lport) == some 0,
      (rx frame0).mayStart 0 { frame0 with rerun := false, spec := false, started := false },
      goes (.messageRerun 0) (rx { frame0 with rerun := true, started := true }) (fun t => t.heads.length == 1) ] = true := by decide +kernel
/-- An event of the window while not suppressed; windows that end with and without one, suppressed and not. -/
theorem wit_speculation :
    let bad : State := { State.reset with quads := [(11, { uncorr := true })] }
    let supp : State := { State.reset with quads := [(11, { supp := true })] }
    all
    [ bad.specEvent 11 && (bad.quad 11).supp == false, goes (.specSuppress 11) bad (fun t => (t.quad 11).supp),
      bad.time.tick % 250000 == 0, goes (.specWindowEnd 11) bad (fun t => (t.quad 11).uncorr == false), supp.specEvent 11 == false,
      goes (.specWindowEnd 11) supp (fun t => (t.quad 11).supp == false), State.reset.specEvent 11 == false ] = true := by decide +kernel
/-- Replies that are built with and without a digest, that may be sent, a replayed copy, fixed releases in time and late. -/
theorem wit_replies :
    let plain := reply0 .ready
    let dig := { reply0 .build with dig := .pair 0 1 }
    let fix := { reply0 .ready with fixed := some 64 }
    let at4 : State := { egr fix with time.raw := 4 }
    let slotted := { dig with slot := some 7 }
    let withMsg := fun (r : Reply) => ({ egr r with msgs := [(7, msg0 .replied)] } : State)
    let dug := fun (t : State) => t.replies.all (fun r => r.2.digest.isSome)
    all
    [ (reply0 .build).hasDig == false, dig.hasDig, goes (.replyBuild 0) (egr (reply0 .build)) (fun t => t.replies.map (fun r => r.2.stage) == [.ready]),
      goes (.replyBuild 0) (egr dig), dig.digest.isNone && goes (.replyBuild 0) (egr slotted) (fun t => t.replies.map (fun r => r.2.stage) == [.ready]),
      goes (.digestComplete 0) (egr { dig with stage := .ready }) dug, goes (.digestComplete 0) (egr dig) dug,
      goes (.digestComplete 0) (withMsg { slotted with stage := .ready }) dug, goes (.digestComplete 0) (withMsg slotted) dug,
      (egr plain).replyReady plain && (egr plain).egressOpen 0 ((egr plain).txPort plain) plain && (egr plain).holdsPort 0 == false,
      goes (.replyTransmitStart 0) (egr plain) (fun t => t.out.length == 1),
      goes (.replaySend 0) (egr { plain with kind := 3 }) (fun t => t.out.length == 1),
      at4.heldHere fix == false && at4.replyReady { fix with released := true } && at4.carries 0 fix && at4.portFree 0 && !at4.rival 0 0 64 fix && at4.txPort fix == 0,
      goes (.fixedRelease 0) at4 (fun t => t.out.length == 1),
      goes (.fixedRelease 0) { at4 with eports := [] } (fun t => t.replies.map (fun r => r.2.late) == [true]),
      goes (.fixedRelease 0) (egr { fix with doneAt := 1 }) (fun t => t.out == []) ] = true := by decide +kernel
/-- Held replies with pending and good verdicts at the bounds of the extension; kept, bad, cut and timed-out ones. -/
theorem wit_gate :
    let held := fun (e : Nat) (v : Option Bool) => { reply0 .held with ext := e, twin := v }
    let kept := { reply0 (.kept false) with slot := some 7 }
    let bad := { reply0 (.bad 1) with kind := 0 }
    all
    [ (egr (held 2040 none)).replyVerdict (held 2040 none) == .pending, (egr (held 0 (some true))).replyVerdict (held 0 (some true)) == .good,
      goes (.heldUnitDue 0) (egr (held 2040 none)) (fun t => t.replies.map (fun r => r.2.ext) == [2048]),
      goes (.heldUnitDue 0) (egr (held 0 (some true))) (fun t => t.out.length == 1),
      goes (.extensionExhausted 0) (egr (held 2048 none)) (fun t => t.rwW Reg.RPLY_CNT_STOMP_EXH == 1),
      (egr kept).replyVerdict kept == .good && kept.reissued == false && (egr kept).holdsPort 0 == false,
      ({ egr kept with eports := [] } : State).reissuePort kept dest0 false == none && (egr kept).reissuePort kept dest0 true == none,
      goes (.reissue 0) { egr kept with eports := [] } (fun t => t.rwW Reg.RPLY_CNT_LOST == 1),
      (egr bad).egressOpen 0 ((egr bad).txPort bad) { bad with content := List.replicate 256 0 },
      goes (.noticeSend 0) (egr bad) (fun t => t.out.length == 1),
      goes (.egressLinkLost 0) { egr (reply0 .sent) with eports := [(0, { state := 3, tx := some 0, busyTo := 1 })] } (fun t => t.rwW Reg.RPLY_CNT_LOST == 1),
      goes (.egressLinkLost 0) { egr (held 0 none) with eports := [(0, { state := 3, tx := some 0 })] }
        (fun t => t.replies.all (fun x => x.2.stage == .kept true)),
      goes (.egressTimeout 0) (egr (reply0 .ready)) (fun t => t.rwW Reg.CONV_CNT_EGRESS == 1),
      (egr kept).reissuePort kept dest0 false == some 0 && (egr kept).egressOpen 0 0 kept && (egr kept).twin.state != 3 && kept.twinHeld == false && has kept.slot,
      goes (.reissue 0) (egr kept) (fun t => t.out.length == 1 && t.rwW Reg.RPLY_CNT_REISSUE == 1) ] = true := by decide +kernel
/-- Effects that may apply; conversations whose quiet period is over; an expired gap; a token that waited too long. -/
theorem wit_conversations :
    let org := { org0 with desc := { conv := some 9, seq := some 0, mlen := some 8 } }
    let m : Msg := { msg0 .replied with org := org, reply := some 0, step := some { slide := none, opened := false, atTime := 0 } }
    let r := { reply0 .sent with org := org, slot := some 0 }
    let s : State := { egr r with msgs := [(0, { m with parts := [(0, 0, 8)] })] }
    let c := fun (k : Nat) => ({ State.reset with convs := [(9, { state := k })], time.raw := 4 } : State)
    let gap : State := { egr r with replies := [], msgs := [(0, { m with reply := none, gapAt := some 0 })], time.raw := 4 }
    let tok : State := { gap with msgs := [(0, { m with reply := none, stage := .waiting, ctx := some 3 })]
                                  ctxs := [(3, { state := 1, handle := 0, version := 1, copy := 0, cslot := 0, conv := some 9, p := 5 })] }
    all
    [ s.replyVerdict r == .good && m.applied == false && r.kind == 0 && s.complete { m with parts := [(0, 0, 8)] } && r.stage != .build && r.trec == none && m.gone == false && r.dest != none,
      (r.hasDig && r.digest.isNone) == false, goes (.effectsApply 0) s (fun t => t.msgs.map (fun x => x.2.applied) == [true]),
      (c 1).convMsgs 9 == [] && ((c 1).conv 9).quietFrom + ((c 1).conv 9).idleMs * 1000000 + 4 ≤ 4, goes (.convIdleClose 9) (c 1) (fun t => (t.conv 9).state == 3),
      goes (.convLingerClose 9) (c 2) (fun t => (t.conv 9).state == 3), gap.complete { m with reply := none, gapAt := some 0 } == false && !gap.frames.any (fun x => gap.undispatched x.1 x.2),
      goes (.gapTimerExpire 0) gap (fun t => t.rwW Reg.CONV_CNT_GAP == 1), decide (5 ≠ m.org.desc.sq),
      goes (.seqWaitTimeout 0) tok (fun t => t.rwW Reg.CONV_CNT_GAP == 1) ] = true := by decide +kernel

/-! ## Forests and models -/

/-- COMPARE nodes below, at and above the threshold, a PAD node; a list of scores; a NaN score beside a number. -/
theorem wit_forest : all
    [ leAt (leBytes 4 (3 * 16)) 0 4 % 16 == 0 && decide (2 < bitsOf (3 * 16) 19 4), decide (bitsOf (3 * 16) 19 4 ≤ 3),
      leAt (leBytes 4 1) 0 4 % 16 == 1, topOf false [1, 2 ^ 64 - 1, 1] == 0, decide (flOf 8 0x7FC00000 = .nan), decide (flOf 8 0 ≠ .nan) ]
      = true := by decide +kernel
/-- Samples whose version serves no copy, one that a copy takes, a full tick, a batch that opens and one that may not. -/
theorem wit_samples :
    let m := msg0 .arrived
    let f := forest0 (bytesOf 64 [(8, 1)])
    let none' := { f with fcopies := [] }
    let full := { f with fcopies := [(0, { lanes := [(0, 0, 0, 0)], tickAt := 0, taken := 8 })] }
    let batch : Version := { none' with desc := [], part := some { lanes := [], deal := [] } }
    let shut : Version := { batch with part := some { lanes := [], deal := [], canOpen := false } }
    let s := fun (v : Version) (q : List Nat) =>
      ({ running0 with msgs := [(0, { m with version := 1 })], handles := [(0, { serving := some v, queue := q })] } : State)
    let both : Version := { batch with fcopies := [(0, { lanes := [(0, 0, 0, 0)] })], desc := bytesOf 64 [(8, 1)] }
    let gone : Version := { both with part := some { lanes := [], deal := [], out := true } }
    let first := fun (o : Option (MsgStage)) (t : State) => t.msgs.map (fun x => some x.2.stage) == [o]
    all
    [ none'.serves == false, goes (.sampleAdmit 0) (s none' []) (fun t => t.rwW Reg.RPR_CNT_ITEMRETRY == 1),
      f.serves && f.part == none && (s f []).soonest f == some 0 && (s f []).admits, goes (.sampleAdmit 0) (s f []) (first (some .running)),
      (s full []).soonest full == none && full.serves && full.part == none, goes (.sampleAdmit 0) (s full []) (first (some .queued)),
      batch.serves && batch.useCopies == false && (s batch []).admits, goes (.sampleAdmit 0) (s batch []) (first (some .running)),
      shut.serves && (s shut []).admits, goes (.sampleAdmit 0) (s shut []) (fun t => t.msgs.all (fun x => x.2.stage != .running)),
      both.serves && both.useCopies && (s both []).soonest both == some 0, goes (.sampleAdmit 0) (s both []) (first (some .running)),
      (s { both with fcopies := full.fcopies } []).soonest { both with fcopies := full.fcopies } == none,
      gone.serves, goes (.sampleAdmit 0) (s gone []) (first (some .queued)), goes (.sampleAdmit 0) (s f [7]) (first (some .queued)),
      has ((s f []).leaving 0) && (s f [7]).leaving 0 != none, ((s f []).leaving 0).map (fun x => x.2) == some { m with version := 1 } ] = true := by decide +kernel
/-- A full admission queue that holds neither message. -/
theorem wit_full_queue : (List.replicate 1024 7).contains 0 = false ∧ 1024 ≤ (List.replicate 1024 7).length :=
  ⟨by rw [List.contains_eq_mem]; exact decide_eq_false (fun h => absurd (List.eq_of_mem_replicate h) (by decide)), Nat.le_of_eq List.length_replicate.symm⟩
/-- A running sample whose partials are in; a lane of a die that is late. -/
theorem wit_combine :
    let m : Msg := { msg0 .running with version := 1, forest := some { copy := some 0 } }
    let s : State := { running0 with msgs := [(0, m)], handles := [(0, { serving := some (forest0 []) })] }
    all
    [ (s.handle 0).ver 1 == some (forest0 []), goes (.combineComplete 0) s (fun t => t.replies.length == 1),
      (forest0 []).onDie (some 0) 0, goes (.partialLate 0 0) s (fun t => t.rwW (Reg.FRST_CNT_LATE 0) == 1) ]
      = true := by decide +kernel
/-- A batch that closes, one that starts, one that completes; a shadow that moves to the next lane and one that passes a lane. -/
theorem wit_batches :
    let p : BatchPart := { lanes := [(0, 0, 1)], deal := [] }
    let v := fun (p : BatchPart) => { forest0 [] with part := some p }
    let s := fun (p : BatchPart) =>
      ({ running0 with handles := [(0, { serving := some (v p) })]
                       msgs := [(3, { msg0 .running with forest := some { part := true } })] } : State)
    all
    [ goes (.batchWaitExpire 0) (s p) (fun t => decide (t = s p)), goes (.batchPassStart 0) (s p) (fun t => decide (t = s p)),
      goes (.batchPassComplete ⟨0, true⟩) (s p) (fun t => decide (t = s p)),
      decide (0 + (v p).batchWait ≤ 0), goes (.batchWaitExpire 0) (s { p with batch := [3] }) (fun t => decide (t ≠ s { p with batch := [3] })),
      (s { p with closed := [[3]] }).nextPass (v { p with closed := [[3]] }) { p with closed := [[3]] } == 0,
      goes (.batchPassStart 0) (s { p with closed := [[3]] }), goes (.batchPassComplete ⟨0, false⟩) (s { p with running := [([3], 0)] })
        (fun t => t.msgs.all (fun x => match x.2.forest with | some r => r.partDone | none => false)),
      goes (.batchPassComplete ⟨0, true⟩) (s { p with running := [([3], 0)] }) (fun t => t.msgs.all (fun x => match x.2.forest with | some r => r.partDone | none => false)),
      goes (.batchPassComplete ⟨0, true⟩) { s p with handles := [(0, { serving := some { v { p with running := [([3], 0)] } with desc := bytesOf 64 [(1, 2)] } })] },
      goes (.shadowRotate 0 0 0) (s { p with lanes := (List.range 16).map (fun j => (0, 0, j)) }) (fun t => t.units.partner == []),
      { running0 with units.tests := [(laneUnit 0 0 256, 0)] }.shadowFree 0 0 0 == false,
      (v p).streamed == false && ({ v p with desc := bytesOf 64 [(1, 2)] } : Version).streamed, (s p).shadowFree 0 0 0 && (s p).shadowable 0 0 0, goes (.shadowRotate 0 0 0) (s p) (fun t => t.units.partner == [(0, 0)]),
      { s p with units.partner := [(0, 0)] }.shadowable 0 0 1 == false && (s p).shadowable 0 0 2,
      goes (.shadowRotate 0 0 0) { s p with units.partner := [(0, 0)] } (fun t => t.units.partner == [(0, 2)]) ] = true := by decide +kernel
/-- The descriptor of a program, the machine that holds one, an image of one instruction and its digest. -/
def progDesc : List (Nat × Nat) := [(0, 0x11), (3, 1), (6, 1), (8, 1)]
def striped : State := { running0 with regs.cfg := regs [(Reg.GCTL_STRIPE_LO, 2)] }
def progBox (digest : Nat) : State := boxed progDesc (withImage (2 ^ 58 + 0x1F * 2 ^ 48 + 0x18 * 2 ^ 43 + 7 * 2 ^ 25) digest striped)
/-- A LOAD whose checks 1 to 4 fail, one whose checks pass, a load that completes. -/
theorem wit_loads :
    let bad := boxed [(0, 1)]
    let forest := boxed [(0, 1), (3, 1), (6, 1), (8, 1)] (striped.devWrite 0 (bytesOf 64 [(10, 1)]))
    let d := bytesOf 64 [(0, 1), (3, 1), (6, 1), (8, 1)]
    let done : State := { running0 with mgmt.running := [(0, { cmd := 1, handle := 0, version := 1, record := 0, origin := 1, status := 0
                                                               body := List.replicate 64 0, holds := true })] }
    all
    [ has (bad.takeCmd 0 0x01), bad.loadHead (bytesOf 64 [(0, 1)]) (loadParamBad (bytesOf 64 [(0, 1)])) true != 0,
      has (forest.takeCmd 0 0x01), forest.loadHead d (loadParamBad d) true == 0, goes (.load 0) forest (fun t => t.mgmt.running.length == 1),
      goes (.loadComplete 0) done (fun t => t.mgmt.running == []) ] = true := by decide +kernel
/-- A PLOAD whose checks 1 to 4 fail, one whose checks pass. -/
theorem wit_pload :
    let pd := bytesOf 64 progDesc
    let prog := progBox 11104705299978040732513993239474123723931153754223665375389612436581220630057
    all
    [ has ((boxed [(0, 0x11)]).takeCmd 0 0x11), (boxed [(0, 0x11)]).loadHead (bytesOf 64 [(0, 0x11)]) (ploadParamBad (bytesOf 64 [(0, 0x11)])) false != 0,
      has (prog.takeCmd 0 0x11), prog.loadHead pd (ploadParamBad pd) false == 0 ] = true := by decide +kernel
/-- An image that stages a version. -/
theorem wit_pload_stages :
    has ((progBox 11104705299978040732513993239474123723931153754223665375389612436581220630057).loadProg (bytesOf 64 progDesc)).2 = true := by
  decide +kernel
/-- An image whose digest differs. -/
theorem wit_pload_spoilt :
    (let s := progBox 0
     s.loadHead (bytesOf 64 progDesc) (ploadParamBad (bytesOf 64 progDesc)) false == 0 && (s.loadProg (bytesOf 64 progDesc)).2 == none) = true := by
  decide +kernel
/-- The PLOAD of that image. -/
theorem wit_pload_ends : goes (.pload 0) (progBox 0) (fun t => t.mgmt.running.length == 1) = true := by decide +kernel
/-- Commands on the version they name, and without one. -/
theorem wit_handles :
    let f := forest0 []
    let at0 := fun (code : Nat) (h : Handle) => boxed [(0, code)] { running0 with handles := [(0, h)] }
    let a : Handle := { serving := some (prog0 0), drained := true }
    all
    [ has ((at0 2 { staged := some f }).takeCmd 0 2), (at0 2 {}).cmdStatus (bytesOf 64 [(0, 2)]) false == 0,
      (at0 2 { staged := some f }).fellNames 0 == false && (at0 2 { staged := some f }).fevalNamed 0 == false,
      goes (.activate 0) (at0 2 { staged := some f }) (fun t => (t.handle 0).armActivate == some 1), goes (.activate 0) (at0 2 {}) (fun t => t.mgmt.mbox == []),
      has ((at0 3 { staged := some f }).takeCmd 0 3), goes (.discard 0) (at0 3 { staged := some f }) (fun t => (t.handle 0).staged == none),
      has ((at0 4 { serving := some f }).takeCmd 0 4), (at0 4 { serving := some f }).fevalNamed 0 == false,
      goes (.unload 0) (at0 4 { serving := some f }) (fun t => (t.handle 0).armUnload),
      goes (.unload 0) (at0 4 { staged := some f }) (fun t => (t.handle 0).armUnload && (t.handle 0).staged == none),
      (at0 2 {}).fellNames 0 == false && has ((at0 4 {}).takeCmd 0 4) && has ((at0 3 {}).takeCmd 0 3) && has ((at0 5 {}).takeCmd 0 5),
      has ((at0 5 { serving := some f }).takeCmd 0 5), (at0 5 {}).cmdStatus (bytesOf 64 [(0, 5)]) true == 0, goes (.query 0) (at0 5 { serving := some f }),
      has ((at0 0x13 a).takeCmd 0 0x13), (at0 0x13 a).isArray 0, goes (.resume 0) (at0 0x13 a) (fun t => (t.handle 0).drained == false) ]
      = true := by decide +kernel
/-- A drain that starts and one that completes, a version that nothing uses, a copy that is re-placed and one that is not. -/
theorem wit_drains :
    let a : Handle := { serving := some (prog0 0) }
    let at0 := fun (code : Nat) (h : Handle) => boxed [(0, code)] { running0 with handles := [(0, h)] }
    let old : State := { running0 with handles := [(0, { old := [forest0 []] })] }
    let out := { prog0 0 with acopies := [(0, { die := 0, stands := [0], pages := [[0]], out := true })] }
    let ok := { out with desc := bytesOf 64 [(3, 1), (8, 1)], digest := beBytes 32 108133428747385080897858355019561601291507972502431969627911960401646485627832 }
    all
    [ has ((at0 0x12 a).takeCmd 0 0x12) && (at0 0x12 a).isArray 0, goes (.drain 0) (at0 0x12 a) (fun t => (t.handle 0).drained),
      (at0 0 { a with drainWait := [0] }).runs == [], goes (.drainDone 0) (at0 0 { a with drainWait := [0] }) (fun t => (t.handle 0).drainWait == []),
      old.verUsed 0 1 == false, goes (.versionRelease 0 1) old (fun t => (t.handle 0).old == []),
      out.withdrawn 0, (at0 0 { serving := some out }).imageIntact out == false, (at0 0 { serving := some out }).tryReplace 0 out 0 == none,
      goes (.copyReplace 0 1 0) (at0 0 { serving := some out }), has ((at0 0 { serving := some ok }).tryReplace 0 ok 0) ] = true := by decide +kernel

/-! ## The array and its cores -/

/-- A core with the instruction `w` of a program of handle h, one run, and the tokens given in its first queue. -/
def coreState (w : Nat) (v : Version := prog0 w) (h : Nat := 0) (a : Vec := 1) : State :=
  let tok : Tok := { payload := a, tag := 0, ctx := 0, tgt := 0, side := false }
  let run : ArrayRun := { slot := none, ctx := none, pos := 0, handle := h, version := 1, copy := 0, k := 0, tag := 0, atTick := 0, exact := false }
  let fr : RegFrame := { s := [(1, 2), (2, 0x10000)] }
  { running0 with handles := [(h, { serving := some v })], runs := [(0, run)]
                  cores := [(0, { slots := [(0, { handle := some h, version := 1, imem := [(0, BitVec.ofNat 64 w)], frames := [(0, fr)] })]
                                  queues := [(0x18, [tok])] })] }
/-- The word of opcode o: A from the first queue, B from register b, DST d, FMT fmt; P0, or its complement. -/
def wordOf (o fmt : Nat) (d : Nat := 1) (b : Nat := 1) (notP : Nat := 0) : Nat :=
  o * 2 ^ 58 + notP * 2 ^ 53 + d * 2 ^ 48 + 0x18 * 2 ^ 43 + b * 2 ^ 38 + fmt * 2 ^ 31
/-- The core issues its instruction, with its predicate as said and no routed output, and it leaves its queue empty. -/
def fires (o : Nat) (c : Instr) (s : State) (eff : Bool := true) : Bool :=
  (match s.fireOf 0 0 0 0 o with | some f => f.eff == eff && f.i.routes.isEmpty | none => false) &&
  goes c s (fun t => (t.core 0).queue 0x18 == [])
/-- Every instruction that writes DST fires, with a true and with a false predicate. -/
theorem wit_core_writers : all
    (coreWriters.map (fun x => fires x.1 (x.2.1 0 0 0 0) (coreState (wordOf x.1 3 (if x.1 < 0x20 then 1 else 0x10)))) ++
     coreWriters.map (fun x => fires x.1 (x.2.1 0 0 0 0) (coreState (wordOf x.1 3 1 1 1)) false)) = true := by decide +kernel
/-- Selections, by either operand, and every mode of LI and SHR. -/
theorem wit_core_modes : all
    [ fires 0x03 (.opSel 0 0 0 0) (coreState (wordOf 3 3)), fires 0x03 (.opSel 0 0 0 0) (coreState (wordOf 3 3 1 1 1)) false,
      fires 0x21 (.opVsel 0 0 0 0) (coreState (wordOf 0x21 0 0x10)), fires 0x04 (.opAdd 0 0 0 0) (coreState (wordOf 4 8)),
      [1, 2, 3].all (fun m => fires 0x02 (.opLi 0 0 0 0) (coreState (wordOf 2 0 + m * 2 ^ 29))),
      fires 0x0D (.opShr 0 0 0 0) (coreState (wordOf 0x0D 0 + 2 ^ 29)), decide (0 < 512 / fmtWidth 3) ] = true := by decide +kernel
/-- NaN and number, the two zeros, in FP32. -/
theorem wit_compare : all
    [ isFp 8, decide (flOf 8 0x7FC00000 = .nan), decide (flOf 8 0x3F800000 ≠ .nan),
      (match flOf 8 0x80000000, flOf 8 0 with | .fin true 0 _, .fin false 0 _ => true | _, _ => false),
      decide (0xFFFFFFFF < 2 ^ fmtWidth 8), condOf 2 9 0x80000000 0 == false, condOf 2 3 0x80000000 0 ] = true := by decide +kernel
/-- Loads and stores in range and out of it, a table look-up, a transfer with a grant, an evaluation of a forest. -/
theorem wit_core_memory :
    let img := overwrite ((imageBody 0).take 200) 64 [0, 16]
    let grant := regs [(Reg.GCTL_GRANT_w0 0, 3 * 2 ^ 30), (Reg.GCTL_GRANT_w1 0, 0), (Reg.GCTL_GRANT_w2 0, 1)]
    let dma := { coreState (wordOf 0x17 0 0 2) with regs.cfg := grant }
    let fe := wordOf 0x18 0
    let s18 : State := { coreState fe { prog0 fe with image := img } 1 with handles := [(0, { serving := some (forest0 [(0), 0, 0, 0, 0, 0, 0, 0, 1]) }),
      (1, { serving := some { prog0 fe with image := img } })] }
    all
    [ fires 0x15 (.opLd 0 0 0 0) (coreState (wordOf 0x15 0 0x1F)), fires 0x33 (.opVld 0 0 0 0) (coreState (wordOf 0x33 0 0x1F)),
      fires 0x16 (.opSt 0 0 0 0) (coreState (wordOf 0x16 0 0x1F)), fires 0x34 (.opVst 0 0 0 0) (coreState (wordOf 0x34 0 0x1F 0x11)),
      fires 0x13 (.opLut 0 0 0 0) (coreState (wordOf 0x13 8)),
      fires 0x17 (.opDma 0 0 0 0) dma && dma.granted 0 64 64 false,
      (match dma.fireOf 0 0 0 0 0x17 with
        | some f => has (dma.standAddr f.hm 0 (f.b % 65536 * 64) (f.b / 65536 * 64)) && f.a == 1 && f.b == 0x10000 && decide (64 + 64 ≤ dramEnd)
                    && dma.standAddr f.hm 0 0x3FFFC0 128 == none && (dma.granted 0 65536 64 false == false)
        | none => false),
      goes (.opDma 0 0 0 0) { dma with regs.cfg := [] } (fun t => t.dmas == []), fires 0x13 (.opLut 0 0 0 0) (coreState (wordOf 0x13 8 + 1023)),
      goes (.opDma 0 0 0 0) dma (fun t => t.dmas.length == 1), fires 0x18 (.opFeval 0 0 0 0) s18,
      (match s18.fireOf 0 0 0 0 0x18 with
        | some f => (fevalRec f.hm.v.image f.hm.v.prog 0).1 == 0 && has (s18.fevalVer f.hm.v f.run 0) && (s18.standAddr f.hm 0 0x3FFFFD 4) == none | none => false),
      goes (.opFeval 0 0 0 0) { s18 with handles := Tbl.del s18.handles 0 } (fun t => t.fevals.map (fun x => x.2.bad) == [true]),
      (forest0 [(0), 0, 0, 0, 0, 0, 0, 0, 1]).stationary && has ((forest0 [(0), 0, 0, 0, 0, 0, 0, 0, 1]).fevalCopy 0),
      goes (.opFeval 0 0 0 0) s18 (fun t => t.fevals.length == 1) ] = true := by decide +kernel
/-- An array message that starts, one that waits, one whose queue is full, one that has waited its limit; a mode gap that ends. -/
theorem wit_array_admit :
    let m : Msg := { msg0 .arrived with version := 1, kind := 1 }
    let v := prog0 0
    let shut := { v with acopies := [(0, { die := 0, stands := [0], pages := [[0]], shut := true })] }
    let lost := { v with acopies := [(0, { die := 0, stands := [0], pages := [[0]], out := true })] }
    let gap := fun (t : Nat) => { prog0 (2 ^ 35) with acopies := [(0, { die := 0, stands := [0], pages := [[0]], exact := true, lastTick := some t })] }
    let past := { running0 with handles := [(0, { serving := some (gap 0) })], time.tick := 100 }
    let inMode := fun (b : Bool) (t : State) => match (t.handle 0).serving with | some w => w.acopies.all (fun c => c.2.exact == b) | none => false
    let s := fun (v : Version) (q : List Nat) =>
      ({ running0 with msgs := [(0, m)], handles := [(0, { serving := some v, queue := q })], time.tick := 1 } : State)
    all
    [ v.acopies.all (fun c => c.2.out) == false, (s v []).admits,
      (v.acopies.find? (fun c => (s v []).copyAdmits 0 v c.1 c.2 false)).isSome, goes (.arrayAdmit 0) (s v []) (fun t => t.runs.length == 1),
      (shut.acopies.find? (fun c => (s shut []).copyAdmits 0 shut c.1 c.2 false)).isNone,
      goes (.arrayAdmit 0) (s shut []) (fun t => (t.handle 0).queue == [0]),
      shut.acopies.all (fun c => (s shut [0]).copyHeld 0 shut c.2), goes (.admitQueueTimeout 0) (s shut [0]) (fun t => (t.handle 0).queue == []),
      has ((s v []).leaving 0), v.acopies.all (fun c => c.2.out) == false, goes (.arrayAdmit 0) (s lost []) (fun t => t.rwW Reg.RPR_CNT_ITEMRETRY == 1),
      (gap 0).acopies.all (fun c => past.modeGap (gap 0) c.2 false == false), goes (.modeGapEnd 0 0) past (inMode false),
      (gap 1).acopies.all (fun c => (s (gap 1) []).modeGap (gap 1) c.2 false), goes (.modeGapEnd 0 0) (s (gap 1) []) (inMode true) ] = true := by decide +kernel
/-- Tokens on their way to a queue and to the result; runs checked with FIRES met and missed; results all there and missing. -/
theorem wit_array_checks :
    let tok : Tok := { payload := 1, tag := 0, ctx := 0, tgt := 0, side := false }
    let fl := fun (q : Nat) => ({ coreState 0 with flights := [(0, { core := 0, queue := q, run := 0, tok := tok })] } : State)
    let entry := fun (q : List Tok) => ({ coreState 0 with flights := [(0, { core := 0, queue := 0x19, run := 0, tok := tok, entry := true })], cores := [(0, { queues := [(0x19, q)] })] } : State)
    let run : ArrayRun := { slot := some 0, ctx := none, pos := 0, handle := 0, version := 1, copy := 0, k := 0, tag := 0, atTick := 0, exact := false }
    let at1 := fun (r : ArrayRun) => ({ coreState 0 with runs := [(0, r)], time.tick := 1, msgs := [(0, { msg0 .running with kind := 1, version := 1 })] } : State)
    all
    [ decide (((fl 0x19).core 0).queue 0x19 = []) && decide (0 < (fl 0x19).queueCap 0 0x19),
      goes (.tokenArrive 0 true) { fl 0x19 with runs := [(0, { run with overrun := true })] } (fun t => t.flights == []),
      goes (.tokenArrive 0 true) (fl 0x19) (fun t => ((t.core 0).queue 0x19).length == 1),
      (entry (List.replicate 8 tok)).queueFree 0 0x19 1 == false && goes (.tokenArrive 0 true) (entry (List.replicate 8 tok)) (fun t => t.flights.length == 1),
      (entry []).queueFree 0 0x19 1 && goes (.tokenArrive 0 false) (entry []) (fun t => ((t.core 0).queue 0x19).map (·.bad) == [true]),
      goes (.tokenArrive 0 true) (fl 0x1F) (fun t => t.runs.any (fun r => r.2.results != [])),
      goes (.tokenArrive 0 false) (fl 0x19) (fun t => ((t.core 0).queue 0x19).map (·.bad) == [true]),
      has ((at1 run).home 0 0), (((at1 run).home 0 0).map (fun hm => (hm.v.crec hm.i).fires)) == some 1,
      goes (.firesCheck 0 0 0) (at1 { run with fires := [(0, 1)] }) (fun t => t.runs.map (fun r => r.2.checked) == [[0]]),
      goes (.firesCheck 0 0 0) (at1 run) (fun t => t.runs.all (fun r => r.2.overrun)), (prog0 0).prog.nRes == 1,
      goes (.resultCountCheck 0) (at1 { run with results := [(0, 5)], nres := 1 }) (fun t => t.replies.length == 1),
      goes (.resultCountCheck 0) (at1 { run with results := [(0, 5)], nres := 1, bad := true }) (fun t => t.runs == []),
      goes (.resultCountCheck 0) (at1 { run with overrun := true }) (fun t => t.runs == []), goes (.resultCountCheck 0) (at1 { run with slot := none, ctx := some 3 }),
      goes (.resultCountCheck 0) (at1 { run with slot := none, ctx := some 3, stepped := true }),
      goes (.resultCountCheck 0) (at1 run) (fun t => t.runs == []) ] = true := by decide +kernel
/-- An evaluation in time and one too late; transfers each way. -/
theorem wit_feval_dma :
    let fe : Feval := { core := 0, slot := 0, tag := 0, tgt := 0, side := false, run := 0, handle := 0, version := 1, atTick := 0, latency := 0
                        payloads := [1], top := 0, nan := false, sat := false, bad := false }
    let s : State := { coreState 0 with fevals := [(0, fe)] }
    let dma : StandDma := { core := 0, slot := 0, run := 0, tag := 0, tgt := 0, side := false, nan := false, sat := false, bad := false
                            toDram := true, dev := 0, sram := [(0, 64)], own := true, len := 64 }
    let overs := fun (t : State) => { t with runs := t.runs.map (fun r => (r.1, { r.2 with overrun := true })) }
    all
    [ has (State.home { s with fevals := [] } 0 0), goes (.fevalResult ⟨0, true, true⟩) s (fun t => ((t.core 0).queue 0x1D).length == 1),
      goes (.fevalResult ⟨0, false, true⟩) { s with fevals := [(0, { fe with payloads := [1, 2] })] } (fun t => ((t.core 0).queue 0x1D).map (·.bad) == [true, false]),
      goes (.fevalResult ⟨0, true, false⟩) { s with fevals := [(0, { fe with payloads := [1, 2] })] } (fun t => ((t.core 0).queue 0x1D).map (·.bad) == [false, true]),
      goes (.fevalResult ⟨0, true, true⟩) { s with time.tick := 1 } (fun t => t.runs.all (fun r => r.2.overrun)),
      goes (.dmaComplete ⟨0, true, true⟩ true) (overs { coreState 0 with dmas := [(0, dma)] }) (fun t => has (some t)), goes (.dmaComplete ⟨0, true, true⟩ false) (overs { coreState 0 with dmas := [(0, dma)] }) (fun t => t.dmas == [] && (t.core 0).queue 0x1E == []),
      goes (.dmaComplete ⟨0, true, true⟩ true) { coreState 0 with dmas := [(0, dma)] } (fun t => has (some t)),
      goes (.dmaComplete ⟨0, true, true⟩ false) { coreState 0 with dmas := [(0, { dma with bad := true })] } (fun t => ((t.core 0).queue 0x1E).map (·.bad) == [true]),
      goes (.dmaComplete ⟨0, true, true⟩ false) { coreState 0 with dmas := [(0, { dma with toDram := false })] } (fun t => ((t.core 0).queue 0x1E).length == 1) ] = true := by decide +kernel
/-- Stands in and out of service at the bounds of the aperture; instruction memory in use and free; a drain and its migration. -/
theorem wit_aperture :
    let out : State := { running0 with units.map := [{ unit := ⟨3, 3, 7, 8, 0⟩, cause := 6 }] }
    let mv : Move := ⟨coreUnit 0, 16, false, true, []⟩
    all
    [ running0.standOk 3 7 8, out.standOk 3 7 8 == false,
      goes (.apertureWrite (0x4000000000 + 3 * 2 ^ 32 + 7 * 0x10000000 + 8 * 0x1000000 + 0x1FFFFC) 1) running0 (fun t => t.dies != []),
      goes (.apertureWrite (0x4000000000 + 3 * 2 ^ 32 + 7 * 0x10000000 + 8 * 0x1000000 + 0x1FFFFC) 1) out
        (fun t => t.rwW (Reg.MEM_CNT_APDROP 3) == 1),
      decide (0 < (coreState 0).inFlight 0 0), (coreState 0).slotLive 0 0, running0.inFlight 0 3 == 0 && running0.slotLive 0 3 == false,
      decide (0x11FF8 < 0x12000 ∧ 0x11FF8 % 8 < 4), running0.coreOk 0 0 0 0 && (running0.coresOf 0).contains 0 && running0.coppice 0 0 0 == some 16,
      goes (.copyDrain 0) running0 (fun t => t.units.moves.length == 1), (prog0 0).acopies.all (fun c => ({ running0 with units.moves := [mv] } : State).copyOnUnit (prog0 0) c.2 (coreUnit 0)), running0.coreBusy 0 == false,
      goes (.migrationDone 0) { running0 with units.moves := [mv] } (fun t => t.units.moves == []),
      goes (.migrationDone 0) { running0 with units.moves := [⟨coreUnit 0, 16, true, true, []⟩] } (fun t => t.units.tests == [(coreUnit 0, 0)]) ] = true := by decide +kernel

/-! ## Sequences and reductions -/

/-- Version 1 of a sequence model: one stand, 64 state bytes, one context a copy, STEP 1, CTX_RATE 4,000,000. -/
def seq0 : Version :=
  { prog0 0 with kind := 2, image := overwrite (overwrite ((imageBody 0).take 200) 4 [2]) 104 [64, 0, 0, 0, 0, 0, 0, 0, 1, 0, 1, 0, 0, 9, 0x3D, 0, 0, 1] }
/-- A context of that model. -/
def ctx0 : Ctx := { state := 1, handle := 0, version := 1, copy := 0, cslot := 0, conv := none }
/-- A generation of one step. -/
def gen0 : GenSt :=
  { seed := 0, interval := 256, count := 1, template := 0, dest := 1, start := some 0, startSec := 0, startNs := 0, block := List.replicate 8 0 }
/-- A device with that context, and with commands and runs as given. -/
def seqState (x : Ctx) (runs : Tbl ArrayRun := []) (box : List (Nat × Nat) := []) : State :=
  boxed box { running0 with handles := [(0, { serving := some seq0 })], ctxs := [(0, x)], runs := runs, time.tick := 1
                            regs.cfg := regs [(Reg.RPLY_DEST_w0 0, 6 * 2 ^ 29), (Reg.RPLY_TMPL_hdr 0, 2 ^ 31)] }
/-- Tokens, steps, captures, rollbacks, restores, and the commands of generation. -/
theorem wit_sequences :
    let run : ArrayRun := { slot := none, ctx := some 0, pos := 0, handle := 0, version := 1, copy := 0, k := 0, tag := 0, atTick := 0, exact := false }
    let tok : State := { seqState ctx0 with msgs := [(0, { msg0 .waiting with kind := 2, version := 1, ctx := some 0 })] }
    let cp : ACopy := { die := 0, stands := [0], pages := [[0]] }
    let goodBox := [(0, 0x21), (7, 1), (11, 1)]
    let g := { ctx0 with gen := some gen0, state := 2 }
    all
    [ tok.tokReady 0 && tok.admits && tok.copyAdmits 0 seq0 0 cp false && tok.tokenAhead { msg0 .waiting with kind := 2, version := 1, ctx := some 0 } ctx0 == false && has (tok.leaving 0) && tok.ctxHome ctx0 == some (seq0, cp),
      goes (.seqTokenAdmit 0) tok (fun t => t.runs.length == 1 && t.rwW (Reg.SEQ_CNT_TOKENS 0) == 1),
      decide (0 + seq0.prog.step ≤ 1), goes (.seqStepBoundary 0) (seqState ctx0 [(0, run)]) (fun t => t.ctxs.map (fun x => x.2.p) == [1]),
      goes (.creditEarn 0) { seqState { ctx0 with credits := 0 } with time.raw := 1000000000 } (fun t => t.ctxs.map (fun x => x.2.credits) == [1]),
      decide ((0 - 0) * seq0.prog.grate < (0 + 1) * 1000000000), goes (.creditEarn 0) (seqState { ctx0 with credits := 0 }) (fun t => t.ctxs.map (fun x => x.2.credits) == [0]),
      ((seqState ctx0).copyCtxs 0 1 0).length == 1 && decide (0 < 2 ^ seq0.prog.stageLog2),
      goes (.checkpointCapture 0) (seqState { ctx0 with capDue := true }) (fun t => t.ctxs.all (fun x => x.2.staged.length == 1)),
      goes (.checkpointCapture 0) (seqState { g with capDue := true }) (fun t => t.ctxs.all (fun x => x.2.staged.length == 1)),
      goes (.checkpointWriteDone 0) (seqState { ctx0 with staged := [(0, [])] }) (fun t => t.ctxs.all (fun x => x.2.slots.length == 1)),
      goes (.checkpointWriteDone 0) (seqState { ctx0 with staged := [(2 * seq0.prog.ckpt, [])], slots := [(0, (0, []))] }) (fun t => t.ctxs.all (fun x => x.2.staged.length == 1)),
      (seqState g).exact == false, goes (.rollback 0) (seqState { g with rolling := true }) (fun t => t.ctxs == []),
      goes (.rollback 0) (seqState { ctx0 with rolling := true, conv := some 9 }) (fun t => t.ctxs.map (fun x => x.2.state) == [3]),
      goes (.restoreDone ⟨0, true⟩) (seqState { ctx0 with state := 3, rolling := true }) (fun t => t.ctxs.map (fun x => x.2.state) == [1]),
      has ((seqState ctx0 [] goodBox).takeCmd 0 0x21), (seqState ctx0 [] goodBox).gstartBad (bytesOf 64 goodBox) == false,
      has (({ seqState ctx0 [] goodBox with ctxs := [] } : State).pickCopy 0 seq0 4000000), decide (max seq0.prog.step seq0.prog.depth * 256 ≤ 2 ^ 24),
      (seqState ctx0).jrnlRefuses == false && max seq0.prog.grate (64000000000 / max 1 (2 ^ 24)) == 4000000,
      goes (.gstart 0) { seqState ctx0 [] goodBox with ctxs := [] } (fun t => t.ctxs.length == 1),
      has ((seqState g [] [(0, 0x22)]).takeCmd 0 0x22), goes (.gstop 0) (seqState g [] [(0, 0x22)]) (fun t => t.mgmt.mbox == []),
      has ((seqState ctx0 [] [(0, 0x23)]).takeCmd 0 0x23), goes (.sclose 0) (seqState ctx0 [] [(0, 0x23)]) (fun t => t.mgmt.mbox == []),
      gen0.due 0 == some 0 && gen0.done 0 == false && decide (0 ≤ 1 * 256) && g.free seq0 1, (seqState g).copyAdmits 0 seq0 0 cp false,
      goes (.genStep 0) (seqState g) (fun t => t.runs.length == 1 && t.rwW (Reg.SEQ_CNT_LATE 0) == 1),
      has (entryDest (seqState g).regs.cfg 1),
      goes (.genFrameEmit 0) (seqState { g with gen := some { gen0 with emits := [⟨0, [1], false, false, false, false⟩] } }) (fun t => t.replies.length == 1) ]
      = true := by decide +kernel

/-- The last position, waits, restores that find nothing and that find another copy, steps that run again, refused commands. -/
theorem wit_sequence_ends :
    let run : ArrayRun := { slot := none, ctx := some 0, pos := 0xFFFFFFFE, handle := 0, version := 1, copy := 0, k := 0, tag := 0, atTick := 0, exact := false }
    let shut : ACopy := { die := 0, stands := [0], pages := [[0]], shut := true }
    let tok : State := { seqState ctx0 with handles := [(0, { serving := some { seq0 with acopies := [(0, shut)] } })], msgs := [(0, { msg0 .waiting with kind := 2, version := 1, ctx := some 0 })] }
    let g := { ctx0 with gen := some gen0, state := 2 }
    let back := fun (x : Ctx) => { x with state := 3, rolling := true, rb := 64 }
    let lost := { seqState (back ctx0) with handles := [(0, { serving := some { seq0 with acopies := [(0, { die := 0, stands := [0], pages := [[0]], out := true })] } })] }
    let two := { lost with handles := [(0, { serving := some { seq0 with acopies :=
      [(0, { die := 0, stands := [0], pages := [[0]], out := true }), (1, { die := 1, stands := [0], pages := [[0]] })] } })] }
    let conv := { seqState { ctx0 with rolling := true, conv := some 9, rb := 2, p := 4 } with
      msgs := [(0, { msg0 .waiting with ctx := some 0, org := { org0 with desc := { conv := some 9, seq := some 2 } } }),
               (1, { msg0 .waiting with ctx := some 0, org := { org0 with desc := { conv := some 9, seq := some 3 } } })] }
    let exact := { seqState { g with rolling := true, failed := 3 } with regs.cfg := regs [(Reg.GCTL_MODE, 2 ^ 31)] }
    let bad := [(0, 0x21), (30, 1)]
    all
    [ tok.tokReady 0 && !tok.copyAdmits 0 { seq0 with acopies := [(0, shut)] } 0 shut false && has (tok.leaving 0),
      goes (.seqTokenAdmit 0) tok (fun t => t.runs == []), goes (.seqStepBoundary 0) (seqState ctx0 [(0, run)]) (fun t => t.ctxs.map (fun x => x.2.p) == [0xFFFFFFFF]),
      goes (.restoreDone ⟨0, false⟩) (seqState (back ctx0)) (fun t => t.ctxs == []), goes (.restoreDone ⟨0, true⟩) lost (fun t => t.ctxs == []),
      has (two.rehome 0 (back ctx0) seq0) == false && has (two.ctxHome (back ctx0)), goes (.restoreDone ⟨0, true⟩) two (fun t => t.ctxs.map (fun x => x.2.copy) == [1]),
      goes (.restoreDone ⟨0, true⟩) { seqState (back ctx0) with dies := [(0, { lost := true })] } (fun t => t.ctxs == []),
      goes (.genStep 0) (seqState { g with gen := some { gen0 with silentTo := some 5 } }) (fun t => t.rwW (Reg.SEQ_CNT_LATE 0) == 0),
      exact.exact, goes (.rollback 0) exact (fun t => t.ctxs.all (fun x => x.2.state == 3)),
      goes (.rollback 0) conv (fun t => t.ctxs.all (fun x => x.2.p == 2)), (seqState ctx0 [] bad).gstartBad (bytesOf 64 bad),
      goes (.gstart 0) (seqState ctx0 [] bad) (fun t => t.mgmt.mbox == []), seqCmdBad (bytesOf 64 [(0, 0x22), (7, 64)]) && !seqCmdBad (bytesOf 64 [(0, 0x22)]),
      goes (.gstop 0) (seqState g [] [(0, 0x22), (7, 64)]) (fun t => t.mgmt.mbox == []), goes (.sclose 0) (seqState g [] [(0, 0x23), (7, 64)]) (fun t => t.mgmt.mbox == []),
      goes (.genStep 0) (seqState { g with gen := some { gen0 with silentTo := some 0 } }) (fun t => t.ctxs.map (fun x => x.2.gen.map (·.silentTo)) == [some none]) ]
      = true := by decide +kernel

/-- Epoch 7 of operation 5: ALLREDUCE of one INT32 element, one contributor a member, along an X axis of `ext + 1` members. -/
def epoch0 (self ext : Nat) : BoomEpoch :=
  { epoch := 7, words := [2 ^ 31 + 3 * 2 ^ 24, 1, 0, 1000], slice := ext * 2 ^ 12, self := self, torus := ext, exact := false, memberAt := 0, coordAt := 0 }
/-- A reduction frame of that epoch (Table 9-5). -/
def boomBytes (e : BoomEpoch) (kind ph rank nseg cause pseq : Nat) (body : Nat) : List Byte :=
  bytesOf 12 [] ++ [0x88, 0xB5] ++ [BitVec.ofNat 8 kind, BitVec.ofNat 8 ph, 0, 5, 0, 7, 0, 0] ++ beBytes 4 rank ++ beBytes 4 1 ++ beBytes 4 e.ddig ++
    [BitVec.ofNat 8 nseg, BitVec.ofNat 8 cause, 0, 0] ++ beBytes 4 pseq ++ [0, 0, 0, 0] ++ List.replicate body 0
/-- A device in that epoch with that frame in a slot, received on a host port or on a neighbour port. -/
def boomState (e : BoomEpoch) (nbr : Bool) (b : List Byte) : State :=
  let cfg := regs [(Reg.PORT_QCFG 0, if nbr then 3 * 2 ^ 30 else 2 ^ 31), (Reg.BOOM_TMR, 0x010101), (Reg.BOOM_OP_w0 5, e.words.getD 0 0), (Reg.BOOM_OP_w1 5, 1),
                   (Reg.BOOM_OP_w3 5, 1000), (Reg.BOOM_SLICE, e.slice), (Reg.BOOM_SELF, e.self), (Reg.PORT_TORUS, e.torus)]
  let org := { org0 with cfg := cfg, desc := { doff := some 14, mlen := some (b.length - 14) }, win := b }
  { running0 with regs.cfg := cfg, boom.ops := [(5, { cur := e })], msgs := [(0, { msg0 .boom with org := org, frames := [0], parts := [(0, 0, b.length - 14)] })]
                  frames := [(0, { frame0 with bytes := b, handed := b.length, fcs := some true, udp := some true, started := true })] }
/-- The frame in slot 0 as read, with its epoch's descriptor taken. -/
def boomFrame (s : State) (kind : Nat) (p : BoomIn → BoomEpoch → Bool := fun _ _ => true) : Bool :=
  match s.boomIn 0 with
  | some (m, f) =>
    let e := s.boomJudge m f
    f.kind == kind && s.boomValid m f && decide (s.boomRow 5 7 = .use) && f.ddig == e.ddig && !e.unreduced && p f e
  | none => false
/-- Each kind of frame in its open epoch. -/
theorem wit_boom_frames :
    let lone := epoch0 0 0
    let host := fun (kind nseg pseq body : Nat) => boomState lone false (boomBytes lone kind 0xC0 0 nseg 0 pseq body)
    let one := fun (f : BoomIn) (e : BoomEpoch) => f.rank / e.lcl == e.me && e.badLen f == false
    let hostIn := fun (f : BoomIn) (_ : BoomEpoch) => f.host && f.pseq == 9
    let way := fun (f : BoomIn) (e : BoomEpoch) => !f.host && e.badLen f == false && e.takes f.seg f.axis f.dn f.dist && f.nseg == 1
    let part := boomState (epoch0 1 1) true (boomBytes (epoch0 1 1) 0x11 0 0 1 0 0 8)
    let two := { lone with words := [2 ^ 31 + 3 * 2 ^ 24, 2, 0, 1000] }
    let gath := boomState (epoch0 0 1) true (boomBytes (epoch0 0 1) 0x12 0x30 1 1 0 0 4)
    all
    [ boomFrame (host 1 1 0 4) 1 one, goes (.boomData 0) (host 1 1 0 4) (fun t => t.replies != []),
      boomFrame (host 2 0 0 0) 2 (fun f e => f.rank / e.lcl == e.me), goes (.abandon 0) (host 2 0 0 0) (fun t => t.replies != []),
      boomFrame (boomState two false (boomBytes two 2 0xC0 0 0 0 0 0)) 2 (fun f e => e.badLen f), boomFrame (host 2 0 0 0) 2 (fun f e => e.badLen f == false),
      goes (.abandon 0) (boomState two false (boomBytes two 2 0xC0 0 0 0 0 0)) (fun t => t.msgs == []), boomFrame (host 0x14 0 9 0) 0x14 hostIn, goes (.haveMsg 0) (host 0x14 0 9 0), boomFrame (host 0x15 0 9 32) 0x15 hostIn, goes (.decide 0) (host 0x15 0 9 32),
      boomFrame (host 0x16 0 9 32) 0x16 hostIn, goes (.abort 0) (host 0x16 0 9 32),
      boomFrame part 0x11 way && (epoch0 1 1).adds, goes (.part 0) part, boomFrame gath 0x12 way, goes (.gath 0) gath,
      boomFrame (host 3 0 0 0) 3, goes (.boomQuery 0) (host 3 0 0 0) (fun t => t.replies != []) ] = true := by decide +kernel
/-- Host-path frames that are acknowledged and refused, one that goes again, timers that expire. -/
theorem wit_boom_timers :
    let lone := epoch0 0 0
    let x : BoomHost := { op := 5, epoch := 7, hop := none, bytes := [], out := true }
    let s := fun (kind : Nat) => { boomState lone false (boomBytes lone kind 0xC0 1 0 0 9 0) with boom.host := [(1, [(9, x)])] }
    let r : BoomRefused := ⟨5, 7, some (1, 9), 0, none, 1, some 0⟩
    let ended0 := { lone with decided := true, outcome := some { ok := true } }
    let still := { running0 with boom.ops := [(5, { cur := lone })], boom.host := [(1, [(9, x)])], time.raw := 1000000 }
    let q := boomState ended0 false (boomBytes ended0 3 0xC0 0 1 0 0 0)
    all
    [ has (((s 0x13).boomEnd 0).hostRec 1 9), has ((((s 0x13).boomEnd 0).dropHost 1 9).hopNext 5 none |>.boomEpoch 5),
      goes (.boomAck 0) (s 0x13) (fun t => t.boom.host == []), (s 0x17).boom.refused == [] && (((s 0x17).boomEnd 0).boom.refused == []),
      goes (.boomBusyFrame 0) (s 0x17) (fun t => t.boom.refused.length == 1),
      goes (.boomBusyRetry 0) { still with boom.refused := [(0, r)] } (fun t => t.boom.refused.all (fun y => y.2.busyTo == none)),
      still.boomWaiting 5 == false && lone.coordinator == lone.me, goes (.memberTimerExpire 5) still, goes (.coordTimerExpire 5) still,
      goes (.retentionExpire 5) { still with boom.ops := [(5, { cur := ended0 })] } (fun t => t.boom.ops.all (fun y => y.2.cur.held == false)),
      decide (0 + still.cfg Reg.BOOM_TMR 7 0 * 1000 ≤ 1000000) && decide (0 < still.cfg Reg.BOOM_TMR 15 8),
      goes (.hostpathResend 1 9) still (fun t => t.rwW Reg.BOOM_CNT_RESEND == 1),
      goes (.hostpathResend 1 9) { still with boom.host := [(1, [(9, { x with sends := 255 })])] } (fun t => t.boom.lost == [1]),
      boomFrame { q with boom.ops := [(5, { cur := { ended0 with decided := false } })] } 3, goes (.boomQuery 0) q ] = true := by decide +kernel
/-- Frames that open an epoch, that come after its decision, that come again; queries in each row; refusals on a neighbour port. -/
theorem wit_boom_rows :
    let lone := epoch0 0 0
    let ended0 := { lone with decided := true, outcome := some { ok := true } }
    let bytes := fun (k pseq body : Nat) => boomBytes lone k 0xC0 0 1 0 pseq body
    let new := fun (k body : Nat) => { boomState lone false (bytes k 0 body) with boom.ops := [] }
    let late := fun (k body : Nat) => { boomState lone false (bytes k 0 body) with boom.ops := [(5, { cur := ended0 })] }
    let before := fun (n : Nat) => { boomState lone false (bytes 3 0 0) with boom.ops := [(5, { cur := { ended0 with epoch := n }, prev := some (7, { ok := true }) })] }
    let seen := fun (k : Nat) => { boomState lone false (bytes k 9 32) with boom.seen := [(0, [9])] }
    let sent : BoomSent := ⟨0x11, 0xC0, 0, 1, []⟩
    let pair := { epoch0 0 1 with sent := [sent] }
    let nbr := boomState pair true (boomBytes pair 0x17 0xC0 1 1 0 0 0)
    let opens := fun (s : State) => match s.boomIn 0 with
      | some (m, f) => decide (s.boomRow f.op f.epoch = .opens) && has (s.boomOpen m.org f.op f.epoch) && s.boomValid m f && f.ddig == (s.boomJudge m f).ddig
      | none => false
    all
    [ opens (new 1 4), goes (.boomData 0) (new 1 4) (fun t => t.boom.ops.length == 1), opens (new 3 0),
      (new 1 4).dozing == false && (new 1 4).holding == false, goes (.boomQuery 0) (new 3 0) (fun t => t.boom.ops.length == 1),
      decide ((late 1 4).boomRow 5 7 = .late), goes (.boomData 0) (late 1 4) (fun t => t.replies != []), goes (.abandon 0) (late 2 0) (fun t => t.replies != []),
      [0x11, 0x12, 0x14, 0x15, 0x16].all (fun k => match (seen k).boomIn 0 with | some (_, f) => f.kind == k && f.host && f.pseq == 9 | none => false),
      goes (.haveMsg 0) (seen 0x14) (fun t => t.msgs == []), goes (.part 0) (seen 0x11) (fun t => t.msgs == []),
      goes (.boomQuery 0) (before 6) (fun t => t.replies != []), goes (.boomQuery 0) (before 8) (fun t => t.replies != []),
      (match nbr.boomIn 0 with | some (_, f) => !f.host && (nbr.boomEnd 0).refusedFrame f pair == some sent | none => false),
      goes (.boomBusyFrame 0) nbr (fun t => t.boom.refused.length == 1),
      goes (.boomBusyRetry 0) { nbr with boom.refused := [(0, ⟨5, 7, none, 0, some sent, 1, some 0⟩)] } (fun t => t.boom.refused.all (fun r => r.2.busyTo == none)),
      (boomState { ended0 with waitAck := some (0, 9) } false (bytes 0x13 9 0)).boomEpoch 5 == some { ended0 with waitAck := some (0, 9) },
      goes (.boomAck 0) (boomState lone false (bytes 0x13 9 0)) (fun t => t.msgs == []) ] = true := by decide +kernel

/-! ## Links and time -/

/-- A device with quads 0 and 1 as neighbour ports of logical port 0, port 0 in the state given, and a plan with logical port 0 in
direction 0. -/
def nbrState (p : EPort) : State :=
  { running0 with regs.cfg := regs [(Reg.PORT_QCFG 0, 3 * 2 ^ 30), (Reg.PORT_QCFG 1, 3 * 2 ^ 30), (Reg.PORT_PLAN_w0 0, 2 ^ 31)]
                  eports := [(0, p)], mgmt.ready := true }
/-- A member in service with its link layer running. -/
def runs0 : EPort := { state := 3, run := true, expect := 5 }
/-- A link frame of a class with LSEQ. -/
def linkIn (class0 lseq : Nat) (good : Bool := true) : LinkIn :=
  { eport := 0, sub := 0, bytes := bytesOf 80 [(0, class0), (3, lseq)], good := good }
/-- Frames in a quarantined port, with a bad verdict, in sequence, ahead and behind; timers; PFC. -/
theorem wit_links :
    let s := nbrState runs0
    let dist := fun (f : LinkIn) => (beAt f.bytes 2 2 + 65536 - ((s.takeHeader f).ep 0).expect) % 65536
    let host : State := { s with regs.cfg := regs [(Reg.PORT_QCFG 0, 2 ^ 31), (Reg.PORT_EPCFG 0 0, 0xFF)] }
    let held := { runs0 with held := [{ lseq := 0, bseq := none, bytes := [], units := 1 }] }
    let late := fun (p : EPort) => ({ nbrState p with time.raw := 2 ^ 40 } : State)
    let pfc := bytesOf 12 [] ++ [0x88, 0x08, 1, 1, 0, 3, 0, 1, 0, 0] ++ List.replicate 40 0
    all
    [ epNbr s.regs.cfg 0 && s.linkUp 0, goes (.linkDataFrame (linkIn 2 5)) (nbrState { state := 4 }) (fun t => t.rwW (Reg.PORT_CNT_DISCARD 0) == 1),
      linkBad (linkIn 8 5 false) && s.epServes 0 && !linkBad (linkIn 8 5), goes (.voidFrame (linkIn 8 5 false)) s (fun t => (t.ep 0).expect == 5), dist (linkIn 2 5) == 0 && dist (linkIn 2 6) == 1 && dist (linkIn 8 4) == 65535,
      goes (.linkDataFrame (linkIn 2 5)) s (fun t => (t.ep 0).expect == 6), goes (.linkDataFrame (linkIn 2 6)) s (fun t => (t.ep 0).expect == 5),
      goes (.voidFrame (linkIn 8 5)) s (fun t => (t.ep 0).expect == 6), goes (.voidFrame (linkIn 8 4)) s, goes (.nakFrame (linkIn 6 0)) (nbrState held),
      goes (.nakFrame (linkIn 6 0)) (nbrState { held with wait := [.resend 0] }) (fun t => (t.ep 0).held.length == 1),
      goes (.linkCtrlFrame (linkIn 4 0)) s, goes (.linkResumeFrame 0 (linkIn 10 0).toLinkFrame) (nbrState { runs0 with run := false, resumeAt := some 0 }) (fun t => (t.ep 0).run),
      (nbrState { state := 2 }).epServes 0 == false, goes (.linkResumeFrame 0 (linkIn 10 0).toLinkFrame) (nbrState { state := 2 }) (fun t => (t.ep 0).early.isSome),
      decide ((late held).ep 0 = held) && decide (0 + (late held).replayTo ≤ 2 ^ 40), goes (.linkReplayTimeout 0) (late held),
      goes (.nakRepeatTimeout 0) (late { runs0 with nak := some 5 }) (fun t => (t.ep 0).nak == none),
      s.turn3 0 none 60 && goes (.ctrlKeepalive 0) s (fun t => t.out.length == 1),
      (nbrState { runs0 with busyTo := 9 }).turn3 0 none 60 == false && goes (.ctrlKeepalive 0) (nbrState { runs0 with busyTo := 9 }) (fun t => t.out == [] && (t.ep 0).wait == [.ctl 4 0]), goes (.linkDown 0) s (fun t => !t.linkUp 0),
      (parseEth pfc).etype == 0x8808 && beAt pfc (parseEth pfc).l3 2 == 0x0101 && epNbr host.regs.cfg 0 == false && host.linkUp 0,
      goes (.pfcFrameReceive 0 pfc) s (fun t => t.rwW (Reg.PORT_CNT_DISCARD 0) == 1),
      goes (.pfcPauseEnd 0 0) { host with eports := [(0, { state := 3, paused := [0] })] } (fun t => (t.ep 0).paused == []),
      goes (.pfcFrameReceive 0 pfc) host (fun t => (t.ep 0).paused.contains 0 && !(t.ep 0).paused.contains 1) ] = true := by decide +kernel
/-- Ports that come up and expire, LLDP on each side, the first checks of the plan, adoptions in each status. -/
theorem wit_ports :
    let up := fun (n : Nat) (p : EPort) => ({ nbrState p with time.raw := n } : State)
    let lldp := bytesOf 12 [] ++ [0x88, 0xCC, 0xFE, 12, 0x5A, 0xC0, 0x96, 1, 0, 0, 0, 0, 0, 0, 0, 7] ++ List.replicate 40 0
    let plain := bytesOf 12 [] ++ [0x88, 0xCC] ++ List.replicate 40 0
    let host : State := { running0 with regs.cfg := parserCfg 0, eports := portsUp, mgmt.ready := true }
    let peer : Peer := { identity := some 7, label := 1, vmin := 1, vmax := 1 }
    let quar := fun (r : Nat) => nbrState { state := 4, reason := r, peer := some peer }
    let asked := { quar 5 with mgmt.adopt := some (4, 2) }
    let again := lldp.take 28 ++ [0xFE, 9, 0x5A, 0xC0, 0x96, 3, 1, 0, 0, 0, 0, 0xFE, 6, 0x5A, 0xC0, 0x96, 4, 1, 1] ++ List.replicate 20 0
    let moved := (readTlvs again 64 14 ({}, 0)).1
    let turns := nbrState runs0
    let noPlan : State := { quar 5 with regs.cfg := regs [(Reg.PORT_QCFG 0, 3 * 2 ^ 30)] }
    all
    [ epLanes (nbrState {}).regs.cfg 0 != 0 && (nbrState {}).linkUp 0 == false && !(nbrState {}).inMap ⟨6, 0xF, 0, 0, 0x100⟩,
      goes (.linkUp 0) { nbrState {} with mgmt.stage := 5 } (fun t => (t.ep 0).state == 2), goes (.lldpSend 0) (up (2 ^ 50) { state := 2 }) (fun t => t.out.length == 1),
      goes (.peerExpire 0) (up 1 { state := 3, peer := some peer }) (fun t => (t.ep 0).state == 4),
      goes (.nopeerTimeout 0) (up (2 ^ 50) { state := 2 }) (fun t => (t.ep 0).state == 4), decide (0 + 3 * (up 0 {}).lldpEvery ≤ 2 ^ 50),
      (parseEth lldp).etype == 0x88CC && (readTlvs lldp 64 (parseEth lldp).l3 ({}, 0)).1.identity == some 7,
      (readTlvs plain 64 (parseEth plain).l3 ({}, 0)).1.identity == none,
      goes (.lldpReceive 0 plain) host (fun t => (t.ep 0).state == 3), goes (.lldpReceive 0 lldp) host (fun t => (t.ep 0).state == 4),
      goes (.lldpReceive 0 lldp) (nbrState { state := 2, peer := some (readTlvs lldp 64 14 ({}, 0)).1 }),
      goes (.lldpReceive 0 lldp) (nbrState { state := 2 }) (fun t => (t.ep 0).peer.isSome),
      (nbrState { state := 2, peer := some {} }).planCheck 0 == 1, noPlan.planCheck 0 == 2 && labelOf noPlan.regs.cfg (epLport noPlan.regs.cfg 0) == 0xF,
      labelOf (quar 5).regs.cfg (epLport (quar 5).regs.cfg 0) == 0 && (quar 5).chosenVer peer == some 1,
      (quar 5).chosenVer { peer with vmin := 9, vmax := 9 } == none, (nbrState { state := 2, peer := some { peer with label := 6 } }).planCheck 0 == 4,
      (nbrState runs0).adoptStatus 0 == 1 && (quar 1).adoptStatus 0 == 2 && (quar 5).adoptStatus 0 == 0,
      ({ quar 5 with eports := [(0, { state := 4, reason := 5, peer := some peer }), (4, { state := 3 })] } : State).otherMembers 0 == [4],
      ({ quar 5 with eports := [(0, { state := 4, reason := 5, peer := some peer }), (4, { state := 3 })] } : State).adoptStatus 0 == 3,
      goes (.adopt 0) (quar 5) (fun t => t.mgmt.adopt == some (0, 1) && t.mgmt.acts == [.adopt]), goes (.adopt 0) asked (fun t => t.mgmt.adopt == some (4, 2)),
      asked.adoptStatus 4 != 0 && asked.applyAdopt.regs.cfg == asked.regs.cfg, (let t := ({ quar 5 with mgmt.adopt := some (0, 1) } : State).applyAdopt
        t.mgmt.adopt == none && t.regs.cfg != (quar 5).regs.cfg),
      (parseEth again).l3 == 14 && turns.chosenVer moved == some 1 && runs0.ver == 0 && ((turns.setEp 0 { runs0 with peer := some moved }).recheck 0).epServes 0,
      goes (.lldpReceive 0 again) turns (fun t => (t.ep 0).ver == 1 && !(t.ep 0).run) ]
      = true := by decide +kernel
/-- Increments at and past their limits, steps that wait and that are refused, applied, pulses, captures. -/
theorem wit_time :
    let s : State := { running0 with time.incFrac := 0x418937 }
    let rwS := fun (l : List (Nat × Nat)) => ({ running0 with regs.rw := regs l, time.baseSec := 10 } : State)
    let arm := fun (c w : Nat) => rwS [(Reg.TIME_TPO_w5 0, w), (Reg.TIME_TPO_w1 0, c)]
    let cap := fun (l : List Stamp) => ({ rwS [(Reg.TIME_CAP_w0 5, 2 ^ 31 + 1)] with time.cap := [(5, { held := l })] } : State)
    let go := BitVec.ofNat 32 (2 ^ 31)
    all
    [ goes (.timeIncWrite 1) s (fun t => t.time.pendInc == some (0x100418937, 1)), goes (.timeIncWrite 0) s (fun t => t.rwW Reg.TIME_CNT_REFUSE == 1),
      goes (.timeIncWrite 1) { s with time.incFrac := 0x418938 } (fun t => t.time.pendInc == none),
      ({ s with time.pendInc := some (0x100000001, 1) } : State).applyInc.time.inc == 0x100000001,
      bitAt go 31, goes (.timeStep go) (rwS [(Reg.TIME_STEP_NS, 999999999)]) (fun t => t.time.pendStep.isSome),
      goes (.timeStep go) (rwS [(Reg.TIME_STEP_NS, 1000000000)]) (fun t => t.time.pendStep == none),
      goes (.timeStep go) (rwS [(Reg.TIME_CTL, 1), (Reg.TIME_STEP_NS, 1000)]) (fun t => t.time.pendStep.isSome),
      goes (.timeStep go) (rwS [(Reg.TIME_CTL, 1), (Reg.TIME_STEP_NS, 1001)]) (fun t => t.time.pendStep == none),
      ({ rwS [] with time.pendStep := some (true, 1, 0, 1) } : State).applyStep.time.gen == 1,
      ({ rwS [] with time.pendStep := some (false, 1, 0, 1) } : State).applyStep.time.gen == 0,
      ({ rwS [] with time.pendStep := some (false, 0, 0, 1) } : State).applyStep.time.pendStep == none,
      goes (.tpoArm 0 0) (arm 0 4) (fun t => !(t.tpo 0).armed), goes (.tpoArm 0 go) (arm 0 3) (fun t => t.rwW Reg.TIME_CNT_REFUSE == 1),
      goes (.tpoArm 0 go) (arm 11 4) (fun t => (t.tpo 0).armed), goes (.tpoArm 0 go) (arm 9 4) (fun t => (t.tpo 0).active),
      goes (.tpoArm 0 (BitVec.ofNat 32 (3 * 2 ^ 30))) (arm 11 4) (fun t => !(t.tpo 0).armed),
      goes (.tpoArm 0 go) { arm 11 4 with mgmt.acts := [.step] } (fun t => t.mgmt.acts == [.step, .tpo 0 go] && t.time.tpo == []),
      goes (.tpoEdge 7) { rwS [] with time.tpo := [(7, { armed := true })] } (fun t => (t.tpo 7).active),
      goes (.tpoTrail 7) { rwS [] with time.tpo := [(7, { active := true })] } (fun t => !(t.tpo 7).active),
      fld ((cap []).rwW (Reg.TIME_CAP_w0 5)) 23 0 == 1, goes (.captureEdge 5 true 15) (cap []) (fun t => (t.cap 5).held.length == 1),
      goes (.captureEdge 5 true 15) (cap (List.replicate 16 {})) (fun t => (t.cap 5).held.length == 16 && bitAt (t.rwW (Reg.TIME_CAP_w5 5)) 31),
      goes (.captureRead 5) (cap [{ sec := 3 }]) (fun t => (t.cap 5).held == [] && t.out == [.read (Reg.TIME_CAP_w1 5) 3]) ] = true := by decide +kernel
/-- Syncs of each kind, a request, one unanswered, a message received; fellings made, cancelled, ready and applied. -/
theorem wit_ptp_fell :
    let ptp := fun (w : Nat) (p : PtpPort) =>
      ({ running0 with regs.cfg := parserCfg 0, eports := portsUp, regs.rw := regs [(Reg.TIME_PTP_w0 0, w)], time.ptp := [(0, p)] } : State)
    let master := 5 * 2 ^ 29 + 2 ^ 22
    let slave := 6 * 2 ^ 29 + 2 ^ 19
    let msg := bytesOf 12 [] ++ [0x88, 0xF7, 0, 2, 0, 44] ++ List.replicate 60 0
    let box := fun (l : List (Nat × Nat)) (f : Tbl Fell) => boxed l { running0 with time.fell := f }
    let f := fun (k : Nat) => ({ kind := k, handle := 0, version := 1, arg := 1, sec := 0, ns := 1000, gen := 0 } : Fell)
    let due := fun (k : Nat) (h : Handle) => ({ running0 with time.fell := [(31, f k)], time.baseNs := 1000, handles := [(0, h)] } : State)
    let actBox := [(0, 0x31), (1, 1), (4, 1), (8, 1)]
    let act := boxed actBox { running0 with handles := [(0, { staged := some (forest0 []) })] }
    let com := [(0, 0x31), (1, 3), (8, 1)]
    let okSet := { box com [] with regs.shadow := regs [(Reg.GCTL_STRIPE_LO, 2 ^ 32 - 1)], regs.firstCommit := true }
    let badSet := { box com [] with regs.shadow := regs [(Reg.GCTL_MEMCTL, 0)] }
    all
    [ (ptp master {}).ptpMay 0 && (ptp master {}).ptpRole 0 == 1 && (ptp master {}).logSync 0 != 0 && !(ptp master {}).ptpOne 0,
      goes (.ptpSyncSend 0) (ptp master {}) (fun t => t.out.length == 2), (ptp (master + 2 ^ 27) {}).ptpOne 0,
      goes (.ptpSyncSend 0) (ptp (master + 2 ^ 27) {}) (fun t => t.out.length == 1), (ptp slave {}).ptpReqType 0 == some 1,
      goes (.ptpReqSend 0) (ptp slave {}) (fun t => t.out.length == 1),
      goes (.ptpMiss 0) (ptp slave { req := some (1, 0, {}) }) (fun t => t.rwW Reg.TIME_CNT_MISS == 1),
      has (ptpIn msg), goes (.ptpEventReceive 0 15 msg) (ptp slave {}),
      has ((box [(0, 0x31), (1, 2), (6, 1), (8, 1)] []).takeCmd 0 0x31), (box [] []).fellCheck (bytesOf 64 [(0, 0x31), (1, 2), (6, 1), (8, 1)]) [] == 0,
      goes (.fell 0) (box [(0, 0x31), (1, 2), (6, 1), (8, 1)] []) (fun t => t.time.fell.length == 1),
      (box [] []).fellCheck (bytesOf 64 [(0, 0x31), (1, 2), (6, 2)]) [] != 0,
      { box [(0, 0x31), (1, 3), (8, 1)] [] with power.target := some 2 }.moving && goes (.fell 0) { box [(0, 0x31), (1, 3), (8, 1)] [] with power.target := some 2 } (fun t => t.mgmt.mbox.map (·.taken) == [some []]), goes (.fell 0) (box [(0, 0x31), (1, 2), (6, 2)] []) (fun t => t.time.fell == []),
      act.fellCheck (bytesOf 64 actBox) [] == 0, goes (.fell 0) act (fun t => t.time.fell.map (fun x => x.2.version) == [1]),
      okSet.fellCheck (bytesOf 64 com) okSet.regs.shadow == 0 && okSet.moving == false && okSet.validateSet okSet.regs.shadow 1 true == (0, 0),
      goes (.fell 0) okSet (fun t => t.time.fell.map (fun x => x.2.kind) == [3]),
      (badSet.validateSet badSet.regs.shadow 1 true).1 != 0 && badSet.fellCheck (bytesOf 64 com) badSet.regs.shadow == 0,
      goes (.fell 0) badSet (fun t => t.time.fell == []),
      has ((box [(0, 0x32), (7, 31)] []).takeCmd 0 0x32) && (box [] []).jrnlRefuses == false,
      goes (.fcancel 0) (box [(0, 0x32), (7, 31)] [(31, f 2)]) (fun t => t.time.fell == []), goes (.fcancel 0) (box [(0, 0x32), (7, 31)] []),
      decide (timeOf 0 1000 < (due 2 {}).now + 1000 * 2 ^ 32), goes (.fellReady 31) (due 2 {}) (fun t => t.time.fell.all (fun x => x.2.ready)),
      decide ((box [] []).now + 1000 * 2 ^ 32 ≤ timeOf 0 1000), decide (timeOf 0 1000 ≤ (due 2 {}).now) && (due 2 {}).mgmt.jr.full == false,
      goes (.fellApply 31) (due 1 {}) (fun t => t.time.fell == []), (due 1 { staged := some (forest0 []) }).fevalNamed 0 == false,
      goes (.fellApply 31) (due 1 { staged := some (forest0 []) }) (fun t => (t.handle 0).serving.isSome),
      goes (.fellApply 31) (due 2 {}) (fun t => t.exact), goes (.fellApply 31) (due 3 {}) (fun t => t.time.felled.length == 1) ] = true := by decide +kernel

/-! ## Memory, repair, twin, management, power -/

/-- Scrub reads of each outcome, patrol reads, failing lanes with and without a spare, sweeps, bridges. -/
theorem wit_memory :
    let u := fun (b : Option Nat) => ({ running0 with dies := [(3, { hard := match b with | some x => [(0, x)] | none => [] })] } : State)
    let die := fun (y : DieSt) => ({ running0 with dies := [(3, y)] } : State)
    let full := (List.range 8).map (fun i => (i, 120 + i))
    let once := fun (n : Nat) => ({ running0 with regs.rw := regs [(Reg.MEM_DCTL 3, n)] } : State)
    let steered := { running0 with units.steered := [(6, full)] }
    all
    [ onHub .sharedSram == false && areaHas .sharedSram 0 && (u none).unitLive (apertureUnit 3 .sharedSram 0) && hardKey .sharedSram 0 == 0,
      goes (.scrubRead 3 .sharedSram 0 .none) (u (some 5)) (fun t => (t.die 3).hard == []),
      goes (.scrubRead 3 .sharedSram 0 (.corrected 5)) (u (some 5)) (fun t => t.rwW (Reg.MEM_CNT_SCE 3) == 1),
      goes (.scrubRead 3 .sharedSram 0 (.corrected 6)) (u (some 5)) (fun t => (t.die 3).hard == [(0, 6)]),
      goes (.scrubRead 3 .sharedSram 0 .uncorrectable) (u none) (fun t => t.rwW (Reg.MEM_CNT_SUE 3) == 1),
      goes (.scrubRead 3 .sharedSram 0 (.met 5)) (u (some 5)) (fun t => t.rwW (Reg.MEM_CNT_SCE 3) == 1 && (t.die 3).hard == [(0, 5)]),
      goes (.scrubRead 4 .hub 0 (.corrected 5)) running0 (fun t => (t.die 4).hard == [(hardKey .hub 0, 5)]), goes (.scrubRead 4 .hub 0 .uncorrectable) running0,
      goes (.scrubLate 3) running0 (fun t => bitAt (t.rwW (Reg.MEM_SSTAT 3)) 30), decide (24 * 2 ^ 30 - 4 < 24 * 2 ^ 30) && (running0.die 3).lost == false,
      goes (.patrolScrub 3 (24 * 2 ^ 30 - 4) .uncorrectable) running0 (fun t => (t.die 3).ue.length == 1),
      goes (.patrolScrub 3 0 (.corrected 0)) running0 (fun t => t.rwW (Reg.MEM_CNT_DCE 3) == 1),
      goes (.patrolScrub 3 0 .none) running0 (fun t => t.rwW (Reg.MEM_CNT_DCE 3) == 0),
      decide ((1 : Nat) < running0.rw (Reg.MEM_DCTL 3) 7 0), goes (.patrolScrub 3 0 (.corrected 0)) (once 1) (fun t => has (t.die 3).sweep),
      { (once 1) with dies := [(3, { exhausted := [0, 1] })] }.die 3 |>.twoFailing 0, goes (.patrolScrub 3 0 (.corrected 0)) { once 1 with dies := [(3, { exhausted := [0, 1] })] } (fun t => t.rwW (Reg.MEM_CNT_DUE 3) == 1),
      dramSpare [] 127 == some 120, goes (.laneFailing 3 127) running0 (fun t => (t.die 3).sweep == some (127, 120)),
      dramSpare (full ++ [(8, 117), (9, 118), (10, 119), (11, 116)]) 40 == none,
      goes (.laneFailing 3 40) (die { steer := full ++ [(8, 117), (9, 118), (10, 119), (11, 116)] }) (fun t => (t.die 3).sweep == none),
      goes (.laneFailing 3 127) (die { sweep := some (4, 120) }) (fun t => (t.die 3).queued == [127]),
      goes (.sweepDone 3) (die { sweep := some (127, 120) }) (fun t => (t.die 3).steer == [(127, 120)] && (t.die 3).sweep == none),
      running0.dieOk 3 && steerSpare [] 127 == some 120 && steerSpare full 127 == none,
      goes (.bridgeLaneCheck 3 true (some 127)) running0 (fun t => t.units.steered == [(6, [(127, 120)])]), goes (.bridgeLaneCheck 3 true (some 127)) steered,
      goes (.bridgeLaneCheck 3 true none) running0, goes (.bridgeUe 3 []) running0 (fun t => t.units.bridgeUe == [(3, 0)]),
      goes (.bridgeUe 3 []) { running0 with units.bridgeUe := [(3, 0)], time.raw := 1000000000 } (fun t => t.dieOk 3 == false) ] = true := by decide +kernel
/-- Check events on each level, units replaced, marked and tested, cruise, the repair commands, heartbeats. -/
theorem wit_repair :
    let core : UnitId := ⟨1, 3, 7, 8, 15⟩
    let lane : UnitId := ⟨2, 0, 0, 0, 0⟩
    let mv : Move := { unit := core, spare := 16, test := true, drain := false }
    let lm : Move := { unit := lane, spare := 256, test := true, drain := false }
    let on := fun (r : Nat) => regs [(r, 2 ^ 31)]
    let cruise := fun (n : Nat) => ({ running0 with regs.cfg := on Reg.RPR_CRUISE, units.slot := n } : State)
    let w := fun (l d : Nat) => BitVec.ofNat 32 (l * 2 ^ 24 + d * 2 ^ 22)
    let dead := (List.range 1).map (fun d => ({ unit := ⟨5, d, 0, 0, 0⟩, cause := 5 } : MapEnt))
    let ent : MapEnt := { unit := ⟨5, 1, 0, 0, 0⟩, cause := 2 }
    let used : UnitId := ⟨3, 3, 7, 7, 0⟩
    let stand : UnitId := ⟨3, 3, 7, 8, 0⟩
    let coreWord := BitVec.ofNat 32 (1 * 2 ^ 24 + 3 * 2 ^ 22 + 7 * 2 ^ 19 + 8 * 2 ^ 15 + 15)
    let cruisingCore : State := { running0 with units.tests := [(core, 0)] }
    let core17 : State := { running0 with cores := [(corePhys core, { last := some { slot := 0, run := 0, tag := 0, opc := 6, context := false, sent := [], fevals := [], dmas := [] } })] }
    let noPair : State := { running0 with units.map := (List.range 63).map (fun i => { unit := ⟨6, 15, 0, 0, i + 1⟩, cause := 5 }) }
    let moved := fun (n : Nat) => ({ running0 with units.map := [{ unit := ⟨1, 3, 7, 7, n⟩, cause := 2 }], units.coreMap := [(3 * 72 + 7 * 9 + 7, List.range 15 ++ [16])] } : State)
    let leaving : State := { running0 with units.moves := [⟨used, 8, true, true, []⟩] }
    let waits : State := { running0 with mgmt.acts := [.step] }
    let fullJ : State := { running0 with mgmt.jr.full := true }
    let darkLane : State := { running0 with units.moves := [lm], dies := [(0, { sramUe := [0xC000000 / 4] })]
                                            handles := [(0, { serving := some (forest0 []) })] }
    all
    [ unitValid core && running0.unitLive core && unitValid lane && running0.unitLive lane,
      goes (.checkEvent core .uncorrectable [] true) running0, goes (.checkEvent core .hardEcc [] true) running0,
      goes (.checkEvent lane .shadow [] true) running0 (fun t => t.rwW (Reg.FRST_CNT_SHADOW 0) == 1),
      goes (.checkEvent ⟨4, 0, 0, 0, 1⟩ .duplicate [] true) running0 (fun t => t.units.suspects.map (fun x => x.1.unit) == [1]),
      running0.inMap core == false && running0.suspect core == false && running0.replacement core == some (core, 16),
      (moved 15).replacement ⟨1, 3, 7, 7, 14⟩ == some (used, 8), (leaving.suspect used == false) && leaving.inMap used == false,
      goes (.checkEvent used .token [] true) leaving (fun t => t.inMap used), goes (.checkEvent ⟨1, 3, 7, 7, 14⟩ .token [] true) (moved 15) (fun t => t.units.moves.map (·.unit) == [used]),
      goes (.checkEvent ⟨5, 2, 0, 0, 0⟩ .bridge [] true) { running0 with units.suspects := [(⟨5, 2, 0, 0, 0⟩, 0)] } (fun t => t.dieOk 2 == false),
      goes (.checkEvent ⟨6, 15, 0, 0, 0x105⟩ .token [] true) running0 (fun t => t.units.suspects.map (fun x => x.1.unit) == [0x105]),
      goes (.checkEvent ⟨6, 15, 0, 0, 0x50⟩ .token [] true) running0 (fun t => t.units.suspects.map (fun x => x.1.unit) == [0xFFF]),
      ({ running0 with units.suspects := [(core, 0)] } : State).suspect core,
      running0.replacement ⟨4, 0, 0, 0, 0⟩ == none,
      goes (.suspectExpire core) { running0 with units.suspects := [(core, 0)], time.raw := 2 ^ 40 } (fun t => t.units.suspects == []),
      goes .mapFlashWriteDone running0 (fun t => t.flashMatch && t.units.flash.map (·.num) == some 0),
      goes .mapFlashWriteDone { running0 with units.map := [ent, { ent with unretire := true }], units.flash := some ⟨4, 6, [], true⟩ } (fun t => !t.flashMatch && t.units.flash.map (·.num) == some 7), running0.logicalLane 0 0 0 == some 0,
      goes (.replaceDone core) { running0 with units.moves := [mv] } (fun t => t.units.moves == []),
      goes (.replaceDone lane) { running0 with units.moves := [lm] } (fun t => t.units.moves == []),
      goes (.cruiseTestDone core true) { running0 with units.tests := [(core, 1)] } (fun t => t.rwW Reg.RPR_CNT_TRANSIENT == 1),
      goes (.cruiseTestDone core true) { running0 with units.tests := [(core, 0)] } (fun t => t.units.tests == []),
      goes (.cruiseTestDone core false) { running0 with units.tests := [(core, 2)] } (fun t => t.inMap core),
      bitAt ((cruise 0).cfgW Reg.RPR_CRUISE) 31 && (cruise 0).mgmt.jr.full == false && (cruise 0).power.state == 0,
      goes .cruiseSlot (cruise 0) (fun t => t.units.slot == 1), goes .cruiseSlot { cruise 272 with time.raw := 2 ^ 40 } (fun t => t.units.passes == 1),
      { running0 with mgmt.acts := [.rpr 1 0 1] }.rprBusy, goes (.retire (w 5 3)) { running0 with mgmt.acts := [.rpr 1 0 1] } (fun t => t.mgmt.acts.length == 1),
      waits.rprBusy == false, goes (.memberLost 9) waits (fun t => t.mgmt.acts == [.step, .rpr 4 9 1]), fullJ.mgmt.jr.full, goes (.retire (w 5 3)) fullJ (fun t => t.dieOk 3),
      unitValid (cmdUnit (w 7 0)) == false && unitValid (cmdUnit (w 5 0)), running0.cruising (cmdUnit (w 5 0)) == false,
      goes (.retire (w 7 0)) running0 (fun t => t.units.cmdStatus == 1), goes (.unretire (w 7 0)) running0, goes (.test (w 7 0)) running0,
      goes (.retire (w 5 3)) running0 (fun t => t.dieOk 3 == false), goes (.retire (w 5 3)) { running0 with units.map := dead } (fun t => t.units.cmdStatus == 2),
      goes (.test (w 5 3)) running0 (fun t => t.units.asked.length == 1),
      goes (.unretire (w 5 1)) { running0 with units.map := [ent] } (fun t => t.units.map == [{ ent with unretire := true }]),
      goes (.memberLost 4095) running0 (fun t => t.boom.lost == [4095]), goes (.memberBack 4095) { running0 with boom.lost := [4095] } (fun t => t.boom.back == [4095]),
      ({ running0 with boom.lost := [4095], boom.back := [4095] } : State).membersBack.boom.lost == [], has running0.commitBoundary.units.cmdWait == false,
      cruisingCore.cruising core && cmdUnit coreWord == core, goes (.retire coreWord) cruisingCore (fun t => has t.units.cmdWait),
      goes (.test coreWord) cruisingCore (fun t => has t.units.cmdWait), running0.unitLive ⟨5, 3, 0, 0, 0⟩ && decide (3 < running0.diesIn.length),
      core17.checkFires core (.residue 0) && core17.checkFires core (.parity 0) && !running0.checkFires core (.residue 0),
      goes (.checkEvent core (.residue 0) [] true) core17 (fun t => t.units.moves.length == 1),
      goes (.checkEvent core .overrun [] true) running0 (fun t => t.units.moves == []),
      goes (.checkEvent core .overrun [] true) { running0 with units.overruns := [(core, 0), (core, 0)] } (fun t => t.units.moves.length == 1),
      has (running0.digestPair 3), goes (.checkEvent ⟨6, 15, 0, 0, 3⟩ .duplicate [] true) running0 (fun t => t.units.suspects.length == 2),
      has (noPair.digestPair 0) == false && noPair.unitLive ⟨6, 15, 0, 0, 0⟩, goes (.checkEvent ⟨6, 15, 0, 0, 0⟩ .duplicate [] true) noPair,
      unitValid ⟨6, 15, 0, 0, 0x80⟩, goes (.checkEvent ⟨6, 15, 0, 0, 0x80⟩ .duplicate [] true) running0 (fun t => t.units.suspects.length == 1),
      running0.standBusy stand == false, goes (.replaceDone stand) { running0 with units.moves := [⟨stand, 8, true, true, []⟩] } (fun t => t.units.moves == []),
      (darkLane.die 0).sramBad (storeBase 0) 0x800000, goes (.replaceDone lane) darkLane (fun t => !t.cmptOk 0 0),
      goes .heartbeat { running0 with mgmt.ready := true, regs.cfg := regs [(Reg.RPR_HB, 2 ^ 31 + 2 ^ 16), (Reg.RPLY_DEST_w0 0, 6 * 2 ^ 29)] } (fun t => t.units.beats == 1), goes .leaveService running0 (fun t => !t.mgmt.inService) ]
      = true := by decide +kernel
/-- Records in each state of a twin, its timers, and pairings by role. -/
theorem wit_twin :
    let rec0 : TwinRec := { port := 0, ownBad := false, released := false, occ := 0, fcs := 0, tdig := 0 }
    let r := { reply0 .ready with trec := some (rec0, 0), twin := none }
    let tw := fun (st : Nat) (rs : Tbl Reply) => ({ running0 with twin.state := st, replies := rs } : State)
    let late := fun (st : Nat) (alive : Bool) => ({ tw st [] with time.raw := 2 ^ 40, twin.aliveIn := alive } : State)
    all
    [ has ((tw 2 [(0, r)]).replies.find? (fun r => match r.2.trec with | some (u, _) => sameRec u rec0 && r.2.stage != .sent | none => false)),
      goes (.twinRecord { rec0 with released := true }) (tw 2 []), sameRec rec0 rec0, goes (.twinRecord rec0) (tw 3 []), goes (.twinRecord { rec0 with released := true }) (tw 2 [(0, r)]),
      goes (.twinRecord { rec0 with ownBad := true }) (tw 2 [(0, r)]), goes (.twinRecord rec0) (tw 2 [(0, r)]) (fun t => t.twin.theirs == []),
      goes (.twinRecord rec0) (tw 2 []) (fun t => t.twin.theirs == [rec0]),
      goes (.twinMatchTimeout 0) { tw 2 [(0, r)] with time.raw := 2 ^ 40 } (fun t => t.rwW Reg.TWIN_CNT_UNMATCHED == 1),
      goes .kwainSilence (late 2 true) (fun t => t.twin.state == 3), goes .aliveInFall (tw 2 []) (fun t => t.twin.state == 3),
      goes .aliveInFall (tw 1 []) (fun t => t.twin.state == 1), goes .twinLinkTimeout (late 1 false) (fun t => t.twin.state == 3),
      goes .twinLinkTimeout { late 1 false with regs.cfg := regs [(Reg.TWIN_CTL, 2 ^ 30)] } (fun t => t.twin.state == 4),
      (tw 1 []).clean && (tw 1 []).cfg Reg.TWIN_CTL 30 30 == 0 ] = true := by decide +kernel
/-- A partner's digest that is the device's own, and one that is not. -/
theorem wit_twin_digest (s : State) : (∃ d, d = s.twinDigestOwn) ∧ ∃ d, d ≠ s.twinDigestOwn := ⟨⟨_, rfl⟩, ⟨s.twinDigestOwn + 1, by omega⟩⟩
/-- The mailbox with room and full, each command of the management, event queues, DMA channels, board-controller writes. -/
theorem wit_management :
    let up : State := { running0 with mgmt.ready := true, regs.cfg := parserCfg 0, eports := portsUp }
    let full := { up with mgmt.mbox := List.replicate 64 { addr := 0, desc := List.replicate 64 0, origin := 1 } }
    let dark := { up with dies := (List.range 4).map (fun d => (d, { ue := [0] })) }
    let tight := { up with regs.cfg := Tbl.put (parserCfg 0) Reg.JRNL_RING_LO (2 ^ 26 + 0), mgmt.jr.next := 2 ^ 31 }
    let send := boxed [(0, 0x41), (4, 60)] up
    let ev : EvEntry := { cause := 1, argx := 0, gen := 0, sec := 0, ns := 0, arg := 0 }
    let ch := fun (b : Bool) => ({ up with mgmt.dma := [(3, { busy := b })] } : State)
    let d : HostDesc := { src := 0, dst := 0, len := 4, dir := 0, irq := true, last := true, next := 0, data := [1, 2, 3, 4], pcieErr := false }
    all
    [ decide (64 ≤ full.mgmt.mbox.length), goes (.mboxSubmit 0) full (fun t => bitAt (t.rwW Reg.GCTL_MBOX_STAT) 31),
      knownCmd (byteAt ((up.devWrite 0 [1]).spaceRead 0 64).1 0), decide ((up.spaceRead 0 64).2.1 = .ok), knownCmd (byteAt (up.spaceRead 0 64).1 0) == false,
      goes (.mboxSubmit 0) (up.devWrite 0 [1]) (fun t => t.mgmt.mbox.length == 1), goes (.mboxSubmit 0) up (fun t => t.mgmt.mbox == []),
      has (send.takeCmd 0 0x41), send.sendCheck (bytesOf 64 [(0, 0x41), (4, 60)]) (List.replicate 60 0) .ok == 0, send.turn3 0 (some 0) 60 && send.linkUp 0, up.linkUp 1 == false,
      goes (.send 0) send (fun t => t.out.length == 1), up.sendCheck (bytesOf 64 [(0, 0x41), (4, 59)]) [] .ok == 1,
      goes (.send 0) (boxed [(0, 0x41), (4, 59)] up) (fun t => t.out == []),
      has ((boxed [(0, 0x42)] up).takeCmd 0 0x42), goes (.identify 0) (boxed [(0, 0x42)] up), has ((boxed [(0, 0x43)] up).takeCmd 0 0x43),
      decide ((up.spaceRead 0 97).2.1 = .ok) && up.mgmt.owner == none && up.jrnlRefuses == false,
      goes (.enroll 0) (boxed [(0, 0x43)] up) (fun t => t.mgmt.ownerRec == 1), goes (.enroll 0) (boxed [(0, 0x43)] { up with mgmt.owner := some [] }),
      decide ((up.spaceRead (2 ^ 50) 97).2.1 = .unmapped), goes (.enroll 0) (boxed [(0, 0x43), (14, 4)] up) (fun t => !has t.mgmt.owner),
      decide ((dark.spaceRead 0 97).2.1 = .ue), goes (.enroll 0) (boxed [(0, 0x43)] dark) (fun t => !has t.mgmt.owner),
      tight.jrnlRefuses, goes (.enroll 0) (boxed [(0, 0x43)] tight) (fun t => !has t.mgmt.owner),
      goes (.mboxSubmit 0) dark (fun t => t.mgmt.mbox == []), goes (.evqRead 15) { up with mgmt.evq := [(15, [ev, ev])] } (fun t => (t.evq 15).length == 1),
      goes (.evqRead 15) { up with mgmt.evq := [(15, [ev])] } (fun t => t.evq 15 == [] && t.out == [.read (Reg.GCTL_EVQ_w4 15) 1]),
      goes (.evqRead 15) up (fun t => t.out == [.read (Reg.GCTL_EVQ_w4 15) 0]),
      goes (.dmaGo 3) (ch false) (fun t => (t.dmaCh 3).busy), goes (.dmaGo 3) (ch true), goes (.dmaAbort 3) (ch true) (fun t => (t.dmaCh 3).err == 4),
      ((ch true).dmaMove d).1 == 0, goes (.dmaDescDone 3 d) (ch true) (fun t => (t.dmaCh 3).done == 1 && !(t.dmaCh 3).busy),
      ((ch true).dmaMove { d with pcieErr := true }).1 == 1, goes (.dmaDescDone 3 { d with pcieErr := true }) (ch true) (fun t => (t.dmaCh 3).err == 1),
      goes (.smbusRequest (.writeReg Reg.RPR_CTL 1)) up, goes (.smbusRequest (.readReg Reg.RPR_CTL)) up (fun t => t.out.length == 1) ] = true := by decide +kernel
/-- Firmware slots and cold starts, resets, power requests in each state, rails and temperatures at their limits. -/
theorem wit_power :
    let ok : FwSlot := { rootOk := true, sigOk := true, svn := 3, digest := [] }
    let bad : FwSlot := { ok with sigOk := false }
    let env : ColdEnv := { puf := [0, 0, 0, 0, 0], slotA := ok, slotB := ok, counter0 := 3, counter1 := 0, records := [], failing := [], hubBad := false
                           portMax := 1, phase := 0, temps := [0, 0, 0, 0, 0] }
    let p := fun (st : Nat) (tg : Option Nat) => ({ running0 with power.state := st, power.target := tg } : State)
    let boot := fun (st : Nat) (e : ColdEnv) => ({ State.reset with mgmt.stage := st, mgmt.booting := some e, power.inReset := false } : State)
    let pool : State := { running0 with regs.cfg := regs [(Reg.GCTL_STRIPE_LO, 2 ^ 32 - 1)] }
    let rails := fun (r : Rail) => [Rail.good, .good, .good, .good, .good, r]
    all
    [ State.reset.power.inReset && State.reset.power.aon, has (bootSlot { env with slotA := bad, slotB := bad }) == false, bootSlot env == some ok,
      goes (.coldStart { env with slotA := bad, slotB := bad }) State.reset (fun t => t.mgmt.stage == 0 && has t.mgmt.booting), goes (.coldStart env) State.reset,
      (boot 0 { env with slotA := bad, slotB := bad }).bootStep.mgmt.stage == 1, (boot 0 env).bootStep.mgmt.stage == 2, (boot 2 env).bootStep.mgmt.stage == 3,
      (boot 3 env).bootStep.mgmt.stage == 4, (boot 4 env).bootStep.mgmt.stage == 5, (boot 5 env).bootStep.mgmt.ready,
      epsOn (parserCfg 0) != [] && ({ boot 5 env with regs.cfg := parserCfg 0 } : State).bootStep.mgmt.stage == 6, (boot 6 env).bootStep.mgmt.stage == 7,
      (match step (boot 2 env) with | .next t => t.mgmt.stage == 3 | _ => false),
      Machine.slotOk env ok && decide (3 < ({ ok with svn := 4 } : FwSlot).svn), running0.power.holdReset == false && running0.power.inReset == false,
      goes .softReset running0 (fun t => t.mgmt.acts == [.soft 1]), ({ running0 with mgmt.acts := [.soft 1] } : State).mgmtDue.power.holdReset,
      goes (.quadReset 1) { running0 with mgmt.acts := [.soft 1] } (fun t => t.mgmt.acts == [.soft 1, .quads 1]), goes (.quadReset 1) { running0 with regs.cfg := parserCfg 0, eports := portsUp },
      goes .flr { running0 with mgmt.dma := [(3, { busy := true })] } (fun t => (t.dmaCh 3).err == 4),
      goes .pwrReqRun { p 1 none with mgmt.acts := [.step] } (fun t => t.mgmt.acts == [.step, .power 0 1]), goes .pwrReqIdle { p 0 none with mgmt.jr.full := true } (fun t => t.power.state == 0),
      goes .pwrReqRun (p 0 none) (fun t => t.power.refused == 0), goes .pwrReqIdle (p 1 none) (fun t => t.power.state == 1), goes .pwrReqDoze (p 2 none) (fun t => t.power.target == none),
      goes .pwrReqRun (p 1 (some 0)) (fun t => t.power.refused == 3), goes .pwrReqRun (p 1 none) (fun t => t.power.target == some 0),
      goes .pwrReqIdle { p 0 none with twin.state := 2 } (fun t => t.power.refused == 2), goes .pwrReqIdle (p 0 none) (fun t => t.power.state == 1),
      decide (sumBy (p 0 none).poolFree (p 0 none).diesIn < 768 * 2 ^ 20), goes .pwrReqDoze (p 0 none) (fun t => t.power.refused == 1),
      decide (768 * 2 ^ 20 ≤ sumBy pool.poolFree pool.diesIn), goes .pwrReqDoze pool (fun t => t.power.target == some 2),
      (p 0 (some 2)).quiet && (p 0 (some 2)).boom.ops == [], goes .dozeSaveDone (p 0 (some 2)) (fun t => t.power.state == 2), goes .pwrReqIdle (p 2 none) (fun t => t.power.state == 2),
      goes .wakeDone (p 2 (some 0)) (fun t => t.power.state == 0), goes .wakeDone (p 1 (some 0)) (fun t => t.power.state == 0),
      running0.time.running && (List.range 6).any (fun i => running0.railOf (rails .reset) i == .reset),
      goes (.supplySample (rails .reset)) running0 (fun t => t.power.vreset), goes (.supplySample (rails .warn)) running0 (fun t => t.power.warnDue),
      ({ running0 with power.warnDue := true } : State).supplyHold.power.holdSupply, ({ running0 with power.warnDue := true, power.holdSupply := true } : State).supplyHold.power.holdSupply,
      goes (.supplySample (rails .good ++ [.reset])) running0 (fun t => t.power.inReset),
      (List.range 6).any (fun i => running0.railOf (rails .warn) i == .warn) && !(List.range 6).any (fun i => running0.railOf (rails .warn) i == .reset),
      goes (.supplySample (rails .warn)) { running0 with power.low := true } (fun t => !t.power.holdSupply),
      goes (.supplySample (rails .good)) { running0 with power.holdSupply := true } (fun t => t.power.goodSince == some 0),
      goes .supplyOk { running0 with power.holdSupply := true, power.goodSince := some 0, time.raw := 10000 } (fun t => !t.power.holdSupply), running0.changeDue == false,
      goes (.tjSample [959, 0, 0, 0, 0]) running0 (fun t => t.power.therm != 3), goes (.tjSample [960, 0, 0, 0, 0]) running0 (fun t => t.power.therm == 3),
      goes (.testPortAccess .boundaryScan) running0 (fun t => t.out == [.jtag true]),
      goes (.testPortAccess (.unitPort ⟨1, 0, 0, 0, 0⟩ false)) { running0 with mgmt.stage := 7 } (fun t => t.out == [.jtag false]) ] = true := by decide +kernel

/-! ## Well-formedness: an ill-formed term for each check -/

/-- Registers, places and numbers past their ranges. -/
theorem test_ill_formed_numbers : all
    ([ Instr.registerWrite 0x3FFFFFF 4 0, .registerWrite 0 0 0, .registerWrite 0 9 0, .reg64LoRead ⟨0x404000000, 4⟩, .reg64LoRead ⟨0, 9⟩, .reg64LoRead ⟨0, 0⟩, .reg64LoWrite 2 0, .reg64HiWrite 0x4000000 0,
      .apertureWrite 2 0, .smbusRequest (.writeReg 0x4000000 0), .smbusRequest (.readReg 0x4000000), .seqInfoRead 4, .scrubLate 4, .sweepDone 4,
      .bridgeLaneCheck 4 true none, .bridgeUe 4 [], .scrubRead 5 .hub 0 .none, .laneFailing 4 0, .laneFailing 0 128, .patrolScrub 4 0 .none,
      .shadowRotate 4 0 0, .shadowRotate 0 16 0, .shadowRotate 0 0 16, .partialLate 131072 0, .partialLate 0 4, .modeGapEnd 1024 0, .drainDone 1024,
      .prsNop 768, .specSuppress 12, .linkUp 48, .ptpEventReceive 0 64 [], .pfcPauseEnd 0 8, .dispatch 768 ] ++
     [ .sampleAdmit 65536, .convIdleClose 131072, .load 64, .opMov 4896 0 0 0, .opMov 0 4 0 0, .opMov 0 0 256 0, .opMov 0 0 0 65536, .firesCheck 4896 0 0,
      .firesCheck 0 4 0, .copyDrain 4896, .genStep 16384, .memberTimerExpire 8192, .hostpathResend 4096 0, .tpoArm 8 0, .captureEdge 6 true 0,
      .captureEdge 0 true 64, .captureRead 6, .fellReady 32, .fecSyndromeResult 12 [] true, .fecCorrectionResult 12 [] true, .evqRead 16, .dmaGo 4, .quadReset 4096, .supplySample [], .tjSample [0, 0, 0, 0, 2048],
      .tjSample [] ].map (fun c : Instr => c) |>.map (fun c => !wellFormed c)) = true := by decide +kernel
/-- Records whose fields do not fit. -/
theorem test_ill_formed_records :
    let f : FrameIn := { eport := 0, sub := 0, bytes := [0], handed := 1, ended := true, cws := [] }
    let l : LinkIn := { eport := 0, sub := 0, bytes := [], good := true }
    let r : TwinRec := { port := 0, ownBad := false, released := false, occ := 0, fcs := 0, tdig := 0 }
    let d : HostDesc := { src := 0, dst := 0, len := 0, dir := 0, irq := false, last := true, next := 0, data := [], pcieErr := false }
    let ok : FwSlot := { rootOk := true, sigOk := true, svn := 0, digest := [] }
    let env : ColdEnv := { puf := [0, 0, 0, 0, 0], slotA := ok, slotB := ok, counter0 := 0, counter1 := 0, records := [], failing := [], hubBad := false
                           portMax := 1, phase := 0, temps := [0, 0, 0, 0, 0] }
    let u : UnitId := ⟨1, 0, 0, 0, 0⟩
    all
    ([ Instr.frameReceive { f with eport := 48 }, .frameReceive { f with sub := 64 }, .frameReceive { f with handed := 2 },
      .linkDataFrame { l with eport := 48 }, .voidFrame { l with sub := 64 }, .checkEvent { u with level := 0 } .token [] true,
      .replaceDone { u with level := 7 }, .suspectExpire { u with die := 16 }, .cruiseTestDone { u with cmpt := 8 } true,
      .replaceDone { u with stand := 16 }, .replaceDone { u with unit := 4096 }, .testPortAccess (.unitPort { u with level := 0 } true),
      .twinRecord { r with occ := 65536 }, .twinRecord { r with fcs := 2 ^ 32 }, .twinRecord { r with tdig := 2 ^ 64 },
      .twinPairing { identity := 2 ^ 64, digest := 0, role := true, clean := true }, .dmaDescDone 4 d, .dmaDescDone 0 { d with len := 2 ^ 32 },
      .dmaDescDone 0 { d with src := 2 ^ 64 }, .dmaDescDone 0 { d with dst := 2 ^ 64 }, .coldStart { env with puf := [] },
      .coldStart { env with temps := [] }, .coldStart { env with phase := 4 }, .coldStart { env with bridges := [4] }, .coldStart { env with ports := [4] }, .coldStart { env with lanes := [(0, 128)] } ].map (fun c => !wellFormed c)) = true := by decide +kernel
/-- Commands at the top of their ranges are well formed. -/
theorem test_well_formed : all
    ([ Instr.registerWrite 0x3FFFFFF 1 0, .reg64LoWrite 0x3FFFFFC 0, .prsNop 767, .sampleAdmit 65535, .load 63, .opMov 4895 3 255 65535, .linkUp 47,
      .convIdleClose 131071, .checkEvent ⟨6, 15, 7, 15, 4095⟩ .token [] true, .flr, .powerOn ].map wellFormed) = true := by decide +kernel

/-! ## Results that the spec works out -/

/-- The field keys that the spec works out under R71. -/
theorem test_keys :
    [keyOf 8 0x3F80, keyOf 8 0xC000, keyOf 8 0x8000, keyOf 8 0x7FC1, keyOf 9 0x3F808001, keyOf 7 0x7C00, keyOf 4 0xFFFF] =
      [(0xBF80, false), (0x3FFF, false), (0x8000, false), (0xFFFF, true), (0xBF81, false), (0xFF80, false), (0x7FFF, false)] := by decide +kernel
/-- The fields of the instruction words composed under R79: JC h11, #12, LTU, +4 and KEYN h1, 4, BF16, [h12+0]. -/
theorem test_parser_words : all
    [ opcOf 0x442F0304 == 0x11 && aOf 0x442F0304 == 11 && bitsOf 0x442F0304 17 17 == 1 && bitsOf 0x442F0304 16 15 == 2,
      bitsOf 0x442F0304 14 6 == 12 && bitsOf 0x442F0304 5 0 == 4,
      opcOf 0x60C63000 == 0x18 && dOf 0x60C63000 == 3 && aOf 0x60C63000 == 1 && bitsOf 0x60C63000 17 14 == 8 && bitsOf 0x60C63000 13 10 == 12 ]
      = true := by decide +kernel
/-- The score whose order fixes its bits, worked out under R95. -/
theorem test_score_order : scoreF [0x4B800000, 0x3F800000, 0x3F800000] 0x3F000000 = 0x4B800000 := by decide +kernel
/-- The instruction word worked out under R194: VDOT INT8, A = qt, B = v0, DST NONE, SELF 1 A. -/
theorem test_core_word :
    (fun i => [i.opc, i.dst, i.sa, i.sb, i.fmt, i.dir, i.tgt, b2n i.side]) (insOf 0xA81FE4008A020000) =
      [0x2A, 0x1F, 0x1C, 0x10, 1, 5, 1, 0] := by decide +kernel
/-- The INT8 dot product that the spec works out: lanes 0 and 15, the sum, and its last steps. -/
theorem test_core_chain :
    let bytes := fun (f : Nat → Nat) => vecOf (leVal ((List.range 64).map (fun i => BitVec.ofNat 8 (f i))))
    let d := (vdot 1 true 0 (bytes (fun i => i + 224)) (bytes (fun _ => 2))).1
    all
    [ elem d 32 0 == 2 ^ 32 - 244 && elem d 32 15 == 236, (vred 0 3 d).1 == 0xFFFFFFC0, (cvt 3 8 false false 0xFFFFFFC0).1 == 0xC2800000,
      scalArith 2 8 0xC2800000 0x3C800000 == 0xBF800000, scalArith 0 8 0xBF800000 0x3F000000 == 0xBF000000 ] = true := by decide +kernel
/-- The four addresses that the spec locates under R338. -/
theorem test_locate :
    [dramLocate 0 0x0123456789, dramLocate 2 0x0010003000, dramLocate 2 0x0090000000, dramLocate 3 0x17C0000040] =
      [some ⟨2, none, 0x048D15789⟩, some ⟨1, some 3, 0x008001000⟩, none, none] := by decide +kernel
/-- Conversation 6,699 line by line: lines 1, 3, 5, 6, 8, 10, 13 and 14 of the table under R258, and the slide of line 7. -/
theorem test_window :
    let c := fun (x : Conv) => ({ State.reset with convs := [(6699, x)] } : State)
    let w := fun (x : Conv) (inc q : Nat) => (c x).winStep 6699 inc q 0 ⟨0, 0, 0⟩
    [w {} 5 0, w { state := 1, inc := 5, done := [0, 1, 2, 3] } 5 2, w { state := 1, inc := 5, base := 2, done := [2, 3, 4] } 5 1,
     w { state := 1, inc := 5, base := 2 } 5 600, w { state := 1, inc := 5, base := 2 } 5 270, w { state := 1, inc := 5, base := 15 } 5 10,
     w { state := 2, inc := 5, base := 271, final := 271 } 5 272, w { state := 3, inc := 5, base := 271 } 5 0, w { state := 3, inc := 5, base := 271 } 6 0] =
      [.proceed none true, .replay, .stale 2, .oow 2, .proceed (some 15) false, .stale 15, .stale 271, .stale 271, .proceed none true] := by decide +kernel
/-- SHA-256 of "abc" and the CRC-32 of "123456789", as their standards give them. -/
theorem test_digests : all
    [ beVal ((sha256 [0x61, 0x62, 0x63]).take 8) == 0xBA7816BF8F01CFEA, crc32 [0x31, 0x32, 0x33, 0x34, 0x35, 0x36, 0x37, 0x38, 0x39] == 0xCBF43926 ]
      = true := by decide +kernel

end Sys2Proof.Tests
end

section
/-! Forest traversal (R85): where a walk goes at each node, and where it ends. -/
namespace Sys2Proof.Machine

/-- At a COMPARE node whose key lies below the threshold a walk goes left. -/
theorem walk_succ_of_compare_lt {b : List Byte} {base : Nat} {key : Nat → Nat} {i : Nat} (n : Nat)
    (hcmp : leAt b (base + 4 * i) 4 % 16 = 0)
    (hlt : key (bitsOf (leAt b (base + 4 * i) 4) 31 20) < bitsOf (leAt b (base + 4 * i) 4) 19 4) :
    walk b base key (n + 1) i = walk b base key n (2 * i + 1) := by
  simp [walk, hcmp, Nat.not_le.mpr hlt, b2n]

/-- At a COMPARE node whose key equals the threshold or lies above it a walk goes right. -/
theorem walk_succ_of_compare_ge {b : List Byte} {base : Nat} {key : Nat → Nat} {i : Nat} (n : Nat)
    (hcmp : leAt b (base + 4 * i) 4 % 16 = 0)
    (hge : bitsOf (leAt b (base + 4 * i) 4) 19 4 ≤ key (bitsOf (leAt b (base + 4 * i) 4) 31 20)) :
    walk b base key (n + 1) i = walk b base key n (2 * i + 2) := by
  simp [walk, hcmp, hge, b2n]

/-- At a PAD node a walk goes left for every sample: `key` is not read. -/
theorem walk_succ_of_pad {b : List Byte} {base : Nat} {i : Nat} (key : Nat → Nat) (n : Nat)
    (hpad : leAt b (base + 4 * i) 4 % 16 = 1) :
    walk b base key (n + 1) i = walk b base key n (2 * i + 1) := by
  simp [walk, hpad, b2n]

/-- Whatever the node word, a walk goes on at one of the node's two children. -/
theorem walk_succ_child (b : List Byte) (base : Nat) (key : Nat → Nat) (n i : Nat) :
    ∃ c, (c = 2 * i + 1 ∨ c = 2 * i + 2) ∧ walk b base key (n + 1) i = walk b base key n c := by
  refine ⟨_, ?_, rfl⟩
  generalize (_ && _ : Bool) = right
  cases right <;> simp [b2n]

/-- The descendants of node i that lie n levels below it are the nodes 2ⁿ(i + 1) − 1 to 2ⁿ(i + 2) − 2, and a walk of n levels
ends at one of them. -/
theorem walk_bounds (b : List Byte) (base : Nat) (key : Nat → Nat) (n i : Nat) :
    2 ^ n * (i + 1) ≤ walk b base key n i + 1 ∧ walk b base key n i + 1 < 2 ^ n * (i + 2) := by
  induction n generalizing i with
  | zero => simp [walk]
  | succ n ih =>
    obtain ⟨c, hc, hwalk⟩ := walk_succ_child b base key n i
    obtain ⟨hlo, hhi⟩ := ih c
    have hlow : 2 ^ (n + 1) * (i + 1) ≤ 2 ^ n * (c + 1) := by
      rw [Nat.pow_succ, Nat.mul_assoc]
      exact Nat.mul_le_mul_left _ (by omega)
    have hhigh : 2 ^ n * (c + 2) ≤ 2 ^ (n + 1) * (i + 2) := by
      rw [Nat.pow_succ, Nat.mul_assoc]
      exact Nat.mul_le_mul_left _ (by omega)
    rw [hwalk]
    exact ⟨Nat.le_trans hlow hlo, Nat.lt_of_lt_of_le hhi hhigh⟩

/-- A walk of the full depth from the root ends below the node words, at leaf number `leafOf` of the 2^d leaves. -/
theorem leafOf_lt_and_walk_root (b : List Byte) (f : ForestHdr) (key : Nat → Nat) (j : Nat) :
    leafOf b f key j < 2 ^ f.depth ∧
      walk b (f.node + j * (2 ^ f.depth - 1) * 4) key f.depth 0 = 2 ^ f.depth - 1 + leafOf b f key j := by
  obtain ⟨hlo, hhi⟩ := walk_bounds b (f.node + j * (2 ^ f.depth - 1) * 4) key f.depth 0
  unfold leafOf
  omega

/-- Settles O31: R85 node by node, and the bounds on where a walk of the full depth ends. -/
theorem branchesFollowTheThreshold : Obligations.BranchesFollowTheThreshold := by
  unfold Obligations.BranchesFollowTheThreshold
  refine ⟨fun b base key n i => ⟨?_, ?_, ?_⟩, fun b f key j => ?_⟩
  · exact fun hcmp hlt => walk_succ_of_compare_lt n hcmp hlt
  · exact fun hcmp hge => walk_succ_of_compare_ge n hcmp hge
  · exact fun hpad => walk_succ_of_pad key n hpad
  · exact (leafOf_lt_and_walk_root b f key j).1

end Sys2Proof.Machine
end

section
/-! Number formats: the width of an element, and the elements of a vector put together from a list or by an elementwise
operation. -/
namespace Sys2Proof.Machine

/-- No format has empty elements. -/
theorem fmtWidth_pos (f : Nat) : 0 < fmtWidth f := by
  unfold fmtWidth
  split
  · decide
  split
  · decide
  split <;> decide

/-- Element i of a packed list stands at bit w × i, cut to its low w bits. -/
theorem packElems_div_mod (w : Nat) (l : List Nat) (i : Nat) (hi : i < l.length) :
    packElems w l / 2 ^ (w * i) % 2 ^ w = l[i] % 2 ^ w := by
  induction l generalizing i with
  | nil => simp at hi
  | cons x t ih =>
    cases i with
    | zero => simp [packElems]
    | succ i =>
      have hlow : (x % 2 ^ w + 2 ^ w * packElems w t) / 2 ^ w = packElems w t := by
        rw [Nat.add_mul_div_left _ _ (Nat.two_pow_pos w), Nat.div_eq_of_lt (Nat.mod_lt x (Nat.two_pow_pos w)), Nat.zero_add]
      rw [packElems, Nat.mul_succ, Nat.add_comm (w * i), Nat.pow_add, ← Nat.div_div_eq_div_mul, hlow]
      exact ih i (Nat.lt_of_succ_lt_succ hi)

/-- Cutting a number to a multiple of 2^(k + w) leaves its w bits at bit k as they were. -/
theorem mod_div_two_pow_mod {M k w : Nat} (h : 2 ^ (k + w) ∣ M) (n : Nat) : n % M / 2 ^ k % 2 ^ w = n / 2 ^ k % 2 ^ w := by
  obtain ⟨r, rfl⟩ := h
  rw [Nat.pow_add, Nat.mul_assoc, Nat.mod_mul_right_div_self, Nat.mod_mul_right_mod]

/-- A vector of elements of width w gives each element that lies within its 512 bits back. -/
theorem elem_vecOf_packElems {w : Nat} {l : List Nat} {i : Nat} (hi : i < l.length) (hfit : w * (i + 1) ≤ 512) :
    elem (vecOf (packElems w l)) w i = l[i] % 2 ^ w := by
  have hend : w * i + w ≤ 512 := hfit
  rw [elem, vecOf, BitVec.toNat_ofNat, mod_div_two_pow_mod (Nat.pow_dvd_pow 2 hend), packElems_div_mod w l i hi]

/-- Element j of an elementwise result is the operation on elements j of its operands. -/
theorem elem_vmap2 (f : Nat) (g : Nat → Nat → Nat × Bool) (a b : Vec) {j : Nat} (hj : j < 512 / fmtWidth f) :
    elem (vmap2 f g a b).1 (fmtWidth f) j = (g (elem a (fmtWidth f) j) (elem b (fmtWidth f) j)).1 % 2 ^ fmtWidth f := by
  have hfit : fmtWidth f * (j + 1) ≤ 512 :=
    Nat.mul_comm _ _ ▸ (Nat.le_div_iff_mul_le (fmtWidth_pos f)).mp hj
  simp only [vmap2]
  rw [elem_vecOf_packElems (by simpa using hj) hfit]
  simp

end Sys2Proof.Machine
end

section
/-! Comparisons and extrema (R182), format by format. -/
namespace Sys2Proof.Machine

/-! ## The order of floating-point values -/

/-- Nothing lies above a NaN. -/
@[simp] theorem flLt_nan_left (x : Fl) : flLt .nan x = false := rfl

/-- Nothing lies below a NaN. -/
@[simp] theorem flLt_nan_right (x : Fl) : flLt x .nan = false := by cases x <;> rfl

/-- No zero lies below a zero, whatever their signs. -/
@[simp] theorem flLt_zero_zero (m n : Bool) (e g : Int) : flLt (.fin m 0 e) (.fin n 0 g) = false := by
  simp [flLt, flNeg, Fl.sig, alignSum]

/-! ## Conditions -/

/-- NE is the negation of EQ in every format. -/
theorem condOf_ne (f a b : Nat) : condOf 1 f a b = !condOf 0 f a b := by
  cases hf : isFp f <;> simp [condOf, hf, bne]

/-- LT of a floating-point format is the order of the values. -/
theorem condOf_lt_of_isFp {f : Nat} (hf : isFp f = true) (a b : Nat) : condOf 2 f a b = flLt (flOf f a) (flOf f b) := by
  simp [condOf, hf]

/-- GE of a floating-point format is the negation of LT but where an operand is a NaN. -/
theorem condOf_ge_of_isFp {f : Nat} (hf : isFp f = true) (a b : Nat) :
    condOf 3 f a b = true ↔ flOf f a ≠ .nan ∧ flOf f b ≠ .nan ∧ flLt (flOf f a) (flOf f b) = false := by
  simp [condOf, hf, and_assoc]

/-- EQ of a floating-point format: no NaN, and neither value below the other. -/
theorem condOf_eq_of_isFp {f : Nat} (hf : isFp f = true) (a b : Nat) :
    condOf 0 f a b = true ↔ flOf f a ≠ .nan ∧ flOf f b ≠ .nan ∧
      flLt (flOf f a) (flOf f b) = false ∧ flLt (flOf f b) (flOf f a) = false := by
  simp [condOf, hf, and_assoc]

/-- EQ of an integer format is equality of the integers. -/
theorem condOf_eq_of_not_isFp {f : Nat} (hf : isFp f = false) (a b : Nat) :
    condOf 0 f a b = true ↔ intOf f a = intOf f b := by
  simp [condOf, hf]

/-- LT of an integer format is the order of the integers. -/
theorem condOf_lt_of_not_isFp {f : Nat} (hf : isFp f = false) (a b : Nat) :
    condOf 2 f a b = true ↔ intOf f a < intOf f b := by
  simp [condOf, hf]

/-- GE of an integer format is the negation of LT. -/
theorem condOf_ge_of_not_isFp {f : Nat} (hf : isFp f = false) (a b : Nat) : condOf 3 f a b = !condOf 2 f a b := by
  have hge : decide (intOf f b ≤ intOf f a) = !decide (intOf f a < intOf f b) := by
    rw [← decide_not, decide_eq_decide, Int.not_lt]
  simpa [condOf, hf] using hge

/-- A comparison with a NaN. -/
theorem condOf_of_nan {f a b : Nat} (hf : isFp f = true) (hnan : flOf f a = .nan ∨ flOf f b = .nan) :
    condOf 0 f a b = false ∧ condOf 1 f a b = true ∧ condOf 2 f a b = false ∧ condOf 3 f a b = false := by
  have heq : condOf 0 f a b = false := Bool.eq_false_iff.mpr fun h => by
    obtain ⟨hna, hnb, -⟩ := (condOf_eq_of_isFp hf a b).mp h
    exact hnan.elim hna hnb
  have hge : condOf 3 f a b = false := Bool.eq_false_iff.mpr fun h => by
    obtain ⟨hna, hnb, -⟩ := (condOf_ge_of_isFp hf a b).mp h
    exact hnan.elim hna hnb
  have hlt : condOf 2 f a b = false := by
    rw [condOf_lt_of_isFp hf]
    rcases hnan with h | h <;> simp [h]
  exact ⟨heq, by rw [condOf_ne, heq]; rfl, hlt, hge⟩

/-- A comparison of two zeros. -/
theorem condOf_of_zeros {f a b : Nat} {m n : Bool} {e g : Int} (hf : isFp f = true) (ha : flOf f a = .fin m 0 e)
    (hb : flOf f b = .fin n 0 g) :
    condOf 0 f a b = true ∧ condOf 1 f a b = false ∧ condOf 2 f a b = false ∧ condOf 3 f a b = true := by
  have heq : condOf 0 f a b = true := (condOf_eq_of_isFp hf a b).mpr (by simp [ha, hb])
  have hge : condOf 3 f a b = true := (condOf_ge_of_isFp hf a b).mpr (by simp [ha, hb])
  have hlt : condOf 2 f a b = false := by simp [condOf_lt_of_isFp hf, ha, hb]
  exact ⟨heq, by rw [condOf_ne, heq]; rfl, hlt, hge⟩

/-- The integer of a signed format. -/
theorem intOf_of_ne {f : Nat} (hf : f ≠ 9) (v : Nat) : intOf f v = signed (fmtWidth f) v := by
  simp [intOf, hf]

/-- The integer of a U32 operand is the operand. -/
theorem intOf_u32 {v : Nat} (hv : v < 2 ^ 32) : intOf 9 v = v := by
  rw [intOf, if_pos rfl, Nat.mod_eq_of_lt hv]

/-- The conditions of a signed integer format. -/
theorem condOf_of_signed {f : Nat} (hf : f = 1 ∨ f = 2 ∨ f = 3) (a b : Nat) :
    (condOf 0 f a b = true ↔ signed (fmtWidth f) a = signed (fmtWidth f) b) ∧ (condOf 1 f a b = !condOf 0 f a b) ∧
    (condOf 2 f a b = true ↔ signed (fmtWidth f) a < signed (fmtWidth f) b) ∧ (condOf 3 f a b = !condOf 2 f a b) := by
  have hint : isFp f = false := by rcases hf with rfl | rfl | rfl <;> rfl
  have hne : f ≠ 9 := by omega
  rw [← intOf_of_ne hne a, ← intOf_of_ne hne b]
  exact ⟨condOf_eq_of_not_isFp hint a b, condOf_ne f a b, condOf_lt_of_not_isFp hint a b, condOf_ge_of_not_isFp hint a b⟩

/-- The conditions of U32. -/
theorem condOf_u32 {a b : Nat} (ha : a < 2 ^ 32) (hb : b < 2 ^ 32) :
    (condOf 0 9 a b = true ↔ a = b) ∧ (condOf 1 9 a b = true ↔ a ≠ b) ∧ (condOf 2 9 a b = true ↔ a < b) ∧
    (condOf 3 9 a b = true ↔ b ≤ a) := by
  have heq : condOf 0 9 a b = true ↔ a = b := by
    rw [condOf_eq_of_not_isFp rfl, intOf_u32 ha, intOf_u32 hb, Int.ofNat_inj]
  have hlt : condOf 2 9 a b = true ↔ a < b := by
    rw [condOf_lt_of_not_isFp rfl, intOf_u32 ha, intOf_u32 hb, Int.ofNat_lt]
  refine ⟨heq, ?_, hlt, ?_⟩
  · rw [condOf_ne, Bool.not_eq_true', Bool.eq_false_iff, ne_eq, heq]
  · rw [condOf_ge_of_not_isFp rfl, Bool.not_eq_true', Bool.eq_false_iff, ne_eq, hlt, Nat.not_lt]

/-! ## Extrema -/

section
variable {f a b : Nat} (hf : isFp f = true) (ha : a < 2 ^ fmtWidth f) (hb : b < 2 ^ fmtWidth f) (mx : Bool)
include hf ha hb

/-- MIN and MAX of operands that fit a floating-point format. -/
theorem minMax_of_isFp :
    minMax mx f a b =
      if flOf f a = .nan ∧ flOf f b = .nan then canonNan f
      else if flOf f a = .nan then b
      else if flOf f b = .nan then a
      else if mx then (if fpBelow f a b then b else a) else (if fpBelow f b a then b else a) := by
  simp only [minMax, hf, Nat.mod_eq_of_lt ha, Nat.mod_eq_of_lt hb, if_true]

/-- The extremum of two NaNs is the canonical NaN. -/
theorem minMax_nan_nan (hna : flOf f a = .nan) (hnb : flOf f b = .nan) : minMax mx f a b = canonNan f := by
  rw [minMax_of_isFp hf ha hb, if_pos ⟨hna, hnb⟩]

/-- The extremum of a NaN and another operand is the other. -/
theorem minMax_nan_left (hna : flOf f a = .nan) (hnb : flOf f b ≠ .nan) : minMax mx f a b = b := by
  simp [minMax_of_isFp hf ha hb, hna, hnb]

/-- The extremum of an operand and a NaN is that operand. -/
theorem minMax_nan_right (hna : flOf f a ≠ .nan) (hnb : flOf f b = .nan) : minMax mx f a b = a := by
  simp [minMax_of_isFp hf ha hb, hna, hnb]

end

/-- Of two zeros only minus zero lies below, and only below plus zero. -/
theorem fpBelow_of_zeros {f a b : Nat} {m n : Bool} {e g : Int} (ha : flOf f a = .fin m 0 e) (hb : flOf f b = .fin n 0 g) :
    fpBelow f a b = (m && !n) := by
  simp [fpBelow, ha, hb, Fl.isNegZero]

/-- The extrema of minus zero and plus zero, in either order. -/
theorem minMax_of_zeros {f a b : Nat} {e g : Int} (hf : isFp f = true) (ha : a < 2 ^ fmtWidth f) (hb : b < 2 ^ fmtWidth f)
    (hneg : flOf f a = .fin true 0 e) (hpos : flOf f b = .fin false 0 g) :
    minMax false f a b = a ∧ minMax false f b a = a ∧ minMax true f a b = b ∧ minMax true f b a = b := by
  have hbelow : fpBelow f a b = true := fpBelow_of_zeros hneg hpos
  have habove : fpBelow f b a = false := fpBelow_of_zeros hpos hneg
  simp [minMax_of_isFp hf ha hb, minMax_of_isFp hf hb ha, hneg, hpos, hbelow, habove]

/-! ## Elementwise comparisons and extrema -/

/-- VCMP gives all ones or zero in each element. -/
theorem elem_resVcmp (f : Fire) {j : Nat} (hj : j < 512 / fmtWidth f.i.fmt) :
    elem (resVcmp f).val (fmtWidth f.i.fmt) j = if condOf f.i.md f.i.fmt (elem f.va (fmtWidth f.i.fmt) j)
      (elem f.vb (fmtWidth f.i.fmt) j) then 2 ^ fmtWidth f.i.fmt - 1 else 0 := by
  rw [resVcmp, elem_vmap2 _ _ _ _ hj]
  apply Nat.mod_eq_of_lt
  have hpos : 0 < 2 ^ fmtWidth f.i.fmt := Nat.two_pow_pos _
  dsimp only
  split <;> omega

/-- VMIN and VMAX give the extremum of each pair of elements. -/
theorem elem_resVminMax (mx : Bool) (f : Fire) {j : Nat} (hj : j < 512 / fmtWidth f.i.fmt) :
    elem (resVminMax mx f).val (fmtWidth f.i.fmt) j =
      minMax mx f.i.fmt (elem f.va (fmtWidth f.i.fmt) j) (elem f.vb (fmtWidth f.i.fmt) j) % 2 ^ fmtWidth f.i.fmt := by
  rw [resVminMax, elem_vmap2 _ _ _ _ hj]

/-- Settles O45: the elementwise operations run the scalar comparison and extremum on each element, and those follow R182. -/
theorem comparisonsAndExtrema : Obligations.ComparisonsAndExtrema := by
  unfold Obligations.ComparisonsAndExtrema
  refine ⟨fun mx f => ⟨rfl, rfl, fun j hj => ⟨elem_resVcmp f hj, elem_resVminMax mx f hj⟩⟩,
    fun f a b hf => ⟨condOf_of_nan hf, fun m n e g ha hb => condOf_of_zeros hf ha hb, fun ha hb => ⟨?_, ?_, ?_⟩⟩,
    fun f a b hf => condOf_of_signed hf a b, fun a b ha hb => condOf_u32 ha hb⟩
  · exact fun e g hneg hpos => minMax_of_zeros hf ha hb hneg hpos
  · exact fun mx hna hnb => ⟨minMax_nan_left hf ha hb mx hna hnb, minMax_nan_right hf hb ha mx hnb hna⟩
  · exact fun mx hna hnb => minMax_nan_nan hf ha hb mx hna hnb

end Sys2Proof.Machine
end

section
/-! Acknowledgements (R246): distances between sequence numbers, where the base stops, and what goes when it moves. -/
namespace Sys2Proof.Machine

/-! ## Distances of sequence numbers -/

/-- A distance is a number modulo 2^32. -/
theorem seqDist_lt (a b : Nat) : seqDist a b < 2 ^ 32 := Nat.mod_lt _ (by decide)

/-- A base moved forward by m lies m above where it was. -/
theorem seqDist_add_mod {b m : Nat} (hm : m < 2 ^ 32) : seqDist ((b + m) % 2 ^ 32) b = m := by
  unfold seqDist
  omega

/-- A base moved forward by the distance of a number arrives at that number. -/
theorem add_seqDist_mod (a b : Nat) : (b + seqDist a b) % 2 ^ 32 = a % 2 ^ 32 := by
  unfold seqDist
  omega

/-! ## Moving the base -/

/-- Keeping entries by a test of their keys. -/
theorem Tbl.find_keep_key {α : Type} (t : Tbl α) (p : Nat → Bool) (k : Nat) :
    Tbl.find (Tbl.keep t (fun j _ => p j)) k = if p k then Tbl.find t k else none := by
  change Tbl.find (List.filter (fun e => p e.1) t) k = _
  induction t with
  | nil => simp only [List.filter_nil, Tbl.find, ite_self]
  | cons e t ih =>
    by_cases hp : p e.1 = true
    · rw [List.filter_cons_of_pos (p := fun e : Nat × α => p e.1) hp]
      by_cases hk : e.1 = k
      · subst hk
        rw [if_pos hp, Tbl.find, if_pos rfl, Tbl.find, if_pos rfl]
      · rw [Tbl.find, if_neg hk, ih, Tbl.find, if_neg hk]
    · rw [List.filter_cons_of_neg (p := fun e : Nat × α => p e.1) hp, ih]
      by_cases hk : e.1 = k
      · subst hk
        rw [if_neg hp, if_neg hp]
      · rw [Tbl.find, if_neg hk]

/-- In a canonical cache the replies just written for a conversation are its replies, also when there are none. -/
theorem State.setCache_cacheOf_self {s : State} (hok : Tbl.ok s.cache = true) (c : Nat) (x : Tbl Cached) :
    (s.setCache c x).cacheOf c = x := by
  unfold State.setCache State.cacheOf
  by_cases hx : x = []
  · rw [if_pos hx, Tbl.getD, Tbl.find_del c c hok, if_pos rfl, hx, Option.getD_none]
  · rw [if_neg hx, Tbl.getD_put_self]

/-- The entry after its base has moved. -/
theorem State.moveBase_conv_self (s : State) (c b : Nat) :
    (s.moveBase c b).conv c =
      { s.conv c with base := b, done := (s.conv c).done.filter (fun q => decide (seqDist q b < 256)) } :=
  State.setConv_conv_self ..

/-- The cached replies after a base has moved. -/
theorem State.moveBase_find_cacheOf {s : State} (hok : Tbl.ok s.cache = true) (c b q : Nat) :
    Tbl.find ((s.moveBase c b).cacheOf c) q = if seqDist q b < 256 then Tbl.find (s.cacheOf c) q else none := by
  unfold State.moveBase
  rw [State.setCache_cacheOf_self (s := s.setConv c _) hok, Tbl.find_keep_key]
  simp only [decide_eq_true_eq]

/-- Moving a base changes conversation entries and cached replies alone. -/
theorem State.moveBase_frame (s : State) (c b : Nat) :
    { s.moveBase c b with convs := s.convs, cache := s.cache } = s := rfl

/-! ## Where the base stops -/

/-- A number is in progress when a message under way in the entry's conversation carries it. -/
theorem State.inProgress_iff (s : State) (c q : Nat) :
    s.inProgress c q = true ↔ ∃ m ∈ s.convMsgs c, m.2.org.desc.sq = q := by
  simp only [State.inProgress, List.any_eq_true, beq_iff_eq]

/-- The distances above the base at which an acknowledgement of a may end: that of a and those of the numbers in progress. -/
def State.ackDists (s : State) (c a : Nat) : List Nat :=
  seqDist a (s.conv c).base :: (s.convMsgs c).map (fun m => seqDist m.2.org.desc.sq (s.conv c).base)

theorem State.mem_ackDists (s : State) (c a n : Nat) :
    n ∈ s.ackDists c a ↔
      n = seqDist a (s.conv c).base ∨ ∃ q, s.inProgress c q = true ∧ seqDist q (s.conv c).base = n := by
  rw [State.ackDists, List.mem_cons, List.mem_map]
  refine or_congr Iff.rfl ⟨?_, ?_⟩
  · rintro ⟨m, hm, hdist⟩
    exact ⟨_, (s.inProgress_iff c _).mpr ⟨m, hm, rfl⟩, hdist⟩
  · rintro ⟨q, hq, hdist⟩
    obtain ⟨m, hm, hsq⟩ := (s.inProgress_iff c q).mp hq
    exact ⟨m, hm, by rw [hsq, hdist]⟩

/-- How far above the base an acknowledgement of a ends. -/
def State.ackMove (s : State) (c a : Nat) : Nat := (s.ackDists c a).min (List.cons_ne_nil _ _)

theorem State.ackStop_eq (s : State) (c a : Nat) : s.ackStop c a = ((s.conv c).base + s.ackMove c a) % 2 ^ 32 := rfl

theorem State.ackMove_mem (s : State) (c a : Nat) : s.ackMove c a ∈ s.ackDists c a := List.min_mem _

/-- The move does not pass the number acknowledged. -/
theorem State.ackMove_le (s : State) (c a : Nat) : s.ackMove c a ≤ seqDist a (s.conv c).base :=
  List.min_le_of_mem ((s.mem_ackDists c a _).mpr (.inl rfl))

/-- The move does not pass a number in progress. -/
theorem State.ackMove_le_of_inProgress {s : State} {c q : Nat} (a : Nat) (hq : s.inProgress c q = true) :
    s.ackMove c a ≤ seqDist q (s.conv c).base :=
  List.min_le_of_mem ((s.mem_ackDists c a _).mpr (.inr ⟨q, hq, rfl⟩))

/-- The distance of the stop above the base is the move: it does not wrap. -/
theorem State.seqDist_ackStop (s : State) (c a : Nat) : seqDist (s.ackStop c a) (s.conv c).base = s.ackMove c a := by
  rw [State.ackStop_eq]
  exact seqDist_add_mod (Nat.lt_of_le_of_lt (s.ackMove_le c a) (seqDist_lt _ _))

/-- The stop is the number acknowledged or one in progress. -/
theorem State.ackStop_eq_or_inProgress (s : State) (c : Nat) {a : Nat} (ha : a < 2 ^ 32) :
    s.ackStop c a = a ∨ ∃ q, s.inProgress c q = true ∧ s.ackStop c a = q % 2 ^ 32 := by
  rw [State.ackStop_eq]
  rcases (s.mem_ackDists c a _).mp (s.ackMove_mem c a) with hmove | ⟨q, hq, hmove⟩
  · exact .inl (by rw [hmove, add_seqDist_mod, Nat.mod_eq_of_lt ha])
  · exact .inr ⟨q, hq, by rw [← hmove, add_seqDist_mod]⟩

/-! ## The acknowledgement -/

/-- The number A that a message acknowledges: the replies of every number below it (R246). -/
def Desc.ackTo (d : Desc) : Nat := (d.sq + 2 ^ 32 - d.ackd) % 2 ^ 32

theorem Desc.ackTo_lt (d : Desc) : d.ackTo < 2 ^ 32 := Nat.mod_lt _ (by decide)

/-- An acknowledgement that is not one, or lies out of range, changes nothing. -/
theorem State.effAck_of_not {s : State} {c : Nat} {d : Desc}
    (h : d.ackv = false ∨ seqDist d.ackTo (s.conv c).base = 0 ∨ 256 < seqDist d.ackTo (s.conv c).base) :
    s.effAck c d = s := by
  refine if_neg fun ⟨hackv, hpos, hle⟩ => ?_
  rcases h with hclear | hzero | hfar
  · exact absurd hackv (by rw [hclear]; decide)
  · exact Nat.ne_of_gt hpos hzero
  · exact Nat.not_le.mpr hfar hle

/-- An acknowledgement in range moves the base to its stop. -/
theorem State.effAck_of_inRange {s : State} {c : Nat} {d : Desc} (hackv : d.ackv = true)
    (hpos : 0 < seqDist d.ackTo (s.conv c).base) (hle : seqDist d.ackTo (s.conv c).base ≤ 256) :
    s.effAck c d = s.moveBase c (s.ackStop c d.ackTo) :=
  if_pos ⟨hackv, hpos, hle⟩

/-- Settles O24: the base moves by the least of the distances of A and of the numbers in progress, and keeps what lies above. -/
theorem acknowledgementMovesTheBase : Obligations.AcknowledgementMovesTheBase := by
  unfold Obligations.AcknowledgementMovesTheBase
  intro s c d hok
  refine ⟨State.effAck_of_not, fun hackv hpos hle => ?_⟩
  have hbase : ((s.moveBase c (s.ackStop c d.ackTo)).conv c).base = s.ackStop c d.ackTo := by
    rw [State.moveBase_conv_self]
  rw [State.effAck_of_inRange hackv hpos hle, hbase, State.seqDist_ackStop]
  refine ⟨s.ackMove_le c _, fun q hq => State.ackMove_le_of_inProgress _ hq, s.ackStop_eq_or_inProgress c d.ackTo_lt,
    fun q => ?_, State.moveBase_find_cacheOf hok c _, State.moveBase_frame s c _, ?_⟩
  · rw [State.moveBase_conv_self, List.mem_filter, decide_eq_true_eq]
  · rw [State.moveBase_conv_self]

end Sys2Proof.Machine
end

section
/-! Steps and commands as a whole: what every command keeps, and what each of the three that restart a domain does. -/
namespace Sys2Proof.Machine

/-- Every command answers a next state (log 42). -/
theorem exec_answers (c : Instr) (s : State) : ∃ t, exec c s = .next t := by
  cases c <;> exact ⟨_, rfl⟩

/-- Every command but those that restart a domain keeps what the relation names. -/
theorem kept_exec {c : Instr} {s t : State} (hon : c ≠ .powerOn) (hoff : c ≠ .aonLoss) (hcold : ∀ env, c ≠ .coldStart env)
    (h : exec c s = .next t) : Kept s t := by
  cases c with
  | powerOn => exact absurd rfl hon
  | aonLoss => exact absurd rfl hoff
  | coldStart env => exact absurd rfl (hcold env)
  | registerWrite => exact kept_exec_registerWrite s t h
  | reg64LoRead => exact kept_exec_reg64LoRead s t h
  | reg64LoWrite => exact kept_exec_reg64LoWrite s t h
  | reg64HiWrite => exact kept_exec_reg64HiWrite s t h
  | seqInfoRead => exact kept_exec_seqInfoRead s t h
  | convInfoRead => exact kept_exec_convInfoRead s t h
  | mapentRead => exact kept_exec_mapentRead s t h
  | timeNowRead => exact kept_exec_timeNowRead s t h
  | commitGo => exact kept_exec_commitGo s t h
  | commitValidated => exact kept_exec_commitValidated s t h
  | commitApply => exact kept_exec_commitApply s t h
  | modeGapEnd => exact kept_exec_modeGapEnd s t h
  | frameReceive => exact kept_exec_frameReceive s t h
  | headStart => exact kept_exec_headStart s t h
  | headResume => exact kept_exec_headResume s t h
  | prsNop => exact kept_exec_prsNop s t h
  | prsLd => exact kept_exec_prsLd s t h
  | prsLi => exact kept_exec_prsLi s t h
  | prsAdd => exact kept_exec_prsAdd s t h
  | prsSub => exact kept_exec_prsSub s t h
  | prsAnd => exact kept_exec_prsAnd s t h
  | prsOr => exact kept_exec_prsOr s t h
  | prsShr => exact kept_exec_prsShr s t h
  | prsShl => exact kept_exec_prsShl s t h
  | prsBfx => exact kept_exec_prsBfx s t h
  | prsJ => exact kept_exec_prsJ s t h
  | prsJc => exact kept_exec_prsJc s t h
  | keyn => exact kept_exec_keyn s t h
  | keyr => exact kept_exec_keyr s t h
  | metaWrite => exact kept_exec_metaWrite s t h
  | setf => exact kept_exec_setf s t h
  | chdr => exact kept_exec_chdr s t h
  | dispatch => exact kept_exec_dispatch s t h
  | fail => exact kept_exec_fail s t h
  | drop => exact kept_exec_drop s t h
  | messageRerun => exact kept_exec_messageRerun s t h
  | fecSyndromeResult => exact kept_exec_fecSyndromeResult s t h
  | fecCorrectionResult => exact kept_exec_fecCorrectionResult s t h
  | fcsVerdict => exact kept_exec_fcsVerdict s t h
  | specSuppress => exact kept_exec_specSuppress s t h
  | specWindowEnd => exact kept_exec_specWindowEnd s t h
  | replyBuild => exact kept_exec_replyBuild s t h
  | replyTransmitStart => exact kept_exec_replyTransmitStart s t h
  | heldUnitDue => exact kept_exec_heldUnitDue s t h
  | extensionExhausted => exact kept_exec_extensionExhausted s t h
  | reissue => exact kept_exec_reissue s t h
  | noticeSend => exact kept_exec_noticeSend s t h
  | frameTruncated => exact kept_exec_frameTruncated s t h
  | egressLinkLost => exact kept_exec_egressLinkLost s t h
  | egressTimeout => exact kept_exec_egressTimeout s t h
  | gapTimerExpire => exact kept_exec_gapTimerExpire s t h
  | seqWaitTimeout => exact kept_exec_seqWaitTimeout s t h
  | admitQueueTimeout => exact kept_exec_admitQueueTimeout s t h
  | effectsApply => exact kept_exec_effectsApply s t h
  | replaySend => exact kept_exec_replaySend s t h
  | convIdleClose => exact kept_exec_convIdleClose s t h
  | convLingerClose => exact kept_exec_convLingerClose s t h
  | sampleAdmit => exact kept_exec_sampleAdmit s t h
  | combineComplete => exact kept_exec_combineComplete s t h
  | partialLate => exact kept_exec_partialLate s t h
  | shadowRotate => exact kept_exec_shadowRotate s t h
  | batchWaitExpire => exact kept_exec_batchWaitExpire s t h
  | batchPassStart => exact kept_exec_batchPassStart s t h
  | batchPassComplete => exact kept_exec_batchPassComplete s t h
  | load => exact kept_exec_load s t h
  | loadComplete => exact kept_exec_loadComplete s t h
  | activate => exact kept_exec_activate s t h
  | discard => exact kept_exec_discard s t h
  | unload => exact kept_exec_unload s t h
  | query => exact kept_exec_query s t h
  | pload => exact kept_exec_pload s t h
  | drain => exact kept_exec_drain s t h
  | drainDone => exact kept_exec_drainDone s t h
  | resume => exact kept_exec_resume s t h
  | versionRelease => exact kept_exec_versionRelease s t h
  | copyReplace => exact kept_exec_copyReplace s t h
  | arrayAdmit => exact kept_exec_arrayAdmit s t h
  | tokenArrive => exact kept_exec_tokenArrive s t h
  | opMov => exact kept_exec_opMov s t h
  | opLi => exact kept_exec_opLi s t h
  | opSel => exact kept_exec_opSel s t h
  | opAdd => exact kept_exec_opAdd s t h
  | opSub => exact kept_exec_opSub s t h
  | opMul => exact kept_exec_opMul s t h
  | opMin => exact kept_exec_opMin s t h
  | opMax => exact kept_exec_opMax s t h
  | opAnd => exact kept_exec_opAnd s t h
  | opOr => exact kept_exec_opOr s t h
  | opXor => exact kept_exec_opXor s t h
  | opShl => exact kept_exec_opShl s t h
  | opShr => exact kept_exec_opShr s t h
  | opCmp => exact kept_exec_opCmp s t h
  | opFma => exact kept_exec_opFma s t h
  | opCvt => exact kept_exec_opCvt s t h
  | opKey => exact kept_exec_opKey s t h
  | opSfn => exact kept_exec_opSfn s t h
  | opLut => exact kept_exec_opLut s t h
  | opTag => exact kept_exec_opTag s t h
  | opLd => exact kept_exec_opLd s t h
  | opSt => exact kept_exec_opSt s t h
  | opDma => exact kept_exec_opDma s t h
  | opFeval => exact kept_exec_opFeval s t h
  | opBswap => exact kept_exec_opBswap s t h
  | opVmov => exact kept_exec_opVmov s t h
  | opVsel => exact kept_exec_opVsel s t h
  | opVadd => exact kept_exec_opVadd s t h
  | opVsub => exact kept_exec_opVsub s t h
  | opVmul => exact kept_exec_opVmul s t h
  | opVmin => exact kept_exec_opVmin s t h
  | opVmax => exact kept_exec_opVmax s t h
  | opVand => exact kept_exec_opVand s t h
  | opVor => exact kept_exec_opVor s t h
  | opVxor => exact kept_exec_opVxor s t h
  | opVdot => exact kept_exec_opVdot s t h
  | opVred => exact kept_exec_opVred s t h
  | opVcmp => exact kept_exec_opVcmp s t h
  | opVcvt => exact kept_exec_opVcvt s t h
  | opVkey => exact kept_exec_opVkey s t h
  | opVsfn => exact kept_exec_opVsfn s t h
  | opVins => exact kept_exec_opVins s t h
  | opVext => exact kept_exec_opVext s t h
  | opVbcast => exact kept_exec_opVbcast s t h
  | opVld => exact kept_exec_opVld s t h
  | opVst => exact kept_exec_opVst s t h
  | firesCheck => exact kept_exec_firesCheck s t h
  | resultCountCheck => exact kept_exec_resultCountCheck s t h
  | fevalResult => exact kept_exec_fevalResult s t h
  | dmaComplete => exact kept_exec_dmaComplete s t h
  | apertureWrite => exact kept_exec_apertureWrite s t h
  | copyDrain => exact kept_exec_copyDrain s t h
  | migrationDone => exact kept_exec_migrationDone s t h
  | seqTokenAdmit => exact kept_exec_seqTokenAdmit s t h
  | seqStepBoundary => exact kept_exec_seqStepBoundary s t h
  | creditEarn => exact kept_exec_creditEarn s t h
  | checkpointCapture => exact kept_exec_checkpointCapture s t h
  | checkpointWriteDone => exact kept_exec_checkpointWriteDone s t h
  | rollback => exact kept_exec_rollback s t h
  | restoreDone => exact kept_exec_restoreDone s t h
  | gstart => exact kept_exec_gstart s t h
  | gstop => exact kept_exec_gstop s t h
  | sclose => exact kept_exec_sclose s t h
  | genStep => exact kept_exec_genStep s t h
  | genFrameEmit => exact kept_exec_genFrameEmit s t h
  | boomData => exact kept_exec_boomData s t h
  | abandon => exact kept_exec_abandon s t h
  | boomQuery => exact kept_exec_boomQuery s t h
  | part => exact kept_exec_part s t h
  | gath => exact kept_exec_gath s t h
  | boomAck => exact kept_exec_boomAck s t h
  | haveMsg => exact kept_exec_haveMsg s t h
  | decide => exact kept_exec_decide s t h
  | abort => exact kept_exec_abort s t h
  | boomBusyFrame => exact kept_exec_boomBusyFrame s t h
  | boomBusyRetry => exact kept_exec_boomBusyRetry s t h
  | memberTimerExpire => exact kept_exec_memberTimerExpire s t h
  | coordTimerExpire => exact kept_exec_coordTimerExpire s t h
  | hostpathResend => exact kept_exec_hostpathResend s t h
  | retentionExpire => exact kept_exec_retentionExpire s t h
  | linkUp => exact kept_exec_linkUp s t h
  | linkDown => exact kept_exec_linkDown s t h
  | linkDataFrame => exact kept_exec_linkDataFrame s t h
  | voidFrame => exact kept_exec_voidFrame s t h
  | nakFrame => exact kept_exec_nakFrame s t h
  | linkCtrlFrame => exact kept_exec_linkCtrlFrame s t h
  | linkResumeFrame => exact kept_exec_linkResumeFrame s t h
  | ctrlKeepalive => exact kept_exec_ctrlKeepalive s t h
  | linkReplayTimeout => exact kept_exec_linkReplayTimeout s t h
  | nakRepeatTimeout => exact kept_exec_nakRepeatTimeout s t h
  | lldpSend => exact kept_exec_lldpSend s t h
  | lldpReceive => exact kept_exec_lldpReceive s t h
  | peerExpire => exact kept_exec_peerExpire s t h
  | nopeerTimeout => exact kept_exec_nopeerTimeout s t h
  | pfcFrameReceive => exact kept_exec_pfcFrameReceive s t h
  | adopt => exact kept_exec_adopt s t h
  | timeIncWrite => exact kept_exec_timeIncWrite s t h
  | timeStep => exact kept_exec_timeStep s t h
  | tpoArm => exact kept_exec_tpoArm s t h
  | tpoEdge => exact kept_exec_tpoEdge s t h
  | tpoTrail => exact kept_exec_tpoTrail s t h
  | captureEdge => exact kept_exec_captureEdge s t h
  | captureRead => exact kept_exec_captureRead s t h
  | ptpEventReceive => exact kept_exec_ptpEventReceive s t h
  | ptpSyncSend => exact kept_exec_ptpSyncSend s t h
  | ptpReqSend => exact kept_exec_ptpReqSend s t h
  | ptpMiss => exact kept_exec_ptpMiss s t h
  | fell => exact kept_exec_fell s t h
  | fcancel => exact kept_exec_fcancel s t h
  | fellReady => exact kept_exec_fellReady s t h
  | fellApply => exact kept_exec_fellApply s t h
  | digestComplete => exact kept_exec_digestComplete s t h
  | fixedRelease => exact kept_exec_fixedRelease s t h
  | scrubRead => exact kept_exec_scrubRead s t h
  | scrubLate => exact kept_exec_scrubLate s t h
  | laneFailing => exact kept_exec_laneFailing s t h
  | sweepDone => exact kept_exec_sweepDone s t h
  | patrolScrub => exact kept_exec_patrolScrub s t h
  | bridgeLaneCheck => exact kept_exec_bridgeLaneCheck s t h
  | bridgeUe => exact kept_exec_bridgeUe s t h
  | checkEvent => exact kept_exec_checkEvent s t h
  | replaceDone => exact kept_exec_replaceDone s t h
  | suspectExpire => exact kept_exec_suspectExpire s t h
  | cruiseSlot => exact kept_exec_cruiseSlot s t h
  | cruiseTestDone => exact kept_exec_cruiseTestDone s t h
  | retire => exact kept_exec_retire s t h
  | unretire => exact kept_exec_unretire s t h
  | test => exact kept_exec_test s t h
  | memberLost => exact kept_exec_memberLost s t h
  | memberBack => exact kept_exec_memberBack s t h
  | heartbeat => exact kept_exec_heartbeat s t h
  | leaveService => exact kept_exec_leaveService s t h
  | twinRecord => exact kept_exec_twinRecord s t h
  | twinMatchTimeout => exact kept_exec_twinMatchTimeout s t h
  | kwainSilence => exact kept_exec_kwainSilence s t h
  | aliveInFall => exact kept_exec_aliveInFall s t h
  | twinPairing => exact kept_exec_twinPairing s t h
  | twinLinkTimeout => exact kept_exec_twinLinkTimeout s t h
  | mboxSubmit => exact kept_exec_mboxSubmit s t h
  | send => exact kept_exec_send s t h
  | identify => exact kept_exec_identify s t h
  | enroll => exact kept_exec_enroll s t h
  | evqRead => exact kept_exec_evqRead s t h
  | dmaGo => exact kept_exec_dmaGo s t h
  | dmaAbort => exact kept_exec_dmaAbort s t h
  | dmaDescDone => exact kept_exec_dmaDescDone s t h
  | jrnlExport => exact kept_exec_jrnlExport s t h
  | boardReset => exact kept_exec_boardReset s t h
  | softReset => exact kept_exec_softReset s t h
  | quadReset => exact kept_exec_quadReset s t h
  | flr => exact kept_exec_flr s t h
  | perst => exact kept_exec_perst s t h
  | pwrReqRun => exact kept_exec_pwrReqRun s t h
  | pwrReqIdle => exact kept_exec_pwrReqIdle s t h
  | pwrReqDoze => exact kept_exec_pwrReqDoze s t h
  | dozeSaveDone => exact kept_exec_dozeSaveDone s t h
  | wakeDone => exact kept_exec_wakeDone s t h
  | supplySample => exact kept_exec_supplySample s t h
  | supplyOk => exact kept_exec_supplyOk s t h
  | tjSample => exact kept_exec_tjSample s t h
  | pfcPauseEnd => exact kept_exec_pfcPauseEnd s t h
  | mapFlashWriteDone => exact kept_exec_mapFlashWriteDone s t h
  | testPortAccess => exact kept_exec_testPortAccess s t h
  | smbusRequest => exact kept_exec_smbusRequest s t h

/-- A state with the memories, the mailbox and the queue of one that a command keeps meets the invariant. -/
theorem Kept.inv {s t : State} (h : Kept s t) (hs : s.inv = true) : t.inv = true := by
  simp only [State.inv, State.queueOk, Bool.and_eq_true] at hs ⊢
  obtain ⟨⟨hmem, hmbox⟩, hqueue⟩ := hs
  exact ⟨⟨h.mem hmem, h.mbox hmbox⟩, h.pending.symm ▸ hqueue⟩

/-- The invariant does not speak of the raw counter. -/
theorem State.atRaw_inv (s : State) (r : Nat) : (s.atRaw r).inv = s.inv := rfl

/-! ## The commands that restart a domain -/

/-- The always-on domain starts from zero and keeps what every command keeps. -/
theorem kept_powerOn (s : State) (aon : Bool) : Kept (s.atRaw 0) (s.powerOn aon) := by
  unfold State.powerOn
  exact kept_drivePins _ _ _ ⟨rfl, rfl, List.prefix_refl _, fun _ => rfl, fun _ => rfl, fun _ => rfl⟩

/-- A cold start keeps the invariant. -/
theorem coldStart_inv (s : State) (env : ColdEnv) : (s.coldStart env).inv = s.inv := by
  obtain ⟨hpending, -, -, hdies, hmbox⟩ := coldStart_keeps s env
  simp only [State.inv, State.memOk, State.mboxOk, State.queueOk, hpending, hdies, hmbox]

/-- Every command keeps the invariant. -/
theorem exec_inv {c : Instr} {s t : State} (hs : s.inv = true) (h : exec c s = .next t) : t.inv = true := by
  by_cases hon : c = .powerOn
  · subst hon; cases h; exact (kept_powerOn s true).inv hs
  by_cases hoff : c = .aonLoss
  · subst hoff; cases h; exact (kept_powerOn s false).inv hs
  by_cases hcold : ∃ env, c = .coldStart env
  · obtain ⟨env, rfl⟩ := hcold; cases h; rw [coldStart_inv]; exact hs
  · exact (kept_exec hon hoff (fun env e => hcold ⟨env, e⟩) h).inv hs

/-- Every command leaves the queue as it is and only adds to what has left the device. -/
theorem exec_queue {c : Instr} {s t : State} (h : exec c s = .next t) : t.pending = s.pending ∧ s.out <+: t.out := by
  by_cases hon : c = .powerOn
  · subst hon; cases h; exact ⟨(kept_powerOn s true).pending, (kept_powerOn s true).out⟩
  by_cases hoff : c = .aonLoss
  · subst hoff; cases h; exact ⟨(kept_powerOn s false).pending, (kept_powerOn s false).out⟩
  by_cases hcold : ∃ env, c = .coldStart env
  · obtain ⟨env, rfl⟩ := hcold; cases h
    obtain ⟨hpending, -, hout, -⟩ := coldStart_keeps s env
    exact ⟨hpending, hout ▸ List.prefix_refl _⟩
  · have hk := kept_exec hon hoff (fun env e => hcold ⟨env, e⟩) h
    exact ⟨hk.pending, hk.out⟩

/-! ## The tick boundary -/

/-- Going back to a raw count, a state that was at another keeps what it kept. -/
theorem Kept.backTo {s0 s : State} {r : Nat} (h : Kept (s0.atRaw r) s) : Kept s0 (s.atRaw s0.time.raw) :=
  ⟨h.pending, rfl, h.out, h.mem, h.mbox, h.boot⟩

/-- Outputs at a raw count between two boundaries: everything but the raw counter is kept. -/
theorem kept_pulsesAt {s0 s : State} {r0 : Nat} (hk : Kept (s0.atRaw r0) s) (r : Nat) :
    Kept (s0.atRaw (r % 2 ^ 64)) (s.pulsesAt r) := by
  unfold State.pulsesAt
  refine kept_foldl _ _ _ (hk.atRaw _) fun t i kt => ?_
  exact kept_edgeDue _ _ (kept_trailDue _ _ kt)

/-- The edges that fall due between two boundaries keep what every command keeps. -/
theorem kept_pulsesBefore {s0 : State} (s : State) (hk : Kept s0 s) : Kept s0 s.pulsesBefore := by
  unfold State.pulsesBefore
  split
  · have h3 := kept_pulsesAt (kept_pulsesAt (kept_pulsesAt (r0 := s0.time.raw) hk (s.time.raw + 1)) (s.time.raw + 2)) (s.time.raw + 3)
    have hedges := kept_foldl (State.edgeBefore · (s.time.total ((s.time.raw + 4) % 2 ^ 64) 0) ·) (List.range 8) _ h3 fun t i kt =>
      kept_edgeBefore t _ i kt
    have hback := hedges.backTo
    rw [← hk.raw] at hback
    exact hback
  · exact hk

/-- The raw counter after a boundary, before a step of a cold start (R21, R286). -/
def State.rawNext (s : State) : Nat := if s.power.aon then (s.time.raw + 4) % 2 ^ 64 else s.time.raw

/-- The state at a boundary: the edges between it and the boundary before have fired, and the raw counter has moved on. -/
def State.rawTick (s : State) : State :=
  let s0 := if s.time.running then s.pulsesBefore else s
  if s.power.aon then s0.atRaw ((s0.time.raw + 4) % 2 ^ 64) else s0

/-- What a boundary does before a step of a cold start: the arithmetic domain's work, and a reset that falls due. -/
def State.tickDue (s : State) : State := (if s.rawTick.time.running then s.rawTick.tickWork else s.rawTick).vresetTick

theorem tickBoundary_eq (s : State) : tickBoundary s = s.tickDue.bootStep := rfl

/-- The raw counter moves on and nothing else that every command keeps changes. -/
theorem kept_rawTick (s : State) : Kept (s.atRaw s.rawNext) s.rawTick := by
  have hpulses : Kept s (if s.time.running then s.pulsesBefore else s) := by
    split
    · exact kept_pulsesBefore s (Kept.refl s)
    · exact Kept.refl s
  unfold State.rawTick State.rawNext
  dsimp only
  rw [hpulses.raw]
  split
  · exact hpulses.atRaw _
  · exact hpulses

/-- A boundary keeps what every command keeps, at the next raw count. -/
theorem kept_tickDue (s : State) : Kept (s.atRaw s.rawNext) s.tickDue := by
  unfold State.tickDue
  refine kept_vresetTick _ ?_
  split
  · exact kept_tickWork _ (kept_rawTick s)
  · exact kept_rawTick s

/-- A step on an empty queue keeps the invariant. -/
theorem tickBoundary_inv {s : State} (hs : s.inv = true) : (tickBoundary s).inv = true := by
  rw [tickBoundary_eq]
  rcases kept_bootStep s.tickDue (Kept.refl _) with hk | ⟨env, hk⟩
  · exact hk.inv ((kept_tickDue s).inv hs)
  · exact hk.inv ((kept_tickDue s).inv hs)

/-! ## The statements about a step and about every command -/

/-- Settles O1. -/
theorem stepRunsFrontCommand : Obligations.StepRunsFrontCommand := by
  unfold Obligations.StepRunsFrontCommand
  intro c rest s hs
  unfold step
  rw [hs]

/-- Settles O3: a command keeps the invariant, and so does a tick boundary. -/
theorem stepKeepsInvariant : Obligations.StepKeepsInvariant := by
  unfold Obligations.StepKeepsInvariant
  intro s t hs ht
  cases hp : s.pending with
  | nil =>
    rw [step, hp] at ht
    cases ht
    exact tickBoundary_inv hs
  | cons c rest =>
    rw [stepRunsFrontCommand c rest s hp] at ht
    refine exec_inv ?_ ht
    simp only [State.inv, State.queueOk, Bool.and_eq_true, hp, List.all_cons] at hs ⊢
    exact ⟨hs.1, hs.2.2⟩

/-- Settles O4. -/
theorem invariantHoldsAtReset : Obligations.InvariantHoldsAtReset := by
  unfold Obligations.InvariantHoldsAtReset
  decide

/-- Settles O5: the three commands that restart a domain keep the queue and the outputs as every other one does. -/
theorem commandsLeaveTheQueue : Obligations.CommandsLeaveTheQueue := by
  unfold Obligations.CommandsLeaveTheQueue
  intro c s t h
  obtain ⟨hpending, new, hout⟩ := exec_queue h
  exact ⟨hpending, new, hout.symm⟩

/-- Settles O6. -/
theorem onlyPowerMovesTheRawCounter : Obligations.OnlyPowerMovesTheRawCounter := by
  unfold Obligations.OnlyPowerMovesTheRawCounter
  refine ⟨fun c s t hon hoff h => ?_, fun s => ⟨_, rfl, (kept_powerOn s true).raw⟩, fun s => ⟨_, rfl, (kept_powerOn s false).raw⟩⟩
  by_cases hcold : ∃ env, c = .coldStart env
  · obtain ⟨env, rfl⟩ := hcold
    cases h
    exact congrArg TimeSt.raw (coldStart_keeps s env).2.1
  · exact (kept_exec hon hoff (fun env e => hcold ⟨env, e⟩) h).raw

/-- Settles O7. -/
theorem everyWellFormedCommandRuns : Obligations.EveryWellFormedCommandRuns := by
  unfold Obligations.EveryWellFormedCommandRuns
  exact exec_answers

/-- Settles O8. -/
theorem resetLeavesTheBlockEmpty : Obligations.ResetLeavesTheBlockEmpty := by
  unfold Obligations.ResetLeavesTheBlockEmpty
  refine ⟨fun off => ⟨rfl, rfl, rfl⟩, ?_⟩
  simp only [State.reset, and_self]

end Sys2Proof.Machine
end

section
/-! Parser instructions (R64 to R74): what a command does with a head that is at its instruction, the registers and the sample of a
head, and the window read. -/
namespace Sys2Proof.Machine

/-! ## Registers of a head -/

/-- A read of a register after a write. -/
theorem Head.reg_setReg (hd : Head) (d v k : Nat) :
    (hd.setReg d v).reg k = if k = d ∧ d ≠ 0 then v % 2 ^ 32 else hd.reg k := by
  unfold Head.setReg Head.reg
  by_cases hk : k = 0
  · subst hk; simp only [if_true, if_neg (fun h : 0 = d ∧ d ≠ 0 => h.2 h.1.symm)]
  · by_cases hd0 : d = 0
    · simp [hd0]
    · by_cases hkd : k = d
      · subst hkd; simp [hk]
      · simp [hk, hd0, hkd, Tbl.getD_put_ne]

@[simp] theorem Head.reg_zero (hd : Head) : hd.reg 0 = 0 := rfl
@[simp] theorem Head.setReg_pc (hd : Head) (d v : Nat) : (hd.setReg d v).pc = hd.pc := by
  unfold Head.setReg; split <;> rfl
@[simp] theorem Head.setReg_sample (hd : Head) (d v : Nat) : (hd.setReg d v).sample = hd.sample := by
  unfold Head.setReg; split <;> rfl
@[simp] theorem Head.setReg_metadata (hd : Head) (d v : Nat) : (hd.setReg d v).metadata = hd.metadata := by
  unfold Head.setReg; split <;> rfl

/-- A write of a register changes the registers alone. -/
theorem Head.setReg_frame (hd : Head) (d v : Nat) : { (hd.setReg d v).adv with pc := hd.pc, h := hd.h } = hd := by
  unfold Head.setReg; split <;> rfl

/-- A write of a register and the step to the next instruction is the head `wrote` speaks of. -/
theorem Head.wrote_setReg (hd : Head) (d v : Nat) : hd.wrote (hd.setReg d v).adv d (v % 2 ^ 32) := by
  have hreg : ∀ k, (hd.setReg d v).adv.reg k = (hd.setReg d v).reg k := fun _ => rfl
  refine ⟨congrArg (· + 1) (hd.setReg_pc d v), fun hd0 => ?_, rfl, fun k hk => ?_, hd.setReg_frame d v⟩
  · rw [hreg, Head.reg_setReg, if_pos ⟨rfl, hd0⟩]
  · rw [hreg, Head.reg_setReg, if_neg (fun h => hk h.1)]

/-! ## A command at its instruction -/

section
variable {s : State} {n opc : Nat} {hd : Head} {fr : Frame} {f : Head → Frame → Nat → PrsRes}

/-- The head goes on as the instruction says. -/
theorem State.prs_go {x : Head} (h : s.headAt n opc hd fr) (hf : f hd fr hd.instr = .go x) :
    s.prs n opc f = { s with heads := Tbl.put s.heads n x } := by
  obtain ⟨hhead, hframe, hopc, hpark⟩ := h
  unfold State.prs
  simp [hhead, hframe, hopc, hpark, hf]

/-- The head parks on a byte. -/
theorem State.prs_park {b : Nat} (h : s.headAt n opc hd fr) (hf : f hd fr hd.instr = .park b) :
    s.prs n opc f = { s with heads := Tbl.put s.heads n { hd with park := some b } } := by
  obtain ⟨hhead, hframe, hopc, hpark⟩ := h
  unfold State.prs
  simp [hhead, hframe, hopc, hpark, hf]

/-- The head fails. -/
theorem State.prs_fail {st c : Nat} (h : s.headAt n opc hd fr) (hf : f hd fr hd.instr = .fail st c) :
    s.prs n opc f = s.failHead n hd fr st c := by
  obtain ⟨hhead, hframe, hopc, hpark⟩ := h
  unfold State.prs
  simp [hhead, hframe, hopc, hpark, hf]

end

/-- An instruction that computes a value writes register D with it. -/
theorem State.headBecomes_setReg {s : State} {n opc : Nat} {hd : Head} {fr : Frame} {c : Instr} {f : Head → Frame → Nat → PrsRes}
    {d v w : Nat} (h : s.headAt n opc hd fr) (hc : exec c s = .next (s.prs n opc f))
    (hf : f hd fr hd.instr = .go (hd.setReg d v).adv) (hw : v % 2 ^ 32 = w) :
    s.headBecomes c n (fun x => hd.wrote x d w) :=
  ⟨_, by rw [hc, State.prs_go h hf], hw ▸ hd.wrote_setReg d v⟩

/-- Settles O16. -/
theorem parserArithmeticWritesOneRegister : Obligations.ParserArithmeticWritesOneRegister := by
  unfold Obligations.ParserArithmeticWritesOneRegister
  intro s n hd fr i a b
  refine ⟨fun h => ?li, fun h => ?add, fun h => ?sub, fun h => ?and, fun h => ?or, fun h => ?shr, fun h => ?shl, fun h => ?bfx⟩
  all_goals exact State.headBecomes_setReg h rfl rfl rfl

/-- Settles O17. -/
theorem parserJumpsAndDescriptorWrites : Obligations.ParserJumpsAndDescriptorWrites := by
  unfold Obligations.ParserJumpsAndDescriptorWrites
  intro s n hd fr i a b go jump on
  have hgo : ∀ {c : Instr} {opc : Nat} {f : Head → Frame → Nat → PrsRes} {x : Head}, s.headAt n opc hd fr →
      exec c s = .next (s.prs n opc f) → f hd fr i = .go x → go c x := fun h hc hf => by
    show exec _ s = _
    rw [hc, State.prs_go h hf]
  have hjc : prsJc hd fr i = .go (if prsCond (bitsOf i 16 15) a b then jump else on) := by
    unfold prsJc
    exact (apply_ite PrsRes.go _ _ _).symm
  refine ⟨fun h => hgo h rfl rfl, fun h => hgo h rfl rfl, fun h => ?_, fun h => hgo h rfl rfl, fun h => hgo h rfl rfl⟩
  refine ⟨fun hc => hgo h rfl ?_, fun hc => hgo h rfl ?_, fun hc => hgo h rfl ?_, fun hc => hgo h rfl ?_⟩ <;>
    simp [hjc, hc, prsCond]

/-! ## Window reads -/

section
variable {f : Frame} {off n : Nat}

/-- A read of bytes that the bucker has. -/
theorem readWin_ok (h : off + n ≤ 1024) (ha : off + n ≤ f.avail) : readWin f off n = .ok (slice f.bytes off n) := by
  unfold readWin; rw [if_neg (Nat.not_lt.mpr h), if_pos ha]

/-- A read that crosses offset 1,024. -/
theorem readWin_far (h : 1024 < off + n) : readWin f off n = .far := if_pos h

/-- A read beyond the end of a whole frame. -/
theorem readWin_short (h : off + n ≤ 1024) (ha : f.avail < off + n) (hw : f.whole = true) : readWin f off n = .short := by
  unfold readWin; rw [if_neg (Nat.not_lt.mpr h), if_neg (Nat.not_le.mpr ha), if_pos hw]

/-- A read of bytes still to come. -/
theorem readWin_park (h : off + n ≤ 1024) (ha : f.avail < off + n) (hw : f.whole = false) :
    readWin f off n = .park (off + n - 1) := by
  unfold readWin; rw [if_neg (Nat.not_lt.mpr h), if_neg (Nat.not_le.mpr ha), if_neg (by simp [hw])]

end

/-- A good header fills the descriptor and the two registers (R74). -/
theorem prsChdr_good {hd : Head} {fr : Frame} {i : Nat} {h : List Byte}
    (hr : readWin fr (hd.reg (bitsOf i 15 12) + bitsOf i 11 0) 32 = .ok h) (hok : cheteOk h = true) :
    ∃ x : Head, prsChdr hd fr i = .go x ∧ x.pc = hd.pc + 1 ∧ x.desc = cheteDesc h (hd.reg (bitsOf i 15 12) + bitsOf i 11 0) ∧
      (∀ k, x.reg k = ((hd.setReg 12 (x.desc.doff.getD 0)).setReg 11 (x.desc.dlen.getD 0)).reg k) ∧ x.sample = hd.sample ∧
      x.metadata = hd.metadata := by
  unfold prsChdr
  dsimp only
  rw [hr]
  unfold WinRead.bind
  simp only [hok, if_true]
  exact ⟨_, rfl, by simp [Head.adv], rfl, fun _ => rfl, by simp [Head.adv], by simp [Head.adv]⟩

/-- Settles O18. -/
theorem parserWindowReads : Obligations.ParserWindowReads := by
  unfold Obligations.ParserWindowReads
  intro s n hd fr i at0 w end0
  have hld : ∀ {r}, readWin fr at0 w = r → prsLd hd fr i = r.bind (fun v => .go (hd.setReg (dOf i) (beVal v)).adv) :=
    fun hr => by rw [← hr]; rfl
  refine ⟨fun h => ⟨fun h1 h2 => ?_, fun h1 => ?_, fun h1 h2 hw => ?_, fun h1 h2 hw => ?_⟩,
    fun h h1 h2 => ⟨fun hok => ?_, fun hok => ?_⟩⟩
  · exact State.headBecomes_setReg h rfl (hld (readWin_ok h1 h2)) rfl
  · exact congrArg Host.Outcome.next (State.prs_fail h (hld (readWin_far h1)))
  · exact congrArg Host.Outcome.next (State.prs_fail h (hld (readWin_short h1 h2 hw)))
  · exact congrArg Host.Outcome.next (State.prs_park h (hld (readWin_park h1 h2 hw)))
  · obtain ⟨x, hgo, hpc, hdesc, hreg, hsample, hmeta⟩ := prsChdr_good (readWin_ok h1 h2) hok
    refine ⟨x, congrArg Host.Outcome.next (State.prs_go h hgo), hpc, hdesc, ?_, ?_, fun k h11 h12 => ?_, hsample, hmeta⟩
    · rw [hreg, Head.reg_setReg, if_neg (by decide), Head.reg_setReg, if_pos (by decide), hdesc]
    · rw [hreg, Head.reg_setReg, if_pos (by decide), hdesc]
    · rw [hreg, Head.reg_setReg, if_neg (fun e => h11 e.1), Head.reg_setReg, if_neg (fun e => h12 e.1)]
  · have hbad : prsChdr hd fr i = .fail stMalformed Reg.PRS_CNT_FAIL := by
      unfold prsChdr
      dsimp only
      rw [readWin_ok h1 h2]
      exact if_neg (by rw [hok]; decide)
    exact congrArg Host.Outcome.next (State.prs_fail h hbad)

/-! ## Keys -/

/-- The keys of n packed fields fill n slots and leave the others (R70). -/
theorem putKeys_getD (fmt : Nat) (n : Nat) (b : List Byte) (slot : Nat) (t : Tbl Nat) (nan : Bool) (k : Nat) :
    Tbl.getD (putKeys fmt b n slot t nan).1 k 0 =
      if slot ≤ k ∧ k < slot + n then (keyOf fmt (keyVal fmt ((b.drop ((k - slot) * keyWidth fmt)).take (keyWidth fmt)))).1
      else Tbl.getD t k 0 := by
  induction n generalizing b slot t nan with
  | zero => rw [if_neg (by omega)]; rfl
  | succ n ih =>
    rw [putKeys, ih]
    by_cases hk : k = slot
    · subst hk
      rw [if_neg (by omega), if_pos (by omega), Tbl.getD_put_self, Nat.sub_self, Nat.zero_mul, List.drop_zero]
    · rw [Tbl.getD_put_ne _ _ _ hk]
      by_cases hin : slot + 1 ≤ k ∧ k < slot + 1 + n
      · have hshift : keyWidth fmt + (k - (slot + 1)) * keyWidth fmt = (k - slot) * keyWidth fmt := by
          rw [show k - slot = k - (slot + 1) + 1 by omega, Nat.succ_mul, Nat.add_comm]
        rw [if_pos hin, if_pos (by omega), List.drop_drop, hshift]
      · rw [if_neg hin, if_neg (by omega)]

/-- Keys that fit their slots go into the sample; nothing else of the head but its NaN mark changes. -/
theorem Head.keys_fit {hd : Head} {fmt n slot : Nat} {b : List Byte} (h : slot + n ≤ 1024) :
    hd.keys fmt n slot b = some { hd with sample := (putKeys fmt b n slot hd.sample hd.nan).1
                                          nan := (putKeys fmt b n slot hd.sample hd.nan).2 } :=
  if_neg (Nat.not_lt.mpr h)

/-- Keys beyond the last slot are none. -/
theorem Head.keys_far {hd : Head} {fmt n slot : Nat} {b : List Byte} (h : 1024 < slot + n) : hd.keys fmt n slot b = none := if_pos h

/-- The head after its keys have gone into the sample and hA has advanced (R70). -/
def Head.keyed (hd : Head) (fmt n a : Nat) (b : List Byte) : Head :=
  (Head.setReg { hd with sample := (putKeys fmt b n (hd.reg a) hd.sample hd.nan).1
                         nan := (putKeys fmt b n (hd.reg a) hd.sample hd.nan).2 } a (hd.reg a + n)).adv

@[simp] theorem Head.keyed_pc (hd : Head) (fmt n a : Nat) (b : List Byte) : (hd.keyed fmt n a b).pc = hd.pc + 1 :=
  congrArg (· + 1) (Head.setReg_pc ..)

@[simp] theorem Head.keyed_sample (hd : Head) (fmt n a : Nat) (b : List Byte) :
    (hd.keyed fmt n a b).sample = (putKeys fmt b n (hd.reg a) hd.sample hd.nan).1 := Head.setReg_sample ..

theorem Head.keyed_reg (hd : Head) (fmt n : Nat) {a : Nat} (b : List Byte) (ha : a ≠ 0) :
    (hd.keyed fmt n a b).reg a = (hd.reg a + n) % 2 ^ 32 :=
  (Head.reg_setReg ..).trans (if_pos ⟨rfl, ha⟩)

/-- Settles O19. -/
theorem parserKeysFillSlots : Obligations.ParserKeysFillSlots := by
  unfold Obligations.ParserKeysFillSlots
  intro s n hd fr i fmt w slot
  constructor
  · intro h m at0 h1 h2
    have hread := readWin_ok h1 h2
    refine ⟨fun hfit => ⟨hd.keyed fmt m (aOf i) (slice fr.bytes at0 (m * w)), ?_, Head.keyed_pc .., fun ha => Head.keyed_reg _ _ _ _ ha, ?_, ?_⟩,
      fun hfar => ?_⟩
    · have hgo : prsKeyn hd fr i = .go (hd.keyed fmt m (aOf i) (slice fr.bytes at0 (m * w))) := by
        show (readWin fr at0 (m * w)).bind _ = _
        rw [hread]
        unfold WinRead.bind
        dsimp only
        rw [Head.keys_fit hfit]
        rfl
      exact congrArg Host.Outcome.next (State.prs_go h hgo)
    · intro j hj
      rw [Head.keyed_sample, putKeys_getD, if_pos (by omega), Nat.add_sub_cancel_left]
    · intro k hk
      rw [Head.keyed_sample, putKeys_getD, if_neg (by omega)]
    · have hfail : prsKeyn hd fr i = .fail stMalformed Reg.PRS_CNT_PROG := by
        show (readWin fr at0 (m * w)).bind _ = _
        rw [hread]
        unfold WinRead.bind
        dsimp only
        rw [Head.keys_far hfar]
      exact congrArg Host.Outcome.next (State.prs_fail h hfail)
  · intro h v
    refine ⟨fun hfit => ⟨hd.keyed fmt 1 (aOf i) (if 10 ≤ fmt then leBytes w v else beBytes w v), ?_, Head.keyed_pc ..,
      fun ha => Head.keyed_reg _ _ _ _ ha, ?_, ?_⟩, fun hfar => ?_⟩
    · have hgo : prsKeyr hd fr i = .go (hd.keyed fmt 1 (aOf i) (if 10 ≤ fmt then leBytes w v else beBytes w v)) := by
        unfold prsKeyr
        dsimp only
        rw [Head.keys_fit hfit]
        rfl
      exact congrArg Host.Outcome.next (State.prs_go h hgo)
    · rw [Head.keyed_sample, putKeys_getD, if_pos (by omega), Nat.sub_self, Nat.zero_mul, List.drop_zero]
    · intro k hk
      rw [Head.keyed_sample, putKeys_getD, if_neg (by omega)]
    · have hfail : prsKeyr hd fr i = .fail stMalformed Reg.PRS_CNT_PROG := by
        unfold prsKeyr
        dsimp only
        rw [Head.keys_far hfar]
      exact congrArg Host.Outcome.next (State.prs_fail h hfail)

/-! ## Ends of heads -/

/-- An answer with a destination that has a template adds one reply (R52). -/
theorem State.answer_ok {s : State} {org : Origin} {fs : List Nat} {st detail info : Nat} {counted : Bool} {d : Dest}
    (hst : st ≠ stExactUnavailable) (hdest : answerDest org = .ok d) (htmpl : hasTmpl org d = true) :
    s.answer org fs st detail info counted = s.addReply { s.newReply org none fs 1 st detail info d with warn := false } := by
  unfold State.answer State.answerW
  simp [hst, hdest, htmpl]

/-- An answer already counted, without a destination or a template, changes nothing. -/
theorem State.answer_none {s : State} {org : Origin} {fs : List Nat} {st detail info : Nat} (hst : st ≠ stExactUnavailable)
    (hdest : answerDest org = .silent ∨ ∃ d, answerDest org = .ok d ∧ hasTmpl org d = false) :
    s.answer org fs st detail info true = s := by
  unfold State.answer State.answerW
  rcases hdest with hsilent | ⟨d, hok, htmpl⟩
  · simp [hst, hsilent]
  · simp [hst, hok, htmpl]

/-- The message of an earlier run does not depend on the heads. -/
@[simp] theorem State.endHead_rerunMsg (s : State) (n fr : Nat) : (s.endHead n).rerunMsg fr = s.rerunMsg fr := rfl

theorem State.endRerun_none {s : State} {fr : Nat} (h : s.rerunMsg fr = none) : s.endRerun fr = s := by
  unfold State.endRerun; rw [h]

theorem State.endRerun_some {s : State} {fr k : Nat} {m : Msg} (h : s.rerunMsg fr = some (k, m)) : s.endRerun fr = s.failMsg k 2 := by
  unfold State.endRerun; rw [h]

/-- A head at DROP ends with its frame. -/
theorem State.dropHead_at {s : State} {n : Nat} {hd : Head} {fr : Frame} (h : s.headAt n 0x32 hd fr) :
    s.dropHead n = { ((s.endHead n).endRerun hd.frame).count Reg.PRS_CNT_DROP with
      frames := Tbl.del (((s.endHead n).endRerun hd.frame).count Reg.PRS_CNT_DROP).frames hd.frame } := by
  obtain ⟨hhead, -, hopc, hpark⟩ := h
  unfold State.dropHead
  simp [hhead, hopc, hpark]

/-- Settles O20. -/
theorem headsEndWithAnAnswerOrNone : Obligations.HeadsEndWithAnAnswerOrNone := by
  unfold Obligations.HeadsEndWithAnAnswerOrNone
  intro s n hd fr bound cnt
  constructor
  · intro h st
    have hfail : exec (.fail n) s = .next (s.failHead n hd fr st Reg.PRS_CNT_FAIL) :=
      congrArg Host.Outcome.next (State.prs_fail h rfl)
    have hfirst : s.rerunMsg hd.frame = none → exec (.fail n) s = .next
        ((((s.endHead n).bindFrame hd.frame).count Reg.PRS_CNT_FAIL).answer (hd.origin fr) [hd.frame] st 0 0 true) := by
      intro hnone
      rw [hfail, State.failHead, State.endRerun_none (by simpa using hnone)]
      rfl
    refine ⟨fun hnone hst => ⟨fun d hdest htmpl => ?_, fun hdest => ?_⟩, fun hnone _ => hfirst hnone, fun k m hsome => ?_⟩
    · rw [hfirst hnone, State.answer_ok hst hdest htmpl]
      exact ⟨_, rfl, rfl, rfl, rfl, rfl, rfl, rfl⟩
    · rw [hfirst hnone, State.answer_none hst hdest]
      rfl
    · rw [hfail, State.failHead, State.endRerun_some (by simpa using hsome)]
      rfl
  · intro h
    refine ⟨fun hnone => ?_, fun k m hsome => ?_⟩
    · refine congrArg Host.Outcome.next ((State.dropHead_at h).trans ?_)
      rw [State.endRerun_none (by simpa using hnone)]
      rfl
    · refine congrArg Host.Outcome.next ((State.dropHead_at h).trans ?_)
      rw [State.endRerun_some (by simpa using hsome)]

end Sys2Proof.Machine
end

section
/-! Choices the spec orders: the window step of a message (R244), the largest score (R97), and the first failing check (R386). -/
namespace Sys2Proof.Machine

/-! ## The window step (R244, Table 10-6) -/

/-- A number of a message that stepped the entry is in progress. -/
theorem State.inProgress_of_mem {s : State} {c : Nat} {m : Nat × Msg} (h : m ∈ s.convMsgs c) :
    s.inProgress c m.2.org.desc.sq = true :=
  (State.inProgress_iff ..).mpr ⟨m, h, rfl⟩

/-- A slide by n would pass a number in progress. -/
def State.slideBlocked (s : State) (c n : Nat) : Bool :=
  (s.convMsgs c).any (fun m => decide (seqDist m.2.org.desc.sq (s.conv c).base < n ∨ 2 ^ 31 ≤ seqDist m.2.org.desc.sq (s.conv c).base))

theorem State.slideBlocked_false {s : State} {c n : Nat}
    (h : ∀ p, s.inProgress c p = true → n ≤ seqDist p (s.conv c).base ∧ seqDist p (s.conv c).base < 2 ^ 31) :
    s.slideBlocked c n = false := by
  refine List.any_eq_false.mpr fun m hm => ?_
  have := h _ (State.inProgress_of_mem hm)
  rw [decide_eq_true_eq]
  omega

theorem State.slideBlocked_true {s : State} {c n p : Nat} (hp : s.inProgress c p = true) (h : seqDist p (s.conv c).base < n) :
    s.slideBlocked c n = true := by
  obtain ⟨m, hm, hsq⟩ := (State.inProgress_iff ..).mp hp
  exact List.any_eq_true.mpr ⟨m, hm, decide_eq_true (.inl (hsq ▸ h))⟩

/-- The window step once no other owner's opening of this tick stands against it. -/
theorem State.winStep_of_not_rival {s : State} {c inc q lport : Nat} {ow : Owner}
    (h : ¬((s.conv c).state = 1 ∧ (s.conv c).owner ≠ ow ∧ q ≤ 255 ∧ s.openedNow c = true)) :
    s.winStep c inc q lport ow =
      let x := s.conv c
      let dl := seqDist q x.base
      if x.state = 0 ∨ (x.state = 3 ∧ x.inc ≠ inc) then
        (if q ≤ 255 then .proceed none true else .stale (if x.state = 0 then 0 else x.base))
      else if x.state = 3 then .stale x.base
      else if x.inc ≠ inc then .stale x.base
      else if x.owner ≠ ow then .owner
      else if x.state = 2 ∧ seqDist x.final x.base < dl ∧ dl < 2 ^ 31 then .stale x.base
      else if dl ≤ 255 then
        (if s.inProgress c q then .busy else if x.done.contains q then .replay else .proceed none false)
      else if x.state = 1 ∧ dl ≤ 511 then
        (if s.slideBlocked c (dl - 255) then .oow x.base else .proceed (some ((q + 2 ^ 32 - 255) % 2 ^ 32)) false)
      else if x.state = 1 ∧ dl < 2 ^ 31 then .oow x.base
      else .stale x.base :=
  if_neg h

/-- The window step on an open entry of the message's own incarnation and owner. -/
theorem State.winStep_open {s : State} {c inc q lport : Nat} {ow : Owner} (hst : (s.conv c).state = 1)
    (hinc : (s.conv c).inc = inc) (how : (s.conv c).owner = ow) :
    s.winStep c inc q lport ow =
      let x := s.conv c
      let dl := seqDist q x.base
      if dl ≤ 255 then
        (if s.inProgress c q then .busy else if x.done.contains q then .replay else .proceed none false)
      else if dl ≤ 511 then
        (if s.slideBlocked c (dl - 255) then .oow x.base else .proceed (some ((q + 2 ^ 32 - 255) % 2 ^ 32)) false)
      else if dl < 2 ^ 31 then .oow x.base
      else .stale x.base := by
  rw [State.winStep_of_not_rival fun h => h.2.1 how]
  simp [hst, hinc, how]

/-- Settles O23: the rows of Table 10-6 from the first, each where the rows before it do not apply. -/
theorem windowStepRows : Obligations.WindowStepRows := by
  unfold Obligations.WindowStepRows
  intro s c inc q lport ow x dl rival
  have hwin : ¬rival → _ := State.winStep_of_not_rival (inc := inc) (lport := lport)
  refine ⟨fun hr ha => ?_, fun hr ha => ?_, fun h0 hq => ?_, fun h0 hq => ?_, fun h3 hinc hq => ?_, fun h3 hinc => ?_,
    fun h12 hr hinc => ?_, fun h12 hr hinc how => ?_, fun h2 hinc how hfin hlt => ?_, fun h1 hinc how => ?_⟩
  · exact (if_pos hr).trans (if_pos ha)
  · exact (if_pos hr).trans (if_neg (by simp [ha]))
  · rw [hwin fun hr => absurd (h0.symm.trans hr.1) (by decide)]
    exact (if_pos (.inl h0)).trans (if_pos hq)
  · rw [hwin fun hr => absurd (h0.symm.trans hr.1) (by decide)]
    exact (if_pos (.inl h0)).trans ((if_neg (Nat.not_le.mpr hq)).trans (congrArg WinRes.stale (if_pos h0)))
  · rw [hwin fun hr => absurd (h3.symm.trans hr.1) (by decide)]
    exact (if_pos (.inr ⟨h3, hinc⟩)).trans (if_pos hq)
  · rw [hwin fun hr => absurd (h3.symm.trans hr.1) (by decide)]
    exact (if_neg (by simp [x, h3, hinc])).trans (if_pos h3)
  · rw [hwin hr]
    have h3 : x.state ≠ 3 ∧ x.state ≠ 0 := by omega
    exact (if_neg (by simp [x, h3])).trans ((if_neg h3.1).trans (if_pos hinc))
  · rw [hwin hr]
    have h3 : x.state ≠ 3 ∧ x.state ≠ 0 := by omega
    exact (if_neg (by simp [x, h3])).trans ((if_neg h3.1).trans ((if_neg (not_not_intro hinc)).trans (if_pos how)))
  · rw [hwin fun hr => hr.2.1 how]
    have h3 : x.state ≠ 3 ∧ x.state ≠ 0 := by omega
    exact (if_neg (by simp [x, h3])).trans ((if_neg h3.1).trans ((if_neg (not_not_intro hinc)).trans
      ((if_neg (not_not_intro how)).trans (if_pos ⟨h2, hfin, hlt⟩))))
  · have hopen := State.winStep_open (q := q) (lport := lport) h1 hinc how
    refine ⟨fun hd hp => ?_, fun hd hp hdone => ?_, fun hd hp hdone => ?_, fun hd hd' hfree => ?_, fun p hd hd' hp hlt => ?_,
      fun hd hd' => ?_, fun hd => ?_⟩
    · exact hopen.trans ((if_pos hd).trans (if_pos hp))
    · exact hopen.trans ((if_pos hd).trans ((if_neg (by simp [hp])).trans (if_pos (List.contains_iff_mem.mpr hdone))))
    · exact hopen.trans ((if_pos hd).trans ((if_neg (by simp [hp])).trans (if_neg (by simpa using hdone))))
    · have hfar : ¬dl ≤ 255 := by omega
      exact hopen.trans ((if_neg hfar).trans ((if_pos hd').trans (if_neg (Bool.eq_false_iff.mp (State.slideBlocked_false hfree)))))
    · have hfar : ¬dl ≤ 255 := by omega
      exact hopen.trans ((if_neg hfar).trans ((if_pos hd').trans (if_pos (State.slideBlocked_true hp hlt))))
    · have hfar : ¬dl ≤ 255 ∧ ¬dl ≤ 511 := by omega
      exact hopen.trans ((if_neg hfar.1).trans ((if_neg hfar.2).trans (if_pos hd')))
    · have hfar : ¬dl ≤ 255 ∧ ¬dl ≤ 511 ∧ ¬dl < 2 ^ 31 := by omega
      exact hopen.trans ((if_neg hfar.1).trans ((if_neg hfar.2.1).trans (if_neg hfar.2.2)))

/-! ## The largest score (R97) -/

/-- One step of the search for the largest score. -/
def topStep (fp : Bool) (l : List Nat) (m c : Nat) : Nat := if scoreAbove fp (l.getD c 0) (l.getD m 0) then c else m

theorem topOf_eq (fp : Bool) (l : List Nat) : topOf fp l = (List.range l.length).foldl (topStep fp l) 0 := rfl

/-- After n + 1 classes the search is at the lowest of them with the largest integer score. -/
theorem topStep_range (l : List Nat) (n : Nat) :
    let v := fun c => signed 64 (l.getD c 0)
    let m := (List.range (n + 1)).foldl (topStep false l) 0
    m ≤ n ∧ (∀ c, c ≤ n → v c ≤ v m) ∧ ∀ c, c < m → v c < v m := by
  induction n with
  | zero =>
    refine ⟨?_, fun c hc => ?_, fun c hc => ?_⟩ <;> simp_all [topStep, scoreAbove]
  | succ n ih =>
    obtain ⟨hle, hmax, hlow⟩ := ih
    rw [List.range_succ, List.foldl_append, List.foldl_cons, List.foldl_nil]
    generalize (List.range (n + 1)).foldl (topStep false l) 0 = m at hle hmax hlow
    intro v m'
    by_cases hnew : v m < v (n + 1)
    · have hm : m' = n + 1 := if_pos (decide_eq_true hnew)
      rw [hm]
      refine ⟨Nat.le_refl _, fun c hc => ?_, fun c hc => Int.lt_of_le_of_lt (hmax c (by omega)) hnew⟩
      rcases Nat.lt_or_eq_of_le hc with hlt | rfl
      · exact Int.le_trans (hmax c (by omega)) (Int.le_of_lt hnew)
      · exact Int.le_refl _
    · have hm : m' = m := if_neg (fun h => hnew (of_decide_eq_true h))
      rw [hm]
      refine ⟨by omega, fun c hc => ?_, hlow⟩
      rcases Nat.lt_or_eq_of_le hc with hlt | rfl
      · exact hmax c (by omega)
      · exact Int.not_lt.mp hnew

/-- Settles O32. -/
theorem topIsTheLowestLargestScore : Obligations.TopIsTheLowestLargestScore := by
  unfold Obligations.TopIsTheLowestLargestScore
  refine ⟨fun l hl => ?_, fun fp x => ?_, fun a b ha hb => ?_, by decide, by decide⟩
  · obtain ⟨n, hn⟩ := Nat.exists_eq_add_one_of_ne_zero (fun h => hl (List.length_eq_zero_iff.mp h))
    obtain ⟨hle, hmax, hlow⟩ := topStep_range l n
    rw [topOf_eq, hn]
    exact ⟨Nat.lt_succ_of_le hle, fun c hc => hmax c (Nat.le_of_lt_succ hc), hlow⟩
  · rw [topOf_eq]
    simp [topStep]
  · unfold scoreAbove
    simp [ha, hb]

/-! ## The first failing check (Table 16-4) -/

/-- An element of the least measure is in the list. -/
theorem leastBy_mem {α : Type} {f : α → Nat} {l : List α} {b : α} (h : leastBy f l = some b) : b ∈ l := by
  induction l generalizing b with
  | nil => cases h
  | cons a t ih =>
    rw [leastBy] at h
    split at h
    · cases h; exact List.mem_cons_self
    · next c hc =>
      split at h <;> cases h
      · exact List.mem_cons_of_mem _ (ih hc)
      · exact List.mem_cons_self

/-- A list with an element has one of the least measure. -/
theorem leastBy_of_mem {α : Type} (f : α → Nat) {l : List α} {x : α} (h : x ∈ l) : ∃ b, leastBy f l = some b ∧ f b ≤ f x := by
  induction l with
  | nil => cases h
  | cons a t ih =>
    rw [leastBy]
    rcases List.mem_cons.mp h with rfl | ht
    · split
      · exact ⟨_, rfl, Nat.le_refl _⟩
      · split
        · next hlt => exact ⟨_, rfl, Nat.le_of_lt hlt⟩
        · exact ⟨_, rfl, Nat.le_refl _⟩
    · obtain ⟨b, hb, hle⟩ := ih ht
      rw [hb]
      dsimp only
      split
      · exact ⟨b, rfl, hle⟩
      · next hlt => exact ⟨a, rfl, Nat.le_trans (Nat.not_lt.mp hlt) hle⟩

/-- The lowest failing register is one of the failing registers and above no other. -/
theorem lowest_spec {l : Fails} (h : ∃ x, x ∈ l ∧ x ≠ 0) : lowest l ∈ l ∧ ∀ x, x ∈ l → x ≠ 0 → lowest l ≤ x := by
  have hfind : ∀ x, x ∈ l → x ≠ 0 → ∃ b, leastBy id (l.filter (· != 0)) = some b ∧ b ≤ x := fun x hx h0 =>
    leastBy_of_mem id (List.mem_filter.mpr ⟨hx, by simpa using h0⟩)
  obtain ⟨x, hx, h0⟩ := h
  obtain ⟨b, hb, -⟩ := hfind x hx h0
  have hlow : lowest l = b := by rw [lowest, hb]; rfl
  refine ⟨hlow ▸ (List.mem_filter.mp (leastBy_mem hb)).1, fun y hy hy0 => ?_⟩
  obtain ⟨b', hb', hle⟩ := hfind y hy hy0
  rw [hlow, Option.some.inj (hb.symm.trans hb')]
  exact hle

/-- Settles O15. -/
theorem checksFailInTableOrder : Obligations.ChecksFailInTableOrder := by
  unfold Obligations.ChecksFailInTableOrder
  intro s c o fell
  refine ⟨fun h => ?_, fun h1 h2 => ?_, fun h1 h2 h3 => ?_, lowest_spec⟩ <;>
    simp [State.validateSet, *]

end Sys2Proof.Machine
end

section
/-! Firings of a core (R139 to R190): what a firing that its core issues now does, by the shape of its opcode. -/
namespace Sys2Proof.Machine

/-! ## A firing that its core issues now -/

section
variable {s : State} {p k idx tag opc : Nat} {f : Fire}

/-- The opcode's body runs on the consumed tokens, and the firing is noted. -/
theorem State.issue_of_fireOf (hf : s.fireOf p k idx tag opc = some f) (body : State → Fire → State) :
    s.issue p k idx tag opc body = s.noteFiring (body (s.fired f) f) f := by
  unfold State.issue; rw [hf]

/-- A register-writing firing whose effective predicate is true, or a selection, writes and routes its result. -/
theorem State.firesWith_of_fireReg {c : Instr} {g : Fire → Res} {select : Bool} {r : Res}
    (hf : s.fireOf p k idx tag opc = some f) (hc : exec c s = .next (s.fireReg p k idx tag opc g select))
    (heff : (f.eff || select) = true) (hr : g f = r) : s.firesWith c f r := by
  subst hr
  show exec c s = _
  rw [hc, State.fireReg, State.issue_of_fireOf hf]
  exact congrArg (fun t => Host.Outcome.next (s.noteFiring t f)) (if_pos heff)

/-- One whose effective predicate is false routes what DST held. -/
theorem State.fireReg_of_false {g : Fire → Res} (hf : s.fireOf p k idx tag opc = some f) (heff : f.eff = false) :
    s.fireReg p k idx tag opc g false = s.noteFiring ((s.fired f).sendRoutes f f.prior false false f.i.routes) f := by
  rw [State.fireReg, State.issue_of_fireOf hf]
  exact congrArg (fun t => s.noteFiring t f) (if_neg (by simp [heff]))

end

/-- Every command of the list runs its own opcode with its own result. -/
theorem exec_coreWriters {o : Nat} {c : Nat → Nat → Nat → Nat → Instr} {g : Fire → Res} (h : (o, c, g) ∈ coreWriters)
    (s : State) (p k idx tag : Nat) : exec (c p k idx tag) s = .next (s.fireReg p k idx tag o g false) := by
  have hall : ∀ x ∈ coreWriters, exec (x.2.1 p k idx tag) s = .next (s.fireReg p k idx tag x.1 x.2.2 false) := by
    unfold coreWriters
    simp only [List.cons_append, List.nil_append, List.forall_mem_cons, List.not_mem_nil, false_implies, implies_true, and_true]
    repeat' apply And.intro
    all_goals rfl
  exact hall _ h

/-- Settles O48. -/
theorem falsePredicateKeepsTheDestination : Obligations.FalsePredicateKeepsTheDestination := by
  unfold Obligations.FalsePredicateKeepsTheDestination
  intro o c g hmem s p k idx tag f hf
  have hc := exec_coreWriters hmem s p k idx tag
  exact ⟨fun heff => hc.trans (congrArg Host.Outcome.next (State.fireReg_of_false hf heff)),
    fun heff => State.firesWith_of_fireReg hf hc (by simp [heff]) rfl⟩

/-! ## Scalars -/

/-- The bytes of a word reversed. -/
theorem beVal_leBytes_four (n : Nat) :
    beVal (leBytes 4 n) = n % 256 * 2 ^ 24 + n / 256 % 256 * 2 ^ 16 + n / 2 ^ 16 % 256 * 256 + n / 2 ^ 24 % 256 := by
  simp [leBytes, beVal, Nat.div_div_eq_div_mul]
  omega

/-- Settles O43. -/
theorem scalarLogicFires : Obligations.ScalarLogicFires := by
  unfold Obligations.ScalarLogicFires
  intro s p k idx tag f
  refine ⟨fun hf => State.firesWith_of_fireReg hf rfl (Bool.or_true _) rfl, fun heff => ?_⟩
  have hfires : ∀ {opc : Nat} {c : Instr} {g : Fire → Res} {r : Res}, s.fireOf p k idx tag opc = some f →
      exec c s = .next (s.fireReg p k idx tag opc g false) → g f = r → s.firesWith c f r :=
    fun hf hc hr => State.firesWith_of_fireReg hf hc (by rw [heff]; rfl) hr
  refine ⟨fun hf => hfires hf rfl rfl, fun hf => ?li, fun hf => hfires hf rfl rfl, fun hf => hfires hf rfl rfl,
    fun hf => hfires hf rfl rfl, fun hf => hfires hf rfl rfl, fun hf => ?shr, fun hf => hfires hf rfl rfl,
    fun hf => hfires hf rfl rfl, fun hf => hfires hf rfl (congrArg res (beVal_leBytes_four f.a))⟩
  case li =>
    refine ⟨fun hm => ?_, fun hm => ?_, fun hm => ?_, fun hm => ?_⟩ <;>
      exact hfires hf rfl (by simp [resLi, hm])
  case shr =>
    exact ⟨fun hm => hfires hf rfl (congrArg res (if_neg hm)), fun hm => hfires hf rfl (congrArg res (if_pos hm))⟩

/-- Settles O44. -/
theorem scalarArithmeticFires : Obligations.ScalarArithmeticFires := by
  unfold Obligations.ScalarArithmeticFires
  intro s p k idx tag f heff x y u v round
  have hfires : ∀ {opc : Nat} {c : Instr} {g : Fire → Res} {r : Res}, s.fireOf p k idx tag opc = some f →
      exec c s = .next (s.fireReg p k idx tag opc g false) → g f = r → s.firesWith c f r :=
    fun hf hc hr => State.firesWith_of_fireReg hf hc (by rw [heff]; rfl) hr
  refine ⟨fun hf => ⟨fun h => ?_, fun h => ?_⟩, fun hf => ⟨fun h => ?_, fun h => ?_⟩, fun hf => ⟨fun h => ?_, fun h => ?_⟩,
    fun hf => hfires hf rfl rfl, fun hf => hfires hf rfl rfl, fun hf => hfires hf rfl rfl, fun hf => hfires hf rfl rfl,
    fun hf => hfires hf rfl rfl, fun hf => hfires hf rfl rfl⟩
  · exact hfires hf rfl (congrArg res (if_neg h))
  · exact hfires hf rfl (congrArg res (if_pos h))
  · exact hfires hf rfl (congrArg res (if_neg h))
  · exact hfires hf rfl (congrArg res (if_pos h))
  · exact hfires hf rfl (congrArg res (if_neg h))
  · exact hfires hf rfl (congrArg res (if_pos h))

/-! ## Vectors -/

/-- SAT of an elementwise operation is that of some element. -/
theorem vmap2_sat (f : Nat) (g : Nat → Nat → Nat × Bool) (a b : Vec) :
    (vmap2 f g a b).2 = true ↔ ∃ j, j < 512 / fmtWidth f ∧ (g (elem a (fmtWidth f) j) (elem b (fmtWidth f) j)).2 = true := by
  simp [vmap2]

/-- No element of an operation without SAT saturates. -/
theorem not_exists_lt_false (n : Nat) : (false = true ↔ ∃ j, j < n ∧ false = true) := by simp

/-- A number with its bits from o to o + w replaced by those of b. -/
def putBits (v o w b : Nat) : Nat := v - v / 2 ^ o % 2 ^ w * 2 ^ o + b % 2 ^ w * 2 ^ o

/-- The number in three parts: the bits below, those put in and those above. -/
theorem putBits_eq (v o w b : Nat) : putBits v o w b = v % 2 ^ o + 2 ^ o * (b % 2 ^ w + 2 ^ w * (v / 2 ^ (o + w))) := by
  have hlow := Nat.mod_add_div v (2 ^ o)
  have hmid := Nat.mod_add_div (v / 2 ^ o) (2 ^ w)
  rw [Nat.div_div_eq_div_mul, ← Nat.pow_add] at hmid
  unfold putBits
  have hv : v = v % 2 ^ o + (v / 2 ^ o % 2 ^ w * 2 ^ o + 2 ^ o * (2 ^ w * (v / 2 ^ (o + w)))) := by
    rw [Nat.mul_comm (v / 2 ^ o % 2 ^ w), ← Nat.mul_add, hmid, hlow]
  rw [Nat.mul_add, Nat.mul_comm (2 ^ o) (b % 2 ^ w)]
  omega

/-- Below the bits put in nothing changes. -/
theorem putBits_mod (v o w b : Nat) : putBits v o w b % 2 ^ o = v % 2 ^ o := by
  rw [putBits_eq, Nat.add_mul_mod_self_left, Nat.mod_mod]

theorem putBits_div (v o w b : Nat) : putBits v o w b / 2 ^ o = b % 2 ^ w + 2 ^ w * (v / 2 ^ (o + w)) := by
  rw [putBits_eq, Nat.add_mul_div_left _ _ (Nat.two_pow_pos o), Nat.div_eq_of_lt (Nat.mod_lt _ (Nat.two_pow_pos o)), Nat.zero_add]

/-- Element i of a vector with element x replaced. -/
theorem putBits_elem (v w x b i : Nat) :
    putBits v (w * x) w b / 2 ^ (w * i) % 2 ^ w = if i = x then b % 2 ^ w else v / 2 ^ (w * i) % 2 ^ w := by
  rcases Nat.lt_trichotomy i x with hlt | rfl | hgt
  · have hfit : w * i + w ≤ w * x := Nat.mul_succ w i ▸ Nat.mul_le_mul_left w hlt
    rw [if_neg (Nat.ne_of_lt hlt), ← mod_div_two_pow_mod (Nat.pow_dvd_pow 2 hfit), putBits_mod, mod_div_two_pow_mod (Nat.pow_dvd_pow 2 hfit)]
  · rw [if_pos rfl, putBits_div, Nat.add_mul_mod_self_left, Nat.mod_mod]
  · obtain ⟨r, rfl⟩ := Nat.exists_eq_add_of_lt hgt
    have hsplit : w * (x + r + 1) = w * x + w + w * r := by
      rw [Nat.mul_add, Nat.mul_add, Nat.mul_one, Nat.add_right_comm]
    rw [if_neg (Nat.ne_of_gt hgt), hsplit, Nat.pow_add, ← Nat.div_div_eq_div_mul, Nat.pow_add, ← Nat.div_div_eq_div_mul, putBits_div,
      Nat.add_mul_div_left _ _ (Nat.two_pow_pos w), Nat.div_eq_of_lt (Nat.mod_lt _ (Nat.two_pow_pos w)), Nat.zero_add,
      Nat.div_div_eq_div_mul, Nat.pow_add 2 (w * x) w]

/-- An element of a vector lies within its 512 bits. -/
theorem elem_fits {f j : Nat} (hj : j < 512 / fmtWidth f) : fmtWidth f * (j + 1) ≤ 512 :=
  Nat.mul_comm (fmtWidth f) _ ▸ (Nat.le_div_iff_mul_le (fmtWidth_pos f)).mp hj

/-- VINS replaces one element and keeps the others. -/
theorem elem_resVins (f : Fire) {j : Nat} (hj : j < 512 / fmtWidth f.i.fmt) :
    elem (resVins f).val (fmtWidth f.i.fmt) j =
      (if j = f.i.x then f.b else elem f.va (fmtWidth f.i.fmt) j) % 2 ^ fmtWidth f.i.fmt := by
  have hfit : fmtWidth f.i.fmt * j + fmtWidth f.i.fmt ≤ 512 := elem_fits hj
  have hput : (resVins f).val = vecOf (putBits f.va.toNat (fmtWidth f.i.fmt * f.i.x) (fmtWidth f.i.fmt) f.b) := rfl
  rw [hput, elem, vecOf, BitVec.toNat_ofNat, mod_div_two_pow_mod (Nat.pow_dvd_pow 2 hfit), putBits_elem]
  split
  · rfl
  · exact (Nat.mod_mod _ _).symm

/-- VBCAST puts A in every element. -/
theorem elem_resVbcast (f : Fire) {j : Nat} (hj : j < 512 / fmtWidth f.i.fmt) :
    elem (resVbcast f).val (fmtWidth f.i.fmt) j = f.a % 2 ^ fmtWidth f.i.fmt := by
  have hpack : (resVbcast f).val =
    vecOf (packElems (fmtWidth f.i.fmt) (List.replicate (512 / fmtWidth f.i.fmt) (f.a % 2 ^ fmtWidth f.i.fmt))) := rfl
  rw [hpack, elem_vecOf_packElems (by simpa using hj) (elem_fits hj)]
  simp

/-- Settles O46. -/
theorem vectorsFireElementwise : Obligations.VectorsFireElementwise := by
  unfold Obligations.VectorsFireElementwise
  intro s p k idx tag f w ea eb each
  refine ⟨fun hf => State.firesWith_of_fireReg hf rfl (Bool.or_true _) rfl, fun heff => ?_⟩
  have hfires : ∀ {opc : Nat} {c : Instr} {g : Fire → Res} {r : Res}, s.fireOf p k idx tag opc = some f →
      exec c s = .next (s.fireReg p k idx tag opc g false) → g f = r → s.firesWith c f r :=
    fun hf hc hr => State.firesWith_of_fireReg hf hc (by rw [heff]; rfl) hr
  have hplain : ∀ {opc : Nat} {c : Instr} {g : Fire → Res} {e : Nat → Nat}, s.fireOf p k idx tag opc = some f →
      exec c s = .next (s.fireReg p k idx tag opc g false) → (g f).nan = false → (g f).sat = false →
      (∀ j, j < 512 / w → elem (g f).val w j = e j % 2 ^ w) → each c (fun j => (e j, false)) :=
    fun {_ _ g _} hf hc hnan hsat he => ⟨g f, hfires hf hc rfl, hnan, by rw [hsat]; exact not_exists_lt_false _, he⟩
  have harith : ∀ {opc op : Nat} {c : Instr}, s.fireOf p k idx tag opc = some f →
      exec c s = .next (s.fireReg p k idx tag opc (resVarith op) false) →
      each c (fun j => elemArith op f.i.fmt f.wraps (ea j) (eb j)) :=
    fun hf hc => ⟨_, hfires hf hc rfl, rfl, vmap2_sat .., fun j hj => elem_vmap2 _ _ _ _ hj⟩
  exact ⟨fun hf => hfires hf rfl rfl, fun hf => hfires hf rfl rfl, fun hf => hfires hf rfl rfl, fun hf => hfires hf rfl rfl,
    fun hf => harith hf rfl, fun hf => harith hf rfl, fun hf => harith hf rfl,
    fun hf => hplain hf rfl rfl rfl fun j hj => elem_vmap2 _ (fun a b => (minMax false f.i.fmt a b, false)) _ _ hj,
    fun hf => hplain hf rfl rfl rfl fun j hj => elem_vmap2 _ (fun a b => (minMax true f.i.fmt a b, false)) _ _ hj,
    fun hf => hplain hf rfl rfl rfl fun j hj =>
      elem_vmap2 _ (fun a b => (if condOf f.i.md f.i.fmt a b then 2 ^ w - 1 else 0, false)) _ _ hj,
    fun hf => hplain hf rfl rfl rfl fun j hj => elem_vmap2 _ (fun a _ => (sfnElem f.i.sb f.i.fmt a, false)) _ 0 hj,
    fun hf => hplain hf rfl rfl rfl fun j hj => elem_resVbcast f hj,
    fun hf => hfires hf rfl rfl,
    fun hf _ => hplain hf rfl rfl rfl fun j hj => elem_resVins f hj⟩

/-- Settles O47. -/
theorem vectorReductionsAndConversionsFire : Obligations.VectorReductionsAndConversionsFire := by
  unfold Obligations.VectorReductionsAndConversionsFire
  intro s p k idx tag f heff
  have hfires : ∀ {opc : Nat} {c : Instr} {g : Fire → Res} {r : Res}, s.fireOf p k idx tag opc = some f →
      exec c s = .next (s.fireReg p k idx tag opc g false) → g f = r → s.firesWith c f r :=
    fun hf hc hr => State.firesWith_of_fireReg hf hc (by rw [heff]; rfl) hr
  refine ⟨fun hf => hfires hf rfl rfl, fun hf => hfires hf rfl rfl, fun hf => ⟨hfires hf rfl rfl, ?_⟩,
    fun hf => ⟨hfires hf rfl rfl, rfl⟩⟩
  simp [resVcvt]

/-! ## Memory, DMA and FEVAL -/

/-- A read out of range answers zeros, posts MEM_RANGE and makes the verdict bad. -/
theorem State.standRead_none {s : State} {f : Fire} {a n : Nat} (h : s.standAddr f.hm f.p a n = none) :
    s.standRead f a n = (s.memRange f a, List.replicate n 0, f) := by
  unfold State.standRead; rw [h]

/-- A list of zeros reads as zero. -/
theorem leVal_replicate_zero (n : Nat) : leVal (List.replicate n 0) = 0 := by
  induction n with
  | zero => rfl
  | succ n ih =>
    rw [leVal] at ih
    rw [List.replicate_succ, leVal, List.foldr_cons, ih]
    rfl

theorem signed_zero (n : Nat) : signed n 0 = 0 := by
  unfold signed
  rw [Nat.zero_mod, if_neg (Nat.not_le.mpr (Nat.two_pow_pos _))]
  rfl

@[simp] theorem State.modVer_fevals (s : State) (h n : Nat) (g : Version → Version) : (s.modVer h n g).fevals = s.fevals := rfl
@[simp] theorem State.degraded_fevals (s : State) (h : Nat) (v : Version) : (s.degraded h v).fevals = s.fevals := State.post_fevals ..
@[simp] theorem State.noteFiring_fevals (s t : State) (f : Fire) : (s.noteFiring t f).fevals = t.fevals := rfl

/-- What a FEVAL puts on its way (R105, R108). -/
def State.fevalSent (s : State) (f : Fire) (p k : Nat) (payloads : List Vec) (top : Nat) (sat bad : Bool) (version : Nat)
    (copy : Option Nat) : Feval :=
  let rc := fevalRec f.hm.v.image f.hm.v.prog (f.i.fmt % 8)
  ⟨p, k, f.outTag, f.i.tgt, f.i.side, f.runId, rc.1, version, s.time.tick, rc.2.2, payloads, top,
    (match f.tok false with | some t => t.nan | none => false), sat, bad, copy, s.sinks f⟩

/-- Settles O49. -/
theorem coreMemoryInstructionsFire : Obligations.CoreMemoryInstructionsFire := by
  unfold Obligations.CoreMemoryInstructionsFire
  intro s p k idx tag f heff s1 at0 done
  have hdone : ∀ {opc : Nat} {c : Instr} {body : State → Fire → State} {t : State}, s.fireOf p k idx tag opc = some f →
      exec c s = .next (s.issue p k idx tag opc body) → body s1 f = t → done c t := fun hf hc hb => by
    subst hb
    exact hc.trans (congrArg Host.Outcome.next (State.issue_of_fireOf hf _))
  refine ⟨fun a n => State.standRead_none, fun hf => hdone hf rfl ?_, fun hf => hdone hf rfl ?_, fun hf => hdone hf rfl ?_,
    fun hf => hdone hf rfl ?_, ?lut, ?dma, ?feval⟩
  · simp only [heff, if_true]; rfl
  · simp only [heff, if_true]; rfl
  · simp only [heff, if_true]; rfl
  · simp only [heff, if_true]; rfl
  case lut =>
    intro hf w i
    refine ⟨fun hnear => hdone hf rfl ?_, fun hfar => hdone hf rfl ?_⟩
    · simp only [heff, if_true, decide_eq_true_eq]
      rw [if_neg (Nat.not_lt.mpr hnear)]
    · simp only [heff, if_true, decide_eq_true_eq]
      rw [if_pos hfar]
      dsimp only
      rw [leVal_replicate_zero, signed_zero, show unsigned 32 0 = 0 from rfl, ite_self]
  case dma =>
    intro hf dev len sa wr tok now
    refine ⟨fun o ho hg hd => hdone hf rfl ?_, fun o ho hbad => hdone hf rfl ?_, fun hnone => hdone hf rfl ?_⟩
    · simp only [heff, if_true]
      rw [ho]
      exact if_pos ⟨hg, hd⟩
    · simp only [heff, if_true]
      rw [ho]
      refine if_neg fun h => ?_
      rcases hbad with hng | hlt
      · exact absurd h.1 (Bool.eq_false_iff.mp hng)
      · exact absurd h.2 (Nat.not_le.mpr hlt)
    · simp only [heff, if_true]
      rw [hnone]
  case feval =>
    intro hf rc ver
    have hexec := State.issue_of_fireOf hf
    have hver : (s.fired f).fevalVer f.hm.v f.run (f.i.fmt % 8) = ver := rfl
    constructor
    · intro v cn hv hcopy hstat sm
      let r := evalForest v.image v.forest (sampleKey sm.2.1)
      refine ⟨_, s1.fevalSent f p k r.tokens r.top (r.sat || f.toks.any (·.sat)) (f.toks.any (·.bad) || sm.2.2.bad) v.number
        (some cn.1), congrArg Host.Outcome.next (hexec _), ?_, rfl, rfl, rfl, rfl, rfl, rfl, rfl, rfl⟩
      rw [State.noteFiring_fevals]
      simp only [heff, hver.trans hv, hcopy, hstat, Bool.not_true, Bool.false_eq_true, if_false]
      split <;> rfl
    · intro hnone
      refine ⟨_, s1.fevalSent f p k (List.replicate (fevalToks ver) 0) 0 (f.toks.any (·.sat)) true ((ver.map (·.number)).getD 0)
        none, congrArg Host.Outcome.next (hexec _), ?_, rfl, rfl, rfl⟩
      rw [State.noteFiring_fevals]
      rcases hnone with hnone | ⟨v, hv, hcopy⟩
      · simp only [heff, hver, hnone, Bool.not_true, Bool.false_eq_true, if_false]
        split <;> rfl
      · rcases hcopy with hcopy | hcopy
        · simp only [heff, hver.trans hv, hv, hcopy, Bool.not_true, Bool.false_eq_true, if_false]
          split <;> simp <;> rfl
        · simp only [heff, hver.trans hv, hv, hcopy, Bool.not_true, Bool.false_eq_true, if_false]
          split <;> simp <;> rfl

end Sys2Proof.Machine
end

section
/-! Accesses of the BAR0 registers (R4 to R6): which registers an access touches, what a read answers and latches, and what a write
of a register without an action of its own changes. -/
namespace Sys2Proof.Machine

/-! ## The registers an access touches -/

/-- The index of an offset in an array of registers. -/
theorem idxOf_eq_some {off base stride n k : Nat} (h : off = base + k * stride) (hs : 0 < stride) (hk : k < n) :
    idxOf off base stride n = some k := by
  subst h
  have hsub : base + k * stride - base = k * stride := by omega
  unfold idxOf
  rw [hsub, Nat.mul_div_cancel _ hs, if_pos ⟨by omega, Nat.mul_mod_left k stride, hk⟩]

theorem idxOf_isSome {off base stride n : Nat} :
    (idxOf off base stride n).isSome = true ↔ base ≤ off ∧ (off - base) % stride = 0 ∧ (off - base) / stride < n := by
  unfold idxOf; split <;> simp_all

theorem idxOf_eq_none {off base stride n : Nat} :
    idxOf off base stride n = none ↔ ¬(base ≤ off ∧ (off - base) % stride = 0 ∧ (off - base) / stride < n) := by
  unfold idxOf; split <;> simp_all

/-- A full access touches its one register, whole. -/
theorem touched_four {off : Nat} (h : off % 4 = 0) : touched off 4 = [off] := by
  have hcount : (off + 3) / 4 + 1 - off / 4 = 1 := by omega
  have hbase : off / 4 * 4 = off := by omega
  simp [touched, hcount, hbase]

/-- An access of eight bytes touches two registers. -/
theorem touched_eight {off : Nat} (h : off % 4 = 0) : touched off 8 = [off, off + 4] := by
  have hcount : (off + 7) / 4 + 1 - off / 4 = 2 := by omega
  have hlo : off / 4 * 4 = off := by omega
  simp [touched, hcount, List.range_succ, hlo]

/-- An access within one register touches it alone. -/
theorem touched_within {off size : Nat} (h0 : 0 < size) (h : off % 4 + size ≤ 4) : touched off size = [off / 4 * 4] := by
  have hcount : (off + size - 1) / 4 + 1 - off / 4 = 1 := by omega
  simp [touched, hcount, Nat.ne_of_gt h0]

theorem wholeReg_four (off : Nat) : wholeReg off 4 off = true := by simp [wholeReg]

/-- A full write is that of the register (R4). -/
theorem State.writeBytes_four (s : State) {off : Nat} (val : BitVec 64) (origin : Nat) (h : off % 4 = 0) (hbar : off < bar2Off) :
    s.writeBytes off 4 val origin = s.writeReg off (val.setWidth 32) origin := by
  rw [State.writeBytes, if_neg (Nat.not_le.mpr hbar), touched_four h]
  simp [wholeReg_four]

/-- A full read is that of the register (R4). -/
theorem State.readReg_four (s : State) {off : Nat} (h : off % 4 = 0) (hbar : off < bar2Off) : s.readReg off 4 = s.readFull off := by
  rw [State.readReg, if_neg (Nat.not_le.mpr hbar), touched_four h]
  simp [wholeReg_four]

/-- A write that addresses part of a register is discarded (R4). -/
theorem State.writeBytes_narrow (s : State) {off size : Nat} (val : BitVec 64) (origin : Nat) (h : off % 4 + size ≤ 4) (h4 : size ≠ 4)
    (hbar : off < bar2Off) : s.writeBytes off size val origin = s := by
  rw [State.writeBytes, if_neg (Nat.not_le.mpr hbar)]
  by_cases h0 : size = 0
  · simp [touched, h0]
  · have hpart : wholeReg off size (off / 4 * 4) = false := by
      simp only [wholeReg, Bool.and_eq_false_iff, decide_eq_false_iff_not]; omega
    rw [touched_within (by omega) h]
    simp [hpart]

/-- A command over PCIe does nothing before the link is up, and what it says after. -/
theorem State.overPcie_up {s : State} (h : s.pcieUp = true) (f : State → State) : s.overPcie f = f s := if_pos h
theorem State.overPcie_down {s : State} (h : s.pcieUp = false) (f : State → State) : s.overPcie f = s :=
  if_neg (Bool.eq_false_iff.mp h)

/-! ## Writes of registers without an action (Table 0-2) -/

/-- With no commit due and no command waiting, a capture control is written at once. -/
theorem State.act_cap {s : State} (hdue : s.mgmt.commit.due = false) (hacts : s.mgmt.acts = []) (off : Nat) (val : Word) :
    s.act (.cap off val) = s.plainWrite off val := by
  simp [State.act, State.commitBoundary, hdue, hacts, MgmtAct.isRpr, State.actNow, MgmtAct.journaled, State.runAct]

/-- A plain register: its offset, and that its block gives it no action. -/
theorem plainOff_spec {off : Nat} (h : plainOff off = true) :
    off % 4 = 0 ∧ off < 0x3000000 ∧ (off < 0x80000 ∨ 0x88000 ≤ off) ∧
    (off ≠ Reg.GCTL_COMMIT ∧ off ≠ Reg.GCTL_RESET ∧ off ≠ Reg.GCTL_MBOX_LO ∧ off ≠ Reg.GCTL_MBOX_HI ∧ off ≠ Reg.TIME_INC_FRAC ∧
      off ≠ Reg.TIME_INC_NS ∧ off ≠ Reg.TIME_STEP_CTL ∧ off ≠ Reg.PORT_CMD ∧ off ≠ Reg.JRNL_EXP_LO ∧ off ≠ Reg.JRNL_EXP_HI ∧
      off ≠ Reg.RPR_CMD ∧ off ≠ Reg.PWR_CTL) ∧
    idxOf off (Reg.GCTL_DMA_w2 0) 0x40 4 = none ∧ idxOf off (Reg.TIME_TPO_w0 0) 0x20 8 = none ∧
    idxOf off (Reg.TIME_PTP_w0 0) 4 384 = none := by
  simpa [plainOff, and_assoc] using h

theorem State.writeGctl_plain {s : State} {off : Nat} (val : Word) (origin : Nat) (h : plainOff off = true) :
    s.writeGctl off val origin = s.plainWrite off val := by
  obtain ⟨-, -, hmsix, ⟨hc, hr, hml, hmh, -⟩, hdma, -⟩ := plainOff_spec h
  have hno : ¬(0x80000 ≤ off ∧ off < 0x88000) := fun hin => hmsix.elim (Nat.not_lt.mpr hin.1) (Nat.not_le.mpr hin.2)
  simp only [State.writeGctl, hc, hr, hml, hmh, hno, hdma, if_false]

theorem State.writeTime_plain {s : State} {off : Nat} (val : Word) (origin : Nat) (h : plainOff off = true)
    (hcap : s.mgmt.commit.due = true ∨ s.mgmt.acts ≠ [] → idxOf off (Reg.TIME_CAP_w0 0) 0x20 6 = none) :
    s.writeTime off val origin = s.plainWrite off val := by
  obtain ⟨-, -, -, ⟨-, -, -, -, hif, hin, hsc, -⟩, -, htpo, hptp⟩ := plainOff_spec h
  simp only [State.writeTime, hif, hin, hsc, htpo, if_false]
  rw [hptp]
  dsimp only
  split
  · next hsome =>
    have hidle : s.mgmt.commit.due = false ∧ s.mgmt.acts = [] := Classical.byContradiction fun hbusy => by
      rw [hcap (Classical.byContradiction fun hno => hbusy (by simpa using hno))] at hsome
      exact absurd hsome (by decide)
    exact State.act_cap hidle.1 hidle.2 off val
  · rfl

/-- A write of a plain register follows the access types of its fields. -/
theorem State.writeReg_plain {s : State} {off : Nat} (val : Word) (origin : Nat) (h : plainOff off = true)
    (hcap : s.mgmt.commit.due = true ∨ s.mgmt.acts ≠ [] → idxOf off (Reg.TIME_CAP_w0 0) 0x20 6 = none) :
    s.writeReg off val origin = s.plainWrite off val := by
  obtain ⟨-, hbar, -, ⟨-, -, -, -, -, -, -, hpc, hjl, hjh, hrc, hpw⟩, -⟩ := plainOff_spec h
  have hno : ¬(0x3000000 ≤ off ∧ off < 0x4000000) := fun hin => Nat.not_lt.mpr hin.1 hbar
  rw [State.writeReg, if_neg hno]
  split
  · exact State.writeGctl_plain val origin h
  · split
    · exact State.writeTime_plain val origin h hcap
    · rfl

/-- The word of the register tables that a plain write leaves. -/
def plainRw (old val : Word) (off : Nat) : Word := maskIn old val (regMask off .rw) &&& ~~~(val &&& regMask off .w1c)

/-- The bits that a plain write takes over in the shadow set (R6). -/
def shadowMask (first : Bool) (off : Nat) : Word := regMask off .rws ||| (if first then 0 else regMask off .rwl)

/-- A masked write takes the value where the mask has a bit and keeps the word elsewhere. -/
theorem getLsbD_maskIn (old val m : Word) {i : Nat} (hi : i < 32) :
    (maskIn old val m).getLsbD i = if m.getLsbD i then val.getLsbD i else old.getLsbD i := by
  unfold maskIn
  rw [BitVec.getLsbD_or, BitVec.getLsbD_and, BitVec.getLsbD_and, BitVec.getLsbD_not]
  cases m.getLsbD i <;> simp [hi]

theorem maskIn_zero (old val : Word) : maskIn old val 0 = old := by
  refine BitVec.eq_of_getLsbD_eq fun i hi => ?_
  rw [getLsbD_maskIn _ _ _ hi]; simp

/-- A plain write changes its own entries of two register tables. -/
theorem State.plainWrite_spec (s : State) (off : Nat) (val : Word) :
    ∃ rw sh, s.plainWrite off val = { s with regs := { s.regs with rw := rw, shadow := sh } } ∧
      (∀ o, o ≠ off → Tbl.getD rw o (regReset o) = s.rwW o ∧ cfgOf sh o = cfgOf s.regs.shadow o) ∧
      Tbl.getD rw off (regReset off) = plainRw (s.rwW off) val off ∧
      cfgOf sh off = maskIn (cfgOf s.regs.shadow off) val (shadowMask s.regs.firstCommit off) := by
  have hkeepRw : regMask off .rw ||| regMask off .w1c = 0 → s.rwW off = plainRw (s.rwW off) val off := by
    intro h0
    obtain ⟨hrw, hw1c⟩ := BitVec.or_eq_zero_iff.mp h0
    rw [plainRw, hrw, hw1c, BitVec.and_zero]
    exact (BitVec.and_allOnes.trans (maskIn_zero _ val)).symm
  have hkeepSh : shadowMask s.regs.firstCommit off = 0 →
      cfgOf s.regs.shadow off = maskIn (cfgOf s.regs.shadow off) val (shadowMask s.regs.firstCommit off) := by
    intro h0
    rw [h0, maskIn_zero]
  have hputSh : ∀ x o, o ≠ off → cfgOf (Tbl.put s.regs.shadow off x) o = cfgOf s.regs.shadow o := fun x o ho =>
    Tbl.getD_put_ne _ _ _ ho
  have hputRw : ∀ x o, o ≠ off → Tbl.getD (Tbl.put s.regs.rw off x) o (regReset o) = s.rwW o := fun x o ho =>
    Tbl.getD_put_ne _ _ _ ho
  unfold State.plainWrite
  by_cases hr : regMask off .rw ||| regMask off .w1c = 0 <;> by_cases hm : shadowMask s.regs.firstCommit off = 0 <;>
    have hm' := hm <;> unfold shadowMask at hm'
  · exact ⟨_, _, by simp only [hr, hm', if_true], fun o _ => ⟨rfl, rfl⟩, hkeepRw hr, hkeepSh hm⟩
  · exact ⟨_, _, by simp only [hr, hm', if_true, if_false]; rfl, fun o ho => ⟨rfl, hputSh _ o ho⟩, hkeepRw hr, Tbl.getD_put_self ..⟩
  · exact ⟨_, _, by simp only [hr, hm', if_true, if_false]; rfl, fun o ho => ⟨hputRw _ o ho, rfl⟩, Tbl.getD_put_self .., hkeepSh hm⟩
  · exact ⟨_, _, by simp only [hr, hm', if_false]; rfl, fun o ho => ⟨hputRw _ o ho, hputSh _ o ho⟩, Tbl.getD_put_self ..,
      Tbl.getD_put_self ..⟩

/-- What a full write of a plain register is. -/
theorem exec_registerWrite_plain {s : State} {off : Nat} (val : BitVec 64) (h : plainOff off = true) (hup : s.pcieUp = true)
    (hcap : s.mgmt.commit.due = true ∨ s.mgmt.acts ≠ [] → idxOf off (Reg.TIME_CAP_w0 0) 0x20 6 = none) :
    exec (.registerWrite off 4 val) s = .next (s.plainWrite off (val.setWidth 32)) := by
  obtain ⟨h4, hbar, -⟩ := plainOff_spec h
  have hbar2 : off < bar2Off := Nat.lt_of_lt_of_le hbar (by decide)
  show Host.Outcome.next (s.overPcie (·.writeBytes off 4 val 1)) = _
  rw [State.overPcie_up hup, State.writeBytes_four s val 1 h4 hbar2, State.writeReg_plain _ 1 h hcap]

/-- Settles O9, by the access types of each bit. -/
theorem registerWriteFollowsAccessTypes : Obligations.RegisterWriteFollowsAccessTypes := by
  intro off val s hoff hup hcap
  obtain ⟨rw, sh, hw, hother, hrw, hsh⟩ := s.plainWrite_spec off (val.setWidth 32)
  refine ⟨rw, sh, (exec_registerWrite_plain val hoff hup hcap).trans (congrArg _ hw), hother, fun i hi => ?_⟩
  have hval : (val.setWidth 32).getLsbD i = val.getLsbD i := by simp [hi]
  have hbitRw : (Tbl.getD rw off (regReset off)).getLsbD i =
      ((if (regMask off .rw).getLsbD i then val.getLsbD i else (s.rwW off).getLsbD i) &&
        !(val.getLsbD i && (regMask off .w1c).getLsbD i)) := by
    rw [hrw, plainRw, BitVec.getLsbD_and, getLsbD_maskIn _ _ _ hi, hval]
    simp [hi]
  have hbitSh : (cfgOf sh off).getLsbD i = if (shadowMask s.regs.firstCommit off).getLsbD i then val.getLsbD i
      else (cfgOf s.regs.shadow off).getLsbD i := by rw [hsh, getLsbD_maskIn _ _ _ hi, hval]
  have hmask : (shadowMask s.regs.firstCommit off).getLsbD i =
      ((regMask off .rws).getLsbD i || (!s.regs.firstCommit && (regMask off .rwl).getLsbD i)) := by
    cases hf : s.regs.firstCommit <;> simp [shadowMask]
  rw [hbitRw, hbitSh, hmask]
  refine ⟨fun hc hr => ?_, fun hr hc => ?_, fun hr hc => ?_, fun hs => ?_, fun hl hs => ?_, fun hs hl => ?_⟩
  · simp [hc, hr]
  · simp [hc, hr]
  · simp [hc, hr]
  · simp [hs]
  · cases hf : s.regs.firstCommit <;> simp [hl, hs]
  · simp [hl, hs]

/-! ## Reserved bits (R5) -/

/-- The mask of an access type lies within the bits that a field covers. -/
theorem regMask_le_fieldBits {off i : Nat} (a : Acc) (h : (fieldBits off).getLsbD i = false) : (regMask off a).getLsbD i = false := by
  simp only [fieldBits, BitVec.getLsbD_or, Bool.or_eq_false_iff] at h
  obtain ⟨⟨⟨⟨⟨hro, hrw⟩, hw1c⟩, hwo⟩, hrws⟩, hrwl⟩ := h
  cases a <;> assumption

/-- A reserved bit of a register reads zero. -/
theorem State.regNow_reserved (s : State) {off i : Nat} (hinc : isInc off = false) (h : (fieldBits off).getLsbD i = false) :
    (s.regNow off).getLsbD i = false := by
  unfold State.regNow
  split
  · simp
  · simp [hinc, regMask_le_fieldBits _ h]

/-- A masked write sees of its value only the bits of the mask. -/
theorem maskIn_and (old val f m : Word) (h : ∀ i, f.getLsbD i = false → m.getLsbD i = false) :
    maskIn old (val &&& f) m = maskIn old val m := by
  refine BitVec.eq_of_getLsbD_eq fun i hi => ?_
  rw [getLsbD_maskIn _ _ _ hi, getLsbD_maskIn _ _ _ hi, BitVec.getLsbD_and]
  cases hf : f.getLsbD i
  · simp [h i hf]
  · simp

/-- A plain write ignores the reserved bits of its value. -/
theorem State.plainWrite_reserved (s : State) (off : Nat) (val : Word) :
    s.plainWrite off (val &&& fieldBits off) = s.plainWrite off val := by
  have hw1c : val &&& fieldBits off &&& regMask off .w1c = val &&& regMask off .w1c := by
    refine BitVec.eq_of_getLsbD_eq fun i hi => ?_
    simp only [BitVec.getLsbD_and]
    cases hf : (fieldBits off).getLsbD i
    · rw [regMask_le_fieldBits .w1c hf, Bool.and_false, Bool.and_false]
    · rw [Bool.and_true]
  have hsh : ∀ i, (fieldBits off).getLsbD i = false →
      (regMask off .rws ||| if s.regs.firstCommit then 0 else regMask off .rwl).getLsbD i = false := by
    intro i hf
    cases s.regs.firstCommit <;> simp [regMask_le_fieldBits _ hf]
  unfold State.plainWrite
  simp only [hw1c, maskIn_and _ _ _ _ (fun _ => regMask_le_fieldBits .rw), maskIn_and _ _ _ _ hsh]

/-- Settles O10, by the masks of the fields. -/
theorem reservedBitsReadZeroAndIgnoreWrites : Obligations.ReservedBitsReadZeroAndIgnoreWrites := by
  refine ⟨fun off s i hl hinc h => ?_, fun off val s hoff hcap => ?_⟩
  · rw [State.regPeek, if_neg (Bool.eq_false_iff.mp hl)]
    exact s.regNow_reserved hinc h
  · cases hup : s.pcieUp
    · exact congrArg Host.Outcome.next ((State.overPcie_down hup _).trans (State.overPcie_down hup _).symm)
    · rw [exec_registerWrite_plain _ hoff hup (fun _ => hcap), exec_registerWrite_plain _ hoff hup (fun _ => hcap)]
      have hval : (val &&& (fieldBits off).setWidth 64).setWidth 32 = val.setWidth 32 &&& fieldBits off := by
        refine BitVec.eq_of_getLsbD_eq fun i hi => ?_
        simp [hi]
      rw [hval, State.plainWrite_reserved]

/-! ## Latched halves (R4) -/

/-- A full read of the register has no effect but its latches: it is no entry of a queue, capture, vector table or sweep. -/
def readsQuietly (off : Nat) : Prop :=
  off < 0x3000000 ∧ idxOf off (Reg.GCTL_EVQ_w4 0) 0x20 16 = none ∧ idxOf off (Reg.TIME_CAP_w1 0) 0x20 6 = none ∧
    ¬(0x80000 ≤ off ∧ off < 0x88000) ∧ ¬(0x1000000 ≤ off ∧ off % 0x800000 = 0x3004)

/-- The offset of SSTAT within its die. -/
theorem State.sweepAt_eq_false (s : State) {off : Nat} (h : ¬(0x1000000 ≤ off ∧ off % 0x800000 = 0x3004)) : s.sweepAt off = false := by
  have hoff : ¬(0x1000000 ≤ off ∧ off < 0x3000000 ∧ off = Reg.MEM_SSTAT ((off - 0x1000000) / 0x800000)) := by
    rintro ⟨hlo, -, heq⟩
    simp only [Reg.MEM_SSTAT] at heq
    omega
  simp only [State.sweepAt, Bool.and_eq_false_iff, decide_eq_false_iff_not]
  exact Or.inl hoff

/-- A quiet read answers the register and latches what its rule names. -/
theorem State.readFull_quiet (s : State) {off : Nat} (h : readsQuietly off) : s.readFull off = s.readLatch off := by
  obtain ⟨hbar, hevq, hcap, hmsix, hsweep⟩ := h
  have hwin : ¬(0x3000000 ≤ off ∧ off < 0x4000000) := fun hin => Nat.not_lt.mpr hin.1 hbar
  simp only [State.readFull, hwin, hevq, hcap, hmsix, s.sweepAt_eq_false hsweep, if_false, Bool.false_eq_true]

/-- The arrays of registers that a quiet read keeps out of, by their addresses. -/
theorem readsQuietly_of {off : Nat} (hbar : off < 0x3000000) (hevq : off < 0xD10 ∨ 0xF10 ≤ off ∨ off % 0x20 ≠ 0x10)
    (hcap : off < 0x100204 ∨ 0x1002C4 ≤ off ∨ off % 0x20 ≠ 4) (hmsix : off < 0x80000 ∨ 0x88000 ≤ off)
    (hsweep : off < 0x1000000 ∨ off % 0x800000 ≠ 0x3004) : readsQuietly off := by
  refine ⟨hbar, idxOf_eq_none.mpr ?_, idxOf_eq_none.mpr ?_, ?_, ?_⟩
  · simp only [Reg.GCTL_EVQ_w4]; omega
  · simp only [Reg.TIME_CAP_w1]; omega
  · omega
  · omega

/-- The _HI of a pair stands above its _LO, and both are read quietly. -/
theorem hiOf_spec {off h : Nat} (hoff : hiOf off = some h) : h = off + 4 ∧ readsQuietly off ∧ readsQuietly h := by
  have hpair : ∀ {c : Prop} [Decidable c], (if c then some (off + 4) else none) = some h → c ∧ h = off + 4 := by
    intro c _ hc
    split at hc
    · exact ⟨‹c›, (Option.some.inj hc).symm⟩
    · cases hc
  unfold hiOf at hoff
  dsimp only at hoff
  split at hoff
  · next hin =>
    cases hoff
    simp only [List.contains_eq_mem, List.mem_cons, List.not_mem_nil, or_false, decide_eq_true_eq, List.any_cons, List.any_nil,
      Bool.or_false, Bool.or_eq_true, idxOf_isSome, Reg.GCTL_TICK_LO, Reg.GCTL_STRIPE_LO, Reg.TIME_RAW_LO, Reg.TIME_NOW_SEC_LO,
      Reg.TIME_STEP_SEC_LO, Reg.TIME_RING_LO, Reg.PORT_ID_LO, Reg.PORT_PLANDIG_LO, Reg.BOOM_GWMAC_LO, Reg.JRNL_RING_LO,
      Reg.JRNL_HEAD_LO, Reg.JRNL_EXP_LO, Reg.RPR_MAPENT_LO, Reg.TWIN_SEND_LO, Reg.TWIN_PEER_LO, Reg.GCTL_DMA_w0, Reg.TIME_TPO_w1,
      Reg.TIME_PTP_w3, Reg.TIME_FELL_w1, Reg.PORT_PLAN_w1, Reg.PRS_SEL_w0, Reg.PRS_SEL_w2, Reg.RPLY_DEST_w1] at hin
    refine ⟨rfl, readsQuietly_of ?_ ?_ ?_ ?_ ?_, readsQuietly_of ?_ ?_ ?_ ?_ ?_⟩ <;> omega
  · split at hoff
    · obtain ⟨-, rfl⟩ := hpair hoff
      refine ⟨rfl, readsQuietly_of ?_ ?_ ?_ ?_ ?_, readsQuietly_of ?_ ?_ ?_ ?_ ?_⟩ <;> omega
    · split at hoff
      · obtain ⟨hin, rfl⟩ := hpair hoff
        simp only [idxOf_isSome] at hin
        refine ⟨rfl, readsQuietly_of ?_ ?_ ?_ ?_ ?_, readsQuietly_of ?_ ?_ ?_ ?_ ?_⟩ <;> omega
      · cases hoff

/-- What a register latches stands 4, 8 or 12 bytes above it, and both are read quietly. -/
theorem latchesOf_spec {off h : Nat} (hoff : h ∈ latchesOf off) :
    (h = off + 4 ∨ h = off + 8 ∨ h = off + 12) ∧ readsQuietly off ∧ readsQuietly h := by
  unfold latchesOf at hoff
  split at hoff
  · next hnow =>
    subst hnow
    simp only [List.mem_cons, List.not_mem_nil, or_false] at hoff
    obtain rfl | rfl | rfl := hoff <;> simp [readsQuietly] <;> decide
  · split at hoff
    · next hconv =>
      subst hconv
      simp only [List.mem_cons, List.not_mem_nil, or_false] at hoff
      obtain rfl | rfl := hoff <;> simp [readsQuietly] <;> decide
    · split at hoff
      · next hseq =>
        simp only [List.mem_cons, List.not_mem_nil, or_false] at hoff
        refine ⟨hoff, readsQuietly_of ?_ ?_ ?_ ?_ ?_, readsQuietly_of ?_ ?_ ?_ ?_ ?_⟩ <;> omega
      · obtain ⟨heq, hquiet⟩ := hiOf_spec (Option.mem_toList.mp hoff)
        exact ⟨Or.inl heq, hquiet⟩

/-- A register that another latches reads what was kept for it. -/
theorem isLatched_of_mem {off h : Nat} (hoff : h ∈ latchesOf off) : isLatched h = true := by
  have hk : ∃ k ∈ [4, 8, 12], h = off + k := by
    obtain rfl | rfl | rfl := (latchesOf_spec hoff).1 <;> simp
  obtain ⟨k, hmem, rfl⟩ := hk
  have hany : [4, 8, 12].any (fun j => decide (j ≤ off + k) && (latchesOf (off + k - j)).contains (off + k)) = true :=
    List.any_eq_true.mpr ⟨k, hmem, by simpa using hoff⟩
  simp only [isLatched, hany, Bool.true_or]

/-- The entries that a list of registers gets hold the value of each. -/
theorem getD_foldl_put (f : Nat → Word) {h : Nat} (d : Word) (l : List Nat) (t : Tbl Word)
    (hin : h ∈ l ∨ Tbl.getD t h d = f h) : Tbl.getD (l.foldl (fun t o => Tbl.put t o (f o)) t) h d = f h := by
  induction l generalizing t with
  | nil => exact hin.resolve_left (by simp)
  | cons o os ih =>
    refine ih _ ?_
    by_cases ho : h = o
    · subst ho
      exact Or.inr (Tbl.getD_put_self ..)
    · rw [Tbl.getD_put_ne _ _ _ ho]
      exact hin.imp_left fun hmem => (List.mem_cons.mp hmem).resolve_left ho

/-- What the latches hold after a full read of a register. -/
def State.latchedBy (s : State) (off : Nat) : Tbl Word :=
  (latchesOf off).foldl (fun t o => Tbl.put t o (s.regNow o)) s.regs.latch

/-- A full read that has no effect but its latches. -/
theorem State.readLatch_eq (s : State) (off : Nat) : s.readLatch off =
    { s with regs := { s.regs with latch := s.latchedBy off }, out := s.out ++ [.read off (s.regPeek off)] } := rfl

theorem State.latchedBy_getD (s : State) {off h : Nat} (hh : h ∈ latchesOf off) : Tbl.getD (s.latchedBy off) h 0 = s.regNow h :=
  getD_foldl_put s.regNow 0 _ _ (Or.inl hh)

/-- The value of a register does not depend on what was latched, nor on what has left the device. -/
theorem State.regNow_latched (s : State) (l : Tbl Word) (o : List Out) (off : Nat) :
    State.regNow { s with regs := { s.regs with latch := l }, out := o } off = s.regNow off := rfl

/-- A full quiet read over PCIe. -/
theorem exec_reg64LoRead_quiet {s : State} {off : Nat} (h4 : off % 4 = 0) (hq : readsQuietly off) (hup : s.pcieUp = true) :
    exec (.reg64LoRead ⟨off, 4⟩) s = .next (s.readLatch off) := by
  have hbar2 : off < bar2Off := Nat.lt_of_lt_of_le hq.1 (by decide)
  show Host.Outcome.next (s.overPcie (·.readReg off 4)) = _
  rw [State.overPcie_up hup, State.readReg_four s h4 hbar2, State.readFull_quiet s hq]

/-- Settles O11: the first read keeps the registers its rule names, and the read of one answers what was kept. -/
theorem lowHalfReadLatchesTheHighHalf : Obligations.LowHalfReadLatchesTheHighHalf := by
  intro off h s h4 hh hlat hup
  obtain ⟨hplace, hqoff, hqh⟩ := latchesOf_spec hh
  have hread := exec_reg64LoRead_quiet h4 hqoff hup
  have hpeek : s.regPeek off = s.regNow off := by rw [State.regPeek, if_neg (Bool.eq_false_iff.mp hlat)]
  refine ⟨s.latchedBy off, hread.trans (congrArg Host.Outcome.next ?_), s.latchedBy_getD hh, fun t ht => ?_⟩
  · rw [State.readLatch_eq, hpeek]
  · obtain rfl : s.readLatch off = t := Host.Outcome.next.inj (hread.symm.trans ht)
    have hnow : (s.readLatch off).regPeek h = s.regNow h := by
      rw [State.regPeek, if_pos (isLatched_of_mem hh)]
      have hl : Tbl.getD (s.readLatch off).regs.latch h 0 = s.regNow h := s.latchedBy_getD hh
      rw [hl]
      show (s.regNow h &&& latchMask h) ||| (s.regNow h &&& ~~~latchMask h) = s.regNow h
      rw [← BitVec.and_or_distrib_left]
      exact (congrArg (s.regNow h &&& ·) (by simp)).trans BitVec.and_allOnes
    refine ⟨(s.readLatch off).latchedBy h, ?_⟩
    rw [exec_reg64LoRead_quiet (s := s.readLatch off) (by omega) hqh hup, State.readLatch_eq, hnow]

/-! ## Pairs that apply at the high half (R4) -/

/-- A full write over PCIe. -/
theorem exec_reg64LoWrite_up {s : State} {off : Nat} (val : Word) (h4 : off % 4 = 0) (hup : s.pcieUp = true) :
    exec (.reg64LoWrite off val) s = .next (s.writeReg off val 1) :=
  congrArg Host.Outcome.next ((if_pos h4).trans (State.overPcie_up hup _))

theorem exec_reg64HiWrite_up {s : State} {off : Nat} (val : Word) (h4 : off % 4 = 0) (hup : s.pcieUp = true) :
    exec (.reg64HiWrite off val) s = .next (s.writeReg off val 1) :=
  congrArg Host.Outcome.next ((if_pos h4).trans (State.overPcie_up hup _))

/-- The pairs of the journal and of the mailbox hold their low half. -/
theorem State.writeReg_jrnlLo (s : State) (val : Word) : s.writeReg Reg.JRNL_EXP_LO val 1 = s.holdLo Reg.JRNL_EXP_LO val := by
  simp [State.writeReg, Reg.JRNL_EXP_LO, Reg.PORT_CMD]

theorem State.writeReg_mboxLo (s : State) (val : Word) : s.writeReg Reg.GCTL_MBOX_LO val 1 = s.holdLo Reg.GCTL_MBOX_LO val := by
  simp [State.writeReg, State.writeGctl, Reg.GCTL_MBOX_LO, Reg.GCTL_COMMIT, Reg.GCTL_RESET]

theorem State.writeReg_jrnlHi (s : State) (val : Word) : s.writeReg Reg.JRNL_EXP_HI val 1 = s.jrnlExport val := by
  simp [State.writeReg, Reg.JRNL_EXP_HI, Reg.JRNL_EXP_LO, Reg.PORT_CMD]

/-- The write that applies a MASTER_ID pair (R4). -/
theorem State.writeReg_masterHi (s : State) {e : Nat} (hi : Word) (he : e < 48) :
    s.writeReg (Reg.TIME_PTP_w4 e) hi 1 = s.masterWrite e hi := by
  have hoff : Reg.TIME_PTP_w4 e = 0x100410 + e * 0x20 := rfl
  have hix : idxOf (Reg.TIME_PTP_w4 e) (Reg.TIME_PTP_w0 0) 4 384 = some (8 * e + 4) :=
    idxOf_eq_some (by rw [hoff]; simp only [Reg.TIME_PTP_w0]; omega) (by decide) (by omega)
  have htpo : idxOf (Reg.TIME_PTP_w4 e) (Reg.TIME_TPO_w0 0) 0x20 8 = none :=
    idxOf_eq_none.mpr (by rw [hoff]; simp only [Reg.TIME_TPO_w0]; omega)
  have hno : Reg.TIME_PTP_w4 e ≠ Reg.TIME_INC_FRAC ∧ Reg.TIME_PTP_w4 e ≠ Reg.TIME_INC_NS ∧ Reg.TIME_PTP_w4 e ≠ Reg.TIME_STEP_CTL := by
    rw [hoff]; simp only [Reg.TIME_INC_FRAC, Reg.TIME_INC_NS, Reg.TIME_STEP_CTL]; omega
  have htime : s.writeTime (Reg.TIME_PTP_w4 e) hi 1 = s.masterWrite e hi := by
    have hdiv : (8 * e + 4) / 8 = e := by omega
    have hmod : (8 * e + 4) % 8 = 4 := by omega
    simp only [State.writeTime, hno, htpo, hix, if_false, State.ptpWrite, hdiv, hmod]
    rfl
  rw [State.writeReg, if_neg (by rw [hoff]; omega), if_neg (by rw [hoff]; omega), if_pos (by rw [hoff]; omega)]
  exact htime

/-- A written MASTER_ID pair holds the value of the write and the half held before. -/
theorem State.masterWrite_rwW (s : State) (e : Nat) (hi : Word) :
    (s.masterWrite e hi).rwW (Reg.TIME_PTP_w4 e) = hi ∧
    (s.masterWrite e hi).rwW (Reg.TIME_PTP_w3 e) = Tbl.getD s.regs.loHeld (Reg.TIME_PTP_w3 e) (s.rwW (Reg.TIME_PTP_w3 e)) := by
  have hne : Reg.TIME_PTP_w3 e ≠ Reg.TIME_PTP_w4 e := by simp [Reg.TIME_PTP_w3, Reg.TIME_PTP_w4]
  unfold State.masterWrite
  dsimp only
  split
  · exact ⟨State.setRw_rwW_self .., (State.setRw_rwW_ne _ _ _ _ hne).trans (State.setRw_rwW_self ..)⟩
  · exact ⟨State.setRw_rwW_self .., (State.setRw_rwW_ne _ _ _ _ hne).trans (State.setRw_rwW_self ..)⟩

/-- Settles O12: the held half of each pair and the write that applies it. -/
theorem sixtyFourBitPairsApplyAtTheHighHalf : Obligations.SixtyFourBitPairsApplyAtTheHighHalf := by
  refine ⟨fun val s hup => ⟨?_, ?_, fun off => rfl⟩, ?_, fun e hi s hup he => ?_⟩
  · exact (exec_reg64LoWrite_up val (by decide) hup).trans (congrArg _ (s.writeReg_jrnlLo val))
  · exact (exec_reg64LoWrite_up val (by decide) hup).trans (congrArg _ (s.writeReg_mboxLo val))
  · intro hi s hup lo v s1
    refine ⟨fun hlo hhi => ⟨?_, ?_⟩, fun hout => ?_⟩
    · exact congrArg Host.Outcome.next (if_neg (not_or.mpr ⟨Nat.not_lt.mpr hlo, Nat.not_lt.mpr hhi⟩))
    · exact (exec_reg64HiWrite_up hi (by decide) hup).trans (congrArg _ (s.writeReg_jrnlHi hi))
    · exact congrArg Host.Outcome.next (if_pos hout)
  · have h4 : Reg.TIME_PTP_w4 e % 4 = 0 := by simp only [Reg.TIME_PTP_w4]; omega
    refine ⟨_, (exec_reg64HiWrite_up hi h4 hup).trans (congrArg _ (s.writeReg_masterHi hi he)), s.masterWrite_rwW e hi⟩

end Sys2Proof.Machine
end

section
/-! Reads of selected entries, narrow accesses and accesses of eight bytes (R4, R212, R258, R309, R372). -/
namespace Sys2Proof.Machine

/-- A register whose fields are read-only, in the bits of `m`, outside the port block. -/
def onlyRo (off : Nat) (m : Word) : Bool :=
  regMask off .rw ||| regMask off .w1c == 0 && regMask off .rws == 0 && regMask off .rwl == 0 && regMask off .ro == m &&
    !isInc off && !decide (0x200000 ≤ off ∧ off < 0x20C000)

theorem State.noPort_eq_false (s : State) {off : Nat} (h : ¬(0x200000 ≤ off ∧ off < 0x20C000)) : s.noPort off = false := by
  have hin : (decide (0x200000 ≤ off) && decide (off < 0x20C000)) = false := by rw [← Bool.decide_and, decide_eq_false h]
  simp only [State.noPort, hin, Bool.false_and]
  split <;> rfl

/-- Such a register reads its computed fields. -/
theorem State.regNow_onlyRo (s : State) {off : Nat} {m : Word} (h : onlyRo off m = true) : s.regNow off = s.roWord off &&& m := by
  simp only [onlyRo, Bool.and_eq_true, beq_iff_eq, Bool.not_eq_true', decide_eq_false_iff_not] at h
  obtain ⟨⟨⟨⟨⟨hrw, hrws⟩, hrwl⟩, hro⟩, hinc⟩, hport⟩ := h
  simp only [State.regNow, s.noPort_eq_false hport, hinc, hrw, hrws, hrwl, hro, Bool.false_eq_true, if_false]
  simp

theorem onlyRo_seqInfo {d : Nat} (hd : d < 4) :
    onlyRo (Reg.SEQ_INFO0 d) 0xFFFFFFFF = true ∧ onlyRo (Reg.SEQ_INFO1 d) 0xFFFFFFFF = true ∧ isLatched (Reg.SEQ_INFO0 d) = false := by
  obtain rfl | rfl | rfl | rfl : d = 0 ∨ d = 1 ∨ d = 2 ∨ d = 3 := by omega
  all_goals decide

theorem onlyRo_selected : onlyRo Reg.CONV_INFO0 0xFFFFFFFF = true ∧ onlyRo Reg.RPR_MAPENT_LO 0xFFFFFFFF = true ∧
    onlyRo Reg.RPR_MAPENT_HI 0xFFFFFFFF = true ∧ onlyRo Reg.TIME_NOW_SEC_LO 0xFFFFFFFF = true ∧
    onlyRo Reg.TIME_NOW_NS 0x3FFFFFFF = true := by decide

theorem notLatched_selected : isLatched Reg.CONV_INFO0 = false ∧ isLatched Reg.RPR_MAPENT_LO = false ∧
    isLatched Reg.TIME_NOW_SEC_LO = false := by decide


theorem and_allOnes_word (w : Word) : w &&& 0xFFFFFFFF = w := BitVec.and_allOnes (w := 32)

/-- What the selected entries read. -/
theorem State.regNow_seqInfo (s : State) {d : Nat} {x : Ctx} (hd : d < 4)
    (hx : Tbl.find s.ctxs (d * 4096 + s.rw (Reg.SEQ_SEL d) 11 0) = some x) :
    s.regNow (Reg.SEQ_INFO0 d) = BitVec.ofNat 32 x.p ∧ s.regNow (Reg.SEQ_INFO1 d) = BitVec.ofNat 32 x.rb := by
  have hword : ∀ w, w < 4 → s.roWord (Reg.SEQ_INFO0 d + 4 * w) = s.seqInfo d w := by
    intro w hw
    have hoff : Reg.SEQ_INFO0 d + 4 * w = 0x1002034 + d * 0x800000 + 4 * w := rfl
    have hdie : (0x1002034 + d * 0x800000 + 4 * w - 0x1000000) / 0x800000 = d := by omega
    have hin : (0x1002034 + d * 0x800000 + 4 * w) % 0x800000 = 0x2034 + 4 * w := by omega
    have hix : idxOf (0x2034 + 4 * w) 0x2034 4 4 = some w := idxOf_eq_some (by omega) (by decide) hw
    have hnone : ∀ base stride n, base + stride * n ≤ 0x2034 → 0 < stride → idxOf (0x2034 + 4 * w) base stride n = none := by
      intro base stride n hle hs
      refine idxOf_eq_none.mpr fun ⟨_, _, hlt⟩ => ?_
      have := (Nat.div_lt_iff_lt_mul hs).mp hlt
      have := Nat.mul_comm n stride
      omega
    have hblock : s.roWord (0x1002034 + d * 0x800000 + 4 * w) =
        s.roDie d (0x1002034 + d * 0x800000 + 4 * w) (0x2034 + 4 * w) := by
      rw [State.roWord, if_neg (by omega), if_neg (by omega), if_neg (by omega), if_neg (by omega), if_neg (by omega),
        if_pos (by omega), hdie, hin]
    rw [hoff, hblock, State.roDie, if_neg (by simp only [Reg.FRST_STRM_LO, Reg.FRST_STRM_HI]; omega),
      if_neg (by simp only [Reg.SEQ_CTXUSE]; omega), if_neg (by simp only [Reg.MEM_SSTAT]; omega),
      if_neg (by simp only [Reg.MEM_POOL]; omega), if_neg (by simp only [Reg.MEM_UELOG_LO]; omega),
      if_neg (by simp only [Reg.MEM_UELOG_HI]; omega), hnone 0x100 4 16 (by decide) (by decide),
      hnone 0x140 4 16 (by decide) (by decide), hnone 0x180 4 8 (by decide) (by decide), hnone 0x1200 4 72 (by decide) (by decide),
      hnone 0x1400 4 72 (by decide) (by decide), hnone 0x1600 4 144 (by decide) (by decide), hix]
  obtain ⟨h0, h1, -⟩ := onlyRo_seqInfo hd
  have hinfo0 : s.seqInfo d 0 = BitVec.ofNat 32 x.p := by simp only [State.seqInfo, hx]; rfl
  have hinfo1 : s.seqInfo d 1 = BitVec.ofNat 32 x.rb := by simp only [State.seqInfo, hx]; rfl
  have hnow0 : s.roWord (Reg.SEQ_INFO0 d) = s.seqInfo d 0 := by
    rw [← hword 0 (by omega), Nat.mul_zero, Nat.add_zero]
  have hnow1 : s.roWord (Reg.SEQ_INFO1 d) = s.seqInfo d 1 := by
    rw [← hword 1 (by omega)]
    congr 1
    simp only [Reg.SEQ_INFO0, Reg.SEQ_INFO1]; omega
  rw [s.regNow_onlyRo h0, s.regNow_onlyRo h1, and_allOnes_word, and_allOnes_word, hnow0, hnow1, hinfo0, hinfo1]
  exact ⟨rfl, rfl⟩

theorem State.regNow_convInfo (s : State) :
    s.regNow Reg.CONV_INFO0 = BitVec.ofNat 32 (s.conv (s.rw Reg.CONV_SEL 16 0)).base := by
  rw [s.regNow_onlyRo onlyRo_selected.1, and_allOnes_word]
  simp [State.roWord, State.roPath, Reg.CONV_INFO0, Reg.PRS_STAT, Reg.CONV_STAT_OPEN, Reg.CONV_STAT_CACHE, Reg.CONV_STAT_SLOTS,
    State.convSel, wd]

theorem State.regNow_mapEnt (s : State) : s.regNow Reg.RPR_MAPENT_LO = BitVec.ofNat 32 (leAt s.mapEntBytes 0 4) ∧
    s.regNow Reg.RPR_MAPENT_HI = BitVec.ofNat 32 (leAt s.mapEntBytes 4 4) := by
  rw [s.regNow_onlyRo onlyRo_selected.2.1, s.regNow_onlyRo onlyRo_selected.2.2.1, and_allOnes_word, and_allOnes_word]
  simp [State.roWord, State.roMgmt, Reg.RPR_MAPENT_LO, Reg.RPR_MAPENT_HI, Reg.JRNL_HEAD_LO, Reg.JRNL_HEAD_HI, Reg.JRNL_STAT,
    Reg.RPR_CRUISE, Reg.RPR_STAT, Reg.RPR_CMDSTAT, Reg.RPR_MAPSTAT, wd]

theorem State.regNow_timeNow (s : State) : s.regNow Reg.TIME_NOW_SEC_LO = BitVec.ofNat 32 (secOf s.now) ∧
    s.regNow Reg.TIME_NOW_NS = BitVec.ofNat 32 (nsOf s.now) := by
  have hns : BitVec.ofNat 32 (nsOf s.now) &&& (0x3FFFFFFF : Word) = BitVec.ofNat 32 (nsOf s.now) := by
    have hlt : nsOf s.now < 2 ^ 30 := Nat.lt_trans (Nat.mod_lt _ (by decide)) (by decide)
    refine BitVec.eq_of_toNat_eq ?_
    have hmod : nsOf s.now % 2 ^ 32 = nsOf s.now := Nat.mod_eq_of_lt (by omega)
    rw [BitVec.toNat_and, BitVec.toNat_ofNat, hmod]
    exact Nat.and_two_pow_sub_one_of_lt_two_pow hlt
  rw [s.regNow_onlyRo onlyRo_selected.2.2.2.1, s.regNow_onlyRo onlyRo_selected.2.2.2.2, and_allOnes_word]
  have hsec : s.roWord Reg.TIME_NOW_SEC_LO = BitVec.ofNat 32 (secOf s.now) := by
    simp [State.roWord, State.roTime, Reg.TIME_NOW_SEC_LO, Reg.TIME_GEN, Reg.TIME_RAW_LO, Reg.TIME_RAW_HI, wd]
  have hnsW : s.roWord Reg.TIME_NOW_NS = BitVec.ofNat 32 (nsOf s.now) := by
    simp [State.roWord, State.roTime, Reg.TIME_NOW_NS, Reg.TIME_NOW_SEC_LO, Reg.TIME_NOW_SEC_HI, Reg.TIME_GEN, Reg.TIME_RAW_LO,
      Reg.TIME_RAW_HI, wd]
  rw [hsec, hnsW, hns]
  exact ⟨rfl, rfl⟩

/-- The mask of a narrow access within one register has the bits of the addressed bytes (R4). -/
theorem byteMask_getLsbD {off size i : Nat} (h0 : 0 < size) (h4 : size < 4) (h : off % 4 + size ≤ 4) (hi : i < 32) :
    (byteMask off size (off / 4 * 4)).getLsbD i = decide (off % 4 ≤ i / 8 ∧ i / 8 < off % 4 + size) := by
  have hshift : byteMask off size (off / 4 * 4) = byteMask (off % 4) size 0 := by
    unfold byteMask
    congr 2
    funext j
    have hiff : (off ≤ off / 4 * 4 + j ∧ off / 4 * 4 + j < off + size) ↔ (off % 4 ≤ 0 + j ∧ 0 + j < off % 4 + size) := by omega
    simp only [hiff]
  rw [hshift]
  generalize off % 4 = r at h ⊢
  have hall : ∀ r < 4, ∀ size < 4, ∀ i < 32,
      (byteMask r size 0).getLsbD i = decide (r ≤ i / 8 ∧ i / 8 < r + size) := by decide
  exact hall r (by omega) size h4 i hi

/-- A narrow read within one register answers its addressed bytes and nothing else (R4). -/
theorem State.readReg_narrow (s : State) {off size : Nat} (h0 : 0 < size) (h4 : size < 4) (h : off % 4 + size ≤ 4)
    (hbar : off < 0x3000000) (hmsix : ¬(0x80000 ≤ off ∧ off < 0x88000)) (hsweep : s.sweepAt (off / 4 * 4) = false) :
    s.readReg off size =
      { s with out := s.out ++ [.read (off / 4 * 4) (s.regPeek (off / 4 * 4) &&& byteMask off size (off / 4 * 4))] } := by
  have hbar2 : ¬(bar2Off ≤ off) := by unfold bar2Off; omega
  have hpart : wholeReg off size (off / 4 * 4) = false := by
    simp only [wholeReg, Bool.and_eq_false_iff, decide_eq_false_iff_not]; omega
  have hpeek : s.peekWord (off / 4 * 4) = (some (s.regPeek (off / 4 * 4)), s) := by
    rw [State.peekWord, if_neg (by omega), if_neg (by omega)]
    simp [State.peekReg, hsweep]
  rw [State.readReg, if_neg hbar2, touched_within h0 h]
  simp only [List.foldl_cons, List.foldl_nil, hpart, Bool.false_eq_true, if_false, State.readNarrow, hpeek]
  rfl

/-- A selected entry's read answers its low word and keeps the word above it. -/
theorem State.overPcie_readReg_quiet {s : State} {off : Nat} (hup : s.pcieUp = true) (h4 : off % 4 = 0) (hq : readsQuietly off)
    (hl : isLatched off = false) : s.overPcie (·.readReg off 4) =
      { s with regs := { s.regs with latch := s.latchedBy off }, out := s.out ++ [.read off (s.regNow off)] } := by
  have hbar2 : off < bar2Off := Nat.lt_of_lt_of_le hq.1 (by decide)
  have hpeek : s.regPeek off = s.regNow off := by rw [State.regPeek, if_neg (Bool.eq_false_iff.mp hl)]
  rw [State.overPcie_up hup, State.readReg_four s h4 hbar2, State.readFull_quiet s hq, State.readLatch_eq, hpeek]

/-- A write of eight bytes writes its two registers in ascending order (R4). -/
theorem State.writeBytes_eight (s : State) {off : Nat} (val : BitVec 64) (h4 : off % 4 = 0) (hbar : off + 8 ≤ 0x4000000) :
    s.writeBytes off 8 val 1 = (s.writeReg off (val.setWidth 32) 1).writeReg (off + 4) ((val >>> 32).setWidth 32) 1 := by
  have hbar2 : ¬(bar2Off ≤ off) := by unfold bar2Off; omega
  have hlo : wholeReg off 8 off = true := by simp [wholeReg]
  have hhi : wholeReg off 8 (off + 4) = true := by simp [wholeReg]
  rw [State.writeBytes, if_neg hbar2, touched_eight h4]
  simp [hlo, hhi]

/-- Settles O13, clause by clause: discarded writes, accesses before the link is up, reads of selected entries, narrow reads, and
full accesses. -/
theorem narrowWritesAreDiscardedAndSelectedEntriesRead : Obligations.NarrowWritesAreDiscardedAndSelectedEntriesRead := by
  have hdown : ∀ (s : State) (f : State → State), s.pcieUp = false →
      (Host.Outcome.next (s.overPcie f) : Host.Outcome State Fault Refusal) = .next s :=
    fun s f h => congrArg _ (State.overPcie_down h f)
  refine ⟨fun off size val s hsize h4 hbar => ?_, fun off val s h4 => ⟨?_, ?_, ?_⟩, fun s a off size val hup => ⟨?_, ?_⟩,
    fun s hup => ⟨fun d x hd hx => ?_, ?_, fun e he => ?_, ?_, fun off size h0 h4 h hbar hmsix hsweep => ?_, fun off => ⟨?_, ?_⟩,
      fun off val h4 hbar => ⟨?_, ?_⟩, fun off val h4 hbar => ?_⟩⟩
  · cases hup : s.pcieUp
    · exact hdown s _ hup
    · exact congrArg Host.Outcome.next ((State.overPcie_up hup _).trans (s.writeBytes_narrow val 1 hsize h4 hbar))
  · exact congrArg Host.Outcome.next (if_neg h4)
  · exact congrArg Host.Outcome.next (if_neg h4)
  · exact congrArg Host.Outcome.next (if_neg h4)
  · exact hdown s _ hup
  · exact hdown s _ hup
  · obtain ⟨hlo, hhi⟩ := s.regNow_seqInfo hd hx
    have hmem : Reg.SEQ_INFO1 d ∈ latchesOf (Reg.SEQ_INFO0 d) := by
      obtain rfl | rfl | rfl | rfl : d = 0 ∨ d = 1 ∨ d = 2 ∨ d = 3 := by omega
      all_goals decide
    have h4 : Reg.SEQ_INFO0 d % 4 = 0 := by simp only [Reg.SEQ_INFO0]; omega
    exact ⟨_, congrArg Host.Outcome.next ((if_pos hd).trans
      (State.overPcie_readReg_quiet hup h4 (latchesOf_spec hmem).2.1 (onlyRo_seqInfo hd).2.2)), by rw [hlo],
      (s.latchedBy_getD hmem).trans hhi⟩
  · have hmem : Reg.CONV_INFO1 ∈ latchesOf Reg.CONV_INFO0 := by decide
    exact ⟨_, congrArg Host.Outcome.next (State.overPcie_readReg_quiet hup (by decide) (latchesOf_spec hmem).2.1
      notLatched_selected.1), by rw [s.regNow_convInfo], s.latchedBy_getD hmem⟩
  · obtain ⟨hlo, hhi⟩ := s.regNow_mapEnt
    have hbytes : s.mapEntBytes = e.bytes := by simp only [State.mapEntBytes, he]
    have hmem : Reg.RPR_MAPENT_HI ∈ latchesOf Reg.RPR_MAPENT_LO := by decide
    exact ⟨_, congrArg Host.Outcome.next (State.overPcie_readReg_quiet hup (by decide) (latchesOf_spec hmem).2.1
      notLatched_selected.2.1), by rw [hlo, hbytes], (s.latchedBy_getD hmem).trans (by rw [hhi, hbytes])⟩
  · obtain ⟨hlo, hhi⟩ := s.regNow_timeNow
    have hmem : Reg.TIME_NOW_NS ∈ latchesOf Reg.TIME_NOW_SEC_LO := by decide
    exact ⟨_, congrArg Host.Outcome.next (State.overPcie_readReg_quiet hup (by decide) (latchesOf_spec hmem).2.1
      notLatched_selected.2.2), by rw [hlo], (s.latchedBy_getD hmem).trans hhi⟩
  · refine ⟨_, congrArg Host.Outcome.next ((State.overPcie_up hup _).trans
      (s.readReg_narrow h0 h4 h hbar hmsix hsweep)), fun i hi => ?_⟩
    rw [BitVec.getLsbD_and, byteMask_getLsbD h0 h4 h hi, Bool.and_comm]
  · exact congrArg Host.Outcome.next (State.overPcie_up hup _)
  · rfl
  · have hval : (val.setWidth 64).setWidth 32 = val := by simp
    refine congrArg Host.Outcome.next ((State.overPcie_up hup _).trans ?_)
    show s.writeBytes off 4 (val.setWidth 64) 1 = _
    rw [s.writeBytes_four _ 1 h4 hbar, hval]
  · exact congrArg Host.Outcome.next (if_pos h4)
  · exact congrArg Host.Outcome.next ((State.overPcie_up hup _).trans (s.writeBytes_eight val h4 hbar))

end Sys2Proof.Machine
end

section
/-! Staged configuration: GO, validation, and the boundary of a commit (R22, R386). -/
namespace Sys2Proof.Machine

/-- Validation of a frozen set that is due for it. -/
theorem State.commitValidated_of {s : State} {c : Tbl Word} (hf : s.regs.frozen = some c) (hb : s.mgmt.commit.busy = true)
    (hv : s.mgmt.commit.valid = false) (hm : s.moving = false) : s.commitValidated =
      if (s.validateSet c s.mgmt.commit.origin false).1 = 0 then { s with mgmt.commit := { s.mgmt.commit with valid := true } }
      else (s.reject (s.validateSet c s.mgmt.commit.origin false).1 (s.validateSet c s.mgmt.commit.origin false).2).post 0 1
        [((s.validateSet c s.mgmt.commit.origin false).1, 8), ((s.validateSet c s.mgmt.commit.origin false).2, 32)] := by
  simp only [State.commitValidated, hf, hb, hv, hm, Bool.not_true, Bool.false_eq_true, or_self, if_false]

/-- A rejected commit ends, keeps its reason and offset, and applies nothing (R386). -/
theorem State.reject_spec (s : State) (r off : Nat) :
    (s.reject r off).regs.cfg = s.regs.cfg ∧ (s.reject r off).mgmt.commit.busy = false ∧
      (s.reject r off).mgmt.commit.reason = r ∧ (s.reject r off).mgmt.commit.offset = off ∧
      (s.reject r off).regs.frozen = none := by
  unfold State.reject
  refine ⟨?_, rfl, rfl, rfl, rfl⟩
  dsimp only
  split <;> rfl

/-- A validated commit that is due applies as a whole and posts COMMIT_DONE. -/
theorem State.commitApply_of {s : State} {c : Tbl Word} (hf : s.regs.frozen = some c) (hv : s.mgmt.commit.valid = true)
    (hd : s.mgmt.commit.due = true) : s.commitApply = (State.applySet { s with
      regs.frozen := none
      mgmt.commit := { s.mgmt.commit with busy := false, valid := false, due := false, reason := 0, offset := 0 } }
        c s.mgmt.commit.origin true).post 0 0 [] := by
  simp only [State.commitApply, hf, hv, hd, Bool.not_true, Bool.or_self, Bool.false_eq_true, if_false]

/-- Settles O14, from GO to the boundary. -/
theorem commitIsStagedAndAtomic : Obligations.CommitIsStagedAndAtomic := by
  refine ⟨fun s h => ?_, fun s h => ?_, fun s c hf hb hv hm => ⟨fun hok => ?_, fun r off hr hr0 => ?_⟩, fun s c hf hv hd => ?_⟩
  · exact congrArg Host.Outcome.next (if_neg (Bool.eq_false_iff.mp h))
  · exact congrArg Host.Outcome.next (if_pos h)
  · exact congrArg Host.Outcome.next ((State.commitValidated_of hf hb hv hm).trans (if_pos hok))
  · refine ⟨congrArg Host.Outcome.next ?_, s.reject_spec r off⟩
    rw [State.commitValidated_of hf hb hv hm, hr, if_neg hr0]
  · refine congrArg Host.Outcome.next ((if_pos hd).trans ?_)
    rw [State.commitApply_of hf hv hd]

end Sys2Proof.Machine
end

section
/-! Device time: increments, steps, pulses and captures (R287 to R303). -/
namespace Sys2Proof.Machine

/-! ## What a journal entry leaves of the time -/

theorem State.dramWrite_time (s : State) (a : Nat) (b : Byte) : (s.dramWrite a b).time = s.time := by
  unfold State.dramWrite
  split
  · rfl
  · dsimp only; split <;> rfl

theorem State.healWord_time (s : State) (a : Nat) : (s.healWord a).time = s.time := by
  unfold State.healWord
  split
  · rfl
  · dsimp only; split <;> rfl

theorem State.devWrite_time (s : State) (a : Nat) (l : List Byte) : (s.devWrite a l).time = s.time := by
  induction l generalizing s a with
  | nil => rfl
  | cons b t ih =>
    rw [State.devWrite, ih, State.dramWrite_time]
    split
    · exact s.healWord_time a
    · rfl

theorem State.drainJrnl_time (s : State) (fuel : Nat) : (s.drainJrnl fuel).time = s.time := by
  induction fuel generalizing s with
  | zero => rfl
  | succ fuel ih =>
    rw [State.drainJrnl]
    split
    · rfl
    · split
      · rfl
      · rw [ih]; exact State.devWrite_time _ _ _

theorem State.refillJrnl_time (s : State) (fuel : Nat) : (s.refillJrnl fuel).time = s.time := by
  induction fuel generalizing s with
  | zero => rfl
  | succ fuel ih =>
    unfold State.refillJrnl
    split
    · rfl
    · split
      · rw [ih]
      · rfl

/-- The events of the journal's levels, and the levels, leave the time as it is. -/
theorem State.levels_time (s : State) (low full : Bool) (k : Nat) (b c : Bool) :
    (let s1 := if b then s.post 7 0 [] else s
     let s2 := if c then s1.post 7 1 [] else s1
     { s2 with mgmt.jr.low := low, mgmt.jr.full := full,
               mgmt.jr.ondie := Tbl.keep s2.mgmt.jr.ondie (fun j _ => decide (k ≤ j)) }).time = s.time := by
  extract_lets s1 s2
  have h1 : s1.time = s.time := by simp only [s1]; split <;> simp
  have h2 : s2.time = s1.time := by simp only [s2]; split <;> simp
  exact h2.trans h1

theorem State.jrnlLevels_time (s : State) : s.jrnlLevels.time = s.time := s.levels_time ..

theorem State.settleJrnl_time (s : State) : s.settleJrnl.time = s.time := by
  rw [State.settleJrnl, State.jrnlLevels_time, State.drainJrnl_time, State.refillJrnl_time, State.drainJrnl_time]

theorem State.makeRoom_time (s : State) : s.makeRoom.time = s.time := by
  unfold State.makeRoom; split <;> rfl

/-- A journal entry leaves the time as it is. -/
theorem State.journal_time (s : State) (kind sub target : Nat) (value : Option (List Byte)) (origin : Nat) :
    (s.journal kind sub target value origin).time = s.time := by
  unfold State.journal
  dsimp only
  split <;> rw [State.settleJrnl_time] <;> exact s.makeRoom_time

/-! ## The base pair (R288) -/

/-- Two time states with one clock: everything that device time is computed from, and the generation. -/
structure SameClock (t u : TimeSt) : Prop where
  raw : u.raw = t.raw
  baseRaw : u.baseRaw = t.baseRaw
  baseSec : u.baseSec = t.baseSec
  baseNs : u.baseNs = t.baseNs
  baseFrac : u.baseFrac = t.baseFrac
  inc : u.inc = t.inc
  gen : u.gen = t.gen

theorem SameClock.refl (t : TimeSt) : SameClock t t := ⟨rfl, rfl, rfl, rfl, rfl, rfl, rfl⟩

theorem SameClock.trans {t u v : TimeSt} (h : SameClock t u) (k : SameClock u v) : SameClock t v :=
  ⟨k.raw.trans h.raw, k.baseRaw.trans h.baseRaw, k.baseSec.trans h.baseSec, k.baseNs.trans h.baseNs, k.baseFrac.trans h.baseFrac,
    k.inc.trans h.inc, k.gen.trans h.gen⟩

theorem SameClock.of_eq {t u : TimeSt} (h : u = t) : SameClock t u := h ▸ SameClock.refl t

/-- One clock gives one device time. -/
theorem SameClock.now {s t : State} (h : SameClock s.time t.time) : t.now = s.now := by
  simp only [State.now, TimeSt.total, h.raw, h.baseRaw, h.baseSec, h.baseNs, h.baseFrac, h.inc]

/-- No raw counts lie between a count and itself. -/
theorem rawSince_self (r : Nat) : rawSince r r = 0 := by unfold rawSince; omega

/-- At the raw count of its base pair, device time is the base, whatever the increment. -/
theorem State.now_of_base {s : State} {x : Nat} (hraw : s.time.baseRaw = s.time.raw) (hsec : s.time.baseSec = secOf x % 2 ^ 64)
    (hns : s.time.baseNs = nsOf x) (hfrac : s.time.baseFrac = fracOf x) : s.now = x % timeMod := by
  simp only [State.now, TimeSt.total, hraw, hsec, hns, hfrac, rawSince_self, secOf, nsOf, fracOf, timeMod]
  omega

theorem State.now_lt (s : State) : s.now < timeMod := Nat.mod_lt _ (by decide)

/-- An increment that waits applies with device time, raw counter and generation as they are (R287). -/
theorem State.applyInc_of {s : State} {inc origin : Nat} (h : s.time.pendInc = some (inc, origin)) :
    s.applyInc.now = s.now ∧ s.applyInc.time.inc = inc ∧ s.applyInc.time.raw = s.time.raw ∧ s.applyInc.time.gen = s.time.gen := by
  have htime : s.applyInc.time = { (s.rebase s.now).time with inc := inc, pendInc := none } := by
    unfold State.applyInc
    rw [h]
    exact State.journal_time ..
  refine ⟨?_, by rw [htime], by rw [htime]; rfl, by rw [htime]; rfl⟩
  rw [State.now_of_base (s := s.applyInc) (x := s.now) (by rw [htime]; rfl) (by rw [htime]; rfl) (by rw [htime]; rfl)
    (by rw [htime]; rfl), Nat.mod_eq_of_lt s.now_lt]

/-! ## Pulses (R301) -/

theorem State.drive_time (s : State) (i : Nat) (level : Bool) : (s.drive i level).time = s.time := by
  unfold State.drive; split <;> rfl

/-- What leaves the device with a level, and nothing else. -/
theorem State.drive_eq (s : State) (i : Nat) (level : Bool) :
    s.drive i level = { s with out := s.out ++ (if 2 ≤ s.mgmt.stage then [.pulse i level] else []) } := by
  unfold State.drive
  split
  · rfl
  · simp

/-- Firing changes nothing of the time but its pulse outputs. -/
theorem State.fire_time (s : State) (i next : Nat) (late : Bool) :
    SameClock s.time (s.fire i next late).time := by
  unfold State.fire
  dsimp only
  split
  · rw [State.post_time, State.putRw_time, State.drive_time]
    exact ⟨rfl, rfl, rfl, rfl, rfl, rfl, rfl⟩
  · rw [State.drive_time]
    exact ⟨rfl, rfl, rfl, rfl, rfl, rfl, rfl⟩

theorem State.stepPulse_time (s : State) (i : Nat) : SameClock s.time (s.stepPulse i).time := by
  unfold State.stepPulse
  extract_lets x n off
  clear_value n x
  split
  · exact SameClock.refl _
  · split
    · exact s.fire_time i 0 true
    · exact (SameClock.of_eq (s.putRw_time _ _ _ _)).trans (State.fire_time _ i n true)

theorem State.stepPulses_time (l : List Nat) (s : State) :
    SameClock s.time (l.foldl (fun s i => s.stepPulse i) s).time := by
  induction l generalizing s with
  | nil => exact SameClock.refl _
  | cons i l ih => exact (s.stepPulse_time i).trans (ih _)

/-- The base pair and generation that a step leaves: those of the new time. -/
theorem State.applyStep_of {s : State} {back : Bool} {sec ns origin : Nat} (h : s.time.pendStep = some (back, sec, ns, origin))
    (hm : (sec * 1000000000 + ns) * 2 ^ 32 ≠ 0) :
    s.applyStep.now = (if back then s.now - (sec * 1000000000 + ns) * 2 ^ 32 else s.now + (sec * 1000000000 + ns) * 2 ^ 32) % timeMod ∧
      s.applyStep.time.gen = if back then (s.time.gen + 1) % 65536 else s.time.gen := by
  have hclock : ∃ t : TimeSt, SameClock t s.applyStep.time ∧ t.baseRaw = t.raw ∧
      (∀ x, x = (if back then s.now - (sec * 1000000000 + ns) * 2 ^ 32 else s.now + (sec * 1000000000 + ns) * 2 ^ 32) →
        t.baseSec = secOf x % 2 ^ 64 ∧ t.baseNs = nsOf x ∧ t.baseFrac = fracOf x) ∧
      t.gen = if back then (s.time.gen + 1) % 65536 else s.time.gen := by
    unfold State.applyStep
    rw [h]
    dsimp only
    rw [if_neg hm, State.post_time, State.journal_time]
    cases back
    · refine ⟨_, State.stepPulses_time _ _, rfl, fun x hx => ?_, rfl⟩
      subst hx
      exact ⟨rfl, rfl, rfl⟩
    · refine ⟨_, SameClock.refl _, rfl, fun x hx => ?_, rfl⟩
      subst hx
      exact ⟨rfl, rfl, rfl⟩
  obtain ⟨t, hsame, hraw, hbase, hgen⟩ := hclock
  obtain ⟨hsec, hns, hfrac⟩ := hbase _ rfl
  refine ⟨?_, hsame.gen.trans hgen⟩
  exact State.now_of_base (hsame.baseRaw.trans (hraw.trans hsame.raw.symm)) (hsame.baseSec.trans hsec) (hsame.baseNs.trans hns)
    (hsame.baseFrac.trans hfrac)

/-- A step of no magnitude changes nothing. -/
theorem State.applyStep_zero {s : State} {back : Bool} {sec ns origin : Nat} (h : s.time.pendStep = some (back, sec, ns, origin))
    (hm : (sec * 1000000000 + ns) * 2 ^ 32 = 0) : s.applyStep = { s with time.pendStep := none } := by
  unfold State.applyStep
  rw [h]
  exact if_pos hm

/-- The magnitude of a step moves device time by itself. -/
theorem State.applyStep_spec {s : State} {back : Bool} {sec ns origin : Nat} (h : s.time.pendStep = some (back, sec, ns, origin)) :
    let m := (sec * 1000000000 + ns) * 2 ^ 32
    (m ≠ 0 → back = false → s.applyStep.now = (s.now + m) % timeMod ∧ s.applyStep.time.gen = s.time.gen) ∧
    (m ≠ 0 → back = true → s.applyStep.now = s.now - m ∧ s.applyStep.time.gen = (s.time.gen + 1) % 65536) ∧
    (m = 0 → s.applyStep = { s with time.pendStep := none }) := by
  refine ⟨fun hm hb => ?_, fun hm hb => ?_, fun hm => State.applyStep_zero h hm⟩
  · obtain ⟨hnow, hgen⟩ := State.applyStep_of h hm
    rw [hb] at hnow hgen
    rw [if_neg Bool.false_ne_true] at hnow hgen
    exact ⟨hnow, hgen⟩
  · obtain ⟨hnow, hgen⟩ := State.applyStep_of h hm
    rw [hb] at hnow hgen
    rw [if_pos rfl] at hnow hgen
    exact ⟨hnow.trans (Nat.mod_eq_of_lt (Nat.lt_of_le_of_lt (Nat.sub_le _ _) s.now_lt)), hgen⟩

/-! ## Pulses that are armed, fire and end (R301) -/

/-- A command that waits behind those of its boundary, and one that acts at once. -/
theorem State.act_tpo_waits {s : State} {i : Nat} {val : Word} (h : s.commitBoundary.mgmt.acts ≠ []) :
    s.act (.tpo i val) = s.commitBoundary.queueAct (.tpo i val) := by
  simp only [State.act, MgmtAct.isRpr, Bool.false_and, Bool.false_eq_true, if_false, h]

theorem State.act_tpo_now {s : State} {i : Nat} {val : Word} (h : s.commitBoundary.mgmt.acts = []) :
    s.act (.tpo i val) = s.commitBoundary.tpoArm i val := by
  simp only [State.act, MgmtAct.isRpr, Bool.false_and, Bool.false_eq_true, if_false, h, if_true, State.actNow, MgmtAct.journaled,
    Bool.and_false, State.runAct]

/-- The state in which an output is armed: its control written, a pulse that stands ended. -/
def State.tpoReady (s : State) (i : Nat) (val : Word) : State :=
  (s.setRw (Reg.TIME_TPO_w0 i) (val &&& regMask (Reg.TIME_TPO_w0 i) .rw)).quietPulse i

/-- The output that a write of its control arms, but for the edge it starts at. -/
def State.tpoOf (s : State) (i : Nat) (val : Word) : Tpo :=
  { armed := true, ns := s.rw (Reg.TIME_TPO_w3 i) 29 0, sixteenth := fld val 3 0, width := (s.rwW (Reg.TIME_TPO_w5 i)).toNat
    pol := bitAt val 29
    sec := (s.rwW (Reg.TIME_TPO_w2 i)).toNat * 2 ^ 32 + (s.rwW (Reg.TIME_TPO_w1 i)).toNat
    period := if bitAt val 30 then (s.rwW (Reg.TIME_TPO_w4 i)).toNat * 16 + fld val 7 4 else 0, periodic := bitAt val 30 }

/-- An output takes its new state, and its pin the new level where the polarity changes. -/
def State.armTpo (s : State) (i : Nat) (x : Tpo) : State :=
  if x.pol = (s.tpo i).pol then s.setTpo i x else (s.setTpo i x).drive i x.pol

/-- An arming breaks a limit of R301. -/
abbrev State.tpoBad (s : State) (i : Nat) (val : Word) : Prop :=
  (s.rwW (Reg.TIME_TPO_w5 i)).toNat < 4 ∨ bitAt val 30 = true ∧
    ((s.rwW (Reg.TIME_TPO_w4 i)).toNat < 100 ∨ (s.rwW (Reg.TIME_TPO_w4 i)).toNat ≤ (s.rwW (Reg.TIME_TPO_w5 i)).toNat)

theorem State.tpoArm_idle {s : State} {i : Nat} {val : Word} (hi : i < 8) (hen : bitAt val 31 = false) :
    s.tpoArm i val = (s.tpoReady i val).setTpo i { (s.tpoReady i val).tpo i with armed := false } := by
  rw [State.tpoArm, if_neg (Nat.not_le.mpr hi), if_pos (by rw [hen]; rfl)]
  rfl

theorem State.tpoArm_refused {s : State} {i : Nat} {val : Word} (hi : i < 8) (hen : bitAt val 31 = true) (hbad : s.tpoBad i val) :
    s.tpoArm i val = ((s.tpoReady i val).setTpo i { (s.tpoReady i val).tpo i with armed := false }).count Reg.TIME_CNT_REFUSE := by
  rw [State.tpoArm, if_neg (Nat.not_le.mpr hi), if_neg (by rw [hen]; decide), if_pos hbad]
  rfl

theorem State.tpoArm_armed {s : State} {i : Nat} {val : Word} (hi : i < 8) (hen : bitAt val 31 = true) (hbad : ¬ s.tpoBad i val) :
    (s.now ≤ (s.tpoOf i val).begin → s.tpoArm i val = (s.tpoReady i val).armTpo i (s.tpoOf i val)) ∧
    ((s.tpoOf i val).begin < s.now → bitAt val 30 = false →
      s.tpoArm i val = ((s.tpoReady i val).armTpo i (s.tpoOf i val)).fire i 0 true) ∧
    ((s.tpoOf i val).begin < s.now → bitAt val 30 = true → s.tpoArm i val =
      (s.tpoReady i val).armTpo i { s.tpoOf i val with
        k := ceilDiv (s.now - (s.tpoOf i val).begin) ((s.tpoOf i val).period * 2 ^ 28) }) := by
  have harm : s.tpoArm i val =
      (let k := if bitAt val 30 ∧ (s.tpoOf i val).begin < s.now then
          ceilDiv (s.now - (s.tpoOf i val).begin) ((s.tpoOf i val).period * 2 ^ 28) else 0
       let s3 := (s.tpoReady i val).armTpo i { s.tpoOf i val with k := k }
       if !bitAt val 30 ∧ (s.tpoOf i val).begin < s.now then s3.fire i 0 true else s3) := by
    rw [State.tpoArm, if_neg (Nat.not_le.mpr hi), if_neg (by rw [hen]; decide), if_neg hbad]
    rfl
  rw [harm]
  refine ⟨fun hle => ?_, fun hlt hp => ?_, fun hlt hp => ?_⟩
  · simp only [Nat.not_lt.mpr hle, and_false, if_false]
    rfl
  · simp only [hp, hlt, Bool.not_false, Bool.false_eq_true, false_and, if_false, and_self, if_true]
    rfl
  · simp only [hp, hlt, Bool.not_true, Bool.false_eq_true, false_and, if_false, and_self, if_true]

/-- An edge in time fires: the output's state, its pin, and nothing else. -/
theorem State.fire_due (s : State) (i next : Nat) :
    s.fire i next false = { s with
      time.tpo := Tbl.put s.time.tpo i { s.tpo i with armed := (s.tpo i).periodic, k := next, active := true
                                                      trailAt := s.time.raw + (s.tpo i).width }
      out := s.out ++ (if 2 ≤ s.mgmt.stage then [.pulse i (!(s.tpo i).pol)] else []) } := by
  rw [State.fire]
  dsimp only
  rw [if_neg Bool.false_ne_true, State.drive_eq]
  rfl

/-- A pulse ends: the output's state, its pin, and nothing else. -/
theorem State.quietPulse_active {s : State} {i : Nat} (h : (s.tpo i).active = true) :
    s.quietPulse i = { s with
      time.tpo := Tbl.put s.time.tpo i { s.tpo i with active := false }
      out := s.out ++ (if 2 ≤ s.mgmt.stage then [.pulse i (s.tpo i).pol] else []) } := by
  rw [State.quietPulse]
  dsimp only
  rw [if_pos h, State.drive_eq]
  rfl

/-! ## Captures (R303) -/

/-- A selected edge of an enabled channel. -/
theorem State.captureEdge_selected {s : State} {c sub : Nat} (hc : c < 6) (hen : bitAt (s.rwW (Reg.TIME_CAP_w0 c)) 31 = true) :
    s.captureEdge c (c == 5 || !bitAt (s.rwW (Reg.TIME_CAP_w0 c)) 30) sub =
      if (match (s.cap c).last with | some l => decide (s.time.raw * 16 + sub < l + 256) | none => false) = true then
        s.putRw (Reg.TIME_CAP_w5 c) 31 31 1
      else if (s.cap c).count + 1 < (if c = 5 then max 1 (fld (s.rwW (Reg.TIME_CAP_w0 c)) 23 0) else 1) then
        s.setCap c { s.cap c with last := some (s.time.raw * 16 + sub), count := (s.cap c).count + 1 }
      else if 16 ≤ (s.cap c).held.length then
        (s.setCap c { s.cap c with last := some (s.time.raw * 16 + sub), count := 0 }).putRw (Reg.TIME_CAP_w5 c) 31 31 1
      else s.setCap c { s.cap c with last := some (s.time.raw * 16 + sub), count := 0
                                     held := (s.cap c).held ++ [s.stampAt s.time.raw sub 0] } := by
  have hsel : ¬(6 ≤ c ∨ (!bitAt (s.rwW (Reg.TIME_CAP_w0 c)) 31) = true ∨
      (c == 5 || !bitAt (s.rwW (Reg.TIME_CAP_w0 c)) 30) ≠ (c == 5 || !bitAt (s.rwW (Reg.TIME_CAP_w0 c)) 30)) := by
    rw [hen]
    simp only [Bool.not_true, Bool.false_eq_true, ne_eq, not_true_eq_false, or_false]
    omega
  rw [State.captureEdge, if_neg hsel] <;> rfl

/-- Settles O54: increments and steps, pulses, captures. -/
theorem deviceTimePulsesAndCaptures : Obligations.DeviceTimePulsesAndCaptures := by
  refine ⟨?_, fun s inc origin h => State.applyInc_of h, ?_, fun s back sec ns origin h => State.applyStep_spec h,
    fun s i val h => congrArg Host.Outcome.next (State.act_tpo_waits h), ?_, ?_, ?_⟩
  · intro s val inc
    refine ⟨fun hbad => congrArg Host.Outcome.next (if_pos hbad), fun hlo hhi => congrArg Host.Outcome.next (if_neg ?_)⟩
    exact not_or.mpr ⟨Nat.not_lt.mpr hlo, Nat.not_lt.mpr hhi⟩
  · intro s val hgo bad
    have hgo' : ¬((!bitAt val 31) = true) := by rw [hgo]; decide
    exact ⟨fun hbad => congrArg Host.Outcome.next ((if_neg hgo').trans (if_pos hbad)),
      fun hok => congrArg Host.Outcome.next ((if_neg hgo').trans (if_neg hok))⟩
  · intro s i val hi hacts u periodic p w s2
    have hexec : exec (.tpoArm i val) s = .next (u.tpoArm i val) := congrArg Host.Outcome.next (State.act_tpo_now hacts)
    refine ⟨fun hen => ?_, fun hen hbad => ?_, fun hen hw hp => ?_⟩
    · rw [hexec, State.tpoArm_idle hi hen]; rfl
    · rw [hexec, State.tpoArm_refused hi hen hbad]; rfl
    · have hok : ¬ u.tpoBad i val := by
        rintro (hlt | ⟨hper, hlt⟩)
        · exact Nat.not_lt.mpr hw hlt
        · obtain ⟨h100, hwp⟩ := hp hper
          exact hlt.elim (Nat.not_lt.mpr h100) (Nat.not_le.mpr hwp)
      rw [hexec]
      obtain ⟨htime, hsingle, htrain⟩ := State.tpoArm_armed hi hen hok
      exact ⟨fun h => congrArg _ (htime h), fun h hno => congrArg _ (hsingle h hno), fun h hper => congrArg _ (htrain h hper)⟩
  · intro s i
    refine ⟨?_, fun hact htrail => ?_⟩
    · intro u harmed hedge
      refine ⟨u.fire i ((u.tpo i).k + 1) false, congrArg Host.Outcome.next (if_pos ⟨harmed, hedge⟩), ?_⟩
      rw [State.fire_due]
      refine ⟨rfl, rfl, rfl, fun j hj => Tbl.getD_put_ne _ _ _ hj, ?_⟩
      simp [State.tpo]
    · refine ⟨s.quietPulse i, congrArg Host.Outcome.next (if_pos ⟨hact, htrail⟩), ?_⟩
      rw [State.quietPulse_active hact]
      refine ⟨rfl, rfl, rfl, fun j hj => Tbl.getD_put_ne _ _ _ hj, ?_⟩
      simp [State.tpo]
  · intro s c sub hc
    constructor
    · intro u w0 x t sel div early x0
      have hexec : ∀ hen : bitAt w0 31 = true, exec (.captureEdge c sel sub) s = .next _ :=
        fun hen => congrArg Host.Outcome.next (State.captureEdge_selected hc hen)
      have hearly : (match x.last with | some l => decide (t < l + 256) | none => false) = true ↔ early := by
        unfold early
        cases x.last <;> simp
      refine ⟨fun hen he => ?_, fun hen he => ⟨fun hcount => ?_, fun hcount hroom => ?_, fun hcount hfull => ?_⟩⟩
      · exact (hexec hen).trans (congrArg _ (if_pos (hearly.mpr he)))
      · exact (hexec hen).trans (congrArg _ ((if_neg (mt hearly.mp he)).trans (if_pos hcount)))
      · exact (hexec hen).trans (congrArg _ ((if_neg (mt hearly.mp he)).trans ((if_neg (Nat.not_lt.mpr hcount)).trans
          (if_neg (Nat.not_le.mpr hroom)))))
      · exact (hexec hen).trans (congrArg _ ((if_neg (mt hearly.mp he)).trans ((if_neg (Nat.not_lt.mpr hcount)).trans
          (if_pos hfull))))
    · intro x
      have hexec : exec (.captureRead c) s = .next _ := congrArg Host.Outcome.next (if_neg (Nat.not_le.mpr hc))
      refine ⟨_, hexec, ?_, rfl, rfl, fun j hj => Tbl.getD_put_ne _ _ _ hj, rfl, ?_⟩
      · exact congrArg Cap.held (Tbl.getD_put_self ..)
      · have hne : Reg.TIME_CAP_w3 c ≠ Reg.TIME_CAP_w4 c := by simp [Reg.TIME_CAP_w3, Reg.TIME_CAP_w4]
        exact (Tbl.find_put_ne _ _ hne).trans (Tbl.find_put_self ..)

end Sys2Proof.Machine
end

section
/-! Frames and heads: classification, head starts, verdicts that arrive (R35 to R37, R45, R58 to R66, R78). -/
namespace Sys2Proof.Machine

/-! ## What a transmission changes -/

/-- Only what transmission changes has changed: the ports, the replies that stand on them, and what has left the device. -/
def State.Sends (s t : State) : Prop := ∃ ep lp rp o, t = { s with eports := ep, lports := lp, replies := rp, out := o }

theorem State.Sends.refl (s : State) : s.Sends s := ⟨s.eports, s.lports, s.replies, s.out, rfl⟩

theorem State.Sends.trans {s t u : State} (h : s.Sends t) (k : t.Sends u) : s.Sends u := by
  obtain ⟨ep, lp, rp, o, rfl⟩ := h
  obtain ⟨ep', lp', rp', o', rfl⟩ := k
  exact ⟨ep', lp', rp', o', rfl⟩

theorem State.sends_setEp (s : State) (e : Nat) (p : EPort) : s.Sends (s.setEp e p) := ⟨_, s.lports, s.replies, s.out, rfl⟩
theorem State.sends_emit (s : State) (o : Out) : s.Sends (s.emit o) := ⟨s.eports, s.lports, s.replies, _, rfl⟩
theorem State.sends_occupy (s : State) (e n : Nat) : s.Sends (s.occupy e n) := s.sends_setEp e _

theorem State.sends_freeTx (s : State) (e : Nat) : s.Sends (s.freeTx e) := by
  unfold State.freeTx
  split
  · exact State.Sends.refl s
  · split
    · split
      · dsimp only
        split
        · exact ⟨_, s.lports, _, s.out, rfl⟩
        · exact s.sends_setEp e _
      · exact State.Sends.refl s
    · exact s.sends_setEp e _

theorem State.sends_putFrame (s : State) (e : Nat) (bytes : List Byte) (good : Bool) (left : Nat) :
    s.Sends (s.putFrame e bytes good left) :=
  (s.sends_freeTx e).trans ((State.sends_occupy _ e left).trans (State.sends_emit _ _))

theorem State.sends_flushPfc (s : State) (e : Nat) : s.Sends (s.flushPfc e) := by
  unfold State.flushPfc
  split
  · exact State.Sends.refl s
  · split
    · exact (s.sends_freeTx e).trans ((State.sends_setEp _ e _).trans ((State.sends_occupy _ e _).trans (State.sends_emit _ _)))
    · exact State.Sends.refl s

theorem State.sends_putPfc (s : State) (e : Nat) (ps : List Nat) (pause : Bool) : s.Sends (s.putPfc e ps pause) :=
  (s.sends_setEp e _).trans (State.sends_flushPfc _ e)

theorem State.sends_pfcRelease (s : State) (e : Nat) : s.Sends (s.pfcRelease e) := by
  unfold State.pfcRelease
  dsimp only
  split
  · exact (s.sends_setEp e _).trans (State.sends_putPfc _ e _ _)
  · exact State.Sends.refl s

theorem State.sends_creditBack (s : State) (e n : Nat) : s.Sends (s.creditBack e n) := by
  unfold State.creditBack
  split
  · exact s.sends_setEp e _
  · exact State.Sends.refl s

/-- What the ingress buffer gives back when bytes leave it. -/
theorem State.sends_giveBack (s : State) (e n : Nat) : s.Sends ((s.creditBack e n).pfcRelease e) :=
  (s.sends_creditBack e n).trans (State.sends_pfcRelease _ e)

/-- A transmission leaves the frames, the heads and the registers. -/
theorem State.Sends.frames {s t : State} (h : s.Sends t) : t.frames = s.frames := by obtain ⟨_, _, _, _, rfl⟩ := h; rfl
theorem State.Sends.heads {s t : State} (h : s.Sends t) : t.heads = s.heads := by obtain ⟨_, _, _, _, rfl⟩ := h; rfl
theorem State.Sends.regs {s t : State} (h : s.Sends t) : t.regs = s.regs := by obtain ⟨_, _, _, _, rfl⟩ := h; rfl
theorem State.Sends.msgs {s t : State} (h : s.Sends t) : t.msgs = s.msgs := by obtain ⟨_, _, _, _, rfl⟩ := h; rfl

/-! ## Frames that change -/

/-- Only the frames, the heads and the messages have changed. -/
def State.SamePath (s t : State) : Prop := { t with frames := s.frames, heads := s.heads, msgs := s.msgs } = s

theorem State.SamePath.refl (s : State) : s.SamePath s := rfl

theorem State.SamePath.trans {s t u : State} (h : s.SamePath t) (k : t.SamePath u) : s.SamePath u := by
  unfold State.SamePath at h k ⊢
  rw [← h, ← k]

/-- The configuration that judges a frame does not depend on what is in the bucker. -/
theorem State.SamePath.cfgFor {s t : State} (h : s.SamePath t) (st : Stamp) : t.cfgFor st = s.cfgFor st := by
  unfold State.SamePath at h
  rw [← h]
  rfl

theorem State.SamePath.quad {s t : State} (h : s.SamePath t) (q : Nat) : t.quad q = s.quad q := by
  unfold State.SamePath at h
  rw [← h]
  rfl

/-- A frame as it is held: one that is whole has its gap time. -/
def State.timed (s : State) (f : Frame) : Frame :=
  if f.whole ∧ f.gapAt = none then { f with gapAt := some (s.time.raw + s.cfg Reg.CONV_TMR1 15 0 * 1000) } else f

theorem State.timed_same (s : State) (f : Frame) : { s.timed f with gapAt := f.gapAt } = f := by
  unfold State.timed
  split
  · rfl
  · rfl

theorem State.timed_keyed (s : State) (f : Frame) : (s.timed f).keyed = f.keyed := by
  unfold State.timed; split <;> rfl
theorem State.timed_avail (s : State) (f : Frame) : (s.timed f).avail = f.avail := by
  unfold State.timed; split <;> rfl
theorem State.timed_whole (s : State) (f : Frame) : (s.timed f).whole = f.whole := by
  unfold State.timed; split <;> rfl
theorem State.timed_slot (s : State) (f : Frame) : (s.timed f).slot = f.slot := by
  unfold State.timed; split <;> rfl

/-- The heads once frame n holds what it holds: one parked on a byte that the bucker now has goes on (R66). -/
def wakeHeads (n : Nat) (f : Frame) (t : Tbl Head) : Tbl Head :=
  Tbl.mapVals t (fun _ hd => if hd.frame = n ∧ (decide (hd.park.getD 0 < f.avail) || f.whole) then { hd with park := none } else hd)

/-- The frame takes its place among those held, and the heads parked on it go on. -/
def State.heldFrame (s : State) (n : Nat) (f : Frame) : State :=
  { s with frames := Tbl.put s.frames n (s.timed f), heads := wakeHeads n (s.timed f) s.heads }

/-- Of a frame that has its key only now no entry matches (R63). -/
abbrev State.unmatched (s : State) (n : Nat) (f : Frame) : Prop :=
  (!f.started) = true ∧ f.keyed = true ∧ (!(Tbl.find s.frames n).all Frame.keyed) = true ∧
    selectHandler (s.cfgFor f.stamp) (selKey f.bytes f.lport) = none

theorem State.setFrame_eq (s : State) (n : Nat) (f : Frame) :
    s.setFrame n f = if s.unmatched n f then (s.heldFrame n f).noMatch n (s.timed f)
      else match f.slot with | some k => (s.heldFrame n f).regap k | none => s.heldFrame n f := by
  have hkeyed := s.timed_keyed f
  have hslot := s.timed_slot f
  unfold State.timed at hkeyed hslot
  rw [State.setFrame]
  rw [hkeyed, hslot]
  rfl

/-- A frame that stays is held, and beside it only heads and a message's gap time change. -/
theorem State.setFrame_kept {s : State} {n : Nat} {f : Frame} (h : ¬ s.unmatched n f) :
    s.SamePath (s.setFrame n f) ∧ (s.setFrame n f).frames = Tbl.put s.frames n (s.timed f) ∧
      (s.setFrame n f).heads = wakeHeads n (s.timed f) s.heads := by
  rw [State.setFrame_eq, if_neg h]
  split
  · exact ⟨rfl, rfl, rfl⟩
  · exact ⟨rfl, rfl, rfl⟩

/-- A frame that no entry matches is discarded and counted (R63). -/
theorem State.noMatch_spec (s : State) (n : Nat) (f : Frame) :
    (s.noMatch n f).frames = Tbl.del s.frames n ∧ (s.noMatch n f).heads = s.heads ∧
      (s.noMatch n f).rwW Reg.PRS_CNT_NOMATCH = satInc (s.rwW Reg.PRS_CNT_NOMATCH) := by
  have hs := State.sends_giveBack ({ s with frames := Tbl.del s.frames n }.count Reg.PRS_CNT_NOMATCH) f.eport f.bytes.length
  refine ⟨hs.frames, hs.heads, ?_⟩
  show Tbl.getD (s.noMatch n f).regs.rw _ _ = _
  have hr : (s.noMatch n f).regs = ({ s with frames := Tbl.del s.frames n }.count Reg.PRS_CNT_NOMATCH).regs := hs.regs
  rw [hr]
  exact Tbl.getD_put_self ..

theorem find_mapVals {α β : Type} (t : Tbl α) (g : Nat → α → β) (n : Nat) :
    Tbl.find (Tbl.mapVals t g) n = (Tbl.find t n).map (g n) := by
  induction t with
  | nil => rfl
  | cons e t ih =>
    obtain ⟨k, x⟩ := e
    by_cases hk : k = n
    · subst hk
      simp [Tbl.mapVals, Tbl.find]
    · simp only [Tbl.mapVals, Tbl.find, List.map_cons, hk, if_false] at ih ⊢
      exact ih

/-! ## Verdicts of a codeword (R37) -/

/-- Frames are changed one by one: what one step does to its own frame and to no other, a run of steps over different frames does to
each of them. -/
theorem State.foldFrames_spec {α : Type} (s : State) (step : State → α → State) (key : α → Nat) (Q : α → Frame → Prop) (l : List α)
    (hnd : (l.map key).Nodup)
    (hstep : ∀ t x, x ∈ l → s.SamePath t → Tbl.find t.frames (key x) = Tbl.find s.frames (key x) →
      s.SamePath (step t x) ∧ (∀ n, n ≠ key x → Tbl.find (step t x).frames n = Tbl.find t.frames n) ∧
        ∃ g, Tbl.find (step t x).frames (key x) = some g ∧ Q x g) :
    ∀ t, s.SamePath t → (∀ x ∈ l, Tbl.find t.frames (key x) = Tbl.find s.frames (key x)) →
      s.SamePath (l.foldl step t) ∧ (∀ x ∈ l, ∃ g, Tbl.find (l.foldl step t).frames (key x) = some g ∧ Q x g) ∧
        (∀ n, n ∉ l.map key → Tbl.find (l.foldl step t).frames n = Tbl.find t.frames n) := by
  induction l with
  | nil => exact fun t ht _ => ⟨ht, by simp, fun n _ => rfl⟩
  | cons y ys ih =>
    intro t ht hsame
    rw [List.map_cons, List.nodup_cons] at hnd
    obtain ⟨hy, hys⟩ := hnd
    obtain ⟨hpath, hothers, g, hg, hq⟩ := hstep t y List.mem_cons_self ht (hsame y List.mem_cons_self)
    have hne : ∀ x ∈ ys, key x ≠ key y := fun x hx heq => hy (heq ▸ List.mem_map_of_mem hx)
    obtain ⟨hpath', hall, hrest⟩ := ih hys (fun t x hx => hstep t x (List.mem_cons_of_mem _ hx)) (step t y) hpath
      (fun x hx => (hothers _ (hne x hx)).trans (hsame x (List.mem_cons_of_mem _ hx)))
    refine ⟨hpath', fun x hx => ?_, fun n hn => ?_⟩
    · rcases List.mem_cons.mp hx with rfl | hx
      · exact ⟨g, (hrest _ hy).trans hg, hq⟩
      · exact hall x hx
    · rw [List.map_cons, List.mem_cons, not_or] at hn
      exact (hrest n hn.2).trans (hothers n hn.1)

theorem State.cwOf_some {s : State} {n cw : Nat} {f : Frame} {c : Cw} (h : s.cwOf n cw = some (f, c)) :
    Tbl.find s.frames n = some f := by
  unfold State.cwOf at h
  split at h
  · cases h
  · next f' hf =>
    obtain ⟨c', _, hc⟩ := Option.map_eq_some_iff.mp h
    cases hc
    exact hf

theorem State.cwOf_congr {s t : State} {n cw : Nat} (h : Tbl.find t.frames n = Tbl.find s.frames n) : t.cwOf n cw = s.cwOf n cw := by
  unfold State.cwOf; rw [h]

/-- A frame of a codeword's list is changed and stays: its change, and that nothing else of the bucker's input changes. -/
theorem State.setFrame_step {s t : State} {n : Nat} {f g : Frame} (ht : s.SamePath t)
    (hf : Tbl.find t.frames n = some f) (hstarted : g.started = f.started)
    (hstay : f.started = true ∨ f.keyed = true ∨ selectHandler (s.cfgFor g.stamp) (selKey g.bytes g.lport) ≠ none) :
    s.SamePath (t.setFrame n g) ∧ (∀ k, k ≠ n → Tbl.find (t.setFrame n g).frames k = Tbl.find t.frames k) ∧
      Tbl.find (t.setFrame n g).frames n = some (t.timed g) := by
  have hno : ¬ t.unmatched n g := by
    rintro ⟨hs, -, hk, hsel⟩
    rw [hf] at hk
    rw [hstarted] at hs
    rw [ht.cfgFor] at hsel
    rcases hstay with h | h | h
    · rw [h] at hs; cases hs
    · rw [Option.all_some, h] at hk; cases hk
    · exact h hsel
  obtain ⟨hpath, hframes, -⟩ := State.setFrame_kept hno
  rw [hframes]
  exact ⟨ht.trans hpath, fun k hk => Tbl.find_put_ne _ _ hk, Tbl.find_put_self ..⟩

/-- The syndrome of a codeword for one frame. -/
def State.syndromeStep (zero : Bool) (s : State) (x : Nat × Nat) : State :=
  match s.cwOf x.1 x.2 with
  | some (f, c) => if c.zero.isSome then s else s.setFrame x.1 { f with cws := setNth f.cws x.2 { c with zero := some zero } }
  | none => s

/-- A result of a codeword that some frame has not yet is not known for all. -/
theorem known_fails {α : Type} (s : State) (key cw : α → Nat) (bad : Frame × Cw → Bool) {on : List α}
    (h : ∀ x ∈ on, ∃ f c, s.cwOf (key x) (cw x) = some (f, c) ∧ bad (f, c) = false) :
    ¬(on.filterMap (fun x => s.cwOf (key x) (cw x)) ≠ [] ∧ (on.filterMap (fun x => s.cwOf (key x) (cw x))).all bad = true) := by
  rintro ⟨hne, hall⟩
  obtain ⟨y, hy⟩ := List.exists_mem_of_ne_nil _ hne
  obtain ⟨x, hx, hxy⟩ := List.mem_filterMap.mp hy
  obtain ⟨f, c, hfc, hbad⟩ := h x hx
  obtain rfl : (f, c) = y := Option.some.inj (hfc.symm.trans hxy)
  rw [List.all_eq_true.mp hall _ hy] at hbad
  cases hbad

/-- A syndrome result is recorded for every frame of its codeword. -/
theorem State.fecSyndrome_spec (s : State) (q : Nat) (on : List (Nat × Nat)) (z : Bool) (hnd : (on.map Prod.fst).Nodup)
    (hon : ∀ x ∈ on, ∃ f c, s.cwOf x.1 x.2 = some (f, c) ∧ c.zero = none ∧
      (f.started = true ∨ f.keyed = true ∨ selectHandler (s.cfgFor f.stamp) (selKey f.bytes f.lport) ≠ none)) :
    s.fecSyndrome q on z = State.settle (if z then on.foldl (State.syndromeStep z) s
      else (on.foldl (State.syndromeStep z) s).setQuad q { s.quad q with nonzero := (s.quad q).nonzero + 1 }) ∧
    s.SamePath (on.foldl (State.syndromeStep z) s) ∧
    (∀ x ∈ on, ∃ g, Tbl.find (on.foldl (State.syndromeStep z) s).frames x.1 = some g ∧
      ∀ f c, s.cwOf x.1 x.2 = some (f, c) → { g with gapAt := f.gapAt } = { f with cws := setNth f.cws x.2 { c with zero := some z } }) ∧
    (∀ n, n ∉ on.map Prod.fst → Tbl.find (on.foldl (State.syndromeStep z) s).frames n = Tbl.find s.frames n) := by
  have hfold := s.foldFrames_spec (State.syndromeStep z) Prod.fst
    (fun x g => ∀ f c, s.cwOf x.1 x.2 = some (f, c) →
      { g with gapAt := f.gapAt } = { f with cws := setNth f.cws x.2 { c with zero := some z } }) on hnd
    (fun t x hx ht hsame => by
      obtain ⟨f, c, hfc, hzero, hstay⟩ := hon x hx
      have htfc : t.cwOf x.1 x.2 = some (f, c) := (State.cwOf_congr hsame).trans hfc
      have hstep : State.syndromeStep z t x = t.setFrame x.1 { f with cws := setNth f.cws x.2 { c with zero := some z } } := by
        rw [State.syndromeStep, htfc]
        dsimp only
        rw [hzero]
        rfl
      obtain ⟨hpath, hothers, hself⟩ := State.setFrame_step (g := { f with cws := setNth f.cws x.2 { c with zero := some z } }) ht
        (State.cwOf_some htfc) rfl hstay
      rw [hstep]
      refine ⟨hpath, hothers, _, hself, fun f' c' h' => ?_⟩
      obtain ⟨rfl, rfl⟩ : f = f' ∧ c = c' := Prod.mk.inj (Option.some.inj (hfc.symm.trans h'))
      exact State.timed_same t _) s (State.SamePath.refl s) (fun x _ => rfl)
  refine ⟨?_, hfold⟩
  have hquads : (on.foldl (State.syndromeStep z) s).quad q = s.quad q := hfold.1.quad q
  rw [State.fecSyndrome, if_neg (known_fails s Prod.fst Prod.snd (fun x => x.2.zero.isSome) (fun x hx => by
    obtain ⟨f, c, hfc, hzero, -⟩ := hon x hx
    exact ⟨f, c, hfc, by rw [hzero]; rfl⟩))]
  rw [← hquads]
  rfl

/-- A correction result is recorded for every frame of its codeword. -/
theorem State.fecCorrection_spec (s : State) (q : Nat) (on : List (Nat × Nat × List (Nat × Byte))) (ok : Bool)
    (hnd : (on.map Prod.fst).Nodup)
    (hon : ∀ x ∈ on, ∃ f c, s.cwOf x.1 x.2.1 = some (f, c) ∧ c.zero = some false ∧ c.fixed = none ∧ (f.started = true ∨ f.keyed = true ∨
      selectHandler (s.cfgFor f.stamp) (selKey (if ok then patchBytes f.bytes x.2.2 else f.bytes) f.lport) ≠ none)) :
    ∃ s1 : State, s.fecCorrection q on ok = State.settle (if ok then s1.count (Reg.PORT_CNT_FECCOR q)
        else (s1.count (Reg.PORT_CNT_FECUNC q)).setQuad q { s.quad q with uncorr := true }) ∧ s.SamePath s1 ∧
    (∀ x ∈ on, ∃ g, Tbl.find s1.frames x.1 = some g ∧ ∀ f c, s.cwOf x.1 x.2.1 = some (f, c) → { g with gapAt := f.gapAt } =
      { f with cws := setNth f.cws x.2.1 { c with zero := some (ok && !f.consumed c), fixed := some ok }
               bytes := if ok then patchBytes f.bytes x.2.2 else f.bytes }) ∧
    (∀ n, n ∉ on.map Prod.fst → Tbl.find s1.frames n = Tbl.find s.frames n) := by
  have hfold := s.foldFrames_spec (fun t x => t.decoded x.1 x.2.1 x.2.2 ok) Prod.fst
    (fun x g => ∀ f c, s.cwOf x.1 x.2.1 = some (f, c) → { g with gapAt := f.gapAt } =
      { f with cws := setNth f.cws x.2.1 { c with zero := some (ok && !f.consumed c), fixed := some ok }
               bytes := if ok then patchBytes f.bytes x.2.2 else f.bytes }) on hnd
    (fun t x hx ht hsame => by
      obtain ⟨f, c, hfc, hzero, hfixed, hstay⟩ := hon x hx
      have htfc : t.cwOf x.1 x.2.1 = some (f, c) := (State.cwOf_congr hsame).trans hfc
      have hstep : t.decoded x.1 x.2.1 x.2.2 ok = t.setFrame x.1
          { f with cws := setNth f.cws x.2.1 { c with zero := some (ok && !f.consumed c), fixed := some ok }
                   bytes := if ok then patchBytes f.bytes x.2.2 else f.bytes } := by
        rw [State.decoded, htfc]
        dsimp only
        rw [hzero, hfixed]
        rfl
      obtain ⟨hpath, hothers, hself⟩ := State.setFrame_step
        (g := { f with cws := setNth f.cws x.2.1 { c with zero := some (ok && !f.consumed c), fixed := some ok }
                       bytes := if ok then patchBytes f.bytes x.2.2 else f.bytes }) ht (State.cwOf_some htfc) rfl hstay
      rw [hstep]
      refine ⟨hpath, hothers, _, hself, fun f' c' h' => ?_⟩
      obtain ⟨rfl, rfl⟩ : f = f' ∧ c = c' := Prod.mk.inj (Option.some.inj (hfc.symm.trans h'))
      exact State.timed_same t _) s (State.SamePath.refl s) (fun x _ => rfl)
  refine ⟨_, ?_, hfold⟩
  have hquads : (on.foldl (fun (t : State) x => t.decoded x.1 x.2.1 x.2.2 ok) s).quad q = s.quad q := hfold.1.quad q
  have hknown := known_fails s Prod.fst (fun x => x.2.1) (fun x => x.2.zero != some false || x.2.fixed.isSome) (on := on)
    (fun x hx => by
      obtain ⟨f, c, hfc, hzero, hfixed, -⟩ := hon x hx
      exact ⟨f, c, hfc, by rw [hzero, hfixed]; rfl⟩)
  rw [State.fecCorrection]
  refine (if_neg hknown).trans ?_
  rw [← hquads]
  cases ok <;> rfl

/-! ## Heads start (R58, R64) -/

/-- The head that runs for a frame. -/
def State.firstHead (s : State) (n h : Nat) (f : Frame) : Head :=
  { frame := n, cfg := s.cfgFor f.stamp, exact := s.exactFor f.stamp, handler := h
    pc := fld (cfgOf (s.cfgFor f.stamp) (Reg.PRS_HDL_w0 h)) 27 16
    h := [(13, f.lport), (14, h14Of f.bytes), (15, h15Of f.bytes)], hdrEnd := 0, vers := s.servingMap }

/-- A head starts for a frame that an entry matches. -/
theorem State.runHead_spec {s : State} {n h : Nat} {f : Frame}
    (hsel : selectHandler (s.cfgFor f.stamp) (selKey f.bytes f.lport) = some h) :
    (s.runHead n f).heads = Tbl.put s.heads (leastFree s.heads) (s.firstHead n h f) ∧
      (s.runHead n f).frames = Tbl.put s.frames n { f with started := true, handler := h } := by
  have hpeak : ∀ (u : State) off hi lo v, (u.peak off hi lo v).heads = u.heads ∧ (u.peak off hi lo v).frames = u.frames := by
    intro u off hi lo v
    unfold State.peak
    split <;> exact ⟨rfl, rfl⟩
  unfold State.runHead
  dsimp only
  rw [hsel]
  dsimp only
  rw [(State.sends_giveBack _ f.eport f.bytes.length).heads, (State.sends_giveBack _ f.eport f.bytes.length).frames,
    (hpeak _ _ _ _ _).1, (hpeak _ _ _ _ _).2]
  exact ⟨rfl, rfl⟩

/-- The registers of a head that starts. -/
theorem State.firstHead_regs (s : State) (n h : Nat) (f : Frame) :
    (s.firstHead n h f).reg 0 = 0 ∧ (s.firstHead n h f).reg 13 = f.lport ∧ (s.firstHead n h f).reg 14 = h14Of f.bytes ∧
      (s.firstHead n h f).reg 15 = h15Of f.bytes := ⟨rfl, rfl, rfl, rfl⟩

/-- Settles O25: syndromes, corrections, and what ends or starts a frame again. -/
theorem verdictsArriveAndSettle : Obligations.VerdictsArriveAndSettle := by
  refine ⟨fun s q on z hnd hon => ?_, fun s q on ok hnd hon => ?_, fun s n f hf => ?_⟩
  · obtain ⟨heq, hpath, hall, hrest⟩ := s.fecSyndrome_spec q on z hnd hon
    refine ⟨_, congrArg (fun t : State => Host.Outcome.next t.lateDispatch) heq, hpath, fun n cw f c hx hfc => ?_, fun n hn => ?_⟩
    · obtain ⟨g, hg, hspec⟩ := hall (n, cw) hx
      exact ⟨g, hg, hspec f c hfc⟩
    · exact hrest n fun hmem => by
        obtain ⟨⟨m, cw⟩, hin, rfl⟩ := List.mem_map.mp hmem
        exact hn cw hin
  · obtain ⟨s1, heq, hpath, hall, hrest⟩ := s.fecCorrection_spec q on ok hnd hon
    refine ⟨s1, congrArg (fun t : State => Host.Outcome.next t.lateDispatch) heq, hpath, fun n cw l f c hx hfc => ?_, fun n hn => ?_⟩
    · obtain ⟨g, hg, hspec⟩ := hall (n, cw, l) hx
      exact ⟨g, hg, hspec f c hfc⟩
    · exact hrest n fun hmem => by
        obtain ⟨⟨m, cw, l⟩, hin, rfl⟩ := List.mem_map.mp hmem
        exact hn cw l hin
  · intro f1 f2 f3
    refine ⟨fun he hfcs htr hcws => ?_, fun he => ?_, fun hre hmay h hsel => ?_⟩
    · have hv : s.fcsVerdict n = State.settle { s with frames := Tbl.put s.frames n f1 } := by
        rw [State.fcsVerdict, hf]
        exact if_pos ⟨he, by rw [hfcs]; rfl, by rw [htr]; rfl, hcws⟩
      exact congrArg Host.Outcome.next hv
    · have hv : s.truncate n = ((s.setFrame n f2).count Reg.RPLY_CNT_TRUNC).settle := by
        rw [State.truncate, hf]
        exact if_neg (Bool.eq_false_iff.mp he)
      exact congrArg Host.Outcome.next hv
    · obtain ⟨hheads, hframes⟩ := State.runHead_spec (s := s) (n := n) (f := f3) hsel
      have hv : s.messageRerun n = s.runHead n f3 := by
        rw [State.messageRerun, hf]
        refine (if_pos (by rw [Bool.and_eq_true]; exact ⟨hre, hmay⟩)).trans ?_
        have hheld : (Tbl.find (s.runHead n f3).frames n).isNone = false := by rw [hframes, Tbl.find_put_self]; rfl
        exact if_neg (Bool.eq_false_iff.mp hheld)
      exact ⟨_, _, congrArg Host.Outcome.next hv, hheads, hframes, rfl, rfl, rfl, rfl, rfl⟩

/-- Settles O26: suppression by the events of a window, and its end. -/
theorem speculationIsSuppressed : Obligations.SpeculationIsSuppressed := by
  intro s q fresh
  have hwindow : s.time.tick % 250000 = 0 → s.specWindowEnd q =
      if (s.quad q).supp = s.specEvent q then fresh (s.specEvent q)
      else (fresh (s.specEvent q)).post 6 0 [(q, 8), (b2n (s.specEvent q), 8)] := fun ht => if_neg (not_not_intro ht)
  refine ⟨fun hev hsupp => congrArg Host.Outcome.next (if_pos ⟨hev, hsupp⟩), fun ht hsame => ?_, fun ht hev hsupp => ?_,
    fun ht hev hsupp => ?_⟩
  · exact congrArg Host.Outcome.next ((hwindow ht).trans (if_pos hsame.symm))
  · rw [hev, hsupp, if_neg (by decide)] at hwindow
    exact congrArg Host.Outcome.next (hwindow ht)
  · rw [hev, hsupp, if_neg (by decide)] at hwindow
    exact congrArg Host.Outcome.next (hwindow ht)

/-! ## Classification (R63) and resumption (R66) -/

/-- The frame that classification holds. -/
def State.arrived (s : State) (e : Nat) (b : List Byte) (handed : Nat) (ended : Bool) (cws : List Cw) (sub : Nat) (spec : Bool)
    (v : Option Bool) (h : Nat) : Frame :=
  { eport := e, lport := epLport s.regs.cfg e, bytes := b, handed := min handed b.length, ended := ended
    stamp := s.ingressStamp e sub, raw := s.time.raw, sub := sub, spec := spec, cws := cws, fcs := none, udp := v, handler := h }

/-- Classification of a frame of at most 9,216 bytes. -/
theorem State.classify_eq (s : State) (e sub : Nat) (b : List Byte) (handed : Nat) (ended spec : Bool) (cws : List Cw) (v : Option Bool)
    (hb : b.length ≤ 9216) : s.classify e b handed ended cws sub spec none v false =
      let f := s.arrived e b handed ended cws sub spec v 0
      let h := selectHandler (s.cfgFor f.stamp) (selKey b f.lport)
      if h = none ∧ (fld (cfgOf (s.cfgFor f.stamp) Reg.PRS_CTL) 31 31 = 0 ∨ f.keyed = true) then s.count Reg.PRS_CNT_NOMATCH
      else s.setFrame (freshKey s.frames) { f with handler := h.getD 0 } := by
  have htake : b.take 9216 = b := List.take_of_length_le hb
  have hmin : min 9216 b.length = b.length := Nat.min_eq_right hb
  have hlong : decide (9216 < b.length) = false := decide_eq_false (Nat.not_lt.mpr hb)
  unfold State.classify
  simp only [htake, hmin, hlong, Bool.or_false, Bool.false_eq_true, if_false]
  rfl

/-- A frame with no codeword has the bytes handed over. -/
theorem Frame.avail_of_no_cws {f : Frame} (h : f.cws = []) : f.avail = f.handed := by
  unfold Frame.avail
  rw [h]
  split <;> rfl

theorem selNeed_le (b : List Byte) : selNeed b ≤ b.length := Nat.min_le_left _ _

/-- A head parked on a byte that the bucker now has goes on, and heads of other frames stay. -/
theorem find_wakeHeads {n k : Nat} {f : Frame} {t : Tbl Head} {hd : Head} (h : Tbl.find t k = some hd) :
    (hd.frame = n → hd.park.getD 0 < f.avail ∨ f.whole = true → Tbl.find (wakeHeads n f t) k = some { hd with park := none }) ∧
    (hd.frame ≠ n → Tbl.find (wakeHeads n f t) k = some hd) := by
  rw [wakeHeads, find_mapVals, h]
  refine ⟨fun hn hgo => congrArg some (if_pos ⟨hn, ?_⟩), fun hn => congrArg some (if_neg fun hc => hn hc.1)⟩
  simpa using hgo

/-- The egress order leaves frames, heads and registers. -/
theorem State.markReady_keeps (s : State) :
    s.markReady.frames = s.frames ∧ s.markReady.heads = s.heads ∧ s.markReady.regs = s.regs := by
  have hfold : ∀ (l : List (Nat × Reply)) (u : State) (f : State → Nat × Reply → State),
      (∀ u x, (f u x).frames = u.frames ∧ (f u x).heads = u.heads ∧ (f u x).regs = u.regs) →
      (l.foldl f u).frames = u.frames ∧ (l.foldl f u).heads = u.heads ∧ (l.foldl f u).regs = u.regs := by
    intro l
    induction l with
    | nil => exact fun u f _ => ⟨rfl, rfl, rfl⟩
    | cons x l ih =>
      intro u f hf
      obtain ⟨h1, h2, h3⟩ := ih (f u x) f hf
      obtain ⟨k1, k2, k3⟩ := hf u x
      exact ⟨h1.trans k1, h2.trans k2, h3.trans k3⟩
  refine hfold _ _ _ fun u x => ?_
  dsimp only
  split <;> exact ⟨rfl, rfl, rfl⟩

/-- With no head at a DISPATCH that waits, none goes on. -/
theorem State.lateDispatch_none {s : State} (h : s.heads.all (fun x => !x.2.waits) = true) : s.lateDispatch = s := by
  have hnil : s.heads.filter (fun x => x.2.waits) = [] := by
    rw [List.filter_eq_nil_iff]
    intro x hx
    have := List.all_eq_true.mp h x hx
    simpa using this
  rw [State.lateDispatch, hnil, List.foldl_nil]

/-- Heads that do not wait still do not wait when some of them go on. -/
theorem wakeHeads_waits {n : Nat} {f : Frame} {t : Tbl Head} (h : t.all (fun x => !x.2.waits) = true) :
    (wakeHeads n f t).all (fun x => !x.2.waits) = true := by
  rw [List.all_eq_true] at h ⊢
  intro x hx
  obtain ⟨y, hy, rfl⟩ := List.mem_map.mp hx
  dsimp only
  split
  · exact h y hy
  · exact h y hy

/-- Settles O21: classification, arrival, start and resumption. -/
theorem framesAndHeadsStart : Obligations.FramesAndHeadsStart := by
  refine ⟨?_, ?_, ?_, ?_⟩
  · intro s e sub b handed ended spec cws v st l hb
    have hcl := s.classify_eq e sub b handed ended spec cws v hb
    refine ⟨fun h hsel => ?_, fun hsel hkey => ?_⟩
    · have hsome : ¬(selectHandler (s.cfgFor st) (selKey b l) = none ∧
          (fld (cfgOf (s.cfgFor st) Reg.PRS_CTL) 31 31 = 0 ∨ (s.arrived e b handed ended cws sub spec v 0).keyed = true)) := by
        rw [hsel]; exact fun hc => nomatch hc.1
      have heq : s.classify e b handed ended cws sub spec none v false =
          s.setFrame (freshKey s.frames) (s.arrived e b handed ended cws sub spec v h) := by
        rw [hcl]
        refine (if_neg hsome).trans ?_
        show s.setFrame _ { s.arrived e b handed ended cws sub spec v 0 with handler := (selectHandler (s.cfgFor st) (selKey b l)).getD 0 } = _
        rw [hsel]
        rfl
      have hno : ¬ s.unmatched (freshKey s.frames) (s.arrived e b handed ended cws sub spec v h) := by
        rintro ⟨-, -, -, hnone⟩
        exact nomatch hsel.symm.trans hnone
      have hset : s.setFrame (freshKey s.frames) (s.arrived e b handed ended cws sub spec v h) =
          s.heldFrame (freshKey s.frames) (s.arrived e b handed ended cws sub spec v h) := by
        rw [State.setFrame_eq, if_neg hno]
        rfl
      have htimed := s.timed_same (s.arrived e b handed ended cws sub spec v h)
      generalize hg : s.timed (s.arrived e b handed ended cws sub spec v h) = g at htimed
      refine ⟨_, g, heq, ?_, ?_, ?_⟩
      · rw [hset, ← hg]; rfl
      · rw [hset]; rfl
      · have hfld : ∀ {α : Type} (p : Frame → α), (∀ f x, p { f with gapAt := x } = p f) →
            p g = p (s.arrived e b handed ended cws sub spec v h) := fun p hp => (hp g _).symm.trans (congrArg p htimed)
        exact ⟨hfld Frame.handler fun _ _ => rfl, hfld Frame.eport fun _ _ => rfl, hfld Frame.lport fun _ _ => rfl,
          hfld Frame.bytes fun _ _ => rfl, hfld Frame.stamp fun _ _ => rfl, hfld Frame.spec fun _ _ => rfl,
          hfld Frame.started fun _ _ => rfl, hfld Frame.handed fun _ _ => rfl⟩
    · rw [hcl]
      refine if_pos ⟨hsel, hkey.imp_right fun ⟨hcws, hneed⟩ => ?_⟩
      have hav : (s.arrived e b handed ended cws sub spec v 0).avail = min handed b.length := Frame.avail_of_no_cws hcws
      rw [Frame.keyed, hav, decide_eq_true_eq]
      exact Nat.le_min.mpr ⟨hneed, selNeed_le b⟩
  · intro s f hl hup hnbr hety htaken hst htwin hpow hroom
    have hwake : s.autowake = s := if_neg fun h => hpow h.1
    refine congrArg Host.Outcome.next ?_
    have hup' : ¬(epLanes s.regs.cfg f.eport = 0 ∨ (!s.linkUp f.eport) = true) := by
      rw [hup]; simp only [Bool.not_true, Bool.false_eq_true, or_false]; omega
    rw [State.frameReceive]
    refine (if_neg hup').trans ((if_neg (Bool.eq_false_iff.mp hnbr)).trans ?_)
    rw [State.receiveHost]
    refine (if_neg hety).trans ((if_neg (Bool.eq_false_iff.mp htaken)).trans ((if_neg hst).trans ?_))
    rw [hwake]
    refine (if_neg (by rw [htwin]; decide)).trans ?_
    exact if_neg (Nat.not_lt.mpr hroom)
  · intro s n f hf hst hmay c
    have hrun : s.headStart n = s.runHead n f := by
      rw [State.headStart, hf]
      exact if_pos (by rw [hst, hmay]; rfl)
    refine ⟨fun h hsel => ?_, fun hsel => ?_⟩
    · obtain ⟨hheads, hframes⟩ := State.runHead_spec (s := s) (n := n) hsel
      exact ⟨_, s.firstHead n h f, congrArg Host.Outcome.next hrun, hheads, hframes, rfl, rfl, rfl, rfl, rfl, rfl, rfl, rfl, rfl,
        rfl, rfl⟩
    · obtain ⟨hframes, hheads, hcount⟩ := s.noMatch_spec n f
      have hno : s.runHead n f = s.noMatch n f := by
        unfold State.runHead
        dsimp only
        rw [hsel]
      exact ⟨_, congrArg Host.Outcome.next (hrun.trans hno), hframes, hheads, hcount⟩
  · intro s n handed ended f hf hwait g h
    have hresume : s.headResume n handed ended = (s.setFrame n g).markReady := by rw [State.headResume, hf]
    obtain ⟨hmf, hmh, hmr⟩ := (s.setFrame n g).markReady_keeps
    refine ⟨fun hstay => ?_, fun hst hk hgk hnone => ?_⟩
    · have hno : ¬ s.unmatched n g := by
        rintro ⟨hs, -, hk, hsel⟩
        rw [hf] at hk
        rcases hstay with h' | h' | h'
        · rw [show g.started = f.started from rfl, h'] at hs; cases hs
        · rw [Option.all_some, h'] at hk; cases hk
        · exact h' hsel
      obtain ⟨-, hframes, hheads⟩ := State.setFrame_kept hno
      have hquiet : (s.setFrame n g).markReady.lateDispatch = (s.setFrame n g).markReady :=
        State.lateDispatch_none (by rw [hmh, hheads]; exact wakeHeads_waits hwait)
      refine ⟨_, s.timed g, congrArg Host.Outcome.next ((congrArg State.lateDispatch hresume).trans hquiet), ?_, s.timed_same g,
        fun k hd hfind hn hgo => ?_, fun k hd hfind hn => ?_⟩
      · rw [hmf, hframes, Tbl.find_put_self]
      · rw [hmh, hheads]; exact (find_wakeHeads hfind).1 hn hgo
      · rw [hmh, hheads]; exact (find_wakeHeads hfind).2 hn
    · have hun : s.unmatched n g := by
        refine ⟨?_, hgk, ?_, hnone⟩
        · rw [show g.started = f.started from rfl, hst]; rfl
        · rw [hf, Option.all_some, hk]; rfl
      obtain ⟨hframes, hheads, hcount⟩ := (s.heldFrame n g).noMatch_spec n (s.timed g)
      have hset : s.setFrame n g = (s.heldFrame n g).noMatch n (s.timed g) := by rw [State.setFrame_eq, if_pos hun]
      have hquiet : (s.setFrame n g).markReady.lateDispatch = (s.setFrame n g).markReady :=
        State.lateDispatch_none (by rw [hmh, hset, hheads]; exact wakeHeads_waits hwait)
      refine ⟨_, s.timed g, congrArg Host.Outcome.next ((congrArg State.lateDispatch hresume).trans hquiet), s.timed_same g, ?_, ?_⟩
      · rw [hmf, hset, hframes]; rfl
      · show Tbl.getD (s.setFrame n g).markReady.regs.rw _ _ = _
        rw [hmr, hset]
        exact hcount

end Sys2Proof.Machine
end

section
/-! The checks of DISPATCH, in their order (R36, R75, R361). -/
namespace Sys2Proof.Machine

/-- What a DISPATCH asks, and the state it asks it in. -/
abbrev dispatchDesc (hd : Head) (f : Frame) : Desc := fillMlen hd.desc f.bytes
abbrev dispatchOrg (hd : Head) (f : Frame) : Origin := { hd.origin f with desc := dispatchDesc hd f }
abbrev State.dispatchFrom (s : State) (n : Nat) (hd : Head) : State := (s.endHead n).bindFrame hd.frame

/-- The answer or admission of a dispatch that is not a message's run again, in the order of R75. -/
def State.dispatchChecks (s0 : State) (hd : Head) (f : Frame) (serving boom : Bool) : State :=
  let d := dispatchDesc hd f
  let org := dispatchOrg hd f
  if !serving then (s0.count Reg.RPR_CNT_ITEMRETRY).answer org [hd.frame] stFaultRetry 0 0 false
  else if !check1 d boom then s0.answer org [hd.frame] stMalformed 0 0 false
  else if !check2 org then s0.answer org [hd.frame] stMalformed 0 0 false
  else if maxLen org < d.mlen.getD 0 then s0.answer org [hd.frame] stTooLarge 0 (maxLen org) false
  else if d.later then s0.joinFrame org hd.frame f
  else s0.dispatchFirst org hd.frame f hd boom

section
variable {s : State} {n : Nat} {hd : Head} {f : Frame} (hat : s.headAt n 0x30 hd f)
  (hbytes : (bitsOf hd.instr 17 15 == 1) = true → s.mgmt.inService = true → check1 (dispatchDesc hd f) (bitsOf hd.instr 17 15 == 1) = true →
    check2 (dispatchOrg hd f) = true → (dispatchDesc hd f).mlen.getD 0 ≤ maxLen (dispatchOrg hd f) → (dispatchDesc hd f).later = false →
    fld (cfgOf (dispatchOrg hd f).cfg Reg.BOOM_CTL) 31 31 = 1 → (dispatchDesc hd f).lastNeeded f.bytes.length ≤ f.avail)
include hat hbytes

/-- A dispatch whose decision bytes are at hand goes on: the frame's message is run again, or the checks decide. -/
theorem State.dispatch_at : s.dispatch n =
    (let s0 := s.dispatchFrom n hd
     let boom := bitsOf hd.instr 17 15 == 1
     let old := s0.rerunMsg hd.frame
     let keep := match old with | some (_, m) => sameFields (dispatchDesc hd f) m.org.desc | none => false
     let s1 := match old with | some (k, _) => if keep then s0 else s0.failMsg k 2 | none => s0
     let s2 :=
       if !s.mgmt.inService then (s1.count Reg.RPR_CNT_ITEMRETRY).answer (dispatchOrg hd f) [hd.frame] stFaultRetry 0 0 false
       else if keep then (match old with | some (k, m) => s1.rerunKeep (dispatchOrg hd f) hd k m | none => s1)
       else s1.dispatchChecks hd f true boom
     s2.settle.gc) := by
  obtain ⟨hhead, hframe, hopc, hpark⟩ := hat
  have hgo : ¬(opcOf hd.instr ≠ 0x30 ∨ hd.park.isSome = true) := by
    rw [hopc, hpark]
    simp
  have hwait : ¬((bitsOf hd.instr 17 15 == 1) = true ∧ (s.mgmt.inService && check1 (dispatchDesc hd f) (bitsOf hd.instr 17 15 == 1) &&
      check2 (dispatchOrg hd f) && decide ((dispatchDesc hd f).mlen.getD 0 ≤ maxLen (dispatchOrg hd f)) && !(dispatchDesc hd f).later &&
      fld (cfgOf (dispatchOrg hd f).cfg Reg.BOOM_CTL) 31 31 == 1) = true ∧ f.avail < (dispatchDesc hd f).lastNeeded f.bytes.length) := by
    rintro ⟨hboom, hsix, hlt⟩
    simp only [Bool.and_eq_true, decide_eq_true_eq, Bool.not_eq_true', beq_iff_eq] at hsix
    obtain ⟨⟨⟨⟨⟨hin, h1⟩, h2⟩, hlen⟩, hlater⟩, hctl⟩ := hsix
    exact Nat.not_le.mpr hlt (hbytes hboom hin h1 h2 hlen hlater hctl)
  rw [State.dispatch, hhead]
  dsimp only
  rw [hframe]
  dsimp only
  rw [if_neg hgo, if_neg hwait]
  rfl

/-- A frame that is run again and dispatches with the fields of its first run keeps its message (R36). -/
theorem State.dispatch_rerun {k : Nat} {m : Msg} (hold : (s.dispatchFrom n hd).rerunMsg hd.frame = some (k, m))
    (hin : s.mgmt.inService = true) (hsame : sameFields (dispatchDesc hd f) m.org.desc = true) :
    s.dispatch n = ((s.dispatchFrom n hd).rerunKeep (dispatchOrg hd f) hd k m).settle.gc := by
  rw [State.dispatch_at hat hbytes]
  simp only [hold, hsame, hin, Bool.not_true, Bool.false_eq_true, if_false, if_true]

/-- A frame that is not run again is judged by the checks. -/
theorem State.dispatch_fresh (hold : (s.dispatchFrom n hd).rerunMsg hd.frame = none) :
    s.dispatch n = ((s.dispatchFrom n hd).dispatchChecks hd f s.mgmt.inService (bitsOf hd.instr 17 15 == 1)).settle.gc := by
  rw [State.dispatch_at hat hbytes]
  simp only [hold, Bool.false_eq_true, if_false]
  cases s.mgmt.inService <;> rfl

end

/-- A first frame that passed checks 1 to 4 and is no later frame. -/
theorem State.dispatchChecks_first {s0 : State} {hd : Head} {f : Frame} {boom : Bool} (h1 : check1 (dispatchDesc hd f) boom = true)
    (h2 : check2 (dispatchOrg hd f) = true) (hlen : (dispatchDesc hd f).mlen.getD 0 ≤ maxLen (dispatchOrg hd f)) :
    s0.dispatchChecks hd f true boom = if (dispatchDesc hd f).later then s0.joinFrame (dispatchOrg hd f) hd.frame f
      else s0.dispatchFirst (dispatchOrg hd f) hd.frame f hd boom := by
  unfold State.dispatchChecks
  simp only [h1, h2, Bool.not_true, Bool.false_eq_true, if_false, Nat.not_lt.mpr hlen]

/-- A first frame of a model: no version serves its handle, or one does. -/
theorem State.dispatchFirst_unknown {s : State} {org : Origin} {fr : Nat} {f : Frame} {hd : Head}
    (h : s.servesHead hd f (org.desc.model.getD 0) = none) :
    s.dispatchFirst org fr f hd false = s.answer org [fr] stUnknownModel 0 0 false := by
  rw [State.dispatchFirst, h]
  rfl

theorem State.dispatchFirst_served {s : State} {org : Origin} {fr : Nat} {f : Frame} {hd : Head} {v : Version}
    (h : s.servesHead hd f (org.desc.model.getD 0) = some v) : s.dispatchFirst org fr f hd false =
      if org.desc.modelVer.isSome ∧ org.desc.modelVer ≠ some v.num then s.answer org [fr] stStaleVersion 0 v.num false
      else s.admitFirst org fr f hd false (some v) := by
  rw [State.dispatchFirst, h]
  rfl

/-- Settles O22, check by check. -/
theorem dispatchChecksInOrder : Obligations.DispatchChecksInOrder := by
  intro s n hd f hat d org s0 boom fr hbytes
  refine ⟨fun k m hold hin hsame => congrArg Host.Outcome.next (State.dispatch_rerun hat hbytes hold hin hsame), fun hold => ?_⟩
  have hfresh : exec (.dispatch n) s = .next (s0.dispatchChecks hd f s.mgmt.inService boom).settle.gc :=
    congrArg Host.Outcome.next (State.dispatch_fresh hat hbytes hold)
  rw [hfresh]
  have hnext : ∀ {t u : State}, t = u → (Host.Outcome.next t.settle.gc : Host.Outcome State Fault Refusal) = .next u.settle.gc :=
    fun h => by rw [h]
  refine ⟨fun hout => hnext ?_, fun hin => ?_⟩
  · rw [hout]; rfl
  · rw [hin]
    refine ⟨fun h1 => hnext ?_, fun h1 => ⟨fun h2 => hnext ?_, fun h2 => ⟨fun hlen => hnext ?_, fun hlen => ?_⟩⟩⟩
    · exact if_pos (by rw [h1]; rfl)
    · exact (if_neg (by rw [h1]; decide)).trans (if_pos (by rw [h2]; rfl))
    · exact (if_neg (by rw [h1]; decide)).trans ((if_neg (by rw [h2]; decide)).trans (if_pos hlen))
    · rw [State.dispatchChecks_first h1 h2 hlen]
      refine ⟨fun hl => hnext (if_pos hl), fun hl hb => ?_, fun hl hb => ?_⟩
      · rw [if_neg (Bool.eq_false_iff.mp hl), hb]
        exact ⟨fun hen => hnext (if_pos hen), fun hen => hnext (if_neg hen)⟩
      · rw [if_neg (Bool.eq_false_iff.mp hl), hb]
        refine ⟨fun hsv => hnext (State.dispatchFirst_unknown hsv), fun v hsv => ⟨fun hsome hne => hnext ?_, fun hok => hnext ?_⟩⟩
        · exact (State.dispatchFirst_served hsv).trans (if_pos ⟨hsome, hne⟩)
        · refine (State.dispatchFirst_served hsv).trans (if_neg fun ⟨hsome, hne⟩ => ?_)
          rcases hok with hno | heq
          · exact absurd hsome (by rw [show org.desc.modelVer = d.modelVer from rfl, hno]; decide)
          · exact hne heq

end Sys2Proof.Machine
end

section
/-! Replies: their content, their digest, the verdict gate, reissues and notices (R38 to R49, R250, R256, R320 to R324). -/
namespace Sys2Proof.Machine

section
variable {s : State} {n : Nat} {r : Reply} (h : Tbl.find s.replies n = some r)
include h

/-- The reply as REPLY_BUILD keeps it. -/
theorem State.replyBuild_of (hst : r.stage = .build) : s.replyBuild n =
    (let r1 := s.rendered { r with base := s.baseOf r.org.desc, stage := .ready, order := s.nextOrder,
                                   egressAt := s.time.raw + s.cfg Reg.CONV_TMR1 31 16 * 1000000, doneAt := s.time.raw }
     let s1 := (match r.slot with | some k => if r1.hasDig && r1.digest.isNone then s.pairReady k else s | none => s).setReply n r1
     (if r1.hasDig then s1 else s1.twinSend n).settle) := by
  rw [State.replyBuild, h]
  exact if_pos hst

/-- DIGEST_COMPLETE of a reply whose digest is outstanding. -/
theorem State.digestComplete_of {kind : Nat} {s1 : State} (hd : r.hasDig = true) (hno : r.digest = none)
    (hk : (match r.slot.bind (Tbl.find s.msgs) with | some m => m.kind | none => 0) = kind)
    (hs : (match r.slot with | some k => s.pairDrop k | none => s) = s1) : s.digestComplete n =
    (let r1 := { r with digest := some (digestOf r kind), order := s.nextOrder, doneAt := s.time.raw }
     if r.stage = .ready then ((s1.setReply n (s1.rendered r1)).twinSend n).settle else s1.setReply n r1) := by
  rw [State.digestComplete, h, ← hk, ← hs]
  exact if_pos ⟨hd, by rw [hno]; rfl⟩

/-- A reply that another package does not hold starts when it is ready and its port takes it. -/
theorem State.transmit_of {p : Reply → Bool} (hready : s.replyReady r = true) (hp : p r = true) (hheld : s.heldHere r = false)
    (hopen : s.egressOpen n (s.txPort r) r = true) : s.transmit n p = s.startTx n r false := by
  have hgo : ¬((!(s.replyReady r && p r)) = true) := by rw [hready, hp]; decide
  rw [State.transmit, h]
  exact (if_neg hgo).trans ((if_neg (Bool.eq_false_iff.mp hheld)).trans (if_pos hopen))

/-- FIXED_RELEASE of a reply at its target. -/
theorem State.fixedRelease_of {t : Nat} (hf : r.fixed = some t) (hrel : r.released = false) (hst : r.stage = .ready)
    (ht : t ≤ 16 * (s.time.raw + 4)) (hheld : s.heldHere r = false) : s.fixedRelease n =
      (let r1 := { r with released := true, order := s.nextOrder }
       let e := s.txPort r1
       if 16 * s.time.raw ≤ t ∧ 16 * (r1.doneAt + 4) ≤ t ∧ s.replyReady r1 ∧ s.carries e r1 ∧ s.portFree e ∧ !s.rival n e t r1 then
         s.startTx n r1 false
       else (s.setReply n { r1 with late := true }).markReady) := by
  have hgo : ¬(r.released = true ∨ r.stage ≠ .ready ∨ 16 * (s.time.raw + 4) < t) := by
    rintro (hc | hc | hc)
    · rw [hrel] at hc; cases hc
    · exact hc hst
    · exact Nat.not_lt.mpr ht hc
  rw [State.fixedRelease, h]
  dsimp only
  rw [hf]
  exact (if_neg hgo).trans (if_neg (Bool.eq_false_iff.mp hheld))

/-- HELD_UNIT_DUE while a verdict is pending, and once all are good. -/
theorem State.heldUnitDue_pending (hst : r.stage = .held) (hv : s.replyVerdict r = .pending) (hext : r.ext < 2048) :
    s.heldUnitDue n = s.setReply n { r with ext := r.ext + 8 } := by
  rw [State.heldUnitDue, h]
  refine (if_neg (not_not_intro hst)).trans ?_
  rw [hv]
  exact if_pos hext

theorem State.heldUnitDue_good {d : Dest} (hst : r.stage = .held) (hv : s.replyVerdict r = .good) (hd : r.dest = some d) :
    s.heldUnitDue n = ((s.endFrame r.eport (wireBytes d r.content ++ List.replicate (r.ext + 4) 0) true).peak
      Reg.RPLY_EXTMAX 11 0 r.ext).passed n r .sent := by
  rw [State.heldUnitDue, h]
  refine (if_neg (not_not_intro hst)).trans ?_
  rw [hv, hd]

theorem State.exhausted_of (hst : r.stage = .held) (hv : s.replyVerdict r = .pending) (hext : r.ext = 2048) :
    s.exhausted n = ((((s.stompFrame n r).count Reg.RPLY_CNT_STOMP_EXH).gateEvent 8 r.org.lport).setReply n
      { r with stage := .kept false, due := false }).markReady := by
  rw [State.exhausted, h]
  exact if_pos ⟨hst, hext, hv⟩

/-- REISSUE of a kept reply whose verdicts are good: no member may carry it, or one takes it. -/
theorem State.reissue_kept {d : Dest} {lost : Bool} (hst : r.stage = .kept lost) (hd : r.dest = some d) (hre : r.reissued = false)
    (hv : s.replyVerdict r = .good) (hport : s.holdsPort d.lport = false) : s.reissue n =
      match s.reissuePort r d lost with
      | none => ((if lost then s else (s.count Reg.RPLY_CNT_LOST).gateEvent 9 r.org.lport).egressFail r).unsent n r
      | some e =>
        if s.egressOpen n e r then
          let r1 := s.rendered { r with pad := false, ext := 0, late := r.late || r.fixed.isSome, reissued := true,
                                        unchecked := s.twin.state == 3, eport := e, stomped := false }
          let s1 := ((s.takeTx e n).recache r r1).count Reg.RPLY_CNT_REISSUE
          let s2 := if s.twin.state = 3 then s1.count Reg.TWIN_CNT_UNCHECKED else s1
          let w := wireBytes d r1.content
          let s3 := s2.sendFrame e w true (wireLen w.length)
          if r.twinHeld ∨ lost ∧ r.slot.isNone then (s3.setReply n { r1 with stage := .sent, twinHeld := false }).gc
          else s3.passed n r1 .sent
        else s := by
  have hgo : ¬(r.reissued = true ∨ s.replyVerdict r ≠ .good ∨ s.holdsPort d.lport = true) := by
    rintro (hc | hc | hc)
    · rw [hre] at hc; cases hc
    · exact hc hv
    · rw [hport] at hc; cases hc
  rw [State.reissue, h]
  dsimp only
  rw [hst, hd]
  refine (if_neg hgo).trans ?_
  cases s.reissuePort r d lost <;> rfl

/-- A notice whose port takes it is sent. -/
theorem State.noticeSend_of {d : Dest} {c : Nat} (hst : r.stage = .bad (c + 1)) (hd : r.dest = some d)
    (hport : s.holdsPort d.lport = false) (hopen : s.egressOpen n (s.txPort r) { r with content := List.replicate 256 0 } = true) :
    s.noticeSend n =
      (let r1 := s.rendered { r with base := s.baseOf r.org.desc, eport := s.txPort r, unchecked := s.twin.state == 3, stage := .sent }
       let s1 := if s.twin.state == 3 then s.count Reg.TWIN_CNT_UNCHECKED else s
       let w := wireBytes d r1.content
       (((s1.takeTx (s.txPort r) n).sendFrame (s.txPort r) w true (wireLen w.length)).setReply n r1).gc) := by
  rw [State.noticeSend, h]
  dsimp only
  split
  · next c' d' hst' hd' =>
    obtain rfl : d = d' := Option.some.inj (hd.symm.trans hd')
    exact (if_neg (Bool.eq_false_iff.mp hport)).trans (if_pos hopen)
  · next hno => exact absurd hd (hno c d hst)

theorem State.egressLost_of {e : Nat} (htx : (s.ep e).tx = some n)
    (hgo : r.stage = .held ∨ (r.stage = .sent ∧ s.time.raw < (s.ep e).busyTo)) : s.egressLost e = s.cutReply n e r := by
  rw [State.egressLost, htx]
  dsimp only
  rw [h]
  exact if_pos hgo

theorem State.egressTimeout_of (hst : r.stage = .ready) (hd : r.dest.isSome = true) (ht : r.egressAt ≤ s.time.raw) :
    s.egressTimeout n = ((s.count Reg.CONV_CNT_EGRESS).egressFail r).unsent n r := by
  rw [State.egressTimeout, h]
  exact if_pos ⟨hst, hd, ht⟩

end

/-- What a reply's content is rendered from does not change whether it carries a digest. -/
theorem State.rendered_hasDig (s : State) (r : Reply) : (s.rendered r).hasDig = r.hasDig ∧ (s.rendered r).digest = r.digest := ⟨rfl, rfl⟩

/-- A reply of a port that this package sends on. -/
theorem State.heldHere_eq_false {s : State} {r : Reply} (h : ∀ d, r.dest = some d → s.holdsPort d.lport = false) :
    s.heldHere r = false := by
  unfold State.heldHere
  cases hd : r.dest with
  | none => exact Bool.and_false _
  | some d =>
    show (r.kind != 6 && s.holdsPort d.lport) = false
    rw [h d hd, Bool.and_false]

/-- Settles O27: building, the digest, transmission and release. -/
theorem repliesAreBuiltAndSent : Obligations.RepliesAreBuiltAndSent := by
  intro s n r h built
  refine ⟨fun hst hd => ?_, fun hst hd => ?_, ?_, fun hready hopen hport => ?_, ?_⟩
  · have hdig : ∀ b, (if r.hasDig && b then (1 : Nat) else 0) = 0 := fun b => by rw [hd]; rfl
    refine congrArg Host.Outcome.next ((State.replyBuild_of h hst).trans ?_)
    have hno : (s.rendered { r with base := s.baseOf r.org.desc, stage := .ready, order := s.nextOrder
                                    egressAt := s.time.raw + s.cfg Reg.CONV_TMR1 31 16 * 1000000, doneAt := s.time.raw }).hasDig = false := hd
    simp only [hno, Bool.false_and, Bool.false_eq_true, if_false]
    split <;> rfl
  · refine congrArg Host.Outcome.next ((State.replyBuild_of h hst).trans ?_)
    have hyes : (s.rendered { r with base := s.baseOf r.org.desc, stage := .ready, order := s.nextOrder
                                     egressAt := s.time.raw + s.cfg Reg.CONV_TMR1 31 16 * 1000000, doneAt := s.time.raw }).hasDig = true := hd
    simp only [hyes, Bool.true_and, if_true]
    rfl
  · intro hd hno s1 done sent
    have hbuild : r.stage = .build → ¬(r.stage = .ready) := fun hst => by rw [hst]; decide
    have hdone : ∀ kind, (match r.slot.bind (Tbl.find s.msgs) with | some m => m.kind | none => 0) = kind →
        (r.stage = .ready → exec (.digestComplete n) s = .next (sent kind)) ∧
        (r.stage = .build → exec (.digestComplete n) s = .next (s1.setReply n (done kind))) := fun kind hk =>
      ⟨fun hst => congrArg Host.Outcome.next ((State.digestComplete_of h hd hno hk rfl).trans (if_pos hst)),
        fun hst => congrArg Host.Outcome.next ((State.digestComplete_of h hd hno hk rfl).trans (if_neg (hbuild hst)))⟩
    refine ⟨fun hslot => ?_, fun k m hslot hm => ?_⟩
    · have hs1 : s1 = s := by simp only [s1, hslot]
      obtain ⟨hready, hb⟩ := hdone 0 (by rw [hslot]; rfl)
      exact ⟨hready, fun hst => (hb hst).trans (by rw [hs1])⟩
    · have hs1 : s1 = s.pairDrop k := by simp only [s1, hslot]
      obtain ⟨hready, hb⟩ := hdone m.kind (by rw [hslot, Option.bind_some, hm])
      exact ⟨hready, fun hst => (hb hst).trans (by rw [hs1])⟩
  · have hheld := State.heldHere_eq_false hport
    exact ⟨fun hk => congrArg Host.Outcome.next (State.transmit_of h hready (by simpa using hk) hheld hopen),
      fun hk => congrArg Host.Outcome.next (State.transmit_of h hready (by simpa using hk) hheld hopen)⟩
  · intro t hf hrel hst ht hheld r1 onTime
    have hfix := State.fixedRelease_of h hf hrel hst ht hheld
    have honTime : (16 * s.time.raw ≤ t ∧ 16 * (r1.doneAt + 4) ≤ t ∧ s.replyReady r1 = true ∧ s.carries (s.txPort r1) r1 = true ∧
        s.portFree (s.txPort r1) = true ∧ (!s.rival n (s.txPort r1) t r1) = true) ↔ onTime := by
      rw [Bool.not_eq_true']
    exact ⟨fun hon => congrArg Host.Outcome.next (hfix.trans (if_pos (honTime.mpr hon))),
      fun hoff => congrArg Host.Outcome.next (hfix.trans (if_neg (mt honTime.mp hoff)))⟩

/-- Settles O28: each event of the gate. -/
theorem theGateHoldsExtendsAndStomps : Obligations.TheGateHoldsExtendsAndStomps := by
  intro s n r h
  refine ⟨fun hst hv hext => congrArg Host.Outcome.next (State.heldUnitDue_pending h hst hv hext),
    fun d hst hv hd => congrArg Host.Outcome.next (State.heldUnitDue_good h hst hv hd),
    fun hst hv hext => congrArg Host.Outcome.next (State.exhausted_of h hst hv hext),
    fun d lost hst hd hre hv hport hno => congrArg Host.Outcome.next ?_,
    fun d c hst hd hport hopen => congrArg Host.Outcome.next (State.noticeSend_of h hst hd hport hopen),
    fun e htx hgo => congrArg Host.Outcome.next (State.egressLost_of h htx hgo),
    fun hst hd ht => congrArg Host.Outcome.next (State.egressTimeout_of h hst hd ht)⟩
  rw [State.reissue_kept h hst hd hre hv hport, hno]

/-- Settles O29: the member that takes the kept reply. -/
theorem keptReplyIsReissued : Obligations.KeptReplyIsReissued := by
  intro s n r d e lost h hst hd hre htwin hv hport hsome hopen htw hslot r1 w
  refine congrArg Host.Outcome.next ?_
  have hun : (s.twin.state == 3) = false := beq_false_of_ne htw
  have hpass : ¬(r.twinHeld = true ∨ lost = true ∧ r.slot.isNone = true) := by
    rintro (hc | ⟨-, hc⟩)
    · rw [htwin] at hc; cases hc
    · rw [Option.isNone_iff_eq_none] at hc
      rw [hc] at hslot; cases hslot
  rw [State.reissue_kept h hst hd hre hv hport, hsome]
  simp only [hopen, if_true, hun, if_neg htw, if_neg hpass]
  rfl

end Sys2Proof.Machine
end

section
/-! Conversations that take effect and close, and the admission of samples and of array messages (R38, R89, R112, R133, R147, R155,
R158, R167, R245 to R257, R311). -/
namespace Sys2Proof.Machine

/-! ## Conversations -/

/-- The effects of a message whose result stands with every verdict good, of a reply without a partner record that is still to pass. -/
theorem State.effectsApply_of {s : State} {n k c : Nat} {m : Msg} {r : Reply} {st : WinStep} (hm : Tbl.find s.msgs n = some m)
    (hreply : m.reply = some k) (hr : Tbl.find s.replies k = some r) (happ : m.applied = false) (hkind : r.kind = 0)
    (hstage : r.stage ≠ .build) (hcomplete : s.complete m = true) (hv : s.replyVerdict r = .good)
    (hdig : (r.hasDig && r.digest.isNone) = false) (hconv : m.org.desc.conv = some c) (hstep : m.step = some st)
    (htrec : r.trec = none) (hgone : m.gone = false) (hdest : r.dest ≠ none) : s.effectsApply n =
      State.ctxEffects { s.convEffects c m.org.desc st r with
        msgs := Tbl.modify (s.convEffects c m.org.desc st r).msgs n (fun x => { x with applied := true, units := 0 }) } m := by
  have hgo : ¬(m.applied = true ∨ r.kind ≠ 0 ∨ r.stage = .build ∨ (!s.complete m) = true ∨ s.replyVerdict r ≠ .good ∨
      (r.hasDig && r.digest.isNone) = true) := by
    simp [happ, hkind, hstage, hcomplete, hv, hdig]
  have hstay : ¬(m.gone = true ∨ r.dest = none) := by simp [hgone, hdest]
  have hkept : ¬(m.gone = true ∧ r.stage ≠ .sent) := by simp [hgone]
  rw [State.effectsApply, hm]
  dsimp only
  rw [hreply, Option.bind_some, hr]
  refine (if_neg hgo).trans ?_
  rw [hconv, hstep, htrec]
  dsimp only
  rw [if_neg hkept, if_neg hstay]

/-- A quiet conversation closes. -/
theorem State.quietOver_of {s : State} {c ms : Nat} (hnone : s.convMsgs c = []) (h : (s.conv c).quietFrom + ms * 1000000 + 4 ≤ s.time.raw) :
    s.quietOver c ms = true := by
  rw [State.quietOver, hnone, decide_eq_true h]
  rfl

/-- Settles O30: effects, closings, and the timers of frames and tokens. -/
theorem conversationsTakeEffectAndClose : Obligations.ConversationsTakeEffectAndClose := by
  refine ⟨?_, ?_, ?_, ?_⟩
  · intro s n k m r c st hm hreply hr happ hkind hstage hcomplete hv hdig hconv hstep htrec hgone hdest s1
    exact congrArg Host.Outcome.next (State.effectsApply_of hm hreply hr happ hkind hstage hcomplete hv hdig hconv hstep htrec hgone hdest)
  · intro s c hnone x shut closed
    exact ⟨fun hst h => congrArg Host.Outcome.next (if_pos ⟨hst, State.quietOver_of hnone h⟩),
      fun hst h => congrArg Host.Outcome.next (if_pos ⟨hst, State.quietOver_of hnone h⟩)⟩
  · intro s n t m hm hgap ht hcomplete hreply hun
    have hgo : ¬(s.time.raw ≤ t ∨ s.complete m = true ∨
        s.frames.any (fun x => decide (x.2.raw ≤ t + 4) && s.undispatched x.1 x.2) = true) := by
      rw [hcomplete, hun]
      simp only [Bool.false_eq_true, or_false]
      omega
    refine congrArg Host.Outcome.next ?_
    rw [State.gapExpire, hm]
    dsimp only
    rw [hgap]
    refine (if_neg hgo).trans ?_
    rw [hreply]
  · intro s n k m x hm hctx hx hstage hp hwait
    refine congrArg Host.Outcome.next ?_
    rw [State.seqWaitTimeout, hm]
    dsimp only
    rw [hctx, Option.bind_some, hx]
    exact if_pos ⟨hstage, hp, hwait⟩

/-! ## Samples (R89, R112, R133) -/

/-- A message waits or has arrived. -/
theorem stage_waits {m : Msg} (h : m.stage = .arrived ∨ m.stage = .queued) : (!(decide (m.stage = .arrived ∨ m.stage = .queued))) = false := by
  rw [decide_eq_true h]
  rfl

/-- The message is at the front of its handle's queue, or nothing waits there. -/
def atFront (l : List Nat) (n : Nat) : Bool := match l with | [] => true | a :: _ => a == n

theorem atFront_iff (l : List Nat) (n : Nat) : atFront l n = true ↔ l = [] ∨ l.head? = some n := by
  cases l with
  | nil => simp [atFront]
  | cons a l => simp [atFront]

/-- SAMPLE_ADMIT of a message whose version serves or does not. -/
theorem State.sampleAdmit_of {s s1 : State} {n : Nat} {m : Msg} {v : Version} (hl : s.leaving n = some (s1, m))
    (hv : (s1.handle m.target).ver m.version = some v) (hb : m.boom = false) (hk : m.kind = 0)
    (hst : m.stage = .arrived ∨ m.stage = .queued) : s.sampleAdmit n =
      if !v.serves then ((s1.count Reg.RPR_CNT_ITEMRETRY).answerMsg n stFaultRetry 0 0).settle
      else
        let first := atFront (s1.handle m.target).queue n
        match v.part with
        | some p =>
          if p.out ∨ !s1.admits ∨ !first then (s1.enqueue n m v).settle
          else if !p.canOpen then (s1.busyMsg n 3 (max 1 (ceilDiv (s1.nextPass v p) 1000))).settle
          else if v.useCopies then
            match s1.soonest v with
            | some c => s1.admitSample n m v (some c)
            | none => (s1.enqueue n m v).settle
          else s1.admitSample n m v none
        | none =>
          match s1.soonest v with
          | some c => if s1.admits && first then s1.admitSample n m v (some c) else (s1.enqueue n m v).settle
          | none => (s1.enqueue n m v).settle := by
  have hgo : ¬(m.boom = true ∨ m.kind ≠ 0 ∨ (!decide (m.stage = .arrived ∨ m.stage = .queued)) = true) := by
    rw [hb, hk, stage_waits hst]
    simp
  rw [State.sampleAdmit, hl]
  dsimp only
  rw [hv]
  exact if_neg hgo

/-- Of a version with a part in batches: the sample joins the open batch, with a copy where the version uses copies. -/
theorem State.sampleAdmit_part {s s1 : State} {n : Nat} {m : Msg} {v : Version} {p : BatchPart} (hl : s.leaving n = some (s1, m))
    (hv : (s1.handle m.target).ver m.version = some v) (hb : m.boom = false) (hk : m.kind = 0)
    (hst : m.stage = .arrived ∨ m.stage = .queued) (hserve : v.serves = true) (hpart : v.part = some p) : s.sampleAdmit n =
      if p.out ∨ !s1.admits ∨ !atFront (s1.handle m.target).queue n then (s1.enqueue n m v).settle
      else if !p.canOpen then (s1.busyMsg n 3 (max 1 (ceilDiv (s1.nextPass v p) 1000))).settle
      else if v.useCopies then
        match s1.soonest v with
        | some c => s1.admitSample n m v (some c)
        | none => (s1.enqueue n m v).settle
      else s1.admitSample n m v none := by
  rw [State.sampleAdmit_of hl hv hb hk hst, hserve, hpart]
  rfl

/-- A sample that waits stands at the end of its queue, and one that finds it full is busy. -/
theorem State.enqueue_of {s : State} {n : Nat} (m : Msg) (v : Version) (h : (s.handle m.target).queue.contains n = false) :
    s.enqueue n m v = if 1024 ≤ (s.handle m.target).queue.length then s.busyMsg n 2 (s.queueInfo m.target v)
      else (s.setHandle m.target { s.handle m.target with queue := (s.handle m.target).queue ++ [n] }).setMsg n
        { m with stage := .queued, queuedAt := s.time.raw, waitTo := s.time.raw + s.cfg Reg.CONV_TMR1 15 0 * 1000 } :=
  if_neg (Bool.eq_false_iff.mp h)

/-- Settles O33: copies, batches, and the queue. -/
theorem samplesAreAdmitted : Obligations.SamplesAreAdmitted := by
  intro s s1 n m v hl hv hb hk hst front
  have hadmit := State.sampleAdmit_of hl hv hb hk hst
  have hfront : atFront (s1.handle m.target).queue n = true ↔ front := atFront_iff _ _
  have hjoin : ∀ {p}, v.serves = true → v.part = some p → p.out = false → s1.admits = true → front → s.sampleAdmit n =
      if !p.canOpen then (s1.busyMsg n 3 (max 1 (ceilDiv (s1.nextPass v p) 1000))).settle
      else if v.useCopies then
        match s1.soonest v with
        | some c => s1.admitSample n m v (some c)
        | none => (s1.enqueue n m v).settle
      else s1.admitSample n m v none := fun hserve hpart hout had hf =>
    (State.sampleAdmit_part hl hv hb hk hst hserve hpart).trans (if_neg (by rw [hout, had, hfront.mpr hf]; decide))
  refine ⟨fun hno => ?_, fun hserve hpart => ⟨fun c hsoon had hf => ⟨?_, ?_⟩, fun hwait => ?_⟩, fun p hserve hpart => ⟨fun hwait => ?_,
    fun hout had hf => ⟨fun hopen => ?_, fun hopen hcopies => ?_, fun hopen hcopies => ⟨fun c hsoon => ?_, fun hsoon => ?_⟩⟩⟩,
    fun hin => ⟨fun hfull => ?_, fun hroom => ?_⟩⟩
  · exact congrArg Host.Outcome.next (hadmit.trans (if_pos (by rw [hno]; rfl)))
  · refine congrArg Host.Outcome.next ?_
    rw [hadmit, hserve, hpart, hsoon, had, hfront.mpr hf]
    rfl
  · refine ⟨_, Tbl.find_put_self .., rfl, ?_⟩
    rw [hpart]; rfl
  · refine congrArg Host.Outcome.next ?_
    rw [hadmit, hserve, hpart]
    cases hsoon : s1.soonest v with
    | none => rfl
    | some c =>
      have hno : (s1.admits && atFront (s1.handle m.target).queue n) = false := by
        rw [Bool.and_eq_false_iff]
        rcases hwait with h | h | h
        · rw [hsoon] at h; cases h
        · exact Or.inl h
        · exact Or.inr (Bool.eq_false_iff.mpr (mt hfront.mp h))
      exact if_neg (Bool.eq_false_iff.mp hno)
  · refine congrArg Host.Outcome.next ((State.sampleAdmit_part hl hv hb hk hst hserve hpart).trans (if_pos ?_))
    rcases hwait with h | h | h
    · exact Or.inl h
    · exact Or.inr (Or.inl (by rw [h]; rfl))
    · exact Or.inr (Or.inr (by rw [Bool.eq_false_iff.mpr (mt hfront.mp h)]; rfl))
  · exact congrArg Host.Outcome.next ((hjoin hserve hpart hout had hf).trans (if_pos (by rw [hopen]; rfl)))
  · exact congrArg Host.Outcome.next ((hjoin hserve hpart hout had hf).trans
      ((if_neg (by rw [hopen]; decide)).trans (if_neg (by rw [hcopies]; decide))))
  · refine congrArg Host.Outcome.next ((hjoin hserve hpart hout had hf).trans
      ((if_neg (by rw [hopen]; decide)).trans ((if_pos hcopies).trans ?_)))
    rw [hsoon]
  · refine congrArg Host.Outcome.next ((hjoin hserve hpart hout had hf).trans
      ((if_neg (by rw [hopen]; decide)).trans ((if_pos hcopies).trans ?_)))
    rw [hsoon]
  · rw [State.enqueue_of m v hin, if_pos hfull]
  · rw [State.enqueue_of m v hin, if_neg (Nat.not_le.mpr hroom)]
    exact congrArg Handle.queue (Tbl.getD_put_self ..)

/-! ## Array messages (R147, R155, R158, R167, R311) -/

/-- ARRAY_ADMIT of a message whose version is held. -/
theorem State.arrayAdmit_of {s s1 : State} {n : Nat} {m : Msg} {v : Version} (hl : s.leaving n = some (s1, m))
    (hv : (s1.handle m.target).ver m.version = some v) (hb : m.boom = false) (hk : m.kind = 1) (hvk : v.kind = 1)
    (hst : m.stage = .arrived ∨ m.stage = .queued) : s.arrayAdmit n =
      if v.acopies.all (fun c => c.2.out) then ((s1.count Reg.RPR_CNT_ITEMRETRY).answerMsg n stFaultRetry 0 0).settle
      else
        match v.acopies.find? (fun c => s1.copyAdmits m.target v c.1 c.2 m.exact) with
        | some (c, cp) =>
          if s1.admits && atFront (s1.handle m.target).queue n then
            let s2 := s1.setHandle m.target { s1.handle m.target with queue := (s1.handle m.target).queue.filter (· != n) }
            (s2.startRun m.target v c cp (some n) none 0 m.exact (m.descIn none) m.org.data (sampleKey m.sample)).setMsg n
              { m with stage := .running }
          else s1.arrayQueue n m v .queued
        | none => s1.arrayQueue n m v .queued := by
  have hgo : ¬(m.boom = true ∨ m.kind ≠ 1 ∨ v.kind ≠ 1 ∨ (!decide (m.stage = .arrived ∨ m.stage = .queued)) = true) := by
    rw [hb, hk, hvk, stage_waits hst]
    simp
  rw [State.arrayAdmit, hl]
  dsimp only
  rw [hv]
  exact if_neg hgo

/-- An array message that waits stands at the end of its queue, and one that finds it full is busy. -/
theorem State.arrayQueue_of {s : State} {n : Nat} (m : Msg) (v : Version) (st : MsgStage)
    (h : (s.handle m.target).queue.contains n = false) : s.arrayQueue n m v st =
      if 1024 ≤ (s.handle m.target).queue.length then (s.busyMsg n 2 (s.arrayInfo m.target v m.exact)).settle
      else (s.setHandle m.target { s.handle m.target with queue := (s.handle m.target).queue ++ [n] }).setMsg n
        { m with stage := st, queuedAt := s.time.raw, waitTo := s.time.raw + s.cfg Reg.CONV_TMR1 15 0 * 1000 } :=
  if_neg (Bool.eq_false_iff.mp h)

/-- Settles O39: admission by a copy, the queue, its timeout, and the gap of a mode change. -/
theorem arrayMessagesAreAdmitted : Obligations.ArrayMessagesAreAdmitted := by
  refine ⟨?_, ?_, ?_⟩
  · intro s s1 n m v hl hv hb hk hvk hst found front
    have hadmit := State.arrayAdmit_of hl hv hb hk hvk hst
    have hfront : atFront (s1.handle m.target).queue n = true ↔ front := atFront_iff _ _
    refine ⟨fun hout => congrArg Host.Outcome.next (hadmit.trans (if_pos hout)), fun hout => ⟨fun c cp hfound had hf => ?_, fun hwait hin => ?_⟩⟩
    · intro s2
      refine congrArg Host.Outcome.next (hadmit.trans ((if_neg (Bool.eq_false_iff.mp hout)).trans ?_))
      rw [show v.acopies.find? (fun c => s1.copyAdmits m.target v c.1 c.2 m.exact) = some (c, cp) from hfound, had, hfront.mpr hf]
      rfl
    · have hqueue : exec (.arrayAdmit n) s = .next (s1.arrayQueue n m v .queued) := by
        refine congrArg Host.Outcome.next (hadmit.trans ((if_neg (Bool.eq_false_iff.mp hout)).trans ?_))
        cases hfind : v.acopies.find? (fun c => s1.copyAdmits m.target v c.1 c.2 m.exact) with
        | none => rfl
        | some x =>
          have hno : (s1.admits && atFront (s1.handle m.target).queue n) = false := by
            rw [Bool.and_eq_false_iff]
            rcases hwait with h | h | h
            · exact absurd (h.symm.trans hfind) (by simp)
            · exact Or.inl h
            · exact Or.inr (Bool.eq_false_iff.mpr (mt hfront.mp h))
          exact if_neg (Bool.eq_false_iff.mp hno)
      rw [hqueue, State.arrayQueue_of m v .queued hin]
      refine ⟨fun hroom => ?_, fun hfull => by rw [if_pos hfull]⟩
      rw [if_neg (Nat.not_le.mpr hroom)]
      exact ⟨_, rfl, congrArg Handle.queue (Tbl.getD_put_self ..), _, Tbl.find_put_self .., rfl⟩
  · intro s n m v hm hv hk hin hwait hheld
    refine congrArg Host.Outcome.next ?_
    rw [State.queueTimeout, hm]
    dsimp only
    rw [hv]
    exact if_pos ⟨hk, hin, hwait, hheld⟩
  · intro s h c v cp hcp hfind
    have hgap : s.modeGapEnd h c = if s.modeGap v cp s.exact then s
        else s.modVer h v.number (fun v => { v with acopies := Tbl.put v.acopies c { cp with exact := s.exact } }) := by
      unfold State.modeGapEnd
      split
      · next hnone => exact absurd (hfind.symm.trans hnone) (by simp)
      · next v' hsome =>
        obtain rfl : v = v' := Option.some.inj (hfind.symm.trans hsome)
        rw [hcp]
    exact ⟨fun hno => congrArg Host.Outcome.next (hgap.trans (if_neg (Bool.eq_false_iff.mp hno))),
      fun hyes => congrArg Host.Outcome.next (hgap.trans (if_pos hyes))⟩

end Sys2Proof.Machine
end

section
/-! Forests: the combine, batches and shadow lanes (R93 to R103, R112, R113). -/
namespace Sys2Proof.Machine

/-! ## What rewriting a memory leaves -/

theorem State.rewrite_handles (s : State) (d a n : Nat) : (s.rewrite d a n).handles = s.handles := by
  unfold State.rewrite; split <;> rfl

theorem State.rewriteStore_handles (s : State) (d c : Nat) : (s.rewriteStore d c).handles = s.handles := s.rewrite_handles ..
theorem State.rewriteLane_handles (s : State) (d e l : Nat) : (s.rewriteLane d e l).handles = s.handles := s.rewrite_handles ..

/-- What each step of a run of steps leaves as it is, the run leaves. -/
theorem foldl_keeps {α β : Type} (p : State → β) (f : State → α → State) (hf : ∀ s x, p (f s x) = p s) (l : List α) (s : State) :
    p (l.foldl f s) = p s := by
  induction l generalizing s with
  | nil => rfl
  | cons x l ih => exact (ih _).trans (hf s x)

theorem State.rewriteLanes_handles (s : State) (v : Version) (copy : Option Nat) : (s.rewriteLanes v copy).handles = s.handles := by
  unfold State.rewriteLanes
  split
  · rfl
  · exact foldl_keeps State.handles _ (fun s l => s.rewriteLane_handles ..) _ s

theorem State.rewriteParts_handles (s : State) (h : Nat) (p : Version → BatchPart → Bool) :
    (s.rewriteParts h p).handles = s.handles := by
  unfold State.rewriteParts
  dsimp only
  split
  · rfl
  · split
    · exact s.rewriteLanes_handles ..
    · split
      · exact (foldl_keeps State.handles _ (fun s x => s.rewriteStore_handles ..) _ _).trans (s.rewriteLanes_handles ..)
      · exact s.rewriteLanes_handles ..

/-! ## The combine (R93 to R99) -/

theorem State.combineComplete_of {s : State} {n : Nat} {m : Msg} {r : ForestRun} {v : Version} (hm : Tbl.find s.msgs n = some m)
    (hr : m.forest = some r) (hv : (s.handle m.target).ver m.version = some v) (hst : m.stage = .running)
    (hpart : r.part = false ∨ r.partDone = true) : s.combineComplete n =
      (let x := evalForest v.image v.forest (sampleKey m.sample)
       s.decideResult n x.block false x.sat (v.mode == 1) 0 (List.replicate 32 0 ++ v.digest)) := by
  have hgo : ¬(m.stage ≠ .running ∨ (r.part && !r.partDone) = true) := by
    rw [hst]
    rcases hpart with h | h <;> rw [h] <;> simp
  rw [State.combineComplete, hm]
  dsimp only
  rw [hr, hv]
  exact if_neg hgo

/-- The sample waits for the partial of a die of its copy that has not been late. -/
theorem State.awaitsPartial_of {s : State} {n d : Nat} {m : Msg} {r : ForestRun} {v : Version} (hm : Tbl.find s.msgs n = some m)
    (hr : m.forest = some r) (hv : (s.handle m.target).ver m.version = some v) (hst : m.stage = .running)
    (hd : v.onDie r.copy d = true) (hl : r.lateDies.contains d = false) : s.awaitsPartial n d = true := by
  simp only [State.awaitsPartial, hm, hr, hv, hst, hd, hl]
  rfl

/-- Settles O34: the combine and a late partial. -/
theorem forestResultsCombine : Obligations.ForestResultsCombine := by
  intro s n m r v hm hr hv hst
  refine ⟨fun hpart => congrArg Host.Outcome.next (State.combineComplete_of hm hr hv hst hpart), fun d hd hdie hlate => ?_⟩
  have hlate' := State.awaitsPartial_of hm hr hv hst hdie hlate
  have hgo : ¬(4 ≤ d ∨ s.awaitsPartial n d = false ∧ (s.fevalsOwed n d).map (·.1) = []) := by
    rw [hlate']
    simp only [Bool.true_eq_false, false_and, or_false]
    omega
  refine congrArg Host.Outcome.next ?_
  rw [State.partialLate]
  refine (if_neg hgo).trans ?_
  have hmod : Tbl.modify (s.count (Reg.FRST_CNT_LATE d)).msgs n (fun m =>
      { m with forest := m.forest.map (fun r => { r with lateDies := r.lateDies ++ [d] }) }) =
        Tbl.put s.msgs n { m with forest := some { r with lateDies := r.lateDies ++ [d] } } := by
    have hm' : Tbl.find (s.count (Reg.FRST_CNT_LATE d)).msgs n = some m := hm
    unfold Tbl.modify
    rw [hm']
    dsimp only
    rw [hr]
    rfl
  rw [hlate']
  dsimp only
  rw [if_pos rfl, hmod]
  rfl

/-! ## Batches (R112, R113) -/

/-- The versions of a handle that serve or drain, in the order in which they are looked at. -/
abbrev State.drawn (s : State) (h : Nat) : List Version := (s.handle h).serving.toList ++ (s.handle h).old

/-- A version with a batch part that meets a condition. -/
abbrev partMeets (c : Version → BatchPart → Bool) (v : Version) : Bool := match v.part with | some b => c v b | none => false

theorem State.onPart_none {s : State} {h : Nat} {p : Version → BatchPart → Bool} {f : Version → BatchPart → BatchPart}
    (hn : (s.drawn h).find? (partMeets p) = none) : s.onPart h p f = s := by
  unfold State.onPart
  dsimp only
  split
  · rfl
  · next v hv => exact absurd (hn.symm.trans hv) (by simp)

theorem State.onPart_some {s : State} {h : Nat} {p : Version → BatchPart → Bool} {f : Version → BatchPart → BatchPart} {v : Version}
    (hs : (s.drawn h).find? (partMeets p) = some v) :
    s.onPart h p f = s.modVer h v.number (fun w => { w with part := w.part.map (f w) }) := by
  unfold State.onPart
  dsimp only
  split
  · next hn => exact absurd (hs.symm.trans hn) (by simp)
  · next v' hv =>
    obtain rfl : v = v' := Option.some.inj (hs.symm.trans hv)
    rfl

/-- With no part to start, nothing is rewritten. -/
theorem State.rewriteParts_none {s : State} {h : Nat} {p : Version → BatchPart → Bool}
    (hn : (s.drawn h).find? (partMeets p) = none) : s.rewriteParts h p = s := by
  unfold State.rewriteParts
  dsimp only
  split
  · rfl
  · next v hv => exact absurd (hn.symm.trans hv) (by simp)

/-- What rewriting leaves, the choice of a version sees. -/
theorem State.drawn_of_handles {s t : State} (h : t.handles = s.handles) (k : Nat) : t.drawn k = s.drawn k := by
  simp only [State.drawn, State.handle, h]

/-- The batch that closes waits behind those that are closed, and no batch opens while two wait. -/
theorem BatchPart.close_spec (p : BatchPart) :
    p.close.batch = [] ∧ p.close.closed = p.closed ++ [p.batch] ∧ (p.close.canOpen = true ↔ p.closed.length + 1 < 2) := by
  refine ⟨rfl, rfl, ?_⟩
  show decide ((p.closed ++ [p.batch]).length < 2) = true ↔ _
  rw [decide_eq_true_eq, List.length_append]
  rfl

theorem BatchPart.startPass_of {p : BatchPart} {b : List Nat} {rest : List (List Nat)} (h : p.closed = b :: rest) (raw : Nat) :
    p.startPass raw = { p with closed := rest, running := p.running ++ [(b, raw)], last := some raw, canOpen := true } := by
  unfold BatchPart.startPass
  rw [h]

/-- A finished pass changes registers alone. -/
theorem State.passDone_keeps (s : State) (v : Version) (p : BatchPart) (d : Nat) :
    (s.passDone v p d).handles = s.handles ∧ (s.passDone v p d).msgs = s.msgs := by
  unfold State.passDone
  dsimp only
  split
  · exact ⟨rfl, rfl⟩
  · split <;> exact ⟨rfl, rfl⟩

/-- The state once the passes of a batch are counted and its samples marked. -/
def State.batchDrawn (s : State) (h : Nat) (v : Version) (p : BatchPart) (b : List Nat) (rest : List (List Nat × Nat)) : State :=
  let s1 := s.modVer h v.number (fun v => { v with part := some { p with running := rest } })
  let s2 := (List.range 4).foldl (fun s d => s.passDone v p d) s1
  { s2 with msgs := Tbl.mapVals s2.msgs (fun n m =>
      if b.contains n then { m with forest := m.forest.map (fun r => { r with partDone := true }) } else m) }

theorem State.batchDone_none {s : State} {h : Nat} {ue : Bool}
    (hn : (s.drawn h).find? (partMeets (fun _ p => p.running != [])) = none) : s.batchDone h ue = s := by
  unfold State.batchDone
  dsimp only
  split
  · rfl
  · next v hv => exact absurd (hn.symm.trans hv) (by simp)

theorem State.batchDone_some {s : State} {h t0 : Nat} {ue : Bool} {v : Version} {p : BatchPart} {b : List Nat}
    {rest : List (List Nat × Nat)} (hs : (s.drawn h).find? (partMeets (fun _ p => p.running != [])) = some v)
    (hp : v.part = some p) (hr : p.running = (b, t0) :: rest) : s.batchDone h ue =
      if ue && v.streamed then
        let ds := (List.range 4).filter (fun d => 0 < p.jobs d)
        let r := (s.batchDrawn h v p b rest).drawNat (ds.length - 1)
        (b.foldl (fun s n => s.unitFail n false) (r.2.poolUe (ds.getD r.1 0))).settle
      else s.batchDrawn h v p b rest := by
  unfold State.batchDone
  dsimp only
  split
  · next hn => exact absurd (hs.symm.trans hn) (by simp)
  · next v' hv =>
    obtain rfl : v = v' := Option.some.inj (hs.symm.trans hv)
    rw [hp]
    dsimp only
    rw [hr]
    rfl

/-- The batch is out of the running ones, and its samples' partials are done. -/
theorem State.batchDrawn_spec (s : State) (h : Nat) (v : Version) (p : BatchPart) (b : List Nat) (rest : List (List Nat × Nat)) :
    (s.batchDrawn h v p b rest).handle h = (s.handle h).modVer v.number (fun w => { w with part := some { p with running := rest } }) ∧
    (∀ k m r, k ∈ b → Tbl.find s.msgs k = some m → m.forest = some r →
      ∃ m', Tbl.find (s.batchDrawn h v p b rest).msgs k = some m' ∧ m'.forest = some { r with partDone := true }) := by
  have hkeep : ∀ (s : State), ((List.range 4).foldl (fun s d => s.passDone v p d) s).handles = s.handles ∧
      ((List.range 4).foldl (fun s d => s.passDone v p d) s).msgs = s.msgs := fun s =>
    ⟨foldl_keeps State.handles (fun s d => s.passDone v p d) (fun s d => (s.passDone_keeps v p d).1) _ s,
      foldl_keeps State.msgs (fun s d => s.passDone v p d) (fun s d => (s.passDone_keeps v p d).2) _ s⟩
  obtain ⟨hhandles, hmsgs⟩ := hkeep (s.modVer h v.number (fun v => { v with part := some { p with running := rest } }))
  refine ⟨?_, fun k m r hk hm hr => ?_⟩
  · show Tbl.getD (List.foldl _ _ _ : State).handles h {} = _
    rw [hhandles]
    exact Tbl.getD_put_self ..
  · refine ⟨{ m with forest := some { r with partDone := true } }, ?_, rfl⟩
    unfold State.batchDrawn
    dsimp only
    rw [find_mapVals, hmsgs]
    refine (congrArg (Option.map _) hm).trans ?_
    rw [Option.map_some, if_pos (List.contains_iff_mem.mpr hk), hr]
    rfl

/-! ## Shadow lanes (R101) -/

/-- The first of sixteen places that meets a condition. -/
theorem find_range_first {p : Nat → Bool} {n i : Nat} (hi : i < n) (hp : p i = true) (hbefore : ∀ j, j < i → p j = false) :
    (List.range n).find? p = some i := by
  rw [List.find?_range_eq_some]
  exact ⟨hp, List.mem_range.mpr hi, fun j hj => by rw [hbefore j hj]; rfl⟩

/-- The lane, of its sixteen, that a spare lane shadows; before the first rotation the last. -/
def State.shadowAt (s : State) (d e sp : Nat) : Nat :=
  match Tbl.find s.units.partner (shadowKey d e sp) with | some x => x % 16 | none => 15

theorem State.shadowRotate_of {s : State} {d e sp : Nat} (hd : d < 4) (he : e < 16) (hsp : sp < 16) (hfree : s.shadowFree d e sp = true) :
    s.shadowRotate d e sp =
      match ((List.range 16).find? (fun i => s.shadowable d e (16 * sp + (s.shadowAt d e sp + 1 + i) % 16))).map
          (fun i => (s.shadowAt d e sp + 1 + i) % 16) with
      | none => s
      | some i =>
        let s1 := (s.rewriteStore d (e / 2)).rewriteLane d e (256 + sp)
        { s1 with units.partner := Tbl.put s1.units.partner (shadowKey d e sp) (16 * sp + i)
                  units.shadowOff := s1.units.shadowOff.filter (· != shadowKey d e sp) } := by
  have hgo : ¬(4 ≤ d ∨ 16 ≤ e ∨ 16 ≤ sp ∨ (!s.shadowFree d e sp) = true) := by
    rw [hfree]
    simp only [Bool.not_true, Bool.false_eq_true, or_false]
    omega
  have hmap : ((List.range 16).map (fun i => (s.shadowAt d e sp + 1 + i) % 16)).find? (fun i => s.shadowable d e (16 * sp + i)) =
      ((List.range 16).find? (fun i => s.shadowable d e (16 * sp + (s.shadowAt d e sp + 1 + i) % 16))).map
        (fun i => (s.shadowAt d e sp + 1 + i) % 16) := List.find?_map ..
  rw [← hmap]
  exact if_neg hgo

/-- Settles O35: closing, starting and completing a batch, and the rotation of shadow lanes. -/
theorem batchesCloseRunAndShadowsRotate : Obligations.BatchesCloseRunAndShadowsRotate := by
  refine ⟨?_, ?_⟩
  · intro s h parts due may runs
    have hsame : ∀ c, parts c = (s.drawn h).find? (partMeets c) := fun c => rfl
    refine ⟨fun hn => ?_, fun v p hs hp => ⟨?_, p.close_spec⟩, fun hn => ?_, fun v p b rest hs hp hclosed => ⟨?_, p.startPass_of hclosed _⟩,
      fun ue hn => ?_, fun v p b t0 rest hs hp hr => ?_⟩
    · exact congrArg Host.Outcome.next (State.onPart_none hn)
    · exact congrArg Host.Outcome.next (State.onPart_some hs)
    · refine congrArg Host.Outcome.next ?_
      show State.onPart (s.rewriteParts h may) h may _ = s
      rw [State.rewriteParts_none hn]
      exact State.onPart_none hn
    · exact congrArg Host.Outcome.next (State.onPart_some ((congrArg (List.find? (partMeets may))
        (State.drawn_of_handles (s.rewriteParts_handles h may) h)).trans hs))
    · exact congrArg Host.Outcome.next (State.batchDone_none hn)
    · have hdone : ∀ ue, exec (.batchPassComplete ⟨h, ue⟩) s = .next _ := fun ue =>
        congrArg Host.Outcome.next (State.batchDone_some (ue := ue) hs hp hr)
      obtain ⟨hhandle, hmsgs⟩ := s.batchDrawn_spec h v p b rest
      refine ⟨s.batchDrawn h v p b rest, hdone false, hhandle, hmsgs, fun hno => ?_, fun hyes => ?_⟩
      · rw [hdone true, hno]; rfl
      · rw [hdone true, hyes]; rfl
  · intro s d e sp hd he hsp cur s1
    refine ⟨fun hno => congrArg Host.Outcome.next ?_, fun i hfree hi hmay hbefore => congrArg Host.Outcome.next ?_⟩
    · cases hfree : s.shadowFree d e sp with
      | false =>
        refine if_pos (Or.inr (Or.inr (Or.inr ?_)))
        rw [hfree]; rfl
      | true =>
        have hnone := hno.resolve_left (by rw [hfree]; decide)
        have hfind : (List.range 16).find? (fun i => s.shadowable d e (16 * sp + (s.shadowAt d e sp + 1 + i) % 16)) = none := by
          rw [List.find?_eq_none]
          intro i _
          rw [hnone _ (Nat.mod_lt _ (by decide))]
          decide
        rw [State.shadowRotate_of hd he hsp hfree, hfind]
        rfl
    · have hfind : (List.range 16).find? (fun i => s.shadowable d e (16 * sp + (s.shadowAt d e sp + 1 + i) % 16)) = some i :=
        find_range_first hi hmay hbefore
      rw [State.shadowRotate_of hd he hsp hfree, hfind]
      rfl

end Sys2Proof.Machine
end

section
/-! The model commands: loading, activation, unloading, draining, release and re-placement (R117 to R133, R158, R163 to R167). -/
namespace Sys2Proof.Machine

/-! ## Loads -/

/-- LOAD past its taking: the first checks fail, or the image decides. -/
theorem State.loadCmd_of {s s1 : State} {i : Nat} {c : MboxCmd} (h : s.takeCmd i 0x01 = some (c, s1)) : s.loadCmd i =
    if s.loadHead c.desc (loadParamBad c.desc) true ≠ 0 then (s1.mirrorHeal (leAt c.desc 24 8) 128).startLoad c
      { status := s.loadHead c.desc (loadParamBad c.desc) true, b1 := leAt c.desc 1 1, handle := leAt c.desc 4 2
        version := leAt c.desc 6 2 } none (s1.mayHold (leAt c.desc 4 2))
    else (s1.mirrorHeal (leAt c.desc 24 8) (s.imageOf c.desc true).length).startLoad c (s.loadForest c.desc).1 (s.loadForest c.desc).2
      true := by
  rw [State.loadCmd, h]

theorem State.ploadCmd_of {s s1 : State} {i : Nat} {c : MboxCmd} (h : s.takeCmd i 0x11 = some (c, s1)) : s.ploadCmd i =
    if s.loadHead c.desc (ploadParamBad c.desc) false ≠ 0 then (s1.mirrorHeal (leAt c.desc 24 8) 128).startLoad c
      { status := s.loadHead c.desc (ploadParamBad c.desc) false, handle := leAt c.desc 4 2, version := leAt c.desc 6 2 } none
      (s1.mayHold (leAt c.desc 4 2))
    else
      let s2 := match (s.loadProg c.desc).2 with
        | some v => v.acopies.foldl (fun (s : State) (x : Nat × ACopy) => s.loadCopy (leAt c.desc 4 2) v x.2) s1
        | none => s1
      (s2.mirrorHeal (leAt c.desc 24 8) (s.imageOf c.desc false).length).startLoad c (s.loadProg c.desc).1 (s.loadProg c.desc).2
        true := by
  rw [State.ploadCmd, h] <;> rfl

/-- The handle of a load while it runs. -/
theorem State.startLoad_handle (s : State) (c : MboxCmd) (r : Rec) (v : Option Version) :
    (s.startLoad c r v true).handle (leAt c.desc 4 2) = { s.handle (leAt c.desc 4 2) with
      loading := true, staged := match v with | some x => some x | none => (s.handle (leAt c.desc 4 2)).staged } :=
  Tbl.getD_put_self ..

/-- A completed load: its record, its journal entry where it changed something, its event. -/
theorem State.loadComplete_of {s : State} {k : Nat} {r : Running} (h : Tbl.find s.mgmt.running k = some r) : s.loadComplete k =
    (let s1 := { s with mgmt := { s.mgmt with running := Tbl.del s.mgmt.running k } }
     let s2 := if r.holds = true then s1.setHandle r.handle { s1.handle r.handle with loading := false } else s1
     let w := s2.recordWrite r.record (overwrite r.body 0 (leBytes 1 r.status)) r.status
     let s4 := if r.status = 0 then
         w.2.journal 2 r.cmd (r.handle % 1024 + r.version % 65536 * 65536) (some (slice r.body 48 16)) r.origin
       else w.2
     s4.modelDone r.handle w.1 r.cmd) := by
  rw [State.loadComplete, h]

/-- The status with which a record is written: an unmapped byte fails a success (log 173). -/
theorem State.recordWrite_ok (s : State) (a : Nat) (b : List Byte) :
    s.recordWrite a b 0 = (if s.anyUnmapped a b.length = true then 0x0B else 0, s.devWrite a b) := by
  simp only [State.recordWrite, true_and]

theorem State.recordWrite_failed (s : State) (a : Nat) (b : List Byte) {st : Nat} (h : st ≠ 0) :
    s.recordWrite a b st = (st, s.devWrite a b) := by
  simp only [State.recordWrite, h, false_and, if_false]

/-- Settles O36: LOAD, PLOAD, the staged version, and the completion. -/
theorem loadsCheckAndStage : Obligations.LoadsCheckAndStage := by
  refine ⟨fun s s1 i c h => ?_, fun s s1 i c h => ?_, fun s c r v => ?_, fun s k r h => ?_⟩
  · intro d st
    exact ⟨fun hst => congrArg Host.Outcome.next ((State.loadCmd_of h).trans (if_pos hst)),
      fun hst => congrArg Host.Outcome.next ((State.loadCmd_of h).trans (if_neg (not_not_intro hst)))⟩
  · intro d st len
    refine ⟨fun hst => congrArg Host.Outcome.next ((State.ploadCmd_of h).trans (if_pos hst)), fun hst hno => ?_, fun hst v hv => ?_⟩
    · refine congrArg Host.Outcome.next ((State.ploadCmd_of h).trans ((if_neg (not_not_intro hst)).trans ?_))
      rw [hno]
    · refine congrArg Host.Outcome.next ((State.ploadCmd_of h).trans ((if_neg (not_not_intro hst)).trans ?_))
      rw [hv]
  · intro h
    rw [State.startLoad_handle, State.startLoad_handle]
    exact ⟨rfl, rfl, rfl, rfl, rfl⟩
  · intro s1 s2 b s3 st
    have hdone := State.loadComplete_of h
    refine ⟨fun hok => congrArg Host.Outcome.next (hdone.trans ?_), fun hbad => congrArg Host.Outcome.next (hdone.trans ?_)⟩
    · have hw : s2.recordWrite r.record (overwrite r.body 0 (leBytes 1 r.status)) r.status = (st, s3) := by
        rw [show s2.recordWrite r.record (overwrite r.body 0 (leBytes 1 r.status)) r.status =
          s2.recordWrite r.record b 0 from congrArg _ hok, State.recordWrite_ok]
      show State.modelDone (if r.status = 0 then (s2.recordWrite r.record _ r.status).2.journal 2 r.cmd _ _ r.origin
        else (s2.recordWrite r.record _ r.status).2) r.handle (s2.recordWrite r.record _ r.status).1 r.cmd = _
      rw [hw, if_pos hok]
    · have hw : s2.recordWrite r.record (overwrite r.body 0 (leBytes 1 r.status)) r.status = (r.status, s3) :=
        State.recordWrite_failed _ _ _ hbad
      show State.modelDone (if r.status = 0 then (s2.recordWrite r.record _ r.status).2.journal 2 r.cmd _ _ r.origin
        else (s2.recordWrite r.record _ r.status).2) r.handle (s2.recordWrite r.record _ r.status).1 r.cmd = _
      rw [hw, if_neg hbad]

/-! ## Commands on a version -/

/-- A command that completes at once, past its first checks. -/
theorem State.modelCmd_of {s s1 : State} {i code : Nat} {c : MboxCmd} {f : State → Nat → List Byte → Nat × Option Version × State}
    (h : s.takeCmd i code = some (c, s1)) (h0 : s.cmdStatus c.desc (code == 5) = 0) : s.modelCmd i code f =
      (let r := f s1 (leAt c.desc 4 2) c.desc
       r.2.2.modelFinish code c.origin (leAt c.desc 32 8) (match r.2.1 with
         | some v => if r.1 = 0 then s1.record v (leAt c.desc 4 2) 0
                     else { status := r.1, handle := leAt c.desc 4 2, version := v.num }
         | none => { status := r.1, handle := leAt c.desc 4 2 })) := by
  rw [State.modelCmd, h]
  simp only [h0, ne_eq, not_true_eq_false, if_false] <;> rfl

/-- Its version and the state it leaves; and the answer without the version that it needs. -/
theorem State.modelCmd_done {s s1 t : State} {i code : Nat} {c : MboxCmd} {f : State → Nat → List Byte → Nat × Option Version × State}
    {v : Version} (h : s.takeCmd i code = some (c, s1)) (h0 : s.cmdStatus c.desc (code == 5) = 0)
    (hf : f s1 (leAt c.desc 4 2) c.desc = (0, some v, t)) :
    s.modelCmd i code f = t.modelFinish code c.origin (leAt c.desc 32 8) (s1.record v (leAt c.desc 4 2) 0) := by
  rw [State.modelCmd_of h h0, hf]
  rfl

theorem State.modelCmd_without {s s1 : State} {i code : Nat} {c : MboxCmd} {f : State → Nat → List Byte → Nat × Option Version × State}
    (h : s.takeCmd i code = some (c, s1)) (h0 : s.cmdStatus c.desc (code == 5) = 0)
    (hf : f s1 (leAt c.desc 4 2) c.desc = (2, none, s1)) :
    s.modelCmd i code f = s1.modelFinish code c.origin (leAt c.desc 32 8) { status := 2, handle := leAt c.desc 4 2 } := by
  rw [State.modelCmd_of h h0, hf]

theorem activateRun_of {s : State} {h : Nat} {d : List Byte} {v : Version} (hv : (s.handle h).staged = some v)
    (hfell : s.fellNames h = false) (hfit : (s.fevalNamed h && !s.fevalFits h v) = false) :
    activateRun s h d = (0, some v, s.setHandle h { s.handle h with armActivate := some v.number }) := by
  unfold activateRun
  dsimp only
  split
  · next hnone => exact absurd (hv.symm.trans hnone) (by simp)
  · next w hw =>
    obtain rfl : v = w := Option.some.inj (hv.symm.trans hw)
    rw [hfell, hfit]
    rfl

theorem discardRun_of {s : State} {h : Nat} {d : List Byte} {v : Version} (hv : (s.handle h).staged = some v)
    (hfell : s.fellNames h = false) : discardRun s h d = (0, some v, s.dropStaged h) := by
  unfold discardRun
  split
  · next hnone => exact absurd (hv.symm.trans hnone) (by simp)
  · next w hw =>
    obtain rfl : v = w := Option.some.inj (hv.symm.trans hw)
    rw [hfell]
    rfl

theorem unloadRun_of {s : State} {h : Nat} {d : List Byte} {v : Version}
    (hv : (match (s.handle h).serving with | some v => some v | none => (s.handle h).staged) = some v) (hfell : s.fellNames h = false)
    (hfeval : (s.handle h).serving = none ∨ s.fevalNamed h = false) :
    unloadRun s h d = (0, some v, (s.dropStaged h).setHandle h { (s.dropStaged h).handle h with armUnload := true }) := by
  have hno : ((s.handle h).serving.isSome && s.fevalNamed h) = false := by
    rcases hfeval with he | he <;> rw [he]
    · rfl
    · exact Bool.and_false _
  unfold unloadRun
  dsimp only
  split
  · next hnone => exact absurd (hv.symm.trans hnone) (by simp)
  · next w hw =>
    obtain rfl : v = w := Option.some.inj (hv.symm.trans hw)
    rw [hfell, hno]
    rfl

theorem unloadRun_without {s : State} {h : Nat} {d : List Byte} (hserv : (s.handle h).serving = none) (hst : (s.handle h).staged = none) :
    unloadRun s h d = (2, none, s) := by
  unfold unloadRun
  simp only [hserv, hst]

/-- The copies of a resumed handle are held no longer. -/
theorem resumed_copies {w : Version} {x : Option Version}
    (h : x.map (fun v : Version => { v with acopies := Tbl.mapVals v.acopies (fun _ c => { c with lostHold := false }) }) = some w) {k : Nat}
    {cp : ACopy} (hcp : Tbl.find w.acopies k = some cp) : cp.lostHold = false := by
  obtain ⟨v, -, rfl⟩ := Option.map_eq_some_iff.mp h
  have hcp' := (find_mapVals v.acopies (fun _ c => { c with lostHold := false }) k).symm.trans hcp
  obtain ⟨c, -, rfl⟩ := Option.map_eq_some_iff.mp hcp'
  rfl

/-- Settles O37: each command on the version that it names. -/
theorem handleCommandsActOnTheirVersion : Obligations.HandleCommandsActOnTheirVersion := by
  intro s s1 i c d h done none'
  refine ⟨fun ht h0 => ⟨fun v hv hfell hfits => ?_, fun hno => ?_⟩, fun ht h0 => ⟨fun v hv hfell => ?_, fun hno => ?_⟩, fun ht h0 => ?_,
    fun ht h0 => ⟨fun v hv => ?_, fun hno => ?_⟩, fun ht h0 harr v hv => ?_⟩
  · refine congrArg Host.Outcome.next (State.modelCmd_done ht h0 ?_)
    have hfit : (s1.fevalNamed h && !s1.fevalFits h v) = false := by
      rcases hfits with hf | hf <;> rw [hf]
      · rfl
      · exact Bool.and_false _
    exact activateRun_of hv hfell hfit
  · refine congrArg Host.Outcome.next (State.modelCmd_without ht h0 ?_)
    unfold activateRun
    simp only [show (s1.handle (leAt c.desc 4 2)).staged = none from hno]
  · exact congrArg Host.Outcome.next (State.modelCmd_done ht h0 (discardRun_of hv hfell))
  · refine congrArg Host.Outcome.next (State.modelCmd_without ht h0 ?_)
    unfold discardRun
    simp only [show (s1.handle (leAt c.desc 4 2)).staged = none from hno]
  · intro s2 armed
    refine ⟨fun v hv hfell hfeval => ?_, fun v hno hv hfell => ?_, fun hno hst => ?_⟩
    · have hv' : (s1.handle (leAt c.desc 4 2)).serving = some v := hv
      exact congrArg Host.Outcome.next (State.modelCmd_done ht h0 (unloadRun_of (by rw [hv']) hfell (Or.inr hfeval)))
    · have hno' : (s1.handle (leAt c.desc 4 2)).serving = none := hno
      exact congrArg Host.Outcome.next (State.modelCmd_done ht h0 (unloadRun_of (by rw [hno']; exact hv) hfell (Or.inl hno)))
    · exact congrArg Host.Outcome.next (State.modelCmd_without ht h0 (unloadRun_without hno hst))
  · refine congrArg Host.Outcome.next (State.modelCmd_done ht h0 ?_)
    unfold queryRun
    simp only [show (s1.handle (leAt c.desc 4 2)).serving = some v from hv]
  · refine congrArg Host.Outcome.next (State.modelCmd_without ht h0 ?_)
    unfold queryRun
    simp only [show (s1.handle (leAt c.desc 4 2)).serving = none from hno]
  · have harr' : (!s1.isArray (leAt c.desc 4 2)) = false := by
      rw [show s1.isArray (leAt c.desc 4 2) = true from harr]; rfl
    refine ⟨(resumeRun s1 h d).2.2, congrArg Host.Outcome.next (State.modelCmd_done ht h0 ?_), ?_, fun w k cp hw hcp => ?_⟩
    · unfold resumeRun
      rw [if_neg (Bool.eq_false_iff.mp harr')]
      exact congrArg (fun x => (0, x, _)) hv
    · unfold resumeRun
      rw [if_neg (Bool.eq_false_iff.mp harr')]
      exact congrArg Handle.drained (Tbl.getD_put_self ..)
    · unfold resumeRun at hw
      rw [if_neg (Bool.eq_false_iff.mp harr')] at hw
      have hserv := (congrArg Handle.serving (State.setHandle_handle_self s1 h _)).symm.trans hw
      exact resumed_copies hserv hcp

/-! ## Draining, release and re-placement -/

/-- Settles O38. -/
theorem handlesDrainReleaseAndReplace : Obligations.HandlesDrainReleaseAndReplace := by
  refine ⟨fun s s1 i c ht h0 harr => ?_, fun s h hwait hruns => ?_, fun s h n v hv => ?_, fun s h n c v hv => ?_⟩
  · intro h
    refine congrArg Host.Outcome.next ?_
    have hst : ¬((if s.cmdStatus c.desc false = 0 ∧ (!s.isArray (leAt c.desc 4 2)) = true then 2 else s.cmdStatus c.desc false) ≠ 0) := by
      rw [harr, h0]; decide
    rw [State.drainCmd, ht]
    exact if_neg hst
  · intro n
    exact congrArg Host.Outcome.next (if_neg (not_or.mpr ⟨hwait, Bool.eq_false_iff.mp hruns⟩))
  · intro s1
    refine congrArg Host.Outcome.next ?_
    unfold State.versionRelease
    dsimp only
    split
    · next hnone => exact absurd (hv.symm.trans hnone) (by simp)
    · next w hw =>
      obtain rfl : v = w := Option.some.inj (hv.symm.trans hw)
      rfl
  · intro heal
    have hrep : s.copyReplace h n c = heal ((s.tryReplace h v c).getD (s.degraded h v)) := by
      rw [State.copyReplace, hv]
    refine ⟨fun t ht => congrArg Host.Outcome.next (hrep.trans (by rw [ht]; rfl)),
      fun hno => congrArg Host.Outcome.next (hrep.trans (by rw [hno]; rfl)), fun hbad => congrArg Host.Outcome.next (hrep.trans ?_)⟩
    have hno : s.tryReplace h v c = none := by
      rw [State.tryReplace, if_pos (by rw [hbad]; rfl)]
    rw [hno]; rfl

end Sys2Proof.Machine
end

section
/-! Runs of the array: tokens, the checks at a run's ticks, completions, the aperture and copy drains (R138, R148 to R159, R189, R341). -/
namespace Sys2Proof.Machine

/-! ## Tokens and checks -/

theorem State.tokenArrive_of {s : State} {n : Nat} {f : Flight} {r : ArrayRun} (hf : Tbl.find s.flights n = some f)
    (hr : Tbl.find s.runs f.run = some r) (ok : Bool) : s.tokenArrive n ok =
    (let s1 := { s with flights := Tbl.del s.flights n }
     if r.overrun = true then s1
     else if f.entry = true ∧ (!s.queueFree f.core f.queue 1) = true then s
     else
       let x := s1.parityCheck f.core f.tok ok
       if f.queue = 0x1F then x.1.setRun f.run (r.result x.2) else x.1.enterQueue f.core f.queue x.2) := by
  rw [State.tokenArrive, hf]
  dsimp only
  rw [hr]

theorem State.parityCheck_good (s : State) (core : Nat) (t : Tok) : s.parityCheck core t true = (s, t) := by
  simp only [State.parityCheck, if_true, Bool.not_true, Bool.or_false]

theorem State.parityCheck_bad (s : State) (core : Nat) (t : Tok) : s.parityCheck core t false =
    ((s.post (11 + core / 1224) 1 []).count (Reg.ARR_CNT_PARITY (core / 1224)), { t with bad := true }) := by
  simp only [State.parityCheck, Bool.false_eq_true, if_false, Bool.not_false, Bool.or_true]

/-- What a queue holds after it is set. -/
theorem Core.queue_setQueue (c : Core) (q : Nat) {x : List Tok} (h : x ≠ []) : (c.setQueue q x).queue q = x := by
  rw [Core.setQueue, if_neg h]
  exact Tbl.getD_put_self ..

theorem State.firesCheck_of {s : State} {p k rid : Nat} {r : ArrayRun} {hm : Home} (hr : Tbl.find s.runs rid = some r)
    (hh : s.home p k = some hm) (h : r.handle = hm.h) (hv : r.version = hm.v.number) (hc : r.copy = hm.c)
    (hi : r.checked.contains hm.i = false) (ht : r.atTick + hm.v.stopIn r.exact hm.i ≤ s.time.tick) : s.firesCheck p k rid =
    if Tbl.getD r.fires hm.i 0 = (hm.v.crec hm.i).fires then s.setRun rid { r with checked := r.checked ++ [hm.i] }
    else s.overrun rid r hm.v hm.cp hm.i := by
  have hno : ¬(r.handle ≠ hm.h ∨ r.version ≠ hm.v.number ∨ r.copy ≠ hm.c ∨ r.checked.contains hm.i = true ∨
      s.time.tick < r.atTick + hm.v.stopIn r.exact hm.i) := by
    rintro (hx | hx | hx | hx | hx)
    · exact hx h
    · exact hx hv
    · exact hx hc
    · exact Bool.eq_false_iff.mp hi hx
    · exact absurd ht (Nat.not_le.mpr hx)
  rw [State.firesCheck, hr, hh]
  exact if_neg hno

/-- The check of the result count, of a message's run whose depth has passed. -/
theorem State.resultCheck_item {s : State} {rid n : Nat} {r : ArrayRun} {v : Version} {cp : ACopy} (hr : Tbl.find s.runs rid = some r)
    (hv : (s.handle r.handle).ver r.version = some v) (hcp : Tbl.find v.acopies r.copy = some cp)
    (ht : r.atTick + v.depthIn r.exact ≤ s.time.tick) (hslot : r.slot = some n) (hctx : r.ctx = none) : s.resultCheck rid =
    (let good := r.nres == v.prog.nRes
     let s0 := if r.overrun = true ∨ good = true then s else s.overrun rid r v cp 0
     let s1 := { s0 with runs := Tbl.del s0.runs rid }
     if r.overrun = true ∨ (!good) = true then s1
     else
       let s2 := if r.bad = true then s1.unitFail n false else s1
       s2.decideResult n (runBlock v r) r.nan r.sat false r.pos (slice v.digest 0 32 ++ s1.wtsDigest v r)) := by
  have hchk : s.resultCheck rid = s.resultChecked rid := by
    rw [State.resultCheck, hr]
    dsimp only
    rw [hctx]
  rw [hchk, State.resultChecked, hr]
  dsimp only
  rw [hv]
  dsimp only
  rw [hcp]
  dsimp only
  rw [if_neg (Nat.not_lt.mpr ht), hslot]

/-- Settles O40: arrivals, the check of FIRES, and the check of the result count. -/
theorem tokensArriveAndRunsAreChecked : Obligations.TokensArriveAndRunsAreChecked := by
  refine ⟨fun s n f r hf hr => ?_, fun s p k rid r hm hr hh h hv hc hi ht => ?_, fun s rid r v cp hr hv hcp ht => ?_⟩
  · have harr := State.tokenArrive_of hf hr
    intro s1 d s2
    refine ⟨fun ho ok => congrArg Host.Outcome.next ((harr ok).trans (if_pos ho)), fun ho he hq ok => ?_, fun ho hq hw => ?_,
      fun ho hq he => ?_⟩
    · have hfull : (!s.queueFree f.core f.queue 1) = true := by rw [hq]; rfl
      exact congrArg Host.Outcome.next ((harr ok).trans ((if_neg (Bool.eq_false_iff.mp ho)).trans (if_pos ⟨he, hfull⟩)))
    · have hgo : ¬(f.entry = true ∧ (!s.queueFree f.core f.queue 1) = true) := by
        rintro ⟨he, hfull⟩
        rcases hw with hw | hw
        · exact Bool.eq_false_iff.mp hw he
        · rw [hw] at hfull; exact absurd hfull (by decide)
      have hin : ∀ ok, s.tokenArrive n ok =
          (s1.parityCheck f.core f.tok ok).1.enterQueue f.core f.queue (s1.parityCheck f.core f.tok ok).2 := fun ok =>
        (harr ok).trans ((if_neg (Bool.eq_false_iff.mp ho)).trans ((if_neg hgo).trans (if_neg hq)))
      refine ⟨congrArg Host.Outcome.next ((hin true).trans ?_), congrArg Host.Outcome.next ((hin false).trans ?_),
        (s1.core f.core).setQueue f.queue ((s1.core f.core).queue f.queue ++ [f.tok]), rfl, ?_⟩
      · rw [State.parityCheck_good]
      · rw [State.parityCheck_bad]
      · exact Core.queue_setQueue _ _ (by simp)
    · have hgo : ¬(f.entry = true ∧ (!s.queueFree f.core f.queue 1) = true) := fun h => Bool.eq_false_iff.mp he h.1
      have hin : ∀ ok, s.tokenArrive n ok =
          (s1.parityCheck f.core f.tok ok).1.setRun f.run (r.result (s1.parityCheck f.core f.tok ok).2) := fun ok =>
        (harr ok).trans ((if_neg (Bool.eq_false_iff.mp ho)).trans ((if_neg hgo).trans (if_pos hq)))
      refine ⟨congrArg Host.Outcome.next ((hin true).trans ?_), congrArg Host.Outcome.next ((hin false).trans ?_)⟩
      · rw [State.parityCheck_good]
      · rw [State.parityCheck_bad]
  · have hchk := State.firesCheck_of hr hh h hv hc hi ht
    exact ⟨fun he => congrArg Host.Outcome.next (hchk.trans (if_pos he)), fun he => congrArg Host.Outcome.next (hchk.trans (if_neg he))⟩
  · intro s1
    refine ⟨fun k hk => congrArg Host.Outcome.next ?_, fun n hslot hctx => ?_⟩
    · rw [State.resultCheck, hr]
      dsimp only
      rw [hk, hv]
      exact if_neg (Nat.not_lt.mpr ht)
    · have hitem := State.resultCheck_item hr hv hcp ht hslot hctx
      refine ⟨fun ho => congrArg Host.Outcome.next (hitem.trans ?_), fun ho hn => congrArg Host.Outcome.next (hitem.trans ?_),
        fun ho hn => congrArg Host.Outcome.next (hitem.trans ?_)⟩
      · dsimp only
        rw [if_pos (Or.inl ho), if_pos (Or.inl ho)]
      · have hgood : (r.nres == v.prog.nRes) = true := beq_iff_eq.mpr hn
        dsimp only
        rw [if_pos (Or.inr hgood), ho, hgood]
        exact if_neg (by decide)
      · have hbad : (r.nres == v.prog.nRes) = false := beq_eq_false_iff_ne.mpr hn
        dsimp only
        rw [ho, hbad]
        rfl

/-! ## Completions -/

theorem State.fevalResult_of {s : State} {n : Nat} {f : Feval} {r : ArrayRun} {hm : Home} (hf : Tbl.find s.fevals n = some f)
    (hr : Tbl.find s.runs f.run = some r) (hh : (State.home { s with fevals := Tbl.del s.fevals n } f.core f.slot) = some hm)
    (ho : r.overrun = false) (ok ok2 : Bool) : s.fevalResult n ok ok2 =
    (let s1 := { s with fevals := Tbl.del s.fevals n }
     if f.atTick + f.latency < s.time.tick then s1.overrun f.run r hm.v hm.cp hm.i
     else
       let tok := fun (i : Nat) (v : Vec) =>
         ({ payload := v, tag := f.tag, ctx := f.slot, tgt := f.tgt, side := f.side, nan := i == 0 && f.nan, sat := i == 0 && f.sat,
            bad := i == 0 && f.bad, top := if i = 0 then f.top else 0 } : Tok)
       let s2 := (List.range f.payloads.length).foldl (fun s i =>
         let t := tok i (f.payloads.getD i 0)
         let x := s.parityCheck f.core t (if i = 0 then ok else ok2)
         (x.1.enterQueue f.core 0x1D x.2).sendSinks f.run t f.also) s1
       if f.bad = true then s2.runBad f.run else s2) := by
  rw [State.fevalResult, hf]
  dsimp only
  rw [hr, hh]
  dsimp only
  rw [ho]
  exact if_neg (by decide)

theorem State.dmaComplete_of {s : State} {n : Nat} {x : StandDma} (h : Tbl.find s.dmas n = some x) (ue ok : Bool) : s.dmaComplete n ue ok =
    (let s0 : State := { s with dmas := Tbl.del s.dmas n }
     let d := s.die (x.core / 1224)
     let s1 := if ue then (if x.toDram then s0.spanUe (x.core / 1224) x.sram else s0.rangeUe x.dev x.len)
       else if x.toDram then s0 else s0.mirrorHeal x.dev x.len
     let own := if x.own then s1.setCore x.core ((s1.core x.core).setSlot x.slot { (s1.core x.core).slot x.slot with dirty := true }) else s1
     let moved := if x.toDram then s1.devWrite x.dev (d.sram.readSpans x.sram)
       else own.setDie (x.core / 1224) ((own.die (x.core / 1224)).writeSpans x.sram (s.devRead x.dev x.len))
     let touched := ue || (if x.toDram then x.sram.any (fun r => d.sramBad r.1 r.2) else s.anyUe x.dev x.len)
     let tok : Tok := { payload := vecOf (x.len / 64), tag := x.tag, ctx := x.slot, tgt := x.tgt, side := x.side
                        nan := x.nan, sat := x.sat, bad := x.bad || touched }
     if (match Tbl.find s.runs x.run with | some r => r.overrun | none => false) = true then moved
     else ((moved.parityCheck x.core tok ok).1.enterQueue x.core 0x1E (moved.parityCheck x.core tok ok).2).sendSinks x.run tok x.also) := by
  rw [State.dmaComplete, h] <;> rfl

/-- Settles O41: FEVAL results in and past their latency, and DMA completions. -/
theorem fevalAndDmaComplete : Obligations.FevalAndDmaComplete := by
  refine ⟨fun s core t => ⟨State.parityCheck_good s core t, State.parityCheck_bad s core t⟩,
    fun s n f r hm ok ok2 hf hr hh ho => ?_, fun s n x ue ok ok2 h => ?_⟩
  · have hres := State.fevalResult_of hf hr hh ho ok ok2
    intro s1 plain first arrive ends
    refine ⟨fun ht v hv => congrArg Host.Outcome.next (hres.trans ((if_neg (Nat.not_lt.mpr ht)).trans ?_)),
      fun ht v w hv => congrArg Host.Outcome.next (hres.trans ((if_neg (Nat.not_lt.mpr ht)).trans ?_)),
      fun ht => congrArg Host.Outcome.next (hres.trans (if_pos ht))⟩
    · rw [hv]; rfl
    · rw [hv]; rfl
  · have hdone := State.dmaComplete_of h ue ok
    intro s0 d s1 own moved touched tok
    refine ⟨fun r hr ho => congrArg Host.Outcome.next (hdone.trans (if_pos ?_)),
      fun hgo => congrArg Host.Outcome.next (hdone.trans (if_neg ?_))⟩
    · rw [hr]; exact ho
    · split
      · next r hr => exact Bool.eq_false_iff.mp (hgo r hr)
      · decide

/-! ## Aperture writes and copy drains -/

/-- A word written to the shared SRAM of stand st of compartment c of die d. -/
theorem State.apWrite_shared (s : State) {d c st q : Nat} (w : Word) (hd : d < 4) (hc : c < 8) (hst : st < 9) (hq : q < 0x200000)
    (h4 : q % 4 = 0) : s.apWrite (0x4000000000 + d * 2 ^ 32 + (c * 0x10000000 + st * 0x1000000 + q)) w =
      if s.standOk d c st = true then s.sramWrite d (c * 0x10000000 + st * 0x1000000 + q) w else s.count (Reg.MEM_CNT_APDROP d) := by
  generalize ho : c * 0x10000000 + st * 0x1000000 + q = o
  generalize ha : 0x4000000000 + d * 2 ^ 32 + o = a
  have halign : a / 4 * 4 = a := by omega
  have hap : apertureOf a = some (d, o) := by
    have hdie : (a - 0x4000000000) / 2 ^ 32 = d := by omega
    have hoff : a % 2 ^ 32 = o := by omega
    rw [apertureOf, if_pos ⟨by omega, by omega⟩, hdie, hoff]
  have h1 : o / 0x10000000 = c := by omega
  have h2 : o % 0x10000000 / 0x1000000 = st := by omega
  have h3 : o % 0x10000000 % 0x1000000 = q := by omega
  have h4 : o % 0x10000000 < 0x9000000 := by omega
  rw [State.apWrite, halign, hap]
  dsimp only
  rw [h1, h2, h3, if_neg (by omega), if_pos h4, if_pos hq]

theorem State.coreMemWrite_imem (s : State) (p : Nat) {z : Nat} (w : Word) (hz : z < 0x12000) :
    s.coreMemWrite p z w =
      if 0 < s.inFlight p ((z - 0x10000) / 0x800) ∨ s.slotLive p ((z - 0x10000) / 0x800) = true then s.count (Reg.ARR_CNT_BUSYCTX (p / 1224))
      else
        let k := (z - 0x10000) / 0x800
        let i := (z - 0x10000) % 0x800 / 8
        let sl := (s.core p).slot k
        let o := (Tbl.getD sl.imem i 0).toNat
        let n := if z % 8 < 4 then o / 2 ^ 32 * 2 ^ 32 + w.toNat else w.toNat * 2 ^ 32 + o % 2 ^ 32
        (s.setCore p ((s.core p).setSlot k { sl with imem := Tbl.put sl.imem i (BitVec.ofNat 64 n) })).healSram (p / 1224)
          (coreBase p + z / 4 * 4) 4 :=
  if_pos hz

/-- A drained move holds the copies of its unit. -/
theorem State.copyHeld_of_drain {s : State} {m : Move} (hm : m ∈ s.units.moves) (hd : m.drain = true) {v : Version} {c : ACopy}
    (hc : s.copyOnUnit v c m.unit = true) (h : Nat) : s.copyHeld h v c = true := by
  have : s.units.moves.any (fun m => m.drain && s.copyOnUnit v c m.unit) = true :=
    List.any_eq_true.mpr ⟨m, hm, by rw [hd, hc]; rfl⟩
  rw [State.copyHeld, this, Bool.or_true]

/-- Settles O42: the aperture, instruction memory, and the two commands of a copy drain. -/
theorem apertureWritesAndCopyDrains : Obligations.ApertureWritesAndCopyDrains := by
  refine ⟨fun s d c st q val hd hc hst hq h4 => ?_, fun s p z w hlo hhi => ?_, fun s p k hp => ?_, fun s p m hm hbusy => ?_⟩
  · intro o a
    have hoff : ¬(0x3000000 ≤ a ∧ a < 0x4000000) := by
      rintro ⟨-, hx⟩
      have ha : 0x4000000000 ≤ a := Nat.le_trans (Nat.le_add_right _ _) (Nat.le_add_right _ _)
      omega
    have hap : exec (.apertureWrite a val) s = .next (s.apWrite a val) :=
      congrArg (fun x => Host.Outcome.next (s.apWrite x val)) (if_neg hoff)
    have hsh := State.apWrite_shared s val hd hc hst hq h4
    exact ⟨fun hok => hap.trans (congrArg Host.Outcome.next (hsh.trans (if_pos hok))),
      fun hno => hap.trans (congrArg Host.Outcome.next (hsh.trans (if_neg (Bool.eq_false_iff.mp hno))))⟩
  · have hw := State.coreMemWrite_imem s p w hhi
    intro k i sl o
    refine ⟨fun hlive => hw.trans (if_pos hlive), fun hfree hdead hlow => hw.trans ((if_neg ?_).trans ?_)⟩
    · rintro (hx | hx)
      · exact absurd hfree (Nat.ne_of_gt hx)
      · exact Bool.eq_false_iff.mp hdead hx
    · dsimp only
      rw [if_pos hlow]
  · intro u hok hin hno hk t
    have hgo : ¬(4896 ≤ p ∨ (!s.coreOk u.die u.cmpt u.stand u.unit) = true ∨ (!(s.coresOf (p / 17)).contains u.unit) = true ∨
        s.units.moves.any (fun m => m.unit == u) = true) := by
      rw [hok, hin, hno]
      rintro (hx | hx | hx | hx)
      · exact absurd hp (Nat.not_lt.mpr hx)
      all_goals exact absurd hx (by decide)
    refine ⟨congrArg Host.Outcome.next ((if_neg hgo).trans ?_), fun h v c hc => ?_⟩
    · rw [show s.coppice (coreUnit p).die (coreUnit p).cmpt (coreUnit p).stand = some k from hk]
    · exact State.copyHeld_of_drain (m := ⟨u, k, false, true, []⟩) (List.mem_append_right _ (List.mem_singleton.mpr rfl)) rfl hc h
  · intro q s1
    refine congrArg Host.Outcome.next ?_
    rw [State.migrationDone]
    dsimp only
    rw [hm]
    dsimp only
    exact if_neg (Bool.eq_false_iff.mp hbusy)

end Sys2Proof.Machine
end

section
/-! Sequence contexts and generation (R195 to R212). -/
namespace Sys2Proof.Machine

/-! ## Tokens, step boundaries, credits -/

theorem State.tokenAdmit_of {s s1 : State} {n k : Nat} {m : Msg} {x : Ctx} {v : Version} {cp : ACopy} (h : s.leaving n = some (s1, m))
    (hk : m.ctx = some k) (hx : Tbl.find s1.ctxs k = some x) (hh : s1.ctxHome x = some (v, cp)) (hr : s1.tokReady n = true) :
    s.tokenAdmit n =
      if (!(s1.admits && s1.copyAdmits x.handle v x.copy cp m.exact) || s1.tokenAhead m x) = true then s1.arrayQueue n m v .waiting
      else
        let s2 := s1.setHandle m.target { s1.handle m.target with queue := (s1.handle m.target).queue.filter (· != n) }
        let s3 := s2.startRun x.handle v x.copy cp (some n) (some k) x.p m.exact
          (m.descIn (some (x.p, x.cslot, stepSeed 0 x.p))) m.org.data (sampleKey m.sample)
        ((s3.setMsg n { m with stage := .running }).setCtx k (x.enter s1.time.tick x.p)).count (Reg.SEQ_CNT_TOKENS (k / 4096)) := by
  rw [State.tokenAdmit, h]
  dsimp only
  rw [hk]
  dsimp only
  rw [hx]
  dsimp only
  rw [hh]
  dsimp only
  rw [hr]
  rfl

theorem State.stepBoundary_of {s : State} {k rid : Nat} {x : Ctx} {r : ArrayRun} {v : Version} (hx : Tbl.find s.ctxs k = some x)
    (hr : s.runs.find? (fun r => r.2.ctx == some k && !r.2.stepped) = some (rid, r)) (hv : (s.handle x.handle).ver x.version = some v)
    (hroll : x.rolling = false) (hst : x.state ≠ 3) (ht : r.atTick + v.prog.step ≤ s.time.tick) : s.stepBoundary k =
    (let s2 := (s.setRun rid { r with stepped := true }).setCtx k { x with
       p := r.pos + 1, capDue := x.capDue || (r.pos + 1) % v.prog.ckpt == 0 }
     if r.pos + 1 = 0xFFFFFFFF then
       (s2.msgs.filter (fun m => m.2.ctx == some k && m.2.stage == .waiting)).foldl
         (fun s m => s.answerMsg m.1 stTooLarge 0 (maxLen m.2.org)) s2
     else s2) := by
  have hgo : ¬(x.rolling = true ∨ x.state = 3 ∨ s.time.tick < r.atTick + v.prog.step) := by
    rw [hroll]
    rintro (hx | hx | hx)
    · exact absurd hx (by decide)
    · exact hst hx
    · exact absurd ht (Nat.not_le.mpr hx)
  rw [State.stepBoundary, hx, hr]
  dsimp only
  rw [hv]
  exact if_neg hgo

theorem State.creditEarn_of {s : State} {k : Nat} {x : Ctx} {v : Version} {cp : ACopy} (hx : Tbl.find s.ctxs k = some x)
    (hh : s.ctxHome x = some (v, cp)) : s.creditEarn k =
      if (x.earned + 1) * 1000000000 ≤ (s.time.raw - x.earnFrom) * v.prog.grate then
        s.setCtx k { x with credits := min 2 (x.credits + 1), earned := x.earned + 1 }
      else s := by
  rw [State.creditEarn, hx]
  dsimp only
  rw [hh]

/-! ## Checkpoints -/

theorem State.capture_of {s : State} {k : Nat} {x : Ctx} {v : Version} {cp : ACopy} (hx : Tbl.find s.ctxs k = some x)
    (hh : s.ctxHome x = some (v, cp)) (hdue : x.capDue = true) (hroll : x.rolling = false)
    (hroom : sumBy (fun y => y.2.staged.length) (s.copyCtxs x.handle x.version x.copy) < 2 ^ v.prog.stageLog2)
    (hgen : x.gen.isSome = true → s.runs.any (fun r => r.2.ctx == some k) = false) : s.capture k =
      s.setCtx k { x with
        staged := x.staged ++ [(x.p, s.readCtx v cp x.cslot ++ (match x.gen with | some g => [g.block] | none => []))], capDue := false } := by
  have hgo : ¬((!x.capDue) = true ∨ 2 ^ v.prog.stageLog2 ≤ sumBy (fun y => y.2.staged.length) (s.copyCtxs x.handle x.version x.copy) ∨
      x.rolling = true ∨ (x.gen.isSome && s.runs.any (fun r => r.2.ctx == some k)) = true) := by
    rw [hdue, hroll]
    rintro (h | h | h | h)
    · exact absurd h (by decide)
    · exact absurd hroom (Nat.not_lt.mpr h)
    · exact absurd h (by decide)
    · obtain ⟨h1, h2⟩ := Bool.and_eq_true_iff.mp h
      exact Bool.eq_false_iff.mp (hgen h1) h2
  rw [State.capture, hx]
  dsimp only
  rw [hh]
  exact if_neg hgo

theorem State.ckptWritten_of {s : State} {k c : Nat} {x : Ctx} {v : Version} {cp : ACopy} {data : List (List Byte)}
    {rest : List (Nat × List (List Byte))} (hx : Tbl.find s.ctxs k = some x)
    (hh : s.ctxHome x = some (v, cp)) (hst : x.staged = (c, data) :: rest) : s.ckptWritten k =
      if (match Tbl.find x.slots (c / v.prog.ckpt % 2) with | some e => e.1 == x.rb && x.rb != c | none => false) = true then s
      else (s.setCtx k { x with
        staged := rest, written := x.written ++ [c], slots := Tbl.put x.slots (c / v.prog.ckpt % 2) (c, data) }).promote k := by
  rw [State.ckptWritten, hx]
  dsimp only
  rw [hst, hh] <;> rfl

/-! ## Rollback and restore -/

/-- A context that rolls back: at its rollback point, with nothing staged. -/
def Ctx.rolledBack (x : Ctx) : Ctx :=
  { x with state := 3, p := x.rb, staged := [], written := [], capDue := false, lastTick := none,
           openPos := x.openPos.filter (fun p => decide (p < x.rb)) }

theorem State.rollback_of {s : State} {k : Nat} {x : Ctx} (hx : Tbl.find s.ctxs k = some x) (hroll : x.rolling = true) (hst : x.state ≠ 3) :
    s.rollback k =
      (let s1 := ((s.dropRuns k x).setCtx k x.rolledBack).count (Reg.SEQ_CNT_ROLLBACK (k / 4096))
       match x.gen with
       | some g =>
         if s.exact = true then
           s1.setCtx k { x.rolledBack with gen := some { g with
             silentTo := some (max x.failed (g.silentTo.getD 0)), lateNow := true
             emits := g.emits.filter (fun e => decide (e.pos < x.failed)) } }
         else (s1.ctxOver k x.rolledBack false).post 0 9 [(x.rb, 32)]
       | none =>
         let s2 := match x.conv with | some cv => s1.convRollback cv x.rb | none => s1
         let toks := (s2.msgs.filter (fun m => m.2.ctx == some k)).map (fun m => (m.1, m.2.org.desc.sq, m.2.gone))
         (toks.foldl (fun s t =>
           if t.2.1 = x.rb ∨ t.2.2 = true then (if x.rb ≤ t.2.1 then s.putBack t.1 else s)
           else s.answerRolled t.1 k x.rolledBack) s2).settle) := by
  have hgo : ¬((!x.rolling) = true ∨ x.state = 3) := by
    rw [hroll]
    rintro (h | h)
    · exact absurd h (by decide)
    · exact hst h
  rw [State.rollback, hx]
  exact if_neg hgo

theorem State.restoreDone_of {s : State} {k : Nat} {x : Ctx} {v : Version} {cp : ACopy} (hx : Tbl.find s.ctxs k = some x)
    (hst : x.state = 3) (hh : s.ctxHome x = some (v, cp)) (readable : Bool) : s.restoreDone k readable =
      if x.rb ≠ 0 ∧ ((!readable) = true ∨ (x.cause ≠ 5 ∧ (s.die (k / 4096)).lost = true)) then
        (if (s.die (k / 4096)).lost then s else s.poolUe (k / 4096)).ctxFinal k
      else if (!cp.out) = true then s.restoreAt k x v cp
      else match s.rehome k x v with | none => s.ctxFinal k | some s1 => s1 := by
  rw [State.restoreDone, hx]
  dsimp only
  rw [if_neg (not_not_intro hst), hh] <;> rfl

/-! ## The sequence commands -/

/-- The generation that a GSTART descriptor opens. -/
def State.gstartGen (s : State) (d : List Byte) (resLen : Nat) : GenSt :=
  { seed := leAt d 16 8, interval := leAt d 8 4, count := leAt d 12 4, template := byteAt d 6, dest := byteAt d 7
    start := if byteAt d 1 = 1 then none else some ((s.time.tick + 1) * 256), startSec := leAt d 24 6, startNs := leAt d 32 4
    block := if leAt d 40 8 = 0 then List.replicate resLen 0 else s.devRead (leAt d 40 8) resLen }

theorem State.gstart_of {s s1 : State} {i cn : Nat} {c : MboxCmd} {v : Version} {cp : ACopy} (h : s.takeCmd i 0x21 = some (c, s1))
    (hbad : s.gstartBad c.desc = false) (hv : (s.handle (leAt c.desc 4 2)).serving = some v) (hkind : v.kind = 2)
    (hload : (s.handle (leAt c.desc 4 2)).loading = false) (hj : s.jrnlRefuses = false)
    (hint : max v.prog.step v.prog.depth * 256 ≤ leAt c.desc 8 4)
    (hpick : s.pickCopy (leAt c.desc 4 2) v (max v.prog.grate (64000000000 / max 1 (leAt c.desc 8 4))) = some (cn, cp))
    (hmem : leAt c.desc 40 8 = 0 ∨
      (s.anyUe (leAt c.desc 40 8) v.prog.resLen = false ∧ s.anyUnmapped (leAt c.desc 40 8) v.prog.resLen = false)) : s.gstart i =
    (let s1 := if leAt c.desc 40 8 = 0 then s1 else s1.mirrorHeal (leAt c.desc 40 8) v.prog.resLen
     let o := s1.openCtx (leAt c.desc 4 2) v cn cp none (some (s.gstartGen c.desc v.prog.resLen))
     let s3 := { o.2 with ctxs := Tbl.modify o.2.ctxs o.1 (fun x => { x with
       slots := [(0, (0, List.replicate v.prog.nstands [] ++ [(s.gstartGen c.desc v.prog.resLen).block]))] }) }
     s3.seqFinish c.desc 0 o.1 (Tbl.find s3.ctxs o.1)) := by
  have hfree : ¬((s.handle (leAt c.desc 4 2)).loading = true ∨ s.jrnlRefuses = true) := by
    rw [hload, hj]; decide
  have hreads : ¬(leAt c.desc 40 8 ≠ 0 ∧ (s.anyUe (leAt c.desc 40 8) v.prog.resLen || s.anyUnmapped (leAt c.desc 40 8) v.prog.resLen) = true) := by
    rintro ⟨h0, hno⟩
    rcases hmem with hz | ⟨h1, h2⟩
    · exact h0 hz
    · rw [h1, h2] at hno; exact absurd hno (by decide)
  rw [State.gstart, h]
  dsimp only
  rw [if_neg (Bool.eq_false_iff.mp hbad), hv]
  dsimp only
  rw [if_neg (not_not_intro hkind), if_neg hfree, if_neg (Nat.not_lt.mpr hint), hpick]
  exact if_neg hreads

/-- The gate of GSTOP and SCLOSE on a context that is there. -/
theorem seq_free {s : State} {x : Ctx} (hroll : x.rolling = false) (hload : (s.handle x.handle).loading = false)
    (hj : s.jrnlRefuses = false) : ¬(x.rolling = true ∨ (s.handle x.handle).loading = true ∨ s.jrnlRefuses = true) := by
  rw [hroll, hload, hj]; decide

theorem State.gstop_of {s s1 : State} {i : Nat} {c : MboxCmd} {x : Ctx} {g : GenSt} (h : s.takeCmd i 0x22 = some (c, s1))
    (hbad : seqCmdBad c.desc = false) (hx : Tbl.find s.ctxs (leAt c.desc 2 2) = some x) (hg : x.gen = some g)
    (hh : x.handle = leAt c.desc 4 2) (hfree : ¬(x.rolling = true ∨ (s.handle x.handle).loading = true ∨ s.jrnlRefuses = true)) :
    s.gstop i = (s1.setCtx (leAt c.desc 2 2) { x with
      gen := some { g with stopping := true, stopRecs := g.stopRecs ++ [leAt c.desc 48 8] } }).genEnd (leAt c.desc 2 2) := by
  rw [State.gstop, h]
  dsimp only
  rw [if_neg (Bool.eq_false_iff.mp hbad), hx]
  dsimp only
  split
  · next hn => exact absurd (hg.symm.trans hn) (by simp)
  · next g' hg' =>
    obtain rfl : g = g' := Option.some.inj (hg.symm.trans hg')
    rw [if_neg (not_not_intro hh), if_neg hfree]

theorem State.sclose_of {s s1 : State} {i : Nat} {c : MboxCmd} {x : Ctx} (h : s.takeCmd i 0x23 = some (c, s1))
    (hbad : seqCmdBad c.desc = false) (hx : Tbl.find s.ctxs (leAt c.desc 2 2) = some x)
    (hh : x.handle = leAt c.desc 4 2) (hfree : ¬(x.rolling = true ∨ (s.handle x.handle).loading = true ∨ s.jrnlRefuses = true)) :
    s.sclose i =
      (let waits := (s1.msgs.filter (fun m => m.2.ctx == some (leAt c.desc 2 2) && m.2.stage == .waiting && (s1.runOfSlot m.1).isNone)).map (·.1)
       let told := waits.foldl (fun s n => match Tbl.find s.msgs n with
         | some m => s.answerMsg n stStaleMessage 0 (s.staleInfo m.org.desc) | none => s) s1
       (((told.closeCtx (leAt c.desc 2 2)).ctxSettle (leAt c.desc 2 2)).seqFinish c.desc 0 (leAt c.desc 2 2) (some x)).settle) := by
  rw [State.sclose, h]
  dsimp only
  rw [if_neg (Bool.eq_false_iff.mp hbad), hx]
  dsimp only
  rw [if_neg (not_not_intro hh), if_neg hfree] <;> rfl

/-! ## Generation steps -/

theorem State.genStep_of {s : State} {k t : Nat} {x : Ctx} {g : GenSt} {v : Version} {cp : ACopy} (hx : Tbl.find s.ctxs k = some x)
    (hg : x.gen = some g) (hh : s.ctxHome x = some (v, cp)) (ht : g.due x.p = some t)
    (hgo : ¬(x.state ≠ 2 ∨ g.done x.p = true ∨ s.time.tick * 256 < t ∨ (!x.free v s.time.tick) = true ∨
      s.runs.any (fun r => r.2.ctx == some k) = true ∨ (!(s.admits && s.copyAdmits x.handle v x.copy cp (s.exactAt t))) = true)) :
    s.genStep k =
      (let late := decide (t + 256 ≤ s.time.tick * 256)
       let loud := decide (g.silentTo.getD 0 ≤ x.p)
       let back := loud && g.silentTo.isSome
       let dsc : DescIn := { d := { model := some x.handle, seq := some x.p }, ver := x.version, nan := false, lport := 0
                             stamp := s.stampTick t, metadata := [], seq := some (x.p, x.cslot, stepSeed g.seed x.p) }
       let s2 := s.startRun x.handle v x.copy cp none (some k) x.p (s.exactAt t) dsc g.block (fun _ => 0)
       let s3 := (s2.setCtx k { (x.enter s.time.tick x.p) with gen := some { g with
         lateNow := late, silentTo := if back then none else g.silentTo } }).count (Reg.SEQ_CNT_TOKENS (k / 4096))
       let s4 := if late && loud then s3.count (Reg.SEQ_CNT_LATE (k / 4096)) else s3
       if back = true then s4.post 0 8 [] else s4) := by
  rw [State.genStep, hx]
  dsimp only
  rw [hg, hh]
  dsimp only
  rw [ht]
  exact if_neg hgo

/-- The reply of a generation step's frame. -/
def State.genReply (s : State) (k : Nat) (x : Ctx) (g : GenSt) (e : GenOut) (d : Dest) : Reply :=
  let t := (g.due e.pos).getD 0
  let st := s.stampTick t
  let org : Origin := { eport := 0, lport := d.lport, win := [], flen := 0, stamp := st, raw := s.time.raw, sub := 0
                        desc := { model := some x.handle, replyTo := some g.dest }, metadata := [], handler := 0
                        cfg := s.cfgFor st, exact := s.exactAt t, hdrEnd := 0 }
  { s.newReply org none [] 5 stOk 0 0 d with
    res := e.res, nan := e.nan, sat := e.sat, late := e.late, warn := e.warn, version := x.version
    position := e.pos, tmpl := some g.template, eport := s.egressOf d.lport 48, genCtx := some k }

theorem State.genEmit_of {s : State} {k : Nat} {x : Ctx} {g : GenSt} {e : GenOut} {rest : List GenOut} {d : Dest}
    (hx : Tbl.find s.ctxs k = some x) (hg : x.gen = some g) (he : g.emits = e :: rest)
    (hd : entryDest (s.cfgFor (s.stampTick ((g.due e.pos).getD 0))) g.dest = some d) : s.genEmit k =
      (((s.setCtx k { x with gen := some { g with emits := rest } }).addReply (s.genReply k x g e d)).posGood k e.pos).genOver k := by
  rw [State.genEmit, hx]
  dsimp only
  split
  · next hn => exact absurd (hg.symm.trans hn) (by simp)
  · next g' hg' =>
    obtain rfl : g = g' := Option.some.inj (hg.symm.trans hg')
    split
    · next hn => exact absurd (he.symm.trans hn) (by simp)
    · next e' rest' he' =>
      obtain ⟨rfl, rfl⟩ : e = e' ∧ rest = rest' := List.cons.inj (he.symm.trans he')
      split
      · next hn => exact absurd (hd.symm.trans hn) (by simp)
      · next d' hd' =>
        obtain rfl : d = d' := Option.some.inj (hd.symm.trans hd')
        rfl

/-- Settles O50: tokens, step boundaries, credits, checkpoints, rollback, restore, the three commands, and generation. -/
theorem sequencesAdmitCheckpointAndGenerate : Obligations.SequencesAdmitCheckpointAndGenerate := by
  intro s s1 i n k
  refine ⟨fun m x v cp h hk hx hh hr => ?_, fun x v rid r hx hr hv hroll hst ht => ?_, fun x v cp hx hh => ?_,
    fun x v cp hx hh hdue hroll hroom hgen => congrArg Host.Outcome.next (State.capture_of hx hh hdue hroll hroom hgen),
    fun x v cp c data rest hx hh hst => ?_, fun x hx hroll hst => ?_, fun x v cp readable hx hst hh => ?_, fun c h => ?_, fun c h => ?_,
    fun c h => ?_, fun x g v cp t hx hg hh ht hst hdone hdue hfree hruns hadm hcopy => ?_, fun x g e rest d hx hg he hd => ?_⟩
  · have hadm := State.tokenAdmit_of h hk hx hh hr
    refine ⟨fun ha hc ho => ?_, fun hno => congrArg Host.Outcome.next (hadm.trans (if_pos ?_))⟩
    · have hgo : ¬((!(s1.admits && s1.copyAdmits x.handle v x.copy cp m.exact) || s1.tokenAhead m x) = true) := by
        rw [ha, hc, ho]; decide
      exact congrArg Host.Outcome.next (hadm.trans (if_neg hgo))
    · rcases hno with h | h | h <;> rw [h] <;> simp
  · have hb := State.stepBoundary_of hx hr hv hroll hst ht
    exact ⟨fun hne => congrArg Host.Outcome.next (hb.trans (if_neg hne)), fun he => congrArg Host.Outcome.next (hb.trans (if_pos he))⟩
  · have hc := State.creditEarn_of hx hh
    exact ⟨fun h => congrArg Host.Outcome.next (hc.trans (if_pos h)),
      fun h => congrArg Host.Outcome.next (hc.trans (if_neg (Nat.not_le.mpr h)))⟩
  · have hw := State.ckptWritten_of hx hh hst
    refine ⟨fun hfree => congrArg Host.Outcome.next (hw.trans (if_neg ?_)),
      fun e he hrb hne => congrArg Host.Outcome.next (hw.trans (if_pos ?_))⟩
    · split
      · next e he =>
        intro hx
        obtain ⟨h1, h2⟩ := Bool.and_eq_true_iff.mp hx
        exact (bne_iff_ne.mp h2) (hfree e he (beq_iff_eq.mp h1))
      · decide
    · rw [he]
      exact Bool.and_eq_true_iff.mpr ⟨beq_iff_eq.mpr hrb, bne_iff_ne.mpr hne⟩
  · have hr := State.rollback_of hx hroll hst
    intro y s2
    refine ⟨fun hg hno => congrArg Host.Outcome.next (hr.trans ?_), fun g hg hex => congrArg Host.Outcome.next (hr.trans ?_),
      fun hg c hc => congrArg Host.Outcome.next (hr.trans ?_)⟩
    · dsimp only
      split
      · exact if_neg (Bool.eq_false_iff.mp hno)
      · next hn => rw [hn] at hg; exact absurd hg (by decide)
    · dsimp only
      split
      · next g' hg' =>
        obtain rfl : g = g' := Option.some.inj (hg.symm.trans hg')
        exact if_pos hex
      · next hn => exact absurd (hg.symm.trans hn) (by simp)
    · dsimp only
      split
      · next g' hg' => exact absurd (hg.symm.trans hg') (by simp)
      · split
        · next c' hc' =>
          obtain rfl : c = c' := Option.some.inj (hc.symm.trans hc')
          rfl
        · next hn => exact absurd (hc.symm.trans hn) (by simp)
  · have hr := State.restoreDone_of hx hst hh readable
    have hdone : exec (.restoreDone ⟨k, readable⟩) s = .next ((s.restoreDone k readable).ctxSettle k) := rfl
    intro dark
    have hdark : (x.rb ≠ 0 ∧ ((!readable) = true ∨ (x.cause ≠ 5 ∧ (s.die (k / 4096)).lost = true))) ↔ dark := by
      rw [Bool.not_eq_true']
    refine ⟨fun hd => ?_, fun hd hin => ?_, fun hd hout => ⟨fun t ht => ?_, fun hno => ?_⟩⟩
    · rw [hdone, hr.trans (if_pos (hdark.mpr hd))]
    · rw [hdone, hr.trans ((if_neg (mt hdark.mp hd)).trans (if_pos (by rw [hin]; rfl)))]
    · rw [hdone, hr.trans ((if_neg (mt hdark.mp hd)).trans (if_neg (by rw [hout]; decide))), ht]
    · rw [hdone, hr.trans ((if_neg (mt hdark.mp hd)).trans (if_neg (by rw [hout]; decide))), hno]
  · intro d h' prime
    refine ⟨fun hbad => congrArg Host.Outcome.next ?_, fun v cn cp hbad hv hkind hload hj hint hpick hmem => ?_⟩
    · rw [State.gstart, h]
      exact if_pos hbad
    · have hg := State.gstart_of h hbad hv hkind hload hj hint hpick hmem
      intro s1
      exact ⟨s.gstartGen d v.prog.resLen, (s1.openCtx h' v cn cp none (some (s.gstartGen d v.prog.resLen))).1,
        (s1.openCtx h' v cn cp none (some (s.gstartGen d v.prog.resLen))).2, _, rfl, rfl, rfl, rfl, rfl, rfl, rfl, rfl,
        congrArg Host.Outcome.next hg⟩
  · intro j
    refine ⟨fun hbad => congrArg Host.Outcome.next ?_, fun x g hbad hx hg hh hroll hload hj =>
      congrArg Host.Outcome.next (State.gstop_of h hbad hx hg hh (seq_free hroll hload hj))⟩
    rw [State.gstop, h]
    exact if_pos hbad
  · intro j waits told
    refine ⟨fun hbad => congrArg Host.Outcome.next ?_, fun x hbad hx hh hroll hload hj =>
      congrArg Host.Outcome.next (State.sclose_of h hbad hx hh (seq_free hroll hload hj))⟩
    rw [State.sclose, h]
    exact if_pos hbad
  · have hgo : ¬(x.state ≠ 2 ∨ g.done x.p = true ∨ s.time.tick * 256 < t ∨ (!x.free v s.time.tick) = true ∨
        s.runs.any (fun r => r.2.ctx == some k) = true ∨ (!(s.admits && s.copyAdmits x.handle v x.copy cp (s.exactAt t))) = true) := by
      rw [hdone, hfree, hruns, hadm, hcopy]
      rintro (h | h | h | h | h | h)
      · exact h hst
      · exact absurd h (by decide)
      · exact absurd hdue (Nat.not_le.mpr h)
      all_goals exact absurd h (by decide)
    intro late loud back dsc s2 s3 s4
    exact congrArg Host.Outcome.next (State.genStep_of hx hg hh ht hgo)
  · exact ⟨s.genReply k x g e d, rfl, rfl, rfl, rfl, rfl, rfl, rfl, rfl, rfl, rfl,
      congrArg Host.Outcome.next (State.genEmit_of hx hg he hd)⟩

end Sys2Proof.Machine
end

section
/-! Reduction frames and the boom's timers (R220 to R232, Tables 9-5 to 9-8). -/
namespace Sys2Proof.Machine

/-! ## Frames through Table 9-7 -/

/-- A frame that Table 9-7 lets into its epoch: an operation that is VALID, an exactness that the plan can give, and a contributor of this
member. -/
structure State.Fit (s : State) (m : Msg) (f : BoomIn) : Prop where
  valid : s.boomValid m f = true
  plan : (s.boomJudge m f).unreduced = true → (s.boomJudge m f).ranks ≤ 256
  mine : f.kind < 0x10 → f.rank / (s.boomJudge m f).lcl = (s.boomJudge m f).me

/-- The three checks before Table 9-7, passed. -/
theorem State.Fit.checks {s : State} {m : Msg} {f : BoomIn} (h : s.Fit m f) : ¬((!s.boomValid m f) = true) ∧
    ¬((s.boomJudge m f).unreduced = true ∧ 256 < (s.boomJudge m f).ranks) ∧
    ¬(f.kind < 0x10 ∧ f.rank / (s.boomJudge m f).lcl ≠ (s.boomJudge m f).me) :=
  ⟨by rw [h.valid]; decide, fun hx => absurd (h.plan hx.1) (Nat.not_le.mpr hx.2), fun hx => hx.2 (h.mine hx.1)⟩

/-- The state in which a frame is used: its epoch is open, or this frame opens it. -/
def State.Enters (s u : State) (m : Msg) (f : BoomIn) : Prop :=
  s.boomRow f.op f.epoch = .use ∧ u = s ∨
    s.boomRow f.op f.epoch = .opens ∧ s.dozing = false ∧ s.holding = false ∧ s.boomOpen m.org f.op f.epoch = some u

theorem State.boomTake_use {s u : State} {n : Nat} {m : Msg} {f : BoomIn} (h : s.Fit m f) (hu : s.Enters u m f)
    (use late : State → BoomEpoch → State) : s.boomTake n m f use late = (use u (u.boomJudge m f), false) := by
  obtain ⟨h1, h2, h3⟩ := h.checks
  have hskip : s.boomTake n m f use late = _ := (if_neg h1).trans ((if_neg h2).trans (if_neg h3))
  rw [hskip]
  rcases hu with ⟨hrow, rfl⟩ | ⟨hrow, hdoze, hhold, hopen⟩
  · rw [hrow]
  · rw [hrow]
    dsimp only
    rw [hdoze, hhold, hopen]
    rfl

theorem State.boomTake_late {s : State} {n : Nat} {m : Msg} {f : BoomIn} (h : s.Fit m f) (hrow : s.boomRow f.op f.epoch = .late)
    (use late : State → BoomEpoch → State) : s.boomTake n m f use late = (late s (s.boomJudge m f), false) := by
  obtain ⟨h1, h2, h3⟩ := h.checks
  have hskip : s.boomTake n m f use late = _ := (if_neg h1).trans ((if_neg h2).trans (if_neg h3))
  rw [hskip, hrow]

theorem State.boomCheck_good (s : State) (n : Nat) {f : BoomIn} {e : BoomEpoch} (hd : f.ddig = e.ddig) {bad : Bool} (hb : bad = false)
    (ranks : List Nat) (ok : State → State) : s.boomCheck n f e bad ranks ok = ok s :=
  (if_neg (not_not_intro hd)).trans (if_neg (Bool.eq_false_iff.mp hb))

theorem State.boomCheck_bad (s : State) (n : Nat) {f : BoomIn} {e : BoomEpoch} (hd : f.ddig = e.ddig) {bad : Bool} (hb : bad = true)
    (ranks : List Nat) (ok : State → State) :
    s.boomCheck n f e bad ranks ok = (s.answerMsg n stMalformed 0 0).boomAbort f.op 1 ranks :=
  (if_neg (not_not_intro hd)).trans (if_pos hb)

/-! ## Contributors -/

/-- The answer to a contributor's frame after the decision. -/
def State.lateAnswer (s : State) (n : Nat) (f : BoomIn) (e : BoomEpoch) (o : BoomOut) : State :=
  if o.ok then s.boomReply n stOk (outcomeBlock 0 0 f.op e.epoch f.seg f.nseg (1 + o.flags) []) o.nan o.sat
  else s.boomReply n (causeStatus o.cause) (o.block f.op e.epoch) o.nan o.sat

theorem State.boomLocal_late {s : State} {n : Nat} {m : Msg} {f : BoomIn} {kinds : Nat → Bool} (hf : s.boomIn n = some (m, f))
    (hk : kinds f.kind = true) (h : s.Fit m f) (hrow : s.boomRow f.op f.epoch = .late) {o : BoomOut}
    (ho : (s.boomJudge m f).outcome = some o) (use : State → Msg → BoomIn → BoomEpoch → State) :
    s.boomLocal n kinds use = (s.lateAnswer n f (s.boomJudge m f) o).settle := by
  rw [State.boomLocal, hf]
  dsimp only
  rw [hk, if_neg (by decide), State.boomTake_late h hrow, ho]
  rfl

theorem State.boomLocal_use {s u : State} {n : Nat} {m : Msg} {f : BoomIn} {kinds : Nat → Bool} (hf : s.boomIn n = some (m, f))
    (hk : kinds f.kind = true) (h : s.Fit m f) (hu : s.Enters u m f) (use : State → Msg → BoomIn → BoomEpoch → State) :
    s.boomLocal n kinds use = (use u m f (u.boomJudge m f)).settle := by
  rw [State.boomLocal, hf]
  dsimp only
  rw [hk, if_neg (by decide), State.boomTake_use h hu]

/-- BOOM_DATA of a DATA frame. -/
theorem State.boomData_local {s : State} {n : Nat} {m : Msg} {f : BoomIn} (hf : s.boomIn n = some (m, f)) (hk : f.kind = 1) :
    s.boomData n = s.boomLocal n (· == 1) (dataUse n) := by
  rw [State.boomData, hf]
  dsimp only
  rw [hk]
  exact if_neg (by decide)

/-- A DATA frame that passes R229. -/
theorem dataUse_of (n : Nat) {s : State} (m : Msg) {f : BoomIn} {e : BoomEpoch} (hd : f.ddig = e.ddig)
    (hb : (e.badLen f || ((e.kind == 2 && !(List.range f.nseg).all (fun i => (e.sliceOf f.rank).contains (f.seg + i))) ||
      (e.kind == 3 && f.nseg != 0 && f.rank != e.root))) = false) : dataUse n s m f e =
    (let e0 := { e with origins := Tbl.put e.origins f.rank (m.org, s.fcsOf m.frames) }
     let w := workSegs (fun _ _ => f.rank % e.lcl) (fun e g _ d => e.contribute f.rank g d) (e0.readSegs f f.nseg f.seg f.body) e0
     let s1 := s.boomReply n stOk (outcomeBlock 0 0 f.op e.epoch f.seg f.nseg (b2n (decide (0 < w.2.2)) + w.1.flags) []) w.1.nan w.1.sat
     (s1.countN Reg.BOOM_CNT_DUP w.2.2).boomWork f.op (w.1, w.2.1)) := by
  rw [dataUse]
  dsimp only
  rw [State.boomCheck_good s n hd hb]

/-! ## Peers -/

/-- A peer's frame that was used: over the host path its number is noted and it is acknowledged. -/
def State.peerAcked (s : State) (m : Msg) (f : BoomIn) (t : State) : State :=
  if f.host then
    (State.ctlBack { t with boom.seen := Tbl.put t.boom.seen f.peer (f.pseq :: Tbl.getD s.boom.seen f.peer []) } m f 0x13).settle
  else t.settle

theorem State.boomPeer_use {s u : State} {n kind : Nat} {m : Msg} {f : BoomIn} (hf : s.boomIn n = some (m, f)) (hk : f.kind = kind)
    (hnew : f.host = true → (Tbl.getD s.boom.seen f.peer []).contains f.pseq = false) (h : s.Fit m f) (hu : s.Enters u m f)
    (use : State → Msg → BoomIn → BoomEpoch → State) :
    s.boomPeer n kind use = s.peerAcked m f (use u m f (u.boomJudge m f)) := by
  have hfresh : ¬(f.host = true ∧ (Tbl.getD s.boom.seen f.peer []).contains f.pseq = true) :=
    fun hx => Bool.eq_false_iff.mp (hnew hx.1) hx.2
  rw [State.boomPeer, hf]
  dsimp only
  rw [if_neg (not_not_intro hk), if_neg hfresh, State.boomTake_use h hu]
  simp only [and_true]
  rfl

theorem State.boomPeer_again {s : State} {n kind : Nat} {m : Msg} {f : BoomIn} (hf : s.boomIn n = some (m, f)) (hk : f.kind = kind)
    (hhost : f.host = true) (hhad : (Tbl.getD s.boom.seen f.peer []).contains f.pseq = true)
    (use : State → Msg → BoomIn → BoomEpoch → State) : s.boomPeer n kind use = ((s.ctlBack m f 0x13).boomEnd n).settle := by
  rw [State.boomPeer, hf]
  dsimp only
  rw [if_neg (not_not_intro hk)]
  exact if_pos ⟨hhost, hhad⟩

/-- A PART or GATH frame that fits its epoch and the paths of R220. -/
theorem peerUse_of {n : Nat} {s : State} {m : Msg} {f : BoomIn} {e : BoomEpoch} (hd : f.ddig = e.ddig)
    (hlen : BoomEpoch.badLen { e with degraded := e.degraded || f.host } f = false)
    (hfits : ((f.kind == 0x12 || e.adds) && f.dist == (f.kind == 0x12 && (f.dist || e.adds))) = true)
    (htakes : ∀ i, i < f.nseg → BoomEpoch.takes { e with degraded := e.degraded || f.host } (f.seg + i) f.axis f.dn f.dist = true) :
    peerUse n s m f e =
      (let e0 := { e with degraded := e.degraded || f.host }
       let w := workSegs (fun _ r => feedBit f.dist f.axis f.dn r)
         (fun e g r d => if f.dist then e.distIn g f.axis f.dn d else e.reduceIn g f.axis f.dn r d)
         (e0.readSegs f f.nseg f.seg f.body) e0
       ((s.boomEnd n).countN Reg.BOOM_CNT_DUP w.2.2).boomWork f.op (w.1, w.2.1)) := by
  have hall : (List.range f.nseg).all (fun i =>
      BoomEpoch.takes { e with degraded := e.degraded || f.host } (f.seg + i) f.axis f.dn f.dist) = true :=
    List.all_eq_true.mpr fun i hi => htakes i (List.mem_range.mp hi)
  have hgo : (!((f.kind == 0x12 || e.adds) && f.dist == (f.kind == 0x12 && (f.dist || e.adds)) &&
      (List.range f.nseg).all (fun i =>
        BoomEpoch.takes { e with degraded := e.degraded || f.host } (f.seg + i) f.axis f.dn f.dist))) = false := by
    rw [hfits, hall]; rfl
  have hd' : f.ddig = BoomEpoch.ddig { e with degraded := e.degraded || f.host } := hd
  rw [peerUse]
  dsimp only
  rw [State.boomCheck_good s n hd' hlen]
  exact if_neg (Bool.eq_false_iff.mp hgo)

/-! ## Queries -/

/-- A QUERY past its checks. -/
theorem State.boomQuery_of {s : State} {n : Nat} {m : Msg} {f : BoomIn} (hf : s.boomIn n = some (m, f)) (hk : f.kind = 3)
    (hv : s.boomValid m f = true) (hplan : (s.boomJudge m f).unreduced = true → (s.boomJudge m f).ranks ≤ 256)
    (hj : s.queryJudged f = true → f.ddig = (s.boomJudge m f).ddig ∧ (s.boomJudge m f).badSpan f = false) :
    s.boomQuery n = (s.queryEpoch n m f).settle := by
  have h1 : ¬((!s.boomValid m f) = true) := by rw [hv]; decide
  have h2 : ¬((s.boomJudge m f).unreduced = true ∧ 256 < (s.boomJudge m f).ranks) := fun hx =>
    absurd (hplan hx.1) (Nat.not_le.mpr hx.2)
  have h3 : ¬(s.queryJudged f = true ∧ (f.ddig ≠ (s.boomJudge m f).ddig ∨ (s.boomJudge m f).badSpan f = true)) := by
    rintro ⟨hq, hx⟩
    obtain ⟨hd, hb⟩ := hj hq
    rcases hx with hx | hx
    · exact hx hd
    · exact Bool.eq_false_iff.mp hb hx
  rw [State.boomQuery, hf]
  dsimp only
  rw [if_neg (not_not_intro hk), if_neg h1, if_neg h2, if_neg h3]

theorem State.queryEpoch_open {s u : State} {n : Nat} {m : Msg} {f : BoomIn} (h : Tbl.find s.boom.ops f.op = none) (hd : s.dozing = false)
    (hh : s.holding = false) (ho : s.boomOpen m.org f.op f.epoch = some u) : s.queryEpoch n m f = u.queryPending n f := by
  rw [State.queryEpoch, h]
  dsimp only
  rw [hd, hh, ho]
  rfl

theorem State.queryEpoch_pending {s : State} {n : Nat} {m : Msg} {f : BoomIn} {x : BoomOp} (h : Tbl.find s.boom.ops f.op = some x)
    (hd : (f.epoch + 65536 - x.cur.epoch) % 65536 = 0 ∧ (x.cur.outcome = none ∨ x.cur.decided = false) ∨
      (f.epoch + 65536 - x.cur.epoch) % 65536 = 1) : s.queryEpoch n m f = s.queryPending n f := by
  rw [State.queryEpoch, h]
  dsimp only
  rcases hd with ⟨h0, hout⟩ | h1
  · rw [if_pos h0]
    split
    · next o ho =>
      rcases hout with hno | hdec
      · exact absurd (hno.symm.trans ho) (by simp)
      · exact if_neg (Bool.eq_false_iff.mp hdec)
    · rfl
  · rw [if_neg (by omega), if_pos h1]

theorem State.queryEpoch_decided {s : State} {n : Nat} {m : Msg} {f : BoomIn} {x : BoomOp} (h : Tbl.find s.boom.ops f.op = some x)
    {o : BoomOut} (hd : (f.epoch + 65536 - x.cur.epoch) % 65536 = 0) (ho : x.cur.outcome = some o) (hdec : x.cur.decided = true) :
    s.queryEpoch n m f = s.queryDecided n m f x.cur o := by
  rw [State.queryEpoch, h]
  dsimp only
  rw [if_pos hd, ho]
  exact if_pos hdec

theorem State.queryEpoch_before {s : State} {n : Nat} {m : Msg} {f : BoomIn} {x : BoomOp} (h : Tbl.find s.boom.ops f.op = some x)
    {o : BoomOut} (hd : 32768 ≤ (f.epoch + 65536 - x.cur.epoch) % 65536) (ho : x.prev = some (f.epoch, o)) :
    s.queryEpoch n m f = s.boomReply n (if o.ok then stOk else causeStatus o.cause) (o.block f.op f.epoch) o.nan o.sat := by
  rw [State.queryEpoch, h]
  dsimp only
  rw [if_neg (by omega), if_neg (by omega), if_neg (by omega), ho]
  exact if_pos rfl

/-! ## The host path and the timers -/

theorem State.boomAck_of {s : State} {n : Nat} {m : Msg} {f : BoomIn} (hf : s.boomIn n = some (m, f)) (hk : f.kind = 0x13) {x : BoomHost}
    (hx : (s.boomEnd n).hostRec f.peer f.pseq = some x) : s.boomAck n =
      (let s1 := ((s.boomEnd n).dropHost f.peer f.pseq).hopNext x.op x.hop
       (match s1.boomEpoch x.op with
        | some e => if e.waitAck = some (f.peer, f.pseq) then s1.decideRest x.op f.peer else s1
        | none => s1).settle) := by
  rw [State.boomAck, hf]
  dsimp only
  rw [if_neg (not_not_intro hk), hx] <;> rfl

/-- A frame's refusal is noted: which of the frames sent it refuses, and until when that one waits. -/
theorem State.boomBusyFrame_of {s : State} {n : Nat} {m : Msg} {f : BoomIn} (hf : s.boomIn n = some (m, f)) (hk : f.kind = 0x17)
    {key : Option (Nat × Nat)} {sent : Option BoomSent} (hkey : (if f.host = true then some (f.peer, f.pseq) else none) = key)
    (hsent : (if f.host = true then none else
      ((s.boomEnd n).boomEpoch f.op).bind (fun e => if e.epoch = f.epoch then (s.boomEnd n).refusedFrame f e else none)) = sent)
    (hthere : ¬(f.host = true ∧ ((s.boomEnd n).hostRec f.peer f.pseq).isNone = true ∨ (!f.host) = true ∧ sent.isNone = true)) :
    s.boomBusyFrame n =
      (let s0 := s.boomEnd n
       let old := s0.boom.refused.find? (fun r => r.2.op == f.op && r.2.epoch == f.epoch && r.2.host == key && r.2.sent == sent)
       let k := match old with | some r => r.2.count + 1 | none => 1
       let id := match old with | some r => r.1 | none => leastFree s0.boom.refused
       let s1 := { s0 with boom.refused := Tbl.put s0.boom.refused id ⟨f.op, f.epoch, key, m.org.lport, sent, k, some (s.busyWait k)⟩ }
       (match s1.hostRec f.peer f.pseq with
        | some x => if f.host then s1.setHost f.peer f.pseq { x with refused := k, busyTo := some (s.busyWait k) } else s1
        | none => s1).settle) := by
  subst hkey hsent
  rw [State.boomBusyFrame, hf]
  dsimp only
  rw [if_neg (not_not_intro hk), if_neg hthere] <;> rfl

theorem State.boomBusyRetry_host {s : State} {id t m p : Nat} {r : BoomRefused} {x : BoomHost} (hr : Tbl.find s.boom.refused id = some r)
    (hb : r.busyTo = some t) (ht : t ≤ s.time.raw) (hh : r.host = some (m, p)) (hx : s.hostRec m p = some x) : s.boomBusyRetry id =
      State.hostSendNow { s with boom.refused := Tbl.put s.boom.refused id { r with busyTo := none } } m p { x with busyTo := none } := by
  have hx' : State.hostRec { s with boom.refused := Tbl.put s.boom.refused id { r with busyTo := none } } m p = some x := hx
  rw [State.boomBusyRetry, hr]
  dsimp only
  split
  · next hn => exact absurd (hb.symm.trans hn) (by simp)
  · next t' ht' =>
    obtain rfl : t = t' := Option.some.inj (hb.symm.trans ht')
    rw [if_neg (Nat.not_lt.mpr ht)]
    split
    · next m' p' hh' =>
      obtain ⟨rfl, rfl⟩ : m = m' ∧ p = p' := Prod.mk.inj (Option.some.inj (hh.symm.trans hh'))
      split
      · next x' hx'' => rw [Option.some.inj (hx'.symm.trans hx'')]
      · next hn => exact absurd (hx'.symm.trans hn) (by simp)
    · next hn _ => exact absurd (hh.symm.trans hn) (by simp)
    · next hn _ => exact absurd (hh.symm.trans hn) (by simp)

theorem State.boomBusyRetry_port {s : State} {id t : Nat} {r : BoomRefused} {f : BoomSent} {e : BoomEpoch}
    (hr : Tbl.find s.boom.refused id = some r) (hb : r.busyTo = some t) (ht : t ≤ s.time.raw) (hh : r.host = none) (hf : r.sent = some f)
    (he : s.boomEpoch r.op = some e) (hep : e.epoch = r.epoch) (hund : e.decided = false) : s.boomBusyRetry id =
      State.nbrSend { s with boom.refused := Tbl.put s.boom.refused id { r with busyTo := none } } r.lport
        (boomRequest (boomBlock f.kind f.phase r.op e.epoch f.seg e.me e.elems e.ddig f.nseg 0 0) f.body) := by
  have he' : State.boomEpoch { s with boom.refused := Tbl.put s.boom.refused id { r with busyTo := none } } r.op = some e := he
  rw [State.boomBusyRetry, hr]
  dsimp only
  split
  · next hn => exact absurd (hb.symm.trans hn) (by simp)
  · next t' ht' =>
    obtain rfl : t = t' := Option.some.inj (hb.symm.trans ht')
    rw [if_neg (Nat.not_lt.mpr ht)]
    split
    · next hn => exact absurd (hh.symm.trans hn) (by simp)
    · next f' _ hf' =>
      obtain rfl : f = f' := Option.some.inj (hf.symm.trans hf')
      split
      · next e' he'' =>
        obtain rfl : e = e' := Option.some.inj (he'.symm.trans he'')
        exact if_pos ⟨hep, hund⟩
      · next hn => exact absurd (he'.symm.trans hn) (by simp)
    · next _ hn => exact absurd (hf.symm.trans hn) (by simp)

/-! ## The statement, part by part -/

/-- A contributor's frame and a peer's, in an epoch that takes them. -/
theorem framesInEpoch (s u : State) (n : Nat) (m : Msg) (f : BoomIn) (hf : s.boomIn n = some (m, f)) (h : s.Fit m f)
    (hu : s.Enters u m f) (hd : f.ddig = (u.boomJudge m f).ddig) :
    let e := u.boomJudge m f
    (f.kind = 1 → (e.badLen f || ((e.kind == 2 && !(List.range f.nseg).all (fun i => (e.sliceOf f.rank).contains (f.seg + i))) ||
        (e.kind == 3 && f.nseg != 0 && f.rank != e.root))) = false →
      let e0 := { e with origins := Tbl.put e.origins f.rank (m.org, u.fcsOf m.frames) }
      let w := workSegs (fun _ _ => f.rank % e.lcl) (fun e g _ d => e.contribute f.rank g d) (e0.readSegs f f.nseg f.seg f.body) e0
      let fl := b2n (decide (0 < w.2.2)) + w.1.flags
      let s1 := u.boomReply n stOk (outcomeBlock 0 0 f.op e.epoch f.seg f.nseg fl []) w.1.nan w.1.sat
      exec (.boomData n) s = .next ((s1.countN Reg.BOOM_CNT_DUP w.2.2).boomWork f.op (w.1, w.2.1)).settle) ∧
    (f.kind = 2 → e.badLen f = true → exec (.abandon n) s = .next ((u.answerMsg n stMalformed 0 0).boomAbort f.op 1 [f.rank]).settle) ∧
    (f.kind = 2 → e.badLen f = false →
      let s1 := u.boomReply n stOk (outcomeBlock 0 0 f.op e.epoch f.seg 0 e.flags []) e.nan e.sat
      let s2 := s1.setEpoch f.op { e with origins := Tbl.put e.origins f.rank (m.org, u.fcsOf m.frames) }
      exec (.abandon n) s = .next (s2.boomAbort f.op 3 [f.rank]).settle) := by
  intro e
  refine ⟨fun hk hb => ?_, fun hk hb => ?_, fun hk hb => ?_⟩
  · have hone : (f.kind == 1) = true := beq_iff_eq.mpr hk
    exact congrArg Host.Outcome.next ((State.boomData_local hf hk).trans ((State.boomLocal_use hf hone h hu _).trans
      (congrArg State.settle (dataUse_of n m hd hb))))
  · have htwo : (f.kind == 2) = true := beq_iff_eq.mpr hk
    exact congrArg Host.Outcome.next ((State.boomLocal_use hf htwo h hu _).trans
      (congrArg State.settle (State.boomCheck_bad u n hd hb _ _)))
  · have htwo : (f.kind == 2) = true := beq_iff_eq.mpr hk
    exact congrArg Host.Outcome.next ((State.boomLocal_use hf htwo h hu _).trans
      (congrArg State.settle (State.boomCheck_good u n hd hb _ _)))

/-- Settles O51: the rows of Table 9-7 that take a frame, queries, acknowledgements, refusals, and the timers. -/
theorem reductionFramesAndTimersAct : Obligations.ReductionFramesAndTimersAct := by
  refine ⟨fun s u n m f hf hv hplan hmine => ⟨fun o hrow ho => ?_, fun hu => ?_⟩, fun s n m f hf hhost hhad => ?_,
    fun s n m f hf hk hv hplan hj => ?_, fun s n m f hf => ⟨fun hk => ?_, fun hk => ?_⟩, fun s k => ?_, fun s id t r hr hb ht => ?_,
    fun s op e he => ?_, fun s m p x hx hout hbusy hdue => ?_⟩
  · have h : s.Fit m f := ⟨hv, hplan, hmine⟩
    intro e t
    refine ⟨fun hk => ?_, fun hk => ?_⟩
    · have hone : (f.kind == 1) = true := beq_iff_eq.mpr hk
      exact congrArg Host.Outcome.next ((State.boomData_local hf hk).trans (State.boomLocal_late hf hone h hrow ho _))
    · have htwo : (f.kind == 2) = true := beq_iff_eq.mpr hk
      exact congrArg Host.Outcome.next (State.boomLocal_late hf htwo h hrow ho _)
  · have h : s.Fit m f := ⟨hv, hplan, hmine⟩
    intro e hd
    obtain ⟨hdata, hbadAb, hab⟩ := framesInEpoch s u n m f hf h hu hd
    refine ⟨hdata, hbadAb, hab, ?_⟩
    intro had acked hnew
    refine ⟨fun hlen => ?_, ?_⟩
    · have hb : (f.vlen != e.elems) = false := bne_eq_false_iff_eq.mpr hlen
      intro e1
      exact ⟨fun hk => congrArg Host.Outcome.next ((State.boomPeer_use hf hk hnew h hu _).trans
          (congrArg acked (State.boomCheck_good u n hd hb _ _))),
        fun hk => congrArg Host.Outcome.next ((State.boomPeer_use hf hk hnew h hu _).trans
          (congrArg acked (State.boomCheck_good u n hd hb _ _))),
        fun hk => congrArg Host.Outcome.next ((State.boomPeer_use hf hk hnew h hu _).trans
          (congrArg acked (State.boomCheck_good u n hd hb _ _)))⟩
    · intro e0 hlen htakes w t
      refine ⟨fun hk hadds hdist => ?_, fun hk hdist => ?_⟩
      · have hfits : ((f.kind == 0x12 || e.adds) && f.dist == (f.kind == 0x12 && (f.dist || e.adds))) = true := by
          rw [hk, show e.adds = true from hadds, hdist]; rfl
        exact congrArg Host.Outcome.next ((State.boomPeer_use hf hk hnew h hu _).trans
          (congrArg acked (peerUse_of hd hlen hfits htakes)))
      · have hfits : ((f.kind == 0x12 || e.adds) && f.dist == (f.kind == 0x12 && (f.dist || e.adds))) = true := by
          rw [hk]
          exact beq_iff_eq.mpr hdist
        exact congrArg Host.Outcome.next ((State.boomPeer_use hf hk hnew h hu _).trans
          (congrArg acked (peerUse_of hd hlen hfits htakes)))
  · have hagain := fun (kind : Nat) (hk : f.kind = kind) use => State.boomPeer_again hf hk hhost hhad use
    intro t
    exact ⟨fun hk => congrArg Host.Outcome.next (hagain _ hk _), fun hk => congrArg Host.Outcome.next (hagain _ hk _),
      fun hk => congrArg Host.Outcome.next (hagain _ hk _), fun hk => congrArg Host.Outcome.next (hagain _ hk _),
      fun hk => congrArg Host.Outcome.next (hagain _ hk _)⟩
  · have hq := State.boomQuery_of hf hk hv hplan hj
    intro pend
    refine ⟨fun u hno hd hh ho => congrArg Host.Outcome.next (hq.trans (congrArg State.settle (State.queryEpoch_open hno hd hh ho))),
      fun x hx => ?_⟩
    intro d
    exact ⟨fun hd => congrArg Host.Outcome.next (hq.trans (congrArg State.settle (State.queryEpoch_pending hx hd))),
      fun o hd ho hdec => congrArg Host.Outcome.next (hq.trans (congrArg State.settle (State.queryEpoch_decided hx hd ho hdec))),
      fun o hd ho => congrArg Host.Outcome.next (hq.trans (congrArg State.settle (State.queryEpoch_before hx hd ho)))⟩
  · refine ⟨fun hno => congrArg Host.Outcome.next ?_, fun x hx => ?_⟩
    · rw [State.boomAck, hf]
      dsimp only
      rw [if_neg (not_not_intro hk), hno]
    · have hack := State.boomAck_of hf hk hx
      intro s1
      refine ⟨fun e he hw => congrArg Host.Outcome.next (hack.trans (congrArg State.settle ?_)),
        fun hno => congrArg Host.Outcome.next (hack.trans (congrArg State.settle ?_))⟩
      · rw [show (((s.boomEnd n).dropHost f.peer f.pseq).hopNext x.op x.hop).boomEpoch x.op = some e from he]
        exact if_pos hw
      · split
        · next e he => exact if_neg (hno e he)
        · rfl
  · intro was times noted
    refine ⟨fun x hhost hx => ?_, fun e b hhost he hep hb => ?_⟩
    · intro k
      have hthere : ¬(f.host = true ∧ ((s.boomEnd n).hostRec f.peer f.pseq).isNone = true ∨
          (!f.host) = true ∧ (none : Option BoomSent).isNone = true) := by
        rw [hx, hhost]; simp
      have hbusy := State.boomBusyFrame_of hf hk (if_pos hhost) (if_pos hhost) hthere
      refine congrArg Host.Outcome.next (hbusy.trans (congrArg State.settle ?_))
      split
      · next x' hx' =>
        obtain rfl : x = x' := Option.some.inj (hx.symm.trans hx')
        exact if_pos hhost
      · next hn => exact absurd (hx.symm.trans hn) (by simp)
    · have hthere : ¬(f.host = true ∧ ((s.boomEnd n).hostRec f.peer f.pseq).isNone = true ∨
          (!f.host) = true ∧ (some b).isNone = true) := by
        rw [hhost]; simp
      have hsent : (if f.host = true then none else
          ((s.boomEnd n).boomEpoch f.op).bind (fun e => if e.epoch = f.epoch then (s.boomEnd n).refusedFrame f e else none)) = some b := by
        rw [if_neg (Bool.eq_false_iff.mp hhost), he, Option.bind_some, if_pos hep, hb]
      have hbusy := State.boomBusyFrame_of hf hk (if_neg (Bool.eq_false_iff.mp hhost)) hsent hthere
      refine congrArg Host.Outcome.next (hbusy.trans (congrArg State.settle ?_))
      split
      · exact if_neg (Bool.eq_false_iff.mp hhost)
      · rfl
  · have hmax : 2 * s.cfg Reg.BOOM_TMR 7 0 ≤ max (2 * s.cfg Reg.BOOM_TMR 7 0) (s.cfg Reg.BOOM_TMR 7 0 * 2 ^ min 6 k) := Nat.le_max_left _ _
    exact Nat.add_le_add_left (Nat.mul_le_mul_right _ hmax) _
  · intro s1
    exact ⟨fun m p x hh hx => congrArg Host.Outcome.next (State.boomBusyRetry_host hr hb ht hh hx),
      fun f e hh hf he hep hund => congrArg Host.Outcome.next (State.boomBusyRetry_port hr hb ht hh hf he hep hund)⟩
  · refine ⟨fun hund hwait => ⟨fun hmd hat => congrArg Host.Outcome.next ?_, fun hco hat => congrArg Host.Outcome.next ?_⟩,
      fun hdec hheld hto => congrArg Host.Outcome.next ?_⟩
    · rw [State.memberTimer, he]
      refine if_neg ?_
      rw [hund, hmd, hwait]
      simpa using hat
    · rw [State.coordTimer, he]
      refine if_neg ?_
      rw [hund, hwait]
      simpa using ⟨hco, hat⟩
    · rw [State.retention, he]
      exact if_pos ⟨hdec, hheld, hto⟩
  · have hgo : ¬((!x.out) = true ∨ x.busyTo.isSome = true ∨ s.time.raw < x.sentAt + s.cfg Reg.BOOM_TMR 7 0 * 1000) := by
      rw [hout, hbusy]
      simpa using hdue
    have hres : s.hostResend m p = if s.cfg Reg.BOOM_TMR 15 8 ≤ x.sends then s.memberLost m
        else (s.count Reg.BOOM_CNT_RESEND).hostSendNow m p { x with sends := x.sends + 1 } := by
      rw [State.hostResend, hx]
      exact if_neg hgo
    exact ⟨fun h => congrArg Host.Outcome.next (hres.trans (if_pos h)),
      fun h => congrArg Host.Outcome.next (hres.trans (if_neg (Nat.not_le.mpr h)))⟩

end Sys2Proof.Machine
end

section
/-! Ports: link-layer frames and timers, PFC, bring-up, discovery, plan checks, ADOPT (R259 to R285). -/
namespace Sys2Proof.Machine

/-! ## Frames of the link layer -/

theorem State.ne_quarantine_of_serves {s : State} {e : Nat} (h : s.epServes e = true) : (s.ep e).state ≠ 4 := by
  have h3 : (s.ep e).state = 3 := beq_iff_eq.mp h
  rw [h3]; decide

theorem State.linkFrame_quarantined {s : State} {f : LinkIn} (hn : epNbr s.regs.cfg f.eport = true) (hu : s.linkUp f.eport = true)
    (hq : (s.ep f.eport).state = 4) (ty : Nat) (use : State → State) :
    s.linkFrame f ty use = s.count (Reg.PORT_CNT_DISCARD (f.eport / 4)) := by
  rw [State.linkFrame, hn, hu]
  exact if_pos hq

theorem State.linkFrame_bad {s : State} {f : LinkIn} (hn : epNbr s.regs.cfg f.eport = true) (hu : s.linkUp f.eport = true)
    (hserves : s.epServes f.eport = true) (hb : linkBad f = true) (ty : Nat) (use : State → State) :
    s.linkFrame f ty use = s.sendNak f.eport := by
  rw [State.linkFrame, hn, hu]
  exact (if_neg (State.ne_quarantine_of_serves hserves)).trans ((if_pos hb).trans (if_pos hserves))

/-- A good frame of the command's type on a member whose link layer runs: its header, what it does, what waited. -/
theorem State.linkFrame_good {s : State} {f : LinkIn} {ty : Nat} (hn : epNbr s.regs.cfg f.eport = true) (hu : s.linkUp f.eport = true)
    (hq : (s.ep f.eport).state ≠ 4) (hb : linkBad f = false) (hrun : (s.ep f.eport).run = true) (hty : byteAt f.bytes 0 = ty)
    (use : State → State) : s.linkFrame f ty use = ((use (s.takeHeader f)).drainPort f.eport).settle := by
  have hgo : ¬(byteAt f.bytes 0 ≠ ty ∨ (!(s.ep f.eport).run) = true) := by
    rw [hrun]
    rintro (h | h)
    · exact h hty
    · exact absurd h (by decide)
  rw [State.linkFrame, hn, hu]
  exact (if_neg hq).trans ((if_neg (Bool.eq_false_iff.mp hb)).trans (if_neg hgo))

/-- The three places of a frame beside the next one expected. -/
theorem State.inSequence_rows (s : State) (f : LinkIn) (take : State → State) :
    let p := s.ep f.eport
    let d := (beAt f.bytes 2 2 + 65536 - p.expect) % 65536
    (d = 0 → s.inSequence f take = take (s.setEp f.eport { p with expect := (p.expect + 1) % 65536, nak := none })) ∧
    (0 < d → d < 32768 → s.inSequence f take = s.sendNak f.eport) ∧ (32768 ≤ d → s.inSequence f take = s) := by
  intro p d
  refine ⟨fun h => if_pos h, fun h0 h => (if_neg (Nat.ne_of_gt h0)).trans (if_pos h), fun h => (if_neg (Nat.ne_of_gt (Nat.lt_of_lt_of_le (by decide) h))).trans
    (if_neg (Nat.not_lt.mpr h))⟩

theorem State.linkResume_quarantined {s : State} {f : LinkIn} (hn : epNbr s.regs.cfg f.eport = true) (hu : s.linkUp f.eport = true)
    (hq : (s.ep f.eport).state = 4) : s.linkResume f = s.count (Reg.PORT_CNT_DISCARD (f.eport / 4)) := by
  rw [State.linkResume, hn, hu]
  exact if_pos hq

theorem State.linkResume_bad {s : State} {f : LinkIn} (hn : epNbr s.regs.cfg f.eport = true) (hu : s.linkUp f.eport = true)
    (hserves : s.epServes f.eport = true) (hb : linkBad f = true) : s.linkResume f = s.sendNak f.eport := by
  rw [State.linkResume, hn, hu]
  exact (if_neg (State.ne_quarantine_of_serves hserves)).trans ((if_pos hb).trans (if_pos hserves))

theorem State.linkResume_good {s : State} {f : LinkIn} (hn : epNbr s.regs.cfg f.eport = true) (hu : s.linkUp f.eport = true)
    (hq : (s.ep f.eport).state ≠ 4) (hb : linkBad f = false) (hty : byteAt f.bytes 0 = 10) : s.linkResume f =
      if s.epServes f.eport = true then ((s.resumed f.eport (beAt f.bytes 4 2) (beAt f.bytes 6 4) (beAt f.bytes 14 2)
        (16 * s.time.raw + f.sub)).watchAxes s).settle
      else s.setEp f.eport { s.ep f.eport with
        early := some (beAt f.bytes 4 2, beAt f.bytes 6 4, beAt f.bytes 14 2, 16 * s.time.raw + f.sub) } := by
  rw [State.linkResume, hn, hu]
  exact (if_neg hq).trans ((if_neg (Bool.eq_false_iff.mp hb)).trans (if_neg (not_not_intro hty)))

/-! ## PFC -/

/-- The priorities paused after a PFC frame that enables `on` and has a time of zero for `off`. -/
theorem paused_after (old : List Nat) (on zero : Nat → Bool) {n : Nat} (hn : n < 8) :
    (old.filter (fun n => !(on n && zero n)) ++ pick 8 (fun n => on n && !zero n &&
      !(old.filter (fun n => !(on n && zero n))).contains n)).contains n = if on n = true then !zero n else old.contains n := by
  have hmem : n ∈ List.range 8 := List.mem_range.mpr hn
  rw [Bool.eq_iff_iff, List.contains_iff_mem, List.mem_append, pick, List.mem_filter, List.mem_filter]
  cases hon : on n <;> cases hz : zero n <;> simp [hmem, hon, hz]
  exact Classical.em _

/-- Settles O52: reception on a neighbour member, the timers, and PFC. -/
theorem linkFramesAreAcceptedInSequence : Obligations.LinkFramesAreAcceptedInSequence := by
  refine ⟨fun s f hn hu => ?_, fun s f hn hu hq hb => ?_, fun s e prio => ?_, fun s e b hu hty hop => ?_⟩
  · intro e all
    refine ⟨fun hq => ?_, fun hserves hb => ?_⟩
    · have hfr := fun ty use => congrArg (Host.Outcome.next (φ := Fault) (ρ := Refusal)) (State.linkFrame_quarantined hn hu hq ty use)
      exact ⟨hfr _ _, hfr _ _, hfr _ _, hfr _ _, congrArg Host.Outcome.next (State.linkResume_quarantined hn hu hq)⟩
    · have hfr := fun ty use => congrArg (Host.Outcome.next (φ := Fault) (ρ := Refusal)) (State.linkFrame_bad hn hu hserves hb ty use)
      exact ⟨hfr _ _, hfr _ _, hfr _ _, hfr _ _, congrArg Host.Outcome.next (State.linkResume_bad hn hu hserves hb)⟩
  · intro e s1 d next fin
    refine ⟨fun hrun => ⟨fun hty => ?_, fun hty => ?_, fun hty => ?_, fun hty => ?_⟩, fun hty => ?_⟩
    · obtain ⟨h0, hnak, hdup⟩ := State.inSequence_rows s1 f (fun s => s.accept f f.bytes)
      have hfr := State.linkFrame_good hn hu hq hb hrun hty (fun s => s.inSequence f (fun s => s.accept f f.bytes))
      exact ⟨fun hd => congrArg Host.Outcome.next (hfr.trans (congrArg fin (h0 hd))),
        fun hd hd' => congrArg Host.Outcome.next (hfr.trans (congrArg fin (hnak hd hd'))),
        fun hd => congrArg Host.Outcome.next (hfr.trans (congrArg fin (hdup hd)))⟩
    · obtain ⟨h0, hnak, hdup⟩ := State.inSequence_rows s1 f (fun s =>
        (s.setEp f.eport { s.ep f.eport with freed := ((s.ep f.eport).freed + beAt f.bytes 14 2) % 2 ^ 32 }).accept f [])
      have hfr := State.linkFrame_good hn hu hq hb hrun hty (fun s => s.inSequence f (fun s =>
        (s.setEp f.eport { s.ep f.eport with freed := ((s.ep f.eport).freed + beAt f.bytes 14 2) % 2 ^ 32 }).accept f []))
      exact ⟨fun hd => congrArg Host.Outcome.next (hfr.trans (congrArg fin (h0 hd))),
        fun hd hd' => congrArg Host.Outcome.next (hfr.trans (congrArg fin (hnak hd hd'))),
        fun hd => congrArg Host.Outcome.next (hfr.trans (congrArg fin (hdup hd)))⟩
    · have hfr := State.linkFrame_good hn hu hq hb hrun hty (fun s => s.nakTaken f.eport)
      intro due
      exact ⟨fun hd => congrArg Host.Outcome.next (hfr.trans (congrArg fin (if_neg (Bool.eq_false_iff.mp hd)))),
        fun hd => congrArg Host.Outcome.next (hfr.trans (congrArg fin (if_pos hd)))⟩
    · exact congrArg Host.Outcome.next (State.linkFrame_good hn hu hq hb hrun hty (fun s => s))
    · have hres := State.linkResume_good hn hu hq hb hty
      intro at'
      exact ⟨fun hs => congrArg Host.Outcome.next (hres.trans (if_pos hs)),
        fun hs => congrArg Host.Outcome.next (hres.trans (if_neg (Bool.eq_false_iff.mp hs)))⟩
  · refine ⟨fun hrun hheld ht => congrArg Host.Outcome.next (if_pos ⟨hrun, hheld, ht⟩),
      fun hnak ht => congrArg Host.Outcome.next (if_pos ⟨hnak, ht⟩), fun hn hserves hrun => ?_,
      fun hu => congrArg Host.Outcome.next (if_pos hu), rfl⟩
    have hkeep : s.ctrlKeepalive e = s.linkJob e (.ctl 4 0) := if_pos ⟨hn, hserves, hrun⟩
    exact ⟨fun h => congrArg Host.Outcome.next (hkeep.trans (if_pos h)),
      fun h hno => congrArg Host.Outcome.next (hkeep.trans ((if_neg (Bool.eq_false_iff.mp h)).trans (if_neg (Bool.eq_false_iff.mp hno))))⟩
  · have hgo : ¬((!s.linkUp e) = true ∨ (parseEth b).etype ≠ 0x8808 ∨ beAt b (parseEth b).l3 2 ≠ 0x0101) := by
      rw [hu, hty, hop]; decide
    refine ⟨fun hn => congrArg Host.Outcome.next ((if_neg hgo).trans (if_pos hn)), fun hn => ?_⟩
    refine ⟨_, congrArg Host.Outcome.next ((if_neg hgo).trans (if_neg (Bool.eq_false_iff.mp hn))), fun n hlt => ?_⟩
    intro on time
    refine (paused_after (s.ep e).paused (fun n => (beAt b ((parseEth b).l3 + 2) 2).testBit n && (epPfc s.regs.cfg e).testBit n)
      (fun n => beAt b ((parseEth b).l3 + 4 + 2 * n) 2 == 0) hlt).trans ?_
    have hzero : (!(beAt b ((parseEth b).l3 + 4 + 2 * n) 2 == 0)) = decide (time ≠ 0) := by
      rw [Bool.eq_iff_iff, decide_eq_true_eq, Bool.not_eq_true', beq_eq_false_iff_ne]
    rw [hzero]

/-! ## Discovery, plan checks, ADOPT -/

/-- The TLVs of a frame, as a peer with its TTL. -/
theorem State.lldpReceive_of {s : State} {e : Nat} {b : List Byte} (hu : s.linkUp e = true) (hty : (parseEth b).etype = 0x88CC) :
    s.lldpReceive e b =
      (let p := (readTlvs b 64 (parseEth b).l3 ({}, 0)).1
       let ttl := (readTlvs b 64 (parseEth b).l3 ({}, 0)).2
       let q := s.ep e
       let ver := if epNbr s.regs.cfg e = true ∧ p.identity.isSome then (s.chosenVer p).getD 0 else q.ver
       let s1 := (s.setEp e { q with peer := some p, ttl := s.time.raw + ttl * 1000000000, ver := ver }).differs e
       if (!epNbr s.regs.cfg e) = true then (if p.identity.isSome = true then (s1.quarantine e 2).settle else s1)
       else if q.peer = some p then s1
       else
         let s3 := s1.recheck e
         let v := (s.chosenVer p).getD 0
         let s4 := if q.state = 3 ∧ s3.epServes e = true ∧ q.ver ≠ v then
             let x := s3.startFresh e
             (x.setEp e { x.ep e with ver := v, run := false }).sendResume e 0
           else s3
         (s4.watchAxes s).settle) := by
  have hgo : ¬((!s.linkUp e) = true ∨ (parseEth b).etype ≠ 0x88CC) := by
    rw [hu, hty]; decide
  exact if_neg hgo

/-- The plan check of a port whose peer has sent its IDENTITY. -/
theorem State.planCheck_identity {s : State} {e id : Nat} {p : Peer} (hp : (s.ep e).peer = some p) (hid : p.identity = some id) :
    let lab := labelOf s.regs.cfg (epLport s.regs.cfg e)
    (lab = 0xF → s.planCheck e = 2) ∧ (lab ≠ 0xF → s.chosenVer p = none → s.planCheck e = 3) ∧
      (lab ≠ 0xF → (s.chosenVer p).isSome = true → 6 ≤ p.label → s.planCheck e = 4) := by
  intro lab
  refine ⟨fun hlab => ?_, fun hlab hv => ?_, fun hlab hv hl => ?_⟩
  all_goals
    rw [State.planCheck]
    dsimp only
    rw [hp]
    dsimp only
    rw [hid]
    dsimp only
  · exact if_pos hlab
  · exact (if_neg hlab).trans (if_pos (by rw [hv]; rfl))
  · have hsome : ¬((s.chosenVer p).isNone = true) := by
      rw [Option.isNone_iff_eq_none]
      intro hno
      rw [hno] at hv
      exact absurd hv (by decide)
    exact (if_neg hlab).trans ((if_neg hsome).trans (if_pos (Or.inl hl)))

/-- The first conditions of R283 in order. -/
theorem State.adoptStatus_rows (s : State) (e : Nat) :
    ((s.ep e).state ≠ 4 → s.adoptStatus e = 1) ∧
    ((s.ep e).state = 4 → (epNbr s.regs.cfg e = false ∨ (s.ep e).reason ∉ [2, 5, 6]) → s.adoptStatus e = 2) ∧
    ((s.ep e).state = 4 → epNbr s.regs.cfg e = true → (s.ep e).reason ∈ [2, 5, 6] → s.otherMembers e ≠ [] → s.adoptStatus e = 3) := by
  refine ⟨fun h => if_pos h, fun h hno => (if_neg (not_not_intro h)).trans (if_pos ?_),
    fun h hn hr ho => (if_neg (not_not_intro h)).trans ((if_neg ?_).trans (if_pos ho))⟩
  · rcases hno with hno | hno
    · exact Or.inl (by rw [hno]; rfl)
    · exact Or.inr (by rw [Bool.not_eq_true', Bool.eq_false_iff, ne_eq, List.contains_iff_mem]; exact hno)
  · rw [hn, show ([2, 5, 6].contains (s.ep e).reason) = true from List.contains_iff_mem.mpr hr]
    decide

/-- Settles O53: bring-up, discovery, the plan check, and ADOPT. -/
theorem portsDiscoverCheckAndAdopt : Obligations.PortsDiscoverCheckAndAdopt := by
  refine ⟨fun s e => ⟨fun hl hu hst hmap => ?_, fun hu ht => congrArg Host.Outcome.next (if_pos ⟨hu, ht⟩), fun hp ht => ?_,
      fun hn hst hno ht => ?_⟩, fun s e b hu hty => ?_, fun s e p id hp => ?_, fun s e => ?_, fun s e origin ha => ?_⟩
  · have hgo : ¬(epLanes s.regs.cfg e = 0 ∨ s.linkUp e = true ∨ s.mgmt.stage < 5 ∨ s.inMap ⟨6, 0xF, 0, 0, 0x100 + e / 4⟩ = true) := by
      rw [hu, hmap]
      rintro (h | h | h | h)
      · exact hl h
      · exact absurd h (by decide)
      · exact absurd hst (Nat.not_le.mpr h)
      · exact absurd h (by decide)
    exact congrArg Host.Outcome.next (if_neg hgo)
  · have hgo : ¬((s.ep e).peer.isNone = true ∨ s.time.raw < (s.ep e).ttl) := by
      rintro (h | h)
      · rw [Option.isNone_iff_eq_none] at h
        rw [h] at hp
        exact absurd hp (by decide)
      · exact absurd ht (Nat.not_le.mpr h)
    intro s1
    refine ⟨fun hn hu => congrArg Host.Outcome.next ((if_neg hgo).trans (if_pos ⟨hn, hu⟩)),
      fun hno => congrArg Host.Outcome.next ((if_neg hgo).trans (if_neg ?_))⟩
    rintro ⟨hn, hu⟩
    rcases hno with h | h
    · exact Bool.eq_false_iff.mp h hn
    · exact Bool.eq_false_iff.mp h hu
  · have hpeer : (match (s.ep e).peer with | some x => x.identity.isNone | none => true) = true := by
      rcases hno with h | ⟨p, h, hid⟩
      · rw [h]
      · rw [h]
        exact Option.isNone_iff_eq_none.mpr hid
    have hnew : ¬((s.ep e).state = 4 ∧ (s.ep e).reason = 1) := by
      rintro ⟨h4, -⟩
      rw [hst] at h4
      exact absurd h4 (by decide)
    have hout : s.nopeerTimeout e = s.quarantine e 1 := if_pos ⟨hn, hst, hpeer, ht⟩
    exact congrArg Host.Outcome.next (hout.trans (if_neg hnew))
  · have hrec := State.lldpReceive_of hu hty
    intro p ttl ver s1
    refine ⟨fun hn => ?_, fun hn => ?_⟩
    · have hhost : (!epNbr s.regs.cfg e) = true := by rw [hn]; rfl
      refine ⟨fun hid => congrArg Host.Outcome.next (hrec.trans ((if_pos hhost).trans (if_neg ?_))),
        fun hid => congrArg Host.Outcome.next (hrec.trans ((if_pos hhost).trans (if_pos hid)))⟩
      rw [show (readTlvs b 64 (parseEth b).l3 ({}, 0)).1.identity = none from hid]
      decide
    · have hnbr : ¬((!epNbr s.regs.cfg e) = true) := by rw [hn]; decide
      refine ⟨fun hsame => congrArg Host.Outcome.next (hrec.trans ((if_neg hnbr).trans (if_pos hsame))), fun hnew => ?_⟩
      have hchk := hrec.trans ((if_neg hnbr).trans (if_neg hnew))
      intro s2 v
      refine ⟨fun hno => congrArg Host.Outcome.next (hchk.trans (congrArg (fun t => (State.watchAxes t s).settle) (if_neg ?_))),
        fun hst hserves hver => congrArg Host.Outcome.next
          (hchk.trans (congrArg (fun t => (State.watchAxes t s).settle) (if_pos ⟨hst, hserves, hver⟩)))⟩
      rintro ⟨hst, hserves, hver⟩
      rcases hno with h | h | h
      · exact h hst
      · exact Bool.eq_false_iff.mp h hserves
      · exact hver h
  · intro lab
    refine ⟨fun hid => ?_, fun hid => State.planCheck_identity hp hid⟩
    rw [State.planCheck]
    dsimp only
    rw [hp]
    dsimp only
    rw [hid]
  · refine ⟨fun hno => congrArg Host.Outcome.next (if_neg ?_), fun hsome => congrArg Host.Outcome.next (if_pos hsome),
      State.adoptStatus_rows s e⟩
    rw [hno]; decide
  · intro s0
    have happ : s.applyAdopt = s0.adoptFrom e origin := by
      rw [State.applyAdopt, ha]
    refine ⟨fun hok => ⟨(sha256 (planBytes s0.regs.cfg ++ planBytes (s0.adoptPlan e).regs.cfg)).take 16, happ.trans ?_⟩,
      fun hno => ⟨(sha256 (planBytes s0.regs.cfg ++ planBytes s0.regs.cfg)).take 16, happ.trans ?_⟩⟩
    · rw [State.adoptFrom, hok]
      rfl
    · rw [State.adoptFrom]
      simp only [if_neg hno]

end Sys2Proof.Machine
end

section
/-! PTP messages (R296 to R299) and felling times (R304 to R307). -/
namespace Sys2Proof.Machine

/-! ## PTP -/

theorem State.ptpSync_of {s : State} {e : Nat} (hm : s.ptpMay e = true) (hr : s.ptpRole e = 1) (hl : s.logSync e ≠ 0)
    (ht : (s.ptp e).syncDue ≤ s.time.raw) : s.ptpSync e =
    (let p := s.ptp e
     let r := s.egressStamp e
     let one := s.ptpOne e
     let m := s.ptpMsg e 0 p.syncId (if one then r.1.subNs else 0) (!one) (if one then r.1.ptp10 else List.replicate 10 0)
     let s1 := r.2.setPtp e { p with syncId := (p.syncId + 1) % 65536, syncDue := s.time.raw + ptpCounts (s.logSync e) }
     let s2 := (s1.ptpSend e false true m).txts e 0 p.syncId r.1 m
     if one = true then s2 else s2.ptpSend e false false (s.ptpMsg e 8 p.syncId r.1.subNs false r.1.ptp10)) := by
  have hgo : ¬((!s.ptpMay e) = true ∨ s.ptpRole e ≠ 1 ∨ s.logSync e = 0 ∨ s.time.raw < (s.ptp e).syncDue) := by
    rw [hm]
    rintro (h | h | h | h)
    · exact absurd h (by decide)
    · exact h hr
    · exact hl h
    · exact absurd ht (Nat.not_le.mpr h)
  exact if_neg hgo

theorem State.ptpReq_of {s : State} {e ty : Nat} (h : s.ptpReqType e = some ty) (hm : s.ptpMay e = true) (hr : (s.ptp e).req = none)
    (ht : (s.ptp e).reqDue ≤ s.time.raw) : s.ptpReq e =
    (let p := s.ptp e
     let seq := if ty = 1 then p.delayId else p.pdelayId
     let r := s.egressStamp e
     let m := s.ptpMsg e ty seq 0 false (List.replicate (if ty = 1 then 10 else 20) 0)
     let q := { p with delayId := if ty = 1 then (seq + 1) % 65536 else p.delayId
                       pdelayId := if ty = 2 then (seq + 1) % 65536 else p.pdelayId
                       req := some (ty, seq, r.1), resp := none, reqDue := s.time.raw + ptpCounts (s.reqInUse e) }
     ((r.2.setPtp e q).ptpSend e (ty == 2) true m).txts e ty seq r.1 m) := by
  have hgo : ¬((!s.ptpMay e) = true ∨ (s.ptp e).req.isSome = true ∨ s.time.raw < (s.ptp e).reqDue) := by
    rw [hm, hr]
    rintro (h | h | h)
    · exact absurd h (by decide)
    · exact absurd h (by decide)
    · exact absurd ht (Nat.not_le.mpr h)
  rw [State.ptpReq]
  dsimp only
  rw [h]
  exact if_neg hgo

/-- A request unanswered as the next falls due. -/
theorem State.ptpMiss_out {s : State} {e ty t n : Nat} {st : Stamp} (h : s.ptpReqType e = some ty) (hr : (s.ptp e).req = some (t, n, st))
    (ht : (s.ptp e).reqDue ≤ s.time.raw) : s.ptpMiss e =
      ((s.setPtp e { s.ptp e with req := none, resp := none, missRun := min 255 ((s.ptp e).missRun + 1) }).count
        Reg.TIME_CNT_MISS).timeRecord { kind := 6, eport := e, seq := n, mtype := t } := by
  have hfree : (s.ptp e).req.isNone = false := by rw [hr]; rfl
  have hgo : ¬(s.time.raw < (s.ptp e).reqDue + (if (s.ptp e).req.isNone = true then ptpCounts (s.reqInUse e) else 0)) := by
    rw [hfree]
    exact Nat.not_lt.mpr ht
  unfold State.ptpMiss
  dsimp only
  rw [h]
  dsimp only
  rw [if_neg hgo, hr]
  rfl

/-- A request that could not start for an interval. -/
theorem State.ptpMiss_blocked {s : State} {e ty : Nat} (h : s.ptpReqType e = some ty) (hr : (s.ptp e).req = none)
    (ht : (s.ptp e).reqDue + ptpCounts (s.reqInUse e) ≤ s.time.raw) : s.ptpMiss e =
      ((s.setPtp e { s.ptp e with req := none, resp := none, missRun := min 255 ((s.ptp e).missRun + 1)
                                  reqDue := (s.ptp e).reqDue + ptpCounts (s.reqInUse e) }).count
        Reg.TIME_CNT_MISS).timeRecord
        { kind := 6, eport := e, seq := if ty = 1 then (s.ptp e).delayId else (s.ptp e).pdelayId, mtype := ty } := by
  have hgo : ¬(s.time.raw < (s.ptp e).reqDue + (if (s.ptp e).req.isNone = true then ptpCounts (s.reqInUse e) else 0)) := by
    rw [hr]
    exact Nat.not_lt.mpr ht
  unfold State.ptpMiss
  dsimp only
  rw [h]
  dsimp only
  rw [if_neg hgo, hr]
  rfl

theorem State.ptpReceive_of {s : State} {e sub car : Nat} {b m : List Byte} (h : ptpIn b = some (car, m)) (hen : s.ptpEn e = true)
    (hu : s.linkUp e = true) : s.ptpReceive e sub b =
    (let t := s.stampAt s.time.raw sub (signed 16 (s.rw (Reg.TIME_PTP_w1 e) 15 0))
     let r := s.drawNat 65535
     let s1 := r.2.timeRecord { kind := 1, eport := e, seq := ptpSeq m, mtype := byteAt m 0 % 16, a := t, msg := m }
     if car = s.ptpCarr e ∧ byteAt m 4 = s.rw (Reg.TIME_PTP_w0 e) 15 8 ∧ byteAt m 1 % 16 = 2 ∧ s.ptpRole e ≠ 0 then
       s1.ptpAct e t m r.1
     else s1) := by
  rw [State.ptpReceive, h]
  dsimp only
  rw [hen, hu]
  exact if_neg (by decide)

/-! ## FELL and FCANCEL -/

/-- The record of a FELL before its entry has a number. -/
def fellRec (d : List Byte) (st : Nat) : Rec :=
  { status := st, handle := if byteAt d 1 = 1 then leAt d 2 2 else 0, version := if byteAt d 1 = 1 then leAt d 4 2 else 0 }

/-- The mailbox with the set that the command at place i has taken. -/
def State.mboxTaking (s : State) (i : Nat) (set : Tbl Word) : List MboxCmd :=
  s.mgmt.mbox.zipIdx.map (fun x => if x.2 = i then { x.1 with taken := some set } else x.1)

/-- The entry that a FELL descriptor makes. -/
def State.fellEntry (s : State) (d : List Byte) (version : Nat) (set : Tbl Word) : Fell :=
  { kind := byteAt d 1, handle := if byteAt d 1 = 1 then leAt d 2 2 else 0, version := version, arg := byteAt d 6, sec := leAt d 8 6
    ns := leAt d 16 4, gen := s.time.gen, set := set }

/-- A FELL that has made its entry. -/
def State.fellMade (s : State) (d : List Byte) (f : Fell) (r : Rec) : State :=
  State.fellFinish { s with time.fell := Tbl.put s.time.fell (leastFree s.time.fell) f } d r

section
variable {s s1 : State} {i : Nat} {c : MboxCmd} (h : s.takeCmd i 0x31 = some (c, s1))
include h

/-- FELL of KIND COMMIT waits while a Doze entry or a wake is in progress. -/
theorem State.fellCmd_waits (hk : byteAt c.desc 1 = 3) (hm : s.moving = true) : s.fellCmd i =
    { s with mgmt.mbox := s.mboxTaking i (c.taken.getD s1.regs.shadow) } := by
  rw [State.fellCmd, h]
  exact if_pos ⟨hk, hm⟩

theorem State.fellCmd_fails (hst : s1.fellCheck c.desc (c.taken.getD s1.regs.shadow) ≠ 0)
    (hgo : ¬(byteAt c.desc 1 = 3 ∧ s.moving = true)) : s.fellCmd i =
      s1.fellFinish c.desc (fellRec c.desc (s1.fellCheck c.desc (c.taken.getD s1.regs.shadow))) := by
  rw [State.fellCmd, h]
  exact (if_neg hgo).trans (if_pos hst)

/-- A set that does not validate is rejected. -/
theorem State.fellCmd_rejects (hst : s1.fellCheck c.desc (c.taken.getD s1.regs.shadow) = 0) (hk : byteAt c.desc 1 = 3)
    (hm : s.moving = false) (hbad : (s1.validateSet (c.taken.getD s1.regs.shadow) c.origin true).1 ≠ 0) : s.fellCmd i =
      (s1.reject (s1.validateSet (c.taken.getD s1.regs.shadow) c.origin true).1
        (s1.validateSet (c.taken.getD s1.regs.shadow) c.origin true).2).fellFinish c.desc { fellRec c.desc 0 with status := 1 } := by
  rw [State.fellCmd, h]
  dsimp only
  rw [if_pos (show s1.fellCheck c.desc (c.taken.getD s1.regs.shadow) = 0 ∧ byteAt c.desc 1 = 3 from ⟨hst, hk⟩),
    if_neg (fun hx => Bool.eq_false_iff.mp hm hx.2), if_neg (not_not_intro hst), if_pos hbad]
  rfl

/-- A FELL whose checks pass makes the least free entry. -/
theorem State.fellCmd_makes (hst : s1.fellCheck c.desc (c.taken.getD s1.regs.shadow) = 0)
    (hgo : ¬(byteAt c.desc 1 = 3 ∧ s.moving = true))
    (hbad : byteAt c.desc 1 = 3 → (s1.validateSet (c.taken.getD s1.regs.shadow) c.origin true).1 = 0)
    {r0 : Rec} (hr0 : fellRec c.desc (s1.fellCheck c.desc (c.taken.getD s1.regs.shadow)) = r0)
    (f : Fell) (r : Rec)
    (hf : f = s1.fellEntry c.desc
      (match byteAt c.desc 1, (s1.handle (leAt c.desc 2 2)).staged with | 1, some v => v.number | _, _ => 0)
      (if byteAt c.desc 1 = 3 then c.taken.getD s1.regs.shadow else []))
    (hr : r = match byteAt c.desc 1, (s1.handle (leAt c.desc 2 2)).staged with
      | 1, some v => { s1.record v (leAt c.desc 2 2) 0 with b1 := leastFree s1.time.fell }
      | _, _ => { r0 with b1 := leastFree s1.time.fell }) : s.fellCmd i = s1.fellMade c.desc f r := by
  have hpass : ¬((if s1.fellCheck c.desc (c.taken.getD s1.regs.shadow) = 0 ∧ byteAt c.desc 1 = 3 then
      s1.validateSet (c.taken.getD s1.regs.shadow) c.origin true else (0, 0)).1 ≠ 0) := by
    split
    · next hx => exact not_not_intro (hbad hx.2)
    · decide
  subst hf hr hr0
  rw [State.fellCmd, h]
  dsimp only
  rw [if_neg hgo, if_neg (not_not_intro hst), if_neg hpass]
  rfl

/-- The entry of KIND ACTIVATE. -/
theorem State.fellCmd_activate (hst : s1.fellCheck c.desc (c.taken.getD s1.regs.shadow) = 0) (hk : byteAt c.desc 1 = 1) {v : Version}
    (hv : (s1.handle (leAt c.desc 2 2)).staged = some v) : s.fellCmd i =
      s1.fellMade c.desc (s1.fellEntry c.desc v.number []) { s1.record v (leAt c.desc 2 2) 0 with b1 := leastFree s1.time.fell } := by
  have hno : byteAt c.desc 1 ≠ 3 := by rw [hk]; decide
  refine State.fellCmd_makes h hst (fun hx => hno hx.1) (fun hx => absurd hx hno) rfl _ _ ?_ ?_
  · rw [hk, hv]
    rfl
  · rw [hk, hv] <;> rfl

/-- The entry of KIND EXACT. -/
theorem State.fellCmd_exact (hst : s1.fellCheck c.desc (c.taken.getD s1.regs.shadow) = 0) (hk : byteAt c.desc 1 = 2) :
    s.fellCmd i = s1.fellMade c.desc (s1.fellEntry c.desc 0 [])
      { fellRec c.desc (s1.fellCheck c.desc (c.taken.getD s1.regs.shadow)) with b1 := leastFree s1.time.fell } := by
  have hno : byteAt c.desc 1 ≠ 3 := by rw [hk]; decide
  refine State.fellCmd_makes h hst (fun hx => hno hx.1) (fun hx => absurd hx hno) rfl _ _ ?_ ?_
  · rw [hk]
    rfl
  · rw [hk] <;> rfl

/-- The entry of KIND COMMIT, of a set that validates. -/
theorem State.fellCmd_commit (hst : s1.fellCheck c.desc (c.taken.getD s1.regs.shadow) = 0) (hk : byteAt c.desc 1 = 3)
    (hm : s.moving = false) (hb : (s1.validateSet (c.taken.getD s1.regs.shadow) c.origin true).1 = 0) :
    s.fellCmd i = s1.fellMade c.desc (s1.fellEntry c.desc 0 (c.taken.getD s1.regs.shadow))
      { fellRec c.desc (s1.fellCheck c.desc (c.taken.getD s1.regs.shadow)) with b1 := leastFree s1.time.fell } := by
  refine State.fellCmd_makes h hst (fun hx => Bool.eq_false_iff.mp hm hx.2) (fun _ => hb) rfl _ _ ?_ ?_
  · rw [hk]
    rfl
  · rw [hk] <;> rfl

end

/-- FCANCEL past the checks that its descriptor and the journal give. -/
theorem State.fcancel_of {s s1 : State} {i : Nat} {c : MboxCmd} (h : s.takeCmd i 0x32 = some (c, s1)) (hj : s1.jrnlRefuses = false)
    (h0 : leAt c.desc 24 8 % 64 = 0) : s.fcancel i =
    (let n := byteAt c.desc 7
     let st := if (Tbl.find s1.time.fell n).isNone = true then 1 else 0
     let s2 := if st = 0 then { s1 with time.fell := Tbl.del s1.time.fell n } else s1
     s2.fellFinish c.desc { status := st, b1 := n }) := by
  have hiff : ((Tbl.find s1.time.fell (byteAt c.desc 7)).isNone = true ∨ leAt c.desc 24 8 % 64 ≠ 0) ↔
      (Tbl.find s1.time.fell (byteAt c.desc 7)).isNone = true := or_iff_left (not_not_intro h0)
  rw [State.fcancel, h]
  dsimp only
  simp only [hj, hiff, Bool.false_eq_true, if_false]

/-! ## A felling applies -/

/-- What is kept of an entry as it applies. -/
def State.felledOf (s : State) (f : Fell) : Felled :=
  { kind := f.kind, handle := f.handle, sec := f.sec, ns := f.ns, gen := f.gen, oldCfg := s.regs.cfg
    oldExact := s.exact, oldVer := (s.handle f.handle).serving.map (·.number)
    newVer := if f.kind = 1 then some f.version else none }

/-- The state with an applied entry among those kept. -/
def State.fellKept (s : State) (f : Fell) (t : State) : State :=
  State.pruneFelled (State.keepMode { t with time.felled := s.felledOf f :: t.time.felled } (some (f.sec, f.ns, f.gen)) s.exact)

section
variable {s : State} {n : Nat} {f : Fell} (h : Tbl.find s.time.fell n = some f)
  (hgo : ¬(s.now < timeOf f.sec f.ns ∨ s.mgmt.jr.full = true ∨ s.mgmt.commit.due = true))
include h hgo

/-- A felled ACTIVATE whose version is gone. -/
theorem State.fellApply_gone (hk : f.kind = 1) (hst : (s.handle f.handle).staged = none) : s.fellApply n =
    (State.fellJournal { s with time.fell := Tbl.del s.time.fell n } n f true none).post 1 5 [] := by
  rw [State.fellApply, h]
  dsimp only
  rw [if_neg hgo, if_pos hk, hst]

/-- A felled ACTIVATE of a version that is staged. -/
theorem State.fellApply_staged (hk : f.kind = 1) {v : Version} (hst : (s.handle f.handle).staged = some v) : s.fellApply n =
    if v.number = f.version ∧ (!s.fevalNamed f.handle || s.fevalFits f.handle v) = true then
      (((s.fellKept f ((State.fellJournal { s with time.fell := Tbl.del s.time.fell n } n f false (some (v.digest.take 16))).activate
        f.handle)).journal 2 2 (f.handle + f.version % 65536 * 65536) (some (v.digest.take 16)) 5).post 1 4 []).settle
    else (State.fellJournal { s with time.fell := Tbl.del s.time.fell n } n f true (some (v.digest.take 16))).post 1 5 [] := by
  rw [State.fellApply, h]
  dsimp only
  rw [if_neg hgo, if_pos hk, hst]
  rfl

theorem State.fellApply_exact (hk : f.kind = 2) : s.fellApply n =
    (((s.fellKept f ((State.fellJournal { s with time.fell := Tbl.del s.time.fell n } n f false none).modeChange (f.arg == 1) 5)).putExact
      (f.arg == 1)).post 1 4 []).settle := by
  have h1 : f.kind ≠ 1 := by rw [hk]; decide
  rw [State.fellApply, h]
  dsimp only
  rw [if_neg hgo, if_neg h1, if_pos hk]
  rfl

theorem State.fellApply_commit (hk : f.kind = 3) : s.fellApply n =
    ((s.fellKept f ((State.fellJournal { s with time.fell := Tbl.del s.time.fell n } n f false none).applySet f.set 5 false)).post
      0 0 []).post 1 4 [] := by
  have h1 : f.kind ≠ 1 := by rw [hk]; decide
  have h2 : f.kind ≠ 2 := by rw [hk]; decide
  rw [State.fellApply, h]
  dsimp only
  rw [if_neg hgo, if_neg h1, if_neg h2]
  rfl

end

/-- Settles O55: PTP's four commands, FELL and FCANCEL, and entries that come ready and apply. -/
theorem ptpAndFellingTimesAct : Obligations.PtpAndFellingTimesAct := by
  refine ⟨fun s e => ⟨fun hm hr hl ht => ?_, fun ty hty hm hr ht => congrArg Host.Outcome.next (State.ptpReq_of hty hm hr ht),
      fun ty hty => ?_, fun sub b car m hin hen hu => congrArg Host.Outcome.next (State.ptpReceive_of hin hen hu)⟩,
    fun s s1 i c => ⟨fun h => ?_, fun h hj h0 => ?_⟩, fun s n f hf => ?_⟩
  · have hs := State.ptpSync_of hm hr hl ht
    intro id r s1
    refine ⟨fun hone => congrArg Host.Outcome.next (hs.trans ?_), fun hone => congrArg Host.Outcome.next (hs.trans ?_)⟩
    · dsimp only
      rw [hone]
      rfl
    · dsimp only
      rw [hone]
      rfl
  · exact ⟨fun t n st hr ht => congrArg Host.Outcome.next (State.ptpMiss_out hty hr ht),
      fun hr ht => congrArg Host.Outcome.next (State.ptpMiss_blocked hty hr ht)⟩
  · intro d kind h' cset st r0 f n made box
    refine ⟨fun hk hm => congrArg Host.Outcome.next (State.fellCmd_waits h hk hm), fun hst hm => congrArg Host.Outcome.next ?_,
      fun hst => ⟨fun v hk hv => congrArg Host.Outcome.next ?_, fun hk => congrArg Host.Outcome.next ?_, fun hk hm => ?_⟩⟩
    · exact State.fellCmd_fails h hst (fun hx => Bool.eq_false_iff.mp (hm hx.1) hx.2)
    · exact State.fellCmd_activate h hst hk hv
    · exact State.fellCmd_exact h hst hk
    · intro bad
      exact ⟨fun hb => congrArg Host.Outcome.next (State.fellCmd_commit h hst hk hm hb),
        fun hb => congrArg Host.Outcome.next (State.fellCmd_rejects h hst hk hm hb)⟩
  · have hc := State.fcancel_of h hj h0
    intro n
    refine ⟨fun hsome => congrArg Host.Outcome.next (hc.trans ?_), fun hno => congrArg Host.Outcome.next (hc.trans ?_)⟩
    · have hthere : ¬((Tbl.find s1.time.fell (byteAt c.desc 7)).isNone = true) := by
        rw [Option.isNone_iff_eq_none]
        intro hnone
        rw [hnone] at hsome
        exact absurd hsome (by decide)
      dsimp only
      rw [if_neg hthere, if_pos rfl]
    · have hnone : (Tbl.find s1.time.fell (byteAt c.desc 7)).isNone = true := Option.isNone_iff_eq_none.mpr hno
      dsimp only
      rw [if_pos hnone, if_neg (by decide)]
  · refine ⟨fun hlt => congrArg Host.Outcome.next ?_, fun hle => congrArg Host.Outcome.next ?_, fun ht hfull hdue => ?_⟩
    · rw [hf]
      exact if_pos hlt
    · rw [hf]
      exact if_neg (Nat.not_lt.mpr hle)
    · have hgo : ¬(s.now < timeOf f.sec f.ns ∨ s.mgmt.jr.full = true ∨ s.mgmt.commit.due = true) := by
        rw [hfull, hdue]
        rintro (h | h | h)
        · exact absurd ht (Nat.not_le.mpr h)
        all_goals exact absurd h (by decide)
      have happly : ∀ t, s.fellApply n = t → exec (.fellApply n) s = .next t.holdDue := fun t ht =>
        congrArg (fun t => Host.Outcome.next (State.holdDue t)) ht
      intro s1 done keep
      have hkeep : ∀ t, keep t = s.fellKept f t := fun t => rfl
      refine ⟨fun hk hst => happly _ (State.fellApply_gone hf hgo hk hst), fun v hk hst => ?_, fun hk => ?_, fun hk => ?_⟩
      · have hap := State.fellApply_staged hf hgo hk hst
        intro dig
        refine ⟨fun hv hfit => ?_, fun hno => ?_⟩
        · have hfits : (!s.fevalNamed f.handle || s.fevalFits f.handle v) = true := by
            rw [Bool.or_eq_true, Bool.not_eq_true']
            cases hnm : s.fevalNamed f.handle
            · exact Or.inl rfl
            · exact Or.inr (hfit hnm)
          rw [hkeep]
          exact happly _ (hap.trans (if_pos ⟨hv, hfits⟩))
        · have hunfits : ¬(v.number = f.version ∧ (!s.fevalNamed f.handle || s.fevalFits f.handle v) = true) := by
            rintro ⟨hv, hfit⟩
            rcases hno with hne | ⟨hnm, hunfit⟩
            · exact hne hv
            · rw [hnm, hunfit] at hfit
              exact absurd hfit (by decide)
          exact happly _ (hap.trans (if_neg hunfits))
      · rw [hkeep]
        exact happly _ (State.fellApply_exact hf hgo hk)
      · rw [hkeep]
        exact happly _ (State.fellApply_commit hf hgo hk)

end Sys2Proof.Machine
end

section
/-! Memory errors and bridges: scrub, patrol, lane steering (R12, R331 to R343). -/
namespace Sys2Proof.Machine

/-! ## SRAM scrub -/

/-- A scrub read of a word of the hub, or of a live unit of a tract die. -/
theorem State.scrubRead_of {s : State} {d a : Nat} {area : SramArea}
    (h : onHub area = false → d < 4 ∧ areaHas area a = true ∧ s.unitLive (apertureUnit d area a) = true) (err : EccErr) :
    s.scrubRead d area a err =
      (let n := if onHub area = true then 4 else d
       let k := hardKey area a
       let y := s.die n
       let was := Tbl.find y.hard k
       let s0 := s.setDie n { y with hard := Tbl.del y.hard k }
       match err with
       | .none => s0
       | .met _ => s.count (if onHub area = true then Reg.GCTL_CNT_HUBCE else Reg.MEM_CNT_SCE d)
       | .corrected b =>
         let s1 := s0.count (if onHub area = true then Reg.GCTL_CNT_HUBCE else Reg.MEM_CNT_SCE d)
         if was = some b then s1.hardFault d area a
         else s1.setDie n { s1.die n with hard := Tbl.put (s1.die n).hard k b }
       | .uncorrectable =>
         if onHub area = true then ((s0.count Reg.GCTL_CNT_HUBUE).post 0 13 []).hubUe area a
         else (s0.sramUe d a).tractUe d area a) := by
  have hgo : (!onHub area && (!decide (d < 4) || !areaHas area a || !s.unitLive (apertureUnit d area a))) = false := by
    cases hub : onHub area
    · obtain ⟨hd, ha, hl⟩ := h hub
      rw [decide_eq_true hd, ha, hl]
      rfl
    · rfl
  exact if_neg (Bool.eq_false_iff.mp hgo)

/-! ## DRAM -/

theorem State.patrol_of {s : State} {d a : Nat} (hd : d < 4) (ha : a < 24 * 2 ^ 30) (hl : (s.die d).lost = false) (err : EccErr) :
    s.patrol d a err = match err with
      | .none => s
      | .corrected b => if (s.die d).twoFailing a then s.dramUe d a else s.laneError d a b
      | .met b => if (s.die d).twoFailing a then s.dramUe d a else s.laneError d a b
      | .uncorrectable => s.dramUe d a := by
  have hgo : ¬(4 ≤ d ∨ 24 * 2 ^ 30 ≤ a ∨ (s.die d).lost = true) := by
    rintro (h | h | h)
    · exact absurd hd (Nat.not_lt.mpr h)
    · exact absurd ha (Nat.not_lt.mpr h)
    · exact Bool.eq_false_iff.mp hl h
  refine (if_neg hgo).trans ?_
  cases err <;> rfl

/-- A lane that fails and that neither a steer, a sweep, nor an earlier report takes care of. -/
theorem State.laneFailing_of {s : State} {d l : Nat} (hd : d < 4) (hl : l < 128) (hlost : (s.die d).lost = false)
    (hsteer : ∀ e ∈ (s.die d).steer, e.1 ≠ l) (hq : l ∉ (s.die d).queued) (hex : l ∉ (s.die d).exhausted)
    (hsweep : ∀ x, (s.die d).sweep = some x → x.1 ≠ l) : s.laneFailing d l =
      if (s.die d).sweep.isSome = true then s.setDie d { s.die d with queued := (s.die d).queued ++ [l] } else s.startSweep d l := by
  have hfree : ¬(4 ≤ d ∨ 128 ≤ l ∨ (s.die d).lost = true ∨ (s.die d).steer.any (fun e => e.1 == l) = true ∨
      (s.die d).queued.contains l = true ∨ (s.die d).exhausted.contains l = true ∨
      (match (s.die d).sweep with | some x => x.1 == l | none => false) = true) := by
    rintro (h | h | h | h | h | h | h)
    · exact absurd hd (Nat.not_lt.mpr h)
    · exact absurd hl (Nat.not_lt.mpr h)
    · exact Bool.eq_false_iff.mp hlost h
    · obtain ⟨e, he, hel⟩ := List.any_eq_true.mp h
      exact hsteer e he (beq_iff_eq.mp hel)
    · exact hq (List.contains_iff_mem.mp h)
    · exact hex (List.contains_iff_mem.mp h)
    · split at h
      · next x hx => exact hsweep x hx (beq_iff_eq.mp h)
      · exact absurd h (by decide)
  exact if_neg hfree

/-! ## Bridges -/

theorem State.bridgeCheck_of {s : State} {d l : Nat} (hd : d < 4) (hlost : (s.die d).lost = false) (toDie : Bool) (hl : l < 128)
    (hst : ∀ e ∈ Tbl.getD s.units.steered (d * 2 + b2n (!toDie)) [], e.1 ≠ l) : s.bridgeCheck d toDie (some l) =
      (let k := d * 2 + b2n (!toDie)
       let st := Tbl.getD s.units.steered k []
       match steerSpare st l with
       | some x =>
         (State.journal { s with units.steered := Tbl.put s.units.steered k (st ++ [(l, x)]) } 0xD 3
           (d + l * 2 ^ 8 + x * 2 ^ 16 + b2n (!toDie) * 2 ^ 24) none 3).post (11 + d) 6 [(d, 8)]
       | none => s.retireDie d 5 3 true) := by
  have hgo : ¬(4 ≤ d ∨ (s.die d).lost = true ∨ 128 ≤ l ∨
      (Tbl.getD s.units.steered (d * 2 + b2n (!toDie)) []).any (fun e => e.1 == l) = true) := by
    rintro (h | h | h | h)
    · exact absurd hd (Nat.not_lt.mpr h)
    · exact Bool.eq_false_iff.mp hlost h
    · exact absurd hl (Nat.not_lt.mpr h)
    · obtain ⟨e, he, hel⟩ := List.any_eq_true.mp h
      exact hst e he (beq_iff_eq.mp hel)
  exact if_neg hgo

theorem State.bridgeUe_of {s : State} {d : Nat} (hd : d < 4) (hlost : (s.die d).lost = false) (items : List Nat) : s.bridgeUe d items =
    (let s1 := items.foldl (fun (s : State) n => s.itemFail false n) s
     if (match Tbl.find s1.units.bridgeUe d with | some t => decide (s1.time.raw ≤ t + 1000000000) | none => false) = true then
       (s1.retireDie d 5 3 true).settle
     else State.settle { s1 with units.bridgeUe := Tbl.put s1.units.bridgeUe d s1.time.raw }) := by
  have hgo : ¬(4 ≤ d ∨ (s.die d).lost = true) := by
    rintro (h | h)
    · exact absurd hd (Nat.not_lt.mpr h)
    · exact Bool.eq_false_iff.mp hlost h
  exact if_neg hgo

/-- Settles O56: scrub, patrol, lanes, sweeps, and the two bridge checks. -/
theorem memoryErrorsAreCountedSteeredAndContained : Obligations.MemoryErrorsAreCountedSteeredAndContained := by
  refine ⟨fun s d a b area => ?_, fun s d l hd => ⟨congrArg Host.Outcome.next (if_pos hd), fun a b ha hlost => ?_,
    fun hl hlost hst hq hex => ?_, fun x hx => ?_, fun toDie hlost => ?_, fun items hlost => ?_⟩⟩
  · intro hub n k s0 s1 h
    have hread := State.scrubRead_of h
    refine ⟨congrArg Host.Outcome.next (hread .none), congrArg Host.Outcome.next (hread (.met b)),
      fun hwas => congrArg Host.Outcome.next ((hread (.corrected b)).trans (if_pos hwas)),
      fun hwas => congrArg Host.Outcome.next ((hread (.corrected b)).trans (if_neg hwas)),
      fun hno => congrArg Host.Outcome.next ((hread .uncorrectable).trans (if_neg (Bool.eq_false_iff.mp hno))),
      fun hub => congrArg Host.Outcome.next ((hread .uncorrectable).trans (if_pos hub))⟩
  · have hpat := State.patrol_of hd ha hlost
    refine ⟨congrArg Host.Outcome.next (hpat .none), fun htwo => congrArg Host.Outcome.next ((hpat (.corrected b)).trans (if_pos htwo)),
      fun htwo => ?_, congrArg Host.Outcome.next (hpat .uncorrectable)⟩
    have herr := (hpat (.corrected b)).trans (if_neg (Bool.eq_false_iff.mp htwo))
    intro s1 y l ts s2
    exact ⟨fun h => congrArg Host.Outcome.next (herr.trans (if_neg (Nat.not_le.mpr h))),
      fun h => congrArg Host.Outcome.next (herr.trans (if_pos h))⟩
  · have hfail := State.laneFailing_of hd hl hlost hst hq hex
    refine ⟨fun x hno hsp => congrArg Host.Outcome.next ?_, fun hno hsp => congrArg Host.Outcome.next ?_,
      fun x hx hne => congrArg Host.Outcome.next ?_⟩
    · rw [hfail (fun x hx => absurd (hno.symm.trans hx) (by simp)), hno]
      rw [if_neg (by decide), State.startSweep]
      dsimp only
      rw [hsp]
    · rw [hfail (fun x hx => absurd (hno.symm.trans hx) (by simp)), hno]
      rw [if_neg (by decide), State.startSweep]
      dsimp only
      rw [hsp]
    · rw [hfail (fun y hy => by rwa [← Option.some.inj (hx.symm.trans hy)]), hx]
      exact if_pos rfl
  · intro s1
    refine congrArg Host.Outcome.next ?_
    rw [State.sweepDone]
    dsimp only
    rw [hx]
  · intro k st
    refine ⟨rfl, fun hl hst => ?_⟩
    have hchk := State.bridgeCheck_of hd hlost toDie hl hst
    refine ⟨fun hno => congrArg Host.Outcome.next (hchk.trans ?_), fun x hx => congrArg Host.Outcome.next (hchk.trans ?_)⟩
    · dsimp only
      rw [show steerSpare (Tbl.getD s.units.steered (d * 2 + b2n (!toDie)) []) l = none from hno]
    · dsimp only
      rw [show steerSpare (Tbl.getD s.units.steered (d * 2 + b2n (!toDie)) []) l = some x from hx]
  · have hbr := State.bridgeUe_of hd hlost items
    intro s1
    refine ⟨fun hold => congrArg Host.Outcome.next (hbr.trans (if_neg ?_)), fun t ht hle => congrArg Host.Outcome.next (hbr.trans (if_pos ?_))⟩
    · split
      · next t ht => exact fun h => absurd (hold t ht) (Nat.not_lt.mpr (of_decide_eq_true h))
      · decide
    · rw [ht]
      exact decide_eq_true hle

end Sys2Proof.Machine
end

section
/-! Faults and repair: check events, replacement, cruise, the repair commands, leaving service (R348 to R371). -/
namespace Sys2Proof.Machine

/-! ## Check events -/

/-- What a check event does to its unit, once its items have failed and the check is reported. -/
def State.checkActs (s : State) (u : UnitId) (c : CheckKind) (ok : Bool) : State :=
  match c with
  | .shadow => if u.level = 2 then s.shadowTest u else s
  | .hardEcc => s.failUnit u 7 3 ok
  | .uncorrectable => if 2 ≤ u.level ∧ u.level ≤ 4 then s else s.checkUnit u ok
  | .overrun =>
    if s.overrunsOf u < 2 then s
    else State.checkUnit { s with units.overruns := s.units.overruns.filter (fun x => x.1 != u) } u ok
  | _ =>
    if u.level = 6 ∧ u.unit < 0x40 then
      (match s.digestPair u.unit with
      | some (_, a, b) => (s.checkUnit { u with unit := a } ok).checkUnit { u with unit := b } ok
      | none => s.checkUnit u ok)
    else if u.level = 6 ∧ 0x80 ≤ u.unit ∧ u.unit < 0x90 then (s.boomFault).checkUnit u ok
    else s.checkUnit u ok

/-- The unit that a check event is about: the rest of the hub is one unit. -/
def checkedUnit (v : UnitId) : UnitId := if v.level == 6 && !hubUnit v.unit then ⟨6, 0xF, 0, 0, 0xFFF⟩ else v

theorem State.checkEvent_of {s : State} {v u : UnitId} {c : CheckKind} (hu : checkedUnit v = u)
    (hvalid : unitValid u = true ∨ (v.level == 6 && !hubUnit v.unit) = true ∨
      u.level = 4 ∧ c = .duplicate ∧ u.unit = 1 ∧ unitValid { u with unit := 0 } = true)
    (hlive : s.unitLive u = true ∨ u.level = 5 ∧ c = .hardEcc ∧ u.die < 4 ∧ (s.die u.die).lost = false)
    (hfires : s.checkFires u c = true) (items : List Nat) (ok : Bool) : s.checkEvent v c items ok =
      (State.checkActs (State.checkPost (items.foldl (fun (s : State) n => s.itemFail false n)
        (match s.firingChecked u c with | some l => s.firingBad (corePhys u) l | none => s)) u c) u c ok).settle := by
  subst hu
  have hgo : (!(unitValid (checkedUnit v) || (v.level == 6 && !hubUnit v.unit) || ((checkedUnit v).level == 4 && c == .duplicate &&
      (checkedUnit v).unit == 1 && unitValid { checkedUnit v with unit := 0 })) ||
      !(s.unitLive (checkedUnit v) || ((checkedUnit v).level == 5 && c == .hardEcc && decide ((checkedUnit v).die < 4) &&
        !(s.die (checkedUnit v).die).lost)) || !s.checkFires (checkedUnit v) c) = false := by
    have h1 : (unitValid (checkedUnit v) || (v.level == 6 && !hubUnit v.unit) || ((checkedUnit v).level == 4 && c == .duplicate &&
        (checkedUnit v).unit == 1 && unitValid { checkedUnit v with unit := 0 })) = true := by
      rcases hvalid with h | h | ⟨h1, h2, h3, h4⟩
      · rw [h]; rfl
      · rw [h, Bool.or_true]; rfl
      · rw [h1, h2, h3, h4]; simp
    have h2 : (s.unitLive (checkedUnit v) || ((checkedUnit v).level == 5 && c == .hardEcc && decide ((checkedUnit v).die < 4) &&
        !(s.die (checkedUnit v).die).lost)) = true := by
      rcases hlive with h | ⟨h1, h2, h3, h4⟩
      · rw [h]; rfl
      · rw [h1, h2, decide_eq_true h3, h4]; simp
    rw [h1, h2, hfires]
    rfl
  refine (if_neg (Bool.eq_false_iff.mp hgo)).trans ?_
  cases c <;> rfl

/-- The checks that Table 15-3 charges to the unit as such. -/
theorem State.checkActs_else {s : State} {u : UnitId} {c : CheckKind} {ok : Bool} (h1 : c ≠ .hardEcc) (h2 : c ≠ .shadow)
    (h3 : c ≠ .uncorrectable) (h4 : c ≠ .overrun) : s.checkActs u c ok =
      if u.level = 6 ∧ u.unit < 0x40 then
        (match s.digestPair u.unit with
        | some (_, a, b) => (s.checkUnit { u with unit := a } ok).checkUnit { u with unit := b } ok
        | none => s.checkUnit u ok)
      else if u.level = 6 ∧ 0x80 ≤ u.unit ∧ u.unit < 0x90 then (s.boomFault).checkUnit u ok
      else s.checkUnit u ok := by
  cases c
  case hardEcc => exact absurd rfl h1
  case shadow => exact absurd rfl h2
  case uncorrectable => exact absurd rfl h3
  case overrun => exact absurd rfl h4
  all_goals rfl

/-- A check event on a unit that is not retired and not being replaced already. -/
theorem State.checkUnit_of {s : State} {u : UnitId} (hmap : s.inMap u = false) (hm : ∀ m ∈ s.units.moves, m.unit = u → m.drain = true)
    (ok : Bool) : s.checkUnit u ok =
      if s.suspect u = true then (if u.level = 5 then s.retireDie u.die 3 3 true else s.failUnit u 3 3 ok)
      else if u.level = 3 ∧ s.units.moves.any (fun m => m.unit == u || (m.unit.level == 3 && spareUnit m.unit m.spare == u)) = true then
        s.failUnit u 2 3 ok
      else match s.replacement u with
        | some (w, k) => s.beginMove w k true (deadParts u ok)
        | none => s.markSuspect u := by
  have hfree : s.units.moves.any (fun m => m.unit == u && !m.drain) = false := by
    rw [List.any_eq_false]
    intro m hin h
    obtain ⟨hu, hd⟩ := Bool.and_eq_true_iff.mp h
    rw [hm m hin (beq_iff_eq.mp hu)] at hd
    exact absurd hd (by decide)
  have hgo : (s.inMap u || s.units.moves.any (fun m => m.unit == u && !m.drain)) = false := by
    rw [hmap, hfree]; rfl
  exact if_neg (Bool.eq_false_iff.mp hgo)

/-- The moves of a stand that cruise or a check event makes. -/
theorem standMoving_iff (s : State) (u : UnitId) :
    (u.level = 3 ∧ s.units.moves.any (fun m => m.unit == u || (m.unit.level == 3 && spareUnit m.unit m.spare == u)) = true) ↔
      (u.level = 3 ∧ ∃ m ∈ s.units.moves, m.unit = u ∨ m.unit.level = 3 ∧ spareUnit m.unit m.spare = u) := by
  simp only [List.any_eq_true, Bool.or_eq_true, Bool.and_eq_true, beq_iff_eq]

/-! ## Replacement and tests -/

section
variable {s : State} {u : UnitId} {m : Move}
  (h : s.units.moves.find? (fun m => m.unit == u && (!m.drain || u.level == 3)) = some m)
include h

theorem State.replaceDone_drained (hd : m.drain = true) (hb : s.standBusy u = false) :
    s.replaceDone u = (s.standMoves u m.spare).endMove m := by
  rw [State.replaceDone, h]
  exact (if_pos hd).trans (if_neg (Bool.eq_false_iff.mp hb))

theorem State.replaceDone_lane (hd : m.drain = false) (hlv : u.level = 2) {l : Nat}
    (hl : s.logicalLane u.die (u.cmpt * 2 + u.unit / 272) (u.unit % 272) = some l) : s.replaceDone u =
    (let cause := match s.units.map.find? (fun e => e.unit == u) with | some e => e.cause | none => 0
     let e := u.cmpt * 2 + u.unit / 272
     let held := (s.allVersions.filter (fun hv => hv.2.lanesUsed.contains (u.die, e, l))).map (·.2)
     if ((s.die u.die).sramBad (storeBase u.cmpt) 0x800000 && held.any (fun v => !s.imageIntact v)) = true then
       (s.endMove m).retireCmpt u.die u.cmpt 8 3
     else (((((s.rewriteStore u.die u.cmpt).swapLanes u.die e (u.unit % 272) m.spare).rewriteLane u.die e l).stopLane u.die e l false).endMove
       m).repaired u cause 3) := by
  rw [State.replaceDone, h]
  dsimp only
  rw [if_neg (Bool.eq_false_iff.mp hd), if_pos hlv, hl] <;> rfl

theorem State.replaceDone_place (hd : m.drain = false) (hlv : u.level ≠ 2) : s.replaceDone u =
    (let cause := match s.units.map.find? (fun e => e.unit == u) with | some e => e.cause | none => 0
     let on := s.copiesOn u
     let s1 := if u.level = 1 then s.coreTakes u m.spare (m.lost != []) else s.standTakes u m.spare m.lost
     let s2 := (on.filter (fun x => x.2.2.2.lostHold && s.partsLost u m.lost x.2.1 x.2.2.2)).foldl (fun s x => s.loadCopy x.1 x.2.1 x.2.2.2) s1
     ((on.foldl (fun (s : State) (x : Nat × Version × Nat × ACopy) =>
       s.reopen x.1 x.2.1.number x.2.2.1) s2).endMove m).repaired u cause 3) := by
  rw [State.replaceDone, h]
  dsimp only
  rw [if_neg (Bool.eq_false_iff.mp hd), if_neg hlv] <;> rfl

end

/-- A test that is over: the unit is tested no more, and a digest pair of which neither engine is tested is in again. -/
def State.testOver (s : State) (u : UnitId) : State :=
  let s1 := { s with units.tests := s.units.tests.filter (fun x => x.1 != u) }
  { s1 with units.pairsOut := s1.units.pairsOut.filter (fun j => s1.digestPairs.any (fun p => p.1 == j &&
    s1.units.tests.any (fun x => x.1.level == 6 && (x.1.unit == p.2.1 || x.1.unit == p.2.2)))) }

theorem State.testDone_of {s : State} {u w : UnitId} {k : Nat} (h : s.units.tests.find? (fun t => t.1 == u) = some (w, k)) (pass : Bool) :
    s.testDone u pass =
      (State.rprWake (if pass = true then
          if k = 1 then (State.count { s.testOver u with units.asked := (s.testOver u).units.asked ++ [u] } Reg.RPR_CNT_TRANSIENT).post 8 2 []
          else s.testOver u
        else ((s.testOver u).count Reg.RPR_CNT_CRUISEFAIL).failUnit u (if k = 2 then 4 else 2) 3 true)).settle := by
  rw [State.testDone, h]
  rfl

theorem State.cruiseSlot_of {s : State} (hen : bitAt (s.cfgW Reg.RPR_CRUISE) 31 = true) (hin : s.mgmt.inService = true)
    (hfull : s.mgmt.jr.full = false) (hrun : s.power.state = 0)
    (ht : s.units.slot = 0 ∨ s.units.slotAt + fld (s.cfgW Reg.RPR_CRUISE) 11 0 * 1000000 ≤ s.time.raw) : s.cruiseSlot =
    (let i := s.units.slot % 272
     let s1 := if i = 0 ∧ 0 < s.units.slot then
         State.post { s with units.passes := min 0xFFF (s.units.passes + 1), units.untested := s.units.skipped, units.skipped := 0 } 8 4 []
       else s
     State.cruiseSteps { s1 with units.slot := s1.units.slot + 1, units.slotAt := s1.time.raw } i) := by
  have hdue : (decide (0 < s.units.slot) && decide (s.time.raw < s.units.slotAt + fld (s.cfgW Reg.RPR_CRUISE) 11 0 * 1000000)) = false := by
    rcases ht with h | h
    · rw [h]; rfl
    · rw [decide_eq_false (Nat.not_lt.mpr h), Bool.and_false]
  have hgo : (!bitAt (s.cfgW Reg.RPR_CRUISE) 31 || !s.mgmt.inService || s.mgmt.jr.full || s.power.state != 0 ||
      (decide (0 < s.units.slot) && decide (s.time.raw < s.units.slotAt + fld (s.cfgW Reg.RPR_CRUISE) 11 0 * 1000000))) = false := by
    rw [hdue, hen, hin, hfull, hrun]; rfl
  exact if_neg (Bool.eq_false_iff.mp hgo)

/-! ## The repair commands -/

/-- An RPR_CMD after a commit that is due: ignored while one is in progress, behind others that wait, or now. -/
theorem State.act_rpr_busy {s0 : State} (h : s0.commitBoundary.rprBusy = true) (op : Nat) (w : Word) :
    s0.act (.rpr op w 1) = s0.commitBoundary := by
  have : (MgmtAct.isRpr (.rpr op w 1) && s0.commitBoundary.rprBusy) = true := by rw [h]; rfl
  exact if_pos this

theorem State.act_rpr_waits {s0 : State} (h : s0.commitBoundary.rprBusy = false) (ha : s0.commitBoundary.mgmt.acts ≠ []) (op : Nat) (w : Word) :
    s0.act (.rpr op w 1) = s0.commitBoundary.queueAct (.rpr op w 1) := by
  have : (MgmtAct.isRpr (.rpr op w 1) && s0.commitBoundary.rprBusy) = false := by rw [h]; rfl
  exact (if_neg (Bool.eq_false_iff.mp this)).trans (if_neg ha)

theorem State.rprBusy_free {s : State} (hw : s.units.cmdWait = none) (ha : s.mgmt.acts = []) : s.rprBusy = false := by
  rw [State.rprBusy, hw, ha]; rfl

theorem State.act_rpr_free {s0 : State} (hw : s0.commitBoundary.units.cmdWait = none) (ha : s0.commitBoundary.mgmt.acts = [])
    (op : Nat) (w : Word) : s0.act (.rpr op w 1) = s0.commitBoundary.actNow (.rpr op w 1) := by
  have : (MgmtAct.isRpr (.rpr op w 1) && s0.commitBoundary.rprBusy) = false := by rw [State.rprBusy_free hw ha]; rfl
  exact (if_neg (Bool.eq_false_iff.mp this)).trans (if_pos ha)

/-- With room in the journal, or of a command that is not journaled, an RPR_CMD runs. -/
theorem State.act_rpr_runs {s0 : State} (hw : s0.commitBoundary.units.cmdWait = none) (ha : s0.commitBoundary.mgmt.acts = [])
    {op : Nat} (hroom : s0.commitBoundary.mgmt.jr.full = false ∨ MgmtAct.journaled (.rpr op 0 1) = false) (w : Word) :
    s0.act (.rpr op w 1) = s0.commitBoundary.rprCmd op w 1 := by
  have : (s0.commitBoundary.mgmt.jr.full && MgmtAct.journaled (.rpr op w 1)) = false := by
    rcases hroom with h | h
    · rw [h]; rfl
    · rw [show MgmtAct.journaled (.rpr op w 1) = false from h, Bool.and_false]
  exact (State.act_rpr_free hw ha op w).trans (if_neg (Bool.eq_false_iff.mp this))

/-- A RETIRE or TEST of a unit whose stand is in no cruise step, or that is none, and what the others do. -/
theorem State.rprCmd_rows {s : State} (hw : s.units.cmdWait = none) (w : Word) :
    (unitValid (cmdUnit w) = false ∨ s.cruising (cmdUnit w) = false →
      s.rprCmd 1 w 1 = (s.retire (cmdUnit w) 1).settle ∧ s.rprCmd 3 w 1 = s.askTest (cmdUnit w)) ∧
    (unitValid (cmdUnit w) = true → s.cruising (cmdUnit w) = true →
      s.rprCmd 1 w 1 = { s with units.cmdWait := some (setFld w 31 28 1, 1) } ∧
      s.rprCmd 3 w 1 = { s with units.cmdWait := some (setFld w 31 28 3, 1) }) ∧
    s.rprCmd 2 w 1 = s.unretire (cmdUnit w) 1 ∧ s.rprCmd 4 w 1 = (s.memberLost (fld w 11 0)).rprDone 0 ∧
    s.rprCmd 5 w 1 = State.rprDone { s with boom.back := addRank s.boom.back (fld w 11 0) } 0 := by
  have hfree : ∀ op, s.rprCmd op w 1 = _ := fun op => if_neg (show ¬(s.units.cmdWait.isSome = true) by rw [hw]; decide)
  refine ⟨fun h => ?_, fun hv hc => ⟨(hfree 1).trans (if_pos ⟨Or.inl rfl, hv, hc⟩), (hfree 3).trans (if_pos ⟨Or.inr rfl, hv, hc⟩)⟩,
    (hfree 2).trans (if_neg (fun h => absurd h.1 (by decide))), (hfree 4).trans (if_neg (fun h => absurd h.1 (by decide))),
    (hfree 5).trans (if_neg (fun h => absurd h.1 (by decide)))⟩
  have hno : ∀ p : Prop, ¬(p ∧ unitValid (cmdUnit w) = true ∧ s.cruising (cmdUnit w) = true) := by
    rintro p ⟨-, hv, hc⟩
    rcases h with h | h
    · exact Bool.eq_false_iff.mp h hv
    · exact Bool.eq_false_iff.mp h hc
  exact ⟨(hfree 1).trans (if_neg (hno _)), (hfree 3).trans (if_neg (hno _))⟩

theorem State.unretire_of {s : State} {u : UnitId} {e : MapEnt} (hv : unitValid u = true)
    (h : s.units.map.find? (fun e => e.unit == u) = some e) : s.unretire u 1 =
      if e.cause = 1 ∧ (!e.inherited) = true then s.rprDone 3
      else
        let e1 := { e with unretire := true }
        let m := s.units.map.map (fun x => if x.unit = u then e1 else x)
        (State.repairEntry { s with units.map := m } e1 512 1).rprDone 0 := by
  have hvalid : ¬((!unitValid u) = true) := by rw [hv]; decide
  rw [State.unretire, if_neg hvalid, h]

/-! ## The statement, part by part -/

/-- The repair commands while one is in progress, behind others, and with the journal full. -/
theorem repairCommandsWait (s0 : State) (w : Word) : let s := s0.commitBoundary
    (s.rprBusy = true → exec (.retire w) s0 = .next s ∧ exec (.unretire w) s0 = .next s ∧ exec (.test w) s0 = .next s ∧
      exec (.memberLost w) s0 = .next s ∧ exec (.memberBack w) s0 = .next s) ∧
    (s.rprBusy = false → s.mgmt.acts ≠ [] →
      exec (.retire w) s0 = .next (s.queueAct (.rpr 1 w 1)) ∧ exec (.unretire w) s0 = .next (s.queueAct (.rpr 2 w 1)) ∧
      exec (.test w) s0 = .next (s.queueAct (.rpr 3 w 1)) ∧ exec (.memberLost w) s0 = .next (s.queueAct (.rpr 4 w 1)) ∧
      exec (.memberBack w) s0 = .next (s.queueAct (.rpr 5 w 1))) ∧
    (s.units.cmdWait = none → s.mgmt.acts = [] → s.mgmt.jr.full = true →
      exec (.retire w) s0 = .next (s.queueAct (.rpr 1 w 1)) ∧ exec (.unretire w) s0 = .next (s.queueAct (.rpr 2 w 1))) := by
  intro s
  refine ⟨fun h => ?_, fun h ha => ?_, fun hw ha hfull => ?_⟩
  · have hb := fun op => congrArg (Host.Outcome.next (φ := Fault) (ρ := Refusal)) (State.act_rpr_busy h op w)
    exact ⟨hb 1, hb 2, hb 3, hb 4, hb 5⟩
  · have hb := fun op => congrArg (Host.Outcome.next (φ := Fault) (ρ := Refusal)) (State.act_rpr_waits h ha op w)
    exact ⟨hb 1, hb 2, hb 3, hb 4, hb 5⟩
  · have hq : ∀ op, MgmtAct.journaled (.rpr op w 1) = true → s0.act (.rpr op w 1) = s.queueAct (.rpr op w 1) := fun op hj =>
      (State.act_rpr_free hw ha op w).trans (if_pos (Bool.and_eq_true_iff.mpr ⟨hfull, hj⟩))
    exact ⟨congrArg Host.Outcome.next (hq 1 rfl), congrArg Host.Outcome.next (hq 2 rfl)⟩

/-- The repair commands that run. -/
theorem repairCommandsRun (s0 : State) (w : Word) (hw : s0.commitBoundary.units.cmdWait = none) (ha : s0.commitBoundary.mgmt.acts = []) :
    let s := s0.commitBoundary
    let room := s.mgmt.jr.full = false
    let u := cmdUnit w
    (unitValid u = false → (room → exec (.retire w) s0 = .next (s.rprDone 1).settle ∧ exec (.unretire w) s0 = .next (s.rprDone 1)) ∧
      exec (.test w) s0 = .next (s.rprDone 1)) ∧
    (unitValid u = true → s.cruising u = true →
      (room → exec (.retire w) s0 = .next { s with units.cmdWait := some (setFld w 31 28 1, 1) }) ∧
      exec (.test w) s0 = .next { s with units.cmdWait := some (setFld w 31 28 3, 1) }) ∧
    (unitValid u = true → s.cruising u = false →
      (s.unitLive u = false → room → exec (.retire w) s0 = .next (s.rprDone 0).settle) ∧
      (s.unitLive u = true → (u.level ≠ 5 ∨ 3 < s.diesIn.length) → room → exec (.retire w) s0 = .next ((s.takeOut u 1).rprDone 0).settle) ∧
      (s.unitLive u = true → u.level = 5 → s.diesIn.length ≤ 3 → room → exec (.retire w) s0 = .next (s.rprDone 2).settle) ∧
      (s.unitLive u = false ∨ s.units.asked.contains u = true → exec (.test w) s0 = .next (s.rprDone 0)) ∧
      (s.unitLive u = true → s.units.asked.contains u = false →
        exec (.test w) s0 = .next (State.rprDone { s with units.asked := s.units.asked ++ [u] } 0))) ∧
    (unitValid u = true → room →
      (s.units.map.find? (fun e => e.unit == u) = none → exec (.unretire w) s0 = .next (s.rprDone 3)) ∧
      (∀ e, s.units.map.find? (fun e => e.unit == u) = some e →
        (e.cause = 1 → e.inherited = false → exec (.unretire w) s0 = .next (s.rprDone 3)) ∧
        (e.cause ≠ 1 ∨ e.inherited = true →
          let e1 := { e with unretire := true }
          let m := s.units.map.map (fun x => if x.unit = u then e1 else x)
          exec (.unretire w) s0 =
            .next ((State.repairEntry { s with units.map := m } e1 512 1).rprDone 0)))) ∧
    exec (.memberLost w) s0 = .next ((s.memberLost (fld w 11 0)).rprDone 0) ∧
    exec (.memberBack w) s0 = .next (State.rprDone { s with boom.back := addRank s.boom.back (fld w 11 0) } 0) := by
  intro s room u
  obtain ⟨hrun, hcr, hun, hml, hmb⟩ := State.rprCmd_rows (s := s) hw w
  have hret : room → ∀ t, s.rprCmd 1 w 1 = t → exec (.retire w) s0 = .next t := fun hroom t ht =>
    congrArg Host.Outcome.next ((State.act_rpr_runs hw ha (Or.inl hroom) w).trans ht)
  have hunr : room → ∀ t, s.unretire u 1 = t → exec (.unretire w) s0 = .next t := fun hroom t ht =>
    congrArg Host.Outcome.next ((State.act_rpr_runs hw ha (Or.inl hroom) w).trans (hun.trans ht))
  have htest : ∀ t, s.rprCmd 3 w 1 = t → exec (.test w) s0 = .next t := fun t ht =>
    congrArg Host.Outcome.next ((State.act_rpr_runs hw ha (Or.inr rfl) w).trans ht)
  refine ⟨fun hv => ?_, fun hv hc => ⟨fun hroom => hret hroom _ (hcr hv hc).1, htest _ (hcr hv hc).2⟩, fun hv hc => ?_,
    fun hv hroom => ?_, congrArg Host.Outcome.next ((State.act_rpr_runs hw ha (Or.inr rfl) w).trans hml),
    congrArg Host.Outcome.next ((State.act_rpr_runs hw ha (Or.inr rfl) w).trans hmb)⟩
  · have hbad : (!unitValid u) = true := by rw [hv]; rfl
    obtain ⟨h1, h3⟩ := hrun (Or.inl hv)
    exact ⟨fun hroom => ⟨hret hroom _ (h1.trans (congrArg State.settle (if_pos hbad))), hunr hroom _ (if_pos hbad)⟩,
      htest _ (h3.trans (if_pos hbad))⟩
  · have hok : ¬((!unitValid u) = true) := by rw [hv]; decide
    obtain ⟨h1, h3⟩ := hrun (Or.inr hc)
    refine ⟨fun hl hroom => ?_, fun hl hd hroom => ?_, fun hl h5 hd hroom => ?_, fun h => ?_, fun hl hno => ?_⟩
    · have hdead : (!s.unitLive u) = true := by rw [hl]; rfl
      exact hret hroom _ (h1.trans (congrArg State.settle ((if_neg hok).trans (if_pos hdead))))
    · have hlive : ¬((!s.unitLive u) = true) := by rw [hl]; decide
      have henough : ¬(u.level = 5 ∧ s.diesIn.length ≤ 3) := by
        rintro ⟨h5, hle⟩
        rcases hd with h | h
        · exact h h5
        · exact absurd h (Nat.not_lt.mpr hle)
      exact hret hroom _ (h1.trans (congrArg State.settle ((if_neg hok).trans ((if_neg hlive).trans (if_neg henough)))))
    · have hlive : ¬((!s.unitLive u) = true) := by rw [hl]; decide
      exact hret hroom _ (h1.trans (congrArg State.settle ((if_neg hok).trans ((if_neg hlive).trans (if_pos ⟨h5, hd⟩)))))
    · have hskip : (!s.unitLive u || s.units.asked.contains u) = true := by
        rcases h with h | h <;> rw [h]
        · rfl
        · exact Bool.or_true _
      exact htest _ (h3.trans ((if_neg hok).trans (if_pos hskip)))
    · have hgo : ¬((!s.unitLive u || s.units.asked.contains u) = true) := by rw [hl, hno]; decide
      exact htest _ (h3.trans ((if_neg hok).trans (if_neg hgo)))
  · have hok : ¬((!unitValid u) = true) := by rw [hv]; decide
    refine ⟨fun hno => hunr hroom _ ?_, fun e he => ⟨fun h1 hi => ?_, fun h => ?_⟩⟩
    · rw [State.unretire, if_neg hok, hno]
    · have hold : (!e.inherited) = true := by rw [hi]; rfl
      exact hunr hroom _ ((State.unretire_of hv he).trans (if_pos ⟨h1, hold⟩))
    · have hgo : ¬(e.cause = 1 ∧ (!e.inherited) = true) := by
        rintro ⟨h1, hi⟩
        rcases h with h | h
        · exact h h1
        · rw [h] at hi; exact absurd hi (by decide)
      exact hunr hroom _ ((State.unretire_of hv he).trans (if_neg hgo))

/-- Settles O57: check events, replacement and tests, cruise, the repair commands, members, heartbeats, leaving service. -/
theorem faultsAreTestedReplacedAndReported : Obligations.FaultsAreTestedReplacedAndReported := by
  refine ⟨fun s v c items ok => ?_, fun s u ok hmap hm => ?_, fun s u => ⟨rfl, rfl, fun m hm => ?_, fun w k ht => ?_⟩,
    fun s hen hin hfull hrun ht => ?_, repairCommandsWait, repairCommandsRun, fun s hb => if_neg hb, fun s hin => ⟨fun hen hr htw ht => ?_, ?_⟩⟩
  · intro hub u hvalid hlive hfires s0 s1
    have hev : exec (.checkEvent v c items ok) s = .next (s1.checkActs u c ok).settle :=
      congrArg Host.Outcome.next (State.checkEvent_of rfl hvalid hlive hfires items ok)
    refine ⟨fun hc => ?_, fun hc => ?_, fun hc => ?_, fun hc => ?_, fun h1 h2 h3 h4 => ?_⟩
    · subst hc; exact hev
    · subst hc; exact hev
    · subst hc; exact hev
    · subst hc
      exact ⟨fun hlt => hev.trans (congrArg (fun t => Host.Outcome.next (State.settle t)) (if_pos hlt)),
        fun hle => hev.trans (congrArg (fun t => Host.Outcome.next (State.settle t)) (if_neg (Nat.not_lt.mpr hle)))⟩
    · have helse := State.checkActs_else (s := s1) (u := u) (ok := ok) h1 h2 h3 h4
      have hdone : ∀ t, s1.checkActs u c ok = t → exec (.checkEvent v c items ok) s = .next t.settle := fun t ht =>
        hev.trans (congrArg (fun t => Host.Outcome.next (State.settle t)) ht)
      refine ⟨fun hp => hdone _ (helse.trans ((if_neg ?_).trans (if_neg ?_))),
        fun h6 hlo hhi => hdone _ (helse.trans ((if_neg (fun h => absurd hlo (by omega))).trans (if_pos ⟨h6, hlo, hhi⟩))),
        fun j a b h6 hlt hpair => hdone _ (helse.trans ((if_pos ⟨h6, hlt⟩).trans ?_)),
        fun h6 hlt hno => hdone _ (helse.trans ((if_pos ⟨h6, hlt⟩).trans ?_))⟩
      · omega
      · omega
      · rw [hpair]
      · rw [hno]
  · have hchk := State.checkUnit_of hmap hm ok
    refine ⟨fun hs h5 => hchk.trans ((if_pos hs).trans (if_neg h5)), fun hs h5 => hchk.trans ((if_pos hs).trans (if_pos h5)), fun hs => ?_⟩
    have hnew := hchk.trans (if_neg (Bool.eq_false_iff.mp hs))
    intro moving
    refine ⟨fun hmv => hnew.trans (if_pos ((standMoving_iff s u).mpr hmv)),
      fun w k hmv hr => hnew.trans ((if_neg (fun h => hmv ((standMoving_iff s u).mp h))).trans ?_),
      fun hmv hr => hnew.trans ((if_neg (fun h => hmv ((standMoving_iff s u).mp h))).trans ?_)⟩
    · rw [hr]
    · rw [hr]
      rfl
  · intro cause
    refine ⟨fun hd hb => congrArg Host.Outcome.next (State.replaceDone_drained hm hd hb), fun l hd hlv hl => ?_,
      fun hd hlv => congrArg Host.Outcome.next (State.replaceDone_place hm hd hlv)⟩
    have hrep := State.replaceDone_lane hm hd hlv hl
    intro e held lost
    exact ⟨fun h => congrArg Host.Outcome.next (hrep.trans (if_pos h)),
      fun h => congrArg Host.Outcome.next (hrep.trans (if_neg (Bool.eq_false_iff.mp h)))⟩
  · have hdone := State.testDone_of ht
    intro s1 s2
    exact ⟨fun hk => congrArg Host.Outcome.next ((hdone true).trans (congrArg (fun t => (State.rprWake t).settle) (if_neg hk))),
      fun hk => congrArg Host.Outcome.next ((hdone true).trans (congrArg (fun t => (State.rprWake t).settle) (if_pos hk))),
      congrArg Host.Outcome.next (hdone false)⟩
  · have hslot := State.cruiseSlot_of hen hin hfull hrun ht
    refine ⟨fun hno => congrArg Host.Outcome.next (hslot.trans ?_), fun h0 hmod => congrArg Host.Outcome.next (hslot.trans ?_)⟩
    · have hsame : ¬(s.units.slot % 272 = 0 ∧ 0 < s.units.slot) := by omega
      dsimp only
      rw [if_neg hsame]
    · dsimp only
      rw [if_pos ⟨hmod, h0⟩, hmod]
  · have hgo : (bitAt (s.cfgW Reg.RPR_HB) 31 && s.mgmt.ready && s.mgmt.inService && s.twin.state != 4 &&
        (match s.units.beatAt with
        | some t => decide (t + fld (s.cfgW Reg.RPR_HB) 9 0 * 1000 ≤ s.time.raw)
        | none => true)) = true := by
      rw [hen, hr, hin, bne_iff_ne.mpr htw]
      split
      · next t hbeat => exact decide_eq_true (ht t hbeat)
      · rfl
    exact congrArg Host.Outcome.next (if_pos hgo)
  · have hserves : ¬((!s.mgmt.inService) = true) := by rw [hin]; decide
    intro s1
    exact congrArg Host.Outcome.next (if_neg hserves)

end Sys2Proof.Machine
end

section
/-! Twin pairs: partner records, loss of the partner, pairing (R364 to R370). -/
namespace Sys2Proof.Machine

/-! ## Partner records (R365 to R367) -/

/-- A reply whose own record is about the message of `t`. -/
def ofRecord (t : TwinRec) (r : Nat × Reply) : Bool :=
  match r.2.trec with | some (u, _) => sameRec u t | none => false

/-- Such a reply that has not been sent. -/
def heldOfRecord (t : TwinRec) (r : Nat × Reply) : Bool :=
  match r.2.trec with | some (u, _) => sameRec u t && r.2.stage != .sent | none => false

/-- A Kwain frame marks its time, whatever else it does. -/
def State.kwainSeen (s : State) : State := { s with twin.lastFrame := s.time.raw }

section
variable {s : State} {t : TwinRec} {n : Nat} {r : Reply}

theorem State.twinRecord_unpaired (h : s.twin.state ≠ 2) : s.twinRecord t = s.kwainSeen := if_pos h

theorem State.twinRecord_release (h : s.twin.state = 2) (hrel : t.released = true)
    (hfind : s.replies.find? (heldOfRecord t) = some (n, r)) : s.twinRecord t = s.kwainSeen.release n r := by
  refine (if_neg (not_not_intro h)).trans ((if_pos hrel).trans ?_)
  have hfind' : s.kwainSeen.replies.find? (heldOfRecord t) = some (n, r) := hfind
  change (match s.kwainSeen.replies.find? (heldOfRecord t) with
    | some (n, r) => s.kwainSeen.release n r
    | none => s.kwainSeen) = _
  rw [hfind']

theorem State.twinRecord_release_none (h : s.twin.state = 2) (hrel : t.released = true)
    (hfind : s.replies.find? (heldOfRecord t) = none) : s.twinRecord t = s.kwainSeen := by
  refine (if_neg (not_not_intro h)).trans ((if_pos hrel).trans ?_)
  have hfind' : s.kwainSeen.replies.find? (heldOfRecord t) = none := hfind
  change (match s.kwainSeen.replies.find? (heldOfRecord t) with
    | some (n, r) => s.kwainSeen.release n r
    | none => s.kwainSeen) = _
  rw [hfind']

theorem State.twinRecord_ownBad (h : s.twin.state = 2) (hrel : t.released = false) (hbad : t.ownBad = true) :
    s.twinRecord t = s.kwainSeen.ownBad t :=
  (if_neg (not_not_intro h)).trans ((if_neg (by simp [hrel])).trans (if_pos hbad))

/-- What a record with both flags clear does while PAIRED. -/
def State.twinCompare (s : State) (t : TwinRec) : State :=
  match s.replies.find? (fun r => r.2.twin.isNone && ofRecord t r) with
  | some (n, r) =>
    match r.trec with
    | some (own, _) => (s.twinJudge n r own t).settle
    | none => s
  | none => { s with twin.theirs := s.twin.theirs ++ [t] }

theorem State.twinRecord_compare (h : s.twin.state = 2) (hrel : t.released = false) (hbad : t.ownBad = false) :
    s.twinRecord t = s.kwainSeen.twinCompare t :=
  (if_neg (not_not_intro h)).trans ((if_neg (by simp [hrel])).trans ((if_neg (by simp [hbad])).trans rfl))

theorem State.twinCompare_waiting {own : TwinRec} {at0 : Nat}
    (hfind : s.replies.find? (fun r => r.2.twin.isNone && ofRecord t r) = some (n, r)) (hrec : r.trec = some (own, at0)) :
    s.twinCompare t = (s.twinJudge n r own t).settle := by
  rw [State.twinCompare, hfind]
  dsimp only
  rw [hrec]

theorem State.twinCompare_none (hnone : ∀ r ∈ s.replies, r.2.twin.isNone = false ∨ ofRecord t r = false) :
    s.twinCompare t = { s with twin.theirs := s.twin.theirs ++ [t] } := by
  have hfind : s.replies.find? (fun r => r.2.twin.isNone && ofRecord t r) = none :=
    List.find?_eq_none.mpr fun r hr => by
      rcases hnone r hr with h | h <;> simp [h]
  rw [State.twinCompare, hfind]

theorem State.matchTimeout_of {u : TwinRec} {t : Nat} (hfind : Tbl.find s.replies n = some r) (hrec : r.trec = some (u, t))
    (htwin : r.twin = none) (h : s.twin.state = 2) (hdue : t + s.cfg Reg.TWIN_TMR 15 8 * 1000 ≤ s.time.raw) :
    s.matchTimeout n =
      (((s.count Reg.TWIN_CNT_UNMATCHED).setReply n { r with twin := some false }).post 10 0 []).settle := by
  rw [State.matchTimeout, hfind]
  dsimp only
  rw [hrec]
  dsimp only
  exact if_pos (by simp [htwin, h, hdue])

end

/-! ## Pairing (R369) -/

/-- The state in which a hello of a partner is judged: its own hello has gone out. -/
def State.helloed (s : State) (p : TwinHello) : State :=
  State.emit { s with twin.lastFrame := s.time.raw, twin.peerId := p.identity, twin.aliveIn := true }
    (.hello s.mgmt.identity s.twinDigestOwn (s.cfg Reg.TWIN_CTL 30 30 == 1))

section
variable {s : State} {p : TwinHello}

theorem State.twinPairing_waits (h : s.twin.state ≠ 1 ∨ s.clean = false ∨ p.clean = false) : s.twinPairing p = s.kwainSeen := by
  have hwait : s.kwainSeen.twin.state ≠ 1 ∨ (!s.kwainSeen.clean) = true ∨ (!p.clean) = true :=
    h.imp id (Or.imp (fun h => by rw [show s.kwainSeen.clean = s.clean from rfl, h]; rfl) (fun h => by rw [h]; rfl))
  exact if_pos hwait

theorem State.twinPairing_judges (h : s.twin.state = 1) (hown : s.clean = true) (hpeer : p.clean = true) :
    s.twinPairing p =
      if p.role == (s.cfg Reg.TWIN_CTL 30 30 == 1) then (s.helloed p).loseLink 4
      else if s.twinDigestOwn ≠ p.digest then (s.helloed p).loseLink 3
      else (s.helloed p).twinTo 2 0 4 := by
  have hgo : ¬(s.kwainSeen.twin.state ≠ 1 ∨ (!s.kwainSeen.clean) = true ∨ (!p.clean) = true) := by
    rw [show s.kwainSeen.clean = s.clean from rfl, show s.kwainSeen.twin.state = s.twin.state from rfl]
    simp [h, hown, hpeer]
  exact if_neg hgo

end

/-- Settles O58: each command by the pair's state and role, through `twinRecord_…`, `matchTimeout_of`, `loseLink` and
`twinPairing_judges`. -/
theorem twinPairsFormJudgeAndFall : Obligations.TwinPairsFormJudgeAndFall := by
  unfold Obligations.TwinPairsFormJudgeAndFall
  refine ⟨?record, ?timeout, ?loss, ?waits, ?judged⟩
  case record =>
    intro s t
    dsimp only
    refine ⟨fun h => congrArg Host.Outcome.next (State.twinRecord_unpaired h), fun h => ⟨?_, ?_, ?_, ?_, ?_⟩⟩
    · exact fun n r hrel hfind => congrArg Host.Outcome.next (State.twinRecord_release h hrel hfind)
    · exact fun hrel hfind => congrArg Host.Outcome.next (State.twinRecord_release_none h hrel hfind)
    · exact fun hrel hbad => congrArg Host.Outcome.next (State.twinRecord_ownBad h hrel hbad)
    · exact fun n r own at0 hrel hbad hfind hrec => congrArg Host.Outcome.next
        ((State.twinRecord_compare h hrel hbad).trans (State.twinCompare_waiting hfind hrec))
    · exact fun hrel hbad hnone => congrArg Host.Outcome.next
        ((State.twinRecord_compare h hrel hbad).trans (State.twinCompare_none hnone))
  case timeout =>
    exact fun s n r u t hfind hrec htwin h hdue =>
      congrArg Host.Outcome.next (State.matchTimeout_of hfind hrec htwin h hdue)
  case loss =>
    intro s
    refine ⟨?_, ?_, ?_, ?_, ?_, ?_, ?_⟩
    · exact fun h hdue halive => congrArg Host.Outcome.next ((if_pos ⟨h, hdue⟩).trans (if_pos halive))
    · exact fun h hdue halive => congrArg Host.Outcome.next ((if_pos ⟨h, hdue⟩).trans (if_neg (by simp [halive])))
    · exact fun h => congrArg Host.Outcome.next (if_pos h)
    · exact fun h => congrArg Host.Outcome.next (if_neg h)
    · exact fun h hdue => congrArg Host.Outcome.next (if_pos ⟨h, hdue⟩)
    · exact fun reason hrole => if_neg (by omega)
    · exact fun reason hrole => if_pos hrole
  case waits => exact fun s p h => congrArg Host.Outcome.next (State.twinPairing_waits h)
  case judged =>
    intro s p h hown hpeer
    have hjudge := State.twinPairing_judges h hown hpeer
    refine ⟨fun hrole => ?_, fun hrole hdig => ?_, fun hrole hdig => ?_⟩
    · exact congrArg Host.Outcome.next (hjudge.trans (if_pos (by simp [hrole])))
    · exact congrArg Host.Outcome.next
        (hjudge.trans ((if_neg (by simpa using hrole)).trans (if_pos (Ne.symm hdig))))
    · exact congrArg Host.Outcome.next
        (hjudge.trans ((if_neg (by simpa using hrole)).trans (if_neg (not_not_intro hdig.symm))))

end Sys2Proof.Machine
end

section
/-! The mailbox, SEND, IDENTIFY and ENROLL, event queue reads, management DMA and SMBus (R377 to R388). -/
namespace Sys2Proof.Machine

/-! ## The mailbox (R381) -/

/-- The address that a submission points at: its high half with the low half held. -/
def State.mboxAddr (s : State) (hi : Word) : Nat :=
  hi.toNat * 2 ^ 32 + (Tbl.getD s.regs.loHeld Reg.GCTL_MBOX_LO 0).toNat / 64 * 64

/-- What a submission does with the descriptor it has read. -/
def State.mboxTake (s : State) (a : Nat) (desc : List Byte) (err : SpaceErr) (origin : Nat) : State :=
  if err = .ue then s.mboxDone 0 0x0B
  else if !knownCmd (byteAt desc 0) then s.mboxDone (byteAt desc 0) 1
  else { s with mgmt.mbox := s.mgmt.mbox ++ [{ addr := a, desc := desc, origin := origin }] }

section
variable {s : State} {hi : Word} {origin : Nat}

theorem State.mboxSubmit_full (hready : s.mgmt.ready = true) (hfull : 64 ≤ s.mgmt.mbox.length) :
    s.mboxSubmit hi origin = s.putRw Reg.GCTL_MBOX_STAT 31 31 1 :=
  (if_neg (by simp [hready])).trans (if_pos hfull)

theorem State.mboxSubmit_reads (hready : s.mgmt.ready = true) (hroom : s.mgmt.mbox.length < 64) :
    s.mboxSubmit hi origin =
      (s.spaceRead (s.mboxAddr hi) 64).2.2.mboxTake (s.mboxAddr hi) (s.spaceRead (s.mboxAddr hi) 64).1
        (s.spaceRead (s.mboxAddr hi) 64).2.1 origin :=
  (if_neg (by simp [hready])).trans (if_neg (by omega))

variable {a : Nat} {desc : List Byte} {err : SpaceErr}

theorem State.mboxTake_ue (h : err = .ue) : s.mboxTake a desc err origin = s.mboxDone 0 0x0B := if_pos h

theorem State.mboxTake_known (h : err ≠ .ue) (hcmd : knownCmd (byteAt desc 0) = true) :
    s.mboxTake a desc err origin =
      { s with mgmt.mbox := s.mgmt.mbox ++ [{ addr := a, desc := desc, origin := origin }] } :=
  (if_neg h).trans (if_neg (by simp [hcmd]))

theorem State.mboxTake_unknown (h : err ≠ .ue) (hcmd : knownCmd (byteAt desc 0) = false) :
    s.mboxTake a desc err origin = s.mboxDone (byteAt desc 0) 1 :=
  (if_neg h).trans (if_pos (by simp [hcmd]))

end

/-! ## SEND, IDENTIFY and ENROLL (R377, R382, R383) -/

/-- SEND with its command taken, its frame read as `r` and its checks answering `st`. -/
def State.sendJudged (s : State) (d : List Byte) (r : List Byte × SpaceErr × State) (st : Nat) : State :=
  if st = 0 ∧ s.linkUp (byteAt d 1) ∧ !s.turn3 (byteAt d 1) (some (byteAt d 2)) (leAt d 4 2) then s
  else (if st = 0 then r.2.2.sendOut (byteAt d 1) (byteAt d 3 % 2 == 1) r.1 else r.2.2).fellFinish d { status := st }

/-- The status of ENROLL for a buffer read with outcome `err`. -/
def State.enrollStatus (s : State) (err : SpaceErr) : Nat :=
  if s.jrnlRefuses then 4 else if s.mgmt.owner.isSome then 7 else if err = .unmapped then 1 else if err = .ue then 0x0B else 0

/-- ENROLL with status 0: the key is stored and journaled. -/
def State.enrolled (s : State) (key : List Byte) (origin : Nat) : State :=
  State.journal { s with mgmt.owner := some key, mgmt.ownerRec := s.mgmt.ownerRec + 1 } 0xC 1 (s.mgmt.ownerRec + 1)
    (some ((sha256 key).take 16)) origin

section
variable {s s1 : State} {i : Nat} {c : MboxCmd}

theorem State.sendCmd_of (h : s.takeCmd i 0x41 = some (c, s1)) :
    s.sendCmd i = s.sendJudged c.desc (s1.spaceRead (leAt c.desc 8 8) (leAt c.desc 4 2))
      (s1.sendCheck c.desc (s1.spaceRead (leAt c.desc 8 8) (leAt c.desc 4 2)).1
        (s1.spaceRead (leAt c.desc 8 8) (leAt c.desc 4 2)).2.1) := by
  rw [State.sendCmd, h]
  rfl

theorem State.identify_of (h : s.takeCmd i 0x42 = some (c, s1)) :
    s.identify i =
      (s1.devWrite (leAt c.desc 24 8) s1.identityRecord).mboxDone 0x42
        (if s1.anyUnmapped (leAt c.desc 24 8) s1.identityRecord.length then 0x0B else 0) := by
  rw [State.identify, h]
  dsimp only
  rw [State.recordWrite_ok]

theorem State.enroll_of (h : s.takeCmd i 0x43 = some (c, s1)) :
    s.enroll i = State.fellFinish
      (if s1.enrollStatus (s1.spaceRead (leAt c.desc 8 8) 97).2.1 = 0 then
        (s1.spaceRead (leAt c.desc 8 8) 97).2.2.enrolled (s1.spaceRead (leAt c.desc 8 8) 97).1 c.origin
      else (s1.spaceRead (leAt c.desc 8 8) 97).2.2) c.desc
      { status := s1.enrollStatus (s1.spaceRead (leAt c.desc 8 8) 97).2.1 } := by
  rw [State.enroll, h]
  rfl

theorem State.enroll_refused {st : Nat} (h : s.takeCmd i 0x43 = some (c, s1))
    (hst : s1.enrollStatus (s1.spaceRead (leAt c.desc 8 8) 97).2.1 = st) (hne : st ≠ 0) :
    s.enroll i = (s1.spaceRead (leAt c.desc 8 8) 97).2.2.fellFinish c.desc { status := st } := by
  rw [State.enroll_of h, hst, if_neg hne]

theorem State.enroll_done (h : s.takeCmd i 0x43 = some (c, s1))
    (hst : s1.enrollStatus (s1.spaceRead (leAt c.desc 8 8) 97).2.1 = 0) :
    s.enroll i = ((s1.spaceRead (leAt c.desc 8 8) 97).2.2.enrolled (s1.spaceRead (leAt c.desc 8 8) 97).1 c.origin).fellFinish
      c.desc { status := 0 } := by
  rw [State.enroll_of h, hst, if_pos rfl]

variable {d : List Byte} {r : List Byte × SpaceErr × State} {st : Nat}

theorem State.sendJudged_goes (hst : st = 0)
    (h : s.linkUp (byteAt d 1) = false ∨ s.turn3 (byteAt d 1) (some (byteAt d 2)) (leAt d 4 2) = true) :
    s.sendJudged d r st = (r.2.2.sendOut (byteAt d 1) (byteAt d 3 % 2 == 1) r.1).fellFinish d { status := 0 } := by
  subst hst
  have hgo : ¬(0 = 0 ∧ s.linkUp (byteAt d 1) = true ∧
      (!s.turn3 (byteAt d 1) (some (byteAt d 2)) (leAt d 4 2)) = true) := by
    rcases h with h | h <;> simp [h]
  exact if_neg hgo

theorem State.sendJudged_waits (hst : st = 0) (hup : s.linkUp (byteAt d 1) = true)
    (hturn : s.turn3 (byteAt d 1) (some (byteAt d 2)) (leAt d 4 2) = false) : s.sendJudged d r st = s :=
  if_pos ⟨hst, hup, by rw [hturn]; rfl⟩

theorem State.sendJudged_fails (hst : st ≠ 0) : s.sendJudged d r st = r.2.2.fellFinish d { status := st } := by
  refine (if_neg fun h => hst h.1).trans ?_
  rw [if_neg hst]

end

/-! ## Event queues and DMA channels (R380, R385) -/

/-- A read of a queue that is empty: zero in all four words. -/
def State.evqReadZero (s : State) (q : Nat) : State :=
  (((s.latchW (Reg.GCTL_EVQ_w5 q) 0).latchW (Reg.GCTL_EVQ_w6 q) 0).latchW (Reg.GCTL_EVQ_w7 q) 0).emit
    (.read (Reg.GCTL_EVQ_w4 q) 0)

section
variable {s : State} {q n : Nat} {d : HostDesc}

theorem State.evqRead_empty (hq : q < 16) (h : s.evq q = []) : s.evqRead q = s.evqReadZero q := by
  rw [State.evqRead, if_neg (by omega), h]
  rfl

theorem State.evqRead_entry {e : EvEntry} {t : List EvEntry} (hq : q < 16) (h : s.evq q = e :: t) :
    let s1 := { s with mgmt.evq := Tbl.put s.mgmt.evq q t }
    let s2 := ((s1.latchW (Reg.GCTL_EVQ_w5 q) e.sec).latchW (Reg.GCTL_EVQ_w6 q) e.ns).latchW (Reg.GCTL_EVQ_w7 q) e.arg
    let s3 := s2.emit (.read (Reg.GCTL_EVQ_w4 q) (BitVec.ofNat 32 (e.cause % 256 + e.argx % 256 * 256 + e.gen % 65536 * 65536)))
    s.evqRead q = if !t.isEmpty && s3.evqEn q then s3.vector (s3.rw (Reg.GCTL_EVQ_w0 q) 10 0) else s3 := by
  intro s1 s2 s3
  rw [State.evqRead, if_neg (by omega), h]

theorem State.dmaStop_busy {err : Nat} (h : (s.dmaCh n).busy = true) :
    s.dmaStop n err = (s.setDmaCh n { s.dmaCh n with busy := false, err := err }).dmaPost n := if_pos h

theorem State.dmaGo_idle (hn : n < 4) (h : (s.dmaCh n).busy = false) :
    s.dmaGo n = s.setDmaCh n { s.dmaCh n with
      busy := true, err := 0, next := (s.rwW (Reg.GCTL_DMA_w1 n)).toNat * 2 ^ 32 + (s.rwW (Reg.GCTL_DMA_w0 n)).toNat } := by
  have hgo : ¬(4 ≤ n ∨ (s.dmaCh n).busy = true) := by simp [h]; omega
  exact if_neg hgo

theorem State.dmaDescDone_fails (hn : n < 4) (h : (s.dmaCh n).busy = true) (herr : (s.dmaMove d).1 ≠ 0) :
    s.dmaDescDone n d = (s.dmaMove d).2.dmaStop n (s.dmaMove d).1 := by
  have hgo : ¬(4 ≤ n ∨ (!(s.dmaCh n).busy) = true) := by simp [h]; omega
  exact (if_neg hgo).trans (if_pos herr)

theorem State.dmaDescDone_moves (hn : n < 4) (h : (s.dmaCh n).busy = true) (herr : (s.dmaMove d).1 = 0) :
    let x := (s.dmaMove d).2.dmaCh n
    let y := { x with busy := !d.last, done := (x.done + 1) % 65536, next := if d.last then x.next else d.next }
    s.dmaDescDone n d =
      if d.irq then ((s.dmaMove d).2.setDmaCh n y).dmaPost n else (s.dmaMove d).2.setDmaCh n y := by
  have hgo : ¬(4 ≤ n ∨ (!(s.dmaCh n).busy) = true) := by simp [h]; omega
  exact (if_neg hgo).trans (if_neg (not_not_intro herr))

end

/-- Settles O59: each command on the outcome of its read and its checks. -/
theorem mailboxEventQueuesAndDmaAct : Obligations.MailboxEventQueuesAndDmaAct := by
  unfold Obligations.MailboxEventQueuesAndDmaAct
  refine ⟨?mbox, fun s s1 i c => ⟨?send, ?identify, ?enroll⟩, ?evq, ?dma, ?smbus⟩
  case mbox =>
    intro s hi hready
    dsimp only
    refine ⟨?_, ?_, ?_⟩
    · exact fun hfull => congrArg Host.Outcome.next (State.mboxSubmit_full hready hfull)
    · exact fun hroom hue => congrArg Host.Outcome.next
        ((State.mboxSubmit_reads hready hroom).trans (State.mboxTake_ue hue))
    · exact fun hroom hue => ⟨
        fun hcmd => congrArg Host.Outcome.next
          ((State.mboxSubmit_reads hready hroom).trans (State.mboxTake_known hue hcmd)),
        fun hcmd => congrArg Host.Outcome.next
          ((State.mboxSubmit_reads hready hroom).trans (State.mboxTake_unknown hue hcmd))⟩
  case send =>
    intro htake
    dsimp only
    refine ⟨?_, ?_, ?_⟩
    · exact fun hst hturn => congrArg Host.Outcome.next ((State.sendCmd_of htake).trans (State.sendJudged_goes hst hturn))
    · exact fun hst hup hturn => congrArg Host.Outcome.next
        ((State.sendCmd_of htake).trans (State.sendJudged_waits hst hup hturn))
    · exact fun hst => congrArg Host.Outcome.next ((State.sendCmd_of htake).trans (State.sendJudged_fails hst))
  case identify => exact fun htake => congrArg Host.Outcome.next (State.identify_of htake)
  case enroll =>
    intro htake
    dsimp only
    have hrefused {st : Nat} (hst : s1.enrollStatus (s1.spaceRead (leAt c.desc 8 8) 97).2.1 = st) (hne : st ≠ 0) :=
      congrArg (Host.Outcome.next (φ := Fault) (ρ := Refusal)) (State.enroll_refused htake hst hne)
    refine ⟨?_, ?_, ?_⟩
    · exact fun hj => hrefused (if_pos hj) (by decide)
    · exact fun hj ho => hrefused (by rw [State.enrollStatus, hj, ho]; rfl) (by decide)
    · refine fun hj ho => ⟨fun he => ?_, fun he => ?_, fun he => ?_⟩
      · exact hrefused (by rw [State.enrollStatus, hj, ho, he]; rfl) (by decide)
      · exact hrefused (by rw [State.enrollStatus, hj, ho, he]; rfl) (by decide)
      · exact congrArg Host.Outcome.next
          (State.enroll_done htake (by rw [State.enrollStatus, hj, ho, he]; rfl))
  case evq =>
    refine fun s q hq => ⟨fun e t h => congrArg Host.Outcome.next (State.evqRead_entry hq h), fun h => ?_⟩
    exact ⟨s.evqReadZero q, congrArg Host.Outcome.next (State.evqRead_empty hq h), rfl, rfl, rfl, rfl⟩
  case dma =>
    intro s n d hn
    dsimp only
    refine ⟨fun h => congrArg Host.Outcome.next (State.dmaGo_idle hn h), fun h => ⟨?_, ?_, ?_, ?_⟩⟩
    · exact congrArg Host.Outcome.next (if_pos (Or.inr h))
    · exact congrArg Host.Outcome.next (State.dmaStop_busy h)
    · exact fun herr => congrArg Host.Outcome.next (State.dmaDescDone_fails hn h herr)
    · exact fun herr => congrArg Host.Outcome.next (State.dmaDescDone_moves hn h herr)
  case smbus =>
    exact fun s off val => ⟨fun h => congrArg Host.Outcome.next (if_pos h), rfl⟩

end Sys2Proof.Machine
end

section
/-! What only boot steps, resets and samples change: a state's standing, and that every other operation of the block keeps it. -/
namespace Sys2Proof.Machine

/-! ## Standing -/

/-- What only boot steps, resets and samples change: the tick count and its phase, the boot's stage and identity, the temperatures
read, and whether a board reset is due. -/
structure Standing where
  tick : Nat
  running : Bool
  phase : Nat
  stage : Nat
  ready : Bool
  booting : Option ColdEnv
  svn : Nat
  fwDigest : List Byte
  modelKeys : Tbl (List Byte)
  temps : List Nat
  vreset : Bool

/-- A state's standing. -/
def State.standing (s : State) : Standing where
  tick := s.time.tick
  running := s.time.running
  phase := s.time.phase
  stage := s.mgmt.stage
  ready := s.mgmt.ready
  booting := s.mgmt.booting
  svn := s.mgmt.svn
  fwDigest := s.mgmt.fwDigest
  modelKeys := s.mgmt.modelKeys
  temps := s.power.temps
  vreset := s.power.vreset

section
variable (s : State)
@[simp] theorem State.tick_eq : s.time.tick = s.standing.tick := rfl
@[simp] theorem State.running_eq : s.time.running = s.standing.running := rfl
@[simp] theorem State.phase_eq : s.time.phase = s.standing.phase := rfl
@[simp] theorem State.stage_eq : s.mgmt.stage = s.standing.stage := rfl
@[simp] theorem State.ready_eq : s.mgmt.ready = s.standing.ready := rfl
@[simp] theorem State.booting_eq : s.mgmt.booting = s.standing.booting := rfl
@[simp] theorem State.svn_eq : s.mgmt.svn = s.standing.svn := rfl
@[simp] theorem State.fwDigest_eq : s.mgmt.fwDigest = s.standing.fwDigest := rfl
@[simp] theorem State.modelKeys_eq : s.mgmt.modelKeys = s.standing.modelKeys := rfl
@[simp] theorem State.temps_eq : s.power.temps = s.standing.temps := rfl
@[simp] theorem State.vreset_eq : s.power.vreset = s.standing.vreset := rfl
end

@[simp] theorem Standing.eta (c : Standing) :
    Standing.mk c.tick c.running c.phase c.stage c.ready c.booting c.svn c.fwDigest c.modelKeys c.temps c.vreset = c := rfl

@[simp] theorem State.standing_mk {pending freeCtr out time regs frames heads starts msgs convs cache replies pairs handles cores
    flights dmas fevals runs ctxs boom eports lports quads dies units twin mgmt power} :
    State.standing ⟨pending, freeCtr, out, time, regs, frames, heads, starts, msgs, convs, cache, replies, pairs, handles, cores,
      flights, dmas, fevals, runs, ctxs, boom, eports, lports, quads, dies, units, twin, mgmt, power⟩ =
    ⟨time.tick, time.running, time.phase, mgmt.stage, mgmt.ready, mgmt.booting, mgmt.svn, mgmt.fwDigest, mgmt.modelKeys,
      power.temps, power.vreset⟩ := rfl

/-- A record update outside TIME, the management block and the power block. -/
theorem State.standing_upd (s : State) {pending freeCtr out regs frames heads starts msgs convs cache replies pairs handles cores
    flights dmas fevals runs ctxs boom eports lports quads dies units twin} :
    State.standing ⟨pending, freeCtr, out, s.time, regs, frames, heads, starts, msgs, convs, cache, replies, pairs, handles, cores,
      flights, dmas, fevals, runs, ctxs, boom, eports, lports, quads, dies, units, twin, s.mgmt, s.power⟩ = s.standing := rfl

@[simp] theorem State.standing_foldl {α : Type} (f : State → α → State) (l : List α) (s : State)
    (hf : ∀ t a, (f t a).standing = t.standing) : (l.foldl f s).standing = s.standing := by
  induction l generalizing s with
  | nil => rfl
  | cons a l ih => exact (ih (f s a)).trans (hf s a)

@[simp] theorem State.standing_foldl_snd {α β : Type} (f : β × State → α → β × State) (l : List α) (b : β × State)
    (hf : ∀ t a, (f t a).2.standing = t.2.standing) : (l.foldl f b).2.standing = b.2.standing := by
  induction l generalizing b with
  | nil => rfl
  | cons a l ih => exact (ih (f b a)).trans (hf b a)

@[simp] theorem State.standing_ite {c : Prop} [Decidable c] (a b : State) :
    (if c then a else b).standing = if c then a.standing else b.standing := apply_ite ..

@[simp] theorem State.standing_ite_snd {c : Prop} [Decidable c] {β : Type} (a b : β × State) :
    (if c then a else b).2.standing = if c then a.2.standing else b.2.standing := by split <;> rfl

/-- A step that is made only where a condition holds. -/
theorem State.standing_when {c : Prop} [Decidable c] {t u : State} (h : u.standing = t.standing) :
    (if c then u else t).standing = t.standing := by
  split
  · exact h
  · rfl

/-- Steps of which each may fail, folded until one does. -/
theorem State.standing_foldl_bind {α : Type} (f : State → α → Option State) (l : List α) (s : State) {t : State}
    (hf : ∀ s a t, f s a = some t → t.standing = s.standing)
    (ht : l.foldl (fun r a => r.bind (fun s => f s a)) (some s) = some t) : t.standing = s.standing := by
  have hnone (l : List α) : l.foldl (fun r a => r.bind (fun s => f s a)) (none : Option State) = none := by
    induction l with
    | nil => rfl
    | cons a l ih => exact ih
  induction l generalizing s with
  | nil => rw [← Option.some.inj ht]
  | cons a l ih =>
    rw [List.foldl_cons, Option.bind_some] at ht
    cases hfa : f s a with
    | some u => exact (ih u (hfa ▸ ht)).trans (hf s a u hfa)
    | none =>
      rw [hfa, hnone] at ht
      cases ht

theorem State.standing_getD {o : Option State} {d : State} {v : Standing} (ho : ∀ t, o = some t → t.standing = v)
    (hd : d.standing = v) : (o.getD d).standing = v := by
  cases o with
  | none => exact hd
  | some t => exact ho t rfl

/-! ## Operations of DevMem -/

@[simp] theorem State.standing_setRw (s : State) (off : Nat) (w : Word) :
    (s.setRw off w).standing = s.standing := by simp [State.setRw]

@[simp] theorem State.standing_count (s : State) (off : Nat) :
    (s.count off).standing = s.standing := by simp [State.count]

@[simp] theorem State.standing_countN (s : State) (off : Nat) (x : Nat) :
    (s.countN off x).standing = s.standing := by
  induction x generalizing s with
  | zero => rfl
  | succ n ih => exact (ih (s.count off)).trans (s.standing_count off)

@[simp] theorem State.standing_peak (s : State) (off hi lo v : Nat) :
    (s.peak off hi lo v).standing = s.standing := by simp [State.peak]

@[simp] theorem State.standing_emit (s : State) (o : Out) :
    (s.emit o).standing = s.standing := by simp [State.emit]

@[simp] theorem State.standing_drawNat (s : State) (n : Nat) :
    (s.drawNat n).2.standing = s.standing := by simp [State.drawNat]

@[simp] theorem State.standing_setDie (s : State) (d : Nat) (x : DieSt) :
    (s.setDie d x).standing = s.standing := by simp [State.setDie]

@[simp] theorem State.standing_dramWrite (s : State) (a : Nat) (b : Byte) :
    (s.dramWrite a b).standing = s.standing := by
  unfold State.dramWrite
  repeat' split
  all_goals simp

@[simp] theorem State.standing_healWord (s : State) (a : Nat) :
    (s.healWord a).standing = s.standing := by
  unfold State.healWord
  repeat' split
  all_goals simp

@[simp] theorem State.standing_devWrite (s : State) (a : Nat) (x : List Byte) :
    (s.devWrite a x).standing = s.standing := by
  induction x generalizing s a with
  | nil => rfl
  | cons b t ih =>
    refine (ih _ (a + 1)).trans ?_
    simp

@[simp] theorem State.standing_recordWrite (s : State) (a : Nat) (b : List Byte) (status : Nat) :
    (s.recordWrite a b status).2.standing = s.standing := by simp [State.recordWrite]

@[simp] theorem State.standing_mirrorWord (s : State) (a : Nat) :
    (s.mirrorWord a).standing = s.standing := by
  unfold State.mirrorWord
  repeat' split
  all_goals simp

@[simp] theorem State.standing_mirrorHeal (s : State) (a n : Nat) :
    (s.mirrorHeal a n).standing = s.standing := by simp [State.mirrorHeal]

/-! ## Operations of Ops -/

@[simp] theorem State.standing_vector (s : State) (n : Nat) :
    (s.vector n).standing = s.standing := by simp [State.vector]

@[simp] theorem State.standing_postV (s : State) (q idx : Nat) (items : List (Nat × Nat)) (vec : Option Nat) :
    (s.postV q idx items vec).standing = s.standing := by simp [State.postV]

@[simp] theorem State.standing_post (s : State) (q idx : Nat) (items : List (Nat × Nat)) :
    (s.post q idx items).standing = s.standing := by simp [State.post]

@[simp] theorem State.standing_mboxDone (s : State) (cmd status : Nat) :
    (s.mboxDone cmd status).standing = s.standing := by simp [State.mboxDone]

@[simp] theorem State.standing_modelDone (s : State) (handle status cmd : Nat) :
    (s.modelDone handle status cmd).standing = s.standing := by simp [State.modelDone]

@[simp] theorem State.standing_gateEvent (s : State) (cause lport : Nat) :
    (s.gateEvent cause lport).standing = s.standing := by simp [State.gateEvent]

@[simp] theorem State.standing_healSram (s : State) (d o n : Nat) :
    (s.healSram d o n).standing = s.standing := by simp [State.healSram]

@[simp] theorem State.standing_healSpans (s : State) (d : Nat) (l : List (Nat × Nat)) :
    (s.healSpans d l).standing = s.standing := by simp [State.healSpans]

@[simp] theorem State.standing_makeRoom (s : State) :
    (s.makeRoom).standing = s.standing := by simp [State.makeRoom]

@[simp] theorem State.standing_drainJrnl (s : State) (x : Nat) :
    (s.drainJrnl x).standing = s.standing := by
  induction x generalizing s with
  | zero => rfl
  | succ fuel ih =>
    unfold State.drainJrnl
    dsimp only
    split
    · rfl
    · split
      · rfl
      · exact (ih _).trans (by simp)

@[simp] theorem State.standing_refillJrnl (s : State) (x : Nat) :
    (s.refillJrnl x).standing = s.standing := by
  induction x generalizing s with
  | zero => rfl
  | succ fuel ih =>
    unfold State.refillJrnl
    split
    · rfl
    · split
      · exact (ih _).trans rfl
      · rfl

@[simp] theorem State.standing_jrnlLevels (s : State) :
    (s.jrnlLevels).standing = s.standing := by
  simp only [State.jrnlLevels]
  repeat' split
  all_goals simp

@[simp] theorem State.standing_settleJrnl (s : State) :
    (s.settleJrnl).standing = s.standing := by simp [State.settleJrnl]

@[simp] theorem State.standing_journal (s : State) (kind sub target : Nat) (value : Option (List Byte)) (origin : Nat) :
    (s.journal kind sub target value origin).standing = s.standing := by simp [State.journal]

@[simp] theorem State.standing_setEp (s : State) (e : Nat) (p : EPort) :
    (s.setEp e p).standing = s.standing := by simp [State.setEp]

@[simp] theorem State.standing_setLp (s : State) (l : Nat) (p : LPort) :
    (s.setLp l p).standing = s.standing := by simp [State.setLp]

/-! ## Operations of Reply -/

@[simp] theorem State.standing_addReply (s : State) (r : Reply) :
    (s.addReply r).standing = s.standing := by simp [State.addReply]

@[simp] theorem State.standing_answerW (s : State) (warn : Bool) (org : Origin) (frames : List Nat) (status detail info : Nat)
    (counted : Bool) :
    (s.answerW warn org frames status detail info counted).standing = s.standing := by
  unfold State.answerW
  repeat' split
  all_goals simp

/-! ## Operations of LinkTx -/

@[simp] theorem State.standing_freeTx (s : State) (e : Nat) :
    (s.freeTx e).standing = s.standing := by
  unfold State.freeTx
  repeat' split
  all_goals simp

@[simp] theorem State.standing_occupy (s : State) (e n : Nat) :
    (s.occupy e n).standing = s.standing := by simp [State.occupy]

@[simp] theorem State.standing_putFrame (s : State) (e : Nat) (bytes : List Byte) (good : Bool) (left : Nat) :
    (s.putFrame e bytes good left).standing = s.standing := by simp [State.putFrame]

@[simp] theorem State.standing_linkOpen (s : State) (e : Nat) (rest : List Byte) (good : Bool) (bseq : Option Nat) :
    (s.linkOpen e rest good bseq).2.standing = s.standing := by simp [State.linkOpen]

@[simp] theorem State.standing_linkStart (s : State) (e : Nat) (rest : List Byte) (good : Bool) (bseq : Option Nat) (left : Nat) :
    (s.linkStart e rest good bseq left).standing = s.standing := by simp [State.linkStart]

@[simp] theorem State.standing_linkClose (s : State) (e : Nat) (rest : List Byte) (good : Bool) :
    (s.linkClose e rest good).standing = s.standing := by simp [State.linkClose]

@[simp] theorem State.standing_linkCut (s : State) (e : Nat) :
    (s.linkCut e).standing = s.standing := by simp [State.linkCut]

@[simp] theorem State.standing_sendFrame (s : State) (e : Nat) (bytes : List Byte) (good : Bool) (left : Nat) :
    (s.sendFrame e bytes good left).standing = s.standing := by simp [State.sendFrame]

@[simp] theorem State.standing_endFrame (s : State) (e : Nat) (bytes : List Byte) (good : Bool) :
    (s.endFrame e bytes good).standing = s.standing := by simp [State.endFrame]

@[simp] theorem State.standing_linkVoid (s : State) (e : Nat) (h : LinkHeld) :
    (s.linkVoid e h).standing = s.standing := by simp [State.linkVoid]

/-! ## Operations of Egress -/

@[simp] theorem State.standing_markReady (s : State) :
    (s.markReady).standing = s.standing := by simp [State.markReady]

@[simp] theorem State.standing_flushPfc (s : State) (e : Nat) :
    (s.flushPfc e).standing = s.standing := by
  unfold State.flushPfc
  split <;> simp

@[simp] theorem State.standing_drainWait (s : State) (l : Nat) (x : Nat) :
    (s.drainWait l x).standing = s.standing := by
  induction x generalizing s with
  | zero => rfl
  | succ fuel ih =>
    unfold State.drainWait
    repeat' split
    all_goals simp [ih]

/-! ## Operations of Parser -/

@[simp] theorem State.standing_putPfc (s : State) (e : Nat) (ps : List Nat) (pause : Bool) :
    (s.putPfc e ps pause).standing = s.standing := by simp [State.putPfc]

@[simp] theorem State.standing_pfcRelease (s : State) (e : Nat) :
    (s.pfcRelease e).standing = s.standing := by simp [State.pfcRelease]

@[simp] theorem State.standing_regap (s : State) (k : Nat) :
    (s.regap k).standing = s.standing := by simp [State.regap]

@[simp] theorem State.standing_creditBack (s : State) (e n : Nat) :
    (s.creditBack e n).standing = s.standing := by simp [State.creditBack]

@[simp] theorem State.standing_noMatch (s : State) (n : Nat) (f : Frame) :
    (s.noMatch n f).standing = s.standing := by simp [State.noMatch]

@[simp] theorem State.standing_setFrame (s : State) (n : Nat) (f : Frame) :
    (s.setFrame n f).standing = s.standing := by
  simp only [State.setFrame]
  repeat' split
  all_goals simp

/-! ## Operations of Place -/

@[simp] theorem State.standing_setHandle (s : State) (h : Nat) (x : Handle) :
    (s.setHandle h x).standing = s.standing := by simp [State.setHandle]

@[simp] theorem State.standing_modVer (s : State) (h n : Nat) (f : Version → Version) :
    (s.modVer h n f).standing = s.standing := by simp [State.modVer]

@[simp] theorem State.standing_degraded (s : State) (h : Nat) (v : Version) :
    (s.degraded h v).standing = s.standing := by simp [State.degraded]

@[simp] theorem State.standing_setCore (s : State) (p : Nat) (c : Core) :
    (s.setCore p c).standing = s.standing := by simp [State.setCore]

@[simp] theorem State.standing_ctxFail (s : State) (k cause pos : Nat) :
    (s.ctxFail k cause pos).standing = s.standing := by
  unfold State.ctxFail
  split <;> simp

/-! ## Operations of Msg -/

@[simp] theorem State.standing_setMsg (s : State) (n : Nat) (m : Msg) :
    (s.setMsg n m).standing = s.standing := by simp [State.setMsg]

@[simp] theorem State.standing_setReply (s : State) (n : Nat) (r : Reply) :
    (s.setReply n r).standing = s.standing := by simp [State.setReply]

@[simp] theorem State.standing_setConv (s : State) (c : Nat) (x : Conv) :
    (s.setConv c x).standing = s.standing := by simp [State.setConv]

@[simp] theorem State.standing_pairJobs (s : State) (n : Nat) (f : PairJob → List PairJob) :
    (s.pairJobs n f).standing = s.standing := by simp [State.pairJobs]

@[simp] theorem State.standing_pairDrop (s : State) (n : Nat) :
    (s.pairDrop n).standing = s.standing := by simp [State.pairDrop]

@[simp] theorem State.standing_unhook (s : State) (n : Nat) :
    (s.unhook n).standing = s.standing := by simp [State.unhook]

@[simp] theorem State.standing_endMsg (s : State) (n : Nat) :
    (s.endMsg n).standing = s.standing := by
  unfold State.endMsg
  repeat' split
  all_goals simp

@[simp] theorem State.standing_undoOpening (s : State) (c : Nat) :
    (s.undoOpening c).standing = s.standing := by
  simp only [State.undoOpening]
  repeat' split
  all_goals simp

@[simp] theorem State.standing_failMsg (s : State) (n cause : Nat) :
    (s.failMsg n cause).standing = s.standing := by
  unfold State.failMsg
  repeat' split
  all_goals simp

@[simp] theorem State.standing_answerMsg (s : State) (n status detail info : Nat) :
    (s.answerMsg n status detail info).standing = s.standing := by
  unfold State.answerMsg
  split <;> simp

@[simp] theorem State.standing_freeCtx (s : State) (k : Nat) :
    (s.freeCtx k).standing = s.standing := by
  unfold State.freeCtx
  repeat' split
  all_goals simp

@[simp] theorem State.standing_closeCtx (s : State) (k : Nat) :
    (s.closeCtx k).standing = s.standing := by
  unfold State.closeCtx
  split <;> simp

/-! ## Operations of Kwain -/

@[simp] theorem State.standing_twinTo (s : State) (st reason origin : Nat) :
    (s.twinTo st reason origin).standing = s.standing := by simp [State.twinTo]

@[simp] theorem State.standing_kwain (s : State) (r : TwinRec) :
    (s.kwain r).standing = s.standing := by simp [State.kwain]

@[simp] theorem State.standing_twinAgain (s : State) (r : Reply) (bad rel : Bool) :
    (s.twinAgain r bad rel).standing = s.standing := by
  unfold State.twinAgain
  split <;> simp

/-! ## Operations of Gate -/

@[simp] theorem State.standing_gc (s : State) :
    (s.gc).standing = s.standing := by simp [State.gc]

@[simp] theorem State.standing_postFrame (s : State) (n : Nat) (f : Frame) :
    (s.postFrame n f).standing = s.standing := by simp [State.postFrame]

@[simp] theorem State.standing_postCauses (s : State) :
    (s.postCauses).standing = s.standing := by simp [State.postCauses]

@[simp] theorem State.standing_twinFreed (s : State) (r : Reply) :
    (s.twinFreed r).standing = s.standing := by simp [State.twinFreed]

@[simp] theorem State.standing_clearTx (s : State) (n : Nat) :
    (s.clearTx n).standing = s.standing := by simp [State.clearTx]

@[simp] theorem State.standing_stompFrame (s : State) (n : Nat) (r : Reply) :
    (s.stompFrame n r).standing = s.standing := by
  unfold State.stompFrame
  split <;> simp

@[simp] theorem State.standing_decideBad (s : State) (n : Nat) (r : Reply) (c : Nat) :
    (s.decideBad n r c).standing = s.standing := by
  unfold State.decideBad
  repeat' split
  all_goals simp

@[simp] theorem State.standing_rerunFrame (s : State) (n : Nat) :
    (s.rerunFrame n).standing = s.standing := by
  unfold State.rerunFrame
  split
  · rfl
  · dsimp only
    refine (State.standing_foldl _ _ _ fun t k => t.standing_regap k).trans ((State.standing_upd _).trans ?_)
    refine (State.standing_foldl _ _ _ fun t k => ?_).trans rfl
    refine (State.standing_upd _).trans ((State.standing_unhook _ _).trans ?_)
    repeat' split
    all_goals simp

@[simp] theorem State.standing_rerunAll (s : State) :
    (s.rerunAll).standing = s.standing := by simp [State.rerunAll]

@[simp] theorem State.standing_settleReply (s : State) (n : Nat) :
    (s.settleReply n).standing = s.standing := by
  unfold State.settleReply
  repeat' split
  all_goals simp

@[simp] theorem State.standing_settleMsg (s : State) (n : Nat) :
    (s.settleMsg n).standing = s.standing := by
  unfold State.settleMsg
  repeat' split
  all_goals simp

@[simp] theorem State.standing_settle (s : State) :
    (s.settle).standing = s.standing := by simp [State.settle]

@[simp] theorem State.standing_unitFail (s : State) (n : Nat) (final : Bool) :
    (s.unitFail n final).standing = s.standing := by
  unfold State.unitFail
  repeat' split
  all_goals simp

@[simp] theorem State.standing_egressFail (s : State) (r : Reply) :
    (s.egressFail r).standing = s.standing := by
  simp only [State.egressFail]
  repeat' split
  all_goals simp

@[simp] theorem State.standing_unsent (s : State) (n : Nat) (r : Reply) :
    (s.unsent n r).standing = s.standing := by
  simp only [State.unsent]
  repeat' split
  all_goals simp

@[simp] theorem State.standing_cutReply (s : State) (n e : Nat) (r : Reply) :
    (s.cutReply n e r).standing = s.standing := by simp [State.cutReply]

@[simp] theorem State.standing_egressLost (s : State) (e : Nat) :
    (s.egressLost e).standing = s.standing := by
  unfold State.egressLost
  repeat' split
  all_goals simp

@[simp] theorem State.standing_truncate (s : State) (n : Nat) :
    (s.truncate n).standing = s.standing := by
  unfold State.truncate
  split <;> simp

/-! ## Operations of ImageP -/

@[simp] theorem State.standing_loadCore (s : State) (h : Nat) (v : Version) (cp : ACopy) (i : Nat) (withLocal : Bool) :
    (s.loadCore h v cp i withLocal).standing = s.standing := by simp [State.loadCore]

@[simp] theorem State.standing_loadCopy (s : State) (h : Nat) (v : Version) (cp : ACopy) :
    (s.loadCopy h v cp).standing = s.standing := by simp [State.loadCopy]

@[simp] theorem State.standing_unloadCopy (s : State) (v : Version) (cp : ACopy) :
    (s.unloadCopy v cp).standing = s.standing := by simp [State.unloadCopy]

/-! ## Operations of Mbox -/

@[simp] theorem State.standing_modelFinish (s : State) (cmd origin record : Nat) (r : Rec) :
    (s.modelFinish cmd origin record r).standing = s.standing := by simp [State.modelFinish]

@[simp] theorem State.standing_freeVersion (s : State) (v : Version) :
    (s.freeVersion v).standing = s.standing := by simp [State.freeVersion]

@[simp] theorem State.standing_dropStaged (s : State) (h : Nat) :
    (s.dropStaged h).standing = s.standing := by
  unfold State.dropStaged
  split <;> simp

/-! ## Operations of Models -/

@[simp] theorem State.standing_recount (s : State) (h n : Nat) (f : Version → Version) :
    (s.recount h n f).standing = s.standing := by simp [State.recount]

theorem State.standing_tryReplace {s : State} (h : Nat) (v : Version) (c : Nat) {t : State}
    (ht : s.tryReplace h v c = some t) : t.standing = s.standing := by
  unfold State.tryReplace at ht
  split at ht
  · cases ht
  · split at ht
    · split at ht
      · obtain ⟨v1, -, rfl⟩ := Option.map_eq_some_iff.mp ht
        simp
      · obtain ⟨v1, -, rfl⟩ := Option.map_eq_some_iff.mp ht
        simp
      · cases ht
    · split at ht
      · dsimp only at ht
        split at ht
        all_goals
          obtain rfl := Option.some.inj ht
          simp
      · cases ht

/-! ## Operations of ArrayRun -/

@[simp] theorem State.standing_openWindow (s : State) (run : ArrayRun) (v : Version) (cp : ACopy) :
    (s.openWindow run v cp).standing = s.standing := by
  refine State.standing_foldl _ _ _ fun t i => ?_
  dsimp only
  split <;> simp

@[simp] theorem State.standing_openWindows (s : State) :
    (s.openWindows).standing = s.standing := by
  refine State.standing_foldl _ _ _ fun t r => ?_
  repeat' split
  all_goals simp

@[simp] theorem State.standing_dropTokens (s : State) (v : Version) (cp : ACopy) (r : ArrayRun) :
    (s.dropTokens v cp r).standing = s.standing := by simp [State.dropTokens]

@[simp] theorem State.standing_ctxOver (s : State) (k : Nat) (x : Ctx) (genDone : Bool) :
    (s.ctxOver k x genDone).standing = s.standing := by
  unfold State.ctxOver
  split <;> simp

@[simp] theorem State.standing_ctxSettle (s : State) (k : Nat) :
    (s.ctxSettle k).standing = s.standing := by
  unfold State.ctxSettle
  split <;> simp

@[simp] theorem State.standing_ctxSettles (s : State) :
    (s.ctxSettles).standing = s.standing := by simp [State.ctxSettles]

/-! ## Operations of Seq -/

@[simp] theorem State.standing_markTokens (s : State) :
    (s.markTokens).standing = s.standing := by simp [State.markTokens]

@[simp] theorem State.standing_seqFinish (s : State) (d : List Byte) (status k : Nat) (x : Option Ctx) :
    (s.seqFinish d status k x).standing = s.standing := by simp [State.seqFinish]

@[simp] theorem State.standing_genStarts (s : State) :
    (s.genStarts).standing = s.standing := rfl

/-! ## Operations of Ptp -/

@[simp] theorem State.standing_timeRecord (s : State) (r : TimeRec) :
    (s.timeRecord r).standing = s.standing := by simp [State.timeRecord]

@[simp] theorem State.standing_setPtp (s : State) (e : Nat) (x : PtpPort) :
    (s.setPtp e x).standing = s.standing := by simp [State.setPtp]

@[simp] theorem State.standing_egressStamp (s : State) (e : Nat) :
    (s.egressStamp e).2.standing = s.standing := by simp [State.egressStamp]

@[simp] theorem State.standing_send3 (s : State) (e : Nat) (prio : Option Nat) (bytes : List Byte) :
    (s.send3 e prio bytes).standing = s.standing := by simp [State.send3]

@[simp] theorem State.standing_linkGo (s : State) (e : Nat) (w : Wait) :
    (s.linkGo e w).standing = s.standing := by
  simp only [State.linkGo]
  repeat' split
  all_goals simp

@[simp] theorem State.standing_linkJob (s : State) (e : Nat) (w : Wait) :
    (s.linkJob e w).standing = s.standing := by simp [State.linkJob]

@[simp] theorem State.standing_ptpSend (s : State) (e : Nat) (peer event : Bool) (m : List Byte) :
    (s.ptpSend e peer event m).standing = s.standing := by simp [State.ptpSend]

@[simp] theorem State.standing_txts (s : State) (e ty seq : Nat) (t : Stamp) (m : List Byte) :
    (s.txts e ty seq t m).standing = s.standing := by simp [State.txts]

@[simp] theorem State.standing_ptpFresh (s : State) :
    (s.ptpFresh).standing = s.standing := by simp [State.ptpFresh]

@[simp] theorem State.standing_ptpAnswer (s : State) (e : Nat) (t : Stamp) (m : List Byte) :
    (s.ptpAnswer e t m).standing = s.standing := by simp [State.ptpAnswer]

@[simp] theorem State.standing_ptpReply (s : State) (e : Nat) (t : Stamp) (m : List Byte) :
    (s.ptpReply e t m).standing = s.standing := by simp [State.ptpReply]

@[simp] theorem State.standing_flushWait (s : State) (e : Nat) :
    (s.flushWait e).standing = s.standing := by
  unfold State.flushWait
  dsimp only
  split
  · simp
  · refine (State.standing_foldl _ _ _ fun t w => ?_).trans (by simp)
    repeat' split
    all_goals simp

@[simp] theorem State.standing_flushWaits (s : State) :
    (s.flushWaits).standing = s.standing := by simp [State.flushWaits]

@[simp] theorem State.standing_ptpDown (s : State) (e : Nat) :
    (s.ptpDown e).standing = s.standing := by simp [State.ptpDown]

/-! ## Operations of BoomNet -/

@[simp] theorem State.standing_hostOut (s : State) (frame : List Byte) :
    (s.hostOut frame).standing = s.standing := by
  unfold State.hostOut
  split <;> simp

@[simp] theorem State.standing_setHost (s : State) (m p : Nat) (x : BoomHost) :
    (s.setHost m p x).standing = s.standing := by simp [State.setHost]

@[simp] theorem State.standing_hostSendNow (s : State) (m p : Nat) (x : BoomHost) :
    (s.hostSendNow m p x).standing = s.standing := by simp [State.hostSendNow]

@[simp] theorem State.standing_hostSend (s : State) (m op epoch : Nat) (hop : Option Nat) (mk : Nat → List Byte) :
    (s.hostSend m op epoch hop mk).2.standing = s.standing := by simp [State.hostSend]

@[simp] theorem State.standing_hostMsg (s : State) (op m kind cause : Nat) (body : List Byte) :
    (s.hostMsg op m kind cause body).2.standing = s.standing := by
  unfold State.hostMsg
  split <;> simp

/-! ## Operations of Boom -/

@[simp] theorem State.standing_setEpoch (s : State) (op : Nat) (e : BoomEpoch) :
    (s.setEpoch op e).standing = s.standing := by simp [State.setEpoch]

@[simp] theorem State.standing_boomSend (s : State) (org : Origin) (fcs status : Nat) (res : List Byte) (nan sat : Bool) :
    (s.boomSend org fcs status res nan sat).standing = s.standing := by
  unfold State.boomSend
  split <;> simp

@[simp] theorem State.standing_boomDeliver (s : State) (op : Nat) (e : BoomEpoch) (o : BoomOut) :
    (s.boomDeliver op e o).standing = s.standing := by simp [State.boomDeliver]

@[simp] theorem State.standing_boomApply (s : State) (op : Nat) (o : BoomOut) :
    (s.boomApply op o).standing = s.standing := by
  unfold State.boomApply
  split <;> simp

@[simp] theorem State.standing_sendDecide (s : State) (op m : Nat) (o : BoomOut) :
    (s.sendDecide op m o).2.standing = s.standing := by
  unfold State.sendDecide
  split <;> simp

@[simp] theorem State.standing_decideFirst (s : State) (op : Nat) (o : BoomOut) :
    (s.decideFirst op o).standing = s.standing := by
  simp only [State.decideFirst]
  repeat' split
  all_goals simp

@[simp] theorem State.standing_boomDecide (s : State) (op : Nat) (ok : Bool) (cause : Nat) :
    (s.boomDecide op ok cause).standing = s.standing := by
  unfold State.boomDecide
  split <;> simp

@[simp] theorem State.standing_coordAbort (s : State) (op cause : Nat) (missing : List Nat) (fl : Nat) :
    (s.coordAbort op cause missing fl).standing = s.standing := by
  unfold State.coordAbort
  split <;> simp

@[simp] theorem State.standing_boomAbort (s : State) (op cause : Nat) (missing : List Nat) :
    (s.boomAbort op cause missing).standing = s.standing := by
  unfold State.boomAbort
  split <;> simp

@[simp] theorem State.standing_lostIn (s : State) (op m : Nat) :
    (s.lostIn op m).standing = s.standing := by
  unfold State.lostIn
  repeat' split
  all_goals simp

@[simp] theorem State.standing_memberLost (s : State) (m : Nat) :
    (s.memberLost m).standing = s.standing := by simp [State.memberLost]

@[simp] theorem State.standing_membersBack (s : State) :
    (s.membersBack).standing = s.standing := by simp [State.membersBack]

@[simp] theorem State.standing_boomFault (s : State) :
    (s.boomFault).standing = s.standing := by simp [State.boomFault]

/-! ## Operations of Links -/

@[simp] theorem State.standing_watchAxes (s old : State) :
    (s.watchAxes old).standing = s.standing := by simp [State.watchAxes]

@[simp] theorem State.standing_handOver (s : State) (e : Nat) :
    (s.handOver e).standing = s.standing := by simp [State.handOver]

@[simp] theorem State.standing_dropHeld (s : State) (e : Nat) :
    (s.dropHeld e).standing = s.standing := by simp [State.dropHeld]

@[simp] theorem State.standing_startFresh (s : State) (e : Nat) :
    (s.startFresh e).standing = s.standing := by simp [State.startFresh]

@[simp] theorem State.standing_loseWaiting (s : State) (n : Nat) :
    (s.loseWaiting n).standing = s.standing := by
  unfold State.loseWaiting
  repeat' split
  all_goals simp

@[simp] theorem State.standing_dropWaiting (s : State) (e : Nat) :
    (s.dropWaiting e).standing = s.standing := by simp [State.dropWaiting]

@[simp] theorem State.standing_outOfService (s : State) (e : Nat) (st reason : Nat) :
    (s.outOfService e st reason).standing = s.standing := by simp [State.outOfService]

@[simp] theorem State.standing_holdExpire (s : State) (e : Nat) :
    (s.holdExpire e).standing = s.standing := by simp [State.holdExpire]

@[simp] theorem State.standing_quarantineNote (s : State) (e reason : Nat) :
    (s.quarantineNote e reason).standing = s.standing := by simp [State.quarantineNote]

@[simp] theorem State.standing_portDown (s : State) (e : Nat) :
    (s.portDown e).standing = s.standing := by simp [State.portDown]

@[simp] theorem State.standing_portGone (s : State) (e : Nat) :
    (s.portGone e).standing = s.standing := by simp [State.portGone]

@[simp] theorem State.standing_linkDown (s : State) (e : Nat) :
    (s.linkDown e).standing = s.standing := by simp [State.linkDown]

@[simp] theorem State.standing_retransmit (s : State) (e : Nat) :
    (s.retransmit e).standing = s.standing := by simp [State.retransmit]

@[simp] theorem State.standing_takeAck (s : State) (e a : Nat) :
    (s.takeAck e a).standing = s.standing := by simp [State.takeAck]

@[simp] theorem State.standing_drainPort (s : State) (e : Nat) :
    (s.drainPort e).standing = s.standing := by simp [State.drainPort]

@[simp] theorem State.standing_quarantine (s : State) (e reason : Nat) :
    (s.quarantine e reason).standing = s.standing := by simp [State.quarantine]

@[simp] theorem State.standing_sendResume (s : State) (e units : Nat) :
    (s.sendResume e units).standing = s.standing := by simp [State.sendResume]

@[simp] theorem State.standing_roundTrip (s : State) (e at' : Nat) :
    (s.roundTrip e at').2.standing = s.standing := by
  simp only [State.roundTrip]
  repeat' split
  all_goals simp

@[simp] theorem State.standing_resumed (s : State) (e ack cred units at' : Nat) :
    (s.resumed e ack cred units at').standing = s.standing := by simp [State.resumed]

@[simp] theorem State.standing_enterService (s : State) (e : Nat) :
    (s.enterService e).standing = s.standing := by
  simp only [State.enterService]
  repeat' split
  all_goals simp

@[simp] theorem State.standing_recheck (s : State) (e : Nat) :
    (s.recheck e).standing = s.standing := by simp [State.recheck]

@[simp] theorem State.standing_recheckAll (s : State) :
    (s.recheckAll).standing = s.standing := by simp [State.recheckAll]

@[simp] theorem State.standing_differs (s : State) (e : Nat) :
    (s.differs e).standing = s.standing := by simp [State.differs]

@[simp] theorem State.standing_differsAll (s : State) :
    (s.differsAll).standing = s.standing := by simp [State.differsAll]

@[simp] theorem State.standing_egressTick (s : State) :
    (s.egressTick).standing = s.standing := by simp [State.egressTick]

@[simp] theorem State.standing_adoptPlan (s : State) (e : Nat) :
    (s.adoptPlan e).standing = s.standing := by simp [State.adoptPlan]

@[simp] theorem State.standing_adoptFrom (s : State) (e origin : Nat) :
    (s.adoptFrom e origin).standing = s.standing := by simp [State.adoptFrom]

/-! ## Operations of Commit -/

@[simp] theorem State.standing_stopShadows (s : State) (lanes : List (Nat × Nat × Nat)) :
    (s.stopShadows lanes).standing = s.standing := by simp [State.stopShadows]

@[simp] theorem State.standing_activate (s : State) (h : Nat) :
    (s.activate h).standing = s.standing := by
  simp only [State.activate]
  repeat' split
  all_goals simp

@[simp] theorem State.standing_unloadNow (s : State) (h : Nat) :
    (s.unloadNow h).standing = s.standing := by simp [State.unloadNow]

@[simp] theorem State.standing_armsApply (s : State) :
    (s.armsApply).standing = s.standing := by simp [State.armsApply]

@[simp] theorem State.standing_keepMode (s : State) (fell : Option (Nat × Nat × Nat)) (old : Bool) :
    (s.keepMode fell old).standing = s.standing := by simp [State.keepMode]

@[simp] theorem State.standing_modeChange (s : State) (new : Bool) (origin : Nat) :
    (s.modeChange new origin).standing = s.standing := by simp [State.modeChange]

theorem State.standing_twinTo_since (s : State) (t st reason origin : Nat) :
    (State.twinTo { s with twin.since := t } st reason origin).standing = s.standing :=
  (State.standing_twinTo ..).trans (State.standing_upd _)

@[simp] theorem State.standing_applySet (s : State) (c : Tbl Word) (origin : Nat) (arms : Bool) :
    (s.applySet c origin arms).standing = s.standing := by
  unfold State.applySet
  dsimp only
  rw [State.standing_settle, State.standing_watchAxes, State.standing_differsAll]
  rw [State.standing_when (State.standing_recheckAll _)]
  rw [State.standing_when (State.standing_twinTo_since ..)]
  rw [State.standing_settleJrnl, State.standing_journal]
  rw [State.standing_when (State.standing_armsApply _), State.standing_when (State.standing_modeChange ..)]
  rw [State.standing_foldl _ _ _ fun t e => State.standing_setEp ..]
  refine (State.standing_upd _).trans ?_
  exact State.standing_foldl _ _ _ fun t e => State.standing_portGone ..

@[simp] theorem State.standing_reject (s : State) (reason off : Nat) :
    (s.reject reason off).standing = s.standing := by simp [State.reject]

/-! ## Operations of TimeOps -/

@[simp] theorem State.standing_putRw (s : State) (off hi lo v : Nat) :
    (s.putRw off hi lo v).standing = s.standing := by simp [State.putRw]

@[simp] theorem State.standing_rebase (s : State) (x : Nat) :
    (s.rebase x).standing = s.standing := by simp [State.rebase]

@[simp] theorem State.standing_applyInc (s : State) :
    (s.applyInc).standing = s.standing := by
  unfold State.applyInc
  split <;> simp

@[simp] theorem State.standing_setTpo (s : State) (i : Nat) (x : Tpo) :
    (s.setTpo i x).standing = s.standing := by simp [State.setTpo]

@[simp] theorem State.standing_drive (s : State) (i : Nat) (level : Bool) :
    (s.drive i level).standing = s.standing := by
  unfold State.drive
  split <;> simp

@[simp] theorem State.standing_drivePins (s : State) (t : Tbl Tpo) (level : Bool) :
    (s.drivePins t level).standing = s.standing := by simp [State.drivePins]

@[simp] theorem State.standing_fire (s : State) (i next : Nat) (late : Bool) :
    (s.fire i next late).standing = s.standing := by simp [State.fire]

@[simp] theorem State.standing_quietPulse (s : State) (i : Nat) :
    (s.quietPulse i).standing = s.standing := by simp [State.quietPulse]

@[simp] theorem State.standing_tpoArm (s : State) (i : Nat) (val : Word) :
    (s.tpoArm i val).standing = s.standing := by simp [State.tpoArm]

@[simp] theorem State.standing_edgeDue (s : State) (i : Nat) :
    (s.edgeDue i).standing = s.standing := by simp [State.edgeDue]

@[simp] theorem State.standing_trailDue (s : State) (i : Nat) :
    (s.trailDue i).standing = s.standing := by simp [State.trailDue]

@[simp] theorem State.standing_pulsesAt (s : State) (r : Nat) :
    (s.pulsesAt r).standing = s.standing := by simp [State.pulsesAt]

@[simp] theorem State.standing_edgeBefore (s : State) (t i : Nat) :
    (s.edgeBefore t i).standing = s.standing := by simp [State.edgeBefore]

@[simp] theorem State.standing_pulsesBefore (s : State) :
    (s.pulsesBefore).standing = s.standing := by simp [State.pulsesBefore]

@[simp] theorem State.standing_stepPulse (s : State) (i : Nat) :
    (s.stepPulse i).standing = s.standing := by simp [State.stepPulse]

@[simp] theorem State.standing_pruneFelled (s : State) :
    (s.pruneFelled).standing = s.standing := by simp [State.pruneFelled]

@[simp] theorem State.standing_applyStep (s : State) :
    (s.applyStep).standing = s.standing := by
  unfold State.applyStep
  split <;> simp

@[simp] theorem State.standing_applyAdopt (s : State) :
    (s.applyAdopt).standing = s.standing := by
  unfold State.applyAdopt
  split <;> simp

@[simp] theorem State.standing_fellFinish (s : State) (d : List Byte) (r : Rec) :
    (s.fellFinish d r).standing = s.standing := by simp [State.fellFinish]

/-! ## Operations of Repair -/

@[simp] theorem State.standing_sendBeat (s : State) (leaving : Bool) :
    (s.sendBeat leaving).standing = s.standing := by
  simp only [State.sendBeat]
  repeat' split
  all_goals simp

@[simp] theorem State.standing_itemFail (s : State) (final : Bool) (n : Nat) :
    (s.itemFail final n).standing = s.standing := by
  unfold State.itemFail
  repeat' split
  all_goals simp

@[simp] theorem State.standing_leaveService (s : State) :
    (s.leaveService).standing = s.standing := by simp [State.leaveService]

@[simp] theorem State.standing_repairEntry (s : State) (e : MapEnt) (mark origin : Nat) :
    (s.repairEntry e mark origin).standing = s.standing := by simp [State.repairEntry]

@[simp] theorem State.standing_enterMap (s : State) (u : UnitId) (cause origin : Nat) :
    (s.enterMap u cause origin).standing = s.standing := by simp [State.enterMap]

@[simp] theorem State.standing_repaired (s : State) (u : UnitId) (cause origin : Nat) :
    (s.repaired u cause origin).standing = s.standing := by simp [State.repaired]

@[simp] theorem State.standing_failRun (s : State) (rid : Nat) (r : ArrayRun) (v : Version) (cp : ACopy) (final : Bool) :
    (s.failRun rid r v cp final).standing = s.standing := by
  unfold State.failRun
  repeat' split
  all_goals simp

@[simp] theorem State.standing_failCopy (s : State) (h : Nat) (v : Version) (c : Nat) (cp : ACopy) (keep final : Bool) :
    (s.failCopy h v c cp keep final).standing = s.standing := by simp [State.failCopy]

@[simp] theorem State.standing_stateLost (s : State) (h : Nat) (v : Version) (c : Nat) (cp : ACopy) :
    (s.stateLost h v c cp).2.standing = s.standing := by simp [State.stateLost]

@[simp] theorem State.standing_failSamples (s : State) (h n : Nat) (p : Nat → ForestRun → Bool) :
    (s.failSamples h n p).standing = s.standing := by simp [State.failSamples]

@[simp] theorem State.standing_badFevals (s : State) (h : Nat) (v : Version) (cs : List Nat) :
    (s.badFevals h v cs).standing = s.standing := by simp [State.badFevals]

@[simp] theorem State.standing_failLanes (s : State) (hit : Nat × Nat × Nat → Bool) :
    (s.failLanes hit).standing = s.standing := by simp [State.failLanes]

@[simp] theorem State.standing_loseArray (s : State) (h : Nat) (v : Version) (x : Lost) :
    (s.loseArray h v x).standing = s.standing := by simp [State.loseArray]

@[simp] theorem State.standing_loadEnds (s : State) (h : Nat) (r : Rec) :
    (s.loadEnds h r).standing = s.standing := by simp [State.loadEnds]

@[simp] theorem State.standing_stagedLost (s : State) (h : Nat) (v : Version) :
    (s.stagedLost h v).standing = s.standing := by simp [State.stagedLost]

@[simp] theorem State.standing_stagedBad (s : State) (h : Nat) (v : Version) :
    (s.stagedBad h v).standing = s.standing := by simp [State.stagedBad]

@[simp] theorem State.standing_planAgain (s : State) (h : Nat) (v : Version) :
    (s.planAgain h v).standing = s.standing := by
  simp only [State.planAgain]
  repeat' split
  all_goals simp

@[simp] theorem State.standing_restage (s : State) (hit : Bool) (h : Nat) :
    (s.restage hit h).standing = s.standing := by
  unfold State.restage
  split
  · rfl
  · dsimp only
    repeat' split
    · rfl
    · simp
    · simp
    · refine State.standing_getD (fun t ht => ?_) (by simp)
      refine (State.standing_foldl_bind _ _ _ (fun u c w hw => ?_) ht).trans (State.standing_mirrorHeal ..)
      split at hw
      · exact State.standing_tryReplace _ _ _ hw
      · cases hw

@[simp] theorem State.standing_restop (s : State) :
    (s.restop).standing = s.standing := by simp [State.restop]

@[simp] theorem State.standing_lose (s : State) (x : Lost) :
    (s.lose x).standing = s.standing := by simp [State.lose]

@[simp] theorem State.standing_retireCmpt (s : State) (d c cause origin : Nat) :
    (s.retireCmpt d c cause origin).standing = s.standing := by simp [State.retireCmpt]

@[simp] theorem State.standing_losePort (s : State) (d : Nat) :
    (s.losePort d).standing = s.standing := by simp [State.losePort]

@[simp] theorem State.standing_retireDie (s : State) (d cause origin : Nat) (port : Bool) :
    (s.retireDie d cause origin port).standing = s.standing := by simp [State.retireDie]

@[simp] theorem State.standing_stopCopies (s : State) (u : UnitId) (lost : List Nat) :
    (s.stopCopies u lost).standing = s.standing := by simp [State.stopCopies]

@[simp] theorem State.standing_shadowStop (s : State) (d e l : Nat) :
    (s.shadowStop d e l).standing = s.standing := by
  unfold State.shadowStop
  split <;> simp

@[simp] theorem State.standing_swapLanes (s : State) (d e a b : Nat) :
    (s.swapLanes d e a b).standing = s.standing := by simp [State.swapLanes]

@[simp] theorem State.standing_stopLane (s : State) (d e l : Nat) (stop : Bool) :
    (s.stopLane d e l stop).standing = s.standing := by simp [State.stopLane]

@[simp] theorem State.standing_markSuspect (s : State) (u : UnitId) :
    (s.markSuspect u).standing = s.standing := by simp [State.markSuspect]

@[simp] theorem State.standing_beginMove (s : State) (u : UnitId) (k : Nat) (test : Bool) (dead : List Nat) :
    (s.beginMove u k test dead).standing = s.standing := by
  simp only [State.beginMove]
  repeat' split
  all_goals simp

@[simp] theorem State.standing_replaceUnit (s : State) (u : UnitId) (origin : Nat) (dead : List Nat) :
    (s.replaceUnit u origin dead).standing = s.standing := by
  simp only [State.replaceUnit]
  repeat' split
  all_goals simp

@[simp] theorem State.standing_abandonOnto (s : State) (u : UnitId) (origin : Nat) :
    (s.abandonOnto u origin).standing = s.standing := by simp [State.abandonOnto]

@[simp] theorem State.standing_failUnit (s : State) (u : UnitId) (cause origin : Nat) (readable : Bool) :
    (s.failUnit u cause origin readable).standing = s.standing := by
  unfold State.failUnit
  repeat' split
  all_goals simp

@[simp] theorem State.standing_drainMove (s : State) (u : UnitId) (k : Nat) (test : Bool) :
    (s.drainMove u k test).standing = s.standing := by simp [State.drainMove]

@[simp] theorem State.standing_rprDone (s : State) (st : Nat) :
    (s.rprDone st).standing = s.standing := by simp [State.rprDone]

@[simp] theorem State.standing_takeOut (s : State) (u : UnitId) (origin : Nat) :
    (s.takeOut u origin).standing = s.standing := by
  simp only [State.takeOut]
  repeat' split
  all_goals simp

@[simp] theorem State.standing_retire (s : State) (u : UnitId) (origin : Nat) :
    (s.retire u origin).standing = s.standing := by simp [State.retire]

@[simp] theorem State.standing_unretire (s : State) (u : UnitId) (origin : Nat) :
    (s.unretire u origin).standing = s.standing := by
  unfold State.unretire
  repeat' split
  all_goals simp

@[simp] theorem State.standing_askTest (s : State) (u : UnitId) :
    (s.askTest u).standing = s.standing := by simp [State.askTest]

@[simp] theorem State.standing_rprCmd (s : State) (op : Nat) (w : Word) (origin : Nat) :
    (s.rprCmd op w origin).standing = s.standing := by simp [State.rprCmd]

/-! ## Operations of Memory -/

@[simp] theorem State.standing_startSweep (s : State) (d l : Nat) :
    (s.startSweep d l).standing = s.standing := by
  simp only [State.startSweep]
  repeat' split
  all_goals simp

@[simp] theorem State.standing_laneFailing (s : State) (d l : Nat) :
    (s.laneFailing d l).standing = s.standing := by simp [State.laneFailing]

/-! ## Operations of PowerOps -/

@[simp] theorem State.standing_plainWrite (s : State) (off : Nat) (val : Word) :
    (s.plainWrite off val).standing = s.standing := by simp [State.plainWrite]

@[simp] theorem State.standing_powerEntry (s : State) (code origin : Nat) :
    (s.powerEntry code origin).standing = s.standing := by simp [State.powerEntry]

@[simp] theorem State.standing_powerEvent (s : State) (idx : Nat) :
    (s.powerEvent idx).standing = s.standing := by simp [State.powerEvent]

@[simp] theorem State.standing_bootPlaces (s : State) :
    (s.bootPlaces).standing = s.standing := by
  refine State.standing_foldl _ _ _ fun t e => ?_
  dsimp only
  repeat' split
  all_goals simp

@[simp] theorem State.standing_applySettings (s : State) (b : List Byte) :
    (s.applySettings b).standing = s.standing := by simp [State.applySettings]

@[simp] theorem State.standing_failCmd (s : State) (c : MboxCmd) :
    (s.failCmd c).standing = s.standing := by simp [State.failCmd]

@[simp] theorem State.standing_failRunning (s : State) (r : Running) :
    (s.failRunning r).standing = s.standing := by simp [State.failRunning]

@[simp] theorem State.standing_failWaits (s : State) :
    (s.failWaits).standing = s.standing := by
  refine (State.standing_foldl _ _ _ fun t x => ?_).trans (State.standing_foldl _ _ _ fun t h => by simp)
  split <;> simp

@[simp] theorem State.standing_softReset (s : State) :
    (s.softReset).standing = s.standing := by simp [State.softReset]

@[simp] theorem State.standing_relink (s : State) (e : Nat) :
    (s.relink e).standing = s.standing := by simp [State.relink]

@[simp] theorem State.standing_softResetNow (s : State) :
    (s.softResetNow).standing = s.standing := by
  simp only [State.softResetNow]
  repeat' split
  all_goals simp

@[simp] theorem State.standing_quadReset (s : State) (mask : Nat) :
    (s.quadReset mask).standing = s.standing := by simp [State.quadReset]

@[simp] theorem State.standing_enterPower (s : State) (st : Nat) :
    (s.enterPower st).standing = s.standing := by simp [State.enterPower]

@[simp] theorem State.standing_idleDue (s : State) :
    (s.idleDue).standing = s.standing := by simp [State.idleDue]

@[simp] theorem State.standing_refusePower (s : State) (why : Nat) :
    (s.refusePower why).standing = s.standing := by simp [State.refusePower]

@[simp] theorem State.standing_drainAll (s : State) :
    (s.drainAll).standing = s.standing := by simp [State.drainAll]

@[simp] theorem State.standing_powerReq (s : State) (r origin : Nat) :
    (s.powerReq r origin).standing = s.standing := by
  simp only [State.powerReq]
  repeat' split
  all_goals simp

@[simp] theorem State.standing_warnAll (s : State) :
    (s.warnAll).standing = s.standing := by simp [State.warnAll]

@[simp] theorem State.standing_supplyHold (s : State) :
    (s.supplyHold).standing = s.standing := by simp [State.supplyHold]

/-! ## Operations of Boundary -/

@[simp] theorem State.standing_runAct (s : State) (a : MgmtAct) :
    (s.runAct a).standing = s.standing := by
  unfold State.runAct
  split <;> simp

@[simp] theorem State.standing_queueAct (s : State) (a : MgmtAct) :
    (s.queueAct a).standing = s.standing := by simp [State.queueAct]

@[simp] theorem State.standing_actNow (s : State) (a : MgmtAct) :
    (s.actNow a).standing = s.standing := by simp [State.actNow]

@[simp] theorem State.standing_mgmtDue (s : State) :
    (s.mgmtDue).standing = s.standing := by simp [State.mgmtDue]

@[simp] theorem State.standing_holdDue (s : State) :
    (s.holdDue).standing = s.standing := by simp [State.holdDue]

@[simp] theorem State.standing_boundaryDue (s : State) :
    (s.boundaryDue).standing = s.standing := by simp [State.boundaryDue]

/-! ## Operations of Time -/

@[simp] theorem State.standing_leaveTick (s : State) :
    (s.leaveTick).standing = s.standing := by simp [State.leaveTick]

@[simp] theorem State.standing_softTick (s : State) :
    (s.softTick).standing = s.standing := by simp [State.softTick]

end Sys2Proof.Machine
end

section
/-! The tick boundary (R21, R26, R286): what it leaves of a state's standing, and the raw counter. -/
namespace Sys2Proof.Machine

section
variable (s : State)

/-- What a boundary of the arithmetic domain does leaves the standing but for the count of ticks. -/
theorem State.standing_tickWork :
    s.tickWork.standing = { s.standing with tick := (s.standing.tick + 1) % 2 ^ 64 } := by
  simp [State.tickWork]

theorem State.standing_rawTick : s.rawTick.standing = s.standing := by
  unfold State.rawTick State.atRaw
  dsimp only
  repeat' split
  all_goals simp

theorem State.vresetTick_of {s : State} (h : s.power.vreset = false) : s.vresetTick = s := if_neg (by rw [h]; decide)

/-- The boundary with no board reset due. -/
theorem State.standing_tickDue {s : State} (h : s.power.vreset = false) :
    s.tickDue.standing =
      if s.time.running then { s.standing with tick := (s.standing.tick + 1) % 2 ^ 64 } else s.standing := by
  have hraw : s.rawTick.standing = s.standing := s.standing_rawTick
  have hrun : s.rawTick.time.running = s.time.running := congrArg Standing.running hraw
  unfold State.tickDue
  rw [hrun]
  split
  · have hwork := s.rawTick.standing_tickWork
    rw [State.vresetTick_of ((congrArg Standing.vreset hwork).trans ((congrArg Standing.vreset hraw).trans h)), hwork, hraw]
  · rw [State.vresetTick_of ((congrArg Standing.vreset hraw).trans h), hraw]

theorem State.rawNext_eq : s.tickDue.time.raw = s.rawNext := (kept_tickDue s).raw

/-- With no cold start under way the boundary ends where its own work does. -/
theorem tickBoundary_of_idle {s : State} (h : s.mgmt.booting = none) : tickBoundary s = s.tickDue :=
  (tickBoundary_eq s).trans (bootStep_idle _ ((kept_tickDue s).boot h))

/-- The raw counter after a boundary: four on, or taken to the phase of the tick by a step of a cold start. -/
theorem tickBoundary_raw :
    (tickBoundary s).time.raw = s.rawNext ∨ ∃ env, (tickBoundary s).time.raw = bootRaw env s.rawNext := by
  rw [tickBoundary_eq, ← s.rawNext_eq]
  exact (kept_bootStep s.tickDue (Kept.refl _)).imp (fun h => h.raw) (fun ⟨env, h⟩ => ⟨env, h.raw⟩)

theorem tickBoundary_pending : (tickBoundary s).pending = s.pending := by
  have hdue : s.tickDue.pending = s.pending := (kept_tickDue s).pending
  rw [tickBoundary_eq]
  rcases kept_bootStep s.tickDue (Kept.refl _) with h | ⟨env, h⟩
  · exact h.pending.trans hdue
  · exact h.pending.trans hdue

end

/-- Settles O2: the raw counter by what a boundary keeps, the count of ticks by its standing. -/
theorem idleStepIsTickBoundary : Obligations.IdleStepIsTickBoundary := by
  unfold Obligations.IdleStepIsTickBoundary
  intro s hpending
  refine ⟨tickBoundary s, by rw [step, hpending], (tickBoundary_pending s).trans hpending, fun hboot => ?_, ?_,
    fun hboot hvreset _ _ => ?_⟩
  · rw [tickBoundary_of_idle hboot]
    exact s.rawNext_eq
  · rcases tickBoundary_raw s with h | ⟨env, h⟩
    · exact ⟨0, by decide, .inl h⟩
    · exact ⟨(env.phase % 4 + 4 - s.rawNext % 4) % 4, Nat.mod_lt _ (by decide), .inr h⟩
  · rw [tickBoundary_of_idle hboot]
    have hdue := congrArg Standing.tick (State.standing_tickDue hvreset)
    rw [apply_ite Standing.tick] at hdue
    exact hdue

end Sys2Proof.Machine
end

section
/-! Cold start, resets, power states, supply and temperature (R373 to R378, R391 to R406). -/
namespace Sys2Proof.Machine

/-! ## What the journal leaves of the parts that a thermal shutdown powers off (R389) -/

/-- The power block, the cores with their runs, and which dies have lost what they hold. -/
structure PoweredParts where
  power : Power
  cores : Tbl Core
  runs : Tbl ArrayRun
  lost : Nat → Bool

/-- Those parts of a state. -/
def State.poweredParts (s : State) : PoweredParts := ⟨s.power, s.cores, s.runs, fun d => (s.die d).lost⟩

section
variable (s : State)

/-- A record update of other parts. -/
theorem State.poweredParts_upd {pending freeCtr out time regs frames heads starts msgs convs cache replies pairs handles
    flights dmas fevals ctxs boom eports lports quads units twin mgmt} :
    State.poweredParts ⟨pending, freeCtr, out, time, regs, frames, heads, starts, msgs, convs, cache, replies, pairs, handles, s.cores,
      flights, dmas, fevals, s.runs, ctxs, boom, eports, lports, quads, s.dies, units, twin, mgmt, s.power⟩ = s.poweredParts := rfl

theorem State.poweredParts_when {c : Prop} [Decidable c] {t u : State} (h : u.poweredParts = t.poweredParts) :
    (if c then u else t).poweredParts = t.poweredParts := by
  split
  · exact h
  · rfl

theorem State.poweredParts_setDie {d : Nat} {x : DieSt} (hx : x.lost = (s.die d).lost) :
    (s.setDie d x).poweredParts = s.poweredParts := by
  have hlost : (fun j => ((s.setDie d x).die j).lost) = fun j => (s.die j).lost := by
    funext j
    by_cases hj : j = d
    · subst hj
      rw [State.setDie_die_self, hx]
    · rw [State.setDie_die_ne s d x j hj]
  exact congrArg (PoweredParts.mk s.power s.cores s.runs) hlost

theorem DieSt.putByte_lost (y : DieSt) (a : Nat) (b : Byte) : (y.putByte a b).lost = y.lost := by
  unfold DieSt.putByte
  split <;> rfl

theorem DieSt.heal_lost (y : DieSt) (a : Nat) : (y.heal a).lost = y.lost := rfl

theorem State.poweredParts_dramWrite (a : Nat) (b : Byte) : (s.dramWrite a b).poweredParts = s.poweredParts := by
  unfold State.dramWrite
  split
  · rfl
  · dsimp only
    split
    · exact s.poweredParts_setDie (DieSt.putByte_lost ..)
    · exact (State.poweredParts_setDie _ (DieSt.putByte_lost ..)).trans (s.poweredParts_setDie (DieSt.putByte_lost ..))

theorem State.poweredParts_healWord (a : Nat) : (s.healWord a).poweredParts = s.poweredParts := by
  unfold State.healWord
  split
  · rfl
  · dsimp only
    split
    · exact s.poweredParts_setDie (DieSt.heal_lost ..)
    · exact (State.poweredParts_setDie _ (DieSt.heal_lost ..)).trans (s.poweredParts_setDie (DieSt.heal_lost ..))

theorem State.poweredParts_devWrite (a : Nat) (l : List Byte) : (s.devWrite a l).poweredParts = s.poweredParts := by
  induction l generalizing s a with
  | nil => rfl
  | cons b t ih =>
    exact (ih _ _).trans ((State.poweredParts_dramWrite ..).trans (State.poweredParts_when (s.poweredParts_healWord a)))

theorem State.poweredParts_postV (q idx : Nat) (items : List (Nat × Nat)) (vec : Option Nat) :
    (s.postV q idx items vec).poweredParts = s.poweredParts := by
  unfold State.postV
  dsimp only
  split
  · rfl
  · exact State.poweredParts_when rfl

theorem State.poweredParts_post (q idx : Nat) (items : List (Nat × Nat)) : (s.post q idx items).poweredParts = s.poweredParts :=
  s.poweredParts_postV ..

theorem State.poweredParts_drainJrnl (fuel : Nat) : (s.drainJrnl fuel).poweredParts = s.poweredParts := by
  induction fuel generalizing s with
  | zero => rfl
  | succ fuel ih =>
    unfold State.drainJrnl
    dsimp only
    split
    · rfl
    · split
      · rfl
      · exact (ih _).trans ((State.poweredParts_upd _).trans (State.poweredParts_devWrite ..))

theorem State.poweredParts_refillJrnl (fuel : Nat) : (s.refillJrnl fuel).poweredParts = s.poweredParts := by
  induction fuel generalizing s with
  | zero => rfl
  | succ fuel ih =>
    unfold State.refillJrnl
    split
    · rfl
    · split
      · exact (ih _).trans rfl
      · rfl

theorem State.poweredParts_jrnlLevels : s.jrnlLevels.poweredParts = s.poweredParts := by
  unfold State.jrnlLevels
  exact (State.poweredParts_upd _).trans
    ((State.poweredParts_when (State.poweredParts_post ..)).trans (State.poweredParts_when (State.poweredParts_post ..)))

theorem State.poweredParts_settleJrnl : s.settleJrnl.poweredParts = s.poweredParts := by
  rw [State.settleJrnl, State.poweredParts_jrnlLevels, State.poweredParts_drainJrnl, State.poweredParts_refillJrnl,
    State.poweredParts_drainJrnl]

theorem State.poweredParts_journal (kind sub target : Nat) (value : Option (List Byte)) (origin : Nat) :
    (s.journal kind sub target value origin).poweredParts = s.poweredParts := by
  have hroom : s.makeRoom.poweredParts = s.poweredParts := State.poweredParts_when rfl
  unfold State.journal
  dsimp only
  split
  · exact (State.poweredParts_settleJrnl _).trans ((State.poweredParts_upd _).trans hroom)
  · exact (State.poweredParts_settleJrnl _).trans ((State.poweredParts_upd _).trans hroom)

end

/-! ## Power-on and the cold start (R373 to R378, R404) -/

/-- The pins' levels leave the device; nothing else changes. -/
theorem State.drivePins_eq (s : State) (t : Tbl Tpo) (level : Bool) :
    s.drivePins t level = { s with out := (s.drivePins t level).out } := by
  unfold State.drivePins
  generalize t.filter (fun x => x.2.level) = l
  induction l generalizing s with
  | nil => rfl
  | cons x l ih => exact (ih (s.emit (.pulse x.1 level))).trans rfl

/-- A cold start's stage 2: identity and keys are known. -/
theorem State.standing_bootFirmware (s : State) (env : ColdEnv) (f : FwSlot) :
    (s.bootFirmware env f).standing =
      { s.standing with stage := 2, svn := f.svn, fwDigest := f.digest, modelKeys := keysOf env } := by
  unfold State.bootFirmware
  dsimp only
  split <;> simp

/-- Stage 4: the units have their places, and the temperatures are read. -/
theorem State.standing_bootUnits (s : State) (env : ColdEnv) :
    (s.bootUnits env).standing = { s.standing with stage := 4, temps := env.temps } := by
  simp [State.bootUnits]

/-- Stage 5: the arithmetic domain runs. -/
theorem State.standing_bootTick (s : State) (env : ColdEnv) :
    (s.bootTick env).standing =
      { s.standing with stage := 5, running := true, tick := 0, phase := env.phase % 4 } := by
  unfold State.bootTick
  dsimp only
  split <;> simp

/-- Stage 7: READY. -/
theorem State.standing_bootReady (s : State) :
    s.bootReady.standing = { s.standing with stage := 7, ready := true, booting := none } := by
  unfold State.bootReady
  dsimp only
  split <;> simp

/-- The step that a cold start's stage names. -/
theorem State.bootStep_of {s : State} {env : ColdEnv} (h : s.mgmt.booting = some env) :
    (s.mgmt.stage = 0 → bootSlot env = none → s.bootStep = { s with mgmt.stage := 1, mgmt.booting := none }) ∧
    (∀ f, s.mgmt.stage = 0 → bootSlot env = some f → s.bootStep = s.bootFirmware env f) ∧
    (s.mgmt.stage = 2 → s.bootStep = { s with mgmt.stage := 3 }) ∧
    (s.mgmt.stage = 3 → s.bootStep = s.bootUnits env) ∧
    (s.mgmt.stage = 4 → s.bootStep = s.bootTick env) ∧
    (s.mgmt.stage = 5 → epsOn s.regs.cfg ≠ [] → s.bootStep = { s with mgmt.stage := 6 }) ∧
    (s.mgmt.stage = 6 ∨ s.mgmt.stage = 5 ∧ epsOn s.regs.cfg = [] → s.bootStep = s.bootReady) := by
  unfold State.bootStep
  rw [h]
  dsimp only
  refine ⟨fun hs hb => ?_, fun f hs hb => ?_, fun hs => ?_, fun hs => ?_, fun hs => ?_, fun hs he => ?_, fun hs => ?_⟩
  · rw [hs, hb]
    rfl
  · rw [hs, hb]
    rfl
  · rw [hs]
    rfl
  · rw [hs]
    rfl
  · rw [hs]
    rfl
  · rw [hs]
    exact if_neg he
  · rcases hs with hs | ⟨hs, he⟩
    · rw [hs]
      rfl
    · rw [hs]
      exact if_pos he

theorem bootSlot_both {env : ColdEnv} (ha : slotOk env env.slotA = true) (hb : slotOk env env.slotB = true) :
    bootSlot env = some (if env.slotA.svn < env.slotB.svn then env.slotB else env.slotA) := by
  rw [bootSlot, ha, hb]

/-- Before the arithmetic domain runs a boundary moves the raw counter on, and no more. -/
theorem State.tickDue_stopped {s : State} (hrun : s.time.running = false) (haon : s.power.aon = true)
    (hv : s.power.vreset = false) : s.tickDue = s.atRaw ((s.time.raw + 4) % 2 ^ 64) := by
  have hraw : s.rawTick = s.atRaw ((s.time.raw + 4) % 2 ^ 64) := by
    rw [State.rawTick]
    simp only [hrun, Bool.false_eq_true, if_false, haon, if_true]
  have hstop : ¬(s.atRaw ((s.time.raw + 4) % 2 ^ 64)).time.running = true := Bool.eq_false_iff.mp hrun
  rw [State.tickDue, hraw, if_neg hstop]
  exact State.vresetTick_of hv

/-! ## Function Level Reset (R379) -/

theorem State.postV_dma (s : State) (q idx : Nat) (items : List (Nat × Nat)) (vec : Option Nat) :
    (s.postV q idx items vec).mgmt.dma = s.mgmt.dma := by
  unfold State.postV
  dsimp only
  repeat' split
  all_goals rfl

/-- A channel that is stopped with ABORTED where it is busy. -/
def DmaCh.aborted (x : DmaCh) : DmaCh := if x.busy then { x with busy := false, err := 4 } else x

theorem DmaCh.aborted_busy (x : DmaCh) : x.aborted.busy = false := by
  unfold DmaCh.aborted
  split
  · rfl
  · next h => exact Bool.eq_false_iff.mpr h

theorem DmaCh.aborted_err {x : DmaCh} (h : x.busy = true) : x.aborted.err = 4 := by
  rw [DmaCh.aborted, if_pos h]

theorem DmaCh.aborted_aborted (x : DmaCh) : x.aborted.aborted = x.aborted := by
  rw [DmaCh.aborted, if_neg (by rw [x.aborted_busy]; exact Bool.false_ne_true)]

theorem State.dmaStop_dmaCh (s : State) (n m : Nat) :
    (s.dmaStop n 4).dmaCh m = if m = n then (s.dmaCh n).aborted else s.dmaCh m := by
  unfold State.dmaStop DmaCh.aborted
  dsimp only
  by_cases hbusy : (s.dmaCh n).busy = true
  · have hpost (t : State) : (t.dmaPost n).dmaCh m = t.dmaCh m := by
      rw [State.dmaCh, State.dmaPost, State.postV_dma]
      rfl
    rw [if_pos hbusy, if_pos hbusy, hpost]
    split
    · next h => rw [h, State.setDmaCh_dmaCh_self]
    · next h => exact State.setDmaCh_dmaCh_ne _ _ _ _ h
  · rw [if_neg hbusy, if_neg hbusy]
    split
    · next h => rw [h]
    · rfl

/-- Channels stopped one after another. -/
theorem State.dmaStops_dmaCh (l : List Nat) (s : State) {m : Nat} (hm : m ∈ l) :
    (l.foldl (fun s n => s.dmaStop n 4) s).dmaCh m = (s.dmaCh m).aborted := by
  have hall (l : List Nat) (s : State) :
      (l.foldl (fun s n => s.dmaStop n 4) s).dmaCh m = if m ∈ l then (s.dmaCh m).aborted else s.dmaCh m := by
    induction l generalizing s with
    | nil => rfl
    | cons n l ih =>
      rw [List.foldl_cons, ih, State.dmaStop_dmaCh]
      by_cases hn : m = n <;> by_cases hl : m ∈ l <;> simp [hn, hl, DmaCh.aborted_aborted]
  rw [hall l s, if_pos hm]

theorem State.dmaCh_of_dma {s t : State} (h : t.mgmt.dma = s.mgmt.dma) (n : Nat) : t.dmaCh n = s.dmaCh n := by
  rw [State.dmaCh, State.dmaCh, h]

theorem State.flr_dma (s : State) : s.flr.mgmt.dma = ((List.range 4).foldl (fun s n => s.dmaStop n 4) s).mgmt.dma := by
  rw [State.flr]

theorem State.flr_dmaCh (s : State) {n : Nat} (hn : n < 4) : s.flr.dmaCh n = (s.dmaCh n).aborted := by
  rw [State.dmaCh_of_dma s.flr_dma]
  exact State.dmaStops_dmaCh _ s (List.mem_range.mpr hn)

/-! ## Port reset (R391) -/

theorem State.act_quads_waits {s : State} (h : s.commitBoundary.mgmt.acts ≠ []) (mask : Nat) :
    s.act (.quads mask) = s.commitBoundary.queueAct (.quads mask) := by
  simp only [State.act, MgmtAct.isRpr, Bool.false_and, Bool.false_eq_true, if_false, h]

theorem State.act_quads_runs {s : State} (h : s.commitBoundary.mgmt.acts = []) (mask : Nat) :
    s.act (.quads mask) = s.commitBoundary.quadReset mask := by
  simp only [State.act, MgmtAct.isRpr, Bool.false_and, Bool.false_eq_true, if_false, h, if_true, State.actNow, MgmtAct.journaled,
    Bool.and_false, State.runAct]

/-! ## Power requests (R392) -/

section
variable {s : State}

/-- A power request after a commit that is due: behind commands that wait or while the journal is full, or now. -/
theorem State.act_power_waits (h : s.commitBoundary.mgmt.acts ≠ [] ∨ s.commitBoundary.mgmt.jr.full = true) (r : Nat) :
    s.act (.power r 1) = s.commitBoundary.queueAct (.power r 1) := by
  simp only [State.act, MgmtAct.isRpr, Bool.false_and, Bool.false_eq_true, if_false, State.actNow, MgmtAct.journaled, Bool.and_true]
  split
  · next hacts => rw [if_pos (h.resolve_left (not_not_intro hacts))]
  · rfl

theorem State.act_power_runs (ha : s.commitBoundary.mgmt.acts = []) (hj : s.commitBoundary.mgmt.jr.full = false) (r : Nat) :
    s.act (.power r 1) = s.commitBoundary.powerReq r 1 := by
  simp only [State.act, MgmtAct.isRpr, Bool.false_and, Bool.false_eq_true, if_false, State.actNow, ha, hj, if_true, State.runAct]

end

/-- The request is written, whatever becomes of it. -/
def State.powerAsked (s : State) (r : Nat) : State := s.putRw Reg.PWR_CTL 31 30 r

/-- The transition that a request starts. -/
def State.powerGoes (s : State) (r : Nat) : State :=
  { s.powerAsked r with power.target := some r, power.holdTrans := true, power.origin := 1 }

section
variable {s : State} {r : Nat}

theorem State.powerReq_busy (h : s.power.target.isSome = true) :
    s.powerReq r 1 = { s.powerAsked r with power.refused := 3 } := if_pos h

theorem State.powerReq_same (h : s.power.target = none) (hr : r = s.power.state) : s.powerReq r 1 = s.powerAsked r :=
  (if_neg (show ¬s.power.target.isSome = true by rw [h]; exact Bool.false_ne_true)).trans (if_pos hr)

/-- A request for another state with no transition under way. -/
theorem State.powerReq_other (h : s.power.target = none) (hr : r ≠ s.power.state) :
    s.powerReq r 1 =
      if r = 0 then s.powerGoes r
      else if s.twin.state = 2 then { s.powerAsked r with power.refused := 2 }
      else if r = 1 then (if s.power.state = 0 then (s.powerGoes r).idleDue else s.powerAsked r)
      else if r = 2 then
        (if sumBy (s.powerAsked r).poolFree (s.powerAsked r).diesIn < dozeBytes then { s.powerAsked r with power.refused := 1 }
        else (s.powerGoes r).drainAll)
      else s.powerAsked r :=
  (if_neg (show ¬s.power.target.isSome = true by rw [h]; exact Bool.false_ne_true)).trans (if_neg hr)

end

/-! ## Supply (R394, R405) -/

/-- A rail that the comparison covers reads so. -/
def State.anyRail (s : State) (rails : List Rail) (r : Rail) : Bool := (List.range 6).any (fun i => s.railOf rails i == r)

section
variable {s : State} {rails : List Rail}

theorem State.supplySample_vreset (hrun : s.time.running = true) (h : s.anyRail rails .reset = true) :
    s.supplySample rails = { s.supplyHold.leaveService with power.vreset := true } :=
  (if_neg (show ¬(!s.time.running) = true by rw [hrun]; exact Bool.false_ne_true)).trans (if_pos h)

/-- No covered rail is below VRESET: the others decide. -/
theorem State.supplySample_above (hrun : s.time.running = true) (h : s.anyRail rails .reset = false) :
    s.supplySample rails =
      if (rails.drop 6).contains .reset then s.boardReset false
      else if s.anyRail rails .warn then
        { s with power.low := true, power.goodSince := none, power.warnDue := s.power.warnDue || !s.power.low }
      else
        let since := if (s.power.holdSupply ∨ s.power.warnDue) ∧ s.power.goodSince.isNone then some s.time.raw else s.power.goodSince
        { s with power.low := false, power.goodSince := since } :=
  (if_neg (show ¬(!s.time.running) = true by rw [hrun]; exact Bool.false_ne_true)).trans
    (if_neg (show ¬s.anyRail rails .reset = true by rw [h]; exact Bool.false_ne_true))

/-- Every rail is good: from when the hold's release counts is `since`. -/
theorem State.supplySample_good (hrun : s.time.running = true) (h : s.anyRail rails .reset = false)
    (hl : (rails.drop 6).contains .reset = false) (hw : s.anyRail rails .warn = false) {since : Option Nat}
    (hsince : (if (s.power.holdSupply ∨ s.power.warnDue) ∧ s.power.goodSince.isNone then some s.time.raw else s.power.goodSince) = since) :
    s.supplySample rails = { s with power.low := false, power.goodSince := since } := by
  rw [State.supplySample_above hrun h, if_neg (Bool.eq_false_iff.mp hl), if_neg (Bool.eq_false_iff.mp hw), hsince]

theorem State.supplyHold_due (h : s.power.warnDue = true) :
    let s1 := { s with power.warnDue := false }
    s.supplyHold = ((if s.power.holdSupply then s1 else { s1.warnAll with power.holdSupply := true }).count
      Reg.PWR_CNT_WARN).powerEvent 0 := if_pos h

theorem State.supplyOk_of {t : Nat} (hsince : s.power.goodSince = some t) (hhold : s.power.holdSupply = true)
    (hdue : t + 10000 ≤ s.time.raw) (hchange : s.changeDue = false) :
    s.supplyOk = (State.powerEvent { s with power.holdSupply := false, power.goodSince := none } 1).settle := by
  rw [State.supplyOk, hsince]
  exact if_pos ⟨hhold, hdue, by rw [hchange]; rfl⟩

end

/-! ## Temperature (R395) -/

/-- The sensors' values of a sample. -/
def sensorsOf (temps : List Nat) : List Nat := (List.range 5).map (fun d => temps.getD d 0 % 2048)

/-- The sensors are read into their registers. -/
def State.sensed (s : State) (temps : List Nat) : State :=
  (List.range 5).foldl (fun (s : State) d => s.peak (Reg.PWR_TEMP d) 26 16 ((sensorsOf temps).getD d 0))
    { s with power.temps := sensorsOf temps }

theorem State.peak_time (s : State) (off hi lo v : Nat) : (s.peak off hi lo v).time = s.time := by
  unfold State.peak
  split <;> rfl

theorem State.peak_power (s : State) (off hi lo v : Nat) : (s.peak off hi lo v).power = s.power := by
  unfold State.peak
  split <;> rfl

theorem State.sensed_time (s : State) (temps : List Nat) : (s.sensed temps).time = s.time :=
  foldl_keeps State.time _ (fun s _ => s.peak_time ..) _ _

theorem State.sensed_power (s : State) (temps : List Nat) : (s.sensed temps).power = { s.power with temps := sensorsOf temps } :=
  foldl_keeps State.power _ (fun s _ => s.peak_power ..) _ _

/-- A sample of a running device that is not shut down. -/
theorem State.tjSample_of {s : State} {temps : List Nat} (hrun : s.time.running = true) (htherm : s.power.therm ≠ 3) :
    s.tjSample temps =
      if thShut ≤ (sensorsOf temps).foldl max 0 then ((s.sensed temps).thermSteps ((sensorsOf temps).foldl max 0) 2).thermShut
      else ((s.sensed temps).thermSteps ((sensorsOf temps).foldl max 0) 2).settle := by
  have hgo : ¬((!(s.sensed temps).time.running) = true ∨ (s.sensed temps).power.therm = 3) := by
    rw [s.sensed_time, s.sensed_power, hrun]
    simpa using htherm
  exact if_neg hgo

/-- The state in which a thermal shutdown is journaled: the tract dies are powered off. -/
def State.poweredOff (s : State) : State :=
  let s1 := s.leaveService
  { s1 with power.therm := 3, power.thermN := false, power.vreset := true
            dies := (List.range 4).foldl (fun t d => Tbl.put t d { lost := true }) s1.dies
            cores := [], flights := [], dmas := [], fevals := [], runs := [] }

theorem Tbl.getD_puts {α : Type} (x d0 : α) {k : Nat} (l : List Nat) (t : Tbl α) :
    Tbl.getD (l.foldl (fun t n => Tbl.put t n x) t) k d0 = if k ∈ l then x else Tbl.getD t k d0 := by
  induction l generalizing t with
  | nil => rfl
  | cons n l ih =>
    rw [List.foldl_cons, ih]
    by_cases hn : k = n
    · simp [hn]
    · simp [hn, Tbl.getD_put_ne]

theorem State.poweredOff_lost (s : State) {d : Nat} (hd : d < 4) : (s.poweredOff.die d).lost = true := by
  rw [State.die, State.poweredOff, Tbl.getD_puts, if_pos (List.mem_range.mpr hd)]

theorem State.poweredParts_thermShut (s : State) : s.thermShut.poweredParts = s.poweredOff.poweredParts :=
  State.poweredParts_journal ..

/-! ## The statement -/

/-- Settles O60: power and the cold start by their states, the steps of a boot by the standing they leave, the resets, requests and
samples by the branch that the state takes. -/
theorem bootResetsAndPowerAct : Obligations.BootResetsAndPowerAct := by
  unfold Obligations.BootResetsAndPowerAct
  refine ⟨?cold, ?slot, ?reset, ?waits, ?power, ?done, ?supply, ?tj, ?shut, ?jtag⟩
  case cold =>
    refine fun s => ⟨?on, ?off, ?board, fun env hin haon => ?start, fun env h => ?steps, fun hp hrun haon hv => ?step⟩
    case on =>
      refine ⟨s.powerOn true, rfl, ?_⟩
      rw [State.powerOn, State.drivePins_eq]
      exact ⟨rfl, rfl, rfl, rfl, rfl, rfl⟩
    case off =>
      refine ⟨s.powerOn false, rfl, ?_⟩
      rw [State.powerOn, State.drivePins_eq]
      exact ⟨rfl, rfl, rfl, rfl⟩
    case board =>
      refine ⟨s.boardReset true, rfl, ?_⟩
      rw [State.boardReset, State.drivePins_eq]
      exact ⟨rfl, rfl, rfl, rfl, rfl, rfl, rfl, rfl, rfl, rfl, rfl, rfl, Bool.and_false _⟩
    case start => exact congrArg Host.Outcome.next (if_neg (by rw [hin, haon]; decide))
    case steps =>
      obtain ⟨hnone, hfirm, h3, hunits, htick, h6, hready⟩ := State.bootStep_of h
      refine ⟨hnone, fun f hs hb => ?_, h3, fun hs => ?_, fun hs => ?_, h6, fun hs => ?_⟩
      · have hst := s.standing_bootFirmware env f
        rw [hfirm f hs hb]
        exact ⟨congrArg Standing.stage hst, congrArg Standing.svn hst, congrArg Standing.fwDigest hst,
          congrArg Standing.modelKeys hst⟩
      · have hst := s.standing_bootUnits env
        rw [hunits hs]
        exact ⟨congrArg Standing.stage hst, congrArg Standing.temps hst⟩
      · have hst := s.standing_bootTick env
        rw [htick hs]
        exact ⟨congrArg Standing.stage hst, congrArg Standing.running hst, congrArg Standing.tick hst,
          congrArg Standing.phase hst⟩
      · have hst := s.standing_bootReady
        rw [hready hs]
        exact ⟨congrArg Standing.ready hst, congrArg Standing.stage hst, congrArg Standing.booting hst⟩
    case step =>
      have hstep : step s = .next (tickBoundary s) := by rw [step, hp]
      exact hstep.trans (congrArg Host.Outcome.next ((tickBoundary_eq s).trans (congrArg State.bootStep (State.tickDue_stopped hrun haon hv))))
  case slot => exact fun env ha hb => ⟨fun h => (bootSlot_both ha hb).trans (congrArg some (if_pos h)),
      fun h => (bootSlot_both ha hb).trans (congrArg some (if_neg (Nat.not_lt.mpr h)))⟩
  case reset =>
    refine fun s => ⟨rfl, fun h => ?due, fun hr hi => ?soft, fun mask h => ?queued, fun mask h => ?quads, s.flr, rfl, rfl, rfl,
      fun n hn => ?dma⟩
    case due =>
      rw [State.mgmtDue, h]
      exact if_neg (by rw [show MgmtAct.journaled (.soft 1) = false from rfl, Bool.and_false]; decide)
    case soft => exact if_neg (by rw [hr, hi]; decide)
    case queued => exact congrArg Host.Outcome.next (State.act_quads_waits h mask)
    case quads => exact congrArg Host.Outcome.next (State.act_quads_runs h mask)
    case dma =>
      rw [s.flr_dmaCh hn]
      exact ⟨DmaCh.aborted_busy _, DmaCh.aborted_err⟩
  case waits =>
    exact fun s0 h => ⟨congrArg Host.Outcome.next (State.act_power_waits h 0), congrArg Host.Outcome.next (State.act_power_waits h 1),
      congrArg Host.Outcome.next (State.act_power_waits h 2)⟩
  case power =>
    intro s0 ha hj
    dsimp only
    have hrun (r : Nat) : s0.act (.power r 1) = s0.commitBoundary.powerReq r 1 := State.act_power_runs ha hj r
    have hnext {r : Nat} {t : State} (h : s0.commitBoundary.powerReq r 1 = t) :=
      congrArg (Host.Outcome.next (φ := Fault) (ρ := Refusal)) ((hrun r).trans h)
    refine ⟨fun h => ⟨hnext (State.powerReq_busy h), hnext (State.powerReq_busy h), hnext (State.powerReq_busy h)⟩, fun h => ?_⟩
    have hother {r : Nat} (hr : s0.commitBoundary.power.state ≠ r) := State.powerReq_other h (Ne.symm hr)
    refine ⟨fun hs => hnext (State.powerReq_same h hs.symm), fun hs => hnext (State.powerReq_same h hs.symm),
      fun hs => hnext (State.powerReq_same h hs.symm), fun hs => hnext ((hother hs).trans (if_pos rfl)),
      fun ht => ⟨fun hs => ?_, fun hs => ?_⟩, fun ht => ⟨fun hs => ?_, fun hs => ?_, fun hs hp => ?_, fun hs hp => ?_⟩⟩
    · exact hnext ((hother hs).trans ((if_neg (by decide)).trans (if_pos ht)))
    · exact hnext ((hother hs).trans ((if_neg (by decide)).trans (if_pos ht)))
    · exact hnext ((hother (by omega)).trans ((if_neg (by decide)).trans ((if_neg ht).trans ((if_pos rfl).trans (if_pos hs)))))
    · exact hnext ((hother (by omega)).trans
        ((if_neg (by decide)).trans ((if_neg ht).trans ((if_pos rfl).trans (if_neg (by omega))))))
    · exact hnext ((hother hs).trans
        ((if_neg (by decide)).trans ((if_neg ht).trans ((if_neg (by decide)).trans ((if_pos rfl).trans (if_pos hp))))))
    · exact hnext ((hother hs).trans ((if_neg (by decide)).trans
        ((if_neg ht).trans ((if_neg (by decide)).trans ((if_pos rfl).trans (if_neg (Nat.not_lt.mpr hp)))))))
  case done =>
    refine fun s => ⟨fun ht hq ho => ?_, fun ht hs => ?_, fun ht hs => ?_⟩
    · exact congrArg Host.Outcome.next (if_pos ⟨ht, hq, List.all_eq_true.mpr ho⟩)
    · exact congrArg Host.Outcome.next ((if_pos ht).trans (by rw [if_pos hs]))
    · exact congrArg Host.Outcome.next ((if_pos ht).trans (by rw [if_neg hs]))
  case supply =>
    intro s rails hrun
    dsimp only
    refine ⟨fun h => ?_, fun h hl => ?_, fun h hl => ⟨fun hw => ?_, fun hw hh hs => ?_, fun hw hh => ?_⟩,
      fun hw => ⟨fun hh => ?_, fun hh => ?_⟩, fun t hs hh hd hc => ?_⟩
    · exact congrArg Host.Outcome.next (State.supplySample_vreset hrun h)
    · exact congrArg Host.Outcome.next ((State.supplySample_above hrun h).trans (if_pos hl))
    · exact congrArg Host.Outcome.next ((State.supplySample_above hrun h).trans
        ((if_neg (Bool.eq_false_iff.mp hl)).trans (if_pos hw)))
    · exact congrArg Host.Outcome.next (State.supplySample_good hrun h hl hw (if_pos ⟨hh, by rw [hs]; rfl⟩))
    · have hkeep : ¬((s.power.holdSupply = true ∨ s.power.warnDue = true) ∧ s.power.goodSince.isNone = true) := by
        rcases hh with hs | ⟨h1, h2⟩
        · simp [Option.isSome_iff_ne_none.mp hs]
        · simp [h1, h2]
      exact congrArg Host.Outcome.next (State.supplySample_good hrun h hl hw (if_neg hkeep))
    · exact (State.supplyHold_due hw).trans (by rw [if_neg (Bool.eq_false_iff.mp hh)])
    · exact (State.supplyHold_due hw).trans (by rw [if_pos hh])
    · exact congrArg Host.Outcome.next (State.supplyOk_of hs hh hd hc)
  case tj =>
    intro s temps hrun htherm
    dsimp only
    refine ⟨fun h => ?_, fun h => ?_⟩
    · exact congrArg Host.Outcome.next ((State.tjSample_of hrun htherm).trans (if_neg (Nat.not_le.mpr h)))
    · exact congrArg Host.Outcome.next ((State.tjSample_of hrun htherm).trans (if_pos h))
  case shut =>
    intro s
    have hparts := s.poweredParts_thermShut
    have hpower : s.thermShut.power = s.poweredOff.power := congrArg PoweredParts.power hparts
    exact ⟨congrArg Power.therm hpower, congrArg Power.thermN hpower, congrArg Power.vreset hpower,
      congrArg PoweredParts.cores hparts, congrArg PoweredParts.runs hparts,
      fun d hd => (congrFun (congrArg PoweredParts.lost hparts) d).trans (s.poweredOff_lost hd)⟩
  case jtag => exact fun s auth u => ⟨rfl, rfl⟩

end Sys2Proof.Machine
end
